-- ==== Sys2Proof/Word.lean ====
section
/-! DEFINITION. The word types of the module (R3, R6): bytes, 32-bit words, 64-bit dwords, 512-byte rows, 128-lane masks. -/

namespace Sys2Proof

/-- A byte of memory or scratchpad. -/
abbrev Byte := BitVec 8
/-- "Word means 32 bits" (R6): an instruction word or a vector lane. -/
abbrev Word := BitVec 32
/-- "dword means 64 bits" (R6): a scalar register or a queue scalar. -/
abbrev Dword := BitVec 64
/-- A vector register, a queue row, an accumulator row: 4,096 bits, lane i in bits 32i+31 to 32i (R335). -/
abbrev Row := BitVec 4096
/-- A lane mask: bit i belongs to lane i (R335). -/
abbrev Mask := BitVec 128
/-- A text address: engine PCs are 18 bits wide (R58). -/
abbrev TextAddr := BitVec 18

end Sys2Proof
end

