-- ==== Sys2Proof/Config.lean ====
section
/-! DEFINITION. What the manual leaves to the implementation and the values it leaves open: opaque constants that nothing in Lean can evaluate
(DESIGN CHOICE, log entry 9). `State.freeCtr` numbers the values taken. -/

namespace Sys2Proof

/-- A free byte: the content of a byte that the manual leaves undefined. -/
opaque Config.freeByte : Nat → Byte
/-- A free dword. -/
opaque Config.freeDword : Nat → Dword
/-- A free signature of 4,096 bits (the attestation report of R492 is signed with a key the manual does not give). -/
opaque Config.freeSignature : Nat → BitVec 4096
/-- The far end of a wrap port, which the board's wiring fixes (R14): port keys are 6 × die key + port. -/
opaque Config.wrapPeer : Nat → Nat

/-- Type and virtual channel of a flit by its number: their codes are not laid down (R409; log entry 97). -/
opaque Config.flitHead : BitVec 16 → BitVec 16

/-- The certificate chain of the device identity key, which is made at manufacture (R492). -/
opaque Config.certChain : List Byte

/-- The digest of the board configuration, which the board's flash fixes (R484, R492). -/
opaque Config.boardDigest : BitVec 512

/-- A term of an attention merge whose l or o is infinite, of the two terms' m and elements (R399 speaks of reals only). -/
opaque Config.mergeInf : List Word → Word

end Sys2Proof
end

