-- ==== Sys2Proof/Machine/Fields.lean ====
section
/-! DEFINITION. Bit fields, sign extension, and the values that the fields of a word may take (R61, R69 to R73, R25, R26). -/

namespace Sys2Proof.Machine

/-- Bits [lo, lo + n) of a bit vector. -/
def bits {m : Nat} (w : BitVec m) (lo n : Nat) : BitVec n := w.extractLsb' lo n

/-- Two fields side by side, `a` above `b`, as a vector of `k` bits. -/
def cat {m n : Nat} (k : Nat) (a : BitVec m) (b : BitVec n) : BitVec k := (a ++ b).setWidth k

/-- A field as a natural number. -/
abbrev field {m : Nat} (w : BitVec m) (lo n : Nat) : Nat := (bits w lo n).toNat

/-- A one-bit field. -/
abbrev flag {m : Nat} (w : BitVec m) (lo : Nat) : Bool := w.getLsbD lo

/-- A field sign-extended to 64 bits (R61). -/
abbrev sext64 {m : Nat} (i : BitVec m) : Dword := i.signExtend 64

/-- A run of `n` scalars starting at `s` stays within s0 to s63 (R69, R428). -/
def runOk (s : BitVec 6) (n : Nat) : Bool := decide (s.toNat + n ≤ 64)

/-- A scope code of R278: .thr, .cl, .sl, .die, .dom. -/
def scopeOk (c : BitVec 3) : Bool := decide (c.toNat ≤ 4)

/-- A width code that sst accepts besides the row form (R297). -/
def storeWidth (w : BitVec 3) : Bool := w == 0 || w == 2 || w == 4 || w == 6

/-- A queue that SEQ produces (R73, R107). -/
def pushQueue (q : BitVec 4) : Bool := q == 0 || q == 1 || q == 4 || q == 7 || q == 9 || q == 10

/-- A queue whose consumer is SEQ (R73, R108). -/
def popQueue (q : BitVec 4) : Bool := q == 6 || q == 8

/-- A special register that wrsr may write (R70, R71). -/
def specialWritable (n : BitVec 12) : Bool :=
  (decide (0x010 ≤ n.toNat) && decide (n.toNat ≤ 0x013)) || n == 0x030 || n == 0x038 ||
  (decide (0x040 ≤ n.toNat) && decide (n.toNat ≤ 0x043))

/-- A special register number of R70. -/
def specialNumber (n : BitVec 12) : Bool :=
  specialWritable n || decide (n.toNat ≤ 7) || (decide (0x020 ≤ n.toNat) && decide (n.toNat ≤ 0x023)) ||
  (decide (0x028 ≤ n.toNat) && decide (n.toNat ≤ 0x02B)) || n == 0x031 || n == 0x032 || n == 0x039

/-- A configuration register with a writable field (R25). -/
def configWritable (n : BitVec 8) : Bool :=
  n == 0x18 || n == 0x20 || n == 0x28 || n == 0x30 || n == 0x31 || n == 0x38 || n == 0x48 || n == 0x50 || n == 0x51 ||
  n == 0x52 || n == 0x54 || n == 0x58 || n == 0x59 || n == 0x5B || n == 0x5C

/-- A configuration register number of R25. -/
def configNumber (n : BitVec 8) : Bool :=
  configWritable n || n == 0x00 || n == 0x01 || (decide (0x40 ≤ n.toNat) && decide (n.toNat ≤ 0x45)) || n == 0x5A

/-- A format code that vcvt.to and vcvt.from take (R344). -/
def vcvtFormat (b : BitVec 5) : Bool := decide (b.toNat ≤ 0x04) || (decide (0x09 ≤ b.toNat) && decide (b.toNat ≤ 0x0F))

/-- A format code that vqnt and vdqnt take (R346). -/
def blockFormat (b : BitVec 5) : Bool := decide (b.toNat ≤ 0x02) || (decide (0x0B ≤ b.toNat) && decide (b.toNat ≤ 0x0F))

/-- A sparsity pattern that vcomp takes: N from 1 to M ÷ 2 for M = 4, 8 or 16 (R355). -/
def patternOk (n : BitVec 4) (t : BitVec 2) : Bool := t != 3 && decide (1 ≤ n.toNat) && decide (n.toNat ≤ 2 ^ (t.toNat + 1))

end Sys2Proof.Machine
end

