-- ==== Sys2Proof/Machine/Flags.lean ====
section
/-! DEFINITION. Numbers (chapter Numbers, Planes and Scales): the element formats and their values, exact fractions, rounding in every mode with the
exception flags, conversions between formats, shared scales, and random draws. -/

namespace Sys2Proof.Machine

/-! ## Exact fractions -/

/-- An exact rational num ÷ den, not reduced; den is positive in every value formed here. -/
structure Frac where
  num : Int
  den : Nat
deriving DecidableEq, Repr, Inhabited

namespace FracOps
/-- An integer. -/
def ofInt (i : Int) : Frac := ⟨i, 1⟩
/-- x × 2^k for an integer k. -/
def scale (x : Frac) (k : Int) : Frac := if 0 ≤ k then ⟨x.num * 2 ^ k.toNat, x.den⟩ else ⟨x.num, x.den * 2 ^ (-k).toNat⟩
/-- Sum. -/
def add (x y : Frac) : Frac :=
  if x.den = y.den then ⟨x.num + y.num, x.den⟩
  else if y.den % x.den = 0 then ⟨x.num * (y.den / x.den : Nat) + y.num, y.den⟩
  else if x.den % y.den = 0 then ⟨x.num + y.num * (x.den / y.den : Nat), x.den⟩
  else ⟨x.num * y.den + y.num * x.den, x.den * y.den⟩
/-- Negation. -/
def neg (x : Frac) : Frac := ⟨-x.num, x.den⟩
/-- Difference. -/
def sub (x y : Frac) : Frac := add x (neg y)
/-- Product. -/
def mul (x y : Frac) : Frac := ⟨x.num * y.num, x.den * y.den⟩
/-- Quotient by a non-zero fraction. -/
def div (x y : Frac) : Frac :=
  if 0 ≤ y.num then ⟨x.num * y.den, x.den * y.num.toNat⟩ else ⟨-(x.num * y.den), x.den * (-y.num).toNat⟩
/-- Absolute value. -/
def abs (x : Frac) : Frac := ⟨x.num.natAbs, x.den⟩
/-- x < y. -/
def lt (x y : Frac) : Bool := decide (x.num * y.den < y.num * x.den)
/-- x ≤ y. -/
def le (x y : Frac) : Bool := decide (x.num * y.den ≤ y.num * x.den)
/-- The greater. -/
def max (x y : Frac) : Frac := if le x y then y else x
/-- ⌊log2⌋ of a positive fraction n ÷ d. -/
def log2 (n d : Nat) : Int :=
  let e : Int := (Nat.log2 n : Int) - Nat.log2 d
  let below := if 0 ≤ e then decide (n < d * 2 ^ e.toNat) else decide (n * 2 ^ (-e).toNat < d)
  if below then e - 1 else e
end FracOps

/-! ## Formats -/

/-- What a floating format does with its top encodings (R29): FP32, BF16, FP16 and E5M2 have infinities and NaNs; E4M3 has a NaN; FP6 and FP4 neither. -/
inductive TopCodes where
  | ieee | nanOnly | none
deriving DecidableEq, Repr, Inhabited

/-- A floating element format (R29): total width, fraction bits, bias, top encodings, the encoding of the largest finite magnitude, and the
canonical NaN (R42, R52). -/
structure FFmt where
  width : Nat
  wf : Nat
  bias : Nat
  top : TopCodes
  maxEnc : Nat
  nan : Nat
deriving DecidableEq, Repr, Inhabited

/-- An element format: floating, or an integer of `w` bits, signed or not, or ternary (R29, R30). -/
inductive EFmt where
  | flt (f : FFmt)
  | int (w : Nat) (signed : Bool)
  | t2
deriving DecidableEq, Repr, Inhabited

/-- FP32. -/
def fp32 : FFmt := ⟨32, 23, 127, .ieee, 0x7F7FFFFF, 0x7FC00000⟩
/-- BF16. -/
def bf16 : FFmt := ⟨16, 7, 127, .ieee, 0x7F7F, 0x7FC0⟩
/-- FP16. -/
def fp16 : FFmt := ⟨16, 10, 15, .ieee, 0x7BFF, 0x7E00⟩
/-- FP8 E4M3. -/
def e4m3 : FFmt := ⟨8, 3, 7, .nanOnly, 0x7E, 0x7F⟩
/-- FP8 E5M2. -/
def e5m2 : FFmt := ⟨8, 2, 15, .ieee, 0x7B, 0x7E⟩
/-- FP6 E3M2. -/
def e3m2 : FFmt := ⟨6, 2, 3, .none, 0x1F, 0⟩
/-- FP6 E2M3. -/
def e2m3 : FFmt := ⟨6, 3, 1, .none, 0x1F, 0⟩
/-- FP4 E2M1. -/
def e2m1 : FFmt := ⟨4, 1, 1, .none, 0x7, 0⟩

/-- The format of an element code (R29, R30); none when the code is reserved. -/
def eFmt (code : Nat) : Option EFmt :=
  match code with
  | 0x00 => some (.int 8 true)
  | 0x01 => some (.int 4 true)
  | 0x02 => some (.int 2 true)
  | 0x03 => some (.int 8 false)
  | 0x04 => some (.int 16 true)
  | 0x08 => some (.flt fp32)
  | 0x09 => some (.flt bf16)
  | 0x0A => some (.flt fp16)
  | 0x0B => some (.flt e4m3)
  | 0x0C => some (.flt e5m2)
  | 0x0D => some (.flt e3m2)
  | 0x0E => some (.flt e2m3)
  | 0x0F => some (.flt e2m1)
  | 0x10 => some .t2
  | _ => none

/-- Element width in bits. -/
def EFmt.width : EFmt → Nat
  | .flt f => f.width
  | .int w _ => w
  | .t2 => 2

/-- The width of an element code, 0 when the code is reserved. -/
def widthOf (code : Nat) : Nat := match eFmt code with | some f => f.width | none => 0

/-- The value of a floating encoding: NaN (signalling or quiet), an infinity, or a signed magnitude n ÷ d. -/
inductive FVal where
  | nan (signalling : Bool)
  | inf (neg : Bool)
  | num (neg : Bool) (n d : Nat)
deriving DecidableEq, Repr, Inhabited

/-- emin of a format (R29). -/
def FFmt.emin (f : FFmt) : Int := 1 - f.bias

/-- Decode an encoding (R29). An IEEE NaN is signalling when its top fraction bit is clear; E4M3's NaN is quiet. -/
def FFmt.decode (f : FFmt) (x : Nat) : FVal :=
  let neg := decide (x / 2 ^ (f.width - 1) % 2 = 1)
  let e := x / 2 ^ f.wf % 2 ^ (f.width - 1 - f.wf)
  let fr := x % 2 ^ f.wf
  let top := 2 ^ (f.width - 1 - f.wf) - 1
  let mag : FVal :=
    let m := if e = 0 then fr else fr + 2 ^ f.wf
    let p : Int := (if e = 0 then f.emin else (e : Int) - f.bias) - f.wf
    if 0 ≤ p then .num neg (m * 2 ^ p.toNat) 1 else .num neg m (2 ^ (-p).toNat)
  match f.top with
  | .ieee => if e = top then (if fr = 0 then .inf neg else .nan (decide (fr / 2 ^ (f.wf - 1) = 0))) else mag
  | .nanOnly => if e = top ∧ fr = 2 ^ f.wf - 1 then .nan false else mag
  | .none => mag

/-- The sign of a value (a NaN has none). -/
def FVal.neg : FVal → Bool
  | .nan _ => false
  | .inf s => s
  | .num s _ _ => s

/-- The fraction of a finite value, 0 of any other. -/
def FVal.frac : FVal → Frac
  | .num s n d => ⟨if s then -(n : Int) else n, d⟩
  | _ => ⟨0, 1⟩

/-- The value is NaN. -/
def FVal.isNan : FVal → Bool
  | .nan _ => true
  | _ => false

/-- The value is a signalling NaN. -/
def FVal.isSig : FVal → Bool
  | .nan s => s
  | _ => false

/-- The value is zero. -/
def FVal.isZero : FVal → Bool
  | .num _ 0 _ => true
  | _ => false

/-- The value is finite. -/
def FVal.finite : FVal → Bool
  | .num _ _ _ => true
  | _ => false

/-! ## Rounding and flags -/

/-- The exception flags, bit 4 NV, 3 DZ, 2 OF, 1 UF, 0 NX (R50). -/
abbrev Flags := BitVec 5
/-- NV. -/
def flNV : Flags := 0b10000
/-- DZ. -/
def flDZ : Flags := 0b01000
/-- OF. -/
def flOF : Flags := 0b00100
/-- UF. -/
def flUF : Flags := 0b00010
/-- NX. -/
def flNX : Flags := 0b00001

/-- The rounding modes of FPCTL.RM (R50) and stochastic rounding with its draw (R49). -/
inductive RMode where
  | rne | rz | rdn | rup
  | sr (draw : BitVec 32)
deriving DecidableEq, Repr, Inhabited

/-- FPCTL.RM. -/
def rmOf (rm : BitVec 2) : RMode := if rm = 0 then .rne else if rm = 1 then .rz else if rm = 2 then .rdn else .rup

/-- Whether a magnitude q + r ÷ d (r < d) of the given sign rounds up to q + 1. -/
def roundsUp (m : RMode) (neg : Bool) (q r d : Nat) : Bool :=
  match m with
  | .rne => decide (2 * r > d) || (decide (2 * r = d) && decide (q % 2 = 1))
  | .rz => false
  | .rdn => neg && decide (r ≠ 0)
  | .rup => !neg && decide (r ≠ 0)
  | .sr draw =>
    if r = 0 then false
    else if neg then !decide (draw.toNat * d < (d - r) * 2 ^ 32)
    else decide (draw.toNat * d < r * 2 ^ 32)

/-- n ÷ d × 2^k as a quotient and remainder with its divisor. -/
def divScaled (n d : Nat) (k : Int) : Nat × Nat × Nat :=
  let n' := if 0 ≤ k then n * 2 ^ k.toNat else n
  let d' := if 0 ≤ k then d else d * 2 ^ (-k).toNat
  (n' / d', n' % d', d')

/-- Round a positive magnitude to the format's grid (R29): the encoding of the magnitude with unbounded exponent, whether it is inexact, and whether it
rounded up. -/
def roundMag (f : FFmt) (m : RMode) (neg : Bool) (n d : Nat) : Nat × Bool × Bool :=
  let e0 := FracOps.log2 n d
  let e := if e0 < f.emin then f.emin else e0
  let (q, r, d') := divScaled n d ((f.wf : Int) - e)
  let up := roundsUp m neg q r d'
  ((((e + f.bias - 1).toNat) * 2 ^ f.wf + q + if up then 1 else 0), decide (r ≠ 0), up)

/-- The result is tiny after rounding: rounded to the format's precision with unbounded exponent it stays below 2^emin (R49). -/
def tinyAfter (f : FFmt) (m : RMode) (neg : Bool) (n d : Nat) (up : Bool) : Bool :=
  let e0 := FracOps.log2 n d
  if f.emin ≤ e0 then false
  else
    let (q, r, d') := divScaled n d ((f.wf : Int) - e0)
    let up' := match m with | .sr _ => up && decide (r ≠ 0) | _ => roundsUp m neg q r d'
    let q' := q + if up' then 1 else 0
    !(decide (e0 + 1 = f.emin) && decide (q' = 2 ^ (f.wf + 1)))

/-- The sign bit of a format. -/
def FFmt.signBit (f : FFmt) (neg : Bool) : Nat := if neg then 2 ^ (f.width - 1) else 0

/-- The infinity of a format with infinities. -/
def FFmt.infEnc (f : FFmt) : Nat := f.maxEnc + 1

/-- What an overflow gives: the infinity or the largest finite by mode where the format has infinities, the largest finite otherwise (R41, R49, R52). -/
def overflowEnc (f : FFmt) (m : RMode) (neg : Bool) : Nat :=
  match f.top with
  | .ieee =>
    match m with
    | .rz => f.maxEnc
    | .rdn => if neg then f.infEnc else f.maxEnc
    | .rup => if neg then f.maxEnc else f.infEnc
    | _ => f.infEnc
  | _ => f.maxEnc

/-- A magnitude lies beyond the largest finite of a format. -/
def FFmt.beyond (f : FFmt) (n d : Nat) : Bool :=
  match f.decode f.maxEnc with
  | .num _ mn md => decide (n * md > mn * d)
  | _ => false

/-- Round a non-zero magnitude with its sign to a format: encoding and flags (R49, R52). Under stochastic rounding a magnitude above the largest
finite rounds to nearest even. A format with infinities overflows as IEEE 754 has it, when the rounded value passes the largest finite; the others
overflow on every finite value beyond it (R52). -/
def roundNum (f : FFmt) (m : RMode) (neg : Bool) (n d : Nat) : Nat × Flags :=
  let far := f.beyond n d
  let m := match m with
    | .sr x => if far then RMode.rne else .sr x
    | m => m
  let (enc, inexact, up) := roundMag f m neg n d
  if enc > f.maxEnc ∨ (far ∧ f.top ≠ .ieee) then (f.signBit neg + overflowEnc f m neg, flOF ||| flNX)
  else
    (f.signBit neg + enc,
      (if inexact then flNX else 0) ||| (if inexact && tinyAfter f m neg n d up then flUF else 0))

/-- Round an exact real to a format; an exact zero takes the sign given (R41, R49). -/
def roundFrac (f : FFmt) (m : RMode) (x : Frac) (zeroNeg : Bool) : Nat × Flags :=
  if x.num = 0 then (f.signBit zeroNeg, 0) else roundNum f m (decide (x.num < 0)) x.num.natAbs x.den

/-- The sign of an exact zero sum of operands with signs `a` and `b`: theirs when equal, else + except toward −∞ (R49). -/
def zeroSign (m : RMode) (a b : Bool) : Bool := if a = b then a else decide (m = .rdn)

/-! ## FP32 operations -/

/-- The value of an FP32 lane. -/
def f32 (x : Word) : FVal := fp32.decode x.toNat

/-- The canonical NaN (R42, R49). -/
def nan32 : Word := 0x7FC00000

/-- An infinity of FP32. -/
def inf32 (neg : Bool) : Word := if neg then 0xFF800000 else 0x7F800000

/-- A zero of FP32. -/
def zero32 (neg : Bool) : Word := if neg then 0x80000000 else 0

/-- NV for a signalling operand. -/
def sigFlag (a : FVal) : Flags := if a.isSig then flNV else 0

/-- Round a fraction to FP32. -/
def round32 (m : RMode) (x : Frac) (zeroNeg : Bool) : Word × Flags :=
  let r := roundFrac fp32 m x zeroNeg
  (BitVec.ofNat 32 r.1, r.2)

/-- A value of FP32 with another sign. -/
def FVal.flip : FVal → FVal
  | .nan s => .nan s
  | .inf s => .inf !s
  | .num s n d => .num (!s) n d

/-- Sum of two values, rounded once (R341). -/
def addVal (m : RMode) (a b : FVal) : Word × Flags :=
  match a, b with
  | .nan s, y => (nan32, (if s then flNV else 0) ||| sigFlag y)
  | x, .nan s => (nan32, (if s then flNV else 0) ||| sigFlag x)
  | .inf s, .inf t => if s = t then (inf32 s, 0) else (nan32, flNV)
  | .inf s, _ => (inf32 s, 0)
  | _, .inf t => (inf32 t, 0)
  | x, y => round32 m (FracOps.add x.frac y.frac) (zeroSign m x.neg y.neg)

/-- Product of two values as a value, exact; `none` is the invalid 0 × ∞. -/
def mulVal (a b : FVal) : Option FVal :=
  match a, b with
  | .nan s, y => some (.nan (s || y.isSig))
  | x, .nan s => some (.nan (s || x.isSig))
  | .inf s, y => if y.isZero then none else some (.inf (s != y.neg))
  | x, .inf t => if x.isZero then none else some (.inf (x.neg != t))
  | .num s n d, .num t m e => some (.num (s != t) (n * m) (d * e))

/-- A value rounded once to FP32. -/
def roundVal (m : RMode) (v : FVal) : Word × Flags :=
  match v with
  | .nan s => (nan32, if s then flNV else 0)
  | .inf s => (inf32 s, 0)
  | .num s n d => round32 m ⟨if s then -(n : Int) else n, d⟩ s

/-- FP32 add (R341). -/
def fAdd (m : RMode) (a b : Word) : Word × Flags := addVal m (f32 a) (f32 b)
/-- FP32 subtract (R341). -/
def fSub (m : RMode) (a b : Word) : Word × Flags := addVal m (f32 a) (f32 b).flip
/-- FP32 multiply (R341). -/
def fMul (m : RMode) (a b : Word) : Word × Flags :=
  match mulVal (f32 a) (f32 b) with
  | none => (nan32, flNV)
  | some v => roundVal m v
/-- FP32 divide (R341). -/
def fDiv (m : RMode) (a b : Word) : Word × Flags :=
  match f32 a, f32 b with
  | .nan s, y => (nan32, (if s then flNV else 0) ||| sigFlag y)
  | x, .nan s => (nan32, (if s then flNV else 0) ||| sigFlag x)
  | .inf s, .num t _ _ => (inf32 (s != t), 0)
  | .inf _, .inf _ => (nan32, flNV)
  | .num s _ _, .inf t => (zero32 (s != t), 0)
  | .num s n d, .num t k e =>
    if k = 0 then (if n = 0 then (nan32, flNV) else (inf32 (s != t), flDZ))
    else roundVal m (.num (s != t) (n * e) (d * k))

/-- Fused (± a × b) ± c with one rounding (R342). -/
def fFma (m : RMode) (negProd negAdd : Bool) (a b c : Word) : Word × Flags :=
  let z := if negAdd then (f32 c).flip else f32 c
  match mulVal (f32 a) (f32 b) with
  | none => (nan32, flNV)
  | some p => addVal m (if negProd then p.flip else p) z

/-- a < b of two numbers that are not NaN, −0 equal to +0. -/
def valLt (a b : FVal) : Bool :=
  match a, b with
  | .nan _, _ => false
  | _, .nan _ => false
  | .inf s, .inf t => s && !t
  | .inf s, _ => s
  | _, .inf t => !t
  | x, y => FracOps.lt x.frac y.frac

/-- a = b of two numbers that are not NaN, −0 equal to +0. -/
def valEq (a b : FVal) : Bool := !a.isNan && !b.isNan && !valLt a b && !valLt b a

/-- a below b with −0 ordered below +0 (R341). -/
def valBelow (a b : FVal) : Bool := valLt a b || (valEq a b && a.neg && !b.neg)

/-- FP32 min and max (R341). -/
def fMinMax (isMax : Bool) (a b : Word) : Word × Flags :=
  let x := f32 a
  let y := f32 b
  let fl := sigFlag x ||| sigFlag y
  if x.isNan && y.isNan then (nan32, fl)
  else if x.isNan then (b, fl)
  else if y.isNan then (a, fl)
  else if isMax then (if valBelow x y then b else a, fl)
  else (if valBelow y x then b else a, fl)

/-- FP32 abs and neg (R341): the sign bit alone, but a NaN becomes canonical. -/
def fSign (f : Word → Word) (a : Word) : Word × Flags := if (f32 a).isNan then (nan32, sigFlag (f32 a)) else (f a, 0)

/-! ## Square roots -/

/-- ⌊√n⌋, bit by bit from bit k − 1 down. -/
def isqrtFrom (n : Nat) : Nat → Nat → Nat
  | 0, r => r
  | k + 1, r => isqrtFrom n k (if (r + 2 ^ k) * (r + 2 ^ k) ≤ n then r + 2 ^ k else r)

/-- ⌊√n⌋. -/
def isqrt (n : Nat) : Nat := isqrtFrom n (Nat.log2 n / 2 + 1) 0

/-- A fraction that rounds to every format of 24 bits of precision or fewer, in every mode, as √(n ÷ d) does: exact when the root is exact to 65
bits, else half a unit above its truncation there. -/
def sqrtFrac (n d : Nat) : Frac :=
  let k := (130 + Nat.log2 d - Nat.log2 n) / 2 + 1
  let q := n * 2 ^ (2 * k) / d
  let r := isqrt q
  let exact := decide (r * r = q) && decide (n * 2 ^ (2 * k) % d = 0)
  ⟨(2 * r + if exact then 0 else 1 : Nat), 2 * 2 ^ k⟩

/-! ## Special functions -/

/-- A polynomial with exact coefficients in increasing degree. -/
def polyFrac (x : Frac) : List Frac → Frac
  | [] => ⟨0, 1⟩
  | c :: cs => FracOps.add c (FracOps.mul x (polyFrac x cs))

/-- c ÷ 10^10. -/
def dec10 (c : Int) : Frac := ⟨c, 10 ^ 10⟩

/-- The integer nearest a fraction, ties to even. -/
def nearestInt (x : Frac) : Int :=
  let q := x.num.natAbs / x.den
  let r := x.num.natAbs % x.den
  let m := q + if roundsUp .rne false q r x.den then 1 else 0
  if x.num < 0 then -(m : Int) else m

/-- The reference exp2 (R353). A result beyond 2^300 or below 2^−300 is replaced by that power with the same rounding in every mode. -/
def exp2Frac (x : Frac) : Frac :=
  let n := nearestInt x
  if 300 < n then FracOps.scale ⟨3, 2⟩ 300
  else if n < -300 then FracOps.scale ⟨3, 2⟩ (-300)
  else
    let f := FracOps.sub x (FracOps.ofInt n)
    FracOps.scale (polyFrac f [⟨1, 1⟩, dec10 6931471806, dec10 2402265070, dec10 555041087, dec10 96181291, dec10 13333558, dec10 1540353,
      dec10 152527]) n

/-- The reference log2 of a positive fraction (R354). -/
def log2Frac (n d : Nat) : Frac :=
  let e := FracOps.log2 n d
  let m := FracOps.scale ⟨n, d⟩ (-e)
  let big := FracOps.lt ⟨14142135, 10000000⟩ m
  let m := if big then FracOps.scale m (-1) else m
  let e := if big then e + 1 else e
  let t := FracOps.div (FracOps.sub m ⟨1, 1⟩) (FracOps.add m ⟨1, 1⟩)
  let t2 := FracOps.mul t t
  FracOps.add (FracOps.ofInt e)
    (FracOps.mul t (polyFrac t2 [dec10 28853900818, dec10 9617966939, dec10 5770780164, dec10 4121985831, dec10 3205988980]))

/-- vsfu.sqrt (R352). -/
def sfuSqrt (m : RMode) (a : Word) : Word × Flags :=
  match f32 a with
  | .nan s => (nan32, if s then flNV else 0)
  | .inf s => if s then (nan32, flNV) else (inf32 false, 0)
  | .num s n d => if n = 0 then (a, 0) else if s then (nan32, flNV) else round32 m (sqrtFrac n d) false

/-- vsfu.rcp (R352). -/
def sfuRcp (m : RMode) (a : Word) : Word × Flags :=
  match f32 a with
  | .nan s => (nan32, if s then flNV else 0)
  | .inf s => (zero32 s, 0)
  | .num s n d => if n = 0 then (inf32 s, flDZ) else roundVal m (.num s d n)

/-- vsfu.rsqrt (R352). -/
def sfuRsqrt (m : RMode) (a : Word) : Word × Flags :=
  match f32 a with
  | .nan s => (nan32, if s then flNV else 0)
  | .inf s => if s then (nan32, flNV) else (0, 0)
  | .num s n d => if n = 0 then (inf32 s, flDZ) else if s then (nan32, flNV) else round32 m (sqrtFrac d n) false

/-- vsfu.exp2 (R352, R353). -/
def sfuExp2 (m : RMode) (a : Word) : Word × Flags :=
  match f32 a with
  | .nan s => (nan32, if s then flNV else 0)
  | .inf s => if s then (0, 0) else (inf32 false, 0)
  | v => round32 m (exp2Frac v.frac) false

/-- vsfu.log2 (R352, R354). -/
def sfuLog2 (m : RMode) (a : Word) : Word × Flags :=
  match f32 a with
  | .nan s => (nan32, if s then flNV else 0)
  | .inf s => if s then (nan32, flNV) else (inf32 false, 0)
  | .num s n d => if n = 0 then (inf32 true, flDZ) else if s then (nan32, flNV) else round32 m (log2Frac n d) false

/-! ## Conversions -/

/-- A value converted to a floating format (R52). -/
def toFloatFmt (f : FFmt) (m : RMode) (v : FVal) : Nat × Flags :=
  match v with
  | .nan s =>
    match f.top with
    | .ieee => (f.nan, if s then flNV else 0)
    | _ => (f.nan, flNV)
  | .inf s =>
    match f.top with
    | .ieee => (f.signBit s + f.infEnc, 0)
    | _ => (f.signBit s + f.maxEnc, flNV)
  | .num s n d =>
    if n = 0 then ((match m with | .sr _ => 0 | _ => f.signBit s), 0) else roundNum f m s n d

/-- The bounds of an integer format of `w` bits. -/
def intBounds (w : Nat) (signed : Bool) : Int × Int :=
  if signed then (-(2 ^ (w - 1) : Int), 2 ^ (w - 1) - 1) else (0, 2 ^ w - 1)

/-- Clamp into bounds. -/
def clampInt (b : Int × Int) (x : Int) : Int := if x < b.1 then b.1 else if b.2 < x then b.2 else x

/-- A value converted to an integer format of `w` bits: rounded to an integer, then clamped (R52). An inexact conversion within range raises NX; R52's row for integers names
only NV (DESIGN CHOICE, log entry 108). -/
def toIntFmt (w : Nat) (signed : Bool) (m : RMode) (v : FVal) : Nat × Flags :=
  let b := intBounds w signed
  let enc := fun (x : Int) => (x % (2 ^ w : Int)).toNat
  match v with
  | .nan _ => (0, flNV)
  | .inf s => (enc (if s then b.1 else b.2), flNV)
  | .num s n d =>
    let q := n / d
    let r := n % d
    let mag : Int := ((q + if roundsUp m s q r d then 1 else 0 : Nat) : Int)
    let x := if s then -mag else mag
    let c := clampInt b x
    (enc c, if c ≠ x then flNV else if r ≠ 0 then flNX else 0)

/-- A value converted to an element format (R52). -/
def toFmt (f : EFmt) (m : RMode) (v : FVal) : Nat × Flags :=
  match f with
  | .flt g => toFloatFmt g m v
  | .int w s => toIntFmt w s m v
  | .t2 => (0, 0)

/-- The integer that an integer encoding of `w` bits stands for. -/
def intVal (w : Nat) (signed : Bool) (x : Nat) : Int :=
  if signed && decide (2 ^ (w - 1) ≤ x % 2 ^ w) then ((x % 2 ^ w : Nat) : Int) - 2 ^ w else ((x % 2 ^ w : Nat) : Int)

/-- The value of an encoding (R29, R30). -/
def fmtVal (f : EFmt) (x : Nat) : FVal :=
  match f with
  | .flt g => g.decode x
  | .int w s => let v := intVal w s x; .num (decide (v < 0)) v.natAbs 1
  | .t2 => if x % 2 = 1 then .num (decide (x / 2 % 2 = 1)) 1 1 else .num false 0 1

/-- A value converted exactly to FP32 (R344 .from): NaN becomes canonical, NV when signalling. -/
def fromFmt (f : EFmt) (x : Nat) : Word × Flags := roundVal .rne (fmtVal f x)

/-- An integer converted to FP32 (R344). -/
def intToF32 (m : RMode) (x : Int) : Word × Flags := round32 m ⟨x, 1⟩ false

/-! ## Shared scales -/

/-- Parity over the 20 bits of an S20 is odd (R32). -/
def s20Odd (x : BitVec 20) : Bool := (List.range 20).foldl (fun b i => b != flag x i) false

/-- The exponent field of an S20. -/
def s20Exp (x : BitVec 20) : Nat := field x 12 8

/-- The value of an S20 (R32). -/
def s20Val (x : BitVec 20) : Frac :=
  if s20Exp x = 0 then ⟨0, 1⟩ else FracOps.scale ⟨(2048 + field x 1 11 : Nat), 2048⟩ ((s20Exp x : Int) - 127)

/-- Set the parity bit of an S20. -/
def s20Parity (x : BitVec 20) : BitVec 20 := if s20Odd x then x ^^^ 1 else x

/-- The S20 of exponent field e and fraction f, with parity. -/
def s20Make (e f : Nat) : BitVec 20 := s20Parity (BitVec.ofNat 20 (e * 4096 + f * 2))

/-- The smallest S20 not below a positive fraction, with OF when none is and the largest stands (R347). -/
def s20Above (n d : Nat) : BitVec 20 × Flags :=
  let e := FracOps.log2 n d
  if e < -126 then (s20Make 1 0, 0)
  else
    let (q, r, _) := divScaled n d (11 - e)
    let q := q + if r ≠ 0 then 1 else 0
    let (e, q) := if q = 4096 then (e + 1, 2048) else (e, q)
    if 127 < e then (s20Make 254 2047, flOF) else (s20Make (e + 127).toNat (q - 2048), 0)

/-! ## Draws -/

/-- A random draw (R53). -/
def draw (key ctr : Dword) : BitVec 32 :=
  let mix := fun (x : Dword) =>
    let x := x ^^^ (x >>> 31)
    let x := x * 0xE1D74A930C6B5F2D
    let x := x ^^^ (x >>> 29)
    x + (key ^^^ 0x5B8ED2A19F64C073)
  bits (mix (mix (mix (ctr + key * 0x8F3A6C1DB527E94B)))) 32 32

/-- The fork of a key by an index (R122). -/
def forkKey (key : Dword) (i : Nat) : Dword :=
  let c := BitVec.ofNat 64 (7 * 2 ^ 61 + 2 * i)
  ((draw key c).setWidth 64 <<< 32) + (draw key (c + 1)).setWidth 64

/-- The draw of VEC at a counter value (R54). -/
def vecDraw (key : Dword) (c : Nat) : BitVec 32 := draw key (BitVec.ofNat 64 (2 * 2 ^ 61 + c % 2 ^ 61))

/-- The draw of MAT at a counter value (R54). -/
def matDraw (key : Dword) (c : Nat) : BitVec 32 := draw key (BitVec.ofNat 64 (3 * 2 ^ 61 + c % 2 ^ 61))

end Sys2Proof.Machine
end

