-- ==== Sys2Proof/Machine/Tab.lean ====
section
/-! DEFINITION. `Tab`: the one canonical form of every sparse table of the state (memory, scratchpad, register files,
handles, threads …): a list of (key, value) pairs, keys strictly rising, no entry equal to the default, so that equal
tables are equal lists. -/

namespace Sys2Proof.Machine

/-- A sparse table: keys strictly rising, no listed value equal to the default. -/
abbrev Tab (α : Type) := List (Nat × α)

/-- The value at key `k`; an unlisted key reads as the default. -/
def Tab.get {α : Type} [Inhabited α] (t : Tab α) (k : Nat) : α :=
  match t with
  | [] => default
  | (j, v) :: rest => if j = k then v else if k < j then default else Tab.get rest k

/-- What remains of a table above key `k` (used when an entry at `k` is removed). -/
def Tab.above {α : Type} (t : Tab α) (k : Nat) : Tab α :=
  match t with
  | [] => []
  | (j, v) :: rest => if j ≤ k then Tab.above rest k else (j, v) :: rest

/-- Write `v` at `k`, keeping the canonical form: writing the default removes the entry. -/
def Tab.set {α : Type} [Inhabited α] [DecidableEq α] (t : Tab α) (k : Nat) (v : α) : Tab α :=
  match t with
  | [] => if v = default then [] else [(k, v)]
  | (j, w) :: rest =>
    if j < k then (j, w) :: Tab.set rest k v
    else if j = k then (if v = default then Tab.above rest k else (k, v) :: rest)
    else if v = default then (j, w) :: rest else (k, v) :: (j, w) :: rest

/-- Replace the value at `k` by `f` of it. -/
def Tab.mod {α : Type} [Inhabited α] [DecidableEq α] (t : Tab α) (k : Nat) (f : α → α) : Tab α :=
  t.set k (f (t.get k))

/-- The keys are strictly above `lo` (when there is one) and strictly rising, and no value is the default. -/
def Tab.wfFrom {α : Type} [Inhabited α] [DecidableEq α] (lo : Option Nat) : Tab α → Bool
  | [] => true
  | (j, v) :: rest =>
    (match lo with | none => true | some l => decide (l < j)) && decide (v ≠ default) && Tab.wfFrom (some j) rest

/-- The canonical form. -/
def Tab.wf {α : Type} [Inhabited α] [DecidableEq α] (t : Tab α) : Bool := Tab.wfFrom none t

/-- `n` consecutive values from key `k`. -/
def Tab.getRange {α : Type} [Inhabited α] (t : Tab α) (k : Nat) : Nat → List α
  | 0 => []
  | n + 1 => t.get k :: Tab.getRange t (k + 1) n

/-- Write a list of values at consecutive keys from `k`. -/
def Tab.setRange {α : Type} [Inhabited α] [DecidableEq α] (t : Tab α) (k : Nat) : List α → Tab α
  | [] => t
  | v :: vs => Tab.setRange (t.set k v) (k + 1) vs

/-- Remove every key of [lo, hi). -/
def Tab.dropRange {α : Type} (t : Tab α) (lo hi : Nat) : Tab α :=
  t.filter fun e => e.1 < lo || hi ≤ e.1

end Sys2Proof.Machine
end

