-- ==== Sys2Proof/Syntax.lean ====
section
/-! DEFINITION. The instruction set as syntax: one constructor for every row of the operation table. The first 336 are the
instruction words of the eight engines (their fields as R62 lays them out); the other 104 are the device's own steps and
the acts of the host, the sideband and the fabric, which have no word and are executed when the agenda of the state names
them. -/

namespace Sys2Proof

/-- The eight engines of a thread, in engine-code order (R17). -/
inductive Engine where
  | seq | adr | vec | mat | xfr | fab | atn | syn
deriving DecidableEq, Repr, Inhabited

/-- Where a detected uncorrectable error is consumed (R455). -/
inductive UncSite where
  /-- the storage of accumulator `k` of thread `t`, met by the tile command or movement word being executed -/
  | acc (t : Nat) (k : Nat)
  /-- registers, queues or instruction memory of thread `t`, consumed by engine code `e` -/
  | engine (t : Nat) (e : Nat)
  /-- a granule of physical memory (address divided by 16) -/
  | memory (granule : Nat)
  /-- a granule of a line in the remote-data cache of die `d` -/
  | cached (d : Nat) (granule : Nat)
  /-- a granule of scratchpad: cluster key and granule number -/
  | scratch (cluster : Nat) (granule : Nat)
  /-- a token unit's copy of the attributes of the region with this key (R275) -/
  | copy (region : Nat)
deriving DecidableEq, Repr

/-- The three reset scopes (R483). -/
inductive ResetScope where
  | module | die | core
deriving DecidableEq, Repr

/-- A firmware image (R485): its security version, its payload, the digest of both that it carries, and what its signature shows: the digest signed, and the digest of the
public key under which the signature verifies (the arithmetic of the signature is idealised: DESIGN CHOICE, log entry 107). -/
structure FwImage where
  version : Nat
  payload : List Byte
  digest : BitVec 512
  signed : BitVec 512
  signer : BitVec 512
deriving DecidableEq, Repr

/-- What an attest command asks for (R492): the report for a nonce, or the certificate chain of the device identity key. -/
inductive AttestRequest where
  | report (nonce : BitVec 256)
  | chain
deriving DecidableEq, Repr

/-- What bring-up of a die finds (R484): the step that fails (0 when none does for a cause of its own), the cores and slices that fail test, the
dimension modes, the ports the board leaves unconnected, the expander's size (R487), and the firmware image (R485). -/
structure BringUpReport where
  fails : Nat
  badCores : List Nat
  badSlices : List Nat
  offpkg : BitVec 3
  unconnected : List Nat
  cxlSize : Nat
  image : FwImage
deriving DecidableEq, Repr

/-- The operation table: one constructor per row. Field names are the table's. -/
inductive Instr where
  /-- ADD (R86): Writes s[A] + s[B] modulo 2^64 to s[D]. -/
  | add (d : BitVec 6) (a : BitVec 6) (b : BitVec 6)
  /-- SUB (R86): Writes s[A] − s[B] to s[D]. -/
  | sub (d : BitVec 6) (a : BitVec 6) (b : BitVec 6)
  /-- AND (R86): Writes the bitwise AND of s[A] and s[B] to s[D]. -/
  | and (d : BitVec 6) (a : BitVec 6) (b : BitVec 6)
  /-- OR (R86): Writes the bitwise OR of s[A] and s[B] to s[D]. -/
  | or (d : BitVec 6) (a : BitVec 6) (b : BitVec 6)
  /-- XOR (R86): Writes the bitwise XOR of s[A] and s[B] to s[D]. -/
  | xor (d : BitVec 6) (a : BitVec 6) (b : BitVec 6)
  /-- ANDN (R86): Writes s[A] AND NOT s[B] to s[D]. -/
  | andn (d : BitVec 6) (a : BitVec 6) (b : BitVec 6)
  /-- SHL (R86): Shifts s[A] left by s[B][5:0]. -/
  | shl (d : BitVec 6) (a : BitVec 6) (b : BitVec 6)
  /-- SHR (R86): Shifts s[A] right logically by s[B][5:0]. -/
  | shr (d : BitVec 6) (a : BitVec 6) (b : BitVec 6)
  /-- SRA (R86): Shifts s[A] right arithmetically by s[B][5:0]. -/
  | sra (d : BitVec 6) (a : BitVec 6) (b : BitVec 6)
  /-- SLT (R86): Writes 1 when s[A] is below s[B] signed, else 0. -/
  | slt (d : BitVec 6) (a : BitVec 6) (b : BitVec 6)
  /-- SLTU (R86): Writes 1 when s[A] is below s[B] unsigned, else 0. -/
  | sltu (d : BitVec 6) (a : BitVec 6) (b : BitVec 6)
  /-- MIN (R86): Writes the signed minimum of s[A] and s[B]. -/
  | min (d : BitVec 6) (a : BitVec 6) (b : BitVec 6)
  /-- MAX (R86): Writes the signed maximum of s[A] and s[B]. -/
  | max (d : BitVec 6) (a : BitVec 6) (b : BitVec 6)
  /-- MINU (R86): Writes the unsigned minimum of s[A] and s[B]. -/
  | minu (d : BitVec 6) (a : BitVec 6) (b : BitVec 6)
  /-- MAXU (R86): Writes the unsigned maximum of s[A] and s[B]. -/
  | maxu (d : BitVec 6) (a : BitVec 6) (b : BitVec 6)
  /-- MUL (R86): Writes the low 64 bits of s[A] × s[B]. -/
  | mul (d : BitVec 6) (a : BitVec 6) (b : BitVec 6)
  /-- MULH (R86): Writes the high 64 bits of the signed product. -/
  | mulh (d : BitVec 6) (a : BitVec 6) (b : BitVec 6)
  /-- MULHU (R86): Writes the high 64 bits of the unsigned product. -/
  | mulhu (d : BitVec 6) (a : BitVec 6) (b : BitVec 6)
  /-- DIV (R87): Signed division truncated toward zero, with fixed results for zero divisors and overflow. -/
  | div (d : BitVec 6) (a : BitVec 6) (b : BitVec 6)
  /-- DIVU (R87): Unsigned division, all ones on a zero divisor. -/
  | divu (d : BitVec 6) (a : BitVec 6) (b : BitVec 6)
  /-- REM (R87): Signed remainder with the sign of the dividend. -/
  | rem (d : BitVec 6) (a : BitVec 6) (b : BitVec 6)
  /-- REMU (R87): Unsigned remainder. -/
  | remu (d : BitVec 6) (a : BitVec 6) (b : BitVec 6)
  /-- CLZ (R86): Counts leading zero bits of s[A]. -/
  | clz (d : BitVec 6) (a : BitVec 6)
  /-- CTZ (R86): Counts trailing zero bits of s[A]. -/
  | ctz (d : BitVec 6) (a : BitVec 6)
  /-- POPC (R86): Counts one bits of s[A]. -/
  | popc (d : BitVec 6) (a : BitVec 6)
  /-- ADDI (R88): Adds a sign-extended 12-bit immediate to s[A]. -/
  | addi (d : BitVec 6) (a : BitVec 6) (i : BitVec 12)
  /-- ANDI (R88): ANDs s[A] with a sign-extended immediate. -/
  | andi (d : BitVec 6) (a : BitVec 6) (i : BitVec 12)
  /-- ORI (R88): ORs s[A] with a sign-extended immediate. -/
  | ori (d : BitVec 6) (a : BitVec 6) (i : BitVec 12)
  /-- XORI (R88): XORs s[A] with a sign-extended immediate. -/
  | xori (d : BitVec 6) (a : BitVec 6) (i : BitVec 12)
  /-- SHLI (R88): Shifts s[A] left by an immediate amount. -/
  | shli (d : BitVec 6) (a : BitVec 6) (n : BitVec 6)
  /-- SHRI (R88): Shifts s[A] right logically by an immediate amount. -/
  | shri (d : BitVec 6) (a : BitVec 6) (n : BitVec 6)
  /-- SRAI (R88): Shifts s[A] right arithmetically by an immediate amount. -/
  | srai (d : BitVec 6) (a : BitVec 6) (n : BitVec 6)
  /-- SLTI (R88): Signed compare of s[A] with an 11-bit immediate. -/
  | slti (d : BitVec 6) (a : BitVec 6) (i : BitVec 11)
  /-- SLTIU (R88): Unsigned compare of s[A] with a sign-extended immediate. -/
  | sltiu (d : BitVec 6) (a : BitVec 6) (i : BitVec 11)
  /-- LUI (R89): Writes a sign-extended 18-bit immediate times 2^12. -/
  | lui (d : BitVec 6) (i : BitVec 18)
  /-- AUIPC (R89): Writes the text address pc + 4 × immediate modulo 2^18. -/
  | auipc (d : BitVec 6) (i : BitVec 18)
  /-- LD_B (R91): Loads a sign-extended byte from linear memory. -/
  | ldB (d : BitVec 6) (a : BitVec 6) (o : BitVec 9)
  /-- LD_BU (R91): Loads a zero-extended byte. -/
  | ldBu (d : BitVec 6) (a : BitVec 6) (o : BitVec 9)
  /-- LD_H (R91): Loads a sign-extended halfword. -/
  | ldH (d : BitVec 6) (a : BitVec 6) (o : BitVec 9)
  /-- LD_HU (R91): Loads a zero-extended halfword. -/
  | ldHu (d : BitVec 6) (a : BitVec 6) (o : BitVec 9)
  /-- LD_W (R91): Loads a sign-extended word. -/
  | ldW (d : BitVec 6) (a : BitVec 6) (o : BitVec 9)
  /-- LD_WU (R91): Loads a zero-extended word. -/
  | ldWu (d : BitVec 6) (a : BitVec 6) (o : BitVec 9)
  /-- LD_D (R91): Loads a dword. -/
  | ldD (d : BitVec 6) (a : BitVec 6) (o : BitVec 9)
  /-- ST_B (R91): Stores the low byte of s[D]. -/
  | stB (d : BitVec 6) (a : BitVec 6) (o : BitVec 9)
  /-- ST_H (R91): Stores the low halfword of s[D]. -/
  | stH (d : BitVec 6) (a : BitVec 6) (o : BitVec 9)
  /-- ST_W (R91): Stores the low word of s[D]. -/
  | stW (d : BitVec 6) (a : BitVec 6) (o : BitVec 9)
  /-- ST_D (R91): Stores s[D] as a dword. -/
  | stD (d : BitVec 6) (a : BitVec 6) (o : BitVec 9)
  /-- CMP_EQ (R93): Sets pD when s[A] equals s[B]. -/
  | cmpEq (d : BitVec 4) (a : BitVec 6) (b : BitVec 6)
  /-- CMP_NE (R93): Sets pD when s[A] differs from s[B]. -/
  | cmpNe (d : BitVec 4) (a : BitVec 6) (b : BitVec 6)
  /-- CMP_LT (R93): Sets pD on a signed less-than. -/
  | cmpLt (d : BitVec 4) (a : BitVec 6) (b : BitVec 6)
  /-- CMP_GE (R93): Sets pD on a signed greater-or-equal. -/
  | cmpGe (d : BitVec 4) (a : BitVec 6) (b : BitVec 6)
  /-- CMP_LTU (R93): Sets pD on an unsigned less-than. -/
  | cmpLtu (d : BitVec 4) (a : BitVec 6) (b : BitVec 6)
  /-- CMP_GEU (R93): Sets pD on an unsigned greater-or-equal. -/
  | cmpGeu (d : BitVec 4) (a : BitVec 6) (b : BitVec 6)
  /-- CMPI_EQ (R93): Sets pD when s[A] equals the immediate. -/
  | cmpiEq (d : BitVec 4) (a : BitVec 6) (i : BitVec 9)
  /-- CMPI_NE (R93): Sets pD when s[A] differs from the immediate. -/
  | cmpiNe (d : BitVec 4) (a : BitVec 6) (i : BitVec 9)
  /-- CMPI_LT (R93): Signed less-than against the immediate. -/
  | cmpiLt (d : BitVec 4) (a : BitVec 6) (i : BitVec 9)
  /-- CMPI_GE (R93): Signed greater-or-equal against the immediate. -/
  | cmpiGe (d : BitVec 4) (a : BitVec 6) (i : BitVec 9)
  /-- CMPI_LTU (R93): Unsigned less-than against the immediate. -/
  | cmpiLtu (d : BitVec 4) (a : BitVec 6) (i : BitVec 9)
  /-- CMPI_GEU (R93): Unsigned greater-or-equal against the immediate. -/
  | cmpiGeu (d : BitVec 4) (a : BitVec 6) (i : BitVec 9)
  /-- PAND (R94): pD := pA AND pB. -/
  | pand (d : BitVec 4) (a : BitVec 4) (b : BitVec 4)
  /-- POR (R94): pD := pA OR pB. -/
  | por (d : BitVec 4) (a : BitVec 4) (b : BitVec 4)
  /-- PXOR (R94): pD := pA XOR pB. -/
  | pxor (d : BitVec 4) (a : BitVec 4) (b : BitVec 4)
  /-- PANDN (R94): pD := pA AND NOT pB. -/
  | pandn (d : BitVec 4) (a : BitVec 4) (b : BitVec 4)
  /-- PNOT (R94): pD := NOT pA. -/
  | pnot (d : BitVec 4) (a : BitVec 4)
  /-- PMOV (R94): pD := pA. -/
  | pmov (d : BitVec 4) (a : BitVec 4)
  /-- BR (R96): Branches to pc + 4 × OFF19 when the predicate, optionally inverted, is true. -/
  | br (p : BitVec 4) (n : BitVec 1) (o : BitVec 19)
  /-- JAL (R96): Writes the return address and jumps to a pc-relative target. -/
  | jal (d : BitVec 6) (i : BitVec 18)
  /-- JALR (R96): Writes the return address and jumps to s[A] + immediate. -/
  | jalr (d : BitVec 6) (a : BitVec 6) (i : BitVec 12)
  /-- LOOP (R100): Starts a non-rotating hardware loop with its trip count from a scalar. -/
  | loop (c : BitVec 6) (b : BitVec 12)
  /-- LOOP_ROT (R100): Starts a rotating, pipelined hardware loop with its trip count from a scalar. -/
  | loopRot (c : BitVec 6) (b : BitVec 12) (s : BitVec 3)
  /-- LOOPI (R100): Starts a non-rotating hardware loop with an immediate trip count. -/
  | loopi (n : BitVec 6) (b : BitVec 12)
  /-- LOOPI_ROT (R100): Starts a rotating hardware loop with an immediate trip count. -/
  | loopiRot (n : BitVec 6) (b : BitVec 12) (s : BitVec 3)
  /-- PASS_BOUNDARY (R100): At the end of a body pass, decrements LCNT or DRAIN, rotates RRB and p8, or ends the loop. -/
  | passBoundary (t : Nat)
  /-- ROT (R106): Lowers RRB by k as k pass boundaries would. -/
  | rot (a : BitVec 6) (i : BitVec 12)
  /-- QPUSH (R107): Appends s[A] to a queue, waiting while it is full. -/
  | qpush (q : BitVec 4) (a : BitVec 6)
  /-- QPOP (R108): Removes the head of q6 or q8 into s[D], waiting while empty. -/
  | qpop (d : BitVec 6) (q : BitVec 4)
  /-- FMT (R109): Places a checked tile shape into a format word in s[D]. -/
  | fmt (d : BitVec 6) (a : BitVec 6) (b : BitVec 6)
  /-- FMT_Q (R109): Places a tile shape into a format word and pushes it to q0. -/
  | fmtQ (a : BitVec 6) (b : BitVec 6)
  /-- MARK (R110): Places markers tagged with join slot j in the named engines' instruction queues. -/
  | mark (j : BitVec 3) (m : BitVec 8)
  /-- JOIN (R111): Stops fetch until every delivered marker of slot j has reached its queue head. -/
  | join (j : BitVec 3)
  /-- RDSR (R112): Reads a special register into s[D], ordered against its owning engine. -/
  | rdsr (d : BitVec 6) (n : BitVec 12)
  /-- WRSR (R112): Writes s[A] into a special register under its access codes. -/
  | wrsr (a : BitVec 6) (n : BitVec 12)
  /-- SEL (R95): Selects s[A] or s[B] by a predicate. -/
  | sel (d : BitVec 6) (a : BitVec 6) (b : BitVec 6) (n : BitVec 1) (p : BitVec 4)
  /-- NOP (R113): Has no effect. -/
  | nop
  /-- BRK (R113): Raises BREAK with SKIP set for SEQ. -/
  | brk
  /-- CAPT (R303): Captures descriptor group n into slot dN after checking it. -/
  | capt (n : BitVec 3) (s : BitVec 3)
  /-- TLD (R306): Loads a tensor box into scratchpad. -/
  | tld (d : BitVec 6) (s : BitVec 3) (a : BitVec 6)
  /-- TLD_Q (R306): Loads a tensor box and pushes it as rows to q2. -/
  | tldQ (s : BitVec 3) (a : BitVec 6)
  /-- TST (R306): Stores a tensor box from scratchpad. -/
  | tst (d : BitVec 6) (s : BitVec 3) (a : BitVec 6)
  /-- TST_Q (R306): Stores a tensor box from rows popped from q3. -/
  | tstQ (s : BitVec 3) (a : BitVec 6)
  /-- GLD (R307): Gathers indexed rows into scratchpad. -/
  | gld (d : BitVec 6) (s : BitVec 3) (a : BitVec 6)
  /-- GLD_Q (R307): Gathers indexed rows into q2. -/
  | gldQ (s : BitVec 3) (a : BitVec 6)
  /-- GST (R308): Scatters rows from scratchpad to indexed rows. -/
  | gst (d : BitVec 6) (s : BitVec 3) (a : BitVec 6)
  /-- GST_Q (R308): Scatters rows popped from q3. -/
  | gstQ (s : BitVec 3) (a : BitVec 6)
  /-- VLD (R309): Loads strided rows from linear memory to q2. -/
  | vld (a : BitVec 6)
  /-- VST (R309): Stores rows popped from q3 to strided linear memory. -/
  | vst (a : BitVec 6)
  /-- SLD (R310): Loads one scratchpad scalar and pushes it to q8. -/
  | sld (a : BitVec 6) (w : BitVec 3)
  /-- SLD_ROW (R309): Loads strided scratchpad rows to q2. -/
  | sldRow (a : BitVec 6)
  /-- SST (R310): Stores the low bytes of s[D] to scratchpad. -/
  | sst (d : BitVec 6) (a : BitVec 6) (w : BitVec 3)
  /-- SST_ROW (R309): Stores rows popped from q3 to strided scratchpad. -/
  | sstRow (a : BitVec 6)
  /-- ATOM_ADD (R311): Atomic wrapping add. -/
  | atomAdd (a : BitVec 6) (c : BitVec 3) (r : BitVec 1) (p : BitVec 1) (z : BitVec 1)
  /-- ATOM_MIN (R311): Atomic signed minimum. -/
  | atomMin (a : BitVec 6) (c : BitVec 3) (r : BitVec 1) (p : BitVec 1) (z : BitVec 1)
  /-- ATOM_MAX (R311): Atomic signed maximum. -/
  | atomMax (a : BitVec 6) (c : BitVec 3) (r : BitVec 1) (p : BitVec 1) (z : BitVec 1)
  /-- ATOM_AND (R311): Atomic AND. -/
  | atomAnd (a : BitVec 6) (c : BitVec 3) (r : BitVec 1) (p : BitVec 1) (z : BitVec 1)
  /-- ATOM_OR (R311): Atomic OR. -/
  | atomOr (a : BitVec 6) (c : BitVec 3) (r : BitVec 1) (p : BitVec 1) (z : BitVec 1)
  /-- ATOM_XOR (R311): Atomic XOR. -/
  | atomXor (a : BitVec 6) (c : BitVec 3) (r : BitVec 1) (p : BitVec 1) (z : BitVec 1)
  /-- ATOM_XCHG (R311): Atomic exchange. -/
  | atomXchg (a : BitVec 6) (c : BitVec 3) (r : BitVec 1) (p : BitVec 1) (z : BitVec 1)
  /-- ATOM_CAS (R311): Atomic compare-and-swap. -/
  | atomCas (a : BitVec 6) (c : BitVec 3) (r : BitVec 1) (p : BitVec 1) (z : BitVec 1)
  /-- ATOMO_ADD (R312): Ordered atomic add performed in Q order. -/
  | atomoAdd (a : BitVec 6) (c : BitVec 3) (r : BitVec 1) (p : BitVec 1) (z : BitVec 1)
  /-- ATOMO_MIN (R312): Ordered atomic signed minimum. -/
  | atomoMin (a : BitVec 6) (c : BitVec 3) (r : BitVec 1) (p : BitVec 1) (z : BitVec 1)
  /-- ATOMO_MAX (R312): Ordered atomic signed maximum. -/
  | atomoMax (a : BitVec 6) (c : BitVec 3) (r : BitVec 1) (p : BitVec 1) (z : BitVec 1)
  /-- ATOMO_AND (R312): Ordered atomic AND. -/
  | atomoAnd (a : BitVec 6) (c : BitVec 3) (r : BitVec 1) (p : BitVec 1) (z : BitVec 1)
  /-- ATOMO_OR (R312): Ordered atomic OR. -/
  | atomoOr (a : BitVec 6) (c : BitVec 3) (r : BitVec 1) (p : BitVec 1) (z : BitVec 1)
  /-- ATOMO_XOR (R312): Ordered atomic XOR. -/
  | atomoXor (a : BitVec 6) (c : BitVec 3) (r : BitVec 1) (p : BitVec 1) (z : BitVec 1)
  /-- ATOMO_XCHG (R312): Ordered atomic exchange. -/
  | atomoXchg (a : BitVec 6) (c : BitVec 3) (r : BitVec 1) (p : BitVec 1) (z : BitVec 1)
  /-- ATOMO_CAS (R312): Ordered atomic compare-and-swap. -/
  | atomoCas (a : BitVec 6) (c : BitVec 3) (r : BitVec 1) (p : BitVec 1) (z : BitVec 1)
  /-- PREF_L (R313): Prefetches a linear range as loads with no value. -/
  | prefL (a : BitVec 6)
  /-- PREF_T (R313): Prefetches a tensor box. -/
  | prefT (s : BitVec 3) (a : BitVec 6)
  /-- FENCE_ACQ (R285): Waits until earlier loads are performed at the scope. -/
  | fenceAcq (c : BitVec 3)
  /-- FENCE_REL (R285): Waits until earlier accesses are performed at the scope before later stores. -/
  | fenceRel (c : BitVec 3)
  /-- FENCE_FULL (R285): Acts as both an acquire and a release fence. -/
  | fenceFull (c : BitVec 3)
  /-- HWAIT (R315): Holds ADR until a handle's write pointer reaches a threshold or it leaves filling or parked. -/
  | hwait (h : BitVec 6) (a : BitVec 6)
  /-- HWAIT_ST (R315): As hwait, then pushes the handle status to q8. -/
  | hwaitSt (h : BitVec 6) (a : BitVec 6)
  /-- LDQ (R310): Loads a scalar from linear memory and pushes it to q8. -/
  | ldq (a : BitVec 6) (w : BitVec 3)
  /-- ADR_FAULT_TRAP (R244): Raises the held trap of a halted ADR word once q2 is empty or VEC is held. -/
  | adrFaultTrap (t : Nat)
  /-- VINT_ADD (R340): Lane-wise integer add. -/
  | vintAdd (d : BitVec 5) (a : BitVec 5) (b : BitVec 5) (m : BitVec 3) (t : BitVec 2)
  /-- VINT_SUB (R340): Lane-wise integer subtract. -/
  | vintSub (d : BitVec 5) (a : BitVec 5) (b : BitVec 5) (m : BitVec 3) (t : BitVec 2)
  /-- VINT_MUL (R340): Lane-wise integer multiply. -/
  | vintMul (d : BitVec 5) (a : BitVec 5) (b : BitVec 5) (m : BitVec 3) (t : BitVec 2)
  /-- VINT_MULH (R340): Lane-wise high product. -/
  | vintMulh (d : BitVec 5) (a : BitVec 5) (b : BitVec 5) (m : BitVec 3) (t : BitVec 2)
  /-- VINT_AND (R340): Lane-wise AND. -/
  | vintAnd (d : BitVec 5) (a : BitVec 5) (b : BitVec 5) (m : BitVec 3)
  /-- VINT_OR (R340): Lane-wise OR. -/
  | vintOr (d : BitVec 5) (a : BitVec 5) (b : BitVec 5) (m : BitVec 3)
  /-- VINT_XOR (R340): Lane-wise XOR. -/
  | vintXor (d : BitVec 5) (a : BitVec 5) (b : BitVec 5) (m : BitVec 3)
  /-- VINT_ANDN (R340): Lane-wise AND NOT. -/
  | vintAndn (d : BitVec 5) (a : BitVec 5) (b : BitVec 5) (m : BitVec 3)
  /-- VINT_SHL (R340): Lane-wise shift left. -/
  | vintShl (d : BitVec 5) (a : BitVec 5) (b : BitVec 5) (m : BitVec 3)
  /-- VINT_SHR (R340): Lane-wise logical shift right. -/
  | vintShr (d : BitVec 5) (a : BitVec 5) (b : BitVec 5) (m : BitVec 3)
  /-- VINT_SRA (R340): Lane-wise arithmetic shift right. -/
  | vintSra (d : BitVec 5) (a : BitVec 5) (b : BitVec 5) (m : BitVec 3)
  /-- VINT_MIN (R340): Lane-wise integer minimum. -/
  | vintMin (d : BitVec 5) (a : BitVec 5) (b : BitVec 5) (m : BitVec 3) (t : BitVec 2)
  /-- VINT_MAX (R340): Lane-wise integer maximum. -/
  | vintMax (d : BitVec 5) (a : BitVec 5) (b : BitVec 5) (m : BitVec 3) (t : BitVec 2)
  /-- VINT_ABS (R340): Lane-wise absolute value. -/
  | vintAbs (d : BitVec 5) (a : BitVec 5) (m : BitVec 3) (t : BitVec 2)
  /-- VINT_NEG (R340): Lane-wise negation. -/
  | vintNeg (d : BitVec 5) (a : BitVec 5) (m : BitVec 3) (t : BitVec 2)
  /-- VFLT_ADD (R341): Lane-wise FP32 add. -/
  | vfltAdd (d : BitVec 5) (a : BitVec 5) (b : BitVec 5) (m : BitVec 3)
  /-- VFLT_SUB (R341): Lane-wise FP32 subtract. -/
  | vfltSub (d : BitVec 5) (a : BitVec 5) (b : BitVec 5) (m : BitVec 3)
  /-- VFLT_MUL (R341): Lane-wise FP32 multiply. -/
  | vfltMul (d : BitVec 5) (a : BitVec 5) (b : BitVec 5) (m : BitVec 3)
  /-- VFLT_DIV (R341): Lane-wise FP32 divide. -/
  | vfltDiv (d : BitVec 5) (a : BitVec 5) (b : BitVec 5) (m : BitVec 3)
  /-- VFLT_MIN (R341): Lane-wise FP32 minimum. -/
  | vfltMin (d : BitVec 5) (a : BitVec 5) (b : BitVec 5) (m : BitVec 3)
  /-- VFLT_MAX (R341): Lane-wise FP32 maximum. -/
  | vfltMax (d : BitVec 5) (a : BitVec 5) (b : BitVec 5) (m : BitVec 3)
  /-- VFLT_ABS (R341): Lane-wise FP32 absolute value. -/
  | vfltAbs (d : BitVec 5) (a : BitVec 5) (m : BitVec 3)
  /-- VFLT_NEG (R341): Lane-wise FP32 negation. -/
  | vfltNeg (d : BitVec 5) (a : BitVec 5) (m : BitVec 3)
  /-- VFMA_FMA (R342): Fused a × b + d. -/
  | vfmaFma (d : BitVec 5) (a : BitVec 5) (b : BitVec 5) (m : BitVec 3)
  /-- VFMA_FMS (R342): Fused a × b − d. -/
  | vfmaFms (d : BitVec 5) (a : BitVec 5) (b : BitVec 5) (m : BitVec 3)
  /-- VFMA_FNMA (R342): Fused −(a × b) + d. -/
  | vfmaFnma (d : BitVec 5) (a : BitVec 5) (b : BitVec 5) (m : BitVec 3)
  /-- VFMA_FNMS (R342): Fused −(a × b) − d. -/
  | vfmaFnms (d : BitVec 5) (a : BitVec 5) (b : BitVec 5) (m : BitVec 3)
  /-- VCMP_EQ (R343): Writes mask bits for lanes where a = b. -/
  | vcmpEq (d : BitVec 3) (a : BitVec 5) (b : BitVec 5) (m : BitVec 3) (t : BitVec 2)
  /-- VCMP_NE (R343): Mask of a ≠ b. -/
  | vcmpNe (d : BitVec 3) (a : BitVec 5) (b : BitVec 5) (m : BitVec 3) (t : BitVec 2)
  /-- VCMP_LT (R343): Mask of a < b. -/
  | vcmpLt (d : BitVec 3) (a : BitVec 5) (b : BitVec 5) (m : BitVec 3) (t : BitVec 2)
  /-- VCMP_LE (R343): Mask of a ≤ b. -/
  | vcmpLe (d : BitVec 3) (a : BitVec 5) (b : BitVec 5) (m : BitVec 3) (t : BitVec 2)
  /-- VCMP_GT (R343): Mask of a > b. -/
  | vcmpGt (d : BitVec 3) (a : BitVec 5) (b : BitVec 5) (m : BitVec 3) (t : BitVec 2)
  /-- VCMP_GE (R343): Mask of a ≥ b. -/
  | vcmpGe (d : BitVec 3) (a : BitVec 5) (b : BitVec 5) (m : BitVec 3) (t : BitVec 2)
  /-- VCMP_UN (R343): Mask of lanes where either operand is NaN. -/
  | vcmpUn (d : BitVec 3) (a : BitVec 5) (b : BitVec 5) (m : BitVec 3)
  /-- VCVT_TO (R344): Converts FP32 lanes to a packed narrower format. -/
  | vcvtTo (d : BitVec 5) (a : BitVec 5) (b : BitVec 5) (m : BitVec 3) (t : BitVec 2)
  /-- VCVT_FROM (R344): Widens packed elements exactly to FP32 lanes. -/
  | vcvtFrom (d : BitVec 5) (a : BitVec 5) (b : BitVec 5) (m : BitVec 3)
  /-- VCVT_F2I (R344): Converts FP32 lanes to INT32. -/
  | vcvtF2i (d : BitVec 5) (a : BitVec 5) (m : BitVec 3) (t : BitVec 2)
  /-- VCVT_I2F (R344): Converts INT32 lanes to FP32. -/
  | vcvtI2f (d : BitVec 5) (a : BitVec 5) (m : BitVec 3) (t : BitVec 2)
  /-- VCVT_U2F (R344): Converts UINT32 lanes to FP32. -/
  | vcvtU2f (d : BitVec 5) (a : BitVec 5) (m : BitVec 3) (t : BitVec 2)
  /-- VRED_SUM (R349): Tree-sums active lanes into lane 0 of vD. -/
  | vredSum (d : BitVec 5) (a : BitVec 5) (m : BitVec 3) (t : BitVec 2)
  /-- VRED_MAX (R349): Tree maximum into lane 0. -/
  | vredMax (d : BitVec 5) (a : BitVec 5) (m : BitVec 3) (t : BitVec 2)
  /-- VRED_MIN (R349): Tree minimum into lane 0. -/
  | vredMin (d : BitVec 5) (a : BitVec 5) (m : BitVec 3) (t : BitVec 2)
  /-- VRED_ARGMAX (R349): Lane of the maximum into lane 0. -/
  | vredArgmax (d : BitVec 5) (a : BitVec 5) (m : BitVec 3) (t : BitVec 2)
  /-- VRED_ARGMIN (R349): Lane of the minimum into lane 0. -/
  | vredArgmin (d : BitVec 5) (a : BitVec 5) (m : BitVec 3) (t : BitVec 2)
  /-- VRED_SUM_Q (R349): Tree sum pushed to q6. -/
  | vredSumQ (a : BitVec 5) (m : BitVec 3) (t : BitVec 2)
  /-- VRED_MAX_Q (R349): Tree maximum pushed to q6. -/
  | vredMaxQ (a : BitVec 5) (m : BitVec 3) (t : BitVec 2)
  /-- VRED_MIN_Q (R349): Tree minimum pushed to q6. -/
  | vredMinQ (a : BitVec 5) (m : BitVec 3) (t : BitVec 2)
  /-- VRED_ARGMAX_Q (R349): Lane of the maximum pushed to q6. -/
  | vredArgmaxQ (a : BitVec 5) (m : BitVec 3) (t : BitVec 2)
  /-- VRED_ARGMIN_Q (R349): Lane of the minimum pushed to q6. -/
  | vredArgminQ (a : BitVec 5) (m : BitVec 3) (t : BitVec 2)
  /-- VSCAN_SUM (R350): Inclusive sequential sum scan. -/
  | vscanSum (d : BitVec 5) (a : BitVec 5) (m : BitVec 3) (t : BitVec 2)
  /-- VSCAN_MAX (R350): Inclusive maximum scan. -/
  | vscanMax (d : BitVec 5) (a : BitVec 5) (m : BitVec 3) (t : BitVec 2)
  /-- VSCAN_MIN (R350): Inclusive minimum scan. -/
  | vscanMin (d : BitVec 5) (a : BitVec 5) (m : BitVec 3) (t : BitVec 2)
  /-- VSCAN_SUM_X (R350): Exclusive sum scan. -/
  | vscanSumX (d : BitVec 5) (a : BitVec 5) (m : BitVec 3) (t : BitVec 2)
  /-- VSCAN_MAX_X (R350): Exclusive maximum scan. -/
  | vscanMaxX (d : BitVec 5) (a : BitVec 5) (m : BitVec 3) (t : BitVec 2)
  /-- VSCAN_MIN_X (R350): Exclusive minimum scan. -/
  | vscanMinX (d : BitVec 5) (a : BitVec 5) (m : BitVec 3) (t : BitVec 2)
  /-- VPERM_IDX (R351): Permutes lanes by per-lane indices. -/
  | vpermIdx (d : BitVec 5) (a : BitVec 5) (b : BitVec 5) (m : BitVec 3)
  /-- VPERM_ROT (R351): Rotates lanes by lane 0 of vB. -/
  | vpermRot (d : BitVec 5) (a : BitVec 5) (b : BitVec 5) (m : BitVec 3)
  /-- VPERM_BC (R351): Broadcasts one lane of vA. -/
  | vpermBc (d : BitVec 5) (a : BitVec 5) (b : BitVec 5) (m : BitVec 3)
  /-- VSEL (R351): Selects vA or vB per lane by mask. -/
  | vsel (d : BitVec 5) (a : BitVec 5) (b : BitVec 5) (m : BitVec 3)
  /-- VSFU_EXP2 (R353): Reference exp2 per lane. -/
  | vsfuExp2 (d : BitVec 5) (a : BitVec 5) (m : BitVec 3)
  /-- VSFU_LOG2 (R354): Reference log2 per lane. -/
  | vsfuLog2 (d : BitVec 5) (a : BitVec 5) (m : BitVec 3)
  /-- VSFU_RCP (R352): Reciprocal per lane. -/
  | vsfuRcp (d : BitVec 5) (a : BitVec 5) (m : BitVec 3)
  /-- VSFU_RSQRT (R352): Reciprocal square root per lane. -/
  | vsfuRsqrt (d : BitVec 5) (a : BitVec 5) (m : BitVec 3)
  /-- VSFU_SQRT (R352): Square root per lane. -/
  | vsfuSqrt (d : BitVec 5) (a : BitVec 5) (m : BitVec 3)
  /-- VMOV_SPLAT (R351): Writes a scalar into every active lane. -/
  | vmovSplat (d : BitVec 5) (a : BitVec 5) (m : BitVec 3)
  /-- VMOV_INS (R351): Inserts a scalar into one lane. -/
  | vmovIns (d : BitVec 5) (a : BitVec 5) (b : BitVec 5)
  /-- VMOV_EXT (R351): Pushes one lane to q6. -/
  | vmovExt (a : BitVec 5) (b : BitVec 5)
  /-- VMOV_MV (R351): Copies active lanes of vA. -/
  | vmovMv (d : BitVec 5) (a : BitVec 5) (m : BitVec 3)
  /-- VCOMP (R355): Compresses M dense rows to N:M sparse values and metadata, popping the group from q7. -/
  | vcomp (d : BitVec 5) (a : BitVec 5) (b : BitVec 5) (m : BitVec 3) (n : BitVec 4) (t : BitVec 2)
  /-- VQNT_C (R347): Quantises four MX blocks with computed scales. -/
  | vqntC (d : BitVec 5) (a : BitVec 5) (b : BitVec 5) (m : BitVec 3) (t : BitVec 2)
  /-- VQNT_CR (R347): Quantises with computed scales and writes residuals. -/
  | vqntCr (d : BitVec 5) (a : BitVec 5) (b : BitVec 5) (m : BitVec 3) (t : BitVec 2)
  /-- VQNT_G (R347): Quantises with given scales. -/
  | vqntG (d : BitVec 5) (a : BitVec 5) (b : BitVec 5) (m : BitVec 3) (t : BitVec 2)
  /-- VQNT_GR (R347): Quantises with given scales and writes residuals. -/
  | vqntGr (d : BitVec 5) (a : BitVec 5) (b : BitVec 5) (m : BitVec 3) (t : BitVec 2)
  /-- VDQNT (R348): Dequantises packed elements times their block scale. -/
  | vdqnt (d : BitVec 5) (a : BitVec 5) (b : BitVec 5) (m : BitVec 3)
  /-- VDQNT_ACC (R348): Dequantises and adds into vD. -/
  | vdqntAcc (d : BitVec 5) (a : BitVec 5) (b : BitVec 5) (m : BitVec 3)
  /-- VRAND_U (R356): Writes 128 raw draws. -/
  | vrandU (d : BitVec 5) (m : BitVec 3)
  /-- VRAND_F (R356): Writes 128 uniform FP32 draws. -/
  | vrandF (d : BitVec 5) (m : BitVec 3)
  /-- VMASK_AND (R357): Mask AND. -/
  | vmaskAnd (d : BitVec 3) (a : BitVec 3) (b : BitVec 3)
  /-- VMASK_OR (R357): Mask OR. -/
  | vmaskOr (d : BitVec 3) (a : BitVec 3) (b : BitVec 3)
  /-- VMASK_XOR (R357): Mask XOR. -/
  | vmaskXor (d : BitVec 3) (a : BitVec 3) (b : BitVec 3)
  /-- VMASK_ANDN (R357): Mask AND NOT. -/
  | vmaskAndn (d : BitVec 3) (a : BitVec 3) (b : BitVec 3)
  /-- VMASK_NOT (R357): Mask NOT. -/
  | vmaskNot (d : BitVec 3) (a : BitVec 3)
  /-- VMASK_MOV (R357): Mask copy. -/
  | vmaskMov (d : BitVec 3) (a : BitVec 3)
  /-- VMASK_FIRST (R357): Keeps the lowest set bit of a mask. -/
  | vmaskFirst (d : BitVec 3) (a : BitVec 3)
  /-- VMASK_CNT (R357): Pushes a mask's population count to q6. -/
  | vmaskCnt (a : BitVec 3)
  /-- VQIN (R358): Pops a row from q2 into vD. -/
  | vqin (d : BitVec 5) (m : BitVec 3)
  /-- VQIN_Q5 (R358): Pops an accumulator row from q5 into vD. -/
  | vqinQ5 (d : BitVec 5) (m : BitVec 3)
  /-- VQIN_S (R358): Pops a scalar from q7 into every active lane. -/
  | vqinS (d : BitVec 5) (m : BitVec 3)
  /-- VQOUT (R358): Pushes vA as a row to q3. -/
  | vqout (a : BitVec 5) (m : BitVec 3)
  /-- VQOUT_Q11 (R358): Pushes vA as a row to q11. -/
  | vqoutQ11 (a : BitVec 5) (m : BitVec 3)
  /-- VIOTA_IDX (R351): Writes each lane's index. -/
  | viotaIdx (d : BitVec 5) (m : BitVec 3)
  /-- VIOTA_CNT (R351): Writes the count of mask bits below each lane. -/
  | viotaCnt (d : BitVec 5) (a : BitVec 3) (m : BitVec 3)
  /-- MMA (R364): Checks and records a dense tile command in the open batch. -/
  | mma (k : BitVec 2) (a : BitVec 6) (b : BitVec 6) (c : BitVec 1) (e : BitVec 1)
  /-- MMAS (R364): Checks and records a sparse tile command with metadata. -/
  | mmas (k : BitVec 2) (a : BitVec 6) (b : BitVec 6) (v : BitVec 5) (c : BitVec 1) (e : BitVec 1)
  /-- MMAT (R364): Checks and records a ternary tile command. -/
  | mmat (k : BitVec 2) (a : BitVec 6) (b : BitVec 6) (c : BitVec 1) (e : BitVec 1)
  /-- MDIST (R370): Records a squared-distance tile command. -/
  | mdist (k : BitVec 2) (a : BitVec 6) (b : BitVec 6) (e : BitVec 1)
  /-- MTOPK (R371): Records a top-k tile command. -/
  | mtopk (k : BitVec 2) (a : BitVec 6) (b : BitVec 6) (e : BitVec 1) (n : BitVec 3)
  /-- MZERO (R376): Zeroes an accumulator and starts its command window. -/
  | mzero (k : BitVec 2)
  /-- MLOAD (R377): Loads an accumulator tile from scratchpad and starts its window. -/
  | mload (k : BitVec 2) (v : BitVec 5) (c : BitVec 1) (i : BitVec 1)
  /-- MSTORE (R378): Writes an accumulator tile to scratchpad, optionally narrowed. -/
  | mstore (k : BitVec 2) (v : BitVec 5) (c : BitVec 1) (f : BitVec 3)
  /-- MRD_ROW (R379): Pushes accumulator rows to q5. -/
  | mrdRow (k : BitVec 2) (v : BitVec 5)
  /-- MRD_COL (R379): Pushes accumulator columns to q5. -/
  | mrdCol (k : BitVec 2) (v : BitVec 5)
  /-- MRD_RCK (R379): Pushes the row-checksum vector to q5. -/
  | mrdRck (k : BitVec 2)
  /-- MRD_CCK (R379): Pushes the column-checksum vector to q5. -/
  | mrdCck (k : BitVec 2)
  /-- MWR_ROW (R379): Pops rows from q11 into the accumulator. -/
  | mwrRow (k : BitVec 2) (v : BitVec 5) (i : BitVec 1)
  /-- MWR_COL (R379): Pops columns from q11 into the accumulator. -/
  | mwrCol (k : BitVec 2) (v : BitVec 5) (i : BitVec 1)
  /-- MWR_RCK (R379): Pops the row-checksum vector from q11. -/
  | mwrRck (k : BitVec 2)
  /-- MWR_CCK (R379): Pops the column-checksum vector from q11. -/
  | mwrCck (k : BitVec 2)
  /-- MCOMMIT (R366): Commits the open batch to the array and takes a scoreboard entry. -/
  | mcommit
  /-- MWAIT (R374): Holds MAT until at most n committed batches remain. -/
  | mwait (n : BitVec 2)
  /-- MWAIT_ACC (R374): Holds MAT until no committed command on aK remains. -/
  | mwaitAcc (k : BitVec 2)
  /-- MCKS (R380): Compares checksums with elements, sets LOC and pushes a result row. -/
  | mcks (k : BitVec 2) (v : BitVec 5)
  /-- MFIX (R381): Corrects the element or checksum that LOC names. -/
  | mfix (k : BitVec 2)
  /-- ARRAY_COMMAND_START (R367): The array begins the next committed tile command. -/
  | arrayCommandStart (t : Nat)
  /-- ARRAY_COMMAND_RETIRE (R368): A tile command's results take effect in its accumulator at the end of its last clock. -/
  | arrayCommandRetire (t : Nat)
  /-- XCOPY (R324): Copies a linear range into scratchpad through a handle. -/
  | xcopy (h : BitVec 6) (a : BitVec 6)
  /-- XCOPY_T (R324): Copies a tensor box into scratchpad. -/
  | xcopyT (h : BitVec 6) (s : BitVec 3) (a : BitVec 6)
  /-- XCOPY_S (R324): Copies scratchpad to scratchpad. -/
  | xcopyS (h : BitVec 6) (a : BitVec 6)
  /-- XPUT (R324): Copies scratchpad to linear memory at home. -/
  | xput (h : BitVec 6) (a : BitVec 6)
  /-- XPUT_T (R324): Copies scratchpad to a tensor box. -/
  | xputT (h : BitVec 6) (s : BitVec 3) (a : BitVec 6)
  /-- XGATH (R329): Gathers indexed rows straight into a plane tile. -/
  | xgath (h : BitVec 6) (s : BitVec 3) (a : BitVec 6)
  /-- XSCAT_O (R330): Scatters rows in index order. -/
  | xscatO (h : BitVec 6) (s : BitVec 3) (a : BitVec 6)
  /-- XSCAT_ADD (R330): Scatters rows combining by addition. -/
  | xscatAdd (h : BitVec 6) (s : BitVec 3) (a : BitVec 6)
  /-- XSCAT_MAX (R330): Scatters rows combining by maximum. -/
  | xscatMax (h : BitVec 6) (s : BitVec 3) (a : BitVec 6)
  /-- XSCAT_MIN (R330): Scatters rows combining by minimum. -/
  | xscatMin (h : BitVec 6) (s : BitVec 3) (a : BitVec 6)
  /-- XPACK (R328): Packs a slot's box into a plane tile, K along dimension 0. -/
  | xpack (h : BitVec 6) (s : BitVec 3) (a : BitVec 6)
  /-- XPACK_K1 (R328): Packs a slot's box into a plane tile, K along dimension 1. -/
  | xpackK1 (h : BitVec 6) (s : BitVec 3) (a : BitVec 6)
  /-- XPACK_S (R328): Packs scratchpad lanes into a plane tile. -/
  | xpackS (h : BitVec 6) (a : BitVec 6)
  /-- XHALO (R331): Sends a halo face to a neighbour die's scratchpad and counting barrier. -/
  | xhalo (h : BitVec 6) (a : BitVec 6) (d : BitVec 4)
  /-- XFILL (R332): Fills a scratchpad range with a 64-bit pattern. -/
  | xfill (h : BitVec 6) (a : BitVec 6)
  /-- XREL (R333): Frees a handle. -/
  | xrel (h : BitVec 6)
  /-- XABORT (R334): Aborts the copy bound to a handle. -/
  | xabort (h : BitVec 6)
  /-- COPY_UNIT_LANDS (R318): A unit of an accepted copy is translated, checked and lands, advancing WP. -/
  | copyUnitLands (k : Nat)
  /-- HALO_ARRIVAL (R216): A landed halo adds to the destination counting barrier or is refused. -/
  | haloArrival (k : Nat)
  /-- LYSET (R390): Writes a checked slot record and rank list into a layout slot on every die. -/
  | lyset (j : BitVec 8) (s : BitVec 6) (t : BitVec 6)
  /-- LYSET_GET (R390): Writes the issuing die's layout word and slot state to memory. -/
  | lysetGet (j : BitVec 8) (s : BitVec 6)
  /-- RESHARD (R393): Starts an asynchronous exchange into a target layout. -/
  | reshard (j : BitVec 8) (s : BitVec 6)
  /-- COLL_SUM (R397): Starts a summing collective derived from the layout pair. -/
  | collSum (j : BitVec 8) (s : BitVec 6) (t : BitVec 6)
  /-- COLL_MAX (R397): Starts a maximum collective. -/
  | collMax (j : BitVec 8) (s : BitVec 6) (t : BitVec 6)
  /-- COLL_MIN (R397): Starts a minimum collective. -/
  | collMin (j : BitVec 8) (s : BitVec 6) (t : BitVec 6)
  /-- COLL_AMERGE (R399): Starts an attention-merge collective. -/
  | collAmerge (j : BitVec 8) (s : BitVec 6) (t : BitVec 6)
  /-- COLL_RING (R401): Starts a ring pass of pieces around one axis. -/
  | collRing (j : BitVec 8) (s : BitVec 6) (t : BitVec 6)
  /-- RANKS (R389): Binds a rank-list slot and reads the list. -/
  | ranks (n : BitVec 2) (s : BitVec 6) (t : BitVec 6)
  /-- RKINV (R389): Drops the cached copy of a rank list. -/
  | rkinv (n : BitVec 2)
  /-- FWAIT (R405): Holds FAB until no FAB entry is pending. -/
  | fwait
  /-- FWAIT_SLOT (R405): Holds FAB until the slot is stable, empty or aborted. -/
  | fwaitSlot (j : BitVec 8)
  /-- RESID (R400): Binds or unbinds a residual buffer for .sum collectives. -/
  | resid (j : BitVec 8) (s : BitVec 6) (t : BitVec 6)
  /-- FABORT (R406): Aborts every pending or parked FAB operation of the thread. -/
  | fabort
  /-- COLL_STEP (R398): A member's collective step receives and combines its partner's data. -/
  | collStep (k : Nat)
  /-- COLL_WATCHDOG_EXPIRY (R403): A step's watchdog of 2^22 fabric clocks expires and the operation aborts. -/
  | collWatchdogExpiry (k : Nat)
  /-- RESHARD_EXCHANGE_COMPLETE (R391): Every re-shard copy is performed and each die's slot takes the target layout. -/
  | reshardExchangeComplete (k : Nat)
  /-- KVMAP (R425): Enters KTM entries for a segment after checking its headers. -/
  | kvmap (s : BitVec 6)
  /-- KVMAP_NEW (R425): Rewrites the segment's headers as free and enters their entries. -/
  | kvmapNew (s : BitVec 6)
  /-- KVMAP_UN (R425): Removes the KTM entries of a segment. -/
  | kvmapUn (s : BitVec 6)
  /-- KVLOCK (R426): Locks the KTM entries of a segment. -/
  | kvlock (s : BitVec 6)
  /-- KVLOCK_UN (R426): Unlocks the KTM entries of a segment. -/
  | kvlockUn (s : BitVec 6)
  /-- KVAPP (R431): Appends slots with position ids to one or two blocks. -/
  | kvapp (s : BitVec 6)
  /-- KVROLL (R432): Rolls blocks back to a sequence slot. -/
  | kvroll (s : BitVec 6)
  /-- PATT (R440): Starts in-cache partial attention over a segment. -/
  | patt (q : BitVec 5) (s : BitVec 6)
  /-- MPROG (R436): Validates and loads a mask program into a mask slot. -/
  | mprog (n : BitVec 2) (s : BitVec 6) (t : BitVec 6)
  /-- MEVAL (R438): Classes a grid of tiles and lands the classes in a handle. -/
  | meval (n : BitVec 2) (s : BitVec 6)
  /-- CENT (R446): Starts background clustering of keys into a centroid table. -/
  | cent (s : BitVec 6)
  /-- CSEL (R447): Scores centroids and writes a selection slot. -/
  | csel (q : BitVec 5) (s : BitVec 6)
  /-- RETN (R449): Writes retention bytes from scratchpad. -/
  | retn (s : BitVec 6) (t : BitVec 6)
  /-- RETN_Q (R449): Writes retention bytes popped from q9. -/
  | retnQ (s : BitVec 6)
  /-- SIEVE (R450): Starts compaction of a segment by retention threshold. -/
  | sieve (s : BitVec 6)
  /-- AWAIT (R451): Holds ATN until no ATN entry is pending. -/
  | await
  /-- AWAIT_ABORT (R452): Aborts every pending or parked ATN entry of the thread. -/
  | awaitAbort
  /-- MCNT_CLR (R439): Clears the three tile counters. -/
  | mcntClr
  /-- PATT_DONE (R444): Carry-network records have landed, the entry becomes done and counters are raised. -/
  | pattDone (k : Nat)
  /-- CENT_KEY_UPDATE (R446): Assigns one key to a centroid and updates it. -/
  | centKeyUpdate (k : Nat)
  /-- SIEVE_COMPACT (R450): The sieve compacts kept tokens at home and writes its record. -/
  | sieveCompact (k : Nat)
  /-- BAR (R210): Arrives at a group barrier and waits for completion. -/
  | bar (b : BitVec 3) (k : BitVec 3) (s : BitVec 6)
  /-- BAR_ARR (R210): Arrives at a group barrier without waiting. -/
  | barArr (b : BitVec 3) (k : BitVec 3) (s : BitVec 6)
  /-- BAR_WT (R210): Waits for a pending barrier arrival to complete. -/
  | barWt (b : BitVec 3) (k : BitVec 3)
  /-- CBAR_INIT (R215): Arms a counting barrier with a target. -/
  | cbarInit (n : BitVec 4) (s : BitVec 6)
  /-- CBAR_ADD (R215): Adds to a counting barrier's count. -/
  | cbarAdd (n : BitVec 4) (s : BitVec 6)
  /-- CBAR_WAIT (R215): Waits until COUNT reaches TARGET. -/
  | cbarWait (n : BitVec 4)
  /-- CBAR_TAKE (R215): Waits, then subtracts TARGET from COUNT. -/
  | cbarTake (n : BitVec 4)
  /-- CBAR_FREE (R215): Releases a counting barrier. -/
  | cbarFree (n : BitVec 4)
  /-- SBAR_P (R221): Arrives for the producer of a ring slot. -/
  | sbarP (n : BitVec 3)
  /-- SBAR_C (R221): Arrives for the consumer of a ring slot. -/
  | sbarC (n : BitVec 3)
  /-- SBAR_ARRIVAL_EFFECT (R221): A ring arrival takes effect once earlier party words have executed and settled. -/
  | sbarArrivalEffect (n : Nat)
  /-- RING (R219): Declares a ring region on a ring slot. -/
  | ring (n : BitVec 3) (s : BitVec 6) (t : BitVec 6)
  /-- RING_REL (R219): Releases a ring slot. -/
  | ringRel (n : BitVec 3)
  /-- PHASE_NEW (R225): Empties the thread's phase sets and advances its phase number. -/
  | phaseNew
  /-- PHASE_RD (R226): Sets a read range of an engine's phase set after the overlap check. -/
  | phaseRd (r : BitVec 2) (e : BitVec 3) (s : BitVec 6) (t : BitVec 6)
  /-- PHASE_WR (R226): Sets a write range of an engine's phase set after the overlap check. -/
  | phaseWr (r : BitVec 2) (e : BitVec 3) (s : BitVec 6) (t : BitVec 6)
  /-- TKLEND (R264): Lends a token piece to a party. -/
  | tklend (s : BitVec 6) (t : BitVec 6)
  /-- TKRET (R265): Returns a piece to its most recent lender. -/
  | tkret (s : BitVec 6) (t : BitVec 6)
  /-- TKSPLIT (R266): Splits a piece at an address. -/
  | tksplit (s : BitVec 6) (t : BitVec 6)
  /-- TKJOIN (R266): Joins two adjacent pieces. -/
  | tkjoin (s : BitVec 6) (t : BitVec 6)
  /-- TKSHARE (R267): Adds a read-share of a piece. -/
  | tkshare (s : BitVec 6) (t : BitVec 6)
  /-- TKUNSH (R267): Removes a read-share of a piece. -/
  | tkunsh (s : BitVec 6) (t : BitVec 6)
  /-- TKRECL (R268): Reclaims a lost or reclaimed piece with a verdict. -/
  | tkrecl (s : BitVec 6) (t : BitVec 6)
  /-- TOKEN_WAIT_RESUME (R264): A tklend or tkret held for N = 0 proceeds once the shares are gone. -/
  | tokenWaitResume (t : Nat)
  /-- RWB (R271): Writes back dirty bytes of a range from the issuing die's remote-data cache. -/
  | rwb (s : BitVec 6) (t : BitVec 6)
  /-- RINV (R271): Invalidates the issuing die's remote-data cache lines of a range. -/
  | rinv (s : BitVec 6) (t : BitVec 6)
  /-- LAUNCH (R192): Reads a launch body and submits a child node. -/
  | launch (n : BitVec 4) (s : BitVec 6)
  /-- CWAIT (R193): Waits for the child in a slot to end. -/
  | cwait (n : BitVec 4)
  /-- CWAIT_ALL (R193): Waits for every child slot's node to end. -/
  | cwaitAll
  /-- SEED_PUSH (R123): Pushes a seed-stack entry with key s[S]. -/
  | seedPush (s : BitVec 6)
  /-- SEED_POP (R123): Discards the top seed-stack entry. -/
  | seedPop
  /-- SEED_FORK (R123): Pushes a forked key of the top entry. -/
  | seedFork (s : BitVec 6)
  /-- TRAP (R138): Raises USER_TRAP with an immediate and a scalar. -/
  | trap (i : BitVec 8) (s : BitVec 6)
  /-- RESUME_WAIT (R136): Waits until no entry is pending and rewrites the record's scoreboard. -/
  | resumeWait (s : BitVec 6)
  /-- RESUME_ABORT (R136): Aborts asynchronous work, then waits and rewrites the scoreboard. -/
  | resumeAbort (s : BitVec 6)
  /-- ERET (R137): Reloads saved state, applies SKIP and restarts the thread from its handler. -/
  | eret
  /-- TLBI_VA (R245): Shoots down leaf entries for a page on every die. -/
  | tlbiVa (s : BitVec 6) (t : BitVec 6)
  /-- TLBI_TEN (R245): Shoots down a tensor's directory and tile entries. -/
  | tlbiTen (s : BitVec 6) (t : BitVec 6)
  /-- TLBI_CTX (R245): Shoots down every entry of a context. -/
  | tlbiCtx (t : BitVec 6)
  /-- TLBI_ALL (R245): Shoots down every translation entry. -/
  | tlbiAll
  /-- TLBI_ACKNOWLEDGE (R246): A translation agent or LLTC acknowledges a removal once its users are performed. -/
  | tlbiAcknowledge (d : Nat)
  /-- REPLAY (R249): Retranslates every parked access of the named contexts. -/
  | replay (s : BitVec 6)
  /-- CTXSV (R145): Pre-empts the gang on a core into a frame area. -/
  | ctxsv (s : BitVec 6) (t : BitVec 6)
  /-- CTXLD (R145): Restores a saved gang from a frame area onto free cores. -/
  | ctxld (s : BitVec 6) (t : BitVec 6)
  /-- WAIT_GEU (R295): Waits until a dword at home is unsigned-at-least a value. -/
  | waitGeu (s : BitVec 6) (t : BitVec 6)
  /-- WAIT_EQ (R295): Waits until a dword equals a value. -/
  | waitEq (s : BitVec 6) (t : BitVec 6)
  /-- WAIT_NE (R295): Waits until a dword differs from a value. -/
  | waitNe (s : BitVec 6) (t : BitVec 6)
  /-- WAIT_LTU (R295): Waits until a dword is unsigned-below a value. -/
  | waitLtu (s : BitVec 6) (t : BitVec 6)
  /-- WAIT_SB (R295): Waits until the thread has no pending scoreboard entry. -/
  | waitSb
  /-- MEMORY_WAIT_RECHECK (R295): A memory wait rereads its dword after a write at home or 1 µs. -/
  | memoryWaitRecheck (t : Nat)
  /-- HALT (R146): Ends the thread once earlier words execute and entries complete. -/
  | halt
  /-- WRCFG (R26): Writes a configuration register of the issuing die. -/
  | wrcfg (n : BitVec 8) (s : BitVec 6)
  /-- RDCFG (R26): Reads a configuration register of the issuing die into a scalar. -/
  | rdcfg (n : BitVec 8) (s : BitVec 6)
  /-- PWR_ST (R469): Reads PWRST into a scalar. -/
  | pwrSt (s : BitVec 6)
  /-- PWR_HINT (R469): Sets the thread's power hint class. -/
  | pwrHint (s : BitVec 6)
  /-- FETCH (R159): Fetch hands up to four words per clock to the splitter along SEQ's control flow. -/
  | fetch (t : Nat)
  /-- MARKER_REACHES_HEAD (R165): A marker reaches its queue head and lowers its join slot count. -/
  | markerReachesHead (t : Nat) (e : Nat)
  /-- QUEUE_DEADLOCK (R164): A stuck set unchanged for 65,536 core clocks raises QUEUE_DEADLOCK. -/
  | queueDeadlock (t : Nat)
  /-- SCRATCHPAD_WRITE_PERFORM (R288): A scratchpad write is performed when its producer's exposed latency has elapsed. -/
  | scratchpadWritePerform (n : Nat)
  /-- NINES_COMPARE (R459): The nines core produces its copy of a compared value and releases or withholds it. -/
  | ninesCompare (t : Nat) (reg : Bool) (num : Nat) (nines : Dword)
  /-- TRAP_TAKEN_USER (R134): Once engines have stopped, the record is written and SEQ starts at the user handler. -/
  | trapTakenUser (t : Nat)
  /-- TRAP_TAKEN_SYSTEM (R139): Once engines have stopped, the record goes to a frame, the thread stops and an event is signalled. -/
  | trapTakenSystem (t : Nat)
  /-- GANG_PREEMPT (R141): The scheduler chooses a gang for pre-emption and its members stop. -/
  | gangPreempt (g : Nat)
  /-- GANG_SAVED (R141): Entries settle and frames are written, freeing the cores. -/
  | gangSaved (g : Nat)
  /-- GANG_RESTORE (R147): A saved gang is re-dispatched and reloaded from its frames. -/
  | gangRestore (g : Nat) (die : Nat) (core : Nat)
  /-- GANG_DISPATCH (R179): Free cores let the die scheduler place the next gang of the first fitting node. -/
  | gangDispatch (d : Nat)
  /-- GANG_START (R202): Every member loaded, the members start SEQ together. -/
  | gangStart (g : Nat)
  /-- RESERVATION_TIMEOUT (R180): A node first in its pool that has not placed a gang for 100 µs becomes reserved. -/
  | reservationTimeout (d : Nat)
  /-- RESERVATION_DROP (R181): A die drops a reservation that can never be placed and may log KIND 13. -/
  | reservationDrop (d : Nat)
  /-- CHILD_BOOST_TIMEOUT (R194): A gang held at cwait for 100 µs lifts its descendants' priority. -/
  | childBoostTimeout (g : Nat)
  /-- NODE_ENDING (R177): The last gang's threads have ended and their scoreboards emptied; the verdict is fixed. -/
  | nodeEnding (n : Nat)
  /-- NODE_COMPLETION_RECORD (R189): The completion record is written and successors are informed. -/
  | nodeCompletionRecord (n : Nat)
  /-- LAUNCH_PACKET (R170): A launch packet is accepted, admitted and entered into the graph scheduler. -/
  | launchPacket (q : Nat)
  /-- GRAPH_PACKET (R171): Enters a node list as consecutive nodes. -/
  | graphPacket (q : Nat)
  /-- SEED_PUSH_PACKET (R155): Pushes a key onto the context seed stack. -/
  | seedPushPacket (q : Nat)
  /-- SEED_POP_PACKET (R155): Pops the context seed stack. -/
  | seedPopPacket (q : Nat)
  /-- SEED_FORK_PACKET (R155): Pushes a forked key onto the context seed stack. -/
  | seedForkPacket (q : Nat)
  /-- WAIT_PACKET (R155): Holds its queue until a dword compare holds. -/
  | waitPacket (q : Nat)
  /-- WAIT_PACKET_POLL (R155): Rereads a wait packet's dword at least every 1 µs. -/
  | waitPacketPoll (q : Nat)
  /-- SIGNAL_PACKET (R155): Enters an ordering point that writes a value once earlier nodes end. -/
  | signalPacket (q : Nat)
  /-- SIGNAL_WRITE (R155): Writes the signal value as a domain release after the earlier nodes end. -/
  | signalWrite (n : Nat)
  /-- RESHARD_ON_BEHALF (R395): Performs a re-shard for the host and writes a status. -/
  | reshardOnBehalf (q : Nat)
  /-- CONTEXT_CREATE (R117): Creates a context with its attributes. -/
  | contextCreate (q : Nat)
  /-- CONTEXT_STOP (R117): Pauses a context's queues and pre-empts its gangs. -/
  | contextStop (q : Nat)
  /-- CONTEXT_START (R117): Returns saved gangs to the ready pool and resumes fetch. -/
  | contextStart (q : Nat)
  /-- CONTEXT_DESTROY (R117): Cancels a context's nodes and starts draining. -/
  | contextDestroy (q : Nat)
  /-- CONTEXT_FREED (R117): The last node ends and shoot-down is acknowledged; the context is freed. -/
  | contextFreed (c : Nat)
  /-- RESUME_THREAD (R139): Restarts a stopped thread from its frame. -/
  | resumeThread (q : Nat)
  /-- QATTACH (R157): Attaches a command queue to a context and port. -/
  | qattach (q : Nat)
  /-- QDETACH (R157): Detaches a command queue. -/
  | qdetach (q : Nat)
  /-- QTAIL_WRITE (R150): The host announces packets, or the card drops the write while the port is unusable. -/
  | qtailWrite (q : Nat) (v : Dword)
  /-- EVCONS_WRITE (R486): The host frees event ring space, releasing held events. -/
  | evconsWrite (p : Nat) (v : Dword)
  /-- NCTL_RELEASE (R178): Releases a held node to the ready pools. -/
  | nctlRelease (c : Nat) (n : Nat)
  /-- NCTL_CANCEL (R178): Cancels a node. -/
  | nctlCancel (c : Nat) (n : Nat)
  /-- MIGCMD_WRITE (R242): Queues a migration command. -/
  | migcmdWrite (d : Nat) (v : Dword)
  /-- MIGRATION_START (R242): The migration engine walks the page, marks it migrating, shoots it down and writes back copies. -/
  | migrationStart (d : Nat)
  /-- MIGRATION_FINISH (R242): The page copy ends, the leaf takes the new frame and the status is written. -/
  | migrationFinish (d : Nat)
  /-- TKCMD_CREATE (R252): Creates a token region and writes STATUS. -/
  | tkcmdCreate (d : Nat) (a : Nat)
  /-- TKCMD_DESTROY (R252): Writes back a region's lines, removes its record and writes STATUS. -/
  | tkcmdDestroy (d : Nat) (a : Nat)
  /-- PARK_RING_WRITE (R248): A write of PLBASE or PLPOS retries a held park record. -/
  | parkRingWrite (d : Nat) (n : Nat) (v : Dword)
  /-- PENDCTL_WRITE (R290): Changes which clusters keep pending bits, clearing them. -/
  | pendctlWrite (d : Nat) (v : Dword)
  /-- LNKCTL_RETRAIN (R413): Sends a port into retraining. -/
  | lnkctlRetrain (d : Nat) (p : Nat)
  /-- LNKCTL_DISABLE (R413): Turns a port off. -/
  | lnkctlDisable (d : Nat) (p : Nat)
  /-- LNKCTL_ENABLE (R413): Starts training a port. -/
  | lnkctlEnable (d : Nat) (p : Nat)
  /-- LNKCTL_CLEAR (R413): Clears a port's RETRAINS and CRCE counts. -/
  | lnkctlClear (d : Nat) (p : Nat)
  /-- FENCE_CORE (R462): Fences a core, ending its gang. -/
  | fenceCore (d : Nat) (c : Nat)
  /-- FENCE_SLICE (R462): Fences an LLC slice and remaps its lines. -/
  | fenceSlice (d : Nat) (c : Nat) (bad : List Nat)
  /-- PSTATE_WRITE (R490): Requests a power state; a request for G stops dispatch. -/
  | pstateWrite (d : Nat) (v : Dword)
  /-- CONFIG_REGISTER_WRITE (R7): Writes a register that has no behaviour of its own under its access codes. -/
  | configRegisterWrite (d : Nat) (n : Nat) (v : Dword)
  /-- HOME_LOSS (R247): A die's reset, power-down or cut-off ends accesses to it and loses its tokens and records. -/
  | homeLoss (d : Nat)
  /-- ATOMO_ARRIVAL (R294): The ordering unit performs, holds or refuses an arriving atomo. -/
  | atomoArrival (t : Nat)
  /-- ATOMO_RETRY (R294): A refused atomo is sent again within 256 LLC clocks. -/
  | atomoRetry (t : Nat)
  /-- ATOMO_LINE_STALL (R294): A line entry stalled for 2^24 LLC clocks ends its held atomos with SHAPE. -/
  | atomoLineStall (line : Nat)
  /-- RDC_EVICTION (R258): A remote-data cache evicts a line, writing back its dirty bytes. -/
  | rdcEviction (d : Nat) (line : Nat) (bad : BitVec 8)
  /-- CORRECTABLE_ERROR (R455): Corrects an error in place and raises CECC. -/
  | correctableError (d : Nat)
  /-- UNCORRECTABLE_ERROR (R455): Handles a detected uncorrectable error by where it is consumed. -/
  | uncorrectableError (site : UncSite)
  /-- PATROL_SCRUB (R470): Patrol scrubbing reads a granule, rewrites or poisons it. -/
  | patrolScrub (d : Nat) (g : Nat) (bad : Bool)
  /-- ARBITER_PERIOD (R466): At each 10 µs period start the arbiter fixes grants and lifts freezes. -/
  | arbiterPeriod (demand : List Nat)
  /-- DIE_FREEZE (R467): A die that has used its grant's energy stops its core clock until the period ends. -/
  | dieFreeze (d : Nat)
  /-- FLIT_RECEIVE (R409): A receiver checks a flit's CRC and sequence and requests replay on a failure. -/
  | flitReceive (d : Nat) (p : Nat) (num : BitVec 16) (crcOk : Bool)
  /-- LINK_TRAINED (R411): A training or retraining port comes up or degraded. -/
  | linkTrained (d : Nat) (p : Nat) (lanes : Nat)
  /-- LINK_TRAINING_FAILED (R411): A third training attempt fails and the port becomes failed. -/
  | linkTrainingFailed (d : Nat) (p : Nat)
  /-- LINK_REPLAY_LIMIT (R411): A flit replayed 8 times in a row sends the port into retraining. -/
  | linkReplayLimit (d : Nat) (p : Nat)
  /-- LANE_LOST (R411): A lost lane sends the port into retraining. -/
  | laneLost (d : Nat) (p : Nat)
  /-- LINK_RETRAIN_TIMEOUT (R411): A port not trained within 100 µs becomes failed. -/
  | linkRetrainTimeout (d : Nat) (p : Nat)
  /-- PEER_DOWN (R411): A peer die's reset or power-down turns the port off. -/
  | peerDown (d : Nat) (p : Nat)
  /-- ROUTE_TABLES_IN_FORCE (R414): Recomputed route tables come into force after a port change. -/
  | routeTablesInForce
  /-- CXL_LINK_DOWN (R488): An expander link goes down and the second-tier range returns poison. -/
  | cxlLinkDown (d : Nat)
  /-- POWER_ON (R483): Power-on performs a module reset. -/
  | powerOn
  /-- SIDEBAND_RESET (R483): A sideband reset command resets the module, a die or a core. -/
  | sidebandReset (scope : ResetScope) (d : Nat) (c : Nat)
  /-- BRING_UP (R484): After reset a die verifies firmware, trains memory and ports and waits for a path. -/
  | bringUp (d : Nat) (report : BringUpReport)
  /-- DIE_PRESENT (R484): With a path to the anchor, firmware starts, admin queues attach and the die becomes present. -/
  | diePresent (d : Nat)
  /-- SIDEBAND_INVENTORY (R491): Returns each die's geometry, fences, second-tier size and failed step. -/
  | sidebandInventory
  /-- SIDEBAND_ATTEST (R492): Returns a signed attestation report for a nonce, or the certificate chain. -/
  | sidebandAttest (req : AttestRequest)
  /-- SIDEBAND_POWER_READ (R491): Reads PWRST over the sideband. -/
  | sidebandPowerRead (d : Nat)
  /-- SIDEBAND_PLIMIT_WRITE (R468): Writes the module power limit over the sideband. -/
  | sidebandPlimitWrite (v : Dword)
  /-- SIDEBAND_PSTATE_WRITE (R490): Sets a die's requested power state over the sideband. -/
  | sidebandPstateWrite (d : Nat) (v : Dword)
  /-- SIDEBAND_LOG (R491): Reads ELCNT and the ELPOS counts of each die. -/
  | sidebandLog
  /-- MALFORMED_PACKET (R154): A fetched packet whose KIND is not listed or whose header holds a reserved bit, or a context-control packet on a non-admin queue, puts its queue into state error without being accepted. -/
  | malformedPacket (q : Nat)
  /-- MEMORY_ACCESS_PERFORMED (R278): A memory load or store issued by SEQ, ADR or an agent takes effect at its point of performance, returning data or standing at home. -/
  | memoryAccessPerformed (n : Nat)
  /-- LLC_LINE_EVICTION (R463): An LLC slice evicts a dirty line to home memory, charging an uncorrectable one to its last writer's context. -/
  | llcLineEviction (line : Nat) (bad : BitVec 8)
  /-- SLICE_PARTIAL_ATTENTION (R441): An LLC slice computes its partial over one block of an accepted patt, and a fault there parks the whole patt. -/
  | slicePartialAttention (k : Nat)
  /-- RESHARD_PAIR_COPY (R393): One scheduled transfer of a re-shard exchange copies elements between rank areas, or parks on a fault. -/
  | reshardPairCopy (k : Nat)
deriving DecidableEq, Repr

end Sys2Proof
end

