-- ==== Sys2Proof/Machine/State.lean ====
section
/-! DEFINITION. The state of the module as plain data: every register, queue, table, cache, engine-internal record and
outstanding piece of work that the manual gives the machine, and the state after module reset (R483). -/

namespace Sys2Proof.Machine

/-! ## Traps -/

/-- The trap codes of R129. -/
inductive TrapCode where
  | illegalInsn | privilege | reservedField | queueDeadlock | formatUnderflow | pageFault | tileFault | align
  | unowned | shareConflict | remoteHomeLost | staleLayout | kvMiss | ringRange | phaseOverlap | pendingRead
  | layoutTag | accInFlight | shape | sparseMeta | scaleParity | maskProgram | fpEnabled | step | brk | userTrap
  | controlDivergence | uncorrectable | preempt
deriving DecidableEq, Repr, Inhabited

/-- What a raised trap carries into the record (R132): its code, ESTAT and ADDR; `openE` marks the bits of ESTAT, and `openA` an ADDR, for which no chapter
lays down a value, so that a free value stands there once the trap is raised. -/
structure TrapInfo where
  code : TrapCode
  estat : Dword
  addr : Dword
  openE : Dword := 0
  openA : Bool := false
deriving DecidableEq, Repr, Inhabited

/-- A trap raised in a thread and not yet taken: the engine that raised it and what it carries (R126, R142, R244). -/
structure PendTrap where
  eng : Engine
  info : TrapInfo
deriving DecidableEq, Repr, Inhabited

/-- Why an engine is held at its head word; the first three are waits of the wait graph of R164, `page` is the wait for a migration of the page at a linear
address (R241), `outside` is every other wait (memory, a barrier, a token, a handle, the scoreboard, the scheduler, another thread). -/
inductive Wait where
  | page (va : Nat)
  | popEmpty (q : Nat)
  | pushFull (q : Nat)
  | engines (es : List Engine)
  | outside
deriving DecidableEq, Repr, Inhabited

/-! ## Threads -/

/-- The thread states of R125; `absent` is a key that names no thread; `loaded` is a dispatched member not yet started (R202), `leaving`
one that is stopping for a pre-emption (R141). -/
inductive ThreadSt where
  | absent | loaded | running | handler | stopped | leaving | saved | ended
deriving DecidableEq, Repr, Inhabited

/-- What an instruction queue holds (R159): a word, or a marker of a join slot (R110); and in SEQ's queue the pass boundaries
that fetch has crossed and SEQ has not yet executed, which stand in fetch order like SEQ words (R101); the flag says that the boundary
changes RRB. -/
inductive IqItem where
  | word (w : Word)
  | marker (j : Nat)
  | pass (rot : Bool)
deriving DecidableEq, Repr, Inhabited

/-- An instruction-queue entry: its item, text address, place in fetch order and the RRB its names resolve under (R66). -/
structure IqEntry where
  item : IqItem
  addr : TextAddr
  ord : Nat
  rrb : BitVec 4
deriving DecidableEq, Repr, Inhabited

/-- Why fetch is stopped: not at all; until SEQ has executed the delivered word (R97, R99, R103, R106); at a join of a slot
(R111); until SYN's word completes; after a halt (R146). -/
inductive FetchSt where
  | going | onSeq | onJoin (j : Nat) | onSyn | afterHalt
deriving DecidableEq, Repr, Inhabited

/-- A loop-stack entry (R105). -/
structure LoopEntry where
  lcnt : Dword
  drain : BitVec 3
  nst : BitVec 3
  rot : Bool
  start : TextAddr
  body : BitVec 12
deriving DecidableEq, Repr, Inhabited

/-- A seed-stack entry: a key and the VEC and MAT draw counters (R54). -/
structure SeedEntry where
  key : Dword
  vec : BitVec 61
  mat : BitVec 61
deriving DecidableEq, Repr, Inhabited

/-- The states of a scoreboard entry (R133). -/
inductive SbSt where
  | pending | done | failed | parked | aborted
deriving DecidableEq, Repr, Inhabited

/-- A scoreboard entry (R133), with the fetch-order number of its word (R221). -/
structure SbEntry where
  valid : Bool
  st : SbSt
  eng : Engine
  op : BitVec 5
  pc : TextAddr
  obj : BitVec 32
  ord : Nat
deriving DecidableEq, Repr, Inhabited

/-- Which bytes a mask slot holds: the program's halfwords, the constants and the boundaries (R435, R436). -/
structure MaskSlot where
  loaded : Bool
  prog : List (BitVec 16)
  consts : List Word
  bounds : List Word
deriving DecidableEq, Repr, Inhabited

/-- A bound rank list (R389): its address and count, and the cached copy as die keys. -/
structure RankList where
  bound : Bool
  addr : Nat
  count : Nat
  cached : Bool
  dies : List Nat
deriving DecidableEq, Repr, Inhabited

/-- The three header dwords of a plane tile (R325). -/
structure TileHdr where
  d0 : Dword
  d1 : Dword
  d2 : Dword
deriving DecidableEq, Repr, Inhabited

/-- A recorded tile command (R363, R364): OP, accumulator, format word, handles, their bases and header values, metadata,
checksum flag, k of mtopk, the seed entry recorded (its depth, counted from the bottom), and its text address. -/
structure MatCmd where
  op : BitVec 5
  acc : Nat
  fw : Dword
  ha : Nat
  hb : Nat
  baseA : Nat
  baseB : Nat
  hdrA : TileHdr
  hdrB : TileHdr
  mdat : List Row
  ck : Bool
  k : Nat
  seed : Nat
  pc : TextAddr
  /-- since it was recorded a byte of a header that it read has been written, or a handle that it names has been rebound (R382) -/
  spoilt : Bool
deriving DecidableEq, Repr, Inhabited

/-- What the checks of a tile command that waits have found (R364): the metadata read, the base and header of each tile whose header has been read, and whether the
ranges have passed MAT's phase set. -/
structure TileWait where
  regs : List Row
  a : Option (Nat × TileHdr)
  b : Option (Nat × TileHdr)
  phased : Bool
deriving DecidableEq, Repr, Inhabited

/-- A value that SEQ has produced and the nines core has not yet compared (R459): `what` is a queue below 16, physical scalar `what` − 16, or physical predicate
`what` − 80; from the clock `due` on its consumer may use it at the latest. -/
structure SeqResult where
  what : Nat
  due : Nat
deriving DecidableEq, Repr, Inhabited

/-- A committed batch (R366): its number, the commands not yet retired, how many have retired, and the handles it counts in RDR.
Of the first of the rest, once it has started on the array (R367): the draw counter at its start, the array clocks it has
had, the scratchpad bytes it has read (of plane rows by address; of the exponent bytes and scale words of block b above (b + 1) × 2^24), whether one of them
has been written since, and whether it runs again after its window was replayed (R383). -/
structure Batch where
  bn : BitVec 32
  cmds : List MatCmd
  done : Nat
  started : Bool
  drawAt : BitVec 61
  pos : Nat
  got : Tab (Option Byte)
  touched : Bool
  rerun : Bool
  handles : List Nat
  /-- the clock of its commit (R367) -/
  since : Nat := 0
  /-- a stop has abandoned the replay of the first command's window, which is made again when the command starts (R383) -/
  again : Bool := false
deriving DecidableEq, Repr, Inhabited

/-- A located fault left by mcks (R380). -/
inductive MatLoc where
  | none | cell (i j : Nat) | row (i : Nat) | col (j : Nat)
deriving DecidableEq, Repr, Inhabited

/-- A command of a replay window with the key and draw counter it used and the scratchpad ranges it read (R382, R383). -/
structure WinCmd where
  cmd : MatCmd
  key : Dword
  drawAt : BitVec 61
  reads : List (Nat × Nat)
deriving DecidableEq, Repr, Inhabited

/-- The command window of an accumulator (R382): whether an mload (with its address, KIND, CK and the checksum vectors as they stood before it) or an mzero
started it, the commands retired since, and whether it is still replayable. -/
structure MatWin where
  byLoad : Bool
  addr : Nat
  kindInt : Bool
  ck : Bool
  rck : Row
  cck : Row
  cmds : List WinCmd
  bad : Bool
deriving DecidableEq, Repr, Inhabited

/-- The state of an accumulator that no program reads directly (R361): KIND, CKV (held inverted, so that dispatch's value 1 is
the default), LOC and the window. -/
structure AccSt where
  kindInt : Bool
  ckvOff : Bool
  loc : MatLoc
  win : MatWin
deriving DecidableEq, Repr, Inhabited

/-- An mload or mstore under way (R377, R378): its accumulator, scratchpad base, CK and FL, the rows moved so far, and for mload the rows read and
whether one of their bytes has been written since. -/
structure MatMove where
  load : Bool
  acc : Nat
  base : Nat
  ck : Bool
  fl : Nat
  row : Nat
  got : List Row
  touched : Bool
deriving DecidableEq, Repr, Inhabited

/-- Where a partly executed ADR, MAT or SYN word stands: access units performed, the row and the unit within it that it continues from, rows popped
from its queue, rows pushed, and the bytes it has loaded so far (R143, R244, R306). -/
structure Resume where
  unit : Nat
  row : Nat
  sub : Nat
  rows : List Row
  pushed : Nat
  bytes : Tab Byte
  /-- the index of the gathered row under way, once read (R307) -/
  index : Option Nat
  /-- the checks that an ADR word makes once have been passed (R301) -/
  checked : Bool
deriving DecidableEq, Repr, Inhabited

/-- What a thread has contributed to its node's verdict so far (R185): 0 clean, 1 corrected, 2 tainted, 3 cancelled, the
reason, the PC and the clock of the first such event. -/
structure Contrib where
  rank : Nat
  reason : BitVec 8
  pc : TextAddr
  clk : Nat
deriving DecidableEq, Repr, Inhabited

/-- A byte range of scratchpad (phase sets, R224); `len = 0` is empty. -/
structure Range where
  base : Nat
  len : Nat
deriving DecidableEq, Repr, Inhabited

/-- A thread: its identity and placement, its register files, special registers, queues, scoreboard and resumable engine state
(R64, R70, R143). -/
structure Thread where
  st : ThreadSt
  /-- the state it was in when a pre-emption stopped it, and to which it restarts (R141, R147) -/
  was : ThreadSt
  cid : Nat
  node : Nat
  gang : Nat
  member : Nat
  die : Nat
  core : Nat
  /-- instruction memory: 256 KiB of bytes (R58) -/
  text : Tab Byte
  s : Tab Dword
  p : Tab Bool
  v : Tab Row
  m : Tab Mask
  /-- accumulator rows: row i of aK at 128 K + i -/
  acc : Tab Row
  rck : Tab Row
  cck : Tab Row
  accSt : Tab AccSt
  /-- descriptor slots: dword i of dN at 8 N + i (R64, R75) -/
  d : Tab Dword
  slipw : BitVec 13
  lcnt : Dword
  nst : BitVec 3
  drain : BitVec 3
  /-- the loop stack, outermost first; its length is LSTAGE.DEPTH (R104, R105) -/
  loops : List LoopEntry
  rrb : BitVec 4
  /-- entries numbered so or later stand behind the last change of RRB that SEQ has executed (R66); the same for the words set aside (R134) -/
  rrbOrd : Nat
  asideOrd : Nat
  gangIdx : BitVec 32
  gangs : BitVec 32
  lix : Tab (BitVec 17)
  lsz : Tab (BitVec 17)
  fpctl : Dword
  trapvec : Dword
  tsCode : BitVec 8
  tsEng : BitVec 3
  inh : Bool
  mthr : BitVec 8
  mcntf : Word
  mcntp : Word
  mcnte : Word
  /-- the thread seed stack, top first (R121) -/
  seeds : List SeedEntry
  /-- the instruction queues by engine code (R159) -/
  iq : Tab (List IqEntry)
  /-- the instruction queues set aside while a user handler runs (R134) -/
  aside : Tab (List IqEntry)
  /-- why an engine is held at its head word; absent while it is not (R164) -/
  held : Tab (Option Wait)
  fetch : TextAddr
  fetchSt : FetchSt
  /-- the markers of the mark word last delivered that fetch has still to deliver: engine code, join slot, text address (R110, R160) -/
  marks : List (Nat × Nat × TextAddr)
  savedFetch : TextAddr
  savedFetchSt : FetchSt
  savedMarks : List (Nat × Nat × TextAddr)
  /-- fetch-order number of the next entry delivered -/
  nextOrd : Nat
  /-- the scalar architectural queues (q0, q1, q4, q6 to q10), head first (R73) -/
  qs : Tab (List Dword)
  /-- the row architectural queues (q2, q3, q5, q11), head first (R73) -/
  qr : Tab (List Row)
  sb : Tab SbEntry
  pend : Option PendTrap
  /-- the last record's parts that restarts use: SKIP, STEN, STENG (R132, R139, R140) -/
  skip : BitVec 8
  sten : Bool
  steng : BitVec 3
  /-- the code, ESTAT, ADDR, route and nesting of the last trap taken (R132) -/
  recCode : TrapCode
  recEng : Engine
  recEstat : Dword
  recAddr : Dword
  recSystem : Bool
  recNest : Bool
  /-- the frame area that holds the thread's record after a system-routed trap, or none while the record is held in the device (R139) -/
  area : Option Nat
  recHeld : Bool
  /-- the address that the record gives as the PC of a stepped engine (R140) -/
  stepPc : Option TextAddr
  /-- `synStage` of the SYN word set aside while a user handler runs -/
  synAside : Nat
  /-- words each engine has executed since dispatch (CMDIDX, R132) -/
  count : Tab Nat
  adr : Resume
  mat : Resume
  move : Option MatMove
  /-- a halted ADR word's trap (R244) -/
  adrTrap : Option TrapInfo
  /-- an atomo accepted by an ordering unit, and its result once performed (R312) -/
  atomoSent : Bool
  atomoOld : Option Dword
  atomoFail : Option TrapInfo
  /-- an atom on scratchpad that has begun: it returns its old value, it acquires at domain scope (R126, R292) -/
  atomBegun : Option (Bool × Bool)
  /-- fences executed since dispatch (R281) -/
  fences : Nat
  /-- how far the SYN, FAB or XFR head word has come: 0 not begun, 1 its first step made (arrival, removal sent); for launch 2 more than the body
  read with the seed key above it, for ctxsv 2 more than the gang -/
  synStage : Nat
  fabStage : Nat
  /-- the blocks that the kvroll at ATN's head has behind it (R432) -/
  atnAt : Nat
  /-- a memory wait is to read its dword again (R295) -/
  recheck : Bool
  /-- the format word that the tile command waiting at MAT's head has popped from q0 (R163, R364) -/
  fmtHeld : Option Dword
  /-- that command has been recorded and waits at its commit (R364, R366) -/
  commitWait : Bool
  /-- what its checks have found so far (R364) -/
  tileAt : Option TileWait
  /-- what SEQ has produced and the nines core has not compared, oldest first (R459) -/
  results : List SeqResult
  /-- the bytes that the retn waiting at ATN's head has sampled (R449) -/
  atnData : Option (List Byte)
  /-- the model's own: the number of the free values that stand in its frame for the resumable engine state (R143, log entry 8) -/
  frameAt : Nat
  /-- open batch, committed batches oldest first, next batch number (R363, R366) -/
  batch : List MatCmd
  batches : List Batch
  bn : BitVec 32
  masks : Tab MaskSlot
  /-- selection slots, held inverted so that dispatch's all ones is the default: slot 64 n + h (R428, R447) -/
  selOff : Tab Dword
  ranks : Tab RankList
  child : Tab Nat
  launches : Nat
  /-- PENDING bits of group barriers at 8 k + id (R208) -/
  pending : Tab Bool
  phase : Nat
  /-- phase sets: engine e's read range r at 8 e + r, write range r at 8 e + 4 + r (R224) -/
  phases : Tab Range
  /-- hint class XOR 2, so that dispatch's class 2 is the default (R468) -/
  hintX : BitVec 2
  contrib : Contrib
  /-- the set D of R164 as last seen (bit 8 for fetch), and the clocks for which it has stood unchanged -/
  deadSet : BitVec 9
  stall : Nat
  /-- steps of the default turn order: 0 to 7 an engine, 8 fetch, 9 background work -/
  turn : Nat
deriving DecidableEq, Repr, Inhabited

/-! ## Cluster objects -/

/-- Handle states (R317), in the status-code order of R315. -/
inductive HandleSt where
  | free | filling | full | draining | parked | aborted
deriving DecidableEq, Repr, Inhabited

/-- A buffer handle (R316); `owner` is the gang's key plus one, 0 for none. -/
structure Handle where
  owner : Nat
  st : HandleSt
  base : Nat
  len : Nat
  wp : Nat
  rdr : Nat
deriving DecidableEq, Repr, Inhabited

/-- A counting barrier (R213); `owner` and `ocid` are keys plus one, 0 for none; `waiters` are the threads held at a take or wait, in order. -/
structure Cbar where
  armed : Bool
  owner : Nat
  ocid : Nat
  target : BitVec 32
  count : BitVec 32
  waiters : List Nat
  /-- a halo has arrived whose add stands in COUNT (R287) -/
  halo : Bool
deriving DecidableEq, Repr, Inhabited

/-- A party of a ring (R218): KIND and mask. -/
structure RingParty where
  kind : Bool
  mask : BitVec 8
deriving DecidableEq, Repr, Inhabited

/-- A ring slot (R217); arrival counts of the producer party member x at x, of the consumer party member x at 8 + x. `thread` is the declaring thread. -/
structure Ring where
  active : Bool
  owner : Nat
  thread : Nat
  base : Nat
  ssz : Nat
  stages : Nat
  prod : RingParty
  cons : RingParty
  step : BitVec 32
  counts : Tab (BitVec 32)
deriving DecidableEq, Repr, Inhabited

/-- An sbar arrival that has not yet taken effect (R221): the ring (cluster key times 8 plus slot), the member's count key, the thread,
and the fetch-order bound and party engines it waits for. -/
structure SbarArr where
  ring : Nat
  member : Nat
  thread : Nat
  ord : Nat
  engines : List Engine
deriving DecidableEq, Repr, Inhabited

/-! ## Contexts, nodes and gangs -/

/-- Context states (R117). -/
inductive CtxSt where
  | free | active | stopping | stopped | draining
deriving DecidableEq, Repr, Inhabited

/-- A context and its attributes (R115), its seed stack (R121, top first), its create serial (R275), the last node id given (R172), the package of its order point and
the admin port of its event path (R158), and which gang frame areas are in use (R139, R141). -/
structure Ctx where
  st : CtxSt
  ptroot : BitVec 57
  det : Bool
  sys : Bool
  prio : BitVec 3
  fbase : BitVec 57
  fcnt : BitVec 16
  fsize : BitVec 32
  skey : Dword
  seeds : List SeedEntry
  serial : BitVec 32
  lastNode : BitVec 32
  /-- how many nodes have been entered: a node's place in context order (R172, R179) -/
  entries : Nat
  pkg : Nat
  evPort : Nat
  areas : Tab Bool
deriving DecidableEq, Repr, Inhabited

/-- Node states (R177). -/
inductive NodeSt where
  | none | waiting | held | ready | running | ending | ended
deriving DecidableEq, Repr, Inhabited

/-- A declared operand range (R168). -/
structure NRange where
  kind : BitVec 2
  base : Nat
  len : Nat
deriving DecidableEq, Repr, Inhabited

/-- A graph node: its launch body, image header, ranges, dependences and progress (R167 to R194). -/
structure Node where
  st : NodeSt
  hold : Bool
  cid : Nat
  nid : BitVec 32
  /-- its place in context order (R172, R179) -/
  place : Nat
  image : Nat
  args : Nat
  gangs : Nat
  dies : BitVec 8
  crec : Nat
  nest : Nat
  ptag : BitVec 32
  irq : Bool
  qid : Option Nat
  ordinal : Nat
  tsize : Nat
  dsize : Nat
  toff : Nat
  doff : Nat
  scratch : Nat
  level : Nat
  members : Nat
  ranges : List NRange
  preds : List Nat
  parents : List Nat
  seedKey : Dword
  given : Nat
  live : Nat
  entered : Nat
  verdict : Nat
  reason : BitVec 8
  locDie : Nat
  locCore : Nat
  locPc : TextAddr
  contrib : Contrib
  /-- some thread has contributed, so that `contrib` and the location are a thread's (R185) -/
  contributed : Bool
  /-- dies on which the node may not become reserved again (R181) -/
  dropped : List Nat
  /-- the record of KIND 13 that no die can place it has been written (R181) -/
  unplaceable : Bool
  /-- the four dwords of its nest descriptor as read at acceptance, none without one (R176, R186) -/
  nestD : List Dword
  /-- the gangs whose threads launched it and its ancestors (R190, R194) -/
  byGangs : List Nat
deriving DecidableEq, Repr, Inhabited

/-- A group barrier (R208): open or closed, the members named and the members arrived, by their threads. -/
structure Barrier where
  opened : Bool
  mask : List Nat
  arrived : List Nat
deriving DecidableEq, Repr, Inhabited

/-- Gang states: dispatched and loading, started, being pre-empted, saved in a frame area, retired. -/
inductive GangSt where
  | none | loading | live | stopping | saved | retired
deriving DecidableEq, Repr, Inhabited

/-- A gang (R195): its node, index, level and members' threads; its barriers, keyed by level, id and level-k object; the frame
area it is saved in; whether its descendants are boosted (R194). -/
structure Gang where
  st : GangSt
  node : Nat
  idx : Nat
  level : Nat
  threads : List Nat
  barriers : Tab Barrier
  area : Nat
  byCtxsv : Bool
  boost : Bool
  /-- scratchpad share offsets, by cluster key: offset of the gang's shares in that cluster (R183) -/
  shares : Tab Range
  /-- the cluster objects of a saved gang, under the keys they had (R144) -/
  handles : Tab Handle
  cbars : Tab Cbar
  rings : Tab Ring
  sbars : List SbarArr
deriving DecidableEq, Repr, Inhabited

/-! ## Scratchpad writes under way -/

/-- What a held translation entry is keyed by (R239). -/
inductive TlbKey where
  | leaf (va : Nat) (size : Nat)
  | dir (tid : Nat)
  | tile (tid : Nat) (t : Nat)
deriving DecidableEq, Repr, Inhabited

/-- A translation entry held by a die's caches (R239): die, the cache that holds it (0 the last-level cache, else a cluster plus one), context, key and the
entry's dwords. The newest stands first. -/
structure TlbEnt where
  die : Nat
  unit : Nat
  cid : Nat
  key : TlbKey
  e0 : Dword
  e1 : Dword
deriving DecidableEq, Repr, Inhabited

/-- An ordered atomic as it travels to and waits in an ordering unit (R293, R312); of one on memory, the region (key plus one) under whose token it was checked and
its address in that region's space (R257), and the die, the context and the linear bytes whose translation it has used (R246). -/
structure Atomo where
  thread : Nat
  unit : Nat
  line : Nat
  pa : Nat
  spad : Bool
  cluster : Nat
  rkey : Nat
  va : Nat
  used : TlbEnt
  size : Nat
  op : BitVec 3
  v : Dword
  c : Dword
  q : Nat
  last : Bool
  /-- the requester stream with a reserved holding entry at the unit, none where the issuer has none (R293) -/
  stream : Option Nat
  /-- holds a reserved holding entry rather than a shared one -/
  reserved : Bool
deriving DecidableEq, Repr, Inhabited

/-- What is done to the scratchpad when an issued access is performed (R288, R289, R292): its bytes are written; an atom combines its operand; an
ordered atomic comes to its ordering unit. -/
inductive SpadAct where
  | write
  | atom (op : Nat) (v c : Nat)
  | atomo (a : Atomo)
deriving DecidableEq, Repr, Inhabited

/-- A scratchpad write that is issued and not performed (R288): cluster key, address, what is done, the bytes written (of an atom, as many as its operand has),
the clock it is performed, its writer, and the fetch-order number of its word (R221). -/
structure SPend where
  cluster : Nat
  addr : Nat
  act : SpadAct
  bytes : List Byte
  due : Nat
  thread : Nat
  core : Nat
  eng : Engine
  ord : Nat
deriving DecidableEq, Repr, Inhabited

/-! ## Memory and its agents -/

/-- A dirty line of an LLC slice (R463): the CID of its last writer plus one, 0 for a line that is not dirty, and its dirty granules. -/
structure LlcLine where
  tag : Nat
  dirty : BitVec 8
deriving DecidableEq, Repr, Inhabited

/-- A remote-data cache line (R258): its bytes, whether the clean bytes are filled from home, the dirty mask, the last writer's context, and the last writer's
thread (key plus one, 0 for none), by which a lost holder's lines are known (R268). -/
structure RdcLine where
  data : BitVec 1024
  filled : Bool
  dirty : BitVec 128
  /-- the granules that are poisoned in the cache (R455, R456) -/
  bad : BitVec 8
  /-- the granules with dirty bytes that one write has covered, which clears their poison at home when they are written back (R456) -/
  whole : BitVec 8
  cid : Nat
  by_ : Nat
deriving DecidableEq, Repr, Inhabited

/-- A store issued to memory and not yet performed (R278, R280, R281): issuer, die, physical address, bytes, ordering kind, the fences its thread had executed, and the
region (key plus one, 0 for none) under whose token it was checked (R257). -/
structure Posted where
  thread : Nat
  eng : Engine
  die : Nat
  pa : Nat
  bytes : List Byte
  ord : BitVec 2
  fences : Nat
  cid : Nat
  rkey : Nat
deriving DecidableEq, Repr, Inhabited

/-- A party of R254. `node` is the node's key. -/
inductive Party where
  | domain
  | thread (node : Nat) (x : Nat)
  | engine (node : Nat) (x : Nat) (e : Engine)
  | die (d : Nat)
  | package (p : Nat)
deriving DecidableEq, Repr, Inhabited

/-- Piece states (R253). -/
inductive PieceSt where
  | heldWrite | lent | reclaimed | lost
deriving DecidableEq, Repr, Inhabited

/-- A lender in CHAIN, and whether it has been lost (R265, R272). -/
structure Lender where
  party : Party
  lost : Bool
deriving DecidableEq, Repr, Inhabited

/-- A piece of a region's token (R253). CHAIN and the shares are oldest first. -/
structure Piece where
  base : Nat
  top : Nat
  holder : Party
  chain : List Lender
  shares : List Party
  taint : Bool
  st : PieceSt
  /-- the party with which a lost piece was lost (R268, R274) -/
  lostBy : Option Party
deriving DecidableEq, Repr, Inhabited

/-- A region and its record (R250); `live` is false while no record exists. -/
structure Region where
  live : Bool
  tensor : Bool
  tid : BitVec 16
  base : Nat
  len : Nat
  swManaged : Bool
  home : Nat
  pieces : List Piece
deriving DecidableEq, Repr, Inhabited

/-- A token unit's copy of a region's attributes in its die's HBM (R275). -/
structure RegionCopy where
  live : Bool
  /-- the copy has become uncorrectable (R275) -/
  bad : Bool
  serial : BitVec 32
  region : Region
deriving DecidableEq, Repr, Inhabited

/-- A KV translation entry (R424): die, key, geometry, frame, home, SLOT, REGION, ORD, W, LOCK. The list of them stands in load order. -/
structure KtmEnt where
  die : Nat
  cid : Nat
  seq : Nat
  blk : Nat
  hk : Nat
  dhc : BitVec 2
  fmt : BitVec 5
  frame : Nat
  va : Nat
  /-- the page that it was translated through: first address and bytes (R427) -/
  pageVa : Nat
  pageLen : Nat
  slot : Nat
  region : BitVec 12
  ord : BitVec 2
  w : Bool
  lock : Bool
deriving DecidableEq, Repr, Inhabited

/-- Layout-slot states (R385). -/
inductive SlotSt where
  | empty | stable | resharding | aborted
deriving DecidableEq, Repr, Inhabited

/-- A layout slot on one die (R385, R388, R389, R400). -/
structure LSlot where
  st : SlotSt
  lw : Dword
  fmt : BitVec 5
  rank : Nat
  cur : Bool
  ext : List Nat
  buf0 : Nat
  buf1 : Nat
  rstr : Nat
  dies : List Nat
  cseq : Nat
  resid : Nat
  wire : BitVec 5
deriving DecidableEq, Repr, Inhabited

/-- A line entry of an ordering unit (R293, R294): present, NEXT, and the atomos it holds. -/
structure AtomLine where
  live : Bool
  next : Nat
  held : List Atomo
deriving DecidableEq, Repr, Inhabited

/-- A migration in progress (R242): the command, the leaf's address, the leaf read and the status reached so far. -/
structure Mig where
  cmd : Nat
  cid : Nat
  va : Nat
  sz : Nat
  leafAt : Nat
  leaf : Dword
  newFrame : Nat
deriving DecidableEq, Repr, Inhabited

/-- A park record that cannot be written yet, its source waiting unparked (R248). -/
structure ParkWait where
  die : Nat
  d0 : Dword
  d1 : Dword
  d2 : Dword
  /-- the work that parks once it is written, none where the work has ended (R291) -/
  task : Option Nat
  cid : Nat
  thread : Nat
  /-- it is of an access that a replay has translated again and that has faulted again (R249) -/
  again : Bool
deriving DecidableEq, Repr, Inhabited

/-! ## Asynchronous work -/

/-- One end of a copy unit, in bits: a linear address, a bit of a tile of a tensor (with the bits that a tile of it spans), a scratchpad of some cluster, zeros, a repeated
64-bit pattern, the task's own buffer. -/
inductive Port where
  | lin (bit : Nat)
  | tile (tid : Nat) (t : Nat) (bit : Nat) (span : Nat)
  | spad (cluster : Nat) (bit : Nat)
  | zero
  | pattern (v : Dword)
  | buf (bit : Nat)
deriving DecidableEq, Repr, Inhabited

/-- One unit of an accepted copy (R318, R320). `wp` is the write pointer once it has landed. -/
inductive CopyUnit where
  /-- move `bits` bits -/
  | move (src dst : Port) (bits : Nat) (wp : Nat)
  /-- read an access unit, all its pieces at once (R235, R305), into the buffer from bit `box` -/
  | runIn (pieces : List (Port × Nat)) (box wp : Nat)
  /-- write an access unit, all its pieces at once -/
  | runOut (src : Port) (pieces : List (Port × Nat)) (wp : Nat)
  /-- read-combine-write the elements of an access unit at home, each in format `fmt` (R330): `op` 1 add, 2 max, 3 min -/
  | combine (op : Nat) (fmt : BitVec 5) (src : Port) (pieces : List (Port × Nat)) (elems wp : Nat)
  /-- a row whose index word lies at scratchpad address `index` (R329, R330); bit `box` of the buffer or source is its first -/
  | row (index box wp : Nat)
  /-- land bytes [lo, hi) of the plane tile packed from the buffer (R328) -/
  | pack (lo hi : Nat) (wp : Nat)
  /-- the test of a halo's barrier, before its first byte (R331) -/
  | haloTest
  /-- the barrier add that ends a halo (R331) -/
  | haloAdd
deriving DecidableEq, Repr, Inhabited

/-- A copy (R323 to R332): its handle (64 once the gang that bound it has retired, R322), cluster and base, the units still to land and the buffer they fill; for a packed tile its pack word, element format and whether
the buffer stands by position before lane; whether it writes at home (xput, xscat); for indexed rows the descriptor, the coordinates and the combining
operation (0 none); for a halo its direction plus one (0 for any other copy), its counting barrier and add. -/
structure Copy where
  handle : Nat
  cluster : Nat
  base : Nat
  units : List CopyUnit
  buf : Tab Byte
  packWord : Dword
  packFmt : BitVec 5
  packK : Bool
  atHome : Bool
  desc : List Dword
  origin : List Nat
  comb : Nat
  ord : Nat
  halo : Nat
  haloCbar : Nat
  haloAddN : BitVec 32
deriving DecidableEq, Repr, Inhabited

/-- A partial-attention record (R441): m, l and o. -/
structure Partial where
  m : Word
  l : Word
  o : List Word
deriving DecidableEq, Repr, Inhabited

/-- Accepted partial attention (R440 to R444); `hdr` is what it has read of the header of its present block: FILL, KLO and KHI, in the
frame `frame` (R434). -/
structure Patt where
  handle : Nat
  dst : Nat
  seq : Nat
  blocks : List Nat
  h0 : Nat
  hn : Nat
  qn : Nat
  dh : Nat
  mask : Option MaskSlot
  sel : Option (List Dword)
  q0 : Nat
  scale : Word
  queries : List (List Word)
  parts : Tab Partial
  hdr : Option (Nat × Nat × Nat)
  frame : Nat
  nf : Nat
  np : Nat
  ne : Nat
deriving DecidableEq, Repr, Inhabited

/-- Accepted clustering (R446): the (slot, head) keys still to be assigned, and FILL and the frame of each block whose header has been read, by
block (R434). -/
structure Cent where
  seq : Nat
  keys : List (Nat × Nat)
  fills : List (Nat × Nat × Nat)
  dh : Nat
  radius : Word
  table : Nat
  ncen : Nat
deriving DecidableEq, Repr, Inhabited

/-- An accepted sieve (R450): segment, record address, threshold, the header states to restore on withdrawal with the entries through which the
blocks were set compacting (both empty until then), and whether it moves tokens. -/
structure Sieve where
  seq : Nat
  b0 : Nat
  nb : Nat
  recAt : Nat
  thr : BitVec 8
  prior : List Nat
  ents : List KtmEnt
  moving : Bool
deriving DecidableEq, Repr, Inhabited

/-- One member of a collective: its thread, die, scoreboard slot, handle, destination, form and target layout word, the elements it holds, by flattened
element index, and the wire format that its residual binding gives it, 0 for none (R400). -/
structure CollMember where
  thread : Nat
  die : Nat
  rank : Nat
  sb : Nat
  handle : Nat
  dst : Nat
  fn : Nat
  lt : Dword
  data : Tab (Option Word)
  wire : BitVec 5
  parked : Bool
deriving DecidableEq, Repr, Inhabited

/-- A collective on a slot (R396 to R403): context, slot, its place in the slot's order, members so far, whether it has begun, and steps done. One that has aborted
before every member had issued stands with its reason and the number of members still to issue, which fail as they do. -/
structure Coll where
  cid : Nat
  slot : Nat
  cseq : Nat
  members : List CollMember
  begun : Bool
  step : Nat
  dead : Option (BitVec 8)
  left : Nat
deriving DecidableEq, Repr, Inhabited

/-- One scheduled transfer of a re-shard (R393): source rank, target rank. -/
structure ReshardPair where
  src : Nat
  dst : Nat
deriving DecidableEq, Repr, Inhabited

/-- An event record of 32 bytes (R158). -/
structure EvRec where
  d0 : Dword
  d1 : Dword
  d2 : Dword
deriving DecidableEq, Repr, Inhabited

/-- A re-shard under way (R393, R395). `status` is the status address of a reshard-on-behalf, 0 for none; `issued` is false on behalf of the host,
whose done event, if it asked for one, is `note`. -/
structure Reshard where
  cid : Nat
  slot : Nat
  lt : Dword
  pairs : List ReshardPair
  issued : Bool
  status : Nat
  note : Option EvRec
deriving DecidableEq, Repr, Inhabited

/-- The kinds of asynchronous work. -/
inductive Work where
  | none
  | copy (c : Copy)
  | patt (p : Patt)
  | cent (c : Cent)
  | sieve (v : Sieve)
  | coll (c : Coll)
  | reshard (r : Reshard)
deriving DecidableEq, Repr, Inhabited

/-- A piece of asynchronous work: what it is, the thread that issued it, its die, context and scoreboard slot, and whether it is parked. -/
structure Task where
  work : Work
  thread : Nat
  die : Nat
  cid : Nat
  sb : Nat
  parked : Bool
  /-- the linear address of the migrating page it waits for (R241) -/
  page : Option Nat
  /-- the homes of the pages and tiles on which it has parked (R247) -/
  homes : List Nat
  /-- its work as a replay took it up: until it has gone on from there or parked, the replay waits for it (R249) -/
  again : Option Work := none
deriving DecidableEq, Repr, Inhabited

/-- What a shoot-down removes from the translation caches (R245): the leaves that meet a range, a tensor's entries, a context's, all. -/
inductive TlbSel where
  | page (cid va size : Nat)
  | tensor (cid tid : Nat)
  | ctx (cid : Nat)
  | all
deriving DecidableEq, Repr, Inhabited

/-- Who awaits a shoot-down: a thread held at a tlbi, a die's migration engine, a draining context, no one any more. -/
inductive ShootBy where
  | thread (t : Nat)
  | mig (d : Nat)
  | ctx (c : Nat)
  | nobody
deriving DecidableEq, Repr, Inhabited

/-- A shoot-down awaiting acknowledgement (R245, R246): what it removes, who awaits it and the dies still to acknowledge. -/
structure Shoot where
  sel : TlbSel
  who : ShootBy
  dies : List Nat
deriving DecidableEq, Repr, Inhabited

/-! ## Dies, links and the host -/

/-- Link states, in the code order of LNKST.STATE (R411, R412). -/
inductive LinkSt where
  | off | training | up | degraded | retraining | failed
deriving DecidableEq, Repr, Inhabited

/-- What a packet carries: a thread's ordered atomic, a removal from the translation caches, a write to the host. -/
inductive PacketUse where
  | atomo (t : Nat)
  | shoot (sel : TlbSel) (who : ShootBy)
  | host
deriving DecidableEq, Repr, Inhabited

/-- A packet of the fabric (R410): source die, destination die (the host is 256), its number among the packets of that pair, and what it carries. -/
structure Packet where
  src : Nat
  dst : Nat
  num : Nat
  use : PacketUse
deriving DecidableEq, Repr, Inhabited

/-- The end-to-end numbers of a pair of dies (R410): packets sent; every number below `below` has been received, and those of `got`. -/
structure PairNums where
  sent : Nat
  below : Nat
  got : List Nat
deriving DecidableEq, Repr, Inhabited

/-- A flit (R409): its link sequence number, its type and virtual channel, whose codes the manual does not give, and the packet that its payload holds. -/
structure Flit where
  num : BitVec 16
  head : BitVec 16
  pkt : Packet
deriving DecidableEq, Repr, Inhabited

/-- A Lykai or Diripo port (R409, R411, R412): state, active lanes, counts, training attempts, the number of the next flit sent and the
next expected, and its retry buffer, oldest first, with the place in it of the flit that goes onto the wire next. -/
structure LinkPort where
  st : LinkSt
  lanes : Nat
  retrains : BitVec 16
  crce : BitVec 16
  attempts : Nat
  txNext : BitVec 16
  rxNext : BitVec 16
  retry : List Flit
  cursor : Nat
  unconnected : Bool
  /-- a replay from the next expected flit has been requested of the sender -/
  replay : Bool
  /-- times in a row that the flit which is next to be received has been replayed (R411) -/
  replays : Nat
deriving DecidableEq, Repr, Inhabited

/-- A die: presence and bring-up, fenced units, configuration registers, power (R13, R23, R25, R462, R484, R489). -/
structure Die where
  present : Bool
  /-- the die has completed bring-up since module reset (R229) -/
  everUp : Bool
  step : Nat
  failed : Nat
  offpkg : BitVec 3
  coreBad : Tab Bool
  sliceBad : Tab Bool
  plbase : Dword
  plpos : Dword
  pendctl : Dword
  elbase : Dword
  elpos : Dword
  elcnt : Dword
  /-- DWT.W XOR 32, so that the reset value 32 is the default (R468) -/
  dwtX : BitVec 8
  frozenCnt : BitVec 32
  grant : BitVec 16
  frozen : Bool
  /-- BGBUD XOR its reset value (R470) -/
  bgbudX : BitVec 32
  psReq : BitVec 2
  psCur : BitVec 2
  cxlSize : Nat
  cxlDown : Bool
  reserved : Option Nat
  /-- second CONTROL_DIVERGENCE within a second fences a core: one more than the period in which a core last had one (R460) -/
  diverged : Tab Nat
  migQ : List Nat
  mig : Option Mig
  fwVersion : Nat
  fwMin : Nat
  fwDigest : BitVec 512
  /-- the fused digest of the public key that firmware is verified under (R485) -/
  fwKey : BitVec 512
  /-- lines of its home memory and accumulators (core and number) in which an uncorrectable error has been met since die reset and the value rewritten (R462) -/
  errLines : List Nat
  errAccs : List (Nat × Nat)
deriving DecidableEq, Repr, Inhabited

/-- Command-queue states (R151, R157). -/
inductive QSt where
  | unattached | active | waiting | paused | error
deriving DecidableEq, Repr, Inhabited

/-- A host command queue (R148 to R157). -/
structure HQueue where
  st : QSt
  cid : Nat
  port : Nat
  l : Nat
  wt : Nat
  base : Nat
  hrep : Nat
  head : BitVec 32
  tail : BitVec 32
  /-- the nodes entered so far of the graph packet at HEAD (R171, R173) -/
  entered : List Nat
  /-- the layout slot for which the reshard-on-behalf packet at HEAD waits (R394, R395) -/
  atSlot : Option Nat
  /-- the key on top of the context's seed stack when the launch or graph packet at HEAD was fetched (R122) -/
  kp : Option Dword := none
deriving DecidableEq, Repr, Inhabited

/-- What the device holds for a port (R158, R421): the head report of a queue with its address and value, or an event with the thread whose trap it is. -/
inductive PortWrite where
  | report (q addr value : Nat)
  | event (r : EvRec) (thread : Option Nat)
deriving DecidableEq, Repr, Inhabited

/-- A turn of a port (R152): the queue that has it and the packets it has taken in it. -/
structure PortTurn where
  queue : Nat
  took : Nat
deriving DecidableEq, Repr, Inhabited

/-- An admin port of the host adapter card (R158, R420, R486): ADMQ and ADMEV (held XOR their reset values 4 and 7), the event ring in force, its counts, the writes the device
holds, oldest first, QDROP, and the port's turns by PRIO (R152). -/
structure AdminPort where
  admqX : Dword
  admevX : Dword
  evBase : Nat
  evL : Nat
  prod : BitVec 32
  cons : BitVec 32
  heldOut : List PortWrite
  qdrop : Bool
  turns : Tab PortTurn
deriving DecidableEq, Repr, Inhabited

/-- Whose status a reshard-on-behalf still owes (R395): the operation's slot and die, and its done event. -/
structure StatusDue where
  slot : Nat
  die : Nat
  note : Option EvRec
deriving DecidableEq, Repr, Inhabited

/-- A signal packet entered in the graph scheduler and not yet written (R155); with `store` false, the done event that a graph packet asked for; with
`behalf`, the status of a reshard-on-behalf that has ended, whose page is migrating (R241, R395). -/
structure Signal where
  store : Bool
  qid : Nat
  cid : Nat
  addr : Nat
  value : Dword
  nodes : List Nat
  irq : Bool
  ptag : BitVec 32
  ordinal : BitVec 32
  behalf : Option StatusDue := none
deriving DecidableEq, Repr, Inhabited

/-- What the sideband's inventory says of a die (R491): DGEOM, fenced cores and slices, attached second-tier size and the bring-up step that failed. -/
structure DieReport where
  die : Nat
  dgeom : Dword
  cores : List Nat
  slices : List Nat
  cxlSize : Nat
  failed : Nat
deriving DecidableEq, Repr

/-- What the attestation report says of a die (R492): DGEOM, fenced cores and slices, and the firmware's digest and security version. -/
structure DieClaim where
  die : Nat
  dgeom : Dword
  cores : List Nat
  slices : List Nat
  digest : BitVec 512
  version : Nat
deriving DecidableEq, Repr

/-- The replies the management sideband has returned (R491, R492). -/
inductive SbReply where
  | inventory (dies : List DieReport)
  | attest (nonce : BitVec 256) (dies : List DieClaim) (board : BitVec 512) (signature : BitVec 4096)
  | chain (certificates : List Byte)
  | power (d : Nat) (v : Dword)
  | log (dies : List (Nat × Dword × Dword))
deriving DecidableEq, Repr

/-- Who moves next, when the agenda says so: a device step or outside act, an engine of a thread, or a thread's fetch. -/
inductive Turn where
  | device (i : Instr)
  | engine (t : Nat) (e : Engine)
  | fetch (t : Nat)
deriving DecidableEq, Repr

/-! ## The module -/

/-- The whole machine. Dies are keyed 8 × package + die, clusters 64 × die key + cluster, contexts by CID, nodes by
CID × 2^32 + node id, regions by CID × 4,096 + REGION, layout slots by (die key × 1,024 + CID) × 256 + slot. -/
structure State where
  /-- core clocks since reset: one per step -/
  clk : Nat
  /-- who moves in the next steps; when empty, the default order of `step` applies -/
  agenda : List Turn
  /-- the thread whose words `exec` executes -/
  cur : Nat
  /-- the model's own: turns of background work taken in the default order -/
  bgTurn : Nat
  /-- the model's own: choices the manual leaves to the device, consumed one by one (false when exhausted) -/
  choice : List Bool
  /-- the model's own: counter of free values taken -/
  freeCtr : Nat
  /-- the package number of this module (strap PKGID, R484) -/
  pkgid : Nat
  plimitX : BitVec 16
  period : Dword
  mem : Tab Byte
  poison : Tab Bool
  hostMem : Tab Byte
  rdc : Tab RdcLine
  /-- dirty lines standing in LLC slices (R463), by line number -/
  llc : Tab LlcLine
  posted : List Posted
  spad : Tab Byte
  spoison : Tab Bool
  spend : List SPend
  /-- the scratchpad writes performed in the present clock, in their order (R288) -/
  landed : List SPend
  /-- pending bits: engine and core of each writer of a pending 4-byte word, the latest first, by cluster key × 2^21 + word (R291) -/
  pbits : Tab (List (Engine × Nat))
  tlb : List TlbEnt
  regions : Tab Region
  /-- threads (node and index) that have ended and whose last pieces go back once their accepted ordered atomics are performed (R257, R273, R312) -/
  owed : List (Nat × Nat)
  copies : Tab RegionCopy
  ktm : List KtmEnt
  slots : Tab LSlot
  handles : Tab Handle
  cbars : Tab Cbar
  rings : Tab Ring
  sbars : List SbarArr
  atomo : List Atomo
  refused : List Atomo
  atomLines : Tab AtomLine
  dies : Tab Die
  ports : Tab LinkPort
  dports : Tab LinkPort
  /-- packets sent and not yet received at their destination (R410) -/
  packets : List Packet
  /-- packets that wait at a die's router, oldest first (R414) -/
  routers : List (Nat × Packet)
  /-- end-to-end numbers, by 1,024 × source + destination (R410) -/
  pairs : Tab PairNums
  /-- route tables in force: outgoing port + 1 at die key × 256 + destination key (R414) -/
  routes : Tab Nat
  ctxs : Tab Ctx
  nodes : Tab Node
  gangs : Tab Gang
  threads : Tab Thread
  nextGang : Nat
  nextThread : Nat
  tasks : Tab Task
  nextTask : Nat
  parkWaits : List ParkWait
  shoots : List Shoot
  queues : Tab HQueue
  admin : Tab AdminPort
  signals : List Signal
  sbOut : List SbReply
deriving DecidableEq, Repr

/-! ## How a step can stop -/

/-- The reasons the machine can stop with a fault. The manual gives every event of the device an effect, so no meaning raises one. -/
inductive Fault where
  /-- raised by nothing: the closed type needs a name; safe, since no step answers it -/
  | none
deriving DecidableEq, Repr

/-- The reasons an instruction has no meaning here. -/
inductive Refusal where
  /-- raised by an arm of `exec` whose instruction has no meaning yet, by its mnemonic; safe: the run stops -/
  | notModelled (mnemonic : String)
deriving DecidableEq, Repr

/-- The machine right after module reset (R483): no die present, no context, no thread, every table empty. -/
def State.reset : State :=
  { clk := 0, agenda := [], cur := 0, bgTurn := 0, choice := [], freeCtr := 0, pkgid := 0, plimitX := 0, period := 0, mem := [],
    poison := [], hostMem := [], rdc := [], llc := [], posted := [], spad := [], spoison := [], spend := [], landed := [], pbits := [],
    tlb := [], regions := [], owed := [], copies := [], ktm := [], slots := [], handles := [], cbars := [], rings := [], sbars := [],
    atomo := [], refused := [], atomLines := [], dies := [], ports := [], dports := [], packets := [], routers := [], pairs := [], routes := [], ctxs := [],
    nodes := [], gangs := [], threads := [], nextGang := 0, nextThread := 0, tasks := [], nextTask := 0, parkWaits := [],
    shoots := [], queues := [], admin := [], signals := [], sbOut := [] }

end Sys2Proof.Machine
end

