-- ==== Sys2Proof/Machine/Topo.lean ====
section
/-! DEFINITION. The fabric: the torus of dies and its ports (R13, R14, R411, R416), flits and their retry buffers (R409), packets, their numbers and their
routes (R410, R414). -/

namespace Sys2Proof.Machine

/-- The die of a key. -/
def State.die (s : State) (d : Nat) : Die := s.dies.get d

/-- Replace the record of a die. -/
def State.setDie (s : State) (d : Nat) (f : Die → Die) : State := { s with dies := s.dies.mod d f }

/-! ## Ports -/

/-- A port in these states is usable: up or degraded (R411). -/
def LinkSt.usable : LinkSt → Bool
  | .up => true
  | .degraded => true
  | _ => false

/-- The key of a port of a die: 0 X+, 1 X−, 2 Y+, 3 Y−, 4 Z+, 5 Z− (R412). -/
def portKey (d p : Nat) : Nat := d * 6 + p

/-- A port of a die. -/
def State.port (s : State) (d p : Nat) : LinkPort := s.ports.get (portKey d p)

/-- A dimension is in off-package mode at a die (R14). -/
def State.offPackage (s : State) (d dim : Nat) : Bool := flag (s.die d).offpkg dim

/-- The port leaves the package: a wrap port (R14). -/
def State.wrap (s : State) (d p : Nat) : Bool := s.offPackage d (p / 2) && (decide (d / 2 ^ (p / 2) % 2 = 1) == decide (p % 2 = 0))

/-- The die and port at the other end of a port (R13, R14): on the package the opposite port of the neighbour, off it as the board's wiring has it. -/
def State.peer (s : State) (d p : Nat) : Nat × Nat :=
  if s.wrap d p then (Config.wrapPeer (portKey d p) % 1536 / 6, Config.wrapPeer (portKey d p) % 6)
  else (d / 8 * 8 + (d % 8 ^^^ 2 ^ (p / 2)), p ^^^ 1)

/-- The die that a port leads to. -/
def State.neighbour (s : State) (d p : Nat) : Nat := (s.peer d p).1

/-- The ports of a die that lead where a port leads: in package mode both of the dimension (R414, R416). -/
def State.haloPorts (s : State) (d p : Nat) : List Nat := if s.offPackage d (p / 2) then [p] else [p / 2 * 2, p / 2 * 2 + 1]

/-- Some port of a halo's direction is usable. -/
def State.haloUsable (s : State) (d p : Nat) : Bool := (s.haloPorts d p).any fun q => (s.port d q).st.usable

/-- A port is one end of a Diripo link: of die 0 or die 7 of a package, port 6 the die's end and port 7 the host adapter card's (R419). -/
def isDiripo (d p : Nat) : Bool := (p == 6 || p == 7) && (d % 8 == 0 || d % 8 == 7)

/-- The number of a Diripo port: package × 2, plus 1 for die 7 (R148). -/
def diripoKey (d : Nat) : Nat := d / 8 * 2 + (if d % 8 = 7 then 1 else 0)

/-- The die of a Diripo port. -/
def diripoDie (port : Nat) : Nat := port / 2 * 8 + port % 2 * 7

/-- The place of an end of a Diripo link: the card's ends stand from 512 on. -/
def diripoAt (d p : Nat) : Nat := diripoKey d + (if p = 7 then 512 else 0)

/-- A port of a die by number: 0 to 5 Lykai, 6 and 7 the ends of its Diripo link. -/
def State.anyPort (s : State) (d p : Nat) : LinkPort := if isDiripo d p then s.dports.get (diripoAt d p) else s.port d p

/-- Replace a port. -/
def State.setAnyPort (s : State) (d p : Nat) (f : LinkPort → LinkPort) : State :=
  if isDiripo d p then { s with dports := s.dports.mod (diripoAt d p) f }
  else if p < 6 then { s with ports := s.ports.mod (portKey d p) f } else s

/-- The other end of a link. -/
def State.farEnd (s : State) (d p : Nat) : Nat × Nat := if p < 6 then s.peer d p else (d, p ^^^ 1)

/-- Both ends of a link (R411). -/
def State.bothEnds (s : State) (d p : Nat) (f : LinkPort → LinkPort) : State :=
  let s' := s.setAnyPort d p f
  s'.setAnyPort (s.farEnd d p).1 (s.farEnd d p).2 f

/-! ## Flits (R409) -/

/-- The retry buffer of a port has room (R409). -/
def LinkPort.room (x : LinkPort) : Bool := decide (x.retry.length < 512)

/-- A port sends a packet: it takes the next number, and its flit stays in the retry buffer until acknowledged. A packet of this model fits one flit (DESIGN CHOICE,
log entry 97). -/
def LinkPort.send (x : LinkPort) (k : Packet) : LinkPort :=
  { x with retry := x.retry ++ [{ num := x.txNext, head := Config.flitHead x.txNext, pkt := k }], txNext := x.txNext + 1 }

/-- The flits from a number on go onto the wire again, in order (R409). That number is the next that the other end expects, so that replays with no flit landing between
them are replays of one flit (R411). -/
def LinkPort.replayed (x : LinkPort) (num : BitVec 16) : LinkPort :=
  { x with cursor := (x.retry.findIdx? fun f => f.num == num).getD x.retry.length, replays := x.replays + 1 }

/-- One flit has been replayed 8 times in a row (R411): the port sends no more until it has retrained. -/
def LinkPort.worn (x : LinkPort) : Bool := decide (8 ≤ x.replays)

/-- A flit has been received at the other end; with `ack` its acknowledgement has arrived too, which covers those before it. -/
def LinkPort.landed (x : LinkPort) (num : BitVec 16) (ack : Bool) : LinkPort :=
  match x.retry.findIdx? fun f => f.num == num with
  | none => x
  | some i =>
    let at_ := Nat.max x.cursor (i + 1)
    let x := { x with replays := 0 }
    if ack then { x with retry := x.retry.drop (i + 1), cursor := at_ - (i + 1) } else { x with cursor := at_ }

/-! ## Packets (R410, R414) -/

/-- The key of a pair of dies. -/
def pairKey (src dst : Nat) : Nat := src * 1024 + dst

/-- The port that a router's table names for a packet: of the two of a package-mode dimension the packet's number picks one, and the other takes it where that one is
not usable (R414). -/
def State.nextPort (s : State) (d dst num : Nat) : Option Nat :=
  match s.routes.get (d * 256 + dst) with
  | 0 => none
  | p + 1 =>
    let ps := s.haloPorts d p
    (if num % 2 = 0 then ps else ps.reverse).find? fun q => (s.port d q).st.usable

/-- The tables lead from a die to another over usable ports, in `fuel` hops at most. -/
def State.routed (s : State) : (fuel d dst : Nat) → Bool
  | 0, d, dst => d == dst
  | fuel + 1, d, dst =>
    d == dst || (match s.nextPort d dst 0 with | some p => s.routed fuel (s.neighbour d p) dst | none => false)

/-- A packet sent now would reach a die without waiting at a router (R414, R418). -/
def State.pathOpen (s : State) (d dst : Nat) : Bool := s.routed 256 d dst

/-- Every waiting packet whose next port is usable and has room is sent on, oldest first (R414). -/
def State.forward (s : State) : State :=
  s.routers.foldl (fun s (e : Nat × Packet) =>
    match s.nextPort e.1 e.2.dst e.2.num with
    | some p => if (s.port e.1 p).room then s.setAnyPort e.1 p fun x => x.send e.2 else { s with routers := s.routers ++ [e] }
    | none => { s with routers := s.routers ++ [e] }) { s with routers := [] }

/-- A die sends a packet to another, with the next number of their pair (R410). -/
def State.sendPacket (s : State) (src dst : Nat) (use : PacketUse) : State :=
  let k : Packet := { src := src, dst := dst, num := (s.pairs.get (pairKey src dst)).sent, use := use }
  { s with
    pairs := s.pairs.mod (pairKey src dst) fun x => { x with sent := x.sent + 1 }
    packets := s.packets ++ [k], routers := s.routers ++ [(src, k)] }.forward

/-- A number has been received before (R410). -/
def PairNums.seen (x : PairNums) (n : Nat) : Bool := decide (n < x.below) || x.got.contains n

/-- A number is received; numbers below which none is missing are kept as one bound. -/
def PairNums.receive (x : PairNums) (n : Nat) : PairNums :=
  (List.range (x.got.length + 1)).foldl (fun x _ => if x.got.contains x.below then { x with below := x.below + 1, got := x.got.erase x.below } else x)
    { x with got := x.got ++ [n] }

/-- A packet stands at a die's router: at its destination it is received, or discarded when its number has been received already; elsewhere it is sent on
(R410, R414). -/
def State.arrive (s : State) (d : Nat) (k : Packet) : State :=
  if k.dst ≠ d then State.forward { s with routers := s.routers ++ [(d, k)] }
  else if (s.pairs.get (pairKey k.src d)).seen k.num then s
  else { s with pairs := s.pairs.mod (pairKey k.src d) fun x => x.receive k.num, packets := s.packets.erase k }

/-- A packet is on its way. -/
def State.onWay (s : State) (dst : Nat) (use : PacketUse) : Bool := s.packets.any fun k => k.dst == dst && k.use == use

/-- A die leaves the domain: what it sent or should have received is no longer carried, and what waits at its router starts again at its source (R410, R415). -/
def State.dropPackets (s : State) (d : Nat) : State :=
  let stays := fun (k : Packet) => k.src != d && k.dst != d
  State.forward { s with
    packets := s.packets.filter stays
    routers := (s.routers.filter fun e => stays e.2).map fun e => if e.1 = d then (e.2.src, e.2) else e }

end Sys2Proof.Machine
end

