-- ==== Sys2Proof/Machine/Mem.lean ====
section
/-! DEFINITION. Memory: physical addresses, page and tensor translation, the owner-token check, home memory with poison, remote-data
caches, and the load and store of a translated access (chapters Pages and Translation, Owner Tokens, Memory Ordering). -/

namespace Sys2Proof.Machine

/-! ## Bytes -/

/-- Bytes as a little-endian number (R3). -/
def leNat : List Byte → Nat
  | [] => 0
  | b :: bs => b.toNat + 256 * leNat bs

/-- The low `n` bytes of a number, little-endian (R3). -/
def leBytes (n : Nat) (x : Nat) : List Byte :=
  match n with
  | 0 => []
  | n + 1 => BitVec.ofNat 8 x :: leBytes n (x / 256)

/-- Eight bytes as a dword. -/
def leDword (bs : List Byte) : Dword := BitVec.ofNat 64 (leNat bs)

/-- Cut [a, a + n) at every multiple of `size`, lowest first; `fuel` bounds the number of parts. -/
def chunks (size : Nat) : (fuel a n : Nat) → List (Nat × Nat)
  | 0, _, _ => []
  | fuel + 1, a, n =>
    if n = 0 then []
    else
      let k := Nat.min n (size - a % size)
      (a, k) :: chunks size fuel (a + k) (n - k)

/-- The parts of [a, a + n) between multiples of `size`. -/
def parts (size a n : Nat) : List (Nat × Nat) := chunks size (n / size + 2) a n

/-! ## Dies and physical addresses -/

/-- The home of a physical address: bits 49:42, package and die (R229). -/
def homeOf (pa : Nat) : Nat := pa / 2 ^ 42 % 256

/-- Bits 41:0 of a physical address. -/
def localOf (pa : Nat) : Nat := pa % 2 ^ 42

/-- The address lies in the die's HBM of 64 GiB (R18, R229). -/
def isHbm (pa : Nat) : Bool := decide (localOf pa < 2 ^ 36)

/-- The address names a die that completed bring-up and has left the domain (R229, R247). -/
def State.paLost (s : State) (pa : Nat) : Bool := (s.die (homeOf pa)).everUp && !(s.die (homeOf pa)).present

/-- The address is a hole (R229). -/
def State.paHole (s : State) (pa : Nat) : Bool :=
  decide (2 ^ 50 ≤ pa) ||
  (!s.paLost pa &&
    (!(s.die (homeOf pa)).everUp ||
      !(isHbm pa || (decide (2 ^ 41 ≤ localOf pa) && decide (localOf pa - 2 ^ 41 < (s.die (homeOf pa)).cxlSize)))))

/-! ## Home memory -/

/-- The granule holding `pa` is poisoned, or lies behind an expander link that is down (R456, R488). -/
def State.paPoison (s : State) (pa : Nat) : Bool :=
  s.poison.get (pa / 16) || (!isHbm pa && (s.die (homeOf pa)).cxlDown)

/-- Some granule of [pa, pa + n) is poisoned. -/
def State.rangePoison (s : State) (pa n : Nat) : Bool := (parts 16 pa n).any fun p => s.paPoison p.1

/-- Bytes at home (R277). -/
def State.homeRead (s : State) (pa n : Nat) : List Byte := s.mem.getRange pa n

/-- The dword at home. -/
def State.homeDword (s : State) (pa : Nat) : Dword := leDword (s.homeRead pa 8)

/-- Clear the poison of every granule that [pa, pa + n) covers wholly (R456). -/
def clearPoison (t : Tab Bool) (pa n : Nat) : Tab Bool :=
  (parts 16 pa n).foldl (fun t p => if p.2 = 16 then t.set (p.1 / 16) false else t) t

/-- Mark granules poisoned (R456). -/
def setPoison (t : Tab Bool) (granules : List Nat) : Tab Bool := granules.foldl (fun t g => t.set g true) t

/-- Writes to the address are discarded: it lies behind an expander link that is down (R488). -/
def State.paDown (s : State) (pa : Nat) : Bool := !isHbm pa && (s.die (homeOf pa)).cxlDown

/-- The usable slices of a die in increasing number (R20). -/
def State.usableSlices (s : State) (d : Nat) : List Nat := (List.range 32).filter fun k => !(s.die d).sliceBad.get k

/-- The slice of a line of the die's own memory (R20). -/
def State.sliceOf (s : State) (pa : Nat) : Nat :=
  let a := localOf pa / 128
  let h := (List.range 7).foldl (fun x i => x ^^^ (a / 2 ^ (5 * i) % 32)) 0
  let d := homeOf pa
  if !(s.die d).sliceBad.get h then h
  else
    let u := s.usableSlices d
    u.getD (a % u.length) h

/-- Two lines stand in one slice. -/
def State.sameSlice (s : State) (k line : Nat) : Bool :=
  homeOf (k * 128) == homeOf (line * 128) && s.sliceOf (k * 128) == s.sliceOf (line * 128)

/-- The granules of a line that bytes [pa, pa + n) of it touch. -/
def granulesAt (pa n : Nat) : BitVec 8 := (List.range 8).foldl (fun m g => if pa % 128 < 16 * g + 16 && 16 * g < pa % 128 + n then m ||| BitVec.ofNat 8 (2 ^ g) else m) 0

/-- Granules of a line become dirty in its slice under a writer's context (R463). A slice holds 32,768 lines (4 MiB, R18); when every one is dirty, the lowest goes out to memory
(DESIGN CHOICE, log entry 92). -/
def State.llcPut (s : State) (t : Tab LlcLine) (line cid : Nat) (granules : BitVec 8) : Tab LlcLine :=
  let full := (t.get line).tag == 0 && decide (32768 ≤ (t.filter fun e => s.sameSlice e.1 line).length)
  let t := match (if full then t.find? fun e => s.sameSlice e.1 line && !s.paDown (e.1 * 128) else none) with | some e => t.set e.1 default | none => t
  t.set line { tag := cid + 1, dirty := (t.get line).dirty ||| granules }

/-- Write bytes at home; the lines become dirty in their LLC slices under the writer's context (R277, R463). -/
def State.homeWrite (s : State) (cid pa : Nat) (bs : List Byte) : State :=
  if s.paDown pa then s
  else { s with
    mem := s.mem.setRange pa bs
    poison := clearPoison s.poison pa bs.length
    llc := (parts 128 pa bs.length).foldl (fun t p => s.llcPut t (p.1 / 128) cid (granulesAt p.1 p.2)) s.llc }

/-- Write one dword at home. -/
def State.homeWriteDword (s : State) (cid pa : Nat) (v : Dword) : State := s.homeWrite cid pa (leBytes 8 v.toNat)

/-! ## Remote-data caches -/

/-- The key of a line in the remote-data cache of a die. -/
def rdcKey (d line : Nat) : Nat := d * 2 ^ 43 + line

/-- The line is held: it has dirty bytes or its clean bytes are filled. -/
def RdcLine.held (l : RdcLine) : Bool := l.filled || l.dirty != 0

/-- The bytes of a line, lowest first. -/
def RdcLine.bytes (l : RdcLine) : List Byte := (List.range 128).map fun i => bits l.data (8 * i) 8

/-- Put byte `i` of a line. -/
def putByte (data : BitVec 1024) (i : Nat) (b : Byte) : BitVec 1024 :=
  (data &&& ~~~(BitVec.ofNat 1024 (255 * 2 ^ (8 * i)))) ||| BitVec.ofNat 1024 (b.toNat * 2 ^ (8 * i))

/-- Put a run of bytes from byte `i`. -/
def putBytes (data : BitVec 1024) (i : Nat) : List Byte → BitVec 1024
  | [] => data
  | b :: bs => putBytes (putByte data i b) (i + 1) bs

/-- Bits [i, i + n) of a 128-bit mask. -/
def maskRange (i n : Nat) : BitVec 128 := BitVec.ofNat 128 ((2 ^ n - 1) * 2 ^ i)

/-- The granules of a line that have a property. -/
def granulesOf (f : Nat → Bool) : BitVec 8 := (List.range 8).foldl (fun m g => if f g then m ||| BitVec.ofNat 8 (2 ^ g) else m) 0

/-- Some byte of a granule is selected. -/
def touches (m : BitVec 128) (g : Nat) : Bool := bits m (16 * g) 16 != 0

/-- What remains of a line whose selected bytes are dirty no more. -/
def RdcLine.cleaned (l : RdcLine) (sel : BitVec 128) : RdcLine :=
  let dirty := l.dirty &&& ~~~sel
  { l with dirty := dirty, whole := l.whole &&& granulesOf (touches dirty) }

/-- The poison at home of a granule of a line whose bytes `out` are written back: a poisoned granule carries its poison, one that a single write has covered clears
it (R456). -/
def RdcLine.poisonOut (l : RdcLine) (line : Nat) (out : BitVec 128) (t : Tab Bool) (g : Nat) : Tab Bool :=
  if !touches out g then t
  else if flag l.bad g then t.set (line * 8 + g) true
  else if flag l.whole g && bits out (16 * g) 16 == BitVec.allOnes 16 then t.set (line * 8 + g) false
  else t

/-- Write back the dirty bytes selected by `sel` of a line, as one write at home, and clear their dirty bits (R258). -/
def State.writeBack (s : State) (d line : Nat) (sel : BitVec 128) : State :=
  let l := s.rdc.get (rdcKey d line)
  let out := l.dirty &&& sel
  if out = 0 then s
  else if s.paDown (line * 128) then { s with rdc := s.rdc.set (rdcKey d line) (l.cleaned sel) }
  else
    let s := (List.range 128).foldl
      (fun s i => if flag out i then { s with mem := s.mem.set (line * 128 + i) (bits l.data (8 * i) 8) } else s) s
    { s with
      poison := (List.range 8).foldl (l.poisonOut line out) s.poison
      llc := s.llcPut s.llc line l.cid (granulesOf (touches out))
      rdc := s.rdc.set (rdcKey d line) (l.cleaned sel) }

/-- Invalidate a line, its dirty bytes first written back (R277). -/
def State.dropLine (s : State) (d line : Nat) : State :=
  let s := s.writeBack d line (BitVec.allOnes 128)
  { s with rdc := s.rdc.set (rdcKey d line) default }

/-- The lines that a die's remote-data cache holds. -/
def State.rdcLines (s : State) (d : Nat) : List Nat :=
  (s.rdc.filter fun e => e.1 / 2 ^ 43 = d).map fun e => e.1 % 2 ^ 43

/-- The bytes of a line that lie in physical [pa, pa + n). -/
def physMask (line pa n : Nat) : BitVec 128 :=
  let lo := Nat.max pa (line * 128) - line * 128
  let hi := Nat.min (pa + n) (line * 128 + 128) - line * 128
  if lo < hi then maskRange lo (hi - lo) else 0

/-- Room for a line in a die's remote-data cache of 262,144 lines (32 MiB, R18): when it is full, the line of the lowest address is evicted (DESIGN CHOICE,
log entry 92). -/
def State.rdcRoom (s : State) (d line : Nat) : State :=
  if (s.rdc.get (rdcKey d line)).held || decide ((s.rdcLines d).length < 262144) then s
  else match s.rdcLines d with | v :: _ => s.dropLine d v | [] => s

/-- Fill the clean bytes of a line from home (R258), with the poison of their granules but of those that one write has covered (R456). -/
def State.fillLine (s : State) (d line : Nat) : State :=
  if (s.rdc.get (rdcKey d line)).filled then s
  else
    let s := s.rdcRoom d line
    let l := s.rdc.get (rdcKey d line)
    let home := s.homeRead (line * 128) 128
    let data := (List.range 128).foldl
      (fun (w : BitVec 1024 × List Byte) i =>
        match w.2 with
        | [] => w
        | b :: bs => (if flag l.dirty i then w.1 else putByte w.1 i b, bs)) (l.data, home)
    let bad := granulesOf fun g => flag l.bad g || (s.paPoison (line * 128 + 16 * g) && !flag l.whole g)
    { s with rdc := s.rdc.set (rdcKey d line) { l with data := data.1, filled := true, bad := bad } }

/-- Read [pa, pa + n) within one line through a die's remote-data cache; the flag is poison of a granule read, or an expander link that is down (R258, R457, R488). -/
def State.rdcRead (s : State) (d pa n : Nat) : (List Byte × Bool) × State :=
  let line := pa / 128
  let i := pa % 128
  let s := s.fillLine d line
  let l := s.rdc.get (rdcKey d line)
  (((List.range n).map fun k => bits l.data (8 * (i + k)) 8,
    (parts 16 pa n).any fun p => flag l.bad (p.1 / 16 % 8) || (s.paDown p.1 && !flag l.whole (p.1 / 16 % 8))), s)

/-- Write bytes within one line into a die's remote-data cache (R258); `by_` is the writing thread's key plus one, 0 for none. A granule that the write covers is
poisoned no more (R456). -/
def State.rdcWrite (s : State) (d cid by_ pa : Nat) (bs : List Byte) : State :=
  let line := pa / 128
  let i := pa % 128
  let s := s.rdcRoom d line
  let l := s.rdc.get (rdcKey d line)
  let full := granulesOf fun g => decide (i ≤ 16 * g) && decide (16 * g + 16 ≤ i + bs.length)
  { s with
    rdc := s.rdc.set (rdcKey d line)
      { l with data := putBytes l.data i bs, dirty := l.dirty ||| maskRange i bs.length, cid := cid, by_ := by_
               bad := l.bad &&& ~~~full, whole := l.whole ||| full } }

/-! ## Issuers, parties and the token check -/

/-- Who issues an access: its die, context and node index, the engine (none stands for the whole thread, R134, R263), and whether the issuer is
exempt from token checks (R254). `thread` is the thread whose stores it sees in order; `lone` marks an issuer that lies within the domain party and no
other (R395); `unit` is the cluster, plus one, whose translation agent serves it, 0 where the die's last-level cache alone does (R239). -/
structure Issuer where
  die : Nat
  unit : Nat
  cid : Nat
  node : Nat
  x : Nat
  eng : Option Engine
  exempt : Bool
  thread : Option Nat
  lone : Bool
deriving DecidableEq, Repr, Inhabited

/-- An exempt agent acting as a context on a die (R144, R184, R188, R189). -/
def Issuer.agent (die cid : Nat) : Issuer := { die := die, unit := 0, cid := cid, node := 0, x := 0, eng := none, exempt := true, thread := none, lone := false }

/-- Where its translations are held: the die, and 256 times the cluster's agent (R239). -/
def Issuer.at_ (w : Issuer) : Nat := w.die + 256 * w.unit

/-- The issuer is within a party (R254). -/
def Issuer.within (w : Issuer) : Party → Bool
  | .domain => true
  | .thread n x => !w.lone && n == w.node && x == w.x
  | .engine n x e => !w.lone && n == w.node && x == w.x && (match w.eng with | none => true | some f => f == e)
  | .die d => !w.lone && d == w.die
  | .package p => !w.lone && p == w.die / 8

/-- The key of a region of a context. -/
def regionKey (cid r : Nat) : Nat := cid * 4096 + r

/-- A party is a thread (R255). -/
def Party.isThread : Party → Bool
  | .thread _ _ => true
  | _ => false

/-- ESTAT of a token trap (R256). -/
def tokenTrap (code : TrapCode) (cause : Nat) (write : Bool) (addr : Nat) : TrapInfo :=
  { code := code, estat := BitVec.ofNat 64 (cause + if write then 256 else 0), addr := BitVec.ofNat 64 addr }

/-- The piece of a region that holds an address. -/
def Region.pieceAt (r : Region) (a : Nat) : Option Piece := r.pieces.find? fun p => decide (p.base ≤ a) && decide (a < p.top)

/-- The check of R255 on [a, stop), piece by piece in increasing address. -/
def tokenScan (w : Issuer) (det : Bool) (r : Region) (write : Bool) : (fuel a stop : Nat) → Option TrapInfo
  | 0, _, _ => none
  | fuel + 1, a, stop =>
    if stop ≤ a then none
    else if a < r.base ∨ r.base + r.len ≤ a then some (tokenTrap .unowned 1 write a)
    else
      match r.pieceAt a with
      | none => some (tokenTrap .unowned 1 write a)
      | some p =>
        if p.st = .lost then some (tokenTrap .unowned 3 write a)
        else if write then
          if !w.within p.holder then some (tokenTrap .unowned 2 write a)
          else if p.shares ≠ [] then some (tokenTrap .shareConflict 1 write a)
          else if det && !p.holder.isThread then some (tokenTrap .shareConflict 3 write a)
          else tokenScan w det r write fuel p.top stop
        else if !w.within p.holder && !(p.shares.any w.within) then some (tokenTrap .unowned 2 write a)
        else tokenScan w det r write fuel p.top stop

/-- The region's record went with its home (R275). -/
def State.regionLost (s : State) (r : Region) : Bool := !r.live && decide (r.len ≠ 0) && !(s.die r.home).present

/-- The token check of an access of `n` bytes at `a` of the space of a region (R255, R275). -/
def State.tokenCheck (s : State) (w : Issuer) (rkey a n : Nat) (write : Bool) : Option TrapInfo :=
  let r := s.regions.get rkey
  if s.regionLost r then some { code := .remoteHomeLost, estat := 0, addr := BitVec.ofNat 64 a, openE := -1 }
  else if !r.live then some (tokenTrap .unowned 4 write a)
  else tokenScan w ((s.ctxs.get w.cid).det) r write 130 a (a + n)

/-- A read of these bytes reads a tainted piece (R269). -/
def State.tokenTaint (s : State) (rkey a n : Nat) : Bool :=
  (s.regions.get rkey).pieces.any fun p => p.taint && decide (p.base < a + n) && decide (a < p.top)

/-! ## Translation -/

/-- Why an access does not proceed: a trap, with the home of the page or tile when one was found (R247), or a wait: for a migrating page (R241), or, with none, for a path
to a home (R418). -/
inductive MemStop where
  | fault (i : TrapInfo) (home : Option Nat)
  | migrating (addr : Option Nat)
deriving DecidableEq, Repr, Inhabited

/-- The page or tile at which an access stops is homed at a place. -/
def MemStop.homed (m : MemStop) (pa : Nat) : MemStop := match m with | .fault i _ => .fault i (some (homeOf pa)) | m => m

/-- PAGE_FAULT with a cause (R238). Of one that SEQ raises, ESTAT bits 63:16 are 0, which the spec leaves to a chapter that says nothing of them (DESIGN CHOICE, log entry 93). -/
def pageFault (cause : Nat) (write : Bool) (va : Nat) : MemStop :=
  .fault { code := .pageFault, estat := BitVec.ofNat 64 (cause + if write then 256 else 0), addr := BitVec.ofNat 64 va } none

/-- TILE_FAULT with a cause (R238); `addr` is (TID << 48) + t, or 0. -/
def tileFault (cause : Nat) (write : Bool) (addr : Nat) : MemStop :=
  .fault { code := .tileFault, estat := BitVec.ofNat 64 (cause + if write then 256 else 0), addr := BitVec.ofNat 64 addr } none

/-- UNCORRECTABLE met in translation (R234). -/
def badEntry (addr : Nat) : MemStop := .fault { code := .uncorrectable, estat := 0, addr := BitVec.ofNat 64 addr, openE := -1 } none

/-- REMOTE_HOME_LOST (R247). -/
def homeLost (addr : Nat) : MemStop := .fault { code := .remoteHomeLost, estat := 0, addr := BitVec.ofNat 64 addr, openE := -1 } none

/-- A translated part of an access: physical address, length, address in the region's space, region key, W, and the ordering kind. -/
structure Acc where
  pa : Nat
  len : Nat
  va : Nat
  rkey : Nat
  w : Bool
  ord : Nat
deriving DecidableEq, Repr, Inhabited

/-- PTROOT with bits 12:0 cleared (R231). -/
def State.root (s : State) (cid : Nat) : Nat := (s.ctxs.get cid).ptroot.toNat / 8192 * 8192

/-- The levels of a walk: low bit and width of the index, level number (R231). -/
def walkLevels : List (Nat × Nat × Nat) := [(47, 10, 0), (36, 11, 1), (25, 11, 2), (21, 4, 3), (16, 5, 4)]

/-- Page size of a level (R231). -/
def levelSize (lv : Nat) : Nat := if lv = 2 then 2 ^ 25 else if lv = 3 then 2 ^ 21 else 2 ^ 16

/-- Size code of a level (R232). -/
def levelCode (lv : Nat) : Nat := 4 - lv

/-- A walk of the page tables (R234): the leaf and its level. -/
def State.walk (s : State) (va : Nat) (write : Bool) : List (Nat × Nat × Nat) → Nat → Except MemStop (Dword × Nat)
  | [], _ => .error (pageFault 3 write va)
  | (lo, n, lv) :: rest, t =>
    let at_ := t + 8 * (va / 2 ^ lo % 2 ^ n)
    if s.paHole t then .error (pageFault 5 write va)
    else if s.paLost t then .error (homeLost va)
    else if s.paPoison at_ then .error (badEntry va)
    else
      let e := s.homeDword at_
      let ty := field e 0 2
      if ty = 0 then .error (pageFault 2 write va)
      else if ty = 1 then
        if bits e 2 6 ≠ 0 ∨ bits e 50 14 ≠ 0 then .error (pageFault 3 write va)
        else if lv = 4 then .error (pageFault 3 write va)
        else s.walk va write rest (field e 8 42 * 256)
      else if ty = 3 ∨ flag e 7 ∨ lv < 2 ∨ field e 50 2 ≠ levelCode lv ∨ field e 2 2 = 0 ∨ field e 4 2 = 0 ∨
          field e 8 42 * 256 % levelSize lv ≠ 0 then .error (pageFault 3 write va)
      else .ok (e, lv)

/-- What a mapped leaf or tile entry says of an access at `off` in its page or tile. -/
def accOf (cid : Nat) (e : Dword) (off len va : Nat) : Acc :=
  { pa := field e 8 42 * 256 + off, len := len, va := va, rkey := regionKey cid (field e 52 12), w := flag e 6, ord := field e 4 2 }

/-- The checks that follow a found entry (R234): state, permission, hole, lost home. -/
def State.entryCheck (s : State) (e : Dword) (a : Acc) (write : Bool) (addr : Nat) (f : Nat → MemStop) : Except MemStop Acc :=
  if field e 2 2 = 3 then .error ((badEntry addr).homed a.pa)
  else if field e 2 2 = 2 then .error (.migrating (some addr))
  else if write && !a.w then .error ((f 4).homed a.pa)
  else if s.paHole a.pa then .error (f 5)
  else if s.paLost a.pa then .error (homeLost addr)
  else .ok a

/-- A packet from a die finds its way to where an address is homed, or the address has no home that could be reached (R418). -/
def State.wayTo (s : State) (d pa : Nat) : Bool := s.paHole pa || s.paLost pa || s.pathOpen d (homeOf pa)

/-- Every table that a walk reads can be reached from a die (R418). -/
def State.walkOpen (s : State) (d va : Nat) : List (Nat × Nat × Nat) → Nat → Bool
  | [], _ => true
  | (lo, n, _) :: rest, t =>
    let e := s.homeDword (t + 8 * (va / 2 ^ lo % 2 ^ n))
    s.wayTo d t && (field e 0 2 != 1 || s.walkOpen d va rest (field e 8 42 * 256))

/-- An entry of a cache of the die (R239). -/
def TlbEnt.of (e : TlbEnt) (d unit cid : Nat) : Bool := e.die == d && e.unit == unit && e.cid == cid

/-- The entry that serves an access: the cluster's, else the last-level cache's (R239). -/
def State.tlbFind (s : State) (at_ cid : Nat) (key : TlbKey → Bool) : Option TlbEnt :=
  match s.tlb.find? fun e => e.of (at_ % 256) (at_ / 256) cid && key e.key with
  | some e => some e
  | none => s.tlb.find? fun e => e.of (at_ % 256) 0 cid && key e.key

/-- Keep the newest `n` entries of one cache; entries of other caches stay. -/
def newestOf (d unit : Nat) : Nat → List TlbEnt → List TlbEnt
  | _, [] => []
  | 0, e :: es => if e.die = d ∧ e.unit = unit then newestOf d unit 0 es else e :: newestOf d unit 0 es
  | n + 1, e :: es => if e.die = d ∧ e.unit = unit then e :: newestOf d unit n es else e :: newestOf d unit (n + 1) es

/-- Put an entry into one cache that does not hold it. -/
def tlbPut (cap : Nat) (x : TlbEnt) (l : List TlbEnt) : List TlbEnt :=
  if l.any fun e => e.of x.die x.unit x.cid && e.key == x.key then l else newestOf x.die x.unit cap (x :: l)

/-- Hold an entry in the last-level cache of 8,192 entries and in the cluster's of 256; a full cache gives up its oldest (R239; which one is a DESIGN CHOICE, log
entry 92). A gated die holds none (R489). Of the entries that a walk reads the caches hold leaves, directory entries and tiles, and no pointer entry (R239 lets the device hold
any of them: DESIGN CHOICE, log entry 7). -/
def State.tlbHold (s : State) (at_ cid : Nat) (key : TlbKey) (e0 e1 : Dword) : State :=
  let x : TlbEnt := { die := at_ % 256, unit := 0, cid := cid, key := key, e0 := e0, e1 := e1 }
  let l := tlbPut 8192 x s.tlb
  { s with tlb := if (s.die (at_ % 256)).psCur = 3 then s.tlb else if at_ / 256 = 0 then l else tlbPut 256 { x with unit := at_ / 256 } l }

/-- The entry is the leaf of a linear address. -/
def TlbKey.leafAt (va : Nat) (k : TlbKey) : Bool := match k with | .leaf b n => decide (b ≤ va) && decide (va < b + n) | _ => false

/-- A held leaf for a linear address, and its page size (R239). -/
def State.heldLeaf (s : State) (at_ cid va : Nat) : Option (Dword × TlbKey × Nat) :=
  match s.tlbFind at_ cid (TlbKey.leafAt va) with
  | some e => (match e.key with | .leaf _ n => some (e.e0, e.key, n) | _ => none)
  | none => none

/-- Translation of one page part [va, va + n) of a linear access for a write or a read (R230, R234, R239). -/
def State.translate (s : State) (at_ cid va n : Nat) (write : Bool) : Except MemStop (Acc × State) :=
  if 2 ^ 57 ≤ va then .error (pageFault 1 write va)
  else if cid = 0 then
    if 2 ^ 50 ≤ va ∨ s.paHole va then .error (pageFault 5 write va)
    else if s.paLost va then .error (homeLost va)
    else .ok ({ pa := va, len := n, va := va, rkey := 0, w := true, ord := 1 }, s)
  else
    match s.heldLeaf at_ cid va with
    | some (e, key, size) => do
      let a ← s.entryCheck e (accOf cid e (va % size) n va) write va (fun c => pageFault c write va)
      pure (a, s.tlbHold at_ cid key e 0)
    | none => do
      if !s.walkOpen (at_ % 256) va walkLevels (s.root cid) then .error (.migrating none)
      let (e, lv) ← s.walk va write walkLevels (s.root cid)
      let size := levelSize lv
      let s := if field e 2 2 = 1 then s.tlbHold at_ cid (.leaf (va / size * size) size) e 0 else s
      let a ← s.entryCheck e (accOf cid e (va % size) n va) write va (fun c => pageFault c write va)
      pure (a, s)

/-- The stronger of an ordering override and a page's kind: strong above release-consistent above unordered (R75). -/
def strongerOrd (o page : Nat) : Nat := if o = 0 then page else Nat.min o page

/-- Translate every page part of a linear access in increasing address; none is performed unless all translate (R235). -/
def translateParts (at_ cid : Nat) (write : Bool) (ord : Nat) : List (Nat × Nat) → State → Except MemStop (List Acc × State)
  | [], s => .ok ([], s)
  | (va, n) :: rest, s => do
    let (a, s) ← s.translate at_ cid va n write
    let (as, s) ← translateParts at_ cid write ord rest s
    pure ({ a with ord := strongerOrd ord a.ord } :: as, s)

/-- A check of a region's token can be made from a die: a path leads to the region's home, or there is no record to ask (R418). -/
def State.tokenOpen (s : State) (d rkey : Nat) : Bool :=
  let r := s.regions.get rkey
  !r.live || s.pathOpen d r.home

/-- The token checks of a translated access (R255); a check waits while no path leads to the region's home (R418). -/
def State.checkAccs (s : State) (w : Issuer) (write : Bool) (as : List Acc) : Option MemStop :=
  if w.cid = 0 ∨ w.exempt then none
  else as.findSome? fun a =>
    if !a.w then none
    else if !s.tokenOpen w.die a.rkey then some (.migrating none)
    else (s.tokenCheck w a.rkey a.va a.len write).map fun i => .fault i (some (homeOf a.pa))

/-- An access reads a tainted piece (R269). -/
def State.accsTaint (s : State) (w : Issuer) (as : List Acc) : Bool :=
  w.cid ≠ 0 && !w.exempt && as.any fun a => a.w && s.tokenTaint a.rkey a.va a.len

/-- The copy used is the issuing die's remote-data cache (R277). -/
def Acc.cached (a : Acc) (die : Nat) : Bool := a.ord ≠ 1 && homeOf a.pa ≠ die

/-- An access can be made now: what it uses is at the die, or a path leads to the home (R418). -/
def State.accOpen (s : State) (d : Nat) (write : Bool) (a : Acc) : Bool :=
  s.pathOpen d (homeOf a.pa) ||
  (a.cached d && (write || (parts 128 a.pa a.len).all fun p => (s.rdc.get (rdcKey d (p.1 / 128))).filled))

/-- A translated access, its tokens checked; it waits while no path leads to a home (R418). -/
def State.checked (s : State) (w : Issuer) (write : Bool) (as : List Acc) : Except MemStop (List Acc × State) :=
  match s.checkAccs w write as with
  | some m => .error m
  | none => if as.all (s.accOpen w.die write) then .ok (as, s) else .error (.migrating none)

/-- Translate and check a linear access (R91, R235, R255). -/
def State.accessLin (s : State) (w : Issuer) (va n : Nat) (write : Bool) (ord : Nat) : Except MemStop (List Acc × State) := do
  let (as, s) ← translateParts w.at_ w.cid write ord (parts (2 ^ 16) va n) s
  s.checked w write as

/-! ## Tensor translation -/

/-- The directory entry of a tensor, checked (R237). -/
def State.directory (s : State) (at_ cid tid : Nat) (write : Bool) : Except MemStop ((Dword × Dword) × State) :=
  match s.tlbFind at_ cid (· == .dir tid) with
  | some e => .ok ((e.e0, e.e1), s.tlbHold at_ cid (.dir tid) e.e0 e.e1)
  | none =>
    let pl := s.root cid + 0x2000 + 16 * tid
    if s.paHole pl then .error (tileFault 5 write 0)
    else if !s.wayTo (at_ % 256) pl then .error (.migrating none)
    else if s.paLost pl then .error (homeLost (tid * 2 ^ 48))
    else if s.paPoison pl then .error (badEntry (tid * 2 ^ 48))
    else
      let e0 := s.homeDword pl
      let e1 := s.homeDword (pl + 8)
      if !flag e0 0 then .error (tileFault 2 write 0)
      else if bits e0 6 2 ≠ 0 ∨ bits e0 50 14 ≠ 0 ∨ bits e1 32 32 ≠ 0 ∨ field e0 1 5 < 8 ∨ 25 < field e0 1 5 then .error (tileFault 3 write 0)
      else .ok ((e0, e1), s.tlbHold at_ cid (.dir tid) e0 e1)

/-- TLOG of a directory entry. -/
def tlogOf (e0 : Dword) : Nat := field e0 1 5

/-- Translation of [off, off + n) of tile t of a tensor, once its directory entry is known (R237). -/
def State.translateTile (s : State) (at_ cid tid t off n : Nat) (e0 e1 : Dword) (write : Bool) : Except MemStop (Acc × State) :=
  let addr := tid * 2 ^ 48 + t
  let space := t * 2 ^ tlogOf e0 + off
  let f := fun c => tileFault c write addr
  if field e1 0 32 ≤ t then .error (f 7)
  else
    match s.tlbFind at_ cid (· == .tile tid t) with
    | some e => do
      let a ← s.entryCheck e.e0 (accOf cid e.e0 off n space) write addr f
      pure (a, s.tlbHold at_ cid (.tile tid t) e.e0 0)
    | none =>
      let pl := field e0 8 42 * 256 + 8 * t
      if s.paHole pl then .error (f 5)
      else if !s.wayTo (at_ % 256) pl then .error (.migrating none)
      else if s.paLost pl then .error (homeLost addr)
      else if s.paPoison pl then .error (badEntry addr)
      else
        let e := s.homeDword pl
        if field e 0 2 = 0 then .error (f 2)
        else if field e 0 2 ≠ 2 ∨ flag e 7 ∨ field e 50 2 ≠ 0 ∨ field e 2 2 = 0 ∨ field e 4 2 = 0 ∨
            field e 8 42 * 256 % 2 ^ tlogOf e0 ≠ 0 then .error (f 3)
        else do
          let s := if field e 2 2 = 1 then s.tlbHold at_ cid (.tile tid t) e 0 else s
          let a ← s.entryCheck e (accOf cid e off n space) write addr f
          pure (a, s)

/-- Translate [off, off + n) of one tile, `span` being the bits of a tile (R237). -/
def State.reachTile (s : State) (w : Issuer) (tid t off n span : Nat) (write : Bool) (ord : Nat) : Except MemStop (List Acc × State) := do
  let ((e0, e1), s) ← s.directory w.at_ w.cid tid write
  if 8 * 2 ^ tlogOf e0 < span then .error (tileFault 6 write (tid * 2 ^ 48 + t))
  else
    let (a, s) ← s.translateTile w.at_ w.cid tid t off n e0 e1 write
    pure ([{ a with ord := strongerOrd ord a.ord }], s)

/-- Translate and check [off, off + n) of one tile (R237, R255). -/
def State.accessTile (s : State) (w : Issuer) (tid t off n span : Nat) (write : Bool) (ord : Nat) : Except MemStop (List Acc × State) := do
  let (as, s) ← s.reachTile w tid t off n span write ord
  s.checked w write as

/-! ## Performing accesses -/

/-- Perform a posted store (R278): into the copy that its access uses. -/
def State.performPosted (s : State) (p : Posted) : State :=
  if homeOf p.pa ≠ p.die then
    (parts 128 p.pa p.bytes.length).foldl (fun s q => s.rdcWrite p.die p.cid (p.thread + 1) q.1 ((p.bytes.drop (q.1 - p.pa)).take q.2)) s
  else s.homeWrite p.cid p.pa p.bytes

/-- Perform, oldest first, every posted store that satisfies `sel`. -/
def State.drainPosted (s : State) (sel : Posted → Bool) : State :=
  let s' := { s with posted := s.posted.filter fun p => !sel p }
  (s.posted.filter sel).foldl State.performPosted s'

/-- A place that an access reaches, with its ordering kind and the fences its thread had executed. -/
structure Reached where
  pa : Nat
  len : Nat
  ord : Nat
  fences : Nat

/-- The place of a posted store. -/
def Posted.place (p : Posted) : Reached := { pa := p.pa, len := p.bytes.length, ord := p.ord.toNat, fences := p.fences }

/-- An older store comes before an access of its thread: they meet, and they are not both unordered with no fence between (R280, R281); with `strict`, those too. -/
def Posted.precedes (p : Posted) (strict : Bool) (x : Reached) : Bool :=
  decide (p.pa < x.pa + x.len) && decide (x.pa < p.pa + p.bytes.length) && (strict || p.ord != 3 || x.ord != 3 || p.fences != x.fences)

/-- Of posted stores, newest first, those of a thread that come before an access to one of the places, each with those that come before it (R280, R284). -/
def comeBefore (strict : Bool) (t : Nat) : List Posted → List Reached → List Posted
  | [], _ => []
  | p :: ps, xs => if p.thread == t && xs.any (p.precedes strict) then p :: comeBefore strict t ps (p.place :: xs) else comeBefore strict t ps xs

/-- Perform the posted stores of a thread that come before its access to a place (R280, R284). Where some of them need not, the device chooses whether they do
(R281; DESIGN CHOICE, log entry 6). -/
def State.drainOverlap (s : State) (t : Option Nat) (a : Acc) : State :=
  match t with
  | none => s
  | some t =>
    let x : Reached := { pa := a.pa, len := a.len, ord := a.ord, fences := (s.threads.get t).fences }
    let must := comeBefore false t s.posted.reverse [x]
    let may := comeBefore true t s.posted.reverse [x]
    if may.length = must.length then s.drainPosted may.contains
    else match s.choice with
      | true :: rest => State.drainPosted { s with choice := rest } must.contains
      | _ => State.drainPosted { s with choice := s.choice.tail } may.contains

/-- Load one translated part from the copy it uses: bytes and poison (R277, R278, R457). -/
def State.loadAcc (s : State) (w : Issuer) (a : Acc) : (List Byte × Bool) × State :=
  let s := s.drainOverlap w.thread a
  if a.cached w.die then
    (parts 128 a.pa a.len).foldl
      (fun (r : (List Byte × Bool) × State) p =>
        let x := r.2.rdcRead w.die p.1 p.2
        ((r.1.1 ++ x.1.1, r.1.2 || x.1.2), x.2)) (([], false), s)
  else
    let s := (parts 128 a.pa a.len).foldl (fun s p => if homeOf a.pa ≠ w.die then s.dropLine w.die (p.1 / 128) else s) s
    ((s.homeRead a.pa a.len, s.rangePoison a.pa a.len), s)

/-- Load a whole access. -/
def State.loadAccs (s : State) (w : Issuer) : List Acc → (List Byte × Bool) × State
  | [] => (([], false), s)
  | a :: as =>
    let x := s.loadAcc w a
    let y := x.2.loadAccs w as
    ((x.1.1 ++ y.1.1, x.1.2 || y.1.2), y.2)

/-- Store into the copy that one translated part uses (R277, R278). -/
def State.storeAcc (s : State) (w : Issuer) (a : Acc) (bs : List Byte) : State :=
  let s := s.drainOverlap w.thread a
  if a.cached w.die then
    (parts 128 a.pa a.len).foldl
      (fun s p => s.rdcWrite w.die w.cid (match w.thread with | some t => t + 1 | none => 0) p.1 ((bs.drop (p.1 - a.pa)).take p.2)) s
  else
    let s := (parts 128 a.pa a.len).foldl (fun s p => if homeOf a.pa ≠ w.die then s.dropLine w.die (p.1 / 128) else s) s
    s.homeWrite w.cid a.pa bs

/-- Store a whole access. -/
def State.storeAccs (s : State) (w : Issuer) : List Acc → List Byte → State
  | [], _ => s
  | a :: as, bs => (s.storeAcc w a (bs.take a.len)).storeAccs w as (bs.drop a.len)

/-- Read at home, leaving the issuing die's copy as it stands: what is dirty there is not seen (R260, R295). -/
def State.readHome (s : State) (w : Issuer) (a : Acc) : (List Byte × Bool) × State :=
  let s := s.drainOverlap w.thread a
  ((s.homeRead a.pa a.len, s.rangePoison a.pa a.len), s)

/-- Read a whole access at home. -/
def State.readsHome (s : State) (w : Issuer) : List Acc → (List Byte × Bool) × State
  | [] => (([], false), s)
  | a :: as =>
    let x := s.readHome w a
    let y := x.2.readsHome w as
    ((x.1.1 ++ y.1.1, x.1.2 || y.1.2), y.2)

/-- Load at home, bypassing every cache, the issuing die's copies first written back and dropped (R292, R324). -/
def State.loadHome (s : State) (w : Issuer) (a : Acc) : (List Byte × Bool) × State := s.loadAcc w { a with ord := 1 }

/-- Store at home. -/
def State.storeHome (s : State) (w : Issuer) (a : Acc) (bs : List Byte) : State := s.storeAcc w { a with ord := 1 } bs

/-! ## Releases and acquires at domain scope -/

/-- A page or tile of a context: where it lies, its bytes, its address in its region's space, and the key of the region that its entry names (R232, R236). -/
structure Extent where
  pa : Nat
  len : Nat
  va : Nat
  rkey : Nat

/-- The indices of a table of `n` entries of `w` bytes in which some byte is not zero. -/
def State.usedIn (s : State) (t w n : Nat) : List Nat :=
  (s.mem.filter fun e => decide (t ≤ e.1) && decide (e.1 < t + w * n)).foldr
    (fun e l => let i := (e.1 - t) / w; if l.head? = some i then l else i :: l) []

/-- The pages that a context's tables name from one table on (R231, R232). -/
def State.pageExtents (s : State) (cid : Nat) : List (Nat × Nat × Nat) → Nat → Nat → List Extent
  | [], _, _ => []
  | (lo, n, lv) :: rest, t, va =>
    if s.paHole t || s.paLost t then []
    else (s.usedIn t 8 (2 ^ n)).flatMap fun i =>
      let e := s.homeDword (t + 8 * i)
      let va := va + i * 2 ^ lo
      if field e 0 2 = 1 then s.pageExtents cid rest (field e 8 42 * 256) va
      else if field e 0 2 = 2 ∧ 2 ≤ lv then [{ pa := field e 8 42 * 256, len := levelSize lv, va := va, rkey := regionKey cid (field e 52 12) }]
      else []

/-- The tiles that a context's tensor directory names (R236). -/
def State.tileExtents (s : State) (cid : Nat) : List Extent :=
  (s.usedIn (s.root cid + 0x2000) 16 65536).flatMap fun tid =>
    let e0 := s.homeDword (s.root cid + 0x2000 + 16 * tid)
    let nt := field (s.homeDword (s.root cid + 0x2008 + 16 * tid)) 0 32
    if !flag e0 0 then []
    else (s.usedIn (field e0 8 42 * 256) 8 nt).flatMap fun k =>
      let e := s.homeDword (field e0 8 42 * 256 + 8 * k)
      if field e 0 2 = 2 then [{ pa := field e 8 42 * 256, len := 2 ^ tlogOf e0, va := k * 2 ^ tlogOf e0, rkey := regionKey cid (field e 52 12) }] else []

/-- Every page and tile of a context. -/
def State.extents (s : State) (cid : Nat) : List Extent := if cid = 0 then [] else s.pageExtents cid walkLevels (s.root cid) 0 ++ s.tileExtents cid

/-- The bytes of a line that lie in [base, top) of a region's space, by the pages and tiles that name the region. -/
def lineMask (xs : List Extent) (key base top line : Nat) : BitVec 128 :=
  xs.foldl (fun m x =>
    let lo := Nat.max base x.va
    let hi := Nat.min top (x.va + x.len)
    if x.rkey = key ∧ lo < hi then m ||| physMask line (x.pa + (lo - x.va)) (hi - lo) else m) 0

/-- The bytes of a line that belong to regions of a context for which a test holds. -/
def State.regionMask (s : State) (xs : List Extent) (cid : Nat) (sel : Region → Bool) (line : Nat) : BitVec 128 :=
  s.regions.foldl (fun m e =>
    if e.1 / 4096 = cid ∧ e.2.live ∧ sel e.2 then m ||| lineMask xs e.1 e.2.base (e.2.base + e.2.len) line else m) 0

/-- The bytes of a line that belong to hardware-managed regions of a context. -/
def State.hwMask (s : State) (xs : List Extent) (cid line : Nat) : BitVec 128 := s.regionMask xs cid (fun r => !r.swManaged) line

/-- A release at domain scope writes back the dirty bytes of hardware-managed regions of the context (R286). -/
def State.domainRelease (s : State) (die cid : Nat) : State :=
  let xs := s.extents cid
  (s.rdcLines die).foldl (fun s line => s.writeBack die line (s.hwMask xs cid line)) s

/-- An acquire at domain scope invalidates the clean bytes of lines of hardware-managed regions of the context (R286). -/
def State.domainAcquire (s : State) (die cid : Nat) : State :=
  let xs := s.extents cid
  (s.rdcLines die).foldl (fun s line =>
    let l := s.rdc.get (rdcKey die line)
    if s.hwMask xs cid line = 0 then s
    else { s with rdc := s.rdc.set (rdcKey die line) (if l.dirty = 0 then default else { l with filled := false, bad := l.bad &&& granulesOf (touches l.dirty) }) }) s

/-- A die's remote-data cache has dirty bytes to whose home no path leads now: a release at domain scope waits (R418). -/
def State.homesAway (s : State) (die : Nat) : Bool :=
  (s.rdcLines die).any fun line => (s.rdc.get (rdcKey die line)).dirty != 0 && !s.wayTo die (line * 128)

/-- Perform every posted store of a thread: a release covers them (R285, R287). -/
def State.drainThread (s : State) (t : Nat) : State := s.drainPosted fun p => p.thread == t

end Sys2Proof.Machine
end

