-- ==== Sys2Proof/Machine/Spad.lean ====
section
/-! DEFINITION. The cluster scratchpads: reads, writes with exposed latency, pending bits, poison (R288 to R291), ring-relative and plain operands
(R220, R300), and the phase check (R227). -/

namespace Sys2Proof.Machine

/-! ## Threads and their placement -/

/-- The thread of a key. -/
def State.thr (s : State) (t : Nat) : Thread := s.threads.get t

/-- Replace the record of a thread. -/
def State.modThr (s : State) (t : Nat) (f : Thread → Thread) : State := { s with threads := s.threads.mod t f }

/-- The cluster key of a core of a die (R16). -/
def clusterKey (die core : Nat) : Nat := 64 * die + core / 4

/-- The cluster of a thread. -/
def Thread.cluster (th : Thread) : Nat := clusterKey th.die th.core

/-- The node index of a thread: gang index times MEMBERS plus member index (R188). -/
def State.nodeIndex (s : State) (th : Thread) : Nat := th.gangIdx.toNat * (s.nodes.get th.node).members + th.member

/-- The issuer of an access by an engine of a thread (R254). -/
def State.issuer (s : State) (t : Nat) (e : Engine) : Issuer :=
  let th := s.thr t
  { die := th.die, unit := th.core / 4 + 1, cid := th.cid, node := th.node, x := s.nodeIndex th, eng := some e, exempt := false, thread := some t, lone := false }

/-- Engine codes (R17). -/
def engCode : Engine → Nat
  | .seq => 0 | .adr => 1 | .vec => 2 | .mat => 3 | .xfr => 4 | .fab => 5 | .atn => 6 | .syn => 7

/-- The engine of a code; codes beyond 7 do not occur. -/
def engineOf (n : Nat) : Engine :=
  match n with
  | 0 => .seq | 1 => .adr | 2 => .vec | 3 => .mat | 4 => .xfr | 5 => .fab | 6 => .atn | _ => .syn

/-- The eight engines in code order. -/
def allEngines : List Engine := [.seq, .adr, .vec, .mat, .xfr, .fab, .atn, .syn]

/-! ## How a word fails to complete -/

/-- A word that does not complete: it raises a trap, or it is held at its word; the state carries what it has done so far. -/
inductive Exit where
  | trap (info : TrapInfo) (s : State)
  | hold (w : Wait) (s : State)
deriving DecidableEq, Repr

/-- A trap with nothing done. -/
def trapAt {α : Type} (s : State) (code : TrapCode) (estat addr : Dword) : Except Exit α :=
  .error (.trap { code := code, estat := estat, addr := addr } s)

/-- A hold with nothing done. -/
def holdAt {α : Type} (s : State) (w : Wait) : Except Exit α := .error (.hold w s)

/-- What a word waits for when an access of it does. -/
def pageWait : Option Nat → Wait
  | some va => .page va
  | none => .outside

/-- What a memory access that does not proceed does to the word: a trap, or a wait for a migration to end (R91, R241). -/
def MemStop.exit {α : Type} (m : MemStop) (s : State) : Except Exit α :=
  match m with
  | .fault i _ => .error (.trap i s)
  | .migrating va => .error (.hold (pageWait va) s)

/-- An access inside a word. -/
def liftMem {α : Type} (s : State) (r : Except MemStop α) : Except Exit α :=
  match r with
  | .ok a => .ok a
  | .error m => m.exit s

/-! ## Bytes of a scratchpad -/

/-- The key of a scratchpad byte. -/
def spadKey (cluster a : Nat) : Nat := cluster * 2 ^ 23 + a

/-- Bytes [a, a + n) of a cluster's scratchpad. -/
def State.spadBytes (s : State) (cluster a n : Nat) : List Byte := s.spad.getRange (spadKey cluster a) n

/-- Some granule of [a, a + n) of the scratchpad is poisoned (R456). -/
def State.spadPoison (s : State) (cluster a n : Nat) : Bool :=
  (parts 16 a n).any fun p => s.spoison.get (cluster * 2 ^ 19 + p.1 / 16)

/-- Poison granules of [a, a + n) of the scratchpad (R456). -/
def State.spadSetPoison (s : State) (cluster a n : Nat) : State :=
  { s with spoison := (parts 16 a n).foldl (fun t p => t.set (cluster * 2 ^ 19 + p.1 / 16) true) s.spoison }

/-- Two byte ranges share a byte. -/
def overlap (a n b m : Nat) : Bool := decide (a < b + m) && decide (b < a + n) && decide (0 < n) && decide (0 < m)

/-- TSZ of a tile (R325). -/
def TileHdr.tsz (h : TileHdr) : Nat := field h.d2 24 24

/-- A header that a recorded command has read meets [a, a + n). -/
def MatCmd.headerMeets (c : MatCmd) (a n : Nat) : Bool := overlap c.baseA 64 a n || overlap c.baseB 64 a n

/-- What a command window has read meets [a, a + n) (R382). -/
def MatWin.meets (w : MatWin) (a n : Nat) : Bool :=
  (w.byLoad && overlap w.addr (if w.ck then 66560 else 65536) a n) || w.cmds.any fun c => c.reads.any fun r => overlap r.1 r.2 a n

/-- Recorded commands, open and committed, that meet a condition are spoilt (R382). -/
def Thread.spoil (th : Thread) (f : MatCmd → Bool) : Thread :=
  let mark := fun (c : MatCmd) => if f c then { c with spoilt := true } else c
  { th with batch := th.batch.map mark, batches := th.batches.map fun b => { b with cmds := b.cmds.map mark } }

/-- Bytes [a, a + n) of its cluster's scratchpad have been written: windows that have read one are no longer replayable, and a command under
way that has read one, or a recorded one that has read its header, will not leave its window replayable (R382). -/
def Thread.touch (th : Thread) (a n : Nat) : Thread :=
  let th := th.spoil fun c => c.headerMeets a n
  { th with
    accSt := (List.range 4).foldl (fun t k => t.mod k fun x => if x.win.meets a n then { x with win := { x.win with bad := true } } else x) th.accSt
    batches := th.batches.map fun b => if b.got.any fun e => decide (a ≤ e.1 % 2 ^ 24) && decide (e.1 % 2 ^ 24 < a + n) then { b with touched := true } else b
    move := match th.move with
      | some m => if m.load && overlap m.base (512 * m.got.length) a n then some { m with touched := true } else some m
      | none => none }

/-- Write bytes now, clearing the poison of every granule wholly covered (R456), and note the write in the command windows of the cluster (R382). -/
def State.spadWrite (s : State) (cluster a : Nat) (bs : List Byte) : State :=
  { s with
    spad := s.spad.setRange (spadKey cluster a) bs
    spoison := clearPoison s.spoison (spadKey cluster a) bs.length
    threads := s.threads.foldl (fun t e => if e.2.cluster = cluster then t.mod e.1 (Thread.touch · a bs.length) else t) s.threads }

/-- Pending bits are kept in the cluster (R290). -/
def State.pendingKept (s : State) (cluster : Nat) : Bool := flag (s.die (cluster / 64)).pendctl (cluster % 64)

/-- The words of [a, a + n): keys of their pending bits (R291). -/
def wordKeys (cluster a n : Nat) : List Nat := (parts 4 a n).map fun p => cluster * 2 ^ 21 + p.1 / 4

/-- The order in which writes are performed: by clock, then core, then engine code (R288). Between clusters, and between two writes of one engine, the order of
their issue stands. -/
def SPend.before (p q : SPend) : Bool :=
  decide (p.due < q.due) ||
  (p.due == q.due && (decide (p.core < q.core) || (p.core == q.core && decide (engCode p.eng ≤ engCode q.eng))))

/-- Insert a write after those that are performed before it. -/
def insertPend (p : SPend) : List SPend → List SPend
  | [] => [p]
  | q :: qs => if q.before p then q :: insertPend p qs else p :: q :: qs

/-- The fetch-order number of the word at the head of an engine's queue. -/
def Thread.headOrd (th : Thread) (e : Engine) : Nat := match (th.iq.get (engCode e)).head? with | some x => x.ord | none => th.nextOrd

/-- A writer joins the unperformed writers of a word, the latest first (R291). -/
def setterPut (x : Engine × Nat) (l : List (Engine × Nat)) : List (Engine × Nat) := x :: l.filter (· ≠ x)

/-- Issue a write, or an atomic, of exposed latency `lat` (R288, R289, R291). -/
def State.spadAct (s : State) (t : Nat) (e : Engine) (act : SpadAct) (a : Nat) (bs : List Byte) (lat : Nat) : State :=
  let th := s.thr t
  let c := th.cluster
  { s with
    spend := insertPend { cluster := c, addr := a, act := act, bytes := bs, due := s.clk + lat, thread := t, core := th.core % 4, eng := e,
                          ord := th.headOrd e } s.spend
    pbits := if s.pendingKept c then (wordKeys c a bs.length).foldl (fun b k => b.mod k (setterPut (e, th.core % 4))) s.pbits else s.pbits }

/-- Issue a write of exposed latency `lat`. -/
def State.spadIssue (s : State) (t : Nat) (e : Engine) (a : Nat) (bs : List Byte) (lat : Nat) : State := s.spadAct t e .write a bs lat

/-- The words of a cluster that an unperformed access of a writer writes: issued writes and atomics, and its atomics that an ordering unit holds or has refused. -/
def State.unperformedWords (s : State) (cluster : Nat) (x : Engine × Nat) : List Nat :=
  let atoms := s.refused ++ s.atomLines.flatMap fun e => e.2.held
  (s.spend.flatMap fun q => if q.cluster = cluster ∧ (q.eng, q.core) = x then wordKeys cluster q.addr q.bytes.length else []) ++
  (atoms.flatMap fun a => if a.spad && a.cluster == cluster && x.1 == .adr && a.stream == some x.2 then wordKeys cluster a.pa a.size else [])

/-- An access of a writer to [a, a + n) has been performed: it is no longer among the pending writers of a word that no other access of it has still to write
(R291). -/
def State.settlePending (s : State) (cluster : Nat) (x : Engine × Nat) (a n : Nat) : State :=
  let still := s.unperformedWords cluster x
  { s with pbits := (wordKeys cluster a n).foldl (fun b k => if still.contains k then b else b.mod k fun l => l.filter (· ≠ x)) s.pbits }

/-- Write bytes in the present clock by a core and an engine: of the writes performed in one clock the one of the higher core, within a core of the higher
engine, stands (R288). -/
def State.spadLand (s : State) (p : SPend) : State :=
  let later := s.landed.filter fun q => q.cluster == p.cluster && !q.before p
  let s := later.foldl (fun s q => s.spadWrite q.cluster q.addr q.bytes) (s.spadWrite p.cluster p.addr p.bytes)
  { s with landed := insertPend p s.landed }

/-- A write of exposed latency 0 by an engine for a thread (R289). -/
def State.spadNow (s : State) (t : Nat) (e : Engine) (cluster a : Nat) (bs : List Byte) : State :=
  s.spadLand { cluster := cluster, addr := a, act := .write, bytes := bs, due := s.clk, thread := t, core := (s.thr t).core % 4, eng := e, ord := 0 }

/-- The engine of the thread has an unperformed write that meets [a, a + n) (R288). -/
def State.ownUnperformed (s : State) (t : Nat) (e : Engine) (a n : Nat) : Bool :=
  s.spend.any fun p => p.thread == t && p.eng == e && p.cluster == (s.thr t).cluster && overlap p.addr p.bytes.length a n

/-- The thread has an unperformed scratchpad write. -/
def State.anyUnperformed (s : State) (t : Nat) : Bool := s.spend.any fun p => p.thread == t

/-- The first pending word of [a, a + n) set by another engine or another thread, with its setter: the trap of R291. Of several other writers the latest is
named (DESIGN CHOICE, log entry 99). -/
def State.pendingRead (s : State) (cluster core : Nat) (e : Engine) (a n : Nat) : Option TrapInfo :=
  if !s.pendingKept cluster then none
  else (parts 4 a n).findSome? fun p =>
    match (s.pbits.get (cluster * 2 ^ 21 + p.1 / 4)).find? (· ≠ (e, core)) with
    | none => none
    | some (f, c) => some { code := .pendingRead, estat := BitVec.ofNat 64 (engCode f + 8 * c), addr := BitVec.ofNat 64 p.1 }

/-- A read by an engine's word: it waits for its own unperformed writes, raises PENDING_READ, else answers bytes and poison. -/
def State.spadRead (s : State) (t : Nat) (e : Engine) (a n : Nat) : Except Exit (List Byte × Bool) :=
  let th := s.thr t
  if s.ownUnperformed t e a n then holdAt s .outside
  else
    match s.pendingRead th.cluster (th.core % 4) e a n with
    | some i => .error (.trap i s)
    | none => .ok (s.spadBytes th.cluster a n, s.spadPoison th.cluster a n)

/-! ## Rings -/

/-- The key of a ring slot. -/
def ringKey (cluster n : Nat) : Nat := cluster * 8 + n

/-- The position of a thread among its cluster group: IDX of LIX1 (R198). -/
def Thread.ix1 (th : Thread) : Nat := (th.lix.get 1).toNat

/-- The count key of the member that an engine of a thread is in one party; `base` is 0 for the producer, 8 for the consumer. -/
def RingParty.member (p : RingParty) (r : Ring) (t ix : Nat) (e : Engine) (base : Nat) : Option Nat :=
  if p.kind then (if ix < 4 ∧ flag p.mask ix then some (base + ix) else none)
  else if r.thread = t ∧ flag p.mask (engCode e) then some base else none

/-- The count key of an engine of a thread in either party of a ring (R220). -/
def Ring.memberOf (r : Ring) (t ix : Nat) (e : Engine) : Option Nat :=
  match r.prod.member r t ix e 0 with
  | some k => some k
  | none => r.cons.member r t ix e 8

/-- The count keys of a party. -/
def RingParty.members (p : RingParty) (base : Nat) : List Nat :=
  if p.kind then ((List.range 4).filter fun x => flag p.mask x).map fun x => base + x else [base]

/-- How far an arrival count stands above STEP; both count modulo 2^32 (R217). -/
def Ring.past (r : Ring) (c : BitVec 32) : Int := (c - r.step).toInt

/-- Every member of both parties has an arrival count above STEP: the step completes (R222). -/
def Ring.stepDone (r : Ring) : Bool :=
  (r.prod.members 0 ++ r.cons.members 8).all fun k => decide (0 < r.past (r.counts.get k))

/-- Complete as many steps as the counts allow; `fuel` bounds them. -/
def Ring.settle : Nat → Ring → Ring
  | 0, r => r
  | n + 1, r => if r.stepDone then Ring.settle n { r with step := r.step + 1 } else r

/-- What a wait at a ring counts as (R220): the engines of the other party in the same thread that have not made arrival a. -/
def Ring.waitOf (r : Ring) (t k : Nat) (a : BitVec 32) : Wait :=
  let other := if k < 8 then r.cons else r.prod
  let base := if k < 8 then 8 else 0
  if !other.kind && r.thread == t && decide (r.past (r.counts.get base) < r.past a) then .engines (allEngines.filter fun e => flag other.mask (engCode e))
  else .outside

/-- The word is an sbar of a slot for the producer or the consumer (R221). -/
def isSbar (n : Nat) (cons : Bool) (w : Word) : Bool := bits w 24 8 == 0xE2 && field w 16 8 == n && field w 0 4 == (if cons then 1 else 0)

/-- Arrivals of a member delivered before an engine's head word: those that have taken effect, those that SYN has executed and that wait for
earlier words, and those that still stand in SYN's queue (R220: the count is a function of the access's own position in the text). -/
def State.arrivalsBefore (s : State) (t : Nat) (e : Engine) (key n k : Nat) : BitVec 32 :=
  let th := s.thr t
  let ord := match (th.iq.get (engCode e)).head? with | some y => y.ord | none => th.nextOrd
  (s.rings.get key).counts.get k + BitVec.ofNat 32 (
    (s.sbars.filter fun y => y.ring == key && y.member == k && decide (y.ord < ord)).length +
    ((th.iq.get 7).filter fun y => decide (y.ord < ord) && (match y.item with | .word w => isSbar n (decide (8 ≤ k)) w | _ => false)).length)

/-- RING_RANGE for a slot and the operand given (R220, R228). -/
def ringRange (n : Nat) (op : Dword) : TrapInfo := { code := .ringRange, estat := BitVec.ofNat 64 (n * 256), addr := op }

/-- A scratchpad operand of `z` bytes (R220, R300): its physical address. `bad` is raised for a reserved bit of a plain operand and for a plain
range that ends beyond the scratchpad. -/
def State.spadOperand (s : State) (t : Nat) (e : Engine) (op : Dword) (z : Nat) (bad : TrapInfo) : Except Exit Nat :=
  let th := s.thr t
  if !flag op 63 then
    if bits op 23 40 ≠ 0 ∨ 2 ^ 23 < field op 0 23 + z then .error (.trap bad s) else .ok (field op 0 23)
  else
    let n := field op 56 3
    let r := s.rings.get (ringKey th.cluster n)
    let j := (bits op 48 8).toInt
    match (if r.active ∧ r.owner = th.gang + 1 then r.memberOf t th.ix1 e else none) with
    | none => .error (.trap (ringRange n op) s)
    | some k =>
      if bits op 59 4 ≠ 0 ∨ bits op 23 25 ≠ 0 ∨ j < 0 ∨ (r.stages : Int) ≤ j ∨ r.ssz < field op 0 23 + z then .error (.trap (ringRange n op) s)
      else
        let a := s.arrivalsBefore t e (ringKey th.cluster n) n k
        if 0 < r.past a then holdAt s (r.waitOf t k a)
        else .ok (r.base + (a.toNat + j.toNat) % r.stages * r.ssz + field op 0 23)

/-! ## Phases -/

/-- The ranges in which an engine may read or write (R224, R227): its phase set, and the cluster's active ring regions. -/
def State.phaseRanges (s : State) (t : Nat) (e : Engine) (write : Bool) : List Range :=
  let th := s.thr t
  let own := (if write then [] else th.phases.getRange (8 * (engCode e)) 4) ++ th.phases.getRange (8 * (engCode e) + 4) 4
  let rings := (s.rings.getRange (th.cluster * 8) 8).map fun r => if r.active then Range.mk r.base (r.stages * r.ssz) else ⟨0, 0⟩
  own ++ rings

/-- The first byte of [a, stop) outside the ranges; each round passes the end of one range. -/
def firstOutside (rs : List Range) : (fuel a stop : Nat) → Option Nat
  | 0, a, _ => some a
  | fuel + 1, a, stop =>
    if stop ≤ a then none
    else match rs.find? fun r => decide (r.base ≤ a) && decide (a < r.base + r.len) with
      | none => some a
      | some r => firstOutside rs fuel (r.base + r.len) stop

/-- The check of R227: the trap of an access outside the engine's set, in a context with DET = 1. -/
def State.phaseCheck (s : State) (t : Nat) (e : Engine) (a n : Nat) (write : Bool) : Option TrapInfo :=
  if !(s.ctxs.get (s.thr t).cid).det then none
  else
    match firstOutside (s.phaseRanges t e write) 40 a (a + n) with
    | none => none
    | some b => some { code := .phaseOverlap, estat := 11, addr := BitVec.ofNat 64 b }

end Sys2Proof.Machine
end

