-- ==== Sys2Proof/Machine/Base.lean ====
section
/-! DEFINITION. The state of a thread as words see it: registers under their names, architectural queues, the instruction queues and fetch, the
scoreboard; and what the device reports: contributions, event records, the error log. -/

namespace Sys2Proof.Machine

/-! ## Registers -/

/-- The entry at the head of an engine's instruction queue. -/
def Thread.head (th : Thread) (e : Engine) : Option IqEntry := (th.iq.get (engCode e)).head?

/-- The RRB under which the head word of an engine resolves its rotating names (R66). -/
def Thread.rrbOf (th : Thread) (e : Engine) : BitVec 4 := match th.head e with | some x => x.rrb | none => 0

/-- The fetch-order number of the head entry of an engine. -/
def Thread.ordOf (th : Thread) (e : Engine) : Nat := match th.head e with | some x => x.ord | none => th.nextOrd

/-- The item is a word. -/
def IqItem.isWord : IqItem → Bool
  | .word _ => true
  | _ => false

/-- The item is a pass boundary. -/
def IqItem.isPass : IqItem → Bool
  | .pass _ => true
  | _ => false

/-- The text address of an engine's next word: its first unexecuted word, else the fetch address (R72, R126). In state handler an engine whose words stand
aside has none queued and reads the handler's fetch address, also in a record of a trap there (DEDUCED, log entry 81). -/
def Thread.pc (th : Thread) (e : Engine) : TextAddr :=
  match (th.iq.get (engCode e)).find? fun x => x.item.isWord with
  | some x => x.addr
  | none => th.fetch

/-- The physical scalar of a name under an RRB (R66). -/
def physS (rrb : BitVec 4) (n : Nat) : Nat := if n < 48 then n else 48 + (n - 48 + rrb.toNat) % 16

/-- The physical predicate of a name under an RRB (R66). -/
def physP (rrb : BitVec 4) (n : Nat) : Nat := if n < 8 then n else 8 + (n - 8 + rrb.toNat) % 8

/-- A scalar by name (R65, R66). -/
def Thread.sAt (th : Thread) (rrb : BitVec 4) (n : Nat) : Dword := if n = 0 then 0 else th.s.get (physS rrb n)

/-- A scalar as the head word of an engine reads it. -/
def Thread.rs (th : Thread) (e : Engine) (n : BitVec 6) : Dword := th.sAt (th.rrbOf e) n.toNat

/-- Scalar s[S + k] of a run (R69). -/
def Thread.run (th : Thread) (e : Engine) (n : BitVec 6) (k : Nat) : Dword := th.sAt (th.rrbOf e) (n.toNat + k)

/-- Write a scalar by name; a write to s0 is discarded (R65). -/
def Thread.ws (th : Thread) (e : Engine) (n : BitVec 6) (v : Dword) : Thread :=
  if n = 0 then th else { th with s := th.s.set (physS (th.rrbOf e) n.toNat) v }

/-- A predicate by name; p0 reads true (R65). -/
def Thread.pAt (th : Thread) (rrb : BitVec 4) (n : Nat) : Bool := if n = 0 then true else th.p.get (physP rrb n)

/-- A predicate as SEQ's head word reads it. -/
def Thread.rp (th : Thread) (n : BitVec 4) : Bool := th.pAt (th.rrbOf .seq) n.toNat

/-- Write a predicate by name under an RRB; a write to p0 is discarded (R65). -/
def Thread.setPAt (th : Thread) (rrb : BitVec 4) (n : Nat) (v : Bool) : Thread :=
  if n = 0 then th else { th with p := th.p.set (physP rrb n) v }

/-- Write a predicate as SEQ's head word names it. -/
def Thread.wp (th : Thread) (n : BitVec 4) (v : Bool) : Thread := th.setPAt (th.rrbOf .seq) n.toNat v

/-- A vector register. -/
def Thread.rv (th : Thread) (n : BitVec 5) : Row := th.v.get n.toNat

/-- Write a vector register. -/
def Thread.wv (th : Thread) (n : BitVec 5) (v : Row) : Thread := { th with v := th.v.set n.toNat v }

/-- A mask register; m0 reads as all ones (R65). -/
def Thread.rm (th : Thread) (n : BitVec 3) : Mask := if n = 0 then BitVec.allOnes 128 else th.m.get n.toNat

/-- Write a mask register; a write to m0 is discarded (R65). -/
def Thread.wm (th : Thread) (n : BitVec 3) (v : Mask) : Thread := if n = 0 then th else { th with m := th.m.set n.toNat v }

/-- Lane i of a row (R335). -/
def lane (r : Row) (i : Nat) : Word := bits r (32 * i) 32

/-- A row of 128 lanes. -/
def rowOf (f : Nat → Word) : Row := BitVec.ofNat 4096 ((List.range 128).foldl (fun (w : Nat) i => w + (f i).toNat * 2 ^ (32 * i)) 0)

/-- A row of bytes, lowest first; missing bytes are zero. -/
def rowOfBytes (bs : List Byte) : Row := BitVec.ofNat 4096 (leNat (bs.take 512))

/-- The bytes of a row. -/
def rowBytes (r : Row) : List Byte := leBytes 512 r.toNat

/-- Dword i of a descriptor slot. -/
def Thread.desc (th : Thread) (n : BitVec 3) (i : Nat) : Dword := th.d.get (8 * n.toNat + i)

/-! ## Architectural queues (R73, R162) -/

/-- The queue holds rows. -/
def rowQueue (q : Nat) : Bool := q == 2 || q == 3 || q == 5 || q == 11

/-- The depth of a queue. -/
def queueDepth (q : Nat) : Nat := if rowQueue q then 8 else 16

/-- The entries a queue holds. -/
def Thread.qlen (th : Thread) (q : Nat) : Nat := if rowQueue q then (th.qr.get q).length else (th.qs.get q).length

/-- The queue is full. -/
def Thread.qfull (th : Thread) (q : Nat) : Bool := decide (queueDepth q ≤ th.qlen q)

/-- Append a scalar. -/
def Thread.pushS (th : Thread) (q : Nat) (v : Dword) : Thread := { th with qs := th.qs.set q (th.qs.get q ++ [v]) }

/-- Remove the head scalar. -/
def Thread.dropS (th : Thread) (q : Nat) : Thread := { th with qs := th.qs.set q (th.qs.get q).tail }

/-- Append a row. -/
def Thread.pushR (th : Thread) (q : Nat) (r : Row) : Thread := { th with qr := th.qr.set q (th.qr.get q ++ [r]) }

/-- Remove the head row. -/
def Thread.dropR (th : Thread) (q : Nat) : Thread := { th with qr := th.qr.set q (th.qr.get q).tail }

/-! ## Loops as fetch sees them (R100 to R103) -/

/-- The loop stack innermost first, the innermost entry carrying the counts of the registers. -/
def Thread.loopView (th : Thread) : List LoopEntry :=
  match th.loops.reverse with
  | [] => []
  | l :: ls => { l with lcnt := th.lcnt, drain := th.drain, nst := th.nst } :: ls

/-- What a pass boundary does to the counts: whether another pass runs, and the loops that stand then. -/
def boundaryView : List LoopEntry → Bool × List LoopEntry
  | [] => (false, [])
  | l :: ls =>
    if l.lcnt ≠ 0 then (true, { l with lcnt := l.lcnt - 1 } :: ls)
    else if l.drain ≠ 0 then (true, { l with drain := l.drain - 1 } :: ls)
    else (false, ls)

/-- The first address after a body (R98). A reloaded START whose low bits are not 0 is kept as written, though R58 would clear them, so that a fetch at a multiple of 4 does
not meet the end of that body (R105 is silent: DESIGN CHOICE, log entry 100). -/
def LoopEntry.stop (l : LoopEntry) : TextAddr := l.start + BitVec.ofNat 18 (4 * l.body.toNat)

/-- The address lies in the body. -/
def LoopEntry.holds (l : LoopEntry) (a : TextAddr) : Bool := decide ((a - l.start).toNat < 4 * l.body.toNat)

/-- The loops that a taken transfer to `a` leaves active (R102). -/
def leaveLoops (a : TextAddr) : List LoopEntry → List LoopEntry
  | [] => []
  | l :: ls => if l.holds a then l :: ls else leaveLoops a ls

/-- The target of a branch word (R62). -/
def brTarget (w : Word) (a : TextAddr) : TextAddr := a + (sext64 (bits w 0 19)).setWidth 18 * 4

/-- The target of a jal word (R96). -/
def jalTarget (w : Word) (a : TextAddr) : TextAddr := a + (bits w 0 18) * 4

/-- The transfer that fetch itself follows past a word: br p0 and jal (R97). -/
def fetchJump (w : Word) (a : TextAddr) : Option TextAddr :=
  if bits w 24 8 = (0x0E : BitVec 8) ∧ bits w 19 5 = (0 : BitVec 5) then some (brTarget w a)
  else if bits w 24 8 = (0x0F : BitVec 8) then some (jalTarget w a)
  else none

/-- What an entry of SEQ's queue does to the loops that fetch goes by. -/
def IqEntry.onLoops (x : IqEntry) (ls : List LoopEntry) : List LoopEntry :=
  match x.item with
  | .pass _ => (boundaryView ls).2
  | .marker _ => ls
  | .word w => match fetchJump w x.addr with | some t => leaveLoops t ls | none => ls

/-- The loops as they will stand once SEQ has executed everything delivered to it. -/
def Thread.aheadLoops (th : Thread) : List LoopEntry := (th.iq.get 0).foldl (fun ls x => x.onLoops ls) th.loopView

/-- Deliver the pass boundaries at the present fetch address: at the end of the innermost body a boundary enters SEQ's queue and fetch goes to the
body's start or on; `fuel` bounds the nested bodies that end at one address. A reloaded entry with BODY12 = 0 ends where it starts: fetch crosses at most `fuel` of its
boundaries there and then delivers the word with the loop still active (R105 does not say how an empty body runs: DESIGN CHOICE, log entry 100). -/
def Thread.crossBoundaries : Nat → Thread → Thread
  | 0, th => th
  | fuel + 1, th =>
    match th.aheadLoops with
    | [] => th
    | l :: ls =>
      if th.fetch = l.stop then
        let again := (boundaryView (l :: ls)).1
        let x : IqEntry := { item := .pass (l.rot && again), addr := th.fetch, ord := th.nextOrd - 1, rrb := th.rrb }
        Thread.crossBoundaries fuel
          { th with iq := th.iq.set 0 (th.iq.get 0 ++ [x]), fetch := if again then l.start else th.fetch }
      else th

/-- Fetch goes on from the present address. -/
def Thread.goOn (th : Thread) : Thread := { th with fetchSt := .going }.crossBoundaries 8

/-- Queues in which every entry numbered `ord` or later resolves its names under `r` (R66). -/
def renamed (r : BitVec 4) (ord : Nat) (iq : Tab (List IqEntry)) : Tab (List IqEntry) :=
  (List.range 8).foldl (fun q e => q.set e ((iq.get e).map fun x => if ord ≤ x.ord then { x with rrb := r } else x)) iq

/-- Set RRB, and with it the RRB of every entry delivered after the SEQ entry numbered `ord` (R66). -/
def Thread.setRrb (th : Thread) (r : BitVec 4) (ord : Nat) : Thread := { th with rrb := r, rrbOrd := ord + 1, iq := renamed r (ord + 1) th.iq }

/-! ## Entries of the instruction queues -/

/-- Markers of a slot that have not reached their queue heads (R165). -/
def Thread.markers (th : Thread) (j : Nat) : Nat :=
  (List.range 8).foldl (fun n e => n + ((th.iq.get e).filter fun x => x.item == .marker j).length) 0

/-- The smallest fetch-order number of a word or marker not yet executed, `nextOrd` when there is none. -/
def Thread.oldest (th : Thread) : Nat :=
  (List.range 8).foldl (fun n e => (th.iq.get e).foldl (fun n x => if x.item.isPass then n else Nat.min n x.ord) n) th.nextOrd

/-- Slip (R160): entries are numbered by twos. In state handler the entries set aside do not count, and the handler's own words lie within the span that is counted
after eret, since the numbers go on (the spec says neither: DESIGN CHOICE, log entry 101). -/
def Thread.slip (th : Thread) : Nat := (th.nextOrd - th.oldest) / 2

/-- The engines that hold a word delivered before fetch-order number `ord`. -/
def Thread.earlier (th : Thread) (ord : Nat) : List Engine :=
  allEngines.filter fun e => (th.iq.get (engCode e)).any fun x => x.item.isWord && decide (x.ord < ord)

/-- Every word delivered before the head word of an engine has executed (R210, R263, R295). In state handler the words set aside at the trap are not waited for
(DESIGN CHOICE, log entry 101). -/
def Thread.allBefore (th : Thread) (e : Engine) : Bool := (th.earlier (th.ordOf e)).isEmpty

/-- Markers at the head of a queue leave it (R165). -/
def dropMarkers : List IqEntry → List IqEntry
  | [] => []
  | x :: xs => match x.item with | .marker _ => dropMarkers xs | _ => x :: xs

/-- Remove the head word of an engine's queue; markers behind it reach the head in the same clock (R165). -/
def Thread.popIq (th : Thread) (e : Engine) : Thread :=
  { th with iq := th.iq.set (engCode e) (dropMarkers (th.iq.get (engCode e)).tail) }

/-! ## The scoreboard (R133) -/

/-- A scoreboard state. -/
def Thread.sbAny (th : Thread) (f : SbEntry → Bool) : Bool := (th.sb.getRange 0 16).any fun x => x.valid && f x

/-- Some entry is pending. -/
def Thread.sbPending (th : Thread) : Bool := th.sbAny fun x => x.st == .pending

/-- Valid entries: SBN. -/
def Thread.sbCount (th : Thread) : Nat := ((th.sb.getRange 0 16).filter fun x => x.valid).length

/-- The lowest free entry. -/
def Thread.sbFree (th : Thread) : Option Nat := (List.range 16).find? fun j => !(th.sb.get j).valid

/-- Take an entry. -/
def Thread.sbTake (th : Thread) (j : Nat) (e : Engine) (op : BitVec 5) (pc : TextAddr) (obj : BitVec 32) : Thread :=
  { th with sb := th.sb.set j { valid := true, st := .pending, eng := e, op := op, pc := pc, obj := obj, ord := th.ordOf e } }

/-- Give an entry a state. -/
def Thread.sbSet (th : Thread) (j : Nat) (st : SbSt) : Thread :=
  { th with sb := th.sb.mod j fun x => if x.valid then { x with st := st } else x }

/-- State codes of an entry. -/
def SbSt.code : SbSt → Nat
  | .pending => 0 | .done => 1 | .failed => 2 | .parked => 3 | .aborted => 4

/-- An entry as a dword. -/
def SbEntry.word (x : SbEntry) : Dword :=
  if !x.valid then 0
  else BitVec.ofNat 64 (2 ^ 63 + x.st.code * 2 ^ 60 + engCode x.eng * 2 ^ 57 + x.op.toNat * 2 ^ 52 + x.pc.toNat * 2 ^ 34 + x.obj.toNat)

/-- Remove the entries that a restart removes: done, failed or aborted. -/
def Thread.sbSweep (th : Thread) : Thread :=
  { th with sb := (List.range 16).foldl (fun t j =>
      let x := th.sb.get j
      if x.valid && (x.st == .done || x.st == .failed || x.st == .aborted) then t.set j default else t) th.sb }

/-! ## Contributions (R185, R461) -/

/-- Combine an event into a contribution: a higher rank replaces, of equals the first in time stands. -/
def Contrib.join (c d : Contrib) : Contrib := if c.rank < d.rank ∨ (c.rank = d.rank ∧ d.rank ≠ 0 ∧ d.clk < c.clk) then d else c

/-- A thread contributes. Ranks: 1 corrected, 2 tainted, 3 cancelled. -/
def State.contribute (s : State) (t rank : Nat) (reason : BitVec 8) (pc : TextAddr) : State :=
  s.modThr t fun th => { th with contrib := th.contrib.join { rank := rank, reason := reason, pc := pc, clk := s.clk } }

/-- A thread contributes tainted with the reason of an engine's event. -/
def State.taint (s : State) (t : Nat) (e : Engine) (reason : BitVec 8) : State := s.contribute t 2 reason ((s.thr t).pc e)

/-- Trap codes (R129). -/
def TrapCode.num : TrapCode → BitVec 8
  | .illegalInsn => 0x01 | .privilege => 0x02 | .reservedField => 0x03 | .queueDeadlock => 0x04 | .formatUnderflow => 0x05
  | .pageFault => 0x10 | .tileFault => 0x11 | .align => 0x12 | .unowned => 0x13 | .shareConflict => 0x14 | .remoteHomeLost => 0x15
  | .staleLayout => 0x16 | .kvMiss => 0x17 | .ringRange => 0x18 | .phaseOverlap => 0x19 | .pendingRead => 0x1A
  | .layoutTag => 0x20 | .accInFlight => 0x21 | .shape => 0x22 | .sparseMeta => 0x23 | .scaleParity => 0x24
  | .maskProgram => 0x28 | .fpEnabled => 0x30 | .step => 0x40 | .brk => 0x41 | .userTrap => 0x42
  | .controlDivergence => 0x50 | .uncorrectable => 0x51 | .preempt => 0x60

/-- What a read does to its thread beyond its value (R457, R269): poison taints with 0x51, a tainted piece with 0x13. -/
def State.readTaint (s : State) (t : Nat) (e : Engine) (poison piece : Bool) : State :=
  let s := if poison then s.taint t e 0x51 else s
  if piece then s.taint t e 0x13 else s

/-! ## Event rings (R158, R486) -/

/-- An event record's dwords. -/
def evRecord (kind : Nat) (code : BitVec 8) (cid qid : Nat) (ptag ordinal : BitVec 32) (place : Dword) : EvRec :=
  { d0 := BitVec.ofNat 64 (kind + code.toNat * 256 + cid % 1024 * 2 ^ 16 + qid % 4096 * 2 ^ 26)
    d1 := BitVec.ofNat 64 (ptag.toNat + ordinal.toNat * 2 ^ 32), d2 := place }

/-- Write bytes of host memory. -/
def State.hostWrite (s : State) (a : Nat) (bs : List Byte) : State := { s with hostMem := s.hostMem.setRange a bs }

/-- The event ring of a port has room. -/
def AdminPort.room (p : AdminPort) : Bool := decide ((p.prod - p.cons).toNat ≠ 2 ^ p.evL)

/-- A Diripo port is usable (R421). -/
def State.portUp (s : State) (port : Nat) : Bool := (s.dports.get port).st.usable

/-- A Diripo port takes a write now: it is usable and its retry buffer has room (R409, R419). -/
def State.portTakes (s : State) (port : Nat) : Bool := s.portUp port && (s.dports.get port).room

/-- A write goes out over a Diripo port: it is performed, and its flit stays in the retry buffer until the card has acknowledged it (R409, R410, R419; log
entry 97). -/
def State.diripoSend (s : State) (port : Nat) : State :=
  let d := diripoDie port
  let k : Packet := { src := d, dst := 256, num := (s.pairs.get (pairKey d 256)).sent, use := .host }
  { s with
    pairs := s.pairs.mod (pairKey d 256) fun x => { x with sent := x.sent + 1 }
    dports := s.dports.mod port fun x => x.send k }

/-- Write a record into the event ring of a port that has room. -/
def State.putEvent (s : State) (port : Nat) (r : EvRec) : State :=
  let p := s.admin.get port
  let prod := p.prod + 1
  let s := s.hostWrite (p.evBase + 32 * (p.prod.toNat % 2 ^ p.evL))
    (leBytes 8 r.d0.toNat ++ leBytes 8 r.d1.toNat ++ leBytes 8 r.d2.toNat ++ leBytes 8 0)
  let s := s.hostWrite (p.evBase + 32 * 2 ^ p.evL) (leBytes 4 prod.toNat)
  State.diripoSend { s with admin := s.admin.set port { p with prod := prod } } port

/-- The write is an event. -/
def PortWrite.isEvent : PortWrite → Bool
  | .event _ _ => true
  | .report _ _ _ => false

/-- The events that the device holds for a port (R158). -/
def AdminPort.eventsHeld (p : AdminPort) : Nat := (p.heldOut.filter PortWrite.isEvent).length

/-- Hold a write for a port; an older report of the same queue to the same address is merged into it (R151). -/
def State.holdOut (s : State) (port : Nat) (w : PortWrite) : State :=
  let same := fun (y : PortWrite) => match w, y with | .report q a _, .report q' a' _ => q == q' && a == a' | _, _ => false
  { s with admin := s.admin.mod port fun p => { p with heldOut := p.heldOut.filter (fun y => !same y) ++ [w] } }

/-- Signal an event on a port's path: written, or held in order while the ring is full or the port unusable (R158, R421); `t` is the thread whose trap it
tells of. -/
def State.eventFor (s : State) (port : Nat) (r : EvRec) (t : Option Nat) : State :=
  let p := s.admin.get port
  if s.portTakes port && p.eventsHeld == 0 && p.room then s.putEvent port r else s.holdOut port (.event r t)

/-- Signal an event that tells of no thread. -/
def State.eventOn (s : State) (port : Nat) (r : EvRec) : State := s.eventFor port r none

/-- The event of a thread's trap cannot be written yet (R158). -/
def State.trapHeld (s : State) (t : Nat) : Bool :=
  s.admin.any fun e => e.2.heldOut.any fun w => match w with | .event _ u => u == some t | _ => false

/-- Write what the device holds for a usable port, in order: reports, and events while the ring has room (R158, R421). -/
def flushOut (port : Nat) : List PortWrite → State → State
  | [], s => s
  | .report q a v :: rest, s =>
    flushOut port rest (if s.portTakes port then (s.hostWrite a (leBytes 8 v)).diripoSend port else s.holdOut port (.report q a v))
  | .event r t :: rest, s =>
    flushOut port rest (if s.portTakes port && (s.admin.get port).eventsHeld == 0 && (s.admin.get port).room then s.putEvent port r else s.holdOut port (.event r t))

/-- QSTATE of a head report (R151). -/
def QSt.code : QSt → Nat
  | .unattached => 0 | .active => 1 | .waiting => 2 | .paused => 3 | .error => 4

/-- The write is a report of a queue. -/
def PortWrite.isReportOf (q : Nat) : PortWrite → Bool
  | .report p _ _ => p == q
  | .event _ _ => false

/-- The head report of a queue is written, or waits for its port, and behind an older report of the queue that waits (R151, R421). -/
def State.report (s : State) (q : Nat) : State :=
  let x := s.queues.get q
  let v := x.head.toNat + x.st.code * 2 ^ 32
  if s.portTakes x.port && !(s.admin.get x.port).heldOut.any (PortWrite.isReportOf q) then (s.hostWrite x.hrep (leBytes 8 v)).diripoSend x.port else s.holdOut x.port (.report q x.hrep v)

/-- A port is usable, or its event ring has room again: waiting head reports and events are written in order (R158, R421). -/
def State.flushPort (s : State) (port : Nat) : State :=
  if !s.portUp port then s
  else
    let p := s.admin.get port
    flushOut port p.heldOut { s with admin := s.admin.set port { p with heldOut := [] } }

/-- The trap event of a thread, on its context's event path (R139, R158). -/
def State.threadEvent (s : State) (t cid : Nat) (r : EvRec) : State := s.eventFor (s.ctxs.get cid).evPort r (some t)

/-- Signal an event on a context's event path. -/
def State.event (s : State) (cid : Nat) (r : EvRec) : State := s.eventOn (s.ctxs.get cid).evPort r

/-- WHERE of a thread (R158). -/
def Thread.place (th : Thread) : Dword := BitVec.ofNat 64 (th.die % 8 + th.core * 8 + th.die / 8 * 2 ^ 11)

/-! ## The device error log (R464, R465) -/

/-- What a log record says; without a context it has NOCID = 1, as the records of poison, fences, links and region copies do (DEDUCED, log entry 98). -/
structure LogRec where
  kind : Nat
  code : Nat
  unit : Nat
  cid : Option Nat
  addr : Nat
  node : Nat

/-- Write a log record of a die, or raise DROP while the ring is full or its slot cannot be written. -/
def State.log (s : State) (d : Nat) (r : LogRec) : State :=
  let die := s.die d
  let n := field die.elbase 0 4 + 4
  let prod := bits die.elpos 0 32
  let cons := bits die.elpos 32 32
  let at_ := field die.elbase 12 38 * 4096 + 32 * (prod.toNat % 2 ^ n)
  if (prod - cons).toNat = 2 ^ n ∨ s.paHole at_ ∨ s.paLost at_ then
    let drop := bits die.elcnt 32 32
    s.setDie d fun x => { x with elcnt := cat 64 (if drop = BitVec.allOnes 32 then drop else drop + 1) (bits x.elcnt 0 32) }
  else
    let d0 := r.kind + r.code * 256 + d % 8 * 2 ^ 16 + d / 8 * 2 ^ 19 + r.unit * 2 ^ 24 +
      (match r.cid with | some c => c * 2 ^ 32 | none => 2 ^ 42)
    let s := s.homeWrite 0 at_ (leBytes 8 d0 ++ leBytes 8 r.addr ++ leBytes 8 r.node ++ leBytes 8 s.period.toNat)
    s.setDie d fun x => { x with elpos := cat 64 cons (prod + 1) }

/-- The thread executes words: it runs, no trap is pending. -/
def Thread.active (th : Thread) : Bool := (th.st == .running || th.st == .handler) && th.pend.isNone

end Sys2Proof.Machine
end

