-- ==== Sys2Proof/Machine/Atomic.lean ====
section
/-! DEFINITION. Atomic operations, the ordering units of slices and scratchpads (R293, R294, R311, R312), and the performance of issued scratchpad accesses in
their clocks (R288, R289). -/

namespace Sys2Proof.Machine

/-- The new value of an atomic operation on n bits, and whether it writes (R311). -/
def atomNew (op n old v c : Nat) : Nat × Bool :=
  let sx := fun x => intVal n true x
  match op with
  | 0 => ((old + v) % 2 ^ n, true)
  | 1 => (if sx old ≤ sx v then old else v, true)
  | 2 => (if sx v ≤ sx old then old else v, true)
  | 3 => (old &&& v, true)
  | 4 => (old ||| v, true)
  | 5 => (old ^^^ v, true)
  | 6 => (v, true)
  | _ => if old = c then (v, true) else (old, false)

/-! ## Ordering units -/

/-- The key of a line entry: a line of memory, or of a cluster's scratchpad. -/
def lineKey (spad : Bool) (cluster a : Nat) : Nat := if spad then 2 ^ 44 + cluster * 2 ^ 16 + a / 128 else a / 128

/-- The ordering unit of a line entry: a slice of its home die, or a cluster's scratchpad (R293). -/
def State.unitOf (s : State) (key : Nat) : Nat :=
  if key < 2 ^ 44 then homeOf (key * 128) * 32 + s.sliceOf (key * 128) else 2 ^ 20 + (key - 2 ^ 44) / 2 ^ 16

/-- Line entries of a unit in use. -/
def State.linesOf (s : State) (u : Nat) : Nat := (s.atomLines.filter fun e => e.2.live && s.unitOf e.1 == u).length

/-- Line entries that a unit has, and shared holding entries (R293). -/
def unitLines (u : Nat) : Nat := if u < 2 ^ 20 then 4096 else 256
/-- Shared holding entries of a unit. -/
def unitShared (u : Nat) : Nat := if u < 2 ^ 20 then 64 else 16

/-- The atomos that a unit holds. -/
def State.heldBy (s : State) (u : Nat) : List Atomo := s.atomLines.flatMap fun e => e.2.held.filter fun a => a.unit == u

/-- The requester stream that has a reserved holding entry for a thread's atomos to a line (R293): at a scratchpad the core of the cluster; at a slice a core of
the slice group, or the one stream in which another die's atomos arrive. A core of the home die outside the slice group has none. -/
def State.atomStream (s : State) (th : Thread) (spad : Bool) (pa : Nat) : Option Nat :=
  if spad then some (th.core % 4)
  else if homeOf pa ≠ th.die then some (256 + th.die)
  else if th.core / 8 = s.sliceOf pa then some th.core
  else none

/-- An atomic operation on scratchpad in the present clock (R288, R292): the state, the old value and whether a poisoned granule was read. -/
def State.spadAtom (s : State) (p : SPend) (op size v c : Nat) : State × Nat × Bool :=
  let old := leNat (s.spadBytes p.cluster p.addr size)
  let y := atomNew op (8 * size) old (v % 2 ^ (8 * size)) (c % 2 ^ (8 * size))
  (if y.2 then s.spadLand { p with act := .write, bytes := leBytes size y.1 } else s, old, s.spadPoison p.cluster p.addr size)

/-- The issuer of an atomic has its result (R311, R312); a thread that has ended discards it. -/
def State.giveAtom (s : State) (t old : Nat) (bad : Bool) : State :=
  if (s.thr t).st = .ended ∨ (s.thr t).st = .absent then s
  else (s.readTaint t .adr bad false).modThr t fun th => { th with atomoOld := some (BitVec.ofNat 64 old) }

/-- The core within its cluster of the issuer of an atomo on scratchpad. -/
def Atomo.core (a : Atomo) : Nat := a.stream.getD 0

/-- An ordered atomic ends with a trap at its word; a thread that has ended takes none. -/
def State.endAtomo (s : State) (a : Atomo) (i : TrapInfo) : State :=
  s.modThr a.thread fun th => if th.st = .ended then th else { th with atomoFail := some i }

/-- An atomo is performed: the operand changes, and its issuer has its result (R293, R312). One on scratchpad reads its operand now (R292): at a word that another engine or
thread has pending it has no effect and ends with PENDING_READ (R291), and its number counts as performed (DESIGN CHOICE, log entry 99). -/
def State.performAtomo (s : State) (a : Atomo) : State :=
  let th := s.thr a.thread
  if a.spad then
    match s.pendingRead a.cluster a.core .adr a.pa a.size with
    | some i => (s.endAtomo a i).settlePending a.cluster (.adr, a.core) a.pa a.size
    | none =>
      let r := s.spadAtom { cluster := a.cluster, addr := a.pa, act := .write, bytes := [], due := s.clk, thread := a.thread, core := a.core, eng := .adr,
                            ord := 0 } a.op.toNat a.size a.v.toNat a.c.toNat
      (r.1.giveAtom a.thread r.2.1 r.2.2).settlePending a.cluster (.adr, a.core) a.pa a.size
  else
    let old := leNat (s.homeRead a.pa a.size)
    let y := atomNew a.op.toNat (8 * a.size) old (a.v.toNat % 2 ^ (8 * a.size)) (a.c.toNat % 2 ^ (8 * a.size))
    State.giveAtom (if y.2 then s.homeWrite th.cid a.pa (leBytes a.size y.1) else s) a.thread old (s.rangePoison a.pa a.size)

/-- Perform the held atomos whose number is NEXT, one for each number (R294): the state, the entry, and whether a LAST was performed. -/
def drainLine (line : Nat) : Nat → State → AtomLine → Bool → State × AtomLine × Bool
  | 0, s, e, last => (s, e, last)
  | fuel + 1, s, e, last =>
    match e.held.find? fun a => a.q == e.next with
    | none => (s, e, last)
    | some a =>
      let e := { e with next := e.next + 1, held := e.held.erase a }
      drainLine line fuel (State.performAtomo { s with atomLines := s.atomLines.set line e } a) e (last || a.last)

/-- An ordered atomic ends with SHAPE at its element (R294, R312). -/
def State.failAtomo (s : State) (a : Atomo) (cause : Nat) : State :=
  let s := if a.spad then s.settlePending a.cluster (.adr, a.core) a.pa a.size else s
  s.endAtomo a { code := .shape, estat := BitVec.ofNat 64 cause, addr := BitVec.ofNat 64 a.q }

/-- A LAST has been performed: the line entry is freed. A held atomo that repeats a number already performed cannot come up again: it ends with SHAPE, its
number outside the window (DESIGN CHOICE, log entry 91). -/
def State.freeLine (s : State) (line : Nat) : State :=
  (s.atomLines.get line).held.foldl (fun s a => s.failAtomo a 6) { s with atomLines := s.atomLines.set line default }

/-- The ordering unit handles an arriving atomo (R294). -/
def State.arriveAtomo (s : State) (a : Atomo) : State :=
  let a := { a with unit := s.unitOf a.line, reserved := false }
  let refuse := fun (s : State) => { s with refused := s.refused ++ [a] }
  let e0 := s.atomLines.get a.line
  if !e0.live ∧ unitLines a.unit ≤ s.linesOf a.unit then refuse s
  else
    let e : AtomLine := if e0.live then e0 else { live := true, next := 0, held := [] }
    let put := fun (s : State) (e : AtomLine) => { s with atomLines := s.atomLines.set a.line e }
    let reservedFree := match a.stream with
      | none => false
      | some k => !((s.heldBy a.unit).any fun b => b.reserved && b.stream == some k)
    if a.q = e.next then
      let e := { e with next := a.q + 1 }
      let r := drainLine a.line (e.held.length + 1) ((put s e).performAtomo a) e a.last
      if r.2.2 then r.1.freeLine a.line else r.1
    else if a.q < e.next ∨ e.next + 65536 ≤ a.q then (put s e).failAtomo a 6
    else if reservedFree then put s { e with held := e.held ++ [{ a with reserved := true }] }
    else if ((s.heldBy a.unit).filter fun b => !b.reserved).length < unitShared a.unit then put s { e with held := e.held ++ [a] }
    else refuse (put s e)

/-! ## Issued scratchpad accesses -/

/-- Perform one issued access, already taken from the list: its bytes land, its atomic is performed or comes to its ordering unit, and it is pending no more. An atom reads
its operand now: where another engine or thread has a word of it pending, it has no effect and its word raises PENDING_READ (R291, R292). -/
def State.performPend (s : State) (p : SPend) : State :=
  match p.act with
  | .write => (s.spadLand p).settlePending p.cluster (p.eng, p.core) p.addr p.bytes.length
  | .atom op v c =>
    match s.pendingRead p.cluster p.core p.eng p.addr p.bytes.length with
    | some i =>
      (s.modThr p.thread fun th => if th.st = .ended then th else { th with atomoFail := some i }).settlePending p.cluster (p.eng, p.core) p.addr p.bytes.length
    | none =>
      let r := s.spadAtom p op p.bytes.length v c
      (r.1.giveAtom p.thread r.2.1 r.2.2).settlePending p.cluster (p.eng, p.core) p.addr p.bytes.length
  | .atomo a => s.arriveAtomo a

/-- Perform the accesses at the front of the list that are due at clock `now`. -/
def performDueFrom (now : Nat) : List SPend → State → State
  | [], s => s
  | p :: rest, s => if p.due ≤ now then performDueFrom now rest (State.performPend { s with spend := rest } p) else s

/-- The scratchpad of an access lies on a frozen die (R467). -/
def State.spadFrozen (s : State) (p : SPend) : Bool := (s.die (p.cluster / 64)).frozen

/-- Perform every access whose clock has come (R288); the writes performed in the clock before no longer contend. On a frozen die no clock passes: what is issued
there keeps the clocks it has to go (R467). -/
def State.performDue (s : State) : State :=
  let still := s.spend.filter s.spadFrozen
  let go := s.spend.filter fun p => !s.spadFrozen p
  let s := performDueFrom s.clk go { s with spend := go, landed := s.landed.filter s.spadFrozen }
  { s with spend := still.foldl (fun l p => insertPend { p with due := p.due + 1 } l) s.spend }

end Sys2Proof.Machine
end

