-- ==== Sys2Proof/Machine/Array.lean ====
section
/-! DEFINITION. The matrix array (R35 to R48, R367 to R373, R382, R383): what a recorded tile command reads and when, its exact block sums, what it writes at
retirement, the replay of a command window, and the accumulator moves of mload and mstore that take one row a clock. -/

namespace Sys2Proof.Machine

/-! ## Format words (R74) -/

/-- CLASS. -/
abbrev fwClass (w : Dword) : Nat := field w 60 4
/-- FA. -/
abbrev fwFA (w : Dword) : Nat := field w 55 5
/-- FB. -/
abbrev fwFB (w : Dword) : Nat := field w 50 5
/-- FC. -/
abbrev fwFC (w : Dword) : Nat := field w 48 2
/-- M, rows of the tile. -/
abbrev fwM (w : Dword) : Nat := field w 41 7 + 1
/-- N, columns of the tile. -/
abbrev fwN (w : Dword) : Nat := field w 34 7 + 1
/-- K, the depth. -/
abbrev fwK (w : Dword) : Nat := 8 * field w 25 9
/-- G. -/
abbrev fwG (w : Dword) : Nat := field w 22 3
/-- SN, the N of an N:M pattern. -/
abbrev fwSN (w : Dword) : Nat := field w 18 4
/-- The M of an N:M pattern. -/
abbrev fwSM (w : Dword) : Nat := 4 * 2 ^ field w 16 2
/-- SC. -/
abbrev fwSC (w : Dword) : Nat := field w 14 2
/-- RND. -/
abbrev fwRND (w : Dword) : Nat := field w 12 2
/-- TAG. -/
abbrev fwTag (w : Dword) : Nat := field w 0 12

/-- Elements of B along K: T stored elements under sparsity (R45). -/
def fwT (w : Dword) : Nat := if fwClass w = 1 then fwK w * fwSN w / fwSM w else fwK w

/-- Alignment blocks of B (R36, R48). -/
def fwBlocks (w : Dword) : Nat := fwT w / 8

/-- The code names a floating format. -/
def isFlt (code : Nat) : Bool := match eFmt code with | some (.flt _) => true | _ => false

/-- Significand bits of a floating format, the hidden bit counted. -/
def sigBits (code : Nat) : Nat := match eFmt code with | some (.flt f) => f.wf + 1 | _ => 0

/-- Stored planes of an operand (R326). -/
def storedPlanes (isB : Bool) (code g : Nat) : Nat :=
  if isFlt code then (if isB then sigBits code + 1 + g else 24) else widthOf code

/-- Plane clocks of a step (R37). -/
def planeClocks (w : Dword) : Nat := if fwFB w = 0x10 then 1 else storedPlanes true (fwFB w) (fwG w)

/-- The formats that FA may name (R35). -/
def faOk (c : Nat) : Bool := [0x00, 0x01, 0x02, 0x03, 0x04, 0x09, 0x0A, 0x0B, 0x0C, 0x0D, 0x0E, 0x0F].contains c

/-- The formats that FB may name (R35). -/
def fbOk (c : Nat) : Bool := [0x00, 0x01, 0x02, 0x03, 0x09, 0x0A, 0x0B, 0x0C, 0x0D, 0x0E, 0x0F, 0x10].contains c

/-- Index bits of a pattern (R46). -/
def idxBits (w : Dword) : Nat := field w 16 2 + 2

/-- A format word keeps R35, K lies in the range of R74, and under CLASS 1 the SHAPE cases of R47 do not hold; `vm` is the first metadata register. -/
def fwOk (w : Dword) (vm : Nat) : Bool :=
  let fa := fwFA w
  let fb := fwFB w
  let intPair := !isFlt fa && !isFlt fb
  decide (fwClass w ≤ 3) && faOk fa && fbOk fb &&
  (if isFlt fb then decide (planeClocks w ≤ 15) else fwG w == 0) &&
  (fwFC w == 0 || ((fwFC w == 1 || fwFC w == 2) && intPair && fwSC w == 0)) &&
  (if fwFC w = 0 then decide (fwRND w ≤ 2) else fwRND w == 0) &&
  ((fwClass w == 2) == (fb == 0x10)) &&
  (if fwClass w = 1 then decide (field w 16 2 ≤ 2) && decide (1 ≤ fwSN w) && decide (fwSN w ≤ fwSM w / 2)
   else fwSN w == 0 && field w 16 2 == 0) &&
  (fwSC w % 2 == 0 || isFlt fa) && (fwSC w / 2 == 0 || isFlt fb) &&
  (fwSC w == 0 || fwK w % 32 == 0) && decide (8 ≤ fwK w) && decide (fwK w ≤ 512) &&
  (fwClass w != 1 ||
    (fwK w * fwSN w % (8 * fwSM w) == 0 && decide (fwT w * idxBits w ≤ 128) && decide (vm + (fwT w * idxBits w + 31) / 32 ≤ 32) &&
     (fwSC w % 2 == 0 || decide (8 * fwSM w ≤ 32 * fwSN w))))

/-- The metadata string of column j (R46). -/
def metaBits (regs : List Row) (j : Nat) : Nat :=
  (regs.foldl (fun (a : Nat × Nat) r => (a.1 + (lane r j).toNat * 2 ^ (32 * a.2), a.2 + 1)) (0, 0)).1

/-- idx(t, j) of a metadata string (R46). -/
def idxAt (w : Dword) (str t : Nat) : Nat := str / 2 ^ (t * idxBits w) % 2 ^ idxBits w

/-- Every group of every column holds strictly increasing indices (R47). -/
def metaOk (w : Dword) (regs : List Row) : Bool :=
  (List.range (fwN w)).all fun j =>
    let str := metaBits regs j
    (List.range (fwT w - 1)).all fun t => (t + 1) % fwSN w == 0 || decide (idxAt w str t < idxAt w str (t + 1))

/-! ## Tile headers (R325) -/

/-- TAG. -/
def TileHdr.tag (h : TileHdr) : Nat := field h.d0 0 12
/-- FMT. -/
def TileHdr.fmt (h : TileHdr) : Nat := field h.d0 12 5
/-- ROLE. -/
def TileHdr.role (h : TileHdr) : Nat := field h.d0 17 1
/-- NPL. -/
def TileHdr.npl (h : TileHdr) : Nat := field h.d0 18 5
/-- G. -/
def TileHdr.g (h : TileHdr) : Nat := field h.d0 23 3
/-- SW. -/
def TileHdr.sw (h : TileHdr) : Nat := field h.d0 26 2
/-- MX. -/
def TileHdr.mx (h : TileHdr) : Nat := field h.d0 28 1
/-- K. -/
def TileHdr.k (h : TileHdr) : Nat := field h.d0 29 10
/-- LANES. -/
def TileHdr.lanes (h : TileHdr) : Nat := field h.d0 39 7 + 1
/-- EOFF. -/
def TileHdr.eoff (h : TileHdr) : Nat := field h.d1 0 24
/-- SOFF. -/
def TileHdr.soff (h : TileHdr) : Nat := field h.d1 24 24
/-- POFF. -/
def TileHdr.poff (h : TileHdr) : Nat := field h.d2 0 24

/-- Where a logical line of the slab is stored, from the tile's start (R325). -/
def TileHdr.line (h : TileHdr) (i : Nat) : Nat := h.poff + 16 * (i ^^^ (i / 4 % 2 ^ h.sw))

/-- The cause of the first mismatch of a header with a format word (R365), 0 when there is none. -/
def headerCause (w : Dword) (isB : Bool) (h : TileHdr) (len : Nat) : Nat :=
  let code := if isB then fwFB w else fwFA w
  let g := if isB then fwG w else 0
  if h.tag ≠ fwTag w then 1
  else if h.fmt ≠ code then 2
  else if h.role ≠ (if isB then 1 else 0) then 3
  else if h.npl ≠ storedPlanes isB code g ∨ h.g ≠ g then 4
  else if h.k ≠ (if isB then fwT w else fwK w) then 5
  else if h.lanes < (if isB then fwN w else fwM w) then 6
  else if h.mx ≠ (if isB then fwSC w / 2 else fwSC w % 2) then 7
  else if len < h.tsz then 8
  else 0

/-! ## Block values -/

/-- The images of one lane over an alignment block, with its block exponent; `none` for a block that holds a NaN or an infinity. -/
structure LaneBlk where
  e : Option Int
  im : List Int
deriving Repr, Inhabited

/-- The value of a stored plane pattern (R37, R326). -/
def imageOf (code npl u : Nat) : Int :=
  if code = 0x10 then (if u % 2 = 1 then (if u / 2 % 2 = 1 then -1 else 1) else 0)
  else if code = 0x03 then (u : Int)
  else if 2 ^ (npl - 1) ≤ u then (u : Int) - 2 ^ npl else (u : Int)

/-- Bit l of the line at an address. -/
def lineBit (rd : Nat → Byte) (a l : Nat) : Nat := if flag (rd (a + l / 8)) (l % 8) then 1 else 0

/-- The image of stored element k of lane l (R325). -/
def imageAt (rd : Nat → Byte) (base : Nat) (h : TileHdr) (code k l : Nat) : Int :=
  imageOf code h.npl ((List.range h.npl).foldl (fun u p => u + lineBit rd (base + h.line (k * h.npl + p)) l * 2 ^ p) 0)

/-- Where a command's bytes come from: under 0 the plane rows, under b + 1 the exponent bytes and scale words as block b reads them (R367). -/
abbrev TileSrc := Nat → Nat → Byte

/-- Stored 8-block b of lane l (R325, R326), its exponent as alignment block `blk` reads it. -/
def laneBlk (rd : TileSrc) (base : Nat) (h : TileHdr) (code blk b l : Nat) : LaneBlk :=
  let im := (List.range 8).map fun q => imageAt (rd 0) base h code (8 * b + q) l
  if isFlt code then
    let x := (rd (blk + 1) (base + h.eoff + 128 * b + l)).toNat
    { e := if x = 255 then none else some ((x : Int) - 127), im := im }
  else { e := some 0, im := im }

/-- Shift an image right in magnitude (R326 note). -/
def shrMag (x : Int) (d : Nat) : Int := if x < 0 then -((x.natAbs / 2 ^ d : Nat) : Int) else ((x.natAbs / 2 ^ d : Nat) : Int)

/-- Several 8-blocks as one block of the greatest exponent (R48). -/
def joinBlks (bs : List LaneBlk) : LaneBlk :=
  match bs with
  | [] => ⟨some 0, []⟩
  | b :: rest =>
    if (b :: rest).any fun x => x.e.isNone then ⟨none, []⟩
    else
      let e := rest.foldl (fun m x => max m (x.e.getD 0)) (b.e.getD 0)
      ⟨some e, (b :: rest).flatMap fun x => x.im.map fun v => shrMag v (e - x.e.getD 0).toNat⟩

/-- The 8-blocks of A that block b of B meets: first and count (R48). -/
def aBlocks (w : Dword) (b : Nat) : Nat × Nat :=
  if fwClass w = 1 then
    let lo := 8 * b / fwSN w * fwSM w
    let hi := ((8 * b + 7) / fwSN w + 1) * fwSM w
    (lo / 8, hi / 8 - lo / 8)
  else (b, 1)

/-- A block value: NaN, or an exact real with its integer sum (R40). -/
inductive BVal where
  | nan
  | val (sum : Int) (v : Frac)
deriving Repr, Inhabited

/-- The factor of an operand's images: 2^(e − 22) for a floating A, 2^(e − (s − 1 + G)) for a floating B, else 1 (R37, R38, R40). -/
def scaleExp (isB : Bool) (code g : Nat) (e : Int) : Int :=
  if isFlt code then (if isB then e - ((sigBits code : Int) - 1 + g) else e - 22) else 0

/-- The pairs of images that meet in block b for column string `str` (R45). -/
def pairUp (w : Dword) (b str : Nat) (a : List Int) (bb : List Int) : List (Int × Int) :=
  if fwClass w = 1 then
    let first := 8 * b / fwSN w * fwSM w
    bb.zipIdx.map fun x =>
      let t := 8 * b + x.2
      (a.getD (t / fwSN w * fwSM w + idxAt w str t - first) 0, x.1)
  else a.zip bb

/-- The block value of element (i, j) (R39, R40, R370): `sa`, `sb` are the scales that govern the block. -/
def blockVal (w : Dword) (b str : Nat) (a bb : LaneBlk) (sa sb : Frac) : BVal :=
  match a.e, bb.e with
  | some ea, some eb =>
    let xa := scaleExp false (fwFA w) 0 ea
    let xb := scaleExp true (fwFB w) (fwG w) eb
    let ps := pairUp w b str a.im bb.im
    if fwClass w = 3 then
      .val 0 (ps.foldl (fun s p =>
        let d := FracOps.sub (FracOps.scale ⟨p.1, 1⟩ xa) (FracOps.scale ⟨p.2, 1⟩ xb)
        FracOps.add s (FracOps.mul d d)) ⟨0, 1⟩)
    else
      let sum := ps.foldl (fun s p => s + p.1 * p.2) 0
      .val sum (FracOps.mul (FracOps.mul (FracOps.scale ⟨sum, 1⟩ (xa + xb)) sa) sb)
  | _, _ => .nan

/-- One block added into an FP32 accumulator (R41). -/
def addBlock (m : RMode) (acc : Word) (v : BVal) : Word :=
  match v with
  | .nan => nan32
  | .val _ x =>
    match f32 acc with
    | .nan _ => nan32
    | .inf _ => acc
    | y => if x.num = 0 then acc else (round32 m (FracOps.add y.frac x) false).1

/-- One block added into an INT32 accumulator (R43). -/
def addInt (sat : Bool) (acc : Word) (v : BVal) : Word :=
  match v with
  | .nan => acc
  | .val s _ => if sat then BitVec.ofInt 32 (clampInt (intBounds 32 true) (acc.toInt + s)) else acc + BitVec.ofInt 32 s

/-- The sum of a block's values over a row or a column, rounded once into a checksum (R369). -/
def addCheck (ck : Word) (vs : List BVal) : Word :=
  if vs.any fun v => match v with | .nan => true | _ => false then nan32
  else addBlock .rne ck (.val 0 (vs.foldl (fun s v => match v with | .val _ x => FracOps.add s x | .nan => s) ⟨0, 1⟩))

/-! ## A command's operands at a byte source -/

/-- The S20 word of MX block `mb` of lane l (R33). -/
def scaleAt (rd : Nat → Byte) (base : Nat) (h : TileHdr) (mb l : Nat) : BitVec 20 :=
  let a := base + h.soff + 512 * mb + 4 * l
  BitVec.ofNat 20 (leNat [rd a, rd (a + 1), rd (a + 2), rd (a + 3)])

/-- A scale read that fails (R34): operand B, code, MX block, the word. -/
structure BadScale where
  isB : Bool
  parity : Bool
  blk : Nat
  word : BitVec 20
deriving Repr, Inhabited

/-- The scales of block b of an operand, by lane, or none where SC names no scale (R44). Where N does not divide 8, an alignment block of A can reach
into a second MX block: it takes the scale of the first (DEDUCED, log entry 29). -/
def blockScales (rd : TileSrc) (c : MatCmd) (isB : Bool) (b : Nat) : Option (Nat × List (BitVec 20)) :=
  let w := c.fw
  if isB then (if fwSC w / 2 = 1 then some (8 * b / 32, (List.range (fwN w)).map fun l => scaleAt (rd (b + 1)) c.baseB c.hdrB (8 * b / 32) l) else none)
  else if fwSC w % 2 = 1 then
    let mb := 8 * (aBlocks w b).1 / 32
    some (mb, (List.range (fwM w)).map fun l => scaleAt (rd (b + 1)) c.baseA c.hdrA mb l)
  else none

/-- The first failing scale of block b: parity over both operands first, then E = 255 (R34, R368). -/
def badScale (rd : TileSrc) (c : MatCmd) (b : Nat) : Option BadScale :=
  let pick := fun (parity : Bool) (isB : Bool) =>
    match blockScales rd c isB b with
    | none => none
    | some (mb, ws) =>
      match ws.find? fun x => if parity then s20Odd x else s20Exp x == 255 with
      | some x => some (BadScale.mk isB parity mb x)
      | none => none
  (pick true false).orElse fun _ => (pick true true).orElse fun _ => (pick false false).orElse fun _ => pick false true

/-- The block values of a command: by block, row and column. -/
def blockVals (rd : TileSrc) (c : MatCmd) : List (List (List BVal)) :=
  let w := c.fw
  let strs := (List.range (fwN w)).map fun j => metaBits c.mdat j
  (List.range (fwBlocks w)).map fun b =>
    let ab := aBlocks w b
    let sa := blockScales rd c false b
    let sb := blockScales rd c true b
    let cols := (List.range (fwN w)).map fun j =>
      (laneBlk rd c.baseB c.hdrB (fwFB w) b b j, strs.getD j 0, match sb with | some x => s20Val (x.2.getD j 0) | none => ⟨1, 1⟩)
    (List.range (fwM w)).map fun i =>
      let a := joinBlks ((List.range ab.2).map fun q => laneBlk rd c.baseA c.hdrA (fwFA w) b (ab.1 + q) i)
      let s := match sa with | some x => s20Val (x.2.getD i 0) | none => ⟨1, 1⟩
      cols.map fun y => blockVal w b y.2.1 a y.1 s y.2.2

/-- The rounding of element (i, j) at block b, with the draw counter of the command's start (R41, R55). -/
def accMode (w : Dword) (key : Dword) (c0 : BitVec 61) (b i j : Nat) : RMode :=
  if fwRND w = 0 then .rne else if fwRND w = 1 then .rz
  else .sr (matDraw key (c0.toNat + (b * fwM w + i) * fwN w + j))

/-- Draws a command consumes (R55). -/
def drawsOf (w : Dword) : Nat := if fwRND w = 2 then fwBlocks w * fwM w * fwN w else 0

/-- An element after every block. -/
def accElem (w key : Dword) (c0 : BitVec 61) (old : Word) (i j : Nat) (vs : List BVal) : Word :=
  (vs.foldl (fun (a : Word × Nat) v =>
    (if fwFC w = 0 then addBlock (accMode w key c0 a.2 i j) a.1 v else addInt (fwFC w == 2) a.1 v, a.2 + 1)) (old, 0)).1

/-- The values of element (i, j), block by block. -/
def elemVals (vals : List (List (List BVal))) (i j : Nat) : List BVal := vals.map fun b => (b.getD i []).getD j .nan

/-- An accumulator as its rows and checksum rows. -/
structure Tile where
  rows : List Row
  rck : Row
  cck : Row
deriving Repr, Inhabited

/-- An accumulator of a thread. -/
def Thread.tile (th : Thread) (k : Nat) : Tile := { rows := th.acc.getRange (128 * k) 128, rck := th.rck.get k, cck := th.cck.get k }

/-- Write an accumulator. -/
def Thread.setTile (th : Thread) (k : Nat) (t : Tile) : Thread :=
  { th with acc := th.acc.setRange (128 * k) t.rows, rck := th.rck.set k t.rck, cck := th.cck.set k t.cck }

/-- A tile of zeros. -/
def Tile.zero : Tile := { rows := List.replicate 128 0, rck := 0, cck := 0 }

/-- Whether value x ranks above value y for mtopk: `small` for CLASS 3; NaN below every number (R371). -/
def ranksAbove (small : Bool) (x y : Word) : Bool :=
  if (f32 x).isNan then false else if (f32 y).isNan then true
  else if small then valLt (f32 x) (f32 y) else valLt (f32 y) (f32 x)

/-- Insert a column behind every column that ranks at least as high. -/
def rankInsert (small : Bool) (x : Nat × Word) : List (Nat × Word) → List (Nat × Word)
  | [] => [x]
  | y :: ys => if ranksAbove small x.2 y.2 then x :: y :: ys else y :: rankInsert small x ys

/-- The columns of a row, best first, lower column first among equals (R371). -/
def ranked (small : Bool) (xs : List (Nat × Word)) : List (Nat × Word) := xs.foldl (fun l x => rankInsert small x l) []

/-- What a command makes of an accumulator (R368 to R371). -/
def tileResult (c : MatCmd) (key : Dword) (c0 : BitVec 61) (rd : TileSrc) (t : Tile) : Tile :=
  let w := c.fw
  let vals := blockVals rd c
  if c.op = 4 then
    { t with rows := t.rows.zipIdx.map fun x =>
        if x.2 < fwM w then
          let best := ranked (fwClass w == 3) ((List.range (fwN w)).map fun j => (j, accElem w key c0 0 x.2 j (elemVals vals x.2 j)))
          rowOf fun l => if l < c.k then BitVec.ofNat 32 (best.getD l (0, 0)).1 else if l < 2 * c.k then (best.getD (l - c.k) (0, 0)).2 else 0
        else x.1 }
  else
    { rows := t.rows.zipIdx.map fun x =>
        if x.2 < fwM w then
          rowOf fun j => if j < fwN w then accElem w key c0 (lane x.1 j) x.2 j (elemVals vals x.2 j) else lane x.1 j
        else x.1
      rck := if c.ck then rowOf fun i => if i < fwM w then vals.foldl (fun a b => addCheck a (b.getD i [])) (lane t.rck i) else lane t.rck i else t.rck
      cck := if c.ck then rowOf fun j => if j < fwN w then vals.foldl (fun a b => addCheck a (b.map fun r => r.getD j .nan)) (lane t.cck j) else lane t.cck j
             else t.cck }

/-- The exact sum of finite words. -/
def sumWords (ws : List Word) : Frac := ws.foldl (fun s x => FracOps.add s (f32 x).frac) ⟨0, 1⟩

/-- rne of a sum of FP32 words, with the NaN and infinity rules of R369 (R377). -/
def sumCheck (ws : List Word) : Word :=
  if ws.any fun x => (f32 x).isNan then nan32
  else
    let pos := ws.any fun x => x == inf32 false
    let neg := ws.any fun x => x == inf32 true
    if pos && neg then nan32 else if pos then inf32 false else if neg then inf32 true
    else (round32 .rne (sumWords ws) false).1

/-- Column j of a tile. -/
def Tile.col (t : Tile) (j : Nat) : List Word := t.rows.map fun r => lane r j

/-- The words of a row. -/
def rowWords (r : Row) : List Word := (List.range 128).map fun i => lane r i

/-- The tile that mload leaves (R377): `kindInt` and `ck` as the word gives them, `got` the rows read. -/
def loadedTile (ck kindInt : Bool) (old : Tile) (got : List Row) : Tile :=
  let t : Tile := { rows := got.take 128, rck := old.rck, cck := old.cck }
  if ck then { t with rck := got.getD 128 0, cck := got.getD 129 0 }
  else if kindInt then t
  else { t with rck := rowOf fun i => sumCheck (rowWords (t.rows.getD i 0)), cck := rowOf fun j => sumCheck (t.col j) }

/-! ## Running a command clock by clock (R367) -/

/-- Reads of at most a 64-byte row each, under a source number. -/
def rowReads (k a n : Nat) : List (Nat × Nat × Nat) := (parts 64 a n).map fun p => (k, p.1, p.2)

/-- What a command reads at its array clock q, each as source number, address and length: the blocks' operands at a block's first clock, and one plane row
of B. -/
def readsAt (c : MatCmd) (q : Nat) : List (Nat × Nat × Nat) :=
  let w := c.fw
  let p := planeClocks w
  let u := q / p
  let b := u / 8
  let ab := aBlocks w b
  let first := u % 8 = 0 ∧ q % p = 0
  let nA := c.hdrA.npl
  let head := if first then
      rowReads 0 (c.baseA + c.hdrA.poff + 128 * ab.1 * nA) (128 * ab.2 * nA) ++
      (if isFlt (fwFA w) then (List.range ab.2).flatMap fun k => rowReads (b + 1) (c.baseA + c.hdrA.eoff + 128 * (ab.1 + k)) (fwM w) else []) ++
      (if isFlt (fwFB w) then rowReads (b + 1) (c.baseB + c.hdrB.eoff + 128 * b) (fwN w) else []) ++
      (if fwSC w % 2 = 1 then rowReads (b + 1) (c.baseA + c.hdrA.soff + 512 * (8 * ab.1 / 32)) (4 * fwM w) else []) ++
      (if fwSC w / 2 = 1 then rowReads (b + 1) (c.baseB + c.hdrB.soff + 512 * (8 * b / 32)) (4 * fwN w) else [])
    else []
  let row := if fwFB w = 0x10 then (if u % 2 = 0 then [(0, c.baseB + c.hdrB.poff + 64 * (u / 2), 64)] else [])
    else if q % 4 = 0 then [(0, c.baseB + c.hdrB.poff + 64 * (q / 4), 64)] else []
  head ++ row

/-- The ranges that a command reads (R365, R367, R382): the headers, and of each operand the plane rows, exponent bytes and scale words that its elements
need. -/
def cmdRanges (c : MatCmd) : List (Nat × Nat) :=
  let w := c.fw
  let operand := fun (base : Nat) (h : TileHdr) (code steps lanes : Nat) (scaled : Bool) =>
    [(base, 64), (base + h.poff, 16 * steps * h.npl)] ++
    (if isFlt code then (List.range (steps / 8)).map fun b => (base + h.eoff + 128 * b, lanes) else []) ++
    (if scaled then (List.range ((steps + 31) / 32)).map fun m => (base + h.soff + 512 * m, 4 * lanes) else [])
  operand c.baseA c.hdrA (fwFA w) (fwK w) (fwM w) (fwSC w % 2 == 1) ++ operand c.baseB c.hdrB (fwFB w) (fwT w) (fwN w) (fwSC w / 2 == 1)

/-- Array clocks of a command, waits not counted. -/
def clocksOf (c : MatCmd) : Nat := fwT c.fw * planeClocks c.fw

/-- The key of a handle of a cluster. -/
def handleKey (cluster h : Nat) : Nat := cluster * 64 + h

/-- The handle lets the array read up to byte `stop` of its tile (R318): WP has passed it, or the handle is aborted, or no longer bound to a copy under way. -/
def State.streams (s : State) (cluster h base stop : Nat) : Bool :=
  let x := s.handles.get (handleKey cluster h)
  match x.st with
  | .filling => decide (stop ≤ base + x.wp)
  | .parked => decide (stop ≤ base + x.wp)
  | _ => true

/-- The first command of the first batch. -/
def Thread.curCmd (th : Thread) : Option (Batch × MatCmd) :=
  match th.batches with
  | [] => none
  | b :: _ => match b.cmds with | [] => none | c :: _ => some (b, c)

/-- The array has begun a command and not finished it. -/
def Thread.arrayBusy (th : Thread) : Bool := match th.batches with | [] => false | b :: _ => b.started

/-- MAT moves rows of an mload or mstore. -/
def Thread.moveRows (th : Thread) : Nat := match th.move with | none => 0 | some m => if m.ck then 130 else 128

/-- An mload or mstore has begun and has rows to move. -/
def Thread.moveBusy (th : Thread) : Bool := match th.move with | none => false | some m => decide (m.row < th.moveRows)

/-- Replace the first batch. -/
def Thread.setBatch (th : Thread) (f : Batch → Batch) : Thread :=
  { th with batches := match th.batches with | [] => [] | b :: bs => f b :: bs }

/-- The batch goes back to not having begun its first command (R372, R373). -/
def Batch.idle (b : Batch) : Batch := { b with started := false, pos := 0, got := [], touched := false, rerun := false, again := false }

/-- A stop discards the command that has begun; of a replay that it abandons, a later start makes a new one (R373, R383). -/
def Batch.stopped (b : Batch) : Batch := { b.idle with again := b.rerun }

/-- The scoreboard slot of a batch. -/
def Thread.batchSlot (th : Thread) (bn : BitVec 32) : Option Nat :=
  (List.range 16).find? fun j => let x := th.sb.get j; x.valid && x.eng == .mat && x.obj == bn && (x.st == .pending || x.st == .parked)

/-- Give every unretired batch's entry a state: parked at a stop, pending at a restart (R373). -/
def Thread.batchEntries (th : Thread) (st : SbSt) : Thread :=
  th.batches.foldl (fun th b => match th.batchSlot b.bn with | some j => th.sbSet j st | none => th) th

/-- The seed entry that a command draws from: counted from the bottom of the stack. -/
def Thread.seedAt (th : Thread) (k : Nat) : SeedEntry := th.seeds.reverse.getD k default

/-- Advance the MAT counter of a seed entry. -/
def Thread.advanceMat (th : Thread) (k : Nat) (n : Nat) : Thread :=
  { th with seeds := (th.seeds.reverse.zipIdx.map fun e => if e.2 = k then { e.1 with mat := e.1.mat + BitVec.ofNat 61 n } else e.1).reverse }

/-- A stop finds a tile command waiting at MAT's head: it counts as unexecuted, so that its format word stands at the head of q0 again and nothing is recorded of
it (R126, R162, R364; DEDUCED, log entry 94). -/
def Thread.unbegun (th : Thread) : Thread :=
  match th.fmtHeld with
  | none => th
  | some w =>
    { th with
      fmtHeld := none, tileAt := none, commitWait := false, batch := if th.commitWait then th.batch.dropLast else th.batch
      qs := th.qs.set 0 (w :: th.qs.get 0) }

/-- A trap that the array raises (R372, R384): it waits for the thread to stop, unless one is already pending; the command is kept unstarted and
every unretired batch's entry becomes parked. -/
def State.arrayTrap (s : State) (t : Nat) (i : TrapInfo) : State :=
  s.modThr t fun th =>
    let th := ((th.setBatch Batch.idle).batchEntries .parked).unbegun
    { th with pend := match th.pend with | none => some { eng := .mat, info := i } | some p => some p }

/-- ESTAT and ADDR of a trap with RUN = 1 (R384). -/
def runTrap (code : TrapCode) (b : Batch) (c : MatCmd) (low scale : Nat) : TrapInfo :=
  { code := code, estat := BitVec.ofNat 64 (low + 512 + b.done % 64 * 1024 + b.bn.toNat * 2 ^ 32),
    addr := BitVec.ofNat 64 (c.pc.toNat + scale * 2 ^ 32) }

/-- Handles a batch named take RDR − 1; a draining one whose RDR becomes 0 is full (R317, R367). -/
def State.releaseHandles (s : State) (cluster : Nat) (hs : List Nat) : State :=
  { s with handles := hs.foldl (fun t h => t.mod (handleKey cluster h) fun x =>
      let r := x.rdr - 1
      { x with rdr := r, st := if x.st = .draining ∧ r = 0 then .full else x.st }) s.handles }

/-- A byte source over the bytes a command has read. -/
def gotByte (got : Tab (Option Byte)) : TileSrc := fun k a => (got.get (k * 2 ^ 24 + a)).getD 0

/-- A byte source over a scratchpad. -/
def State.spadByte (s : State) (cluster : Nat) : TileSrc := fun _ a => s.spad.get (spadKey cluster a)

/-- The first failing scale of a command over every block. -/
def cmdBadScale (c : MatCmd) (rd : TileSrc) : Option BadScale := (List.range (fwBlocks c.fw)).findSome? fun b => badScale rd c b

/-- What a retired command leaves in the window of its accumulator (R382). -/
def MatWin.push (w : MatWin) (c : MatCmd) (key : Dword) (c0 : BitVec 61) (touched : Bool) : MatWin :=
  { w with
    cmds := w.cmds ++ [{ cmd := c, key := key, drawAt := c0, reads := cmdRanges c }]
    bad := w.bad || touched || c.spoilt || decide (64 ≤ w.cmds.length) }

/-- A window is replayable (R382). -/
def MatWin.replayable (w : MatWin) : Bool := !w.bad

/-- Rerun a window from its start, reading the scratchpad anew (R383); none when a reread meets a further error. -/
def State.replayWindow (s : State) (t k : Nat) : Option Tile :=
  let th := s.thr t
  let w := (th.accSt.get k).win
  let rd := s.spadByte th.cluster
  let start : Option Tile :=
    if w.byLoad then
      if s.spadPoison th.cluster w.addr (if w.ck then 66560 else 65536) then none
      else some (loadedTile w.ck w.kindInt { rows := [], rck := w.rck, cck := w.cck }
        ((List.range (if w.ck then 130 else 128)).map fun i => rowOfBytes (s.spadBytes th.cluster (w.addr + 512 * i) 512)))
    else some Tile.zero
  if !w.replayable then none
  else w.cmds.foldl (fun r c =>
    match r with
    | none => none
    | some tile =>
      if (cmdBadScale c.cmd rd).isSome ∨ (c.reads.any fun r => s.spadPoison th.cluster r.1 r.2) then none
      else some (tileResult c.cmd c.key c.drawAt rd tile)) start

/-- A replay has succeeded: the thread contributes corrected, and a log record of KIND 12 is written (R383, R461, R465). -/
def State.noteReplay (s : State) (t : Nat) : State :=
  let th := s.thr t
  let s := s.contribute t 1 0 (th.pc .mat)
  s.log th.die { kind := 12, code := 0, unit := th.core, cid := some th.cid, addr := (th.pc .mat).toNat, node := (s.nodes.get th.node).nid.toNat }

/-- A successful replay: aK is rebuilt. -/
def State.replayed (s : State) (t k : Nat) (tile : Tile) : State := (s.modThr t fun th => th.setTile k tile).noteReplay t

/-- A command under way consumes an uncorrectable error (R383, R458): its accumulator is rebuilt from its window and it runs again from its first clock, drawing
from the same counter; where the window is not replayable, or its rerun has met a further error, it fails. -/
def State.consumeError (s : State) (t : Nat) (b : Batch) (c : MatCmd) (fail : State → State) : State :=
  match (if b.rerun then none else s.replayWindow t c.acc) with
  | some tile => s.modThr t fun th => (th.setTile c.acc tile).setBatch fun b => { b.idle with started := true, drawAt := b.drawAt, rerun := true }
  | none => fail s

/-- UNCORRECTABLE of a command under way (R372, R383): the thread contributes tainted, and a log record is written. -/
def State.failError (s : State) (t : Nat) (b : Batch) (c : MatCmd) : State :=
  let th := s.thr t
  let s := s.contribute t 2 0x51 c.pc
  let s := s.log th.die { kind := 1, code := 0x51, unit := th.core, cid := some th.cid, addr := c.pc.toNat, node := (s.nodes.get th.node).nid.toNat }
  s.arrayTrap t (runTrap .uncorrectable b c 0 0)

/-- A command's results take effect (R367, R368, R371). -/
def State.retireCmd (s : State) (t : Nat) (b : Batch) (c : MatCmd) (rd : TileSrc) : State :=
  let th := s.thr t
  let k := c.acc
  let key := (th.seedAt c.seed).key
  let tile := tileResult c key b.drawAt rd (th.tile k)
  let last := b.cmds.length ≤ 1
  let s := if b.rerun then s.noteReplay t else s
  let s := s.modThr t fun th =>
    let th := th.setTile k tile
    let th := { th with accSt := th.accSt.mod k fun x =>
      { kindInt := c.op = 4 || fwFC c.fw != 0, ckvOff := x.ckvOff || !c.ck || c.op = 4, loc := .none, win := x.win.push c key b.drawAt b.touched } }
    let th := if drawsOf c.fw = 0 then th else th.advanceMat c.seed (drawsOf c.fw)
    if last then
      let th := match th.batchSlot b.bn with | some j => th.sbSet j .done | none => th
      { th with batches := th.batches.tail }
    else th.setBatch fun x => { x.idle with cmds := x.cmds.tail, done := x.done + 1 }
  if last then s.releaseHandles th.cluster b.handles else s

/-- A scale of a block fails its check (R34, R368, R372, R458): an odd one is an uncorrectable error. -/
def State.scaleFails (s : State) (t : Nat) (b : Batch) (c : MatCmd) (x : BadScale) : State :=
  let th := s.thr t
  let fail := fun (s : State) =>
    let low := (if x.parity then 0 else 7) + (if x.isB && x.parity then 256 else 0) + (if x.parity then x.blk * 2 ^ 16 else 0)
    let s := if x.parity then s.contribute t 2 0x24 c.pc else s
    let s := if x.parity then
        s.log th.die { kind := 6, code := 0x24, unit := th.core, cid := some th.cid, addr := c.pc.toNat, node := (s.nodes.get th.node).nid.toNat } else s
    s.arrayTrap t (runTrap (if x.parity then .scaleParity else .shape) b c low x.word.toNat)
  if x.parity then s.consumeError t b c fail else fail s

/-- Why a read of the array fails: PENDING_READ, or an uncorrectable error in the operand (R383; DEDUCED, log entry 95). -/
inductive ReadFail where
  | pending (i : TrapInfo)
  | poisoned
deriving DecidableEq, Repr, Inhabited

/-- Make one read of the array, its bytes kept (R288, R291, R383). -/
def State.arrayRead (s : State) (t : Nat) (r : Nat × Nat × Nat) : Except ReadFail State :=
  let th := s.thr t
  match s.pendingRead th.cluster (th.core % 4) .mat r.2.1 r.2.2 with
  | some i => .error (.pending i)
  | none =>
    if s.spadPoison th.cluster r.2.1 r.2.2 then .error .poisoned
    else
      let bs := s.spadBytes th.cluster r.2.1 r.2.2
      .ok (s.modThr t fun th => th.setBatch fun b => { b with got := b.got.setRange (r.1 * 2 ^ 24 + r.2.1) (bs.map some) })

/-- Make the reads of a list in order. -/
def State.arrayReads (s : State) (t : Nat) : List (Nat × Nat × Nat) → Except ReadFail State
  | [] => .ok s
  | r :: rs => match s.arrayRead t r with | .error i => .error i | .ok s => s.arrayReads t rs

/-- The reads of its present clock that a command has not made yet: a row is read once (R367). -/
def readsDue (b : Batch) (c : MatCmd) : List (Nat × Nat × Nat) := (readsAt c b.pos).filter fun r => (b.got.get (r.1 * 2 ^ 24 + r.2.1)).isNone

/-- A read must wait: its handle's WP has not passed it, or it meets a write of MAT's own that is not performed. -/
def State.readHeld (s : State) (t : Nat) (c : MatCmd) (r : Nat × Nat × Nat) : Bool :=
  let th := s.thr t
  (decide (c.baseA ≤ r.2.1) && decide (r.2.1 < c.baseA + c.hdrA.tsz) && !s.streams th.cluster c.ha c.baseA (r.2.1 + r.2.2)) ||
  (decide (c.baseB ≤ r.2.1) && decide (r.2.1 < c.baseB + c.hdrB.tsz) && !s.streams th.cluster c.hb c.baseB (r.2.1 + r.2.2)) ||
  s.ownUnperformed t .mat r.2.1 r.2.2

/-- The array waits at the present clock of a command. -/
def State.arrayWaits (s : State) (t : Nat) (b : Batch) (c : MatCmd) : Bool := (readsDue b c).any (s.readHeld t c)

/-- The thread is stopping or stopped, so that a command which waits is discarded (R373). -/
def Thread.stopping (th : Thread) : Bool := th.pend.isSome || !(th.st == .running || th.st == .handler)

/-- The failing scale of the alignment block whose reads have just been made, at the block's first clock. -/
def scaleAtClock (b : Batch) (c : MatCmd) : Option BadScale :=
  if b.pos % (8 * planeClocks c.fw) = 0 then badScale (gotByte b.got) c (b.pos / (8 * planeClocks c.fw)) else none

/-- The reads of a command's clock have been made: its block's scales are checked, and it goes on to its next clock or retires (R367, R368). -/
def State.nextClock (s : State) (t : Nat) (b : Batch) (c : MatCmd) : State :=
  match scaleAtClock b c with
  | some x => s.scaleFails t b c x
  | none =>
    if clocksOf c ≤ b.pos + 1 then s.retireCmd t b c (gotByte b.got)
    else s.modThr t fun th => th.setBatch fun b => { b with pos := b.pos + 1 }

/-- One clock of the array on a thread whose command has begun: each read that no wait holds is made in its own clock (R367). -/
def State.arrayClock (s : State) (t : Nat) : State :=
  match (s.thr t).curCmd with
  | none => s
  | some (b, c) =>
    if !b.started then s
    else
      match s.arrayReads t ((readsDue b c).filter fun r => !s.readHeld t c r) with
      | .error (.pending i) => s.arrayTrap t i
      | .error .poisoned => s.consumeError t b c fun s => s.failError t b c
      | .ok s1 =>
        if s.arrayWaits t b c then (if (s1.thr t).stopping then s1.modThr t fun th => th.setBatch Batch.stopped else s1)
        else match (s1.thr t).curCmd with
          | some (b, c) => s1.nextClock t b c
          | none => s1

/-- The array may begin the next command of a thread at a clock: the thread executes, and the batch was committed in an earlier clock and is not parked (R367, R373). -/
def Thread.mayStart (th : Thread) (clk : Nat) : Bool :=
  !th.stopping && !th.arrayBusy &&
  (match th.curCmd with
    | some (b, _) => decide (b.since < clk) && (match th.batchSlot b.bn with | some j => (th.sb.get j).st == .pending | none => false)
    | none => false)

/-- The array begins the next command (R367); where a stop has abandoned its replay, the window is replayed anew, or the command fails (R383). -/
def State.arrayStart (s : State) (t : Nat) : State :=
  match (s.thr t).curCmd with
  | none => s
  | some (b, c) =>
    let begin_ := fun (rerun : Bool) (th : Thread) => th.setBatch fun b => { b.idle with started := true, drawAt := (th.seedAt c.seed).mat, rerun := rerun }
    if !b.again then s.modThr t (begin_ false)
    else match s.replayWindow t c.acc with
      | some tile => s.modThr t fun th => begin_ true (th.setTile c.acc tile)
      | none => s.failError t b c

/-- A stop under R126: a command that waits at this clock, or that a replay runs again, is discarded and counts as not started; one that is under way finishes
(R373, R383). -/
def State.arrayHalt (s : State) (t : Nat) : State :=
  match (s.thr t).curCmd with
  | none => s.modThr t Thread.unbegun
  | some (b, c) =>
    let s := if b.started && (b.rerun || s.arrayWaits t b c) then s.modThr t fun th => th.setBatch Batch.stopped else s
    s.modThr t fun th => (th.batchEntries .parked).unbegun

/-! ## mload and mstore, one row a clock (R377, R378) -/

/-- The width in bytes of an element that mstore writes. -/
def storeBytes (fl : Nat) : Nat := if fl = 0 then 4 else if fl ≤ 2 then 2 else 1

/-- An element as mstore writes it (R378, R42). -/
def narrowElem (fl : Nat) (x : Word) : Nat :=
  let f := if fl = 1 then bf16 else if fl = 2 then fp16 else if fl = 3 then e4m3 else e5m2
  if fl = 0 then x.toNat else (toFloatFmt f .rne (f32 x)).1

/-- The bytes of row i of what mstore writes. -/
def storedRow (t : Tile) (fl i : Nat) : List Byte :=
  if i < 128 then (rowWords (t.rows.getD i 0)).flatMap fun x => leBytes (storeBytes fl) (narrowElem fl x)
  else if i = 128 then rowBytes t.rck else rowBytes t.cck

/-- Where row i of what mstore writes lies, from its base. -/
def rowOffset (fl i : Nat) : Nat := if i < 128 then 128 * storeBytes fl * i else 65536 + 512 * (i - 128)

/-- One clock of an mload or mstore under way. -/
def State.moveClock (s : State) (t : Nat) : State :=
  let th := s.thr t
  match th.move with
  | none => s
  | some m =>
    if th.moveRows ≤ m.row then s
    else if m.load then
      let a := m.base + 512 * m.row
      if s.ownUnperformed t .mat a 512 then s
      else match s.pendingRead th.cluster (th.core % 4) .mat a 512 with
        | some i => State.arrayHalt (s.modThr t fun th =>
            { th with move := none, pend := match th.pend with | none => some { eng := .mat, info := i } | some p => some p }) t
        | none =>
          let row := rowOfBytes (s.spadBytes th.cluster a 512)
          let s := if s.spadPoison th.cluster a 512 then s.taint t .mat 0x51 else s
          s.modThr t fun th => { th with move := some { m with row := m.row + 1, got := m.got ++ [row] } }
    else
      let s := s.spadIssue t .mat (m.base + rowOffset m.fl m.row) (storedRow (th.tile m.acc) m.fl m.row) 12
      s.modThr t fun th => { th with move := some { m with row := m.row + 1 } }

/-- An mload or mstore has moved its last row. -/
def Thread.moveDone (th : Thread) : Bool := th.move.isSome && !th.moveBusy

/-- An mload has read its rows and finds that its form needs KIND 0 (R377). -/
def Thread.moveBad (th : Thread) : Bool := th.moveDone && (match th.move with | some m => m.load && m.ck && m.fl == 1 | none => false)

/-- What a finished mload or mstore leaves (R377, R378); the word itself is removed by its meaning. -/
def Thread.endMove (th : Thread) : Thread :=
  match th.move with
  | none => th
  | some m =>
    let th := { th with move := none }
    if !m.load then th
    else
      let kindInt := m.fl == 1
      let x : AccSt :=
        { kindInt := kindInt, ckvOff := kindInt, loc := .none,
          win := { byLoad := true, addr := m.base, kindInt := kindInt, ck := m.ck, rck := th.rck.get m.acc, cck := th.cck.get m.acc,
                   cmds := [], bad := m.touched } }
      { th.setTile m.acc (loadedTile m.ck kindInt (th.tile m.acc) m.got) with accSt := th.accSt.set m.acc x }

/-- What the matrix engine of every thread whose die is not frozen does in the clock that ends (R367, R377, R467): the array begins what it may, and moves on. -/
def State.matClock (s : State) : State :=
  s.threads.foldl (fun s e =>
    if (s.die e.2.die).frozen then s
    else
      let s := if (s.thr e.1).mayStart s.clk then s.arrayStart e.1 else s
      (s.arrayClock e.1).moveClock e.1) s

end Sys2Proof.Machine
end

