-- ==== Sys2Proof/Machine/Tokens.lean ====
section
/-! DEFINITION. Owner tokens: what the device does to the pieces of a region and to the remote-data caches when a piece changes hands, when a thread ends,
and when a party or a home is lost (R259, R265, R273 to R275). The token words themselves are in the SYN files. -/

namespace Sys2Proof.Machine

/-- The dies that are present, in increasing package and number. -/
def State.presentDies (s : State) : List Nat := (s.dies.filter fun e => e.2.present).map fun e => e.1

/-- The key of the live thread with a node index, if it has been dispatched. -/
def State.threadOf (s : State) (node x : Nat) : Option Nat :=
  (s.threads.find? fun e => e.2.node == node && e.2.st != .absent && s.nodeIndex e.2 == x).map fun e => e.1

/-- The dies that contain a member of a party (R259); a thread not yet dispatched counts none. -/
def State.partyDies (s : State) : Party → List Nat
  | .domain => s.presentDies
  | .thread n x => match s.threadOf n x with | some t => [(s.thr t).die] | none => []
  | .engine n x _ => match s.threadOf n x with | some t => [(s.thr t).die] | none => []
  | .die d => [d]
  | .package p => s.presentDies.filter fun d => d / 8 = p

/-- The pages and tiles of the context of a region. -/
def State.extentsOf (s : State) (key : Nat) : List Extent := s.extents (key / 4096)

/-- Write back the dirty bytes of [base, top) of a region in a die's remote-data cache. -/
def State.cacheBack (s : State) (xs : List Extent) (key base top d : Nat) : State :=
  (s.rdcLines d).foldl (fun s line => s.writeBack d line (lineMask xs key base top line)) s

/-- Invalidate every line of a die's remote-data cache that holds bytes of [base, top) of a region, dirty bytes outside first written back (R259). -/
def State.cacheDrop (s : State) (xs : List Extent) (key base top d : Nat) : State :=
  (s.rdcLines d).foldl (fun s line =>
    let m := lineMask xs key base top line
    if m = 0 then s
    else
      let s := s.writeBack d line (~~~m)
      { s with rdc := s.rdc.set (rdcKey d line) default }) s

/-- Stores checked under the old state are performed (R257), then steps 1 and 2 of R259, for a piece that leaves `old` for `new`, in a hardware-managed region. -/
def State.moveCaches (s : State) (key : Nat) (p : Piece) (old new : Party) : State :=
  let s := s.drainPosted fun p => p.rkey == key + 1
  if (s.regions.get key).swManaged then s
  else
    let xs := s.extentsOf key
    let ds := s.partyDies old
    let s := ds.foldl (fun s d => s.cacheBack xs key p.base p.top d) s
    (ds ++ s.partyDies new).foldl (fun s d => s.cacheDrop xs key p.base p.top d) s

/-- Replace the piece of a region that starts at a base. -/
def State.setPiece (s : State) (key base : Nat) (f : Piece → Piece) : State :=
  { s with regions := s.regions.mod key fun r => { r with pieces := r.pieces.map fun p => if p.base = base then f p else p } }

/-- The state of a piece that has just lost a chain entry (R265). -/
def Piece.settled (p : Piece) : Piece :=
  { p with st := if p.chain = [] then (if p.taint then .reclaimed else .heldWrite) else .lent }

/-- A piece that no party holds (R253), lost with a party. -/
def Piece.gone (p : Piece) (q : Party) : Piece := { p with holder := .domain, chain := [], shares := [], st := .lost, lostBy := some q }

/-- Return a piece to its most recent lender; a lost lender makes it lost (R265). -/
def Piece.returned (p : Piece) : Piece :=
  match p.chain.getLast? with
  | none => p
  | some l => if l.lost then p.gone l.party else { p with holder := l.party, chain := p.chain.dropLast }.settled

/-- The lender a piece returns to. -/
def Piece.lender (p : Piece) : Party := match p.chain.getLast? with | some l => l.party | none => p.holder

/-- tkret of a piece: caches first, then the fields (R259, R265). -/
def State.giveBack (s : State) (key : Nat) (p : Piece) : State :=
  (s.moveCaches key p p.holder p.lender).setPiece key p.base Piece.returned

/-- Remove the earliest share that satisfies a test. -/
def dropShare (f : Party → Bool) : List Party → List Party
  | [] => []
  | p :: ps => if f p then ps else p :: dropShare f ps

/-- The invalidation and removal of one share of a piece (R267). -/
def State.unshare (s : State) (key : Nat) (p : Piece) (f : Party → Bool) : State :=
  match p.shares.find? f with
  | none => s
  | some q =>
    let s := s.drainPosted fun p => p.rkey == key + 1
    let s := if (s.regions.get key).swManaged then s else let xs := s.extentsOf key; (s.partyDies q).foldl (fun s d => s.cacheDrop xs key p.base p.top d) s
    s.setPiece key p.base fun p => { p with shares := dropShare f p.shares }

/-- A party that lies within a thread of a node. -/
def Party.ofThread (n x : Nat) : Party → Bool
  | .thread m y => m == n && y == x
  | .engine m y _ => m == n && y == x
  | _ => false

/-- The region keys of the machine that hold a live record. -/
def State.regionKeys (s : State) : List Nat := (s.regions.filter fun e => e.2.live).map fun e => e.1

/-- Every piece of every live region, with its region's key. -/
def State.allPieces (s : State) : List (Nat × Piece) :=
  s.regions.flatMap fun e => if e.2.live then e.2.pieces.map fun p => (e.1, p) else []

/-- An ordered atomic of a piece, checked under its present state, is not yet performed (R257, R312). -/
def State.atomoOn (s : State) (key : Nat) (p : Piece) : Bool :=
  (s.atomo ++ s.refused ++ s.atomLines.flatMap fun e => e.2.held).any fun a => a.rkey == key + 1 && decide (p.base ≤ a.va) && decide (a.va < p.top)

/-- Return a piece while its holder lies within a thread; CHAIN has at most four entries (R273). A piece with an ordered atomic accepted and not yet performed stays
until it is (R257, R312). -/
def State.giveBackAll (s : State) (n x key base : Nat) : Nat → State
  | 0 => s
  | fuel + 1 =>
    match (s.regions.get key).pieces.find? fun p => p.base = base with
    | none => s
    | some p =>
      if p.st ≠ .lost ∧ p.holder.ofThread n x ∧ p.chain ≠ [] ∧ !s.atomoOn key p then (s.giveBack key p).giveBackAll n x key base fuel else s

/-- Remove every share of a piece whose party lies within a thread; a piece holds at most 15 shares. -/
def State.unshareAll (s : State) (n x key base : Nat) : Nat → State
  | 0 => s
  | fuel + 1 =>
    match (s.regions.get key).pieces.find? fun p => p.base = base with
    | none => s
    | some p => if p.shares.any (Party.ofThread n x) then (s.unshare key p (Party.ofThread n x)).unshareAll n x key base fuel else s

/-- A piece of an ended thread has still to go back. -/
def State.owes (s : State) (n x : Nat) : Bool := s.allPieces.any fun e => e.2.st != .lost && e.2.holder.ofThread n x && !e.2.chain.isEmpty

/-- What the end of a thread does to tokens (R273). -/
def State.tokensOfEnd (s : State) (n x : Nat) : State :=
  let s := s.allPieces.foldl (fun s e => s.unshareAll n x e.1 e.2.base 16) s
  let s := s.allPieces.foldl (fun s e => s.giveBackAll n x e.1 e.2.base 5) s
  if s.owes n x then { s with owed := s.owed ++ [(n, x)] } else s

/-- The returns that ordered atomics have held up go on (R257, R312). -/
def State.settleOwed (s : State) : State := s.owed.foldl (fun s e => s.tokensOfEnd e.1 e.2) { s with owed := [] }

/-- A piece after some parties are lost (R272, R274). -/
def Piece.afterLoss (gone : Party → Bool) (p : Piece) : Piece :=
  if p.st = .lost then p
  else if gone p.holder then p.gone p.holder
  else { p with
    chain := p.chain.map fun l => if gone l.party then { l with lost := true } else l
    shares := p.shares.filter fun q => !gone q }

/-- Parties are lost (R274). -/
def State.loseParties (s : State) (gone : Party → Bool) : State :=
  { s with regions := s.regions.foldl (fun t e =>
      if e.2.live then t.set e.1 { e.2 with pieces := e.2.pieces.map (Piece.afterLoss gone) } else t) s.regions }

/-- The parties that go with a gang's thread. -/
def State.loseThread (s : State) (n x : Nat) : State := s.loseParties (Party.ofThread n x)

/-- The address where a die's token unit keeps the copies of region attributes is the device's own: the copies stand in `copies` (R275). -/
def State.keepCopy (s : State) (key : Nat) : State :=
  { s with copies := s.copies.set key { live := true, bad := false, serial := (s.ctxs.get (key / 4096)).serial, region := s.regions.get key } }

/-- Remove a record and its copy. -/
def State.removeRegion (s : State) (key : Nat) : State :=
  { s with regions := s.regions.set key default, copies := s.copies.set key default }

/-- The records of every region homed on a lost die go; the regions are remembered as lost (R275). -/
def State.loseHome (s : State) (d : Nat) : State :=
  { s with regions := s.regions.foldl (fun t e => if e.2.live && e.2.home == d then t.set e.1 { e.2 with live := false, pieces := [] } else t) s.regions }

/-- The records that a die's token unit rebuilds when it completes bring-up; a copy found uncorrectable is discarded and logged (R275). -/
def State.rebuildRegions (s : State) (d : Nat) : State :=
  s.copies.foldl (fun s e =>
    if e.2.live ∧ e.2.region.home = d ∧ e.2.bad then
      (s.removeRegion e.1).log d { kind := 1, code := 0, unit := 0, cid := none, addr := 0, node := 0 }
    else if e.2.live ∧ e.2.region.home = d then
      let c := s.ctxs.get (e.1 / 4096)
      let r := e.2.region
      if (c.st = .active ∨ c.st = .stopping ∨ c.st = .stopped) ∧ c.serial = e.2.serial then
        let p : Piece := { base := r.base, top := r.base + r.len, holder := .domain, chain := [], shares := [], taint := false, st := .lost,
                           lostBy := none }
        { s with regions := s.regions.set e.1 { r with live := true, pieces := [p] } }
      else s.removeRegion e.1
    else s) s

end Sys2Proof.Machine
end

