-- ==== Sys2Proof/Machine/Tasks.lean ====
section
/-! DEFINITION. Asynchronous work as a whole: handles (R316, R317), settling, parking with its record (R243, R248), failing and aborting (R334, R403, R406, R452). -/

namespace Sys2Proof.Machine

/-- A handle of a cluster. -/
def State.handle (s : State) (cluster h : Nat) : Handle := s.handles.get (handleKey cluster h)

/-- Replace a handle; work whose gang has retired names none (R322). -/
def State.setHandle (s : State) (cluster h : Nat) (f : Handle → Handle) : State :=
  { s with handles := if h < 64 then s.handles.mod (handleKey cluster h) f else s.handles }

/-- Replace a task. -/
def State.setTask (s : State) (k : Nat) (f : Task → Task) : State := { s with tasks := s.tasks.mod k f }

/-- A task is over. -/
def State.dropTask (s : State) (k : Nat) : State :=
  { s with tasks := s.tasks.set k default, parkWaits := s.parkWaits.filter fun w => w.task ≠ some k }

/-- Give the scoreboard entry of a thread a state. -/
def State.settle (s : State) (t j : Nat) (st : SbSt) : State := s.modThr t fun th => th.sbSet j st

/-- A command names a handle. -/
def MatCmd.names (c : MatCmd) (h : Nat) : Bool := c.ha == h || c.hb == h

/-- A handle of the cluster is rebound: windows of its threads that name it are no longer replayable, and recorded commands that name it will not leave
theirs replayable (R382). -/
def State.rebound (s : State) (cluster h : Nat) : State :=
  { s with threads := s.threads.foldl (fun t e =>
      if e.2.cluster = cluster then t.mod e.1 fun th => { (th.spoil fun c => c.names h) with accSt := (List.range 4).foldl (fun a k => a.mod k fun x =>
        if x.win.cmds.any fun c => c.cmd.names h then { x with win := { x.win with bad := true } } else x) th.accSt }
      else t) s.threads }

/-- Bind a handle to accepted work (R316, R317). -/
def State.bindHandle (s : State) (cluster h gang base len : Nat) : State :=
  (s.rebound cluster h).setHandle cluster h fun x =>
    { owner := gang + 1, st := .filling, base := base, len := len, wp := 0, rdr := x.rdr }

/-- A copy word may take the handle now (R317). -/
def Handle.ready (x : Handle) : Bool :=
  match x.st with
  | .free => true
  | .full => x.rdr == 0
  | .aborted => x.rdr == 0
  | _ => false

/-- The handle belongs to another gang (R316). -/
def Handle.foreign (x : Handle) (gang : Nat) : Bool := x.owner != 0 && x.owner != gang + 1

/-- Bytes up to `wp` have landed; at LEN the handle is full, or draining while batches name it (R317). -/
def Handle.land (x : Handle) (wp : Nat) : Handle :=
  { x with wp := wp, st := if x.len ≤ wp then (if x.rdr = 0 then .full else .draining) else x.st }

/-- Work ends: its handle, if it has one, takes a state, its entry another. -/
def State.endHandle (s : State) (cluster h : Nat) (st : HandleSt) : State := s.setHandle cluster h fun x => { x with st := st }

/-! ## Park records (R248) -/

/-- Write a park record of a die; none when the ring is full or its slot cannot be written. -/
def State.writePark (s : State) (d : Nat) (d0 d1 d2 : Dword) : Option State :=
  let die := s.die d
  let n := field die.plbase 0 4 + 4
  let prod := bits die.plpos 0 32
  let cons := bits die.plpos 32 32
  let at_ := field die.plbase 12 38 * 4096 + 32 * (prod.toNat % 2 ^ n)
  if (prod - cons).toNat = 2 ^ n ∨ s.paHole at_ ∨ s.paLost at_ then none
  else
    let s := s.homeWrite 0 at_ (leBytes 8 d0.toNat ++ leBytes 8 d1.toNat ++ leBytes 8 d2.toNat ++ leBytes 8 0)
    some (s.setDie d fun x => { x with plpos := cat 64 cons (prod + 1) })

/-- The slot of a die's next park record lies at a hole or on a die that has left the domain. -/
def State.parkUnplaced (s : State) (d : Nat) : Bool :=
  let die := s.die d
  let n := field die.plbase 0 4 + 4
  let at_ := field die.plbase 12 38 * 4096 + 32 * (field die.plpos 0 32 % 2 ^ n)
  s.paHole at_ || s.paLost at_

/-- Dword 0 of a park record; cause and write stand in ESTAT (R238, R256). -/
def parkHead (i : TrapInfo) (e : Engine) (die core cid : Nat) : Dword :=
  BitVec.ofNat 64 (i.code.num.toNat + i.estat.toNat % 256 * 2 ^ 8 + i.estat.toNat / 256 % 2 * 2 ^ 16 + engCode e * 2 ^ 17 + die % 8 * 2 ^ 20 +
    core * 2 ^ 23 + cid * 2 ^ 31 + die / 8 * 2 ^ 41)

/-- The event that follows a park record. -/
def parkEvent (d0 : Dword) : EvRec :=
  evRecord 1 (bits d0 0 8) (field d0 31 10) 0 0 0 (BitVec.ofNat 64 (field d0 20 3 + field d0 23 8 * 8 + field d0 41 5 * 2 ^ 11))

/-- Write a park record and its event, or leave the source waiting (R248). The answer says whether it was written. -/
def State.parkRecord (s : State) (d : Nat) (w : ParkWait) : Bool × State :=
  match s.writePark d w.d0 w.d1 w.d2 with
  | some s => (true, s.event w.cid (parkEvent w.d0))
  | none =>
    let s := { s with parkWaits := s.parkWaits ++ [w] }
    (false, if s.parkUnplaced d then
        s.log d { kind := 14, code := field w.d0 0 8, unit := field w.d0 23 8, cid := some w.cid, addr := w.d1.toNat, node := 0 } else s)

/-- Work that a word issued; work for the host has no scoreboard entry (R395). -/
def Task.issued (x : Task) : Bool := match x.work with | .reshard r => r.issued | _ => true

/-- Give the scoreboard entry of a task's word a state; work for the host has none (R395). -/
def State.settleTask (s : State) (x : Task) (st : SbSt) : State := if x.issued then s.settle x.thread x.sb st else s

/-- The handle that a task binds: cluster and number. -/
def Task.handle (k : Task) : Option (Nat × Nat) :=
  match k.work with
  | .copy c => some (c.cluster, c.handle)
  | .patt p => some (p.dst / 2 ^ 23, p.handle)
  | _ => none

/-- Mark a task's part of thread `t` parked: entry and handle (R317, R404). -/
def State.markParked (s : State) (k t : Nat) : State :=
  let x := s.tasks.get k
  match x.work with
  | .coll c =>
    let s := s.setTask k fun x =>
      { x with work := .coll { c with members := c.members.map fun m => if m.thread = t then { m with parked := true } else m } }
    c.members.foldl (fun s m =>
      if m.thread = t then (s.settle t m.sb .parked).endHandle (s.thr t).cluster m.handle .parked else s) s
  | _ =>
    let s := (s.setTask k fun x => { x with parked := true }).settleTask x .parked
    match x.handle with
    | some (c, h) => s.endHandle c h .parked
    | none => s

/-- Where a park record finds OBJ, PC and core of a task's part of thread `t`: in its scoreboard entry; work done for the host names the slot (R248, R395). -/
def State.parkPlace (s : State) (k t : Nat) : BitVec 32 × TextAddr × Nat × Nat :=
  let x := s.tasks.get k
  let th := s.thr t
  let from_ := fun (j : Nat) => ((th.sb.get j).obj, (th.sb.get j).pc, th.core, th.die)
  match x.work with
  | .coll c => match c.members.find? fun m => m.thread == t with | some m => from_ m.sb | none => (0, 0, 0, x.die)
  | .reshard r => if r.issued then from_ x.sb else (BitVec.ofNat 32 r.slot, 0, 0, x.die)
  | _ => from_ x.sb

/-- Park a task's part of thread `t` on a fault (R243, R248, R404): `e` is its engine, `home` the home of the page or tile it met (R247). -/
def State.parkTask (s : State) (k t : Nat) (e : Engine) (i : TrapInfo) (home : Option Nat) : State :=
  let s := s.setTask k fun x => { x with homes := home.toList ++ x.homes, again := none }
  let x := s.tasks.get k
  let (obj, pc, core, die) := s.parkPlace k t
  let w : ParkWait :=
    { die := die, d0 := parkHead i e die core x.cid, d1 := i.addr, d2 := BitVec.ofNat 64 (obj.toNat + pc.toNat * 2 ^ 32), task := some k,
      cid := x.cid, thread := t, again := false }
  match s.parkRecord die w with
  | (true, s) => s.markParked k t
  | (false, s) => s

/-- A task waits unparked for its park record (R248). -/
def State.parkBlocked (s : State) (k : Nat) : Bool := s.parkWaits.any fun w => w.task == some k

/-- The core clock of a die that a piece of work runs on stands still (R467): a copy's, a sieve's, that in whose scratchpad a patt lands its result, the
issuer's of a cent, or that of a member of a collective. -/
def State.workFrozen (s : State) (x : Task) : Bool :=
  match x.work with
  | .copy _ => (s.die x.die).frozen
  | .sieve _ => (s.die x.die).frozen
  | .cent _ => (s.die x.die).frozen
  | .patt p => p.blocks.isEmpty && (s.die x.die).frozen
  | .coll c => c.members.any fun m => (s.die m.die).frozen
  | _ => false

/-- A task goes no further now: it waits for its park record, or its die is frozen. -/
def State.workHeld (s : State) (k : Nat) : Bool := s.parkBlocked k || s.workFrozen (s.tasks.get k)

/-- A die tries its held park records again, in order, until one cannot be written (R248). -/
def State.retryParks (s : State) (d : Nat) : State :=
  s.parkWaits.foldl (fun s w =>
    if w.die ≠ d then s
    else match s.writePark d w.d0 w.d1 w.d2 with
      | none => s
      | some s =>
        let s := { s with parkWaits := s.parkWaits.filter fun v => v ≠ w }
        let s := s.event w.cid (parkEvent w.d0)
        match w.task with | some k => s.markParked k w.thread | none => s) s

/-! ## Ends of work -/

/-- Work is done: entry done, task gone. -/
def State.doneTask (s : State) (k : Nat) : State :=
  let x := s.tasks.get k
  (s.settleTask x .done).dropTask k

/-- Work stops short: handle aborted, entry failed or aborted, task gone (R317). -/
def State.stopTask (s : State) (k : Nat) (st : SbSt) : State :=
  let x := s.tasks.get k
  let s := match x.handle with | some (c, h) => s.endHandle c h .aborted | none => s
  (s.settleTask x st).dropTask k

/-- Work fails and its thread contributes tainted (R457). -/
def State.failTaint (s : State) (k : Nat) (e : Engine) (reason : BitVec 8) : State := (s.stopTask k .failed).taint (s.tasks.get k).thread e reason

/-! ## Layout slots and collectives -/

/-- The key of a layout slot on a die. -/
def slotKey (die cid slot : Nat) : Nat := (die * 1024 + cid) * 256 + slot

/-- Change a slot on every present die. -/
def State.everySlot (s : State) (cid slot : Nat) (f : LSlot → LSlot) : State :=
  { s with slots := s.presentDies.foldl (fun t d => t.mod (slotKey d cid slot) f) s.slots }

/-- The cluster of a thread's key. -/
def State.clusterOf (s : State) (t : Nat) : Nat := (s.thr t).cluster

/-- A member of an aborted collective: its handle is aborted, its entry failed, or aborted for the thread that asked, and it contributes tainted (R403). -/
def State.memberAbort (s : State) (m : CollMember) (reason : BitVec 8) (asker : Option Nat) : State :=
  let s := s.endHandle (s.clusterOf m.thread) m.handle .aborted
  let s := s.settle m.thread m.sb (if asker = some m.thread then .aborted else .failed)
  s.taint m.thread .fab reason

/-- Abort a collective on every member (R403); `asker` is the thread that used fabort or resume.abort. Members that have not issued yet fail when they do. -/
def State.collAbort (s : State) (k : Nat) (reason : BitVec 8) (asker : Option Nat) : State :=
  let x := s.tasks.get k
  match x.work with
  | .coll c =>
    if c.dead.isSome then s
    else
      let left := (s.slots.get (slotKey x.die c.cid c.slot)).dies.length - c.members.length
      let s := (c.members.foldl (fun s m => s.memberAbort m reason asker) s).dropTask k
      if left = 0 then s
      else s.setTask k fun _ => { x with work := .coll { c with members := [], dead := some reason, left := left }, parked := false, page := none, homes := [] }
  | _ => s

/-- The issuer of an operation made for the host (R395). -/
def Issuer.behalf (die cid : Nat) : Issuer :=
  { die := die, cid := cid, node := 0, x := 0, eng := none, exempt := false, thread := none, lone := true, unit := 0 }

/-- Write the status of a reshard-on-behalf as a release at domain scope, or log that it was not written (R395); none while the access waits for a migrating
page or for a path (R241, R418). -/
def State.writeStatus (s : State) (die cid slot at_ : Nat) (v : Nat) : Option State :=
  if at_ = 0 then some s
  else
    match s.accessLin (Issuer.behalf die cid) at_ 8 true 0 with
    | .ok (as, s) =>
      let s := s.storeAccs (Issuer.behalf die cid) as (leBytes 8 v)
      some (s.domainRelease die cid)
    | .error (.migrating _) => none
    | .error (.fault _ _) => some (s.log die { kind := 10, code := 0, unit := 0, cid := some cid, addr := at_, node := slot })

/-- The done event of work that asked for one (R154). -/
def State.noteDone (s : State) (cid : Nat) (note : Option EvRec) : State := match note with | some r => s.event cid r | none => s

/-- A re-shard made for the host ends: its status is written and its done event signalled, now or once the status can be written (R395). -/
def State.endBehalf (s : State) (die : Nat) (r : Reshard) (v : Nat) : State :=
  match s.writeStatus die r.cid r.slot r.status v with
  | some s => s.noteDone r.cid r.note
  | none =>
    let y : Signal :=
      { store := true, qid := 0, cid := r.cid, addr := r.status, value := BitVec.ofNat 64 v, nodes := [], irq := false, ptag := 0, ordinal := 0
        behalf := some { slot := r.slot, die := die, note := r.note } }
    { s with signals := s.signals ++ [y] }

/-- Abort a re-shard: the slot becomes aborted on every die (R391, R403). -/
def State.reshardAbort (s : State) (k : Nat) (reason : BitVec 8) (asker : Option Nat) : State :=
  let x := s.tasks.get k
  match x.work with
  | .reshard r =>
    let s := s.everySlot r.cid r.slot fun l => { l with st := .aborted }
    let s := if r.issued then
        (s.settle x.thread x.sb (if asker = some x.thread then .aborted else .failed)).taint x.thread .fab reason
      else s.endBehalf x.die r 3
    s.dropTask k
  | _ => s

/-! ## KV blocks -/

/-- The KTM entry of a block on a die (R424). -/
def State.ktmAt (s : State) (d cid seq blk : Nat) : Option KtmEnt :=
  s.ktm.find? fun e => e.die == d && e.cid == cid && e.seq == seq && e.blk == blk

/-- Give a block's header a STATE at its home (R423). -/
def State.setBlockState (s : State) (e : KtmEnt) (st : Nat) : State :=
  let d0 := s.homeDword e.frame
  s.homeWriteDword e.cid e.frame (d0 &&& ~~~3 ||| BitVec.ofNat 64 st)

/-- A block that stands compacting takes a state; one at a lost home, or whose header has been rewritten, is left as it is. -/
def State.undoCompact (s : State) (e : KtmEnt) (st : Nat) : State :=
  if s.paLost e.frame || s.homeDword e.frame &&& 3 != 3 then s else s.setBlockState e st

/-- Withdraw a sieve that has not begun to move: the blocks, in the frames in which they were set compacting, take the states they had (R433, R450, R452). -/
def State.sieveRestore (s : State) (v : Sieve) : State := (v.ents.zip v.prior).foldl (fun s p => s.undoCompact p.1 p.2) s

/-- Write a sieve's record as a release at domain scope (R450): 16 bytes, as the issuing thread's engine; one that cannot be written is not made. -/
def State.sieveRecord (s : State) (t : Nat) (at_ : Nat) (d0 d1 : Dword) : State :=
  let s := (s.drainThread t).domainRelease (s.thr t).die (s.thr t).cid
  match s.accessLin (s.issuer t .atn) at_ 16 true 0 with
  | .ok (as, s) => s.storeAccs (s.issuer t .atn) (as.map fun a => { a with ord := 1 }) (leBytes 8 d0.toNat ++ leBytes 8 d1.toNat)
  | .error _ => s

/-! ## Aborts -/

/-- The engine of a task's word. -/
def Work.engine : Work → Engine
  | .copy _ => .xfr
  | .patt _ => .atn
  | .cent _ => .atn
  | .sieve _ => .atn
  | .coll _ => .fab
  | .reshard _ => .fab
  | .none => .seq

/-- The task belongs to a thread, which for a collective is any member's. -/
def Task.of (x : Task) (t : Nat) : Bool :=
  match x.work with
  | .none => false
  | .coll c => c.members.any fun m => m.thread == t
  | .reshard r => r.issued && x.thread == t
  | _ => x.thread == t

/-- Abort one task for a thread (R334, R406, R452): `asked` when the thread itself used an abort word. -/
def State.abortTask (s : State) (k t : Nat) (asked : Bool) : State :=
  let x := s.tasks.get k
  match x.work with
  | .none => s
  | .copy _ => s.stopTask k .aborted
  | .patt _ => s.stopTask k .aborted
  | .cent _ => s.stopTask k .aborted
  | .sieve v =>
    if v.moving then s
    else
      let s := s.sieveRestore v
      let s := s.sieveRecord x.thread v.recAt 3 0
      s.stopTask k .aborted
  | .coll _ => s.collAbort k 0xF3 (if asked then some t else none)
  | .reshard _ => s.reshardAbort k 0xF3 (if asked then some t else none)

/-- Abort every pending or parked entry of a thread on the engines of a test. -/
def State.abortAll (s : State) (t : Nat) (asked : Bool) (f : Engine → Bool) : State :=
  s.tasks.foldl (fun s e => if (s.tasks.get e.1).of t && f (s.tasks.get e.1).work.engine then s.abortTask e.1 t asked else s) s

end Sys2Proof.Machine
end

