-- ==== Sys2Proof/Machine/Life.lean ====
section
/-! DEFINITION. How threads, gangs and nodes end (R125, R146, R177, R185, R189, R205 to R207): what a thread leaves behind, the barriers that its end
completes, the gang's retirement, cancellation, loss, the completion record and the successors. -/

namespace Sys2Proof.Machine

/-- Replace the record of a node. -/
def State.modNode (s : State) (n : Nat) (f : Node → Node) : State := { s with nodes := s.nodes.mod n f }

/-- Replace the record of a gang. -/
def State.modGang (s : State) (g : Nat) (f : Gang → Gang) : State := { s with gangs := s.gangs.mod g f }

/-- A node in flight (R173): accepted and without its completion record. -/
def NodeSt.inFlight : NodeSt → Bool
  | .none => false
  | .ended => false
  | _ => true

/-- The gang holds its cores and its scratchpad shares. -/
def GangSt.placed : GangSt → Bool
  | .loading => true
  | .live => true
  | .stopping => true
  | _ => false

/-- No gang of a stopping context holds cores any more: it is stopped and the host is signalled (R117). -/
def State.checkStopped (s : State) (cid : Nat) : State :=
  let busy := s.gangs.any fun e => e.2.st.placed && (s.nodes.get e.2.node).cid == cid
  if (s.ctxs.get cid).st = .stopping ∧ !busy then
    ({ s with ctxs := s.ctxs.mod cid fun c => { c with st := .stopped } }).event cid (evRecord 2 0 cid 0 0 0 0)
  else s

/-- A thread that occupies its core (R196). -/
def ThreadSt.onCore : ThreadSt → Bool
  | .loaded => true
  | .running => true
  | .handler => true
  | .stopped => true
  | .leaving => true
  | _ => false

/-- The thread on a core of a die, if it is occupied. -/
def State.onCore (s : State) (die core : Nat) : Option Nat :=
  (s.threads.find? fun e => e.2.st.onCore && e.2.die == die && e.2.core == core).map fun e => e.1

/-- A gang frame area of a context's pool is free again (R139, R141). -/
def State.freeArea (s : State) (cid k : Nat) : State := { s with ctxs := s.ctxs.mod cid fun c => { c with areas := c.areas.set k false } }

/-- Thread `t` no longer needs its record in its gang's frame area; the area is free once no member has a record there (R139, DEDUCED, log entry 18). -/
def State.dropArea (s : State) (t : Nat) : State :=
  let th := s.thr t
  match th.area with
  | none => s
  | some k =>
    let s := s.modThr t fun th => { th with area := none }
    if (s.gangs.get th.gang).threads.any fun u => (s.thr u).area == some k then s else s.freeArea th.cid k

/-! ## Barriers -/

/-- Every member that an open barrier names has arrived or has ended (R205, R210). -/
def Barrier.complete (s : State) (b : Barrier) : Bool := b.opened && b.mask.all fun t => b.arrived.contains t || (s.thr t).st == .ended

/-- An event that acts like a fence has been executed (R281, R287). -/
def Thread.fenced (th : Thread) : Thread := { th with fences := th.fences + 1 }

/-- What an acquire at domain scope does for a thread: it acts like a fence at its word, and its die's clean bytes of hardware-managed regions go (R286, R287). -/
def State.acquire (s : State) (t : Nat) : State := (s.modThr t Thread.fenced).domainAcquire (s.thr t).die (s.thr t).cid

/-- What a release at domain scope does for a thread: its posted stores are performed, its die's dirty bytes of hardware-managed regions go home
(R285, R286). -/
def State.release (s : State) (t : Nat) : State := (s.drainThread t).domainRelease (s.thr t).die (s.thr t).cid

/-- Close a barrier that is complete: every arrived member's PENDING bit becomes 0, and each acquires at the barrier's level (R210, R211, R287). -/
def State.settleBarrier (s : State) (g key : Nat) : State :=
  let b := (s.gangs.get g).barriers.get key
  if b.complete s then
    let id := key % 64
    let s := s.modGang g fun x => { x with barriers := x.barriers.set key default }
    let s := b.arrived.foldl (fun s t => s.modThr t fun th => { th with pending := th.pending.set id false }) s
    b.arrived.foldl (fun s t => if id / 8 = 4 then s.acquire t else s.modThr t Thread.fenced) s
  else s

/-- Close every barrier of a gang that is complete. -/
def State.settleBarriers (s : State) (g : Nat) : State := (s.gangs.get g).barriers.foldl (fun s e => s.settleBarrier g e.1) s

/-! ## Arrivals at rings -/

/-- Every word of the party engines delivered before the sbar has executed, set aside ones too (R221). -/
def SbarArr.executed (x : SbarArr) (s : State) : Bool :=
  let th := s.thr x.thread
  x.engines.all fun e =>
    !((th.iq.get (engCode e) ++ th.aside.get (engCode e)).any fun y => y.item.isWord && decide (y.ord < x.ord) && !(e == .syn && y.ord == x.ord))

/-- Those words have executed, their asynchronous work has settled and their scratchpad writes are performed (R221). -/
def SbarArr.ready (x : SbarArr) (s : State) : Bool :=
  let th := s.thr x.thread
  x.executed s && x.engines.all fun e =>
    !(th.sbAny fun y => y.eng == e && decide (y.ord < x.ord) && (y.st == .pending || y.st == .parked)) &&
    !(s.spend.any fun p => p.thread == x.thread && p.eng == e && decide (p.ord < x.ord))

/-- The arrival at place `n` of the list takes effect, when it may: its member's earlier arrivals first (R221, R222). -/
def State.sbarEffect (s : State) (n : Nat) : State :=
  match s.sbars[n]? with
  | none => s
  | some x =>
    if ((s.sbars.take n).any fun y => y.ring == x.ring && y.member == x.member) || !x.ready s then s
    else
      let s := s.drainThread x.thread
      { s with
        sbars := s.sbars.eraseIdx n
        rings := s.rings.mod x.ring fun r => ({ r with counts := r.counts.set x.member (r.counts.get x.member + 1) }).settle 16 }

/-- The arrivals of a thread that may take effect do; `fuel` bounds them. -/
def State.sbarsOf (s : State) (t : Nat) : Nat → State
  | 0 => s
  | fuel + 1 =>
    match s.sbars.findIdx? fun x => x.thread == t && x.ready s with
    | some n => (s.sbarEffect n).sbarsOf t fuel
    | none => s

/-! ## The end of a thread and of a gang -/

/-- A thread whose state is discarded (R125, R146, R162). -/
def Thread.discarded (th : Thread) : Thread :=
  { th with
    st := .ended, iq := [], aside := [], held := [], qs := [], qr := [], batch := [], batches := [], pend := none, move := none, synStage := 0,
    fabStage := 0, atomoSent := false, atomBegun := none, recHeld := false, stepPc := none, synAside := 0, area := none, fetchSt := .afterHalt, marks := []
    savedMarks := [], fmtHeld := none, tileAt := none, results := [], atnData := none, commitWait := false, atnAt := 0 }

/-- A node takes a contribution: the highest, and of equals the first in time, with its thread's place (R185). -/
def Node.take (n : Node) (c : Contrib) (die core : Nat) : Node :=
  if !n.contributed ∨ n.contrib.rank < c.rank ∨ (n.contrib.rank = c.rank ∧ c.clk < n.contrib.clk) then
    { n with contrib := c, contributed := true, locDie := die, locCore := core, locPc := c.pc }
  else n

/-- What a thread that ends contributes: a clean one contributes at the word it ends with (R185). -/
def Thread.lastContrib (th : Thread) (now : Nat) : Contrib :=
  if th.contrib.rank = 0 then { th.contrib with pc := th.pc .syn, clk := now } else th.contrib

/-- A copy or a partial attention that a thread of the list issued. -/
def Task.bound (x : Task) (ts : List Nat) : Bool :=
  match x.work with
  | .copy _ => ts.contains x.thread
  | .patt _ => ts.contains x.thread
  | _ => false

/-- Work of threads whose gang retires names its handles no more; what is in flight runs on to its end (R322). -/
def Work.loosen (w : Work) (ts : List Nat) : Work :=
  match w with
  | .copy c => .copy { c with handle := 64 }
  | .patt p => .patt { p with handle := 64 }
  | .coll c => .coll { c with members := c.members.map fun m => if ts.contains m.thread then { m with handle := 64 } else m }
  | w => w

/-- The work of a retiring gang: what stands parked on a handle goes with the handle (DEDUCED, log entry 20), what is in flight goes on without one (R322). -/
def State.loosenWork (s : State) (ts : List Nat) : State :=
  s.tasks.foldl (fun s e =>
    let x := s.tasks.get e.1
    if x.bound ts && x.parked then s.stopTask e.1 .aborted
    else if x.bound ts || (match x.work with | .coll _ => true | _ => false) then s.setTask e.1 fun x => { x with work := x.work.loosen ts }
    else s) s

/-- A gang retires when its last member has ended: its cluster objects, shares and barriers become free (R206, R213, R217, R223). -/
def State.retireGang (s : State) (g : Nat) : State :=
  let x := s.gangs.get g
  let s := s.loosenWork x.threads
  let rings : Tab Ring := s.rings.filter fun e => e.2.owner ≠ g + 1
  let s := { s with
    handles := s.handles.filter fun e => e.2.owner ≠ g + 1
    cbars := s.cbars.filter fun e => e.2.owner ≠ g + 1
    rings := rings
    sbars := s.sbars.filter fun a => !x.threads.contains a.thread }
  let s := if x.st = .saved ∧ !x.byCtxsv then s.freeArea (s.nodes.get x.node).cid x.area else s
  let s := s.modGang g fun x => { x with st := .retired, barriers := [], shares := [], handles := [], cbars := [], rings := [], sbars := [] }
  (s.modNode x.node fun n => { n with live := n.live - 1 }).checkStopped (s.nodes.get x.node).cid

/-- A thread has ended: its arrivals that may take effect have done so, those that wait for words which it will not execute go, and others wait on (R221); what it holds is
discarded, its contribution counts, its gang's barriers and the gang itself may complete (R146, R205, R206). -/
def State.leave (s : State) (t : Nat) : State :=
  let s := s.sbarsOf t s.sbars.length
  let th := s.thr t
  let s : State := th.batches.foldl (fun (s : State) b => s.releaseHandles th.cluster b.handles) s
  let s : State := s.dropArea t
  let s : State := { s with
    sbars := s.sbars.filter fun a => a.thread != t || a.executed s
    cbars := s.cbars.foldl (fun c e => if e.2.waiters.contains t then c.set e.1 { e.2 with waiters := e.2.waiters.filter (· ≠ t) } else c) s.cbars
    refused := s.refused.filter fun a => a.thread ≠ t
    shoots := s.shoots.map fun x => if x.who = .thread t then { x with who := .nobody } else x }
  let s := s.modNode th.node fun n => n.take (th.lastContrib s.clk) th.die th.core
  let s := s.modThr t Thread.discarded
  let s := s.settleBarriers th.gang
  if (s.gangs.get th.gang).threads.all fun u => (s.thr u).st == .ended then s.retireGang th.gang else s

/-- A thread ends by halt (R146, R273). -/
def State.endThread (s : State) (t : Nat) : State :=
  let th := s.thr t
  ((s.drainThread t).tokensOfEnd th.node (s.nodeIndex th)).leave t

/-- A thread is stopped and its state discarded (R125): its pending work is aborted as resume.abort does; `lost` when its tokens are lost with it
(R207, R274), else they go back as at its end (R273). -/
def State.discardThread (s : State) (t rank : Nat) (reason : BitVec 8) (lost : Bool) : State :=
  let th := s.thr t
  if th.st = .ended then s
  else
    let s := ((s.drainThread t).contribute t rank reason (th.pc .seq)).abortAll t false fun _ => true
    let s := if lost then s.loseThread th.node (s.nodeIndex th) else s.tokensOfEnd th.node (s.nodeIndex th)
    s.leave t

/-- The gang of a failed core or a lost die ends (R207); a saved gang occupies no core and stays. -/
def State.loseGang (s : State) (g : Nat) (reason : BitVec 8) : State :=
  (s.gangs.get g).threads.foldl (fun s t => s.discardThread t 2 reason true) s

/-! ## Nodes -/

/-- Enter a node into the ready pools (R177, R179). -/
def State.readyNode (s : State) (n : Nat) : State := s.modNode n fun x => { x with st := .ready, entered := s.clk }

/-- A predecessor that ended with this verdict holds its successors (R177): tainted, rejected or cancelled. -/
def badVerdict (v : Nat) : Bool := v == 3 || v == 4 || v == 5

/-- Every predecessor of a node has ended. -/
def State.predsEnded (s : State) (x : Node) : Bool := x.preds.all fun p => (s.nodes.get p).st == .ended

/-- A waiting node is told that a predecessor has ended (R177). -/
def State.informNode (s : State) (n pred : Nat) (bad : Bool) : State :=
  let x := s.nodes.get n
  if x.st = .waiting ∧ x.preds.contains pred then
    let hold := x.hold || bad
    if s.predsEnded x then (if hold then s.modNode n fun x => { x with st := .held } else s.readyNode n)
    else s.modNode n fun x => { x with hold := hold }
  else s

/-- The die of a context's order point (R172). -/
def State.orderDie (s : State) (cid : Nat) : Nat := 8 * (s.ctxs.get cid).pkg

/-- Bytes of a node's completion record (R189). -/
def Node.record (x : Node) (verdict : Nat) (reason : BitVec 8) : List Byte :=
  leBytes 8 (verdict + reason.toNat * 256 + x.ptag.toNat * 2 ^ 32) ++ leBytes 8 (x.nid.toNat + x.given * 2 ^ 32) ++
  leBytes 8 (x.locDie % 8 + x.locCore * 8 + x.locPc.toNat * 2 ^ 11 + x.locDie / 8 * 2 ^ 29) ++ leBytes 40 0

/-- A node's completion record waits: its page is migrating (R241), or a piece of one of its threads has still to go back (R257, R273). -/
def State.recordWaits (s : State) (n : Nat) : Bool :=
  let x := s.nodes.get n
  (s.owed.any fun e => e.1 == n) ||
  x.crec % 64 == 0 && (match s.accessLin (Issuer.agent (s.orderDie x.cid) x.cid) x.crec 64 true 0 with | .error (.migrating _) => true | _ => false)

/-- The completion record is written at its home, as a release at domain scope after every write of the node's threads; the successors are informed and the
done event is written (R177, R189). A record address that is no multiple of 64 writes no record (R171). -/
def State.completeNode (s : State) (n : Nat) : State :=
  let x := s.nodes.get n
  let die := s.orderDie x.cid
  if s.recordWaits n then s.modNode n fun x => { x with st := .ending }
  else
    let s := s.threads.foldl (fun s e => if e.2.node = n then s.release e.1 else s) s
    let s :=
      if x.crec % 64 ≠ 0 then s
      else
        match s.accessLin (Issuer.agent die x.cid) x.crec 64 true 0 with
        | .ok (as, s) =>
          (s.storeAccs (Issuer.agent die x.cid) (as.map fun a => { a with ord := 1 }) (x.record x.verdict x.reason)).domainRelease die x.cid
        | .error _ => s.log die { kind := 10, code := 0, unit := 0, cid := some x.cid, addr := x.crec, node := x.nid.toNat }
    let s := s.modNode n fun x => { x with st := .ended }
    let s := s.nodes.foldl (fun s e => s.informNode e.1 n (badVerdict x.verdict)) s
    if x.irq then
      s.event x.cid (evRecord 6 0 x.cid (x.qid.getD 0) x.ptag (BitVec.ofNat 32 x.ordinal) 0)
    else s

/-- Fix the verdict of a running node from its threads' contributions (R185). -/
def Node.decide (x : Node) : Node :=
  let c := x.contrib
  { x with st := .ending, verdict := if c.rank = 3 then 5 else c.rank + 1, reason := c.reason }

/-- A node ends with a verdict of its own, its running gangs stopped and their state discarded (R144, R177, R184): `place` is the thread that
contributed, or none when the first of its threads in time did (R185), which is none of them where no thread was left to be cancelled. -/
def State.stopNode (s : State) (n verdict : Nat) (reason : BitVec 8) (place : Option Nat) : State :=
  let s := s.threads.foldl (fun s e =>
    if e.2.node = n ∧ e.2.st ≠ .absent then s.discardThread e.1 (if verdict = 5 then 3 else 2) reason false else s) s
  let s := s.modNode n fun x => { x with st := .ending, verdict := verdict, reason := reason }
  match place with
  | none => if (s.nodes.get n).contrib.rank = 3 then s else s.modNode n fun x => { x with locDie := 0, locCore := 0, locPc := 0 }
  | some t => s.modNode n fun x => { x with locDie := (s.thr t).die, locCore := (s.thr t).core, locPc := (s.thr t).contrib.pc }

/-- NCTL cancel, or the destruction of its context, on a node (R177). -/
def State.cancelNode (s : State) (n : Nat) : State :=
  match (s.nodes.get n).st with
  | .waiting => (s.modNode n fun x => { x with verdict := 5 }).completeNode n
  | .held => (s.modNode n fun x => { x with verdict := 5 }).completeNode n
  | .ready => (s.modNode n fun x => { x with verdict := 5 }).completeNode n
  | .running => s.stopNode n 5 0 none
  | _ => s

/-- NCTL release (R177, R178). -/
def State.releaseNode (s : State) (n : Nat) : State := if (s.nodes.get n).st = .held then s.readyNode n else s

/-- The node of a context with a node id. -/
def nodeKey (cid nid : Nat) : Nat := cid * 2 ^ 32 + nid

end Sys2Proof.Machine
end

