-- ==== Sys2Proof/Machine/Ops.lean ====
section
/-! DEFINITION. The named operations every meaning uses: a word completes, waits or traps; taking a trap (R126 to R134, R139) and returning from one (R137);
restarts; single step; and fetch (R97 to R103, R110, R111, R135, R159, R160). -/

namespace Sys2Proof.Machine

/-- What a meaning answers. -/
abbrev Out := Host.Outcome State Fault Refusal

/-- Dwords as bytes. -/
def dwBytes (ws : List Nat) : List Byte := ws.flatMap fun w => leBytes 8 w

/-- The dword at byte offset i of a byte list. -/
def dwAt (bs : List Byte) (i : Nat) : Dword := leDword ((bs.drop i).take 8)

/-- Dword i of a byte list. -/
def dwIdx (bs : List Byte) (i : Nat) : Dword := dwAt bs (8 * i)

/-! ## Trap records (R132) and the saved SEQ state (R143) -/

/-- The PC that a record gives an engine: the stepped word's under single step, else that of its first unexecuted word (R126, R140). -/
def Thread.recPc (th : Thread) (e f : Engine) : TextAddr :=
  match th.stepPc with
  | some a => if e = f then a else th.pc e
  | none => th.pc e

/-- A trap record. -/
def recordBytes (th : Thread) (eng : Engine) (i : TrapInfo) (system nest : Bool) : List Byte :=
  leBytes 8 (i.code.num.toNat + engCode eng * 256 + (if system then 2 ^ 11 else 0) + (if nest then 2 ^ 12 else 0) + th.sbCount * 2 ^ 16) ++
  dwBytes [i.estat.toNat, i.addr.toNat] ++
  (allEngines.flatMap fun e => leBytes 4 (th.recPc e eng).toNat) ++
  dwBytes [th.fetch.toNat + th.skip.toNat * 2 ^ 24 + th.steng.toNat * 2 ^ 32 + (if th.sten then 2 ^ 39 else 0), th.count.get (engCode eng)] ++
  leBytes 56 0 ++ dwBytes ((th.sb.getRange 0 16).map fun x => x.word.toNat)

/-- A loop-stack entry as two dwords (R105). -/
def LoopEntry.words (l : LoopEntry) : List Nat :=
  [l.lcnt.toNat, l.drain.toNat + l.nst.toNat * 8 + (if l.rot then 64 else 0) + l.start.toNat * 2 ^ 8 + l.body.toNat * 2 ^ 26]

/-- A loop-stack entry from two dwords; reserved bits are discarded (R105). -/
def loopEntryOf (d0 d1 : Dword) : LoopEntry :=
  { lcnt := d0, drain := bits d1 0 3, nst := bits d1 3 3, rot := flag d1 6, start := bits d1 8 18, body := bits d1 26 12 }

/-- LSTAGE (R104). -/
def Thread.lstage (th : Thread) : Nat := th.drain.toNat + th.nst.toNat * 8 + th.loops.length * 64

/-- The bytes at 0x100 to 0x3FF of a trap area or thread frame (R143). -/
def seqBytes (th : Thread) : List Byte :=
  dwBytes (0 :: ((th.s.getRange 1 63).map BitVec.toNat)) ++
  dwBytes [(List.range 16).foldl (fun n j => n + if j = 0 ∨ th.p.get j then 2 ^ j else 0) 0, th.rrb.toNat, th.lcnt.toNat, th.lstage] ++
  dwBytes ((th.loops ++ List.replicate (4 - th.loops.length) (loopEntryOf 0 0)).flatMap LoopEntry.words) ++
  dwBytes [th.slipw.toNat, th.fpctl.toNat, th.trapvec.toNat, th.mthr.toNat, th.mcntf.toNat, th.mcntp.toNat, th.mcnte.toNat] ++ leBytes 104 0

/-- The bytes at 0x400 to 0x5FF: the seed stack, bottom entry first. -/
def seedBytes (th : Thread) : List Byte :=
  let es := th.seeds.reverse.flatMap fun e => dwBytes [e.key.toNat, e.vec.toNat, e.mat.toNat, 0]
  es ++ leBytes (512 - es.length) 0

/-- The first 0x600 bytes of a trap area or thread frame (R134, R143). -/
def trapArea (th : Thread) (eng : Engine) (i : TrapInfo) (system nest : Bool) : List Byte :=
  recordBytes th eng i system nest ++ seqBytes th ++ seedBytes th

/-- The writable bits of FPCTL (R50). -/
def fpctlMask : Dword := 0x1FFB

/-- A value written to SLIPW: its field W alone counts (R8, R161). -/
def slipwOf (v : Dword) : BitVec 13 :=
  let w := bits v 0 13
  if w = 0 then 1 else if 4096 < w then 4096 else w

/-- The writable bits of TRAPVEC (R130). -/
def trapvecMask : Dword := ~~~2

/-- Reload the saved SEQ state from the bytes of an area (R137, R105): `bs` starts at 0x100. -/
def Thread.reload (th : Thread) (bs : List Byte) : Thread :=
  let at_ := fun i => dwAt bs (i - 0x100)
  let preds := at_ 0x300
  let depth := Nat.min 4 (field (at_ 0x318) 6 3)
  { th with
    s := (List.range 63).foldl (fun t j => t.set (j + 1) (at_ (0x108 + 8 * j))) th.s
    p := (List.range 15).foldl (fun t j => t.set (j + 1) (flag preds (j + 1))) th.p
    rrb := bits (at_ 0x308) 0 4
    lcnt := at_ 0x310
    drain := bits (at_ 0x318) 0 3
    nst := bits (at_ 0x318) 3 3
    loops := (List.range depth).map fun d => loopEntryOf (at_ (0x320 + 16 * d)) (at_ (0x328 + 16 * d))
    slipw := slipwOf (bits (at_ 0x360) 0 64)
    fpctl := at_ 0x368 &&& fpctlMask
    mthr := bits (at_ 0x378) 0 8
    mcntf := bits (at_ 0x380) 0 32
    mcntp := bits (at_ 0x388) 0 32
    mcnte := bits (at_ 0x390) 0 32 }

/-! ## Fetch goes on -/

/-- An engine's queue holds no word. -/
def Thread.noWords (th : Thread) (e : Engine) : Bool := !(th.iq.get (engCode e)).any fun x => x.item.isWord

/-- Fetch that waited for SEQ or SYN goes on once that engine has no word left (R97, R99, R103, R210); a halt word that a SKIP bit has discarded
stops it no longer (R137). -/
def Thread.release (th : Thread) : Thread :=
  match th.fetchSt with
  | .onSeq => if th.noWords .seq then th.goOn else th
  | .onSyn => if th.noWords .syn then th.goOn else th
  | .afterHalt => if th.noWords .syn then th.goOn else th
  | _ => th

/-! ## Stopping -/

/-- Traps that the user handler never takes (R128). -/
def systemOnly : TrapCode → Bool
  | .pageFault => true
  | .tileFault => true
  | .remoteHomeLost => true
  | .step => true
  | .controlDivergence => true
  | .uncorrectable => true
  | .preempt => true
  | _ => false

/-- The trap goes to the thread's user handler (R128). -/
def Thread.userRoute (th : Thread) (code : TrapCode) : Bool := flag th.trapvec 0 && th.st == .running && !systemOnly code

/-- SKIP as the device writes it into a record (R132). -/
def skipOf (code : TrapCode) : BitVec 8 := if code = .brk then 1 else 0

/-- What a taken trap leaves in the thread's own registers. -/
def Thread.recordTrap (th : Thread) (e : Engine) (i : TrapInfo) (system : Bool) : Thread :=
  { th with
    tsCode := i.code.num, tsEng := BitVec.ofNat 3 (engCode e), skip := skipOf i.code, recCode := i.code, recEng := e, recEstat := i.estat,
    recAddr := i.addr, recSystem := system, recNest := th.inh, pend := none, held := [], stall := 0, deadSet := 0, adrTrap := none, atnData := none }

/-- The 2 KiB user trap area (R130). -/
def Thread.tarea (th : Thread) : Nat := field th.trapvec 18 46 * 2 ^ 11

/-- Entry to the user handler once the record has been written (R134). -/
def Thread.enterHandler (th : Thread) : Thread :=
  { th with
    st := .handler, inh := true, aside := th.iq, iq := [], savedFetch := th.fetch, savedFetchSt := th.fetchSt, savedMarks := th.marks, marks := [],
    fetch := field th.trapvec 2 16 * 4, fetchSt := .going, loops := [], lcnt := 0, nst := 0, drain := 0, rrb := 0, asideOrd := th.rrbOrd
    rrbOrd := th.nextOrd, synAside := th.synStage, synStage := 0 }

/-- The clusters that a gang uses, in increasing order (R144). -/
def State.gangClusters (s : State) (g : Nat) : List Nat :=
  ((s.gangs.get g).threads.map fun t => (s.thr t).cluster).foldl (fun l c => if l.contains c then l else l ++ [c]) []

/-- The size of a cluster frame: 64 KiB of cluster objects, then the gang's shares, rounded up to 64 KiB (R144). -/
def State.clusterFrame (s : State) (g c : Nat) : Nat := 0x10000 + (((s.gangs.get g).shares.get c).len + 0xFFFF) / 0x10000 * 0x10000

/-- The size of a gang's frame area (R143, R144). -/
def State.areaBytes (s : State) (g : Nat) : Nat :=
  (s.gangs.get g).threads.length * 0x60000 + (s.gangClusters g).foldl (fun n c => n + s.clusterFrame g c) 0

/-- Where a frame area of a context lies. -/
def State.areaAt (s : State) (cid k : Nat) : Nat :=
  let c := s.ctxs.get cid
  c.fbase.toNat + k * c.fsize.toNat * 0x10000

/-- The lowest free frame area of a context's pool. -/
def State.freeFrame (s : State) (cid : Nat) : Option Nat :=
  let c := s.ctxs.get cid
  (List.range c.fcnt.toNat).find? fun k => !c.areas.get k

/-- The frame area that a gang's records go to: the one in which a member has its record, else the lowest free one (R139, R144, DEDUCED, log entry 18). -/
def State.gangFrame (s : State) (g cid : Nat) : Option Nat :=
  match (s.gangs.get g).threads.findSome? fun t => (s.thr t).area with
  | some k => some k
  | none => s.freeFrame cid

/-- The code a node ends with when a frame cannot be written or read (R144). -/
def MemStop.reason : MemStop → Option (BitVec 8)
  | .fault i _ => some i.code.num
  | .migrating _ => none

/-- The event of a system-routed trap: the packet concerned is the one that brought the thread's node (R158, DEDUCED, log entry 17). -/
def State.trapEvent (s : State) (t : Nat) : State :=
  let th := s.thr t
  let x := s.nodes.get th.node
  s.threadEvent t th.cid (evRecord 1 th.recCode.num th.cid 0 x.ptag (BitVec.ofNat 32 x.ordinal) th.place)

/-- Write the record of a stopped thread into a frame area of its context's pool and signal it; without a free area the record stays held in the
device (R139, R144). -/
def State.recordToFrame (s : State) (t : Nat) : State :=
  let th := s.thr t
  match s.gangFrame th.gang th.cid with
  | none => s.modThr t fun th => { th with recHeld := true }
  | some k =>
    let i : TrapInfo := { code := th.recCode, estat := th.recEstat, addr := th.recAddr }
    if (s.ctxs.get th.cid).fsize.toNat * 0x10000 < s.areaBytes th.gang then s.stopNode th.node 3 th.recCode.num (some t)
    else
      match s.accessLin (Issuer.agent th.die th.cid) (s.areaAt th.cid k + th.member * 0x60000) 0x600 true 0 with
      | .ok (as, s) =>
        let s := s.storeAccs (Issuer.agent th.die th.cid) (as.map fun a => { a with ord := 1 }) (trapArea th th.recEng i true th.recNest)
        let s := { s with ctxs := s.ctxs.mod th.cid fun c => { c with areas := c.areas.set k true } }
        (s.modThr t fun th => { th with recHeld := false, area := some k }).trapEvent t
      | .error m =>
        match m.reason with
        | some r => s.stopNode th.node 3 r (some t)
        | none => s.modThr t fun th => { th with recHeld := true }

/-- A trap is taken by system software (R139): the thread is stopped and its record goes to a frame. -/
def State.takeSystem (s : State) (t : Nat) (p : PendTrap) : State :=
  (s.modThr t fun th => { th.recordTrap p.eng p.info true with st := .stopped }).recordToFrame t

/-- A trap is taken by the user handler (R134); a write of the area that faults sends it to system software. -/
def State.takeUser (s : State) (t : Nat) (p : PendTrap) : State :=
  let th := { (s.thr t) with skip := skipOf p.info.code }
  let w : Issuer := { s.issuer t p.eng with eng := none }
  match s.accessLin w th.tarea 0x600 true 0 with
  | .ok (as, s) =>
    let s := s.storeAccs w as (trapArea th p.eng p.info false false)
    s.modThr t fun th => (th.recordTrap p.eng p.info false).enterHandler
  | .error (.fault _ _) => s.takeSystem t p
  | .error (.migrating _) => s

/-- An atom on scratchpad has begun and is not yet performed. -/
def Thread.atomBusy (th : Thread) : Bool := th.atomBegun.isSome && th.atomoOld.isNone && th.atomoFail.isNone

/-- The thread's engines have stopped: no command is under way in the array, no row of an mload or mstore is to move, no atom on scratchpad is to be performed (R126). -/
def Thread.quiet (th : Thread) : Bool := !th.arrayBusy && !th.moveBusy && !th.atomBusy

/-- An atom on scratchpad that has begun and been performed completes as the thread stops (R126): it returns its old value, acquires and leaves its queue. One that met a
pending word stays unexecuted. -/
def State.finishAtom (s : State) (t : Nat) : State :=
  let th := s.thr t
  let s := s.modThr t fun th => { th with atomoSent := th.atomoSent && th.atomBegun.isNone }
  match th.atomBegun, th.atomoOld with
  | some (ret, dom), some v =>
    let s := s.modThr t fun th =>
      { (if ret then th.pushS 8 v else th) with atomBegun := none, atomoOld := none, adr := default, held := th.held.set 1 none }
    let s := s.modThr t fun th => { th.popIq .adr with count := th.count.set 1 (th.count.get 1 + 1) }
    if dom then s.acquire t else s.modThr t Thread.fenced
  | some _, none => s.modThr t fun th => { th with atomBegun := none, atomoFail := none }
  | none, _ => s

/-- An mload or mstore whose rows have all moved is complete: its word leaves the queue. An mload whose rows are read and which the form does not permit stays
unexecuted (R127, R377). -/
def State.finishMove (s : State) (t : Nat) : State :=
  if (s.thr t).moveBad then s.modThr t fun th => { th with move := none }
  else if (s.thr t).moveDone then
    s.modThr t fun th => { th.endMove.popIq .mat with count := th.count.set 3 (th.count.get 3 + 1) }
  else s

/-- Taking a trap, the ONE shared operation: once the engines of a thread in state running or handler have stopped, the pending trap goes to the user
handler or to system software; a member that is being pre-empted keeps it until it restarts (R142). -/
def State.takeTrap (s : State) (t : Nat) : State :=
  if !(s.thr t).quiet || !((s.thr t).st == .running || (s.thr t).st == .handler) then s
  else
    let s := s.finishMove t
    match (s.thr t).pend with
    | none => s
    | some p =>
      let s := s.finishAtom t
      if (s.thr t).userRoute p.info.code then s.takeUser t p else s.takeSystem t p

/-- What a trap contributes to its node's verdict when it is raised (R461). -/
def trapTaint : TrapCode → Option (BitVec 8)
  | .uncorrectable => some 0x51
  | .scaleParity => some 0x24
  | .controlDivergence => some 0x50
  | _ => none

/-- The free values of a trap's ESTAT and ADDR where no chapter lays one down (DESIGN CHOICE, log entry 9). -/
def State.fillTrap (s : State) (i : TrapInfo) : TrapInfo × State :=
  if i.openE != 0 || i.openA then
    ({ i with
        estat := i.estat ||| (Config.freeDword s.freeCtr &&& i.openE), addr := if i.openA then Config.freeDword (s.freeCtr + 1) else i.addr,
        openE := 0, openA := false }, { s with freeCtr := s.freeCtr + 2 })
  else (i, s)

/-- The kind of the device error log record that a trap leaves (R465). -/
def trapLog : TrapCode → Option Nat
  | .uncorrectable => some 1
  | .controlDivergence => some 5
  | .scaleParity => some 6
  | _ => none

/-- Write the log record of a trap. -/
def State.logTrap (s : State) (t : Nat) (e : Engine) (i : TrapInfo) : State :=
  let th := s.thr t
  match trapLog i.code with
  | some k => s.log th.die
      { kind := k, code := i.code.num.toNat, unit := th.core, cid := some th.cid, addr := (th.pc e).toNat, node := (s.nodes.get th.node).nid.toNat }
  | none => s

/-- An engine of a thread raises a trap (R126, R127): the first stands; the array stops; the trap is taken as soon as the engines have stopped. A FAB word
that traps no longer waits for its turn on a slot (R394). -/
def State.raise (s : State) (t : Nat) (e : Engine) (i : TrapInfo) : State :=
  let (i, s) := s.fillTrap i
  let s := match trapTaint i.code with | some r => (s.taint t e r).logTrap t e i | none => s
  let s := s.modThr t fun th => { th with
    pend := match th.pend with | none => some { eng := e, info := i } | some p => some p
    fabStage := if e = .fab then 0 else th.fabStage }
  (s.arrayHalt t).takeTrap t

/-! ## How a word ends -/

/-- OBJ of a scoreboard entry that the word just executed has taken: what STEP's ADDR holds for an asynchronous word (R140). -/
def newObj (before after : Thread) (a : TextAddr) (e : Engine) : Option (BitVec 32) :=
  (List.range 16).findSome? fun j =>
    let x := after.sb.get j
    if x.valid && x.pc == a && x.eng == e && x != before.sb.get j then some x.obj else none

/-- The queues that SEQ pushes to (R107). -/
def seqQueues : List Nat := [0, 1, 4, 7, 9, 10]

/-- What a word of SEQ has produced (R459): the entries that it has pushed, the scalars and the predicates that it has changed; each is withheld until the clock `due`
at the latest (log entry 75). -/
def Thread.produced (before after : Thread) (due : Nat) : List SeqResult :=
  (seqQueues.flatMap fun q => List.replicate ((after.qs.get q).length - (before.qs.get q).length) { what := q, due := due }) ++
  ((List.range 64).filter fun n => before.s.get n != after.s.get n).map (fun n => { what := 16 + n, due := due }) ++
  ((List.range 16).filter fun n => before.p.get n != after.p.get n).map fun n => { what := 80 + n, due := due }

/-- The results withheld once SEQ has executed a word: those whose time has come and the values that it has replaced go, what it has produced comes, with 8 clocks to
its comparison (R459). -/
def Thread.withResults (before after : Thread) (clk : Nat) : Thread :=
  let new := before.produced after (clk + 8)
  { after with results := (after.results.filter fun x => decide (clk < x.due) && (decide (x.what < 16) || !new.any fun y => y.what == x.what)) ++ new }

/-- The results of a kind that are withheld at a clock, oldest first. -/
def Thread.heldBack (th : Thread) (what clk : Nat) : List SeqResult := th.results.filter fun x => x.what == what && decide (clk < x.due)

/-- The entry at the head of a queue is withheld from its consumer (R459). -/
def Thread.headWithheld (th : Thread) (q clk : Nat) : Bool :=
  !(th.heldBack q clk).isEmpty && decide ((th.qs.get q).length ≤ (th.heldBack q clk).length)

/-- The head word of an engine of the current thread has executed: it leaves the queue, what SEQ has produced awaits its comparison (R459), fetch that waited for the
word goes on, and under single step STEP is raised (R140, R159). `before` is the state it started in. CMDIDX of a STEP record counts the stepped word, which has executed (DEDUCED, log entry 82). -/
def State.retire (s : State) (e : Engine) (before : State) : State :=
  let t := s.cur
  let a := (s.thr t).pc e
  let s := s.modThr t fun th =>
    let th := if e = .seq then (before.thr t).withResults th s.clk else th
    { th.popIq e with held := th.held.set (engCode e) none, count := th.count.set (engCode e) (th.count.get (engCode e) + 1) }.release
  let th := s.thr t
  if th.sten && th.steng == BitVec.ofNat 3 (engCode e) then
    let addr : Dword := match newObj (before.thr t) th a e with | some o => o.setWidth 64 | none => a.setWidth 64
    let s := s.modThr t fun th => { th with stepPc := some a }
    s.raise t e { code := .step, estat := 0, addr := addr, openE := -1 }
  else s

/-- The head word of an engine of the current thread waits. -/
def State.holdWord (s : State) (e : Engine) (w : Wait) : State :=
  s.modThr s.cur fun th => { th with held := th.held.set (engCode e) (some w) }

/-- What becomes of a word of the current thread: it completes, waits at its place, or traps. -/
def finish (e : Engine) (s : State) (r : Except Exit State) : Out :=
  match r with
  | .ok s' => .next (s'.retire e s)
  | .error (.hold w s') => .next (s'.holdWord e w)
  | .error (.trap i s') => .next (s'.raise s'.cur e i)

/-! ## Restarts -/

/-- Remove the first word of a queue (SKIP, R132). -/
def dropWord : List IqEntry → List IqEntry
  | [] => []
  | x :: xs => if x.item.isWord then dropMarkers xs else x :: dropWord xs

/-- Discard the head words of the engines whose SKIP bit is set, and what a partly executed word among them had reached. -/
def Thread.applySkip (th : Thread) (skip : BitVec 8) : Thread :=
  { th with
    iq := (List.range 8).foldl (fun q e => if flag skip e then q.set e (dropWord (q.get e)) else q) th.iq
    adr := if flag skip 1 then default else th.adr, atomoSent := !flag skip 1 && th.atomoSent, atomBegun := if flag skip 1 then none else th.atomBegun
    atomoOld := if flag skip 1 then none else th.atomoOld, atomoFail := if flag skip 1 then none else th.atomoFail
    mat := if flag skip 3 then default else th.mat
    fabStage := if flag skip 5 then 0 else th.fabStage
    atnAt := if flag skip 6 then 0 else th.atnAt
    synStage := if flag skip 7 then 0 else th.synStage }

/-- What every restart does (R133, R164, R373, R460): entries that are settled go, parked batches become pending, waits are made anew, the nines core is loaded from
SEQ's state. -/
def Thread.restarted (th : Thread) : Thread :=
  { (th.sbSweep.batchEntries .pending) with
    held := [], stall := 0, deadSet := 0, stepPc := none, recheck := true, pend := none, adrTrap := none, skip := 0, results := [], atnData := none }

/-- Return from the user handler (R137): `bs` is the reloaded area from 0x100, `skip` the record's SKIP. The held words delivered after the last change of RRB resolve
their names under the reloaded RRB (R66; DEDUCED, log entry 100). Pass boundaries that stand in the held queue decide on the reloaded counts; the words that fetch delivered
beyond them on the old counts still execute, and fetch is not moved (R105 is silent: DESIGN CHOICE, log entry 100). -/
def Thread.leaveHandler (th : Thread) (bs : List Byte) (skip : BitVec 8) : Thread :=
  let th := th.reload bs
  let th := { th with
    st := .running, inh := false, iq := renamed th.rrb th.asideOrd th.aside, rrbOrd := th.asideOrd, aside := [], fetch := th.savedFetch, fetchSt := th.savedFetchSt, marks := th.savedMarks, savedMarks := []
    synStage := th.synAside, synAside := 0 }
  (th.applySkip skip).restarted.release

/-- The restart of a stopped thread from its frame (R139): `bs` is the frame's first 0x600 bytes; edits of RRB and of the loops act as at eret. -/
def Thread.resumeStopped (th : Thread) (bs : List Byte) : Thread :=
  let th := { th.reload (bs.drop 0x100) with trapvec := dwAt bs 0x370 &&& trapvecMask }
  let th := { th with iq := renamed th.rrb th.rrbOrd th.iq }
  let d := dwAt bs 56
  let th := { th with st := if th.inh then .handler else .running, sten := flag d 39, steng := bits d 32 3, recHeld := false, area := none }
  (th.applySkip (bits d 24 8)).restarted.release

/-! ## Fetch -/

/-- The word of a thread's text at an address (R58). -/
def Thread.textWord (th : Thread) (a : TextAddr) : Word := BitVec.ofNat 32 (leNat (th.text.getRange a.toNat 4))

/-- The engine code of a word (R59). -/
def wordEng (w : Word) : Nat := field w 29 3

/-- A mark word in form (R110): its slot and mask. -/
def markOf (w : Word) : Option (Nat × BitVec 8) :=
  if bits w 24 8 = (0x17 : BitVec 8) ∧ bits w 11 13 = (0 : BitVec 13) ∧ bits w 0 8 ≠ (0 : BitVec 8) then some (field w 8 3, bits w 0 8) else none

/-- Where fetch stands after it has delivered a word (R97, R99, R103, R111, R146, R210, R215, R245, R263, R271, R295). -/
def stopAfter (w : Word) : FetchSt :=
  let op := field w 24 5
  let fn4 := field w 0 4
  if wordEng w = 0 then
    if op = 0x0E then (if field w 20 4 = 0 then .going else .onSeq)
    else if op = 0x10 ∨ op = 0x11 ∨ op = 0x12 then .onSeq
    else if op = 0x18 then .onJoin (field w 0 3)
    else if op = 0x1A ∧ (field w 0 12 = 0x011 ∨ field w 0 12 = 0x012 ∨ field w 0 12 = 0x013) then .onSeq
    else .going
  else if wordEng w = 7 then
    if op = 0 ∧ (fn4 = 0 ∨ fn4 = 2) then .onSyn
    else if op = 1 ∧ (fn4 = 2 ∨ fn4 = 3) then .onSyn
    else if 5 ≤ op ∧ op ≤ 0x0D then .onSyn
    else if op = 0x13 ∨ op = 0x14 ∨ op = 0x17 then .onSyn
    else if op = 0x18 then .afterHalt
    else .going
  else .going

/-- An instruction queue holds 64 entries (R159); a pass boundary is no entry. -/
def iqRoom (q : List IqEntry) : Nat := 64 - (q.filter fun x => !x.item.isPass).length

/-- Append an entry to an engine's queue; a marker that finds the queue empty has reached its head (R165). -/
def Thread.append (th : Thread) (e : Nat) (item : IqItem) (a : TextAddr) : Thread :=
  let q := th.iq.get e
  let x : IqEntry := { item := item, addr := a, ord := th.nextOrd, rrb := th.rrb }
  { th with iq := if q.isEmpty && !item.isWord then th.iq else th.iq.set e (q ++ [x]), nextOrd := th.nextOrd + 2 }

/-- The markers of a mark word, in engine order (R110). -/
def marksOf (j : Nat) (mask : BitVec 8) (a : TextAddr) : List (Nat × Nat × TextAddr) :=
  ((List.range 8).filter fun e => flag mask e).map fun e => (e, j, a)

/-- The engines whose full queues hold fetch at a word, or at a marker still to be delivered (R159, R164). -/
def Thread.fullAt (th : Thread) (w : Word) : List Nat :=
  match th.marks with
  | (e, _, _) :: _ => if iqRoom (th.iq.get e) = 0 then [e] else []
  | [] =>
    match markOf w with
    | some (_, m) => (List.range 8).filter fun e =>
        decide (iqRoom (th.iq.get e) < (if e = 0 then 1 else 0) + (if flag m e then 1 else 0))
    | none => if iqRoom (th.iq.get (wordEng w)) = 0 then [wordEng w] else []

/-- Deliver a word that fits and move fetch on; the markers of a mark word follow it one by one (R110, R160). -/
def Thread.take (th : Thread) (w : Word) : Thread :=
  let a := th.fetch
  let th := th.append (wordEng w) (.word w) a
  let th := { th with
    marks := match markOf w with | some (j, m) => marksOf j m a | none => []
    fetch := match fetchJump w a with | some x => x | none => a + 4 }
  match stopAfter w with
  | .going => if th.marks.isEmpty then th.goOn else th
  | f => { th with fetchSt := f }

/-- Deliver the next marker, its queue having room; after the last one fetch goes on. -/
def Thread.takeMark (th : Thread) : Thread :=
  match th.marks with
  | [] => th
  | (e, j, a) :: rest =>
    let th := { th.append e (.marker j) a with marks := rest }
    if rest.isEmpty then th.goOn else th

/-- A join whose markers have all reached their heads lets fetch go on (R111). -/
def Thread.passJoin (th : Thread) : Thread :=
  match th.fetchSt with
  | .onJoin j => if th.markers j = 0 then th.goOn else th
  | _ => th

/-- Fetch may deliver: the thread runs, no trap is pending, fetch is not stopped, slip is below its bound (R126, R160). -/
def Thread.mayFetch (th : Thread) : Bool :=
  (th.st == .running || th.st == .handler) && th.pend.isNone && th.fetchSt == .going && decide (th.slip < th.slipw.toNat)

/-- Fetch delivers the next word of a thread; the answer names the engine if the word came into an empty queue. In state handler a word of another
engine than SEQ and SYN raises ILLEGAL_INSN instead (R135). -/
def State.deliver (s : State) (t : Nat) : Option Nat × State :=
  let s := s.modThr t Thread.passJoin
  let th := s.thr t
  let w := th.textWord th.fetch
  if !th.mayFetch then (none, s)
  else if !th.marks.isEmpty then (none, if (th.fullAt w).isEmpty then s.modThr t Thread.takeMark else s)
  else if th.st = .handler ∧ wordEng w ≠ 0 ∧ wordEng w ≠ 7 then
    (none, s.raise t (engineOf (wordEng w)) { code := .illegalInsn, estat := 0, addr := 0, openE := -1, openA := true })
  else if !(th.fullAt w).isEmpty then (none, s)
  else
    let first := (th.iq.get (wordEng w)).isEmpty
    (if first then some (wordEng w) else none, s.modThr t fun th => th.take w)

end Sys2Proof.Machine
end

