-- ==== Sys2Proof/Machine/Operands.lean ====
section
/-! DEFINITION. Register operands (R64, R67, R69): which shared registers a word reads and writes, and which engine's words an rdsr or wrsr is ordered
against (R72). Numbers: 0 to 63 a scalar by name, 100 + n a vector register, 140 + n a lane mask, 150 + n a descriptor slot, 160 + e the words of engine e. -/

namespace Sys2Proof.Machine

/-- A scalar; s0 is no register of a hazard (R65). -/
def sc (n : BitVec 6) : List Nat := if n = 0 then [] else [n.toNat]
/-- A run of k scalars (R69). -/
def run (n : BitVec 6) (k : Nat) : List Nat := ((List.range k).map fun i => n.toNat + i).filter fun x => x ≠ 0
/-- The eight scalars of descriptor group n (R69). -/
def run8 (n : BitVec 3) : List Nat := ((List.range 8).map fun i => 8 * n.toNat + i).filter fun x => x ≠ 0
/-- A vector register. -/
def vr (n : BitVec 5) : List Nat := [100 + n.toNat]
/-- A run of k vector registers from n, up to v31. -/
def vrun (n : BitVec 5) (k : Nat) : List Nat := ((List.range k).map fun i => 100 + n.toNat + i).filter fun x => x < 132
/-- A lane mask; m0 is constant (R65). -/
def mk (n : BitVec 3) : List Nat := if n = 0 then [] else [140 + n.toNat]
/-- A descriptor slot. -/
def ds (n : BitVec 3) : List Nat := [150 + n.toNat]
/-- The words of an engine. -/
def own (e : Nat) : List Nat := [160 + e]
/-- The engine that owns a special register, when it is not SEQ (R70, R72). -/
def ownOf (n : BitVec 12) : List Nat :=
  if n = 0x030 then own 2 else if n = 0x032 ∨ n = 0x038 ∨ n = 0x039 then own 7
  else if 0x040 ≤ n.toNat ∧ n.toNat ≤ 0x043 then own 6 else []

/-- What a word reads, and what it writes. -/
def usesOf (i : Instr) : List Nat × List Nat :=
  match i with
  | .add d a b => (sc a ++ sc b, sc d)
  | .sub d a b => (sc a ++ sc b, sc d)
  | .and d a b => (sc a ++ sc b, sc d)
  | .or d a b => (sc a ++ sc b, sc d)
  | .xor d a b => (sc a ++ sc b, sc d)
  | .andn d a b => (sc a ++ sc b, sc d)
  | .shl d a b => (sc a ++ sc b, sc d)
  | .shr d a b => (sc a ++ sc b, sc d)
  | .sra d a b => (sc a ++ sc b, sc d)
  | .slt d a b => (sc a ++ sc b, sc d)
  | .sltu d a b => (sc a ++ sc b, sc d)
  | .min d a b => (sc a ++ sc b, sc d)
  | .max d a b => (sc a ++ sc b, sc d)
  | .minu d a b => (sc a ++ sc b, sc d)
  | .maxu d a b => (sc a ++ sc b, sc d)
  | .mul d a b => (sc a ++ sc b, sc d)
  | .mulh d a b => (sc a ++ sc b, sc d)
  | .mulhu d a b => (sc a ++ sc b, sc d)
  | .div d a b => (sc a ++ sc b, sc d)
  | .divu d a b => (sc a ++ sc b, sc d)
  | .rem d a b => (sc a ++ sc b, sc d)
  | .remu d a b => (sc a ++ sc b, sc d)
  | .clz d a => (sc a, sc d)
  | .ctz d a => (sc a, sc d)
  | .popc d a => (sc a, sc d)
  | .addi d a _ => (sc a, sc d)
  | .andi d a _ => (sc a, sc d)
  | .ori d a _ => (sc a, sc d)
  | .xori d a _ => (sc a, sc d)
  | .shli d a _ => (sc a, sc d)
  | .shri d a _ => (sc a, sc d)
  | .srai d a _ => (sc a, sc d)
  | .slti d a _ => (sc a, sc d)
  | .sltiu d a _ => (sc a, sc d)
  | .lui d _ => ([], sc d)
  | .auipc d _ => ([], sc d)
  | .ldB d a _ => (sc a, sc d)
  | .ldBu d a _ => (sc a, sc d)
  | .ldH d a _ => (sc a, sc d)
  | .ldHu d a _ => (sc a, sc d)
  | .ldW d a _ => (sc a, sc d)
  | .ldWu d a _ => (sc a, sc d)
  | .ldD d a _ => (sc a, sc d)
  | .stB d a _ => (sc d ++ sc a, [])
  | .stH d a _ => (sc d ++ sc a, [])
  | .stW d a _ => (sc d ++ sc a, [])
  | .stD d a _ => (sc d ++ sc a, [])
  | .cmpEq _ a b => (sc a ++ sc b, [])
  | .cmpNe _ a b => (sc a ++ sc b, [])
  | .cmpLt _ a b => (sc a ++ sc b, [])
  | .cmpGe _ a b => (sc a ++ sc b, [])
  | .cmpLtu _ a b => (sc a ++ sc b, [])
  | .cmpGeu _ a b => (sc a ++ sc b, [])
  | .cmpiEq _ a _ => (sc a, [])
  | .cmpiNe _ a _ => (sc a, [])
  | .cmpiLt _ a _ => (sc a, [])
  | .cmpiGe _ a _ => (sc a, [])
  | .cmpiLtu _ a _ => (sc a, [])
  | .cmpiGeu _ a _ => (sc a, [])
  | .pand _ _ _ => ([], [])
  | .por _ _ _ => ([], [])
  | .pxor _ _ _ => ([], [])
  | .pandn _ _ _ => ([], [])
  | .pnot _ _ => ([], [])
  | .pmov _ _ => ([], [])
  | .br _ _ _ => ([], [])
  | .jal d _ => ([], sc d)
  | .jalr d a _ => (sc a, sc d)
  | .loop c _ => (sc c, [])
  | .loopRot c _ _ => (sc c, [])
  | .loopi _ _ => ([], [])
  | .loopiRot _ _ _ => ([], [])
  | .rot a _ => (sc a, [])
  | .qpush _ a => (sc a, [])
  | .qpop d _ => ([], sc d)
  | .fmt d a b => (sc a ++ sc b, sc d)
  | .fmtQ a b => (sc a ++ sc b, [])
  | .mark _ _ => ([], [])
  | .join _ => ([], [])
  | .rdsr d n => ([], sc d ++ ownOf n)
  | .wrsr a n => (sc a, ownOf n)
  | .sel d a b _ _ => (sc a ++ sc b, sc d)
  | .nop => ([], [])
  | .brk => ([], [])
  | .capt n s => (run8 n, ds s)
  | .tld d s a => (ds s ++ sc d ++ run a 4, [])
  | .tldQ s a => (ds s ++ run a 4, [])
  | .tst d s a => (ds s ++ sc d ++ run a 4, [])
  | .tstQ s a => (ds s ++ run a 4, [])
  | .gld d s a => (ds s ++ sc d ++ run a 4, [])
  | .gldQ s a => (ds s ++ run a 4, [])
  | .gst d s a => (ds s ++ sc d ++ run a 4, [])
  | .gstQ s a => (ds s ++ run a 4, [])
  | .vld a => (run a 4, [])
  | .vst a => (run a 4, [])
  | .sld a _ => (sc a, [])
  | .sldRow a => (run a 4, [])
  | .sst d a _ => (sc d ++ sc a, [])
  | .sstRow a => (run a 4, [])
  | .atomAdd a _ _ _ _ => (run a 2, [])
  | .atomMin a _ _ _ _ => (run a 2, [])
  | .atomMax a _ _ _ _ => (run a 2, [])
  | .atomAnd a _ _ _ _ => (run a 2, [])
  | .atomOr a _ _ _ _ => (run a 2, [])
  | .atomXor a _ _ _ _ => (run a 2, [])
  | .atomXchg a _ _ _ _ => (run a 2, [])
  | .atomCas a _ _ _ _ => (run a 3, [])
  | .atomoAdd a _ _ _ _ => (run a 2 ++ sc (a + 3), [])
  | .atomoMin a _ _ _ _ => (run a 2 ++ sc (a + 3), [])
  | .atomoMax a _ _ _ _ => (run a 2 ++ sc (a + 3), [])
  | .atomoAnd a _ _ _ _ => (run a 2 ++ sc (a + 3), [])
  | .atomoOr a _ _ _ _ => (run a 2 ++ sc (a + 3), [])
  | .atomoXor a _ _ _ _ => (run a 2 ++ sc (a + 3), [])
  | .atomoXchg a _ _ _ _ => (run a 2 ++ sc (a + 3), [])
  | .atomoCas a _ _ _ _ => (run a 4, [])
  | .prefL a => (run a 2, [])
  | .prefT s a => (ds s ++ run a 4, [])
  | .fenceAcq _ => ([], [])
  | .fenceRel _ => ([], [])
  | .fenceFull _ => ([], [])
  | .hwait _ a => (sc a, [])
  | .hwaitSt _ a => (sc a, [])
  | .ldq a _ => (sc a, [])
  | .vintAdd d a b m _ => (vr a ++ vr b ++ mk m, own 2 ++ vr d)
  | .vintSub d a b m _ => (vr a ++ vr b ++ mk m, own 2 ++ vr d)
  | .vintMul d a b m _ => (vr a ++ vr b ++ mk m, own 2 ++ vr d)
  | .vintMulh d a b m _ => (vr a ++ vr b ++ mk m, own 2 ++ vr d)
  | .vintAnd d a b m => (vr a ++ vr b ++ mk m, own 2 ++ vr d)
  | .vintOr d a b m => (vr a ++ vr b ++ mk m, own 2 ++ vr d)
  | .vintXor d a b m => (vr a ++ vr b ++ mk m, own 2 ++ vr d)
  | .vintAndn d a b m => (vr a ++ vr b ++ mk m, own 2 ++ vr d)
  | .vintShl d a b m => (vr a ++ vr b ++ mk m, own 2 ++ vr d)
  | .vintShr d a b m => (vr a ++ vr b ++ mk m, own 2 ++ vr d)
  | .vintSra d a b m => (vr a ++ vr b ++ mk m, own 2 ++ vr d)
  | .vintMin d a b m _ => (vr a ++ vr b ++ mk m, own 2 ++ vr d)
  | .vintMax d a b m _ => (vr a ++ vr b ++ mk m, own 2 ++ vr d)
  | .vintAbs d a m _ => (vr a ++ mk m, own 2 ++ vr d)
  | .vintNeg d a m _ => (vr a ++ mk m, own 2 ++ vr d)
  | .vfltAdd d a b m => (vr a ++ vr b ++ mk m, own 2 ++ vr d)
  | .vfltSub d a b m => (vr a ++ vr b ++ mk m, own 2 ++ vr d)
  | .vfltMul d a b m => (vr a ++ vr b ++ mk m, own 2 ++ vr d)
  | .vfltDiv d a b m => (vr a ++ vr b ++ mk m, own 2 ++ vr d)
  | .vfltMin d a b m => (vr a ++ vr b ++ mk m, own 2 ++ vr d)
  | .vfltMax d a b m => (vr a ++ vr b ++ mk m, own 2 ++ vr d)
  | .vfltAbs d a m => (vr a ++ mk m, own 2 ++ vr d)
  | .vfltNeg d a m => (vr a ++ mk m, own 2 ++ vr d)
  | .vfmaFma d a b m => (vr a ++ vr b ++ mk m ++ vr d, own 2 ++ vr d)
  | .vfmaFms d a b m => (vr a ++ vr b ++ mk m ++ vr d, own 2 ++ vr d)
  | .vfmaFnma d a b m => (vr a ++ vr b ++ mk m ++ vr d, own 2 ++ vr d)
  | .vfmaFnms d a b m => (vr a ++ vr b ++ mk m ++ vr d, own 2 ++ vr d)
  | .vcmpEq d a b m _ => (vr a ++ vr b ++ mk m, own 2 ++ mk d)
  | .vcmpNe d a b m _ => (vr a ++ vr b ++ mk m, own 2 ++ mk d)
  | .vcmpLt d a b m _ => (vr a ++ vr b ++ mk m, own 2 ++ mk d)
  | .vcmpLe d a b m _ => (vr a ++ vr b ++ mk m, own 2 ++ mk d)
  | .vcmpGt d a b m _ => (vr a ++ vr b ++ mk m, own 2 ++ mk d)
  | .vcmpGe d a b m _ => (vr a ++ vr b ++ mk m, own 2 ++ mk d)
  | .vcmpUn d a b m => (vr a ++ vr b ++ mk m, own 2 ++ mk d)
  | .vcvtTo d a _ m _ => (vr a ++ mk m, own 2 ++ vr d)
  | .vcvtFrom d a _ m => (vr a ++ mk m, own 2 ++ vr d)
  | .vcvtF2i d a m _ => (vr a ++ mk m, own 2 ++ vr d)
  | .vcvtI2f d a m _ => (vr a ++ mk m, own 2 ++ vr d)
  | .vcvtU2f d a m _ => (vr a ++ mk m, own 2 ++ vr d)
  | .vredSum d a m _ => (vr a ++ mk m, own 2 ++ vr d)
  | .vredMax d a m _ => (vr a ++ mk m, own 2 ++ vr d)
  | .vredMin d a m _ => (vr a ++ mk m, own 2 ++ vr d)
  | .vredArgmax d a m _ => (vr a ++ mk m, own 2 ++ vr d)
  | .vredArgmin d a m _ => (vr a ++ mk m, own 2 ++ vr d)
  | .vredSumQ a m _ => (vr a ++ mk m, own 2)
  | .vredMaxQ a m _ => (vr a ++ mk m, own 2)
  | .vredMinQ a m _ => (vr a ++ mk m, own 2)
  | .vredArgmaxQ a m _ => (vr a ++ mk m, own 2)
  | .vredArgminQ a m _ => (vr a ++ mk m, own 2)
  | .vscanSum d a m _ => (vr a ++ mk m, own 2 ++ vr d)
  | .vscanMax d a m _ => (vr a ++ mk m, own 2 ++ vr d)
  | .vscanMin d a m _ => (vr a ++ mk m, own 2 ++ vr d)
  | .vscanSumX d a m _ => (vr a ++ mk m, own 2 ++ vr d)
  | .vscanMaxX d a m _ => (vr a ++ mk m, own 2 ++ vr d)
  | .vscanMinX d a m _ => (vr a ++ mk m, own 2 ++ vr d)
  | .vpermIdx d a b m => (vr a ++ vr b ++ mk m, own 2 ++ vr d)
  | .vpermRot d a b m => (vr a ++ vr b ++ mk m, own 2 ++ vr d)
  | .vpermBc d a b m => (vr a ++ vr b ++ mk m, own 2 ++ vr d)
  | .vsel d a b m => (vr a ++ vr b ++ mk m, own 2 ++ vr d)
  | .vsfuExp2 d a m => (vr a ++ mk m, own 2 ++ vr d)
  | .vsfuLog2 d a m => (vr a ++ mk m, own 2 ++ vr d)
  | .vsfuRcp d a m => (vr a ++ mk m, own 2 ++ vr d)
  | .vsfuRsqrt d a m => (vr a ++ mk m, own 2 ++ vr d)
  | .vsfuSqrt d a m => (vr a ++ mk m, own 2 ++ vr d)
  | .vmovSplat d a m => (sc (a.setWidth 6) ++ mk m, own 2 ++ vr d)
  | .vmovIns d a b => (sc (a.setWidth 6) ++ sc (b.setWidth 6) ++ vr d, own 2 ++ vr d)
  | .vmovExt a b => (vr a ++ sc (b.setWidth 6), own 2)
  | .vmovMv d a m => (vr a ++ mk m, own 2 ++ vr d)
  | .vcomp d a b m n t => (vrun a (4 * 2 ^ t.toNat) ++ vrun b 4 ++ mk m, own 2 ++ vrun d n.toNat ++ vrun b 4)
  | .vqntC d a _ m _ => (vr a ++ mk m, own 2 ++ vrun d 2)
  | .vqntCr d a _ m _ => (vr a ++ mk m, own 2 ++ vrun d 2 ++ vr a)
  | .vqntG d a _ m _ => (vr a ++ vrun d 2 ++ mk m, own 2 ++ vr d)
  | .vqntGr d a _ m _ => (vr a ++ vrun d 2 ++ mk m, own 2 ++ vr d ++ vr a)
  | .vdqnt d a _ m => (vrun a 2 ++ mk m, own 2 ++ vr d)
  | .vdqntAcc d a _ m => (vrun a 2 ++ vr d ++ mk m, own 2 ++ vr d)
  | .vrandU d m => (mk m, own 2 ++ vr d)
  | .vrandF d m => (mk m, own 2 ++ vr d)
  | .vmaskAnd d a b => (mk a ++ mk b, own 2 ++ mk d)
  | .vmaskOr d a b => (mk a ++ mk b, own 2 ++ mk d)
  | .vmaskXor d a b => (mk a ++ mk b, own 2 ++ mk d)
  | .vmaskAndn d a b => (mk a ++ mk b, own 2 ++ mk d)
  | .vmaskNot d a => (mk a, own 2 ++ mk d)
  | .vmaskMov d a => (mk a, own 2 ++ mk d)
  | .vmaskFirst d a => (mk a, own 2 ++ mk d)
  | .vmaskCnt a => (mk a, own 2)
  | .vqin d m => (mk m, own 2 ++ vr d)
  | .vqinQ5 d m => (mk m, own 2 ++ vr d)
  | .vqinS d m => (mk m, own 2 ++ vr d)
  | .vqout a m => (vr a ++ mk m, own 2)
  | .vqoutQ11 a m => (vr a ++ mk m, own 2)
  | .viotaIdx d m => (mk m, own 2 ++ vr d)
  | .viotaCnt d a m => (mk a ++ mk m, own 2 ++ vr d)
  | .mma _ _ _ _ _ => ([], [])
  | .mmas _ _ _ v _ _ => (vrun v 4, [])
  | .mmat _ _ _ _ _ => ([], [])
  | .mdist _ _ _ _ => ([], [])
  | .mtopk _ _ _ _ _ => ([], [])
  | .mzero _ => ([], [])
  | .mload _ v _ _ => (sc (v.setWidth 6), [])
  | .mstore _ v _ _ => (sc (v.setWidth 6), [])
  | .mrdRow _ v => (sc (v.setWidth 6), [])
  | .mrdCol _ v => (sc (v.setWidth 6), [])
  | .mrdRck _ => ([], [])
  | .mrdCck _ => ([], [])
  | .mwrRow _ v _ => (sc (v.setWidth 6), [])
  | .mwrCol _ v _ => (sc (v.setWidth 6), [])
  | .mwrRck _ => ([], [])
  | .mwrCck _ => ([], [])
  | .mcommit => ([], [])
  | .mwait _ => ([], [])
  | .mwaitAcc _ => ([], [])
  | .mcks _ v => (sc (v.setWidth 6), [])
  | .mfix _ => ([], [])
  | .xcopy _ a => (run a 4, [])
  | .xcopyT _ s a => (ds s ++ run a 4, [])
  | .xcopyS _ a => (run a 4, [])
  | .xput _ a => (run a 4, [])
  | .xputT _ s a => (ds s ++ run a 4, [])
  | .xgath _ s a => (ds s ++ run a 4, [])
  | .xscatO _ s a => (ds s ++ run a 4, [])
  | .xscatAdd _ s a => (ds s ++ run a 4, [])
  | .xscatMax _ s a => (ds s ++ run a 4, [])
  | .xscatMin _ s a => (ds s ++ run a 4, [])
  | .xpack _ s a => (ds s ++ run a 4, [])
  | .xpackK1 _ s a => (ds s ++ run a 4, [])
  | .xpackS _ a => (run a 4, [])
  | .xhalo _ a _ => (run a 4, [])
  | .xfill _ a => (run a 4, [])
  | .xrel _ => ([], [])
  | .xabort _ => ([], [])
  | .lyset _ s t => (sc s ++ sc t, [])
  | .lysetGet _ s => (sc s, [])
  | .reshard _ s => (sc s, [])
  | .collSum _ s t => (sc s ++ sc t, [])
  | .collMax _ s t => (sc s ++ sc t, [])
  | .collMin _ s t => (sc s ++ sc t, [])
  | .collAmerge _ s t => (sc s ++ sc t, [])
  | .collRing _ s t => (sc s ++ sc t, [])
  | .ranks _ s t => (sc s ++ sc t, [])
  | .rkinv _ => ([], [])
  | .fwait => ([], [])
  | .fwaitSlot _ => ([], [])
  | .resid _ s t => (sc s ++ sc t, [])
  | .fabort => ([], [])
  | .kvmap s => (sc s, own 6)
  | .kvmapNew s => (sc s, own 6)
  | .kvmapUn s => (sc s, own 6)
  | .kvlock s => (sc s, own 6)
  | .kvlockUn s => (sc s, own 6)
  | .kvapp s => (run s 2, own 6)
  | .kvroll s => (sc s, own 6)
  | .patt q s => (run s 4 ++ vrun q 32, own 6)
  | .mprog _ s t => (sc s ++ sc t, own 6)
  | .meval _ s => (run s 3, own 6)
  | .cent s => (run s 3, own 6)
  | .csel q s => (run s 2 ++ vrun q 32, own 6)
  | .retn s t => (run s 2 ++ sc t, own 6)
  | .retnQ s => (run s 2, own 6)
  | .sieve s => (run s 2, own 6)
  | .await => ([], own 6)
  | .awaitAbort => ([], own 6)
  | .mcntClr => ([], own 6)
  | .bar _ _ s => (sc s, own 7)
  | .barArr _ _ s => (sc s, own 7)
  | .barWt _ _ => ([], own 7)
  | .cbarInit _ s => (sc s, own 7)
  | .cbarAdd _ s => (sc s, own 7)
  | .cbarWait _ => ([], own 7)
  | .cbarTake _ => ([], own 7)
  | .cbarFree _ => ([], own 7)
  | .sbarP _ => ([], own 7)
  | .sbarC _ => ([], own 7)
  | .ring _ s t => (sc s ++ sc t, own 7)
  | .ringRel _ => ([], own 7)
  | .phaseNew => ([], own 7)
  | .phaseRd _ _ s t => (sc s ++ sc t, own 7)
  | .phaseWr _ _ s t => (sc s ++ sc t, own 7)
  | .tklend s t => (sc s ++ sc t, own 7)
  | .tkret s t => (sc s ++ sc t, own 7)
  | .tksplit s t => (sc s ++ sc t, own 7)
  | .tkjoin s t => (sc s ++ sc t, own 7)
  | .tkshare s t => (sc s ++ sc t, own 7)
  | .tkunsh s t => (sc s ++ sc t, own 7)
  | .tkrecl s t => (sc s ++ sc t, own 7)
  | .rwb s t => (sc s ++ sc t, own 7)
  | .rinv s t => (sc s ++ sc t, own 7)
  | .launch _ s => (sc s, own 7)
  | .cwait _ => ([], own 7)
  | .cwaitAll => ([], own 7)
  | .seedPush s => (sc s, own 7)
  | .seedPop => ([], own 7)
  | .seedFork s => (sc s, own 7)
  | .trap _ s => (sc s, own 7)
  | .resumeWait s => ([], own 7 ++ sc s)
  | .resumeAbort s => ([], own 7 ++ sc s)
  | .eret => ([], own 7)
  | .tlbiVa s t => (sc s ++ sc t, own 7)
  | .tlbiTen s t => (sc s ++ sc t, own 7)
  | .tlbiCtx t => (sc t, own 7)
  | .tlbiAll => ([], own 7)
  | .replay s => (sc s, own 7)
  | .ctxsv s t => (sc s ++ sc t, own 7)
  | .ctxld s t => (sc s ++ sc t, own 7)
  | .waitGeu s t => (sc s ++ sc t, own 7)
  | .waitEq s t => (sc s ++ sc t, own 7)
  | .waitNe s t => (sc s ++ sc t, own 7)
  | .waitLtu s t => (sc s ++ sc t, own 7)
  | .waitSb => ([], own 7)
  | .halt => ([], own 7)
  | .wrcfg _ s => (sc s, own 7)
  | .rdcfg _ s => ([], own 7 ++ sc s)
  | .pwrSt s => ([], own 7 ++ sc s)
  | .pwrHint s => (sc s, own 7)
  | .passBoundary _ => ([], [])
  | .adrFaultTrap _ => ([], [])
  | .arrayCommandStart _ => ([], [])
  | .arrayCommandRetire _ => ([], [])
  | .copyUnitLands _ => ([], [])
  | .haloArrival _ => ([], [])
  | .collStep _ => ([], [])
  | .collWatchdogExpiry _ => ([], [])
  | .reshardExchangeComplete _ => ([], [])
  | .pattDone _ => ([], [])
  | .centKeyUpdate _ => ([], [])
  | .sieveCompact _ => ([], [])
  | .sbarArrivalEffect _ => ([], [])
  | .tokenWaitResume _ => ([], [])
  | .tlbiAcknowledge _ => ([], [])
  | .memoryWaitRecheck _ => ([], [])
  | .fetch _ => ([], [])
  | .markerReachesHead _ _ => ([], [])
  | .queueDeadlock _ => ([], [])
  | .scratchpadWritePerform _ => ([], [])
  | .ninesCompare _ _ _ _ => ([], [])
  | .trapTakenUser _ => ([], [])
  | .trapTakenSystem _ => ([], [])
  | .gangPreempt _ => ([], [])
  | .gangSaved _ => ([], [])
  | .gangRestore _ _ _ => ([], [])
  | .gangDispatch _ => ([], [])
  | .gangStart _ => ([], [])
  | .reservationTimeout _ => ([], [])
  | .reservationDrop _ => ([], [])
  | .childBoostTimeout _ => ([], [])
  | .nodeEnding _ => ([], [])
  | .nodeCompletionRecord _ => ([], [])
  | .launchPacket _ => ([], [])
  | .graphPacket _ => ([], [])
  | .seedPushPacket _ => ([], [])
  | .seedPopPacket _ => ([], [])
  | .seedForkPacket _ => ([], [])
  | .waitPacket _ => ([], [])
  | .waitPacketPoll _ => ([], [])
  | .signalPacket _ => ([], [])
  | .signalWrite _ => ([], [])
  | .reshardOnBehalf _ => ([], [])
  | .contextCreate _ => ([], [])
  | .contextStop _ => ([], [])
  | .contextStart _ => ([], [])
  | .contextDestroy _ => ([], [])
  | .contextFreed _ => ([], [])
  | .resumeThread _ => ([], [])
  | .qattach _ => ([], [])
  | .qdetach _ => ([], [])
  | .qtailWrite _ _ => ([], [])
  | .evconsWrite _ _ => ([], [])
  | .nctlRelease _ _ => ([], [])
  | .nctlCancel _ _ => ([], [])
  | .migcmdWrite _ _ => ([], [])
  | .migrationStart _ => ([], [])
  | .migrationFinish _ => ([], [])
  | .tkcmdCreate _ _ => ([], [])
  | .tkcmdDestroy _ _ => ([], [])
  | .parkRingWrite _ _ _ => ([], [])
  | .pendctlWrite _ _ => ([], [])
  | .lnkctlRetrain _ _ => ([], [])
  | .lnkctlDisable _ _ => ([], [])
  | .lnkctlEnable _ _ => ([], [])
  | .lnkctlClear _ _ => ([], [])
  | .fenceCore _ _ => ([], [])
  | .fenceSlice _ _ _ => ([], [])
  | .pstateWrite _ _ => ([], [])
  | .configRegisterWrite _ _ _ => ([], [])
  | .homeLoss _ => ([], [])
  | .atomoArrival _ => ([], [])
  | .atomoRetry _ => ([], [])
  | .atomoLineStall _ => ([], [])
  | .rdcEviction _ _ _ => ([], [])
  | .correctableError _ => ([], [])
  | .uncorrectableError _ => ([], [])
  | .patrolScrub _ _ _ => ([], [])
  | .arbiterPeriod _ => ([], [])
  | .dieFreeze _ => ([], [])
  | .flitReceive _ _ _ _ => ([], [])
  | .linkTrained _ _ _ => ([], [])
  | .linkTrainingFailed _ _ => ([], [])
  | .linkReplayLimit _ _ => ([], [])
  | .laneLost _ _ => ([], [])
  | .linkRetrainTimeout _ _ => ([], [])
  | .peerDown _ _ => ([], [])
  | .routeTablesInForce => ([], [])
  | .cxlLinkDown _ => ([], [])
  | .powerOn => ([], [])
  | .sidebandReset _ _ _ => ([], [])
  | .bringUp _ _ => ([], [])
  | .diePresent _ => ([], [])
  | .sidebandInventory => ([], [])
  | .sidebandAttest _ => ([], [])
  | .sidebandPowerRead _ => ([], [])
  | .sidebandPlimitWrite _ => ([], [])
  | .sidebandPstateWrite _ _ => ([], [])
  | .sidebandLog => ([], [])
  | .malformedPacket _ => ([], [])
  | .memoryAccessPerformed _ => ([], [])
  | .llcLineEviction _ _ => ([], [])
  | .slicePartialAttention _ => ([], [])
  | .reshardPairCopy _ => ([], [])

/-- A register number as it stands under an RRB (R66). -/
def resolveUse (rrb : BitVec 4) (n : Nat) : Nat := if n < 64 then physS rrb n else n

/-- Some name of the lists rotates (R66). -/
def rotates (ns : List Nat) : Bool := ns.any fun n => decide (48 ≤ n) && decide (n < 64)

/-- Two lists share a register. -/
def clash (xs ys : List Nat) : Bool := xs.any fun x => ys.contains x

end Sys2Proof.Machine
end

