-- ==== Sys2Proof/Machine/Deadlock.lean ====
section
/-! DEFINITION. The wait graph of a thread and the detection of queue deadlock (R164). Node e is the engine of code e, node 8 is fetch. -/

namespace Sys2Proof.Machine

/-- The producer of an architectural queue (R73). -/
def producerOf (q : Nat) : Engine :=
  if q = 2 ∨ q = 8 then .adr else if q = 3 ∨ q = 6 ∨ q = 11 then .vec else if q = 5 then .mat else .seq

/-- The consumer of an architectural queue (R73). -/
def consumerOf (q : Nat) : Engine :=
  if q = 0 ∨ q = 11 then .mat else if q = 1 ∨ q = 3 then .adr else if q = 2 ∨ q = 5 ∨ q = 7 then .vec
  else if q = 4 then .xfr else if q = 9 then .atn else if q = 10 then .fab else .seq

/-- The nodes that a node waits on, or none when it is not blocked. MAT with an empty queue waits on fetch, though its array may still be running committed batches
(DESIGN CHOICE, log entry 103). -/
def Thread.waitsOn (th : Thread) (n : Nat) : Option (List Nat) :=
  if n < 8 then
    if (th.iq.get n).isEmpty then some [8]
    else
      match th.held.get n with
      | some (.popEmpty q) => if th.qlen q = 0 then some [engCode (producerOf q)] else none
      | some (.pushFull q) => if th.qfull q then some [engCode (consumerOf q)] else none
      | some (.engines es) => some (es.map engCode)
      | _ => none
  else
    match th.fetchSt with
    | .onSeq => some [0]
    | .onSyn => none
    | .afterHalt => some []
    | .onJoin j =>
      if th.markers j = 0 then none
      else some ((List.range 8).filter fun e => (th.iq.get e).any fun x => x.item == .marker j)
    | .going =>
      if th.slipw.toNat ≤ th.slip then
        some ((List.range 8).filter fun e => (th.iq.get e).any fun x => !x.item.isPass && x.ord == th.oldest)
      else
        match th.fullAt (th.textWord th.fetch) with
        | [] => none
        | es => some es

/-- The nodes reached from a list along waits, and whether all of them are blocked; `fuel` bounds the steps. -/
def Thread.reach (th : Thread) : (fuel : Nat) → List Nat → List Nat × Bool
  | 0, ns => (ns, true)
  | fuel + 1, ns =>
    let out := ns.map th.waitsOn
    let next := (out.flatMap fun o => o.getD []).foldl (fun l n => if l.contains n then l else l ++ [n]) ns
    let r := th.reach fuel next
    (r.1, r.2 && out.all fun o => o.isSome)

/-- The engine is held at its head word. -/
def Thread.heldAt (th : Thread) (n : Nat) : Bool := !(th.iq.get n).isEmpty && (th.held.get n).isSome

/-- The set D, as a mask. -/
def Thread.deadlocked (th : Thread) : BitVec 9 :=
  if !(th.st == .running || th.st == .handler) || th.pend.isSome then 0
  else
    (List.range 8).foldl (fun m n =>
      if th.heldAt n then
        let r := th.reach 9 [n]
        if r.2 then r.1.foldl (fun m k => m ||| BitVec.ofNat 9 (2 ^ k)) m else m
      else m) 0

/-- One core clock of the watch: D is compared with what it was. -/
def Thread.watch (th : Thread) : Thread :=
  let d := th.deadlocked
  if d = 0 then { th with deadSet := 0, stall := 0 }
  else if d = th.deadSet then { th with stall := th.stall + 1 } else { th with deadSet := d, stall := 0 }

/-- D has stood for 65,536 core clocks: QUEUE_DEADLOCK at the head word of the lowest held engine in D. -/
def State.breakDeadlock (s : State) (t : Nat) : State :=
  let th := s.thr t
  if th.stall < 65536 ∨ th.deadSet = 0 then s
  else
    match (List.range 8).find? fun n => flag th.deadSet n && th.heldAt n with
    | none => s
    | some n => s.raise t (engineOf n) { code := .queueDeadlock, estat := 0, addr := th.deadSet.setWidth 64, openE := -1 }

/-- What one core clock does besides the step taken in it: the matrix engines finish the clock before, so that they read what was written in it; the
scratchpad accesses due are performed; the pieces that ended threads still owe go back once they can; deadlocks are watched (R288, R367, R273, R164). A frozen die takes no part (R467). -/
def State.tick (s : State) : State :=
  let s := s.matClock
  let s := { s with clk := s.clk + 1 }.performDue.settleOwed
  s.threads.foldl (fun s e => if (s.die e.2.die).frozen then s else (s.modThr e.1 Thread.watch).breakDeadlock e.1) s

end Sys2Proof.Machine
end

