-- ==== Sys2Proof/Machine/Seq.lean ====
section
/-! DEFINITION. SEQ (chapter The Scalar Sequencer): arithmetic, loads and stores, compares, control flow, hardware loops, queue ends, format words,
markers and special registers. -/

namespace Sys2Proof.Machine

/-! ## Shared operations of SEQ words -/

/-- The thread whose word executes. -/
def State.me (s : State) : Thread := s.thr s.cur

/-- Replace the record of the thread whose word executes. -/
def State.modMe (s : State) (f : Thread → Thread) : State := s.modThr s.cur f

/-- A word whose chapter names it asynchronous takes a free scoreboard entry when it is accepted, and waits while all are valid (R133). -/
def takeEntry (s : State) (e : Engine) (op : BitVec 5) (obj : BitVec 32) : Except Exit (Nat × State) :=
  match s.me.sbFree with
  | none => holdAt s .outside
  | some j => .ok (j, s.modMe fun th => th.sbTake j e op (th.pc e) obj)

/-- A trap whose ESTAT and ADDR no chapter lays down. -/
def openTrap {α : Type} (s : State) (code : TrapCode) : Except Exit α :=
  .error (.trap { code := code, estat := 0, addr := 0, openE := -1, openA := true } s)

/-- A SEQ word that writes one scalar (R86, R88). -/
def seqOp (d : BitVec 6) (v : Thread → Dword) (s : State) : Out :=
  finish .seq s (.ok (s.modMe fun th => th.ws .seq d (v th)))

/-- A SEQ word that writes one scalar from two (R86). -/
def seqAlu (f : Dword → Dword → Dword) (d a b : BitVec 6) (s : State) : Out := seqOp d (fun th => f (th.rs .seq a) (th.rs .seq b)) s

/-- A SEQ word that writes one scalar from one (R86). -/
def seqUna (f : Dword → Dword) (d a : BitVec 6) (s : State) : Out := seqOp d (fun th => f (th.rs .seq a)) s

/-- A truth value as a scalar (R86). -/
def boolDw (b : Bool) : Dword := if b then 1 else 0

/-- The count of leading zero bits (R86). -/
def clz64 (a : Dword) : Dword := if a = 0 then 64 else BitVec.ofNat 64 (63 - Nat.log2 a.toNat)

/-- The count of trailing zero bits (R86). -/
def ctz64 (a : Dword) : Dword := match (List.range 64).find? fun i => flag a i with | some i => BitVec.ofNat 64 i | none => 64

/-- The count of one bits (R86). -/
def popc64 (a : Dword) : Dword := BitVec.ofNat 64 ((List.range 64).foldl (fun n i => n + (flag a i).toNat) 0)

/-- The high half of the signed product (R86). -/
def mulhs (a b : Dword) : Dword := BitVec.ofInt 64 (a.toInt * b.toInt / 2 ^ 64)

/-- The high half of the unsigned product (R86). -/
def mulhuu (a b : Dword) : Dword := BitVec.ofNat 64 (a.toNat * b.toNat / 2 ^ 64)

/-- Signed division (R86, R87). -/
def divs (a b : Dword) : Dword := if b = 0 then BitVec.allOnes 64 else a.sdiv b

/-- Unsigned division (R86, R87). -/
def divuu (a b : Dword) : Dword := if b = 0 then BitVec.allOnes 64 else a / b

/-- Signed remainder (R86, R87). -/
def rems (a b : Dword) : Dword := if b = 0 then a else a.srem b

/-- Unsigned remainder (R86, R87). -/
def remuu (a b : Dword) : Dword := if b = 0 then a else a % b

/-- A SEQ word that writes one predicate (R93, R94). -/
def seqPred (d : BitVec 4) (v : Thread → Bool) (s : State) : Out := finish .seq s (.ok (s.modMe fun th => th.wp d (v th)))

/-- A compare of two scalars (R93). -/
def seqCmp (f : Dword → Dword → Bool) (d : BitVec 4) (a b : BitVec 6) (s : State) : Out :=
  seqPred d (fun th => f (th.rs .seq a) (th.rs .seq b)) s

/-- A compare with an immediate (R93). -/
def seqCmpi (f : Dword → Dword → Bool) (d : BitVec 4) (a : BitVec 6) (i : BitVec 9) (s : State) : Out :=
  seqPred d (fun th => f (th.rs .seq a) (sext64 i)) s

/-- A predicate operation (R94). -/
def seqLog (f : Bool → Bool → Bool) (d a b : BitVec 4) (s : State) : Out := seqPred d (fun th => f (th.rp a) (th.rp b)) s

/-! ## Loads and stores (R90 to R92) -/

/-- The exact effective address of ld and st (R91). -/
def seqAddr (s : State) (a : BitVec 6) (o : BitVec 9) (size : Nat) : Int := ((s.me.rs .seq a).toNat : Int) + o.toInt * size

/-- The checks of R91 before translation: the address, or the trap. -/
def seqCheck (s : State) (a : BitVec 6) (o : BitVec 9) (size : Nat) (write : Bool) : Except Exit Nat :=
  let ea := seqAddr s a o size
  if ea < 0 ∨ (2 ^ 57 : Int) ≤ ea then
    (pageFault 1 write (BitVec.ofInt 64 ea).toNat).exit s
  else if ea.toNat % size ≠ 0 then .error (.trap { code := .align, estat := 0, addr := BitVec.ofInt 64 ea, openE := -1 } s)
  else .ok ea.toNat

/-- ld (R91): `ext` makes the scalar from the bytes read. -/
def seqLoad (size : Nat) (ext : Nat → Dword) (d a : BitVec 6) (o : BitVec 9) (s : State) : Out :=
  finish .seq s (do
    let ea ← seqCheck s a o size false
    let w := s.issuer s.cur .seq
    let (as, s) ← liftMem s (s.accessLin w ea size false 0)
    let piece := s.accsTaint w as
    let x := s.loadAccs w as
    let s := x.2.readTaint s.cur .seq x.1.2 piece
    .ok (s.modMe fun th => th.ws .seq d (ext (leNat x.1.1))))

/-- st (R91). -/
def seqStore (size : Nat) (d a : BitVec 6) (o : BitVec 9) (s : State) : Out :=
  finish .seq s (do
    let ea ← seqCheck s a o size true
    let w := s.issuer s.cur .seq
    let (as, s) ← liftMem s (s.accessLin w ea size true 0)
    .ok (s.storeAccs w as (leBytes size (s.me.rs .seq d).toNat)))

/-- Sign extension of an n-bit value (R91). -/
def sextN (n : Nat) (x : Nat) : Dword := (BitVec.ofNat n x).signExtend 64

/-! ## Control flow and hardware loops (R96 to R106) -/

/-- End the innermost loop (R100). -/
def Thread.endLoop (th : Thread) : Thread :=
  match th.loops.reverse with
  | [] => th
  | [_] => { th with loops := [], lcnt := 0, nst := 0, drain := 0 }
  | _ :: l :: ls =>
    { th with loops := ({ l with lcnt := 0, drain := 0 } :: ls).reverse, lcnt := l.lcnt, drain := l.drain, nst := l.nst }

/-- End, innermost first, every loop whose body does not hold a transfer's target (R102); at most four loops stand. -/
def Thread.leaveTo (a : TextAddr) : Nat → Thread → Thread
  | 0, th => th
  | fuel + 1, th =>
    match th.loops.getLast? with
    | none => th
    | some l => if l.holds a then th else Thread.leaveTo a fuel th.endLoop

/-- Fetch waits for SEQ's head word: it is stopped and that word is SEQ's last. -/
def Thread.fetchWaits (th : Thread) : Bool :=
  th.fetchSt == .onSeq && decide (((th.iq.get 0).filter fun x => x.item.isWord).length ≤ 1)

/-- Control goes to `a`: loops left end, and fetch, if it waits for this word, stands there. -/
def Thread.jumpTo (th : Thread) (a : TextAddr) : Thread :=
  let th := Thread.leaveTo a 4 th
  if th.fetchWaits then { th with fetch := a } else th

/-- The address of SEQ's head word. -/
def Thread.seqPc (th : Thread) : TextAddr := th.pc .seq

/-- The checks of R99 on a loop word at `pc`. -/
def Thread.loopOk (th : Thread) (body : BitVec 12) : Bool :=
  let pc := th.seqPc
  let start := pc + 4
  body != 0 && decide (pc.toNat + 4 * body.toNat ≤ 0x3FFFC) && decide (th.loops.length < 4) &&
  (match th.loops.getLast? with
   | none => true
   | some l => decide ((start - l.start).toNat + 4 * body.toNat ≤ 4 * l.body.toNat))

/-- The counts of the innermost loop go into its entry when an inner loop starts (R100, R105). -/
def Thread.shelve (th : Thread) : List LoopEntry :=
  match th.loops.reverse with
  | [] => []
  | l :: ls => ({ l with lcnt := th.lcnt, drain := th.drain } :: ls).reverse

/-- p8 true and p9 to p15 false (R100). -/
def Thread.firstStage (th : Thread) : Thread :=
  (List.range 8).foldl (fun th j => th.setPAt th.rrb (8 + j) (j == 0)) th

/-- A loop word of trip count n (R100): S − 1 is `st`. -/
def seqLoop (n : Thread → Dword) (body : BitVec 12) (st : BitVec 3) (rot : Bool) (s : State) : Out :=
  finish .seq s (
    let th := s.me
    if !th.loopOk body then openTrap s .shape
    else
      let n := n th
      let start := th.seqPc + 4
      if n = 0 then .ok (s.modMe fun th => if th.fetchWaits then { th with fetch := start + BitVec.ofNat 18 (4 * body.toNat) } else th)
      else
        let l : LoopEntry := { lcnt := 0, drain := 0, nst := st, rot := rot, start := start, body := body }
        .ok (s.modMe fun th =>
          let th := { th with loops := th.shelve ++ [l], lcnt := n - 1, drain := st, nst := st }
          if rot then th.firstStage else th))

/-- A pass boundary in SEQ's queue takes effect (R100). -/
def Thread.boundary (th : Thread) (x : IqEntry) : Thread :=
  let th := { th with iq := th.iq.set 0 (dropMarkers (th.iq.get 0).tail) }
  let turn := fun (th : Thread) (p8 : Bool) =>
    match th.loops.getLast? with
    | some l =>
      if l.rot then
        let r := th.rrb - 1
        (th.setPAt r 8 p8).setRrb r x.ord
      else th
    | none => th
  if th.lcnt ≠ 0 then turn { th with lcnt := th.lcnt - 1 } true
  else if th.drain ≠ 0 then turn { th with drain := th.drain - 1 } false
  else th.endLoop

/-! ## Queue ends -/

/-- Push a scalar, waiting while the queue is full (R107, R162). -/
def seqPush (s : State) (q : Nat) (v : Dword) : Except Exit State :=
  if s.me.qfull q then holdAt s (.pushFull q) else .ok (s.modMe fun th => th.pushS q v)

/-- The shape fields of fmt (R109), or none where it traps. -/
def fmtWord (a b : Dword) : Option Dword :=
  let m := field b 0 8
  let nn := field b 8 8
  let k := field b 16 10
  if bits b 26 38 ≠ 0 ∨ m < 1 ∨ 128 < m ∨ nn < 1 ∨ 128 < nn ∨ k % 8 ≠ 0 ∨ k < 8 ∨ 512 < k then none
  else
    let keep : Dword := ~~~(BitVec.ofNat 64 ((2 ^ 23 - 1) * 2 ^ 25))
    some ((a &&& keep) ||| BitVec.ofNat 64 ((m - 1) * 2 ^ 41 + (nn - 1) * 2 ^ 34 + k / 8 * 2 ^ 25))

/-! ## Special registers (R70, R112) -/

/-- LIX of level k (R199). -/
def Thread.lixVal (th : Thread) (k : Nat) : Dword := BitVec.ofNat 64 (th.gangIdx.toNat * 2 ^ 17 + (th.lix.get k).toNat)

/-- LSZ of level k (R199). -/
def Thread.lszVal (th : Thread) (k : Nat) : Dword := BitVec.ofNat 64 (th.gangs.toNat * 2 ^ 17 + (th.lsz.get k).toNat)

/-- TSTAT (R131). -/
def Thread.tstat (th : Thread) : Dword :=
  BitVec.ofNat 64 (th.tsCode.toNat + th.tsEng.toNat * 256 + (if th.inh then 4096 else 0) + th.sbCount * 2 ^ 16)

/-- DMODE (R119). -/
def Ctx.dmode (c : Ctx) : Dword := BitVec.ofNat 64 ((if c.det then 1 else 0) + (if c.sys then 2 else 0))

/-- A special register as rdsr reads it (R70, R72). -/
def State.special (s : State) (n : Nat) : Dword :=
  let th := s.me
  if n < 8 then (th.pc (engineOf n)).setWidth 64
  else if n = 0x010 then th.slipw.setWidth 64
  else if n = 0x011 then th.lcnt
  else if n = 0x012 then BitVec.ofNat 64 th.lstage
  else if n = 0x013 then th.rrb.setWidth 64
  else if 0x020 ≤ n ∧ n ≤ 0x023 then th.lixVal (n - 0x01F)
  else if 0x028 ≤ n ∧ n ≤ 0x02B then th.lszVal (n - 0x027)
  else if n = 0x030 then th.fpctl
  else if n = 0x031 then (s.ctxs.get th.cid).dmode
  else if n = 0x032 then BitVec.ofNat 64 th.seeds.length
  else if n = 0x038 then th.trapvec
  else if n = 0x039 then th.tstat
  else if n = 0x040 then th.mthr.setWidth 64
  else if n = 0x041 then th.mcntf.setWidth 64
  else if n = 0x042 then th.mcntp.setWidth 64
  else if n = 0x043 then th.mcnte.setWidth 64
  else 0

/-- A special register as wrsr writes it, under its access codes (R112). -/
def Thread.setSpecial (th : Thread) (n : Nat) (v : Dword) : Thread :=
  if n = 0x010 then { th with slipw := slipwOf v }
  else if n = 0x011 then { th with lcnt := v }
  else if n = 0x012 then { th with drain := bits v 0 3 }
  else if n = 0x013 then th.setRrb (bits v 0 4) (th.ordOf .seq)
  else if n = 0x030 then { th with fpctl := v &&& fpctlMask }
  else if n = 0x038 then { th with trapvec := v &&& trapvecMask }
  else if n = 0x040 then { th with mthr := bits v 0 8 }
  else if n = 0x041 then { th with mcntf := bits v 0 32 }
  else if n = 0x042 then { th with mcntp := bits v 0 32 }
  else if n = 0x043 then { th with mcnte := bits v 0 32 }
  else th

/-! ## The words -/

/-- add (R86). -/
def execAdd (d a b : BitVec 6) (s : State) : Out := seqAlu (fun a b => a + b) d a b s

/-- sub (R86). -/
def execSub (d a b : BitVec 6) (s : State) : Out := seqAlu (fun a b => a - b) d a b s

/-- and (R86). -/
def execAnd (d a b : BitVec 6) (s : State) : Out := seqAlu (fun a b => a &&& b) d a b s

/-- or (R86). -/
def execOr (d a b : BitVec 6) (s : State) : Out := seqAlu (fun a b => a ||| b) d a b s

/-- xor (R86). -/
def execXor (d a b : BitVec 6) (s : State) : Out := seqAlu (fun a b => a ^^^ b) d a b s

/-- andn (R86). -/
def execAndn (d a b : BitVec 6) (s : State) : Out := seqAlu (fun a b => a &&& ~~~b) d a b s

/-- shl (R86). -/
def execShl (d a b : BitVec 6) (s : State) : Out := seqAlu (fun a b => a <<< (b.toNat % 64)) d a b s

/-- shr (R86). -/
def execShr (d a b : BitVec 6) (s : State) : Out := seqAlu (fun a b => a >>> (b.toNat % 64)) d a b s

/-- sra (R86). -/
def execSra (d a b : BitVec 6) (s : State) : Out := seqAlu (fun a b => a.sshiftRight (b.toNat % 64)) d a b s

/-- slt (R86). -/
def execSlt (d a b : BitVec 6) (s : State) : Out := seqAlu (fun a b => boolDw (a.slt b)) d a b s

/-- sltu (R86). -/
def execSltu (d a b : BitVec 6) (s : State) : Out := seqAlu (fun a b => boolDw (a.ult b)) d a b s

/-- min (R86). -/
def execMin (d a b : BitVec 6) (s : State) : Out := seqAlu (fun a b => if a.sle b then a else b) d a b s

/-- max (R86). -/
def execMax (d a b : BitVec 6) (s : State) : Out := seqAlu (fun a b => if b.sle a then a else b) d a b s

/-- minu (R86). -/
def execMinu (d a b : BitVec 6) (s : State) : Out := seqAlu (fun a b => if a.ule b then a else b) d a b s

/-- maxu (R86). -/
def execMaxu (d a b : BitVec 6) (s : State) : Out := seqAlu (fun a b => if b.ule a then a else b) d a b s

/-- mul (R86). -/
def execMul (d a b : BitVec 6) (s : State) : Out := seqAlu (fun a b => a * b) d a b s

/-- mulh (R86, R87). -/
def execMulh (d a b : BitVec 6) (s : State) : Out := seqAlu mulhs d a b s

/-- mulhu (R86, R87). -/
def execMulhu (d a b : BitVec 6) (s : State) : Out := seqAlu mulhuu d a b s

/-- div (R86, R87). -/
def execDiv (d a b : BitVec 6) (s : State) : Out := seqAlu divs d a b s

/-- divu (R86, R87). -/
def execDivu (d a b : BitVec 6) (s : State) : Out := seqAlu divuu d a b s

/-- rem (R86, R87). -/
def execRem (d a b : BitVec 6) (s : State) : Out := seqAlu rems d a b s

/-- remu (R86, R87). -/
def execRemu (d a b : BitVec 6) (s : State) : Out := seqAlu remuu d a b s

/-- clz (R86). -/
def execClz (d a : BitVec 6) (s : State) : Out := seqUna clz64 d a s

/-- ctz (R86). -/
def execCtz (d a : BitVec 6) (s : State) : Out := seqUna ctz64 d a s

/-- popc (R86). -/
def execPopc (d a : BitVec 6) (s : State) : Out := seqUna popc64 d a s

/-- addi (R88). -/
def execAddi (d a : BitVec 6) (i : BitVec 12) (s : State) : Out := seqUna (fun a => a + sext64 i) d a s

/-- andi (R88). -/
def execAndi (d a : BitVec 6) (i : BitVec 12) (s : State) : Out := seqUna (fun a => a &&& sext64 i) d a s

/-- ori (R88). -/
def execOri (d a : BitVec 6) (i : BitVec 12) (s : State) : Out := seqUna (fun a => a ||| sext64 i) d a s

/-- xori (R88). -/
def execXori (d a : BitVec 6) (i : BitVec 12) (s : State) : Out := seqUna (fun a => a ^^^ sext64 i) d a s

/-- shli (R88). -/
def execShli (d a n : BitVec 6) (s : State) : Out := seqUna (fun a => a <<< n.toNat) d a s

/-- shri (R88). -/
def execShri (d a n : BitVec 6) (s : State) : Out := seqUna (fun a => a >>> n.toNat) d a s

/-- srai (R88). -/
def execSrai (d a n : BitVec 6) (s : State) : Out := seqUna (fun a => a.sshiftRight n.toNat) d a s

/-- slti (R88). -/
def execSlti (d a : BitVec 6) (i : BitVec 11) (s : State) : Out := seqUna (fun a => boolDw (a.slt (sext64 i))) d a s

/-- sltiu (R88). -/
def execSltiu (d a : BitVec 6) (i : BitVec 11) (s : State) : Out := seqUna (fun a => boolDw (a.ult (sext64 i))) d a s

/-- lui (R89). -/
def execLui (d : BitVec 6) (i : BitVec 18) (s : State) : Out := seqOp d (fun _ => sext64 i <<< 12) s

/-- auipc (R89). -/
def execAuipc (d : BitVec 6) (i : BitVec 18) (s : State) : Out := seqOp d (fun th => (th.seqPc + i * 4).setWidth 64) s

/-- ld.b (R90, R91). -/
def execLdB (d a : BitVec 6) (o : BitVec 9) (s : State) : Out := seqLoad 1 (sextN 8) d a o s

/-- ld.bu (R90, R91). -/
def execLdBu (d a : BitVec 6) (o : BitVec 9) (s : State) : Out := seqLoad 1 (BitVec.ofNat 64) d a o s

/-- ld.h (R90, R91). -/
def execLdH (d a : BitVec 6) (o : BitVec 9) (s : State) : Out := seqLoad 2 (sextN 16) d a o s

/-- ld.hu (R90, R91). -/
def execLdHu (d a : BitVec 6) (o : BitVec 9) (s : State) : Out := seqLoad 2 (BitVec.ofNat 64) d a o s

/-- ld.w (R90, R91). -/
def execLdW (d a : BitVec 6) (o : BitVec 9) (s : State) : Out := seqLoad 4 (sextN 32) d a o s

/-- ld.wu (R90, R91). -/
def execLdWu (d a : BitVec 6) (o : BitVec 9) (s : State) : Out := seqLoad 4 (BitVec.ofNat 64) d a o s

/-- ld.d (R90, R91). -/
def execLdD (d a : BitVec 6) (o : BitVec 9) (s : State) : Out := seqLoad 8 (BitVec.ofNat 64) d a o s

/-- st.b (R90, R91). -/
def execStB (d a : BitVec 6) (o : BitVec 9) (s : State) : Out := seqStore 1 d a o s

/-- st.h (R90, R91). -/
def execStH (d a : BitVec 6) (o : BitVec 9) (s : State) : Out := seqStore 2 d a o s

/-- st.w (R90, R91). -/
def execStW (d a : BitVec 6) (o : BitVec 9) (s : State) : Out := seqStore 4 d a o s

/-- st.d (R90, R91). -/
def execStD (d a : BitVec 6) (o : BitVec 9) (s : State) : Out := seqStore 8 d a o s

/-- cmp.eq (R93). -/
def execCmpEq (d : BitVec 4) (a b : BitVec 6) (s : State) : Out := seqCmp (fun a b => a == b) d a b s

/-- cmp.ne (R93). -/
def execCmpNe (d : BitVec 4) (a b : BitVec 6) (s : State) : Out := seqCmp (fun a b => a != b) d a b s

/-- cmp.lt (R93). -/
def execCmpLt (d : BitVec 4) (a b : BitVec 6) (s : State) : Out := seqCmp (fun a b => a.slt b) d a b s

/-- cmp.ge (R93). -/
def execCmpGe (d : BitVec 4) (a b : BitVec 6) (s : State) : Out := seqCmp (fun a b => b.sle a) d a b s

/-- cmp.ltu (R93). -/
def execCmpLtu (d : BitVec 4) (a b : BitVec 6) (s : State) : Out := seqCmp (fun a b => a.ult b) d a b s

/-- cmp.geu (R93). -/
def execCmpGeu (d : BitVec 4) (a b : BitVec 6) (s : State) : Out := seqCmp (fun a b => b.ule a) d a b s

/-- cmpi.eq (R93). -/
def execCmpiEq (d : BitVec 4) (a : BitVec 6) (i : BitVec 9) (s : State) : Out := seqCmpi (fun a b => a == b) d a i s

/-- cmpi.ne (R93). -/
def execCmpiNe (d : BitVec 4) (a : BitVec 6) (i : BitVec 9) (s : State) : Out := seqCmpi (fun a b => a != b) d a i s

/-- cmpi.lt (R93). -/
def execCmpiLt (d : BitVec 4) (a : BitVec 6) (i : BitVec 9) (s : State) : Out := seqCmpi (fun a b => a.slt b) d a i s

/-- cmpi.ge (R93). -/
def execCmpiGe (d : BitVec 4) (a : BitVec 6) (i : BitVec 9) (s : State) : Out := seqCmpi (fun a b => b.sle a) d a i s

/-- cmpi.ltu (R93). -/
def execCmpiLtu (d : BitVec 4) (a : BitVec 6) (i : BitVec 9) (s : State) : Out := seqCmpi (fun a b => a.ult b) d a i s

/-- cmpi.geu (R93). -/
def execCmpiGeu (d : BitVec 4) (a : BitVec 6) (i : BitVec 9) (s : State) : Out := seqCmpi (fun a b => b.ule a) d a i s

/-- pand (R94). -/
def execPand (d a b : BitVec 4) (s : State) : Out := seqLog (fun a b => a && b) d a b s

/-- por (R94). -/
def execPor (d a b : BitVec 4) (s : State) : Out := seqLog (fun a b => a || b) d a b s

/-- pxor (R94). -/
def execPxor (d a b : BitVec 4) (s : State) : Out := seqLog (fun a b => a != b) d a b s

/-- pandn (R94). -/
def execPandn (d a b : BitVec 4) (s : State) : Out := seqLog (fun a b => a && !b) d a b s

/-- pnot (R94). -/
def execPnot (d a : BitVec 4) (s : State) : Out := seqPred d (fun th => !th.rp a) s

/-- pmov (R94). -/
def execPmov (d a : BitVec 4) (s : State) : Out := seqPred d (fun th => th.rp a) s

/-- br (R96, R97). -/
def execBr (p : BitVec 4) (n : BitVec 1) (o : BitVec 19) (s : State) : Out :=
  finish .seq s (.ok (s.modMe fun th => if th.rp p != (n == 1) then th.jumpTo (th.seqPc + (sext64 o).setWidth 18 * 4) else th))

/-- jal (R96). -/
def execJal (d : BitVec 6) (i : BitVec 18) (s : State) : Out :=
  finish .seq s (.ok (s.modMe fun th => (th.ws .seq d ((th.seqPc + 4).setWidth 64)).jumpTo (th.seqPc + i * 4)))

/-- jalr (R96). -/
def execJalr (d a : BitVec 6) (i : BitVec 12) (s : State) : Out :=
  finish .seq s (.ok (s.modMe fun th =>
    let t : TextAddr := (th.rs .seq a + sext64 i).setWidth 18 &&& ~~~3
    (th.ws .seq d ((th.seqPc + 4).setWidth 64)).jumpTo t))

/-- loop (R98 to R100). -/
def execLoop (c : BitVec 6) (b : BitVec 12) (s : State) : Out := seqLoop (fun th => th.rs .seq c) b 0 false s

/-- loop.rot (R98 to R100). -/
def execLoopRot (c : BitVec 6) (b : BitVec 12) (st : BitVec 3) (s : State) : Out := seqLoop (fun th => th.rs .seq c) b st true s

/-- loopi (R98 to R100). -/
def execLoopi (n : BitVec 6) (b : BitVec 12) (s : State) : Out := seqLoop (fun _ => n.setWidth 64) b 0 false s

/-- loopi.rot (R98 to R100). -/
def execLoopiRot (n : BitVec 6) (b : BitVec 12) (st : BitVec 3) (s : State) : Out := seqLoop (fun _ => n.setWidth 64) b st true s

/-- A pass boundary (R100, R101): SEQ reaches the boundary that stands at the head of its queue; without one there is none to take. -/
def execPassBoundary (t : Nat) (s : State) : Out :=
  match (s.thr t).head .seq with
  | some x => if x.item.isPass then .next (s.modThr t fun th => th.boundary x) else .next s
  | none => .next s

/-- rot (R106). -/
def execRot (a : BitVec 6) (i : BitVec 12) (s : State) : Out :=
  finish .seq s (.ok (s.modMe fun th => th.setRrb (th.rrb - (th.rs .seq a + sext64 i).setWidth 4) (th.ordOf .seq)))

/-- qpush (R107). -/
def execQpush (q : BitVec 4) (a : BitVec 6) (s : State) : Out := finish .seq s (seqPush s q.toNat (s.me.rs .seq a))

/-- qpop (R108). -/
def execQpop (d : BitVec 6) (q : BitVec 4) (s : State) : Out :=
  finish .seq s (match s.me.qs.get q.toNat with
    | [] => holdAt s (.popEmpty q.toNat)
    | v :: _ => .ok (s.modMe fun th => (th.dropS q.toNat).ws .seq d v))

/-- fmt (R109). -/
def execFmt (d a b : BitVec 6) (s : State) : Out :=
  finish .seq s (match fmtWord (s.me.rs .seq a) (s.me.rs .seq b) with
    | none => openTrap s .shape
    | some v => .ok (s.modMe fun th => th.ws .seq d v))

/-- fmt.q (R109). -/
def execFmtQ (a b : BitVec 6) (s : State) : Out :=
  finish .seq s (match fmtWord (s.me.rs .seq a) (s.me.rs .seq b) with
    | none => openTrap s .shape
    | some v => seqPush s 0 v)

/-- mark (R110): its markers were placed when fetch delivered it; SEQ executes it as a no-op. -/
def execMark (_j : BitVec 3) (_m : BitVec 8) (s : State) : Out := finish .seq s (.ok s)

/-- join (R111): fetch stopped at it; SEQ executes it as a no-op. -/
def execJoin (_j : BitVec 3) (s : State) : Out := finish .seq s (.ok s)

/-- rdsr (R112). -/
def execRdsr (d : BitVec 6) (n : BitVec 12) (s : State) : Out := seqOp d (fun _ => s.special n.toNat) s

/-- wrsr (R112). -/
def execWrsr (a : BitVec 6) (n : BitVec 12) (s : State) : Out :=
  finish .seq s (.ok (s.modMe fun th => th.setSpecial n.toNat (th.rs .seq a)))

/-- sel (R95). -/
def execSel (d a b : BitVec 6) (n : BitVec 1) (p : BitVec 4) (s : State) : Out :=
  seqOp d (fun th => if th.rp p != (n == 1) then th.rs .seq a else th.rs .seq b) s

/-- nop (R113). -/
def execNop (s : State) : Out := finish .seq s (.ok s)

/-- brk (R113): raises BREAK before any effect. -/
def execBrk (s : State) : Out := finish .seq s (openTrap s .brk)

/-! ## Device steps of fetch and the queues -/

/-- Fetch hands up to four words to the splitter (R159). -/
def execFetch (t : Nat) (s : State) : Out := .next ((List.range 4).foldl (fun s _ => (s.deliver t).2) s)

/-- Markers at the head of an engine's queue leave it, and a join of their slot lets fetch go on (R110, R165). -/
def execMarkerReachesHead (t e : Nat) (s : State) : Out :=
  .next (s.modThr t fun th => ({ th with iq := th.iq.set e (dropMarkers (th.iq.get e)) }).passJoin)

/-- A stuck set that has stood for 65,536 core clocks raises QUEUE_DEADLOCK (R164). -/
def execQueueDeadlock (t : Nat) (s : State) : Out := .next (s.breakDeadlock t)

end Sys2Proof.Machine
end

