-- ==== Sys2Proof/Machine/Tensor.lean ====
section
/-! DEFINITION. Tensor descriptors (R75 to R77), the access units of a box (R304, R305), the addressing modes (R75, R77, R237), the layout-number check
(R392), and the access of a run of bits of memory. -/

namespace Sys2Proof.Machine

/-! ## Descriptors -/

/-- The fields of a descriptor (R75). -/
structure Desc where
  tid : Nat
  lnum : Nat
  fmt : Nat
  rank : Nat
  am : Nat
  ord : Nat
  slot : Nat
  base : Nat
  ext : List Nat
  ts : List Nat
  swz : Nat
  sd : List Nat
  d0 : Dword
deriving DecidableEq, Repr, Inhabited

/-- The descriptor of eight dwords. -/
def descOf (d : Nat → Dword) : Desc :=
  { tid := field (d 0) 0 16, lnum := field (d 0) 16 16, fmt := field (d 0) 32 5, rank := field (d 0) 37 3, am := field (d 0) 40 2,
    ord := field (d 0) 42 3, slot := field (d 0) 45 8, base := field (d 1) 0 57,
    ext := [field (d 2) 0 32, field (d 2) 32 32, field (d 3) 0 32, field (d 3) 32 32, field (d 4) 0 32],
    ts := [field (d 4) 32 16, field (d 4) 48 16, field (d 5) 0 16, field (d 5) 16 16, field (d 5) 32 16],
    swz := field (d 5) 48 16, sd := [0, field (d 6) 0 32, field (d 6) 32 32, field (d 7) 0 32, field (d 7) 32 32], d0 := d 0 }

/-- The descriptor in a slot of a thread. -/
def Thread.slotDesc (th : Thread) (n : BitVec 3) : Desc := descOf fun i => th.desc n i

/-- Element width in bits. -/
def Desc.w (D : Desc) : Nat := widthOf D.fmt

/-- TSk. -/
def Desc.tsz (D : Desc) (k : Nat) : Nat := D.ts.getD k 0

/-- EXTk. -/
def Desc.extent (D : Desc) (k : Nat) : Nat := D.ext.getD k 0

/-- The swizzle is one that R77 allows. -/
def Desc.swzOk (D : Desc) : Bool :=
  let sb := D.swz % 16
  let sm := D.swz / 16 % 16
  let ss := D.swz / 256 % 16
  sb == 0 || (decide (sb ≤ 6) && decide (4 ≤ sm) && decide (sb ≤ ss))

/-- A byte offset under the swizzle (R77). -/
def Desc.swizzle (D : Desc) (o : Nat) : Nat :=
  let sb := D.swz % 16
  let sm := D.swz / 16 % 16
  let ss := D.swz / 256 % 16
  if sb = 0 then o else o ^^^ (o / 2 ^ (sm + ss) % 2 ^ sb * 2 ^ sm)

/-- The trap of capt (R76): a reserved field, a shape, a misaligned base. -/
def captTrap (d : Nat → Dword) : Option TrapInfo :=
  let D := descOf d
  let unused := (List.range 5).any fun k => decide (D.rank ≤ k) && (D.extent k != 0 || D.tsz k != 0 || D.sd.getD k 0 != 0)
  if bits (d 0) 53 11 ≠ 0 ∨ bits (d 1) 57 7 ≠ 0 ∨ (D.lnum = 0 ∧ D.slot ≠ 0) ∨ 4 ≤ D.ord ∨ D.am = 3 ∨ (eFmt D.fmt).isNone ∨
      (D.am = 1 ∧ D.base ≠ 0) ∨ unused ∨ (D.am ≠ 2 ∧ D.swz ≠ 0) ∨ D.swz / 4096 ≠ 0 then
    some { code := .reservedField, estat := 0, addr := 0, openE := 0xFF, openA := true }
  else if D.rank = 0 ∨ 5 < D.rank ∨ ((List.range D.rank).any fun k => D.extent k == 0 || D.tsz k == 0) ∨ D.tsz 0 * D.w % 8 ≠ 0 ∨ !D.swzOk then
    some { code := .shape, estat := 8, addr := 0 }
  else if D.am ≠ 1 ∧ D.base % 16 ≠ 0 then some { code := .align, estat := 0, addr := BitVec.ofNat 64 D.base }
  else none

/-! ## Access units -/

/-- One access unit (R299): where its bits lie in memory, in pieces, and which bits of the box they are. -/
structure AUnit where
  pieces : List (Port × Nat)
  box : Nat
  bits : Nat
deriving DecidableEq, Repr, Inhabited

/-- The tile number and the element offset of an element, and the elements a tile spans (R237). -/
def Desc.tilePos (D : Desc) (c : List Nat) : Nat × Nat × Nat :=
  let r := (List.range D.rank).foldl (fun (a : Nat × Nat × Nat × Nat) k =>
    let ck := c.getD k 0
    let ts := D.tsz k
    (a.1 + ck / ts * a.2.1, a.2.1 * ((D.extent k + ts - 1) / ts), a.2.2.1 + ck % ts * a.2.2.2, a.2.2.2 * ts)) (0, 1, 0, 1)
  (r.1, r.2.2.1, r.2.2.2)

/-- The pieces of a swizzled run of `n` bits from bit `o` after BASE (R77): each within a granule. -/
def Desc.swzPieces (D : Desc) (o n : Nat) : List (Port × Nat) :=
  (parts 128 o n).map fun p => (Port.lin (8 * D.base + 8 * D.swizzle (p.1 / 8) + p.1 % 8), p.2)

/-- The units of a run of `n` elements along dimension 0 from coordinates `c`, which is bit `box` of the box (R75, R77, R237, R305). -/
def Desc.runUnits (D : Desc) (c : List Nat) (n box : Nat) : List AUnit :=
  let w := D.w
  let o := c.getD 0 0 * w + 128 * (List.range 5).foldl (fun a k => a + D.sd.getD k 0 * c.getD k 0) 0
  if n = 0 then []
  else if D.am = 0 then [{ pieces := [(.lin (8 * D.base + o), n * w)], box := box, bits := n * w }]
  else if D.am = 2 then [{ pieces := D.swzPieces o (n * w), box := box, bits := n * w }]
  else
    (parts (D.tsz 0) (c.getD 0 0) n).map fun p =>
      let x := D.tilePos (c.set 0 p.1)
      { pieces := [(.tile D.tid x.1 (x.2.1 * w) (x.2.2 * w), p.2 * w)], box := box + (p.1 - c.getD 0 0) * w, bits := p.2 * w }

/-- Elements of a row of the box that are in range, from its start (R304). -/
def Desc.inRange (D : Desc) (c : List Nat) : Nat :=
  if (List.range D.rank).any fun k => k != 0 && decide (D.extent k ≤ c.getD k 0) then 0
  else Nat.min (D.tsz 0) (D.extent 0 - c.getD 0 0)

/-- Bytes of one row of the box. -/
def Desc.rowBytes (D : Desc) : Nat := D.tsz 0 * D.w / 8

/-- Rows of the box: the product of TS1 to TS(RANK − 1). -/
def Desc.boxRows (D : Desc) : Nat := (List.range D.rank).foldl (fun n k => if k = 0 then n else n * D.tsz k) 1

/-- Bytes of the box (R304). -/
def Desc.boxBytes (D : Desc) : Nat := D.rowBytes * D.boxRows

/-- The coordinates of row r of the box at origin c: i1 fastest (R305). -/
def Desc.rowAt (D : Desc) (c : List Nat) (r : Nat) : List Nat :=
  ((List.range 5).foldl (fun (a : List Nat × Nat) k =>
    if k = 0 ∨ D.rank ≤ k then (a.1 ++ [c.getD k 0], a.2)
    else (a.1 ++ [c.getD k 0 + a.2 % D.tsz k], a.2 / D.tsz k)) ([], r)).1

/-- The units of row r of the box. -/
def Desc.boxUnits (D : Desc) (c : List Nat) (r : Nat) : List AUnit :=
  let x := D.rowAt c r
  D.runUnits x (D.inRange x) (r * D.rowBytes * 8)

/-! ## Runs of bits in memory -/

/-- Bytes that a run of `n` bits from bit `b` touches. -/
def spanBytes (b n : Nat) : Nat := (b % 8 + n + 7) / 8

/-- Translate the bytes of a port's run (R235, R237). -/
def State.reachPort (s : State) (w : Issuer) (p : Port) (n : Nat) (write : Bool) (ord : Nat) : Except MemStop (List Acc × State) :=
  match p with
  | .lin b => translateParts w.at_ w.cid write ord (parts (2 ^ 16) (b / 8) (spanBytes b n)) s
  | .tile tid t b span => s.reachTile w tid t (b / 8) (spanBytes b n) span write ord
  | _ => .ok ([], s)

/-- Translate and check the bytes of a port's run (R235, R237, R255). -/
def State.accessPort (s : State) (w : Issuer) (p : Port) (n : Nat) (write : Bool) (ord : Nat) : Except MemStop (List Acc × State) := do
  let (as, s) ← s.reachPort w p n write ord
  s.checked w write as

/-- The first bit of a port within its byte. -/
def Port.bitOf : Port → Nat
  | .lin b => b % 8
  | .tile _ _ b _ => b % 8
  | .spad _ b => b % 8
  | .buf b => b % 8
  | _ => 0

/-- A translated piece. -/
structure Piece3 where
  port : Port
  bits : Nat
  accs : List Acc
deriving Repr, Inhabited

/-- Where a port's run begins in its space. -/
def Port.start : Port → Nat
  | .lin b => b
  | .tile _ t b _ => t * 2 ^ 28 + b
  | _ => 0

/-- Insert a numbered piece of a unit by its address. -/
def insertPiece (x : (Port × Nat) × Nat) : List ((Port × Nat) × Nat) → List ((Port × Nat) × Nat)
  | [] => [x]
  | y :: ys => if y.1.1.start ≤ x.1.1.start then y :: insertPiece x ys else x :: y :: ys

/-- Translate numbered pieces in the order given. -/
def State.reachPieces (s : State) (w : Issuer) (write : Bool) (ord : Nat) : List ((Port × Nat) × Nat) → Except MemStop (List (Piece3 × Nat) × State)
  | [] => .ok ([], s)
  | ((p, n), k) :: rest => do
    let (as, s) ← s.reachPort w p n write ord
    let (xs, s) ← s.reachPieces w write ord rest
    pure (({ port := p, bits := n, accs := as }, k) :: xs, s)

/-- Translate every piece of a unit in increasing address, then check the tokens of its bytes in increasing address; none is performed unless all translate
(R235, R255), and it waits while no path leads to a home (R418). The pieces are answered in the order given. -/
def State.accessPieces (s : State) (w : Issuer) (write : Bool) (ord : Nat) (l : List (Port × Nat)) : Except MemStop (List Piece3 × State) := do
  let (xs, s) ← s.reachPieces w write ord (l.zipIdx.foldl (fun a x => insertPiece x a) [])
  match xs.findSome? fun x => s.checkAccs w write x.1.accs with
  | some m => .error m
  | none =>
    if !xs.all fun x => x.1.accs.all (s.accOpen w.die write) then .error (.migrating none)
    else pure ((List.range l.length).map fun k => match xs.find? fun x => x.2 == k with | some x => x.1 | none => default, s)

/-- Take `n` bits from bit `b` of bytes. -/
def takeBits (bs : List Byte) (b n : Nat) : Nat := leNat bs / 2 ^ b % 2 ^ n

/-- Put `n` bits of `v` at bit `b` of bytes. -/
def mergeBits (old : List Byte) (b n v : Nat) : List Byte :=
  let x := leNat old
  leBytes old.length (x - x / 2 ^ b % 2 ^ n * 2 ^ b + v % 2 ^ n * 2 ^ b)

/-- Load a translated piece: its bits, poison and taint of a token piece (R269, R457). -/
def State.loadPiece (s : State) (w : Issuer) (p : Piece3) : (Nat × Bool × Bool) × State :=
  let piece := s.accsTaint w p.accs
  let x := s.loadAccs w p.accs
  ((takeBits x.1.1 p.port.bitOf p.bits, x.1.2, piece), x.2)

/-- Load the pieces of a unit, the first in the low bits. -/
def State.loadPieces (s : State) (w : Issuer) : List Piece3 → (Nat × Bool × Bool) × State
  | [] => ((0, false, false), s)
  | p :: ps =>
    let x := s.loadPiece w p
    let y := x.2.loadPieces w ps
    ((x.1.1 + y.1.1 * 2 ^ p.bits, x.1.2.1 || y.1.2.1, x.1.2.2 || y.1.2.2), y.2)

/-- The bytes a store of `n` bits writes: whole bytes as they are, a part of a byte merged with what the copy holds. -/
def State.pieceBytes (s : State) (w : Issuer) (p : Piece3) (v : Nat) : List Byte :=
  let n := spanBytes p.port.bitOf p.bits
  if p.port.bitOf = 0 ∧ p.bits % 8 = 0 then leBytes n v
  else mergeBits (s.loadAccs w p.accs).1.1 p.port.bitOf p.bits v

/-- Store the pieces of a unit now (R277, R278). -/
def State.storePieces (s : State) (w : Issuer) : List Piece3 → Nat → State
  | [], _ => s
  | p :: ps, v => (s.storeAccs w p.accs (s.pieceBytes w p (v % 2 ^ p.bits))).storePieces w ps (v / 2 ^ p.bits)

/-- Put `n` bits of `v` at bit `b` of a byte table. -/
def putBits (t : Tab Byte) (b n v : Nat) : Tab Byte :=
  t.setRange (b / 8) (mergeBits (t.getRange (b / 8) (spanBytes b n)) (b % 8) n v)

/-- Take `n` bits from bit `b` of a byte table. -/
def getBits (t : Tab Byte) (b n : Nat) : Nat := takeBits (t.getRange (b / 8) (spanBytes b n)) (b % 8) n

/-! ## The layout-number check (R392) -/

/-- The state code of a layout slot. -/
def SlotSt.code : SlotSt → Nat
  | .empty => 0 | .stable => 1 | .resharding => 2 | .aborted => 3

/-- A slot's layout number. -/
def LSlot.lnum (l : LSlot) : Nat := field l.lw 0 16

/-- The check for a word that uses a descriptor with LNUM ≠ 0: nothing to say, a wait, or STALE_LAYOUT. -/
inductive LayoutSays where
  | ok | wait | stale (i : TrapInfo)
deriving DecidableEq, Repr

/-- STALE_LAYOUT. -/
def staleLayout (cause slot lnum : Nat) (d0 : Dword) : TrapInfo :=
  { code := .staleLayout, estat := BitVec.ofNat 64 (cause + slot * 256 + lnum * 2 ^ 32), addr := d0 }

/-- The check on a die for a context. -/
def State.layoutCheck (s : State) (die cid : Nat) (D : Desc) : LayoutSays :=
  if D.lnum = 0 then .ok
  else
    let l := s.slots.get (slotKey die cid D.slot)
    match l.st with
    | .resharding => .wait
    | .empty => .stale (staleLayout 3 D.slot l.lnum D.d0)
    | .aborted => .stale (staleLayout 2 D.slot l.lnum D.d0)
    | .stable => if l.lnum = D.lnum then .ok else .stale (staleLayout 1 D.slot l.lnum D.d0)

/-- The check inside a word of the current thread. -/
def State.layoutGate (s : State) (D : Desc) : Except Exit Unit :=
  let th := s.thr s.cur
  match s.layoutCheck th.die th.cid D with
  | .ok => .ok ()
  | .wait => holdAt s .outside
  | .stale i => .error (.trap i s)

end Sys2Proof.Machine
end

