-- ==== Sys2Proof/Machine/Adr.lean ====
section
/-! DEFINITION. ADR (chapter The Access Engine): descriptor capture, tile, gathered, strided and scalar transfers, atomics and their ordering units,
prefetch, fences and handle waits. -/

namespace Sys2Proof.Machine

/-! ## Traps and waits of ADR words -/

/-- SHAPE with a cause of R302. -/
def adrShape {α : Type} (s : State) (cause : Nat) (addr : Dword) : Except Exit α := trapAt s .shape (BitVec.ofNat 64 cause) addr

/-- SHAPE of a plain scratchpad operand (R300, R302). -/
def adrBad (op : Dword) : TrapInfo := { code := .shape, estat := 3, addr := op }

/-- VEC is held at its word: a hold at a queue that has since changed is none. -/
def Thread.vecHeld (th : Thread) : Bool :=
  match th.held.get 2 with
  | none => false
  | some (.popEmpty q) => th.qlen q == 0
  | some (.pushFull q) => th.qfull q
  | some _ => true

/-- VEC can take nothing more from q2: it is empty, or VEC is held at a word (R244). -/
def Thread.adrQuiet (th : Thread) : Bool := th.qlen 2 == 0 || th.vecHeld

/-- The number of the halted unit in ESTAT; of a trap whose CAUSE no rule gives, bits 7:0 are open (R302). -/
def unitInfo (unit : Nat) (i : TrapInfo) : TrapInfo :=
  match i.code with
  | .pageFault => { i with estat := i.estat + BitVec.ofNat 64 (unit * 2 ^ 32) }
  | .tileFault => { i with estat := i.estat + BitVec.ofNat 64 (unit * 2 ^ 32) }
  | .remoteHomeLost => { i with estat := BitVec.ofNat 64 (unit * 2 ^ 32), openE := 0xFF }
  | .uncorrectable => { i with estat := BitVec.ofNat 64 (unit * 2 ^ 32), openE := 0xFF }
  | _ => i

/-- A unit that does not translate: it waits for a migration, or ADR halts at it and its trap is raised once q2 is empty or VEC is held (R241, R244). -/
def adrHalt {α : Type} (s : State) (m : MemStop) : Except Exit α :=
  match m with
  | .migrating va => holdAt s (pageWait va)
  | .fault i _ =>
    let i := unitInfo s.me.adr.unit i
    if s.me.adrQuiet then .error (.trap i s)
    else .error (.hold .outside (s.modMe fun th => { th with adrTrap := some i }))

/-- A word of ADR: while it is halted at a unit, it waits to raise that unit's trap (R244). -/
def adrWord (s : State) (body : Except Exit State) : Out :=
  finish .adr s (match s.me.adrTrap with
    | some i => if s.me.adrQuiet then .error (.trap i (s.modMe fun th => { th with adrTrap := none })) else holdAt s .outside
    | none => body)

/-- The word is complete: nothing of its progress is kept. -/
def State.adrDone (s : State) : State := s.modMe fun th => { th with adr := default }

/-- The word has still to make its checks. -/
def Thread.adrFresh (th : Thread) : Bool := !th.adr.checked

/-- The checks that a word makes once, before its first unit (R301). -/
def adrOnce (s : State) (r : Except Exit Unit) : Except Exit State :=
  if s.me.adrFresh then do
    r
    .ok (s.modMe fun th => { th with adr := { th.adr with checked := true } })
  else .ok s

/-- ADR's issuer. -/
def State.adrIssuer (s : State) : Issuer := s.issuer s.cur .adr

/-- One unit has been performed. -/
def Thread.unitDone (th : Thread) : Thread := { th with adr := { th.adr with unit := th.adr.unit + 1, sub := th.adr.sub + 1 } }

/-- A row has been performed. -/
def Thread.rowDone (th : Thread) : Thread := { th with adr := { th.adr with row := th.adr.row + 1, sub := 0, index := none } }

/-! ## Scratchpad operands -/

/-- An operand moved on by `d` bytes: a plain address, or the offset of a ring-relative one; none when the field cannot hold it. -/
def shiftOp (op : Dword) (d : Int) : Option Dword :=
  let x : Int := (field op 0 23 : Int) + d
  if x < 0 ∨ 2 ^ 23 ≤ x then none else some ((op &&& ~~~(0x7FFFFF : Dword)) ||| BitVec.ofNat 64 x.toNat)

/-- The physical address of [op + d, + z) (R220, R300). -/
def adrPlace (s : State) (op : Dword) (d : Int) (z : Nat) : Except Exit Nat :=
  match shiftOp op d with
  | none => .error (.trap (if flag op 63 then ringRange (field op 56 3) op else adrBad op) s)
  | some x =>
    match s.spadOperand s.cur .adr x z (adrBad op) with
    | .error (.trap i s) => .error (.trap { i with addr := op } s)
    | r => r

/-- Check 3 of R301 on an operand of `z` bytes: a plain one as a whole, a ring-relative one as to its fields and party. -/
def adrOperand (s : State) (op : Dword) (z : Nat) : Except Exit Nat := s.spadOperand s.cur .adr op (if flag op 63 then 0 else z) (adrBad op)

/-- Alignment of an address of ADR (R302). -/
def adrAlign (s : State) (a n : Nat) : Except Exit Unit :=
  if a % n ≠ 0 then trapAt s .align 0 (BitVec.ofNat 64 a) else .ok ()

/-- Check 5 of R301. -/
def adrPhase (s : State) (a n : Nat) (write : Bool) : Except Exit Unit :=
  match s.phaseCheck s.cur .adr a n write with
  | some i => .error (.trap i s)
  | none => .ok ()

/-! ## Queue ends -/

/-- Push a row to q2, waiting while it is full. -/
def adrPushRow (s : State) (r : Row) : Except Exit State :=
  if s.me.qfull 2 then holdAt s (.pushFull 2)
  else .ok (s.modMe fun th => { th.pushR 2 r with adr := { th.adr with pushed := th.adr.pushed + 1 } })

/-- Push the rows of the packed result up to row `n` (R306); `fuel` bounds them. -/
def adrPushTo (n : Nat) : Nat → State → Except Exit State
  | 0, s => .ok s
  | fuel + 1, s =>
    let a := s.me.adr
    if n ≤ a.pushed then .ok s
    else do
      let s ← adrPushRow s (rowOfBytes (a.bytes.getRange (512 * a.pushed) 512))
      adrPushTo n fuel s

/-- Pop rows from q3 until `n` rows of the word have been popped, waiting while it is empty (R306). -/
def adrPopTo (n : Nat) : Nat → State → Except Exit State
  | 0, s => .ok s
  | fuel + 1, s =>
    if n ≤ s.me.adr.rows.length then .ok s
    else
      match s.me.qr.get 3 with
      | [] => holdAt s (.popEmpty 3)
      | r :: _ => adrPopTo n fuel (s.modMe fun th => { th.dropR 3 with adr := { th.adr with rows := th.adr.rows ++ [r] } })

/-- Push a scalar to q8, waiting while it is full. -/
def adrPush8 (s : State) (v : Dword) : Except Exit State :=
  if s.me.qfull 8 then holdAt s (.pushFull 8) else .ok (s.modMe fun th => th.pushS 8 v)

/-! ## Units -/

/-- A store of ADR to a page that is not strong may stand issued and unperformed: the device chooses (DESIGN CHOICE, log entry 6). -/
def State.adrStore (s : State) (w : Issuer) (p : Piece3) (bs : List Byte) : State :=
  match s.choice with
  | true :: rest =>
    let s := { s with choice := rest }
    (p.accs.foldl (fun (x : State × List Byte) a =>
      let here := x.2.take a.len
      let s := if a.ord = 1 then x.1.storeAcc w a here
        else { x.1 with posted := x.1.posted ++ [{ thread := x.1.cur, eng := .adr, die := w.die, pa := a.pa, bytes := here,
                                                   ord := BitVec.ofNat 2 a.ord, fences := x.1.me.fences, cid := w.cid,
                                                   rkey := a.rkey + 1 }] }
      (s, x.2.drop a.len)) (s, bs)).1
  | _ => { s with choice := s.choice.tail }.storeAccs w p.accs bs

/-- Store the pieces of a unit. -/
def State.adrStores (s : State) (w : Issuer) : List Piece3 → Nat → State
  | [], _ => s
  | p :: ps, v => (s.adrStore w p (s.pieceBytes w p (v % 2 ^ p.bits))).adrStores w ps (v / 2 ^ p.bits)

/-- Perform a load unit: its bits go into the packed result, and to scratchpad when `dst` names it (R299, R306). -/
def adrLoadUnit (s : State) (dst : Option Dword) (ord : Nat) (u : AUnit) : Except Exit State := do
  let b := u.box / 8
  let n := spanBytes u.box u.bits
  let place ← match dst with | some op => adrPlace s op b n | none => .ok 0
  let w := s.adrIssuer
  match s.accessPieces w false ord u.pieces with
  | .error m => adrHalt s m
  | .ok (ps, s) =>
    let x := s.loadPieces w ps
    let s := x.2.readTaint s.cur .adr x.1.2.1 x.1.2.2
    let s := s.modMe fun th => { th with adr := { th.adr with bytes := putBits th.adr.bytes u.box u.bits x.1.1 } }
    let s := match dst with
      | some _ => s.spadIssue s.cur .adr place (s.me.adr.bytes.getRange b n) 4
      | none => s
    .ok (s.modMe Thread.unitDone)

/-- The bits that a store unit stores: from scratchpad, sampled now, or from the popped rows (R306, R288). -/
def adrSource (s : State) (src : Option Dword) (u : AUnit) : Except Exit (Nat × State) := do
  let b := u.box / 8
  let n := spanBytes u.box u.bits
  match src with
  | some op =>
    let a ← adrPlace s op b n
    let x ← s.spadRead s.cur .adr a n
    .ok (takeBits x.1 (u.box % 8) u.bits, s.readTaint s.cur .adr x.2 false)
  | none =>
    let s ← adrPopTo ((b + n + 511) / 512) ((b + n) / 512 + 1) s
    let rows := s.me.adr.rows
    let first := b / 512
    let bs := ((rows.drop first).take (n / 512 + 2)).flatMap rowBytes
    .ok (takeBits bs (u.box - first * 4096) u.bits, s)

/-- Perform a store unit. -/
def adrStoreUnit (s : State) (src : Option Dword) (ord : Nat) (u : AUnit) : Except Exit State := do
  let (v, s) ← adrSource s src u
  let w := s.adrIssuer
  match s.accessPieces w true ord u.pieces with
  | .error m => adrHalt s m
  | .ok (ps, s) => .ok ((s.adrStores w ps v).modMe Thread.unitDone)

/-- The units of a row still to perform. -/
def adrUnits (f : State → AUnit → Except Exit State) : List AUnit → State → Except Exit State
  | [], s => .ok s
  | u :: us, s => do
    let s ← f s u
    adrUnits f us s

/-- Rows of a transfer from the row it stands at; `units` gives a row's units, `close` ends a row. -/
def adrRows (n : Nat) (units : State → Nat → Except Exit (List AUnit × State)) (f : State → AUnit → Except Exit State)
    (close : State → Nat → List AUnit → Except Exit State) : Nat → State → Except Exit State
  | 0, s => .ok s
  | fuel + 1, s =>
    let a := s.me.adr
    if n ≤ a.row then .ok s
    else do
      let (us, s) ← units s a.row
      let s ← adrUnits f (us.drop a.sub) s
      let s ← close s a.row us
      adrRows n units f close fuel (s.modMe Thread.rowDone)

/-- Bits of a row of `R` bytes that its units cover, from its start. -/
def coveredBits (us : List AUnit) : Nat := us.foldl (fun n u => n + u.bits) 0

/-- A row of a load ends: to scratchpad, its bytes out of range are written as zero; to q2, the complete rows of the result are pushed (R306). -/
def adrCloseLoad (dst : Option Dword) (R : Nat) (s : State) (r : Nat) (us : List AUnit) : Except Exit State :=
  match dst with
  | some op =>
    let lo := (coveredBits us + 7) / 8
    if lo < R then do
      let a ← adrPlace s op (r * R + lo) (R - lo)
      .ok (s.spadIssue s.cur .adr a (List.replicate (R - lo) 0) 4)
    else .ok s
  | none => adrPushTo ((r + 1) * R / 512) (R / 512 + 2) s

/-- The rows of a load of `n` rows of `R` bytes. -/
def adrLoadRows (s : State) (dst : Option Dword) (ord n R : Nat) (units : State → Nat → Except Exit (List AUnit × State)) : Except Exit State := do
  let s ← adrRows n units (fun s u => adrLoadUnit s dst ord u) (adrCloseLoad dst R) (n + 1) s
  let s ← match dst with | some _ => .ok s | none => adrPushTo ((n * R + 511) / 512) 2 s
  .ok s.adrDone

/-- The rows of a store. -/
def adrStoreRows (s : State) (src : Option Dword) (ord n R : Nat) (units : State → Nat → Except Exit (List AUnit × State)) : Except Exit State := do
  let s ← adrRows n units (fun s u => adrStoreUnit s src ord u) (fun s _ _ => .ok s) (n + 1) s
  let s ← match src with | some _ => .ok s | none => adrPopTo ((n * R + 511) / 512) ((n * R + 511) / 512 + 1) s
  .ok s.adrDone

/-! ## Boxes (R304 to R306) -/

/-- The coordinates of a box word. -/
def boxCoords (th : Thread) (a : BitVec 6) : List Nat :=
  let x := fun k => th.run .adr a k
  [field (x 0) 0 32, field (x 1) 0 32, field (x 2) 0 32, field (x 3) 0 32, field (x 3) 32 32]

/-- Check 1 of R301 on a box word: the first operand scalar that fails. -/
def boxBad (th : Thread) (D : Desc) (a : BitVec 6) : Option Dword :=
  let c := boxCoords th a
  let extra := fun k => decide (D.rank ≤ k) && c.getD k 0 != 0
  (List.range 4).findSome? fun k =>
    let x := th.run .adr a k
    if (k ≠ 3 ∧ bits x 32 32 ≠ 0) ∨ extra k ∨ (k = 3 ∧ extra 4) then some x else none

/-- Checks 1 to 5 of R301 for tld and tst. -/
def boxChecks (s : State) (D : Desc) (a : BitVec 6) (op : Option Dword) (write : Bool) : Except Exit Unit := do
  match boxBad s.me D a with
  | some x => adrShape s 1 x
  | none =>
    if D.rank ≠ 0 ∧ 2 ^ 23 < D.boxBytes then adrShape s 1 (s.me.run .adr a 0)
    else if D.rank = 0 then adrShape s 2 0
    else
      let place ← match op with
        | some x => (do
          let p ← adrOperand s x D.boxBytes
          if !flag x 63 then adrAlign s p 16
          .ok p)
        | none => .ok 0
      s.layoutGate D
      match op with
      | some _ => adrPhase s place D.boxBytes write
      | none => .ok ()

/-- tld (R304 to R306). -/
def adrTld (dst : Option (BitVec 6)) (n : BitVec 3) (a : BitVec 6) (s : State) : Out :=
  adrWord s (do
    let D := s.me.slotDesc n
    let op := dst.map fun d => s.me.rs .adr d
    let s ← adrOnce s (boxChecks s D a op true)
    let c := boxCoords s.me a
    adrLoadRows s op D.ord D.boxRows D.rowBytes fun s r => .ok (D.boxUnits c r, s))

/-- tst (R304 to R306). -/
def adrTst (src : Option (BitVec 6)) (n : BitVec 3) (a : BitVec 6) (s : State) : Out :=
  adrWord s (do
    let D := s.me.slotDesc n
    let op := src.map fun d => s.me.rs .adr d
    let s ← adrOnce s (boxChecks s D a op false)
    let c := boxCoords s.me a
    adrStoreRows s op D.ord D.boxRows D.rowBytes fun s r => .ok (D.boxUnits c r, s))

/-! ## Gathers and scatters (R307, R308) -/

/-- Check 1 of R301 on gld and gst. -/
def gathBad (th : Thread) (D : Desc) (a : BitVec 6) : Option Dword :=
  let x := fun k => th.run .adr a k
  let cnt := field (x 1) 0 32
  if bits (x 1) 32 32 ≠ 0 ∨ cnt = 0 ∨ 65536 < cnt ∨ 2 ^ 23 < cnt * D.rowBytes then some (x 1)
  else if (D.rank ≤ 2 ∧ bits (x 2) 32 32 ≠ 0) ∨ (D.rank = 0 ∧ bits (x 2) 0 32 ≠ 0) then some (x 2)
  else if bits (x 3) 32 32 ≠ 0 ∨ (D.rank ≤ 3 ∧ bits (x 3) 0 32 ≠ 0) then some (x 3)
  else none

/-- Checks 1 to 5 of R301 for gld and gst. -/
def gathChecks (s : State) (D : Desc) (a : BitVec 6) (op : Option Dword) (write : Bool) : Except Exit Unit := do
  let cnt := field (s.me.run .adr a 1) 0 32
  match gathBad s.me D a with
  | some x => adrShape s 1 x
  | none =>
    if D.rank = 0 then adrShape s 2 0
    else if D.rank < 2 ∨ 4 < D.rank then adrShape s 4 0
    else
      let il ← adrOperand s (s.me.run .adr a 0) (4 * cnt)
      adrAlign s il 4
      let place ← match op with
        | some x => (do
          let p ← adrOperand s x (cnt * D.rowBytes)
          adrAlign s p 16
          .ok p)
        | none => .ok 0
      s.layoutGate D
      adrPhase s il (4 * cnt) false
      match op with
      | some _ => adrPhase s place (cnt * D.rowBytes) write
      | none => .ok ()

/-- The index of row j, read when the row is issued and kept until the row is done (R307). -/
def gathIndex (a : BitVec 6) (s : State) (j : Nat) : Except Exit (Nat × State) :=
  match s.me.adr.index with
  | some x => .ok (x, s)
  | none => do
    let p ← adrPlace s (s.me.run .adr a 0) (4 * j) 4
    let x ← s.spadRead s.cur .adr p 4
    let s := s.readTaint s.cur .adr x.2 false
    .ok (leNat x.1, s.modMe fun th => { th with adr := { th.adr with index := some (leNat x.1) } })

/-- The units of row j (R307). -/
def gathUnits (D : Desc) (a : BitVec 6) (s : State) (j : Nat) : Except Exit (List AUnit × State) := do
  let (i, s) ← gathIndex a s j
  let y := fun k => s.me.run .adr a k
  let c := [field (y 2) 0 32, i, field (y 2) 32 32, field (y 3) 0 32, 0]
  .ok (D.runUnits c (D.inRange c) (j * D.rowBytes * 8), s)

/-- gld (R307). -/
def adrGld (dst : Option (BitVec 6)) (n : BitVec 3) (a : BitVec 6) (s : State) : Out :=
  adrWord s (do
    let D := s.me.slotDesc n
    let op := dst.map fun d => s.me.rs .adr d
    let s ← adrOnce s (gathChecks s D a op true)
    adrLoadRows s op D.ord (field (s.me.run .adr a 1) 0 32) D.rowBytes (gathUnits D a))

/-- gst (R307, R308). -/
def adrGst (src : Option (BitVec 6)) (n : BitVec 3) (a : BitVec 6) (s : State) : Out :=
  adrWord s (do
    let D := s.me.slotDesc n
    let op := src.map fun d => s.me.rs .adr d
    let s ← adrOnce s (gathChecks s D a op false)
    adrStoreRows s op D.ord (field (s.me.run .adr a 1) 0 32) D.rowBytes (gathUnits D a))

/-! ## Strided rows (R309) -/

/-- Check 1 of R301 on a row word: stride, count, row bytes. -/
def rowsBad (th : Thread) (a : BitVec 6) : Option Dword :=
  let x := fun k => th.run .adr a k
  let L := field (x 3) 0 32
  let cnt := field (x 2) 0 32
  if field (x 1) 0 4 ≠ 0 then some (x 1)
  else if bits (x 2) 32 32 ≠ 0 ∨ cnt = 0 ∨ 65536 < cnt then some (x 2)
  else if bits (x 3) 32 32 ≠ 0 ∨ L % 16 ≠ 0 ∨ L < 16 ∨ 512 < L then some (x 3)
  else none

/-- Where row r begins, from row 0. -/
def rowStep (th : Thread) (a : BitVec 6) (r : Nat) : Int := (th.run .adr a 1).toInt * r

/-- The memory unit of row r, or PAGE_FAULT where its address lies outside linear memory. -/
def memRow (a : BitVec 6) (s : State) (r : Nat) (write : Bool) : Except Exit AUnit :=
  let x : Int := ((s.me.run .adr a 0).toNat : Int) + rowStep s.me a r
  if x < 0 ∨ (2 ^ 57 : Int) ≤ x then adrHalt s (pageFault 1 write (BitVec.ofInt 64 x).toNat)
  else .ok { pieces := [(.lin (8 * x.toNat), 8 * field (s.me.run .adr a 3) 0 32)], box := 4096 * r, bits := 8 * field (s.me.run .adr a 3) 0 32 }

/-- vld (R309): one row a unit, pushed with zeros beyond its bytes. -/
def vldRows (a : BitVec 6) (n : Nat) : Nat → State → Except Exit State
  | 0, s => .ok s.adrDone
  | fuel + 1, s => do
    let r := s.me.adr.row
    if n ≤ r then .ok s.adrDone
    else if s.me.qfull 2 then holdAt s (.pushFull 2)
    else
      let u ← memRow a s r false
      let w := s.adrIssuer
      match s.accessPieces w false 0 u.pieces with
      | .error m => adrHalt s m
      | .ok (ps, s) =>
        let x := s.loadPieces w ps
        let s := x.2.readTaint s.cur .adr x.1.2.1 x.1.2.2
        vldRows a n fuel (s.modMe fun th => (th.pushR 2 (BitVec.ofNat 4096 x.1.1)).unitDone.rowDone)

/-- vst (R309): one row popped a unit. -/
def vstRows (a : BitVec 6) (n : Nat) : Nat → State → Except Exit State
  | 0, s => .ok s.adrDone
  | fuel + 1, s => do
    let r := s.me.adr.row
    if n ≤ r then .ok s.adrDone
    else
      let s ← adrPopTo (r + 1) 2 s
      let u ← memRow a s r true
      let w := s.adrIssuer
      match s.accessPieces w true 0 u.pieces with
      | .error m => adrHalt s m
      | .ok (ps, s) =>
        vstRows a n fuel ((s.adrStores w ps ((s.me.adr.rows.getD r 0).toNat % 2 ^ u.bits)).modMe fun th => th.unitDone.rowDone)

/-- Checks of vld and vst. -/
def memRowChecks (s : State) (a : BitVec 6) : Except Exit Unit :=
  match rowsBad s.me a with
  | some x => adrShape s 1 x
  | none => adrAlign s (s.me.run .adr a 0).toNat 16

/-- Checks of sld.row and sst.row. -/
def spadRowChecks (s : State) (a : BitVec 6) (write : Bool) : Except Exit Unit := do
  match rowsBad s.me a with
  | some x => adrShape s 1 x
  | none =>
    let op := s.me.run .adr a 0
    let cnt := field (s.me.run .adr a 2) 0 32
    let L := field (s.me.run .adr a 3) 0 32
    let p ← adrOperand s op L
    adrAlign s p 16
    if flag op 63 then .ok ()
    else
      let far := rowStep s.me a (cnt - 1)
      if (p : Int) + far < 0 ∨ (2 ^ 23 : Int) < p + far + L then adrShape s 3 op
      else
        let order := if far < 0 then (List.range cnt).reverse else List.range cnt
        match order.findSome? fun r => s.phaseCheck s.cur .adr ((p : Int) + rowStep s.me a r).toNat L write with
        | some i => .error (.trap i s)
        | none => .ok ()

/-- sld.row (R309). -/
def sldRows (a : BitVec 6) (n : Nat) : Nat → State → Except Exit State
  | 0, s => .ok s.adrDone
  | fuel + 1, s => do
    let r := s.me.adr.row
    if n ≤ r then .ok s.adrDone
    else if s.me.qfull 2 then holdAt s (.pushFull 2)
    else
      let L := field (s.me.run .adr a 3) 0 32
      let p ← adrPlace s (s.me.run .adr a 0) (rowStep s.me a r) L
      let x ← s.spadRead s.cur .adr p L
      let s := s.readTaint s.cur .adr x.2 false
      sldRows a n fuel (s.modMe fun th => (th.pushR 2 (rowOfBytes x.1)).unitDone.rowDone)

/-- sst.row (R309). -/
def sstRows (a : BitVec 6) (n : Nat) : Nat → State → Except Exit State
  | 0, s => .ok s.adrDone
  | fuel + 1, s => do
    let r := s.me.adr.row
    if n ≤ r then .ok s.adrDone
    else
      let s ← adrPopTo (r + 1) 2 s
      let L := field (s.me.run .adr a 3) 0 32
      let p ← adrPlace s (s.me.run .adr a 0) (rowStep s.me a r) L
      let s := s.spadIssue s.cur .adr p ((rowBytes (s.me.adr.rows.getD r 0)).take L) 4
      sstRows a n fuel (s.modMe fun th => th.unitDone.rowDone)

/-! ## Scalars (R310) -/

/-- The access size of a width code (R90). -/
def widthBytes (c : BitVec 3) : Nat := 2 ^ (c.toNat / 2)

/-- Extension of a loaded value under a width code (R91). -/
def widthExt (c : BitVec 3) (x : Nat) : Dword :=
  if c = 6 ∨ c.toNat % 2 = 1 then BitVec.ofNat 64 x else sextN (8 * widthBytes c) x

/-! ## Atomics (R292 to R294, R311, R312) -/

/-- The operands of an atomic word. -/
structure AtomArgs where
  op : Nat
  size : Nat
  spad : Bool
  ret : Bool
  scope : Nat
  addr : Dword
  v : Nat
  c : Nat

/-- The operands as the word names them. -/
def atomArgs (s : State) (op : Nat) (a : BitVec 6) (c : BitVec 3) (r p z : BitVec 1) : AtomArgs :=
  let size := if z = 1 then 8 else 4
  { op := op, size := size, spad := p == 1, ret := r == 1, scope := c.toNat, addr := s.me.run .adr a 0,
    v := field (s.me.run .adr a 1) 0 64 % 2 ^ (8 * size), c := if op = 7 then field (s.me.run .adr a 2) 0 64 % 2 ^ (8 * size) else 0 }

/-- The release half of an atomic of scope σ (R292): what the thread issued before is performed at σ. -/
def atomRelease (s : State) (scope : Nat) : Except Exit State :=
  if scope = 0 then .ok s
  else if s.anyUnperformed s.cur || (decide (scope = 4) && s.homesAway s.me.die) then holdAt s .outside
  else
    let s := s.drainThread s.cur
    .ok (if scope = 4 then s.domainRelease s.me.die s.me.cid else s)

/-- The acquire half. -/
def atomAcquire (s : State) (scope : Nat) : State := if scope = 0 then s else if scope = 4 then s.acquire s.cur else s.modMe Thread.fenced

/-- The scratchpad address of an atomic, checked (R300, R311). -/
def atomPlace (s : State) (x : AtomArgs) : Except Exit Nat := do
  let p ← s.spadOperand s.cur .adr x.addr x.size (adrBad x.addr)
  adrAlign s p x.size
  adrPhase s p x.size true
  .ok p

/-- An atomic of the word is under way: what it has come to is cleared. -/
def Thread.atomClear (th : Thread) : Thread := { th with atomoSent := false, atomoOld := none, atomoFail := none, atomBegun := none }

/-- The operands of an atomic on scratchpad are issued: it is performed, or comes to its ordering unit, 6 clocks later (R289). -/
def State.issueAtom (s : State) (act : SpadAct) (a n : Nat) : State :=
  (s.spadAct s.cur .adr act a (List.replicate n 0) 6).modMe fun th => { th.atomClear with atomoSent := true }

/-- The end of an atomic that has its result (R311). -/
def atomEnd (s : State) (x : AtomArgs) (v : Dword) : Except Exit State := do
  let s ← if x.ret then adrPush8 s v else .ok s
  .ok (atomAcquire (s.modMe Thread.atomClear) x.scope).adrDone

/-- An atomic on scratchpad waits for the earlier writes of the same ADR to its operand (R288, R292). -/
def atomOwn (s : State) (a n : Nat) : Except Exit Unit := if s.ownUnperformed s.cur .adr a n then holdAt s .outside else .ok ()

/-- An atom on scratchpad: issued once, performed 6 clocks later, when it reads its operand, then it has its result (R288, R289, R291, R292). -/
def atomSpad (s : State) (x : AtomArgs) : Except Exit State := do
  if s.me.atomoSent then
    match s.me.atomoFail, s.me.atomoOld with
    | some i, _ => .error (.trap i (s.modMe Thread.atomClear))
    | none, some v => atomEnd s x v
    | none, none => holdAt s .outside
  else
    let p ← atomPlace s x
    let s ← atomRelease s x.scope
    if x.ret ∧ s.me.qfull 8 then holdAt s (.pushFull 8)
    else
      atomOwn s p x.size
      .error (.hold .outside ((s.issueAtom (.atom x.op x.v x.c) p x.size).modMe fun th => { th with atomBegun := some (x.ret, x.scope == 4) }))

/-- An atom on memory: performed at home (R292, R311). -/
def atomMem (s : State) (x : AtomArgs) : Except Exit State := do
  adrAlign s x.addr.toNat x.size
  let s ← atomRelease s x.scope
  if x.ret ∧ s.me.qfull 8 then holdAt s (.pushFull 8)
  else
    let w := s.adrIssuer
    match s.accessLin w x.addr.toNat x.size true 0 with
    | .error m => adrHalt s m
    | .ok (as, s) =>
      let piece := s.accsTaint w as
      let a := as.headD default
      let r := s.loadHome w a
      let old := leNat r.1.1
      let s := r.2.readTaint s.cur .adr r.1.2 piece
      let y := atomNew x.op (8 * x.size) old x.v x.c
      let s := if y.2 then s.storeHome w a (leBytes x.size y.1) else s
      let s ← if x.ret then adrPush8 s (BitVec.ofNat 64 old) else .ok s
      .ok (atomAcquire s x.scope).adrDone

/-- atom (R292, R311); in a context with DET = 1 it raises ILLEGAL_INSN (R120). -/
def adrAtom (op : Nat) (a : BitVec 6) (c : BitVec 3) (r p z : BitVec 1) (s : State) : Out :=
  adrWord s (
    if (s.ctxs.get s.me.cid).det then .error (.trap { code := .illegalInsn, estat := 0, addr := 0, openE := 0xFF, openA := true } s)
    else
      let x := atomArgs s op a c r p z
      if x.spad then atomSpad s x else atomMem s x)

/-- The ordered atomic of the word (R312). -/
def State.atomoOf (s : State) (x : AtomArgs) (q : Nat) (last : Bool) (pa rkey va : Nat) : Atomo :=
  let th := s.me
  { thread := s.cur, unit := 0, line := lineKey x.spad th.cluster pa, pa := pa, spad := x.spad, cluster := th.cluster, rkey := rkey, va := va,
    used := { die := th.die, unit := 0, cid := th.cid, key := .leaf x.addr.toNat x.size, e0 := 0, e1 := 0 }, size := x.size, op := BitVec.ofNat 3 x.op, v := BitVec.ofNat 64 x.v, c := BitVec.ofNat 64 x.c, q := q, last := last, stream := s.atomStream th x.spad pa,
    reserved := false }

/-- An atomo of memory is sent: its access has been translated and checked (R312). One to another die goes as a packet (R410). -/
def State.sendAtomo (s : State) (a : Atomo) : State :=
  let s := if homeOf a.pa = s.me.die then s else s.sendPacket s.me.die (homeOf a.pa) (.atomo s.cur)
  { s with atomo := s.atomo ++ [a] }.modMe fun th => { th.atomClear with atomoSent := true }

/-- The issue of an atomo. -/
def atomoIssue (s : State) (x : AtomArgs) (qs : Dword) : Except Exit State := do
  let q := field qs 0 32
  let last := flag qs 32
  if bits qs 33 31 ≠ 0 then adrShape s 1 qs
  else if x.spad then
    let p ← atomPlace s x
    let s ← atomRelease s x.scope
    atomOwn s p x.size
    .error (.hold .outside (s.issueAtom (.atomo (s.atomoOf x q last p 0 0)) p x.size))
  else
    adrAlign s x.addr.toNat x.size
    let s ← atomRelease s x.scope
    let w := s.adrIssuer
    match s.accessLin w x.addr.toNat x.size true 0 with
    | .error m => adrHalt s m
    | .ok (as, s) =>
      let a := as.headD default
      let s := if s.accsTaint w as then s.taint s.cur .adr 0x13 else s
      let s := (s.loadHome w a).2
      .error (.hold .outside (s.sendAtomo (s.atomoOf x q last a.pa (a.rkey + 1) a.va)))

/-- atomo (R293, R294, R312): sent once, then it waits for its result. -/
def adrAtomo (op : Nat) (a : BitVec 6) (c : BitVec 3) (r p z : BitVec 1) (s : State) : Out :=
  adrWord s (
    let x := atomArgs s op a c r p z
    if !s.me.atomoSent then atomoIssue s x (s.me.run .adr a 3)
    else
      match s.me.atomoFail, s.me.atomoOld with
      | some i, _ => .error (.trap { i with addr := if i.code = .shape then s.me.run .adr a 3 else i.addr } (s.modMe Thread.atomClear))
      | none, some v => atomEnd s x v
      | none, none => holdAt s .outside)

/-! ## Fences (R285, R286) -/

/-- fence of a kind and a scope: every access of the thread issued before is performed; at domain scope the cache is written back, invalidated. -/
def adrFence (rel acq : Bool) (c : BitVec 3) (s : State) : Out :=
  adrWord s (
    if rel ∧ (s.anyUnperformed s.cur || (decide (c = 4) && s.homesAway s.me.die)) then holdAt s .outside
    else
      let s := if rel then s.drainThread s.cur else s
      let s := if rel ∧ c = 4 then s.domainRelease s.me.die s.me.cid else s
      let s := s.modMe fun th => { th with fences := th.fences + 1 }
      .ok (if acq ∧ c = 4 then s.acquire s.cur else s))

/-! ## Handle waits (R315) -/

/-- The status code of a handle state. -/
def HandleSt.code : HandleSt → Nat
  | .free => 0 | .filling => 1 | .full => 2 | .draining => 3 | .parked => 4 | .aborted => 5

/-- hwait (R315). No operand scalar fails when the handle is another gang's: ADDR is then open (R302, DESIGN CHOICE, log entry 9). -/
def adrHwait (st : Bool) (h a : BitVec 6) (s : State) : Out :=
  adrWord s (do
    let th := s.me
    let x := s.handle th.cluster h.toNat
    let op := th.rs .adr a
    if bits op 24 40 ≠ 0 then adrShape s 1 op
    else if x.st ≠ .free ∧ x.foreign th.gang then .error (.trap { code := .shape, estat := 5, addr := 0, openA := true } s)
    else if field op 0 24 ≤ x.wp ∨ x.st = .free ∨ x.st = .full ∨ x.st = .draining ∨ x.st = .aborted then
      (if st then adrPush8 s (BitVec.ofNat 64 (x.wp + x.st.code * 2 ^ 32)) else .ok s)
    else holdAt s .outside)

/-! ## The words -/

/-- capt (R303). -/
def execCapt (n sl : BitVec 3) (s : State) : Out :=
  adrWord s (
    let d := fun i => s.me.sAt (s.me.rrbOf .adr) (8 * n.toNat + i)
    match captTrap d with
    | some i => .error (.trap i s)
    | none => .ok (s.modMe fun th => { th with d := th.d.setRange (8 * sl.toNat) ((List.range 8).map d) }))

/-- tld to scratchpad (R306). -/
def execTld (d : BitVec 6) (n : BitVec 3) (a : BitVec 6) (s : State) : Out := adrTld (some d) n a s

/-- tld to q2 (R306). -/
def execTldQ (n : BitVec 3) (a : BitVec 6) (s : State) : Out := adrTld none n a s

/-- tst from scratchpad (R306). -/
def execTst (d : BitVec 6) (n : BitVec 3) (a : BitVec 6) (s : State) : Out := adrTst (some d) n a s

/-- tst from q3 (R306). -/
def execTstQ (n : BitVec 3) (a : BitVec 6) (s : State) : Out := adrTst none n a s

/-- gld to scratchpad (R307). -/
def execGld (d : BitVec 6) (n : BitVec 3) (a : BitVec 6) (s : State) : Out := adrGld (some d) n a s

/-- gld to q2 (R307). -/
def execGldQ (n : BitVec 3) (a : BitVec 6) (s : State) : Out := adrGld none n a s

/-- gst from scratchpad (R308). -/
def execGst (d : BitVec 6) (n : BitVec 3) (a : BitVec 6) (s : State) : Out := adrGst (some d) n a s

/-- gst from q3 (R308). -/
def execGstQ (n : BitVec 3) (a : BitVec 6) (s : State) : Out := adrGst none n a s

/-- vld (R309). -/
def execVld (a : BitVec 6) (s : State) : Out :=
  adrWord s (do
    let s ← adrOnce s (memRowChecks s a)
    vldRows a (field (s.me.run .adr a 2) 0 32) (field (s.me.run .adr a 2) 0 32) s)

/-- vst (R309). -/
def execVst (a : BitVec 6) (s : State) : Out :=
  adrWord s (do
    let s ← adrOnce s (memRowChecks s a)
    vstRows a (field (s.me.run .adr a 2) 0 32) (field (s.me.run .adr a 2) 0 32) s)

/-- sld.x (R310). -/
def execSld (a : BitVec 6) (c : BitVec 3) (s : State) : Out :=
  adrWord s (do
    let n := widthBytes c
    let p ← s.spadOperand s.cur .adr (s.me.rs .adr a) n (adrBad (s.me.rs .adr a))
    adrAlign s p n
    adrPhase s p n false
    let x ← s.spadRead s.cur .adr p n
    adrPush8 (s.readTaint s.cur .adr (x.2 && !s.me.qfull 8) false) (widthExt c (leNat x.1)))

/-- sld.row (R309). -/
def execSldRow (a : BitVec 6) (s : State) : Out :=
  adrWord s (do
    let s ← adrOnce s (spadRowChecks s a false)
    sldRows a (field (s.me.run .adr a 2) 0 32) (field (s.me.run .adr a 2) 0 32) s)

/-- sst.x (R310). -/
def execSst (d a : BitVec 6) (c : BitVec 3) (s : State) : Out :=
  adrWord s (do
    let n := widthBytes c
    let p ← s.spadOperand s.cur .adr (s.me.rs .adr a) n (adrBad (s.me.rs .adr a))
    adrAlign s p n
    adrPhase s p n true
    .ok (s.spadIssue s.cur .adr p (leBytes n (s.me.rs .adr d).toNat) 4))

/-- sst.row (R309). -/
def execSstRow (a : BitVec 6) (s : State) : Out :=
  adrWord s (do
    let s ← adrOnce s (spadRowChecks s a true)
    sstRows a (field (s.me.run .adr a 2) 0 32) (field (s.me.run .adr a 2) 0 32) s)

/-- pref of a linear range (R313): acts as loads that return no value; the model's caches are filled by loads alone (DESIGN CHOICE, log entry 7). -/
def execPrefL (_a : BitVec 6) (s : State) : Out := adrWord s (.ok s)

/-- pref of a box (R313). -/
def execPrefT (_n : BitVec 3) (_a : BitVec 6) (s : State) : Out := adrWord s (.ok s)

/-- fence.acq (R285). -/
def execFenceAcq (c : BitVec 3) (s : State) : Out := adrFence false true c s

/-- fence.rel (R285). -/
def execFenceRel (c : BitVec 3) (s : State) : Out := adrFence true false c s

/-- fence.full (R285). -/
def execFenceFull (c : BitVec 3) (s : State) : Out := adrFence true true c s

/-- hwait (R315). -/
def execHwait (h a : BitVec 6) (s : State) : Out := adrHwait false h a s

/-- hwait.st (R315). -/
def execHwaitSt (h a : BitVec 6) (s : State) : Out := adrHwait true h a s

/-- ldq.x (R310). -/
def execLdq (a : BitVec 6) (c : BitVec 3) (s : State) : Out :=
  adrWord s (do
    let n := widthBytes c
    let ea := (s.me.rs .adr a).toNat
    adrAlign s ea n
    if s.me.qfull 8 then holdAt s (.pushFull 8)
    else
      let w := s.adrIssuer
      match s.accessLin w ea n false 0 with
      | .error m => adrHalt s m
      | .ok (as, s) =>
        let piece := s.accsTaint w as
        let x := s.loadAccs w as
        adrPush8 (x.2.readTaint s.cur .adr x.1.2 piece) (widthExt c (leNat x.1.1)))

/-- atom.add (R311). -/
def execAtomAdd (a : BitVec 6) (c : BitVec 3) (r p z : BitVec 1) (s : State) : Out := adrAtom 0 a c r p z s

/-- atom.min (R311). -/
def execAtomMin (a : BitVec 6) (c : BitVec 3) (r p z : BitVec 1) (s : State) : Out := adrAtom 1 a c r p z s

/-- atom.max (R311). -/
def execAtomMax (a : BitVec 6) (c : BitVec 3) (r p z : BitVec 1) (s : State) : Out := adrAtom 2 a c r p z s

/-- atom.and (R311). -/
def execAtomAnd (a : BitVec 6) (c : BitVec 3) (r p z : BitVec 1) (s : State) : Out := adrAtom 3 a c r p z s

/-- atom.or (R311). -/
def execAtomOr (a : BitVec 6) (c : BitVec 3) (r p z : BitVec 1) (s : State) : Out := adrAtom 4 a c r p z s

/-- atom.xor (R311). -/
def execAtomXor (a : BitVec 6) (c : BitVec 3) (r p z : BitVec 1) (s : State) : Out := adrAtom 5 a c r p z s

/-- atom.xchg (R311). -/
def execAtomXchg (a : BitVec 6) (c : BitVec 3) (r p z : BitVec 1) (s : State) : Out := adrAtom 6 a c r p z s

/-- atom.cas (R311). -/
def execAtomCas (a : BitVec 6) (c : BitVec 3) (r p z : BitVec 1) (s : State) : Out := adrAtom 7 a c r p z s

/-- atomo.add (R312). -/
def execAtomoAdd (a : BitVec 6) (c : BitVec 3) (r p z : BitVec 1) (s : State) : Out := adrAtomo 0 a c r p z s

/-- atomo.min (R312). -/
def execAtomoMin (a : BitVec 6) (c : BitVec 3) (r p z : BitVec 1) (s : State) : Out := adrAtomo 1 a c r p z s

/-- atomo.max (R312). -/
def execAtomoMax (a : BitVec 6) (c : BitVec 3) (r p z : BitVec 1) (s : State) : Out := adrAtomo 2 a c r p z s

/-- atomo.and (R312). -/
def execAtomoAnd (a : BitVec 6) (c : BitVec 3) (r p z : BitVec 1) (s : State) : Out := adrAtomo 3 a c r p z s

/-- atomo.or (R312). -/
def execAtomoOr (a : BitVec 6) (c : BitVec 3) (r p z : BitVec 1) (s : State) : Out := adrAtomo 4 a c r p z s

/-- atomo.xor (R312). -/
def execAtomoXor (a : BitVec 6) (c : BitVec 3) (r p z : BitVec 1) (s : State) : Out := adrAtomo 5 a c r p z s

/-- atomo.xchg (R312). -/
def execAtomoXchg (a : BitVec 6) (c : BitVec 3) (r p z : BitVec 1) (s : State) : Out := adrAtomo 6 a c r p z s

/-- atomo.cas (R312). -/
def execAtomoCas (a : BitVec 6) (c : BitVec 3) (r p z : BitVec 1) (s : State) : Out := adrAtomo 7 a c r p z s

/-! ## Device steps of ADR and the ordering units -/

/-- A halted ADR word raises its trap once q2 is empty or VEC is held (R244). -/
def execAdrFaultTrap (t : Nat) (s : State) : Out :=
  let th := s.thr t
  match th.adrTrap with
  | some i =>
    if th.adrQuiet ∧ th.pend.isNone then .next ((s.modThr t fun th => { th with adrTrap := none }).raise t .adr i) else .next s
  | none => .next s

/-- An atomo on its way of memory arrives at its ordering unit (R294), once the packet that carries it has been received. -/
def execAtomoArrival (t : Nat) (s : State) : Out :=
  match s.atomo.find? fun a => a.thread == t with
  | some a => .next (if s.onWay (homeOf a.pa) (.atomo t) then s else ({ s with atomo := s.atomo.filter fun b => b.thread ≠ t }).arriveAtomo a)
  | none => .next s

/-- A refused atomo is sent again (R294). -/
def execAtomoRetry (t : Nat) (s : State) : Out :=
  match s.refused.find? fun a => a.thread == t with
  | some a => .next (({ s with refused := s.refused.filter fun b => b.thread ≠ t }).arriveAtomo a)
  | none => .next s

/-- A line entry whose NEXT has not advanced for 2^24 LLC clocks while it holds atomos: they end with SHAPE and the entry is freed (R294). -/
def execAtomoLineStall (line : Nat) (s : State) : Out :=
  let e := s.atomLines.get line
  if e.held.isEmpty then .next s
  else .next (e.held.foldl (fun s a => s.failAtomo a 7) { s with atomLines := s.atomLines.set line default })

end Sys2Proof.Machine
end

