-- ==== Sys2Proof/Machine/Bar.lean ====
section
/-! DEFINITION. Barriers, Rings and Phases (R200, R201, R208 to R228): group barriers, counting barriers, ring regions and phase declarations. -/

namespace Sys2Proof.Machine

/-! ## Shared operations of SYN words -/

/-- Scalar s[S] of a SYN word. -/
def State.ys (s : State) (a : BitVec 6) : Dword := s.me.rs .syn a

/-- A trap of R228: cause, object number and ADDR. -/
def synTrap {α : Type} (s : State) (code : TrapCode) (cause obj : Nat) (addr : Dword) : Except Exit α :=
  trapAt s code (BitVec.ofNat 64 (cause + obj * 256)) addr

/-- A trap of R228 for which no scalar operand was checked. -/
def synTrapOpen {α : Type} (s : State) (code : TrapCode) (cause obj : Nat) : Except Exit α :=
  .error (.trap { code := code, estat := BitVec.ofNat 64 (cause + obj * 256), addr := 0, openA := true } s)

/-- A SYN word waits until every word delivered before it has executed (R210, R215, R225, R263, R295). -/
def synAfter (s : State) : Except Exit Unit := if s.me.allBefore .syn then .ok () else holdAt s .outside

/-- A release at a level's scope by the current thread (R211, R215): it waits for issued scratchpad writes, then memory stores are performed. -/
def synRelease (s : State) (domain : Bool) : Except Exit State :=
  if s.anyUnperformed s.cur || (domain && s.homesAway s.me.die) then holdAt s .outside
  else .ok (if domain then s.release s.cur else s.drainThread s.cur)

/-- The head SYN word's stage. -/
def State.setStage (s : State) (n : Nat) : State := s.modMe fun th => { th with synStage := n }

/-! ## Level groups and member masks (R200, R201) -/

/-- The level-k object that a thread's core belongs to (R21, R195). -/
def Thread.object (th : Thread) (k : Nat) : Nat :=
  if k = 1 then th.cluster else if k = 2 then 32 * th.die + th.core / 8 else if k = 3 then th.die else 0

/-- The members of a thread's level-k group, in the order of their IDX (R198, R200). -/
def State.group (s : State) (th : Thread) (k : Nat) : List Nat :=
  (s.gangs.get th.gang).threads.filter fun u => (s.thr u).object k == th.object k

/-- The group level is one the kernel has (R200). -/
def State.levelOk (s : State) (th : Thread) (k : Nat) : Bool := k != 0 && decide (k ≤ (s.gangs.get th.gang).level)

/-- The key of the group barrier (k, id) of a thread's level-k group: the group is named by its first member. -/
def State.barKey (s : State) (th : Thread) (k id : Nat) : Nat :=
  (match (s.group th k).head? with | some u => (s.thr u).member | none => 0) * 64 + (k * 8 + id)

/-- A member of a group of `n` members is named by a mask (R201). -/
def maskNames (m : Dword) (i : Nat) : Bool :=
  if flag m 63 then
    let first := field m 0 16
    let count := field m 16 16
    let stride := field m 32 16
    decide (first ≤ i) && (if stride = 0 then i == first else (i - first) % stride == 0 && decide ((i - first) / stride < count))
  else m == 0 || flag m i

/-- The mask is in form and names no member at or above `n` (R201). -/
def maskOk (m : Dword) (n : Nat) : Bool :=
  if flag m 63 then
    let count := field m 16 16
    let stride := field m 32 16
    bits m 48 15 == 0 && count != 0 && !(stride == 0 && decide (1 < count)) && decide (field m 0 16 + (count - 1) * stride < n)
  else (List.range 63).all fun i => !flag m i || decide (i < n)

/-- The threads that a mask names, when it is valid and names thread `t` (R201). -/
def maskSet (g : List Nat) (m : Dword) (t : Nat) : Option (List Nat) :=
  let named := (g.zipIdx.filter fun x => maskNames m x.2).map Prod.fst
  if maskOk m g.length && named.contains t then some named else none

/-! ## Group barriers (R208 to R212) -/

/-- The arrival of R210; the word has not arrived before. -/
def barArrive (b : BitVec 3) (k : BitVec 3) (a : BitVec 6) (s : State) : Except Exit State := do
  let th := s.me
  let m := s.ys a
  if !s.levelOk th k.toNat then synTrapOpen s .shape 1 b.toNat
  else match maskSet (s.group th k.toNat) m s.cur with
    | none => synTrap s .shape 2 b.toNat m
    | some named =>
      if th.pending.get (8 * k.toNat + b.toNat) then synTrapOpen s .shape 4 b.toNat
      else do
        synAfter s
        let s ← synRelease s (k == 4)
        let key := s.barKey th k.toNat b.toNat
        let x := (s.gangs.get th.gang).barriers.get key
        if x.opened ∧ x.mask ≠ named then synTrap s .shape 3 b.toNat m
        else
          let y : Barrier := { opened := true, mask := named, arrived := x.arrived ++ [s.cur] }
          let s := s.modGang th.gang fun g => { g with barriers := g.barriers.set key y }
          let s := s.modMe fun th => { th with pending := th.pending.set (8 * k.toNat + b.toNat) true }
          .ok (s.settleBarrier th.gang key)

/-- The wait of R210. -/
def barHeld (b : BitVec 3) (k : BitVec 3) (s : State) : Except Exit State :=
  if s.me.pending.get (8 * k.toNat + b.toNat) then holdAt s .outside else .ok (s.setStage 0)

/-- bar (R209, R210). -/
def execBar (b k : BitVec 3) (a : BitVec 6) (s : State) : Out :=
  finish .syn s (if s.me.synStage = 1 then barHeld b k s else do
    let s ← barArrive b k a s
    barHeld b k (s.setStage 1))

/-- bar.arr (R209, R210). -/
def execBarArr (b k : BitVec 3) (a : BitVec 6) (s : State) : Out := finish .syn s (barArrive b k a s)

/-- bar.wt (R209, R210). -/
def execBarWt (b k : BitVec 3) (s : State) : Out :=
  finish .syn s (if !s.levelOk s.me k.toNat then synTrapOpen s .shape 1 b.toNat else barHeld b k s)

/-! ## Counting barriers (R213 to R216) -/

/-- The key of a counting barrier of the current thread's cluster. -/
def State.cbarKey (s : State) (n : BitVec 4) : Nat := s.me.cluster * 16 + n.toNat

/-- A counting barrier on which the current thread may act: armed, by its own gang (R213, R215). -/
def cbarUse (s : State) (n : BitVec 4) : Except Exit Cbar :=
  let x := s.cbars.get (s.cbarKey n)
  if !x.armed then synTrapOpen s .shape 6 n.toNat
  else if x.owner ≠ s.me.gang + 1 then synTrapOpen s .shape 5 n.toNat
  else .ok x

/-- Replace a counting barrier. -/
def State.setCbar (s : State) (key : Nat) (x : Cbar) : State := { s with cbars := s.cbars.set key x }

/-- cbar.init (R215). -/
def execCbarInit (n : BitVec 4) (a : BitVec 6) (s : State) : Out :=
  finish .syn s (
    let x := s.cbars.get (s.cbarKey n)
    let v := s.ys a
    let th := s.me
    if x.armed then synTrapOpen s .shape (if x.owner = th.gang + 1 then 6 else 5) n.toNat
    else if bits v 32 32 ≠ 0 ∨ bits v 0 32 = 0 then synTrap s .shape 7 n.toNat v
    else .ok (s.setCbar (s.cbarKey n)
      { armed := true, owner := th.gang + 1, ocid := th.cid + 1, target := bits v 0 32,
        count := if x.ocid ≠ 0 ∧ x.ocid ≠ th.cid + 1 then 0 else x.count, waiters := [],
        halo := x.halo && (x.ocid == 0 || x.ocid == th.cid + 1) }))

/-- Add to a counting barrier's COUNT, saturating (R215). -/
def Cbar.plus (x : Cbar) (n : BitVec 32) : Cbar := { x with count := BitVec.ofNat 32 (Nat.min (x.count.toNat + n.toNat) (2 ^ 32 - 1)) }

/-- cbar.add (R215). -/
def execCbarAdd (n : BitVec 4) (a : BitVec 6) (s : State) : Out :=
  finish .syn s (do
    let x ← cbarUse s n
    let v := s.ys a
    if bits v 32 32 ≠ 0 then synTrap s .shape 7 n.toNat v
    synAfter s
    let s ← synRelease s false
    .ok (s.setCbar (s.cbarKey n) (x.plus (bits v 0 32))))

/-- A thread is held at a cbar.wait (FN4 2) or cbar.take (FN4 3) of its cluster's barrier `n`. -/
def Thread.atCbar (th : Thread) (n fn : Nat) : Bool :=
  (th.st == .running || th.st == .handler) && (th.held.get 7).isSome &&
  (match th.head .syn with
    | some x => (match x.item with
      | .word w => bits w 24 8 == (0xE1 : BitVec 8) && field w 0 4 == fn && field w 16 4 == n
      | _ => false)
    | none => false)

/-- The waiters of a barrier with the current thread among them, last if it has only now begun to wait. -/
def cbarQueue (s : State) (x : Cbar) : List Nat :=
  if x.waiters.contains s.cur && (s.me.held.get 7).isSome then x.waiters else x.waiters.filter (· ≠ s.cur) ++ [s.cur]

/-- A completed wait or take acts like a fence at its word; a halo's arrival is observed at domain scope (R215, R287). -/
def State.cbarSeen (s : State) (x : Cbar) : State := if x.halo then s.acquire s.cur else s.modMe Thread.fenced

/-- cbar.wait (R215). -/
def execCbarWait (n : BitVec 4) (s : State) : Out :=
  finish .syn s (do
    let x ← cbarUse s n
    if x.count.toNat < x.target.toNat then holdAt (s.setCbar (s.cbarKey n) { x with waiters := cbarQueue s x }) .outside
    else .ok ((s.setCbar (s.cbarKey n) { x with waiters := x.waiters.filter (· ≠ s.cur) }).cbarSeen x))

/-- cbar.take (R215): of the takes held, the one that began first. -/
def execCbarTake (n : BitVec 4) (s : State) : Out :=
  finish .syn s (do
    let x ← cbarUse s n
    let q := cbarQueue s x
    let first := q.find? fun u => u == s.cur || (s.thr u).atCbar n.toNat 3
    if x.count.toNat < x.target.toNat ∨ first ≠ some s.cur then holdAt (s.setCbar (s.cbarKey n) { x with waiters := q }) .outside
    else .ok ((s.setCbar (s.cbarKey n)
      { x with count := x.count - x.target, waiters := x.waiters.filter (· ≠ s.cur), halo := x.halo && x.count != x.target }).cbarSeen x))

/-- cbar.free (R215). -/
def execCbarFree (n : BitVec 4) (s : State) : Out :=
  finish .syn s (do
    let x ← cbarUse s n
    if x.waiters.any fun u => (s.thr u).atCbar n.toNat 2 || (s.thr u).atCbar n.toNat 3 then synTrapOpen s .shape 6 n.toNat
    else .ok (s.setCbar (s.cbarKey n) default))

/-! ## Ring regions (R217 to R223) -/

/-- A party word (R218). -/
def partyOf (v : BitVec 16) : RingParty := { kind := flag v 15, mask := bits v 0 8 }

/-- A party is invalid for the declaring thread (R219, cause 8). -/
def State.partyBad (s : State) (p : RingParty) : Bool :=
  let th := s.me
  p.mask == 0 ||
  (if p.kind then
    (s.gangs.get th.gang).level == 0 || (List.range 8).any fun x => flag p.mask x && (decide ((th.lsz.get 1).toNat ≤ x) || decide (4 ≤ x))
  else flag p.mask 7)

/-- Two parties share an engine or a member (R219). -/
def State.partiesMeet (s : State) (p q : RingParty) : Bool :=
  if p.kind == q.kind then p.mask &&& q.mask != 0
  else if p.kind then flag p.mask s.me.ix1 else flag q.mask s.me.ix1

/-- ring (R218, R219). -/
def execRing (n : BitVec 3) (a b : BitVec 6) (s : State) : Out :=
  finish .syn s (
    let th := s.me
    let key := ringKey th.cluster n.toNat
    let x := s.rings.get key
    let g := s.ys a
    let v := s.ys b
    let base := field g 0 23
    let ssz := field g 24 23
    let stages := field g 48 4 + 1
    let p := partyOf (bits v 0 16)
    let q := partyOf (bits v 16 16)
    if x.active then synTrapOpen s .shape (if x.owner = th.gang + 1 then 6 else 5) n.toNat
    else if flag g 23 ∨ flag g 47 ∨ bits g 52 12 ≠ 0 ∨ base % 128 ≠ 0 ∨ ssz % 128 ≠ 0 ∨ ssz = 0 ∨ 2 ^ 23 < base + stages * ssz then
      synTrap s .shape 7 n.toNat g
    else if bits v 32 32 ≠ 0 ∨ bits v 8 7 ≠ 0 ∨ bits v 24 7 ≠ 0 then synTrap s .shape 7 n.toNat v
    else if s.partyBad p ∨ s.partyBad q ∨ s.partiesMeet p q then synTrap s .shape 8 n.toNat v
    else
      let r : Ring :=
        { active := true, owner := th.gang + 1, thread := s.cur, base := base, ssz := ssz, stages := stages, prod := p, cons := q, step := 0, counts := [] }
      .ok { s with rings := s.rings.set key r })

/-- ring.rel (R219, R223): arrivals that have not taken effect go with the slot. -/
def execRingRel (n : BitVec 3) (s : State) : Out :=
  finish .syn s (
    let key := ringKey s.me.cluster n.toNat
    let x := s.rings.get key
    if !x.active then synTrapOpen s .shape 6 n.toNat
    else if x.owner ≠ s.me.gang + 1 then synTrapOpen s .shape 5 n.toNat
    else .ok { s with rings := s.rings.set key default, sbars := s.sbars.filter fun y => y.ring ≠ key })

/-- The count key of the current thread as a member of a party, whichever of its engines issues (R221). -/
def RingParty.memberThread (p : RingParty) (r : Ring) (t ix base : Nat) : Option Nat :=
  if p.kind then (if ix < 4 ∧ flag p.mask ix then some (base + ix) else none) else if r.thread = t then some base else none

/-- sbar (R221). -/
def synSbar (cons : Bool) (n : BitVec 3) (s : State) : Out :=
  finish .syn s (
    let th := s.me
    let key := ringKey th.cluster n.toNat
    let r := s.rings.get key
    let p := if cons then r.cons else r.prod
    if !r.active then synTrapOpen s .shape 6 n.toNat
    else if r.owner ≠ th.gang + 1 then synTrapOpen s .shape 5 n.toNat
    else match p.memberThread r s.cur th.ix1 (if cons then 8 else 0) with
      | none => synTrapOpen s .shape 9 n.toNat
      | some k =>
        if (r.stages : Int) ≤ r.past (r.counts.get k) then holdAt s .outside
        else
          let es := if p.kind then allEngines else allEngines.filter fun e => flag p.mask (engCode e)
          .ok { s with sbars := s.sbars ++ [{ ring := key, member := k, thread := s.cur, ord := th.ordOf .syn, engines := es }] })

/-- sbar.p (R221). -/
def execSbarP (n : BitVec 3) (s : State) : Out := synSbar false n s

/-- sbar.c (R221). -/
def execSbarC (n : BitVec 3) (s : State) : Out := synSbar true n s

/-- SBAR_ARRIVAL_EFFECT (R221). -/
def execSbarArrivalEffect (n : Nat) (s : State) : Out := .next (s.sbarEffect n)

/-! ## Phases (R224 to R227) -/

/-- phase.new (R225). -/
def execPhaseNew (s : State) : Out :=
  finish .syn s (do
    synAfter s
    .ok (s.modMe fun th => { th with phases := [], phase := th.phase + 1 }))

/-- The ranges declared by every other (thread, engine) pair of the cluster at the same phase number, with whether each is a write range (R226). -/
def State.otherRanges (s : State) (t e : Nat) : List (Range × Bool) :=
  let th := s.thr t
  s.threads.flatMap fun x =>
    if x.2.st.onCore && x.2.cluster == th.cluster && x.2.phase == th.phase then
      (x.2.phases.filter fun y => !(x.1 == t && y.1 / 8 == e)).map fun y => (y.2, decide (4 ≤ y.1 % 8))
    else []

/-- The lowest byte that a range shares with a declared one where either is a write range, bytes of active rings apart (R226, R227). -/
def State.phaseClash (s : State) (t e : Nat) (x : Range) (write : Bool) : Option Nat :=
  let rings := (s.rings.getRange ((s.thr t).cluster * 8) 8).map fun r => if r.active then Range.mk r.base (r.stages * r.ssz) else ⟨0, 0⟩
  (s.otherRanges t e).foldl (fun best y =>
    if write || y.2 then
      match firstOutside rings 40 (Nat.max x.base y.1.base) (Nat.min (x.base + x.len) (y.1.base + y.1.len)) with
      | none => best
      | some b => (match best with | none => some b | some c => some (Nat.min b c))
    else best) none

/-- phase.rd and phase.wr (R225, R226). -/
def synPhase (write : Bool) (r : BitVec 2) (e : BitVec 3) (a b : BitVec 6) (s : State) : Out :=
  finish .syn s (do
    synAfter s
    let base := (s.ys a).toNat
    let len := (s.ys b).toNat
    if base % 16 ≠ 0 ∨ len % 16 ≠ 0 then synTrapOpen s .align 0 0
    if 2 ^ 23 < base + len then synTrapOpen s .shape 10 0
    let x : Range := if len = 0 then ⟨0, 0⟩ else ⟨base, len⟩
    match s.phaseClash s.cur e.toNat x write with
    | some c => synTrap s .phaseOverlap 12 0 (BitVec.ofNat 64 c)
    | none => .ok (s.modMe fun th => { th with phases := th.phases.set (8 * e.toNat + (if write then 4 else 0) + r.toNat) x }))

/-- phase.rd (R225). -/
def execPhaseRd (r : BitVec 2) (e : BitVec 3) (a b : BitVec 6) (s : State) : Out := synPhase false r e a b s

/-- phase.wr (R225). -/
def execPhaseWr (r : BitVec 2) (e : BitVec 3) (a b : BitVec 6) (s : State) : Out := synPhase true r e a b s

end Sys2Proof.Machine
end

