-- ==== Sys2Proof/Machine/Tok.lean ====
section
/-! DEFINITION. The token words, range write-back and invalidate, and the region commands (R250 to R272). -/

namespace Sys2Proof.Machine

/-! ## Token traps (R256) -/

/-- A trap of a token word: a cause, and ADDR s[S]. -/
def tokTrap {α : Type} (s : State) (code : TrapCode) (cause : Nat) (a : Dword) : Except Exit α := trapAt s code (BitVec.ofNat 64 cause) a

/-- SHAPE of a token word. -/
def tokShape {α : Type} (s : State) (cause : Nat) (a : Dword) : Except Exit α := tokTrap s .shape cause a

/-- A package of the domain has a die present. -/
def State.packagePresent (s : State) (p : Nat) : Bool := s.presentDies.any fun d => d / 8 == p

/-- The party of a party operand, for a node (R262); none when a reserved bit is set or the party is invalid. -/
def State.partyOperand (s : State) (node : Nat) (v : Dword) : Option Party :=
  let eng := field v 15 3
  let die := field v 18 3
  let pkg := field v 21 5
  let x := field v 32 24
  if bits v 26 6 ≠ 0 ∨ bits v 56 8 ≠ 0 then none
  else match field v 12 3 with
    | 0 => if eng = 0 ∧ die = 0 ∧ pkg = 0 then some (.thread node x) else none
    | 1 => if die = 0 ∧ pkg = 0 then some (.engine node x (engineOf eng)) else none
    | 2 => if eng = 0 ∧ x = 0 ∧ (s.die (8 * pkg + die)).present then some (.die (8 * pkg + die)) else none
    | 3 => if eng = 0 ∧ die = 0 ∧ x = 0 ∧ s.packagePresent pkg then some (.package pkg) else none
    | _ => none

/-- The region number of an operand. -/
def regionOf (v : Dword) : Nat := field v 0 12

/-- The region and piece that a token word acts on, checked up to the holder (R263, R275). -/
def tokPiece (s : State) (key : Nat) (a : Dword) : Except Exit (Region × Piece) :=
  let r := s.regions.get key
  if s.regionLost r then .error (.trap { code := .remoteHomeLost, estat := 0, addr := a, openE := -1 } s)
  else if !r.live then tokTrap s .unowned 4 a
  else if a.toNat < r.base ∨ r.base + r.len ≤ a.toNat then tokTrap s .unowned 1 a
  else match r.pieceAt a.toNat with
    | none => tokTrap s .unowned 1 a
    | some p => .ok (r, p)

/-- The issuer of a token word is the whole thread (R263). -/
def State.tokIssuer (s : State) : Issuer := { s.issuer s.cur .syn with eng := none }

/-- The holder check of R263. -/
def tokHeld (s : State) (key : Nat) (a : Dword) : Except Exit (Region × Piece) := do
  let (r, p) ← tokPiece s key a
  if p.st = .lost then tokTrap s .unowned 3 a
  if !s.tokIssuer.within p.holder then tokTrap s .unowned 2 a
  .ok (r, p)

/-- What a token word does before its own effect: a release at domain scope by the issuing thread, and every access already issued to the region is performed, ordered
atomics of the piece waited for (R257, R263). The word waits while no path leads to the region's home (R418). -/
def tokBegin (s : State) (key : Nat) (p : Piece) : Except Exit State := do
  let s ← synRelease s true
  if s.atomoOn key p || !s.pathOpen s.me.die (s.regions.get key).home then holdAt s .outside else .ok (s.drainPosted fun p => p.rkey == key + 1)

/-- A token word is complete: an acquire at domain scope for the words after it (R263). -/
def State.tokEnd (s : State) : State := s.acquire s.cur

/-- The key of a region of the current thread's context. -/
def State.myRegion (s : State) (v : Dword) : Nat := regionKey s.me.cid (regionOf v)

/-- A thread recipient has ended, or the node has no such thread (R264). -/
def State.recipientGone (s : State) (q : Party) : Bool :=
  let gone := fun n x =>
    decide ((s.nodes.get n).gangs * (s.nodes.get n).members ≤ x) ||
    (match s.threadOf n x with | some t => (s.thr t).st == .ended | none => false)
  match q with
  | .thread n x => gone n x
  | .engine n x _ => gone n x
  | _ => false

/-! ## The words (R261 to R268) -/

/-- tklend (R264). -/
def execTklend (a b : BitVec 6) (s : State) : Out :=
  finish .syn s (do
    synAfter s
    let addr := s.ys a
    let v := s.ys b
    let key := s.myRegion v
    match s.partyOperand s.me.node v with
    | none => tokShape s 1 addr
    | some q =>
      let (_, p) ← tokHeld s key addr
      if (s.ctxs.get s.me.cid).det ∧ field v 12 3 ≠ 0 then tokTrap s .shareConflict 2 addr
      if s.recipientGone q then tokShape s 5 addr
      if p.chain.length = 4 then tokShape s 3 addr
      if p.shares ≠ [] then holdAt s .outside
      let s ← tokBegin s key p
      let s := s.moveCaches key p p.holder q
      .ok (s.setPiece key p.base fun p => { p with holder := q, chain := p.chain ++ [{ party := p.holder, lost := false }], st := .lent }).tokEnd)

/-- An operand that names a region and nothing else (R261). -/
def tokRegionOnly (s : State) (addr v : Dword) : Except Exit Unit := if bits v 12 52 = 0 then .ok () else tokShape s 1 addr

/-- tkret (R265). -/
def execTkret (a b : BitVec 6) (s : State) : Out :=
  finish .syn s (do
    synAfter s
    let addr := s.ys a
    let v := s.ys b
    let key := s.myRegion v
    tokRegionOnly s addr v
    let (_, p) ← tokHeld s key addr
    if p.chain = [] then tokShape s 4 addr
    if p.shares ≠ [] then holdAt s .outside
    let s ← tokBegin s key p
    .ok (s.giveBack key p).tokEnd)

/-- The pieces that a die's token unit holds (R253). -/
def State.unitPieces (s : State) (d : Nat) : Nat := s.regions.foldl (fun n e => if e.2.live && e.2.home == d then n + e.2.pieces.length else n) 0

/-- Replace the pieces of a region. -/
def State.setPieces (s : State) (key : Nat) (f : List Piece → List Piece) : State :=
  { s with regions := s.regions.mod key fun r => { r with pieces := f r.pieces } }

/-- tksplit (R266). -/
def execTksplit (a b : BitVec 6) (s : State) : Out :=
  finish .syn s (do
    synAfter s
    let addr := s.ys a
    let v := s.ys b
    let key := s.myRegion v
    tokRegionOnly s addr v
    let (r, p) ← tokHeld s key addr
    if addr.toNat % 16 ≠ 0 ∨ addr.toNat = p.base then tokShape s 2 addr
    if p.shares ≠ [] then tokShape s 4 addr
    if r.pieces.length = 64 ∨ 131072 ≤ s.unitPieces r.home then tokShape s 3 addr
    let s ← tokBegin s key p
    .ok (s.setPieces key fun ps => ps.flatMap fun q =>
      if q.base = p.base then [{ q with top := addr.toNat }, { q with base := addr.toNat }] else [q]).tokEnd)

/-- tkjoin (R266). -/
def execTkjoin (a b : BitVec 6) (s : State) : Out :=
  finish .syn s (do
    synAfter s
    let addr := s.ys a
    let v := s.ys b
    let key := s.myRegion v
    tokRegionOnly s addr v
    let (r, p) ← tokHeld s key addr
    match r.pieces.find? fun q => q.top == addr.toNat with
    | none => tokShape s 2 addr
    | some q =>
      if p.base ≠ addr.toNat then tokShape s 2 addr
      if q.holder ≠ p.holder ∨ q.chain ≠ p.chain ∨ q.taint ≠ p.taint ∨ q.st ≠ p.st ∨ p.shares ≠ [] ∨ q.shares ≠ [] then tokShape s 4 addr
      let s ← tokBegin s key p
      .ok (s.setPieces key fun ps => (ps.filter fun x => x.base ≠ p.base).map fun x => if x.base = q.base then { x with top := p.top } else x).tokEnd)

/-- tkshare (R267). -/
def execTkshare (a b : BitVec 6) (s : State) : Out :=
  finish .syn s (do
    synAfter s
    let addr := s.ys a
    let v := s.ys b
    let key := s.myRegion v
    match s.partyOperand s.me.node v with
    | none => tokShape s 1 addr
    | some q =>
      let (r, p) ← tokHeld s key addr
      if 15 ≤ p.shares.length then tokShape s 3 addr
      let s ← tokBegin s key p
      let xs := s.extentsOf key
      let s : State := if r.swManaged then s else (s.partyDies p.holder).foldl (fun s d => s.cacheBack xs key p.base p.top d) s
      let s : State := if r.swManaged then s else (s.partyDies q).foldl (fun s d => s.cacheDrop xs key p.base p.top d) s
      .ok (s.setPiece key p.base fun p => { p with shares := p.shares ++ [q] }).tokEnd)

/-- tkunsh (R267). -/
def execTkunsh (a b : BitVec 6) (s : State) : Out :=
  finish .syn s (do
    synAfter s
    let addr := s.ys a
    let v := s.ys b
    let key := s.myRegion v
    tokRegionOnly s addr v
    let (_, p) ← tokPiece s key addr
    if p.st = .lost then tokTrap s .unowned 3 addr
    if !(p.shares.any s.tokIssuer.within) then tokTrap s .unowned 2 addr
    let s ← tokBegin s key p
    .ok (s.unshare key p s.tokIssuer.within).tokEnd)

/-- The last writer of a line lay within a party. -/
def State.writerIn (s : State) (l : RdcLine) (q : Party) : Bool := l.by_ != 0 && ({ s.issuer (l.by_ - 1) .seq with eng := none } : Issuer).within q

/-- The invalidation of tkrecl on every die (R268): dirty bytes are written back, but those of the piece in a line whose last writer was the holder with which the piece
was lost are discarded and logged. -/
def State.reclaimCaches (s : State) (key : Nat) (p : Piece) : State :=
  let s := s.drainPosted fun q => q.rkey == key + 1
  if (s.regions.get key).swManaged then s
  else
    let xs := s.extentsOf key
    s.presentDies.foldl (fun s d => (s.rdcLines d).foldl (fun s line =>
      let m := lineMask xs key p.base p.top line
      if m = 0 then s
      else
        let l := s.rdc.get (rdcKey d line)
        let lost := p.st == .lost && (match p.lostBy with | some q => s.writerIn l q | none => false) && l.dirty &&& m != 0
        let s := s.writeBack d line (if lost then ~~~m else BitVec.allOnes 128)
        let s := { s with rdc := s.rdc.set (rdcKey d line) default }
        if lost then s.log d { kind := 11, code := 0, unit := 0, cid := some l.cid, addr := line * 128, node := 0 } else s) s) s

/-- The piece after tkrecl (R268). -/
def Piece.reclaim (taint : Bool) (p : Piece) : Piece :=
  let p := if p.st = .lost then { p with holder := .domain, chain := [], shares := [] } else p
  { p with taint := taint, st := if taint then .reclaimed else .heldWrite, lostBy := none }

/-- The thread's context has privilege (R118); without it a starred word raises PRIVILEGE (R60). -/
def needPriv (s : State) : Except Exit Unit := if (s.ctxs.get s.me.cid).sys then .ok () else openTrap s .privilege

/-- tkrecl (R268); a tainted verdict on a reclaimed piece has no effect at all. -/
def execTkrecl (a b : BitVec 6) (s : State) : Out :=
  finish .syn s (do
    needPriv s
    let addr := s.ys a
    let v := s.ys b
    let cid := field v 16 10
    let key := regionKey cid (regionOf v)
    if bits v 13 3 ≠ 0 ∨ bits v 26 38 ≠ 0 then tokShape s 1 addr
    if (s.ctxs.get cid).st = .free then tokShape s 4 addr
    let (_, p) ← tokPiece s key addr
    if p.st ≠ .lost ∧ p.st ≠ .reclaimed then tokShape s 4 addr
    if p.st = .reclaimed ∧ flag v 12 then .ok s
    else
      let s ← tokBegin s key p
      .ok ((s.reclaimCaches key p).setPiece key p.base (Piece.reclaim (flag v 12))).tokEnd)

/-- TOKEN_WAIT_RESUME (R264): the tklend or tkret at which a thread's SYN is held makes its checks again. -/
def execTokenWaitResume (t : Nat) (s : State) : Out :=
  let th := s.thr t
  if !((th.st == .running || th.st == .handler) && th.pend.isNone && (th.held.get 7).isSome) then .next s
  else
    match th.head .syn with
    | some x => (match x.item with
      | .word w =>
        if bits w 24 8 = (0xE5 : BitVec 8) then execTklend (bits w 10 6) (bits w 4 6) { s with cur := t }
        else if bits w 24 8 = (0xE6 : BitVec 8) then execTkret (bits w 10 6) (bits w 4 6) { s with cur := t }
        else .next s
      | _ => .next s)
    | none => .next s

/-! ## Range write-back and invalidate (R270, R271) -/

/-- One more page or tile of a range: its place, or it is skipped where it faults, is migrating or is poisoned; none while no path leads to a table that its walk reads
(R271, R418). -/
def rangeStep (x : List (Nat × Nat) × State) (r : Except MemStop (Acc × State)) : Option (List (Nat × Nat) × State) :=
  match r with
  | .ok (a, s) => some (x.1 ++ [(a.pa, a.len)], s)
  | .error (.migrating none) => none
  | .error _ => some x

/-- The physical parts of a range, those that are skipped left out (R271); none while a walk waits for a path (R418). -/
def State.rangeParts (s : State) (addr v : Dword) : Option (List (Nat × Nat) × State) :=
  let th := s.me
  let at_ := (s.issuer s.cur .syn).at_
  let tid := field addr 48 16
  let len := field v 0 32
  if flag v 63 then
    match s.directory at_ th.cid tid false with
    | .error (.migrating none) => none
    | .error _ => some ([], s)
    | .ok ((e0, e1), s) =>
      let sz := 2 ^ tlogOf e0
      (parts sz (field addr 0 48) len).foldlM (fun x p => rangeStep x (x.2.translateTile at_ th.cid tid (p.1 / sz) (p.1 % sz) p.2 e0 e1 false)) ([], s)
  else (parts (2 ^ 16) addr.toNat len).foldlM (fun x p => rangeStep x (x.2.translate at_ th.cid p.1 p.2 false)) ([], s)

/-- A line of a physical range has dirty bytes in a die's cache, and no path leads to its home (R418). -/
def State.rangeAway (s : State) (d : Nat) (ps : List (Nat × Nat)) : Bool :=
  (s.rdcLines d).any fun line =>
    (s.rdc.get (rdcKey d line)).dirty != 0 && !s.wayTo d (line * 128) && ps.any fun p => physMask line p.1 p.2 != 0

/-- Write back the dirty bytes of a physical range in a die's cache. -/
def State.physBack (s : State) (d pa n : Nat) : State := (s.rdcLines d).foldl (fun s line => s.writeBack d line (physMask line pa n)) s

/-- Invalidate the lines of a physical range in a die's cache: dirty bytes inside are discarded, those outside written back. -/
def State.physDrop (s : State) (d pa n : Nat) : State :=
  (s.rdcLines d).foldl (fun s line =>
    let m := physMask line pa n
    if m = 0 then s
    else
      let s := s.writeBack d line (~~~m)
      { s with rdc := s.rdc.set (rdcKey d line) default }) s

/-- rwb and rinv; the word waits while no path leads to a table, or to a home that it writes back to (R271, R418). -/
def synRange (f : State → Nat → Nat → Nat → State) (a b : BitVec 6) (s : State) : Out :=
  finish .syn s (do
    synAfter s
    let v := s.ys b
    if bits v 32 31 ≠ 0 then .error (.trap { code := .shape, estat := 1, addr := 0, openA := true } s)
    if bits v 0 32 = 0 then .ok s
    else
      let s := s.drainThread s.cur
      match s.rangeParts (s.ys a) v with
      | none => holdAt s .outside
      | some (ps, s) =>
        let d := s.me.die
        if s.rangeAway d ps then holdAt s .outside else .ok (ps.foldl (fun s p => f s d p.1 p.2) s))

/-- rwb (R270, R271). -/
def execRwb (a b : BitVec 6) (s : State) : Out := synRange State.physBack a b s

/-- rinv (R270, R271). -/
def execRinv (a b : BitVec 6) (s : State) : Out := synRange State.physDrop a b s

/-! ## Region commands (R251, R252) -/

/-- A command at a CID 0 address can be read and its status written. -/
def State.cmdUsable (s : State) (a : Nat) : Bool := decide (a % 64 = 0) && !s.paHole a && !s.paLost a

/-- Write a command's status as a release at domain scope. -/
def State.cmdStatus (s : State) (d a v : Nat) : State := (s.homeWrite 0 a (leBytes 8 v)).domainRelease d 0

/-- A region command's reserved bits are zero; `create` checks no more than a destroy here (R252). -/
def regionFormOk (d : Nat → Dword) : Bool :=
  bits (d 0) 4 12 == 0 && bits (d 0) 26 6 == 0 && bits (d 0) 52 12 == 0 && bits (d 1) 57 7 == 0 && bits (d 2) 57 7 == 0 && bits (d 3) 16 48 == 0 &&
  bits (d 4) 3 61 == 0 && d 5 == 0 && d 6 == 0 && d 7 == 0

/-- The region that a create command describes (R250). -/
def regionOfCmd (d : Nat → Dword) : Region :=
  let base := field (d 1) 0 57
  let len := field (d 2) 0 57
  { live := true, tensor := flag (d 0) 3, tid := if flag (d 0) 3 then bits (d 3) 0 16 else 0, base := base, len := len, swManaged := flag (d 0) 2,
    home := 8 * field (d 0) 47 5 + field (d 0) 44 3,
    pieces := [{ base := base, top := base + len, holder := .domain, chain := [], shares := [], taint := false, st := .heldWrite,
                 lostBy := none }] }

/-- Carry out a create command: status and state (R252). The id of a region that is gone with its lost home, whose copy is kept, still names a region: status 3
(DESIGN CHOICE, log entry 43). -/
def State.regionCreate (s : State) (d : Nat → Dword) : Nat × State :=
  let r := regionOfCmd d
  let cid := field (d 0) 16 10
  let key := regionKey cid (field (d 0) 32 12)
  let old := s.regions.get key
  if !regionFormOk d ∨ (s.ctxs.get cid).st ≠ .active ∨ r.base % 16 ≠ 0 ∨ r.len % 16 ≠ 0 ∨ r.len < 16 ∨ 2 ^ 57 < r.base + r.len then (2, s)
  else if old.live ∨ s.regionLost old ∨ 131072 ≤ s.unitPieces r.home then (3, s)
  else if !(s.die r.home).present then (4, s)
  else (1, ({ s with regions := s.regions.set key r }).keepCopy key)

/-- Carry out a destroy command (R252). -/
def State.regionDestroy (s : State) (d : Nat → Dword) : Nat × State :=
  let cid := field (d 0) 16 10
  let key := regionKey cid (field (d 0) 32 12)
  let r := s.regions.get key
  if !regionFormOk d ∨ (s.ctxs.get cid).st ≠ .active then (2, s)
  else if s.regionLost r then (4, s)
  else if !r.live then (3, s)
  else match r.pieces with
    | [p] =>
      if (p.st = .heldWrite ∨ p.st = .reclaimed) ∧ p.shares = [] then
        let s := s.drainPosted fun q => q.rkey == key + 1
        let xs := s.extentsOf key
        let s := s.presentDies.foldl (fun s e => s.cacheBack xs key r.base (r.base + r.len) e) s
        let s := s.presentDies.foldl (fun s e => s.cacheDrop xs key r.base (r.base + r.len) e) s
        (1, s.removeRegion key)
      else (3, s)
    | _ => (3, s)

/-- Carry out the region command at an address for a die, and write its status. -/
def State.regionCommand (s : State) (die a : Nat) : State :=
  if !s.cmdUsable a then s
  else
    let d := fun i => s.homeDword (a + 8 * i)
    let (v, s) := match field (d 0) 0 2 with
      | 1 => s.regionCreate d
      | 2 => s.regionDestroy d
      | _ => (2, s)
    s.cmdStatus die (a + 32) v

/-- TKCMD_CREATE (R252). -/
def execTkcmdCreate (d a : Nat) (s : State) : Out := .next (if field (s.homeDword a) 0 2 = 1 then s.regionCommand d a else s)

/-- TKCMD_DESTROY (R252). -/
def execTkcmdDestroy (d a : Nat) (s : State) : Out := .next (if field (s.homeDword a) 0 2 = 2 then s.regionCommand d a else s)

end Sys2Proof.Machine
end

