-- ==== Sys2Proof/Machine/Vec.lean ====
section
/-! DEFINITION. VEC (chapter The Vector Engine): integer and floating lane arithmetic, compares, conversions, quantisation, reductions, scans, permutes,
moves, special functions, N:M compression, draws, masks and queue rows. -/

namespace Sys2Proof.Machine

/-! ## Shared operations of VEC words -/

/-- A row whose active lanes are `f` and whose other lanes are `old`'s (R337). -/
def mergeRow (m : Mask) (old : Row) (f : Nat → Word) : Row := rowOf fun i => if flag m i then f i else lane old i

/-- A VEC word whose active lanes of vD take `f` and which raises no exception (R337). -/
def vecLanes (d : BitVec 5) (m : BitVec 3) (f : Thread → Nat → Word) (s : State) : Out :=
  finish .vec s (.ok (s.modMe fun th => th.wv d (mergeRow (th.rm m) (th.rv d) (f th))))

/-- The exceptions that a list of (lane, flags) raises. -/
def allFlags (xs : List (Nat × Flags)) : Flags := xs.foldl (fun a x => a ||| x.2) 0

/-- FPCTL.EN (R50). -/
def Thread.fpEn (th : Thread) : Flags := bits th.fpctl 8 5

/-- The rounding mode of FPCTL (R50). -/
def Thread.mode (th : Thread) : RMode := rmOf (bits th.fpctl 0 2)

/-- OR exceptions into FPCTL.FLG (R50, R51). -/
def Thread.addFlags (th : Thread) (f : Flags) : Thread := { th with fpctl := th.fpctl ||| f.setWidth 64 <<< 3 }

/-- The FP_ENABLED trap of a word that raised enabled exceptions (R339). -/
def fpTrap (en : Flags) (xs : List (Nat × Flags)) : TrapInfo :=
  let hit := xs.filter fun x => x.2 &&& en != 0
  let low := hit.foldl (fun n x => Nat.min n x.1) 127
  { code := .fpEnabled, estat := BitVec.ofNat 64 ((allFlags xs &&& en).toNat + low * 256), addr := 0 }

/-- The exceptions of a word take effect (R51): the flags are kept whether or not one is enabled; an enabled one traps. -/
def vecFlags (s : State) (xs : List (Nat × Flags)) : Except Exit State :=
  let en := s.me.fpEn
  let s := s.modMe fun th => th.addFlags (allFlags xs)
  if allFlags xs &&& en = 0 then .ok s else .error (.trap (fpTrap en xs) s)

/-- The active lanes with what `f` makes of each. -/
def activeOf {α : Type} (m : Mask) (f : Nat → α) : List (Nat × α) := ((List.range 128).filter fun i => flag m i).map fun i => (i, f i)

/-- The value that a list of (lane, value) holds for a lane. -/
def lookup (xs : List (Nat × Word)) (i : Nat) : Option Word := (xs.find? fun x => x.1 == i).map Prod.snd

/-- Write lanes of a register. -/
def Thread.wLanes (th : Thread) (d : BitVec 5) (xs : List (Nat × Word)) : Thread :=
  th.wv d (rowOf fun i => (lookup xs i).getD (lane (th.rv d) i))

/-- A VEC word whose active lanes compute a value and exceptions (R337, R51). -/
def vecFp (d : BitVec 5) (m : BitVec 3) (f : Thread → Nat → Word × Flags) (s : State) : Out :=
  finish .vec s (do
    let xs := activeOf (s.me.rm m) (f s.me)
    let s ← vecFlags s (xs.map fun x => (x.1, x.2.2))
    .ok (s.modMe fun th => th.wLanes d (xs.map fun x => (x.1, x.2.1))))

/-- Push a scalar to q6 (R73, R162). -/
def pushQ6 (s : State) (v : Dword) : Except Exit State :=
  if s.me.qfull 6 then holdAt s (.pushFull 6) else .ok (s.modMe fun th => th.pushS 6 v)

/-- SHAPE of a VEC word (R339). -/
def vecShape {α : Type} (s : State) (cause : Nat) (addr : Dword) : Except Exit α :=
  .error (.trap { code := .shape, estat := BitVec.ofNat 64 cause, addr := addr } s)

/-! ## Draws (R338, R124) -/

/-- A seed word stands in SYN's queue before VEC's head word in fetch order. -/
def Thread.seedBefore (th : Thread) (e : Engine) : Bool :=
  (th.iq.get 7).any fun x => decide (x.ord < th.ordOf e) && (match x.item with | .word w => field w 24 5 == 0x10 | _ => false)

/-- The top seed entry for a VEC word that draws, once every seed word before it has executed (R124); with an empty stack SHAPE. -/
def vecSeed (s : State) : Except Exit SeedEntry :=
  if s.me.seedBefore .vec then holdAt s (.engines [.syn])
  else match s.me.seeds with
    | [] => .error (.trap { code := .shape, estat := 0, addr := 0, openE := 0xFF } s)
    | e :: _ => .ok e

/-- 128 draws are consumed (R338). -/
def Thread.useDraws (th : Thread) : Thread :=
  { th with seeds := match th.seeds with | [] => [] | e :: es => { e with vec := e.vec + 128 } :: es }

/-- The rounding of a word whose TY selects it (R344), by lane, and whether it draws. -/
def tyMode (s : State) (t : BitVec 2) : Except Exit (Bool × (Nat → RMode)) :=
  if t = 2 then do
    let e ← vecSeed s
    .ok (true, fun i => .sr (vecDraw e.key (e.vec.toNat + i)))
  else .ok (false, fun _ => if t = 1 then .rz else s.me.mode)

/-! ## Integer arithmetic (R340) -/

/-- A lane as the type reads it: unsigned under TY 2. -/
def intIn (t : BitVec 2) (x : Word) : Int := if t = 2 then (x.toNat : Int) else x.toInt

/-- A result as the type gives it: wrapped, clamped signed, clamped unsigned. -/
def intOut (t : BitVec 2) (x : Int) : Word :=
  BitVec.ofInt 32 (if t = 1 then clampInt (intBounds 32 true) x else if t = 2 then clampInt (intBounds 32 false) x else x)

/-- vint of two operands by exact integers. -/
def vintOp (f : Int → Int → Int) (d a b : BitVec 5) (m : BitVec 3) (t : BitVec 2) (s : State) : Out :=
  vecLanes d m (fun th i => intOut t (f (intIn t (lane (th.rv a) i)) (intIn t (lane (th.rv b) i)))) s

/-- vint of two operands by bits. -/
def vintBits (f : Word → Word → Word) (d a b : BitVec 5) (m : BitVec 3) (s : State) : Out :=
  vecLanes d m (fun th i => f (lane (th.rv a) i) (lane (th.rv b) i)) s

/-- vint of one operand. -/
def vintUna (f : Int → Int) (d a : BitVec 5) (m : BitVec 3) (t : BitVec 2) (s : State) : Out :=
  vecLanes d m (fun th i => intOut t (f (intIn t (lane (th.rv a) i)))) s

/-- A shift amount: bits 4:0 of a lane. -/
def shAmt (b : Word) : Nat := field b 0 5

/-- vint.add (R340). -/
def execVintAdd (d a b : BitVec 5) (m : BitVec 3) (t : BitVec 2) (s : State) : Out :=
  vintOp (fun a b => a + b) d a b m t s

/-- vint.sub (R340). -/
def execVintSub (d a b : BitVec 5) (m : BitVec 3) (t : BitVec 2) (s : State) : Out :=
  vintOp (fun a b => a - b) d a b m t s

/-- vint.mul (R340). -/
def execVintMul (d a b : BitVec 5) (m : BitVec 3) (t : BitVec 2) (s : State) : Out :=
  vintOp (fun a b => a * b) d a b m t s

/-- vint.mulh (R340). -/
def execVintMulh (d a b : BitVec 5) (m : BitVec 3) (t : BitVec 2) (s : State) : Out :=
  vintOp (fun a b => a * b / 2 ^ 32) d a b m t s

/-- vint.and (R340). -/
def execVintAnd (d a b : BitVec 5) (m : BitVec 3) (s : State) : Out :=
  vintBits (fun a b => a &&& b) d a b m s

/-- vint.or (R340). -/
def execVintOr (d a b : BitVec 5) (m : BitVec 3) (s : State) : Out :=
  vintBits (fun a b => a ||| b) d a b m s

/-- vint.xor (R340). -/
def execVintXor (d a b : BitVec 5) (m : BitVec 3) (s : State) : Out :=
  vintBits (fun a b => a ^^^ b) d a b m s

/-- vint.andn (R340). -/
def execVintAndn (d a b : BitVec 5) (m : BitVec 3) (s : State) : Out :=
  vintBits (fun a b => a &&& ~~~b) d a b m s

/-- vint.shl (R340). -/
def execVintShl (d a b : BitVec 5) (m : BitVec 3) (s : State) : Out :=
  vintBits (fun a b => a <<< shAmt b) d a b m s

/-- vint.shr (R340). -/
def execVintShr (d a b : BitVec 5) (m : BitVec 3) (s : State) : Out :=
  vintBits (fun a b => a >>> shAmt b) d a b m s

/-- vint.sra (R340). -/
def execVintSra (d a b : BitVec 5) (m : BitVec 3) (s : State) : Out :=
  vintBits (fun a b => a.sshiftRight (shAmt b)) d a b m s

/-- vint.min (R340). -/
def execVintMin (d a b : BitVec 5) (m : BitVec 3) (t : BitVec 2) (s : State) : Out :=
  vintOp (fun a b => if b < a then b else a) d a b m t s

/-- vint.max (R340). -/
def execVintMax (d a b : BitVec 5) (m : BitVec 3) (t : BitVec 2) (s : State) : Out :=
  vintOp (fun a b => if a < b then b else a) d a b m t s

/-- vint.abs (R340). -/
def execVintAbs (d a : BitVec 5) (m : BitVec 3) (t : BitVec 2) (s : State) : Out :=
  vintUna (fun a => a.natAbs) d a m t s

/-- vint.neg (R340). -/
def execVintNeg (d a : BitVec 5) (m : BitVec 3) (t : BitVec 2) (s : State) : Out :=
  vintUna (fun a => -a) d a m t s

/-! ## Floating arithmetic and compares (R341 to R343) -/

/-- vflt of two operands (R341). -/
def vfltOp (f : RMode → Word → Word → Word × Flags) (d a b : BitVec 5) (m : BitVec 3) (s : State) : Out :=
  vecFp d m (fun th i => f th.mode (lane (th.rv a) i) (lane (th.rv b) i)) s

/-- A floating word of one operand (R341, R352). -/
def vfltUna (f : RMode → Word → Word × Flags) (d a : BitVec 5) (m : BitVec 3) (s : State) : Out :=
  vecFp d m (fun th i => f th.mode (lane (th.rv a) i)) s

/-- vfma (R342). -/
def vfmaOp (negProd negAdd : Bool) (d a b : BitVec 5) (m : BitVec 3) (s : State) : Out :=
  vecFp d m (fun th i => fFma th.mode negProd negAdd (lane (th.rv a) i) (lane (th.rv b) i) (lane (th.rv d) i)) s

/-- The order of two lanes (R343): below, equal, and whether one is NaN, with the NV of a quiet compare and of an ordered one. -/
structure LaneCmp where
  lt : Bool
  eq : Bool
  un : Bool
  nvQuiet : Flags
  nvOrd : Flags

/-- Compare two lanes under a type. -/
def laneCmp (t : BitVec 2) (a b : Word) : LaneCmp :=
  if t = 0 then
    let x := f32 a
    let y := f32 b
    { lt := valLt x y, eq := valEq x y, un := x.isNan || y.isNan, nvQuiet := sigFlag x ||| sigFlag y, nvOrd := if x.isNan || y.isNan then flNV else 0 }
  else { lt := decide (intIn t a < intIn t b), eq := a == b, un := false, nvQuiet := 0, nvOrd := 0 }

/-- vcmp (R343). -/
def vcmpOp (f : LaneCmp → Bool × Flags) (d : BitVec 3) (a b : BitVec 5) (m : BitVec 3) (t : BitVec 2) (s : State) : Out :=
  finish .vec s (do
    let th := s.me
    let xs := activeOf (th.rm m) fun i => f (laneCmp t (lane (th.rv a) i) (lane (th.rv b) i))
    let s ← vecFlags s (xs.map fun x => (x.1, x.2.2))
    .ok (s.modMe fun th => th.wm d (xs.foldl (fun w x => if x.2.1 then w ||| BitVec.ofNat 128 (2 ^ x.1) else w) 0)))

/-- vflt.add (R341). -/
def execVfltAdd (d a b : BitVec 5) (m : BitVec 3) (s : State) : Out :=
  vfltOp fAdd d a b m s

/-- vflt.sub (R341). -/
def execVfltSub (d a b : BitVec 5) (m : BitVec 3) (s : State) : Out :=
  vfltOp fSub d a b m s

/-- vflt.mul (R341). -/
def execVfltMul (d a b : BitVec 5) (m : BitVec 3) (s : State) : Out :=
  vfltOp fMul d a b m s

/-- vflt.div (R341). -/
def execVfltDiv (d a b : BitVec 5) (m : BitVec 3) (s : State) : Out :=
  vfltOp fDiv d a b m s

/-- vflt.min (R341). -/
def execVfltMin (d a b : BitVec 5) (m : BitVec 3) (s : State) : Out :=
  vfltOp (fun _ => fMinMax false) d a b m s

/-- vflt.max (R341). -/
def execVfltMax (d a b : BitVec 5) (m : BitVec 3) (s : State) : Out :=
  vfltOp (fun _ => fMinMax true) d a b m s

/-- vflt.abs (R341). -/
def execVfltAbs (d a : BitVec 5) (m : BitVec 3) (s : State) : Out :=
  vfltUna (fun _ => fSign fun x => x &&& 0x7FFFFFFF) d a m s

/-- vflt.neg (R341). -/
def execVfltNeg (d a : BitVec 5) (m : BitVec 3) (s : State) : Out :=
  vfltUna (fun _ => fSign fun x => x ^^^ 0x80000000) d a m s

/-- vfma.fma (R342). -/
def execVfmaFma (d a b : BitVec 5) (m : BitVec 3) (s : State) : Out :=
  vfmaOp false false d a b m s

/-- vfma.fms (R342). -/
def execVfmaFms (d a b : BitVec 5) (m : BitVec 3) (s : State) : Out :=
  vfmaOp false true d a b m s

/-- vfma.fnma (R342). -/
def execVfmaFnma (d a b : BitVec 5) (m : BitVec 3) (s : State) : Out :=
  vfmaOp true false d a b m s

/-- vfma.fnms (R342). -/
def execVfmaFnms (d a b : BitVec 5) (m : BitVec 3) (s : State) : Out :=
  vfmaOp true true d a b m s

/-- vcmp.eq (R343). -/
def execVcmpEq (d : BitVec 3) (a b : BitVec 5) (m : BitVec 3) (t : BitVec 2) (s : State) : Out :=
  vcmpOp (fun c => (c.eq, c.nvQuiet)) d a b m t s

/-- vcmp.ne (R343). -/
def execVcmpNe (d : BitVec 3) (a b : BitVec 5) (m : BitVec 3) (t : BitVec 2) (s : State) : Out :=
  vcmpOp (fun c => (!c.eq, c.nvQuiet)) d a b m t s

/-- vcmp.lt (R343). -/
def execVcmpLt (d : BitVec 3) (a b : BitVec 5) (m : BitVec 3) (t : BitVec 2) (s : State) : Out :=
  vcmpOp (fun c => (c.lt, c.nvOrd)) d a b m t s

/-- vcmp.le (R343). -/
def execVcmpLe (d : BitVec 3) (a b : BitVec 5) (m : BitVec 3) (t : BitVec 2) (s : State) : Out :=
  vcmpOp (fun c => (c.lt || c.eq, c.nvOrd)) d a b m t s

/-- vcmp.gt (R343). -/
def execVcmpGt (d : BitVec 3) (a b : BitVec 5) (m : BitVec 3) (t : BitVec 2) (s : State) : Out :=
  vcmpOp (fun c => (!c.lt && !c.eq && !c.un, c.nvOrd)) d a b m t s

/-- vcmp.ge (R343). -/
def execVcmpGe (d : BitVec 3) (a b : BitVec 5) (m : BitVec 3) (t : BitVec 2) (s : State) : Out :=
  vcmpOp (fun c => (!c.lt && !c.un, c.nvOrd)) d a b m t s

/-- vcmp.un (R343). -/
def execVcmpUn (d : BitVec 3) (a b : BitVec 5) (m : BitVec 3) (s : State) : Out :=
  vcmpOp (fun c => (c.un, c.nvQuiet)) d a b m 0 s

/-! ## Conversions (R344, R345) -/

/-- Element i of a packed string of width w (R345). -/
def packedAt (r : Row) (w i : Nat) : Nat := r.toNat / 2 ^ (w * i) % 2 ^ w

/-- The packed string of width w of the listed elements; every other bit is 0 (R345). -/
def packRow (w : Nat) (xs : List (Nat × Nat)) : Row := BitVec.ofNat 4096 (xs.foldl (fun n x => n + x.2 % 2 ^ w * 2 ^ (w * x.1)) 0)

/-- The element format that a format field names. -/
def fmtOf (b : BitVec 5) : EFmt := (eFmt b.toNat).getD (.int 8 true)

/-- A conversion of each active lane into a lane, rounded as TY gives. -/
def vcvtLanes (f : RMode → Word → Word × Flags) (d a : BitVec 5) (m : BitVec 3) (t : BitVec 2) (s : State) : Out :=
  finish .vec s (do
    let (draws, mode) ← tyMode s t
    let th := s.me
    let xs := activeOf (th.rm m) fun i => f (mode i) (lane (th.rv a) i)
    let s ← vecFlags s (xs.map fun x => (x.1, x.2.2))
    .ok (s.modMe fun th => (if draws then th.useDraws else th).wLanes d (xs.map fun x => (x.1, x.2.1))))

/-- vcvt.to (R344, R345). -/
def execVcvtTo (d a b : BitVec 5) (m : BitVec 3) (t : BitVec 2) (s : State) : Out :=
  finish .vec s (do
    let (draws, mode) ← tyMode s t
    let th := s.me
    let f := fmtOf b
    let xs := activeOf (th.rm m) fun i => toFmt f (mode i) (f32 (lane (th.rv a) i))
    let s ← vecFlags s (xs.map fun x => (x.1, x.2.2))
    .ok (s.modMe fun th => (if draws then th.useDraws else th).wv d (packRow f.width (xs.map fun x => (x.1, x.2.1)))))

/-- vcvt.from (R344, R345). -/
def execVcvtFrom (d a b : BitVec 5) (m : BitVec 3) (s : State) : Out :=
  vecFp d m (fun th i => fromFmt (fmtOf b) (packedAt (th.rv a) (fmtOf b).width i)) s

/-- vcvt.f2i (R344). -/
def execVcvtF2i (d a : BitVec 5) (m : BitVec 3) (t : BitVec 2) (s : State) : Out :=
  vcvtLanes (fun r x => let y := toIntFmt 32 true r (f32 x); (BitVec.ofNat 32 y.1, y.2)) d a m t s

/-- vcvt.i2f (R344). -/
def execVcvtI2f (d a : BitVec 5) (m : BitVec 3) (t : BitVec 2) (s : State) : Out :=
  vcvtLanes (fun r x => intToF32 r x.toInt) d a m t s

/-- vcvt.u2f (R344). -/
def execVcvtU2f (d a : BitVec 5) (m : BitVec 3) (t : BitVec 2) (s : State) : Out :=
  vcvtLanes (fun r x => intToF32 r x.toNat) d a m t s

/-! ## Reductions and scans (R349, R350) -/

/-- The operations of vred and vscan. -/
inductive RedOp where
  | sum | max | min | argmax | argmin
deriving DecidableEq, Repr

/-- A carried value with its lane. -/
abbrev RVal := Word × Nat

/-- `y` stands above `x` under a type, −0 below +0. -/
def redBelow (t : BitVec 2) (x y : Word) : Bool := if t = 0 then valBelow (f32 x) (f32 y) else decide (intIn t x < intIn t y)

/-- comb of two present values (R349). -/
def redComb (op : RedOp) (t : BitVec 2) (r : RMode) (x y : RVal) : RVal × Flags :=
  match op with
  | .sum => if t = 0 then (let z := fAdd r x.1 y.1; ((z.1, x.2), z.2)) else ((x.1 + y.1, x.2), 0)
  | .max => (if redBelow t x.1 y.1 then y else x, 0)
  | .argmax => (if redBelow t x.1 y.1 then y else x, 0)
  | .min => (if redBelow t y.1 x.1 then y else x, 0)
  | .argmin => (if redBelow t y.1 x.1 then y else x, 0)

/-- comb (R349): an absent value gives the other. -/
def redJoin (op : RedOp) (t : BitVec 2) (r : RMode) (x y : Option RVal) : Option RVal × Flags :=
  match x, y with
  | some a, some b => let z := redComb op t r a b; (some z.1, z.2)
  | some a, none => (some a, 0)
  | none, y => (y, 0)

/-- What lane i brings: absent when inactive, or an FP32 NaN of an operation other than .sum, with its flag (R349). -/
def redLane (op : RedOp) (t : BitVec 2) (m : Mask) (a : Row) (i : Nat) : Option RVal × Flags :=
  let x := lane a i
  if !flag m i then (none, 0)
  else if t = 0 ∧ op ≠ .sum ∧ (f32 x).isNan then (none, sigFlag (f32 x))
  else (some (x, i), 0)

/-- One level of the tree over adjacent values; `k` numbers the pair and `d` is half its span in lanes. -/
def redLevel (op : RedOp) (t : BitVec 2) (r : RMode) (d : Nat) : Nat → List (Option RVal) → List (Option RVal) × List (Nat × Flags)
  | k, x :: y :: rest =>
    let z := redJoin op t r x y
    let more := redLevel op t r d (k + 1) rest
    (z.1 :: more.1, (k * 2 * d, z.2) :: more.2)
  | _, xs => (xs, [])

/-- The tree of R349: the value left and the exceptions by lane. -/
def redTree (op : RedOp) (t : BitVec 2) (r : RMode) (m : Mask) (a : Row) : Option RVal × List (Nat × Flags) :=
  let ls := (List.range 128).map fun i => redLane op t m a i
  let z := [1, 2, 4, 8, 16, 32, 64].foldl (fun (z : List (Option RVal) × List (Nat × Flags)) d =>
    let l := redLevel op t r d 0 z.1
    (l.1, z.2 ++ l.2)) (ls.map Prod.fst, ls.zipIdx.map fun x => (x.2, x.1.2))
  (z.1.headD none, z.2)

/-- The result of an empty reduction (R349). -/
def redEmpty (op : RedOp) (t : BitVec 2) : Word :=
  match op with
  | .sum => 0
  | .max => if t = 0 then nan32 else if t = 1 then 0x80000000 else 0
  | .min => if t = 0 then nan32 else if t = 1 then 0x7FFFFFFF else 0xFFFFFFFF
  | .argmax => 0xFFFFFFFF
  | .argmin => 0xFFFFFFFF

/-- The word that a value gives as the result of an operation; a NaN that an FP32 sum passes on is canonical like any other (R49). -/
def redOut (op : RedOp) (t : BitVec 2) (x : Option RVal) : Word :=
  match x with
  | none => redEmpty op t
  | some v => match op with | .argmax => BitVec.ofNat 32 v.2 | .argmin => BitVec.ofNat 32 v.2 | _ => if t = 0 ∧ (f32 v.1).isNan then nan32 else v.1

/-- vred into lane 0 of vD (R349). -/
def vredOp (op : RedOp) (d a : BitVec 5) (m : BitVec 3) (t : BitVec 2) (s : State) : Out :=
  finish .vec s (do
    let z := redTree op t s.me.mode (s.me.rm m) (s.me.rv a)
    let s ← vecFlags s z.2
    .ok (s.modMe fun th => th.wLanes d [(0, redOut op t z.1)]))

/-- vred pushed to q6 (R349). -/
def vredPush (op : RedOp) (a : BitVec 5) (m : BitVec 3) (t : BitVec 2) (s : State) : Out :=
  finish .vec s (if s.me.qfull 6 then holdAt s (.pushFull 6) else do
    let z := redTree op t s.me.mode (s.me.rm m) (s.me.rv a)
    let s ← vecFlags s z.2
    pushQ6 s ((redOut op t z.1).setWidth 64))

/-- vscan (R350). -/
def vscanOp (op : RedOp) (excl : Bool) (d a : BitVec 5) (m : BitVec 3) (t : BitVec 2) (s : State) : Out :=
  finish .vec s (do
    let th := s.me
    let z := (List.range 128).foldl (fun (z : Option RVal × List (Nat × Word) × List (Nat × Flags)) i =>
      if flag (th.rm m) i then
        let x := redLane op t (th.rm m) (th.rv a) i
        let acc := redJoin op t th.mode z.1 x.1
        (acc.1, z.2.1 ++ [(i, redOut op t (if excl then z.1 else acc.1))], z.2.2 ++ [(i, x.2 ||| acc.2)])
      else z) (none, [], [])
    let s ← vecFlags s z.2.2
    .ok (s.modMe fun th => th.wLanes d z.2.1))

/-- vred.sum (R349). -/
def execVredSum (d a : BitVec 5) (m : BitVec 3) (t : BitVec 2) (s : State) : Out :=
  vredOp .sum d a m t s

/-- vred.max (R349). -/
def execVredMax (d a : BitVec 5) (m : BitVec 3) (t : BitVec 2) (s : State) : Out :=
  vredOp .max d a m t s

/-- vred.min (R349). -/
def execVredMin (d a : BitVec 5) (m : BitVec 3) (t : BitVec 2) (s : State) : Out :=
  vredOp .min d a m t s

/-- vred.argmax (R349). -/
def execVredArgmax (d a : BitVec 5) (m : BitVec 3) (t : BitVec 2) (s : State) : Out :=
  vredOp .argmax d a m t s

/-- vred.argmin (R349). -/
def execVredArgmin (d a : BitVec 5) (m : BitVec 3) (t : BitVec 2) (s : State) : Out :=
  vredOp .argmin d a m t s

/-- vred.sum to q6 (R349). -/
def execVredSumQ (a : BitVec 5) (m : BitVec 3) (t : BitVec 2) (s : State) : Out :=
  vredPush .sum a m t s

/-- vred.max to q6 (R349). -/
def execVredMaxQ (a : BitVec 5) (m : BitVec 3) (t : BitVec 2) (s : State) : Out :=
  vredPush .max a m t s

/-- vred.min to q6 (R349). -/
def execVredMinQ (a : BitVec 5) (m : BitVec 3) (t : BitVec 2) (s : State) : Out :=
  vredPush .min a m t s

/-- vred.argmax to q6 (R349). -/
def execVredArgmaxQ (a : BitVec 5) (m : BitVec 3) (t : BitVec 2) (s : State) : Out :=
  vredPush .argmax a m t s

/-- vred.argmin to q6 (R349). -/
def execVredArgminQ (a : BitVec 5) (m : BitVec 3) (t : BitVec 2) (s : State) : Out :=
  vredPush .argmin a m t s

/-- vscan.sum (R350). -/
def execVscanSum (d a : BitVec 5) (m : BitVec 3) (t : BitVec 2) (s : State) : Out :=
  vscanOp .sum false d a m t s

/-- vscan.max (R350). -/
def execVscanMax (d a : BitVec 5) (m : BitVec 3) (t : BitVec 2) (s : State) : Out :=
  vscanOp .max false d a m t s

/-- vscan.min (R350). -/
def execVscanMin (d a : BitVec 5) (m : BitVec 3) (t : BitVec 2) (s : State) : Out :=
  vscanOp .min false d a m t s

/-- vscan.sum.x (R350). -/
def execVscanSumX (d a : BitVec 5) (m : BitVec 3) (t : BitVec 2) (s : State) : Out :=
  vscanOp .sum true d a m t s

/-- vscan.max.x (R350). -/
def execVscanMaxX (d a : BitVec 5) (m : BitVec 3) (t : BitVec 2) (s : State) : Out :=
  vscanOp .max true d a m t s

/-- vscan.min.x (R350). -/
def execVscanMinX (d a : BitVec 5) (m : BitVec 3) (t : BitVec 2) (s : State) : Out :=
  vscanOp .min true d a m t s

/-! ## Permutes, moves, selection and special functions (R351 to R354) -/

/-- Bits 6:0 of a lane index. -/
def lix7 (x : Word) : Nat := field x 0 7

/-- vperm.idx (R351). -/
def execVpermIdx (d a b : BitVec 5) (m : BitVec 3) (s : State) : Out :=
  vecLanes d m (fun th i => lane (th.rv a) (lix7 (lane (th.rv b) i))) s

/-- vperm.rot (R351). -/
def execVpermRot (d a b : BitVec 5) (m : BitVec 3) (s : State) : Out :=
  vecLanes d m (fun th i => lane (th.rv a) ((i + lix7 (lane (th.rv b) 0)) % 128)) s

/-- vperm.bc (R351). -/
def execVpermBc (d a b : BitVec 5) (m : BitVec 3) (s : State) : Out :=
  vecLanes d m (fun th _ => lane (th.rv a) (lix7 (lane (th.rv b) 0))) s

/-- vsel (R351): every lane is written. -/
def execVsel (d a b : BitVec 5) (m : BitVec 3) (s : State) : Out :=
  vecLanes d 0 (fun th i => if flag (th.rm m) i then lane (th.rv a) i else lane (th.rv b) i) s

/-- vsfu.exp2 (R352). -/
def execVsfuExp2 (d a : BitVec 5) (m : BitVec 3) (s : State) : Out :=
  vfltUna sfuExp2 d a m s

/-- vsfu.log2 (R352). -/
def execVsfuLog2 (d a : BitVec 5) (m : BitVec 3) (s : State) : Out :=
  vfltUna sfuLog2 d a m s

/-- vsfu.rcp (R352). -/
def execVsfuRcp (d a : BitVec 5) (m : BitVec 3) (s : State) : Out :=
  vfltUna sfuRcp d a m s

/-- vsfu.rsqrt (R352). -/
def execVsfuRsqrt (d a : BitVec 5) (m : BitVec 3) (s : State) : Out :=
  vfltUna sfuRsqrt d a m s

/-- vsfu.sqrt (R352). -/
def execVsfuSqrt (d a : BitVec 5) (m : BitVec 3) (s : State) : Out :=
  vfltUna sfuSqrt d a m s

/-- vmov.splat (R351). -/
def execVmovSplat (d a : BitVec 5) (m : BitVec 3) (s : State) : Out :=
  vecLanes d m (fun th _ => (th.rs .vec (a.setWidth 6)).setWidth 32) s

/-- vmov.ins (R351). -/
def execVmovIns (d a b : BitVec 5) (s : State) : Out :=
  finish .vec s (.ok (s.modMe fun th => th.wLanes d [(field (th.rs .vec (b.setWidth 6)) 0 7, (th.rs .vec (a.setWidth 6)).setWidth 32)]))

/-- vmov.ext (R351). -/
def execVmovExt (a b : BitVec 5) (s : State) : Out :=
  finish .vec s (pushQ6 s ((lane (s.me.rv a) (field (s.me.rs .vec (b.setWidth 6)) 0 7)).setWidth 64))

/-- vmov.mv (R351). -/
def execVmovMv (d a : BitVec 5) (m : BitVec 3) (s : State) : Out :=
  vecLanes d m (fun th i => lane (th.rv a) i) s

/-- viota.idx (R351). -/
def execViotaIdx (d : BitVec 5) (m : BitVec 3) (s : State) : Out :=
  vecLanes d m (fun _ i => BitVec.ofNat 32 i) s

/-- viota.cnt (R351). -/
def execViotaCnt (d : BitVec 5) (a m : BitVec 3) (s : State) : Out :=
  vecLanes d m (fun th i => BitVec.ofNat 32 ((List.range i).filter fun j => flag (th.rm a) j).length) s

/-! ## N:M compression (R355) -/

/-- The dense positions of one column, best key first, the lower first among equals. -/
def keyInsert (x : Nat × Nat) : List (Nat × Nat) → List (Nat × Nat)
  | [] => [x]
  | y :: ys => if y.2 < x.2 then x :: y :: ys else y :: keyInsert x ys

/-- The n positions of largest key, in increasing order. -/
def chosen (n : Nat) (keys : List Nat) : List Nat :=
  let best := ((keys.zipIdx.map fun x => (x.2, x.1)).foldl (fun l x => keyInsert x l) []).take n
  (List.range keys.length).filter fun k => best.any fun x => x.1 == k

/-- vcomp (R355). -/
def execVcomp (d a b : BitVec 5) (m : BitVec 3) (n : BitVec 4) (t : BitVec 2) (s : State) : Out :=
  let big := 4 * 2 ^ t.toNat
  let w := t.toNat + 2
  finish .vec s (
    if 31 < a.toNat + big - 1 ∨ 31 < d.toNat + n.toNat - 1 ∨ 31 < b.toNat + 3 then vecShape s 1 0
    else match s.me.qs.get 7 with
      | [] => holdAt s (.popEmpty 7)
      | q :: _ =>
        let g := field q 0 8
        if bits q 8 56 ≠ 0 ∨ 128 < (g + 1) * n.toNat * w then vecShape s 2 q
        else
          let th := s.me
          let cols := activeOf (th.rm m) fun j => chosen n.toNat ((List.range big).map fun k => field (lane (th.v.get (a.toNat + k)) j) 0 31)
          let pos := fun (j t : Nat) => match cols.find? fun c => c.1 == j with | some c => c.2[t]? | none => none
          let dense := fun (th' : Thread) (t : Nat) =>
            { th' with v := th'.v.set (d.toNat + t) (rowOf fun j =>
                match pos j t with | some k => lane (th.v.get (a.toNat + k)) j | none => lane (th'.v.get (d.toNat + t)) j) }
          let index := fun (t : Nat) (th' : Thread) (r : Nat) =>
            { th' with v := th'.v.set (b.toNat + r) (rowOf fun j =>
                let x := lane (th'.v.get (b.toNat + r)) j
                match pos j t with
                | none => x
                | some k => (List.range w).foldl (fun (x : Word) z =>
                    let at_ := (g * n.toNat + t) * w + z
                    let one := BitVec.ofNat 32 (2 ^ (at_ % 32))
                    if at_ / 32 ≠ r then x else if k / 2 ^ z % 2 = 1 then x ||| one else x &&& ~~~one) x) }
          .ok (s.modMe fun th => (List.range n.toNat).foldl (fun th t => (List.range 4).foldl (index t) (dense th t)) (th.dropS 7)))

/-! ## Quantisation (R346 to R348) -/

/-- The largest magnitude of a quantisation format (R347). -/
def maxOf (b : BitVec 5) : Frac :=
  if b = 0 then ⟨127, 1⟩ else if b = 1 then ⟨7, 1⟩ else if b = 2 then ⟨1, 1⟩ else if b = 0x0B then ⟨448, 1⟩ else if b = 0x0C then ⟨57344, 1⟩
  else if b = 0x0D then ⟨28, 1⟩ else if b = 0x0E then ⟨15, 2⟩ else ⟨6, 1⟩

/-- The active lanes of block b. -/
def blockLanes (m : Mask) (b : Nat) : List Nat := ((List.range 32).map fun i => 32 * b + i).filter fun i => flag m i

/-- The given scales of a register, checked for the blocks that have an active lane (R34, R347): the failing block, whether by parity, and the word. -/
def givenBad (m : Mask) (r : Row) : Option (Nat × Bool × BitVec 20) :=
  (List.range 4).findSome? fun b =>
    let x : BitVec 20 := (lane r b).setWidth 20
    if (blockLanes m b).isEmpty then none
    else if s20Odd x then some (b, true, x)
    else if s20Exp x = 255 then some (b, false, x)
    else none

/-- The trap of a scale that fails (R339); one of odd parity is logged as it is raised (R458, R465). -/
def scaleTrap {α : Type} (s : State) (x : Nat × Bool × BitVec 20) : Except Exit α :=
  if x.2.1 then .error (.trap { code := .scaleParity, estat := BitVec.ofNat 64 x.1, addr := x.2.2.setWidth 64 } s)
  else vecShape s 3 (x.2.2.setWidth 64)

/-- The given scales of a register. -/
def givenScales (r : Row) : List (BitVec 20) := (List.range 4).map fun b => (lane r b).setWidth 20

/-- The greatest finite magnitude of some lanes. -/
def largestOf (a : Row) (ls : List Nat) : Frac :=
  ls.foldl (fun m i => let x := f32 (lane a i); if x.finite then FracOps.max m (FracOps.abs x.frac) else m) ⟨0, 1⟩

/-- The computed scale of block b and its exception (R347). -/
def computedScale (m : Mask) (a : Row) (fmt : BitVec 5) (b : Nat) : BitVec 20 × Flags :=
  let amax := largestOf a (blockLanes m b)
  if amax.num = 0 then (0, 0)
  else
    let q := FracOps.div amax (maxOf fmt)
    s20Above q.num.toNat q.den

/-- x ÷ σ, and 0 for a zero scale (R347). -/
def scaledDown (x : FVal) (sc : Frac) : FVal :=
  if sc.num = 0 then .num false 0 1
  else match x with
    | .num s n d => .num s (n * sc.den) (d * sc.num.toNat)
    | v => v

/-- The residual of an element (R347). -/
def residual (f : EFmt) (x : FVal) (sc : Frac) (q : Nat) : Word :=
  if !x.finite then 0
  else match fmtVal f q with
    | .num s n d => (round32 .rne (FracOps.sub x.frac (FracOps.mul ⟨if s then -(n : Int) else n, d⟩ sc)) false).1
    | .inf s => inf32 (!s)
    | .nan _ => nan32

/-- vqnt (R346, R347): `given` takes the scales of vD+1, `res` writes the residuals to vA. -/
def vqntOp (given res : Bool) (d a b : BitVec 5) (m : BitVec 3) (t : BitVec 2) (s : State) : Out :=
  finish .vec s (
    if d = 31 then vecShape s 1 0
    else do
      let (draws, mode) ← tyMode s t
      let th := s.me
      let mask := th.rm m
      let row := th.rv a
      if given then
        match givenBad mask (th.rv (d + 1)) with
        | some x => scaleTrap s x
        | none => .ok ()
      let made := (List.range 4).map fun k => computedScale mask row b k
      let scales := if given then givenScales (th.rv (d + 1)) else made.map Prod.fst
      let sc := fun (i : Nat) => s20Val (scales.getD (i / 32) 0)
      let f := fmtOf b
      let qs := activeOf mask fun i => toFmt f (mode i) (scaledDown (f32 (lane row i)) (sc i))
      let scaleFl := if given then [] else made.zipIdx.map fun x => ((blockLanes mask x.2).headD 0, x.1.2)
      let s ← vecFlags s (scaleFl ++ qs.map fun x => (x.1, x.2.2))
      .ok (s.modMe fun th =>
        let th := if draws then th.useDraws else th
        let th := th.wv d (packRow f.width (qs.map fun x => (x.1, x.2.1)))
        let th := if given then th else th.wLanes (d + 1) (scales.zipIdx.map fun x => (x.2, x.1.setWidth 32))
        if res then th.wLanes a (qs.map fun x => (x.1, residual f (f32 (lane row x.1)) (sc x.1) x.2.1)) else th))

/-- value(q) × σ as an exact value; `none` is an infinity times a zero scale (R348). -/
def scaledUp (v : FVal) (sc : Frac) : Option FVal := mulVal v (.num false sc.num.toNat sc.den)

/-- vdqnt (R348). -/
def vdqntOp (acc : Bool) (d a b : BitVec 5) (m : BitVec 3) (s : State) : Out :=
  finish .vec s (
    if a = 31 then vecShape s 1 0
    else do
      let th := s.me
      let mask := th.rm m
      match givenBad mask (th.rv (a + 1)) with
      | some x => scaleTrap s x
      | none => .ok ()
      let scales := givenScales (th.rv (a + 1))
      let f := fmtOf b
      let xs := activeOf mask fun i =>
        match scaledUp (fmtVal f (packedAt (th.rv a) f.width i)) (s20Val (scales.getD (i / 32) 0)) with
        | none => (nan32, flNV)
        | some v => if acc then addVal th.mode (f32 (lane (th.rv d) i)) v else roundVal th.mode v
      let s ← vecFlags s (xs.map fun x => (x.1, x.2.2))
      .ok (s.modMe fun th => th.wLanes d (xs.map fun x => (x.1, x.2.1))))

/-- vqnt.c (R346, R347). -/
def execVqntC (d a b : BitVec 5) (m : BitVec 3) (t : BitVec 2) (s : State) : Out :=
  vqntOp false false d a b m t s

/-- vqnt.cr (R346, R347). -/
def execVqntCr (d a b : BitVec 5) (m : BitVec 3) (t : BitVec 2) (s : State) : Out :=
  vqntOp false true d a b m t s

/-- vqnt.g (R346, R347). -/
def execVqntG (d a b : BitVec 5) (m : BitVec 3) (t : BitVec 2) (s : State) : Out :=
  vqntOp true false d a b m t s

/-- vqnt.gr (R346, R347). -/
def execVqntGr (d a b : BitVec 5) (m : BitVec 3) (t : BitVec 2) (s : State) : Out :=
  vqntOp true true d a b m t s

/-- vdqnt (R348). -/
def execVdqnt (d a b : BitVec 5) (m : BitVec 3) (s : State) : Out :=
  vdqntOp false d a b m s

/-- vdqnt.acc (R348). -/
def execVdqntAcc (d a b : BitVec 5) (m : BitVec 3) (s : State) : Out :=
  vdqntOp true d a b m s

/-! ## Draws, masks and queue rows (R356 to R358) -/

/-- vrand (R356): `f` makes a lane from its draw. -/
def vrandOp (f : BitVec 32 → Word) (d : BitVec 5) (m : BitVec 3) (s : State) : Out :=
  finish .vec s (do
    let e ← vecSeed s
    .ok (s.modMe fun th => th.useDraws.wv d (mergeRow (th.rm m) (th.rv d) fun i => f (vecDraw e.key (e.vec.toNat + i)))))

/-- A uniform FP32 value of a draw (R56). -/
def uniform32 (x : BitVec 32) : Word := (round32 .rne ⟨(x >>> 8).toNat, 2 ^ 24⟩ false).1

/-- vmask of two masks (R357). -/
def vmaskOp (f : Mask → Mask → Mask) (d a b : BitVec 3) (s : State) : Out :=
  finish .vec s (.ok (s.modMe fun th => th.wm d (f (th.rm a) (th.rm b))))

/-- The lowest set bit of a mask alone (R357). -/
def lowestBit (x : Mask) : Mask := x &&& (0 - x)

/-- vqin of a row (R358). -/
def vqinRow (q : Nat) (d : BitVec 5) (m : BitVec 3) (s : State) : Out :=
  finish .vec s (match s.me.qr.get q with
    | [] => holdAt s (.popEmpty q)
    | r :: _ => .ok (s.modMe fun th => (th.dropR q).wv d (mergeRow (th.rm m) (th.rv d) fun i => lane r i)))

/-- vqout (R358): inactive lanes are pushed as zero. -/
def vqoutRow (q : Nat) (a : BitVec 5) (m : BitVec 3) (s : State) : Out :=
  finish .vec s (if s.me.qfull q then holdAt s (.pushFull q)
    else .ok (s.modMe fun th => th.pushR q (mergeRow (th.rm m) 0 fun i => lane (th.rv a) i)))

/-- vrand.u (R356). -/
def execVrandU (d : BitVec 5) (m : BitVec 3) (s : State) : Out :=
  vrandOp (fun x => x) d m s

/-- vrand.f (R356). -/
def execVrandF (d : BitVec 5) (m : BitVec 3) (s : State) : Out :=
  vrandOp uniform32 d m s

/-- vmask.and (R357). -/
def execVmaskAnd (d a b : BitVec 3) (s : State) : Out :=
  vmaskOp (fun a b => a &&& b) d a b s

/-- vmask.or (R357). -/
def execVmaskOr (d a b : BitVec 3) (s : State) : Out :=
  vmaskOp (fun a b => a ||| b) d a b s

/-- vmask.xor (R357). -/
def execVmaskXor (d a b : BitVec 3) (s : State) : Out :=
  vmaskOp (fun a b => a ^^^ b) d a b s

/-- vmask.andn (R357). -/
def execVmaskAndn (d a b : BitVec 3) (s : State) : Out :=
  vmaskOp (fun a b => a &&& ~~~b) d a b s

/-- vmask.not (R357). -/
def execVmaskNot (d a : BitVec 3) (s : State) : Out :=
  vmaskOp (fun a _ => ~~~a) d a a s

/-- vmask.mov (R357). -/
def execVmaskMov (d a : BitVec 3) (s : State) : Out :=
  vmaskOp (fun a _ => a) d a a s

/-- vmask.first (R357). -/
def execVmaskFirst (d a : BitVec 3) (s : State) : Out :=
  vmaskOp (fun a _ => lowestBit a) d a a s

/-- vmask.cnt (R357). -/
def execVmaskCnt (a : BitVec 3) (s : State) : Out :=
  finish .vec s (pushQ6 s (BitVec.ofNat 64 ((List.range 128).filter fun i => flag (s.me.rm a) i).length))

/-- vqin from q2 (R358). -/
def execVqin (d : BitVec 5) (m : BitVec 3) (s : State) : Out :=
  vqinRow 2 d m s

/-- vqin from q5 (R358). -/
def execVqinQ5 (d : BitVec 5) (m : BitVec 3) (s : State) : Out :=
  vqinRow 5 d m s

/-- vqin.s from q7 (R358). -/
def execVqinS (d : BitVec 5) (m : BitVec 3) (s : State) : Out :=
  finish .vec s (match s.me.qs.get 7 with
    | [] => holdAt s (.popEmpty 7)
    | v :: _ => .ok (s.modMe fun th => (th.dropS 7).wv d (mergeRow (th.rm m) (th.rv d) fun _ => v.setWidth 32)))

/-- vqout to q3 (R358). -/
def execVqout (a : BitVec 5) (m : BitVec 3) (s : State) : Out :=
  vqoutRow 3 a m s

/-- vqout to q11 (R358). -/
def execVqoutQ11 (a : BitVec 5) (m : BitVec 3) (s : State) : Out :=
  vqoutRow 11 a m s

end Sys2Proof.Machine
end

