-- ==== Sys2Proof/Machine/Mat.lean ====
section
/-! DEFINITION. MAT (chapter The Matrix Engine): tile commands checked and recorded, commits and waits, accumulator moves, checksums. The array itself
stands in Array. -/

namespace Sys2Proof.Machine

/-! ## Trap reports (R384) -/

/-- An issue-time SHAPE or LAYOUT_TAG: cause and operand, with the format word. -/
def matTrap {α : Type} (s : State) (code : TrapCode) (low : Nat) (fw : Dword) : Except Exit α :=
  .error (.trap { code := code, estat := BitVec.ofNat 64 low, addr := fw } s)

/-- A SHAPE of a word that pops no format word, whose ADDR no rule lays down. -/
def matShape {α : Type} (s : State) (cause : Nat) : Except Exit α :=
  .error (.trap { code := .shape, estat := BitVec.ofNat 64 cause, addr := 0, openA := true } s)

/-- The word names an accumulator with work in flight (R375): ACC_IN_FLIGHT. -/
def accBusy (s : State) (k : BitVec 2) : Except Exit Unit :=
  let th := s.me
  let low := if th.batch.any fun c => c.acc == k.toNat then some 256
    else if th.batches.any fun b => b.cmds.any fun c => c.acc == k.toNat then some 0
    else none
  match low with
  | some x => .error (.trap { code := .accInFlight, estat := BitVec.ofNat 64 (x + k.toNat), addr := 0, openA := true } s)
  | none => .ok ()

/-- A scalar that a MAT word names in VM (R359). -/
def Thread.matScalar (th : Thread) (v : BitVec 5) : Dword := th.rs .mat (v.setWidth 6)

/-! ## Tile commands (R363 to R366) -/

/-- The word pushes to q0: qpush to q0, or fmt.q (R163). -/
def pushesQ0 (w : Word) : Bool := bits w 18 14 == (0x500 : BitVec 14) || (bits w 24 8 == (0x16 : BitVec 8) && bits w 0 6 == (2 : BitVec 6))

/-- A tile command pops its format word, before its other checks and waits (R163); the word stands with it until it is recorded. -/
def popFormat (s : State) : Except Exit (Dword × State) :=
  let th := s.me
  match th.fmtHeld, th.qs.get 0 with
  | some fw, _ => .ok (fw, s)
  | none, fw :: _ => .ok (fw, s.modMe fun th => { th.dropS 0 with fmtHeld := some fw })
  | none, [] =>
    if (th.iq.get 0).any fun x => decide (x.ord < th.ordOf .mat) && (match x.item with | .word w => pushesQ0 w | _ => false) then
      holdAt s (.engines [.seq])
    else trapAt s .formatUnderflow 0 0

/-- Whether CLASS agrees with the word (R364 check 4). -/
def classOk (op cls : Nat) : Bool := if op = 4 then cls == 0 || cls == 3 else cls == op

/-- A handle of a tile command is allocated to the issuing gang and not free (R364 check 9). -/
def matHandle (s : State) (h : BitVec 6) (fw : Dword) : Except Exit Unit :=
  let x := s.handles.get (handleKey s.me.cluster h.toNat)
  if x.owner = s.me.gang + 1 ∧ x.st ≠ .free then .ok () else matTrap s .shape 5 fw

/-- Wait for a tile's header and check it, once (R364 check 10, R365): the tile's base and header, and the state in which they are noted. -/
def matHeader (s : State) (isB : Bool) (h : BitVec 6) (w : TileWait) (fw : Dword) : Except Exit ((Nat × TileHdr) × State) :=
  match (if isB then w.b else w.a) with
  | some y => .ok (y, s)
  | none =>
    let x := s.handles.get (handleKey s.me.cluster h.toNat)
    if x.wp < 64 ∧ !(x.st == .full || x.st == .draining || x.st == .aborted) then holdAt s .outside
    else do
      let (bs, poison) ← s.spadRead s.cur .mat x.base 64
      let s := s.readTaint s.cur .mat poison false
      let hdr : TileHdr := { d0 := dwAt bs 0, d1 := dwAt bs 8, d2 := dwAt bs 16 }
      let cause := headerCause fw isB hdr x.len
      if cause = 0 then
        let note := fun (v : TileWait) => if isB then { v with b := some (x.base, hdr) } else { v with a := some (x.base, hdr) }
        .ok ((x.base, hdr), s.modMe fun th => { th with tileAt := th.tileAt.map note })
      else matTrap s .layoutTag (cause + if isB then 256 else 0) fw

/-- The phase check of a tile (R364 check 11). -/
def matPhase (s : State) (a n : Nat) (write : Bool) : Except Exit Unit :=
  match s.phaseCheck s.cur .mat a n write with
  | some i => .error (.trap i s)
  | none => .ok ()

/-- The handles that a list of commands names, each once. -/
def handlesOf (cs : List MatCmd) : List Nat := (cs.flatMap fun c => [c.ha, c.hb]).eraseDups

/-- The open batch is committed (R366): its entry, its handles' RDR, its number. -/
def commitBatch (s : State) (op : BitVec 5) : Except Exit State :=
  let th := s.me
  if 4 ≤ th.batches.length then holdAt s .outside
  else do
    let (_, s) ← takeEntry s .mat op th.bn
    let hs := handlesOf s.me.batch
    let bind := fun (x : Handle) => { x with rdr := x.rdr + 1, st := if x.st = HandleSt.full then HandleSt.draining else x.st }
    let s : State := { s with handles := hs.foldl (fun t h => t.mod (handleKey th.cluster h) bind) s.handles }
    .ok (s.modMe fun th =>
      { th with
        batches := th.batches ++
          [{ bn := th.bn, cmds := th.batch, done := 0, started := false, drawAt := 0, pos := 0, got := [], touched := false, rerun := false, handles := hs, since := s.clk }]
        batch := [], bn := th.bn + 1, fmtHeld := none, commitWait := false })

/-- Checks 3 to 9 of a tile command, which come before its waits: they are made once, and leave the metadata read (R364). -/
def tileForm (op : BitVec 5) (a b : BitVec 6) (v : BitVec 5) (ck : Bool) (n : BitVec 3) (fw : Dword) (s : State) : Except Exit (TileWait × State) :=
  let th := s.me
  match th.tileAt with
  | some w => .ok (w, s)
  | none => do
    let shape := fun (c : Nat) (bad : Bool) => if bad then matTrap (α := Unit) s .shape c fw else .ok ()
    shape 1 (!fwOk fw v.toNat)
    shape 2 (!classOk op.toNat (fwClass fw))
    shape 3 ((decide (3 ≤ op.toNat) && (fwFC fw != 0 || fwSC fw != 0)) || (ck && fwFC fw != 0))
    shape 8 (op == 4 && decide (fwN fw < n.toNat + 1))
    let regs := if fwClass fw = 1 then th.v.getRange v.toNat ((fwT fw * idxBits fw + 31) / 32) else []
    if op = 1 ∧ !metaOk fw regs then .error (.trap { code := .sparseMeta, estat := 0, addr := 0, openE := 0xFF, openA := true } s)
    shape 4 (decide (32 ≤ th.batch.length))
    matHandle s a fw
    matHandle s b fw
    let w : TileWait := { regs := regs, a := none, b := none, phased := false }
    .ok (w, s.modMe fun th => { th with tileAt := some w })

/-- A tile command (R364): `op` its OP, `v` the first metadata register, `ck` CK, `commit` CB, `n` k − 1 of mtopk. A command that waits goes on from the check at which it
waits, one that must wait at its commit having been recorded. -/
def tileCmd (op : BitVec 5) (k : BitVec 2) (a b : BitVec 6) (v : BitVec 5) (ck commit : Bool) (n : BitVec 3) (s : State) : Out :=
  finish .mat s (if s.me.commitWait then commitBatch s op else do
    let (fw, s) ← popFormat s
    let (w, s) ← tileForm op a b v ck n fw s
    let (xa, s) ← matHeader s false a w fw
    let (xb, s) ← matHeader s true b w fw
    if !w.phased then
      matPhase s xa.1 xa.2.tsz false
      matPhase s xb.1 xb.2.tsz false
    let s := s.modMe fun th => { th with tileAt := th.tileAt.map fun w => { w with phased := true } }
    let draws := fwRND fw = 2
    if draws ∧ s.me.seedBefore .mat then holdAt s (.engines [.syn])
    if draws ∧ s.me.seeds.isEmpty then matTrap s .shape 10 fw
    let c : MatCmd :=
      { op := op, acc := k.toNat, fw := fw, ha := a.toNat, hb := b.toNat, baseA := xa.1, baseB := xb.1, hdrA := xa.2, hdrB := xb.2,
        mdat := w.regs, ck := ck, k := n.toNat + 1, seed := s.me.seeds.length - 1, pc := s.me.pc .mat, spoilt := false }
    if commit then commitBatch (s.modMe fun th => { th with batch := th.batch ++ [c], tileAt := none, commitWait := true }) op
    else .ok (s.modMe fun th => { th with batch := th.batch ++ [c], tileAt := none, fmtHeld := none }))

/-- mma (R360, R364). -/
def execMma (k : BitVec 2) (a b : BitVec 6) (c e : BitVec 1) (s : State) : Out := tileCmd 0 k a b 0 (c == 1) (e == 1) 0 s

/-- mmas (R360, R364). -/
def execMmas (k : BitVec 2) (a b : BitVec 6) (v : BitVec 5) (c e : BitVec 1) (s : State) : Out := tileCmd 1 k a b v (c == 1) (e == 1) 0 s

/-- mmat (R360, R364). -/
def execMmat (k : BitVec 2) (a b : BitVec 6) (c e : BitVec 1) (s : State) : Out := tileCmd 2 k a b 0 (c == 1) (e == 1) 0 s

/-- mdist (R364, R370). -/
def execMdist (k : BitVec 2) (a b : BitVec 6) (e : BitVec 1) (s : State) : Out := tileCmd 3 k a b 0 false (e == 1) 0 s

/-- mtopk (R364, R371). -/
def execMtopk (k : BitVec 2) (a b : BitVec 6) (e : BitVec 1) (n : BitVec 3) (s : State) : Out := tileCmd 4 k a b 0 false (e == 1) n s

/-- mcommit (R366). -/
def execMcommit (s : State) : Out := finish .mat s (if s.me.batch.isEmpty then .ok s else commitBatch s 0x0A)

/-- mwait (R374). -/
def execMwait (n : BitVec 2) (s : State) : Out := finish .mat s (if s.me.batches.length ≤ n.toNat then .ok s else holdAt s .outside)

/-- mwait.acc (R374). -/
def execMwaitAcc (k : BitVec 2) (s : State) : Out :=
  finish .mat s (
    if s.me.batch.any fun c => c.acc == k.toNat then accBusy s k |>.map fun _ => s
    else if s.me.batches.any fun b => b.cmds.any fun c => c.acc == k.toNat then holdAt s .outside
    else .ok s)

/-! ## Moving accumulators (R376 to R379) -/

/-- mzero (R376). -/
def execMzero (k : BitVec 2) (s : State) : Out :=
  finish .mat s (do
    accBusy s k
    .ok (s.modMe fun th => { th.setTile k.toNat Tile.zero with accSt := th.accSt.set k.toNat default }))

/-- The scratchpad range of mload and mstore (R377, R378): alignment, then the range, then the phase set. -/
def matRange (s : State) (op : Dword) (n : Nat) (write : Bool) : Except Exit Nat :=
  if field op 0 4 ≠ 0 then .error (.trap { code := .align, estat := 0, addr := op, openE := 0xFF } s)
  else do
    let a ← s.spadOperand s.cur .mat op n { code := .shape, estat := 6, addr := op }
    matPhase s a n write
    .ok a

/-- An mload or mstore: its rows move from the clock at which it executes, one a clock, and it holds MAT until its last one has moved; an mload with CK = 1 then
requires KIND 0 (R377). -/
def moveWord (k : BitVec 2) (check : Except Exit Nat) (m : Nat → MatMove) (s : State) : Out :=
  finish .mat s (
    if s.me.moveBad then matShape (s.modMe fun th => { th with move := none }) 9
    else if s.me.moveDone then .ok (s.modMe Thread.endMove)
    else if s.me.moveBusy then holdAt s .outside
    else do
      accBusy s k
      let a ← check
      holdAt (s.modMe fun th => { th with move := some (m a) }) .outside)

/-- mload (R377). -/
def execMload (k : BitVec 2) (v : BitVec 5) (c i : BitVec 1) (s : State) : Out :=
  moveWord k (matRange s (s.me.matScalar v) (if c = 1 then 66560 else 65536) false)
    (fun a => { load := true, acc := k.toNat, base := a, ck := c == 1, fl := i.toNat, row := 0, got := [], touched := false }) s

/-- mstore (R378). -/
def execMstore (k : BitVec 2) (v : BitVec 5) (c : BitVec 1) (f : BitVec 3) (s : State) : Out :=
  moveWord k
    (if (f ≠ 0 ∧ (c = 1 ∨ (s.me.accSt.get k.toNat).kindInt)) then matShape s 9
     else matRange s (s.me.matScalar v) (if c = 1 then 66560 else 16384 * storeBytes f.toNat) true)
    (fun a => { load := false, acc := k.toNat, base := a, ck := c == 1, fl := f.toNat, row := 0, got := [], touched := false }) s

/-- FIRST and COUNT of mrd and mwr (R379). -/
def matSpan (s : State) (op : Dword) : Except Exit (Nat × Nat) :=
  let first := field op 0 7
  let count := field op 8 7 + 1
  if flag op 7 ∨ bits op 15 49 ≠ 0 ∨ 128 < first + count then .error (.trap { code := .shape, estat := 6, addr := op } s) else .ok (first, count)

/-- A column of an accumulator as a row (R362). -/
def Tile.colRow (t : Tile) (j : Nat) : Row := rowOf fun i => lane (t.rows.getD i 0) j

/-- Replace a row. -/
def Tile.setRow (t : Tile) (i : Nat) (r : Row) : Tile := { t with rows := t.rows.zipIdx.map fun x => if x.2 = i then r else x.1 }

/-- Replace one lane of a row. -/
def setLane (r : Row) (j : Nat) (x : Word) : Row := rowOf fun l => if l = j then x else lane r l

/-- Replace a column. -/
def Tile.setCol (t : Tile) (j : Nat) (r : Row) : Tile := { t with rows := t.rows.zipIdx.map fun x => setLane x.1 j (lane r x.2) }

/-- Push entries to q5 from the place reached on, as far as there is room; `fuel` bounds them (R379). -/
def pushRows (count : Nat) (row : Thread → Nat → Row) : Nat → State → Except Exit State
  | 0, s => .ok s
  | fuel + 1, s =>
    let n := s.me.mat.pushed
    if count ≤ n then .ok (s.modMe fun th => { th with mat := default })
    else if s.me.qfull 5 then holdAt s (.pushFull 5)
    else pushRows count row fuel (s.modMe fun th => { th.pushR 5 (row th n) with mat := { th.mat with pushed := n + 1 } })

/-- Pop entries of q11 from the place reached on, as far as there are any (R379). -/
def popRows (count : Nat) (put : Thread → Nat → Row → Thread) : Nat → State → Except Exit State
  | 0, s => .ok s
  | fuel + 1, s =>
    let n := s.me.mat.pushed
    if count ≤ n then .ok (s.modMe fun th => { th with mat := default })
    else match s.me.qr.get 11 with
      | [] => holdAt s (.popEmpty 11)
      | r :: _ => popRows count put fuel (s.modMe fun th => { (put (th.dropR 11) n r) with mat := { th.mat with pushed := n + 1 } })

/-- mrd of rows or columns (R379). -/
def mrdSpan (k : BitVec 2) (v : BitVec 5) (row : Tile → Nat → Row) (s : State) : Out :=
  finish .mat s (do
    accBusy s k
    let (first, count) ← matSpan s (s.me.matScalar v)
    pushRows count (fun th n => row (th.tile k.toNat) (first + n)) 129 s)

/-- mrd.row (R379). -/
def execMrdRow (k : BitVec 2) (v : BitVec 5) (s : State) : Out := mrdSpan k v (fun t i => t.rows.getD i 0) s

/-- mrd.col (R379). -/
def execMrdCol (k : BitVec 2) (v : BitVec 5) (s : State) : Out := mrdSpan k v Tile.colRow s

/-- Push one row to q5 (R379, R380). -/
def pushQ5 (s : State) (r : Row) : Except Exit State := if s.me.qfull 5 then holdAt s (.pushFull 5) else .ok (s.modMe fun th => th.pushR 5 r)

/-- mrd.rck (R379). -/
def execMrdRck (k : BitVec 2) (s : State) : Out :=
  finish .mat s (do
    accBusy s k
    pushQ5 s (s.me.rck.get k.toNat))

/-- mrd.cck (R379). -/
def execMrdCck (k : BitVec 2) (s : State) : Out :=
  finish .mat s (do
    accBusy s k
    pushQ5 s (s.me.cck.get k.toNat))

/-- mwr of rows or columns (R379). -/
def mwrSpan (k : BitVec 2) (v : BitVec 5) (i : BitVec 1) (put : Tile → Nat → Row → Tile) (s : State) : Out :=
  finish .mat s (do
    accBusy s k
    let (first, count) ← matSpan s (s.me.matScalar v)
    popRows count (fun th n r =>
      { th.setTile k.toNat (put (th.tile k.toNat) (first + n) r) with
        accSt := th.accSt.mod k.toNat fun x => { kindInt := i == 1, ckvOff := true, loc := .none, win := { x.win with bad := true } } }) 129 s)

/-- mwr.row (R379). -/
def execMwrRow (k : BitVec 2) (v : BitVec 5) (i : BitVec 1) (s : State) : Out := mwrSpan k v i Tile.setRow s

/-- mwr.col (R379). -/
def execMwrCol (k : BitVec 2) (v : BitVec 5) (i : BitVec 1) (s : State) : Out := mwrSpan k v i Tile.setCol s

/-- mwr of a checksum vector (R379). -/
def mwrCheck (k : BitVec 2) (put : Thread → Row → Thread) (s : State) : Out :=
  finish .mat s (do
    accBusy s k
    match s.me.qr.get 11 with
    | [] => holdAt s (.popEmpty 11)
    | r :: _ => .ok (s.modMe fun th =>
        { (put (th.dropR 11) r) with accSt := th.accSt.mod k.toNat fun x => { x with ckvOff := false, loc := .none } }))

/-- mwr.rck (R379). -/
def execMwrRck (k : BitVec 2) (s : State) : Out := mwrCheck k (fun th r => { th with rck := th.rck.set k.toNat r }) s

/-- mwr.cck (R379). -/
def execMwrCck (k : BitVec 2) (s : State) : Out := mwrCheck k (fun th r => { th with cck := th.cck.set k.toNat r }) s

/-! ## Checking and correcting (R380, R381) -/

/-- The tolerance operand of mcks: TR, and the floor (R380). -/
def mcksOperand (s : State) (op : Dword) : Except Exit (Nat × Frac) :=
  let tr := field op 0 8
  let ta := field op 8 8
  if bits op 16 48 ≠ 0 ∨ 31 < tr ∨ (149 < ta ∧ ta ≠ 255) then .error (.trap { code := .shape, estat := 6, addr := op } s)
  else .ok (tr, if ta = 255 then ⟨0, 1⟩ else ⟨1, 2 ^ ta⟩)

/-- The residue of a checksum over its elements, and whether it is flagged; none when a value is not finite (R380). -/
def residue (tr : Nat) (floor : Frac) (ck : Word) (ws : List Word) : Option (Frac × Bool) :=
  if (ck :: ws).any fun x => !(f32 x).finite then none
  else
    let r := FracOps.sub (f32 ck).frac (sumWords ws)
    let size := FracOps.max (ws.foldl (fun a x => FracOps.add a (FracOps.abs (f32 x).frac)) ⟨0, 1⟩) (FracOps.abs (f32 ck).frac)
    some (r, FracOps.lt (FracOps.add (FracOps.scale size (-(tr : Int))) floor) (FracOps.abs r))

/-- A row whose first eight lanes are given. -/
def resultRow (xs : List Word) : Row := rowOf fun i => xs.getD i 0

/-- The one flagged index with its residue, when there is exactly one. -/
def oneFlagged (xs : List (Option (Frac × Bool))) : Option (Nat × Frac) :=
  match xs.zipIdx.filterMap fun x => match x.1 with | some (r, true) => some (x.2, r) | _ => none with
  | [x] => some x
  | _ => none

/-- How many are flagged. -/
def flaggedCount (xs : List (Option (Frac × Bool))) : Nat := (xs.filter fun x => match x with | some (_, f) => f | none => false).length

/-- An index lane and its residue lane (R380). -/
def flagLanes (x : Option (Nat × Frac)) : Word × Word :=
  match x with
  | some (i, r) => (BitVec.ofNat 32 i, (round32 .rne r false).1)
  | none => (0xFFFFFFFF, 0)

/-- What mcks finds: the result row, and LOC. -/
def checkTile (tr : Nat) (floor : Frac) (t : Tile) : Row × MatLoc :=
  let rows := (List.range 128).map fun i => residue tr floor (lane t.rck i) (rowWords (t.rows.getD i 0))
  let cols := (List.range 128).map fun j => residue tr floor (lane t.cck j) (t.col j)
  let fr := flaggedCount rows
  let fc := flaggedCount cols
  let r := oneFlagged rows
  let c := oneFlagged cols
  let status := if fr = 0 ∧ fc = 0 then 0 else if fr = 1 ∧ fc = 1 then 1 else if fr + fc = 1 then 2 else 3
  let loc : MatLoc := match r, c with
    | some (i, _), some (j, _) => .cell i j
    | some (i, _), none => if fc = 0 then .row i else .none
    | none, some (j, _) => if fr = 0 then .col j else .none
    | none, none => .none
  (resultRow [BitVec.ofNat 32 status, (flagLanes r).1, (flagLanes c).1, (flagLanes r).2, (flagLanes c).2, BitVec.ofNat 32 fr, BitVec.ofNat 32 fc,
    BitVec.ofNat 32 ((rows ++ cols).filter fun x => x.isNone).length], loc)

/-- mcks (R380). -/
def execMcks (k : BitVec 2) (v : BitVec 5) (s : State) : Out :=
  finish .mat s (do
    accBusy s k
    let (tr, floor) ← mcksOperand s (s.me.matScalar v)
    let x := s.me.accSt.get k.toNat
    if x.kindInt || x.ckvOff then pushQ5 s (resultRow [5, 0xFFFFFFFF, 0xFFFFFFFF])
    else
      let z := checkTile tr floor (s.me.tile k.toNat)
      let s ← pushQ5 s z.1
      .ok (s.modMe fun th => { th with accSt := th.accSt.mod k.toNat fun x => { x with loc := z.2 } }))

/-- What mfix makes of an accumulator (R381). -/
def fixTile (t : Tile) (loc : MatLoc) : Tile :=
  match loc with
  | .none => t
  | .cell i j =>
    let row := t.rows.getD i 0
    let others := ((List.range 128).filter fun k => k ≠ j).map fun k => lane row k
    t.setRow i (setLane row j (round32 .rne (FracOps.sub (f32 (lane t.rck i)).frac (sumWords others)) false).1)
  | .row i => { t with rck := setLane t.rck i (sumCheck (rowWords (t.rows.getD i 0))) }
  | .col j => { t with cck := setLane t.cck j (sumCheck (t.col j)) }

/-- mfix (R381). -/
def execMfix (k : BitVec 2) (s : State) : Out :=
  finish .mat s (do
    accBusy s k
    .ok (s.modMe fun th =>
      let loc := (th.accSt.get k.toNat).loc
      { th.setTile k.toNat (fixTile (th.tile k.toNat) loc) with accSt := th.accSt.mod k.toNat fun x => { x with loc := .none } }))

end Sys2Proof.Machine
end

