-- ==== Sys2Proof/Machine/Xfr.lean ====
section
/-! DEFINITION. XFR (chapter Buffer Handles and the Copy Engine): copies, plane packing, gathers, scatters, halo faces and fills; what is checked at the word,
and how each unit of an accepted copy lands. -/

namespace Sys2Proof.Machine

/-! ## Checks at the word (R320, R321) -/

/-- SHAPE with a cause of R321 and the failing operand. -/
def xfrShape {α : Type} (s : State) (cause : Nat) (op : Dword) : Except Exit α := trapAt s .shape (BitVec.ofNat 64 cause) op

/-- SHAPE with a cause of R321 for which no operand scalar fails. -/
def xfrShapeOpen {α : Type} (s : State) (cause : Nat) : Except Exit α :=
  .error (.trap { code := .shape, estat := BitVec.ofNat 64 cause, addr := 0, openA := true } s)

/-- A check: SHAPE unless it holds. -/
def xfrNeed (s : State) (ok : Bool) (cause : Nat) (op : Dword) : Except Exit Unit := if ok then .ok () else xfrShape s cause op

/-- ALIGN with the misaligned address (R321). -/
def xfrAlign (s : State) (a n : Nat) : Except Exit Unit :=
  if a % n = 0 then .ok () else .error (.trap { code := .align, estat := 0, addr := BitVec.ofNat 64 a, openE := 0xFF } s)

/-- A length scalar (R324). -/
def lengthOk (v : Dword) : Bool := bits v 24 40 == 0 && decide (16 ≤ v.toNat) && decide (v.toNat ≤ 2 ^ 23) && decide (v.toNat % 16 = 0)

/-- A scratchpad operand of XFR (R320): ring-relative only where `ring` allows it. -/
def xfrPlace (s : State) (op : Dword) (z : Nat) (ring : Bool) : Except Exit Nat :=
  if flag op 63 ∧ !ring then xfrShape s 3 op
  else s.spadOperand s.cur .xfr op z { code := .shape, estat := 3, addr := op }

/-- The phase check (R320, R227). -/
def xfrPhase (s : State) (a n : Nat) (write : Bool) : Except Exit Unit :=
  match s.phaseCheck s.cur .xfr a n write with
  | some i => .error (.trap i s)
  | none => .ok ()

/-- Scalar s[S + k] of an XFR word. -/
def State.xs (s : State) (a : BitVec 6) (k : Nat) : Dword := s.me.run .xfr a k

/-- A copy with no units yet. -/
def plainCopy (s : State) (h : BitVec 6) : Copy := { (default : Copy) with handle := h.toNat, cluster := s.me.cluster }

/-- Acceptance (R316, R317, R320): the handle's owner, the waits for handle and entry, and the binding; the task is the next one. -/
def xfrAccept (s : State) (h : BitVec 6) (op : BitVec 5) (base len : Nat) (c : Copy) : Except Exit State :=
  let th := s.me
  let x := s.handle th.cluster h.toNat
  if x.foreign th.gang then xfrShapeOpen s 5
  else if !x.ready then holdAt s .outside
  else do
    let (j, s) ← takeEntry s .xfr op (h.setWidth 32)
    let s := s.bindHandle th.cluster h.toNat th.gang base len
    .ok { s with
      tasks := s.tasks.set s.nextTask { work := .copy { c with base := base }, thread := s.cur, die := th.die, cid := th.cid, sb := j, parked := false, page := none, homes := [] }
      nextTask := s.nextTask + 1 }

/-! ## Units of linear copies (R324, R332) -/

/-- The port `n` bytes on. -/
def Port.plus (p : Port) (n : Nat) : Port :=
  match p with
  | .lin b => .lin (b + 8 * n)
  | .tile tid t b span => .tile tid t (b + 8 * n) span
  | .spad c b => .spad c (b + 8 * n)
  | .buf b => .buf (b + 8 * n)
  | p => p

/-- The moves of `len` bytes, cut at the 128-byte lines of address `line` (R257). -/
def lineMoves (src dst : Port) (line len : Nat) : List CopyUnit :=
  (parts 128 line len).map fun p => .move (src.plus (p.1 - line)) (dst.plus (p.1 - line)) (8 * p.2) (p.1 - line + p.2)

/-- xcopy (R324). -/
def execXcopy (h a : BitVec 6) (s : State) : Out :=
  finish .xfr s (do
    let src := s.xs a 0
    let dst := s.xs a 1
    let len := s.xs a 2
    xfrNeed s (lengthOk len) 1 len
    let d ← xfrPlace s dst len.toNat true
    xfrAlign s src.toNat 16
    xfrAlign s d 16
    xfrPhase s d len.toNat true
    let cl := s.me.cluster
    xfrAccept s h 0 d len.toNat { plainCopy s h with units := lineMoves (.lin (8 * src.toNat)) (.spad cl (8 * d)) src.toNat len.toNat })

/-- xcopy.s (R324). -/
def execXcopyS (h a : BitVec 6) (s : State) : Out :=
  finish .xfr s (do
    let src := s.xs a 0
    let dst := s.xs a 1
    let len := s.xs a 2
    xfrNeed s (lengthOk len) 1 len
    let b ← xfrPlace s src len.toNat false
    let d ← xfrPlace s dst len.toNat true
    if overlap b len.toNat d len.toNat then xfrShapeOpen s 3
    xfrAlign s b 16
    xfrAlign s d 16
    xfrPhase s b len.toNat false
    xfrPhase s d len.toNat true
    let cl := s.me.cluster
    xfrAccept s h 0 d len.toNat { plainCopy s h with units := lineMoves (.spad cl (8 * b)) (.spad cl (8 * d)) d len.toNat })

/-- xput (R324). -/
def execXput (h a : BitVec 6) (s : State) : Out :=
  finish .xfr s (do
    let src := s.xs a 0
    let dst := s.xs a 1
    let len := s.xs a 2
    xfrNeed s (lengthOk len) 1 len
    let b ← xfrPlace s src len.toNat true
    xfrAlign s b 16
    xfrAlign s dst.toNat 16
    xfrPhase s b len.toNat false
    let cl := s.me.cluster
    xfrAccept s h 1 b len.toNat
      { plainCopy s h with atHome := true, units := lineMoves (.spad cl (8 * b)) (.lin (8 * dst.toNat)) dst.toNat len.toNat })

/-- xfill (R332). -/
def execXfill (h a : BitVec 6) (s : State) : Out :=
  finish .xfr s (do
    let dst := s.xs a 0
    let len := s.xs a 1
    xfrNeed s (lengthOk len) 1 len
    let d ← xfrPlace s dst len.toNat true
    xfrAlign s d 16
    xfrPhase s d len.toNat true
    let cl := s.me.cluster
    xfrAccept s h 6 d len.toNat { plainCopy s h with units := lineMoves (.pattern (s.xs a 2)) (.spad cl (8 * d)) d len.toNat })

/-! ## Boxes of a tensor (R304, R324) -/

/-- Two coordinates of a scalar: bits 31:0 and 63:32 (R323). -/
def pairOf (v : Dword) : List Nat := [field v 0 32, field v 32 32]

/-- A coordinate of an unused dimension is zero. -/
def unusedZero (D : Desc) (c : List Nat) : Bool := (List.range 5).all fun k => decide (k < D.rank) || c.getD k 0 == 0

/-- The write pointer stands at `stop` once a list of units, from `wp`, has landed: units that write nothing more pass what is skipped. -/
def passTo (wp stop : Nat) (us : List CopyUnit) : List CopyUnit :=
  let last := us.foldl (fun w u => match u with | .runOut _ _ x => x | .combine _ _ _ _ _ x => x | _ => w) wp
  if last = stop then us else us ++ [.move .zero (.buf 0) 0 stop]

/-- The units of one row of a box, into or out of scratchpad from `base`. A load gathers the row in the buffer and lands it whole, zeros for what is out of range;
a store skips what is out of range, so that its write pointer passes what is skipped at the end of a row in a step of its own. -/
def rowMoves (D : Desc) (c : List Nat) (cl r : Nat) (store : Bool) (base : Nat) : List CopyUnit :=
  let R := D.rowBytes
  let us := D.boxUnits c r
  if store then passTo (r * R) ((r + 1) * R) (us.map fun u => .runOut (.spad cl (8 * base + u.box)) u.pieces ((u.box + u.bits) / 8))
  else (us.map fun u => .runIn u.pieces u.box (r * R)) ++ [.move (.buf (8 * r * R)) (.spad cl (8 * (base + r * R))) (8 * R) ((r + 1) * R)]

/-- xcopy.t and xput.t (R324). -/
def boxCopy (store : Bool) (op : BitVec 5) (h : BitVec 6) (n : BitVec 3) (a : BitVec 6) (s : State) : Out :=
  finish .xfr s (do
    let D := s.me.slotDesc n
    let c := pairOf (s.xs a 0) ++ pairOf (s.xs a 1) ++ [0]
    let place := s.xs a 2
    let B := D.boxBytes
    if !unusedZero D c then (if unusedZero D (pairOf (s.xs a 0)) then xfrShape s 1 (s.xs a 1) else xfrShape s 1 (s.xs a 0))
    if 1 ≤ D.rank ∧ D.rank ≤ 4 ∧ 2 ^ 23 < B then xfrShapeOpen s 1
    if D.rank = 0 ∨ 4 < D.rank then xfrShapeOpen s 2
    let b ← xfrPlace s place B true
    xfrAlign s b 16
    s.layoutGate D
    xfrPhase s b B (!store)
    let cl := s.me.cluster
    xfrAccept s h op b B
      { plainCopy s h with atHome := store, ord := D.ord, units := (List.range D.boxRows).flatMap fun r => rowMoves D c cl r store b })

/-- xcopy.t (R324). -/
def execXcopyT (h : BitVec 6) (n : BitVec 3) (a : BitVec 6) (s : State) : Out := boxCopy false 0 h n a s

/-- xput.t (R324). -/
def execXputT (h : BitVec 6) (n : BitVec 3) (a : BitVec 6) (s : State) : Out := boxCopy true 1 h n a s

/-! ## Pack words and plane tiles (R325 to R328) -/

/-- LANES. -/
abbrev pkLanes (p : Dword) : Nat := field p 0 8 + 1
/-- K. -/
abbrev pkK (p : Dword) : Nat := field p 8 10
/-- G. -/
abbrev pkG (p : Dword) : Nat := field p 18 3
/-- TAG. -/
abbrev pkTag (p : Dword) : Nat := field p 21 12
/-- MX. -/
abbrev pkMx (p : Dword) : Bool := flag p 33
/-- SW. -/
abbrev pkSw (p : Dword) : Nat := field p 34 2
/-- ROLE: the serial operand B. -/
abbrev pkB (p : Dword) : Bool := flag p 36

/-- A pack word is valid for an element format (R327). -/
def packOk (p : Dword) (fmt : Nat) : Bool :=
  decide (pkLanes p ≤ 128) && decide (8 ≤ pkK p) && decide (pkK p ≤ 512) && decide (pkK p % 8 = 0) && (!pkMx p || decide (pkK p % 32 = 0)) &&
  (if pkB p && isFlt fmt then decide (storedPlanes true fmt (pkG p) ≤ 15) else pkG p == 0) && (!pkMx p || isFlt fmt) && decide (pkSw p ≤ 2) &&
  bits p 37 27 == 0 && (if pkB p then fbOk fmt else faOk fmt)

/-- NPL of the tile that a pack word makes. -/
def pkPlanes (p : Dword) (fmt : Nat) : Nat := storedPlanes (pkB p) fmt (pkG p)

/-- Bytes of the exponent area. -/
def pkExpBytes (p : Dword) (fmt : Nat) : Nat := if isFlt fmt then 16 * pkK p else 0

/-- Bytes of the scale area. -/
def pkScaleBytes (p : Dword) : Nat := if pkMx p then 16 * pkK p else 0

/-- POFF. -/
def pkPoff (p : Dword) (fmt : Nat) : Nat := 64 + pkExpBytes p fmt + pkScaleBytes p

/-- TSZ. -/
def pkTsz (p : Dword) (fmt : Nat) : Nat := pkPoff p fmt + 16 * pkK p * pkPlanes p fmt

/-- The header dwords (R325). -/
def pkHeader (p : Dword) (fmt : Nat) : List Nat :=
  [pkTag p + fmt * 2 ^ 12 + (if pkB p then 2 ^ 17 else 0) + pkPlanes p fmt * 2 ^ 18 + pkG p * 2 ^ 23 + pkSw p * 2 ^ 26 + (if pkMx p then 2 ^ 28 else 0) +
     pkK p * 2 ^ 29 + (pkLanes p - 1) * 2 ^ 39,
   (if isFlt fmt then 64 else 0) + (if pkMx p then 64 + pkExpBytes p fmt else 0) * 2 ^ 24,
   pkPoff p fmt + pkTsz p fmt * 2 ^ 24, 0, 0, 0, 0, 0]

/-- Where the buffer of a packing copy holds the scale words. -/
def scaleBuf : Nat := 2 ^ 20

/-- Element k of lane l as it stands in the buffer of a packing copy. -/
def Copy.elem (c : Copy) (l k : Nat) : Nat :=
  let w := widthOf c.packFmt.toNat
  getBits c.buf ((if c.packK then k * pkLanes c.packWord + l else l * pkK c.packWord + k) * w) w

/-- e(x) of an element (R36), none for a NaN or an infinity. -/
def elemExp (f : FFmt) (v : FVal) : Option Int :=
  match v with
  | .num _ n d => some (if n = 0 then f.emin else max (FracOps.log2 n d) f.emin)
  | _ => none

/-- The exponent of a lane's block, none when it holds a NaN or an infinity (R36, R326). -/
def blockExp (f : FFmt) (vs : List FVal) : Option Int :=
  vs.foldl (fun a v => match a, elemExp f v with | some e, some x => some (max e x) | _, _ => none) (some f.emin)

/-- The plane pattern of an element of a block (R37, R38, R326). -/
def planePattern (c : Copy) (l k : Nat) : Nat :=
  let code := c.packFmt.toNat
  let x := c.elem l k
  match eFmt code with
  | some (.flt f) =>
    let vs := (List.range 8).map fun q => f.decode (c.elem l (k / 8 * 8 + q))
    match blockExp f vs with
    | none => 0
    | some e =>
      match f.decode x with
      | .num s n d =>
        let sh : Int := if pkB c.packWord then (f.wf : Int) + pkG c.packWord - e else 22 - e
        let q := (divScaled n d sh).1
        if s then (2 ^ pkPlanes c.packWord code - q) % 2 ^ pkPlanes c.packWord code else q
      | _ => 0
  | some .t2 => if x % 2 = 1 then x else 0
  | _ => x

/-- The exponent byte of a lane's block (R325). -/
def expByte (c : Copy) (b l : Nat) : Nat :=
  match eFmt c.packFmt.toNat with
  | some (.flt f) =>
    match blockExp f ((List.range 8).map fun q => f.decode (c.elem l (8 * b + q))) with
    | some e => (e + 127).toNat
    | none => 255
  | _ => 0

/-- Byte i of the plane tile that a copy packs (R325, R328). -/
def Copy.tileByte (c : Copy) (i : Nat) : Byte :=
  let p := c.packWord
  let fmt := c.packFmt.toNat
  let eEnd := 64 + pkExpBytes p fmt
  let poff := pkPoff p fmt
  if i < 64 then BitVec.ofNat 8 ((pkHeader p fmt).getD (i / 8) 0 / 2 ^ (8 * (i % 8)))
  else if i < eEnd then (if (i - 64) % 128 < pkLanes p then BitVec.ofNat 8 (expByte c ((i - 64) / 128) ((i - 64) % 128)) else 0)
  else if i < poff then
    let o := i - eEnd
    let l := o % 512 / 4
    if l < pkLanes p then BitVec.ofNat 8 (getBits c.buf (8 * scaleBuf + 32 * (o / 512 * pkLanes p + l)) 20 / 2 ^ (8 * (o % 4))) else 0
  else
    let line := (i - poff) / 16
    let q := line ^^^ (line / 4 % 2 ^ pkSw p)
    let k := q / pkPlanes p fmt
    let pl := q % pkPlanes p fmt
    BitVec.ofNat 8 ((List.range 8).foldl (fun (n : Nat) z =>
      let l := 8 * ((i - poff) % 16) + z
      if l < pkLanes p then n + planePattern c l k / 2 ^ pl % 2 * 2 ^ z else n) 0)

/-- The units that land a packed tile, 64 bytes at a time. -/
def packUnits (p : Dword) (fmt : Nat) : List CopyUnit :=
  (parts 64 0 (pkTsz p fmt)).map fun x => .pack x.1 (x.1 + x.2) (x.1 + x.2)

/-- The place of the tile that a pack word makes (R327, R320 check 3). -/
def packPlace (s : State) (p dst : Dword) (fmt : Nat) : Except Exit Nat := do
  xfrNeed s (flag dst 63 || decide (field dst 0 23 + pkTsz p fmt ≤ 2 ^ 23)) 4 p
  let d ← xfrPlace s dst (pkTsz p fmt) false
  xfrAlign s d 64
  .ok d

/-- Bytes of the scale words that a packing word reads. -/
def pkScaleLen (p : Dword) : Nat := pkK p / 32 * pkLanes p * 4

/-- The place of the scale words of an MX tile (R320 check 3, R328), which the head of q4 names; none for another tile, and none while q4 is empty. -/
def packScales (s : State) (p : Dword) : Except Exit (Option Nat) :=
  if !pkMx p then .ok none
  else
    match s.me.qs.get 4 with
    | [] => .ok none
    | v :: _ => do
      let b ← xfrPlace s v (pkScaleLen p) false
      xfrAlign s b 4
      .ok (some b)

/-- The phase check of the scale words (R320 check 5). -/
def scalePhase (s : State) (p : Dword) (scale : Option Nat) : Except Exit Unit :=
  match scale with
  | some b => xfrPhase s b (pkScaleLen p) false
  | none => .ok ()

/-- Acceptance of a packing word (R320, R328): the handle's owner, the wait for the scalar on q4, and acceptance, which pops it. `c` holds the moves that read
the elements. -/
def packAccept (s : State) (h : BitVec 6) (op : BitVec 5) (d : Nat) (p : Dword) (fmt : Nat) (scale : Option Nat) (c : Copy) : Except Exit State :=
  let th := s.me
  if (s.handle th.cluster h.toNat).foreign th.gang then xfrShapeOpen s 5
  else if pkMx p && scale.isNone then holdAt s (.popEmpty 4)
  else do
    let scales := match scale with
      | some b => [CopyUnit.move (.spad th.cluster (8 * b)) (.buf (8 * scaleBuf)) (8 * pkScaleLen p) 0]
      | none => []
    let s ← xfrAccept s h op d (pkTsz p fmt)
      { c with packWord := p, packFmt := BitVec.ofNat 5 fmt, units := c.units ++ scales ++ packUnits p fmt }
    .ok (if pkMx p then s.modMe fun th => th.dropS 4 else s)

/-- xpack from a slot (R328): `kdim` is the dimension that K runs along. -/
def packSlot (kdim : Nat) (h : BitVec 6) (n : BitVec 3) (a : BitVec 6) (s : State) : Out :=
  finish .xfr s (do
    let D := s.me.slotDesc n
    let c := pairOf (s.xs a 0) ++ pairOf (s.xs a 1) ++ [0]
    let p := s.xs a 2
    if !unusedZero D c then (if unusedZero D (pairOf (s.xs a 0)) then xfrShape s 1 (s.xs a 1) else xfrShape s 1 (s.xs a 0))
    xfrNeed s (packOk p D.fmt) 4 p
    if D.rank < 2 ∨ 4 < D.rank then xfrShapeOpen s 2
    let d ← packPlace s p (s.xs a 3) D.fmt
    let scale ← packScales s p
    s.layoutGate D
    xfrPhase s d (pkTsz p D.fmt) true
    scalePhase s p scale
    -- rows along dimension 0: one per lane when K runs along it, one per position otherwise
    let long := if kdim = 0 then pkK p else pkLanes p
    let rows := if kdim = 0 then pkLanes p else pkK p
    let units := (List.range rows).flatMap fun r =>
      let x := c.set 1 (c.getD 1 0 + r)
      let inside := if (List.range D.rank).any fun k => k != 0 && decide (D.extent k ≤ x.getD k 0) then 0 else Nat.min long (D.extent 0 - x.getD 0 0)
      (D.runUnits x inside (r * long * D.w)).map fun u => .runIn u.pieces u.box 0
    packAccept s h 4 d p D.fmt scale { plainCopy s h with packK := kdim == 1, ord := D.ord, units := units })

/-- xpack (R328). -/
def execXpack (h : BitVec 6) (n : BitVec 3) (a : BitVec 6) (s : State) : Out := packSlot 0 h n a s

/-- xpack.k1 (R328). -/
def execXpackK1 (h : BitVec 6) (n : BitVec 3) (a : BitVec 6) (s : State) : Out := packSlot 1 h n a s

/-- xpack.s (R328). -/
def execXpackS (h a : BitVec 6) (s : State) : Out :=
  finish .xfr s (do
    let v := s.xs a 1
    let p := s.xs a 2
    let fmt := field v 0 5
    let pitch := field v 8 24
    xfrNeed s (bits v 5 3 == 0 && bits v 32 32 == 0 && decide (pitch % 16 = 0)) 1 v
    xfrNeed s (packOk p fmt) 4 p
    let d ← packPlace s p (s.xs a 3) fmt
    let scale ← packScales s p
    let row := pkK p * widthOf fmt / 8
    let b ← xfrPlace s (s.xs a 0) ((pkLanes p - 1) * pitch + row) false
    (List.range (pkLanes p)).foldl (fun r l => match r with | .error e => .error e | .ok _ => xfrPhase s (b + l * pitch) row false) (.ok ())
    xfrPhase s d (pkTsz p fmt) true
    scalePhase s p scale
    let cl := s.me.cluster
    let units := (List.range (pkLanes p)).map fun l => CopyUnit.move (.spad cl (8 * (b + l * pitch))) (.buf (8 * l * row)) (8 * row) 0
    packAccept s h 4 d p fmt scale { plainCopy s h with units := units })

/-! ## Indexed rows (R329, R330) -/

/-- xgath (R329). -/
def execXgath (h : BitVec 6) (n : BitVec 3) (a : BitVec 6) (s : State) : Out :=
  finish .xfr s (do
    let D := s.me.slotDesc n
    let v := s.xs a 0
    let p := s.xs a 2
    xfrNeed s (decide (3 ≤ D.rank) || field v 32 32 == 0) 1 v
    xfrNeed s (packOk p D.fmt) 4 p
    if D.rank < 2 ∨ 3 < D.rank then xfrShapeOpen s 2
    let d ← packPlace s p (s.xs a 3) D.fmt
    let i ← xfrPlace s (s.xs a 1) (4 * pkK p) false
    xfrAlign s i 4
    let scale ← packScales s p
    s.layoutGate D
    xfrPhase s i (4 * pkK p) false
    xfrPhase s d (pkTsz p D.fmt) true
    scalePhase s p scale
    let rows := (List.range (pkK p)).map fun k => CopyUnit.row (i + 4 * k) (k * pkLanes p * D.w) 0
    packAccept s h 2 d p D.fmt scale
      { plainCopy s h with
        packK := true, ord := D.ord, desc := (List.range 8).map fun k => s.me.desc n k, origin := [field v 0 32, 0, field v 32 32, 0, 0], units := rows })

/-- The combining forms take these formats (R330). -/
def combineOk (fmt : Nat) : Bool := fmt == 0x00 || fmt == 0x03 || fmt == 0x04 || fmt == 0x08 || fmt == 0x09 || fmt == 0x0A

/-- xscat (R330): `comb` 0 index order, 1 add, 2 max, 3 min. -/
def scatter (comb : Nat) (h : BitVec 6) (n : BitVec 3) (a : BitVec 6) (s : State) : Out :=
  finish .xfr s (do
    let D := s.me.slotDesc n
    let v := s.xs a 0
    let cnt := s.xs a 2
    let R := D.rowBytes
    xfrNeed s (decide (3 ≤ D.rank) || field v 32 32 == 0) 1 v
    xfrNeed s (bits cnt 32 32 == 0 && decide (1 ≤ cnt.toNat) && decide (cnt.toNat ≤ 65536) && decide (cnt.toNat * R ≤ 2 ^ 23)) 1 cnt
    if D.rank < 2 ∨ 4 < D.rank then xfrShapeOpen s 2
    if comb ≠ 0 ∧ !combineOk D.fmt then xfrShapeOpen s 7
    let b ← xfrPlace s (s.xs a 3) (cnt.toNat * R) false
    let i ← xfrPlace s (s.xs a 1) (4 * cnt.toNat) false
    xfrAlign s b 16
    xfrAlign s i 4
    s.layoutGate D
    xfrPhase s i (4 * cnt.toNat) false
    xfrPhase s b (cnt.toNat * R) false
    xfrAccept s h 3 b (cnt.toNat * R)
      { plainCopy s h with
        atHome := true, ord := D.ord, comb := comb, desc := (List.range 8).map fun k => s.me.desc n k, origin := [field v 0 32, 0, field v 32 32, 0, 0],
        units := (List.range cnt.toNat).map fun j => CopyUnit.row (i + 4 * j) (8 * (b + j * R)) ((j + 1) * R) })

/-- xscat.o (R330). -/
def execXscatO (h : BitVec 6) (n : BitVec 3) (a : BitVec 6) (s : State) : Out := scatter 0 h n a s

/-- xscat.add (R330). -/
def execXscatAdd (h : BitVec 6) (n : BitVec 3) (a : BitVec 6) (s : State) : Out := scatter 1 h n a s

/-- xscat.max (R330). -/
def execXscatMax (h : BitVec 6) (n : BitVec 3) (a : BitVec 6) (s : State) : Out := scatter 2 h n a s

/-- xscat.min (R330). -/
def execXscatMin (h : BitVec 6) (n : BitVec 3) (a : BitVec 6) (s : State) : Out := scatter 3 h n a s

/-- a + b of a floating format, rounded once by rne (R330). -/
def fltAdd (f : FFmt) (x y : Nat) : Nat :=
  match f.decode x, f.decode y with
  | .nan _, _ => f.nan
  | _, .nan _ => f.nan
  | .inf s, .inf t => if s = t then x else f.nan
  | .inf _, _ => x
  | _, .inf _ => y
  | u, v => (roundFrac f .rne (FracOps.add u.frac v.frac) (zeroSign .rne u.neg v.neg)).1

/-- The greater or smaller of two floating encodings (R330). -/
def fltPick (f : FFmt) (isMax : Bool) (x y : Nat) : Nat :=
  let u := f.decode x
  let v := f.decode y
  if u.isNan || v.isNan then f.nan else if isMax then (if valBelow u v then y else x) else if valBelow v u then y else x

/-- comb of two elements of a format: 1 add, 2 max, 3 min (R330, R399). -/
def combElem (op : Nat) (fmt x y : Nat) : Nat :=
  match eFmt fmt with
  | some (.flt f) => if op = 1 then fltAdd f x y else fltPick f (op == 2) x y
  | some (.int w sg) =>
    if op = 1 then (x + y) % 2 ^ w
    else if op = 2 then (if intVal w sg x < intVal w sg y then y else x) else (if intVal w sg y < intVal w sg x then y else x)
  | _ => x

/-! ## Halo faces (R331, R416) -/

/-- xhalo (R331): `dir` is the port of the direction. -/
def execXhalo (h a : BitVec 6) (dir : BitVec 4) (s : State) : Out :=
  finish .xfr s (do
    let src := s.xs a 0
    let v := s.xs a 1
    let len := s.xs a 2
    let add := s.xs a 3
    xfrNeed s (bits v 23 1 == 0 && bits v 30 2 == 0 && bits v 36 28 == 0) 1 v
    xfrNeed s (lengthOk len) 1 len
    xfrNeed s (bits add 32 32 == 0) 1 add
    xfrNeed s (decide (field v 0 23 + len.toNat ≤ 2 ^ 23)) 8 v
    let b ← xfrPlace s src len.toNat false
    xfrAlign s b 16
    xfrAlign s (field v 0 23) 16
    xfrPhase s b len.toNat false
    let th := s.me
    let dest := 64 * s.neighbour th.die dir.toNat + field v 24 6
    let s ← xfrAccept s h 5 b len.toNat
      { plainCopy s h with
        halo := dir.toNat + 1, haloCbar := dest * 16 + field v 32 4, haloAddN := bits add 0 32,
        units := .haloTest :: lineMoves (.spad th.cluster (8 * b)) (.spad dest (8 * field v 0 23)) b len.toNat ++ [.haloAdd] }
    if s.haloUsable th.die dir.toNat then .ok s else .ok (s.stopTask (s.nextTask - 1) .failed))

/-- The destination barrier takes an arrival of a context (R216). -/
def Cbar.takes (x : Cbar) (cid : Nat) : Bool := if x.armed then x.ocid == cid + 1 else x.ocid == 0 || x.ocid == cid + 1

/-! ## How a unit lands (R318, R320) -/

/-- What stops a piece of asynchronous work of thread `t`: a migration, which it waits out; a lost home; an uncorrectable table; else it parks (R241 to R243, R247). -/
def State.workStop (s : State) (k t : Nat) (e : Engine) (m : MemStop) : State :=
  match m with
  | .migrating va => s.setTask k fun x => { x with page := va }
  | .fault i home =>
    match i.code with
    | .remoteHomeLost => s.stopTask k .failed
    | .uncorrectable => s.failTaint k e 0x51
    | _ => s.parkTask k t e i home

/-- Why a unit does not land. -/
inductive UnitStop where
  | mem (m : MemStop)
  | poison
  | pending (i : TrapInfo)

/-- The bits that a port gives: value, taint of a token piece, state (R257, R291, R457). -/
def State.portRead (s : State) (w : Issuer) (core : Nat) (c : Copy) (p : Port) (n : Nat) : Except UnitStop (Nat × Bool × State) :=
  match p with
  | .zero => .ok (0, false, s)
  | .pattern v => .ok (leNat ((List.replicate (n / 64 + 1) (leBytes 8 v.toNat)).flatten) % 2 ^ n, false, s)
  | .buf b => .ok (getBits c.buf b n, false, s)
  | .spad cl b =>
    match s.pendingRead cl core .xfr (b / 8) (spanBytes b n) with
    | some i => .error (.pending i)
    | none =>
      if s.spadPoison cl (b / 8) (spanBytes b n) then .error .poison
      else .ok (takeBits (s.spadBytes cl (b / 8) (spanBytes b n)) (b % 8) n, false, s)
  | p =>
    match s.accessPort w p n false c.ord with
    | .error m => .error (.mem m)
    | .ok (as, s) =>
      let x := s.loadPiece w { port := p, bits := n, accs := as }
      if x.1.2.1 then .error .poison else .ok (x.1.1, x.1.2.2, x.2)

/-- Put bits at a port: state and buffer. -/
def State.portWrite (s : State) (w : Issuer) (c : Copy) (p : Port) (n v : Nat) : Except UnitStop (State × Tab Byte) :=
  match p with
  | .zero => .ok (s, c.buf)
  | .pattern _ => .ok (s, c.buf)
  | .buf b => .ok (s, putBits c.buf b n v)
  | .spad cl b =>
    let old := s.spadBytes cl (b / 8) (spanBytes b n)
    .ok (s.spadNow (w.thread.getD 0) .xfr cl (b / 8) (mergeBits old (b % 8) n v), c.buf)
  | p =>
    match s.accessPort w p n true c.ord with
    | .error m => .error (.mem m)
    | .ok (as, s) =>
      let as := if c.atHome then as.map fun a => { a with ord := 1 } else as
      .ok (s.storePieces w [{ port := p, bits := n, accs := as }] v, c.buf)

/-- A piece of an access unit, accessed at home. -/
def Piece3.atHome (p : Piece3) : Piece3 := { p with accs := p.accs.map fun a => { a with ord := 1 } }

/-- The bits of an access unit's pieces. -/
def runBits (ps : List (Port × Nat)) : Nat := ps.foldl (fun n p => n + p.2) 0

/-- Translate an access unit of a copy as a whole (R235). -/
def State.runAccess (s : State) (w : Issuer) (c : Copy) (write : Bool) (ps : List (Port × Nat)) : Except UnitStop (List Piece3 × State) :=
  match s.accessPieces w write c.ord ps with
  | .error m => .error (.mem m)
  | .ok (qs, s) => .ok (if c.atHome then qs.map Piece3.atHome else qs, s)

/-- The units that a row with index `x` becomes (R329, R330). -/
def Copy.rowUnits (c : Copy) (x box wp : Nat) : List CopyUnit :=
  let D := descOf fun i => c.desc.getD i 0
  let o := c.origin.set 1 x
  let want := if c.atHome then D.tsz 0 else pkLanes c.packWord
  let inside := if (List.range D.rank).any fun k => k != 0 && decide (D.extent k ≤ o.getD k 0) then 0 else Nat.min want (D.extent 0 - o.getD 0 0)
  let us := D.runUnits o inside box
  let upTo := fun (u : AUnit) => (u.box + u.bits) / 8 - c.base
  if c.atHome then
    passTo (wp - D.rowBytes) wp (us.map fun u => if c.comb = 0 then CopyUnit.runOut (.spad c.cluster u.box) u.pieces (upTo u)
      else .combine c.comb (BitVec.ofNat 5 D.fmt) (.spad c.cluster u.box) u.pieces (u.bits / D.w) (upTo u))
  else us.map fun u => .runIn u.pieces u.box 0

/-- The next unit of a copy: what remains of it, and the write pointer it leaves if it lands bytes of the range. -/
def State.unitStep (s : State) (t : Nat) (c : Copy) (u : CopyUnit) : Except UnitStop (State × Copy × Option Nat) :=
  let w := s.issuer t .xfr
  let core := (s.thr t).core % 4
  match u with
  | .move src dst n wp => do
    let (v, piece, s) ← s.portRead w core c src n
    let (s, buf) ← s.portWrite w c dst n v
    .ok (s.readTaint t .xfr false piece, { c with buf := buf }, some wp)
  | .runIn ps box wp => do
    let (qs, s) ← s.runAccess w c false ps
    let x := s.loadPieces w qs
    if x.1.2.1 then .error .poison
    .ok (x.2.readTaint t .xfr false x.1.2.2, { c with buf := putBits c.buf box (runBits ps) x.1.1 }, some wp)
  | .runOut src ps wp => do
    let (v, _, s) ← s.portRead w core c src (runBits ps)
    let (qs, s) ← s.runAccess w c true ps
    .ok (s.storePieces w qs v, c, some wp)
  | .combine op fmt src ps n wp => do
    let wd := widthOf fmt.toNat
    let (v, _, s) ← s.portRead w core c src (n * wd)
    let (qs, s) ← s.runAccess w c true ps
    let x := s.loadPieces w qs
    if x.1.2.1 then .error .poison
    let new := (List.range n).foldl (fun (a : Nat) i =>
      a + combElem op fmt.toNat (x.1.1 / 2 ^ (i * wd) % 2 ^ wd) (v / 2 ^ (i * wd) % 2 ^ wd) % 2 ^ wd * 2 ^ (i * wd)) 0
    .ok ((x.2.storePieces w qs new).readTaint t .xfr false x.1.2.2, c, some wp)
  | .row index box wp => do
    let (x, _, s) ← s.portRead w core c (.spad c.cluster (8 * index)) 32
    .ok (s, { c with units := c.rowUnits x box wp ++ c.units }, none)
  | .pack lo hi wp =>
    .ok (s.spadNow t .xfr c.cluster (c.base + lo) ((List.range (hi - lo)).map fun i => c.tileByte (lo + i)), c, some wp)
  | .haloTest => .ok (s, c, none)
  | .haloAdd => .ok (s, c, none)

/-- The byte at a port is poisoned. -/
def State.bytePoison (s : State) (w : Issuer) (c : Copy) (p : Port) : Bool :=
  match p with
  | .spad cl b => s.spadPoison cl (b / 8) 1
  | .lin _ => (match s.accessPort w p 8 false c.ord with | .ok (as, s) => (s.loadAccs w as).1.2 | .error _ => false)
  | .tile _ _ _ _ => (match s.accessPort w p 8 false c.ord with | .ok (as, s) => (s.loadAccs w as).1.2 | .error _ => false)
  | _ => false

/-- Poison the granule of a byte of memory at its home; the copy in the writing die's cache is first written back and dropped. -/
def State.poisonHome (s : State) (w : Issuer) (a : Acc) : State :=
  let s := if homeOf a.pa ≠ w.die then s.dropLine w.die (a.pa / 128) else s
  if s.paDown a.pa then s else { s with poison := s.poison.set (a.pa / 16) true }

/-- Poison the granule that holds the byte at a destination port of a copy; a byte of the buffer of a box stands for its place in the scratchpad. -/
def State.poisonPort (s : State) (w : Issuer) (c : Copy) (p : Port) : State :=
  match p with
  | .spad cl b => s.spadSetPoison cl (b / 8) 1
  | .buf b => if c.packWord = 0 then s.spadSetPoison c.cluster (c.base + b / 8) 1 else s
  | .zero => s
  | .pattern _ => s
  | p => match s.accessPort w p 8 true c.ord with | .ok (as, s) => as.foldl (fun s a => s.poisonHome w a) s | .error _ => s

/-- Poison travels from `n` bits at a source to the destination granules of its bytes (R456). -/
def State.carry (s : State) (w : Issuer) (c : Copy) (src dst : Port) (n : Nat) : State :=
  ((List.range ((n + 7) / 8)).filter fun j => s.bytePoison w c (src.plus j)).foldl (fun s j => s.poisonPort w c (dst.plus j)) s

/-- A copy that meets poison carries it to its destination granules, whose bytes stay as they are since the unit does not land (R456, R457; DESIGN CHOICE, log
entry 104). A packed tile has no granule that is the copy of a source granule. -/
def State.carryPoison (s : State) (t : Nat) (c : Copy) (u : CopyUnit) : State :=
  let w := s.issuer t .xfr
  let offs := fun (ps : List (Port × Nat)) => (ps.foldl (fun (x : List (Port × Nat × Nat) × Nat) p => (x.1 ++ [(p.1, p.2, x.2)], x.2 + p.2)) ([], 0)).1
  match u with
  | .move src dst n _ => s.carry w c src dst n
  | .runIn ps box _ => (offs ps).foldl (fun s p => s.carry w c p.1 (.buf (box + p.2.2)) p.2.1) s
  | .runOut src ps _ => (offs ps).foldl (fun s p => s.carry w c (src.plus (p.2.2 / 8)) p.1 p.2.1) s
  | .combine _ _ src ps _ _ => (offs ps).foldl (fun s p => s.carry w c (src.plus (p.2.2 / 8)) p.1 p.2.1) s
  | _ => s

/-- A pending read ends a copy: its handle is aborted, its entry fails and a park record of the read is written (R291). -/
def State.copyPending (s : State) (k t : Nat) (i : TrapInfo) : State :=
  let (obj, pc, core, die) := s.parkPlace k t
  let cid := (s.tasks.get k).cid
  let w : ParkWait :=
    { die := die, d0 := parkHead { i with estat := 0 } .xfr die core cid, d1 := i.addr, d2 := BitVec.ofNat 64 (obj.toNat + pc.toNat * 2 ^ 32), task := none, cid := cid,
      thread := t, again := false }
  ((s.stopTask k .failed).parkRecord die w).2

/-- The write pointer has come to `wp`: once LEN is reached the entry is done (R317). A halo reaches full only with its add. -/
def State.landTo (s : State) (k : Nat) (c : Copy) (wp : Nat) : State :=
  let s := s.setHandle c.cluster c.handle fun x => if c.halo ≠ 0 then { x with wp := wp } else x.land wp
  if c.units.isEmpty then s.doneTask k else s

/-- A unit of an accepted copy is translated, checked and lands (R318, R320). -/
def State.landUnit (s : State) (k : Nat) : State :=
  let x := s.tasks.get k
  match x.work with
  | .copy c =>
    if x.parked || s.workHeld k then s
    else match c.units with
      | [] => s
      | .haloTest :: rest =>
        if !(s.cbars.get c.haloCbar).takes x.cid then s.stopTask k .failed
        else s.setTask k fun x => { x with work := .copy { c with units := rest } }
      | .haloAdd :: _ => s
      | u :: rest =>
        if c.halo ≠ 0 ∧ !s.haloUsable x.die (c.halo - 1) then s
        else
          match s.unitStep x.thread { c with units := rest } u with
          | .error (.mem m) => s.workStop k x.thread .xfr m
          | .error .poison => (s.carryPoison x.thread c u).failTaint k .xfr 0x51
          | .error (.pending i) => s.copyPending k x.thread i
          | .ok (s, c, wp) =>
            let s := s.setTask k fun x => { x with work := .copy c }
            match wp with
            | some n => s.landTo k c n
            | none => s
  | _ => s

/-- COPY_UNIT_LANDS (R318). -/
def execCopyUnitLands (k : Nat) (s : State) : Out := .next (s.landUnit k)

/-- The barrier add that ends a halo (R216, R331): a release at domain scope by the sender, which waits for the sender's issued scratchpad writes and for its way home
(R285, R287, R418), refused by another context's barrier. -/
def State.haloArrive (s : State) (k : Nat) : State :=
  let x := s.tasks.get k
  match x.work with
  | .copy c =>
    if c.units.head? ≠ some .haloAdd then s
    else if !s.haloUsable x.die (c.halo - 1) then s
    else
      let b := s.cbars.get c.haloCbar
      if !b.takes x.cid then s.stopTask k .failed
      else if s.anyUnperformed x.thread || s.homesAway (s.thr x.thread).die then s
      else
        let s := s.release x.thread
        let b := { b.plus c.haloAddN with ocid := x.cid + 1, halo := true }
        let s := { s with cbars := s.cbars.set c.haloCbar b }
        (s.setHandle c.cluster c.handle fun h => h.land h.len).doneTask k
  | _ => s

/-- HALO_ARRIVAL (R216). -/
def execHaloArrival (k : Nat) (s : State) : Out := .next (s.haloArrive k)

/-! ## Release and abort (R333, R334) -/

/-- xrel (R333). -/
def execXrel (h : BitVec 6) (s : State) : Out :=
  finish .xfr s (
    let th := s.me
    let x := s.handle th.cluster h.toNat
    if x.foreign th.gang then xfrShapeOpen s 5
    else match x.st with
      | .free => .ok s
      | .filling => xfrShapeOpen s 6
      | .parked => xfrShapeOpen s 6
      | .draining => holdAt s .outside
      | _ => .ok (s.setHandle th.cluster h.toNat fun x => { x with owner := 0, st := .free, wp := 0 }))

/-- The task bound to a handle: a copy, a patt, or a collective of which a member delivers into it. -/
def State.boundTask (s : State) (cluster h : Nat) : Option Nat :=
  (s.tasks.find? fun e =>
    e.2.handle == some (cluster, h) ||
    (match e.2.work with | .coll c => c.members.any fun m => m.handle == h && (s.thr m.thread).cluster == cluster | _ => false)).map Prod.fst

/-- xabort (R334). -/
def execXabort (h : BitVec 6) (s : State) : Out :=
  finish .xfr s (
    let th := s.me
    let x := s.handle th.cluster h.toNat
    if x.foreign th.gang then xfrShapeOpen s 5
    else match x.st with
      | .filling => .ok (match s.boundTask th.cluster h.toNat with | some k => s.abortTask k s.cur true | none => s)
      | .parked => .ok (match s.boundTask th.cluster h.toNat with | some k => s.abortTask k s.cur true | none => s)
      | _ => .ok s)

end Sys2Proof.Machine
end

