-- ==== Sys2Proof/Machine/Trans.lean ====
section
/-! DEFINITION. Shoot-down (R245, R246), migration (R241, R242), the park ring (R248) and home loss (R247). -/

namespace Sys2Proof.Machine

/-! ## Shoot-down -/

/-- An entry that a removal names (R245). -/
def TlbSel.hits (sel : TlbSel) (e : TlbEnt) : Bool :=
  match sel with
  | .page cid va n => e.cid == cid && (match e.key with | .leaf b m => overlap b m va n | .dir _ => true | .tile _ _ => false)
  | .tensor cid tid => e.cid == cid && (match e.key with | .leaf _ _ => false | .dir _ => true | .tile t _ => t == tid)
  | .ctx cid => e.cid == cid
  | .all => true

/-- A KV translation entry that a removal names (R427). -/
def TlbSel.hitsKtm (sel : TlbSel) (e : KtmEnt) : Bool :=
  match sel with
  | .page cid va n => e.cid == cid && overlap e.pageVa e.pageLen va n
  | .tensor _ _ => false
  | .ctx cid => e.cid == cid
  | .all => true

/-- The die that sends a removal. -/
def ShootBy.die (s : State) : ShootBy → Nat
  | .thread t => (s.thr t).die
  | .mig d => d
  | .ctx c => s.orderDie c
  | .nobody => 0

/-- Send a removal to every die of the domain, to the others in packets (R410). -/
def State.shootDown (s : State) (sel : TlbSel) (who : ShootBy) : State :=
  if s.presentDies.isEmpty then s
  else
    (s.presentDies.filter fun d => d != who.die s).foldl (fun s d => s.sendPacket (who.die s) d (.shoot sel who))
      { s with shoots := s.shoots ++ [{ sel := sel, who := who, dies := s.presentDies }] }

/-- An ordered atomic that a die has issued has used an entry that a removal names, and is not yet performed (R246, R312). -/
def State.atomoUsed (s : State) (d : Nat) (x : Shoot) : Bool :=
  (s.atomo ++ s.refused ++ s.atomLines.flatMap fun e => e.2.held).any fun a => !a.spad && a.used.die == d && x.sel.hits a.used

/-- A die can acknowledge a removal: its packet has been received, the ordered atomics that used what it names have been performed, and a path leads back (R246,
R418). -/
def State.ackReady (s : State) (d : Nat) (x : Shoot) : Bool :=
  !s.onWay d (.shoot x.sel x.who) && !s.atomoUsed d x && (!(s.die (x.who.die s)).present || s.pathOpen d (x.who.die s))

/-- A shoot-down of someone awaits acknowledgements. -/
def State.shooting (s : State) (who : ShootBy) : Bool := s.shoots.any fun x => x.who == who

/-- A die has acknowledged; a lost die counts as having done so (R246). -/
def Shoot.without (d : Nat) (x : Shoot) : Shoot := { x with dies := x.dies.filter fun e => e != d }

/-- The removals that a die can acknowledge now. -/
def State.ackable (s : State) (d : Nat) : List Shoot := s.shoots.filter fun x => x.dies.contains d && s.ackReady d x

/-- The physical range that a held leaf or tile entry names; a tile spans at most 32 MiB. -/
def TlbEnt.frame (e : TlbEnt) : Nat × Nat :=
  match e.key with
  | .leaf _ n => (field e.e0 8 42 * 256, n)
  | .tile _ _ => (field e.e0 8 42 * 256, 2 ^ 25)
  | .dir _ => (0, 0)

/-- A die acknowledges every removal that it can, each for itself (R246): it removes what they name from its last-level and cluster caches and performs at home the
accesses that may have used it. -/
def State.acknowledge (s : State) (d : Nat) : State :=
  let xs := s.ackable d
  if xs.isEmpty then s
  else
    let named := fun (e : TlbEnt) => e.die == d && xs.any fun x => x.sel.hits e
    let s := s.drainPosted fun p => p.die == d
    let s := (s.tlb.filter named).foldl (fun s e => s.physBack d e.frame.1 e.frame.2) s
    { s with
      tlb := s.tlb.filter fun e => !named e, ktm := s.ktm.filter fun e => !(e.die == d && xs.any fun x => x.sel.hitsKtm e)
      shoots := (s.shoots.map fun x => if xs.contains x then x.without d else x).filter fun x => !x.dies.isEmpty }

/-- TLBI_ACKNOWLEDGE (R246). -/
def execTlbiAcknowledge (d : Nat) (s : State) : Out := .next (s.acknowledge d)

/-- A tlbi: privilege, its checks, the removal sent, and the wait for every acknowledgement (R245). -/
def synTlbi (ok : Bool) (sel : TlbSel) (s : State) : Out :=
  finish .syn s (do
    needPriv s
    if s.me.synStage = 1 then (if s.shooting (.thread s.cur) then holdAt s .outside else .ok ((s.setStage 0).acquire s.cur))
    else if !ok then openTrap s .shape
    else
      let s := s.shootDown sel (.thread s.cur)
      if s.shooting (.thread s.cur) then holdAt (s.setStage 1) .outside else .ok (s.acquire s.cur))

/-- The page size of a size code (R232). -/
def codeSize (c : Nat) : Nat := levelSize (4 - c)

/-- tlbi.va (R245). -/
def execTlbiVa (a b : BitVec 6) (s : State) : Out :=
  let va := (s.ys a).toNat
  let v := s.ys b
  synTlbi (bits v 10 6 == 0 && bits v 18 46 == 0 && field v 16 2 != 3 && decide (va % codeSize (field v 16 2) = 0))
    (.page (field v 0 10) va (codeSize (field v 16 2))) s

/-- tlbi.ten (R245). -/
def execTlbiTen (a b : BitVec 6) (s : State) : Out :=
  synTlbi (bits (s.ys a) 16 48 == 0 && bits (s.ys b) 10 54 == 0) (.tensor (field (s.ys b) 0 10) (field (s.ys a) 0 16)) s

/-- tlbi.ctx (R245). -/
def execTlbiCtx (b : BitVec 6) (s : State) : Out := synTlbi (bits (s.ys b) 10 54 == 0) (.ctx (field (s.ys b) 0 10)) s

/-- tlbi.all (R245). -/
def execTlbiAll (s : State) : Out := synTlbi true .all s

/-! ## Migration (R242) -/

/-- The address of the entry that ends a walk (R234). -/
def State.leafAddr (s : State) (va : Nat) : List (Nat × Nat × Nat) → Nat → Nat
  | [], t => t
  | (lo, n, _) :: rest, t =>
    let at_ := t + 8 * (va / 2 ^ lo % 2 ^ n)
    if field (s.homeDword at_) 0 2 = 1 then s.leafAddr va rest (field (s.homeDword at_) 8 42 * 256) else at_

/-- Replace ST of a leaf (R232). -/
def withSt (e : Dword) (st : Nat) : Dword := (e &&& ~~~12) ||| BitVec.ofNat 64 (4 * st)

/-- Replace FRAME of a leaf (R232). -/
def withFrame (e : Dword) (pa : Nat) : Dword :=
  (e &&& ~~~(BitVec.ofNat 64 ((2 ^ 42 - 1) * 256))) ||| BitVec.ofNat 64 (pa / 256 % 2 ^ 42 * 256)

/-- A migration command's status, in its dword 3. -/
def State.migStatus (s : State) (d a v : Nat) : State := s.cmdStatus d (a + 24) v

/-- The command at an address is in form (R242). -/
def State.migForm (s : State) (a : Nat) : Bool :=
  let d0 := s.homeDword a
  bits d0 10 6 == 0 && bits d0 18 46 == 0 && (List.range 4).all fun i => s.homeDword (a + 32 + 8 * i) == 0

/-- Steps 1 and 2 of the command at an address. -/
def State.migBegin (s : State) (d a : Nat) : State :=
  if !s.cmdUsable a then s
  else
    let cid := field (s.homeDword a) 0 10
    let va := (s.homeDword (a + 8)).toNat
    let new := (s.homeDword (a + 16)).toNat
    if !s.migForm a ∨ cid = 0 ∨ 2 ^ 57 ≤ va then s.migStatus d a 2
    else
      match s.walk va false walkLevels (s.root cid) with
      | .error (.fault i _) => s.migStatus d a (if i.code = .remoteHomeLost then 5 else 2)
      | .error (.migrating _) => s.migStatus d a 2
      | .ok (e, lv) =>
        let size := levelSize lv
        if field e 2 2 ≠ 1 ∨ levelCode lv ≠ field (s.homeDword a) 16 2 ∨ new % size ≠ 0 ∨ s.paHole new then s.migStatus d a 2
        else if s.paLost new ∨ s.paLost (field e 8 42 * 256) then s.migStatus d a 5
        else
          let at_ := s.leafAddr va walkLevels (s.root cid)
          let s := (s.homeWriteDword 0 at_ (withSt e 2)).shootDown (.page cid (va / size * size) size) (.mig d)
          s.setDie d fun x => { x with mig := some { cmd := a, cid := cid, va := va, sz := size, leafAt := at_, leaf := e, newFrame := new } }

/-- MIGRATION_START (R242); a frozen die's migrations pause (R467). -/
def execMigrationStart (d : Nat) (s : State) : Out :=
  .next (if (s.die d).frozen then s else match (s.die d).mig, (s.die d).migQ with
    | none, a :: rest => (s.setDie d fun x => { x with migQ := rest }).migBegin d a
    | _, _ => s)

/-- Write back and invalidate a physical range in every remote-data cache of the domain. -/
def State.flushEverywhere (s : State) (pa n : Nat) : State :=
  s.presentDies.foldl (fun s d => (s.rdcLines d).foldl (fun s line => if physMask line pa n = 0 then s else s.dropLine d line) s) s

/-- Copy `n` bytes at home with their poison (R456). -/
def State.copyHome (s : State) (cid src dst n : Nat) : State :=
  let bs := s.homeRead src n
  let bad := (parts 16 src n).filter fun p => s.paPoison p.1
  let s := s.homeWrite cid dst bs
  { s with poison := setPoison s.poison (bad.map fun p => (dst + (p.1 - src)) / 16) }

/-- Work that waits for a migrating page no longer does (R241). -/
def State.pageFree (s : State) (cid va n : Nat) : State :=
  s.tasks.foldl (fun s e => s.setTask e.1 fun x =>
    match x.page with | some a => if x.cid = cid ∧ va ≤ a ∧ a < va + n then { x with page := none } else x | none => x) s

/-- Steps 3 to 6, once every die has acknowledged. -/
def State.migEnd (s : State) (d : Nat) (m : Mig) : State :=
  if s.shooting (.mig d) then s
  else
    let old := field m.leaf 8 42 * 256
    let s := s.flushEverywhere old m.sz
    let bad := s.rangePoison old m.sz
    let s := s.copyHome m.cid old m.newFrame m.sz
    let s := s.homeWriteDword 0 m.leafAt (withSt (withFrame m.leaf m.newFrame) 1)
    ((s.migStatus d m.cmd (if bad then 4 else 1)).setDie d fun x => { x with mig := none }).pageFree m.cid m.va m.sz

/-- MIGRATION_FINISH (R242); a frozen die's migrations pause (R467). -/
def execMigrationFinish (d : Nat) (s : State) : Out :=
  .next (if (s.die d).frozen then s else match (s.die d).mig with | some m => s.migEnd d m | none => s)

/-- A MIGCMD write queues a command while the queue of 16 has room (R242). -/
def State.queueMig (s : State) (d : Nat) (v : Dword) : State :=
  if (s.die d).migQ.length < 16 then s.setDie d fun x => { x with migQ := x.migQ ++ [field v 0 57] } else s

/-- MIGCMD_WRITE (R242). -/
def execMigcmdWrite (d : Nat) (v : Dword) (s : State) : Out := .next (s.queueMig d v)

/-- REMOTE_HOME_LOST at an address (R247). -/
def lostInfo (addr : Nat) : TrapInfo := { code := .remoteHomeLost, estat := 0, addr := BitVec.ofNat 64 addr, openE := -1 }

/-- An engine's word that waits for a page of [va, va + n) ends with REMOTE_HOME_LOST: ADR's under R244. -/
def State.wordLost (s : State) (t : Nat) (e : Engine) (va n : Nat) : State :=
  match (s.thr t).held.get (engCode e) with
  | some (.page a) =>
    if va ≤ a ∧ a < va + n ∧ (s.thr t).active then
      (if e = .adr then s.modThr t fun th => { th with adrTrap := some (unitInfo th.adr.unit (lostInfo a)), held := th.held.set 1 (some .outside) } else s.raise t e (lostInfo a))
    else s
  | _ => s

/-- A piece of work ends since a home it needs is lost (R247, R403). -/
def State.taskLost (s : State) (k : Nat) : State :=
  match (s.tasks.get k).work with
  | .none => s
  | .coll _ => s.collAbort k 0xF2 none
  | .reshard _ => s.reshardAbort k 0xF2 none
  | _ => s.stopTask k .failed

/-- The accesses parked on a page of a context whose old or new home is lost end (R241, R247). -/
def State.pageLost (s : State) (cid va n : Nat) : State :=
  let s := s.threads.foldl (fun s e => if e.2.cid = cid then allEngines.foldl (fun s g => s.wordLost e.1 g va n) s else s) s
  s.tasks.foldl (fun s e => match e.2.page with | some a => if e.2.cid = cid ∧ va ≤ a ∧ a < va + n then s.taskLost e.1 else s | none => s) s

/-- The asynchronous work parked on a page or tile homed on a lost die ends (R247). -/
def State.parkedLost (s : State) (d : Nat) : State := s.tasks.foldl (fun s e => if e.2.homes.contains d then s.taskLost e.1 else s) s

/-- A migration that a lost home ends: the leaf becomes unmapped, the accesses parked on the page end, status 5 (R241, R242, R247). -/
def State.migLost (s : State) (lost : Nat) : State :=
  s.dies.foldl (fun s e => match e.2.mig with
    | some m =>
      if homeOf (field m.leaf 8 42 * 256) = lost ∨ homeOf m.newFrame = lost ∨ homeOf m.leafAt = lost then
        let s := if homeOf m.leafAt = lost then s else s.homeWriteDword 0 m.leafAt 0
        let s := (if s.cmdUsable m.cmd then s.migStatus e.1 m.cmd 5 else s).pageLost m.cid (m.va / m.sz * m.sz) m.sz
        s.setDie e.1 fun x => { x with mig := none }
      else s
    | none => s) s

/-! ## The park ring (R248) -/

/-- A write of PLBASE (0x30) or PLPOS (0x31), after which the die tries its held records again. -/
def State.writeParkRing (s : State) (d n : Nat) (v : Dword) : State :=
  let s := s.setDie d fun x =>
    if n = 0x30 then { x with plbase := v &&& 0x3FFFFFFFFF00F } else if n = 0x31 then { x with plpos := cat 64 (bits v 32 32) (bits x.plpos 0 32) } else x
  s.retryParks d

/-- PARK_RING_WRITE (R248). -/
def execParkRingWrite (d n : Nat) (v : Dword) (s : State) : Out := .next (s.writeParkRing d n v)

/-! ## Home loss (R247) -/

/-- The blocks that a cent or a sieve has still to reach: those of the keys it has to assign, or those of its segment, as set compacting where they have been. -/
def State.blocksOf (s : State) (x : Task) : List KtmEnt :=
  match x.work with
  | .cent c => c.keys.filterMap fun k => s.ktmAt x.die x.cid c.seq (k.1 / 64)
  | .sieve v => if v.ents.isEmpty then (List.range v.nb).filterMap fun i => s.ktmAt x.die x.cid v.seq (v.b0 + i) else v.ents
  | _ => []

/-- A cent or sieve with a block homed on a lost die ends with REMOTE_HOME_LOST: its entry fails, a sieve withdrawn with record status 3. -/
def State.loseBlocks (s : State) (d : Nat) : State :=
  s.tasks.foldl (fun s e =>
    if !(s.blocksOf e.2).any fun x => homeOf x.frame == d then s
    else match e.2.work with
      | .sieve v => ((s.sieveRestore v).sieveRecord e.2.thread v.recAt 3 0).stopTask e.1 .failed
      | _ => s.stopTask e.1 .failed) s

/-- Every die drops the held entries, KV translation entries included, whose frame or table lies on a lost die (R427). -/
def State.dropEntriesOf (s : State) (d : Nat) : State :=
  { s with tlb := s.tlb.filter fun e => homeOf (field e.e0 8 42 * 256) ≠ d, ktm := s.ktm.filter fun e => homeOf e.frame ≠ d }

/-- An atomo in flight to a lost home. -/
def lostAtomo (d : Nat) (a : Atomo) : Bool := !a.spad && homeOf a.pa == d

/-- Ordered atomics in flight to a lost home end with REMOTE_HOME_LOST at their words. -/
def State.loseAtomos (s : State) (d : Nat) : State :=
  let all := s.atomo ++ s.refused ++ s.atomLines.flatMap fun e => e.2.held
  let s := (all.filter (lostAtomo d)).foldl (fun s a =>
    s.endAtomo a (unitInfo (s.thr a.thread).adr.unit { code := .remoteHomeLost, estat := 0, addr := 0, openE := -1, openA := true })) s
  { s with
    atomo := s.atomo.filter fun a => !lostAtomo d a
    refused := s.refused.filter fun a => !lostAtomo d a
    atomLines := s.atomLines.filter fun e => !(decide (e.1 < 2 ^ 44) && homeOf (e.1 * 128) == d) }

/-- Lines homed on a lost die leave the remote-data caches of the others; discarded dirty ones are logged. -/
def State.discardLinesOf (s : State) (d : Nat) : State :=
  let gone := s.rdc.filter fun e => homeOf (e.1 % 2 ^ 43 * 128) = d
  let s := { s with rdc := s.rdc.filter fun e => homeOf (e.1 % 2 ^ 43 * 128) ≠ d }
  gone.foldl (fun s e =>
    if e.2.dirty = 0 ∨ !(s.die (e.1 / 2 ^ 43)).present then s
    else s.log (e.1 / 2 ^ 43) { kind := 11, code := 0, unit := 0, cid := some e.2.cid, addr := e.1 % 2 ^ 43 * 128, node := 0 }) s

/-- The parties that go with a die: the die, and its package when no die of it is left (R274). -/
def State.losePartiesOf (s : State) (d : Nat) : State :=
  s.loseParties fun q => match q with | .die e => e == d | .package p => p == d / 8 && !s.packagePresent p | _ => false

/-- Gangs with a member on a die end, except saved ones (R207). -/
def State.loseGangsOn (s : State) (d : Nat) : State :=
  s.gangs.foldl (fun s e =>
    if (e.2.st = .loading ∨ e.2.st = .live ∨ e.2.st = .stopping) ∧ e.2.threads.any fun t => (s.thr t).die == d then s.loseGang e.1 0x15 else s) s

/-- Collectives and re-shards that a lost die takes part in abort with reason 0xF2 (R403, R418). -/
def State.loseCollsOn (s : State) (d : Nat) : State :=
  s.tasks.foldl (fun s e =>
    match (s.tasks.get e.1).work with
    | .coll c =>
      if (c.members.any fun m => m.die == d) || (s.presentDies.any fun x => (s.slots.get (slotKey x c.cid c.slot)).dies.contains d) then
        s.collAbort e.1 0xF2 none else s
    | .reshard r =>
      if s.presentDies.any fun x => (s.slots.get (slotKey x r.cid r.slot)).dies.contains d then s.reshardAbort e.1 0xF2 none else s
    | _ => s) s

/-- A stable layout slot whose rank list names a lost die becomes aborted (R391). -/
def State.loseSlotsOn (s : State) (d : Nat) : State :=
  { s with slots := s.slots.foldl (fun t e => if e.2.st = .stable ∧ e.2.dies.contains d then t.set e.1 { e.2 with st := .aborted } else t) s.slots }

/-- The home-loss event of a die that is no longer present: collectives that it takes part in abort before its gangs end, so that each has the reason of R418. -/
def State.homeLostEvent (s : State) (d : Nat) : State :=
  let s := State.dropPackets { s with shoots := (s.shoots.map (Shoot.without d)).filter fun x => !x.dies.isEmpty } d
  let s := ((s.loseBlocks d).dropEntriesOf d).loseAtomos d
  let s := (State.drainPosted { s with posted := s.posted.filter fun p => p.die != d } fun p => homeOf p.pa == d).discardLinesOf d
  ((((((s.loseCollsOn d).loseSlotsOn d).loseGangsOn d).loseHome d).losePartiesOf d).migLost d).parkedLost d

/-- A die leaves the domain (R247): it is no longer present and its home is lost. -/
def State.loseDie (s : State) (d : Nat) : State :=
  if (s.die d).present then (s.setDie d fun x => { x with present := false }).homeLostEvent d else s

/-- HOME_LOSS (R247). -/
def execHomeLoss (d : Nat) (s : State) : Out := .next (s.loseDie d)

end Sys2Proof.Machine
end

