-- ==== Sys2Proof/Machine/Gangs.lean ====
section
/-! DEFINITION. Gangs: placement (R195 to R198), dispatch, loading and slices (R179 to R184, R188, R202), pre-emption, frames and restore (R141 to R147,
R194), and fenced cores (R207, R462). -/

namespace Sys2Proof.Machine

/-! ## Free cores and shares (R183, R196) -/

/-- A core that may take a member: present, usable and not occupied. -/
def State.coreFree (s : State) (d c : Nat) : Bool :=
  decide (c < 256) && !(s.die d).coreBad.get c && (s.onCore d c).isNone

/-- The free cores of a die, in increasing number. -/
def State.freeCores (s : State) (d : Nat) : List Nat := (List.range 256).filter (s.coreFree d)

/-- The die takes gangs: present, neither gated nor asked to be (R489, R490). -/
def State.dieTakes (s : State) (d : Nat) : Bool := (s.die d).present && (s.die d).psReq != 3 && (s.die d).psCur != 3

/-- The share ranges in use in a cluster. -/
def State.sharesIn (s : State) (c : Nat) : List Range :=
  (s.gangs.filter fun e => e.2.st.placed).map fun e => e.2.shares.get c

/-- [o, o + n) is free of shares in a cluster. -/
def State.shareFree (s : State) (c o n : Nat) : Bool :=
  decide (o + n ≤ 2 ^ 23) && (s.sharesIn c).all fun r => !overlap r.base r.len o n

/-- The lowest offset at which `n` bytes fit contiguously in a cluster (R183). -/
def State.fitShare (s : State) (c n : Nat) : Option Nat :=
  ((0 :: (s.sharesIn c).map fun r => r.base + r.len).filter fun o => s.shareFree c o n).foldl (fun b o =>
    match b with | none => some o | some x => some (Nat.min x o)) none

/-! ## Placement (R196, R197) -/

/-- A place: die and core of each member, in member order. -/
abbrev Place := List (Nat × Nat)

/-- The clusters of a place with the members each takes. -/
def Place.clusters (p : Place) : List (Nat × Nat) :=
  (p.map fun x => clusterKey x.1 x.2).foldl (fun l c => if l.any fun y => y.1 == c then l.map fun y => if y.1 = c then (c, y.2 + 1) else y else l ++ [(c, 1)]) []

/-- The shares of a place, when every cluster holds its members' shares contiguously. -/
def State.placeShares (s : State) (scratch : Nat) (p : Place) : Option (Tab Range) :=
  p.clusters.foldl (fun t y => match t, s.fitShare y.1 (y.2 * scratch) with
    | some (t : Tab Range), some o => some (t.set y.1 ⟨o, y.2 * scratch⟩)
    | _, _ => none) (some [])

/-- The lowest free cores of a die whose clusters meet the share condition, at most `n` of them (R196, level 3). -/
def State.lowCores (s : State) (d scratch n : Nat) : List Nat :=
  (s.freeCores d).foldl (fun l c =>
    if n ≤ l.length then l
    else if (s.fitShare (clusterKey d c) (((l.filter fun x => x / 4 = c / 4).length + 1) * scratch)).isSome then l ++ [c] else l) []

/-- Slices of a die whose eight cores are free and whose clusters hold the shares of a run of `m` members, four in the even cluster and the rest in the odd
one (R197). -/
def State.runSlices (s : State) (d scratch m : Nat) : List Nat :=
  (List.range 32).filter fun k =>
    ((List.range 8).all fun i => s.coreFree d (8 * k + i)) && (s.fitShare (64 * d + 2 * k) (Nat.min m 4 * scratch)).isSome &&
    (s.fitShare (64 * d + 2 * k + 1) ((m - 4) * scratch)).isSome

/-- `m` members on a die in runs of eight, each on the lowest slice that is left for it (R197). -/
def State.runCores (s : State) (d scratch m : Nat) : Option (List Nat) :=
  let full := (s.runSlices d scratch 8).take (m / 8)
  if full.length < m / 8 then none
  else
    let last := if m % 8 = 0 then some [] else ((s.runSlices d scratch (m % 8)).find? fun k => !full.contains k).map fun k => [k]
    last.map fun l => let ks := full ++ l; (List.range m).map fun i => 8 * ks.getD (i / 8) 0 + i % 8

/-- Spread `n` members over dies of the given room as evenly as it allows, the lower die first (R182). -/
def spread : (n : Nat) → (room : List Nat) → (taken : List Nat) → List Nat
  | 0, _, taken => taken
  | n + 1, room, taken =>
    let open_ := (List.range room.length).filter fun i => decide (taken.getD i 0 < room.getD i 0)
    match open_.foldl (fun (b : Option Nat) i => match b with
        | none => some i
        | some j => if taken.getD i 0 < taken.getD j 0 then some i else some j) none with
    | none => taken
    | some i => spread n room (taken.set i (taken.getD i 0 + 1))

/-- The dies of the domain that a node's DIES allows (R170, R197). -/
def State.allowedDies (s : State) (x : Node) : List Nat := s.presentDies.filter fun d => flag x.dies (d % 8)

/-- The die gives cores to gangs of a node: it takes gangs, and is not reserved for another node (R180, R489). -/
def State.givesTo (s : State) (d : Nat) (x : Node) : Bool :=
  s.dieTakes d && (match (s.die d).reserved with | none => true | some n => n == nodeKey x.cid x.nid.toNat)

/-- The dies of the domain on which a node may have gangs now. -/
def State.nodeDies (s : State) (x : Node) : List Nat := (s.allowedDies x).filter fun d => s.givesTo d x

/-- A place for the next gang of a node, considered by die `d`'s scheduler (R180, R196, R197). -/
def State.placeOf (s : State) (d : Nat) (x : Node) : Option Place :=
  let det := (s.ctxs.get x.cid).det
  let here := fun cs => (cs : List Nat).map fun c => (d, c)
  let all4 := fun (c : Nat) => (List.range 4).all fun i => s.coreFree d (4 * c + i)
  if !((s.nodeDies x).contains d) then none
  else if x.level = 0 then
    ((s.freeCores d).find? fun c => (s.fitShare (clusterKey d c) x.scratch).isSome).map fun c => [(d, c)]
  else if x.level = 1 then
    ((List.range 64).find? fun c => all4 c && (s.fitShare (64 * d + c) (4 * x.scratch)).isSome).map fun c => here ((List.range 4).map fun i => 4 * c + i)
  else if x.level = 2 then (s.runSlices d x.scratch 8).head?.map fun k => here ((List.range 8).map fun i => 8 * k + i)
  else if x.level = 3 then
    if det then (s.runCores d x.scratch x.members).map here
    else
      let cs := s.lowCores d x.scratch x.members
      if cs.length = x.members then some (here cs) else none
  else if det then
    let ds := s.allowedDies x
    let n := ds.length
    ds.zipIdx.foldl (fun (p : Option Place) y =>
      let m := (y.2 + 1) * x.members / n - y.2 * x.members / n
      match p, (if s.givesTo y.1 x ∨ m = 0 then s.runCores y.1 x.scratch m else none) with
      | some p, some cs => some (p ++ cs.map fun c => (y.1, c))
      | _, _ => none) (some [])
  else
    let ds := s.nodeDies x
    let room := ds.map fun e => (s.lowCores e x.scratch 256).length
    let taken := spread x.members room (room.map fun _ => 0)
    if taken.foldl (· + ·) 0 < x.members then none
    else some (ds.zipIdx.flatMap fun y => (s.lowCores y.1 x.scratch (taken.getD y.2 0)).map fun c => (y.1, c))

/-! ## Loading (R184, R188) -/

/-- Read bytes of a context's memory for the device, at home (DEDUCED, log entry 16): what stops it, or the bytes and whether any was poisoned. -/
def State.agentRead (s : State) (die cid va n : Nat) : Except MemStop ((List Byte × Bool) × State) :=
  if n = 0 then .ok (([], false), s)
  else do
    let (as, s) ← s.accessLin (Issuer.agent die cid) va n false 0
    .ok (s.loadAccs (Issuer.agent die cid) (as.map fun a => { a with ord := 1 }))

/-- Write bytes of a context's memory for the device, at home (DEDUCED, log entry 16). -/
def State.agentWrite (s : State) (die cid va : Nat) (bs : List Byte) : Except MemStop State := do
  let (as, s) ← s.accessLin (Issuer.agent die cid) va bs.length true 0
  .ok (s.storeAccs (Issuer.agent die cid) (as.map fun a => { a with ord := 1 }) bs)

/-- T of a nest descriptor: the product of its trip counts (R187). -/
def nestTotal (nd : List Dword) : Nat :=
  let trip := fun k => field (nd.getD (1 + k / 2) 0) (32 * (k % 2)) 32
  (List.range (field (nd.getD 0 0) 0 3)).foldl (fun n k => n * trip k) 1

/-- The slice record of node index x of p threads (R188). -/
def sliceRecord (nd : List Dword) (x p : Nat) : List Byte :=
  let d0 := nd.getD 0 0
  let trip := fun k => field (nd.getD (1 + k / 2) 0) (32 * (k % 2)) 32
  let total := nestTotal nd
  let first := x * total / p
  let count := (x + 1) * total / p - first
  let c := ((List.range (field d0 0 3)).foldl (fun (y : List Nat × Nat) j =>
    let k := field d0 (4 + 2 * j) 2
    (y.1.set k (y.2 % trip k), y.2 / trip k)) ([0, 0, 0, 0], if total = 0 then 0 else first)).1
  dwBytes ([first, count] ++ c ++ [0, 0])

/-- A member's loading failed: the node ends tainted with reason 6; a migrating page makes the dispatch wait. -/
def loadStop (s0 s : State) (n : Nat) (m : MemStop) : State :=
  match m with
  | .fault _ _ => s.stopNode n 3 6 none
  | .migrating _ => s0

/-- Load thread `t`: text, share and slice record. -/
def State.loadMember (s : State) (t : Nat) (base len : Nat) : Except MemStop (Bool × State) := do
  let th := s.thr t
  let x := s.nodes.get th.node
  let ((text, bad0), s) ← s.agentRead th.die th.cid (x.image + x.toff) x.tsize
  let ((data, bad1), s) ← s.agentRead th.die th.cid (x.image + x.doff) x.dsize
  let s := s.modThr t fun th => { th with text := text.zipIdx.foldl (fun t b => Tab.set t b.2 b.1) [] }
  let s := if len = 0 then s else s.spadWrite th.cluster base (data ++ leBytes (len - data.length) 0)
  let s ← if x.nestD.isEmpty then pure s
    else s.agentWrite th.die th.cid (field (x.nestD.getD 3 0) 0 57 + 64 * s.nodeIndex th) (sliceRecord x.nestD (s.nodeIndex th) (x.gangs * x.members))
  .ok (bad0 || bad1, s)

/-- A freshly dispatched member (R68, R70, R122, R198). -/
def newMember (x : Node) (n g gi i : Nat) (p : Place) (share : Nat) : Thread :=
  let me := p.getD i (0, 0)
  let same := fun (k : Nat) (y : Nat × Nat) =>
    if k = 1 then y.1 == me.1 && y.2 / 4 == me.2 / 4 else if k = 2 then y.1 == me.1 && y.2 / 8 == me.2 / 8 else if k = 3 then y.1 == me.1 else true
  let idx := fun k => BitVec.ofNat 17 (((p.take i).filter (same k)).length)
  let size := fun k => BitVec.ofNat 17 ((p.filter (same k)).length)
  { (default : Thread) with
    st := .loaded, cid := x.cid, node := n, gang := g, member := i, die := me.1, core := me.2, slipw := 1024,
    s := Tab.set (Tab.set [] 1 (BitVec.ofNat 64 x.args)) 2 (BitVec.ofNat 64 share), gangIdx := BitVec.ofNat 32 gi, gangs := BitVec.ofNat 32 x.gangs,
    lix := [1, 2, 3, 4].foldl (fun t k => Tab.set t k (idx k)) [], lsz := [1, 2, 3, 4].foldl (fun t k => Tab.set t k (size k)) [],
    seeds := [{ key := forkKey x.seedKey (if x.level = 0 then 0 else i), vec := 0, mat := 0 }] }

/-- The share offset of member i of a place. -/
def shareOf (shares : Tab Range) (scratch : Nat) (p : Place) (i : Nat) : Nat :=
  let me := p.getD i (0, 0)
  let c := clusterKey me.1 me.2
  (shares.get c).base + ((p.take i).filter fun y => clusterKey y.1 y.2 = c).length * scratch

/-- Load every member of a gang. -/
def loadAll : List (Nat × Nat) → Nat → State → Except MemStop (Bool × State)
  | [], _, s => .ok (false, s)
  | (t, base) :: rest, len, s => do
    let (b, s) ← s.loadMember t base len
    let (c, s) ← loadAll rest len s
    .ok (b || c, s)

/-- Dispatch the next gang of a node to a place: mailboxes, loading (R183, R184). -/
def State.dispatchGang (s : State) (n : Nat) (p : Place) (shares : Tab Range) : State :=
  let x := s.nodes.get n
  let g := s.nextGang
  let t0 := s.nextThread
  let ts := (List.range p.length).map fun i => t0 + i
  let gang : Gang := { (default : Gang) with st := .loading, node := n, idx := x.given, level := x.level, threads := ts, shares := shares }
  let s' : State := { s with
    gangs := s.gangs.set g gang, nextGang := g + 1, nextThread := t0 + p.length
    threads := (List.range p.length).foldl (fun t i => t.set (t0 + i) (newMember x n g x.given i p (shareOf shares x.scratch p i))) s.threads }
  let s' := s'.modNode n fun x => { x with st := .running, given := x.given + 1, live := x.live + 1 }
  let s' : State := { s' with dies := s'.dies.foldl (fun t e => if e.2.reserved = some n then t.set e.1 { e.2 with reserved := none } else t) s'.dies }
  match loadAll (ts.zipIdx.map fun y => (y.1, shareOf shares x.scratch p y.2)) x.scratch s' with
  | .error m => loadStop s s' n m
  | .ok (true, s') => s'.stopNode n 3 6 none
  | .ok (false, s') => s'

/-! ## The ready pool (R179 to R182) -/

/-- Held at a cwait (R193). -/
def Thread.atCwait (th : Thread) : Bool :=
  (th.held.get 7).isSome &&
  (match th.head .syn with | some x => (match x.item with | .word w => bits w 24 8 == (0xEF : BitVec 8) | _ => false) | none => false)

/-- Every member of a gang is held at a cwait or has ended (R194). -/
def State.gangAwaits (s : State) (g : Nat) : Bool :=
  (s.gangs.get g).threads.all fun t => (s.thr t).st == .ended || (s.thr t).atCwait

/-- The PRIO by which a node asks for pre-emption (R141, R194). -/
def State.callPrio (s : State) (x : Node) : Nat :=
  x.byGangs.foldl (fun n g =>
    if (s.gangs.get g).boost && s.gangAwaits g then Nat.max n ((s.ctxs.get (s.nodes.get (s.gangs.get g).node).cid).prio.toNat + 1) else n)
    (s.ctxs.get x.cid).prio.toNat

/-- When a node of a pool comes to stand in it: as it enters, but never before a node of its context that is earlier in context order (R179). -/
def poolTime (l : List (Nat × Node)) (x : Node) : Nat :=
  l.foldl (fun n e => if e.2.cid = x.cid ∧ e.2.place ≤ x.place then Nat.max n e.2.entered else n) 0

/-- Pool order: PRIO, then context order within a context and time of entry between contexts (R179); nodes of two contexts that come to stand at one time are in order of
CID (DEDUCED, log entry 105). -/
def State.poolBefore (s : State) (l : List (Nat × Node)) (x y : Node) : Bool :=
  let p := (s.ctxs.get x.cid).prio.toNat
  let q := (s.ctxs.get y.cid).prio.toNat
  let a := poolTime l x
  let b := poolTime l y
  decide (q < p) || (p == q && (decide (a < b) || (a == b && (decide (x.cid < y.cid) || (x.cid == y.cid && decide (x.place ≤ y.place))))))

/-- Insert into the pool. -/
def State.poolInsert (s : State) (l : List (Nat × Node)) (a : Nat × Node) : List (Nat × Node) → List (Nat × Node)
  | [] => [a]
  | b :: bs => if s.poolBefore l a.2 b.2 then a :: b :: bs else b :: s.poolInsert l a bs

/-- The ready pool of a die, in order: ready and running nodes of active contexts that allow the die and have gangs to give. -/
def State.pool (s : State) (d : Nat) : List Nat :=
  let l := s.nodes.filter fun e =>
    (e.2.st == .ready || e.2.st == .running) && decide (e.2.given < e.2.gangs) && flag e.2.dies (d % 8) && (s.ctxs.get e.2.cid).st == .active
  (l.foldl (fun o e => s.poolInsert l e o) []).map Prod.fst

/-- The first node of a list of which a gang fits, with its place and shares. -/
def State.firstFit (s : State) (d : Nat) : List Nat → Option (Nat × Place × Tab Range)
  | [] => none
  | n :: ns =>
    match s.placeOf d (s.nodes.get n) with
    | none => s.firstFit d ns
    | some p => match s.placeShares (s.nodes.get n).scratch p with
      | none => s.firstFit d ns
      | some sh => some (n, p, sh)

/-- A gang of a node fits on a die now. -/
def State.fitsNow (s : State) (d n : Nat) : Bool := (s.firstFit d [n]).isSome

/-- A lower die of the node is a candidate for its next gang, so this one is not chosen (R196). -/
def State.lowerDie (s : State) (d n : Nat) : Bool :=
  (s.nodeDies (s.nodes.get n)).any fun e => decide (e < d) && ((s.die e).reserved.isNone || (s.die e).reserved == some n) && s.fitsNow e n

/-- The die scheduler dispatches one gang, if it can (R179, R180, R196). -/
def State.dispatchOn (s : State) (d : Nat) : State :=
  if !s.dieTakes d then s
  else
    let ns := (match (s.die d).reserved with | some n => (s.pool d).filter (· == n) | none => s.pool d).filter fun n => !s.lowerDie d n
    match s.firstFit d ns with
    | none => s
    | some (n, p, sh) => s.dispatchGang n p sh

/-- GANG_DISPATCH (R179). -/
def execGangDispatch (d : Nat) (s : State) : Out := .next (s.dispatchOn d)

/-- The members start SEQ together (R202). -/
def State.startGang (s : State) (g : Nat) : State :=
  if (s.gangs.get g).st = .loading then
    (s.gangs.get g).threads.foldl (fun s t => s.modThr t fun th => if th.st = .loaded then { th with st := .running } else th)
      (s.modGang g fun x => { x with st := .live })
  else s

/-- GANG_START (R202). -/
def execGangStart (g : Nat) (s : State) : Out := .next (s.startGang g)

/-- RESERVATION_TIMEOUT (R180): the first node of the pool becomes reserved. -/
def execReservationTimeout (d : Nat) (s : State) : Out :=
  .next (match (s.die d).reserved, s.pool d with
    | none, n :: _ => if s.fitsNow d n ∨ (s.nodes.get n).dropped.contains d then s else s.setDie d fun x => { x with reserved := some n }
    | _, _ => s)

/-- The module with no core occupied, no share in use, no die reserved and none gated, which lowers no CORES (R181, R489). -/
def State.emptied (s : State) : State :=
  { s with threads := [], gangs := [], dies := s.dies.foldl (fun t e => t.set e.1 { e.2 with reserved := none, psReq := 0, psCur := 0 }) s.dies }

/-- A node that a die has dropped and that no die of its DIES could place, all of them being free, is logged once (R181). -/
def State.logUnplaceable (s : State) (n : Nat) : State :=
  let x := s.nodes.get n
  if x.st.inFlight ∧ !x.dropped.isEmpty ∧ !x.unplaceable ∧ x.given < x.gangs ∧ (s.allowedDies x).all fun e => !s.emptied.fitsNow e n then
    (s.modNode n fun x => { x with unplaceable := true }).log (s.orderDie x.cid)
      { kind := 13, code := 0, unit := 0, cid := some x.cid, addr := 0, node := x.nid.toNat }
  else s

/-- The condition of R181 may have come to hold for any node. -/
def State.logUnplaceables (s : State) : State := s.nodes.foldl (fun s e => s.logUnplaceable e.1) s

/-- RESERVATION_DROP (R181). -/
def execReservationDrop (d : Nat) (s : State) : Out :=
  .next (match (s.die d).reserved with
    | none => s
    | some n =>
      if s.emptied.fitsNow d n then s
      else
        ((s.setDie d fun x => { x with reserved := none }).modNode n fun x => { x with dropped := x.dropped ++ [d] }).logUnplaceable n)

/-! ## Pre-emption (R141, R142) -/

/-- A gang begins to be pre-empted: its members stop at their next command boundaries (R126, R141). -/
def State.stopGang (s : State) (g : Nat) (byCtxsv : Bool) (area : Nat) : State :=
  let s := s.modGang g fun x => { x with st := .stopping, byCtxsv := byCtxsv, area := area }
  (s.gangs.get g).threads.foldl (fun s t =>
    if (s.thr t).st = .running ∨ (s.thr t).st = .handler ∨ (s.thr t).st = .stopped then
      (s.arrayHalt t).modThr t fun th => { th with was := th.st, st := .leaving, held := [], stall := 0, deadSet := 0 }
    else s) s

/-- A ready node of higher PRIO asks for cores that a gang of PRIO `p` holds on a die. -/
def State.outranked (s : State) (p d : Nat) : Bool :=
  s.nodes.any fun e => e.2.st == .ready && flag e.2.dies (d % 8) && (s.ctxs.get e.2.cid).st == .active && decide (p < s.callPrio e.2)

/-- The scheduler may pre-empt a gang: it has started, its pool has a free area, and its context is stopping or a ready node outranks it. -/
def State.mayPreempt (s : State) (g : Nat) : Bool :=
  let x := s.gangs.get g
  let cid := (s.nodes.get x.node).cid
  x.st == .live && (s.freeFrame cid).isSome &&
  ((s.ctxs.get cid).st == .stopping || x.threads.any fun t => s.outranked (s.ctxs.get cid).prio.toNat (s.thr t).die)

/-- GANG_PREEMPT (R141). -/
def execGangPreempt (g : Nat) (s : State) : Out := .next (if s.mayPreempt g then s.stopGang g false 0 else s)

/-- A boost lasts while every member awaits without interruption (R194). -/
def State.endBoosts (s : State) : State :=
  s.gangs.foldl (fun s e => if e.2.boost && !s.gangAwaits e.1 then s.modGang e.1 fun x => { x with boost := false } else s) s

/-- CHILD_BOOST_TIMEOUT (R194). -/
def execChildBoostTimeout (g : Nat) (s : State) : Out :=
  .next (if (s.gangs.get g).st = .live ∧ s.gangAwaits g then s.modGang g fun x => { x with boost := true } else s)

/-! ## Thread frames (R143) -/

/-- What a member's record in a frame says: its pending trap, the record of its stop, or PREEMPT, for which the manual gives neither ENG (here SEQ) nor
ESTAT and ADDR (free values) (R141, R142; DESIGN CHOICE, log entry 83). -/
def Thread.frameTrap (th : Thread) : Engine × TrapInfo :=
  match th.pend with
  | some p => (p.eng, p.info)
  | none =>
    if th.was = .stopped then (th.recEng, { code := th.recCode, estat := th.recEstat, addr := th.recAddr })
    else (.seq, { code := .preempt, estat := 0, addr := 0, openE := -1, openA := true })

/-- SKIP of a member's record in a frame: that of its stop, else as the device writes it for the code (R132). -/
def Thread.frameSkip (th : Thread) (i : TrapInfo) : BitVec 8 := if th.was = .stopped ∧ th.pend.isNone then th.skip else skipOf i.code

/-- Bytes padded with zeros to a length. -/
def padTo (n : Nat) (bs : List Byte) : List Byte := bs ++ leBytes (n - bs.length) 0

/-- The image of an instruction queue: 64 entries of word and text address; a marker's word is its join slot, and a pass boundary is no entry. -/
def iqImage (q : List IqEntry) : List Byte :=
  padTo 512 (((q.filter fun x => !x.item.isPass).take 64).flatMap fun x => leBytes 4 (match x.item with | .word w => w.toNat | .marker j => j | .pass _ => 0) ++ leBytes 4 x.addr.toNat)

/-- The rows of a table of rows from key k. -/
def rowsImage (t : Tab Row) (k n : Nat) : List Byte := (t.getRange k n).flatMap rowBytes

/-- A thread frame with the record (e, i); `eng` bytes stand for the device's own resumable state (R143; DESIGN CHOICE, log entry 8). -/
def threadFrame (th : Thread) (e : Engine) (i : TrapInfo) (eng : List Byte) : List Byte :=
  padTo 0x1000 (trapArea { th with skip := th.frameSkip i } e i true th.inh ++ dwBytes ((th.d.getRange 0 64).map BitVec.toNat) ++ (List.range 8).flatMap fun k => leBytes 16 (th.rm (BitVec.ofNat 3 k)).toNat) ++
  padTo 0x1000 ((List.range 8).flatMap fun e => iqImage (th.iq.get e)) ++
  ([0, 1, 4, 6, 7, 8, 9, 10].flatMap fun q => padTo 128 (dwBytes ((th.qs.get q).map BitVec.toNat))) ++ eng ++
  ([2, 3, 5, 11].flatMap fun q => padTo 4096 ((th.qr.get q).flatMap rowBytes)) ++ rowsImage th.v 0 32 ++ leBytes 0x4000 0 ++ rowsImage th.acc 0 512 ++
  ((List.range 4).flatMap fun k => rowsImage th.rck k 1 ++ rowsImage th.cck k 1) ++ leBytes 0xF000 0

/-- Free bytes for what the device lays out as it likes. -/
def State.freeBytes (s : State) (n : Nat) : List Byte × State := ((List.range n).map fun i => Config.freeByte (s.freeCtr + i), { s with freeCtr := s.freeCtr + n })

/-- Registers that a restore takes from a thread frame, edits included (R147); an edit of RRB renames the words behind its last change, as at a resume. -/
def Thread.fromFrame (th : Thread) (bs : List Byte) : Thread :=
  let th := th.reload (bs.drop 0x100)
  let th := { th with iq := renamed th.rrb th.rrbOrd th.iq }
  let at_ := fun i => dwAt bs i
  let rows := fun (base n : Nat) => (List.range n).foldl (fun (t : Tab Row) i => t.set i (rowOfBytes ((bs.drop (base + 512 * i)).take 512))) []
  { th with
    trapvec := at_ 0x370 &&& trapvecMask
    seeds := ((List.range th.seeds.length).map fun i =>
      { key := at_ (0x400 + 32 * i), vec := bits (at_ (0x408 + 32 * i)) 0 61, mat := bits (at_ (0x410 + 32 * i)) 0 61 : SeedEntry }).reverse
    d := (List.range 64).foldl (fun t i => Tab.set t i (at_ (0x600 + 8 * i))) []
    m := (List.range 7).foldl (fun t i => Tab.set t (i + 1) (BitVec.ofNat 128 (leNat ((bs.drop (0x810 + 16 * i)).take 16)))) []
    v := rows 0x8000 32, acc := rows 0x10000 512
    rck := (List.range 4).foldl (fun t k => Tab.set t k (rowOfBytes ((bs.drop (0x50000 + 1024 * k)).take 512))) []
    cck := (List.range 4).foldl (fun t k => Tab.set t k (rowOfBytes ((bs.drop (0x50200 + 1024 * k)).take 512))) []
    sten := flag (at_ 56) 39, steng := bits (at_ 56) 32 3 }

/-! ## Saving a gang (R141, R144) -/

/-- Every entry of a gang's members has settled and their arrays have stopped. -/
def State.gangSettled (s : State) (g : Nat) : Bool :=
  (s.gangs.get g).threads.all fun t => !(s.thr t).sbPending && (s.thr t).quiet && !(s.spend.any fun p => p.thread == t)

/-- Where a gang's frame area lies. -/
def State.gangArea (s : State) (g : Nat) : Nat :=
  let x := s.gangs.get g
  if x.byCtxsv then x.area else s.areaAt (s.nodes.get x.node).cid x.area

/-- The record and SEQ state that a frame of a member in `area` begins with: a stopped member keeps what stands in the frame of its record, edits included
(none when that is this frame); any other has its own, `own` (R139, R141). -/
def State.frameHead (s : State) (t area : Nat) (own : List Byte) : Except MemStop (Option (List Byte) × State) :=
  let th := s.thr t
  match (if th.was = .stopped ∧ th.pend.isNone then th.area else none) with
  | none => .ok (some own, s)
  | some k =>
    if s.areaAt th.cid k = area then .ok (none, s)
    else do
      let ((bs, bad), s) ← s.agentRead th.die th.cid (s.areaAt th.cid k + th.member * 0x60000) 0x600
      if bad then .error (.fault { code := .uncorrectable, estat := 0, addr := 0 } none) else .ok (some bs, s)

/-- Write the thread frame of a member. -/
def State.saveThread (s : State) (area t : Nat) : Except MemStop State := do
  let th := s.thr t
  let (i, s) := s.fillTrap th.frameTrap.2
  let s := s.modThr t fun th => { th with frameAt := s.freeCtr }
  let (eng, s) := s.freeBytes 0x1C00
  let bs := threadFrame th th.frameTrap.1 i eng
  let at_ := area + th.member * 0x60000
  let (head, s) ← s.frameHead t area (bs.take 0x600)
  match head with
  | some h => s.agentWrite th.die th.cid at_ (h ++ bs.drop 0x600)
  | none => s.agentWrite th.die th.cid (at_ + 0x600) (bs.drop 0x600)

/-- Write the thread frames of members, each at its place. -/
def saveThreads (area : Nat) : List Nat → State → Except (MemStop × Nat) State
  | [], s => .ok s
  | t :: ts, s =>
    match s.saveThread area t with
    | .error m => .error (m, t)
    | .ok s => saveThreads area ts s

/-- Carry the poison of scratchpad granules [a, a + n) to memory at `va` (R456). -/
def State.poisonOut (s : State) (die cid cluster a n va : Nat) : State :=
  (parts 16 a n).foldl (fun s p =>
    if s.spoison.get (cluster * 2 ^ 19 + p.1 / 16) then
      match s.accessLin (Issuer.agent die cid) (va + (p.1 - a)) 16 true 0 with
      | .ok (as, s) => { s with poison := as.foldl (fun t x => setPoison t ((parts 16 x.pa x.len).map fun q => q.1 / 16)) s.poison }
      | .error _ => s
    else s) s

/-- Write the cluster frames of a gang. -/
def saveClusters (g t0 : Nat) : List Nat → Nat → State → Except (MemStop × Nat) State
  | [], _, s => .ok s
  | c :: cs, at_, s =>
    let th := s.thr t0
    let r := (s.gangs.get g).shares.get c
    let (objs, s) := s.freeBytes 0x10000
    match s.agentWrite (c / 64) th.cid at_ (padTo (s.clusterFrame g c) (objs ++ s.spadBytes c r.base r.len)) with
    | .error m => .error (m, t0)
    | .ok s => saveClusters g t0 cs (at_ + s.clusterFrame g c) (s.poisonOut (c / 64) th.cid c r.base r.len (at_ + 0x10000))

/-- The dirty bytes of the members' pieces in the caches of the dies they occupied go home (R273). -/
def State.gangPiecesBack (s : State) (g : Nat) : State :=
  let ts := (s.gangs.get g).threads
  s.allPieces.foldl (fun s e =>
    if ts.any fun t => e.2.holder.ofThread (s.thr t).node (s.nodeIndex (s.thr t)) then
      (ts.map fun t => (s.thr t).die).foldl (fun s d => s.cacheBack (s.extentsOf e.1) e.1 e.2.base e.2.top d) s
    else s) s

/-- A gang that has been saved leaves its cores: its cluster objects go with it (R141, R144). -/
def State.clearGang (s : State) (g : Nat) : State :=
  let x := s.gangs.get g
  let s := s.modGang g fun x =>
    { x with
      st := .saved, handles := s.handles.filter fun e => e.2.owner = g + 1, cbars := s.cbars.filter fun e => e.2.owner = g + 1
      rings := s.rings.filter fun e => e.2.owner = g + 1, sbars := s.sbars.filter fun a => x.threads.contains a.thread }
  let s : State := { s with
    sbars := s.sbars.filter fun a => !x.threads.contains a.thread
    handles := s.handles.filter fun e => e.2.owner ≠ g + 1
    cbars := s.cbars.filter fun e => e.2.owner ≠ g + 1
    rings := s.rings.filter fun e => e.2.owner ≠ g + 1 }
  x.threads.foldl (fun s t => s.modThr t fun th => if th.st = .leaving then { th with st := .saved } else th) s

/-- The saving of a stopping gang ends (R141, R144): words that have begun are complete (R126). An area that exceeds FSIZE concerns no one member's frame: the first
member still there is the contributing one (DESIGN CHOICE, log entry 102), as it is for a cluster frame. -/
def State.saveGang (s : State) (g : Nat) : State :=
  let x := s.gangs.get g
  let cid := (s.nodes.get x.node).cid
  if x.st ≠ .stopping ∨ !s.gangSettled g then s
  else
    let live := x.threads.filter fun t => (s.thr t).st == .leaving
    let t0 := live.headD (x.threads.headD 0)
    let s := live.foldl (fun s t => (s.finishMove t).finishAtom t) s
    if (s.ctxs.get cid).fsize.toNat * 0x10000 < s.areaBytes g then s.stopNode x.node 3 0x60 live.head?
    else match (if x.byCtxsv then some x.area else s.gangFrame g cid) with
      | none => s
      | some k =>
        let s' := s.drainPosted fun p => x.threads.contains p.thread
        let s' := s'.modGang g fun x => { x with area := k }
        match (do
          let s' ← saveThreads (s'.gangArea g) live s'
          saveClusters g t0 (s'.gangClusters g) (s'.gangArea g + x.threads.length * 0x60000) s') with
        | .error (m, t) => (match m.reason with | some r => s.stopNode x.node 3 r (some t) | none => s)
        | .ok s' =>
          let s' : State := if x.byCtxsv then s' else { s' with ctxs := s'.ctxs.mod cid fun c => { c with areas := c.areas.set k true } }
          (s'.gangPiecesBack g).clearGang g

/-! ## Restoring a gang (R147) -/

/-- The place of a gang moved so that its first member stands on a die and core; a member of a gang of level 3 or 4 keeps its die, and cores move by whole
slices, so that every group stays as it was. -/
def State.movedPlace (s : State) (g die core : Nat) : Option Place :=
  let x := s.gangs.get g
  let old := x.threads.map fun t => ((s.thr t).die, (s.thr t).core)
  let first := (old.headD (0, 0))
  let unit := if x.level = 0 then 1 else if x.level = 1 then 4 else 8
  if core % unit ≠ first.2 % unit ∨ (3 ≤ x.level ∧ die ≠ first.1) ∨ old.any fun y => decide (y.2 + core < first.2) then none
  else some (old.map fun y => (if 3 ≤ x.level then y.1 else die, y.2 + core - first.2))

/-- Old and new cluster of each cluster of a gang. -/
def State.clusterMoves (s : State) (g : Nat) (p : Place) : List (Nat × Nat) :=
  ((s.gangs.get g).threads.zip p).map fun y => ((s.thr y.1).cluster, clusterKey y.2.1 y.2.2)

/-- Where a cluster key goes. -/
def moveKey (ms : List (Nat × Nat)) (c : Nat) : Nat := match ms.find? fun m => m.1 == c with | some m => m.2 | none => c

/-- The place is free for the gang: cores, shares at the offsets they had, and the numbers of its cluster objects (R147). -/
def State.placeFree (s : State) (g : Nat) (p : Place) : Bool :=
  let x := s.gangs.get g
  let ms := s.clusterMoves g p
  (p.all fun y => s.coreFree y.1 y.2 && s.givesTo y.1 (s.nodes.get x.node)) &&
  (x.shares.all fun e => s.shareFree (moveKey ms e.1) e.2.base e.2.len) &&
  (x.handles.all fun e => (s.handles.get (moveKey ms (e.1 / 64) * 64 + e.1 % 64)).owner == 0) &&
  (x.cbars.all fun e => (s.cbars.get (moveKey ms (e.1 / 16) * 16 + e.1 % 16)).owner == 0) &&
  (x.rings.all fun e => !(s.rings.get (moveKey ms (e.1 / 8) * 8 + e.1 % 8)).active)

/-- A port at the cluster it moves to. -/
def Port.moved (ms : List (Nat × Nat)) : Port → Port
  | .spad c b => .spad (moveKey ms c) b
  | p => p

/-- A unit at the cluster it moves to. -/
def CopyUnit.moved (ms : List (Nat × Nat)) : CopyUnit → CopyUnit
  | .move a b n wp => .move (a.moved ms) (b.moved ms) n wp
  | .runOut a ps wp => .runOut (a.moved ms) ps wp
  | .combine op f a ps n wp => .combine op f (a.moved ms) ps n wp
  | u => u

/-- Work of a gang's member goes on where the gang stands now: parked work resumes (R133, R147). -/
def Task.moved (ms : List (Nat × Nat)) (die : Nat) (x : Task) : Task :=
  match x.work with
  | .copy c => { x with die := die, parked := false, work := .copy { c with cluster := moveKey ms c.cluster, units := c.units.map (CopyUnit.moved ms) } }
  | .patt p => { x with die := die, parked := false, work := .patt { p with dst := moveKey ms (p.dst / 2 ^ 23) * 2 ^ 23 + p.dst % 2 ^ 23 } }
  | _ => { x with parked := false }

/-- A task's part of thread `t` is pending again: its entry, and its handle is filling (R249, R317). -/
def State.unpark (s : State) (k t : Nat) : State :=
  let x := s.tasks.get k
  match x.work with
  | .coll c =>
    let s := s.setTask k fun x =>
      { x with work := .coll { c with members := c.members.map fun m => if m.thread = t then { m with parked := false } else m }, homes := [] }
    c.members.foldl (fun s m =>
      if m.thread = t ∧ m.parked then (s.settle t m.sb .pending).endHandle (s.thr t).cluster m.handle .filling else s) s
  | _ =>
    if !x.parked then s
    else
      let s := (s.setTask k fun x => { x with parked := false, homes := [] }).settleTask x .pending
      match x.handle with
      | some (c, h) => s.endHandle c h .filling
      | none => s

/-- The objects of a gang return to its clusters. What halo arrivals have counted meanwhile on the number of one of its barriers, free while the gang stood saved, is lost:
the saved OCID and COUNT stand again (the spec is silent: DESIGN CHOICE, log entry 102). -/
def State.objectsBack (s : State) (g : Nat) (ms : List (Nat × Nat)) : State :=
  let x : Gang := s.gangs.get g
  let s : State := { s with
    handles := x.handles.foldl (fun (t) e => Tab.set t (moveKey ms (e.1 / 64) * 64 + e.1 % 64) e.2) s.handles
    cbars := x.cbars.foldl (fun (t) e => Tab.set t (moveKey ms (e.1 / 16) * 16 + e.1 % 16) e.2) s.cbars
    rings := x.rings.foldl (fun (t) e => Tab.set t (moveKey ms (e.1 / 8) * 8 + e.1 % 8) e.2) s.rings
    sbars := s.sbars ++ x.sbars.map fun a => { a with ring := moveKey ms (a.ring / 8) * 8 + a.ring % 8 } }
  s.modGang g fun x =>
    { x with
      st := .live, handles := [], cbars := [], rings := [], sbars := [], boost := false
      shares := x.shares.foldl (fun (t : Tab Range) e => t.set (moveKey ms e.1) e.2) [] }

/-- Lines of regions of a context leave the cache of a die that the gang did not occupy (R273). -/
def State.cleanDie (s : State) (cid d : Nat) : State :=
  let xs := s.extents cid
  (s.rdcLines d).foldl (fun s line => if s.regionMask xs cid (fun _ => true) line = 0 then s else s.dropLine d line) s

/-- A restored member. A stopped one stays stopped, its batches parked and its record to be acted on when it resumes, unless `go` restarts it (R125, R139,
R373). Any other restarts: its record's SKIP applies, its settled entries go (R133, R147); a trap that it holds is taken first, its batches staying parked until it
restarts from that (R373) and SKIP acting when that ends (R142; DEDUCED, log entry 84). -/
def Thread.restored (th : Thread) (bs : List Byte) (go : Bool) : Thread :=
  let th := th.fromFrame bs
  if th.was = .stopped ∧ !go then { th with st := .stopped, was := .absent }
  else
    let p := th.pend
    let th := if p.isSome then th else th.applySkip (bits (dwAt bs 56) 24 8)
    let st := if th.was = .stopped then (if th.inh then .handler else .running) else th.was
    let th := { th.restarted with pend := p, st := st, was := .absent, recHeld := false }
    Thread.release (if p.isSome then th.batchEntries .parked else th)

/-- The resumable engine state of a frame passes the device's check: it stands as the device wrote it (R143; DESIGN CHOICE, log entry 8). -/
def Thread.frameSound (th : Thread) (bs : List Byte) : Bool :=
  (bs.drop 0x2400).take 0x1C00 == (List.range 0x1C00).map fun i => Config.freeByte (th.frameAt + i)

/-- Work that stands on a handle or a thread of its own, not a collective's. -/
def Task.single (x : Task) (ts : List Nat) : Bool :=
  match x.work with
  | .none => false
  | .coll _ => false
  | _ => ts.contains x.thread

/-- The work of some threads goes where their clusters have gone. -/
def State.moveTasks (s : State) (ts : List Nat) (ms : List (Nat × Nat)) : State :=
  let f := fun (e : Nat × Task) => if e.2.single ts then (e.1, { e.2.moved ms (s.thr e.2.thread).die with parked := e.2.parked }) else e
  { s with tasks := s.tasks.map f }

/-- Reload the members' frames; the answer names the first member whose frame was uncorrectable or fails the device's check. With `go` stopped members restart, but for
one whose trap event could not be written yet (R125, R158). -/
def loadThreads (area : Nat) (go : Bool) : List Nat → State → Except (MemStop × Nat) (Option Nat × State)
  | [], s => .ok (none, s)
  | t :: ts, s =>
    let th := s.thr t
    match s.agentRead th.die th.cid (area + th.member * 0x60000) 0x60000 with
    | .error m => .error (m, t)
    | .ok ((bs, bad), s) =>
      match loadThreads area go ts (s.modThr t fun th => th.restored bs (go && !s.trapHeld t)) with
      | .error e => .error e
      | .ok (bad', s) => .ok (if bad || !th.frameSound bs then some t else bad', s)

/-- Reload the shares of a gang from its cluster frames, `cs` being the clusters it was saved from. -/
def loadClusters (g t0 : Nat) (ms : List (Nat × Nat)) (shares : Tab Range) : List Nat → Nat → State → Except (MemStop × Nat) (Bool × State)
  | [], _, s => .ok (false, s)
  | c :: cs, at_, s =>
    let r := shares.get c
    let d := moveKey ms c
    match s.agentRead (d / 64) (s.thr t0).cid (at_ + 0x10000) r.len with
    | .error m => .error (m, t0)
    | .ok ((bs, bad), s) =>
      match loadClusters g t0 ms shares cs (at_ + 0x10000 + (r.len + 0xFFFF) / 0x10000 * 0x10000) (s.spadWrite d r.base bs) with
      | .error e => .error e
      | .ok (bad', s) => .ok (bad || bad', s)

/-- A gang is reloaded from its frames at a place that is free for it (R147); with `go` its stopped members restart too. A frame that cannot be read, is uncorrectable or
fails the device's check ends the node, the member whose frame it is contributing; of a cluster frame, the first member still there (R143, R144; log entry 102). -/
def State.restoreAt (s : State) (g : Nat) (p : Place) (area : Nat) (go : Bool) : State :=
  let x := s.gangs.get g
  let cid := (s.nodes.get x.node).cid
  let ms := s.clusterMoves g p
  let clusters := s.gangClusters g
  let oldDies := x.threads.map fun t => (s.thr t).die
  let live := x.threads.filter fun t => (s.thr t).st == .saved
  let s1 := (x.threads.zip p).foldl (fun s y => s.modThr y.1 fun th => { th with die := y.2.1, core := y.2.2 }) s
  let t0 := live.headD (x.threads.headD 0)
  match (do
    let (bad, s1) ← loadThreads area go live s1
    let (bad', s1) ← loadClusters g t0 ms x.shares clusters (area + x.threads.length * 0x60000) s1
    Except.ok (bad.or (if bad' then some t0 else none), s1)) with
  | .error (m, t) => (match m.reason with | some r => s.stopNode x.node 3 r (some t) | none => s)
  | .ok (some t, s1) => s1.stopNode x.node 3 0x51 (some t)
  | .ok (none, s1) =>
    let s1 := s1.objectsBack g ms
    let s1 := s1.moveTasks x.threads ms
    let s1 := s1.tasks.foldl (fun s e => x.threads.foldl (fun s t => if (s.tasks.get e.1).of t then s.unpark e.1 t else s) s) s1
    let s1 : State := if x.byCtxsv ∨ x.threads.any fun t => (s1.thr t).area == some x.area then s1 else s1.freeArea cid x.area
    (p.map Prod.fst).foldl (fun s d => if oldDies.contains d then s else s.cleanDie cid d) s1

/-- A saved gang that cannot be restored since a die it needs is gone: one of its members' dies at levels 3 and 4, every die of its node's DIES below
them (R147, R207). -/
def State.gangStranded (s : State) (g : Nat) : Bool :=
  let x := s.gangs.get g
  if 3 ≤ x.level then x.threads.any fun t => !(s.die (s.thr t).die).present else (s.allowedDies (s.nodes.get x.node)).isEmpty

/-- Restore a saved gang with its first member on a die and core, from an area (R147). -/
def State.restoreGang (s : State) (g die core area : Nat) : State :=
  if s.gangStranded g then s.loseGang g 0x15
  else match s.movedPlace g die core with
    | none => s
    | some p => if s.placeFree g p then s.restoreAt g p area false else s

/-- GANG_RESTORE (R147): a gang that the scheduler pre-empted, in an active context. -/
def execGangRestore (g die core : Nat) (s : State) : Out :=
  .next (
    let x := s.gangs.get g
    let n := s.nodes.get x.node
    if x.st = .saved ∧ !x.byCtxsv ∧ (s.ctxs.get n.cid).st = .active ∧ (flag n.dies (die % 8) ∨ s.gangStranded g) then s.restoreGang g die core (s.gangArea g) else s)

/-- GANG_SAVED (R141). -/
def execGangSaved (g : Nat) (s : State) : Out := .next ((s.saveGang g).checkStopped (s.nodes.get (s.gangs.get g).node).cid)

/-! ## Fenced cores (R207, R462) -/

/-- Fence a core: CORES falls, its gang ends, a log record is written; a fenced core stays as it is. -/
def State.fenceCore (s : State) (d c : Nat) : State :=
  if (s.die d).coreBad.get c ∨ 256 ≤ c then s
  else
    let occupant := s.onCore d c
    let s := s.setDie d fun x => { x with coreBad := x.coreBad.set c true }
    let s := match occupant with | some t => s.loseGang (s.thr t).gang 0x51 | none => s
    (s.log d { kind := 7, code := 0, unit := c, cid := none, addr := 0, node := 0 }).logUnplaceables

/-- FENCE_CORE (R462). -/
def execFenceCore (d c : Nat) (s : State) : Out := .next (s.fenceCore d c)

end Sys2Proof.Machine
end

