-- ==== Sys2Proof/Machine/Links.lean ====
section
/-! DEFINITION. Links (R408 to R421): port states, flits, route tables, halo loss, partition; and what a die reset clears (R483). -/

namespace Sys2Proof.Machine

/-! ## Ports (R411, R412) -/

/-- All lanes of a port (R408, R411, R419). -/
def State.allLanes (s : State) (d p : Nat) : Nat := if 6 ≤ p then 8 else if s.wrap d p then 16 else 32

/-- A port has become degraded or failed: a record of KIND 9 in each end's log (R411, R465). -/
def State.logLink (s : State) (d p : Nat) : State :=
  let rec_ : LogRec := { kind := 9, code := 0, unit := 0, cid := none, addr := 0, node := 0 }
  let s' := s.log d rec_
  if p < 6 then s'.log (s.peer d p).1 rec_ else s'

/-- A port of a die has become failed or off: halo copies over its direction that no usable port is left for end (R416). -/
def State.dropHalos (s : State) (d p : Nat) : State :=
  s.tasks.foldl (fun s e =>
    match e.2.work with
    | .copy c =>
      if c.halo ≠ 0 ∧ e.2.die = d ∧ (s.haloPorts d (c.halo - 1)).contains p ∧ !s.haloUsable d (c.halo - 1) then s.stopTask e.1 .failed else s
    | _ => s) s

/-- The packets whose flits a Lykai port has not had acknowledged wait at the router again (R415); over a Diripo port no other route leads. -/
def State.unacked (s : State) (d p : Nat) : List (Nat × Packet) := if p < 6 then (s.anyPort d p).retry.map fun f => (d, f.pkt) else []

/-- A port becomes failed or off: its unacknowledged packets are sent again under the tables in force (R415), and halos without a port end (R416). The link
numbers its flits from 0 when it next trains (DESIGN CHOICE, log entry 97). -/
def State.portDown (s : State) (d p : Nat) (st : LinkSt) : State :=
  let q := s.farEnd d p
  let again := s.unacked d p ++ s.unacked q.1 q.2
  let s := (s.bothEnds d p fun x => { x with st := st, lanes := 0, retry := [], cursor := 0, replay := false, replays := 0, txNext := 0, rxNext := 0 }).logLink d p
  let s := State.forward { s with routers := s.routers ++ again }
  if p < 6 then (s.dropHalos d p).dropHalos q.1 q.2 else s

/-- Enter retraining (R411). -/
def State.retrain (s : State) (d p : Nat) : State :=
  if (s.anyPort d p).st.usable then
    s.bothEnds d p fun x => { x with st := .retraining, lanes := 0, replays := 0, retrains := if x.retrains = 0xFFFF then 0xFFFF else x.retrains + 1 }
  else s

/-- LNKCTL actions on a port of the writing die (R411, R413): 1 retrain, 2 disable, 3 enable, 4 clear counts. -/
def State.linkAct (s : State) (act d p : Nat) : State :=
  if 6 ≤ p then s
  else
    let st := (s.port d p).st
    match act with
    | 1 => s.retrain d p
    | 2 => if st = .off then s else s.portDown d p .off
    | 3 =>
      if (st = .off ∨ st = .failed) ∧ !(s.port d p).unconnected then s.bothEnds d p fun x => { x with st := .training, attempts := 0 } else s
    | 4 => s.setAnyPort d p fun x => { x with retrains := 0, crce := 0 }
    | _ => s

/-- LNKCTL_RETRAIN (R413). -/
def execLnkctlRetrain (d p : Nat) (s : State) : Out := .next (s.linkAct 1 d p)
/-- LNKCTL_DISABLE (R413). -/
def execLnkctlDisable (d p : Nat) (s : State) : Out := .next (s.linkAct 2 d p)
/-- LNKCTL_ENABLE (R413). -/
def execLnkctlEnable (d p : Nat) (s : State) : Out := .next (s.linkAct 3 d p)
/-- LNKCTL_CLEAR (R413). -/
def execLnkctlClear (d p : Nat) (s : State) : Out := .next (s.linkAct 4 d p)

/-- What waits for a Diripo port is written once it is usable (R421). -/
def State.portBack (s : State) (d p : Nat) : State := if isDiripo d p then s.flushPort (diripoKey d) else s

/-- A port is trained with so many lanes: packets that waited go on; after retraining the retry buffer is replayed from the first unacknowledged flit (R411). -/
def State.linkUp (s : State) (d p : Nat) (st : LinkSt) (lanes : Nat) : State :=
  s.bothEnds d p fun x => { x with st := st, lanes := lanes, attempts := 0, cursor := 0 }

/-- LINK_TRAINED (R411): a training or retraining port trained with so many lanes. -/
def execLinkTrained (d p lanes : Nat) (s : State) : Out :=
  .next (State.portBack (
    let st := (s.anyPort d p).st
    let all := s.allLanes d p
    if st ≠ .training ∧ st ≠ .retraining then s
    else if all ≤ lanes then (s.linkUp d p .up all).forward
    else if all ≤ 2 * lanes then ((s.linkUp d p .degraded lanes).logLink d p).forward
    else s.portDown d p .failed) d p)

/-- LINK_TRAINING_FAILED (R411): a third attempt has failed. -/
def execLinkTrainingFailed (d p : Nat) (s : State) : Out :=
  .next (if (s.anyPort d p).st = .training then (s.bothEnds d p fun x => { x with attempts := 3 }).portDown d p .failed else s)

/-- LINK_REPLAY_LIMIT (R411): one flit of a port has been replayed 8 times in a row. -/
def execLinkReplayLimit (d p : Nat) (s : State) : Out := .next (if (s.anyPort d p).worn then s.retrain d p else s)

/-- LANE_LOST (R411). -/
def execLaneLost (d p : Nat) (s : State) : Out := .next (s.retrain d p)

/-- LINK_RETRAIN_TIMEOUT (R411). -/
def execLinkRetrainTimeout (d p : Nat) (s : State) : Out :=
  .next (if (s.anyPort d p).st = .retraining then s.portDown d p .failed else s)

/-- PEER_DOWN (R411). -/
def execPeerDown (d p : Nat) (s : State) : Out := .next (if (s.anyPort d p).st = .off then s else s.portDown d p .off)

/-- A flit received in sequence at a port: it leaves the sender's retry buffer when the acknowledgement arrives, at once unless the device chooses otherwise
(DESIGN CHOICE, log entry 97), and its packet comes to the die. -/
def State.takeFlit (s : State) (d p : Nat) (num : BitVec 16) : State :=
  let q := s.farEnd d p
  let f := (s.anyPort q.1 q.2).retry.find? fun f => f.num == num
  let late := s.choice.head?.getD false
  let s := { s with choice := s.choice.tail }.setAnyPort q.1 q.2 fun x => x.landed num (!late)
  match f with
  | some f => if p < 6 then (s.arrive d f.pkt).forward else s
  | none => s

/-- The number of a flit that a port has received already: it stands among the 512 before the next one, and is acknowledged again. -/
def LinkPort.behind (x : LinkPort) (num : BitVec 16) : Bool := num != x.rxNext && decide ((x.rxNext - num).toNat ≤ 512)

/-- FLIT_RECEIVE (R409): a good flit in sequence is taken and acknowledged; a bad CRC or a gap asks for replay from the first missing number; a flit that a replay
brings again is acknowledged again and not delivered twice. Nothing comes from a port whose flit has been replayed 8 times until the link has retrained (R411). -/
def execFlitReceive (d p : Nat) (num : BitVec 16) (crcOk : Bool) (s : State) : Out :=
  .next (
    let x := s.anyPort d p
    let q := s.farEnd d p
    let missing := fun (s : State) => s.setAnyPort q.1 q.2 fun y => y.replayed x.rxNext
    if !x.st.usable || (s.anyPort q.1 q.2).worn then s
    else if !crcOk then
      missing (s.setAnyPort d p fun x => { x with crce := if x.crce = 0xFFFF then 0xFFFF else x.crce + 1, replay := true })
    else if num = x.rxNext then ((s.setAnyPort d p fun x => { x with rxNext := x.rxNext + 1, replay := false }).takeFlit d p num).portBack d p
    else if x.behind num then (s.setAnyPort q.1 q.2 fun y => y.landed num true).portBack d p
    else missing (s.setAnyPort d p fun x => { x with replay := true }))

/-! ## Routing and partition (R414, R417) -/

/-- Dies that usable ports join directly to a die. -/
def State.linked (s : State) (d : Nat) : List Nat :=
  ((List.range 6).filter fun p => (s.port d p).st.usable).map fun p => s.neighbour d p

/-- The dies within reach of a list in `fuel` more hops. -/
def State.reachDies (s : State) : (fuel : Nat) → List Nat → List Nat
  | 0, ds => ds
  | fuel + 1, ds =>
    let more := (ds.flatMap s.linked).foldl (fun l d => if l.contains d then l else l ++ [d]) ds
    if more.length = ds.length then ds else s.reachDies fuel more

/-- The component of a die among the present dies (R417); a path may lead through dies that are not present. -/
def State.component (s : State) (d : Nat) : List Nat :=
  (s.reachDies 256 [d]).filter fun e => (s.die e).present

/-- The distance in hops from a die to a destination, if a path exists. -/
def State.hops (s : State) (d dest : Nat) : Option Nat :=
  if (s.reachDies 256 [d]).contains dest then (List.range 257).find? fun n => (s.reachDies n [d]).contains dest else none

/-- The outgoing port of a die for a destination (R414): the lowest usable port on a shortest path. -/
def State.route (s : State) (d dest : Nat) : Option Nat :=
  match s.hops d dest with
  | some (n + 1) => (List.range 6).find? fun p => (s.port d p).st.usable && s.hops (s.neighbour d p) dest == some n
  | _ => none

/-- The route tables recomputed for the present ports (R414): of every die, for every other that usable ports join to it. -/
def State.routesNow (s : State) : Tab Nat :=
  s.dies.foldl (fun t x => s.dies.foldl (fun t e =>
    if x.1 = e.1 then t else t.set (x.1 * 256 + e.1) (match s.route x.1 e.1 with | some p => p + 1 | none => 0)) t) []

/-- The tables in force are no longer those of the ports: a route names a port that is not usable, or a usable port joins two dies that the table of the one
joins over a later port or not directly. -/
def State.routesStale (s : State) : Bool :=
  (s.routes.any fun e => match e.2 with | 0 => false | p + 1 => !(s.port (e.1 / 256) p).st.usable) ||
  (s.ports.any fun e =>
    let d := e.1 / 6
    let n := s.neighbour d (e.1 % 6)
    e.2.st.usable && d != n && (s.dies.any fun x => x.1 == d) && (s.dies.any fun x => x.1 == n) &&
      (match s.routes.get (d * 256 + n) with | 0 => true | p + 1 => decide (e.1 % 6 < p) || s.neighbour d p != n))

/-- The surviving component: the largest, and of equals the one with the lowest die (R417). -/
def State.survivors (s : State) : List Nat :=
  s.presentDies.foldl (fun best d => let c := s.component d; if best.length < c.length then c else best) []

/-- The anchor: the lowest die of the surviving component. -/
def State.anchor (s : State) : Option Nat := s.survivors.foldl (fun b d => match b with | none => some d | some a => some (Nat.min a d)) none

/-! ## Die reset (R483) -/

/-- The dirty bytes of a line of a slice do not come to home memory: what that holds in its dirty granules is left open. -/
def State.loseLine (s : State) (line : Nat) : State :=
  let s' := (List.range 8).foldl (fun s g =>
    if flag (s.llc.get line).dirty g then
      let (bs, s) := s.freeBytes 16
      { s with mem := s.mem.setRange (line * 128 + 16 * g) bs }
    else s) s
  { s' with llc := s'.llc.set line default }

/-- The dirty lines in the slices of a die that is reset are lost (R483). -/
def State.loseDirty (s : State) (d : Nat) : State :=
  (s.llc.filter fun e => homeOf (e.1 * 128) = d).foldl (fun s e => s.loseLine e.1) s

/-- The reset values of a die's record that a die reset restores; what it has ever done and what is fused stay, and until its bring-up attaches an expander its second
tier has size 0 (R485, R487). -/
def Die.reset (x : Die) : Die := { (default : Die) with everUp := x.everUp, fwMin := x.fwMin, fwKey := x.fwKey, offpkg := x.offpkg }

/-- A port of a reset die: what it has counted goes with its other registers; what the board leaves unconnected stays so (R412, R483). -/
def LinkPort.cleared (x : LinkPort) : LinkPort := { (default : LinkPort) with unconnected := x.unconnected }

/-- A die is reset: it leaves the domain, and its cores, caches, translation caches, KTM, registers and fences are cleared; its ports go off (R483), and what
their retry buffers held starts again at its source (R410, R415). -/
def State.dieReset (s : State) (d : Nat) : State :=
  let s := (s.loseDie d).loseDirty d
  let s := (List.range 7).foldl (fun s p =>
    if p = 6 ∧ !isDiripo d 6 then s
    else State.setAnyPort (if (s.anyPort d p).st = .off then s else s.portDown d p .off) d p LinkPort.cleared) s
  let s := s.dropPackets d
  let s : State := { s with
    rdc := s.rdc.filter fun e => e.1 / 2 ^ 43 != d
    tlb := s.tlb.filter fun e => e.die != d
    ktm := s.ktm.filter fun e => e.die != d
    handles := s.handles.filter fun e => e.1 / 64 / 64 != d
    cbars := s.cbars.filter fun e => e.1 / 16 / 64 != d
    rings := s.rings.filter fun e => e.1 / 8 / 64 != d
    pbits := s.pbits.filter fun e => e.1 / 2 ^ 21 / 64 != d
    spend := s.spend.filter fun p => p.cluster / 64 != d
    parkWaits := s.parkWaits.filter fun w => w.die != d
    atomLines := s.atomLines.filter fun e => !(decide (2 ^ 44 ≤ e.1) && (e.1 - 2 ^ 44) / 2 ^ 16 / 64 == d)
    nodes := s.nodes.foldl (fun t e => t.set e.1 { e.2 with dropped := e.2.dropped.filter fun x => x != d }) s.nodes }
  (s.setDie d Die.reset).logUnplaceables

/-- New tables come into force: routes for the present ports, and every die that no path joins to the surviving component is cut off and reset (R414, R417). -/
def State.newRoutes (s : State) : State :=
  let alive := s.survivors
  let s := (s.presentDies.filter fun d => !alive.contains d).foldl (fun s d => s.dieReset d) s
  State.forward { s with routes := s.routesNow }

/-- ROUTE_TABLES_IN_FORCE (R414, R417). -/
def execRouteTablesInForce (s : State) : Out := .next s.newRoutes

/-! ## Link registers (R412, R420) -/

/-- State codes of LNKST. -/
def LinkSt.code : LinkSt → Nat
  | .off => 0 | .training => 1 | .up => 2 | .degraded => 3 | .retraining => 4 | .failed => 5

/-- LNKSTp of a die. -/
def State.lnkst (s : State) (d p : Nat) : Dword :=
  let x := s.port d p
  let peer := if x.st.usable || x.st == .retraining then s.neighbour d p else 0
  BitVec.ofNat 64 (x.st.code + (if s.wrap d p then 8 else 0) + (if x.st.usable then x.lanes else 0) * 16 + peer % 8 * 2 ^ 10 + peer / 8 % 32 * 2 ^ 13 +
    x.crce.toNat * 2 ^ 32 + x.retrains.toNat * 2 ^ 48)

/-- A write of LNKCTL (R413). -/
def State.writeLnkctl (s : State) (d : Nat) (v : Dword) : State := s.linkAct (field v 5 3) d (field v 0 3)

end Sys2Proof.Machine
end

