-- ==== Sys2Proof/Machine/Power.lean ====
section
/-! DEFINITION. Errors, fences, the arbiter and power states (R455 to R470, R489, R490), and the configuration registers (R7, R25, R26). -/

namespace Sys2Proof.Machine

/-! ## Errors (R455 to R458, R463) -/

/-- A poisoned granule of memory, and the log record of its making (R456, R465). -/
def State.poisonMemory (s : State) (g : Nat) : State :=
  ({ s with poison := s.poison.set g true }).log (homeOf (g * 16)) { kind := 2, code := 0, unit := 0, cid := none, addr := g * 16, node := 0 }

/-- CORRECTABLE_ERROR (R455): CECC rises, saturating. -/
def State.countError (s : State) (d : Nat) : State :=
  s.setDie d fun x =>
    let c := bits x.elcnt 0 32
    { x with elcnt := cat 64 (bits x.elcnt 32 32) (if c = BitVec.allOnes 32 then c else c + 1) }

/-- CORRECTABLE_ERROR (R455). -/
def execCorrectableError (d : Nat) (s : State) : Out := .next (s.countError d)

/-- A word of MAT meets an uncorrectable error in an accumulator (R383): its window is replayed while the word holds, or UNCORRECTABLE is raised and an mstore under
way ends. -/
def State.accWordError (s : State) (t k : Nat) : State :=
  match s.replayWindow t k with
  | some tile => s.replayed t k tile
  | none =>
    State.raise (s.modThr t fun th => { th with move := match th.move with | some m => if m.acc = k ∧ !m.load then none else some m | none => none })
      t .mat { code := .uncorrectable, estat := 0, addr := 0, openE := 0xFF, openA := true }

/-- An uncorrectable error met in an accumulator (R383): by the command under way on it, or by a word of MAT. A second one in an accumulator whose value a replay has
rewritten since die reset fences the core (R462; DEDUCED, log entry 106). -/
def State.accError (s : State) (t k : Nat) : State :=
  let th := s.thr t
  let loc := (th.core, k)
  let meets := fun (s : State) => match (s.thr t).curCmd with
    | some (b, c) => if b.started ∧ c.acc = k then s.consumeError t b c fun s => s.failError t b c else s.accWordError t k
    | none => s.accWordError t k
  if (s.die th.die).errAccs.contains loc then s.fenceCore th.die th.core
  else if (s.replayWindow t k).isSome then (meets s).setDie th.die fun x => { x with errAccs := x.errAccs ++ [loc] }
  else meets s

/-- A granule of a line that a die's remote-data cache holds becomes poisoned there (R455, R456). -/
def State.poisonCached (s : State) (d g : Nat) : State :=
  let l := s.rdc.get (rdcKey d (g / 8))
  if !l.held then s
  else
    ({ s with rdc := s.rdc.set (rdcKey d (g / 8)) { l with bad := l.bad ||| BitVec.ofNat 8 (2 ^ (g % 8)) } } : State).log d
      { kind := 2, code := 0, unit := 0, cid := none, addr := g * 16, node := 0 }

/-- UNCORRECTABLE_ERROR (R455), by where it is consumed. -/
def execUncorrectableError (site : UncSite) (s : State) : Out :=
  .next (match site with
    | .acc t k => if (s.thr t).active then s.accError t k else s
    | .engine t e =>
      if (s.thr t).active then s.raise t (engineOf e) { code := .uncorrectable, estat := 0, addr := 0, openE := -1, openA := true } else s
    | .memory g => s.poisonMemory g
    | .cached d g => s.poisonCached d g
    | .copy key => { s with copies := s.copies.mod key fun x => { x with bad := x.live } }
    | .scratch c g =>
      ({ s with spoison := s.spoison.set (c * 2 ^ 19 + g) true }).log (c / 64) { kind := 2, code := 0, unit := 0, cid := none, addr := g * 16, node := 0 })

/-- PATROL_SCRUB (R470): the scrubber of a die reads a granule of its HBM; one found uncorrectable is poisoned. -/
def execPatrolScrub (d g : Nat) (bad : Bool) (s : State) : Out := .next (if bad ∧ homeOf (g * 16) = d ∧ isHbm (g * 16) then s.poisonMemory g else s)

/-- A declared output range of a node meets a line (R463): its pages are looked up where they lie. -/
def State.rangeMeets (s : State) (x : Node) (line : Nat) : Bool :=
  x.ranges.any fun r => (r.kind == 1 || r.kind == 2) &&
    (parts (2 ^ 16) r.base r.len).any fun p =>
      match s.translate (homeOf (line * 128)) x.cid p.1 p.2 false with
      | .ok (a, _) => physMask line a.pa a.len != 0
      | .error _ => false

/-- An eviction error is charged to the context that wrote the line last, if one can be named (R463). Whether the tag itself is uncorrectable is the device's choice
(DESIGN CHOICE, log entry 106). -/
def State.chargeLine (s : State) (d tag line : Nat) : State :=
  let tag := if s.choice.head?.getD false then 0 else tag
  let s := { s with choice := s.choice.tail }
  let cid := tag - 1
  let st := (s.ctxs.get cid).st
  if tag ≤ 1 ∨ !(st = .active ∨ st = .stopping ∨ st = .stopped) then
    s.log d { kind := 3, code := 0x51, unit := 0, cid := none, addr := line * 128, node := 0 }
  else
    let hit := s.nodes.filter fun e => e.2.cid == cid && e.2.st.inFlight && s.rangeMeets e.2 line
    let s := hit.foldl (fun s e => s.modNode e.1 fun x => x.take { rank := 2, reason := 0x51, pc := 0, clk := s.clk } 0 0) s
    s.log d { kind := 4, code := 0x51, unit := 0, cid := some cid, addr := line * 128, node := match hit.head? with | some e => e.2.nid.toNat | none => 0 }

/-- The granules of a line that a mask names. -/
def badGranules (line : Nat) (bad : BitVec 8) : List Nat := ((List.range 8).filter fun i => flag bad i).map fun i => line * 8 + i

/-- The dirty granules of a line found uncorrectable are poisoned at home and charged (R463); what goes behind an expander link that is down is discarded (R488). -/
def State.hurtLine (s : State) (d tag line : Nat) (granules : BitVec 8) : State :=
  (if s.paDown (line * 128) then s else { s with poison := setPoison s.poison (badGranules line granules) }).chargeLine d tag line

/-- A line's dirty bytes go home; of a line found uncorrectable, in granules `bad`, every dirty granule goes home as poison and is charged (R463). An error that a write-back
of another cause meets in a line is this step before it (log entry 106). -/
def State.evictRdc (s : State) (d line : Nat) (bad : BitVec 8) : State :=
  let l := s.rdc.get (rdcKey d line)
  if !l.held then s
  else if bad = 0 ∨ l.dirty = 0 then s.dropLine d line
  else (s.dropLine d line).hurtLine d (l.cid + 1) line (granulesOf (touches l.dirty))

/-- RDC_EVICTION (R258). -/
def execRdcEviction (d line : Nat) (bad : BitVec 8) (s : State) : Out := .next (s.evictRdc d line bad)

/-- A dirty line of a slice goes to home memory, of one found uncorrectable every dirty granule as poison (R463); behind an expander link that is down it is discarded
(R488). An error that a write-back of another cause, or a FENCE write, meets in a line is LLC_LINE_EVICTION before it (log entry 106). -/
def State.evictLlc (s : State) (line : Nat) (bad : BitVec 8) : State :=
  let l := s.llc.get line
  if l.tag = 0 then s
  else
    let s := if s.paDown (line * 128) then s.loseLine line else { s with llc := s.llc.set line default }
    if bad = 0 then s else s.hurtLine (homeOf (line * 128)) l.tag line l.dirty

/-- CXL_LINK_DOWN (R488). -/
def execCxlLinkDown (d : Nat) (s : State) : Out :=
  .next (if (s.die d).cxlSize = 0 then s
    else (s.setDie d fun x => { x with cxlDown := true }).log d { kind := 2, code := 0, unit := 0, cid := none, addr := d * 2 ^ 42 + 2 ^ 41, node := 0 })

/-! ## Fencing a slice (R462) -/

/-- Fence a slice: dirty lines go home, those in `bad` as poison and charged; KTM entries of the slice go; its held atomos end; SLICES falls. -/
def State.fenceSlice (s : State) (d c : Nat) (bad : List Nat) : State :=
  if (s.die d).sliceBad.get c ∨ 32 ≤ c then s
  else
    let lines := (s.llc.filter fun e => homeOf (e.1 * 128) == d && s.sliceOf (e.1 * 128) == c).map Prod.fst
    let units := s.atomLines.filter fun e => s.unitOf e.1 == d * 32 + c
    let s := lines.foldl (fun s l => s.evictLlc l (if bad.contains l then 0xFF else 0)) s
    let s : State := { s with
      ktm := s.ktm.filter fun e => !(e.die == d && e.slot == c)
      atomLines := units.foldl (fun t e => Tab.set t e.1 default) s.atomLines }
    let s := units.foldl (fun s e => e.2.held.foldl (fun s a => s.failAtomo a 7) s) s
    let s := s.setDie d fun x => { x with sliceBad := x.sliceBad.set c true }
    s.log d { kind := 8, code := 0, unit := c, cid := none, addr := 0, node := 0 }

/-- An error found in a dirty line of a slice as it is evicted: the line that comes to the same place later is rewritten there, and a second error in it fences the slice
(R462; DEDUCED, log entry 106). -/
def State.lineError (s : State) (line : Nat) (bad : BitVec 8) : State :=
  let d := homeOf (line * 128)
  if bad = 0 ∨ (s.llc.get line).tag = 0 then s.evictLlc line bad
  else if (s.die d).errLines.contains line then (s.evictLlc line bad).fenceSlice d (s.sliceOf (line * 128)) []
  else (s.evictLlc line bad).setDie d fun x => { x with errLines := x.errLines ++ [line] }

/-- LLC_LINE_EVICTION (R463). -/
def execLlcLineEviction (line : Nat) (bad : BitVec 8) (s : State) : Out := .next (s.lineError line bad)

/-- FENCE_SLICE (R462). -/
def execFenceSlice (d c : Nat) (bad : List Nat) (s : State) : Out := .next (s.fenceSlice d c bad)

/-- A write of FENCE (R462). -/
def State.writeFence (s : State) (d : Nat) (v : Dword) : State :=
  if field v 14 2 = 1 then s.fenceCore d (field v 0 8) else if field v 14 2 = 2 then s.fenceSlice d (field v 8 5) [] else s

/-! ## The arbiter (R466 to R468) -/

/-- PLIMIT. -/
def State.plimit (s : State) : Nat := (s.plimitX ^^^ 4400).toNat

/-- The value that a write of PLIMIT sets (R468). -/
def plimitOf (v : Dword) : BitVec 16 := if 4400 < field v 0 16 then 4400 else if field v 0 16 < 1000 then 1000 else bits v 0 16

/-- Write PLIMIT. -/
def State.setPlimit (s : State) (v : Dword) : State := { s with plimitX := plimitOf v ^^^ 4400 }

/-- DWT.W of a die. -/
def Die.weight (x : Die) : BitVec 8 := x.dwtX ^^^ 32

/-- The hint class of a thread (R468). -/
def Thread.hint (th : Thread) : BitVec 2 := th.hintX ^^^ 2

/-- The hint floor of a die, in tenths of a watt (R468). -/
def State.hintFloor (s : State) (d : Nat) : Nat :=
  s.threads.foldl (fun n e => if e.2.die = d ∧ (e.2.st = .running ∨ e.2.st = .handler) then n + 6 * e.2.hint.toNat else n) 0

/-- The sharing loop of R466, in tenths of a watt: each die's key, weight and demand, and what remains; `fuel` bounds the rounds. The answer gives each die's
grant as a fraction. -/
def shareOut (all : List (Nat × Nat × Nat)) : (fuel : Nat) → (u : List (Nat × Nat × Nat)) → (rem : Nat) → (g : List (Nat × Nat × Nat)) → List (Nat × Nat × Nat)
  | 0, _, _, g => g
  | fuel + 1, u, rem, g =>
    let w := u.foldl (fun n x => n + x.2.1) 0
    let sat := u.filter fun x => decide (x.2.2 * w ≤ rem * x.2.1)
    if sat.isEmpty then g ++ u.map fun x => (x.1, rem * x.2.1, w)
    else
      let rem := rem - sat.foldl (fun n x => n + x.2.2) 0
      let g := g ++ sat.map fun x => (x.1, x.2.2, 1)
      let u := u.filter fun x => !decide (x.2.2 * w ≤ (rem + sat.foldl (fun n x => n + x.2.2) 0) * x.2.1)
      if u.isEmpty then
        let total := all.foldl (fun n x => n + x.2.1) 0
        g.map fun y => (y.1, y.2.1 * total + rem * ((all.find? fun x => x.1 == y.1).map fun x => x.2.1).getD 0 * y.2.2, y.2.2 * total)
      else shareOut all fuel u rem g

/-- The grants of a period, in watts, for demands in watts by present die (R466). -/
def State.grants (s : State) (demand : List Nat) : List (Nat × Nat) :=
  let all := s.presentDies.zipIdx.map fun x =>
    let die := s.die x.1
    let want := if die.frozen then die.grant.toNat * 11 else demand.getD x.2 0 * 10
    (x.1, die.weight.toNat, Nat.max want (400 + s.hintFloor x.1))
  (shareOut all (all.length + 1) all ((s.plimit - 120) * 10) []).map fun y => (y.1, y.2.1 / y.2.2 / 10)

/-- Some core of a die is occupied (R196, R490). -/
def State.dieBusy (s : State) (d : Nat) : Bool := s.threads.any fun e => e.2.st.onCore && e.2.die == d

/-- Scratchpad and instruction memory of a die hold zeros (R490). -/
def State.zeroScratch (s : State) (d : Nat) : State :=
  { s with
    spad := s.spad.filter fun e => e.1 / 2 ^ 23 / 64 != d
    spoison := s.spoison.filter fun e => e.1 / 2 ^ 19 / 64 != d }

/-- The power state that a die takes at a period start (R490). -/
def State.powerStart (s : State) (d : Nat) : State :=
  let x := s.die d
  if x.psReq = x.psCur then s
  else if x.psReq = 3 then (if s.dieBusy d then s else { s.setDie d fun x => { x with psCur := 3 } with tlb := s.tlb.filter fun e => e.die != d })
  else
    let s := if x.psCur = 3 then s.zeroScratch d else s
    s.setDie d fun x => { x with psCur := x.psReq }

/-- A period begins: grants are fixed, freezes end, power states change, the period number rises (R466, R467, R490). -/
def State.newPeriod (s : State) (demand : List Nat) : State :=
  let gs := s.grants demand
  let s := gs.foldl (fun s y => s.setDie y.1 fun x => { x with grant := BitVec.ofNat 16 y.2, frozen := false }) s
  let s := s.presentDies.foldl (fun s d => s.powerStart d) s
  { s with period := s.period + 1 }

/-- ARBITER_PERIOD (R466). -/
def execArbiterPeriod (demand : List Nat) (s : State) : Out := .next (s.newPeriod demand)

/-- DIE_FREEZE (R467): the die's core clock stops until the period ends; FROZEN rises, saturating. -/
def execDieFreeze (d : Nat) (s : State) : Out :=
  .next (if !(s.die d).present ∨ (s.die d).frozen then s
    else s.setDie d fun x => { x with frozen := true, frozenCnt := if x.frozenCnt = BitVec.allOnes 32 then x.frozenCnt else x.frozenCnt + 1 })

/-- PWRST (R468). -/
def Die.pwrst (x : Die) : Dword := BitVec.ofNat 64 (x.grant.toNat + x.frozenCnt.toNat * 2 ^ 16)

/-- A write of PSTATE (R490). -/
def State.writePstate (s : State) (d : Nat) (v : Dword) : State := s.setDie d fun x => { x with psReq := bits v 0 2 }

/-- PSTATE_WRITE (R490). -/
def execPstateWrite (d : Nat) (v : Dword) (s : State) : Out := .next (s.writePstate d v)

/-! ## PENDCTL (R290) -/

/-- A write of PENDCTL: a changed bit clears the cluster's pending bits. -/
def State.writePendctl (s : State) (d : Nat) (v : Dword) : State :=
  let old := (s.die d).pendctl
  let s := s.setDie d fun x => { x with pendctl := v }
  { s with pbits := s.pbits.filter fun e => !(e.1 / 2 ^ 21 / 64 == d && flag (old ^^^ v) (e.1 / 2 ^ 21 % 64)) }

/-- PENDCTL_WRITE (R290). -/
def execPendctlWrite (d : Nat) (v : Dword) (s : State) : Out := .next (s.writePendctl d v)

/-! ## Configuration registers (R7, R25, R26) -/

/-- DGEOM of a die (R23). -/
def State.dgeom (s : State) (d : Nat) : Dword :=
  let x := s.die d
  let cores := ((List.range 256).filter fun c => !x.coreBad.get c).length
  let slices := (s.usableSlices d).length
  BitVec.ofNat 64 (d % 8 + (if d % 8 = 0 ∨ d % 8 = 7 then 16 else 0) + cores * 2 ^ 6 + slices * 2 ^ 15 + x.offpkg.toNat * 2 ^ 21)

/-- DEVID (R25); its stepping is the model's choice (DESIGN CHOICE, log entry 10). -/
def devid : Dword := 0x5D0C08051201

/-- A configuration register of a die as rdcfg reads it; write-only fields read as zero (R26). -/
def State.readCfg (s : State) (d n : Nat) : Dword :=
  let x := s.die d
  if n = 0x00 then s.dgeom d
  else if n = 0x01 then devid
  else if n = 0x30 then x.plbase
  else if n = 0x31 then x.plpos
  else if n = 0x38 then x.pendctl
  else if 0x40 ≤ n ∧ n ≤ 0x45 then s.lnkst d (n - 0x40)
  else if n = 0x50 then x.elbase
  else if n = 0x51 then x.elpos
  else if n = 0x52 then x.elcnt
  else if n = 0x58 then BitVec.ofNat 64 s.plimit
  else if n = 0x59 then x.weight.setWidth 64
  else if n = 0x5A then x.pwrst
  else if n = 0x5B then (x.bgbudX ^^^ 0x20200810).setWidth 64
  else if n = 0x5C then BitVec.ofNat 64 (x.psReq.toNat + 4 * x.psCur.toNat)
  else 0

/-- A write of a register that has no behaviour of its own beyond its access codes (R7). -/
def State.writePlain (s : State) (d n : Nat) (v : Dword) : State :=
  if n = 0x50 then s.setDie d fun x => { x with elbase := v &&& 0x3FFFFFFFFF00F }
  else if n = 0x51 then s.setDie d fun x => { x with elpos := cat 64 (bits v 32 32) (bits x.elpos 0 32) }
  else if n = 0x52 then s.setDie d fun x => { x with elcnt := v }
  else if n = 0x58 then s.setPlimit v
  else if n = 0x59 then s.setDie d fun x => { x with dwtX := (if bits v 0 8 = 0 then 1 else bits v 0 8) ^^^ 32 }
  else if n = 0x5B then s.setDie d fun x => { x with bgbudX := bits v 0 32 ^^^ 0x20200810 }
  else s

/-- DPST of a port as the host reads it (R420). -/
def State.dpst (s : State) (port : Nat) : Dword :=
  let x := s.dports.get port
  BitVec.ofNat 64 (x.st.code + (if x.st.usable then x.lanes else 0) * 16 + (if (s.admin.get port).qdrop then 256 else 0))

/-- Ring size: a value out of range stands for its default, the least (R486). -/
def ringBits (v : Dword) (lo : Nat) : Nat := if field v 0 5 < lo ∨ 16 < field v 0 5 then lo else field v 0 5

/-- A write of ADMQ or ADMEV: BASE, and a size outside the range set to its default (R486). -/
def ringReg (v : Dword) (lo : Nat) : Dword := (v &&& 0xFFFFFFFFFFFFF000) ||| BitVec.ofNat 64 (ringBits v lo)

/-- The host writes a register of the adapter card's window (R420, R486), at an offset: DPST, ADMQ or ADMEV of the port of die `d`. -/
def State.writeCard (s : State) (d off : Nat) (v : Dword) : State :=
  if !isDiripo d 6 then s
  else
    { s with
      admin := s.admin.mod (diripoKey d) fun p =>
        if off = 0x0 then { p with qdrop := p.qdrop && !flag v 8 }
        else if off = 0x100 then { p with admqX := ringReg v 4 ^^^ 4 }
        else if off = 0x108 then { p with admevX := ringReg v 7 ^^^ 7 }
        else p }

/-- CONFIG_REGISTER_WRITE (R7): register number `n` of a die, or, at 0x1_0000 and above, offset `n` − 0x1_0000 of the adapter card's window. -/
def execConfigRegisterWrite (d n : Nat) (v : Dword) (s : State) : Out :=
  .next (if n < 0x10000 then s.writePlain d n v else s.writeCard d (n - 0x10000) v)

/-- A write of NCTL (R178). -/
def State.writeNctl (s : State) (v : Dword) : State :=
  let n := nodeKey (field v 12 10) (field v 32 32)
  if field v 0 2 = 1 then s.releaseNode n else if field v 0 2 = 2 then s.cancelNode n else s

/-- NCTL_RELEASE (R178). -/
def execNctlRelease (c n : Nat) (s : State) : Out := .next (s.releaseNode (nodeKey c n))

/-- NCTL_CANCEL (R178). -/
def execNctlCancel (c n : Nat) (s : State) : Out := .next (s.cancelNode (nodeKey c n))

/-- A wrcfg of a thread on a die (R25, R26). -/
def State.writeCfg (s : State) (d n : Nat) (v : Dword) : State :=
  if n = 0x18 then s.writeNctl v
  else if n = 0x20 then s.queueMig d v
  else if n = 0x28 then s.regionCommand d (field v 0 57)
  else if n = 0x30 ∨ n = 0x31 then s.writeParkRing d n v
  else if n = 0x38 then s.writePendctl d v
  else if n = 0x48 then s.writeLnkctl d v
  else if n = 0x54 then s.writeFence d v
  else if n = 0x5C then s.writePstate d v
  else s.writePlain d n v

end Sys2Proof.Machine
end

