-- ==== Sys2Proof/Machine/Fab.lean ====
section
/-! DEFINITION. The FAB words and their asynchronous work: layout words, pieces and slot records (R385 to R388), rank lists (R389), lyset (R390), re-shard
(R393, R394) and collectives (R396 to R405). -/

namespace Sys2Proof.Machine

/-! ## Traps and operands (R407) -/

/-- SHAPE of a FAB word: cause, slot or rank-list number, failing operand. -/
def fabTrap {α : Type} (s : State) (cause obj : Nat) (op : Dword) : Except Exit α := trapAt s .shape (BitVec.ofNat 64 (cause + obj * 256)) op

/-- SHAPE where no operand scalar fails: ADDR is open. -/
def fabTrapOpen {α : Type} (s : State) (cause obj : Nat) : Except Exit α :=
  .error (.trap { code := .shape, estat := BitVec.ofNat 64 (cause + obj * 256), addr := 0, openA := true } s)

/-- A scalar operand of FAB's head word. -/
def State.fs (s : State) (a : BitVec 6) : Dword := s.me.rs .fab a

/-- How far FAB's head word has come: the slot plus one while it waits for its turn on the slot (R394). -/
def State.setFab (s : State) (n : Nat) : State := s.modMe fun th => { th with fabStage := n }

/-! ## Layout words and pieces (R386, R387) -/

/-- n_a of a layout word. -/
def axisN (lw : Dword) (a : Nat) : Nat := field lw (40 + 6 * a) 6 + 1

/-- The axes of the mask of dimension d. -/
def dimAxes (lw : Dword) (d : Nat) : List Nat := (List.range 4).filter fun a => flag lw (20 + 4 * d + a)

/-- PS. -/
def lwPartial (lw : Dword) : Bool := flag lw 16

/-- A layout word is valid for a rank and a number of ranks. -/
def lwValid (lw : Dword) (rank count : Nat) : Bool :=
  bits lw 0 16 != 0 && bits lw 17 3 == 0 && decide (axisN lw 0 * axisN lw 1 * axisN lw 2 * axisN lw 3 = count) &&
  ((List.range 4).all fun a => decide (((List.range 5).filter fun d => (dimAxes lw d).contains a).length ≤ 1)) &&
  ((List.range 5).all fun d => (decide (d < rank) && !lwPartial lw) || (dimAxes lw d).isEmpty)

/-- x_a of rank r. -/
def axisCoord (lw : Dword) (r a : Nat) : Nat := r / ((List.range a).foldl (fun n b => n * axisN lw b) 1) % axisN lw a

/-- The index that the coordinates over some axes form, lower axis fastest, and the number of its values. -/
def indexOver (lw : Dword) (r : Nat) (axes : List Nat) : Nat × Nat :=
  axes.foldl (fun x a => (x.1 + axisCoord lw r a * x.2, x.2 * axisN lw a)) (0, 1)

/-- A box of elements: a range in each of the five dimensions. -/
abbrev Box := List (Nat × Nat)

/-- An extent of a slot's tensor; dimensions beyond RANK have one position. -/
def LSlot.extent (l : LSlot) (d : Nat) : Nat := if d < l.rank then l.ext.getD d 0 else 1

/-- The whole tensor. -/
def LSlot.whole (l : LSlot) : Box := (List.range 5).map fun d => (0, l.extent d)

/-- The piece of rank r under a layout word. -/
def LSlot.piece (l : LSlot) (lw : Dword) (r : Nat) : Box :=
  (List.range 5).map fun d =>
    let x := indexOver lw r (dimAxes lw d)
    let e := l.extent d
    let b := (e + x.2 - 1) / x.2
    (x.1 * b, Nat.min ((x.1 + 1) * b) e)

/-- Elements of a box. -/
def Box.size (b : Box) : Nat := b.foldl (fun n r => n * (r.2 - r.1)) 1

/-- The elements of a box as coordinates, dimension 0 fastest. -/
def Box.coords : Box → List (List Nat)
  | [] => [[]]
  | (lo, hi) :: bs => (Box.coords bs).flatMap fun t => (List.range (hi - lo)).map fun i => (lo + i) :: t

/-- The place of an element in a densely stored box. -/
def Box.index : Box → List Nat → Nat
  | (lo, hi) :: bs, c :: cs => (c - lo) + (hi - lo) * Box.index bs cs
  | _, _ => 0

/-- The element lies in the box. -/
def Box.holds (b : Box) (c : List Nat) : Bool := (b.zip c).all fun x => decide (x.1.1 ≤ x.2) && decide (x.2 < x.1.2)

/-- What two boxes share. -/
def Box.inter (a b : Box) : Box := (a.zip b).map fun x => (Nat.max x.1.1 x.2.1, Nat.min x.1.2 x.2.2)

/-- Bytes of an element of a slot's tensor. -/
def LSlot.unit (l : LSlot) : Nat := widthOf l.fmt.toNat / 8

/-- Bytes of a rank's piece. -/
def LSlot.pieceBytes (l : LSlot) (lw : Dword) (r : Nat) : Nat := (l.piece lw r).size * l.unit

/-- The largest piece, in bytes. -/
def LSlot.largest (l : LSlot) (lw : Dword) : Nat := (List.range l.dies.length).foldl (fun n r => Nat.max n (l.pieceBytes lw r)) 0

/-- Rank r's area in the current buffer, or in the other one (R388). -/
def LSlot.areaOf (l : LSlot) (other : Bool) (r : Nat) : Nat := (if l.cur != other then l.buf1 else l.buf0) + r * l.rstr

/-- The slot as a die holds it. -/
def State.slotOn (s : State) (die cid slot : Nat) : LSlot := s.slots.get (slotKey die cid slot)

/-! ## Turns on a slot (R394) -/

/-- A piece of work is a collective on the slot. -/
def Work.collOn (w : Work) (cid slot : Nat) : Bool := match w with | .coll c => c.cid == cid && c.slot == slot && c.dead.isNone | _ => false

/-- A piece of work is a collective or a re-shard on the slot. -/
def Work.onSlot (w : Work) (cid slot : Nat) : Bool := match w with | .reshard r => r.cid == cid && r.slot == slot | w => w.collOn cid slot

/-- An operation on the slot is in flight. -/
def State.slotBusy (s : State) (cid slot : Nat) : Bool := s.tasks.any fun e => e.2.work.onSlot cid slot

/-- A lyset or reshard of another thread, or a reshard-on-behalf packet, waits for its turn on the slot. -/
def State.turnTaken (s : State) (cid slot : Nat) : Bool :=
  (s.threads.any fun e => e.1 != s.cur && e.2.cid == cid && (e.2.st == .running || e.2.st == .handler) && e.2.fabStage == slot + 1) ||
  (s.queues.any fun e => e.2.cid == cid && e.2.st == .active && e.2.atSlot == some slot)

/-- CSEQ of a slot begins again: aborted collectives on it are waited for no more (R390, R391). -/
def State.dropDead (s : State) (cid slot : Nat) : State :=
  { s with tasks := s.tasks.filter fun e => match e.2.work with | .coll c => !(c.cid == cid && c.slot == slot && c.dead.isSome) | _ => true }

/-! ## Memory accesses of FAB (R255, R389, R390) -/

/-- Read bytes as FAB's head word. -/
def fabRead (s : State) (a n : Nat) : Except Exit (List Byte × State) := do
  let w := s.issuer s.cur .fab
  let (as, s) ← liftMem s (s.accessLin w a n false 0)
  let x := s.loadAccs w as
  .ok (x.1.1, x.2.readTaint s.cur .fab x.1.2 (s.accsTaint w as))

/-! ## Rank lists (R389) -/

/-- The entries of a list in memory as die keys; none when the list is invalid. -/
def State.ranksOf (s : State) (bs : List Byte) : Option (List Nat) :=
  let vs := (List.range (bs.length / 2)).map fun i => leNat ((bs.drop (2 * i)).take 2)
  if (vs.all fun v => decide (v < 256) && (s.die v).present) && decide vs.Nodup then some vs else none

/-- Read the list of a bound slot and check it. -/
def fabRanks (s : State) (n a count : Nat) (op : Dword) : Except Exit (List Nat × State) := do
  let (bs, s) ← fabRead s a (2 * count)
  match s.ranksOf bs with
  | some ds => .ok (ds, s.modMe fun th => { th with ranks := th.ranks.set n { bound := true, addr := a, count := count, cached := true, dies := ds } })
  | none => fabTrap s 4 n op

/-- The list that a word uses: the cached copy, or the list read again. -/
def useRanks (s : State) (n : Nat) (op : Dword) : Except Exit (List Nat × State) :=
  let r := s.me.ranks.get n
  if !r.bound then fabTrap s 8 n op else if r.cached then .ok (r.dies, s) else fabRanks s n r.addr r.count op

/-- ranks (R389). -/
def execRanks (n : BitVec 2) (a b : BitVec 6) (s : State) : Out :=
  finish .fab s (
    let at_ := s.fs a
    let count := (s.fs b).toNat
    if at_.toNat % 2 ≠ 0 then fabTrap s 1 n.toNat at_
    else if count = 0 ∨ 256 < count then fabTrap s 4 n.toNat (s.fs b)
    else do
      let (_, s) ← fabRanks s n.toNat at_.toNat count at_
      .ok s)

/-- rkinv (R389). -/
def execRkinv (n : BitVec 2) (s : State) : Out :=
  finish .fab s (
    if !(s.me.ranks.get n.toNat).bound then fabTrapOpen s 8 n.toNat
    else .ok (s.modMe fun th => { th with ranks := th.ranks.mod n.toNat fun r => { r with cached := false, dies := [] } }))

/-! ## lyset (R388, R390) -/

/-- An element format that a slot may have (R388). -/
def slotFormat (f : Nat) : Bool := combineOk f || f == 0x0B || f == 0x0C

/-- The slot that a record describes. -/
def recordSlot (d : Nat → Dword) (dies : List Nat) : LSlot :=
  { st := .stable, lw := d 0, fmt := bits (d 1) 0 5, rank := field (d 1) 5 3, cur := flag (d 1) 8,
    ext := [field (d 2) 0 32, field (d 2) 32 32, field (d 3) 0 32, field (d 3) 32 32, field (d 4) 0 32],
    buf0 := field (d 5) 0 57, buf1 := field (d 6) 0 57, rstr := field (d 7) 0 32, dies := dies, cseq := 0, resid := 0, wire := 0 }

/-- The record is valid for its rank list (R386, R388). -/
def recordOk (d : Nat → Dword) (l : LSlot) : Bool :=
  bits (d 1) 9 55 == 0 && bits (d 4) 32 32 == 0 && bits (d 5) 57 7 == 0 && bits (d 6) 57 7 == 0 && bits (d 7) 32 32 == 0 &&
  slotFormat l.fmt.toNat && decide (1 ≤ l.rank) && decide (l.rank ≤ 5) &&
  ((List.range 5).all fun k => decide (l.ext.getD k 0 = 0) == decide (l.rank ≤ k)) &&
  decide (l.buf0 % 128 = 0) && decide (l.buf1 % 128 = 0) && decide (l.rstr % 128 = 0) &&
  lwValid l.lw l.rank l.dies.length && decide (l.largest l.lw ≤ l.rstr)

/-- lyset (R390). -/
def execLyset (j : BitVec 8) (a b : BitVec 6) (s : State) : Out :=
  finish .fab s (
    let slot := j.toNat
    let cid := s.me.cid
    let at_ := s.fs a
    if at_.toNat % 64 ≠ 0 then fabTrap s 1 slot at_
    else if 4 ≤ (s.fs b).toNat then fabTrap s 1 slot (s.fs b)
    else if s.slotBusy cid slot then holdAt (s.setFab (slot + 1)) .outside
    else do
      let s ← synRelease s true
      let (ds, s) ← useRanks s (field (s.fs b) 0 2) (s.fs b)
      let (bs, s) ← fabRead s at_.toNat 64
      let l := recordSlot (dwIdx bs) ds
      if !recordOk (dwIdx bs) l then fabTrap s 2 slot at_
      else .ok (((s.everySlot cid slot fun _ => l).dropDead cid slot).setFab 0 |>.acquire s.cur))

/-- lyset.get (R390). -/
def execLysetGet (j : BitVec 8) (a : BitVec 6) (s : State) : Out :=
  finish .fab s (
    let at_ := s.fs a
    let l := s.slotOn s.me.die s.me.cid j.toNat
    if at_.toNat % 16 ≠ 0 then fabTrap s 1 j.toNat at_
    else do
      let w := s.issuer s.cur .fab
      let (as, s) ← liftMem s (s.accessLin w at_.toNat 16 true 0)
      .ok (s.storeAccs w as (dwBytes [l.lw.toNat, l.st.code + if l.cur then 256 else 0])))

/-! ## Re-shard (R393) -/

/-- The rank is the lowest of those that hold its piece under the slot's layout. -/
def LSlot.lowest (l : LSlot) (i : Nat) : Bool := (List.range i).all fun x => l.piece l.lw x != l.piece l.lw i

/-- The transfers with something to move, by increasing target. -/
def LSlot.pairs (l : LSlot) (lt : Dword) : List ReshardPair :=
  let rs := List.range l.dies.length
  rs.flatMap fun j => (rs.filter fun i =>
    ((l.piece l.lw i).inter (l.piece lt j)).size != 0 && (i == j || (l.lowest i && l.piece l.lw i != l.piece l.lw j))).map fun i => { src := i, dst := j }

/-- A re-shard's target is accepted (R393). -/
def LSlot.reshardOk (l : LSlot) (lt : Dword) : Bool :=
  lwValid lt l.rank l.dies.length && bits lt 40 24 == bits l.lw 40 24 && !lwPartial l.lw && !lwPartial lt && bits lt 0 16 != bits l.lw 0 16 &&
  decide (l.largest lt ≤ l.rstr)

/-- The exchange begins: the slot is resharding on every die, its residual bindings go. -/
def State.beginReshard (s : State) (cid slot : Nat) (x : Task) : State :=
  { s.everySlot cid slot fun l => { l with st := .resharding, resid := 0, wire := 0 } with tasks := s.tasks.set s.nextTask x, nextTask := s.nextTask + 1 }

/-- reshard (R393). -/
def execReshard (j : BitVec 8) (a : BitVec 6) (s : State) : Out :=
  finish .fab s (
    let slot := j.toNat
    let th := s.me
    let l := s.slotOn th.die th.cid slot
    let lt := s.fs a
    if l.st = .empty ∨ l.st = .aborted then fabTrapOpen s 6 slot
    else if s.slotBusy th.cid slot then holdAt (s.setFab (slot + 1)) .outside
    else if !l.reshardOk lt then fabTrap s 3 slot lt
    else do
      let (n, s) ← takeEntry s .fab 1 (j.setWidth 32)
      .ok ((s.beginReshard th.cid slot
        { work := .reshard { cid := th.cid, slot := slot, lt := lt, pairs := l.pairs lt, issued := true, status := 0, note := none },
          thread := s.cur, die := th.die, cid := th.cid, sb := n, parked := false, page := none, homes := [] }).setFab 0))

/-- Who makes a re-shard's accesses (R393, R395). -/
def State.reshardIssuer (s : State) (x : Task) (r : Reshard) : Issuer := if r.issued then s.issuer x.thread .fab else Issuer.behalf x.die x.cid

/-- Why a part of an exchange does not go on. -/
inductive PartStop where
  | mem (m : MemStop)
  | poison

/-- Copy `n` bytes from one linear address to another, performed at home (R393, R457): the answer says whether a tainted piece was read. -/
def State.copyBytes (s : State) (w : Issuer) (src dst n : Nat) : Except PartStop (Bool × State) :=
  match s.accessLin w src n false 0 with
  | .error m => .error (.mem m)
  | .ok (ra, s) =>
    match s.accessLin w dst n true 0 with
    | .error m => .error (.mem m)
    | .ok (wa, s) =>
      let x := s.loadAccs w ra
      if x.1.2 then .error .poison
      else .ok (s.accsTaint w ra, x.2.storeAccs w (wa.map fun a => { a with ord := 1 }) x.1.1)

/-- The rows of a box: the coordinates of their first elements. -/
def Box.rows (b : Box) : List (List Nat) :=
  match b with
  | [] => []
  | (lo, hi) :: bs => if hi ≤ lo then [] else (Box.coords bs).map fun t => lo :: t

/-- Copy the rows of what one transfer moves. -/
def State.copyRows (s : State) (w : Issuer) (l : LSlot) (lt : Dword) (p : ReshardPair) (n : Nat) : List (List Nat) → Except PartStop (Bool × State)
  | [] => .ok (false, s)
  | c :: cs => do
    let src := l.areaOf false p.src + (l.piece l.lw p.src).index c * l.unit
    let dst := l.areaOf true p.dst + (l.piece lt p.dst).index c * l.unit
    let (t, s) ← s.copyBytes w src dst n
    let (u, s) ← s.copyRows w l lt p n cs
    .ok (t || u, s)

/-- One transfer of an exchange: it copies, waits, parks or aborts the operation (R393, R404, R403). -/
def State.reshardStep (s : State) (k : Nat) : State :=
  let x := s.tasks.get k
  match x.work with
  | .reshard r =>
    if x.parked || s.parkBlocked k then s
    else match r.pairs with
      | [] => s
      | p :: rest =>
        let l := s.slotOn x.die r.cid r.slot
        let b := (l.piece l.lw p.src).inter (l.piece r.lt p.dst)
        match s.copyRows (s.reshardIssuer x r) l r.lt p ((match b with | r :: _ => r.2 - r.1 | [] => 0) * l.unit) b.rows with
        | .ok (taint, s) =>
          let s := if r.issued then s.readTaint x.thread .fab false taint else s
          s.setTask k fun x => { x with work := .reshard { r with pairs := rest } }
        | .error .poison => s.reshardAbort k 0x51 none
        | .error (.mem (.migrating va)) => s.setTask k fun x => { x with page := va }
        | .error (.mem (.fault i home)) =>
          if i.code = .remoteHomeLost then s.reshardAbort k 0xF2 none
          else if i.code = .uncorrectable then s.reshardAbort k 0x51 none
          else s.parkTask k x.thread .fab i home
  | _ => s

/-- RESHARD_PAIR_COPY (R393). -/
def execReshardPairCopy (k : Nat) (s : State) : Out := .next (s.reshardStep k)

/-- Every copy is performed: each die takes the target layout, and the entry is done or the status written (R391, R395). -/
def State.reshardEnd (s : State) (k : Nat) : State :=
  let x := s.tasks.get k
  match x.work with
  | .reshard r =>
    if !r.pairs.isEmpty || x.parked || s.parkBlocked k then s
    else
      let s := (s.everySlot r.cid r.slot fun l => { l with st := .stable, lw := r.lt, cur := !l.cur, cseq := 0 }).dropDead r.cid r.slot
      if r.issued then s.doneTask k else (s.endBehalf x.die r 1).dropTask k
  | _ => s

/-- RESHARD_EXCHANGE_COMPLETE (R391). -/
def execReshardExchangeComplete (k : Nat) (s : State) : Out := .next (s.reshardEnd k)

/-! ## Which collective a pair gives (R397) -/

/-- The collectives of R397. -/
inductive CollKind where
  | allReduce | reduceScatter | allGather | allToAll | localCopy
deriving DecidableEq, Repr

/-- Every axis that the masks name. -/
def namedAxes (lw : Dword) : List Nat := (List.range 4).filter fun a => (List.range 5).any fun d => (dimAxes lw d).contains a

/-- The collective and its involved axes; none when the pair gives no collective. -/
def LSlot.collOf (l : LSlot) (lt : Dword) : Option (CollKind × List Nat) :=
  let ls := l.lw
  let dims := List.range 5
  if !lwValid lt l.rank l.dies.length || bits lt 40 24 != bits ls 40 24 || lwPartial lt then none
  else if lwPartial ls then
    (if (namedAxes lt).isEmpty then some (.allReduce, (List.range 4).filter fun a => decide (1 < axisN ls a)) else some (.reduceScatter, namedAxes lt))
  else if dims.all fun d => dimAxes lt d == dimAxes ls d then some (.localCopy, [])
  else if dims.all fun d => (dimAxes lt d).all fun a => (dimAxes ls d).contains a then
    some (.allGather, (namedAxes ls).filter fun a => !(namedAxes lt).contains a)
  else if namedAxes lt == namedAxes ls then
    some (.allToAll, (List.range 4).filter fun a => dims.any fun d => (dimAxes lt d).contains a != (dimAxes ls d).contains a)
  else none

/-- The group of a rank, in the order of the group index: the ranks that agree with it on every axis that is not involved. -/
def LSlot.group (l : LSlot) (inv : List Nat) (r : Nat) : List Nat :=
  (List.range l.dies.length).filter fun x => (List.range 4).all fun a => inv.contains a || axisCoord l.lw x a == axisCoord l.lw r a

/-! ## comb (R399) -/

/-- 2^f × 2^512, rounded down, for a fraction f of binary digits, most significant first: `root` is the root of two for the next digit. -/
def rootProduct : List Bool → Nat → Nat → Nat
  | [], _, acc => acc
  | b :: bs, root, acc => rootProduct bs (isqrt (root * 2 ^ 512)) (if b then acc * root / 2 ^ 512 else acc)

/-- 2^x for x ≤ 0 whose denominator is a power of two, to more than 400 binary places; far below the smallest number it only keeps its sign. -/
def pow2Down (x : Frac) : Frac :=
  let n := (-x.num).toNat
  let whole := (n + x.den - 1) / x.den
  let f := whole * x.den - n
  if 2000 < whole then FracOps.scale ⟨1, 1⟩ (-2000)
  else if f = 0 then FracOps.scale ⟨1, 1⟩ (-(whole : Int))
  else
    let digits := (List.range 150).map fun i => decide (f * 2 ^ (i + 1) / x.den % 2 = 1)
    FracOps.scale ⟨(rootProduct digits (isqrt (2 ^ 1025)) (2 ^ 512) : Nat), 2 ^ 512⟩ (-(whole : Int))

/-- m is −∞. -/
def negInf (m : Word) : Bool := m == 0xFF800000

/-- One element of a merged triple: x₁ × 2^(m₁ − m) + x₂ × 2^(m₂ − m), rounded once. -/
def mergeElem (m1 m2 x1 x2 : Word) : Word :=
  if negInf m1 ∧ negInf m2 then 0
  else if (!negInf m1 && !(f32 x1).finite) || (!negInf m2 && !(f32 x2).finite) then Config.mergeInf [m1, x1, m2, x2]
  else
    let m := FracOps.max (if negInf m1 then (f32 m2).frac else (f32 m1).frac) (if negInf m2 then (f32 m1).frac else (f32 m2).frac)
    let term := fun (m1 x1 : Word) =>
      if negInf m1 then (⟨0, 1⟩ : Frac) else FracOps.mul (f32 x1).frac (pow2Down (FracOps.sub (f32 m1).frac m))
    (round32 .rne (FracOps.add (term m1 x1) (term m2 x2)) (zeroSign .rne (f32 x1).neg (f32 x2).neg)).1

/-- Two triples merged (R399). -/
def mergeTriple (a b : List Word) : List Word :=
  let m1 := a.getD 0 0
  let m2 := b.getD 0 0
  if ((a ++ b).any fun x => (f32 x).isNan) || m1 == 0x7F800000 || m2 == 0x7F800000 then a.map fun _ => nan32
  else (fMinMax true m1 m2).1 :: (a.tail.zip b.tail).map fun x => mergeElem m1 m2 x.1 x.2

/-- Two tensors merged, row by row of `n` elements; `fuel` bounds the rows. -/
def mergeRows (n : Nat) : Nat → List Word → List Word → List Word
  | 0, _, _ => []
  | fuel + 1, a, b => if a.isEmpty then [] else mergeTriple (a.take n) (b.take n) ++ mergeRows n fuel (a.drop n) (b.drop n)

/-- comb of whole tensors: forms .sum, .max, .min element by element, .amerge by rows of dimension 0. -/
def combList (l : LSlot) (fn : Nat) (a b : List Word) : List Word :=
  if fn = 3 then mergeRows (l.extent 0) a.length a b
  else (a.zip b).map fun x => BitVec.ofNat 32 (combElem (fn + 1) l.fmt.toNat x.1.toNat x.2.toNat)

/-! ## The order of a reduction (R398) -/

/-- What a group brings to a reduction: the form, the slot, the contributions and the wire formats, by group index. -/
structure Group where
  slot : LSlot
  fn : Nat
  vals : List (List Word)
  wires : List (BitVec 5)

/-- A value narrowed to a wire format and widened again (R400). -/
def wireWord (f : FFmt) (x : Word) : Word := (fromFmt (.flt f) (toFloatFmt f .rne (f32 x)).1).1

/-- A transfer from member g. -/
def Group.send (G : Group) (g : Nat) (v : List Word) : List Word :=
  let w := (G.wires.getD g 0).toNat
  if w = 0 then v else match eFmt w with | some (.flt f) => v.map (wireWord f) | _ => v

/-- p and L of a group. -/
def Group.survivors (G : Group) : Nat := 2 ^ Nat.log2 G.vals.length

/-- The fold, at survivor g. -/
def Group.fold (G : Group) (g : Nat) : List Word :=
  let h := g + G.survivors
  if h < G.vals.length then combList G.slot G.fn (G.vals.getD g []) (G.send h (G.vals.getD h [])) else G.vals.getD g []

/-- What survivor g holds after j steps of the halving, of the blocks it keeps. -/
def Group.halved (G : Group) : Nat → Nat → List Word
  | 0, g => G.fold g
  | j + 1, g =>
    let y := g ^^^ 2 ^ (Nat.log2 G.vals.length - 1 - j)
    let a := G.halved j g
    let b := G.send y (G.halved j y)
    if g < y then combList G.slot G.fn a b else combList G.slot G.fn b a

/-- The reduced value at survivor g, of its own virtual block. -/
def Group.reduced (G : Group) (g : Nat) : List Word := G.halved (Nat.log2 G.vals.length) g

/-- A value on its way through the doubling from survivor h to survivor g: steps j, j + 1, …, with `fuel` steps left. -/
def Group.doubled (G : Group) (g : Nat) : (fuel j h : Nat) → List Word → List Word
  | 0, _, _, v => v
  | fuel + 1, j, h, v => if h / 2 ^ j % 2 = g / 2 ^ j % 2 then G.doubled g fuel (j + 1) h v else G.doubled g fuel (j + 1) (h ^^^ 2 ^ j) (G.send h v)

/-- What member g holds of block c at the end of an all-reduce. -/
def Group.everywhere (G : Group) (g c : Nat) : List Word :=
  let p := G.survivors
  let near := g % p
  let home := c % p
  let v := G.doubled near (Nat.log2 G.vals.length) 0 home (G.reduced home)
  if g < p then v else G.send near v

/-- What member g holds of its own block at the end of a reduce-scatter. -/
def Group.own (G : Group) (g : Nat) : List Word :=
  let p := G.survivors
  if g < p then G.reduced g else G.send (g - p) (G.reduced (g - p))

/-! ## A collective's work -/

/-- Elements as a member holds them. -/
def dataOf (ws : List Word) : Tab (Option Word) := ws.zipIdx.map fun x => (x.2, some x.1)

/-- The elements a member holds. -/
def CollMember.words (m : CollMember) : List Word := m.data.map fun e => e.2.getD 0

/-- The member of a rank. -/
def Coll.ofRank (c : Coll) (r : Nat) : Option CollMember := c.members.find? fun m => m.rank == r

/-- The elements that the member of a rank holds. -/
def Coll.wordsOf (c : Coll) (r : Nat) : List Word := match c.ofRank r with | some m => m.words | none => []

/-- The form and the target of a collective: those of its members. -/
def Coll.fn (c : Coll) : Nat := match c.members.head? with | some m => m.fn | none => 0
def Coll.lt (c : Coll) : Dword := match c.members.head? with | some m => m.lt | none => 0

/-- Bytes as elements. -/
def wordsOfBytes (n : Nat) (bs : List Byte) : List Word := (List.range (bs.length / n)).map fun i => BitVec.ofNat 32 (leNat ((bs.drop (n * i)).take n))

/-- Elements as bytes. -/
def bytesOfWords (n : Nat) (ws : List Word) : List Byte := ws.flatMap fun w => leBytes n w.toNat

/-- The result of a rank (R397, R398, R399). -/
def Coll.result (c : Coll) (l : LSlot) (kind : CollKind) (inv : List Nat) (r : Nat) : List Word :=
  let gr := l.group inv r
  let dest := l.piece c.lt r
  let full := l.whole
  let G : Group := { slot := l, fn := c.fn, vals := gr.map c.wordsOf, wires := gr.map fun x => match c.ofRank x with | some m => m.wire | none => 0 }
  let g := (gr.idxOf? r).getD 0
  match kind with
  | .allReduce =>
    let n := full.size
    let b := (n + gr.length - 1) / gr.length
    (List.range n).map fun e => (G.everywhere g (e / b)).getD e 0
  | .reduceScatter =>
    let v := G.own g
    dest.coords.map fun x => v.getD (full.index x) 0
  | _ =>
    dest.coords.map fun x =>
      match (r :: gr ++ List.range l.dies.length).find? fun i => (l.piece l.lw i).holds x with
      | some i => (c.wordsOf i).getD ((l.piece l.lw i).index x) 0
      | none => 0

/-- The exact sum of two values. -/
def sumVal (a b : FVal) : FVal :=
  match a, b with
  | .nan _, _ => .nan false
  | _, .nan _ => .nan false
  | .inf x, .inf y => if x = y then a else .nan false
  | .inf _, _ => a
  | _, .inf _ => b
  | u, v =>
    let x := FracOps.add u.frac v.frac
    .num (if x.num = 0 then zeroSign .rne u.neg v.neg else decide (x.num < 0)) x.num.natAbs x.den

/-- A contribution under a residual binding (R400): what is contributed, and the new residual. -/
def carried (f : FFmt) (x r : Word) : Word × Word :=
  let v := sumVal (f32 x) (f32 r)
  let q := (toFloatFmt f .rne v).1
  let w := (fromFmt (.flt f) q).1
  (w, (roundVal .rne (sumVal v (f32 w).flip)).1)

/-- A reducing .sum of a member whose slot binds residuals. -/
def LSlot.bindsResidual (l : LSlot) (c : Coll) : Bool := l.wire != 0 && c.fn == 0 && lwPartial l.lw

/-- A member reads its piece, and updates its residuals where they are bound (R398, R400). -/
def State.collGather (s : State) (c : Coll) (m : CollMember) : Except PartStop (CollMember × State) :=
  let l := s.slotOn m.die c.cid c.slot
  let w := s.issuer m.thread .fab
  let n := l.pieceBytes l.lw m.rank
  match s.accessLin w (l.areaOf false m.rank) n false 0 with
  | .error e => .error (.mem e)
  | .ok (as, s) =>
    let x := s.loadAccs w as
    if x.1.2 then .error .poison
    else
      let s := x.2.readTaint m.thread .fab false (s.accsTaint w as)
      let ws := wordsOfBytes l.unit x.1.1
      if !l.bindsResidual c then .ok ({ m with data := dataOf ws }, s)
      else match eFmt l.wire.toNat with
        | some (.flt f) =>
          match s.accessLin w (l.resid + m.rank * l.rstr) n true 0 with
          | .error e => .error (.mem e)
          | .ok (ras, s) =>
            let y := s.loadAccs w ras
            if y.1.2 then .error .poison
            else
              let t := y.2.readTaint m.thread .fab false (s.accsTaint w ras)
              let zs := (ws.zip (wordsOfBytes 4 y.1.1)).map fun p => carried f p.1 p.2
              .ok ({ m with data := dataOf (zs.map Prod.fst), wire := l.wire }, t.storeAccs w ras (bytesOfWords 4 (zs.map Prod.snd)))
        | _ => .ok ({ m with data := dataOf ws }, s)

/-- What stops a member's part (R403, R404, R457). -/
def State.collStop (s : State) (k : Nat) (c : Coll) (m : CollMember) : PartStop → State
  | .poison => s.collAbort k 0x51 none
  | .mem (.migrating va) => s.setTask k fun x => { x with page := va }
  | .mem (.fault i home) =>
    if i.code = .remoteHomeLost then s.collAbort k 0xF2 none
    else if i.code = .uncorrectable then s.collAbort k 0x51 none
    else if c.fn = 4 then s.collAbort k 0xF1 none
    else s.parkTask k m.thread .fab i home

/-- Bytes land in a member's scratchpad from an offset of its destination, and its write pointer follows. -/
def State.collLand (s : State) (m : CollMember) (off : Nat) (bs : List Byte) : State :=
  let cl := s.clusterOf m.thread
  (s.spadNow m.thread .fab cl (m.dst + off) bs).setHandle cl m.handle fun x => x.land (off + bs.length)

/-- Every member's entry is done and the collective is over. -/
def State.collDone (s : State) (k : Nat) (c : Coll) : State := (c.members.foldl (fun s m => s.settle m.thread m.sb .done) s).dropTask k

/-- G and B of a ring over an axis, for a rank (R401). -/
def LSlot.ring (l : LSlot) (axis r : Nat) : List Nat × Nat :=
  let gr := l.group [axis] r
  (gr, (gr.foldl (fun n x => Nat.max n (l.pieceBytes l.lw x)) 0 + 127) / 128 * 128)

/-- Block b of a ring lands at a member: the piece of the member b places before it, followed by zeros. -/
def State.ringLand (s : State) (c : Coll) (l : LSlot) (b : Nat) (m : CollMember) : State :=
  let (gr, size) := l.ring (field c.lt 0 2) m.rank
  let g := (gr.idxOf? m.rank).getD 0
  let bs := bytesOfWords l.unit (c.wordsOf (gr.getD ((g + gr.length - b) % gr.length) 0))
  s.collLand m (b * size) (bs ++ List.replicate (size - bs.length) 0)

/-- The step after the members have read their pieces: the exchange, then the landing; for a ring, block by block. -/
def State.collMove (s : State) (k : Nat) (c : Coll) (l : LSlot) (n : Nat) : State :=
  let next := fun (s : State) (c : Coll) => s.setTask k fun x => { x with work := .coll { c with step := c.step + 1 } }
  if c.fn = 4 then
    let s := c.members.foldl (fun s m => s.ringLand c l n m) s
    if n + 1 < axisN l.lw (field c.lt 0 2) then next s c else s.collDone k c
  else if n = 0 then
    match l.collOf c.lt with
    | some (kind, inv) => next s { c with members := c.members.map fun m => { m with data := dataOf (c.result l kind inv m.rank) } }
    | none => s
  else (c.members.foldl (fun s m => s.collLand m 0 (bytesOfWords l.unit m.words)) s).collDone k c

/-- A path leads from each of some dies to each other: else their packets wait (R418). -/
def State.joinedUp (s : State) (ds : List Nat) : Bool := ds.all fun d => ds.all fun e => s.pathOpen d e

/-- One step of a collective: once every member has issued, each reads its piece, then the data move (R398, R402). -/
def State.collStep (s : State) (k : Nat) : State :=
  let x := s.tasks.get k
  match x.work with
  | .coll c =>
    let l := s.slotOn x.die c.cid c.slot
    if c.dead.isSome || (c.members.any fun m => m.parked) || s.workHeld k || decide (c.members.length < l.dies.length) || !s.joinedUp l.dies then s
    else
      let c := { c with begun := true }
      match c.members[c.step]? with
      | some m =>
        match s.collGather c m with
        | .ok (m, s) => s.setTask k fun x => { x with work := .coll { c with step := c.step + 1, members := c.members.set c.step m } }
        | .error e => s.collStop k c m e
      | none => s.collMove k c l (c.step - c.members.length)
  | _ => s

/-- COLL_STEP (R398). -/
def execCollStep (k : Nat) (s : State) : Out := .next (s.collStep k)

/-- A link on the path that the tables give from a die to another is retraining, within `fuel` hops: of a package-mode dimension, either of its two. -/
def State.pathRetrains (s : State) : (fuel d dst : Nat) → Bool
  | 0, _, _ => false
  | fuel + 1, d, dst =>
    d != dst && (match s.routes.get (d * 256 + dst) with
      | 0 => false
      | p + 1 => ((s.haloPorts d p).any fun q => (s.port d q).st == .retraining) || s.pathRetrains fuel (s.neighbour d p) dst)

/-- A step's watchdog expires: it runs once every member has issued, while no part is parked and no link on a path between the members' dies is retraining (R403;
DEDUCED, log entry 60). -/
def State.collExpire (s : State) (k : Nat) : State :=
  match (s.tasks.get k).work with
  | .coll c =>
    let still := c.members.any fun m => c.members.any fun n => s.pathRetrains 256 m.die n.die
    if !c.begun || (c.members.any fun m => m.parked) || still || s.parkBlocked k then s else s.collAbort k 0xF0 none
  | _ => s

/-- COLL_WATCHDOG_EXPIRY (R403). -/
def execCollWatchdogExpiry (k : Nat) (s : State) : Out := .next (s.collExpire k)

/-! ## The coll words (R396, R402) -/

/-- The length of a member's result, or the SHAPE cause of a pair or form that is not accepted. -/
def LSlot.resultLen (l : LSlot) (fn : Nat) (lt : Dword) (r : Nat) : Except Nat Nat :=
  if fn = 4 then
    let x := l.ring (field lt 0 2) r
    if 2 ^ 23 < x.1.length * x.2 then .error 5 else .ok (x.1.length * x.2)
  else match l.collOf lt with
    | none => .error 3
    | some _ =>
      if lwPartial l.lw && (if fn = 3 then l.fmt != 0x08 else !combineOk l.fmt.toNat) then .error 7 else .ok (l.pieceBytes lt r)

/-- The collective of a slot with a place in its order that is in flight, or has aborted before every member had issued. -/
def State.collAt (s : State) (cid slot cseq : Nat) : Option (Nat × Coll) :=
  s.tasks.findSome? fun e => match e.2.work with
    | .coll c => if c.cid = cid ∧ c.slot = slot ∧ c.cseq = cseq then some (e.1, c) else none
    | _ => none

/-- A member joins the collective that its die's CSEQ names, or starts it; members that disagree abort it (R402); one that has aborted ends as the others have
(R403). -/
def State.collJoin (s : State) (slot cseq : Nat) (m : CollMember) : State :=
  let cid := s.me.cid
  let s := { s with slots := s.slots.mod (slotKey m.die cid slot) fun l => { l with cseq := l.cseq + 1 } }
  match s.collAt cid slot cseq with
  | some (k, c) =>
    match c.dead with
    | some r =>
      let s := s.memberAbort m r none
      if c.left ≤ 1 then s.dropTask k else s.setTask k fun x => { x with work := .coll { c with left := c.left - 1 } }
    | none =>
      let s := s.setTask k fun x => { x with work := .coll { c with members := c.members ++ [m] } }
      if c.fn = m.fn ∧ c.lt = m.lt then s else s.collAbort k 0xF4 none
  | none =>
    { s with
      tasks := s.tasks.set s.nextTask
        { work := .coll { cid := cid, slot := slot, cseq := cseq, members := [m], begun := false, step := 0, dead := none, left := 0 }, thread := s.cur,
          die := m.die, cid := cid, sb := m.sb, parked := false, page := none, homes := [] }
      nextTask := s.nextTask + 1 }

/-- A coll word: the form of its operands, its turn, its checks against the slot as it then stands, the handle and the entry (R394, R396, R401, R402, R227). A word
that joins a collective already in flight takes its turn with it. -/
def collWord (fn : Nat) (j : BitVec 8) (a b : BitVec 6) (s : State) : Out :=
  finish .fab s (
    let th := s.me
    let slot := j.toNat
    let lt := s.fs a
    let v := s.fs b
    let dst := field v 0 23
    let l := s.slotOn th.die th.cid slot
    if fn = 4 ∧ 4 ≤ lt.toNat then fabTrap s 1 slot lt
    else if flag v 23 ∨ bits v 30 34 ≠ 0 ∨ dst % 16 ≠ 0 then fabTrap s 1 slot v
    else if l.st = .resharding || (s.turnTaken th.cid slot && (s.collAt th.cid slot l.cseq).isNone) then holdAt s .outside
    else if l.st ≠ .stable then fabTrapOpen s 6 slot
    else match l.dies.idxOf? th.die with
      | none => fabTrapOpen s 9 slot
      | some r =>
        match l.resultLen fn lt r with
        | .error 7 => fabTrapOpen s 7 slot
        | .error c => fabTrap s c slot lt
        | .ok len =>
          let h := field v 24 6
          let x := s.handle th.cluster h
          if 2 ^ 23 < dst + len ∨ x.foreign th.gang then fabTrap s 5 slot v
          else match s.phaseCheck s.cur .fab dst len true with
            | some i => .error (.trap i s)
            | none =>
              if !x.ready then holdAt s .outside
              else do
                let (n, s) ← takeEntry s .fab 2 (BitVec.ofNat 32 h)
                let s := s.bindHandle th.cluster h th.gang dst len
                .ok (s.collJoin slot l.cseq
                  { thread := s.cur, die := th.die, rank := r, sb := n, handle := h, dst := dst, fn := fn, lt := lt, data := [], wire := 0, parked := false }))

/-- coll.sum (R397). -/
def execCollSum (j : BitVec 8) (a b : BitVec 6) (s : State) : Out := collWord 0 j a b s

/-- coll.max (R397). -/
def execCollMax (j : BitVec 8) (a b : BitVec 6) (s : State) : Out := collWord 1 j a b s

/-- coll.min (R397). -/
def execCollMin (j : BitVec 8) (a b : BitVec 6) (s : State) : Out := collWord 2 j a b s

/-- coll.amerge (R399). -/
def execCollAmerge (j : BitVec 8) (a b : BitVec 6) (s : State) : Out := collWord 3 j a b s

/-- coll.ring (R401). -/
def execCollRing (j : BitVec 8) (a b : BitVec 6) (s : State) : Out := collWord 4 j a b s

/-! ## fwait, resid, fabort (R400, R405, R406) -/

/-- fwait (R405). -/
def execFwait (s : State) : Out :=
  finish .fab s (if s.me.sbAny fun x => x.eng == .fab && x.st == .pending then holdAt s .outside else .ok (s.acquire s.cur))

/-- fwait.slot (R405). -/
def execFwaitSlot (j : BitVec 8) (s : State) : Out :=
  finish .fab s (if (s.slotOn s.me.die s.me.cid j.toNat).st = .resharding then holdAt s .outside else .ok (s.acquire s.cur))

/-- A wire format (R400). -/
def wireFormat (f : Nat) : Bool := f == 0x09 || f == 0x0A || f == 0x0B || f == 0x0C

/-- resid (R400): another wire format has no cause laid down. -/
def execResid (j : BitVec 8) (a b : BitVec 6) (s : State) : Out :=
  finish .fab s (
    let th := s.me
    let slot := j.toNat
    let base := (s.fs a).toNat
    let v := s.fs b
    let l := s.slotOn th.die th.cid slot
    if base % 128 ≠ 0 then fabTrap s 1 slot (s.fs a)
    else if 32 ≤ v.toNat then fabTrap s 1 slot v
    else if l.st = .empty ∨ l.st = .aborted then fabTrapOpen s 6 slot
    else if v ≠ 0 ∧ !wireFormat v.toNat then .error (.trap { code := .shape, estat := BitVec.ofNat 64 (slot * 256), addr := v, openE := 0xFF } s)
    else if l.fmt ≠ 0x08 then fabTrapOpen s 7 slot
    else .ok { s with slots := s.slots.mod (slotKey th.die th.cid slot) fun l => { l with resid := if v = 0 then 0 else base, wire := bits v 0 5 } })

/-- fabort (R406). -/
def execFabort (s : State) : Out := finish .fab s (.ok (s.abortAll s.cur true fun e => e == .fab))

end Sys2Proof.Machine
end

