-- ==== Sys2Proof/Machine/Kv.lean ====
section
/-! DEFINITION. KV frames and headers (R422, R423), the KV translation memory and its words (R424 to R427), appending and rolling back (R431, R432). -/

namespace Sys2Proof.Machine

/-! ## Traps and operands (R425, R429, R430) -/

/-- A scalar operand s[S + k] of ATN's head word. -/
def State.ns (s : State) (a : BitVec 6) (k : Nat) : Dword := s.me.run .atn a k

/-- SHAPE of an ATN word, with the failing operand scalar. -/
def atnTrap {α : Type} (s : State) (cause : Nat) (op : Dword) : Except Exit α := trapAt s .shape (BitVec.ofNat 64 cause) op

/-- SHAPE of an ATN word whose check fails on no one scalar: ADDR holds 0 (R430; DEDUCED, log entry 96). -/
def atnTrapNone {α : Type} (s : State) (cause : Nat) : Except Exit α := trapAt s .shape (BitVec.ofNat 64 cause) 0

/-- A reserved bit or a value out of range in a scalar. -/
def atnNeed (s : State) (ok : Bool) (op : Dword) : Except Exit Unit := if ok then .ok () else atnTrap s 1 op

/-- ALIGN of an ATN word: ESTAT is open. -/
def atnAlign (s : State) (a n : Nat) : Except Exit Unit :=
  if a % n = 0 then .ok () else .error (.trap { code := .align, estat := 0, addr := BitVec.ofNat 64 a, openE := -1 } s)

/-- A SEQBLK operand: SEQ, B0, NB. -/
structure SeqBlk where
  seq : Nat
  b0 : Nat
  nb : Nat
deriving DecidableEq, Repr, Inhabited

/-- The fields of a SEQBLK. -/
def seqBlk (v : Dword) : SeqBlk := { seq := field v 0 20, b0 := field v 20 20, nb := field v 40 12 }

/-- A SEQBLK in form. -/
def seqBlkOk (v : Dword) : Bool := bits v 52 12 == 0 && bits v 40 12 != 0

/-- A SEQSLOT in form. -/
def seqSlotOk (v : Dword) : Bool := bits v 46 18 == 0

/-- SEQ of either form. -/
def seqOf (v : Dword) : Nat := field v 0 20

/-- The sequence slot of a SEQSLOT. -/
def slotOfSeq (v : Dword) : Nat := field v 20 26

/-! ## Frames (R422) -/

/-- HK, DH and bytes per element of an entry's geometry. -/
def KtmEnt.dh (e : KtmEnt) : Nat := 64 * 2 ^ e.dhc.toNat
def KtmEnt.unit (e : KtmEnt) : Nat := widthOf e.fmt.toNat / 8

/-- Offsets in a frame: position id, retention byte, cluster id, key, value. -/
def pidOff (p : Nat) : Nat := 128 + 4 * p
def retOff (h p : Nat) : Nat := 384 + 64 * h + p
def KtmEnt.cluOff (e : KtmEnt) (h p : Nat) : Nat := 384 + 64 * e.hk + 64 * h + p
def KtmEnt.keyBytes (e : KtmEnt) : Nat := e.dh * e.unit
def KtmEnt.keyOff (e : KtmEnt) (h p : Nat) : Nat := 384 + 128 * e.hk + (64 * h + p) * e.keyBytes
def KtmEnt.valOff (e : KtmEnt) (h p : Nat) : Nat := e.keyOff h p + 64 * e.hk * e.keyBytes

/-- The frame size. -/
def KtmEnt.size (e : KtmEnt) : Nat := 384 + 128 * e.hk + 128 * e.hk * e.keyBytes

/-- The reserved bits of a geometry dword are 0 (R423). -/
def geometryBits (d : Dword) : Bool := bits d 6 2 == 0 && bits d 10 2 == 0 && bits d 17 47 == 0

/-- A geometry dword as header dword 2 lays it out, when it is valid: HK, DHC, FMT. -/
def geometryOf (d : Dword) : Option (Nat × BitVec 2 × BitVec 5) :=
  let f := field d 12 5
  if bits d 6 2 = 0 ∧ bits d 10 2 = 0 ∧ bits d 17 47 = 0 ∧ field d 8 2 ≠ 3 ∧ (f = 0x09 ∨ f = 0x0A ∨ f = 0x0B ∨ f = 0x0C) then
    some (field d 0 6 + 1, bits d 8 2, bits d 12 5)
  else none

/-- The geometry dword of an entry. -/
def KtmEnt.geometry (e : KtmEnt) : Dword := BitVec.ofNat 64 (e.hk - 1 + e.dhc.toNat * 256 + e.fmt.toNat * 4096)

/-- Two entries have one geometry. -/
def KtmEnt.like (a b : KtmEnt) : Bool := a.hk == b.hk && a.dhc == b.dhc && a.fmt == b.fmt

/-! ## Accesses to a frame, at home (R255, R429) -/

/-- Translate and check [off, off + n) of an entry's frame. -/
def State.blockAcc (s : State) (w : Issuer) (e : KtmEnt) (off n : Nat) (write : Bool) : Except MemStop Acc :=
  let a : Acc := { pa := e.frame + off, len := n, va := e.va + off, rkey := regionKey e.cid e.region.toNat, w := e.w, ord := 1 }
  if s.paLost e.frame then .error (homeLost e.va)
  else if write && !e.w then .error ((pageFault 4 true (e.va + off)).homed e.frame)
  else match s.checkAccs w write [a] with
    | some m => .error m
    | none => .ok a

/-- Read [off, off + n): bytes, poison, tainted piece. -/
def State.blockRead (s : State) (w : Issuer) (e : KtmEnt) (off n : Nat) : Except MemStop ((List Byte × Bool × Bool) × State) :=
  match s.blockAcc w e off n false with
  | .error m => .error m
  | .ok a =>
    let x := s.loadHome w a
    .ok ((x.1.1, x.1.2, s.accsTaint w [a]), x.2)

/-- Check the ranges of a frame that are to be written. -/
def State.blockMay (s : State) (w : Issuer) (e : KtmEnt) : List (Nat × Nat) → Except MemStop Unit
  | [] => .ok ()
  | (off, n) :: rest => match s.blockAcc w e off n true with | .error m => .error m | .ok _ => s.blockMay w e rest

/-- Write bytes into a frame that `blockMay` has passed. -/
def State.blockPut (s : State) (w : Issuer) (e : KtmEnt) (off : Nat) (bs : List Byte) : State :=
  match s.blockAcc w e off bs.length true with
  | .ok a => s.storeHome w a bs
  | .error _ => s

/-- Raise what a thread's read meets (R457, R269), as a synchronous ATN word. -/
def atnTaint (s : State) (x : List Byte × Bool × Bool) : State := s.readTaint s.cur .atn x.2.1 x.2.2

/-- Read of a synchronous ATN word. -/
def atnBlock (s : State) (e : KtmEnt) (off n : Nat) : Except Exit (List Byte × State) := do
  let (x, s) ← liftMem s (s.blockRead (s.issuer s.cur .atn) e off n)
  .ok (x.1, atnTaint s x)

/-- Read linear bytes as a synchronous ATN word; `home` for centroid tables. -/
def atnRead (s : State) (a n : Nat) (home : Bool) : Except Exit (List Byte × State) := do
  let w := s.issuer s.cur .atn
  let (as, s) ← liftMem s (s.accessLin w a n false 0)
  let x := s.loadAccs w (if home then as.map fun a => { a with ord := 1 } else as)
  .ok (x.1.1, x.2.readTaint s.cur .atn x.1.2 (s.accsTaint w as))

/-! ## Headers (R423) -/

/-- STATE and FILL of header dword 0. -/
def hdrState (d : Dword) : Nat := field d 0 2
def hdrFill (d : Dword) : Nat := field d 8 7

/-- The first two dwords of a header with a state, a fill and the position ids of its slots. -/
def hdrBytes (st fill : Nat) (pids : List Nat) : List Byte :=
  dwBytes [st + fill * 256,
    if fill = 0 then 0xFFFFFFFF else pids.foldl Nat.min 0xFFFFFFFF + pids.foldl Nat.max 0 * 2 ^ 32]

/-- Position ids from bytes. -/
def pidsOf (bs : List Byte) : List Nat := (List.range (bs.length / 4)).map fun i => leNat ((bs.drop (4 * i)).take 4)

/-- The state that a fill gives (R431, R432, R450). -/
def stateOfFill (fill : Nat) : Nat := if fill = 0 then 0 else if fill = 64 then 2 else 1

/-! ## The KV translation memory (R424 to R427) -/

/-- The first of a run of blocks without an entry on a die, else the entries. -/
def State.ktmRun (s : State) (d cid seq : Nat) : List Nat → Except Nat (List KtmEnt)
  | [] => .ok []
  | b :: bs => match s.ktmAt d cid seq b with
    | none => .error b
    | some e => match s.ktmRun d cid seq bs with | .error n => .error n | .ok es => .ok (e :: es)

/-- The blocks of a segment. -/
def SeqBlk.blocks (g : SeqBlk) : List Nat := (List.range g.nb).map fun i => g.b0 + i

/-- KV_MISS of a block (R424). -/
def kvMiss (seq blk : Nat) : TrapInfo := { code := .kvMiss, estat := 0, addr := BitVec.ofNat 64 (seq * 2 ^ 32 + blk) }

/-- The entries of blocks on the issuing die, or KV_MISS. -/
def atnEntries (s : State) (seq : Nat) (bs : List Nat) : Except Exit (List KtmEnt) :=
  match s.ktmRun s.me.die s.me.cid seq bs with
  | .ok es => .ok es
  | .error b => .error (.trap (kvMiss seq b) s)

/-- The page that holds a translated linear address, its first address and bytes: context 0 has no pages (R230, R239). -/
def State.pageOf (s : State) (d cid va : Nat) : Nat × Nat :=
  if cid = 0 then (0, 2 ^ 50) else match s.heldLeaf d cid va with | some (_, _, size) => (va / size * size, size) | none => (va, 0)

/-- Translate one frame of a segment record: its entry (R425). -/
def mapFrame (s : State) (g : SeqBlk) (hk : Nat) (dhc : BitVec 2) (fmt : BitVec 5) (op : Dword) (i : Nat) (va : Nat) : Except Exit (KtmEnt × State) := do
  let th := s.me
  let (a, s) ← liftMem s (s.translate (s.issuer s.cur .atn).at_ th.cid va 1 false)
  atnAlign s va 128
  let page := s.pageOf th.die th.cid va
  let e : KtmEnt :=
    { die := th.die, cid := th.cid, seq := g.seq, blk := g.b0 + i, hk := hk, dhc := dhc, fmt := fmt, frame := a.pa, va := va, pageVa := page.1, pageLen := page.2, slot := s.sliceOf a.pa,
      region := BitVec.ofNat 12 (a.rkey % 4096), ord := BitVec.ofNat 2 a.ord, w := a.w, lock := false }
  if page.1 + page.2 < va + e.size then atnTrap s 9 op else .ok (e, s)

/-- Translate the frames of a record in order. -/
def mapFrames (s : State) (g : SeqBlk) (hk : Nat) (dhc : BitVec 2) (fmt : BitVec 5) (op : Dword) : List (Dword × Nat) → Except Exit (List KtmEnt × State)
  | [] => .ok ([], s)
  | (v, i) :: rest => do
    let (e, s) ← mapFrame s g hk dhc fmt op i v.toNat
    let (es, s) ← mapFrames s g hk dhc fmt op rest
    .ok (e :: es, s)

/-- A header agrees with the record (R425). -/
def headerOk (e : KtmEnt) (bs : List Byte) : Bool :=
  let d := dwIdx bs
  d 2 == e.geometry && (d 0 &&& ~~~0x7F03) == 0 && d 3 == BitVec.ofNat 64 (e.seq + e.blk * 2 ^ 20) && (bs.drop 32).all fun b => b == 0

/-- Read and check the headers of a segment. -/
def mapHeaders (s : State) (op : Dword) : List KtmEnt → Except Exit State
  | [] => .ok s
  | e :: es => do
    let (bs, s) ← atnBlock s e 0 128
    if !headerOk e bs then atnTrap s 3 op else mapHeaders s op es

/-- Check that the headers of a segment may be written. -/
def mapMay (s : State) : List KtmEnt → Except Exit Unit
  | [] => .ok ()
  | e :: es => do
    liftMem s (s.blockMay (s.issuer s.cur .atn) e [(0, 128)])
    mapMay s es

/-- The KTM with room for new entries of a die (R425): unlocked entries go in load order, none when that is not enough; the keys of the new entries
stand apart. -/
def ktmRoom (ktm : List KtmEnt) (d : Nat) (new : List KtmEnt) : Option (List KtmEnt) :=
  let same := fun (e : KtmEnt) => new.any fun n => n.die == e.die && n.cid == e.cid && n.seq == e.seq && n.blk == e.blk
  let others := ktm.filter fun e => !same e
  let excess := (others.filter fun e => e.die == d).length + new.length - 65536
  let gone := (others.filter fun e => e.die == d && !e.lock).take excess
  if gone.length < excess then none else some (others.filter fun e => !gone.contains e)

/-- Enter a segment: new entries keep the LOCK of those they replace. -/
def State.ktmEnter (s : State) (room new : List KtmEnt) : State :=
  { s with ktm := room ++ new.map fun e => { e with lock := match s.ktmAt e.die e.cid e.seq e.blk with | some o => o.lock | none => false } }

/-- kvmap and kvmap.new (R425). -/
def kvmapWord (new : Bool) (a : BitVec 6) (s : State) : Out :=
  finish .atn s (do
    let op := s.ns a 0
    atnAlign s op.toNat 16
    let (bs, s) ← atnRead s op.toNat 16 false
    let v := dwAt bs 0
    let g := seqBlk v
    let (fs, s) ← atnRead s (op.toNat + 16) (8 * g.nb) false
    let frames := (List.range g.nb).map (dwIdx fs)
    atnNeed s (seqBlkOk v && geometryBits (dwIdx bs 1) && (frames.all fun f => bits f 57 7 == 0) && decide (g.b0 + g.nb ≤ 2 ^ 20)) op
    match geometryOf (dwIdx bs 1) with
    | none => atnTrap s 3 op
    | some (hk, dhc, fmt) =>
      let (es, s) ← mapFrames s g hk dhc fmt op frames.zipIdx
      let s ← (if new then do { mapMay s es; .ok s } else mapHeaders s op es)
      match ktmRoom s.ktm s.me.die es with
      | none => atnTrap s 8 op
      | some room =>
        let w := s.issuer s.cur .atn
        let s := if new then es.foldl (fun (s : State) e =>
          s.blockPut w e 0 (hdrBytes 0 0 [] ++ dwBytes [e.geometry.toNat, e.seq + e.blk * 2 ^ 20] ++ leBytes 96 0)) s else s
        .ok (s.ktmEnter room es))

/-- kvmap (R425). -/
def execKvmap (a : BitVec 6) (s : State) : Out := kvmapWord false a s

/-- kvmap.new (R425). -/
def execKvmapNew (a : BitVec 6) (s : State) : Out := kvmapWord true a s

/-- An entry of a segment of the current thread's context on its die. -/
def State.inSegment (s : State) (g : SeqBlk) (e : KtmEnt) : Bool :=
  e.die == s.me.die && e.cid == s.me.cid && e.seq == g.seq && decide (g.b0 ≤ e.blk) && decide (e.blk < g.b0 + g.nb)

/-- kvmap.un (R425). -/
def execKvmapUn (a : BitVec 6) (s : State) : Out :=
  finish .atn s (do
    let v := s.ns a 0
    atnNeed s (seqBlkOk v) v
    .ok { s with ktm := s.ktm.filter fun e => !s.inSegment (seqBlk v) e })

/-- kvlock and kvlock.un (R426). -/
def kvlockWord (lock : Bool) (a : BitVec 6) (s : State) : Out :=
  finish .atn s (do
    let v := s.ns a 0
    atnNeed s (seqBlkOk v) v
    let g := seqBlk v
    let _ ← atnEntries s g.seq g.blocks
    let ktm := s.ktm.map fun e => if s.inSegment g e then { e with lock := lock } else e
    if lock ∧ 61440 < (ktm.filter fun e => e.die == s.me.die && e.lock).length then atnTrap s 8 v else .ok { s with ktm := ktm })

/-- kvlock (R426). -/
def execKvlock (a : BitVec 6) (s : State) : Out := kvlockWord true a s

/-- kvlock.un (R426). -/
def execKvlockUn (a : BitVec 6) (s : State) : Out := kvlockWord false a s

/-! ## Appending and rolling back (R431, R432) -/

/-- Dword 0 of a block's header, read by a synchronous word. -/
def atnHeader (s : State) (e : KtmEnt) : Except Exit (Dword × State) := do
  let (bs, s) ← atnBlock s e 0 16
  .ok (dwAt bs 0, s)

/-- The part of an append that falls into one block: the entry, its first slot, its position ids. -/
structure Append where
  ent : KtmEnt
  slot : Nat
  pids : List Nat

/-- The parts of an append of n slots from x. -/
def appendParts (es : List KtmEnt) (x n p : Nat) : List Append :=
  es.map fun e =>
    let ys := ((List.range n).map fun i => (x + i, (p + i) % 2 ^ 32)).filter fun y => y.1 / 64 == e.blk
    { ent := e, slot := (match ys.head? with | some y => y.1 % 64 | none => 0), pids := ys.map Prod.snd }

/-- What a part writes besides the header. -/
def Append.ranges (x : Append) : List (Nat × Nat) :=
  (pidOff x.slot, 4 * x.pids.length) ::
    (List.range x.ent.hk).flatMap fun h => [(retOff h x.slot, x.pids.length), (x.ent.cluOff h x.slot, x.pids.length)]

/-- Check a part's accesses and read the position ids before its slots. -/
def appendCheck (s : State) : List Append → Except Exit (List (Append × List Nat) × State)
  | [] => .ok ([], s)
  | x :: xs => do
    liftMem s (s.blockMay (s.issuer s.cur .atn) x.ent ((0, 16) :: x.ranges))
    let (bs, s) ← if x.slot = 0 then Except.ok ([], s) else atnBlock s x.ent (pidOff 0) (4 * x.slot)
    let (ys, s) ← appendCheck s xs
    .ok ((x, pidsOf bs) :: ys, s)

/-- Write a part of an append. -/
def State.appendPart (s : State) (x : Append) (before : List Nat) : State :=
  let w := s.issuer s.cur .atn
  let fill := x.slot + x.pids.length
  let s := s.blockPut w x.ent (pidOff x.slot) (x.pids.flatMap fun p => leBytes 4 p)
  let s := (x.ranges.tail).foldl (fun (s : State) r => s.blockPut w x.ent r.1 (List.replicate r.2 255)) s
  s.blockPut w x.ent 0 (hdrBytes (if fill = 64 then 2 else 1) fill (before ++ x.pids))

/-- Dwords 0 of several headers. -/
def atnHeaders (s : State) : List KtmEnt → Except Exit (List Dword × State)
  | [] => .ok ([], s)
  | e :: es => do
    let (d, s) ← atnHeader s e
    let (ds, s) ← atnHeaders s es
    .ok (d :: ds, s)

/-- kvapp (R431). -/
def execKvapp (a : BitVec 6) (s : State) : Out :=
  finish .atn s (do
    let v := s.ns a 0
    let c := s.ns a 1
    atnNeed s (seqSlotOk v) v
    atnNeed s (bits c 6 26 == 0) c
    let x := slotOfSeq v
    let n := field c 0 6 + 1
    let b1 := x / 64
    let b2 := (x + n - 1) / 64
    let es ← atnEntries s (seqOf v) (if b1 = b2 then [b1] else [b1, b2])
    let xs := appendParts es x n (field c 32 32)
    let (ys, s) ← appendCheck s xs
    let (ds, s) ← atnHeaders s es
    if ds.any fun d => hdrState d == 3 then holdAt s .outside
    else
      let d1 := ds.getD 0 0
      let bad := 1 < hdrState d1 ∨ hdrFill d1 ≠ x % 64 ∨ (ds.tail.any fun d => hdrState d != 0 || hdrFill d != 0)
      if bad then atnTrapNone s 7 else .ok (ys.foldl (fun (s : State) y => s.appendPart y.1 y.2) s))

/-- The blocks that a rollback reaches from block b until it ends or meets a compacting one: entry and header dword 0 of each, and whether it must wait; `fuel`
bounds them. -/
def rollBlocks (s : State) (seq : Nat) (first : Bool) : (fuel b : Nat) → Except Exit (List (KtmEnt × Dword) × Bool × State)
  | 0, _ => .ok ([], false, s)
  | fuel + 1, b =>
    match s.ktmAt s.me.die s.me.cid seq b with
    | none => if first then .error (.trap (kvMiss seq b) s) else .ok ([], false, s)
    | some e => do
      let (d, s) ← atnHeader s e
      if !first && hdrState d == 0 then .ok ([], false, s)
      else if hdrState d = 3 then .ok ([], true, s)
      else
        let (rest, wait, s) ← rollBlocks s seq false fuel (b + 1)
        .ok ((e, d) :: rest, wait, s)

/-- Roll blocks back: those with more slots in use than remain. -/
def rollAll (s : State) (x : Nat) (go : Bool) : List (KtmEnt × Dword) → Except Exit State
  | [] => .ok s
  | (e, d) :: rest => do
    let f := x - 64 * e.blk
    if hdrFill d ≤ f then rollAll s x go rest
    else
      let (bs, s) ← if f = 0 then Except.ok ([], s) else atnBlock s e (pidOff 0) (4 * f)
      liftMem s (s.blockMay (s.issuer s.cur .atn) e [(0, 16)])
      rollAll (if go then s.blockPut (s.issuer s.cur .atn) e 0 (hdrBytes (if f = 0 then 0 else 1) f (pidsOf bs)) else s) x go rest

/-- kvroll (R432): the blocks before a compacting one are rolled back while the word waits at it; of those that it reaches without a wait every access is checked
before the first changes. -/
def execKvroll (a : BitVec 6) (s : State) : Out :=
  finish .atn s (do
    let v := s.ns a 0
    atnNeed s (seqSlotOk v) v
    let x := slotOfSeq v
    let n := s.me.atnAt
    let (bs, wait, s) ← rollBlocks s (seqOf v) (n == 0) (s.ktm.length + 1) (x / 64 + n)
    let s ← rollAll s x false bs
    let s ← rollAll s x true bs
    if wait then holdAt (s.modMe fun th => { th with atnAt := n + bs.length }) .outside else .ok (s.modMe fun th => { th with atnAt := 0 }))

end Sys2Proof.Machine
end

