-- ==== Sys2Proof/Machine/Mask.lean ====
section
/-! DEFINITION. Mask programs: loading and validation (R435, R436), the class of a tile (R437), meval (R438) and the tile counters (R439). -/

namespace Sys2Proof.Machine

/-! ## Loading (R436) -/

/-- MASK_PROGRAM: cause and index. -/
def maskTrap {α : Type} (s : State) (cause i : Nat) : Except Exit α :=
  .error (.trap { code := .maskProgram, estat := BitVec.ofNat 64 (cause + i * 256), addr := 0, openA := true } s)

/-- Opcode and constant indices of a halfword. -/
def maskOp (h : BitVec 16) : Nat := field h 12 4
def maskLo (h : BitVec 16) : Nat := field h 4 4
def maskHi (h : BitVec 16) : Nat := field h 0 4

/-- The halfword compares against two constants. -/
def maskRanged (h : BitVec 16) : Bool := maskOp h == 1 || maskOp h == 2 || maskOp h == 3 || maskOp h == 0xD || maskOp h == 0xE

/-- The halfword pushes a value. -/
def maskPushes (h : BitVec 16) : Bool := maskRanged h || maskOp h == 4 || maskOp h == 5 || maskOp h == 9 || maskOp h == 0xA

/-- The stack depth that a halfword asks for, and whether it must be exactly that. -/
def maskNeeds (h : BitVec 16) : Nat × Bool :=
  let c := maskOp h
  if c = 6 ∨ c = 7 then (2, false) else if c = 8 then (1, false) else if c = 0xB then (1, true) else if c = 0xC then (0, true) else (0, false)

/-- The cause that a halfword raises at a stack depth, if any. -/
def maskCause (nc depth : Nat) (h : BitVec 16) : Option Nat :=
  let c := maskOp h
  let need := maskNeeds h
  if c = 0 ∨ c = 0xF ∨ (if maskRanged h then bits h 8 4 != 0 else bits h 0 12 != 0) then some 1
  else if maskRanged h ∧ (nc ≤ maskLo h ∨ nc ≤ maskHi h) then some 2
  else if maskPushes h ∧ depth = 4 then some 3
  else if depth < need.1 ∨ (need.2 ∧ depth ≠ need.1) then some 4
  else none

/-- The depth after a halfword. -/
def maskDepth (depth : Nat) (h : BitVec 16) : Nat :=
  let c := maskOp h
  if maskPushes h then depth + 1 else if c = 6 ∨ c = 7 ∨ c = 0xB then depth - 1 else depth

/-- Validation of the halfwords from index i: the program up to its mend, or cause and index. `ends` counts mcend. -/
def maskScan (nc : Nat) : (i depth ends : Nat) → List (BitVec 16) → Except (Nat × Nat) (List (BitVec 16))
  | _, _, _, [] => .error (5, 0)
  | i, depth, ends, h :: hs =>
    match maskCause nc depth h with
    | some c => .error (c, i)
    | none =>
      if maskOp h = 0xB ∧ ends = 16 then .error (6, i)
      else if maskOp h = 0xC then (if ends = 0 then .error (6, i) else .ok [h])
      else match maskScan nc (i + 1) (maskDepth depth h) (ends + if maskOp h = 0xB then 1 else 0) hs with
        | .error e => .error e
        | .ok ps => .ok (h :: ps)

/-- The halfwords that mprog reads: up to the first mend, 32 at most. -/
def untilMend : List (BitVec 16) → List (BitVec 16)
  | [] => []
  | h :: hs => if maskOp h = 0xC then [h] else h :: untilMend hs

/-- The first boundary that is not greater than the one before it. -/
def badBound (bs : List Word) : Option Nat :=
  (List.range bs.length).find? fun j => j != 0 && decide ((bs.getD j 0).toNat ≤ (bs.getD (j - 1) 0).toNat)

/-- A scratchpad source of ATN: a plain address inside scratchpad (R430). -/
def atnPlace (s : State) (op : Dword) (n : Nat) : Except Exit Nat := if 2 ^ 23 < op.toNat + n then atnTrap s 1 op else .ok op.toNat

/-- A scratchpad read of ATN (R227, R288, R457). -/
def atnScratch (s : State) (a n : Nat) : Except Exit (List Byte × State) :=
  match s.phaseCheck s.cur .atn a n false with
  | some i => .error (.trap i s)
  | none => do
    let (bs, bad) ← s.spadRead s.cur .atn a n
    .ok (bs, s.readTaint s.cur .atn bad false)

/-- Halfwords and words of bytes. -/
def halves (bs : List Byte) : List (BitVec 16) := (List.range (bs.length / 2)).map fun i => BitVec.ofNat 16 (leNat ((bs.drop (2 * i)).take 2))
def words4 (bs : List Byte) : List Word := (List.range (bs.length / 4)).map fun i => BitVec.ofNat 32 (leNat ((bs.drop (4 * i)).take 4))

/-- mprog (R436). -/
def execMprog (n : BitVec 2) (a b : BitVec 6) (s : State) : Out :=
  finish .atn s (do
    let pa ← atnPlace s (s.ns a 0) 2
    let ta ← atnPlace s (s.ns b 0) 4
    atnAlign s pa 2
    atnAlign s ta 4
    let (t0, s) ← atnScratch s ta 4
    let w := (words4 t0).getD 0 0
    let nc := field w 0 5
    let nb := field w 8 9
    if bits w 5 3 ≠ 0 ∨ bits w 17 15 ≠ 0 ∨ 16 < nc ∨ 256 < nb then maskTrap s 7 0
    else
      let _ ← atnPlace s (s.ns b 0) (4 + 4 * nc + 4 * nb)
      let seen := untilMend (halves (s.spadBytes s.me.cluster pa (Nat.min 64 (2 ^ 23 - pa))))
      let (bs, s) ← atnScratch s pa (2 * seen.length)
      match maskScan nc 0 0 0 (halves bs) with
      | .error (c, i) => maskTrap s c i
      | .ok ps =>
        let (ts, s) ← atnScratch s ta (4 + 4 * nc + 4 * nb)
        let bounds := ((words4 ts).drop (1 + nc)).take nb
        match badBound bounds with
        | some j => maskTrap s 8 j
        | none => .ok (s.modMe fun th => { th with
            masks := th.masks.set n.toNat { loaded := true, prog := ps, consts := ((words4 ts).drop 1).take nc, bounds := bounds } }))

/-! ## Evaluation (R435, R437) -/

/-- Three-valued logic: none is unknown. -/
def and3 (a b : Option Bool) : Option Bool :=
  match a, b with
  | some false, _ => some false
  | _, some false => some false
  | some true, some true => some true
  | _, _ => none
def or3 (a b : Option Bool) : Option Bool :=
  match a, b with
  | some true, _ => some true
  | _, some true => some true
  | some false, some false => some false
  | _, _ => none
def not3 (a : Option Bool) : Option Bool := a.map fun b => !b

/-- A range against the interval of two constants. -/
def inside (lo hi a b : Int) : Option Bool := if lo ≤ a ∧ b ≤ hi then some true else if b < lo ∨ hi < a ∨ hi < lo then some false else none

/-- doc and docstart (R435). -/
def MaskSlot.doc (m : MaskSlot) (x : Int) : Nat := (m.bounds.filter fun b => decide ((b.toNat : Int) ≤ x)).length
def MaskSlot.docstart (m : MaskSlot) (x : Int) : Int :=
  ((m.bounds.filter fun b => decide ((b.toNat : Int) ≤ x)).foldl (fun n b => Nat.max n b.toNat) 0 : Nat)

/-- A constant as a signed integer. -/
def MaskSlot.const (m : MaskSlot) (i : Nat) : Int := (m.consts.getD i 0).toInt

/-- What a pushing halfword pushes for a tile (R437); a tile of one pair gives its exact value. -/
def MaskSlot.leaf (m : MaskSlot) (qa qb ka kb : Int) (h : BitVec 16) : Option Bool :=
  let lo := m.const (maskLo h)
  let hi := m.const (maskHi h)
  let within := fun (a b : Int) => if m.doc a = m.doc b then inside lo hi (a - m.docstart a) (b - m.docstart b) else none
  let same : Option Bool :=
    if m.doc qa = m.doc qb ∧ m.doc ka = m.doc kb ∧ m.doc qa = m.doc ka then some true
    else if m.doc qb < m.doc ka ∨ m.doc kb < m.doc qa then some false else none
  match maskOp h with
  | 1 => inside lo hi qa qb
  | 2 => inside lo hi ka kb
  | 3 => inside lo hi (ka - qb) (kb - qa)
  | 4 => same
  | 5 => not3 same
  | 9 => some true
  | 0xA => some false
  | 0xD => within qa qb
  | _ => within ka kb

/-- The program over a stack (top first) and a result. -/
def maskRun (leaf : BitVec 16 → Option Bool) : List (BitVec 16) → List (Option Bool) → Option Bool → Option Bool
  | [], _, r => r
  | h :: hs, st, r =>
    if maskPushes h then maskRun leaf hs (leaf h :: st) r
    else match maskOp h, st with
      | 6, x :: y :: rest => maskRun leaf hs (and3 y x :: rest) r
      | 7, x :: y :: rest => maskRun leaf hs (or3 y x :: rest) r
      | 8, x :: rest => maskRun leaf hs (not3 x :: rest) r
      | 0xB, x :: rest => maskRun leaf hs rest (or3 r x)
      | _, _ => r

/-- The value of a program for a tile. -/
def MaskSlot.tile (m : MaskSlot) (qa qb ka kb : Int) : Option Bool := maskRun (m.leaf qa qb ka kb) m.prog [] (some false)

/-- The mask lets a query position attend to a key position. -/
def MaskSlot.lets (m : MaskSlot) (q k : Int) : Bool := m.tile q q k k == some true

/-- The class of a tile: 0 empty, 1 partial, 2 full. -/
def MaskSlot.classOf (m : MaskSlot) (qa qb ka kb : Int) : Nat := match m.tile qa qb ka kb with | some true => 2 | some false => 0 | none => 1

/-! ## The counters (R439) -/

/-- An addition that stays at the greatest count. -/
def countUp (c : Word) (n : Nat) : Word := BitVec.ofNat 32 (Nat.min (c.toNat + n) (2 ^ 32 - 1))

/-- Add the classes of tiles to the counters. -/
def Thread.countTiles (th : Thread) (nf np ne : Nat) : Thread :=
  { th with mcntf := countUp th.mcntf nf, mcntp := countUp th.mcntp np, mcnte := countUp th.mcnte ne }

/-- mcnt.clr (R439). -/
def execMcntClr (s : State) : Out := finish .atn s (.ok (s.modMe fun th => { th with mcntf := 0, mcntp := 0, mcnte := 0 }))

/-! ## Destinations and handles (R429, R440) -/

/-- The destination scalar's reserved bits: with a ring-relative address, those of R220. -/
def destOk (v : Dword) : Bool := flag v 63 || (!flag v 23 && bits v 30 33 == 0)

/-- The scratchpad address of a destination scalar whose bits 29:24 hold a handle. -/
def atnDest (s : State) (v : Dword) (len : Nat) : Except Exit Nat := do
  let op := v &&& ~~~(BitVec.ofNat 64 (0x3F * 2 ^ 24))
  let d ← s.spadOperand s.cur .atn op len { code := .shape, estat := 5, addr := v }
  atnAlign s d 16
  match s.phaseCheck s.cur .atn d len true with
  | some i => .error (.trap i s)
  | none => .ok d

/-- The handle of a delivering ATN word may be bound now. -/
def atnHandle (s : State) (h : Nat) (v : Dword) : Except Exit Unit :=
  let x := s.handle s.me.cluster h
  if x.foreign s.me.gang then atnTrap s 5 v else if !x.ready then holdAt s .outside else .ok ()

/-! ## meval (R438) -/

/-- Classes of a grid, two bits each, row by row. -/
def gridClasses (m : MaskSlot) (q0 k0 nq nk ql kl : Nat) : List Nat :=
  (List.range nq).flatMap fun i => (List.range nk).map fun j =>
    let qa : Int := (q0 + i * 2 ^ ql : Nat)
    let ka : Int := (k0 + j * 2 ^ kl : Nat)
    m.classOf qa (qa + 2 ^ ql - 1) ka (ka + 2 ^ kl - 1)

/-- Two-bit classes as bytes. -/
def classBytes (cs : List Nat) : (n : Nat) → List Byte
  | 0 => []
  | n + 1 => BitVec.ofNat 8 (cs.getD 0 0 + cs.getD 1 0 * 4 + cs.getD 2 0 * 16 + cs.getD 3 0 * 64) :: classBytes (cs.drop 4) n

/-- meval (R438). -/
def execMeval (n : BitVec 2) (a : BitVec 6) (s : State) : Out :=
  finish .atn s (do
    let v := s.ns a 0
    let c := s.ns a 1
    let d := s.ns a 2
    atnNeed s (bits c 12 4 == 0 && bits c 28 4 == 0 && bits c 40 24 == 0) c
    atnNeed s (destOk d) d
    let nq := field c 0 12 + 1
    let nk := field c 16 12 + 1
    let ql := field c 32 4
    let kl := field c 36 4
    atnNeed s (decide (field v 0 32 + nq * 2 ^ ql ≤ 2 ^ 32) && decide (field v 32 32 + nk * 2 ^ kl ≤ 2 ^ 32)) v
    let m := s.me.masks.get n.toNat
    if !m.loaded then atnTrapNone s 6
    let len := (nq * nk + 63) / 64 * 16
    let dst ← atnDest s d len
    let h := field d 24 6
    atnHandle s h d
    let cs := gridClasses m (field v 0 32) (field v 32 32) nq nk ql kl
    let th := s.me
    let s := s.bindHandle th.cluster h th.gang dst len
    let s := (s.spadNow s.cur .atn th.cluster dst (classBytes cs len)).setHandle th.cluster h fun x => x.land len
    let count := fun k => (cs.filter fun c => c == k).length
    .ok (s.modMe fun th => th.countTiles (count 2) (count 1) (count 0)))

end Sys2Proof.Machine
end

