-- ==== Sys2Proof/Machine/Atn.lean ====
section
/-! DEFINITION. In-cache attention: patt (R440 to R444), clustering (R445, R446), csel (R447), retention (R449), the sieve (R450), await (R451, R452). -/

namespace Sys2Proof.Machine

/-! ## Exact sums (R441, R446, R447) -/

/-- The exact product of two values. -/
def prodVal (a b : FVal) : FVal := match mulVal a b with | some v => v | none => .nan false

/-- The exact sum of products. -/
def dotVal (xs ys : List FVal) : FVal := ((xs.zip ys).map fun p => prodVal p.1 p.2).foldl sumVal (.num false 0 1)

/-- A value rounded once to FP32 by rne. -/
def rneWord (v : FVal) : Word := (roundVal .rne v).1

/-- Elements of a frame as values. -/
def frameVals (fmt : Nat) (bs : List Byte) : List FVal :=
  match eFmt fmt with
  | some f => let n := f.width / 8; (List.range (bs.length / n)).map fun i => fmtVal f (leNat ((bs.drop (n * i)).take n))
  | none => []

/-- FP32 lanes 0 to n − 1 of a run of registers. -/
def Thread.lanesFrom (th : Thread) (r n : Nat) : List Word := (List.range n).map fun i => lane (th.v.get (r + i / 128)) (i % 128)

/-- Registers that a vector of DH lanes takes (R440). -/
def laneRegs (dh : Nat) : Nat := (dh + 127) / 128

/-! ## patt (R440, R441) -/

/-- Fields of s[S+1] of patt. -/
structure PattOp where
  h0 : Nat
  hn : Nat
  qn : Nat
  msk : Option Nat
  csl : Option Nat
  q0 : Nat

def pattOp (v : Dword) : PattOp :=
  { h0 := field v 0 6, hn := field v 8 6 + 1, qn := field v 16 2 + 1, msk := if flag v 20 then some (field v 21 2) else none,
    csl := if flag v 24 then some (field v 25 2) else none, q0 := field v 32 32 }

/-- The queries, head by head. -/
def Thread.queries (th : Thread) (r n dh : Nat) : List (List Word) := (List.range n).map fun i => th.lanesFrom (r + i * laneRegs dh) dh

/-- A selection slot: a dword of centroid bits per head (R428, R447). -/
def Thread.selection (th : Thread) (n : Nat) : List Dword := (List.range 64).map fun h => ~~~(th.selOff.get (64 * n + h))

/-- patt (R440). -/
def execPatt (q : BitVec 5) (a : BitVec 6) (s : State) : Out :=
  finish .atn s (do
    let th := s.me
    let v := s.ns a 0
    let c := s.ns a 1
    let σ := s.ns a 2
    let d := s.ns a 3
    atnNeed s (seqBlkOk v) v
    atnNeed s (bits c 6 2 == 0 && bits c 14 2 == 0 && bits c 18 2 == 0 && !flag c 23 && bits c 27 5 == 0) c
    atnNeed s (bits σ 32 32 == 0) σ
    atnNeed s (destOk d) d
    let g := seqBlk v
    let o := pattOp c
    let es ← atnEntries s g.seq g.blocks
    match es with
    | [] => .ok s
    | e :: _ =>
      if (es.any fun x => !x.like e) || decide (e.hk < o.h0 + o.hn) then atnTrapNone s 3
      if es.any fun x => homeOf x.frame != th.die then atnTrapNone s 4
      if 32 < q.toNat + o.hn * o.qn * laneRegs e.dh then atnTrapNone s 2
      if (match o.msk with | some m => !(th.masks.get m).loaded | none => false) then atnTrapNone s 6
      let len := o.hn * o.qn * (e.dh + 4) * 4
      let dst ← atnDest s d len
      let h := field d 24 6
      atnHandle s h d
      let (j, s) ← takeEntry s .atn 4 (BitVec.ofNat 32 h)
      let s := s.bindHandle th.cluster h th.gang dst len
      let p : Patt :=
        { handle := h, dst := spadKey th.cluster dst, seq := g.seq, blocks := g.blocks, h0 := o.h0, hn := o.hn, qn := o.qn, dh := e.dh,
          mask := o.msk.map th.masks.get, sel := o.csl.map th.selection, q0 := o.q0, scale := bits σ 0 32,
          queries := th.queries q.toNat (o.hn * o.qn) e.dh, parts := [], hdr := none, frame := 0, nf := 0, np := 0, ne := 0 }
      .ok { s with
        tasks := s.tasks.set s.nextTask { work := .patt p, thread := s.cur, die := th.die, cid := th.cid, sb := j, parked := false, page := none, homes := [] }
        nextTask := s.nextTask + 1 })

/-- A partial before anything is combined into it: m = −∞. -/
def startPartial (dh : Nat) : Partial := { m := 0xFF800000, l := 0, o := List.replicate dh 0 }

/-- A partial of a slice; one that nothing has reached is the start. -/
def Patt.part (p : Patt) (k : Nat) : Partial := let x := p.parts.get k; if x.o.isEmpty then startPartial p.dh else x

/-- comb of two partials (R399). -/
def Partial.comb (a b : Partial) : Partial :=
  match mergeTriple (a.m :: a.l :: a.o) (b.m :: b.l :: b.o) with
  | m :: l :: o => { m := m, l := l, o := o }
  | _ => a

/-- The class of a block for the queries of a patt (R441). -/
def Patt.classOf (p : Patt) (fill klo khi : Nat) : Nat :=
  if fill = 0 then (if p.mask.isSome then 0 else 2)
  else match p.mask with
    | none => 2
    | some m => m.classOf (p.q0 : Nat) (p.q0 + p.qn - 1 : Nat) klo khi

/-- Slot p of head h passes for query i. -/
def Patt.passes (x : Patt) (cls : Nat) (pids : List Nat) (clu : Nat) (h i p : Nat) : Bool :=
  (cls != 1 || (match x.mask with | some m => m.lets (x.q0 + i : Nat) (pids.getD p 0 : Nat) | none => true)) &&
  (match x.sel with
    | none => true
    | some sel => clu == 255 || (decide (clu < 64) && flag (sel.getD h 0) clu))

/-- What stops a slice. -/
inductive BlockStop where
  | mem (m : MemStop)
  | poison

/-- Read bytes of a frame for background work: taint of a piece is raised in the thread. -/
def State.blockGet (s : State) (t : Nat) (e : KtmEnt) (off n : Nat) : Except BlockStop (List Byte × State) :=
  match s.blockRead (s.issuer t .atn) e off n with
  | .error m => .error (.mem m)
  | .ok (x, s) => if x.2.1 then .error .poison else .ok (x.1, s.readTaint t .atn false x.2.2)

/-- One slot of one head: its key and value are read if it passes for some query, and combined into the queries' partials. -/
def State.pattSlot (s : State) (t : Nat) (e : KtmEnt) (x : Patt) (cls : Nat) (pids : List Nat) (h p : Nat) : Except BlockStop (Patt × State) := do
  let (cb, s) ← if x.sel.isSome then s.blockGet t e (e.cluOff h p) 1 else .ok ([255], s)
  let is := (List.range x.qn).filter fun i => x.passes cls pids (leNat cb) h i p
  if is.isEmpty then .ok (x, s)
  else
    let (kb, s) ← s.blockGet t e (e.keyOff h p) e.keyBytes
    let (vb, s) ← s.blockGet t e (e.valOff h p) e.keyBytes
    let ks := frameVals e.fmt.toNat kb
    let vs := (frameVals e.fmt.toNat vb).map rneWord
    .ok (is.foldl (fun x i =>
      let n := (h - x.h0) * x.qn + i
      let sc := rneWord (prodVal (f32 x.scale) (dotVal ((x.queries.getD n []).map f32) ks))
      { x with parts := x.parts.set (e.slot * 256 + n) ((x.part (e.slot * 256 + n)).comb { m := sc, l := 0x3F800000, o := vs }) }) x, s)

/-- The slots of a block, slot by slot and head by head. -/
def State.pattSlots (s : State) (t : Nat) (e : KtmEnt) (x : Patt) (cls : Nat) (pids : List Nat) : List (Nat × Nat) → Except BlockStop (Patt × State)
  | [] => .ok (x, s)
  | (p, h) :: rest => do
    let (x, s) ← s.pattSlot t e x cls pids h p
    s.pattSlots t e x cls pids rest

/-- What a block's header gives: the patt with its reading, a wait while the block is compacting, or a header that disagrees. -/
inductive HdrSays where
  | read (x : Patt) (s : State)
  | wait (s : State)
  | shape (s : State)

/-- The header of a patt's present block, read once in its frame (R434, R441). -/
def State.pattHeader (s : State) (t : Nat) (e : KtmEnt) (x : Patt) : Except BlockStop HdrSays :=
  if x.hdr.isSome && x.frame == e.frame then .ok (.read x s)
  else do
    let (hb, s) ← s.blockGet t e 0 32
    if dwIdx hb 2 ≠ e.geometry ∨ e.dh ≠ x.dh ∨ e.hk < x.h0 + x.hn then .ok (.shape s)
    else if hdrState (dwAt hb 0) = 3 then .ok (.wait s)
    else .ok (.read { x with hdr := some (hdrFill (dwAt hb 0), field (dwIdx hb 1) 0 32, field (dwIdx hb 1) 32 32), frame := e.frame } s)

/-- The slots of a block whose header a patt has read: the patt with its partials and counts (R441). -/
def State.pattBlock (s : State) (t : Nat) (e : KtmEnt) (x : Patt) : Except BlockStop (Patt × State) :=
  match x.hdr with
  | none => .ok (x, s)
  | some (fill, klo, khi) => do
    let cls := x.classOf fill klo khi
    let x := if cls = 2 then { x with nf := x.nf + 1, hdr := none } else if cls = 1 then { x with np := x.np + 1, hdr := none }
      else { x with ne := x.ne + 1, hdr := none }
    if cls = 0 ∨ fill = 0 then .ok (x, s)
    else
      let (pb, s) ← if cls = 1 then s.blockGet t e (pidOff 0) (4 * fill) else .ok ([], s)
      s.pattSlots t e x cls (pidsOf pb) ((List.range fill).flatMap fun p => (List.range x.hn).map fun h => (p, x.h0 + h))

/-- What stops background ATN work (R243, R457). -/
def State.atnStop (s : State) (k : Nat) : BlockStop → State
  | .poison => s.failTaint k .atn 0x51
  | .mem m => s.workStop k (s.tasks.get k).thread .atn m

/-- One block of a patt is done by the slice that holds its header. -/
def State.pattStep (s : State) (k : Nat) : State :=
  let t := s.tasks.get k
  match t.work with
  | .patt x =>
    match x.blocks with
    | [] => s
    | b :: rest =>
      if t.parked || s.workHeld k then s
      else match s.ktmAt t.die t.cid x.seq b with
        | none => s.atnStop k (.mem (.fault (kvMiss x.seq b) none))
        | some e =>
          match s.pattHeader t.thread e x with
          | .error m => s.atnStop k m
          | .ok (.wait s) => s
          | .ok (.shape s) => s.failTaint k .atn 0x22
          | .ok (.read x s) =>
            match s.pattBlock t.thread e x with
            | .error m => (s.setTask k fun t => { t with work := .patt x }).atnStop k m
            | .ok (x, s) => s.setTask k fun t => { t with work := .patt { x with blocks := rest } }
  | _ => s

/-- SLICE_PARTIAL_ATTENTION (R441). -/
def execSlicePartialAttention (k : Nat) (s : State) : Out := .next (s.pattStep k)

/-- Neighbours combined (R442). -/
def combPairs : List Partial → List Partial
  | a :: b :: rest => a.comb b :: combPairs rest
  | xs => xs

/-- The merge of the 32 slices for one head and query (R442), a fenced one of which contributes the identity (R462). -/
def Patt.merged (x : Patt) (fenced : Tab Bool) (n : Nat) : Partial :=
  let part := fun (i : Nat) => if fenced.get i then startPartial x.dh else x.part (i * 256 + n)
  ((combPairs (combPairs (combPairs (combPairs (combPairs ((List.range 32).map part)))))).head?).getD (startPartial x.dh)

/-- The bytes of the record of one head and query (R443); a NaN stands in every element (R441). -/
def Partial.bytes (p : Partial) : List Byte :=
  let pad : Word := if (f32 p.m).isNan then nan32 else 0
  (p.m :: p.l :: p.o ++ [pad, pad]).flatMap fun (w : Word) => leBytes 4 w.toNat

/-- The carry network has delivered: the records land, the entry is done and the counters are raised (R443, R444). -/
def State.pattEnd (s : State) (k : Nat) : State :=
  let t := s.tasks.get k
  match t.work with
  | .patt x =>
    if !x.blocks.isEmpty || t.parked || s.workHeld k then s
    else
      let cl := x.dst / 2 ^ 23
      let bs := (List.range (x.hn * x.qn)).flatMap fun n => (x.merged (s.die t.die).sliceBad n).bytes
      let s := (s.spadNow t.thread .atn cl (x.dst % 2 ^ 23) bs).setHandle cl x.handle fun h => h.land bs.length
      (s.modThr t.thread fun th => th.countTiles x.nf x.np x.ne).doneTask k
  | _ => s

/-- PATT_DONE (R444). -/
def execPattDone (k : Nat) (s : State) : Out := .next (s.pattEnd k)

/-! ## Centroid tables (R445) -/

/-- The header of a centroid table. -/
structure CenHdr where
  hc : Nat
  ncen : Nat
  dhc : Nat

/-- A valid header; the six bits of NCEN, 1 to 64, hold 0 for 64. -/
def cenHdr (bs : List Byte) : Option CenHdr :=
  let d := dwAt bs 0
  let n := if field d 8 6 = 0 then 64 else field d 8 6
  if bits d 6 2 ≠ 0 ∨ bits d 14 2 ≠ 0 ∨ bits d 18 46 ≠ 0 ∨ field d 16 2 = 3 ∨ ((bs.drop 8).any fun b => b != 0) then none
  else some { hc := field d 0 6 + 1, ncen := n, dhc := field d 16 2 }

/-- Where a record of a table lies. -/
def cenAt (table ncen dh h c : Nat) : Nat := table + 128 + (h * ncen + c) * (dh + 4) * 4

/-- A record: its count and its centroid. -/
def cenOf (bs : List Byte) : Nat × List Word := let ws := words4 bs; ((ws.getD 0 0).toNat, ws.drop 4)

/-! ## cent (R446) -/

/-- cent (R446). -/
def execCent (a : BitVec 6) (s : State) : Out :=
  finish .atn s (do
    let th := s.me
    let v := s.ns a 0
    let c := s.ns a 1
    let table := s.ns a 2
    atnNeed s (seqSlotOk v) v
    atnNeed s (bits c 6 2 == 0 && bits c 14 2 == 0 && bits c 22 10 == 0) c
    let x := slotOfSeq v
    let n := field c 0 6 + 1
    let h0 := field c 8 6
    let hn := field c 16 6 + 1
    let es ← atnEntries s (seqOf v) (if x / 64 = (x + n - 1) / 64 then [x / 64] else [x / 64, (x + n - 1) / 64])
    if es.any fun e => e.dhc != (es.headD default).dhc || decide (e.hk < h0 + hn) then atnTrapNone s 3
    atnAlign s table.toNat 128
    let (bs, s) ← atnRead s table.toNat 128 true
    match cenHdr bs with
    | none => atnTrapNone s 3
    | some t =>
      if es.any fun e => e.dhc.toNat != t.dhc || decide (e.hk < h0 + hn) || decide (t.hc < h0 + hn) then atnTrapNone s 3
      let (j, s) ← takeEntry s .atn 7 (BitVec.ofNat 32 (seqOf v))
      let w : Cent :=
        { seq := seqOf v, keys := (List.range n).flatMap fun i => (List.range hn).map fun h => (x + i, h0 + h), fills := [], dh := 64 * 2 ^ t.dhc,
          radius := bits c 32 32, table := table.toNat, ncen := t.ncen }
      .ok { s with
        tasks := s.tasks.set s.nextTask { work := .cent w, thread := s.cur, die := th.die, cid := th.cid, sb := j, parked := false, page := none, homes := [] }
        nextTask := s.nextTask + 1 })

/-- x comes before y in a ranking by value, NaN last: `small` for least first. -/
def ranksFirst (small : Bool) (x y : Word) : Bool :=
  if (f32 x).isNan then false else if (f32 y).isNan then true else if small then valLt (f32 x) (f32 y) else valLt (f32 y) (f32 x)

/-- The centroid that a ranking puts first, the lower on ties. -/
def firstRanked (small : Bool) (xs : List (Nat × Word)) : Option (Nat × Word) :=
  xs.foldl (fun b x => match b with | none => some x | some y => if ranksFirst small x.2 y.2 then some x else some y) none

/-- The squared distance of a key and a centroid: exact, one rounding. -/
def distance (k : List FVal) (c : List Word) : Word :=
  let ds := (k.zip c).map fun p => sumVal p.1 (f32 p.2).flip
  rneWord (dotVal ds ds)

/-- t ÷ n, rounded once. -/
def divCount (t : Word) (n : Nat) : Word :=
  match f32 t with
  | .num s a b => rneWord (.num s a (b * n))
  | v => rneWord v

/-- The assignment of a key: the centroid chosen, and its new count and centroid (R446). -/
def assignKey (k : List FVal) (recs : List (Nat × List Word)) (radius : Word) : Option (Nat × Nat × List Word) :=
  let used := (recs.zipIdx.filter fun r => r.1.1 ≠ 0).map fun r => (r.2, distance k r.1.2)
  let free := (recs.zipIdx.find? fun r => r.1.1 = 0).map fun r => r.2
  let join := fun (c : Nat) =>
    let r := recs.getD c (0, [])
    let n := Nat.min (r.1 + 1) (2 ^ 32 - 1)
    some (c, n, (k.zip r.2).map fun p => (fAdd .rne p.2 (divCount (rneWord (sumVal p.1 (f32 p.2).flip)) n)).1)
  match firstRanked true used, free with
  | none, some c => some (c, 1, k.map rneWord)
  | none, none => none
  | some b, some c => if valLt (f32 radius) (f32 b.2) then some (c, 1, k.map rneWord) else join b.1
  | some b, none => join b.1

/-- FILL of a block as this cent reads it: once in a frame, at first (R434); none while the block is compacting. -/
def State.centFill (s : State) (t : Nat) (e : KtmEnt) (x : Cent) : Except BlockStop (Option (Nat × Cent) × State) :=
  match x.fills.find? fun f => f.1 == e.blk && f.2.2 == e.frame with
  | some f => .ok (some (f.2.1, x), s)
  | none => do
    let (hb, s) ← s.blockGet t e 0 16
    let d := dwAt hb 0
    if hdrState d = 3 then .ok (none, s) else .ok (some (hdrFill d, { x with fills := (x.fills.filter fun f => f.1 != e.blk) ++ [(e.blk, hdrFill d, e.frame)] }), s)

/-- Read or check linear memory at home for background work. -/
def State.homeAcc (s : State) (t : Nat) (a n : Nat) (write : Bool) : Except BlockStop (List Acc × State) :=
  match s.accessLin (s.issuer t .atn) a n write 0 with
  | .error m => .error (.mem m)
  | .ok (as, s) => .ok (as.map fun a => { a with ord := 1 }, s)

/-- Assign one key, in one step (R446). -/
def State.centAssign (s : State) (t : Nat) (e : KtmEnt) (x : Cent) (y h : Nat) : Except BlockStop State := do
  let w := s.issuer t .atn
  let p := y % 64
  let size := (x.dh + 4) * 4
  let (kb, s) ← s.blockGet t e (e.keyOff h p) e.keyBytes
  let (as, s) ← s.homeAcc t (cenAt x.table x.ncen x.dh h 0) (x.ncen * size) false
  let r := s.loadAccs w as
  if r.1.2 then .error .poison
  else
    let s := r.2.readTaint t .atn false (s.accsTaint w as)
    let recs := (List.range x.ncen).map fun c => cenOf ((r.1.1.drop (c * size)).take size)
    match assignKey (frameVals e.fmt.toNat kb) recs x.radius with
    | none => .ok s
    | some (c, n, v) =>
      let (ws, s) ← s.homeAcc t (cenAt x.table x.ncen x.dh h c) size true
      match s.blockMay w e [(e.cluOff h p, 1)] with
      | .error m => .error (.mem m)
      | .ok _ =>
        let s := s.storeAccs w ws (leBytes 4 n ++ (r.1.1.drop (c * size + 4)).take 12 ++ v.flatMap fun z => leBytes 4 z.toNat)
        .ok (s.blockPut w e (e.cluOff h p) [BitVec.ofNat 8 c])

/-- An earlier cent of the same thread is still under way (R446). -/
def State.centEarlier (s : State) (k t : Nat) : Bool :=
  s.tasks.any fun e => decide (e.1 < k) && e.2.thread == t && (match e.2.work with | .cent _ => true | _ => false)

/-- The next key of a cent. -/
def State.centStep (s : State) (k : Nat) : State :=
  let t := s.tasks.get k
  match t.work with
  | .cent x =>
    if t.parked || s.workHeld k || s.centEarlier k t.thread then s
    else match x.keys with
      | [] => s
      | (y, h) :: rest =>
        let next := fun (s : State) (x : Cent) =>
          if rest.isEmpty then s.doneTask k else s.setTask k fun t => { t with work := .cent { x with keys := rest } }
        match s.ktmAt t.die t.cid x.seq (y / 64) with
        | none => s.atnStop k (.mem (.fault (kvMiss x.seq (y / 64)) none))
        | some e =>
          match s.centFill t.thread e x with
          | .error m => s.atnStop k m
          | .ok (none, s) => s
          | .ok (some (fill, x), s) =>
            if fill ≤ y % 64 ∨ e.hk ≤ h ∨ e.dh ≠ x.dh then next s x
            else match s.centAssign t.thread e x y h with
              | .error m => (s.setTask k fun t => { t with work := .cent x }).atnStop k m
              | .ok s => next s x
  | _ => s

/-- CENT_KEY_UPDATE (R446). -/
def execCentKeyUpdate (k : Nat) (s : State) : Out := .next (s.centStep k)

/-! ## csel (R447) -/

/-- The k best of a ranking, in order. -/
def bestOf : (k : Nat) → List (Nat × Word) → List Nat
  | 0, _ => []
  | k + 1, xs => match firstRanked false xs with
    | none => []
    | some b => b.1 :: bestOf k (xs.filter fun x => x.1 ≠ b.1)

/-- The winners' bits of a head. -/
def selectBits (q : List Word) (recs : List (Nat × List Word)) (k : Nat) : Dword :=
  let xs := (recs.zipIdx.filter fun r => r.1.1 ≠ 0).map fun r => (r.2, rneWord (dotVal (q.map f32) (r.1.2.map f32)))
  (bestOf k xs).foldl (fun d c => d ||| BitVec.ofNat 64 (2 ^ c)) 0

/-- csel (R447). -/
def execCsel (q : BitVec 5) (a : BitVec 6) (s : State) : Out :=
  finish .atn s (do
    let th := s.me
    let table := s.ns a 0
    let c := s.ns a 1
    atnNeed s (bits c 6 2 == 0 && bits c 14 2 == 0 && bits c 20 4 == 0 && bits c 26 38 == 0) c
    let h0 := field c 0 6
    let hn := field c 8 6 + 1
    atnAlign s table.toNat 128
    let (bs, s) ← atnRead s table.toNat 128 true
    match cenHdr bs with
    | none => atnTrapNone s 3
    | some t =>
      let dh := 64 * 2 ^ t.dhc
      if t.hc < h0 + hn then atnTrapNone s 3
      if 32 < q.toNat + hn * laneRegs dh then atnTrapNone s 2
      let size := (dh + 4) * 4
      let (rs, s) ← atnRead s (cenAt table.toNat t.ncen dh h0 0) (hn * t.ncen * size) true
      let recs := fun h => (List.range t.ncen).map fun c => cenOf ((rs.drop ((h * t.ncen + c) * size)).take size)
      let n := field c 24 2
      .ok (s.modMe fun th' => { th' with
        selOff := (List.range 64).foldl (fun m h =>
          m.set (64 * n + h) (if h0 ≤ h ∧ h < h0 + hn then
            ~~~(selectBits (th.lanesFrom (q.toNat + (h - h0) * laneRegs dh) dh) (recs (h - h0)) (field c 16 4 + 1)) else 0)) th'.selOff }))

/-! ## Retention (R449) -/

/-- Where the retention bytes of slots x to x + n − 1 and heads go, block by block: entry, offset, bytes. -/
def retnParts (es : List KtmEnt) (x n h0 hn : Nat) (bs : List Byte) : List (KtmEnt × Nat × List Byte) :=
  es.flatMap fun e => (List.range hn).map fun h =>
    let is := (List.range n).filter fun i => (x + i) / 64 == e.blk
    (e, retOff (h0 + h) ((x + is.headD 0) % 64), is.map fun i => bs.getD (h * n + i) 0)

/-- Check that parts may be written. -/
def retnMay (s : State) : List (KtmEnt × Nat × List Byte) → Except Exit Unit
  | [] => .ok ()
  | (e, off, bs) :: rest => do
    liftMem s (s.blockMay (s.issuer s.cur .atn) e [(off, bs.length)])
    retnMay s rest

/-- The bytes of a retn, sampled at issue: one that waits keeps them (R449). -/
def retnSample (bytes : State → Except Exit (List Byte × State)) (s : State) : Except Exit (List Byte × State) :=
  match s.me.atnData with
  | some bs => .ok (bs, s)
  | none => do
    let (bs, s) ← bytes s
    .ok (bs, s.modMe fun th => { th with atnData := some bs })

/-- The common part of retn and retn.q: `bytes` gives the H × n bytes. -/
def retnWord (s : State) (v c : Dword) (bytes : State → Except Exit (List Byte × State)) : Except Exit State := do
  let x := slotOfSeq v
  let n := field c 0 6 + 1
  let h0 := field c 8 6
  let hn := field c 16 6 + 1
  let es ← atnEntries s (seqOf v) (if x / 64 = (x + n - 1) / 64 then [x / 64] else [x / 64, (x + n - 1) / 64])
  let (bs, s) ← retnSample bytes s
  let (ds, s) ← atnHeaders s es
  if ds.any fun d => hdrState d == 3 then holdAt s .outside
  else
    let short := (es.zip ds).any fun p => decide (p.1.hk < h0 + hn) ||
      (List.range n).any fun i => (x + i) / 64 == p.1.blk && decide (hdrFill p.2 ≤ (x + i) % 64)
    if short then atnTrapNone s 7
    else
      let ps := retnParts es x n h0 hn bs
      retnMay s ps
      .ok ((ps.foldl (fun s p => s.blockPut (s.issuer s.cur .atn) p.1 p.2.1 p.2.2) s).modMe fun th => { th with atnData := none })

/-- The reserved bits of s[S+1] of retn. -/
def retnOk (c : Dword) : Bool := bits c 6 2 == 0 && bits c 14 2 == 0 && bits c 22 42 == 0

/-- retn (R449). -/
def execRetn (a b : BitVec 6) (s : State) : Out :=
  finish .atn s (do
    let v := s.ns a 0
    let c := s.ns a 1
    atnNeed s (seqSlotOk v) v
    atnNeed s (retnOk c) c
    let len := (field c 0 6 + 1) * (field c 16 6 + 1)
    retnWord s v c fun s => do
      let src ← atnPlace s (s.ns b 0) len
      atnScratch s src len)

/-- retn.q (R449). -/
def execRetnQ (a : BitVec 6) (s : State) : Out :=
  finish .atn s (do
    let v := s.ns a 0
    let c := s.ns a 1
    atnNeed s (seqSlotOk v) v
    atnNeed s (retnOk c && bits c 0 6 == 0 && decide (field c 16 6 < 8)) c
    match s.me.qs.get 9 with
    | [] => holdAt s (.popEmpty 9)
    | x :: _ =>
      let s ← retnWord s v c fun s => .ok (leBytes 8 x.toNat, s)
      .ok (s.modMe fun th => th.dropS 9))

/-! ## The sieve (R450) -/

/-- sieve (R450). -/
def execSieve (a : BitVec 6) (s : State) : Out :=
  finish .atn s (do
    let th := s.me
    let v := s.ns a 0
    let at_ := s.ns a 1
    atnNeed s (seqBlkOk v) v
    let g := seqBlk v
    let _ ← atnEntries s g.seq g.blocks
    atnAlign s at_.toNat 16
    let (j, s) ← takeEntry s .atn 10 (BitVec.ofNat 32 g.seq)
    let w : Sieve := { seq := g.seq, b0 := g.b0, nb := g.nb, recAt := at_.toNat, thr := th.mthr, prior := [], ents := [], moving := false }
    .ok { s with
      tasks := s.tasks.set s.nextTask { work := .sieve w, thread := s.cur, die := th.die, cid := th.cid, sb := j, parked := false, page := none, homes := [] }
      nextTask := s.nextTask + 1 })

/-- Dwords 0 of the headers of a segment, with the right to write them. -/
def State.sieveHeaders (s : State) (t : Nat) : List KtmEnt → Except BlockStop (List Dword × State)
  | [] => .ok ([], s)
  | e :: es => do
    let (hb, s) ← s.blockGet t e 0 16
    match s.blockMay (s.issuer t .atn) e [(0, 16)] with
    | .error m => .error (.mem m)
    | .ok _ =>
      let (ds, s) ← s.sieveHeaders t es
      .ok (dwAt hb 0 :: ds, s)

/-- A token of a block: position id, retention and cluster ids by head, key and value bytes by head. -/
structure Token where
  pid : List Byte
  ret : List Byte
  clu : List Byte
  keys : List (List Byte)
  vals : List (List Byte)

/-- A byte or a run of a whole frame's bytes. -/
def cut (f : List Byte) (off n : Nat) : List Byte := (f.drop off).take n

/-- Token p of a frame. -/
def tokenOf (e : KtmEnt) (f : List Byte) (p : Nat) : Token :=
  let hs := List.range e.hk
  { pid := cut f (pidOff p) 4, ret := hs.flatMap fun h => cut f (retOff h p) 1, clu := hs.flatMap fun h => cut f (e.cluOff h p) 1,
    keys := hs.map fun h => cut f (e.keyOff h p) e.keyBytes, vals := hs.map fun h => cut f (e.valOff h p) e.keyBytes }

/-- The token is kept: some head's retention byte is at least THR. -/
def Token.kept (x : Token) (thr : BitVec 8) : Bool := x.ret.any fun b => decide (thr.toNat ≤ b.toNat)

/-- The tokens of a segment, in increasing slot, with how many stood in it. -/
def State.sieveTokens (s : State) (t : Nat) : List (KtmEnt × Dword) → Except BlockStop (List Token × State)
  | [] => .ok ([], s)
  | (e, d) :: rest => do
    let (f, s) ← s.blockGet t e 0 e.size
    match s.blockMay (s.issuer t .atn) e [(0, e.size)] with
    | .error m => .error (.mem m)
    | .ok _ =>
      let (xs, s) ← s.sieveTokens t rest
      .ok ((List.range (hdrFill d)).map (tokenOf e f) ++ xs, s)

/-- Put a token at slot p of a block. -/
def State.putToken (s : State) (w : Issuer) (e : KtmEnt) (p : Nat) (x : Token) : State :=
  let s := s.blockPut w e (pidOff p) x.pid
  (List.range e.hk).foldl (fun s h =>
    (((s.blockPut w e (retOff h p) (cut x.ret h 1)).blockPut w e (e.cluOff h p) (cut x.clu h 1)).blockPut w e (e.keyOff h p) (x.keys.getD h [])).blockPut w e
      (e.valOff h p) (x.vals.getD h [])) s

/-- Fill a block with the tokens that fall to it. -/
def State.fillBlock (s : State) (w : Issuer) (e : KtmEnt) (xs : List Token) : State :=
  let s := xs.zipIdx.foldl (fun s x => s.putToken w e x.2 x.1) s
  s.blockPut w e 0 (hdrBytes (stateOfFill xs.length) xs.length (xs.map fun x => leNat x.pid))

/-- The frames of the blocks whose headers a piece of work has read and has not finished reading (R434). -/
def Work.reading (w : Work) : List Nat :=
  match w with
  | .cent x => (x.fills.filter fun f => x.keys.any fun k => k.1 / 64 == f.1).map fun f => f.2.2
  | .patt x => if x.hdr.isSome then [x.frame] else []
  | _ => []

/-- A patt or cent of any context that has read the header of one of these frames has not finished reading it (R434). -/
def State.readersOf (s : State) (frames : List Nat) : Bool := s.tasks.any fun e => e.2.work.reading.any frames.contains

/-- The sieve begins: its blocks become compacting, or it fails with status 2 (R450); a header found poisoned ends it as an abort before any move does, with status 3
(R452, R457). -/
def State.sieveBegin (s : State) (k : Nat) (t : Task) (v : Sieve) (es : List KtmEnt) : State :=
  match s.sieveHeaders t.thread es with
  | .error .poison => (s.sieveRecord t.thread v.recAt 3 0).failTaint k .atn 0x51
  | .error m => s.atnStop k m
  | .ok (ds, s) =>
    let like := match es with | e :: rest => rest.all fun x => x.like e | [] => true
    if !like || ds.any fun d => hdrState d == 0 || hdrState d == 3 then
      match s.homeAcc t.thread v.recAt 16 true with
      | .error m => s.atnStop k m
      | .ok (_, s) => (s.sieveRecord t.thread v.recAt 2 0).stopTask k .failed
    else
      let s := es.foldl (fun s e => s.setBlockState e 3) s
      s.setTask k fun t => { t with work := .sieve { v with prior := ds.map hdrState, ents := es } }

/-- A sieve stops before any token has moved (R452). -/
def State.sieveStay (s : State) (k : Nat) (v : Sieve) (m : BlockStop) : State :=
  (s.setTask k fun t => { t with work := .sieve { v with moving := false } }).atnStop k m

/-- The tokens move, the headers are set, emptied blocks lose their entries, and the record is written (R450). -/
def State.sieveMove (s : State) (k : Nat) (t : Task) (v : Sieve) (es : List KtmEnt) : State :=
  let back := fun (s : State) => (s.sieveRestore v).sieveRecord t.thread v.recAt 3 0
  match s.homeAcc t.thread v.recAt 16 true with
  | .error m => s.sieveStay k v m
  | .ok (_, s) =>
    match s.sieveHeaders t.thread es with
    | .error .poison => (back s).failTaint k .atn 0x51
    | .error m => s.sieveStay k v m
    | .ok (ds, s) =>
      match s.sieveTokens t.thread (es.zip ds) with
      | .error .poison => (back s).failTaint k .atn 0x51
      | .error m => s.sieveStay k v m
      | .ok (xs, s) =>
        let kept := xs.filter fun x => x.kept v.thr
        let w := s.issuer t.thread .atn
        let s := es.zipIdx.foldl (fun s e => s.fillBlock w e.1 ((kept.drop (64 * e.2)).take 64)) s
        let left := (kept.length + 63) / 64
        let s := { s with ktm := s.ktm.filter fun e =>
          !(e.die == t.die && e.cid == t.cid && e.seq == v.seq && decide (v.b0 + left ≤ e.blk) && decide (e.blk < v.b0 + v.nb)) }
        (s.sieveRecord t.thread v.recAt (BitVec.ofNat 64 (kept.length + (xs.length - kept.length) * 2 ^ 32)) 1).doneTask k

/-- One step of a sieve: it sets its blocks compacting, waits for their readers, then moves the tokens. Where a block has come to lie in another frame since, those set
are restored and it begins anew. -/
def State.sieveStep (s : State) (k : Nat) : State :=
  let t := s.tasks.get k
  match t.work with
  | .sieve v =>
    if t.parked || s.workHeld k then s
    else match s.ktmRun t.die t.cid v.seq ((List.range v.nb).map fun i => v.b0 + i) with
      | .error b => s.sieveStay k v (.mem (.fault (kvMiss v.seq b) none))
      | .ok es =>
        if v.ents.isEmpty then s.sieveBegin k t v es
        else if es.map (fun e => e.frame) ≠ v.ents.map fun e => e.frame then
          (s.sieveRestore v).setTask k fun t => { t with work := .sieve { v with prior := [], ents := [], moving := false } }
        else if s.readersOf (es.map fun e => e.frame) then s
        else if !v.moving then s.setTask k fun t => { t with work := .sieve { v with moving := true } }
        else s.sieveMove k t v es
  | _ => s

/-- SIEVE_COMPACT (R450). -/
def execSieveCompact (k : Nat) (s : State) : Out := .next (s.sieveStep k)

/-! ## await (R451, R452) -/

/-- The current thread has a pending ATN entry. -/
def State.atnPending (s : State) : Bool := s.me.sbAny fun x => x.eng == .atn && x.st == .pending

/-- await (R451). -/
def execAwait (s : State) : Out := finish .atn s (if s.atnPending then holdAt s .outside else .ok (s.acquire s.cur))

/-- await.abort (R452). -/
def execAwaitAbort (s : State) : Out :=
  finish .atn s (
    let s := s.abortAll s.cur true fun e => e == .atn
    if s.atnPending then holdAt s .outside else .ok s)

end Sys2Proof.Machine
end

