-- ==== Sys2Proof/Machine/Nodes.lean ====
section
/-! DEFINITION. Graph nodes: launch bodies (R170, R171), identity and room (R172, R173), dependences (R174), admission (R167, R168, R176, R186, R187),
entry into the graph scheduler, and the events that end a node (R177, R189). -/

namespace Sys2Proof.Machine

/-! ## Launch bodies (R170) -/

/-- The eight dwords of a launch body. -/
abbrev Body := List Dword

/-- The body in 64 bytes. -/
def bodyOf (bs : List Byte) : Body := (List.range 8).map (dwIdx bs)

/-- Dword i of a body. -/
def Body.dw (b : Body) (i : Nat) : Dword := b.getD i 0

/-- The header of a body is in form: KIND is launch, reserved bits 0, and BAR 0 in a list entry (R154, R171). -/
def Body.headerOk (b : Body) (list : Bool) : Bool :=
  bits (b.dw 0) 0 8 == 0x01 && bits (b.dw 0) 10 22 == 0 && !(list && flag (b.dw 0) 9)

/-- GANGS, DIES, the reserved bits of dwords 1 to 7 and the alignment of ARGS, CREC and NEST are as R170 has them. -/
def Body.restOk (b : Body) : Bool :=
  bits (b.dw 3) 0 32 != 0 && bits (b.dw 3) 32 8 != 0 && bits (b.dw 3) 40 24 == 0 && ([1, 2, 4, 5].all fun i => bits (b.dw i) 57 7 == 0) &&
  b.dw 6 == 0 && b.dw 7 == 0 && bits (b.dw 2) 0 4 == 0 && bits (b.dw 4) 0 6 == 0 && bits (b.dw 5) 0 5 == 0

/-- The body keeps R170. -/
def Body.ok (b : Body) (list : Bool) : Bool := b.headerOk list && b.restOk && bits (b.dw 1) 0 6 == 0

/-- An address field of a body. -/
def Body.addr (b : Body) (i : Nat) : Nat := field (b.dw i) 0 57

/-! ## Room (R173) -/

/-- The nodes in flight of a context. -/
def State.inFlight (s : State) (cid : Nat) : Nat := (s.nodes.filter fun e => e.2.st.inFlight && e.2.cid == cid).length

/-- The nodes in flight whose gangs may be placed on a die. -/
def State.inFlightOn (s : State) (d : Nat) : Nat := (s.nodes.filter fun e => e.2.st.inFlight && flag e.2.dies (d % 8)).length

/-- The scheduler has room for `n` nodes of a context with a die mask. -/
def State.nodeRoom (s : State) (cid : Nat) (dies : BitVec 8) (n : Nat) : Bool :=
  decide (s.inFlight cid + n ≤ 16384) && (s.presentDies.filter fun d => flag dies (d % 8)).all fun d => decide (s.inFlightOn d + n ≤ 4096)

/-- A graph packet of the context, other than that of queue `q`, has entered some of its nodes and not the last: since its nodes are consecutive, nothing else
enters between them (R171). -/
def State.listing (s : State) (cid : Nat) (q : Option Nat) : Bool :=
  s.queues.any fun e => some e.1 != q && e.2.cid == cid && e.2.st == .active && !e.2.entered.isEmpty

/-! ## Admission (R176) -/

/-- What admission finds: the order point waits for a migrating page, a reason for rejection, or the header, the ranges and the nest descriptor. -/
inductive Admission where
  | wait
  | reject (reason : Nat)
  | enter (h : List Dword) (ranges : List NRange) (nest : List Dword)
deriving DecidableEq, Repr

/-- CORES of a die (R23). -/
def State.coresOf (s : State) (d : Nat) : Nat := ((List.range 256).filter fun c => !(s.die d).coreBad.get c).length

/-- A read by the order point as the context: a fault or an unreadable granule is reason 6. -/
def admissionRead (s : State) (cid va n : Nat) : Except Admission (List Byte × State) :=
  match s.agentRead (s.orderDie cid) cid va n with
  | .ok ((bs, false), s) => .ok (bs, s)
  | .ok ((_, true), _) => .error (.reject 6)
  | .error (.migrating _) => .error .wait
  | .error (.fault _ _) => .error (.reject 6)

/-- MEMBERS fits the level and the dies (R82, reason 4). -/
def State.membersOk (s : State) (level members : Nat) (dies : BitVec 8) : Bool :=
  let ds := s.presentDies.filter fun d => flag dies (d % 8)
  match level with
  | 0 => members == 1
  | 1 => members == 4
  | 2 => members == 8
  | 3 => decide (1 ≤ members) && decide (members ≤ 256) && ds.any fun d => decide (members ≤ s.coresOf d)
  | 4 => decide (1 ≤ members) && decide (members ≤ 65536) && decide (members ≤ ds.foldl (fun n d => n + s.coresOf d) 0)
  | _ => false

/-- A header dword. -/
abbrev hd (h : List Dword) (i : Nat) : Dword := h.getD i 0
/-- NARG. -/
def hdNarg (h : List Dword) : Nat := field (hd h 3) 28 4
/-- LEVEL. -/
def hdLevel (h : List Dword) : Nat := field (hd h 3) 24 3
/-- SCRATCH. -/
def hdScratch (h : List Dword) : Nat := field (hd h 3) 0 24
/-- MEMBERS. -/
def hdMembers (h : List Dword) : Nat := field (hd h 3) 32 17
/-- TSIZE. -/
def hdTsize (h : List Dword) : Nat := field (hd h 1) 0 32
/-- DSIZE. -/
def hdDsize (h : List Dword) : Nat := field (hd h 1) 32 32

/-- Reason 1 does not hold: the header is one (R167). -/
def headerForm (h : List Dword) : Bool :=
  bits (hd h 0) 0 32 == 0x4E4B5453 && bits (hd h 0) 32 16 == 1 && bits (hd h 0) 48 16 == 0 && bits (hd h 3) 49 15 == 0 && bits (hd h 4) 16 48 == 0 &&
  hd h 5 == 0 && hd h 6 == 0 && hd h 7 == 0 && decide (hdNarg h ≤ 8) && decide (field (hd h 4) 0 16 < 4 ^ hdNarg h)

/-- Reason 2 does not hold: text and data lie as R167 says. -/
def textForm (h : List Dword) : Bool :=
  hdTsize h % 4 == 0 && hdTsize h != 0 && decide (hdTsize h ≤ 262144) && bits (hd h 2) 0 6 == 0 && bits (hd h 2) 32 6 == 0

/-- Reason 3 does not hold: the share. -/
def scratchForm (h : List Dword) : Bool :=
  hdScratch h % 128 == 0 && decide (hdScratch h ≤ 2 ^ 23) && decide (hdDsize h ≤ hdScratch h) &&
  !((hdLevel h == 1 || hdLevel h == 2) && decide (2 ^ 23 < 4 * hdScratch h))

/-- Reasons 1 to 5 on a header that was read. -/
def State.headerReason (s : State) (cid : Nat) (b : Body) (h : List Dword) : Option Nat :=
  if !headerForm h then some 1
  else if !textForm h then some 2
  else if !scratchForm h then some 3
  else if !s.membersOk (hdLevel h) (hdMembers h) (bits (b.dw 3) 32 8) then some 4
  else if (s.ctxs.get cid).det && !flag (hd h 3) 27 then some 5
  else none

/-- The ranges of an argument block (R168). -/
def rangesOf (h : List Dword) (bs : List Byte) : List NRange :=
  (List.range (hdNarg h)).map fun i =>
    { kind := bits (hd h 4) (2 * i) 2, base := field (dwAt bs (16 * i)) 0 57, len := (dwAt bs (16 * i + 8)).toNat }

/-- No argument entry breaks R168 (reason 9). -/
def argsOk (h : List Dword) (bs : List Byte) : Bool :=
  (List.range (hdNarg h)).all fun i =>
    bits (hd h 4) (2 * i) 2 == (3 : BitVec 2) ||
      (bits (dwAt bs (16 * i)) 57 7 == 0 && decide (field (dwAt bs (16 * i)) 0 57 + (dwAt bs (16 * i + 8)).toNat ≤ 2 ^ 57))

/-- A nest descriptor keeps R187. -/
def nestOk (nd : List Dword) : Bool :=
  let d0 := nd.getD 0 0
  let nl := field d0 0 3
  let perm := (List.range 4).map fun j => field d0 (4 + 2 * j) 2
  let trip := fun k => field (nd.getD (1 + k / 2) 0) (32 * (k % 2)) 32
  decide (1 ≤ nl) && decide (nl ≤ 4) && ((List.range nl).all fun k => (perm.take nl).contains k) && ((perm.drop nl).all fun x => x == 0) &&
  ((List.range 4).all fun k => decide (k < nl) || trip k == 0) && decide (nestTotal nd < 2 ^ 63) && !flag d0 3 && bits d0 12 52 == 0 &&
  bits (nd.getD 3 0) 57 7 == 0

/-- The reads and checks of admission, in order of reason. -/
def admissionOf (s : State) (cid : Nat) (b : Body) (list : Bool) : Except Admission (Admission × State) :=
  if list && !b.ok true then .error (.reject 10)
  else if bits (b.dw 1) 0 6 ≠ 0 then .error (.reject 1)
  else do
    let (hb, s) ← admissionRead s cid (b.addr 1) 64
    let h := (List.range 8).map (dwIdx hb)
    match s.headerReason cid b h with
    | some r => .error (.reject r)
    | none => do
      let (ab, s) ← admissionRead s cid (b.addr 2) (16 * hdNarg h)
      let (nb, s) ← if b.addr 5 = 0 then .ok ([], s) else admissionRead s cid (b.addr 5) 32
      let nest := if b.addr 5 = 0 then [] else (List.range 4).map (dwIdx nb)
      if b.addr 5 ≠ 0 ∧ !nestOk nest then .error (.reject 7)
      else if !b.restOk then .error (.reject 8)
      else if !argsOk h ab then .error (.reject 9)
      else .ok (.enter h (rangesOf h ab) nest, s)

/-- The answer of admission. -/
def State.admission (s : State) (cid : Nat) (b : Body) (list : Bool) : Admission × State :=
  match admissionOf s cid b list with
  | .ok x => x
  | .error a => (a, s)

/-! ## Entry into the scheduler (R172, R174, R177) -/

/-- Two ranges make one node depend on the other (R174). -/
def NRange.meets (a b : NRange) : Bool :=
  a.kind != 3 && b.kind != 3 && (a.kind != 0 || b.kind != 0) && overlap a.base a.len b.base b.len

/-- The nodes on which a node with these ranges and ancestors depends. -/
def State.predsOf (s : State) (cid : Nat) (ranges : List NRange) (ancestors : List Nat) : List Nat :=
  (s.nodes.filter fun e =>
    e.2.cid == cid && e.2.st.inFlight && !ancestors.contains e.1 && e.2.ranges.any fun y => ranges.any fun x => x.meets y).map Prod.fst

/-- The next node id of a context: 0 is skipped. -/
def Ctx.nextId (c : Ctx) : BitVec 32 := if c.lastNode + 1 = 0 then 1 else c.lastNode + 1

/-- What a node is launched by: its queue and packet ordinal, its seed key, its ancestors and their gangs. -/
structure Origin where
  qid : Option Nat
  ordinal : Nat
  seedKey : Dword
  parents : List Nat
  byGangs : List Nat

/-- The node of a body as it is accepted. -/
def nodeOf (cid : Nat) (nid : BitVec 32) (b : Body) (o : Origin) : Node :=
  { (default : Node) with
    cid := cid, nid := nid, image := b.addr 1, args := b.addr 2, gangs := field (b.dw 3) 0 32, dies := bits (b.dw 3) 32 8, crec := b.addr 4, nest := b.addr 5,
    irq := flag (b.dw 0) 8, ptag := bits (b.dw 0) 32 32, qid := o.qid, ordinal := o.ordinal, seedKey := o.seedKey, parents := o.parents, byGangs := o.byGangs }

/-- An admitted node takes what its image declares. -/
def Node.declared (x : Node) (h : List Dword) (ranges : List NRange) (nest : List Dword) (preds : List Nat) : Node :=
  { x with
    st := .waiting, tsize := hdTsize h, dsize := hdDsize h, toff := field (hd h 2) 0 32, doff := field (hd h 2) 32 32, scratch := hdScratch h,
    level := hdLevel h, members := hdMembers h, ranges := ranges, nestD := nest, preds := preds }

/-- Enter a node: it takes the next id of its context; admitted it waits for its predecessors or is ready, else it ends rejected (R177). The answer is
its key. -/
def State.enterNode (s : State) (cid : Nat) (b : Body) (a : Admission) (o : Origin) : Nat × State :=
  let nid := (s.ctxs.get cid).nextId
  let n := nodeKey cid nid.toNat
  let x := { nodeOf cid nid b o with place := (s.ctxs.get cid).entries }
  let s : State := { s with ctxs := s.ctxs.mod cid fun c => { c with lastNode := nid, entries := c.entries + 1 } }
  match a with
  | .enter h ranges nest =>
    let preds := s.predsOf cid ranges o.parents
    let s : State := { s with nodes := s.nodes.set n (x.declared h ranges nest preds) }
    (n, if preds.isEmpty then s.readyNode n else s)
  | .reject r =>
    (n, State.completeNode { s with nodes := s.nodes.set n { x with st := .ending, verdict := 4, reason := BitVec.ofNat 8 r } } n)
  | .wait => (n, s)

/-! ## The end of a node (R177, R185, R189) -/

/-- The last gang's threads have ended: the verdict is fixed. -/
def State.endNode (s : State) (n : Nat) : State :=
  let x := s.nodes.get n
  if x.st = .running ∧ x.given = x.gangs ∧ x.live = 0 then s.modNode n Node.decide else s

/-- NODE_ENDING (R177). -/
def execNodeEnding (n : Nat) (s : State) : Out := .next (s.endNode n)

/-- NODE_COMPLETION_RECORD (R189). -/
def execNodeCompletionRecord (n : Nat) (s : State) : Out := .next (if (s.nodes.get n).st = .ending then s.completeNode n else s)

end Sys2Proof.Machine
end

