-- ==== Sys2Proof/Machine/Host.lean ====
section
/-! DEFINITION. The host's side: command queues (R148 to R153, R157), packets (R154 to R156, R395), contexts (R115, R117), events and the adapter card
(R150, R158, R421, R486). Queues are keyed 4,096 × package + QID, ports 2 × package + port. -/

namespace Sys2Proof.Machine

/-! ## Queues -/

/-- The die that carries a queue's port (R148). -/
def HQueue.die (x : HQueue) : Nat := x.port / 2 * 8 + x.port % 2 * 7

/-- The queue is an admin queue (R148). -/
def isAdmin (q : Nat) : Bool := decide (q % 4096 < 2)

/-- The packet at HEAD of a queue (R149). -/
def State.packet (s : State) (q : Nat) : Body :=
  let x := s.queues.get q
  bodyOf (s.hostMem.getRange (x.base + 64 * (x.head.toNat % 2 ^ x.l)) 64)

/-- The port of a queue fetches: it is usable, and for an admin queue the device can hold further events (R158, R421). -/
def State.fetches (s : State) (q : Nat) : Bool :=
  let x := s.queues.get q
  x.head != x.tail && s.portUp x.port && !(isAdmin q && decide (4096 ≤ (s.admin.get x.port).eventsHeld))

/-- The priority of a queue's context (R115). -/
def State.queuePrio (s : State) (q : Nat) : Nat := (s.ctxs.get (s.queues.get q).cid).prio.toNat

/-- The queues of a port that are active and hold packets it may fetch, in QID order. -/
def State.portQueues (s : State) (p : Nat) : List Nat :=
  (s.queues.filter fun e => e.2.st == .active && e.2.port == p && s.fetches e.1).map Prod.fst

/-- The queue whose turn it is among those of one priority: the one whose turn goes on, else the next QID (R152). -/
def PortTurn.next (a : PortTurn) (wt : Nat) (ks : List Nat) : Option Nat :=
  if ks.contains a.queue ∧ a.took < wt then some a.queue
  else match ks.find? fun k => decide (a.queue < k) with
    | some k => some k
    | none => ks.head?

/-- The queue that a port serves now: an admin queue first, then by priority, then by turns (R152). -/
def State.served (s : State) (p : Nat) : Option Nat :=
  let ks := s.portQueues p
  match ks.find? isAdmin with
  | some k => some k
  | none =>
    let top := ks.foldl (fun m k => Nat.max m (s.queuePrio k)) 0
    let a := (s.admin.get p).turns.get top
    a.next (s.queues.get a.queue).wt (ks.filter fun k => s.queuePrio k = top)

/-- After the packet at HEAD `h` of a served queue was met: it counts in the turn of its priority, which ends early when the queue empties or did not
take the packet (R152; DEDUCED, log entry 14). -/
def State.countTurn (s : State) (q : Nat) (h : BitVec 32) : State :=
  let x := s.queues.get q
  if isAdmin q then s
  else
    let ends := x.head == h || x.head == x.tail
    { s with
      admin := s.admin.mod x.port fun p =>
        { p with turns := p.turns.mod (s.queuePrio q) fun a =>
            { queue := q, took := if ends then 16 else if a.queue = q ∧ a.took < x.wt then a.took + 1 else 1 } } }

/-- Reserved bits of a packet's body and the values its fields may hold (R154, R156, R395). The address of a wait, signal or reshard-on-behalf packet and the
HREP of a qattach must be multiples of 8; one that is not makes the packet malformed (DEDUCED, log entry 86). -/
def bodyForm (b : Body) : Bool :=
  let z := fun is => (is : List Nat).all fun i => b.dw i == 0
  match field (b.dw 0) 0 8 with
  | 1 => true
  | 2 => bits (b.dw 2) 13 51 == 0 && decide (1 ≤ field (b.dw 2) 0 13) && decide (field (b.dw 2) 0 13 ≤ 4096) && z [3, 4, 5, 6, 7]
  | 3 => z [2, 3, 4, 5, 6, 7]
  | 4 => z [1, 2, 3, 4, 5, 6, 7]
  | 5 => bits (b.dw 1) 60 4 == 0 && z [2, 3, 4, 5, 6, 7]
  | 6 => bits (b.dw 1) 0 3 == 0 && bits (b.dw 3) 2 62 == 0 && z [4, 5, 6, 7]
  | 7 => bits (b.dw 1) 0 3 == 0 && z [3, 4, 5, 6, 7]
  | 8 => bits (b.dw 1) 8 56 == 0 && bits (b.dw 4) 57 7 == 0 && bits (b.dw 4) 0 3 == 0 && z [3, 5, 6, 7]
  | 9 =>
    match field (b.dw 1) 0 8 with
    | 1 => bits (b.dw 1) 23 41 == 0 && bits (b.dw 2) 57 7 == 0 && bits (b.dw 3) 57 7 == 0 && bits (b.dw 4) 16 16 == 0 && z [6, 7]
    | 2 => bits (b.dw 1) 18 46 == 0 && z [2, 3, 4, 5, 6, 7]
    | 3 => bits (b.dw 1) 18 46 == 0 && z [2, 3, 4, 5, 6, 7]
    | 4 => bits (b.dw 1) 18 46 == 0 && z [2, 3, 4, 5, 6, 7]
    | 5 => bits (b.dw 1) 18 46 == 0 && bits (b.dw 2) 16 48 == 0 && z [3, 4, 5, 6, 7]
    | 6 => bits (b.dw 1) 18 46 == 0 && bits (b.dw 2) 22 42 == 0 && bits (b.dw 4) 0 3 == 0 && z [5, 6, 7]
    | 7 => bits (b.dw 1) 18 46 == 0 && bits (b.dw 2) 12 52 == 0 && z [3, 4, 5, 6, 7]
    | _ => false
  | _ => false

/-- A packet that its queue may accept (R154, R156). -/
def packetOk (q : Nat) (b : Body) : Bool := bits (b.dw 0) 10 22 == 0 && isAdmin q == (bits (b.dw 0) 0 8 == 9) && bodyForm b

/-- BAR holds the packet: a node accepted earlier from its queue has not ended (R154). The queue is known by its QID, so that nodes accepted before a detach
and a new attach of it count too (DEDUCED, log entry 87). A graph packet that has begun to enter holds no longer. -/
def State.barHolds (s : State) (q : Nat) (b : Body) : Bool :=
  flag (b.dw 0) 9 && (s.queues.get q).entered.isEmpty && s.nodes.any fun e => e.2.qid == some q && e.2.st.inFlight

/-- The context a packet concerns: that named by a context-control packet, else its queue's. -/
def packetCid (q : Nat) (x : HQueue) (b : Body) : Nat := if isAdmin q then field (b.dw 1) 8 10 else x.cid

/-- Signal an event about the packet at HEAD of a queue: an admin queue's on its own event ring (R156, R158). -/
def State.packetEvent (s : State) (q kind code : Nat) (b : Body) : State :=
  let x := s.queues.get q
  let r := evRecord kind (BitVec.ofNat 8 code) (packetCid q x b) q (bits (b.dw 0) 32 32) x.head 0
  if isAdmin q then s.eventOn x.port r else s.event x.cid r

/-- Give a queue a state, and report it (R151, R157). -/
def State.queueState (s : State) (q : Nat) (st : QSt) : State :=
  State.report { s with queues := s.queues.mod q fun x => { x with st := st } } q

/-- A queue enters state error: HEAD stays at the offending packet (R157); the event names the queue's own context. -/
def State.queueErr (s : State) (q : Nat) : State :=
  let x := s.queues.get q
  let r := evRecord 5 0 x.cid q (bits ((s.packet q).dw 0) 32 32) x.head 0
  (if isAdmin q then s.eventOn x.port r else s.event x.cid r).queueState q .error

/-- The packet at HEAD is accepted: HEAD rises and is reported; `done` when its work has ended with it and it asked for an event (R151, R154). -/
def State.accept (s : State) (q : Nat) (done : Bool) : State :=
  let b := s.packet q
  let s := if done && flag (b.dw 0) 8 then s.packetEvent q 6 0 b else s
  State.queueState { s with queues := s.queues.mod q fun x => { x with head := x.head + 1, entered := [], atSlot := none, kp := none } } q .active

/-- A refused packet: the event with its reason; it counts as accepted (R156). -/
def State.refuse (s : State) (q reason : Nat) : State := (s.packetEvent q 4 reason (s.packet q)).accept q true

/-- The port of a queue serves it now. -/
def State.serves (s : State) (q : Nat) : Bool := s.served (s.queues.get q).port == some q

/-- The key on top of a context's seed stack, or 0 (R122). -/
def State.topKey (s : State) (cid : Nat) : Dword := match (s.ctxs.get cid).seeds with | e :: _ => e.key | [] => 0

/-- The launch or graph packet at HEAD is fetched: the context's top key is the one its nodes fork, however long the packet then waits (R122). -/
def State.fetched (s : State) (q : Nat) : State :=
  { s with queues := s.queues.mod q fun x => { x with kp := some (x.kp.getD (s.topKey x.cid)) } }

/-- Act on the packet at HEAD of the queue its port serves, when it is of a kind, in form and not held by BAR. -/
def State.onPacket (s : State) (q kind : Nat) (f : Body → State → State) : State :=
  let b := s.packet q
  if s.serves q ∧ packetOk q b ∧ field (b.dw 0) 0 8 = kind then
    let s := if kind ≤ 2 then s.fetched q else s
    (if s.barHolds q b then s else f b s).countTurn q (s.queues.get q).head
  else s

/-- MALFORMED_PACKET (R154). -/
def execMalformedPacket (q : Nat) (s : State) : Out :=
  .next (if s.serves q ∧ !packetOk q (s.packet q) then s.queueErr q else s)

/-! ## Launch and graph packets (R170, R171) -/

/-- The seed key of a node that the packet at HEAD of a queue launches (R122). -/
def State.packetKey (s : State) (q : Nat) : Dword :=
  let x := s.queues.get q
  forkKey (x.kp.getD 0) x.head.toNat

/-- What a node of the packet at HEAD comes from. The packet's ordinal is HEAD, which counts modulo 2^32 (DEDUCED, log entry 88). -/
def State.packetOrigin (s : State) (q : Nat) : Origin :=
  { qid := some q, ordinal := (s.queues.get q).head.toNat, seedKey := s.packetKey q, parents := [], byGangs := [] }

/-- LAUNCH_PACKET (R170). -/
def execLaunchPacket (q : Nat) (s : State) : Out :=
  .next (s.onPacket q 1 fun b s =>
    let cid := (s.queues.get q).cid
    let o := s.packetOrigin q
    if !s.nodeRoom cid (bits (b.dw 3) 32 8) 1 || s.listing cid (some q) then s
    else match s.admission cid b false with
      | (.wait, _) => s
      | (a, s) => (s.enterNode cid b a o).2.accept q false)

/-- Enter further entries of the node list at `at_` of the graph packet at HEAD, in order, while there is room for each (R171, R173): up to `n` of them. An
entry that cannot be read is a queue error; one whose pages migrate waits. -/
def enterEntries (q at_ : Nat) (o : Origin) : (n : Nat) → State → State
  | 0, s => s
  | n + 1, s =>
    let x := s.queues.get q
    match s.agentRead x.die x.cid (at_ + 64 * x.entered.length) 64 with
    | .error (.migrating _) => s
    | .error (.fault _ _) => s.queueErr q
    | .ok ((_, true), _) => s.queueErr q
    | .ok ((bs, false), s') =>
      let b := bodyOf bs
      if !s.nodeRoom x.cid (bits (b.dw 3) 32 8) 1 then s
      else match s'.admission x.cid b true with
        | (.wait, _) => s
        | (a, s') =>
          let y := s'.enterNode x.cid b a o
          enterEntries q at_ o n { y.2 with queues := y.2.queues.mod q fun x => { x with entered := x.entered ++ [y.1] } }

/-- GRAPH_PACKET (R171): entries enter while there is room; the packet is accepted when the last one has entered. -/
def execGraphPacket (q : Nat) (s : State) : Out :=
  .next (s.onPacket q 2 fun b s =>
    let n := field (b.dw 2) 0 13
    if s.listing (s.queues.get q).cid (some q) then s
    else
    let s := enterEntries q (b.dw 1).toNat (s.packetOrigin q) (n - (s.queues.get q).entered.length) s
    let x := s.queues.get q
    if x.entered.length < n then s
    else
      let note : Signal :=
        { store := false, qid := q, cid := x.cid, addr := 0, value := 0, nodes := x.entered, irq := true, ptag := bits (b.dw 0) 32 32, ordinal := x.head }
      State.accept (if flag (b.dw 0) 8 then { s with signals := s.signals ++ [note] } else s) q false)

/-! ## Seed packets (R121, R155) -/

/-- Act on the context seed stack, or refuse with reason 3. -/
def State.seedPacket (s : State) (q : Nat) (f : List SeedEntry → Option (List SeedEntry)) : State :=
  let cid := (s.queues.get q).cid
  match f (s.ctxs.get cid).seeds with
  | none => s.refuse q 3
  | some l => State.accept { s with ctxs := s.ctxs.mod cid fun c => { c with seeds := l } } q true

/-- Push a key; a stack holds 16 entries (R121, R123). -/
def seedPushed (k : Dword) (l : List SeedEntry) : Option (List SeedEntry) := if 16 ≤ l.length then none else some ({ key := k, vec := 0, mat := 0 } :: l)

/-- Discard the top entry. -/
def seedPopped : List SeedEntry → Option (List SeedEntry)
  | [] => none
  | _ :: l => some l

/-- Push the fork of the top key by an index. -/
def seedForked (v : Dword) (l : List SeedEntry) : Option (List SeedEntry) :=
  match l with
  | [] => none
  | e :: _ => seedPushed (forkKey e.key (field v 0 60)) l

/-- SEED_PUSH_PACKET (R155). -/
def execSeedPushPacket (q : Nat) (s : State) : Out := .next (s.onPacket q 3 fun b s => s.seedPacket q (seedPushed (b.dw 1)))
/-- SEED_POP_PACKET (R155). -/
def execSeedPopPacket (q : Nat) (s : State) : Out := .next (s.onPacket q 4 fun _ s => s.seedPacket q seedPopped)
/-- SEED_FORK_PACKET (R155). -/
def execSeedForkPacket (q : Nat) (s : State) : Out := .next (s.onPacket q 5 fun b s => s.seedPacket q (seedForked (b.dw 1)))

/-! ## Wait and signal packets (R155) -/

/-- The compare of a wait packet. -/
def packetCompare (code : Nat) (x v : Dword) : Bool :=
  match code with
  | 0 => decide (v.toNat ≤ x.toNat)
  | 1 => x == v
  | 2 => x != v
  | _ => decide (x.toNat < v.toNat)

/-- Evaluate the wait packet at HEAD; the packets of R155 are not checked against tokens (DEDUCED, log entry 19). -/
def State.evalWait (s : State) (q : Nat) (b : Body) : State :=
  let x := s.queues.get q
  let w := Issuer.agent x.die x.cid
  match s.accessLin w (b.dw 1).toNat 8 false 0 with
  | .error (.migrating _) => s
  | .error (.fault _ _) => s.queueErr q
  | .ok (as, s) =>
    let r := s.loadAccs w (as.map fun a => { a with ord := 1 })
    if r.1.2 then r.2.queueErr q
    else if packetCompare (field (b.dw 3) 0 2) (leDword r.1.1) (b.dw 2) then r.2.accept q true
    else if x.st = .waiting then r.2 else r.2.queueState q .waiting

/-- WAIT_PACKET (R155). -/
def execWaitPacket (q : Nat) (s : State) : Out := .next (s.onPacket q 6 fun b s => s.evalWait q b)

/-- WAIT_PACKET_POLL (R155). -/
def execWaitPacketPoll (q : Nat) (s : State) : Out :=
  .next (if (s.queues.get q).st = .waiting ∧ s.fetches q then s.evalWait q (s.packet q) else s)

/-- SIGNAL_PACKET (R155): an ordering point behind the nodes accepted earlier from the queue; an address that faults is a queue error. -/
def execSignalPacket (q : Nat) (s : State) : Out :=
  .next (s.onPacket q 7 fun b s =>
    let x := s.queues.get q
    match s.accessLin (Issuer.agent x.die x.cid) (b.dw 1).toNat 8 true 0 with
    | .error (.migrating _) => s
    | .error (.fault _ _) => s.queueErr q
    | .ok (_, s) =>
      let nodes := (s.nodes.filter fun e => e.2.qid == some q && e.2.st.inFlight).map Prod.fst
      let y : Signal :=
        { store := true, qid := q, cid := x.cid, addr := (b.dw 1).toNat, value := b.dw 2, nodes := nodes, irq := flag (b.dw 0) 8,
          ptag := bits (b.dw 0) 32 32, ordinal := x.head }
      State.accept { s with signals := s.signals ++ [y] } q false)

/-- An event of the packet that a signal stands for. -/
def Signal.event (y : Signal) (kind : Nat) : EvRec := evRecord kind 0 y.cid y.qid y.ptag y.ordinal 0

/-- The queue of a signal whose address faults at its write. -/
def State.signalErr (s : State) (y : Signal) : State :=
  let x := s.queues.get y.qid
  if x.cid = y.cid ∧ (x.st = .active ∨ x.st = .waiting) then (s.event y.cid (y.event 5)).queueState y.qid .error else s

/-- Write a signal whose nodes have all ended, as a release at domain scope; or a status that a reshard-on-behalf owes (R395). -/
def State.writeSignal (s : State) (n : Nat) : State :=
  match s.signals[n]? with
  | none => s
  | some y =>
    match y.behalf with
    | some o =>
      match s.writeStatus o.die y.cid o.slot y.addr y.value.toNat with
      | none => s
      | some s => State.noteDone { s with signals := s.signals.eraseIdx n } y.cid o.note
    | none =>
    if !(y.nodes.all fun k => !(s.nodes.get k).st.inFlight) then s
    else
      let die := (s.queues.get y.qid).die
      let s' : State := { s with signals := s.signals.eraseIdx n }
      let done := fun (s : State) => if y.irq then s.event y.cid (y.event 6) else s
      if !y.store then done s'
      else
        let w := Issuer.agent die y.cid
        match (s'.domainRelease die y.cid).accessLin w y.addr 8 true 0 with
        | .error (.migrating _) => s
        | .error (.fault _ _) => s'.signalErr y
        | .ok (as, s') => done ((s'.storeAccs w (as.map fun a => { a with ord := 1 }) (leBytes 8 y.value.toNat)).domainRelease die y.cid)

/-- SIGNAL_WRITE (R155). -/
def execSignalWrite (n : Nat) (s : State) : Out := .next (s.writeSignal n)

/-! ## Re-shard on behalf (R395) -/

/-- The status address is none, or 8 bytes there can be written by the operation. -/
def State.statusWaits (s : State) (die cid at_ : Nat) : Except MemStop State :=
  if at_ = 0 then .ok s
  else match s.accessLin (Issuer.behalf die cid) at_ 8 true 0 with
    | .error m => .error m
    | .ok (_, s) => .ok s

/-- RESHARD_ON_BEHALF (R395): the status address is checked once, when the device reaches the packet; then the packet has its turn on the slot. -/
def execReshardOnBehalf (q : Nat) (s : State) : Out :=
  .next (s.onPacket q 8 fun b s =>
    let x := s.queues.get q
    let slot := field (b.dw 1) 0 8
    match (if x.atSlot = some slot then .ok s else s.statusWaits x.die x.cid (b.addr 4)) with
    | .error (.migrating _) => s
    | .error (.fault _ _) => s.queueErr q
    | .ok s =>
      let l := s.slotOn x.die x.cid slot
      if s.slotBusy x.cid slot then { s with queues := s.queues.mod q fun x => { x with atSlot := some slot } }
      else if l.st = .empty ∨ l.st = .aborted ∨ !l.reshardOk (b.dw 2) then
        (match s.writeStatus x.die x.cid slot (b.addr 4) 2 with
        | some s => s.accept q true
        | none => { s with queues := s.queues.mod q fun x => { x with atSlot := some slot } })
      else
        let note := if flag (b.dw 0) 8 then some (evRecord 6 0 x.cid q (bits (b.dw 0) 32 32) x.head 0) else none
        (s.beginReshard x.cid slot
          { work := .reshard
              { cid := x.cid, slot := slot, lt := b.dw 2, pairs := l.pairs (b.dw 2), issued := false, status := b.addr 4, note := note }
            thread := 0, die := x.die, cid := x.cid, sb := 0, parked := false, page := none, homes := [] }).accept q false)

/-! ## Context control (R115, R117, R156) -/

/-- Act on a context-control packet of a sub-kind; `f` answers a reason of refusal or what the packet does. -/
def State.onControl (s : State) (q sub : Nat) (f : Body → Nat → State → Except Nat State) : State :=
  s.onPacket q 9 fun b s =>
    if field (b.dw 1) 0 8 ≠ sub then s
    else match f b (field (b.dw 1) 8 10) s with
      | .error r => s.refuse q r
      | .ok s' => s'

/-- Change a context. -/
def State.modCtx (s : State) (c : Nat) (f : Ctx → Ctx) : State := { s with ctxs := s.ctxs.mod c f }

/-- The context of a create packet (R115). -/
def newCtx (b : Body) (port : Nat) (serial : BitVec 32) : Ctx :=
  { st := .active, ptroot := bits (b.dw 2) 0 57, det := flag (b.dw 1) 18, sys := flag (b.dw 1) 19, prio := bits (b.dw 1) 20 3, fbase := bits (b.dw 3) 0 57
    fcnt := bits (b.dw 4) 0 16, fsize := bits (b.dw 4) 32 32, skey := b.dw 5, seeds := [{ key := b.dw 5, vec := 0, mat := 0 }], serial := serial
    lastNode := 0, entries := 0, pkg := port / 2, evPort := port, areas := [] }

/-- CONTEXT_CREATE (R117). -/
def execContextCreate (q : Nat) (s : State) : Out :=
  .next (s.onControl q 1 fun b c s =>
    if c = 0 then .error 2
    else if (s.ctxs.get c).st ≠ .free then .error 1
    else .ok ((s.modCtx c fun x => newCtx b (s.queues.get q).port (x.serial + 1)).accept q true))

/-- The queues attached to a context. -/
def State.queuesOf (s : State) (c : Nat) : List Nat := (s.queues.filter fun e => e.2.st != .unattached && e.2.cid == c).map Prod.fst

/-- CONTEXT_STOP (R117): queues pause; the scheduler pre-empts its gangs (R141). -/
def execContextStop (q : Nat) (s : State) : Out :=
  .next (s.onControl q 2 fun _ c s =>
    if (s.ctxs.get c).st ≠ .active then .error 5
    else
      let s := (s.accept q true).modCtx c fun x => { x with st := .stopping }
      let s := (s.queuesOf c).foldl (fun s k =>
        if (s.queues.get k).st = .active ∨ (s.queues.get k).st = .waiting then s.queueState k .paused else s) s
      .ok (s.checkStopped c))

/-- CONTEXT_START (R117): saved gangs may be restored again, fetch resumes. -/
def execContextStart (q : Nat) (s : State) : Out :=
  .next (s.onControl q 3 fun _ c s =>
    if (s.ctxs.get c).st ≠ .stopped then .error 5
    else
      let s := (s.accept q true).modCtx c fun x => { x with st := .active }
      .ok ((s.queuesOf c).foldl (fun s k => if (s.queues.get k).st = .paused then s.queueState k .active else s) s))

/-- Detach a queue: packets not accepted are dropped (R157); TAIL keeps what was last written (R7, R150). -/
def State.detach (s : State) (k : Nat) : State :=
  { s with queues := s.queues.mod k fun x => { x with st := .unattached, entered := [], atSlot := none, kp := none } }

/-- The states from which destroy applies. -/
def CtxSt.live : CtxSt → Bool
  | .active => true
  | .stopping => true
  | .stopped => true
  | _ => false

/-- CONTEXT_DESTROY (R117). -/
def execContextDestroy (q : Nat) (s : State) : Out :=
  .next (s.onControl q 4 fun _ c s =>
    if !(s.ctxs.get c).st.live then .error 5
    else
      let s := (s.accept q true).modCtx c fun x => { x with st := .draining }
      let s := (s.queuesOf c).foldl State.detach s
      let s := s.nodes.foldl (fun s e => if e.2.cid = c then s.cancelNode e.1 else s) s
      let s := s.tasks.foldl (fun s e => if e.2.cid = c then s.reshardAbort e.1 0 none else s) s
      .ok (s.shootDown (.ctx c) (.ctx c)))

/-- A draining context is freed: regions, layout slots and KV translation entries go, the host is signalled (R117). -/
def State.freeContext (s : State) (c : Nat) : State :=
  if (s.ctxs.get c).st ≠ .draining ∨ s.inFlight c ≠ 0 ∨ s.shooting (.ctx c) ∨ s.signals.any fun y => y.cid == c then s
  else
    let s := (s.regionKeys.filter fun k => k / 4096 = c).foldl State.removeRegion s
    let s : State := { s with
      regions := s.regions.filter fun e => e.1 / 4096 ≠ c
      slots := s.slots.filter fun e => e.1 / 256 % 1024 ≠ c
      tasks := s.tasks.filter fun e => match e.2.work with | .coll d => !(d.cid == c && d.dead.isSome) | _ => true
      ktm := s.ktm.filter fun e => e.cid ≠ c }
    (s.event c (evRecord 3 0 c 0 0 0 0)).modCtx c fun x => { (default : Ctx) with serial := x.serial }

/-- CONTEXT_FREED (R117). -/
def execContextFreed (c : Nat) (s : State) : Out := .next (s.freeContext c)

/-- The thread that a resume-thread packet names: stopped on that core, of that context, with its record in a frame and its trap event written (R158). -/
def State.stoppedOn (s : State) (c die core : Nat) : Option Nat :=
  match s.onCore die core with
  | some t => if (s.thr t).st = .stopped ∧ (s.thr t).cid = c ∧ (s.thr t).area.isSome ∧ !s.trapHeld t then some t else none
  | none => none

/-- Restart a stopped thread from its frame (R125, R139, R144, R457); none while a page of the frame is migrating. -/
def State.resumeFrom (s : State) (t : Nat) : Option State :=
  let th := s.thr t
  match th.area with
  | none => some s
  | some k =>
    match s.agentRead th.die th.cid (s.areaAt th.cid k + th.member * 0x60000) 0x600 with
    | .error m => m.reason.map fun r => s.stopNode th.node 3 r (some t)
    | .ok ((_, true), s) => some (s.stopNode th.node 3 0x51 (some t))
    | .ok ((bs, false), s) => some ((s.dropArea t).modThr t fun th => th.resumeStopped bs)

/-- RESUME_THREAD (R139): it waits until no entry of the thread is pending. -/
def execResumeThread (q : Nat) (s : State) : Out :=
  .next (s.onControl q 5 fun b c s =>
    if !(s.ctxs.get c).st.live then .error 5
    else
      let d2 := b.dw 2
      match s.stoppedOn c (field d2 11 5 * 8 + field d2 0 3) (field d2 3 8) with
      | none => .ok (s.accept q true)
      | some t =>
        if (s.thr t).sbPending then .ok s
        else match s.resumeFrom t with
          | none => .ok s
          | some s => .ok (s.accept q true))

/-- QATTACH (R157). -/
def execQattach (q : Nat) (s : State) : Out :=
  .next (s.onControl q 6 fun b c s =>
    let d2 := b.dw 2
    let pkg := (s.queues.get q).port / 2
    let k := pkg * 4096 + field d2 0 12
    let l := field d2 13 5
    if isAdmin k ∨ (s.queues.get k).st ≠ .unattached then .error 4
    else if (s.ctxs.get c).st ≠ .active ∨ 64 ≤ (s.queuesOf c).length ∨ l < 4 ∨ 16 < l ∨ bits (b.dw 3) 0 12 ≠ 0 then .error 5
    else
      let x : HQueue :=
        { st := .active, cid := c, port := 2 * pkg + field d2 12 1, l := l, wt := field d2 18 4 + 1, base := (b.dw 3).toNat, hrep := (b.dw 4).toNat,
          head := 0, tail := 0, entered := [], atSlot := none }
      .ok (({ s with queues := s.queues.set k x } : State).accept q true))

/-- QDETACH (R157). A QID that is unattached, or attached to another context than the packet names, makes it a packet without effect (DEDUCED, log entry 89). -/
def execQdetach (q : Nat) (s : State) : Out :=
  .next (s.onControl q 7 fun b c s =>
    let k := (s.queues.get q).port / 2 * 4096 + field (b.dw 2) 0 12
    if !(s.ctxs.get c).st.live then .error 5
    else
      let s := s.accept q true
      .ok (if (s.queues.get k).st ≠ .unattached ∧ (s.queues.get k).cid = c then s.detach k else s))

/-! ## The adapter card (R150, R421, R486) -/

/-- The port of a queue, over which a write of its QTAIL goes: an admin queue has its own before it is attached too (R148); another QID that is not attached
belongs to none, so that no port's state drops the write (DEDUCED, log entry 90). -/
def State.tailPort (s : State) (q : Nat) : Option Nat :=
  let x := s.queues.get q
  if isAdmin q then some (q / 4096 * 2 + q % 4096) else if x.st = .unattached then none else some x.port

/-- QTAIL_WRITE (R150, R421). A queue that is paused has no row for an overrun in R157: it keeps TAIL and no error is raised (DEDUCED, log entry 90). -/
def execQtailWrite (q : Nat) (v : Dword) (s : State) : Out :=
  .next (
    let x := s.queues.get q
    let drops := (s.tailPort q).filter fun p => !s.portUp p
    match drops with
    | some p => { s with admin := s.admin.mod p fun p => { p with qdrop := true } }
    | none =>
      let s : State := { s with queues := s.queues.set q { x with tail := bits v 0 32 } }
      if 2 ^ x.l < (bits v 0 32 - x.head).toNat ∧ (x.st = .active ∨ x.st = .waiting) then s.queueErr q else s)

/-- EVCONS_WRITE (R486): room for events that the device holds. -/
def execEvconsWrite (p : Nat) (v : Dword) (s : State) : Out :=
  .next (State.flushPort { s with admin := s.admin.mod p fun x => { x with cons := bits v 0 32 } } p)

end Sys2Proof.Machine
end

