-- ==== Sys2Proof/WellFormed.lean ====
section
/-! DEFINITION. Well-formed instructions: the operands that a word of the constructor can carry without failing decode checks 1
and 2 of R60. A device step or outside act has no word and is always well formed. -/

namespace Sys2Proof
open Sys2Proof.Machine

/-- Every operand is one that the instruction's chapter assigns (R60 checks 1 and 2). -/
def Instr.wf (i : Instr) : Bool :=
  match i with
  | .add _ _ _ => true
  | .sub _ _ _ => true
  | .and _ _ _ => true
  | .or _ _ _ => true
  | .xor _ _ _ => true
  | .andn _ _ _ => true
  | .shl _ _ _ => true
  | .shr _ _ _ => true
  | .sra _ _ _ => true
  | .slt _ _ _ => true
  | .sltu _ _ _ => true
  | .min _ _ _ => true
  | .max _ _ _ => true
  | .minu _ _ _ => true
  | .maxu _ _ _ => true
  | .mul _ _ _ => true
  | .mulh _ _ _ => true
  | .mulhu _ _ _ => true
  | .div _ _ _ => true
  | .divu _ _ _ => true
  | .rem _ _ _ => true
  | .remu _ _ _ => true
  | .clz _ _ => true
  | .ctz _ _ => true
  | .popc _ _ => true
  | .addi _ _ _ => true
  | .andi _ _ _ => true
  | .ori _ _ _ => true
  | .xori _ _ _ => true
  | .shli _ _ _ => true
  | .shri _ _ _ => true
  | .srai _ _ _ => true
  | .slti _ _ _ => true
  | .sltiu _ _ _ => true
  | .lui _ _ => true
  | .auipc _ _ => true
  | .ldB _ _ _ => true
  | .ldBu _ _ _ => true
  | .ldH _ _ _ => true
  | .ldHu _ _ _ => true
  | .ldW _ _ _ => true
  | .ldWu _ _ _ => true
  | .ldD _ _ _ => true
  | .stB _ _ _ => true
  | .stH _ _ _ => true
  | .stW _ _ _ => true
  | .stD _ _ _ => true
  | .cmpEq _ _ _ => true
  | .cmpNe _ _ _ => true
  | .cmpLt _ _ _ => true
  | .cmpGe _ _ _ => true
  | .cmpLtu _ _ _ => true
  | .cmpGeu _ _ _ => true
  | .cmpiEq _ _ _ => true
  | .cmpiNe _ _ _ => true
  | .cmpiLt _ _ _ => true
  | .cmpiGe _ _ _ => true
  | .cmpiLtu _ _ _ => true
  | .cmpiGeu _ _ _ => true
  | .pand _ _ _ => true
  | .por _ _ _ => true
  | .pxor _ _ _ => true
  | .pandn _ _ _ => true
  | .pnot _ _ => true
  | .pmov _ _ => true
  | .br _ _ _ => true
  | .jal _ _ => true
  | .jalr _ _ _ => true
  | .loop _ _ => true
  | .loopRot _ _ _ => true
  | .loopi _ _ => true
  | .loopiRot _ _ _ => true
  | .passBoundary _ => true
  | .rot _ _ => true
  | .qpush q _ => pushQueue q
  | .qpop _ q => popQueue q
  | .fmt _ _ _ => true
  | .fmtQ _ _ => true
  | .mark _ m => m != 0
  | .join _ => true
  | .rdsr _ n => specialNumber n
  | .wrsr _ n => specialWritable n
  | .sel _ _ _ _ _ => true
  | .nop => true
  | .brk => true
  | .capt _ _ => true
  | .tld _ _ a => runOk a 4
  | .tldQ _ a => runOk a 4
  | .tst _ _ a => runOk a 4
  | .tstQ _ a => runOk a 4
  | .gld _ _ a => runOk a 4
  | .gldQ _ a => runOk a 4
  | .gst _ _ a => runOk a 4
  | .gstQ _ a => runOk a 4
  | .vld a => runOk a 4
  | .vst a => runOk a 4
  | .sld _ w => w != 7
  | .sldRow a => runOk a 4
  | .sst _ _ w => storeWidth w
  | .sstRow a => runOk a 4
  | .atomAdd a c _ _ _ => runOk a 4 && scopeOk c
  | .atomMin a c _ _ _ => runOk a 4 && scopeOk c
  | .atomMax a c _ _ _ => runOk a 4 && scopeOk c
  | .atomAnd a c _ _ _ => runOk a 4 && scopeOk c
  | .atomOr a c _ _ _ => runOk a 4 && scopeOk c
  | .atomXor a c _ _ _ => runOk a 4 && scopeOk c
  | .atomXchg a c _ _ _ => runOk a 4 && scopeOk c
  | .atomCas a c _ _ _ => runOk a 4 && scopeOk c
  | .atomoAdd a c _ _ _ => runOk a 4 && scopeOk c
  | .atomoMin a c _ _ _ => runOk a 4 && scopeOk c
  | .atomoMax a c _ _ _ => runOk a 4 && scopeOk c
  | .atomoAnd a c _ _ _ => runOk a 4 && scopeOk c
  | .atomoOr a c _ _ _ => runOk a 4 && scopeOk c
  | .atomoXor a c _ _ _ => runOk a 4 && scopeOk c
  | .atomoXchg a c _ _ _ => runOk a 4 && scopeOk c
  | .atomoCas a c _ _ _ => runOk a 4 && scopeOk c
  | .prefL a => runOk a 4
  | .prefT _ a => runOk a 4
  | .fenceAcq c => scopeOk c
  | .fenceRel c => scopeOk c
  | .fenceFull c => scopeOk c
  | .hwait _ _ => true
  | .hwaitSt _ _ => true
  | .ldq _ w => w != 7
  | .adrFaultTrap _ => true
  | .vintAdd _ _ _ _ t => t != 3
  | .vintSub _ _ _ _ t => t != 3
  | .vintMul _ _ _ _ t => t != 3
  | .vintMulh _ _ _ _ t => (t == 0 || t == 2)
  | .vintAnd _ _ _ _ => true
  | .vintOr _ _ _ _ => true
  | .vintXor _ _ _ _ => true
  | .vintAndn _ _ _ _ => true
  | .vintShl _ _ _ _ => true
  | .vintShr _ _ _ _ => true
  | .vintSra _ _ _ _ => true
  | .vintMin _ _ _ _ t => (t == 0 || t == 2)
  | .vintMax _ _ _ _ t => (t == 0 || t == 2)
  | .vintAbs _ _ _ t => (t == 0 || t == 1)
  | .vintNeg _ _ _ t => (t == 0 || t == 1)
  | .vfltAdd _ _ _ _ => true
  | .vfltSub _ _ _ _ => true
  | .vfltMul _ _ _ _ => true
  | .vfltDiv _ _ _ _ => true
  | .vfltMin _ _ _ _ => true
  | .vfltMax _ _ _ _ => true
  | .vfltAbs _ _ _ => true
  | .vfltNeg _ _ _ => true
  | .vfmaFma _ _ _ _ => true
  | .vfmaFms _ _ _ _ => true
  | .vfmaFnma _ _ _ _ => true
  | .vfmaFnms _ _ _ _ => true
  | .vcmpEq _ _ _ _ t => t != 3
  | .vcmpNe _ _ _ _ t => t != 3
  | .vcmpLt _ _ _ _ t => t != 3
  | .vcmpLe _ _ _ _ t => t != 3
  | .vcmpGt _ _ _ _ t => t != 3
  | .vcmpGe _ _ _ _ t => t != 3
  | .vcmpUn _ _ _ _ => true
  | .vcvtTo _ _ b _ t => t != 3 && vcvtFormat b
  | .vcvtFrom _ _ b _ => vcvtFormat b
  | .vcvtF2i _ _ _ t => t != 3
  | .vcvtI2f _ _ _ t => t != 3
  | .vcvtU2f _ _ _ t => t != 3
  | .vredSum _ _ _ t => t != 3
  | .vredMax _ _ _ t => t != 3
  | .vredMin _ _ _ t => t != 3
  | .vredArgmax _ _ _ t => t != 3
  | .vredArgmin _ _ _ t => t != 3
  | .vredSumQ _ _ t => t != 3
  | .vredMaxQ _ _ t => t != 3
  | .vredMinQ _ _ t => t != 3
  | .vredArgmaxQ _ _ t => t != 3
  | .vredArgminQ _ _ t => t != 3
  | .vscanSum _ _ _ t => t != 3
  | .vscanMax _ _ _ t => t != 3
  | .vscanMin _ _ _ t => t != 3
  | .vscanSumX _ _ _ t => t != 3
  | .vscanMaxX _ _ _ t => t != 3
  | .vscanMinX _ _ _ t => t != 3
  | .vpermIdx _ _ _ _ => true
  | .vpermRot _ _ _ _ => true
  | .vpermBc _ _ _ _ => true
  | .vsel _ _ _ _ => true
  | .vsfuExp2 _ _ _ => true
  | .vsfuLog2 _ _ _ => true
  | .vsfuRcp _ _ _ => true
  | .vsfuRsqrt _ _ _ => true
  | .vsfuSqrt _ _ _ => true
  | .vmovSplat _ _ _ => true
  | .vmovIns _ _ _ => true
  | .vmovExt _ _ => true
  | .vmovMv _ _ _ => true
  | .vcomp _ _ _ _ n t => patternOk n t
  | .vqntC _ _ b _ t => t != 3 && blockFormat b
  | .vqntCr _ _ b _ t => t != 3 && blockFormat b
  | .vqntG _ _ b _ t => t != 3 && blockFormat b
  | .vqntGr _ _ b _ t => t != 3 && blockFormat b
  | .vdqnt _ _ b _ => blockFormat b
  | .vdqntAcc _ _ b _ => blockFormat b
  | .vrandU _ _ => true
  | .vrandF _ _ => true
  | .vmaskAnd _ _ _ => true
  | .vmaskOr _ _ _ => true
  | .vmaskXor _ _ _ => true
  | .vmaskAndn _ _ _ => true
  | .vmaskNot _ _ => true
  | .vmaskMov _ _ => true
  | .vmaskFirst _ _ => true
  | .vmaskCnt _ => true
  | .vqin _ _ => true
  | .vqinQ5 _ _ => true
  | .vqinS _ _ => true
  | .vqout _ _ => true
  | .vqoutQ11 _ _ => true
  | .viotaIdx _ _ => true
  | .viotaCnt _ _ _ => true
  | .mma _ _ _ _ _ => true
  | .mmas _ _ _ _ _ _ => true
  | .mmat _ _ _ _ _ => true
  | .mdist _ _ _ _ => true
  | .mtopk _ _ _ _ _ => true
  | .mzero _ => true
  | .mload _ _ _ _ => true
  | .mstore _ _ _ f => decide (f.toNat ≤ 4)
  | .mrdRow _ _ => true
  | .mrdCol _ _ => true
  | .mrdRck _ => true
  | .mrdCck _ => true
  | .mwrRow _ _ _ => true
  | .mwrCol _ _ _ => true
  | .mwrRck _ => true
  | .mwrCck _ => true
  | .mcommit => true
  | .mwait _ => true
  | .mwaitAcc _ => true
  | .mcks _ _ => true
  | .mfix _ => true
  | .arrayCommandStart _ => true
  | .arrayCommandRetire _ => true
  | .xcopy _ a => runOk a 4
  | .xcopyT _ _ a => runOk a 4
  | .xcopyS _ a => runOk a 4
  | .xput _ a => runOk a 4
  | .xputT _ _ a => runOk a 4
  | .xgath _ _ a => runOk a 4
  | .xscatO _ _ a => runOk a 4
  | .xscatAdd _ _ a => runOk a 4
  | .xscatMax _ _ a => runOk a 4
  | .xscatMin _ _ a => runOk a 4
  | .xpack _ _ a => runOk a 4
  | .xpackK1 _ _ a => runOk a 4
  | .xpackS _ a => runOk a 4
  | .xhalo _ a d => runOk a 4 && decide (d.toNat ≤ 5)
  | .xfill _ a => runOk a 4
  | .xrel _ => true
  | .xabort _ => true
  | .copyUnitLands _ => true
  | .haloArrival _ => true
  | .lyset _ _ _ => true
  | .lysetGet _ _ => true
  | .reshard _ _ => true
  | .collSum _ _ _ => true
  | .collMax _ _ _ => true
  | .collMin _ _ _ => true
  | .collAmerge _ _ _ => true
  | .collRing _ _ _ => true
  | .ranks _ _ _ => true
  | .rkinv _ => true
  | .fwait => true
  | .fwaitSlot _ => true
  | .resid _ _ _ => true
  | .fabort => true
  | .collStep _ => true
  | .collWatchdogExpiry _ => true
  | .reshardExchangeComplete _ => true
  | .kvmap _ => true
  | .kvmapNew _ => true
  | .kvmapUn _ => true
  | .kvlock _ => true
  | .kvlockUn _ => true
  | .kvapp s => runOk s 2
  | .kvroll _ => true
  | .patt _ s => runOk s 4
  | .mprog _ _ _ => true
  | .meval _ s => runOk s 3
  | .cent s => runOk s 3
  | .csel _ s => runOk s 2
  | .retn s _ => runOk s 2
  | .retnQ s => runOk s 2
  | .sieve s => runOk s 2
  | .await => true
  | .awaitAbort => true
  | .mcntClr => true
  | .pattDone _ => true
  | .centKeyUpdate _ => true
  | .sieveCompact _ => true
  | .bar _ k _ => decide (k.toNat ≤ 4)
  | .barArr _ k _ => decide (k.toNat ≤ 4)
  | .barWt _ k => decide (k.toNat ≤ 4)
  | .cbarInit _ _ => true
  | .cbarAdd _ _ => true
  | .cbarWait _ => true
  | .cbarTake _ => true
  | .cbarFree _ => true
  | .sbarP _ => true
  | .sbarC _ => true
  | .sbarArrivalEffect _ => true
  | .ring _ _ _ => true
  | .ringRel _ => true
  | .phaseNew => true
  | .phaseRd _ _ _ _ => true
  | .phaseWr _ _ _ _ => true
  | .tklend _ _ => true
  | .tkret _ _ => true
  | .tksplit _ _ => true
  | .tkjoin _ _ => true
  | .tkshare _ _ => true
  | .tkunsh _ _ => true
  | .tkrecl _ _ => true
  | .tokenWaitResume _ => true
  | .rwb _ _ => true
  | .rinv _ _ => true
  | .launch _ _ => true
  | .cwait _ => true
  | .cwaitAll => true
  | .seedPush _ => true
  | .seedPop => true
  | .seedFork _ => true
  | .trap _ _ => true
  | .resumeWait _ => true
  | .resumeAbort _ => true
  | .eret => true
  | .tlbiVa _ _ => true
  | .tlbiTen _ _ => true
  | .tlbiCtx _ => true
  | .tlbiAll => true
  | .tlbiAcknowledge _ => true
  | .replay _ => true
  | .ctxsv _ _ => true
  | .ctxld _ _ => true
  | .waitGeu _ _ => true
  | .waitEq _ _ => true
  | .waitNe _ _ => true
  | .waitLtu _ _ => true
  | .waitSb => true
  | .memoryWaitRecheck _ => true
  | .halt => true
  | .wrcfg n _ => configWritable n
  | .rdcfg n _ => configNumber n
  | .pwrSt _ => true
  | .pwrHint _ => true
  | .fetch _ => true
  | .markerReachesHead _ _ => true
  | .queueDeadlock _ => true
  | .scratchpadWritePerform _ => true
  | .ninesCompare _ _ _ _ => true
  | .trapTakenUser _ => true
  | .trapTakenSystem _ => true
  | .gangPreempt _ => true
  | .gangSaved _ => true
  | .gangRestore _ _ _ => true
  | .gangDispatch _ => true
  | .gangStart _ => true
  | .reservationTimeout _ => true
  | .reservationDrop _ => true
  | .childBoostTimeout _ => true
  | .nodeEnding _ => true
  | .nodeCompletionRecord _ => true
  | .launchPacket _ => true
  | .graphPacket _ => true
  | .seedPushPacket _ => true
  | .seedPopPacket _ => true
  | .seedForkPacket _ => true
  | .waitPacket _ => true
  | .waitPacketPoll _ => true
  | .signalPacket _ => true
  | .signalWrite _ => true
  | .reshardOnBehalf _ => true
  | .contextCreate _ => true
  | .contextStop _ => true
  | .contextStart _ => true
  | .contextDestroy _ => true
  | .contextFreed _ => true
  | .resumeThread _ => true
  | .qattach _ => true
  | .qdetach _ => true
  | .qtailWrite _ _ => true
  | .evconsWrite _ _ => true
  | .nctlRelease _ _ => true
  | .nctlCancel _ _ => true
  | .migcmdWrite _ _ => true
  | .migrationStart _ => true
  | .migrationFinish _ => true
  | .tkcmdCreate _ _ => true
  | .tkcmdDestroy _ _ => true
  | .parkRingWrite _ _ _ => true
  | .pendctlWrite _ _ => true
  | .lnkctlRetrain _ _ => true
  | .lnkctlDisable _ _ => true
  | .lnkctlEnable _ _ => true
  | .lnkctlClear _ _ => true
  | .fenceCore _ _ => true
  | .fenceSlice _ _ _ => true
  | .pstateWrite _ _ => true
  | .configRegisterWrite _ _ _ => true
  | .homeLoss _ => true
  | .atomoArrival _ => true
  | .atomoRetry _ => true
  | .atomoLineStall _ => true
  | .rdcEviction _ _ _ => true
  | .correctableError _ => true
  | .uncorrectableError _ => true
  | .patrolScrub _ _ _ => true
  | .arbiterPeriod _ => true
  | .dieFreeze _ => true
  | .flitReceive _ _ _ _ => true
  | .linkTrained _ _ _ => true
  | .linkTrainingFailed _ _ => true
  | .linkReplayLimit _ _ => true
  | .laneLost _ _ => true
  | .linkRetrainTimeout _ _ => true
  | .peerDown _ _ => true
  | .routeTablesInForce => true
  | .cxlLinkDown _ => true
  | .powerOn => true
  | .sidebandReset _ _ _ => true
  | .bringUp _ _ => true
  | .diePresent _ => true
  | .sidebandInventory => true
  | .sidebandAttest _ => true
  | .sidebandPowerRead _ => true
  | .sidebandPlimitWrite _ => true
  | .sidebandPstateWrite _ _ => true
  | .sidebandLog => true
  | .malformedPacket _ => true
  | .memoryAccessPerformed _ => true
  | .llcLineEviction _ _ => true
  | .slicePartialAttention _ => true
  | .reshardPairCopy _ => true

end Sys2Proof
end

