-- ==== Sys2Proof/Decode.lean ====
section
/-! DEFINITION. The decoder and the encoder of instruction words (R57 to R63, R69, R71, R73, R297, R323, R336, R359, R428, R494). The decoder
is total: a word that names no instruction is refused with the trap its first failing check raises (R60). -/

namespace Sys2Proof
open Sys2Proof.Machine

/-- Why a word decodes to nothing: a failing decode check of R60, or the SHAPE of a loop word with ROT = 0 and STAGES ≠ 0 (R99). -/
inductive DecodeErr where
  | illegal | reserved | shape
deriving DecidableEq, Repr, Inhabited

/-- The checks of R60 in order, once the function code is known: 2, the registers and numbers that `i` names; 3, the reserved bits. -/
def checked (zeros : Bool) (i : Instr) : Except DecodeErr Instr :=
  if i.wf then if zeros then .ok i else .error .reserved else .error .illegal

/-- OP 0x00 of SEQ: ADD, SUB, AND, OR, XOR, ANDN, SHL, SHR, SRA, SLT, SLTU, MIN, MAX, MINU, MAXU, MUL, MULH, MULHU, DIV, DIVU, REM, REMU, CLZ, CTZ, POPC. -/
noncomputable def decodeSeq00 (w : Word) : Except DecodeErr Instr :=
  if bits w 0 6 == 1 then checked true (.add (bits w 18 6) (bits w 12 6) (bits w 6 6))
  else if bits w 0 6 == 2 then checked true (.sub (bits w 18 6) (bits w 12 6) (bits w 6 6))
  else if bits w 0 6 == 3 then checked true (.and (bits w 18 6) (bits w 12 6) (bits w 6 6))
  else if bits w 0 6 == 4 then checked true (.or (bits w 18 6) (bits w 12 6) (bits w 6 6))
  else if bits w 0 6 == 5 then checked true (.xor (bits w 18 6) (bits w 12 6) (bits w 6 6))
  else if bits w 0 6 == 6 then checked true (.andn (bits w 18 6) (bits w 12 6) (bits w 6 6))
  else if bits w 0 6 == 7 then checked true (.shl (bits w 18 6) (bits w 12 6) (bits w 6 6))
  else if bits w 0 6 == 8 then checked true (.shr (bits w 18 6) (bits w 12 6) (bits w 6 6))
  else if bits w 0 6 == 9 then checked true (.sra (bits w 18 6) (bits w 12 6) (bits w 6 6))
  else if bits w 0 6 == 10 then checked true (.slt (bits w 18 6) (bits w 12 6) (bits w 6 6))
  else if bits w 0 6 == 11 then checked true (.sltu (bits w 18 6) (bits w 12 6) (bits w 6 6))
  else if bits w 0 6 == 12 then checked true (.min (bits w 18 6) (bits w 12 6) (bits w 6 6))
  else if bits w 0 6 == 13 then checked true (.max (bits w 18 6) (bits w 12 6) (bits w 6 6))
  else if bits w 0 6 == 14 then checked true (.minu (bits w 18 6) (bits w 12 6) (bits w 6 6))
  else if bits w 0 6 == 15 then checked true (.maxu (bits w 18 6) (bits w 12 6) (bits w 6 6))
  else if bits w 0 6 == 16 then checked true (.mul (bits w 18 6) (bits w 12 6) (bits w 6 6))
  else if bits w 0 6 == 17 then checked true (.mulh (bits w 18 6) (bits w 12 6) (bits w 6 6))
  else if bits w 0 6 == 18 then checked true (.mulhu (bits w 18 6) (bits w 12 6) (bits w 6 6))
  else if bits w 0 6 == 19 then checked true (.div (bits w 18 6) (bits w 12 6) (bits w 6 6))
  else if bits w 0 6 == 20 then checked true (.divu (bits w 18 6) (bits w 12 6) (bits w 6 6))
  else if bits w 0 6 == 21 then checked true (.rem (bits w 18 6) (bits w 12 6) (bits w 6 6))
  else if bits w 0 6 == 22 then checked true (.remu (bits w 18 6) (bits w 12 6) (bits w 6 6))
  else if bits w 0 6 == 23 then checked (bits w 6 6 == 0) (.clz (bits w 18 6) (bits w 12 6))
  else if bits w 0 6 == 24 then checked (bits w 6 6 == 0) (.ctz (bits w 18 6) (bits w 12 6))
  else if bits w 0 6 == 25 then checked (bits w 6 6 == 0) (.popc (bits w 18 6) (bits w 12 6))
  else .error .illegal

/-- OP 0x01 of SEQ: ADDI. -/
noncomputable def decodeSeq01 (w : Word) : Except DecodeErr Instr :=
  checked true (.addi (bits w 18 6) (bits w 12 6) (bits w 0 12))

/-- OP 0x02 of SEQ: ANDI. -/
noncomputable def decodeSeq02 (w : Word) : Except DecodeErr Instr :=
  checked true (.andi (bits w 18 6) (bits w 12 6) (bits w 0 12))

/-- OP 0x03 of SEQ: ORI. -/
noncomputable def decodeSeq03 (w : Word) : Except DecodeErr Instr :=
  checked true (.ori (bits w 18 6) (bits w 12 6) (bits w 0 12))

/-- OP 0x04 of SEQ: XORI. -/
noncomputable def decodeSeq04 (w : Word) : Except DecodeErr Instr :=
  checked true (.xori (bits w 18 6) (bits w 12 6) (bits w 0 12))

/-- OP 0x05 of SEQ: SHLI, SHRI, SRAI. -/
noncomputable def decodeSeq05 (w : Word) : Except DecodeErr Instr :=
  if bits (bits w 0 12) 10 2 == 0 then checked (bits (bits w 0 12) 6 4 == 0) (.shli (bits w 18 6) (bits w 12 6) (bits (bits w 0 12) 0 6))
  else if bits (bits w 0 12) 10 2 == 1 then checked (bits (bits w 0 12) 6 4 == 0) (.shri (bits w 18 6) (bits w 12 6) (bits (bits w 0 12) 0 6))
  else if bits (bits w 0 12) 10 2 == 2 then checked (bits (bits w 0 12) 6 4 == 0) (.srai (bits w 18 6) (bits w 12 6) (bits (bits w 0 12) 0 6))
  else .error .illegal

/-- OP 0x06 of SEQ: SLTI, SLTIU. -/
noncomputable def decodeSeq06 (w : Word) : Except DecodeErr Instr :=
  if bits (bits w 0 12) 11 1 == 0 then checked true (.slti (bits w 18 6) (bits w 12 6) (bits (bits w 0 12) 0 11))
  else if bits (bits w 0 12) 11 1 == 1 then checked true (.sltiu (bits w 18 6) (bits w 12 6) (bits (bits w 0 12) 0 11))
  else .error .illegal

/-- OP 0x07 of SEQ: LUI. -/
noncomputable def decodeSeq07 (w : Word) : Except DecodeErr Instr :=
  checked true (.lui (bits w 18 6) (bits w 0 18))

/-- OP 0x08 of SEQ: AUIPC. -/
noncomputable def decodeSeq08 (w : Word) : Except DecodeErr Instr :=
  checked true (.auipc (bits w 18 6) (bits w 0 18))

/-- OP 0x09 of SEQ: LD_B, LD_BU, LD_H, LD_HU, LD_W, LD_WU, LD_D. -/
noncomputable def decodeSeq09 (w : Word) : Except DecodeErr Instr :=
  if bits (bits w 0 12) 0 3 == 0 then checked true (.ldB (bits w 18 6) (bits w 12 6) (bits (bits w 0 12) 3 9))
  else if bits (bits w 0 12) 0 3 == 1 then checked true (.ldBu (bits w 18 6) (bits w 12 6) (bits (bits w 0 12) 3 9))
  else if bits (bits w 0 12) 0 3 == 2 then checked true (.ldH (bits w 18 6) (bits w 12 6) (bits (bits w 0 12) 3 9))
  else if bits (bits w 0 12) 0 3 == 3 then checked true (.ldHu (bits w 18 6) (bits w 12 6) (bits (bits w 0 12) 3 9))
  else if bits (bits w 0 12) 0 3 == 4 then checked true (.ldW (bits w 18 6) (bits w 12 6) (bits (bits w 0 12) 3 9))
  else if bits (bits w 0 12) 0 3 == 5 then checked true (.ldWu (bits w 18 6) (bits w 12 6) (bits (bits w 0 12) 3 9))
  else if bits (bits w 0 12) 0 3 == 6 then checked true (.ldD (bits w 18 6) (bits w 12 6) (bits (bits w 0 12) 3 9))
  else .error .illegal

/-- OP 0x0A of SEQ: ST_B, ST_H, ST_W, ST_D. -/
noncomputable def decodeSeq0A (w : Word) : Except DecodeErr Instr :=
  if bits (bits w 0 12) 0 3 == 0 then checked true (.stB (bits w 18 6) (bits w 12 6) (bits (bits w 0 12) 3 9))
  else if bits (bits w 0 12) 0 3 == 2 then checked true (.stH (bits w 18 6) (bits w 12 6) (bits (bits w 0 12) 3 9))
  else if bits (bits w 0 12) 0 3 == 4 then checked true (.stW (bits w 18 6) (bits w 12 6) (bits (bits w 0 12) 3 9))
  else if bits (bits w 0 12) 0 3 == 6 then checked true (.stD (bits w 18 6) (bits w 12 6) (bits (bits w 0 12) 3 9))
  else .error .illegal

/-- OP 0x0B of SEQ: CMP_EQ, CMP_NE, CMP_LT, CMP_GE, CMP_LTU, CMP_GEU. -/
noncomputable def decodeSeq0B (w : Word) : Except DecodeErr Instr :=
  if bits w 0 6 == 1 then checked (bits (bits w 18 6) 4 2 == 0) (.cmpEq (bits (bits w 18 6) 0 4) (bits w 12 6) (bits w 6 6))
  else if bits w 0 6 == 2 then checked (bits (bits w 18 6) 4 2 == 0) (.cmpNe (bits (bits w 18 6) 0 4) (bits w 12 6) (bits w 6 6))
  else if bits w 0 6 == 3 then checked (bits (bits w 18 6) 4 2 == 0) (.cmpLt (bits (bits w 18 6) 0 4) (bits w 12 6) (bits w 6 6))
  else if bits w 0 6 == 4 then checked (bits (bits w 18 6) 4 2 == 0) (.cmpGe (bits (bits w 18 6) 0 4) (bits w 12 6) (bits w 6 6))
  else if bits w 0 6 == 5 then checked (bits (bits w 18 6) 4 2 == 0) (.cmpLtu (bits (bits w 18 6) 0 4) (bits w 12 6) (bits w 6 6))
  else if bits w 0 6 == 6 then checked (bits (bits w 18 6) 4 2 == 0) (.cmpGeu (bits (bits w 18 6) 0 4) (bits w 12 6) (bits w 6 6))
  else .error .illegal

/-- OP 0x0C of SEQ: CMPI_EQ, CMPI_NE, CMPI_LT, CMPI_GE, CMPI_LTU, CMPI_GEU. -/
noncomputable def decodeSeq0C (w : Word) : Except DecodeErr Instr :=
  if bits (bits w 0 12) 9 3 == 1 then checked (bits (bits w 18 6) 4 2 == 0) (.cmpiEq (bits (bits w 18 6) 0 4) (bits w 12 6) (bits (bits w 0 12) 0 9))
  else if bits (bits w 0 12) 9 3 == 2 then checked (bits (bits w 18 6) 4 2 == 0) (.cmpiNe (bits (bits w 18 6) 0 4) (bits w 12 6) (bits (bits w 0 12) 0 9))
  else if bits (bits w 0 12) 9 3 == 3 then checked (bits (bits w 18 6) 4 2 == 0) (.cmpiLt (bits (bits w 18 6) 0 4) (bits w 12 6) (bits (bits w 0 12) 0 9))
  else if bits (bits w 0 12) 9 3 == 4 then checked (bits (bits w 18 6) 4 2 == 0) (.cmpiGe (bits (bits w 18 6) 0 4) (bits w 12 6) (bits (bits w 0 12) 0 9))
  else if bits (bits w 0 12) 9 3 == 5 then checked (bits (bits w 18 6) 4 2 == 0) (.cmpiLtu (bits (bits w 18 6) 0 4) (bits w 12 6) (bits (bits w 0 12) 0 9))
  else if bits (bits w 0 12) 9 3 == 6 then checked (bits (bits w 18 6) 4 2 == 0) (.cmpiGeu (bits (bits w 18 6) 0 4) (bits w 12 6) (bits (bits w 0 12) 0 9))
  else .error .illegal

/-- OP 0x0D of SEQ: PAND, POR, PXOR, PANDN, PNOT, PMOV. -/
noncomputable def decodeSeq0D (w : Word) : Except DecodeErr Instr :=
  if bits w 0 6 == 1 then checked (bits (bits w 6 6) 4 2 == 0 && bits (bits w 12 6) 4 2 == 0 && bits (bits w 18 6) 4 2 == 0) (.pand (bits (bits w 18 6) 0 4) (bits (bits w 12 6) 0 4) (bits (bits w 6 6) 0 4))
  else if bits w 0 6 == 2 then checked (bits (bits w 6 6) 4 2 == 0 && bits (bits w 12 6) 4 2 == 0 && bits (bits w 18 6) 4 2 == 0) (.por (bits (bits w 18 6) 0 4) (bits (bits w 12 6) 0 4) (bits (bits w 6 6) 0 4))
  else if bits w 0 6 == 3 then checked (bits (bits w 6 6) 4 2 == 0 && bits (bits w 12 6) 4 2 == 0 && bits (bits w 18 6) 4 2 == 0) (.pxor (bits (bits w 18 6) 0 4) (bits (bits w 12 6) 0 4) (bits (bits w 6 6) 0 4))
  else if bits w 0 6 == 4 then checked (bits (bits w 6 6) 4 2 == 0 && bits (bits w 12 6) 4 2 == 0 && bits (bits w 18 6) 4 2 == 0) (.pandn (bits (bits w 18 6) 0 4) (bits (bits w 12 6) 0 4) (bits (bits w 6 6) 0 4))
  else if bits w 0 6 == 5 then checked (bits w 6 6 == 0 && bits (bits w 12 6) 4 2 == 0 && bits (bits w 18 6) 4 2 == 0) (.pnot (bits (bits w 18 6) 0 4) (bits (bits w 12 6) 0 4))
  else if bits w 0 6 == 6 then checked (bits w 6 6 == 0 && bits (bits w 12 6) 4 2 == 0 && bits (bits w 18 6) 4 2 == 0) (.pmov (bits (bits w 18 6) 0 4) (bits (bits w 12 6) 0 4))
  else .error .illegal

/-- OP 0x0E of SEQ: BR. -/
noncomputable def decodeSeq0E (w : Word) : Except DecodeErr Instr :=
  checked true (.br (bits w 20 4) (bits w 19 1) (bits w 0 19))

/-- OP 0x0F of SEQ: JAL. -/
noncomputable def decodeSeq0F (w : Word) : Except DecodeErr Instr :=
  checked true (.jal (bits w 18 6) (bits w 0 18))

/-- OP 0x10 of SEQ: JALR. -/
noncomputable def decodeSeq10 (w : Word) : Except DecodeErr Instr :=
  checked true (.jalr (bits w 18 6) (bits w 12 6) (bits w 0 12))

/-- OP 0x11 of SEQ: LOOP, LOOP_ROT. -/
noncomputable def decodeSeq11 (w : Word) : Except DecodeErr Instr :=
  if bits w 0 3 == 0 then if bits w 3 3 == 0 then checked true (.loop (bits w 18 6) (bits w 6 12)) else .error .shape
  else if bits w 0 3 == 1 then checked true (.loopRot (bits w 18 6) (bits w 6 12) (bits w 3 3))
  else .error .illegal

/-- OP 0x12 of SEQ: LOOPI, LOOPI_ROT. -/
noncomputable def decodeSeq12 (w : Word) : Except DecodeErr Instr :=
  if bits w 0 3 == 0 then if bits w 3 3 == 0 then checked true (.loopi (bits w 18 6) (bits w 6 12)) else .error .shape
  else if bits w 0 3 == 1 then checked true (.loopiRot (bits w 18 6) (bits w 6 12) (bits w 3 3))
  else .error .illegal

/-- OP 0x13 of SEQ: ROT. -/
noncomputable def decodeSeq13 (w : Word) : Except DecodeErr Instr :=
  checked (bits w 18 6 == 0) (.rot (bits w 12 6) (bits w 0 12))

/-- OP 0x14 of SEQ: QPUSH. -/
noncomputable def decodeSeq14 (w : Word) : Except DecodeErr Instr :=
  checked (bits w 0 6 == 0 && bits w 6 6 == 0 && bits (bits w 18 6) 4 2 == 0) (.qpush (bits (bits w 18 6) 0 4) (bits w 12 6))

/-- OP 0x15 of SEQ: QPOP. -/
noncomputable def decodeSeq15 (w : Word) : Except DecodeErr Instr :=
  checked (bits w 0 6 == 0 && bits w 6 6 == 0 && bits (bits w 12 6) 4 2 == 0) (.qpop (bits w 18 6) (bits (bits w 12 6) 0 4))

/-- OP 0x16 of SEQ: FMT, FMT_Q. -/
noncomputable def decodeSeq16 (w : Word) : Except DecodeErr Instr :=
  if bits w 0 6 == 1 then checked true (.fmt (bits w 18 6) (bits w 12 6) (bits w 6 6))
  else if bits w 0 6 == 2 then checked (bits w 18 6 == 0) (.fmtQ (bits w 12 6) (bits w 6 6))
  else .error .illegal

/-- OP 0x17 of SEQ: MARK. -/
noncomputable def decodeSeq17 (w : Word) : Except DecodeErr Instr :=
  checked (bits (bits w 0 12) 11 1 == 0 && bits w 12 6 == 0 && bits w 18 6 == 0) (.mark (bits (bits w 0 12) 8 3) (bits (bits w 0 12) 0 8))

/-- OP 0x18 of SEQ: JOIN. -/
noncomputable def decodeSeq18 (w : Word) : Except DecodeErr Instr :=
  checked (bits (bits w 0 12) 3 9 == 0 && bits w 12 6 == 0 && bits w 18 6 == 0) (.join (bits (bits w 0 12) 0 3))

/-- OP 0x19 of SEQ: RDSR. -/
noncomputable def decodeSeq19 (w : Word) : Except DecodeErr Instr :=
  checked (bits w 12 6 == 0) (.rdsr (bits w 18 6) (bits w 0 12))

/-- OP 0x1A of SEQ: WRSR. -/
noncomputable def decodeSeq1A (w : Word) : Except DecodeErr Instr :=
  checked (bits w 18 6 == 0) (.wrsr (bits w 12 6) (bits w 0 12))

/-- OP 0x1B of SEQ: SEL. -/
noncomputable def decodeSeq1B (w : Word) : Except DecodeErr Instr :=
  checked (bits (bits w 0 6) 5 1 == 0) (.sel (bits w 18 6) (bits w 12 6) (bits w 6 6) (bits (bits w 0 6) 4 1) (bits (bits w 0 6) 0 4))

/-- OP 0x1F of SEQ: NOP, BRK. -/
noncomputable def decodeSeq1F (w : Word) : Except DecodeErr Instr :=
  if bits w 0 6 == 1 then checked (bits w 6 6 == 0 && bits w 12 6 == 0 && bits w 18 6 == 0) .nop
  else if bits w 0 6 == 2 then checked (bits w 6 6 == 0 && bits w 12 6 == 0 && bits w 18 6 == 0) .brk
  else .error .illegal

/-- OP 0x00 of ADR: CAPT. -/
noncomputable def decodeAdr00 (w : Word) : Except DecodeErr Instr :=
  checked (bits w 0 9 == 0 && bits w 9 6 == 0 && bits (bits w 18 6) 3 3 == 0) (.capt (bits (bits w 18 6) 0 3) (bits w 15 3))

/-- OP 0x01 of ADR: TLD, TLD_Q. -/
noncomputable def decodeAdr01 (w : Word) : Except DecodeErr Instr :=
  if bits (bits w 0 9) 0 2 == 0 then checked (bits (bits w 0 9) 2 7 == 0) (.tld (bits w 18 6) (bits w 15 3) (bits w 9 6))
  else if bits (bits w 0 9) 0 2 == 1 then checked (bits (bits w 0 9) 2 7 == 0 && bits w 18 6 == 0) (.tldQ (bits w 15 3) (bits w 9 6))
  else .error .illegal

/-- OP 0x02 of ADR: TST, TST_Q. -/
noncomputable def decodeAdr02 (w : Word) : Except DecodeErr Instr :=
  if bits (bits w 0 9) 0 2 == 0 then checked (bits (bits w 0 9) 2 7 == 0) (.tst (bits w 18 6) (bits w 15 3) (bits w 9 6))
  else if bits (bits w 0 9) 0 2 == 1 then checked (bits (bits w 0 9) 2 7 == 0 && bits w 18 6 == 0) (.tstQ (bits w 15 3) (bits w 9 6))
  else .error .illegal

/-- OP 0x03 of ADR: GLD, GLD_Q. -/
noncomputable def decodeAdr03 (w : Word) : Except DecodeErr Instr :=
  if bits (bits w 0 9) 0 2 == 0 then checked (bits (bits w 0 9) 2 7 == 0) (.gld (bits w 18 6) (bits w 15 3) (bits w 9 6))
  else if bits (bits w 0 9) 0 2 == 1 then checked (bits (bits w 0 9) 2 7 == 0 && bits w 18 6 == 0) (.gldQ (bits w 15 3) (bits w 9 6))
  else .error .illegal

/-- OP 0x04 of ADR: GST, GST_Q. -/
noncomputable def decodeAdr04 (w : Word) : Except DecodeErr Instr :=
  if bits (bits w 0 9) 0 2 == 0 then checked (bits (bits w 0 9) 2 7 == 0) (.gst (bits w 18 6) (bits w 15 3) (bits w 9 6))
  else if bits (bits w 0 9) 0 2 == 1 then checked (bits (bits w 0 9) 2 7 == 0 && bits w 18 6 == 0) (.gstQ (bits w 15 3) (bits w 9 6))
  else .error .illegal

/-- OP 0x05 of ADR: VLD. -/
noncomputable def decodeAdr05 (w : Word) : Except DecodeErr Instr :=
  if bits (bits w 0 9) 0 3 == 7 then checked (bits (bits w 0 9) 3 6 == 0 && bits w 15 3 == 0 && bits w 18 6 == 0) (.vld (bits w 9 6))
  else .error .illegal

/-- OP 0x06 of ADR: VST. -/
noncomputable def decodeAdr06 (w : Word) : Except DecodeErr Instr :=
  if bits (bits w 0 9) 0 3 == 7 then checked (bits (bits w 0 9) 3 6 == 0 && bits w 15 3 == 0 && bits w 18 6 == 0) (.vst (bits w 9 6))
  else .error .illegal

/-- OP 0x07 of ADR: SLD_ROW, SLD. -/
noncomputable def decodeAdr07 (w : Word) : Except DecodeErr Instr :=
  if bits (bits w 0 9) 0 3 == 7 then checked (bits (bits w 0 9) 3 6 == 0 && bits w 15 3 == 0 && bits w 18 6 == 0) (.sldRow (bits w 9 6))
  else checked (bits (bits w 0 9) 3 6 == 0 && bits w 15 3 == 0 && bits w 18 6 == 0) (.sld (bits w 9 6) (bits (bits w 0 9) 0 3))

/-- OP 0x08 of ADR: SST_ROW, SST. -/
noncomputable def decodeAdr08 (w : Word) : Except DecodeErr Instr :=
  if bits (bits w 0 9) 0 3 == 7 then checked (bits (bits w 0 9) 3 6 == 0 && bits w 15 3 == 0 && bits w 18 6 == 0) (.sstRow (bits w 9 6))
  else checked (bits (bits w 0 9) 3 6 == 0 && bits w 15 3 == 0) (.sst (bits w 18 6) (bits w 9 6) (bits (bits w 0 9) 0 3))

/-- OP 0x09 of ADR: ATOM_ADD, ATOM_MIN, ATOM_MAX, ATOM_AND, ATOM_OR, ATOM_XOR, ATOM_XCHG, ATOM_CAS. -/
noncomputable def decodeAdr09 (w : Word) : Except DecodeErr Instr :=
  if bits (bits w 0 9) 0 3 == 0 then checked (bits w 15 3 == 0 && bits w 18 6 == 0) (.atomAdd (bits w 9 6) (bits (bits w 0 9) 6 3) (bits (bits w 0 9) 5 1) (bits (bits w 0 9) 4 1) (bits (bits w 0 9) 3 1))
  else if bits (bits w 0 9) 0 3 == 1 then checked (bits w 15 3 == 0 && bits w 18 6 == 0) (.atomMin (bits w 9 6) (bits (bits w 0 9) 6 3) (bits (bits w 0 9) 5 1) (bits (bits w 0 9) 4 1) (bits (bits w 0 9) 3 1))
  else if bits (bits w 0 9) 0 3 == 2 then checked (bits w 15 3 == 0 && bits w 18 6 == 0) (.atomMax (bits w 9 6) (bits (bits w 0 9) 6 3) (bits (bits w 0 9) 5 1) (bits (bits w 0 9) 4 1) (bits (bits w 0 9) 3 1))
  else if bits (bits w 0 9) 0 3 == 3 then checked (bits w 15 3 == 0 && bits w 18 6 == 0) (.atomAnd (bits w 9 6) (bits (bits w 0 9) 6 3) (bits (bits w 0 9) 5 1) (bits (bits w 0 9) 4 1) (bits (bits w 0 9) 3 1))
  else if bits (bits w 0 9) 0 3 == 4 then checked (bits w 15 3 == 0 && bits w 18 6 == 0) (.atomOr (bits w 9 6) (bits (bits w 0 9) 6 3) (bits (bits w 0 9) 5 1) (bits (bits w 0 9) 4 1) (bits (bits w 0 9) 3 1))
  else if bits (bits w 0 9) 0 3 == 5 then checked (bits w 15 3 == 0 && bits w 18 6 == 0) (.atomXor (bits w 9 6) (bits (bits w 0 9) 6 3) (bits (bits w 0 9) 5 1) (bits (bits w 0 9) 4 1) (bits (bits w 0 9) 3 1))
  else if bits (bits w 0 9) 0 3 == 6 then checked (bits w 15 3 == 0 && bits w 18 6 == 0) (.atomXchg (bits w 9 6) (bits (bits w 0 9) 6 3) (bits (bits w 0 9) 5 1) (bits (bits w 0 9) 4 1) (bits (bits w 0 9) 3 1))
  else if bits (bits w 0 9) 0 3 == 7 then checked (bits w 15 3 == 0 && bits w 18 6 == 0) (.atomCas (bits w 9 6) (bits (bits w 0 9) 6 3) (bits (bits w 0 9) 5 1) (bits (bits w 0 9) 4 1) (bits (bits w 0 9) 3 1))
  else .error .illegal

/-- OP 0x0A of ADR: ATOMO_ADD, ATOMO_MIN, ATOMO_MAX, ATOMO_AND, ATOMO_OR, ATOMO_XOR, ATOMO_XCHG, ATOMO_CAS. -/
noncomputable def decodeAdr0A (w : Word) : Except DecodeErr Instr :=
  if bits (bits w 0 9) 0 3 == 0 then checked (bits w 15 3 == 0 && bits w 18 6 == 0) (.atomoAdd (bits w 9 6) (bits (bits w 0 9) 6 3) (bits (bits w 0 9) 5 1) (bits (bits w 0 9) 4 1) (bits (bits w 0 9) 3 1))
  else if bits (bits w 0 9) 0 3 == 1 then checked (bits w 15 3 == 0 && bits w 18 6 == 0) (.atomoMin (bits w 9 6) (bits (bits w 0 9) 6 3) (bits (bits w 0 9) 5 1) (bits (bits w 0 9) 4 1) (bits (bits w 0 9) 3 1))
  else if bits (bits w 0 9) 0 3 == 2 then checked (bits w 15 3 == 0 && bits w 18 6 == 0) (.atomoMax (bits w 9 6) (bits (bits w 0 9) 6 3) (bits (bits w 0 9) 5 1) (bits (bits w 0 9) 4 1) (bits (bits w 0 9) 3 1))
  else if bits (bits w 0 9) 0 3 == 3 then checked (bits w 15 3 == 0 && bits w 18 6 == 0) (.atomoAnd (bits w 9 6) (bits (bits w 0 9) 6 3) (bits (bits w 0 9) 5 1) (bits (bits w 0 9) 4 1) (bits (bits w 0 9) 3 1))
  else if bits (bits w 0 9) 0 3 == 4 then checked (bits w 15 3 == 0 && bits w 18 6 == 0) (.atomoOr (bits w 9 6) (bits (bits w 0 9) 6 3) (bits (bits w 0 9) 5 1) (bits (bits w 0 9) 4 1) (bits (bits w 0 9) 3 1))
  else if bits (bits w 0 9) 0 3 == 5 then checked (bits w 15 3 == 0 && bits w 18 6 == 0) (.atomoXor (bits w 9 6) (bits (bits w 0 9) 6 3) (bits (bits w 0 9) 5 1) (bits (bits w 0 9) 4 1) (bits (bits w 0 9) 3 1))
  else if bits (bits w 0 9) 0 3 == 6 then checked (bits w 15 3 == 0 && bits w 18 6 == 0) (.atomoXchg (bits w 9 6) (bits (bits w 0 9) 6 3) (bits (bits w 0 9) 5 1) (bits (bits w 0 9) 4 1) (bits (bits w 0 9) 3 1))
  else if bits (bits w 0 9) 0 3 == 7 then checked (bits w 15 3 == 0 && bits w 18 6 == 0) (.atomoCas (bits w 9 6) (bits (bits w 0 9) 6 3) (bits (bits w 0 9) 5 1) (bits (bits w 0 9) 4 1) (bits (bits w 0 9) 3 1))
  else .error .illegal

/-- OP 0x0B of ADR: PREF_L, PREF_T. -/
noncomputable def decodeAdr0B (w : Word) : Except DecodeErr Instr :=
  if bits (bits w 0 9) 0 1 == 0 then checked (bits (bits w 0 9) 1 8 == 0 && bits w 15 3 == 0 && bits w 18 6 == 0) (.prefL (bits w 9 6))
  else if bits (bits w 0 9) 0 1 == 1 then checked (bits (bits w 0 9) 1 8 == 0 && bits w 18 6 == 0) (.prefT (bits w 15 3) (bits w 9 6))
  else .error .illegal

/-- OP 0x0C of ADR: FENCE_ACQ, FENCE_REL, FENCE_FULL. -/
noncomputable def decodeAdr0C (w : Word) : Except DecodeErr Instr :=
  if bits (bits w 0 9) 0 2 == 1 then checked (bits (bits w 0 9) 5 4 == 0 && bits w 9 6 == 0 && bits w 15 3 == 0 && bits w 18 6 == 0) (.fenceAcq (bits (bits w 0 9) 2 3))
  else if bits (bits w 0 9) 0 2 == 2 then checked (bits (bits w 0 9) 5 4 == 0 && bits w 9 6 == 0 && bits w 15 3 == 0 && bits w 18 6 == 0) (.fenceRel (bits (bits w 0 9) 2 3))
  else if bits (bits w 0 9) 0 2 == 3 then checked (bits (bits w 0 9) 5 4 == 0 && bits w 9 6 == 0 && bits w 15 3 == 0 && bits w 18 6 == 0) (.fenceFull (bits (bits w 0 9) 2 3))
  else .error .illegal

/-- OP 0x0D of ADR: HWAIT, HWAIT_ST. -/
noncomputable def decodeAdr0D (w : Word) : Except DecodeErr Instr :=
  if bits (bits w 0 9) 0 1 == 0 then checked (bits (bits w 0 9) 1 8 == 0 && bits w 15 3 == 0) (.hwait (bits w 18 6) (bits w 9 6))
  else if bits (bits w 0 9) 0 1 == 1 then checked (bits (bits w 0 9) 1 8 == 0 && bits w 15 3 == 0) (.hwaitSt (bits w 18 6) (bits w 9 6))
  else .error .illegal

/-- OP 0x0E of ADR: LDQ. -/
noncomputable def decodeAdr0E (w : Word) : Except DecodeErr Instr :=
  checked (bits (bits w 0 9) 3 6 == 0 && bits w 15 3 == 0 && bits w 18 6 == 0) (.ldq (bits w 9 6) (bits (bits w 0 9) 0 3))

/-- OP 0x00 of VEC: VINT_ADD, VINT_SUB, VINT_MUL, VINT_MULH, VINT_AND, VINT_OR, VINT_XOR, VINT_ANDN, VINT_SHL, VINT_SHR, VINT_SRA, VINT_MIN, VINT_MAX, VINT_ABS, VINT_NEG. -/
noncomputable def decodeVec00 (w : Word) : Except DecodeErr Instr :=
  if bits w 2 4 == 0 then checked true (.vintAdd (bits w 19 5) (bits w 14 5) (bits w 9 5) (bits w 6 3) (bits w 0 2))
  else if bits w 2 4 == 1 then checked true (.vintSub (bits w 19 5) (bits w 14 5) (bits w 9 5) (bits w 6 3) (bits w 0 2))
  else if bits w 2 4 == 2 then checked true (.vintMul (bits w 19 5) (bits w 14 5) (bits w 9 5) (bits w 6 3) (bits w 0 2))
  else if bits w 2 4 == 3 then checked true (.vintMulh (bits w 19 5) (bits w 14 5) (bits w 9 5) (bits w 6 3) (bits w 0 2))
  else if bits w 0 2 == 0 && bits w 2 4 == 4 then checked true (.vintAnd (bits w 19 5) (bits w 14 5) (bits w 9 5) (bits w 6 3))
  else if bits w 0 2 == 0 && bits w 2 4 == 5 then checked true (.vintOr (bits w 19 5) (bits w 14 5) (bits w 9 5) (bits w 6 3))
  else if bits w 0 2 == 0 && bits w 2 4 == 6 then checked true (.vintXor (bits w 19 5) (bits w 14 5) (bits w 9 5) (bits w 6 3))
  else if bits w 0 2 == 0 && bits w 2 4 == 7 then checked true (.vintAndn (bits w 19 5) (bits w 14 5) (bits w 9 5) (bits w 6 3))
  else if bits w 0 2 == 0 && bits w 2 4 == 8 then checked true (.vintShl (bits w 19 5) (bits w 14 5) (bits w 9 5) (bits w 6 3))
  else if bits w 0 2 == 0 && bits w 2 4 == 9 then checked true (.vintShr (bits w 19 5) (bits w 14 5) (bits w 9 5) (bits w 6 3))
  else if bits w 0 2 == 0 && bits w 2 4 == 10 then checked true (.vintSra (bits w 19 5) (bits w 14 5) (bits w 9 5) (bits w 6 3))
  else if bits w 2 4 == 11 then checked true (.vintMin (bits w 19 5) (bits w 14 5) (bits w 9 5) (bits w 6 3) (bits w 0 2))
  else if bits w 2 4 == 12 then checked true (.vintMax (bits w 19 5) (bits w 14 5) (bits w 9 5) (bits w 6 3) (bits w 0 2))
  else if bits w 2 4 == 13 then checked (bits w 9 5 == 0) (.vintAbs (bits w 19 5) (bits w 14 5) (bits w 6 3) (bits w 0 2))
  else if bits w 2 4 == 14 then checked (bits w 9 5 == 0) (.vintNeg (bits w 19 5) (bits w 14 5) (bits w 6 3) (bits w 0 2))
  else .error .illegal

/-- OP 0x01 of VEC: VFLT_ADD, VFLT_SUB, VFLT_MUL, VFLT_DIV, VFLT_MIN, VFLT_MAX, VFLT_ABS, VFLT_NEG. -/
noncomputable def decodeVec01 (w : Word) : Except DecodeErr Instr :=
  if bits w 0 2 == 0 && bits w 2 4 == 0 then checked true (.vfltAdd (bits w 19 5) (bits w 14 5) (bits w 9 5) (bits w 6 3))
  else if bits w 0 2 == 0 && bits w 2 4 == 1 then checked true (.vfltSub (bits w 19 5) (bits w 14 5) (bits w 9 5) (bits w 6 3))
  else if bits w 0 2 == 0 && bits w 2 4 == 2 then checked true (.vfltMul (bits w 19 5) (bits w 14 5) (bits w 9 5) (bits w 6 3))
  else if bits w 0 2 == 0 && bits w 2 4 == 3 then checked true (.vfltDiv (bits w 19 5) (bits w 14 5) (bits w 9 5) (bits w 6 3))
  else if bits w 0 2 == 0 && bits w 2 4 == 4 then checked true (.vfltMin (bits w 19 5) (bits w 14 5) (bits w 9 5) (bits w 6 3))
  else if bits w 0 2 == 0 && bits w 2 4 == 5 then checked true (.vfltMax (bits w 19 5) (bits w 14 5) (bits w 9 5) (bits w 6 3))
  else if bits w 0 2 == 0 && bits w 2 4 == 6 then checked (bits w 9 5 == 0) (.vfltAbs (bits w 19 5) (bits w 14 5) (bits w 6 3))
  else if bits w 0 2 == 0 && bits w 2 4 == 7 then checked (bits w 9 5 == 0) (.vfltNeg (bits w 19 5) (bits w 14 5) (bits w 6 3))
  else .error .illegal

/-- OP 0x02 of VEC: VFMA_FMA, VFMA_FMS, VFMA_FNMA, VFMA_FNMS. -/
noncomputable def decodeVec02 (w : Word) : Except DecodeErr Instr :=
  if bits w 0 2 == 0 && bits w 2 4 == 0 then checked true (.vfmaFma (bits w 19 5) (bits w 14 5) (bits w 9 5) (bits w 6 3))
  else if bits w 0 2 == 0 && bits w 2 4 == 1 then checked true (.vfmaFms (bits w 19 5) (bits w 14 5) (bits w 9 5) (bits w 6 3))
  else if bits w 0 2 == 0 && bits w 2 4 == 2 then checked true (.vfmaFnma (bits w 19 5) (bits w 14 5) (bits w 9 5) (bits w 6 3))
  else if bits w 0 2 == 0 && bits w 2 4 == 3 then checked true (.vfmaFnms (bits w 19 5) (bits w 14 5) (bits w 9 5) (bits w 6 3))
  else .error .illegal

/-- OP 0x03 of VEC: VCMP_EQ, VCMP_NE, VCMP_LT, VCMP_LE, VCMP_GT, VCMP_GE, VCMP_UN. -/
noncomputable def decodeVec03 (w : Word) : Except DecodeErr Instr :=
  if bits w 2 4 == 0 then checked (bits (bits w 19 5) 3 2 == 0) (.vcmpEq (bits (bits w 19 5) 0 3) (bits w 14 5) (bits w 9 5) (bits w 6 3) (bits w 0 2))
  else if bits w 2 4 == 1 then checked (bits (bits w 19 5) 3 2 == 0) (.vcmpNe (bits (bits w 19 5) 0 3) (bits w 14 5) (bits w 9 5) (bits w 6 3) (bits w 0 2))
  else if bits w 2 4 == 2 then checked (bits (bits w 19 5) 3 2 == 0) (.vcmpLt (bits (bits w 19 5) 0 3) (bits w 14 5) (bits w 9 5) (bits w 6 3) (bits w 0 2))
  else if bits w 2 4 == 3 then checked (bits (bits w 19 5) 3 2 == 0) (.vcmpLe (bits (bits w 19 5) 0 3) (bits w 14 5) (bits w 9 5) (bits w 6 3) (bits w 0 2))
  else if bits w 2 4 == 4 then checked (bits (bits w 19 5) 3 2 == 0) (.vcmpGt (bits (bits w 19 5) 0 3) (bits w 14 5) (bits w 9 5) (bits w 6 3) (bits w 0 2))
  else if bits w 2 4 == 5 then checked (bits (bits w 19 5) 3 2 == 0) (.vcmpGe (bits (bits w 19 5) 0 3) (bits w 14 5) (bits w 9 5) (bits w 6 3) (bits w 0 2))
  else if bits w 0 2 == 0 && bits w 2 4 == 6 then checked (bits (bits w 19 5) 3 2 == 0) (.vcmpUn (bits (bits w 19 5) 0 3) (bits w 14 5) (bits w 9 5) (bits w 6 3))
  else .error .illegal

/-- OP 0x04 of VEC: VCVT_TO, VCVT_FROM, VCVT_F2I, VCVT_I2F, VCVT_U2F. -/
noncomputable def decodeVec04 (w : Word) : Except DecodeErr Instr :=
  if bits w 2 4 == 0 then checked true (.vcvtTo (bits w 19 5) (bits w 14 5) (bits w 9 5) (bits w 6 3) (bits w 0 2))
  else if bits w 0 2 == 0 && bits w 2 4 == 1 then checked true (.vcvtFrom (bits w 19 5) (bits w 14 5) (bits w 9 5) (bits w 6 3))
  else if bits w 2 4 == 2 then checked (bits w 9 5 == 0) (.vcvtF2i (bits w 19 5) (bits w 14 5) (bits w 6 3) (bits w 0 2))
  else if bits w 2 4 == 3 then checked (bits w 9 5 == 0) (.vcvtI2f (bits w 19 5) (bits w 14 5) (bits w 6 3) (bits w 0 2))
  else if bits w 2 4 == 4 then checked (bits w 9 5 == 0) (.vcvtU2f (bits w 19 5) (bits w 14 5) (bits w 6 3) (bits w 0 2))
  else .error .illegal

/-- OP 0x05 of VEC: VRED_SUM, VRED_MAX, VRED_MIN, VRED_ARGMAX, VRED_ARGMIN, VRED_SUM_Q, VRED_MAX_Q, VRED_MIN_Q, VRED_ARGMAX_Q, VRED_ARGMIN_Q. -/
noncomputable def decodeVec05 (w : Word) : Except DecodeErr Instr :=
  if bits w 2 4 == 0 then checked (bits w 9 5 == 0) (.vredSum (bits w 19 5) (bits w 14 5) (bits w 6 3) (bits w 0 2))
  else if bits w 2 4 == 1 then checked (bits w 9 5 == 0) (.vredMax (bits w 19 5) (bits w 14 5) (bits w 6 3) (bits w 0 2))
  else if bits w 2 4 == 2 then checked (bits w 9 5 == 0) (.vredMin (bits w 19 5) (bits w 14 5) (bits w 6 3) (bits w 0 2))
  else if bits w 2 4 == 3 then checked (bits w 9 5 == 0) (.vredArgmax (bits w 19 5) (bits w 14 5) (bits w 6 3) (bits w 0 2))
  else if bits w 2 4 == 4 then checked (bits w 9 5 == 0) (.vredArgmin (bits w 19 5) (bits w 14 5) (bits w 6 3) (bits w 0 2))
  else if bits w 2 4 == 8 then checked (bits w 9 5 == 0 && bits w 19 5 == 0) (.vredSumQ (bits w 14 5) (bits w 6 3) (bits w 0 2))
  else if bits w 2 4 == 9 then checked (bits w 9 5 == 0 && bits w 19 5 == 0) (.vredMaxQ (bits w 14 5) (bits w 6 3) (bits w 0 2))
  else if bits w 2 4 == 10 then checked (bits w 9 5 == 0 && bits w 19 5 == 0) (.vredMinQ (bits w 14 5) (bits w 6 3) (bits w 0 2))
  else if bits w 2 4 == 11 then checked (bits w 9 5 == 0 && bits w 19 5 == 0) (.vredArgmaxQ (bits w 14 5) (bits w 6 3) (bits w 0 2))
  else if bits w 2 4 == 12 then checked (bits w 9 5 == 0 && bits w 19 5 == 0) (.vredArgminQ (bits w 14 5) (bits w 6 3) (bits w 0 2))
  else .error .illegal

/-- OP 0x06 of VEC: VSCAN_SUM, VSCAN_MAX, VSCAN_MIN, VSCAN_SUM_X, VSCAN_MAX_X, VSCAN_MIN_X. -/
noncomputable def decodeVec06 (w : Word) : Except DecodeErr Instr :=
  if bits w 2 4 == 0 then checked (bits w 9 5 == 0) (.vscanSum (bits w 19 5) (bits w 14 5) (bits w 6 3) (bits w 0 2))
  else if bits w 2 4 == 1 then checked (bits w 9 5 == 0) (.vscanMax (bits w 19 5) (bits w 14 5) (bits w 6 3) (bits w 0 2))
  else if bits w 2 4 == 2 then checked (bits w 9 5 == 0) (.vscanMin (bits w 19 5) (bits w 14 5) (bits w 6 3) (bits w 0 2))
  else if bits w 2 4 == 8 then checked (bits w 9 5 == 0) (.vscanSumX (bits w 19 5) (bits w 14 5) (bits w 6 3) (bits w 0 2))
  else if bits w 2 4 == 9 then checked (bits w 9 5 == 0) (.vscanMaxX (bits w 19 5) (bits w 14 5) (bits w 6 3) (bits w 0 2))
  else if bits w 2 4 == 10 then checked (bits w 9 5 == 0) (.vscanMinX (bits w 19 5) (bits w 14 5) (bits w 6 3) (bits w 0 2))
  else .error .illegal

/-- OP 0x07 of VEC: VPERM_IDX, VPERM_ROT, VPERM_BC. -/
noncomputable def decodeVec07 (w : Word) : Except DecodeErr Instr :=
  if bits w 0 2 == 0 && bits w 2 4 == 0 then checked true (.vpermIdx (bits w 19 5) (bits w 14 5) (bits w 9 5) (bits w 6 3))
  else if bits w 0 2 == 0 && bits w 2 4 == 1 then checked true (.vpermRot (bits w 19 5) (bits w 14 5) (bits w 9 5) (bits w 6 3))
  else if bits w 0 2 == 0 && bits w 2 4 == 2 then checked true (.vpermBc (bits w 19 5) (bits w 14 5) (bits w 9 5) (bits w 6 3))
  else .error .illegal

/-- OP 0x08 of VEC: VSEL. -/
noncomputable def decodeVec08 (w : Word) : Except DecodeErr Instr :=
  if bits w 0 2 == 0 && bits w 2 4 == 0 then checked true (.vsel (bits w 19 5) (bits w 14 5) (bits w 9 5) (bits w 6 3))
  else .error .illegal

/-- OP 0x09 of VEC: VSFU_EXP2, VSFU_LOG2, VSFU_RCP, VSFU_RSQRT, VSFU_SQRT. -/
noncomputable def decodeVec09 (w : Word) : Except DecodeErr Instr :=
  if bits w 0 2 == 0 && bits w 2 4 == 0 then checked (bits w 9 5 == 0) (.vsfuExp2 (bits w 19 5) (bits w 14 5) (bits w 6 3))
  else if bits w 0 2 == 0 && bits w 2 4 == 1 then checked (bits w 9 5 == 0) (.vsfuLog2 (bits w 19 5) (bits w 14 5) (bits w 6 3))
  else if bits w 0 2 == 0 && bits w 2 4 == 2 then checked (bits w 9 5 == 0) (.vsfuRcp (bits w 19 5) (bits w 14 5) (bits w 6 3))
  else if bits w 0 2 == 0 && bits w 2 4 == 3 then checked (bits w 9 5 == 0) (.vsfuRsqrt (bits w 19 5) (bits w 14 5) (bits w 6 3))
  else if bits w 0 2 == 0 && bits w 2 4 == 4 then checked (bits w 9 5 == 0) (.vsfuSqrt (bits w 19 5) (bits w 14 5) (bits w 6 3))
  else .error .illegal

/-- OP 0x0A of VEC: VMOV_SPLAT, VMOV_INS, VMOV_EXT, VMOV_MV. -/
noncomputable def decodeVec0A (w : Word) : Except DecodeErr Instr :=
  if bits w 0 2 == 0 && bits w 2 4 == 0 then checked (bits w 9 5 == 0) (.vmovSplat (bits w 19 5) (bits w 14 5) (bits w 6 3))
  else if bits w 0 2 == 0 && bits w 2 4 == 1 then checked (bits w 6 3 == 0) (.vmovIns (bits w 19 5) (bits w 14 5) (bits w 9 5))
  else if bits w 0 2 == 0 && bits w 2 4 == 2 then checked (bits w 6 3 == 0 && bits w 19 5 == 0) (.vmovExt (bits w 14 5) (bits w 9 5))
  else if bits w 0 2 == 0 && bits w 2 4 == 3 then checked (bits w 9 5 == 0) (.vmovMv (bits w 19 5) (bits w 14 5) (bits w 6 3))
  else .error .illegal

/-- OP 0x0B of VEC: VCOMP. -/
noncomputable def decodeVec0B (w : Word) : Except DecodeErr Instr :=
  checked true (.vcomp (bits w 19 5) (bits w 14 5) (bits w 9 5) (bits w 6 3) (bits w 2 4) (bits w 0 2))

/-- OP 0x0C of VEC: VQNT_C, VQNT_CR, VQNT_G, VQNT_GR. -/
noncomputable def decodeVec0C (w : Word) : Except DecodeErr Instr :=
  if bits w 2 4 == 0 then checked true (.vqntC (bits w 19 5) (bits w 14 5) (bits w 9 5) (bits w 6 3) (bits w 0 2))
  else if bits w 2 4 == 1 then checked true (.vqntCr (bits w 19 5) (bits w 14 5) (bits w 9 5) (bits w 6 3) (bits w 0 2))
  else if bits w 2 4 == 2 then checked true (.vqntG (bits w 19 5) (bits w 14 5) (bits w 9 5) (bits w 6 3) (bits w 0 2))
  else if bits w 2 4 == 3 then checked true (.vqntGr (bits w 19 5) (bits w 14 5) (bits w 9 5) (bits w 6 3) (bits w 0 2))
  else .error .illegal

/-- OP 0x0D of VEC: VDQNT, VDQNT_ACC. -/
noncomputable def decodeVec0D (w : Word) : Except DecodeErr Instr :=
  if bits w 0 2 == 0 && bits w 2 4 == 0 then checked true (.vdqnt (bits w 19 5) (bits w 14 5) (bits w 9 5) (bits w 6 3))
  else if bits w 0 2 == 0 && bits w 2 4 == 1 then checked true (.vdqntAcc (bits w 19 5) (bits w 14 5) (bits w 9 5) (bits w 6 3))
  else .error .illegal

/-- OP 0x0E of VEC: VRAND_U, VRAND_F. -/
noncomputable def decodeVec0E (w : Word) : Except DecodeErr Instr :=
  if bits w 0 2 == 0 && bits w 2 4 == 0 then checked (bits w 9 5 == 0 && bits w 14 5 == 0) (.vrandU (bits w 19 5) (bits w 6 3))
  else if bits w 0 2 == 0 && bits w 2 4 == 1 then checked (bits w 9 5 == 0 && bits w 14 5 == 0) (.vrandF (bits w 19 5) (bits w 6 3))
  else .error .illegal

/-- OP 0x0F of VEC: VMASK_AND, VMASK_OR, VMASK_XOR, VMASK_ANDN, VMASK_NOT, VMASK_MOV, VMASK_FIRST, VMASK_CNT. -/
noncomputable def decodeVec0F (w : Word) : Except DecodeErr Instr :=
  if bits w 2 4 == 0 then checked (bits w 0 2 == 0 && bits w 6 3 == 0 && bits (bits w 9 5) 3 2 == 0 && bits (bits w 14 5) 3 2 == 0 && bits (bits w 19 5) 3 2 == 0) (.vmaskAnd (bits (bits w 19 5) 0 3) (bits (bits w 14 5) 0 3) (bits (bits w 9 5) 0 3))
  else if bits w 2 4 == 1 then checked (bits w 0 2 == 0 && bits w 6 3 == 0 && bits (bits w 9 5) 3 2 == 0 && bits (bits w 14 5) 3 2 == 0 && bits (bits w 19 5) 3 2 == 0) (.vmaskOr (bits (bits w 19 5) 0 3) (bits (bits w 14 5) 0 3) (bits (bits w 9 5) 0 3))
  else if bits w 2 4 == 2 then checked (bits w 0 2 == 0 && bits w 6 3 == 0 && bits (bits w 9 5) 3 2 == 0 && bits (bits w 14 5) 3 2 == 0 && bits (bits w 19 5) 3 2 == 0) (.vmaskXor (bits (bits w 19 5) 0 3) (bits (bits w 14 5) 0 3) (bits (bits w 9 5) 0 3))
  else if bits w 2 4 == 3 then checked (bits w 0 2 == 0 && bits w 6 3 == 0 && bits (bits w 9 5) 3 2 == 0 && bits (bits w 14 5) 3 2 == 0 && bits (bits w 19 5) 3 2 == 0) (.vmaskAndn (bits (bits w 19 5) 0 3) (bits (bits w 14 5) 0 3) (bits (bits w 9 5) 0 3))
  else if bits w 2 4 == 4 then checked (bits w 0 2 == 0 && bits w 6 3 == 0 && bits w 9 5 == 0 && bits (bits w 14 5) 3 2 == 0 && bits (bits w 19 5) 3 2 == 0) (.vmaskNot (bits (bits w 19 5) 0 3) (bits (bits w 14 5) 0 3))
  else if bits w 2 4 == 5 then checked (bits w 0 2 == 0 && bits w 6 3 == 0 && bits w 9 5 == 0 && bits (bits w 14 5) 3 2 == 0 && bits (bits w 19 5) 3 2 == 0) (.vmaskMov (bits (bits w 19 5) 0 3) (bits (bits w 14 5) 0 3))
  else if bits w 2 4 == 6 then checked (bits w 0 2 == 0 && bits w 6 3 == 0 && bits w 9 5 == 0 && bits (bits w 14 5) 3 2 == 0 && bits (bits w 19 5) 3 2 == 0) (.vmaskFirst (bits (bits w 19 5) 0 3) (bits (bits w 14 5) 0 3))
  else if bits w 2 4 == 7 then checked (bits w 0 2 == 0 && bits w 6 3 == 0 && bits w 9 5 == 0 && bits (bits w 14 5) 3 2 == 0 && bits w 19 5 == 0) (.vmaskCnt (bits (bits w 14 5) 0 3))
  else .error .illegal

/-- OP 0x10 of VEC: VQIN, VQIN_Q5, VQIN_S. -/
noncomputable def decodeVec10 (w : Word) : Except DecodeErr Instr :=
  if bits w 2 4 == 0 then checked (bits w 0 2 == 0 && bits w 9 5 == 0 && bits w 14 5 == 0) (.vqin (bits w 19 5) (bits w 6 3))
  else if bits w 2 4 == 1 then checked (bits w 0 2 == 0 && bits w 9 5 == 0 && bits w 14 5 == 0) (.vqinQ5 (bits w 19 5) (bits w 6 3))
  else if bits w 2 4 == 2 then checked (bits w 0 2 == 0 && bits w 9 5 == 0 && bits w 14 5 == 0) (.vqinS (bits w 19 5) (bits w 6 3))
  else .error .illegal

/-- OP 0x11 of VEC: VQOUT, VQOUT_Q11. -/
noncomputable def decodeVec11 (w : Word) : Except DecodeErr Instr :=
  if bits w 2 4 == 0 then checked (bits w 0 2 == 0 && bits w 9 5 == 0 && bits w 19 5 == 0) (.vqout (bits w 14 5) (bits w 6 3))
  else if bits w 2 4 == 1 then checked (bits w 0 2 == 0 && bits w 9 5 == 0 && bits w 19 5 == 0) (.vqoutQ11 (bits w 14 5) (bits w 6 3))
  else .error .illegal

/-- OP 0x12 of VEC: VIOTA_IDX, VIOTA_CNT. -/
noncomputable def decodeVec12 (w : Word) : Except DecodeErr Instr :=
  if bits w 0 2 == 0 && bits w 2 4 == 0 then checked (bits w 9 5 == 0 && bits w 14 5 == 0) (.viotaIdx (bits w 19 5) (bits w 6 3))
  else if bits w 0 2 == 0 && bits w 2 4 == 1 then checked (bits w 9 5 == 0 && bits (bits w 14 5) 3 2 == 0) (.viotaCnt (bits w 19 5) (bits (bits w 14 5) 0 3) (bits w 6 3))
  else .error .illegal

/-- OP 0x00 of MAT: MMA. -/
noncomputable def decodeMat00 (w : Word) : Except DecodeErr Instr :=
  checked (bits w 0 3 == 0 && bits w 5 5 == 0) (.mma (bits w 22 2) (bits w 16 6) (bits w 10 6) (bits w 4 1) (bits w 3 1))

/-- OP 0x01 of MAT: MMAS. -/
noncomputable def decodeMat01 (w : Word) : Except DecodeErr Instr :=
  checked (bits w 0 3 == 0) (.mmas (bits w 22 2) (bits w 16 6) (bits w 10 6) (bits w 5 5) (bits w 4 1) (bits w 3 1))

/-- OP 0x02 of MAT: MMAT. -/
noncomputable def decodeMat02 (w : Word) : Except DecodeErr Instr :=
  checked (bits w 0 3 == 0 && bits w 5 5 == 0) (.mmat (bits w 22 2) (bits w 16 6) (bits w 10 6) (bits w 4 1) (bits w 3 1))

/-- OP 0x03 of MAT: MDIST. -/
noncomputable def decodeMat03 (w : Word) : Except DecodeErr Instr :=
  checked (bits w 0 3 == 0 && bits w 4 1 == 0 && bits w 5 5 == 0) (.mdist (bits w 22 2) (bits w 16 6) (bits w 10 6) (bits w 3 1))

/-- OP 0x04 of MAT: MTOPK. -/
noncomputable def decodeMat04 (w : Word) : Except DecodeErr Instr :=
  checked (bits w 4 1 == 0 && bits w 5 5 == 0) (.mtopk (bits w 22 2) (bits w 16 6) (bits w 10 6) (bits w 3 1) (bits w 0 3))

/-- OP 0x05 of MAT: MZERO. -/
noncomputable def decodeMat05 (w : Word) : Except DecodeErr Instr :=
  checked (bits w 0 3 == 0 && bits w 3 1 == 0 && bits w 4 1 == 0 && bits w 5 5 == 0 && bits w 10 6 == 0 && bits w 16 6 == 0) (.mzero (bits w 22 2))

/-- OP 0x06 of MAT: MLOAD. -/
noncomputable def decodeMat06 (w : Word) : Except DecodeErr Instr :=
  checked (bits (bits w 0 3) 1 2 == 0 && bits w 3 1 == 0 && bits w 10 6 == 0 && bits w 16 6 == 0) (.mload (bits w 22 2) (bits w 5 5) (bits w 4 1) (bits (bits w 0 3) 0 1))

/-- OP 0x07 of MAT: MSTORE. -/
noncomputable def decodeMat07 (w : Word) : Except DecodeErr Instr :=
  checked (bits w 3 1 == 0 && bits w 10 6 == 0 && bits w 16 6 == 0) (.mstore (bits w 22 2) (bits w 5 5) (bits w 4 1) (bits w 0 3))

/-- OP 0x08 of MAT: MRD_ROW, MRD_COL, MRD_RCK, MRD_CCK. -/
noncomputable def decodeMat08 (w : Word) : Except DecodeErr Instr :=
  if bits w 0 3 == 0 then checked (bits w 3 1 == 0 && bits w 4 1 == 0 && bits w 10 6 == 0 && bits w 16 6 == 0) (.mrdRow (bits w 22 2) (bits w 5 5))
  else if bits w 0 3 == 1 then checked (bits w 3 1 == 0 && bits w 4 1 == 0 && bits w 10 6 == 0 && bits w 16 6 == 0) (.mrdCol (bits w 22 2) (bits w 5 5))
  else if bits w 0 3 == 2 then checked (bits w 3 1 == 0 && bits w 4 1 == 0 && bits w 5 5 == 0 && bits w 10 6 == 0 && bits w 16 6 == 0) (.mrdRck (bits w 22 2))
  else if bits w 0 3 == 3 then checked (bits w 3 1 == 0 && bits w 4 1 == 0 && bits w 5 5 == 0 && bits w 10 6 == 0 && bits w 16 6 == 0) (.mrdCck (bits w 22 2))
  else .error .illegal

/-- OP 0x09 of MAT: MWR_ROW, MWR_COL, MWR_RCK, MWR_CCK. -/
noncomputable def decodeMat09 (w : Word) : Except DecodeErr Instr :=
  if bits w 0 3 == 0 then checked (bits w 4 1 == 0 && bits w 10 6 == 0 && bits w 16 6 == 0) (.mwrRow (bits w 22 2) (bits w 5 5) (bits w 3 1))
  else if bits w 0 3 == 1 then checked (bits w 4 1 == 0 && bits w 10 6 == 0 && bits w 16 6 == 0) (.mwrCol (bits w 22 2) (bits w 5 5) (bits w 3 1))
  else if bits w 0 3 == 2 then checked (bits w 3 1 == 0 && bits w 4 1 == 0 && bits w 5 5 == 0 && bits w 10 6 == 0 && bits w 16 6 == 0) (.mwrRck (bits w 22 2))
  else if bits w 0 3 == 3 then checked (bits w 3 1 == 0 && bits w 4 1 == 0 && bits w 5 5 == 0 && bits w 10 6 == 0 && bits w 16 6 == 0) (.mwrCck (bits w 22 2))
  else .error .illegal

/-- OP 0x0A of MAT: MCOMMIT. -/
noncomputable def decodeMat0A (w : Word) : Except DecodeErr Instr :=
  checked (bits w 0 3 == 0 && bits w 3 1 == 0 && bits w 4 1 == 0 && bits w 5 5 == 0 && bits w 10 6 == 0 && bits w 16 6 == 0 && bits w 22 2 == 0) .mcommit

/-- OP 0x0B of MAT: MWAIT, MWAIT_ACC. -/
noncomputable def decodeMat0B (w : Word) : Except DecodeErr Instr :=
  if bits (bits w 0 3) 2 1 == 0 && bits w 3 1 == 0 then checked (bits w 4 1 == 0 && bits w 5 5 == 0 && bits w 10 6 == 0 && bits w 16 6 == 0 && bits w 22 2 == 0) (.mwait (bits (bits w 0 3) 0 2))
  else if bits w 3 1 == 1 then checked (bits w 0 3 == 0 && bits w 4 1 == 0 && bits w 5 5 == 0 && bits w 10 6 == 0 && bits w 16 6 == 0) (.mwaitAcc (bits w 22 2))
  else .error .illegal

/-- OP 0x0C of MAT: MCKS. -/
noncomputable def decodeMat0C (w : Word) : Except DecodeErr Instr :=
  checked (bits w 0 3 == 0 && bits w 3 1 == 0 && bits w 4 1 == 0 && bits w 10 6 == 0 && bits w 16 6 == 0) (.mcks (bits w 22 2) (bits w 5 5))

/-- OP 0x0D of MAT: MFIX. -/
noncomputable def decodeMat0D (w : Word) : Except DecodeErr Instr :=
  checked (bits w 0 3 == 0 && bits w 3 1 == 0 && bits w 4 1 == 0 && bits w 5 5 == 0 && bits w 10 6 == 0 && bits w 16 6 == 0) (.mfix (bits w 22 2))

/-- OP 0x00 of XFR: XCOPY, XCOPY_T, XCOPY_S. -/
noncomputable def decodeXfr00 (w : Word) : Except DecodeErr Instr :=
  if bits w 4 5 == 0 then checked (bits w 0 4 == 0 && bits w 15 3 == 0) (.xcopy (bits w 18 6) (bits w 9 6))
  else if bits w 4 5 == 1 then checked (bits w 0 4 == 0) (.xcopyT (bits w 18 6) (bits w 15 3) (bits w 9 6))
  else if bits w 4 5 == 2 then checked (bits w 0 4 == 0 && bits w 15 3 == 0) (.xcopyS (bits w 18 6) (bits w 9 6))
  else .error .illegal

/-- OP 0x01 of XFR: XPUT, XPUT_T. -/
noncomputable def decodeXfr01 (w : Word) : Except DecodeErr Instr :=
  if bits w 4 5 == 0 then checked (bits w 0 4 == 0 && bits w 15 3 == 0) (.xput (bits w 18 6) (bits w 9 6))
  else if bits w 4 5 == 1 then checked (bits w 0 4 == 0) (.xputT (bits w 18 6) (bits w 15 3) (bits w 9 6))
  else .error .illegal

/-- OP 0x02 of XFR: XGATH. -/
noncomputable def decodeXfr02 (w : Word) : Except DecodeErr Instr :=
  if bits w 4 5 == 0 then checked (bits w 0 4 == 0) (.xgath (bits w 18 6) (bits w 15 3) (bits w 9 6))
  else .error .illegal

/-- OP 0x03 of XFR: XSCAT_O, XSCAT_ADD, XSCAT_MAX, XSCAT_MIN. -/
noncomputable def decodeXfr03 (w : Word) : Except DecodeErr Instr :=
  if bits w 4 5 == 0 then checked (bits w 0 4 == 0) (.xscatO (bits w 18 6) (bits w 15 3) (bits w 9 6))
  else if bits w 4 5 == 1 then checked (bits w 0 4 == 0) (.xscatAdd (bits w 18 6) (bits w 15 3) (bits w 9 6))
  else if bits w 4 5 == 2 then checked (bits w 0 4 == 0) (.xscatMax (bits w 18 6) (bits w 15 3) (bits w 9 6))
  else if bits w 4 5 == 3 then checked (bits w 0 4 == 0) (.xscatMin (bits w 18 6) (bits w 15 3) (bits w 9 6))
  else .error .illegal

/-- OP 0x04 of XFR: XPACK, XPACK_K1, XPACK_S. -/
noncomputable def decodeXfr04 (w : Word) : Except DecodeErr Instr :=
  if bits (bits w 0 4) 0 1 == 0 && bits w 4 5 == 0 then checked (bits (bits w 0 4) 1 3 == 0) (.xpack (bits w 18 6) (bits w 15 3) (bits w 9 6))
  else if bits (bits w 0 4) 0 1 == 1 && bits w 4 5 == 0 then checked (bits (bits w 0 4) 1 3 == 0) (.xpackK1 (bits w 18 6) (bits w 15 3) (bits w 9 6))
  else if bits w 4 5 == 1 then checked (bits w 0 4 == 0 && bits w 15 3 == 0) (.xpackS (bits w 18 6) (bits w 9 6))
  else .error .illegal

/-- OP 0x05 of XFR: XHALO. -/
noncomputable def decodeXfr05 (w : Word) : Except DecodeErr Instr :=
  if bits w 4 5 == 0 then checked (bits w 15 3 == 0) (.xhalo (bits w 18 6) (bits w 9 6) (bits w 0 4))
  else .error .illegal

/-- OP 0x06 of XFR: XFILL. -/
noncomputable def decodeXfr06 (w : Word) : Except DecodeErr Instr :=
  if bits w 4 5 == 0 then checked (bits w 0 4 == 0 && bits w 15 3 == 0) (.xfill (bits w 18 6) (bits w 9 6))
  else .error .illegal

/-- OP 0x07 of XFR: XREL. -/
noncomputable def decodeXfr07 (w : Word) : Except DecodeErr Instr :=
  if bits w 4 5 == 0 then checked (bits w 0 4 == 0 && bits w 9 6 == 0 && bits w 15 3 == 0) (.xrel (bits w 18 6))
  else .error .illegal

/-- OP 0x08 of XFR: XABORT. -/
noncomputable def decodeXfr08 (w : Word) : Except DecodeErr Instr :=
  if bits w 4 5 == 0 then checked (bits w 0 4 == 0 && bits w 9 6 == 0 && bits w 15 3 == 0) (.xabort (bits w 18 6))
  else .error .illegal

/-- OP 0x00 of FAB: LYSET, LYSET_GET. -/
noncomputable def decodeFab00 (w : Word) : Except DecodeErr Instr :=
  if bits w 0 4 == 0 then checked true (.lyset (bits w 16 8) (bits w 10 6) (bits w 4 6))
  else if bits w 0 4 == 1 then checked (bits w 4 6 == 0) (.lysetGet (bits w 16 8) (bits w 10 6))
  else .error .illegal

/-- OP 0x01 of FAB: RESHARD. -/
noncomputable def decodeFab01 (w : Word) : Except DecodeErr Instr :=
  if bits w 0 4 == 0 then checked (bits w 4 6 == 0) (.reshard (bits w 16 8) (bits w 10 6))
  else .error .illegal

/-- OP 0x02 of FAB: COLL_SUM, COLL_MAX, COLL_MIN, COLL_AMERGE, COLL_RING. -/
noncomputable def decodeFab02 (w : Word) : Except DecodeErr Instr :=
  if bits w 0 4 == 0 then checked true (.collSum (bits w 16 8) (bits w 10 6) (bits w 4 6))
  else if bits w 0 4 == 1 then checked true (.collMax (bits w 16 8) (bits w 10 6) (bits w 4 6))
  else if bits w 0 4 == 2 then checked true (.collMin (bits w 16 8) (bits w 10 6) (bits w 4 6))
  else if bits w 0 4 == 3 then checked true (.collAmerge (bits w 16 8) (bits w 10 6) (bits w 4 6))
  else if bits w 0 4 == 4 then checked true (.collRing (bits w 16 8) (bits w 10 6) (bits w 4 6))
  else .error .illegal

/-- OP 0x03 of FAB: RANKS. -/
noncomputable def decodeFab03 (w : Word) : Except DecodeErr Instr :=
  if bits w 0 4 == 0 then checked (bits (bits w 16 8) 2 6 == 0) (.ranks (bits (bits w 16 8) 0 2) (bits w 10 6) (bits w 4 6))
  else .error .illegal

/-- OP 0x04 of FAB: RKINV. -/
noncomputable def decodeFab04 (w : Word) : Except DecodeErr Instr :=
  if bits w 0 4 == 0 then checked (bits w 4 6 == 0 && bits w 10 6 == 0 && bits (bits w 16 8) 2 6 == 0) (.rkinv (bits (bits w 16 8) 0 2))
  else .error .illegal

/-- OP 0x05 of FAB: FWAIT, FWAIT_SLOT. -/
noncomputable def decodeFab05 (w : Word) : Except DecodeErr Instr :=
  if bits w 0 4 == 0 then checked (bits w 4 6 == 0 && bits w 10 6 == 0 && bits w 16 8 == 0) .fwait
  else if bits w 0 4 == 1 then checked (bits w 4 6 == 0 && bits w 10 6 == 0) (.fwaitSlot (bits w 16 8))
  else .error .illegal

/-- OP 0x06 of FAB: RESID. -/
noncomputable def decodeFab06 (w : Word) : Except DecodeErr Instr :=
  if bits w 0 4 == 0 then checked true (.resid (bits w 16 8) (bits w 10 6) (bits w 4 6))
  else .error .illegal

/-- OP 0x07 of FAB: FABORT. -/
noncomputable def decodeFab07 (w : Word) : Except DecodeErr Instr :=
  if bits w 0 4 == 0 then checked (bits w 4 6 == 0 && bits w 10 6 == 0 && bits w 16 8 == 0) .fabort
  else .error .illegal

/-- OP 0x00 of ATN: KVMAP, KVMAP_NEW, KVMAP_UN. -/
noncomputable def decodeAtn00 (w : Word) : Except DecodeErr Instr :=
  if bits w 0 6 == 0 then checked (bits w 6 6 == 0 && bits w 18 6 == 0) (.kvmap (bits w 12 6))
  else if bits w 0 6 == 1 then checked (bits w 6 6 == 0 && bits w 18 6 == 0) (.kvmapNew (bits w 12 6))
  else if bits w 0 6 == 2 then checked (bits w 6 6 == 0 && bits w 18 6 == 0) (.kvmapUn (bits w 12 6))
  else .error .illegal

/-- OP 0x01 of ATN: KVLOCK, KVLOCK_UN. -/
noncomputable def decodeAtn01 (w : Word) : Except DecodeErr Instr :=
  if bits w 0 6 == 0 then checked (bits w 6 6 == 0 && bits w 18 6 == 0) (.kvlock (bits w 12 6))
  else if bits w 0 6 == 1 then checked (bits w 6 6 == 0 && bits w 18 6 == 0) (.kvlockUn (bits w 12 6))
  else .error .illegal

/-- OP 0x02 of ATN: KVAPP. -/
noncomputable def decodeAtn02 (w : Word) : Except DecodeErr Instr :=
  if bits w 0 6 == 0 then checked (bits w 6 6 == 0 && bits w 18 6 == 0) (.kvapp (bits w 12 6))
  else .error .illegal

/-- OP 0x03 of ATN: KVROLL. -/
noncomputable def decodeAtn03 (w : Word) : Except DecodeErr Instr :=
  if bits w 0 6 == 0 then checked (bits w 6 6 == 0 && bits w 18 6 == 0) (.kvroll (bits w 12 6))
  else .error .illegal

/-- OP 0x04 of ATN: PATT. -/
noncomputable def decodeAtn04 (w : Word) : Except DecodeErr Instr :=
  if bits w 0 6 == 0 then checked (bits w 6 6 == 0 && bits (bits w 18 6) 5 1 == 0) (.patt (bits (bits w 18 6) 0 5) (bits w 12 6))
  else .error .illegal

/-- OP 0x05 of ATN: MPROG. -/
noncomputable def decodeAtn05 (w : Word) : Except DecodeErr Instr :=
  if bits w 0 6 == 0 then checked (bits (bits w 18 6) 2 4 == 0) (.mprog (bits (bits w 18 6) 0 2) (bits w 12 6) (bits w 6 6))
  else .error .illegal

/-- OP 0x06 of ATN: MEVAL. -/
noncomputable def decodeAtn06 (w : Word) : Except DecodeErr Instr :=
  if bits w 0 6 == 0 then checked (bits w 6 6 == 0 && bits (bits w 18 6) 2 4 == 0) (.meval (bits (bits w 18 6) 0 2) (bits w 12 6))
  else .error .illegal

/-- OP 0x07 of ATN: CENT. -/
noncomputable def decodeAtn07 (w : Word) : Except DecodeErr Instr :=
  if bits w 0 6 == 0 then checked (bits w 6 6 == 0 && bits w 18 6 == 0) (.cent (bits w 12 6))
  else .error .illegal

/-- OP 0x08 of ATN: CSEL. -/
noncomputable def decodeAtn08 (w : Word) : Except DecodeErr Instr :=
  if bits w 0 6 == 0 then checked (bits w 6 6 == 0 && bits (bits w 18 6) 5 1 == 0) (.csel (bits (bits w 18 6) 0 5) (bits w 12 6))
  else .error .illegal

/-- OP 0x09 of ATN: RETN, RETN_Q. -/
noncomputable def decodeAtn09 (w : Word) : Except DecodeErr Instr :=
  if bits w 0 6 == 0 then checked (bits w 18 6 == 0) (.retn (bits w 12 6) (bits w 6 6))
  else if bits w 0 6 == 1 then checked (bits w 6 6 == 0 && bits w 18 6 == 0) (.retnQ (bits w 12 6))
  else .error .illegal

/-- OP 0x0A of ATN: SIEVE. -/
noncomputable def decodeAtn0A (w : Word) : Except DecodeErr Instr :=
  if bits w 0 6 == 0 then checked (bits w 6 6 == 0 && bits w 18 6 == 0) (.sieve (bits w 12 6))
  else .error .illegal

/-- OP 0x0B of ATN: AWAIT, AWAIT_ABORT. -/
noncomputable def decodeAtn0B (w : Word) : Except DecodeErr Instr :=
  if bits w 0 6 == 0 then checked (bits w 6 6 == 0 && bits w 12 6 == 0 && bits w 18 6 == 0) .await
  else if bits w 0 6 == 1 then checked (bits w 6 6 == 0 && bits w 12 6 == 0 && bits w 18 6 == 0) .awaitAbort
  else .error .illegal

/-- OP 0x0C of ATN: MCNT_CLR. -/
noncomputable def decodeAtn0C (w : Word) : Except DecodeErr Instr :=
  if bits w 0 6 == 0 then checked (bits w 6 6 == 0 && bits w 12 6 == 0 && bits w 18 6 == 0) .mcntClr
  else .error .illegal

/-- OP 0x00 of SYN: BAR, BAR_ARR, BAR_WT. -/
noncomputable def decodeSyn00 (w : Word) : Except DecodeErr Instr :=
  if bits w 0 4 == 0 then checked (bits w 4 6 == 0 && bits (bits w 16 8) 6 2 == 0) (.bar (bits (bits w 16 8) 3 3) (bits (bits w 16 8) 0 3) (bits w 10 6))
  else if bits w 0 4 == 1 then checked (bits w 4 6 == 0 && bits (bits w 16 8) 6 2 == 0) (.barArr (bits (bits w 16 8) 3 3) (bits (bits w 16 8) 0 3) (bits w 10 6))
  else if bits w 0 4 == 2 then checked (bits w 4 6 == 0 && bits w 10 6 == 0 && bits (bits w 16 8) 6 2 == 0) (.barWt (bits (bits w 16 8) 3 3) (bits (bits w 16 8) 0 3))
  else .error .illegal

/-- OP 0x01 of SYN: CBAR_INIT, CBAR_ADD, CBAR_WAIT, CBAR_TAKE, CBAR_FREE. -/
noncomputable def decodeSyn01 (w : Word) : Except DecodeErr Instr :=
  if bits w 0 4 == 0 then checked (bits w 4 6 == 0 && bits (bits w 16 8) 4 4 == 0) (.cbarInit (bits (bits w 16 8) 0 4) (bits w 10 6))
  else if bits w 0 4 == 1 then checked (bits w 4 6 == 0 && bits (bits w 16 8) 4 4 == 0) (.cbarAdd (bits (bits w 16 8) 0 4) (bits w 10 6))
  else if bits w 0 4 == 2 then checked (bits w 4 6 == 0 && bits w 10 6 == 0 && bits (bits w 16 8) 4 4 == 0) (.cbarWait (bits (bits w 16 8) 0 4))
  else if bits w 0 4 == 3 then checked (bits w 4 6 == 0 && bits w 10 6 == 0 && bits (bits w 16 8) 4 4 == 0) (.cbarTake (bits (bits w 16 8) 0 4))
  else if bits w 0 4 == 4 then checked (bits w 4 6 == 0 && bits w 10 6 == 0 && bits (bits w 16 8) 4 4 == 0) (.cbarFree (bits (bits w 16 8) 0 4))
  else .error .illegal

/-- OP 0x02 of SYN: SBAR_P, SBAR_C. -/
noncomputable def decodeSyn02 (w : Word) : Except DecodeErr Instr :=
  if bits w 0 4 == 0 then checked (bits w 4 6 == 0 && bits w 10 6 == 0 && bits (bits w 16 8) 3 5 == 0) (.sbarP (bits (bits w 16 8) 0 3))
  else if bits w 0 4 == 1 then checked (bits w 4 6 == 0 && bits w 10 6 == 0 && bits (bits w 16 8) 3 5 == 0) (.sbarC (bits (bits w 16 8) 0 3))
  else .error .illegal

/-- OP 0x03 of SYN: RING, RING_REL. -/
noncomputable def decodeSyn03 (w : Word) : Except DecodeErr Instr :=
  if bits w 0 4 == 0 then checked (bits (bits w 16 8) 3 5 == 0) (.ring (bits (bits w 16 8) 0 3) (bits w 10 6) (bits w 4 6))
  else if bits w 0 4 == 1 then checked (bits w 4 6 == 0 && bits w 10 6 == 0 && bits (bits w 16 8) 3 5 == 0) (.ringRel (bits (bits w 16 8) 0 3))
  else .error .illegal

/-- OP 0x04 of SYN: PHASE_NEW, PHASE_RD, PHASE_WR. -/
noncomputable def decodeSyn04 (w : Word) : Except DecodeErr Instr :=
  if bits w 0 4 == 0 then checked (bits w 4 6 == 0 && bits w 10 6 == 0 && bits w 16 8 == 0) .phaseNew
  else if bits w 0 4 == 1 then checked (bits (bits w 16 8) 5 3 == 0) (.phaseRd (bits (bits w 16 8) 3 2) (bits (bits w 16 8) 0 3) (bits w 10 6) (bits w 4 6))
  else if bits w 0 4 == 2 then checked (bits (bits w 16 8) 5 3 == 0) (.phaseWr (bits (bits w 16 8) 3 2) (bits (bits w 16 8) 0 3) (bits w 10 6) (bits w 4 6))
  else .error .illegal

/-- OP 0x05 of SYN: TKLEND. -/
noncomputable def decodeSyn05 (w : Word) : Except DecodeErr Instr :=
  if bits w 0 4 == 0 then checked (bits w 16 8 == 0) (.tklend (bits w 10 6) (bits w 4 6))
  else .error .illegal

/-- OP 0x06 of SYN: TKRET. -/
noncomputable def decodeSyn06 (w : Word) : Except DecodeErr Instr :=
  if bits w 0 4 == 0 then checked (bits w 16 8 == 0) (.tkret (bits w 10 6) (bits w 4 6))
  else .error .illegal

/-- OP 0x07 of SYN: TKSPLIT. -/
noncomputable def decodeSyn07 (w : Word) : Except DecodeErr Instr :=
  if bits w 0 4 == 0 then checked (bits w 16 8 == 0) (.tksplit (bits w 10 6) (bits w 4 6))
  else .error .illegal

/-- OP 0x08 of SYN: TKJOIN. -/
noncomputable def decodeSyn08 (w : Word) : Except DecodeErr Instr :=
  if bits w 0 4 == 0 then checked (bits w 16 8 == 0) (.tkjoin (bits w 10 6) (bits w 4 6))
  else .error .illegal

/-- OP 0x09 of SYN: TKSHARE. -/
noncomputable def decodeSyn09 (w : Word) : Except DecodeErr Instr :=
  if bits w 0 4 == 0 then checked (bits w 16 8 == 0) (.tkshare (bits w 10 6) (bits w 4 6))
  else .error .illegal

/-- OP 0x0A of SYN: TKUNSH. -/
noncomputable def decodeSyn0A (w : Word) : Except DecodeErr Instr :=
  if bits w 0 4 == 0 then checked (bits w 16 8 == 0) (.tkunsh (bits w 10 6) (bits w 4 6))
  else .error .illegal

/-- OP 0x0B of SYN: TKRECL. -/
noncomputable def decodeSyn0B (w : Word) : Except DecodeErr Instr :=
  if bits w 0 4 == 0 then checked (bits w 16 8 == 0) (.tkrecl (bits w 10 6) (bits w 4 6))
  else .error .illegal

/-- OP 0x0C of SYN: RWB. -/
noncomputable def decodeSyn0C (w : Word) : Except DecodeErr Instr :=
  if bits w 0 4 == 0 then checked (bits w 16 8 == 0) (.rwb (bits w 10 6) (bits w 4 6))
  else .error .illegal

/-- OP 0x0D of SYN: RINV. -/
noncomputable def decodeSyn0D (w : Word) : Except DecodeErr Instr :=
  if bits w 0 4 == 0 then checked (bits w 16 8 == 0) (.rinv (bits w 10 6) (bits w 4 6))
  else .error .illegal

/-- OP 0x0E of SYN: LAUNCH. -/
noncomputable def decodeSyn0E (w : Word) : Except DecodeErr Instr :=
  checked (bits w 0 4 == 0 && bits w 4 6 == 0 && bits (bits w 16 8) 4 4 == 0) (.launch (bits (bits w 16 8) 0 4) (bits w 10 6))

/-- OP 0x0F of SYN: CWAIT, CWAIT_ALL. -/
noncomputable def decodeSyn0F (w : Word) : Except DecodeErr Instr :=
  if bits w 0 4 == 0 then checked (bits w 4 6 == 0 && bits w 10 6 == 0 && bits (bits w 16 8) 4 4 == 0) (.cwait (bits (bits w 16 8) 0 4))
  else if bits w 0 4 == 1 then checked (bits w 4 6 == 0 && bits w 10 6 == 0 && bits w 16 8 == 0) .cwaitAll
  else .error .illegal

/-- OP 0x10 of SYN: SEED_PUSH, SEED_POP, SEED_FORK. -/
noncomputable def decodeSyn10 (w : Word) : Except DecodeErr Instr :=
  if bits w 0 4 == 0 then checked (bits w 4 6 == 0 && bits w 16 8 == 0) (.seedPush (bits w 10 6))
  else if bits w 0 4 == 1 then checked (bits w 4 6 == 0 && bits w 10 6 == 0 && bits w 16 8 == 0) .seedPop
  else if bits w 0 4 == 2 then checked (bits w 4 6 == 0 && bits w 16 8 == 0) (.seedFork (bits w 10 6))
  else .error .illegal

/-- OP 0x11 of SYN: TRAP. -/
noncomputable def decodeSyn11 (w : Word) : Except DecodeErr Instr :=
  if bits w 0 4 == 0 then checked (bits w 4 6 == 0) (.trap (bits w 16 8) (bits w 10 6))
  else .error .illegal

/-- OP 0x12 of SYN: RESUME_WAIT, RESUME_ABORT. -/
noncomputable def decodeSyn12 (w : Word) : Except DecodeErr Instr :=
  if bits w 0 4 == 0 then checked (bits w 4 6 == 0 && bits w 16 8 == 0) (.resumeWait (bits w 10 6))
  else if bits w 0 4 == 1 then checked (bits w 4 6 == 0 && bits w 16 8 == 0) (.resumeAbort (bits w 10 6))
  else .error .illegal

/-- OP 0x13 of SYN: ERET. -/
noncomputable def decodeSyn13 (w : Word) : Except DecodeErr Instr :=
  checked (bits w 0 4 == 0 && bits w 4 6 == 0 && bits w 10 6 == 0 && bits w 16 8 == 0) .eret

/-- OP 0x14 of SYN: TLBI_VA, TLBI_TEN, TLBI_CTX, TLBI_ALL. -/
noncomputable def decodeSyn14 (w : Word) : Except DecodeErr Instr :=
  if bits w 0 4 == 0 then checked (bits w 16 8 == 0) (.tlbiVa (bits w 10 6) (bits w 4 6))
  else if bits w 0 4 == 1 then checked (bits w 16 8 == 0) (.tlbiTen (bits w 10 6) (bits w 4 6))
  else if bits w 0 4 == 2 then checked (bits w 10 6 == 0 && bits w 16 8 == 0) (.tlbiCtx (bits w 4 6))
  else if bits w 0 4 == 3 then checked (bits w 4 6 == 0 && bits w 10 6 == 0 && bits w 16 8 == 0) .tlbiAll
  else .error .illegal

/-- OP 0x15 of SYN: REPLAY. -/
noncomputable def decodeSyn15 (w : Word) : Except DecodeErr Instr :=
  if bits w 0 4 == 0 then checked (bits w 4 6 == 0 && bits w 16 8 == 0) (.replay (bits w 10 6))
  else .error .illegal

/-- OP 0x16 of SYN: CTXSV, CTXLD. -/
noncomputable def decodeSyn16 (w : Word) : Except DecodeErr Instr :=
  if bits w 0 4 == 0 then checked (bits w 16 8 == 0) (.ctxsv (bits w 10 6) (bits w 4 6))
  else if bits w 0 4 == 1 then checked (bits w 16 8 == 0) (.ctxld (bits w 10 6) (bits w 4 6))
  else .error .illegal

/-- OP 0x17 of SYN: WAIT_GEU, WAIT_EQ, WAIT_NE, WAIT_LTU, WAIT_SB. -/
noncomputable def decodeSyn17 (w : Word) : Except DecodeErr Instr :=
  if bits w 0 4 == 0 then checked (bits w 16 8 == 0) (.waitGeu (bits w 10 6) (bits w 4 6))
  else if bits w 0 4 == 1 then checked (bits w 16 8 == 0) (.waitEq (bits w 10 6) (bits w 4 6))
  else if bits w 0 4 == 2 then checked (bits w 16 8 == 0) (.waitNe (bits w 10 6) (bits w 4 6))
  else if bits w 0 4 == 3 then checked (bits w 16 8 == 0) (.waitLtu (bits w 10 6) (bits w 4 6))
  else if bits w 0 4 == 4 then checked (bits w 4 6 == 0 && bits w 10 6 == 0 && bits w 16 8 == 0) .waitSb
  else .error .illegal

/-- OP 0x18 of SYN: HALT. -/
noncomputable def decodeSyn18 (w : Word) : Except DecodeErr Instr :=
  checked (bits w 0 4 == 0 && bits w 4 6 == 0 && bits w 10 6 == 0 && bits w 16 8 == 0) .halt

/-- OP 0x19 of SYN: WRCFG. -/
noncomputable def decodeSyn19 (w : Word) : Except DecodeErr Instr :=
  if bits w 0 4 == 0 then checked (bits w 4 6 == 0) (.wrcfg (bits w 16 8) (bits w 10 6))
  else .error .illegal

/-- OP 0x1A of SYN: RDCFG. -/
noncomputable def decodeSyn1A (w : Word) : Except DecodeErr Instr :=
  if bits w 0 4 == 0 then checked (bits w 4 6 == 0) (.rdcfg (bits w 16 8) (bits w 10 6))
  else .error .illegal

/-- OP 0x1B of SYN: PWR_ST, PWR_HINT. -/
noncomputable def decodeSyn1B (w : Word) : Except DecodeErr Instr :=
  if bits w 0 4 == 0 then checked (bits w 4 6 == 0 && bits w 16 8 == 0) (.pwrSt (bits w 10 6))
  else if bits w 0 4 == 1 then checked (bits w 4 6 == 0 && bits w 16 8 == 0) (.pwrHint (bits w 10 6))
  else .error .illegal

/-- The SEQ column of the opcode map (R63). -/
noncomputable def decodeSeq (w : Word) : Except DecodeErr Instr :=
  match (bits (bits w 24 8) 0 5).toNat with
  | 0x00 => decodeSeq00 w
  | 0x01 => decodeSeq01 w
  | 0x02 => decodeSeq02 w
  | 0x03 => decodeSeq03 w
  | 0x04 => decodeSeq04 w
  | 0x05 => decodeSeq05 w
  | 0x06 => decodeSeq06 w
  | 0x07 => decodeSeq07 w
  | 0x08 => decodeSeq08 w
  | 0x09 => decodeSeq09 w
  | 0x0A => decodeSeq0A w
  | 0x0B => decodeSeq0B w
  | 0x0C => decodeSeq0C w
  | 0x0D => decodeSeq0D w
  | 0x0E => decodeSeq0E w
  | 0x0F => decodeSeq0F w
  | 0x10 => decodeSeq10 w
  | 0x11 => decodeSeq11 w
  | 0x12 => decodeSeq12 w
  | 0x13 => decodeSeq13 w
  | 0x14 => decodeSeq14 w
  | 0x15 => decodeSeq15 w
  | 0x16 => decodeSeq16 w
  | 0x17 => decodeSeq17 w
  | 0x18 => decodeSeq18 w
  | 0x19 => decodeSeq19 w
  | 0x1A => decodeSeq1A w
  | 0x1B => decodeSeq1B w
  | 0x1F => decodeSeq1F w
  | _ => .error .illegal

/-- The ADR column of the opcode map (R63). -/
noncomputable def decodeAdr (w : Word) : Except DecodeErr Instr :=
  match (bits (bits w 24 8) 0 5).toNat with
  | 0x00 => decodeAdr00 w
  | 0x01 => decodeAdr01 w
  | 0x02 => decodeAdr02 w
  | 0x03 => decodeAdr03 w
  | 0x04 => decodeAdr04 w
  | 0x05 => decodeAdr05 w
  | 0x06 => decodeAdr06 w
  | 0x07 => decodeAdr07 w
  | 0x08 => decodeAdr08 w
  | 0x09 => decodeAdr09 w
  | 0x0A => decodeAdr0A w
  | 0x0B => decodeAdr0B w
  | 0x0C => decodeAdr0C w
  | 0x0D => decodeAdr0D w
  | 0x0E => decodeAdr0E w
  | _ => .error .illegal

/-- The VEC column of the opcode map (R63). -/
noncomputable def decodeVec (w : Word) : Except DecodeErr Instr :=
  match (bits (bits w 24 8) 0 5).toNat with
  | 0x00 => decodeVec00 w
  | 0x01 => decodeVec01 w
  | 0x02 => decodeVec02 w
  | 0x03 => decodeVec03 w
  | 0x04 => decodeVec04 w
  | 0x05 => decodeVec05 w
  | 0x06 => decodeVec06 w
  | 0x07 => decodeVec07 w
  | 0x08 => decodeVec08 w
  | 0x09 => decodeVec09 w
  | 0x0A => decodeVec0A w
  | 0x0B => decodeVec0B w
  | 0x0C => decodeVec0C w
  | 0x0D => decodeVec0D w
  | 0x0E => decodeVec0E w
  | 0x0F => decodeVec0F w
  | 0x10 => decodeVec10 w
  | 0x11 => decodeVec11 w
  | 0x12 => decodeVec12 w
  | _ => .error .illegal

/-- The MAT column of the opcode map (R63). -/
noncomputable def decodeMat (w : Word) : Except DecodeErr Instr :=
  match (bits (bits w 24 8) 0 5).toNat with
  | 0x00 => decodeMat00 w
  | 0x01 => decodeMat01 w
  | 0x02 => decodeMat02 w
  | 0x03 => decodeMat03 w
  | 0x04 => decodeMat04 w
  | 0x05 => decodeMat05 w
  | 0x06 => decodeMat06 w
  | 0x07 => decodeMat07 w
  | 0x08 => decodeMat08 w
  | 0x09 => decodeMat09 w
  | 0x0A => decodeMat0A w
  | 0x0B => decodeMat0B w
  | 0x0C => decodeMat0C w
  | 0x0D => decodeMat0D w
  | _ => .error .illegal

/-- The XFR column of the opcode map (R63). -/
noncomputable def decodeXfr (w : Word) : Except DecodeErr Instr :=
  match (bits (bits w 24 8) 0 5).toNat with
  | 0x00 => decodeXfr00 w
  | 0x01 => decodeXfr01 w
  | 0x02 => decodeXfr02 w
  | 0x03 => decodeXfr03 w
  | 0x04 => decodeXfr04 w
  | 0x05 => decodeXfr05 w
  | 0x06 => decodeXfr06 w
  | 0x07 => decodeXfr07 w
  | 0x08 => decodeXfr08 w
  | _ => .error .illegal

/-- The FAB column of the opcode map (R63). -/
noncomputable def decodeFab (w : Word) : Except DecodeErr Instr :=
  match (bits (bits w 24 8) 0 5).toNat with
  | 0x00 => decodeFab00 w
  | 0x01 => decodeFab01 w
  | 0x02 => decodeFab02 w
  | 0x03 => decodeFab03 w
  | 0x04 => decodeFab04 w
  | 0x05 => decodeFab05 w
  | 0x06 => decodeFab06 w
  | 0x07 => decodeFab07 w
  | _ => .error .illegal

/-- The ATN column of the opcode map (R63). -/
noncomputable def decodeAtn (w : Word) : Except DecodeErr Instr :=
  match (bits (bits w 24 8) 0 5).toNat with
  | 0x00 => decodeAtn00 w
  | 0x01 => decodeAtn01 w
  | 0x02 => decodeAtn02 w
  | 0x03 => decodeAtn03 w
  | 0x04 => decodeAtn04 w
  | 0x05 => decodeAtn05 w
  | 0x06 => decodeAtn06 w
  | 0x07 => decodeAtn07 w
  | 0x08 => decodeAtn08 w
  | 0x09 => decodeAtn09 w
  | 0x0A => decodeAtn0A w
  | 0x0B => decodeAtn0B w
  | 0x0C => decodeAtn0C w
  | _ => .error .illegal

/-- The SYN column of the opcode map (R63). -/
noncomputable def decodeSyn (w : Word) : Except DecodeErr Instr :=
  match (bits (bits w 24 8) 0 5).toNat with
  | 0x00 => decodeSyn00 w
  | 0x01 => decodeSyn01 w
  | 0x02 => decodeSyn02 w
  | 0x03 => decodeSyn03 w
  | 0x04 => decodeSyn04 w
  | 0x05 => decodeSyn05 w
  | 0x06 => decodeSyn06 w
  | 0x07 => decodeSyn07 w
  | 0x08 => decodeSyn08 w
  | 0x09 => decodeSyn09 w
  | 0x0A => decodeSyn0A w
  | 0x0B => decodeSyn0B w
  | 0x0C => decodeSyn0C w
  | 0x0D => decodeSyn0D w
  | 0x0E => decodeSyn0E w
  | 0x0F => decodeSyn0F w
  | 0x10 => decodeSyn10 w
  | 0x11 => decodeSyn11 w
  | 0x12 => decodeSyn12 w
  | 0x13 => decodeSyn13 w
  | 0x14 => decodeSyn14 w
  | 0x15 => decodeSyn15 w
  | 0x16 => decodeSyn16 w
  | 0x17 => decodeSyn17 w
  | 0x18 => decodeSyn18 w
  | 0x19 => decodeSyn19 w
  | 0x1A => decodeSyn1A w
  | 0x1B => decodeSyn1B w
  | _ => .error .illegal

/-- The instruction that a word encodes, or the check it fails. -/
noncomputable def decode (w : Word) : Except DecodeErr Instr :=
  match (bits (bits w 24 8) 5 3).toNat with
  | 0 => decodeSeq w
  | 1 => decodeAdr w
  | 2 => decodeVec w
  | 3 => decodeMat w
  | 4 => decodeXfr w
  | 5 => decodeFab w
  | 6 => decodeAtn w
  | _ => decodeSyn w

/-- Format F-A (R62): D 23:18, A 17:12, B 11:6, FN 5:0, below ENG and OP. -/
def wordA (op : BitVec 8) (d : BitVec 6) (a : BitVec 6) (b : BitVec 6) (fn : BitVec 6) : Word :=
  cat 32 (cat 26 (cat 20 (cat 14 op d) a) b) fn

/-- Format F-B (R62): D 23:18, A 17:12, IMM12 11:0, below ENG and OP. -/
def wordB (op : BitVec 8) (d : BitVec 6) (a : BitVec 6) (imm12 : BitVec 12) : Word :=
  cat 32 (cat 20 (cat 14 op d) a) imm12

/-- Format F-C (R62): D 23:18, IMM18 17:0, below ENG and OP. -/
def wordC (op : BitVec 8) (d : BitVec 6) (imm18 : BitVec 18) : Word :=
  cat 32 (cat 14 op d) imm18

/-- Format F-D (R62): P 23:20, NEG 19:19, OFF19 18:0, below ENG and OP. -/
def wordD (op : BitVec 8) (p : BitVec 4) (neg : BitVec 1) (off19 : BitVec 19) : Word :=
  cat 32 (cat 13 (cat 12 op p) neg) off19

/-- Format F-E (R62): CNT 23:18, BODY12 17:6, STAGES 5:3, ROT 2:0, below ENG and OP. -/
def wordE (op : BitVec 8) (cnt : BitVec 6) (body12 : BitVec 12) (stages : BitVec 3) (rot : BitVec 3) : Word :=
  cat 32 (cat 29 (cat 26 (cat 14 op cnt) body12) stages) rot

/-- Format F-M (R62): ACC 23:22, HA 21:16, HB 15:10, VM 9:5, CK 4:4, CB 3:3, FL 2:0, below ENG and OP. -/
def wordM (op : BitVec 8) (acc : BitVec 2) (ha : BitVec 6) (hb : BitVec 6) (vm : BitVec 5) (ck : BitVec 1) (cb : BitVec 1) (fl : BitVec 3) : Word :=
  cat 32 (cat 29 (cat 28 (cat 27 (cat 22 (cat 16 (cat 10 op acc) ha) hb) vm) ck) cb) fl

/-- Format F-N (R62): D 23:18, S 17:12, T 11:6, FN 5:0, below ENG and OP. -/
def wordN (op : BitVec 8) (d : BitVec 6) (s : BitVec 6) (t : BitVec 6) (fn : BitVec 6) : Word :=
  cat 32 (cat 26 (cat 20 (cat 14 op d) s) t) fn

/-- Format F-S (R62): OBJ8 23:16, S 15:10, T 9:4, FN4 3:0, below ENG and OP. -/
def wordS (op : BitVec 8) (obj8 : BitVec 8) (s : BitVec 6) (t : BitVec 6) (fn4 : BitVec 4) : Word :=
  cat 32 (cat 28 (cat 22 (cat 16 op obj8) s) t) fn4

/-- Format F-T (R62): D 23:18, DS 17:15, S 14:9, FN9 8:0, below ENG and OP. -/
def wordT (op : BitVec 8) (d : BitVec 6) (ds : BitVec 3) (s : BitVec 6) (fn9 : BitVec 9) : Word :=
  cat 32 (cat 23 (cat 17 (cat 14 op d) ds) s) fn9

/-- Format F-V (R62): VD 23:19, VA 18:14, VB 13:9, M 8:6, OPF 5:2, TY 1:0, below ENG and OP. -/
def wordV (op : BitVec 8) (vd : BitVec 5) (va : BitVec 5) (vb : BitVec 5) (m : BitVec 3) (opf : BitVec 4) (ty : BitVec 2) : Word :=
  cat 32 (cat 30 (cat 26 (cat 23 (cat 18 (cat 13 op vd) va) vb) m) opf) ty

/-- Format F-X (R62): H 23:18, DS 17:15, S 14:9, FN5 8:4, AUX 3:0, below ENG and OP. -/
def wordX (op : BitVec 8) (h : BitVec 6) (ds : BitVec 3) (s : BitVec 6) (fn5 : BitVec 5) (aux : BitVec 4) : Word :=
  cat 32 (cat 28 (cat 23 (cat 17 (cat 14 op h) ds) s) fn5) aux

/-- The word of an instruction (R57, R62), written from its format; none for a device step or outside act. -/
def encode (i : Instr) : Option Word :=
  match i with
  | .add d a b => some (wordA 0x0 d a b 0x1#6)
  | .sub d a b => some (wordA 0x0 d a b 0x2#6)
  | .and d a b => some (wordA 0x0 d a b 0x3#6)
  | .or d a b => some (wordA 0x0 d a b 0x4#6)
  | .xor d a b => some (wordA 0x0 d a b 0x5#6)
  | .andn d a b => some (wordA 0x0 d a b 0x6#6)
  | .shl d a b => some (wordA 0x0 d a b 0x7#6)
  | .shr d a b => some (wordA 0x0 d a b 0x8#6)
  | .sra d a b => some (wordA 0x0 d a b 0x9#6)
  | .slt d a b => some (wordA 0x0 d a b 0xa#6)
  | .sltu d a b => some (wordA 0x0 d a b 0xb#6)
  | .min d a b => some (wordA 0x0 d a b 0xc#6)
  | .max d a b => some (wordA 0x0 d a b 0xd#6)
  | .minu d a b => some (wordA 0x0 d a b 0xe#6)
  | .maxu d a b => some (wordA 0x0 d a b 0xf#6)
  | .mul d a b => some (wordA 0x0 d a b 0x10#6)
  | .mulh d a b => some (wordA 0x0 d a b 0x11#6)
  | .mulhu d a b => some (wordA 0x0 d a b 0x12#6)
  | .div d a b => some (wordA 0x0 d a b 0x13#6)
  | .divu d a b => some (wordA 0x0 d a b 0x14#6)
  | .rem d a b => some (wordA 0x0 d a b 0x15#6)
  | .remu d a b => some (wordA 0x0 d a b 0x16#6)
  | .clz d a => some (wordA 0x0 d a 0x0#6 0x17#6)
  | .ctz d a => some (wordA 0x0 d a 0x0#6 0x18#6)
  | .popc d a => some (wordA 0x0 d a 0x0#6 0x19#6)
  | .addi d a i => some (wordB 0x1 d a i)
  | .andi d a i => some (wordB 0x2 d a i)
  | .ori d a i => some (wordB 0x3 d a i)
  | .xori d a i => some (wordB 0x4 d a i)
  | .shli d a n => some (wordB 0x5 d a (cat 12 0x0#6 n))
  | .shri d a n => some (wordB 0x5 d a (cat 12 0x10#6 n))
  | .srai d a n => some (wordB 0x5 d a (cat 12 0x20#6 n))
  | .slti d a i => some (wordB 0x6 d a (cat 12 0x0#1 i))
  | .sltiu d a i => some (wordB 0x6 d a (cat 12 0x1#1 i))
  | .lui d i => some (wordC 0x7 d i)
  | .auipc d i => some (wordC 0x8 d i)
  | .ldB d a o => some (wordB 0x9 d a (cat 12 o 0x0#3))
  | .ldBu d a o => some (wordB 0x9 d a (cat 12 o 0x1#3))
  | .ldH d a o => some (wordB 0x9 d a (cat 12 o 0x2#3))
  | .ldHu d a o => some (wordB 0x9 d a (cat 12 o 0x3#3))
  | .ldW d a o => some (wordB 0x9 d a (cat 12 o 0x4#3))
  | .ldWu d a o => some (wordB 0x9 d a (cat 12 o 0x5#3))
  | .ldD d a o => some (wordB 0x9 d a (cat 12 o 0x6#3))
  | .stB d a o => some (wordB 0xa d a (cat 12 o 0x0#3))
  | .stH d a o => some (wordB 0xa d a (cat 12 o 0x2#3))
  | .stW d a o => some (wordB 0xa d a (cat 12 o 0x4#3))
  | .stD d a o => some (wordB 0xa d a (cat 12 o 0x6#3))
  | .cmpEq d a b => some (wordA 0xb (cat 6 0x0#2 d) a b 0x1#6)
  | .cmpNe d a b => some (wordA 0xb (cat 6 0x0#2 d) a b 0x2#6)
  | .cmpLt d a b => some (wordA 0xb (cat 6 0x0#2 d) a b 0x3#6)
  | .cmpGe d a b => some (wordA 0xb (cat 6 0x0#2 d) a b 0x4#6)
  | .cmpLtu d a b => some (wordA 0xb (cat 6 0x0#2 d) a b 0x5#6)
  | .cmpGeu d a b => some (wordA 0xb (cat 6 0x0#2 d) a b 0x6#6)
  | .cmpiEq d a i => some (wordB 0xc (cat 6 0x0#2 d) a (cat 12 0x1#3 i))
  | .cmpiNe d a i => some (wordB 0xc (cat 6 0x0#2 d) a (cat 12 0x2#3 i))
  | .cmpiLt d a i => some (wordB 0xc (cat 6 0x0#2 d) a (cat 12 0x3#3 i))
  | .cmpiGe d a i => some (wordB 0xc (cat 6 0x0#2 d) a (cat 12 0x4#3 i))
  | .cmpiLtu d a i => some (wordB 0xc (cat 6 0x0#2 d) a (cat 12 0x5#3 i))
  | .cmpiGeu d a i => some (wordB 0xc (cat 6 0x0#2 d) a (cat 12 0x6#3 i))
  | .pand d a b => some (wordA 0xd (cat 6 0x0#2 d) (cat 6 0x0#2 a) (cat 6 0x0#2 b) 0x1#6)
  | .por d a b => some (wordA 0xd (cat 6 0x0#2 d) (cat 6 0x0#2 a) (cat 6 0x0#2 b) 0x2#6)
  | .pxor d a b => some (wordA 0xd (cat 6 0x0#2 d) (cat 6 0x0#2 a) (cat 6 0x0#2 b) 0x3#6)
  | .pandn d a b => some (wordA 0xd (cat 6 0x0#2 d) (cat 6 0x0#2 a) (cat 6 0x0#2 b) 0x4#6)
  | .pnot d a => some (wordA 0xd (cat 6 0x0#2 d) (cat 6 0x0#2 a) 0x0#6 0x5#6)
  | .pmov d a => some (wordA 0xd (cat 6 0x0#2 d) (cat 6 0x0#2 a) 0x0#6 0x6#6)
  | .br p n o => some (wordD 0xe p n o)
  | .jal d i => some (wordC 0xf d i)
  | .jalr d a i => some (wordB 0x10 d a i)
  | .loop c b => some (wordE 0x11 c b 0x0#3 0x0#3)
  | .loopRot c b s => some (wordE 0x11 c b s 0x1#3)
  | .loopi n b => some (wordE 0x12 n b 0x0#3 0x0#3)
  | .loopiRot n b s => some (wordE 0x12 n b s 0x1#3)
  | .passBoundary _ => none
  | .rot a i => some (wordB 0x13 0x0#6 a i)
  | .qpush q a => some (wordA 0x14 (cat 6 0x0#2 q) a 0x0#6 0x0#6)
  | .qpop d q => some (wordA 0x15 d (cat 6 0x0#2 q) 0x0#6 0x0#6)
  | .fmt d a b => some (wordA 0x16 d a b 0x1#6)
  | .fmtQ a b => some (wordA 0x16 0x0#6 a b 0x2#6)
  | .mark j m => some (wordB 0x17 0x0#6 0x0#6 (cat 12 (cat 4 0x0#1 j) m))
  | .join j => some (wordB 0x18 0x0#6 0x0#6 (cat 12 0x0#9 j))
  | .rdsr d n => some (wordB 0x19 d 0x0#6 n)
  | .wrsr a n => some (wordB 0x1a 0x0#6 a n)
  | .sel d a b n p => some (wordA 0x1b d a b (cat 6 (cat 2 0x0#1 n) p))
  | .nop => some (wordA 0x1f 0x0#6 0x0#6 0x0#6 0x1#6)
  | .brk => some (wordA 0x1f 0x0#6 0x0#6 0x0#6 0x2#6)
  | .capt n s => some (wordT 0x20 (cat 6 0x0#3 n) s 0x0#6 0x0#9)
  | .tld d s a => some (wordT 0x21 d s a 0x0#9)
  | .tldQ s a => some (wordT 0x21 0x0#6 s a 0x1#9)
  | .tst d s a => some (wordT 0x22 d s a 0x0#9)
  | .tstQ s a => some (wordT 0x22 0x0#6 s a 0x1#9)
  | .gld d s a => some (wordT 0x23 d s a 0x0#9)
  | .gldQ s a => some (wordT 0x23 0x0#6 s a 0x1#9)
  | .gst d s a => some (wordT 0x24 d s a 0x0#9)
  | .gstQ s a => some (wordT 0x24 0x0#6 s a 0x1#9)
  | .vld a => some (wordT 0x25 0x0#6 0x0#3 a 0x7#9)
  | .vst a => some (wordT 0x26 0x0#6 0x0#3 a 0x7#9)
  | .sld a w => some (wordT 0x27 0x0#6 0x0#3 a (cat 9 0x0#6 w))
  | .sldRow a => some (wordT 0x27 0x0#6 0x0#3 a 0x7#9)
  | .sst d a w => some (wordT 0x28 d 0x0#3 a (cat 9 0x0#6 w))
  | .sstRow a => some (wordT 0x28 0x0#6 0x0#3 a 0x7#9)
  | .atomAdd a c r p z => some (wordT 0x29 0x0#6 0x0#3 a (cat 9 (cat 6 (cat 5 (cat 4 c r) p) z) 0x0#3))
  | .atomMin a c r p z => some (wordT 0x29 0x0#6 0x0#3 a (cat 9 (cat 6 (cat 5 (cat 4 c r) p) z) 0x1#3))
  | .atomMax a c r p z => some (wordT 0x29 0x0#6 0x0#3 a (cat 9 (cat 6 (cat 5 (cat 4 c r) p) z) 0x2#3))
  | .atomAnd a c r p z => some (wordT 0x29 0x0#6 0x0#3 a (cat 9 (cat 6 (cat 5 (cat 4 c r) p) z) 0x3#3))
  | .atomOr a c r p z => some (wordT 0x29 0x0#6 0x0#3 a (cat 9 (cat 6 (cat 5 (cat 4 c r) p) z) 0x4#3))
  | .atomXor a c r p z => some (wordT 0x29 0x0#6 0x0#3 a (cat 9 (cat 6 (cat 5 (cat 4 c r) p) z) 0x5#3))
  | .atomXchg a c r p z => some (wordT 0x29 0x0#6 0x0#3 a (cat 9 (cat 6 (cat 5 (cat 4 c r) p) z) 0x6#3))
  | .atomCas a c r p z => some (wordT 0x29 0x0#6 0x0#3 a (cat 9 (cat 6 (cat 5 (cat 4 c r) p) z) 0x7#3))
  | .atomoAdd a c r p z => some (wordT 0x2a 0x0#6 0x0#3 a (cat 9 (cat 6 (cat 5 (cat 4 c r) p) z) 0x0#3))
  | .atomoMin a c r p z => some (wordT 0x2a 0x0#6 0x0#3 a (cat 9 (cat 6 (cat 5 (cat 4 c r) p) z) 0x1#3))
  | .atomoMax a c r p z => some (wordT 0x2a 0x0#6 0x0#3 a (cat 9 (cat 6 (cat 5 (cat 4 c r) p) z) 0x2#3))
  | .atomoAnd a c r p z => some (wordT 0x2a 0x0#6 0x0#3 a (cat 9 (cat 6 (cat 5 (cat 4 c r) p) z) 0x3#3))
  | .atomoOr a c r p z => some (wordT 0x2a 0x0#6 0x0#3 a (cat 9 (cat 6 (cat 5 (cat 4 c r) p) z) 0x4#3))
  | .atomoXor a c r p z => some (wordT 0x2a 0x0#6 0x0#3 a (cat 9 (cat 6 (cat 5 (cat 4 c r) p) z) 0x5#3))
  | .atomoXchg a c r p z => some (wordT 0x2a 0x0#6 0x0#3 a (cat 9 (cat 6 (cat 5 (cat 4 c r) p) z) 0x6#3))
  | .atomoCas a c r p z => some (wordT 0x2a 0x0#6 0x0#3 a (cat 9 (cat 6 (cat 5 (cat 4 c r) p) z) 0x7#3))
  | .prefL a => some (wordT 0x2b 0x0#6 0x0#3 a 0x0#9)
  | .prefT s a => some (wordT 0x2b 0x0#6 s a 0x1#9)
  | .fenceAcq c => some (wordT 0x2c 0x0#6 0x0#3 0x0#6 (cat 9 (cat 7 0x0#4 c) 0x1#2))
  | .fenceRel c => some (wordT 0x2c 0x0#6 0x0#3 0x0#6 (cat 9 (cat 7 0x0#4 c) 0x2#2))
  | .fenceFull c => some (wordT 0x2c 0x0#6 0x0#3 0x0#6 (cat 9 (cat 7 0x0#4 c) 0x3#2))
  | .hwait h a => some (wordT 0x2d h 0x0#3 a 0x0#9)
  | .hwaitSt h a => some (wordT 0x2d h 0x0#3 a 0x1#9)
  | .ldq a w => some (wordT 0x2e 0x0#6 0x0#3 a (cat 9 0x0#6 w))
  | .adrFaultTrap _ => none
  | .vintAdd d a b m t => some (wordV 0x40 d a b m 0x0#4 t)
  | .vintSub d a b m t => some (wordV 0x40 d a b m 0x1#4 t)
  | .vintMul d a b m t => some (wordV 0x40 d a b m 0x2#4 t)
  | .vintMulh d a b m t => some (wordV 0x40 d a b m 0x3#4 t)
  | .vintAnd d a b m => some (wordV 0x40 d a b m 0x4#4 0x0#2)
  | .vintOr d a b m => some (wordV 0x40 d a b m 0x5#4 0x0#2)
  | .vintXor d a b m => some (wordV 0x40 d a b m 0x6#4 0x0#2)
  | .vintAndn d a b m => some (wordV 0x40 d a b m 0x7#4 0x0#2)
  | .vintShl d a b m => some (wordV 0x40 d a b m 0x8#4 0x0#2)
  | .vintShr d a b m => some (wordV 0x40 d a b m 0x9#4 0x0#2)
  | .vintSra d a b m => some (wordV 0x40 d a b m 0xa#4 0x0#2)
  | .vintMin d a b m t => some (wordV 0x40 d a b m 0xb#4 t)
  | .vintMax d a b m t => some (wordV 0x40 d a b m 0xc#4 t)
  | .vintAbs d a m t => some (wordV 0x40 d a 0x0#5 m 0xd#4 t)
  | .vintNeg d a m t => some (wordV 0x40 d a 0x0#5 m 0xe#4 t)
  | .vfltAdd d a b m => some (wordV 0x41 d a b m 0x0#4 0x0#2)
  | .vfltSub d a b m => some (wordV 0x41 d a b m 0x1#4 0x0#2)
  | .vfltMul d a b m => some (wordV 0x41 d a b m 0x2#4 0x0#2)
  | .vfltDiv d a b m => some (wordV 0x41 d a b m 0x3#4 0x0#2)
  | .vfltMin d a b m => some (wordV 0x41 d a b m 0x4#4 0x0#2)
  | .vfltMax d a b m => some (wordV 0x41 d a b m 0x5#4 0x0#2)
  | .vfltAbs d a m => some (wordV 0x41 d a 0x0#5 m 0x6#4 0x0#2)
  | .vfltNeg d a m => some (wordV 0x41 d a 0x0#5 m 0x7#4 0x0#2)
  | .vfmaFma d a b m => some (wordV 0x42 d a b m 0x0#4 0x0#2)
  | .vfmaFms d a b m => some (wordV 0x42 d a b m 0x1#4 0x0#2)
  | .vfmaFnma d a b m => some (wordV 0x42 d a b m 0x2#4 0x0#2)
  | .vfmaFnms d a b m => some (wordV 0x42 d a b m 0x3#4 0x0#2)
  | .vcmpEq d a b m t => some (wordV 0x43 (cat 5 0x0#2 d) a b m 0x0#4 t)
  | .vcmpNe d a b m t => some (wordV 0x43 (cat 5 0x0#2 d) a b m 0x1#4 t)
  | .vcmpLt d a b m t => some (wordV 0x43 (cat 5 0x0#2 d) a b m 0x2#4 t)
  | .vcmpLe d a b m t => some (wordV 0x43 (cat 5 0x0#2 d) a b m 0x3#4 t)
  | .vcmpGt d a b m t => some (wordV 0x43 (cat 5 0x0#2 d) a b m 0x4#4 t)
  | .vcmpGe d a b m t => some (wordV 0x43 (cat 5 0x0#2 d) a b m 0x5#4 t)
  | .vcmpUn d a b m => some (wordV 0x43 (cat 5 0x0#2 d) a b m 0x6#4 0x0#2)
  | .vcvtTo d a b m t => some (wordV 0x44 d a b m 0x0#4 t)
  | .vcvtFrom d a b m => some (wordV 0x44 d a b m 0x1#4 0x0#2)
  | .vcvtF2i d a m t => some (wordV 0x44 d a 0x0#5 m 0x2#4 t)
  | .vcvtI2f d a m t => some (wordV 0x44 d a 0x0#5 m 0x3#4 t)
  | .vcvtU2f d a m t => some (wordV 0x44 d a 0x0#5 m 0x4#4 t)
  | .vredSum d a m t => some (wordV 0x45 d a 0x0#5 m 0x0#4 t)
  | .vredMax d a m t => some (wordV 0x45 d a 0x0#5 m 0x1#4 t)
  | .vredMin d a m t => some (wordV 0x45 d a 0x0#5 m 0x2#4 t)
  | .vredArgmax d a m t => some (wordV 0x45 d a 0x0#5 m 0x3#4 t)
  | .vredArgmin d a m t => some (wordV 0x45 d a 0x0#5 m 0x4#4 t)
  | .vredSumQ a m t => some (wordV 0x45 0x0#5 a 0x0#5 m 0x8#4 t)
  | .vredMaxQ a m t => some (wordV 0x45 0x0#5 a 0x0#5 m 0x9#4 t)
  | .vredMinQ a m t => some (wordV 0x45 0x0#5 a 0x0#5 m 0xa#4 t)
  | .vredArgmaxQ a m t => some (wordV 0x45 0x0#5 a 0x0#5 m 0xb#4 t)
  | .vredArgminQ a m t => some (wordV 0x45 0x0#5 a 0x0#5 m 0xc#4 t)
  | .vscanSum d a m t => some (wordV 0x46 d a 0x0#5 m 0x0#4 t)
  | .vscanMax d a m t => some (wordV 0x46 d a 0x0#5 m 0x1#4 t)
  | .vscanMin d a m t => some (wordV 0x46 d a 0x0#5 m 0x2#4 t)
  | .vscanSumX d a m t => some (wordV 0x46 d a 0x0#5 m 0x8#4 t)
  | .vscanMaxX d a m t => some (wordV 0x46 d a 0x0#5 m 0x9#4 t)
  | .vscanMinX d a m t => some (wordV 0x46 d a 0x0#5 m 0xa#4 t)
  | .vpermIdx d a b m => some (wordV 0x47 d a b m 0x0#4 0x0#2)
  | .vpermRot d a b m => some (wordV 0x47 d a b m 0x1#4 0x0#2)
  | .vpermBc d a b m => some (wordV 0x47 d a b m 0x2#4 0x0#2)
  | .vsel d a b m => some (wordV 0x48 d a b m 0x0#4 0x0#2)
  | .vsfuExp2 d a m => some (wordV 0x49 d a 0x0#5 m 0x0#4 0x0#2)
  | .vsfuLog2 d a m => some (wordV 0x49 d a 0x0#5 m 0x1#4 0x0#2)
  | .vsfuRcp d a m => some (wordV 0x49 d a 0x0#5 m 0x2#4 0x0#2)
  | .vsfuRsqrt d a m => some (wordV 0x49 d a 0x0#5 m 0x3#4 0x0#2)
  | .vsfuSqrt d a m => some (wordV 0x49 d a 0x0#5 m 0x4#4 0x0#2)
  | .vmovSplat d a m => some (wordV 0x4a d a 0x0#5 m 0x0#4 0x0#2)
  | .vmovIns d a b => some (wordV 0x4a d a b 0x0#3 0x1#4 0x0#2)
  | .vmovExt a b => some (wordV 0x4a 0x0#5 a b 0x0#3 0x2#4 0x0#2)
  | .vmovMv d a m => some (wordV 0x4a d a 0x0#5 m 0x3#4 0x0#2)
  | .vcomp d a b m n t => some (wordV 0x4b d a b m n t)
  | .vqntC d a b m t => some (wordV 0x4c d a b m 0x0#4 t)
  | .vqntCr d a b m t => some (wordV 0x4c d a b m 0x1#4 t)
  | .vqntG d a b m t => some (wordV 0x4c d a b m 0x2#4 t)
  | .vqntGr d a b m t => some (wordV 0x4c d a b m 0x3#4 t)
  | .vdqnt d a b m => some (wordV 0x4d d a b m 0x0#4 0x0#2)
  | .vdqntAcc d a b m => some (wordV 0x4d d a b m 0x1#4 0x0#2)
  | .vrandU d m => some (wordV 0x4e d 0x0#5 0x0#5 m 0x0#4 0x0#2)
  | .vrandF d m => some (wordV 0x4e d 0x0#5 0x0#5 m 0x1#4 0x0#2)
  | .vmaskAnd d a b => some (wordV 0x4f (cat 5 0x0#2 d) (cat 5 0x0#2 a) (cat 5 0x0#2 b) 0x0#3 0x0#4 0x0#2)
  | .vmaskOr d a b => some (wordV 0x4f (cat 5 0x0#2 d) (cat 5 0x0#2 a) (cat 5 0x0#2 b) 0x0#3 0x1#4 0x0#2)
  | .vmaskXor d a b => some (wordV 0x4f (cat 5 0x0#2 d) (cat 5 0x0#2 a) (cat 5 0x0#2 b) 0x0#3 0x2#4 0x0#2)
  | .vmaskAndn d a b => some (wordV 0x4f (cat 5 0x0#2 d) (cat 5 0x0#2 a) (cat 5 0x0#2 b) 0x0#3 0x3#4 0x0#2)
  | .vmaskNot d a => some (wordV 0x4f (cat 5 0x0#2 d) (cat 5 0x0#2 a) 0x0#5 0x0#3 0x4#4 0x0#2)
  | .vmaskMov d a => some (wordV 0x4f (cat 5 0x0#2 d) (cat 5 0x0#2 a) 0x0#5 0x0#3 0x5#4 0x0#2)
  | .vmaskFirst d a => some (wordV 0x4f (cat 5 0x0#2 d) (cat 5 0x0#2 a) 0x0#5 0x0#3 0x6#4 0x0#2)
  | .vmaskCnt a => some (wordV 0x4f 0x0#5 (cat 5 0x0#2 a) 0x0#5 0x0#3 0x7#4 0x0#2)
  | .vqin d m => some (wordV 0x50 d 0x0#5 0x0#5 m 0x0#4 0x0#2)
  | .vqinQ5 d m => some (wordV 0x50 d 0x0#5 0x0#5 m 0x1#4 0x0#2)
  | .vqinS d m => some (wordV 0x50 d 0x0#5 0x0#5 m 0x2#4 0x0#2)
  | .vqout a m => some (wordV 0x51 0x0#5 a 0x0#5 m 0x0#4 0x0#2)
  | .vqoutQ11 a m => some (wordV 0x51 0x0#5 a 0x0#5 m 0x1#4 0x0#2)
  | .viotaIdx d m => some (wordV 0x52 d 0x0#5 0x0#5 m 0x0#4 0x0#2)
  | .viotaCnt d a m => some (wordV 0x52 d (cat 5 0x0#2 a) 0x0#5 m 0x1#4 0x0#2)
  | .mma k a b c e => some (wordM 0x60 k a b 0x0#5 c e 0x0#3)
  | .mmas k a b v c e => some (wordM 0x61 k a b v c e 0x0#3)
  | .mmat k a b c e => some (wordM 0x62 k a b 0x0#5 c e 0x0#3)
  | .mdist k a b e => some (wordM 0x63 k a b 0x0#5 0x0#1 e 0x0#3)
  | .mtopk k a b e n => some (wordM 0x64 k a b 0x0#5 0x0#1 e n)
  | .mzero k => some (wordM 0x65 k 0x0#6 0x0#6 0x0#5 0x0#1 0x0#1 0x0#3)
  | .mload k v c i => some (wordM 0x66 k 0x0#6 0x0#6 v c 0x0#1 (cat 3 0x0#2 i))
  | .mstore k v c f => some (wordM 0x67 k 0x0#6 0x0#6 v c 0x0#1 f)
  | .mrdRow k v => some (wordM 0x68 k 0x0#6 0x0#6 v 0x0#1 0x0#1 0x0#3)
  | .mrdCol k v => some (wordM 0x68 k 0x0#6 0x0#6 v 0x0#1 0x0#1 0x1#3)
  | .mrdRck k => some (wordM 0x68 k 0x0#6 0x0#6 0x0#5 0x0#1 0x0#1 0x2#3)
  | .mrdCck k => some (wordM 0x68 k 0x0#6 0x0#6 0x0#5 0x0#1 0x0#1 0x3#3)
  | .mwrRow k v i => some (wordM 0x69 k 0x0#6 0x0#6 v 0x0#1 i 0x0#3)
  | .mwrCol k v i => some (wordM 0x69 k 0x0#6 0x0#6 v 0x0#1 i 0x1#3)
  | .mwrRck k => some (wordM 0x69 k 0x0#6 0x0#6 0x0#5 0x0#1 0x0#1 0x2#3)
  | .mwrCck k => some (wordM 0x69 k 0x0#6 0x0#6 0x0#5 0x0#1 0x0#1 0x3#3)
  | .mcommit => some (wordM 0x6a 0x0#2 0x0#6 0x0#6 0x0#5 0x0#1 0x0#1 0x0#3)
  | .mwait n => some (wordM 0x6b 0x0#2 0x0#6 0x0#6 0x0#5 0x0#1 0x0#1 (cat 3 0x0#1 n))
  | .mwaitAcc k => some (wordM 0x6b k 0x0#6 0x0#6 0x0#5 0x0#1 0x1#1 0x0#3)
  | .mcks k v => some (wordM 0x6c k 0x0#6 0x0#6 v 0x0#1 0x0#1 0x0#3)
  | .mfix k => some (wordM 0x6d k 0x0#6 0x0#6 0x0#5 0x0#1 0x0#1 0x0#3)
  | .arrayCommandStart _ => none
  | .arrayCommandRetire _ => none
  | .xcopy h a => some (wordX 0x80 h 0x0#3 a 0x0#5 0x0#4)
  | .xcopyT h s a => some (wordX 0x80 h s a 0x1#5 0x0#4)
  | .xcopyS h a => some (wordX 0x80 h 0x0#3 a 0x2#5 0x0#4)
  | .xput h a => some (wordX 0x81 h 0x0#3 a 0x0#5 0x0#4)
  | .xputT h s a => some (wordX 0x81 h s a 0x1#5 0x0#4)
  | .xgath h s a => some (wordX 0x82 h s a 0x0#5 0x0#4)
  | .xscatO h s a => some (wordX 0x83 h s a 0x0#5 0x0#4)
  | .xscatAdd h s a => some (wordX 0x83 h s a 0x1#5 0x0#4)
  | .xscatMax h s a => some (wordX 0x83 h s a 0x2#5 0x0#4)
  | .xscatMin h s a => some (wordX 0x83 h s a 0x3#5 0x0#4)
  | .xpack h s a => some (wordX 0x84 h s a 0x0#5 0x0#4)
  | .xpackK1 h s a => some (wordX 0x84 h s a 0x0#5 0x1#4)
  | .xpackS h a => some (wordX 0x84 h 0x0#3 a 0x1#5 0x0#4)
  | .xhalo h a d => some (wordX 0x85 h 0x0#3 a 0x0#5 d)
  | .xfill h a => some (wordX 0x86 h 0x0#3 a 0x0#5 0x0#4)
  | .xrel h => some (wordX 0x87 h 0x0#3 0x0#6 0x0#5 0x0#4)
  | .xabort h => some (wordX 0x88 h 0x0#3 0x0#6 0x0#5 0x0#4)
  | .copyUnitLands _ => none
  | .haloArrival _ => none
  | .lyset j s t => some (wordS 0xa0 j s t 0x0#4)
  | .lysetGet j s => some (wordS 0xa0 j s 0x0#6 0x1#4)
  | .reshard j s => some (wordS 0xa1 j s 0x0#6 0x0#4)
  | .collSum j s t => some (wordS 0xa2 j s t 0x0#4)
  | .collMax j s t => some (wordS 0xa2 j s t 0x1#4)
  | .collMin j s t => some (wordS 0xa2 j s t 0x2#4)
  | .collAmerge j s t => some (wordS 0xa2 j s t 0x3#4)
  | .collRing j s t => some (wordS 0xa2 j s t 0x4#4)
  | .ranks n s t => some (wordS 0xa3 (cat 8 0x0#6 n) s t 0x0#4)
  | .rkinv n => some (wordS 0xa4 (cat 8 0x0#6 n) 0x0#6 0x0#6 0x0#4)
  | .fwait => some (wordS 0xa5 0x0#8 0x0#6 0x0#6 0x0#4)
  | .fwaitSlot j => some (wordS 0xa5 j 0x0#6 0x0#6 0x1#4)
  | .resid j s t => some (wordS 0xa6 j s t 0x0#4)
  | .fabort => some (wordS 0xa7 0x0#8 0x0#6 0x0#6 0x0#4)
  | .collStep _ => none
  | .collWatchdogExpiry _ => none
  | .reshardExchangeComplete _ => none
  | .kvmap s => some (wordN 0xc0 0x0#6 s 0x0#6 0x0#6)
  | .kvmapNew s => some (wordN 0xc0 0x0#6 s 0x0#6 0x1#6)
  | .kvmapUn s => some (wordN 0xc0 0x0#6 s 0x0#6 0x2#6)
  | .kvlock s => some (wordN 0xc1 0x0#6 s 0x0#6 0x0#6)
  | .kvlockUn s => some (wordN 0xc1 0x0#6 s 0x0#6 0x1#6)
  | .kvapp s => some (wordN 0xc2 0x0#6 s 0x0#6 0x0#6)
  | .kvroll s => some (wordN 0xc3 0x0#6 s 0x0#6 0x0#6)
  | .patt q s => some (wordN 0xc4 (cat 6 0x0#1 q) s 0x0#6 0x0#6)
  | .mprog n s t => some (wordN 0xc5 (cat 6 0x0#4 n) s t 0x0#6)
  | .meval n s => some (wordN 0xc6 (cat 6 0x0#4 n) s 0x0#6 0x0#6)
  | .cent s => some (wordN 0xc7 0x0#6 s 0x0#6 0x0#6)
  | .csel q s => some (wordN 0xc8 (cat 6 0x0#1 q) s 0x0#6 0x0#6)
  | .retn s t => some (wordN 0xc9 0x0#6 s t 0x0#6)
  | .retnQ s => some (wordN 0xc9 0x0#6 s 0x0#6 0x1#6)
  | .sieve s => some (wordN 0xca 0x0#6 s 0x0#6 0x0#6)
  | .await => some (wordN 0xcb 0x0#6 0x0#6 0x0#6 0x0#6)
  | .awaitAbort => some (wordN 0xcb 0x0#6 0x0#6 0x0#6 0x1#6)
  | .mcntClr => some (wordN 0xcc 0x0#6 0x0#6 0x0#6 0x0#6)
  | .pattDone _ => none
  | .centKeyUpdate _ => none
  | .sieveCompact _ => none
  | .bar b k s => some (wordS 0xe0 (cat 8 (cat 5 0x0#2 b) k) s 0x0#6 0x0#4)
  | .barArr b k s => some (wordS 0xe0 (cat 8 (cat 5 0x0#2 b) k) s 0x0#6 0x1#4)
  | .barWt b k => some (wordS 0xe0 (cat 8 (cat 5 0x0#2 b) k) 0x0#6 0x0#6 0x2#4)
  | .cbarInit n s => some (wordS 0xe1 (cat 8 0x0#4 n) s 0x0#6 0x0#4)
  | .cbarAdd n s => some (wordS 0xe1 (cat 8 0x0#4 n) s 0x0#6 0x1#4)
  | .cbarWait n => some (wordS 0xe1 (cat 8 0x0#4 n) 0x0#6 0x0#6 0x2#4)
  | .cbarTake n => some (wordS 0xe1 (cat 8 0x0#4 n) 0x0#6 0x0#6 0x3#4)
  | .cbarFree n => some (wordS 0xe1 (cat 8 0x0#4 n) 0x0#6 0x0#6 0x4#4)
  | .sbarP n => some (wordS 0xe2 (cat 8 0x0#5 n) 0x0#6 0x0#6 0x0#4)
  | .sbarC n => some (wordS 0xe2 (cat 8 0x0#5 n) 0x0#6 0x0#6 0x1#4)
  | .sbarArrivalEffect _ => none
  | .ring n s t => some (wordS 0xe3 (cat 8 0x0#5 n) s t 0x0#4)
  | .ringRel n => some (wordS 0xe3 (cat 8 0x0#5 n) 0x0#6 0x0#6 0x1#4)
  | .phaseNew => some (wordS 0xe4 0x0#8 0x0#6 0x0#6 0x0#4)
  | .phaseRd r e s t => some (wordS 0xe4 (cat 8 (cat 5 0x0#3 r) e) s t 0x1#4)
  | .phaseWr r e s t => some (wordS 0xe4 (cat 8 (cat 5 0x0#3 r) e) s t 0x2#4)
  | .tklend s t => some (wordS 0xe5 0x0#8 s t 0x0#4)
  | .tkret s t => some (wordS 0xe6 0x0#8 s t 0x0#4)
  | .tksplit s t => some (wordS 0xe7 0x0#8 s t 0x0#4)
  | .tkjoin s t => some (wordS 0xe8 0x0#8 s t 0x0#4)
  | .tkshare s t => some (wordS 0xe9 0x0#8 s t 0x0#4)
  | .tkunsh s t => some (wordS 0xea 0x0#8 s t 0x0#4)
  | .tkrecl s t => some (wordS 0xeb 0x0#8 s t 0x0#4)
  | .tokenWaitResume _ => none
  | .rwb s t => some (wordS 0xec 0x0#8 s t 0x0#4)
  | .rinv s t => some (wordS 0xed 0x0#8 s t 0x0#4)
  | .launch n s => some (wordS 0xee (cat 8 0x0#4 n) s 0x0#6 0x0#4)
  | .cwait n => some (wordS 0xef (cat 8 0x0#4 n) 0x0#6 0x0#6 0x0#4)
  | .cwaitAll => some (wordS 0xef 0x0#8 0x0#6 0x0#6 0x1#4)
  | .seedPush s => some (wordS 0xf0 0x0#8 s 0x0#6 0x0#4)
  | .seedPop => some (wordS 0xf0 0x0#8 0x0#6 0x0#6 0x1#4)
  | .seedFork s => some (wordS 0xf0 0x0#8 s 0x0#6 0x2#4)
  | .trap i s => some (wordS 0xf1 i s 0x0#6 0x0#4)
  | .resumeWait s => some (wordS 0xf2 0x0#8 s 0x0#6 0x0#4)
  | .resumeAbort s => some (wordS 0xf2 0x0#8 s 0x0#6 0x1#4)
  | .eret => some (wordS 0xf3 0x0#8 0x0#6 0x0#6 0x0#4)
  | .tlbiVa s t => some (wordS 0xf4 0x0#8 s t 0x0#4)
  | .tlbiTen s t => some (wordS 0xf4 0x0#8 s t 0x1#4)
  | .tlbiCtx t => some (wordS 0xf4 0x0#8 0x0#6 t 0x2#4)
  | .tlbiAll => some (wordS 0xf4 0x0#8 0x0#6 0x0#6 0x3#4)
  | .tlbiAcknowledge _ => none
  | .replay s => some (wordS 0xf5 0x0#8 s 0x0#6 0x0#4)
  | .ctxsv s t => some (wordS 0xf6 0x0#8 s t 0x0#4)
  | .ctxld s t => some (wordS 0xf6 0x0#8 s t 0x1#4)
  | .waitGeu s t => some (wordS 0xf7 0x0#8 s t 0x0#4)
  | .waitEq s t => some (wordS 0xf7 0x0#8 s t 0x1#4)
  | .waitNe s t => some (wordS 0xf7 0x0#8 s t 0x2#4)
  | .waitLtu s t => some (wordS 0xf7 0x0#8 s t 0x3#4)
  | .waitSb => some (wordS 0xf7 0x0#8 0x0#6 0x0#6 0x4#4)
  | .memoryWaitRecheck _ => none
  | .halt => some (wordS 0xf8 0x0#8 0x0#6 0x0#6 0x0#4)
  | .wrcfg n s => some (wordS 0xf9 n s 0x0#6 0x0#4)
  | .rdcfg n s => some (wordS 0xfa n s 0x0#6 0x0#4)
  | .pwrSt s => some (wordS 0xfb 0x0#8 s 0x0#6 0x0#4)
  | .pwrHint s => some (wordS 0xfb 0x0#8 s 0x0#6 0x1#4)
  | .fetch _ => none
  | .markerReachesHead _ _ => none
  | .queueDeadlock _ => none
  | .scratchpadWritePerform _ => none
  | .ninesCompare _ _ _ _ => none
  | .trapTakenUser _ => none
  | .trapTakenSystem _ => none
  | .gangPreempt _ => none
  | .gangSaved _ => none
  | .gangRestore _ _ _ => none
  | .gangDispatch _ => none
  | .gangStart _ => none
  | .reservationTimeout _ => none
  | .reservationDrop _ => none
  | .childBoostTimeout _ => none
  | .nodeEnding _ => none
  | .nodeCompletionRecord _ => none
  | .launchPacket _ => none
  | .graphPacket _ => none
  | .seedPushPacket _ => none
  | .seedPopPacket _ => none
  | .seedForkPacket _ => none
  | .waitPacket _ => none
  | .waitPacketPoll _ => none
  | .signalPacket _ => none
  | .signalWrite _ => none
  | .reshardOnBehalf _ => none
  | .contextCreate _ => none
  | .contextStop _ => none
  | .contextStart _ => none
  | .contextDestroy _ => none
  | .contextFreed _ => none
  | .resumeThread _ => none
  | .qattach _ => none
  | .qdetach _ => none
  | .qtailWrite _ _ => none
  | .evconsWrite _ _ => none
  | .nctlRelease _ _ => none
  | .nctlCancel _ _ => none
  | .migcmdWrite _ _ => none
  | .migrationStart _ => none
  | .migrationFinish _ => none
  | .tkcmdCreate _ _ => none
  | .tkcmdDestroy _ _ => none
  | .parkRingWrite _ _ _ => none
  | .pendctlWrite _ _ => none
  | .lnkctlRetrain _ _ => none
  | .lnkctlDisable _ _ => none
  | .lnkctlEnable _ _ => none
  | .lnkctlClear _ _ => none
  | .fenceCore _ _ => none
  | .fenceSlice _ _ _ => none
  | .pstateWrite _ _ => none
  | .configRegisterWrite _ _ _ => none
  | .homeLoss _ => none
  | .atomoArrival _ => none
  | .atomoRetry _ => none
  | .atomoLineStall _ => none
  | .rdcEviction _ _ _ => none
  | .correctableError _ => none
  | .uncorrectableError _ => none
  | .patrolScrub _ _ _ => none
  | .arbiterPeriod _ => none
  | .dieFreeze _ => none
  | .flitReceive _ _ _ _ => none
  | .linkTrained _ _ _ => none
  | .linkTrainingFailed _ _ => none
  | .linkReplayLimit _ _ => none
  | .laneLost _ _ => none
  | .linkRetrainTimeout _ _ => none
  | .peerDown _ _ => none
  | .routeTablesInForce => none
  | .cxlLinkDown _ => none
  | .powerOn => none
  | .sidebandReset _ _ _ => none
  | .bringUp _ _ => none
  | .diePresent _ => none
  | .sidebandInventory => none
  | .sidebandAttest _ => none
  | .sidebandPowerRead _ => none
  | .sidebandPlimitWrite _ => none
  | .sidebandPstateWrite _ _ => none
  | .sidebandLog => none
  | .malformedPacket _ => none
  | .memoryAccessPerformed _ => none
  | .llcLineEviction _ _ => none
  | .slicePartialAttention _ => none
  | .reshardPairCopy _ => none

/-- The instruction that the decoder reads from `nbits` bits numbered as the operation table numbers them (bit 0 the least significant bit
of the word); none where it refuses, or where the bits are not one 32-bit word. -/
noncomputable def decodeTableWord (nbits w : Nat) : Option Instr :=
  if nbits = 32 ∧ w < 2 ^ 32 then (match decode (BitVec.ofNat 32 w) with | .ok i => some i | .error _ => none) else none

end Sys2Proof
end

