-- ==== Sys2Proof/Machine/Order.lean ====
section
/-! DEFINITION. Who moves next: register hazards between engines (R66, R67), the default turn order of engines, fetch and the device's own work (log
entry 1), and the placement of a program of one word. -/

namespace Sys2Proof.Machine

/-- The trap of a word that fails decode (R60); a loop word of a shape that R99 refuses raises SHAPE. -/
def decodeTrap (d : DecodeErr) : TrapInfo :=
  { code := match d with | .illegal => .illegalInsn | .reserved => .reservedField | .shape => .shape, estat := 0, addr := 0, openE := -1, openA := true }

/-- What a queued word reads and writes; a word that traps at decode does neither. -/
noncomputable def usesWord (w : Word) : List Nat × List Nat := match decode w with | .ok i => usesOf i | .error _ => ([], [])

/-- A word that changes RRB when SEQ executes it (R106). -/
def isRot (w : Word) : Bool := bits w 24 8 == (0x13 : BitVec 8)

/-- The entry, still in SEQ's queue, changes RRB (R66, R101). -/
def IqEntry.turnsRrb (x : IqEntry) : Bool :=
  match x.item with
  | .pass r => r
  | .word w => isRot w
  | .marker _ => false

/-- The engines whose earlier words a word must wait for (R66, R67): those that still have to write what it names or read what it writes, and SEQ while
a change of RRB before it in fetch order is not executed. -/
noncomputable def Thread.hazards (th : Thread) (e : Engine) (x : IqEntry) (w : Word) : List Engine :=
  let u := usesWord w
  let rot := (rotates u.1 || rotates u.2) && (th.iq.get 0).any fun y => decide (y.ord < x.ord) && y.turnsRrb
  let r := u.1.map (resolveUse x.rrb)
  let wr := u.2.map (resolveUse x.rrb)
  if rot && e != .seq then [.seq]
  else allEngines.filter fun f => f != e && (th.iq.get (engCode f)).any fun y =>
    match y.item with
    | .word v =>
      decide (y.ord < x.ord) &&
        (let z := usesWord v
         let zr := z.1.map (resolveUse y.rrb)
         let zw := z.2.map (resolveUse y.rrb)
         clash r zw || clash wr zr || clash wr zw)
    | _ => false

/-- The queue of SEQ's entries from which an instruction takes one (R163, R328, R355, R358, R449); the pack words take one only where they
ask for scales. -/
def queueOf : Instr → Option Nat
  | .mma .. => some 0
  | .mmas .. => some 0
  | .mmat .. => some 0
  | .mdist .. => some 0
  | .mtopk .. => some 0
  | .xpack .. => some 4
  | .xpackK1 .. => some 4
  | .xpackS .. => some 4
  | .vqinS .. => some 7
  | .vcomp .. => some 7
  | .retnQ .. => some 9
  | _ => none

/-- A word takes a value that is withheld until the nines core has compared it (R459): a scalar that it reads under R67, or the entry at the head of the queue that it
pops. -/
noncomputable def Thread.withheld (th : Thread) (e : Engine) (x : IqEntry) (w : Word) (clk : Nat) : Bool :=
  e != .seq &&
  ((usesWord w).1.any fun n => decide (n < 64) && !(th.heldBack (16 + resolveUse x.rrb n) clk).isEmpty) ||
  (match decode w with
    | .ok i => (match queueOf i with | some q => th.headWithheld q clk && !(q == 0 && th.fmtHeld.isSome) | none => false)
    | .error _ => false)

/-- The engines that a word waits for: those of its hazards, and SEQ while a value that it takes is withheld (R66, R67, R459). -/
noncomputable def State.waitsFor (s : State) (t : Nat) (e : Engine) (x : IqEntry) (w : Word) : List Engine :=
  match (s.thr t).hazards e x w with
  | [] => if (s.thr t).withheld e x w s.clk then [.seq] else []
  | es => es

/-- An engine may execute its head word now: under single step only the stepped engine (R140). -/
def Thread.mayRun (th : Thread) (e : Engine) : Bool :=
  th.active && (!th.sten || th.steng == BitVec.ofNat 3 (engCode e)) && !(th.iq.get (engCode e)).isEmpty

/-- The slots of the default order that have something to do, from the present one on. -/
def Thread.nextTurn (th : Thread) : Option Nat :=
  (List.range 10).findSome? fun k =>
    let n := (th.turn + k) % 10
    if n < 8 then (if th.mayRun (engineOf n) then some n else none)
    else if n = 8 then (if th.passJoin.mayFetch then some n else none)
    else some n

/-- The thread after a thread in key order, cyclically. -/
def State.threadAfter (s : State) (t : Nat) : Nat :=
  match s.threads.find? fun e => decide (t < e.1) with
  | some e => e.1
  | none => match s.threads.head? with | some e => e.1 | none => t

/-- A thread that holds one word at text address 0 and starts there (DESIGN CHOICE, log entry 3). -/
def programThread (w : Nat) : Thread :=
  { (default : Thread) with
    st := .running, text := (leBytes 4 w).zipIdx.foldl (fun t x => Tab.set t x.2 x.1) [], slipw := 1024, gangs := 1, node := 1,
    lsz := [(1, 1), (2, 1), (3, 1), (4, 1)], seeds := [{ key := 0, vec := 0, mat := 0 }], turn := 8 }

/-- Place a program of one word on core 0 of die 0 in firmware's context (DESIGN CHOICE, log entry 3; DEDUCED, log entry 4). -/
def State.placeWord (s : State) (w : Nat) : State :=
  { s with
    agenda := [], cur := 0
    dies := s.dies.set 0 { (default : Die) with present := true, everUp := true, step := 7 }
    ctxs := s.ctxs.set 0 { (default : Ctx) with st := .active, sys := true }
    nodes := s.nodes.set 1 { (default : Node) with st := .running, nid := 1, gangs := 1, members := 1, given := 1, live := 1 }
    gangs := s.gangs.set 0 { (default : Gang) with st := .live, node := 1, threads := [0] }
    threads := s.threads.set 0 (programThread w) }

end Sys2Proof.Machine
end

