-- ==== Sys2Proof/Machine/Background.lean ====
section
/-! DEFINITION. The device's own work in the default order (DESIGN CHOICE, log entry 1): of the device steps that have something to do, the turn count picks one. -/

namespace Sys2Proof.Machine
open Sys2Proof

/-- The device step of a piece of work. -/
noncomputable def workStep (k : Nat) (x : Task) : List Instr :=
  if x.parked then []
  else
    match x.work with
    | .none => []
    | .copy c => if c.units.head? = some .haloAdd then [.haloArrival k] else [.copyUnitLands k]
    | .patt p => if p.blocks.isEmpty then [.pattDone k] else [.slicePartialAttention k]
    | .cent _ => [.centKeyUpdate k]
    | .sieve _ => [.sieveCompact k]
    | .coll c => if c.dead.isSome then [] else [.collStep k]
    | .reshard r => if r.pairs.isEmpty then [.reshardExchangeComplete k] else [.reshardPairCopy k]

/-- The device steps that a thread gives occasion for. -/
noncomputable def threadStep (t : Nat) (th : Thread) : List Instr :=
  match th.pend with
  | some p => if th.quiet then (if th.userRoute p.info.code then [.trapTakenUser t] else [.trapTakenSystem t]) else []
  | none =>
    (if th.recHeld then [.trapTakenSystem t] else []) ++
    (if th.st = .running ∨ th.st = .handler then
      (if th.held.get 7 = some .outside then [.memoryWaitRecheck t, .tokenWaitResume t] else []) ++
      (if th.adrTrap.isSome then [.adrFaultTrap t] else [])
    else [])

/-- A gang of a stopping context is pre-empted; a saved one of an active context returns to where it was (R117, R147). -/
noncomputable def State.gangTurn (s : State) (g : Nat) (x : Gang) : List Instr :=
  let st := (s.ctxs.get (s.nodes.get x.node).cid).st
  if x.st = .live ∧ st = .stopping then [.gangPreempt g]
  else if x.st = .saved ∧ !x.byCtxsv ∧ st = .active then
    match x.threads.head? with | some t => [.gangRestore g (s.thr t).die (s.thr t).core] | none => []
  else []

/-- The step of the packet at HEAD of a queue. -/
noncomputable def State.packetStep (s : State) (q : Nat) : Instr :=
  let b := s.packet q
  if !packetOk q b then .malformedPacket q
  else match field (b.dw 0) 0 8 with
    | 1 => .launchPacket q
    | 2 => .graphPacket q
    | 3 => .seedPushPacket q
    | 4 => .seedPopPacket q
    | 5 => .seedForkPacket q
    | 6 => .waitPacket q
    | 7 => .signalPacket q
    | 8 => .reshardOnBehalf q
    | _ =>
      match field (b.dw 1) 0 8 with
      | 1 => .contextCreate q
      | 2 => .contextStop q
      | 3 => .contextStart q
      | 4 => .contextDestroy q
      | 5 => .resumeThread q
      | 6 => .qattach q
      | _ => .qdetach q

/-- The next flit on the wire of a link comes to its far end (R409). -/
noncomputable def State.flitSteps (s : State) : List Instr :=
  let of := fun (d p : Nat) (x : LinkPort) =>
    match x.retry[x.cursor]? with
    | some f => if x.st.usable then [Instr.flitReceive (s.farEnd d p).1 (s.farEnd d p).2 f.num true] else []
    | none => []
  (s.ports.flatMap fun e => of (e.1 / 6) (e.1 % 6) e.2) ++
  (s.dports.flatMap fun e => of (diripoDie (e.1 % 512)) (if e.1 < 512 then 6 else 7) e.2)

/-- A port whose flit has been replayed 8 times retrains (R411). -/
noncomputable def State.wornSteps (s : State) : List Instr :=
  (s.ports.flatMap fun e => if e.2.worn then [.linkReplayLimit (e.1 / 6) (e.1 % 6)] else []) ++
  (s.dports.flatMap fun e => if e.2.worn then [.linkReplayLimit (diripoDie (e.1 % 512)) (if e.1 < 512 then 6 else 7)] else [])

/-- Every device step that has something to do. -/
noncomputable def State.occasions (s : State) : List Instr :=
  (s.threads.flatMap fun e => threadStep e.1 e.2) ++
  (s.tasks.flatMap fun e => if s.workHeld e.1 then [] else workStep e.1 e.2) ++
  ((List.range s.sbars.length).map fun n => .sbarArrivalEffect n) ++
  s.flitSteps ++ s.wornSteps ++ (if s.routesStale then [.routeTablesInForce] else []) ++ (s.shoots.flatMap fun x => x.dies.map fun d => .tlbiAcknowledge d) ++
  (s.atomo.map fun a => .atomoArrival a.thread) ++ (s.refused.map fun a => .atomoRetry a.thread) ++
  (if s.posted.isEmpty then [] else [.memoryAccessPerformed 0]) ++
  (s.nodes.flatMap fun e => if e.2.st = .running then [.nodeEnding e.1] else if e.2.st = .ending then [.nodeCompletionRecord e.1] else []) ++
  (s.gangs.flatMap fun e => if e.2.st = .loading then [.gangStart e.1] else if e.2.st = .stopping then [.gangSaved e.1] else s.gangTurn e.1 e.2) ++
  (if s.nodes.any fun e => e.2.st = .ready || (e.2.st = .running && decide (e.2.given < e.2.gangs)) then
    s.presentDies.map fun d => .gangDispatch d else []) ++
  ((List.range s.signals.length).map fun n => .signalWrite n) ++
  (s.dies.flatMap fun e => if e.2.mig.isSome then [.migrationFinish e.1] else if e.2.migQ.isEmpty then [] else [.migrationStart e.1]) ++
  (s.queues.flatMap fun e => if e.2.st = .waiting then [.waitPacketPoll e.1] else if s.serves e.1 then [s.packetStep e.1] else []) ++
  (s.ctxs.flatMap fun e => if e.2.st = .draining then [.contextFreed e.1] else [])

/-- The device step that the default order takes now. -/
noncomputable def State.background (s : State) : Option Instr :=
  let is := s.occasions
  is[s.bgTurn % is.length]?

end Sys2Proof.Machine
end

