-- ==== Sys2Proof/Machine/Boot.lean ====
section
/-! DEFINITION. Resets (R483), bring-up (R484, R485), the admin queue set-up (R486) and the management sideband (R491, R492). -/

namespace Sys2Proof.Machine

/-! ## Resets (R483) -/

/-- Second-tier contents stay over a module reset; what HBM then holds is not laid down, and reads as memory that nothing has written (DESIGN CHOICE, log entry 2). -/
def keepsMem (a : Nat) : Bool := !isHbm a

/-- What a die keeps over a module reset: its fused minimum version and key digest (R485). -/
def fused (t : Tab Die) : Tab Die := t.foldl (fun u e => Tab.set u e.1 { (default : Die) with fwMin := e.2.fwMin, fwKey := e.2.fwKey }) []

/-- The dirty lines of every die's slices are lost (R483). -/
def State.loseAllDirty (s : State) : State := s.llc.foldl (fun s e => s.loseLine e.1) s

/-- A module reset: everything goes to its reset value, the card's registers with it (R7, R486); the host's memory, what second-tier memory itself holds and what is fused or
strapped stay. -/
def State.moduleReset (s : State) : State :=
  let s := s.loseAllDirty
  { State.reset with
    clk := s.clk, agenda := s.agenda, choice := s.choice, freeCtr := s.freeCtr, pkgid := s.pkgid, hostMem := s.hostMem
    mem := s.mem.filter fun e => keepsMem e.1
    poison := s.poison.filter fun e => keepsMem (e.1 * 16)
    dies := fused s.dies }

/-- POWER_ON (R483). -/
def execPowerOn (s : State) : Out := .next s.moduleReset

/-- A core is reset: a thread that occupies it first ends its gang (R207, R483). -/
def State.coreReset (s : State) (d c : Nat) : State :=
  match s.onCore d c with
  | some t => s.loseGang (s.thr t).gang 0x51
  | none => s

/-- SIDEBAND_RESET (R483, R491). -/
def execSidebandReset (scope : ResetScope) (d c : Nat) (s : State) : Out :=
  .next (match scope with
    | .module => s.moduleReset
    | .die => s.dieReset d
    | .core => s.coreReset d c)

/-! ## Bring-up (R484) -/

/-- The boot ROM accepts an image on a die (R485): its digest is that of its version and payload, its signature is over that digest and verifies under the fused key, and
its version is not below the fused minimum. The version counts as eight bytes before the payload, and the signature is idealised (DESIGN CHOICE, log entry 107). -/
def Die.accepts (d : Die) (x : FwImage) : Bool :=
  x.digest == sha512 (leBytes 8 x.version ++ x.payload) && x.signed == x.digest && x.signer == d.fwKey && decide (d.fwMin ≤ x.version)

/-- The step that fails: the reported one, or step 1 when the boot ROM does not accept the image (R484, R485). -/
def failedStep (x : Die) (r : BringUpReport) : Nat := if r.fails ≠ 0 then r.fails else if x.accepts r.image then 0 else 1

/-- Lykai ports are enabled, those the board leaves unconnected stay off; a Diripo port trains (R484, R411). -/
def State.enablePorts (s : State) (d : Nat) (unconnected : List Nat) : State :=
  let s := unconnected.foldl (fun s p => if p < 6 then s.setAnyPort d p fun x => { x with unconnected := true } else s) s
  let s := (List.range 6).foldl (fun s p => s.linkAct 3 d p) s
  if isDiripo d 6 ∧ (s.anyPort d 6).st = .off then s.bothEnds d 6 fun x => { x with st := .training, attempts := 0 } else s

/-- BRING_UP (R484): a die that is not present runs steps 1 to 4, and waits at step 5 unless one fails. A step that fails, 5 and 6 too, leaves the die in reset (R483). -/
def execBringUp (d : Nat) (r : BringUpReport) (s : State) : Out :=
  .next (
    let x := s.die d
    if x.present ∨ 256 ≤ d then s
    else if failedStep x r ≠ 0 then (s.dieReset d).setDie d fun y => { y with failed := failedStep x r }
    else
      let s := s.setDie d fun x =>
        { x with
          step := 5, failed := 0, coreBad := r.badCores.foldl (fun t c => Tab.set t c true) [], sliceBad := r.badSlices.foldl (fun t c => Tab.set t c true) []
          offpkg := r.offpkg, cxlSize := Nat.min r.cxlSize (2 ^ 41), cxlDown := false, fwVersion := r.image.version, fwDigest := r.image.digest }
      s.enablePorts d r.unconnected)

/-- The anchor that a die in step 5 waits for (R417): while no die is present, the lowest die that has completed step 4. -/
def State.awaited (s : State) (d : Nat) : Nat :=
  match s.anchor with
  | some a => a
  | none => (s.dies.filter fun e => e.2.step == 5).foldl (fun b e => Nat.min b e.1) d

/-- The ports of a die have settled: none is training. -/
def State.portsSettled (s : State) (d : Nat) : Bool := (List.range 6).all fun p => (s.port d p).st != .training && (s.port d p).st != .retraining

/-- Step 5 is complete: a path joins the die to the anchor, or it is the anchor and its ports have settled. -/
def State.joined (s : State) (d : Nat) : Bool :=
  let a := s.awaited d
  if a = d then s.portsSettled d else (s.reachDies 256 [d]).contains a

/-- ADMQ of a port (R486). -/
def AdminPort.admq (p : AdminPort) : Dword := p.admqX ^^^ 4

/-- ADMEV of a port (R486). -/
def AdminPort.admev (p : AdminPort) : Dword := p.admevX ^^^ 7

/-- Step 6 on a die with a Diripo port: the admin queue and the event ring are attached (R486); the ring starts empty. -/
def State.attachAdmin (s : State) (d : Nat) : State :=
  if !isDiripo d 6 then s
  else
    let port := diripoKey d
    let p := s.admin.get port
    let l := ringBits p.admq 4
    let base := field p.admq 12 52 * 4096
    let q : HQueue := { st := .active, cid := 0, port := port, l := l, wt := 1, base := base, hrep := base + 64 * 2 ^ l, head := 0, tail := 0, entered := [],
                        atSlot := none }
    { s with
      queues := s.queues.set (port / 2 * 4096 + port % 2) q
      admin := s.admin.set port { p with evBase := field p.admev 12 52 * 4096, evL := ringBits p.admev 7, prod := p.cons } }

/-- Firmware runs as CID 0, a system context (R115; DEDUCED, log entry 4). -/
def State.startFirmware (s : State) : State :=
  if (s.ctxs.get 0).st = .free then s.modCtx 0 fun _ => { (default : Ctx) with st := .active, sys := true, pkg := s.pkgid, evPort := 2 * s.pkgid } else s

/-- Steps 5 and 6 end: the die is present (R484, R485, R275). -/
def State.makePresent (s : State) (d : Nat) : State :=
  let x := s.die d
  if x.present ∨ x.step ≠ 5 ∨ !s.joined d then s
  else
    let s := s.setDie d fun x => { x with present := true, everUp := true, step := 7, fwMin := Nat.max x.fwMin x.fwVersion }
    ((s.startFirmware).attachAdmin d).rebuildRegions d

/-- DIE_PRESENT (R484). -/
def execDiePresent (d : Nat) (s : State) : Out := .next (s.makePresent d)

/-! ## The management sideband (R491, R492) -/

/-- The numbers below `n` that a table holds. -/
def listed (t : Tab Bool) (n : Nat) : List Nat := (List.range n).filter fun i => Tab.get t i

/-- What the inventory says of a die (R491). -/
def State.dieReport (s : State) (d : Nat) : DieReport :=
  let x := s.die d
  { die := d, dgeom := s.dgeom d, cores := listed x.coreBad 256, slices := listed x.sliceBad 32, cxlSize := x.cxlSize, failed := x.failed }

/-- What the attestation report says of a die; the digest of an absent die is zero (R492). -/
def State.dieClaim (s : State) (d : Nat) : DieClaim :=
  let x := s.die d
  { die := d, dgeom := s.dgeom d, cores := listed x.coreBad 256, slices := listed x.sliceBad 32
    digest := if x.present then x.fwDigest else 0, version := x.fwVersion }

/-- The dies of the module. -/
def State.moduleDies (s : State) : List Nat := (List.range 8).map fun i => 8 * s.pkgid + i

/-- A reply of the sideband. -/
def State.reply (s : State) (r : SbReply) : State := { s with sbOut := s.sbOut ++ [r] }

/-- SIDEBAND_INVENTORY (R491). -/
def execSidebandInventory (s : State) : Out := .next (s.reply (.inventory (s.moduleDies.map s.dieReport)))

/-- SIDEBAND_ATTEST (R492): the signature is made with a key that the manual does not give, whose certificate chain is returned on request. -/
def execSidebandAttest (req : AttestRequest) (s : State) : Out :=
  .next (match req with
    | .report nonce => State.reply { s with freeCtr := s.freeCtr + 1 }
        (.attest nonce (s.moduleDies.map s.dieClaim) Config.boardDigest (Config.freeSignature s.freeCtr))
    | .chain => s.reply (.chain Config.certChain))

/-- SIDEBAND_POWER_READ (R491). -/
def execSidebandPowerRead (d : Nat) (s : State) : Out := .next (s.reply (.power d (s.die d).pwrst))

/-- SIDEBAND_PLIMIT_WRITE (R468). -/
def execSidebandPlimitWrite (v : Dword) (s : State) : Out := .next (s.setPlimit v)

/-- SIDEBAND_PSTATE_WRITE (R490). -/
def execSidebandPstateWrite (d : Nat) (v : Dword) (s : State) : Out := .next (s.writePstate d v)

/-- SIDEBAND_LOG (R491): ELCNT and the ELPOS counts. -/
def execSidebandLog (s : State) : Out := .next (s.reply (.log (s.moduleDies.map fun d => (d, (s.die d).elcnt, (s.die d).elpos))))

end Sys2Proof.Machine
end

