-- ==== Sys2Proof/Machine/Syn.lean ====
section
/-! DEFINITION. The remaining words of SYN (R26, R123, R124, R136 to R138, R145, R146, R192, R193, R249, R295, R469) and the device steps of a thread: traps
taken (R126, R134, R139), scratchpad and memory accesses performed (R278, R288), the array's commands (R367, R368), the nines core (R459, R460). -/

namespace Sys2Proof.Machine

/-- A SYN word waits outside, having done what the state shows. -/
def synHold (s : State) : Except Exit State := .error (.hold .outside s)

/-! ## Launch (R192) and cwait (R193) -/

/-- What the stage of a launch that has read its body says: the body, the seed key, and whether the entry is taken, so that it is submitted. -/
def launchStage (b : Body) (key : Dword) (taken : Bool) : Nat :=
  2 + (if taken then 1 else 0) + 2 * leNat (dwBytes (b.map BitVec.toNat)) + 2 ^ 513 * key.toNat

/-- The launch of a stage has its scoreboard entry. -/
def stageTaken (n : Nat) : Bool := decide (2 ≤ n) && n % 2 == 1

/-- The body of a stage. -/
def stageBody (n : Nat) : Body := bodyOf (leBytes 64 ((n - 2) / 2))

/-- The seed key of a stage. -/
def stageKey (n : Nat) : Dword := BitVec.ofNat 64 ((n - 2) / 2 ^ 513)

/-- The child slot of a launch word (R192). -/
def launchSlot (w : Word) : Option Nat := if bits w 24 8 = (0xEE : BitVec 8) then some (field w 16 4) else none

/-- The first word of a queue with its fetch-order number. -/
def firstWord (q : List IqEntry) : Option (Word × Nat) :=
  q.findSome? fun x => match x.item with | .word w => some (w, x.ord) | _ => none

/-- A launch that a thread has submitted and that is not accepted: its slot, its stage, its word's fetch-order number, and whether it stands among the queues
set aside. -/
def Thread.submitted (th : Thread) : Option (Nat × Nat × Nat × Bool) :=
  let of_ := fun (q : List IqEntry) (stage : Nat) (aside : Bool) =>
    if !stageTaken stage then none
    else match firstWord q with
      | some (w, ord) => (launchSlot w).map fun n => (n, stage, ord, aside)
      | none => none
  match of_ (th.iq.get 7) th.synStage false with
  | some x => some x
  | none => of_ (th.aside.get 7) th.synAside true

/-- The pending entry of the launch word with a fetch-order number. -/
def Thread.launchEntry (th : Thread) (ord : Nat) : Option Nat :=
  (List.range 16).find? fun j => let x := th.sb.get j; x.valid && x.st == .pending && x.eng == .syn && x.op == 0x0E && x.ord == ord

/-- What a launched node comes from (R122, R190, R194). -/
def State.launchOrigin (s : State) (th : Thread) (key : Dword) : Origin :=
  { qid := none, ordinal := 0, seedKey := forkKey key th.launches, parents := th.node :: (s.nodes.get th.node).parents
    byGangs := th.gang :: (s.nodes.get th.node).byGangs }

/-- The order point accepts the body of a launch when it has room (R173): the slot names the node, and the entry is done. -/
def State.acceptLaunch (s : State) (t n stage ord : Nat) : Option State :=
  let th := s.thr t
  let b := stageBody stage
  if !s.nodeRoom th.cid (bits (b.dw 3) 32 8) 1 || s.listing th.cid none then none
  else match s.admission th.cid b false with
    | (.wait, _) => none
    | (a, s) =>
      let o := s.launchOrigin th (stageKey stage)
      let x := s.enterNode th.cid b a o
      let nid := x.1 % 2 ^ 32
      some (x.2.modThr t fun th =>
        let th : Thread := { th with child := th.child.set n nid, launches := th.launches + 1 }
        match th.launchEntry ord with
        | some j => { th with sb := th.sb.mod j fun e => { e with obj := BitVec.ofNat 32 nid, st := .done } }
        | none => th)

/-- A submitted launch is accepted outside its word's turn: its word has executed and leaves its queue. -/
def State.lateLaunch (s : State) (t : Nat) : State :=
  match (s.thr t).submitted with
  | none => s
  | some (n, stage, ord, aside) =>
    match s.acceptLaunch t n stage ord with
    | none => s
    | some s' =>
      let s' := s'.modThr t fun th => if aside then { th with synAside := 0 } else { th with synStage := 0 }
      if (s.thr t).active && !aside then
        { State.retire { s' with cur := t } .syn { s with cur := t } with cur := s.cur }
      else s'.modThr t fun th =>
        let th : Thread := { th with count := th.count.set 7 (th.count.get 7 + 1) }
        if aside then { th with aside := th.aside.set 7 (dropWord (th.aside.get 7)) } else { th with iq := th.iq.set 7 (dropWord (th.iq.get 7)) }

/-- Every submitted launch that there is room for is accepted. -/
def State.acceptLaunches (s : State) : State := s.threads.foldl (fun s e => s.lateLaunch e.1) s

/-- What one core clock does before anybody moves: the clock's own work, submitted launches that there is room for, boosts that end. -/
def State.newClock (s : State) : State := s.tick.acceptLaunches.endBoosts

/-- A launch takes its entry and is submitted; without room at the order point it waits (R173, R192). -/
def submitLaunch (n : Nat) (b : Body) (key : Dword) (s : State) : Except Exit State := do
  let (_, s) ← takeEntry (s.setStage (launchStage b key false)) .syn 0x0E 0
  let stage := launchStage b key true
  match s.acceptLaunch s.cur n stage (s.me.ordOf .syn) with
  | some s => .ok (s.setStage 0)
  | none => synHold (s.setStage stage)

/-- launch (R192): the body is read once, when the word executes. -/
def execLaunch (n : BitVec 4) (a : BitVec 6) (s : State) : Out :=
  finish .syn s (
    if stageTaken s.me.synStage then synHold s
    else if 2 ≤ s.me.synStage then submitLaunch n.toNat (stageBody s.me.synStage) (stageKey s.me.synStage) s
    else
      let b := s.ys a
      if field b 0 6 ≠ 0 then .error (.trap { code := .align, estat := 0, addr := b, openE := -1 } s)
      else do
        let w := s.issuer s.cur .syn
        let (as, s) ← liftMem s (s.accessLin w b.toNat 64 false 0)
        let piece := s.accsTaint w as
        let x := s.loadAccs w as
        let s := x.2.readTaint s.cur .syn x.1.2 piece
        let body := bodyOf x.1.1
        if !body.ok false then openTrap s .shape
        else submitLaunch n.toNat body (match s.me.seeds with | e :: _ => e.key | [] => 0) s)

/-- The node that a child slot names has ended, or the slot is empty (R193). -/
def State.childEnded (s : State) (n : Nat) : Bool :=
  let k := s.me.child.get n
  k == 0 || !(s.nodes.get (nodeKey s.me.cid k)).st.inFlight

/-- cwait (R193). -/
def execCwait (n : BitVec 4) (s : State) : Out :=
  finish .syn s (
    if !s.childEnded n.toNat then synHold s
    else .ok ((s.modMe fun th => { th with child := th.child.set n.toNat 0 }).acquire s.cur))

/-- cwait.all (R193). -/
def execCwaitAll (s : State) : Out :=
  finish .syn s (
    if !((List.range 16).all s.childEnded) then synHold s
    else .ok ((s.modMe fun th => { th with child := [] }).acquire s.cur))

/-! ## Seed words (R123, R124) -/

/-- A VEC word that draws (R338). -/
def vecDraws (w : Word) : Bool :=
  field w 24 5 == 0x0E || ((field w 24 5 == 0x04 || field w 24 5 == 0x0C) && field w 0 2 == 2)

/-- A VEC word before a seed word has not drawn yet. In state handler a drawing word set aside at the trap is not waited for, and draws after eret from the entry that the
handler leaves on top; the same holds of tile commands (R124 is silent: DESIGN CHOICE, log entry 101). -/
def Thread.vecOwes (th : Thread) : Bool :=
  (th.iq.get 2).any fun x => decide (x.ord < th.ordOf .syn) && (match x.item with | .word w => vecDraws w | _ => false)

/-- A tile command before a seed word has not popped its format word, or draws; one at MAT's head may have popped a word that does not draw (R124). -/
def Thread.matOwes (th : Thread) : Bool :=
  (th.iq.get 3).zipIdx.any fun y =>
    decide (y.1.ord < th.ordOf .syn) &&
    (match y.1.item with
      | .word w => decide (field w 24 5 ≤ 4) && !(y.2 == 0 && (match th.fmtHeld with | some fw => fwRND fw != 2 | none => false))
      | _ => false)

/-- A recorded command that draws has not been run. -/
def Thread.arrayOwes (th : Thread) : Bool := (th.batch ++ th.batches.flatMap fun b => b.cmds).any fun c => fwRND c.fw == 2

/-- A seed word's wait, then its effect on the thread's stack (R123, R124). -/
def seedWord (f : List SeedEntry → Option (List SeedEntry)) (s : State) : Out :=
  finish .syn s (
    let th := s.me
    if th.vecOwes then holdAt s (.engines [.vec])
    else if th.matOwes || th.arrayOwes then holdAt s (.engines [.mat])
    else match f th.seeds with
      | none => openTrap s .shape
      | some l => .ok (s.modMe fun th => { th with seeds := l }))

/-- seed.push (R123). -/
def execSeedPush (a : BitVec 6) (s : State) : Out := seedWord (seedPushed (s.ys a)) s
/-- seed.pop (R123). -/
def execSeedPop (s : State) : Out := seedWord seedPopped s
/-- seed.fork (R123). -/
def execSeedFork (a : BitVec 6) (s : State) : Out := seedWord (seedForked (s.ys a)) s

/-! ## Traps, resume and eret (R136 to R138) -/

/-- trap (R138). -/
def execTrap (i : BitVec 8) (a : BitVec 6) (s : State) : Out :=
  finish .syn s (.error (.trap { code := .userTrap, estat := 0, addr := cat 64 i (bits (s.ys a) 0 56), openE := -1 } s))

/-- A word that state handler alone allows. -/
def needHandler (s : State) : Except Exit Unit := if s.me.st = .handler then .ok () else openTrap s .illegalInsn

/-- The issuer of what the device reads and writes in the user trap area (R134). -/
def State.areaIssuer (s : State) : Issuer := { s.issuer s.cur .syn with eng := none }

/-- Write SBN and the entries into the record of the user trap area (R136). -/
def rewriteRecord (s : State) : Except Exit State := do
  let w := s.areaIssuer
  let (as, s) ← liftMem s (s.accessLin w (s.me.tarea + 2) 1 true 0)
  let (bs, s) ← liftMem s (s.accessLin w (s.me.tarea + 128) 128 true 0)
  let s := s.storeAccs w as (leBytes 1 s.me.sbCount)
  .ok (s.storeAccs w bs (dwBytes ((s.me.sb.getRange 0 16).map fun x => x.word.toNat)))

/-- Entries that resume counts: failed, parked or aborted. -/
def Thread.unclean (th : Thread) : Nat :=
  ((th.sb.getRange 0 16).filter fun x => x.valid && (x.st == .failed || x.st == .parked || x.st == .aborted)).length

/-- The end of both forms of resume. -/
def resumeEnd (a : BitVec 6) (s : State) : Except Exit State :=
  if s.me.sbPending then synHold s
  else do
    let s ← rewriteRecord s
    .ok ((s.setStage 0).modMe fun th => th.ws .syn a (BitVec.ofNat 64 th.unclean))

/-- resume.wait (R136). -/
def execResumeWait (a : BitVec 6) (s : State) : Out :=
  finish .syn s (do
    needHandler s
    resumeEnd a s)

/-- resume.abort (R136). -/
def execResumeAbort (a : BitVec 6) (s : State) : Out :=
  finish .syn s (do
    needHandler s
    let s := if s.me.synStage = 1 then s else (s.abortAll s.cur true fun e => e == .xfr || e == .fab || e == .atn).setStage 1
    resumeEnd a s)

/-- What eret reads: the saved state of the area and SKIP of its record. -/
def eretCore (s : State) : Except Exit (List Byte × BitVec 8 × State) := do
  needHandler s
  synAfter s
  if s.me.sbPending then .error (.hold .outside (s.setStage 1))
  else
    let s ← if s.me.synStage = 1 then rewriteRecord s else .ok s
    let w := s.areaIssuer
    let (as, s) ← liftMem s (s.accessLin w (s.me.tarea + 0x100) 0x500 false 0)
    let (bs, s) ← liftMem s (s.accessLin w (s.me.tarea + 56) 8 false 0)
    let piece := s.accsTaint w as
    let x := s.loadAccs w as
    let y := x.2.loadAccs w bs
    .ok (x.1.1, bits (leDword y.1.1) 24 8, y.2.readTaint s.cur .syn (x.1.2 || y.1.2) piece)

/-- eret (R137): the word leaves with the handler's queues; under single step it is the word stepped (R140). -/
def execEret (s : State) : Out :=
  match eretCore s with
  | .error x => finish .syn s (.error x)
  | .ok (bs, skip, s') =>
    let a := s.me.pc .syn
    let s' := s'.modMe fun th => { th.leaveHandler bs skip with count := th.count.set 7 (th.count.get 7 + 1) }
    if s'.me.sten ∧ s'.me.steng = 7 then
      .next ((s'.modMe fun th => { th with stepPc := some a }).raise s.cur .syn { code := .step, estat := 0, addr := a.setWidth 64, openE := -1 })
    else .next s'

/-! ## Replay (R249) -/

/-- The parts of a task that stand parked, by their threads. -/
def Task.parkedOf (x : Task) : List Nat :=
  match x.work with
  | .none => []
  | .coll c => (c.members.filter fun m => m.parked).map fun m => m.thread
  | _ => if x.parked then [x.thread] else []

/-- A piece of work translates again, and parks again if it still faults. -/
def State.tryTask (s : State) (k : Nat) : State :=
  match (s.tasks.get k).work with
  | .copy _ => s.landUnit k
  | .patt _ => s.pattStep k
  | .cent _ => s.centStep k
  | .sieve _ => s.sieveStep k
  | .coll _ => s.collStep k
  | .reshard _ => s.reshardStep k
  | .none => s

/-- Replay one task: it is pending again and tries to translate, unless its die is frozen (R467); the work of a gang that stands saved is not touched, its
ended members' included (R322). -/
def State.replayTask (s : State) (k : Nat) : State :=
  let ts := (s.tasks.get k).parkedOf.filter fun t => !(s.tasks.get k).issued || (s.gangs.get (s.thr t).gang).st != .saved
  if ts.isEmpty then s
  else
    let s := (ts.foldl (fun s t => s.unpark k t) s).setTask k fun x => { x with again := some x.work }
    if s.workFrozen (s.tasks.get k) then s else s.tryTask k

/-- The park records that cannot be written yet and were not waiting before are of accesses that a replay has taken up. -/
def State.parkedAgain (s : State) (before : List ParkWait) : State :=
  { s with parkWaits := s.parkWaits.map fun w => if before.contains w then w else { w with again := true } }

/-- A context that replay names. -/
def replayNames (v : Dword) (cid : Nat) : Bool := flag v 63 || field v 0 10 == cid

/-- An access that replay has taken up has neither translated nor parked again: it waits for a migrating page, a path or its die, or for its park record. -/
def State.replayOwes (s : State) (v : Dword) : Bool :=
  (s.parkWaits.any fun w => w.again && replayNames v w.cid) || s.tasks.any fun e => replayNames v e.2.cid && e.2.again == some e.2.work

/-- replay (R249). -/
def execReplay (a : BitVec 6) (s : State) : Out :=
  finish .syn s (do
    needPriv s
    let v := s.ys a
    if bits v 10 53 ≠ 0 ∨ (flag v 63 ∧ bits v 0 10 ≠ 0) then openTrap s .shape
    else
      let s := if s.me.synStage = 1 then s
        else (s.tasks.foldl (fun s e => if replayNames v e.2.cid then s.replayTask e.1 else s) s).parkedAgain s.parkWaits
      if s.replayOwes v then synHold (s.setStage 1) else .ok (s.setStage 0))

/-! ## ctxsv and ctxld (R145) -/

/-- An area address that is a multiple of 64 KiB. -/
def areaAligned (s : State) (v : Dword) : Except Exit Unit :=
  if field v 0 16 ≠ 0 then .error (.trap { code := .align, estat := 0, addr := v, openE := -1 } s) else .ok ()

/-- ctxsv (R145). -/
def execCtxsv (a b : BitVec 6) (s : State) : Out :=
  finish .syn s (do
    needPriv s
    if 2 ≤ s.me.synStage then
      (if (s.gangs.get (s.me.synStage - 2)).st = .stopping then synHold s else .ok (s.setStage 0))
    else
      let v := s.ys a
      let area := s.ys b
      areaAligned s area
      let cid := field v 0 10
      match s.onCore (field v 21 5 * 8 + field v 10 3) (field v 13 8) with
      | none => openTrap s .shape
      | some t =>
        let g := (s.thr t).gang
        let x := s.gangs.get g
        if bits v 26 38 ≠ 0 ∨ (s.thr t).cid ≠ cid then openTrap s .shape
        else
          let (_, s) ← liftMem s (s.accessLin (Issuer.agent (s.thr t).die cid) area.toNat (s.areaBytes g) true 0)
          if x.st ≠ .live then synHold s
          else synHold ((s.stopGang g true area.toNat).setStage (g + 2)))

/-- The saved gang whose frames lie at a linear address, of whatever context (DEDUCED, log entry 85). -/
def State.savedAt (s : State) (va : Nat) : Option Nat :=
  (s.gangs.find? fun e => e.2.st == .saved && s.gangArea e.1 == va).map Prod.fst

/-- Members of a restored gang that go on need their records no longer (R139). -/
def State.unstop (s : State) (g : Nat) : State :=
  (s.gangs.get g).threads.foldl (fun s t => if (s.thr t).st = .stopped then s else s.dropArea t) s

/-- ctxld (R145): the word waits while a page of the area is migrating. An area that holds no saved gang raises SHAPE (DEDUCED, log entry 85); a gang that
can no longer be placed since a die it needs is gone ends, and with it the operation (R207). -/
def execCtxld (a b : BitVec 6) (s : State) : Out :=
  finish .syn s (do
    needPriv s
    let area := s.ys a
    let v := s.ys b
    areaAligned s area
    let die := field v 11 5 * 8 + field v 0 3
    match s.savedAt area.toNat with
    | none => openTrap s .shape
    | some g =>
      if s.gangStranded g ∧ bits v 16 48 = 0 then .ok (s.loseGang g 0x15)
      else match s.movedPlace g die (field v 3 8) with
      | none => openTrap s .shape
      | some p =>
        if bits v 16 48 ≠ 0 ∨ !(s.die die).present ∨ !s.placeFree g p then openTrap s .shape
        else
          let cid := (s.nodes.get (s.gangs.get g).node).cid
          let (_, s) ← liftMem s (s.accessLin (Issuer.agent die cid) area.toNat (s.areaBytes g) false 0)
          let s := s.restoreAt g p area.toNat true
          if (s.gangs.get g).st = .saved then synHold s else .ok (s.unstop g))

/-! ## Waits (R295) -/

/-- A wait on memory: its checks, a read at home, the compare; it reads again once told to. -/
def waitWord (f : Dword → Dword → Bool) (a b : BitVec 6) (s : State) : Out :=
  finish .syn s (
    if s.me.synStage = 1 ∧ !s.me.recheck then synHold s
    else do
      synAfter s
      let va := s.ys a
      if field va 0 3 ≠ 0 then .error (.trap { code := .align, estat := 0, addr := va, openE := -1 } s)
      else
        let w := s.issuer s.cur .syn
        let (as, s) ← liftMem s (s.accessLin w va.toNat 8 false 1)
        let piece := s.accsTaint w as
        let x := s.readsHome w as
        let s := x.2.readTaint s.cur .syn x.1.2 piece
        if f (leDword x.1.1) (s.ys b) then .ok ((s.setStage 0).acquire s.cur)
        else synHold (s.modMe fun th => { th with synStage := 1, recheck := false }))

/-- wait.geu (R295). -/
def execWaitGeu (a b : BitVec 6) (s : State) : Out := waitWord (fun v x => decide (x.toNat ≤ v.toNat)) a b s
/-- wait.eq (R295). -/
def execWaitEq (a b : BitVec 6) (s : State) : Out := waitWord (fun v x => v == x) a b s
/-- wait.ne (R295). -/
def execWaitNe (a b : BitVec 6) (s : State) : Out := waitWord (fun v x => v != x) a b s
/-- wait.ltu (R295). -/
def execWaitLtu (a b : BitVec 6) (s : State) : Out := waitWord (fun v x => decide (v.toNat < x.toNat)) a b s

/-- wait.sb (R295). -/
def execWaitSb (s : State) : Out := finish .syn s (if s.me.sbPending then synHold s else .ok s)

/-- MEMORY_WAIT_RECHECK (R295): the line has been written, or 1 µs has passed. -/
def execMemoryWaitRecheck (t : Nat) (s : State) : Out := .next (s.modThr t fun th => { th with recheck := true })

/-! ## halt (R146) -/

/-- Every word delivered before a halt has executed, and what they began has ended. -/
def State.haltReady (s : State) (t : Nat) : Bool :=
  let th := s.thr t
  th.allBefore .syn && !th.sbPending && !s.anyUnperformed t && th.quiet

/-- halt (R146): the thread ends; in state handler it contributes the pending trap's code (R185). -/
def execHalt (s : State) : Out :=
  if !s.haltReady s.cur then .next (s.holdWord .syn .outside)
  else .next ((if s.me.st = .handler then s.taint s.cur .syn s.me.recCode.num else s).endThread s.cur)

/-! ## Configuration and power words (R26, R469) -/

/-- wrcfg (R26); a MIGCMD write waits while 16 commands are queued (R242). -/
def execWrcfg (n : BitVec 8) (a : BitVec 6) (s : State) : Out :=
  finish .syn s (do
    needPriv s
    if n = 0x20 ∧ 16 ≤ (s.die s.me.die).migQ.length then synHold s else .ok (s.writeCfg s.me.die n.toNat (s.ys a)))

/-- rdcfg (R26). -/
def execRdcfg (n : BitVec 8) (a : BitVec 6) (s : State) : Out :=
  finish .syn s (.ok (s.modMe fun th => th.ws .syn a (s.readCfg th.die n.toNat)))

/-- pwr.st (R469). -/
def execPwrSt (a : BitVec 6) (s : State) : Out := finish .syn s (.ok (s.modMe fun th => th.ws .syn a (s.die th.die).pwrst))

/-- pwr.hint (R469). -/
def execPwrHint (a : BitVec 6) (s : State) : Out :=
  finish .syn s (
    if bits (s.ys a) 2 62 ≠ 0 then trapAt s .shape 1 (s.ys a)
    else .ok (s.modMe fun th => { th with hintX := bits (s.ys a) 0 2 ^^^ 2 }))

/-! ## Accesses performed (R278, R288) -/

/-- SCRATCHPAD_WRITE_PERFORM (R288): the n-th issued write is performed once its clock has come; the scratchpads of a frozen die stand still (R467). -/
def execScratchpadWritePerform (n : Nat) (s : State) : Out :=
  .next (match s.spend[n]? with
    | none => s
    | some p => if p.due ≤ s.clk ∧ !s.spadFrozen p then State.performPend { s with spend := s.spend.eraseIdx n } p else s)

/-- MEMORY_ACCESS_PERFORMED (R278): the n-th store that stands issued is performed, after those of its thread that come before it (R280, R281). -/
def execMemoryAccessPerformed (n : Nat) (s : State) : Out :=
  .next (match s.posted[n]? with
    | none => s
    | some p => s.drainPosted (p :: comeBefore false p.thread (s.posted.take n).reverse [p.place]).contains)

/-! ## The array (R367, R368) -/

/-- ARRAY_COMMAND_START (R367); the array of a frozen die stands still (R467). -/
def execArrayCommandStart (t : Nat) (s : State) : Out :=
  .next (if (s.thr t).mayStart s.clk && !(s.die (s.thr t).die).frozen then s.arrayStart t else s)

/-- The command under way is in its last clock. -/
def Thread.lastClock (th : Thread) : Bool :=
  match th.curCmd with
  | some (b, c) => b.started && decide (clocksOf c ≤ b.pos + 1)
  | none => false

/-- ARRAY_COMMAND_RETIRE (R368): the last clock of a command ends, on a die that is not frozen (R467). -/
def execArrayCommandRetire (t : Nat) (s : State) : Out :=
  .next (if (s.thr t).lastClock && !(s.die (s.thr t).die).frozen then s.arrayClock t else s)

/-! ## The nines core (R459, R460) -/

/-- What a comparison concerns: a queue that SEQ pushes to, or a register by its name under RRB, scalars from 0 and predicates from 64 (log entry 75); a number beyond these
stands for nothing. -/
def Thread.comparedWhat (th : Thread) (reg : Bool) (num : Nat) : Nat :=
  if !reg then (if num < 16 then num else 96) else if num < 64 then 16 + physS th.rrb num else if num < 80 then 80 + physP th.rrb (num - 64) else 96

/-- The place among a thread's results of the one that a comparison concerns, the oldest withheld. -/
def Thread.comparedAt (th : Thread) (reg : Bool) (num clk : Nat) : Option Nat :=
  th.results.findIdx? fun x => x.what == th.comparedWhat reg num && decide (clk < x.due)

/-- The value compared: one that SEQ has produced and that is still withheld (R459). -/
def Thread.compared (th : Thread) (reg : Bool) (num clk : Nat) : Option Dword :=
  if (th.comparedAt reg num clk).isNone then none
  else if !reg then (th.qs.get num)[(th.qs.get num).length - (th.heldBack num clk).length]?
  else if num < 64 then some (th.sAt th.rrb num) else some (if th.pAt th.rrb (num - 64) then 1 else 0)

/-- ESTAT of CONTROL_DIVERGENCE (R460). -/
def divergeEstat (reg : Bool) (num : Nat) : Dword := if reg then BitVec.ofNat 64 (16 + (if num < 64 then num else num - 64) * 32) else BitVec.ofNat 64 num

/-- An equal copy releases the value (R459). -/
def Thread.released (th : Thread) (reg : Bool) (num clk : Nat) : Thread :=
  match th.comparedAt reg num clk with
  | some n => { th with results := th.results.eraseIdx n }
  | none => th

/-- Every entry that SEQ pushed at or after a differing value is withdrawn from its queue (R460). -/
def Thread.withdraw (th : Thread) (reg : Bool) (num clk : Nat) : Thread :=
  match th.comparedAt reg num clk with
  | some n =>
    let gone := fun (q : Nat) => ((th.results.drop n).filter fun x => x.what == q).length
    { th with
      qs := seqQueues.foldl (fun t q => if gone q = 0 then t else t.set q ((t.get q).take ((t.get q).length - gone q))) th.qs
      results := th.results.take n }
  | none => th

/-- A core has diverged: a second time within a second fences it; a second is 100,000 periods of 10 µs (R460, R466). -/
def State.noteDivergence (s : State) (d c : Nat) : State :=
  let last := (s.die d).diverged.get c
  let now := s.period.toNat
  let s := s.setDie d fun x => { x with diverged := x.diverged.set c (now + 1) }
  if last ≠ 0 ∧ now + 1 - last ≤ 100000 then s.fenceCore d c else s

/-- The nines core's copy differs: what SEQ pushed from there on is withdrawn and CONTROL_DIVERGENCE raised at SEQ (R460). -/
def State.diverge (s : State) (t : Nat) (reg : Bool) (num : Nat) (v nines : Dword) : State :=
  let th := s.thr t
  let s := s.modThr t fun th => th.withdraw reg num s.clk
  (s.raise t .seq { code := .controlDivergence, estat := divergeEstat reg num, addr := v ^^^ nines }).noteDivergence th.die th.core

/-- NINES_COMPARE (R459): an equal copy lets the value pass to its consumer. -/
def execNinesCompare (t : Nat) (reg : Bool) (num : Nat) (nines : Dword) (s : State) : Out :=
  .next (match (s.thr t).compared reg num s.clk with
    | some v =>
      if !(s.thr t).active then s
      else if v ≠ nines then s.diverge t reg num v nines
      else s.modThr t fun th => th.released reg num s.clk
    | none => s)

/-! ## Traps taken (R126, R134, R139) -/

/-- TRAP_TAKEN_USER (R134): the engines have stopped. -/
def execTrapTakenUser (t : Nat) (s : State) : Out :=
  .next (match (s.thr t).pend with
    | some p => if (s.thr t).userRoute p.info.code then s.takeTrap t else s
    | none => s)

/-- TRAP_TAKEN_SYSTEM (R139): the engines have stopped; or an area has become free for a record held in the device. -/
def execTrapTakenSystem (t : Nat) (s : State) : Out :=
  .next (match (s.thr t).pend with
    | some p => if (s.thr t).userRoute p.info.code then s else s.takeTrap t
    | none => if (s.thr t).recHeld then s.recordToFrame t else s)

end Sys2Proof.Machine
end

