-- ==== Sys2Proof/Machine/Dispatch.lean ====
section
/-! DEFINITION. The dispatcher: one arm per row of the operation table, each a direct call of that row's meaning. -/

namespace Sys2Proof.Machine
open Sys2Proof

/-- The meaning of an instruction word for the current thread, of a device step, or of an outside act. -/
def exec (i : Instr) (s : State) : Host.Outcome State Fault Refusal :=
  match i with
  | .add fd fa fb => Sys2Proof.Machine.execAdd fd fa fb s
  | .sub fd fa fb => Sys2Proof.Machine.execSub fd fa fb s
  | .and fd fa fb => Sys2Proof.Machine.execAnd fd fa fb s
  | .or fd fa fb => Sys2Proof.Machine.execOr fd fa fb s
  | .xor fd fa fb => Sys2Proof.Machine.execXor fd fa fb s
  | .andn fd fa fb => Sys2Proof.Machine.execAndn fd fa fb s
  | .shl fd fa fb => Sys2Proof.Machine.execShl fd fa fb s
  | .shr fd fa fb => Sys2Proof.Machine.execShr fd fa fb s
  | .sra fd fa fb => Sys2Proof.Machine.execSra fd fa fb s
  | .slt fd fa fb => Sys2Proof.Machine.execSlt fd fa fb s
  | .sltu fd fa fb => Sys2Proof.Machine.execSltu fd fa fb s
  | .min fd fa fb => Sys2Proof.Machine.execMin fd fa fb s
  | .max fd fa fb => Sys2Proof.Machine.execMax fd fa fb s
  | .minu fd fa fb => Sys2Proof.Machine.execMinu fd fa fb s
  | .maxu fd fa fb => Sys2Proof.Machine.execMaxu fd fa fb s
  | .mul fd fa fb => Sys2Proof.Machine.execMul fd fa fb s
  | .mulh fd fa fb => Sys2Proof.Machine.execMulh fd fa fb s
  | .mulhu fd fa fb => Sys2Proof.Machine.execMulhu fd fa fb s
  | .div fd fa fb => Sys2Proof.Machine.execDiv fd fa fb s
  | .divu fd fa fb => Sys2Proof.Machine.execDivu fd fa fb s
  | .rem fd fa fb => Sys2Proof.Machine.execRem fd fa fb s
  | .remu fd fa fb => Sys2Proof.Machine.execRemu fd fa fb s
  | .clz fd fa => Sys2Proof.Machine.execClz fd fa s
  | .ctz fd fa => Sys2Proof.Machine.execCtz fd fa s
  | .popc fd fa => Sys2Proof.Machine.execPopc fd fa s
  | .addi fd fa fi => Sys2Proof.Machine.execAddi fd fa fi s
  | .andi fd fa fi => Sys2Proof.Machine.execAndi fd fa fi s
  | .ori fd fa fi => Sys2Proof.Machine.execOri fd fa fi s
  | .xori fd fa fi => Sys2Proof.Machine.execXori fd fa fi s
  | .shli fd fa fn => Sys2Proof.Machine.execShli fd fa fn s
  | .shri fd fa fn => Sys2Proof.Machine.execShri fd fa fn s
  | .srai fd fa fn => Sys2Proof.Machine.execSrai fd fa fn s
  | .slti fd fa fi => Sys2Proof.Machine.execSlti fd fa fi s
  | .sltiu fd fa fi => Sys2Proof.Machine.execSltiu fd fa fi s
  | .lui fd fi => Sys2Proof.Machine.execLui fd fi s
  | .auipc fd fi => Sys2Proof.Machine.execAuipc fd fi s
  | .ldB fd fa fo => Sys2Proof.Machine.execLdB fd fa fo s
  | .ldBu fd fa fo => Sys2Proof.Machine.execLdBu fd fa fo s
  | .ldH fd fa fo => Sys2Proof.Machine.execLdH fd fa fo s
  | .ldHu fd fa fo => Sys2Proof.Machine.execLdHu fd fa fo s
  | .ldW fd fa fo => Sys2Proof.Machine.execLdW fd fa fo s
  | .ldWu fd fa fo => Sys2Proof.Machine.execLdWu fd fa fo s
  | .ldD fd fa fo => Sys2Proof.Machine.execLdD fd fa fo s
  | .stB fd fa fo => Sys2Proof.Machine.execStB fd fa fo s
  | .stH fd fa fo => Sys2Proof.Machine.execStH fd fa fo s
  | .stW fd fa fo => Sys2Proof.Machine.execStW fd fa fo s
  | .stD fd fa fo => Sys2Proof.Machine.execStD fd fa fo s
  | .cmpEq fd fa fb => Sys2Proof.Machine.execCmpEq fd fa fb s
  | .cmpNe fd fa fb => Sys2Proof.Machine.execCmpNe fd fa fb s
  | .cmpLt fd fa fb => Sys2Proof.Machine.execCmpLt fd fa fb s
  | .cmpGe fd fa fb => Sys2Proof.Machine.execCmpGe fd fa fb s
  | .cmpLtu fd fa fb => Sys2Proof.Machine.execCmpLtu fd fa fb s
  | .cmpGeu fd fa fb => Sys2Proof.Machine.execCmpGeu fd fa fb s
  | .cmpiEq fd fa fi => Sys2Proof.Machine.execCmpiEq fd fa fi s
  | .cmpiNe fd fa fi => Sys2Proof.Machine.execCmpiNe fd fa fi s
  | .cmpiLt fd fa fi => Sys2Proof.Machine.execCmpiLt fd fa fi s
  | .cmpiGe fd fa fi => Sys2Proof.Machine.execCmpiGe fd fa fi s
  | .cmpiLtu fd fa fi => Sys2Proof.Machine.execCmpiLtu fd fa fi s
  | .cmpiGeu fd fa fi => Sys2Proof.Machine.execCmpiGeu fd fa fi s
  | .pand fd fa fb => Sys2Proof.Machine.execPand fd fa fb s
  | .por fd fa fb => Sys2Proof.Machine.execPor fd fa fb s
  | .pxor fd fa fb => Sys2Proof.Machine.execPxor fd fa fb s
  | .pandn fd fa fb => Sys2Proof.Machine.execPandn fd fa fb s
  | .pnot fd fa => Sys2Proof.Machine.execPnot fd fa s
  | .pmov fd fa => Sys2Proof.Machine.execPmov fd fa s
  | .br fp fn fo => Sys2Proof.Machine.execBr fp fn fo s
  | .jal fd fi => Sys2Proof.Machine.execJal fd fi s
  | .jalr fd fa fi => Sys2Proof.Machine.execJalr fd fa fi s
  | .loop fc fb => Sys2Proof.Machine.execLoop fc fb s
  | .loopRot fc fb fs => Sys2Proof.Machine.execLoopRot fc fb fs s
  | .loopi fn fb => Sys2Proof.Machine.execLoopi fn fb s
  | .loopiRot fn fb fs => Sys2Proof.Machine.execLoopiRot fn fb fs s
  | .passBoundary ft => Sys2Proof.Machine.execPassBoundary ft s
  | .rot fa fi => Sys2Proof.Machine.execRot fa fi s
  | .qpush fq fa => Sys2Proof.Machine.execQpush fq fa s
  | .qpop fd fq => Sys2Proof.Machine.execQpop fd fq s
  | .fmt fd fa fb => Sys2Proof.Machine.execFmt fd fa fb s
  | .fmtQ fa fb => Sys2Proof.Machine.execFmtQ fa fb s
  | .mark fj fm => Sys2Proof.Machine.execMark fj fm s
  | .join fj => Sys2Proof.Machine.execJoin fj s
  | .rdsr fd fn => Sys2Proof.Machine.execRdsr fd fn s
  | .wrsr fa fn => Sys2Proof.Machine.execWrsr fa fn s
  | .sel fd fa fb fn fp => Sys2Proof.Machine.execSel fd fa fb fn fp s
  | .nop => Sys2Proof.Machine.execNop s
  | .brk => Sys2Proof.Machine.execBrk s
  | .capt fn fs => Sys2Proof.Machine.execCapt fn fs s
  | .tld fd fs fa => Sys2Proof.Machine.execTld fd fs fa s
  | .tldQ fs fa => Sys2Proof.Machine.execTldQ fs fa s
  | .tst fd fs fa => Sys2Proof.Machine.execTst fd fs fa s
  | .tstQ fs fa => Sys2Proof.Machine.execTstQ fs fa s
  | .gld fd fs fa => Sys2Proof.Machine.execGld fd fs fa s
  | .gldQ fs fa => Sys2Proof.Machine.execGldQ fs fa s
  | .gst fd fs fa => Sys2Proof.Machine.execGst fd fs fa s
  | .gstQ fs fa => Sys2Proof.Machine.execGstQ fs fa s
  | .vld fa => Sys2Proof.Machine.execVld fa s
  | .vst fa => Sys2Proof.Machine.execVst fa s
  | .sld fa fw => Sys2Proof.Machine.execSld fa fw s
  | .sldRow fa => Sys2Proof.Machine.execSldRow fa s
  | .sst fd fa fw => Sys2Proof.Machine.execSst fd fa fw s
  | .sstRow fa => Sys2Proof.Machine.execSstRow fa s
  | .atomAdd fa fc fr fp fz => Sys2Proof.Machine.execAtomAdd fa fc fr fp fz s
  | .atomMin fa fc fr fp fz => Sys2Proof.Machine.execAtomMin fa fc fr fp fz s
  | .atomMax fa fc fr fp fz => Sys2Proof.Machine.execAtomMax fa fc fr fp fz s
  | .atomAnd fa fc fr fp fz => Sys2Proof.Machine.execAtomAnd fa fc fr fp fz s
  | .atomOr fa fc fr fp fz => Sys2Proof.Machine.execAtomOr fa fc fr fp fz s
  | .atomXor fa fc fr fp fz => Sys2Proof.Machine.execAtomXor fa fc fr fp fz s
  | .atomXchg fa fc fr fp fz => Sys2Proof.Machine.execAtomXchg fa fc fr fp fz s
  | .atomCas fa fc fr fp fz => Sys2Proof.Machine.execAtomCas fa fc fr fp fz s
  | .atomoAdd fa fc fr fp fz => Sys2Proof.Machine.execAtomoAdd fa fc fr fp fz s
  | .atomoMin fa fc fr fp fz => Sys2Proof.Machine.execAtomoMin fa fc fr fp fz s
  | .atomoMax fa fc fr fp fz => Sys2Proof.Machine.execAtomoMax fa fc fr fp fz s
  | .atomoAnd fa fc fr fp fz => Sys2Proof.Machine.execAtomoAnd fa fc fr fp fz s
  | .atomoOr fa fc fr fp fz => Sys2Proof.Machine.execAtomoOr fa fc fr fp fz s
  | .atomoXor fa fc fr fp fz => Sys2Proof.Machine.execAtomoXor fa fc fr fp fz s
  | .atomoXchg fa fc fr fp fz => Sys2Proof.Machine.execAtomoXchg fa fc fr fp fz s
  | .atomoCas fa fc fr fp fz => Sys2Proof.Machine.execAtomoCas fa fc fr fp fz s
  | .prefL fa => Sys2Proof.Machine.execPrefL fa s
  | .prefT fs fa => Sys2Proof.Machine.execPrefT fs fa s
  | .fenceAcq fc => Sys2Proof.Machine.execFenceAcq fc s
  | .fenceRel fc => Sys2Proof.Machine.execFenceRel fc s
  | .fenceFull fc => Sys2Proof.Machine.execFenceFull fc s
  | .hwait fh fa => Sys2Proof.Machine.execHwait fh fa s
  | .hwaitSt fh fa => Sys2Proof.Machine.execHwaitSt fh fa s
  | .ldq fa fw => Sys2Proof.Machine.execLdq fa fw s
  | .adrFaultTrap ft => Sys2Proof.Machine.execAdrFaultTrap ft s
  | .vintAdd fd fa fb fm ft => Sys2Proof.Machine.execVintAdd fd fa fb fm ft s
  | .vintSub fd fa fb fm ft => Sys2Proof.Machine.execVintSub fd fa fb fm ft s
  | .vintMul fd fa fb fm ft => Sys2Proof.Machine.execVintMul fd fa fb fm ft s
  | .vintMulh fd fa fb fm ft => Sys2Proof.Machine.execVintMulh fd fa fb fm ft s
  | .vintAnd fd fa fb fm => Sys2Proof.Machine.execVintAnd fd fa fb fm s
  | .vintOr fd fa fb fm => Sys2Proof.Machine.execVintOr fd fa fb fm s
  | .vintXor fd fa fb fm => Sys2Proof.Machine.execVintXor fd fa fb fm s
  | .vintAndn fd fa fb fm => Sys2Proof.Machine.execVintAndn fd fa fb fm s
  | .vintShl fd fa fb fm => Sys2Proof.Machine.execVintShl fd fa fb fm s
  | .vintShr fd fa fb fm => Sys2Proof.Machine.execVintShr fd fa fb fm s
  | .vintSra fd fa fb fm => Sys2Proof.Machine.execVintSra fd fa fb fm s
  | .vintMin fd fa fb fm ft => Sys2Proof.Machine.execVintMin fd fa fb fm ft s
  | .vintMax fd fa fb fm ft => Sys2Proof.Machine.execVintMax fd fa fb fm ft s
  | .vintAbs fd fa fm ft => Sys2Proof.Machine.execVintAbs fd fa fm ft s
  | .vintNeg fd fa fm ft => Sys2Proof.Machine.execVintNeg fd fa fm ft s
  | .vfltAdd fd fa fb fm => Sys2Proof.Machine.execVfltAdd fd fa fb fm s
  | .vfltSub fd fa fb fm => Sys2Proof.Machine.execVfltSub fd fa fb fm s
  | .vfltMul fd fa fb fm => Sys2Proof.Machine.execVfltMul fd fa fb fm s
  | .vfltDiv fd fa fb fm => Sys2Proof.Machine.execVfltDiv fd fa fb fm s
  | .vfltMin fd fa fb fm => Sys2Proof.Machine.execVfltMin fd fa fb fm s
  | .vfltMax fd fa fb fm => Sys2Proof.Machine.execVfltMax fd fa fb fm s
  | .vfltAbs fd fa fm => Sys2Proof.Machine.execVfltAbs fd fa fm s
  | .vfltNeg fd fa fm => Sys2Proof.Machine.execVfltNeg fd fa fm s
  | .vfmaFma fd fa fb fm => Sys2Proof.Machine.execVfmaFma fd fa fb fm s
  | .vfmaFms fd fa fb fm => Sys2Proof.Machine.execVfmaFms fd fa fb fm s
  | .vfmaFnma fd fa fb fm => Sys2Proof.Machine.execVfmaFnma fd fa fb fm s
  | .vfmaFnms fd fa fb fm => Sys2Proof.Machine.execVfmaFnms fd fa fb fm s
  | .vcmpEq fd fa fb fm ft => Sys2Proof.Machine.execVcmpEq fd fa fb fm ft s
  | .vcmpNe fd fa fb fm ft => Sys2Proof.Machine.execVcmpNe fd fa fb fm ft s
  | .vcmpLt fd fa fb fm ft => Sys2Proof.Machine.execVcmpLt fd fa fb fm ft s
  | .vcmpLe fd fa fb fm ft => Sys2Proof.Machine.execVcmpLe fd fa fb fm ft s
  | .vcmpGt fd fa fb fm ft => Sys2Proof.Machine.execVcmpGt fd fa fb fm ft s
  | .vcmpGe fd fa fb fm ft => Sys2Proof.Machine.execVcmpGe fd fa fb fm ft s
  | .vcmpUn fd fa fb fm => Sys2Proof.Machine.execVcmpUn fd fa fb fm s
  | .vcvtTo fd fa fb fm ft => Sys2Proof.Machine.execVcvtTo fd fa fb fm ft s
  | .vcvtFrom fd fa fb fm => Sys2Proof.Machine.execVcvtFrom fd fa fb fm s
  | .vcvtF2i fd fa fm ft => Sys2Proof.Machine.execVcvtF2i fd fa fm ft s
  | .vcvtI2f fd fa fm ft => Sys2Proof.Machine.execVcvtI2f fd fa fm ft s
  | .vcvtU2f fd fa fm ft => Sys2Proof.Machine.execVcvtU2f fd fa fm ft s
  | .vredSum fd fa fm ft => Sys2Proof.Machine.execVredSum fd fa fm ft s
  | .vredMax fd fa fm ft => Sys2Proof.Machine.execVredMax fd fa fm ft s
  | .vredMin fd fa fm ft => Sys2Proof.Machine.execVredMin fd fa fm ft s
  | .vredArgmax fd fa fm ft => Sys2Proof.Machine.execVredArgmax fd fa fm ft s
  | .vredArgmin fd fa fm ft => Sys2Proof.Machine.execVredArgmin fd fa fm ft s
  | .vredSumQ fa fm ft => Sys2Proof.Machine.execVredSumQ fa fm ft s
  | .vredMaxQ fa fm ft => Sys2Proof.Machine.execVredMaxQ fa fm ft s
  | .vredMinQ fa fm ft => Sys2Proof.Machine.execVredMinQ fa fm ft s
  | .vredArgmaxQ fa fm ft => Sys2Proof.Machine.execVredArgmaxQ fa fm ft s
  | .vredArgminQ fa fm ft => Sys2Proof.Machine.execVredArgminQ fa fm ft s
  | .vscanSum fd fa fm ft => Sys2Proof.Machine.execVscanSum fd fa fm ft s
  | .vscanMax fd fa fm ft => Sys2Proof.Machine.execVscanMax fd fa fm ft s
  | .vscanMin fd fa fm ft => Sys2Proof.Machine.execVscanMin fd fa fm ft s
  | .vscanSumX fd fa fm ft => Sys2Proof.Machine.execVscanSumX fd fa fm ft s
  | .vscanMaxX fd fa fm ft => Sys2Proof.Machine.execVscanMaxX fd fa fm ft s
  | .vscanMinX fd fa fm ft => Sys2Proof.Machine.execVscanMinX fd fa fm ft s
  | .vpermIdx fd fa fb fm => Sys2Proof.Machine.execVpermIdx fd fa fb fm s
  | .vpermRot fd fa fb fm => Sys2Proof.Machine.execVpermRot fd fa fb fm s
  | .vpermBc fd fa fb fm => Sys2Proof.Machine.execVpermBc fd fa fb fm s
  | .vsel fd fa fb fm => Sys2Proof.Machine.execVsel fd fa fb fm s
  | .vsfuExp2 fd fa fm => Sys2Proof.Machine.execVsfuExp2 fd fa fm s
  | .vsfuLog2 fd fa fm => Sys2Proof.Machine.execVsfuLog2 fd fa fm s
  | .vsfuRcp fd fa fm => Sys2Proof.Machine.execVsfuRcp fd fa fm s
  | .vsfuRsqrt fd fa fm => Sys2Proof.Machine.execVsfuRsqrt fd fa fm s
  | .vsfuSqrt fd fa fm => Sys2Proof.Machine.execVsfuSqrt fd fa fm s
  | .vmovSplat fd fa fm => Sys2Proof.Machine.execVmovSplat fd fa fm s
  | .vmovIns fd fa fb => Sys2Proof.Machine.execVmovIns fd fa fb s
  | .vmovExt fa fb => Sys2Proof.Machine.execVmovExt fa fb s
  | .vmovMv fd fa fm => Sys2Proof.Machine.execVmovMv fd fa fm s
  | .vcomp fd fa fb fm fn ft => Sys2Proof.Machine.execVcomp fd fa fb fm fn ft s
  | .vqntC fd fa fb fm ft => Sys2Proof.Machine.execVqntC fd fa fb fm ft s
  | .vqntCr fd fa fb fm ft => Sys2Proof.Machine.execVqntCr fd fa fb fm ft s
  | .vqntG fd fa fb fm ft => Sys2Proof.Machine.execVqntG fd fa fb fm ft s
  | .vqntGr fd fa fb fm ft => Sys2Proof.Machine.execVqntGr fd fa fb fm ft s
  | .vdqnt fd fa fb fm => Sys2Proof.Machine.execVdqnt fd fa fb fm s
  | .vdqntAcc fd fa fb fm => Sys2Proof.Machine.execVdqntAcc fd fa fb fm s
  | .vrandU fd fm => Sys2Proof.Machine.execVrandU fd fm s
  | .vrandF fd fm => Sys2Proof.Machine.execVrandF fd fm s
  | .vmaskAnd fd fa fb => Sys2Proof.Machine.execVmaskAnd fd fa fb s
  | .vmaskOr fd fa fb => Sys2Proof.Machine.execVmaskOr fd fa fb s
  | .vmaskXor fd fa fb => Sys2Proof.Machine.execVmaskXor fd fa fb s
  | .vmaskAndn fd fa fb => Sys2Proof.Machine.execVmaskAndn fd fa fb s
  | .vmaskNot fd fa => Sys2Proof.Machine.execVmaskNot fd fa s
  | .vmaskMov fd fa => Sys2Proof.Machine.execVmaskMov fd fa s
  | .vmaskFirst fd fa => Sys2Proof.Machine.execVmaskFirst fd fa s
  | .vmaskCnt fa => Sys2Proof.Machine.execVmaskCnt fa s
  | .vqin fd fm => Sys2Proof.Machine.execVqin fd fm s
  | .vqinQ5 fd fm => Sys2Proof.Machine.execVqinQ5 fd fm s
  | .vqinS fd fm => Sys2Proof.Machine.execVqinS fd fm s
  | .vqout fa fm => Sys2Proof.Machine.execVqout fa fm s
  | .vqoutQ11 fa fm => Sys2Proof.Machine.execVqoutQ11 fa fm s
  | .viotaIdx fd fm => Sys2Proof.Machine.execViotaIdx fd fm s
  | .viotaCnt fd fa fm => Sys2Proof.Machine.execViotaCnt fd fa fm s
  | .mma fk fa fb fc fe => Sys2Proof.Machine.execMma fk fa fb fc fe s
  | .mmas fk fa fb fv fc fe => Sys2Proof.Machine.execMmas fk fa fb fv fc fe s
  | .mmat fk fa fb fc fe => Sys2Proof.Machine.execMmat fk fa fb fc fe s
  | .mdist fk fa fb fe => Sys2Proof.Machine.execMdist fk fa fb fe s
  | .mtopk fk fa fb fe fn => Sys2Proof.Machine.execMtopk fk fa fb fe fn s
  | .mzero fk => Sys2Proof.Machine.execMzero fk s
  | .mload fk fv fc fi => Sys2Proof.Machine.execMload fk fv fc fi s
  | .mstore fk fv fc ff => Sys2Proof.Machine.execMstore fk fv fc ff s
  | .mrdRow fk fv => Sys2Proof.Machine.execMrdRow fk fv s
  | .mrdCol fk fv => Sys2Proof.Machine.execMrdCol fk fv s
  | .mrdRck fk => Sys2Proof.Machine.execMrdRck fk s
  | .mrdCck fk => Sys2Proof.Machine.execMrdCck fk s
  | .mwrRow fk fv fi => Sys2Proof.Machine.execMwrRow fk fv fi s
  | .mwrCol fk fv fi => Sys2Proof.Machine.execMwrCol fk fv fi s
  | .mwrRck fk => Sys2Proof.Machine.execMwrRck fk s
  | .mwrCck fk => Sys2Proof.Machine.execMwrCck fk s
  | .mcommit => Sys2Proof.Machine.execMcommit s
  | .mwait fn => Sys2Proof.Machine.execMwait fn s
  | .mwaitAcc fk => Sys2Proof.Machine.execMwaitAcc fk s
  | .mcks fk fv => Sys2Proof.Machine.execMcks fk fv s
  | .mfix fk => Sys2Proof.Machine.execMfix fk s
  | .arrayCommandStart ft => Sys2Proof.Machine.execArrayCommandStart ft s
  | .arrayCommandRetire ft => Sys2Proof.Machine.execArrayCommandRetire ft s
  | .xcopy fh fa => Sys2Proof.Machine.execXcopy fh fa s
  | .xcopyT fh fs fa => Sys2Proof.Machine.execXcopyT fh fs fa s
  | .xcopyS fh fa => Sys2Proof.Machine.execXcopyS fh fa s
  | .xput fh fa => Sys2Proof.Machine.execXput fh fa s
  | .xputT fh fs fa => Sys2Proof.Machine.execXputT fh fs fa s
  | .xgath fh fs fa => Sys2Proof.Machine.execXgath fh fs fa s
  | .xscatO fh fs fa => Sys2Proof.Machine.execXscatO fh fs fa s
  | .xscatAdd fh fs fa => Sys2Proof.Machine.execXscatAdd fh fs fa s
  | .xscatMax fh fs fa => Sys2Proof.Machine.execXscatMax fh fs fa s
  | .xscatMin fh fs fa => Sys2Proof.Machine.execXscatMin fh fs fa s
  | .xpack fh fs fa => Sys2Proof.Machine.execXpack fh fs fa s
  | .xpackK1 fh fs fa => Sys2Proof.Machine.execXpackK1 fh fs fa s
  | .xpackS fh fa => Sys2Proof.Machine.execXpackS fh fa s
  | .xhalo fh fa fd => Sys2Proof.Machine.execXhalo fh fa fd s
  | .xfill fh fa => Sys2Proof.Machine.execXfill fh fa s
  | .xrel fh => Sys2Proof.Machine.execXrel fh s
  | .xabort fh => Sys2Proof.Machine.execXabort fh s
  | .copyUnitLands fk => Sys2Proof.Machine.execCopyUnitLands fk s
  | .haloArrival fk => Sys2Proof.Machine.execHaloArrival fk s
  | .lyset fj fs ft => Sys2Proof.Machine.execLyset fj fs ft s
  | .lysetGet fj fs => Sys2Proof.Machine.execLysetGet fj fs s
  | .reshard fj fs => Sys2Proof.Machine.execReshard fj fs s
  | .collSum fj fs ft => Sys2Proof.Machine.execCollSum fj fs ft s
  | .collMax fj fs ft => Sys2Proof.Machine.execCollMax fj fs ft s
  | .collMin fj fs ft => Sys2Proof.Machine.execCollMin fj fs ft s
  | .collAmerge fj fs ft => Sys2Proof.Machine.execCollAmerge fj fs ft s
  | .collRing fj fs ft => Sys2Proof.Machine.execCollRing fj fs ft s
  | .ranks fn fs ft => Sys2Proof.Machine.execRanks fn fs ft s
  | .rkinv fn => Sys2Proof.Machine.execRkinv fn s
  | .fwait => Sys2Proof.Machine.execFwait s
  | .fwaitSlot fj => Sys2Proof.Machine.execFwaitSlot fj s
  | .resid fj fs ft => Sys2Proof.Machine.execResid fj fs ft s
  | .fabort => Sys2Proof.Machine.execFabort s
  | .collStep fk => Sys2Proof.Machine.execCollStep fk s
  | .collWatchdogExpiry fk => Sys2Proof.Machine.execCollWatchdogExpiry fk s
  | .reshardExchangeComplete fk => Sys2Proof.Machine.execReshardExchangeComplete fk s
  | .kvmap fs => Sys2Proof.Machine.execKvmap fs s
  | .kvmapNew fs => Sys2Proof.Machine.execKvmapNew fs s
  | .kvmapUn fs => Sys2Proof.Machine.execKvmapUn fs s
  | .kvlock fs => Sys2Proof.Machine.execKvlock fs s
  | .kvlockUn fs => Sys2Proof.Machine.execKvlockUn fs s
  | .kvapp fs => Sys2Proof.Machine.execKvapp fs s
  | .kvroll fs => Sys2Proof.Machine.execKvroll fs s
  | .patt fq fs => Sys2Proof.Machine.execPatt fq fs s
  | .mprog fn fs ft => Sys2Proof.Machine.execMprog fn fs ft s
  | .meval fn fs => Sys2Proof.Machine.execMeval fn fs s
  | .cent fs => Sys2Proof.Machine.execCent fs s
  | .csel fq fs => Sys2Proof.Machine.execCsel fq fs s
  | .retn fs ft => Sys2Proof.Machine.execRetn fs ft s
  | .retnQ fs => Sys2Proof.Machine.execRetnQ fs s
  | .sieve fs => Sys2Proof.Machine.execSieve fs s
  | .await => Sys2Proof.Machine.execAwait s
  | .awaitAbort => Sys2Proof.Machine.execAwaitAbort s
  | .mcntClr => Sys2Proof.Machine.execMcntClr s
  | .pattDone fk => Sys2Proof.Machine.execPattDone fk s
  | .centKeyUpdate fk => Sys2Proof.Machine.execCentKeyUpdate fk s
  | .sieveCompact fk => Sys2Proof.Machine.execSieveCompact fk s
  | .bar fb fk fs => Sys2Proof.Machine.execBar fb fk fs s
  | .barArr fb fk fs => Sys2Proof.Machine.execBarArr fb fk fs s
  | .barWt fb fk => Sys2Proof.Machine.execBarWt fb fk s
  | .cbarInit fn fs => Sys2Proof.Machine.execCbarInit fn fs s
  | .cbarAdd fn fs => Sys2Proof.Machine.execCbarAdd fn fs s
  | .cbarWait fn => Sys2Proof.Machine.execCbarWait fn s
  | .cbarTake fn => Sys2Proof.Machine.execCbarTake fn s
  | .cbarFree fn => Sys2Proof.Machine.execCbarFree fn s
  | .sbarP fn => Sys2Proof.Machine.execSbarP fn s
  | .sbarC fn => Sys2Proof.Machine.execSbarC fn s
  | .sbarArrivalEffect fn => Sys2Proof.Machine.execSbarArrivalEffect fn s
  | .ring fn fs ft => Sys2Proof.Machine.execRing fn fs ft s
  | .ringRel fn => Sys2Proof.Machine.execRingRel fn s
  | .phaseNew => Sys2Proof.Machine.execPhaseNew s
  | .phaseRd fr fe fs ft => Sys2Proof.Machine.execPhaseRd fr fe fs ft s
  | .phaseWr fr fe fs ft => Sys2Proof.Machine.execPhaseWr fr fe fs ft s
  | .tklend fs ft => Sys2Proof.Machine.execTklend fs ft s
  | .tkret fs ft => Sys2Proof.Machine.execTkret fs ft s
  | .tksplit fs ft => Sys2Proof.Machine.execTksplit fs ft s
  | .tkjoin fs ft => Sys2Proof.Machine.execTkjoin fs ft s
  | .tkshare fs ft => Sys2Proof.Machine.execTkshare fs ft s
  | .tkunsh fs ft => Sys2Proof.Machine.execTkunsh fs ft s
  | .tkrecl fs ft => Sys2Proof.Machine.execTkrecl fs ft s
  | .tokenWaitResume ft => Sys2Proof.Machine.execTokenWaitResume ft s
  | .rwb fs ft => Sys2Proof.Machine.execRwb fs ft s
  | .rinv fs ft => Sys2Proof.Machine.execRinv fs ft s
  | .launch fn fs => Sys2Proof.Machine.execLaunch fn fs s
  | .cwait fn => Sys2Proof.Machine.execCwait fn s
  | .cwaitAll => Sys2Proof.Machine.execCwaitAll s
  | .seedPush fs => Sys2Proof.Machine.execSeedPush fs s
  | .seedPop => Sys2Proof.Machine.execSeedPop s
  | .seedFork fs => Sys2Proof.Machine.execSeedFork fs s
  | .trap fi fs => Sys2Proof.Machine.execTrap fi fs s
  | .resumeWait fs => Sys2Proof.Machine.execResumeWait fs s
  | .resumeAbort fs => Sys2Proof.Machine.execResumeAbort fs s
  | .eret => Sys2Proof.Machine.execEret s
  | .tlbiVa fs ft => Sys2Proof.Machine.execTlbiVa fs ft s
  | .tlbiTen fs ft => Sys2Proof.Machine.execTlbiTen fs ft s
  | .tlbiCtx ft => Sys2Proof.Machine.execTlbiCtx ft s
  | .tlbiAll => Sys2Proof.Machine.execTlbiAll s
  | .tlbiAcknowledge fd => Sys2Proof.Machine.execTlbiAcknowledge fd s
  | .replay fs => Sys2Proof.Machine.execReplay fs s
  | .ctxsv fs ft => Sys2Proof.Machine.execCtxsv fs ft s
  | .ctxld fs ft => Sys2Proof.Machine.execCtxld fs ft s
  | .waitGeu fs ft => Sys2Proof.Machine.execWaitGeu fs ft s
  | .waitEq fs ft => Sys2Proof.Machine.execWaitEq fs ft s
  | .waitNe fs ft => Sys2Proof.Machine.execWaitNe fs ft s
  | .waitLtu fs ft => Sys2Proof.Machine.execWaitLtu fs ft s
  | .waitSb => Sys2Proof.Machine.execWaitSb s
  | .memoryWaitRecheck ft => Sys2Proof.Machine.execMemoryWaitRecheck ft s
  | .halt => Sys2Proof.Machine.execHalt s
  | .wrcfg fn fs => Sys2Proof.Machine.execWrcfg fn fs s
  | .rdcfg fn fs => Sys2Proof.Machine.execRdcfg fn fs s
  | .pwrSt fs => Sys2Proof.Machine.execPwrSt fs s
  | .pwrHint fs => Sys2Proof.Machine.execPwrHint fs s
  | .fetch ft => Sys2Proof.Machine.execFetch ft s
  | .markerReachesHead ft fe => Sys2Proof.Machine.execMarkerReachesHead ft fe s
  | .queueDeadlock ft => Sys2Proof.Machine.execQueueDeadlock ft s
  | .scratchpadWritePerform fn => Sys2Proof.Machine.execScratchpadWritePerform fn s
  | .ninesCompare ft fReg fNum fNines => Sys2Proof.Machine.execNinesCompare ft fReg fNum fNines s
  | .trapTakenUser ft => Sys2Proof.Machine.execTrapTakenUser ft s
  | .trapTakenSystem ft => Sys2Proof.Machine.execTrapTakenSystem ft s
  | .gangPreempt fg => Sys2Proof.Machine.execGangPreempt fg s
  | .gangSaved fg => Sys2Proof.Machine.execGangSaved fg s
  | .gangRestore fg fDie fCore => Sys2Proof.Machine.execGangRestore fg fDie fCore s
  | .gangDispatch fd => Sys2Proof.Machine.execGangDispatch fd s
  | .gangStart fg => Sys2Proof.Machine.execGangStart fg s
  | .reservationTimeout fd => Sys2Proof.Machine.execReservationTimeout fd s
  | .reservationDrop fd => Sys2Proof.Machine.execReservationDrop fd s
  | .childBoostTimeout fg => Sys2Proof.Machine.execChildBoostTimeout fg s
  | .nodeEnding fn => Sys2Proof.Machine.execNodeEnding fn s
  | .nodeCompletionRecord fn => Sys2Proof.Machine.execNodeCompletionRecord fn s
  | .launchPacket fq => Sys2Proof.Machine.execLaunchPacket fq s
  | .graphPacket fq => Sys2Proof.Machine.execGraphPacket fq s
  | .seedPushPacket fq => Sys2Proof.Machine.execSeedPushPacket fq s
  | .seedPopPacket fq => Sys2Proof.Machine.execSeedPopPacket fq s
  | .seedForkPacket fq => Sys2Proof.Machine.execSeedForkPacket fq s
  | .waitPacket fq => Sys2Proof.Machine.execWaitPacket fq s
  | .waitPacketPoll fq => Sys2Proof.Machine.execWaitPacketPoll fq s
  | .signalPacket fq => Sys2Proof.Machine.execSignalPacket fq s
  | .signalWrite fn => Sys2Proof.Machine.execSignalWrite fn s
  | .reshardOnBehalf fq => Sys2Proof.Machine.execReshardOnBehalf fq s
  | .contextCreate fq => Sys2Proof.Machine.execContextCreate fq s
  | .contextStop fq => Sys2Proof.Machine.execContextStop fq s
  | .contextStart fq => Sys2Proof.Machine.execContextStart fq s
  | .contextDestroy fq => Sys2Proof.Machine.execContextDestroy fq s
  | .contextFreed fc => Sys2Proof.Machine.execContextFreed fc s
  | .resumeThread fq => Sys2Proof.Machine.execResumeThread fq s
  | .qattach fq => Sys2Proof.Machine.execQattach fq s
  | .qdetach fq => Sys2Proof.Machine.execQdetach fq s
  | .qtailWrite fq fv => Sys2Proof.Machine.execQtailWrite fq fv s
  | .evconsWrite fp fv => Sys2Proof.Machine.execEvconsWrite fp fv s
  | .nctlRelease fc fn => Sys2Proof.Machine.execNctlRelease fc fn s
  | .nctlCancel fc fn => Sys2Proof.Machine.execNctlCancel fc fn s
  | .migcmdWrite fd fv => Sys2Proof.Machine.execMigcmdWrite fd fv s
  | .migrationStart fd => Sys2Proof.Machine.execMigrationStart fd s
  | .migrationFinish fd => Sys2Proof.Machine.execMigrationFinish fd s
  | .tkcmdCreate fd fa => Sys2Proof.Machine.execTkcmdCreate fd fa s
  | .tkcmdDestroy fd fa => Sys2Proof.Machine.execTkcmdDestroy fd fa s
  | .parkRingWrite fd fn fv => Sys2Proof.Machine.execParkRingWrite fd fn fv s
  | .pendctlWrite fd fv => Sys2Proof.Machine.execPendctlWrite fd fv s
  | .lnkctlRetrain fd fp => Sys2Proof.Machine.execLnkctlRetrain fd fp s
  | .lnkctlDisable fd fp => Sys2Proof.Machine.execLnkctlDisable fd fp s
  | .lnkctlEnable fd fp => Sys2Proof.Machine.execLnkctlEnable fd fp s
  | .lnkctlClear fd fp => Sys2Proof.Machine.execLnkctlClear fd fp s
  | .fenceCore fd fc => Sys2Proof.Machine.execFenceCore fd fc s
  | .fenceSlice fd fc fBad => Sys2Proof.Machine.execFenceSlice fd fc fBad s
  | .pstateWrite fd fv => Sys2Proof.Machine.execPstateWrite fd fv s
  | .configRegisterWrite fd fn fv => Sys2Proof.Machine.execConfigRegisterWrite fd fn fv s
  | .homeLoss fd => Sys2Proof.Machine.execHomeLoss fd s
  | .atomoArrival ft => Sys2Proof.Machine.execAtomoArrival ft s
  | .atomoRetry ft => Sys2Proof.Machine.execAtomoRetry ft s
  | .atomoLineStall fLine => Sys2Proof.Machine.execAtomoLineStall fLine s
  | .rdcEviction fd fLine fBad => Sys2Proof.Machine.execRdcEviction fd fLine fBad s
  | .correctableError fd => Sys2Proof.Machine.execCorrectableError fd s
  | .uncorrectableError fSite => Sys2Proof.Machine.execUncorrectableError fSite s
  | .patrolScrub fd fg fBad => Sys2Proof.Machine.execPatrolScrub fd fg fBad s
  | .arbiterPeriod fDemand => Sys2Proof.Machine.execArbiterPeriod fDemand s
  | .dieFreeze fd => Sys2Proof.Machine.execDieFreeze fd s
  | .flitReceive fd fp fNum fCrcOk => Sys2Proof.Machine.execFlitReceive fd fp fNum fCrcOk s
  | .linkTrained fd fp fLanes => Sys2Proof.Machine.execLinkTrained fd fp fLanes s
  | .linkTrainingFailed fd fp => Sys2Proof.Machine.execLinkTrainingFailed fd fp s
  | .linkReplayLimit fd fp => Sys2Proof.Machine.execLinkReplayLimit fd fp s
  | .laneLost fd fp => Sys2Proof.Machine.execLaneLost fd fp s
  | .linkRetrainTimeout fd fp => Sys2Proof.Machine.execLinkRetrainTimeout fd fp s
  | .peerDown fd fp => Sys2Proof.Machine.execPeerDown fd fp s
  | .routeTablesInForce => Sys2Proof.Machine.execRouteTablesInForce s
  | .cxlLinkDown fd => Sys2Proof.Machine.execCxlLinkDown fd s
  | .powerOn => Sys2Proof.Machine.execPowerOn s
  | .sidebandReset fScope fd fc => Sys2Proof.Machine.execSidebandReset fScope fd fc s
  | .bringUp fd fReport => Sys2Proof.Machine.execBringUp fd fReport s
  | .diePresent fd => Sys2Proof.Machine.execDiePresent fd s
  | .sidebandInventory => Sys2Proof.Machine.execSidebandInventory s
  | .sidebandAttest fReq => Sys2Proof.Machine.execSidebandAttest fReq s
  | .sidebandPowerRead fd => Sys2Proof.Machine.execSidebandPowerRead fd s
  | .sidebandPlimitWrite fv => Sys2Proof.Machine.execSidebandPlimitWrite fv s
  | .sidebandPstateWrite fd fv => Sys2Proof.Machine.execSidebandPstateWrite fd fv s
  | .sidebandLog => Sys2Proof.Machine.execSidebandLog s
  | .malformedPacket fq => Sys2Proof.Machine.execMalformedPacket fq s
  | .memoryAccessPerformed fn => Sys2Proof.Machine.execMemoryAccessPerformed fn s
  | .llcLineEviction fLine fBad => Sys2Proof.Machine.execLlcLineEviction fLine fBad s
  | .slicePartialAttention fk => Sys2Proof.Machine.execSlicePartialAttention fk s
  | .reshardPairCopy fk => Sys2Proof.Machine.execReshardPairCopy fk s

end Sys2Proof.Machine
end

