-- ==== Sys2Proof/Machine/Step.lean ====
section
/-! DEFINITION. One step of the module: one core clock passes, then the agenda's head moves, or, when the agenda is empty, the default order decides. -/

namespace Sys2Proof.Machine
open Sys2Proof

/-- An engine of a thread executes what stands at its head: a marker, a pass boundary, or a word, which waits for its hazards and for the nines core, traps at decode, or has
its meaning. The core clock of a frozen die stands still (R467). -/
noncomputable def State.runEngine (s : State) (t : Nat) (e : Engine) : Out :=
  let s := { s with cur := t }
  let th := s.thr t
  if !th.mayRun e || (s.die th.die).frozen then .next s
  else
    match th.head e with
    | none => .next s
    | some x =>
      match x.item with
      | .marker _ => exec (.markerReachesHead t (engCode e)) s
      | .pass _ => exec (.passBoundary t) s
      | .word w =>
        match s.waitsFor t e x w with
        | [] =>
          match decode w with
          | .ok i => exec i s
          | .error d => .next (s.raise t e (decodeTrap d))
        | es => .next (s.holdWord e (.engines es))

/-- Fetch of a thread delivers one word; an engine whose queue was empty executes it at once. -/
noncomputable def State.runFetch (s : State) (t : Nat) : Out :=
  if (s.die (s.thr t).die).frozen then .next s
  else match s.deliver t with
  | (some e, s) => s.runEngine t (engineOf e)
  | (none, s) => .next s

/-- The default order: the current thread's next slot; after its background slot the next thread is current (DESIGN CHOICE, log entry 1). -/
noncomputable def State.runDefault (s : State) : Out :=
  let t := s.cur
  match (s.thr t).nextTurn with
  | some n =>
    let s := s.modThr t fun th => { th with turn := (n + 1) % 10 }
    if n < 8 then s.runEngine t (engineOf n)
    else if n = 8 then s.runFetch t
    else
      let s := { s with cur := s.threadAfter t }
      match s.background with
      | some i => exec i { s with bgTurn := s.bgTurn + 1 }
      | none => .next s
  | none => .next s

/-- One step: a clock passes, then somebody moves. -/
noncomputable def step (s : State) : Host.Outcome State Fault Refusal :=
  let s := s.newClock
  match s.agenda with
  | .device i :: rest => exec i { s with agenda := rest }
  | .engine t e :: rest => State.runEngine { s with agenda := rest } t e
  | .fetch t :: rest => State.runFetch { s with agenda := rest } t
  | [] => s.runDefault

/-- A state whose next step fetches and executes the word w (an instruction word of 32 bits; the state is otherwise as `placeWord` leaves it). -/
def State.withFetchWord (s : State) (nbits w : Nat) : State := s.placeWord (w % 2 ^ nbits)

end Sys2Proof.Machine
end

