-- ==== Sys2Proof/Safety.lean ====
section
/-! DEFINITION. What a safe state of the module is, and how an instruction ends, in the terms the statements use. -/

namespace Sys2Proof

/-- The rows to which the operation table gives no encoding: device steps and outside acts, which no thread fetches (R57). -/
def Instr.wordless (i : Instr) : Bool :=
  match i with
  | .passBoundary _ | .adrFaultTrap _ | .arrayCommandStart _ | .arrayCommandRetire _ | .copyUnitLands _ | .haloArrival _ | .collStep _ | .collWatchdogExpiry _
  | .reshardExchangeComplete _ | .pattDone _ | .centKeyUpdate _ | .sieveCompact _ | .sbarArrivalEffect _ | .tokenWaitResume _ | .tlbiAcknowledge _
  | .memoryWaitRecheck _ | .fetch _ | .markerReachesHead _ _ | .queueDeadlock _ | .scratchpadWritePerform _ | .ninesCompare _ _ _ _ | .trapTakenUser _
  | .trapTakenSystem _ | .gangPreempt _ | .gangSaved _ | .gangRestore _ _ _ | .gangDispatch _ | .gangStart _ | .reservationTimeout _ | .reservationDrop _
  | .childBoostTimeout _ | .nodeEnding _ | .nodeCompletionRecord _ | .launchPacket _ | .graphPacket _ | .seedPushPacket _ | .seedPopPacket _
  | .seedForkPacket _ | .waitPacket _ | .waitPacketPoll _ | .signalPacket _ | .signalWrite _ | .reshardOnBehalf _ | .contextCreate _ | .contextStop _
  | .contextStart _ | .contextDestroy _ | .contextFreed _ | .resumeThread _ | .qattach _ | .qdetach _ | .qtailWrite _ _ | .evconsWrite _ _ | .nctlRelease _ _
  | .nctlCancel _ _ | .migcmdWrite _ _ | .migrationStart _ | .migrationFinish _ | .tkcmdCreate _ _ | .tkcmdDestroy _ _ | .parkRingWrite _ _ _
  | .pendctlWrite _ _ | .lnkctlRetrain _ _ | .lnkctlDisable _ _ | .lnkctlEnable _ _ | .lnkctlClear _ _ | .fenceCore _ _ | .fenceSlice _ _ _ | .pstateWrite _ _
  | .configRegisterWrite _ _ _ | .homeLoss _ | .atomoArrival _ | .atomoRetry _ | .atomoLineStall _ | .rdcEviction _ _ _ | .correctableError _
  | .uncorrectableError _ | .patrolScrub _ _ _ | .arbiterPeriod _ | .dieFreeze _ | .flitReceive _ _ _ _ | .linkTrained _ _ _ | .linkTrainingFailed _ _
  | .linkReplayLimit _ _ | .laneLost _ _ | .linkRetrainTimeout _ _ | .peerDown _ _ | .routeTablesInForce | .cxlLinkDown _ | .powerOn | .sidebandReset _ _ _
  | .bringUp _ _ | .diePresent _ | .sidebandInventory | .sidebandAttest _ | .sidebandPowerRead _ | .sidebandPlimitWrite _ | .sidebandPstateWrite _ _
  | .sidebandLog | .malformedPacket _ | .memoryAccessPerformed _ | .llcLineEviction _ _ | .slicePartialAttention _ | .reshardPairCopy _ => true
  | _ => false

end Sys2Proof

namespace Sys2Proof.Machine
open Sys2Proof

/-- The canonical form of a byte memory: addresses strictly rising, no byte equal to what an unlisted one reads as. -/
def Memory.wf (m : Tab Byte) : Bool := Tab.wf m

/-- The canonical form of home memory, scratchpad and host memory. -/
def State.memWf (s : State) : Bool := Memory.wf s.mem && Memory.wf s.spad && Memory.wf s.hostMem

/-- A run stops nowhere: a step answers a next state. -/
def Goes (o : Host.Outcome State Fault Refusal) : Prop := ∃ s, o = .next s

/-- The word `i` of the current thread, executed by engine `e` in `s`, has the effect `s'` and then leaves its queue. -/
def Does (e : Engine) (i : Instr) (s s' : State) : Prop := exec i s = .next (s'.retire e s)

/-- The word `i` of the current thread, executed by engine `e` in `s`, completes with an effect of which `P` holds, and then leaves its queue. -/
def Ends (e : Engine) (i : Instr) (s : State) (P : State → Prop) : Prop := ∃ t, exec i s = .next (t.retire e s) ∧ P t

/-- `t` is `s` but for the record of the current thread, which is `th`. -/
def State.becomes (s t : State) (th : Thread) : Prop :=
  t = { s with threads := t.threads } ∧ t.thr s.cur = th ∧ ∀ v, v ≠ s.cur → t.thr v = s.thr v

/-- The word `i` of the current thread waits at the head of engine `e`'s queue. -/
def Waits (e : Engine) (i : Instr) (s : State) (w : Wait) : Prop := exec i s = .next (s.holdWord e w)

/-- The word `i` of the current thread has no effect and raises a trap in engine `e`. -/
def Traps (e : Engine) (i : Instr) (s : State) (t : TrapInfo) : Prop := exec i s = .next (s.raise s.cur e t)

/-- SEQ's head word writes scalar d, a write to s0 being discarded (R65). -/
def State.putS (s : State) (d : BitVec 6) (v : Dword) : State := s.modMe fun th => th.ws .seq d v

/-- SEQ's head word writes predicate d, a write to p0 being discarded (R65). -/
def State.putP (s : State) (d : BitVec 4) (v : Bool) : State := s.modMe fun th => th.wp d v

/-- `t` is `s` but for vector register d of the current thread, whose lane i is f i. -/
def State.rowIs (s t : State) (d : BitVec 5) (f : Nat → Word) : Prop := ∃ r : Row, s.becomes t (s.me.wv d r) ∧ ∀ i < 128, lane r i = f i

/-- `t` is `s` but for mask register d of the current thread, whose bit i is f i; a write to m0 is discarded. -/
def State.maskIs (s t : State) (d : BitVec 3) (f : Nat → Bool) : Prop := ∃ x : Mask, s.becomes t (s.me.wm d x) ∧ ∀ i < 128, x.getLsbD i = f i

/-- `t` is `s` but for vector register d of the current thread, which holds the packed string of 128 elements of width w whose element i is f i (R345). -/
def State.packedIs (s t : State) (d : BitVec 5) (w : Nat) (f : Nat → Nat) : Prop :=
  ∃ r : Row, s.becomes t (s.me.wv d r) ∧ r.toNat < 2 ^ (128 * w) ∧ ∀ i < 128, packedAt r w i = f i

/-- The exceptions that the lanes active under m raise together. -/
def raisedBy (m : Mask) (f : Nat → Flags) : Flags := ((List.range 128).filter fun i => m.getLsbD i).foldl (fun a i => a ||| f i) 0

/-- A VEC word that raises the exceptions fl (R51, R339): they are ORed into FPCTL.FLG; if none is enabled the word completes with an effect of which P
holds, from the state with those flags; else it writes nothing more and raises FP_ENABLED, which reports the enabled ones. -/
def FpEnds (i : Instr) (s : State) (fl : Flags) (P : State → State → Prop) : Prop :=
  let s' := s.modMe fun th => th.addFlags fl
  (fl &&& s.me.fpEn = 0 → Ends .vec i s (P s')) ∧
  (fl &&& s.me.fpEn ≠ 0 → ∃ x : TrapInfo, x.code = .fpEnabled ∧ bits x.estat 0 5 = fl &&& s.me.fpEn ∧ exec i s = .next (s'.raise s.cur .vec x))

/-- The head word of engine `e` of the current thread has been accepted as asynchronous work: from `s` to `u` it took a free scoreboard entry, left pending
with OBJ `obj`, the task `work` stands issued, and neither memory nor scratchpad nor a register of the thread has changed (R133). -/
def Accepted (s u : State) (e : Engine) (op : BitVec 5) (obj : BitVec 32) (work : Work) : Prop :=
  let th := s.me
  (∃ j, th.sbFree = some j ∧
    u.tasks = s.tasks.set s.nextTask
      { work := work, thread := s.cur, die := th.die, cid := th.cid, sb := j, parked := false, page := none, homes := [] } ∧
    u.me.sb = th.sb.set j { valid := true, st := .pending, eng := e, op := op, pc := th.pc e, obj := obj, ord := th.ordOf e }) ∧
  u.nextTask = s.nextTask + 1 ∧ u.mem = s.mem ∧ u.spad = s.spad ∧ u.me.s = th.s ∧ u.me.p = th.p ∧ u.me.v = th.v ∧ u.me.m = th.m ∧ u.me.acc = th.acc ∧
  u.me.d = th.d ∧ u.me.qs = th.qs ∧ u.me.qr = th.qr ∧ u.me.fpctl = th.fpctl ∧ u.me.contrib = th.contrib

/-- The handle h of the current thread's cluster has been bound to work that fills [base, base + len): no other handle has changed (R316, R317). -/
def Bound (s u : State) (h : BitVec 6) (base len : Nat) : Prop :=
  let c := s.me.cluster
  u.handle c h.toNat = { owner := s.me.gang + 1, st := .filling, base := base, len := len, wp := 0, rdr := (s.handle c h.toNat).rdr } ∧
  ∀ k, k ≠ handleKey c h.toNat → u.handles.get k = s.handles.get k

/-- The current thread is not under single step (R140). -/
def State.free (s : State) : Prop := s.me.sten = false

end Sys2Proof.Machine
end

