-- ==== Sys2Proof/Certificates/Slice0/Obligations.lean ====
section
/-! DEFINITION. The statements for the provers, in the order of OBLIGATIONS.json. A statement about one word says what `exec` answers: `Does e i s s'` is
that word i, executed by engine e in state s, has the effect s' and then leaves its queue (what leaving does is a statement of its own). -/

section
open Sys2Proof Sys2Proof.Machine

/-! ## SEQ (chapter The Scalar Sequencer) -/

/-- R86: every operation of OP 0x00 but the three bit counts writes its result to s[D], from the two scalars as they stand, and changes nothing else.
R88, R89: the immediate forms write their results to s[D], the immediate sign-extended. -/
def Obligations.ScalarArithmeticWritesItsResult : Prop :=
  (∀ (s : State) (d a b : BitVec 6), let x := s.me.rs .seq a; let y := s.me.rs .seq b
    Does .seq (.add d a b) s (s.putS d (x + y)) ∧
    Does .seq (.sub d a b) s (s.putS d (x - y)) ∧
    Does .seq (.and d a b) s (s.putS d (x &&& y)) ∧
    Does .seq (.or d a b) s (s.putS d (x ||| y)) ∧
    Does .seq (.xor d a b) s (s.putS d (x ^^^ y)) ∧
    Does .seq (.andn d a b) s (s.putS d (x &&& ~~~y)) ∧
    Does .seq (.shl d a b) s (s.putS d (x <<< (bits y 0 6).toNat)) ∧
    Does .seq (.shr d a b) s (s.putS d (x >>> (bits y 0 6).toNat)) ∧
    Does .seq (.sra d a b) s (s.putS d (x.sshiftRight (bits y 0 6).toNat)) ∧
    Does .seq (.slt d a b) s (s.putS d (if x.toInt < y.toInt then 1 else 0)) ∧
    Does .seq (.sltu d a b) s (s.putS d (if x.toNat < y.toNat then 1 else 0)) ∧
    Does .seq (.min d a b) s (s.putS d (if x.toInt ≤ y.toInt then x else y)) ∧
    Does .seq (.max d a b) s (s.putS d (if y.toInt ≤ x.toInt then x else y)) ∧
    Does .seq (.minu d a b) s (s.putS d (if x.toNat ≤ y.toNat then x else y)) ∧
    Does .seq (.maxu d a b) s (s.putS d (if y.toNat ≤ x.toNat then x else y)) ∧
    Does .seq (.mul d a b) s (s.putS d (BitVec.ofNat 64 (x.toNat * y.toNat))) ∧
    Does .seq (.mulh d a b) s (s.putS d (BitVec.ofInt 64 (x.toInt * y.toInt / 2 ^ 64))) ∧
    Does .seq (.mulhu d a b) s (s.putS d (BitVec.ofNat 64 (x.toNat * y.toNat / 2 ^ 64))) ∧
    (y ≠ 0 →
      Does .seq (.div d a b) s (s.putS d (BitVec.ofInt 64 (x.toInt.tdiv y.toInt))) ∧
      Does .seq (.divu d a b) s (s.putS d (BitVec.ofNat 64 (x.toNat / y.toNat))) ∧
      Does .seq (.rem d a b) s (s.putS d (BitVec.ofInt 64 (x.toInt.tmod y.toInt))) ∧
      Does .seq (.remu d a b) s (s.putS d (BitVec.ofNat 64 (x.toNat % y.toNat))))) ∧
  (∀ (s : State) (d a n : BitVec 6) (i : BitVec 12) (j : BitVec 11) (k : BitVec 18), let x := s.me.rs .seq a
    Does .seq (.addi d a i) s (s.putS d (x + i.signExtend 64)) ∧
    Does .seq (.andi d a i) s (s.putS d (x &&& i.signExtend 64)) ∧
    Does .seq (.ori d a i) s (s.putS d (x ||| i.signExtend 64)) ∧
    Does .seq (.xori d a i) s (s.putS d (x ^^^ i.signExtend 64)) ∧
    Does .seq (.shli d a n) s (s.putS d (x <<< n.toNat)) ∧
    Does .seq (.shri d a n) s (s.putS d (x >>> n.toNat)) ∧
    Does .seq (.srai d a n) s (s.putS d (x.sshiftRight n.toNat)) ∧
    Does .seq (.slti d a j) s (s.putS d (if x.toInt < j.toInt then 1 else 0)) ∧
    Does .seq (.sltiu d a j) s (s.putS d (if x.toNat < (j.signExtend 64).toNat then 1 else 0)) ∧
    Does .seq (.lui d k) s (s.putS d (BitVec.ofInt 64 (k.toInt * 2 ^ 12))) ∧
    Does .seq (.auipc d k) s (s.putS d (BitVec.ofInt 64 (((s.me.pc .seq).toNat + 4 * k.toInt) % 2 ^ 18))))

/-- R87: division by zero gives all ones or the dividend, without a trap, and the most negative number divided by −1 gives itself, with remainder 0. -/
def Obligations.DivisionCornersGiveTheirValues : Prop :=
  ∀ (s : State) (d a b : BitVec 6), let x := s.me.rs .seq a; let y := s.me.rs .seq b
    (y = 0 →
      Does .seq (.div d a b) s (s.putS d 0xFFFFFFFFFFFFFFFF#64) ∧
      Does .seq (.divu d a b) s (s.putS d 0xFFFFFFFFFFFFFFFF#64) ∧
      Does .seq (.rem d a b) s (s.putS d x) ∧
      Does .seq (.remu d a b) s (s.putS d x)) ∧
    (x = 0x8000000000000000#64 → y = 0xFFFFFFFFFFFFFFFF#64 →
      Does .seq (.div d a b) s (s.putS d x) ∧
      Does .seq (.rem d a b) s (s.putS d 0))

/-- R86: clz, ctz and popc write the count of leading zeros, of trailing zeros (64 of a zero scalar) and of ones. -/
def Obligations.BitCountsAreTheCounts : Prop :=
  ∀ (s : State) (d a : BitVec 6), let x := s.me.rs .seq a
    (∃ n ≤ 64, Does .seq (.clz d a) s (s.putS d (BitVec.ofNat 64 n)) ∧ (∀ i < n, x.getLsbD (63 - i) = false) ∧ (n < 64 → x.getLsbD (63 - n) = true)) ∧
    (∃ n ≤ 64, Does .seq (.ctz d a) s (s.putS d (BitVec.ofNat 64 n)) ∧ (∀ i < n, x.getLsbD i = false) ∧ (n < 64 → x.getLsbD n = true)) ∧
    Does .seq (.popc d a) s (s.putS d (BitVec.ofNat 64 ((List.range 64).countP fun i => x.getLsbD i)))

/-- R93 to R95: compares and predicate operations write p[D] (a write to p0 is discarded), and sel writes one of its two scalars. -/
def Obligations.ComparesWriteTheirPredicate : Prop :=
  ∀ (s : State) (d p q : BitVec 4) (r a b : BitVec 6) (i : BitVec 9) (n : BitVec 1),
    let x := s.me.rs .seq a; let y := s.me.rs .seq b; let z : Dword := i.signExtend 64; let u := s.me.rp p; let v := s.me.rp q
    Does .seq (.cmpEq d a b) s (s.putP d (decide (x = y))) ∧
    Does .seq (.cmpNe d a b) s (s.putP d (decide (x ≠ y))) ∧
    Does .seq (.cmpLt d a b) s (s.putP d (decide (x.toInt < y.toInt))) ∧
    Does .seq (.cmpGe d a b) s (s.putP d (decide (x.toInt ≥ y.toInt))) ∧
    Does .seq (.cmpLtu d a b) s (s.putP d (decide (x.toNat < y.toNat))) ∧
    Does .seq (.cmpGeu d a b) s (s.putP d (decide (x.toNat ≥ y.toNat))) ∧
    Does .seq (.cmpiEq d a i) s (s.putP d (decide (x = z))) ∧
    Does .seq (.cmpiNe d a i) s (s.putP d (decide (x ≠ z))) ∧
    Does .seq (.cmpiLt d a i) s (s.putP d (decide (x.toInt < i.toInt))) ∧
    Does .seq (.cmpiGe d a i) s (s.putP d (decide (x.toInt ≥ i.toInt))) ∧
    Does .seq (.cmpiLtu d a i) s (s.putP d (decide (x.toNat < z.toNat))) ∧
    Does .seq (.cmpiGeu d a i) s (s.putP d (decide (x.toNat ≥ z.toNat))) ∧
    Does .seq (.pand d p q) s (s.putP d (u && v)) ∧
    Does .seq (.por d p q) s (s.putP d (u || v)) ∧
    Does .seq (.pxor d p q) s (s.putP d (xor u v)) ∧
    Does .seq (.pandn d p q) s (s.putP d (u && !v)) ∧
    Does .seq (.pnot d p) s (s.putP d (!u)) ∧
    Does .seq (.pmov d p) s (s.putP d u) ∧
    Does .seq (.sel r a b n p) s (s.putS r (if xor u (decide (n = 1)) then x else y))

/-- R90, R91: a load whose address lies below 2^57, is aligned and passes translation and the token check writes the extended little-endian value of
its bytes to s[D]; what a read of poison or of a tainted piece adds is `readTaint` (R457, R269). -/
def Obligations.ScalarLoadsExtendTheirBytes : Prop :=
  ∀ (s s' : State) (d a : BitVec 6) (o : BitVec 9) (ea : Nat) (as : List Acc), let w := s.issuer s.cur .seq
    let rd := fun (size : Nat) => ((s.me.rs .seq a).toNat : Int) + o.toInt * size = ea ∧ ea < 2 ^ 57 ∧ ea % size = 0 ∧ s.accessLin w ea size false 0 = .ok (as, s')
    let got := leNat (s'.loadAccs w as).1.1
    let after := fun (v : Dword) => ((s'.loadAccs w as).2.readTaint s'.cur .seq (s'.loadAccs w as).1.2 (s'.accsTaint w as)).putS d v
    (rd 1 → Does .seq (.ldB d a o) s (after ((BitVec.ofNat 8 got).signExtend 64)) ∧ Does .seq (.ldBu d a o) s (after (BitVec.ofNat 64 got))) ∧
    (rd 2 → Does .seq (.ldH d a o) s (after ((BitVec.ofNat 16 got).signExtend 64)) ∧ Does .seq (.ldHu d a o) s (after (BitVec.ofNat 64 got))) ∧
    (rd 4 → Does .seq (.ldW d a o) s (after ((BitVec.ofNat 32 got).signExtend 64)) ∧ Does .seq (.ldWu d a o) s (after (BitVec.ofNat 64 got))) ∧
    (rd 8 → Does .seq (.ldD d a o) s (after (BitVec.ofNat 64 got)))

/-- R90, R91: a store whose address lies below 2^57, is aligned and passes translation and the token check stores the low bytes of s[D], little-endian.
R91: an address outside [0, 2^57) raises PAGE_FAULT before alignment is looked at, and a misaligned one raises ALIGN before any translation; neither
load nor store has then any effect. -/
def Obligations.ScalarStoresWriteTheirBytes : Prop :=
  (∀ (s s' : State) (d a : BitVec 6) (o : BitVec 9) (ea : Nat) (as : List Acc), let w := s.issuer s.cur .seq
    let wr := fun (size : Nat) => ((s.me.rs .seq a).toNat : Int) + o.toInt * size = ea ∧ ea < 2 ^ 57 ∧ ea % size = 0 ∧ s.accessLin w ea size true 0 = .ok (as, s')
    let after := fun (size : Nat) => s'.storeAccs w as (leBytes size (s'.me.rs .seq d).toNat)
    (wr 1 → Does .seq (.stB d a o) s (after 1)) ∧
    (wr 2 → Does .seq (.stH d a o) s (after 2)) ∧
    (wr 4 → Does .seq (.stW d a o) s (after 4)) ∧
    (wr 8 → Does .seq (.stD d a o) s (after 8))) ∧
  (∀ (s : State) (d a : BitVec 6) (o : BitVec 9), let ea := fun (size : Nat) => ((s.me.rs .seq a).toNat : Int) + o.toInt * size
    let page := fun (size : Nat) (write : Bool) (i : Instr) =>
      (ea size < 0 ∨ 2 ^ 57 ≤ ea size) → ∃ t : TrapInfo, t.code = .pageFault ∧ flag t.estat 8 = write ∧ Traps .seq i s t
    let align := fun (size : Nat) (i : Instr) =>
      0 ≤ ea size → ea size < 2 ^ 57 → ea size % size ≠ 0 → ∃ t : TrapInfo, t.code = .align ∧ Traps .seq i s t
    page 1 false (.ldB d a o) ∧ page 1 false (.ldBu d a o) ∧ page 2 false (.ldH d a o) ∧ page 2 false (.ldHu d a o) ∧ page 4 false (.ldW d a o) ∧
    page 4 false (.ldWu d a o) ∧ page 8 false (.ldD d a o) ∧ page 1 true (.stB d a o) ∧ page 2 true (.stH d a o) ∧ page 4 true (.stW d a o) ∧
    page 8 true (.stD d a o) ∧
    align 2 (.ldH d a o) ∧ align 2 (.ldHu d a o) ∧ align 4 (.ldW d a o) ∧ align 4 (.ldWu d a o) ∧ align 8 (.ldD d a o) ∧ align 2 (.stH d a o) ∧
    align 4 (.stW d a o) ∧ align 8 (.stD d a o))

/-- R96, R102: a branch whose predicate agrees, jal and jalr transfer control to their target, jal and jalr writing the return address; `jumpTo` ends
the loops whose bodies do not hold the target and moves fetch, which a branch not taken leaves alone. -/
def Obligations.TransfersGoToTheirTarget : Prop :=
  ∀ (s : State) (p : BitVec 4) (n : BitVec 1) (o : BitVec 19) (i : BitVec 18) (j : BitVec 12) (d a : BitVec 6), let pc := s.me.pc .seq
    (xor (s.me.rp p) (decide (n = 1)) = true →
      Does .seq (.br p n o) s (s.modMe fun th => th.jumpTo (BitVec.ofInt 18 (pc.toNat + 4 * o.toInt)))) ∧
    (xor (s.me.rp p) (decide (n = 1)) = false → Does .seq (.br p n o) s s) ∧
    Does .seq (.jal d i) s ((s.putS d (BitVec.ofNat 64 ((pc.toNat + 4) % 2 ^ 18))).modMe fun th => th.jumpTo (BitVec.ofInt 18 (pc.toNat + 4 * i.toInt))) ∧
    Does .seq (.jalr d a j) s ((s.putS d (BitVec.ofNat 64 ((pc.toNat + 4) % 2 ^ 18))).modMe fun th =>
      th.jumpTo (((s.me.rs .seq a + j.signExtend 64).setWidth 18) &&& 0x3FFFC#18))

/-- R99, R100: a loop word of an allowed body starts a loop of its trip count, keeping the enclosing loop's counts in its entry, and with trip count 0
only moves fetch past the body; a body that R99 refuses raises SHAPE and starts nothing. -/
def Obligations.LoopWordsStartTheirLoop : Prop :=
  ∀ (s : State) (c : BitVec 6) (b : BitVec 12) (st : BitVec 3), let th := s.me; let start := th.pc .seq + 4
    let entry := fun (st : BitVec 3) (rot : Bool) => ({ lcnt := 0, drain := 0, nst := st, rot := rot, start := start, body := b } : LoopEntry)
    let runs := fun (n : Dword) (st : BitVec 3) (rot : Bool) => s.modMe fun th =>
      let th := { th with loops := th.shelve ++ [entry st rot], lcnt := n - 1, drain := st, nst := st }
      if rot then th.firstStage else th
    let skips := s.modMe fun th => if th.fetchWaits then { th with fetch := start + 4 * b.setWidth 18 } else th
    let word := fun (i : Instr) (n : Dword) (st : BitVec 3) (rot : Bool) =>
      (th.loopOk b = true → n ≠ 0 → Does .seq i s (runs n st rot)) ∧ (th.loopOk b = true → n = 0 → Does .seq i s skips) ∧
      (th.loopOk b = false → ∃ t : TrapInfo, t.code = .shape ∧ Traps .seq i s t)
    word (.loop c b) (th.rs .seq c) 0 false ∧ word (.loopRot c b st) (th.rs .seq c) st true ∧
    word (.loopi c b) (c.setWidth 64) 0 false ∧ word (.loopiRot c b st) (c.setWidth 64) st true

/-- R100, R101: the boundary at the head of SEQ's queue leaves it and counts LCNT down; then, once LCNT is 0, DRAIN; with both 0 the loop ends, and the enclosing loop's
counts come back from its entry.
A rotating loop's RRB goes down by one and p8 takes whether the pass starts an iteration.
R113, R159, R165, R164: brk raises BREAK with no effect; a fetch step delivers up to four words; a marker step takes the markers off the head of its
queue; a set of engines that has stood stuck for 65,536 clocks raises QUEUE_DEADLOCK. -/
def Obligations.PassBoundariesCountDown : Prop :=
  (∀ (s : State) (t : Nat) (x : IqEntry), (s.thr t).head .seq = some x → x.item.isPass = true →
    ∃ u, exec (.passBoundary t) s = .next u ∧
      ((s.thr t).lcnt ≠ 0 → (u.thr t).lcnt = (s.thr t).lcnt - 1 ∧ (u.thr t).drain = (s.thr t).drain ∧ (u.thr t).loops = (s.thr t).loops) ∧
      ((s.thr t).lcnt = 0 → (s.thr t).drain ≠ 0 →
        (u.thr t).lcnt = 0 ∧ (u.thr t).drain = (s.thr t).drain - 1 ∧ (u.thr t).loops = (s.thr t).loops) ∧
      ((s.thr t).lcnt = 0 → (s.thr t).drain = 0 → (s.thr t).loops.length = 1 →
        (u.thr t).lcnt = 0 ∧ (u.thr t).drain = 0 ∧ (u.thr t).nst = 0 ∧ (u.thr t).loops = []) ∧
      (∀ ls k l, (s.thr t).lcnt = 0 → (s.thr t).drain = 0 → (s.thr t).loops = ls ++ [k, l] →
        (u.thr t).lcnt = k.lcnt ∧ (u.thr t).drain = k.drain ∧ (u.thr t).nst = k.nst ∧ (u.thr t).loops = ls ++ [{ k with lcnt := 0, drain := 0 }]) ∧
      (∀ l, (s.thr t).loops.getLast? = some l → l.rot = true → ((s.thr t).lcnt ≠ 0 ∨ (s.thr t).drain ≠ 0) →
        (u.thr t).rrb = (s.thr t).rrb - 1 ∧ (u.thr t).pAt (u.thr t).rrb 8 = decide ((s.thr t).lcnt ≠ 0)) ∧
      u.mem = s.mem ∧ u.spad = s.spad ∧ ∀ v, v ≠ t → u.thr v = s.thr v) ∧
  ((∀ s : State, ∃ t : TrapInfo, t.code = .brk ∧ Traps .seq .brk s t) ∧
  (∀ (s : State) (t : Nat), exec (.fetch t) s = .next ((s.deliver t).2.deliver t |>.2.deliver t |>.2.deliver t |>.2)) ∧
  (∀ (s : State) (t e : Nat), ∃ u, exec (.markerReachesHead t e) s = .next u ∧ (u.thr t).iq.get e = dropMarkers ((s.thr t).iq.get e) ∧
    (∀ f, f ≠ e → (u.thr t).iq.get f = (s.thr t).iq.get f) ∧ (u.thr t).s = (s.thr t).s ∧ u.mem = s.mem ∧ ∀ v, v ≠ t → u.thr v = s.thr v) ∧
  (∀ (s : State) (t n : Nat), let th := s.thr t
    65536 ≤ th.stall → n < 8 → flag th.deadSet n = true → th.heldAt n = true → (∀ m < n, (flag th.deadSet m && th.heldAt m) = false) →
    ∃ i : TrapInfo, i.code = .queueDeadlock ∧ i.addr = th.deadSet.setWidth 64 ∧ exec (.queueDeadlock t) s = .next (s.raise t (engineOf n) i)))

/-- R107 to R112, R106: qpush and qpop move the queue's tail and head, fmt places a shape that is in range, mark, join and nop have no effect of their
own, rdsr and wrsr reach the register named, and rot turns RRB.
R107, R108, R162: a push to a full queue and a pop of an empty one wait at the word with no effect. -/
def Obligations.QueueAndRegisterWordsOfSeq : Prop :=
  (∀ (s : State) (d a b : BitVec 6) (q : BitVec 4) (n : BitVec 12) (i : BitVec 12) (j : BitVec 3) (m : BitVec 8),
    let x := s.me.rs .seq a; let y := s.me.rs .seq b
    let inRange := bits y 26 38 = 0 ∧ 1 ≤ field y 0 8 ∧ field y 0 8 ≤ 128 ∧ 1 ≤ field y 8 8 ∧ field y 8 8 ≤ 128 ∧ field y 16 10 % 8 = 0 ∧
      8 ≤ field y 16 10 ∧ field y 16 10 ≤ 512
    let placed := fun (v : Dword) => field v 41 7 = field y 0 8 - 1 ∧ field v 34 7 = field y 8 8 - 1 ∧ field v 25 9 = field y 16 10 / 8 ∧
      bits v 0 25 = bits x 0 25 ∧ bits v 48 16 = bits x 48 16
    (s.me.qlen q.toNat < queueDepth q.toNat → Does .seq (.qpush q a) s (s.modMe fun th => th.pushS q.toNat x)) ∧
    (∀ v rest, s.me.qs.get q.toNat = v :: rest → Does .seq (.qpop d q) s ((s.modMe fun th => th.dropS q.toNat).putS d v)) ∧
    (inRange → ∃ v, placed v ∧ Does .seq (.fmt d a b) s (s.putS d v)) ∧
    (inRange → s.me.qlen 0 < 16 → ∃ v, placed v ∧ Does .seq (.fmtQ a b) s (s.modMe fun th => th.pushS 0 v)) ∧
    Does .seq (.mark j m) s s ∧
    Does .seq (.join j) s s ∧
    Does .seq .nop s s ∧
    Does .seq (.rdsr d n) s (s.putS d (s.special n.toNat)) ∧
    Does .seq (.wrsr a n) s (s.modMe fun th => th.setSpecial n.toNat x) ∧
    Does .seq (.rot a i) s (s.modMe fun th => th.setRrb (BitVec.ofInt 4 (s.me.rrb.toNat - (x + i.signExtend 64).toInt)) (th.ordOf .seq))) ∧
  (∀ (s : State) (d a : BitVec 6) (q : BitVec 4),
    (queueDepth q.toNat ≤ s.me.qlen q.toNat → Waits .seq (.qpush q a) s (.pushFull q.toNat)) ∧
    (s.me.qs.get q.toNat = [] → Waits .seq (.qpop d q) s (.popEmpty q.toNat)))


/-! ## ADR (chapter The Access Engine) -/

/-- R303, R309, R310, R313, R315, R285, R286: the words of ADR that move one descriptor or one scalar, prefetch, fence or wait for a handle. A scratchpad
operand lies at p once `spadOperand` has placed it; `fences` counts the fences of the thread, after which a later store is not performed first (R281). That
pref.l and pref.t change nothing is the model's choice (log entry 7: its caches are filled by accesses alone). -/
def Obligations.AccessWordsOnScalarsHaveTheirEffect : Prop :=
  ∀ (s s1 : State) (d a h : BitVec 6) (c n sl : BitVec 3) (p : Nat) (x : List Byte × Bool) (as : List Acc), let th := s.me; let w := s.adrIssuer
    let k := 2 ^ (c.toNat / 2); let op := th.rs .adr a; let dw := fun i => th.sAt (th.rrbOf .adr) (8 * n.toNat + i)
    let rel := s.drainThread s.cur; let dom := rel.domainRelease rel.me.die rel.me.cid
    let past := fun (s : State) => s.modMe fun th => { th with fences := th.fences + 1 }
    let performed := s.anyUnperformed s.cur = false ∧ (c = 4 → s.homesAway th.die = false)
    let placed := fun (write : Bool) => s.spadOperand s.cur .adr op k (adrBad op) = .ok p ∧ p % k = 0 ∧ s.phaseCheck s.cur .adr p k write = none
    let ext := fun (v : Nat) => if c = 6 ∨ c.toNat % 2 = 1 then BitVec.ofNat 64 v else (BitVec.ofNat (8 * k) v).signExtend 64
    let hd := s.handle th.cluster h.toNat
    let met := bits op 24 40 = 0 ∧ (hd.st = .free ∨ hd.foreign th.gang = false) ∧ (field op 0 24 ≤ hd.wp ∨ hd.st ≠ .filling ∧ hd.st ≠ .parked)
    th.adrTrap = none →
    (captTrap dw = none → Does .adr (.capt n sl) s (s.modMe fun th => { th with d := th.d.setRange (8 * sl.toNat) ((List.range 8).map dw) })) ∧
    (placed false → s.spadRead s.cur .adr p k = .ok x → th.qlen 8 < 16 → let seen := s.readTaint s.cur .adr x.2 false
      Ends .adr (.sld a c) s fun t => seen.becomes t (seen.me.pushS 8 (ext (leNat x.1)))) ∧
    (placed true → Does .adr (.sst d a c) s (s.spadIssue s.cur .adr p (leBytes k (th.rs .adr d).toNat) 4)) ∧
    (op.toNat % k = 0 → th.qlen 8 < 16 → s.accessLin w op.toNat k false 0 = .ok (as, s1) →
      let got := s1.loadAccs w as; let seen := got.2.readTaint got.2.cur .adr got.1.2 (s1.accsTaint w as)
      Ends .adr (.ldq a c) s fun t => seen.becomes t (seen.me.pushS 8 (ext (leNat got.1.1)))) ∧
    Does .adr (.prefL a) s s ∧
    Does .adr (.prefT n a) s s ∧
    Does .adr (.fenceAcq c) s (if c = 4 then (past s).acquire s.cur else past s) ∧
    (performed → Does .adr (.fenceRel c) s (if c = 4 then past dom else past rel)) ∧
    (performed → Does .adr (.fenceFull c) s (if c = 4 then (past dom).acquire (past dom).cur else past rel)) ∧
    (met → Does .adr (.hwait h a) s s) ∧
    (met → th.qlen 8 < 16 → Does .adr (.hwaitSt h a) s (s.modMe fun th => th.pushS 8 (BitVec.ofNat 64 (hd.wp + hd.st.code * 2 ^ 32))))

/-- R299, R301, R304 to R309: a load of ADR, its checks made once (`sc`), does its next unit and goes on from the state in which that unit's bytes have gone to their place
in scratchpad with latency 4, or into the packed result; at the end of a row the bytes out of range are written as zero, or the complete rows of the result go to q2; after the last
row, be it one without units, the word is complete. `us` are the units of the row and s0 the state after the row's index has been read. -/
def Obligations.AccessLoadsEndWithTheirLastUnit : Prop :=
  ∀ (s sc s0 s1 : State) (d a : BitVec 6) (n : BitVec 3) (us more : List AUnit) (u : AUnit) (ps : List Piece3) (p : Nat) (x : List Byte × Bool),
    let th := s.me; let D := th.slotDesc n; let w := s0.adrIssuer; let r := th.adr.row; let k := spanBytes u.box u.bits; let R := D.rowBytes
    let op := th.rs .adr d; let cnt := field (th.run .adr a 1) 0 32; let rows := field (th.run .adr a 2) 0 32
    let len := field (th.run .adr a 3) 0 32; let left := us.drop th.adr.sub; let done := th.adr.pushed; let lo := (coveredBits us + 7) / 8
    let got := s1.loadPieces w ps; let seen := got.2.readTaint s1.cur .adr got.1.2.1 got.1.2.2
    let bytes := putBits th.adr.bytes u.box u.bits got.1.1
    let kept := seen.modMe fun th => { th with adr := { th.adr with bytes := bytes } }
    let box := fun (op : Option Dword) => adrOnce s (boxChecks s D a op true) = .ok sc ∧ s0 = sc ∧ us = D.boxUnits (boxCoords th a) r
    let gath := fun (op : Option Dword) => adrOnce s (gathChecks s D a op true) = .ok sc ∧ gathUnits D a sc r = .ok (us, s0)
    let reads := fun (o : Nat) => s0.accessPieces w false o u.pieces = .ok (ps, s1)
    let goesOn := fun (i : Instr) (t : State) => exec i s = exec i t
    let completes := fun (i : Instr) (z : State) => Ends .adr i s fun t => z.becomes t { z.me with adr := default }
    let row := fun (th : Thread) (bytes : Tab Byte) => th.pushR 2 (rowOfBytes (bytes.getRange (512 * done) 512))
    let toSpad := fun (i : Instr) (o total : Nat) =>
      let zeros := if lo < R then s0.spadIssue s0.cur .adr p (List.replicate (R - lo) 0) 4 else s0
      (left = u :: more → r < total → reads o → adrPlace s0 op (u.box / 8) k = .ok p →
        goesOn i ((kept.spadIssue kept.cur .adr p (bytes.getRange (u.box / 8) k) 4).modMe Thread.unitDone)) ∧
      (left = [u] → r + 1 = total → reads o → adrPlace s0 op (u.box / 8) k = .ok p → R ≤ lo →
        Ends .adr i s fun t => (seen.spadIssue seen.cur .adr p (bytes.getRange (u.box / 8) k) 4).becomes t { seen.me with adr := default }) ∧
      (left = [] → (lo < R → adrPlace s0 op (r * R + lo) (R - lo) = .ok p) →
        (r + 1 < total → goesOn i (zeros.modMe Thread.rowDone)) ∧ (r + 1 = total → completes i zeros))
    let toQueue := fun (i : Instr) (o total : Nat) =>
      (left = u :: more → r < total → reads o → goesOn i (kept.modMe Thread.unitDone)) ∧
      (left = [u] → r + 1 = total → reads o → done + 1 = (total * R + 511) / 512 → th.qlen 2 < 8 →
        Ends .adr i s fun t => seen.becomes t { row seen.me bytes with adr := default }) ∧
      (left = [] → r < total → r * R / 512 ≤ done → done < (r + 1) * R / 512 → th.qlen 2 < 8 →
        goesOn i (s0.modMe fun th => { row th th.adr.bytes with adr := { th.adr with pushed := done + 1 } })) ∧
      (left = [] → r + 1 < total → (r + 1) * R / 512 ≤ done → goesOn i (s0.modMe Thread.rowDone)) ∧
      (left = [] → r + 1 = total → done + 1 = (total * R + 511) / 512 → th.qlen 2 < 8 →
        Ends .adr i s fun t => s0.becomes t { row s0.me th.adr.bytes with adr := default }) ∧
      (left = [] → r + 1 = total → done = (total * R + 511) / 512 → completes i s0)
    th.adrTrap = none →
    (box (some op) → toSpad (.tld d n a) D.ord D.boxRows) ∧ (box none → toQueue (.tldQ n a) D.ord D.boxRows) ∧
    (gath (some op) → toSpad (.gld d n a) D.ord cnt) ∧ (gath none → toQueue (.gldQ n a) D.ord cnt) ∧
    (adrOnce s (memRowChecks s a) = .ok s0 → memRow a s0 r false = .ok u → reads 0 → th.qlen 2 < 8 →
      let pushed := fun (th : Thread) => th.pushR 2 (BitVec.ofNat 4096 got.1.1)
      (r + 1 < rows → goesOn (.vld a) (seen.modMe fun th => (pushed th).unitDone.rowDone)) ∧
      (r + 1 = rows → Ends .adr (.vld a) s fun t => seen.becomes t { pushed seen.me with adr := default })) ∧
    (adrOnce s (spadRowChecks s a false) = .ok s0 → adrPlace s0 (th.run .adr a 0) (rowStep th a r) len = .ok p → s0.spadRead s0.cur .adr p len = .ok x →
      th.qlen 2 < 8 → let seen := s0.readTaint s0.cur .adr x.2 false; let pushed := fun (th : Thread) => th.pushR 2 (rowOfBytes x.1)
      (r + 1 < rows → goesOn (.sldRow a) (seen.modMe fun th => (pushed th).unitDone.rowDone)) ∧
      (r + 1 = rows → Ends .adr (.sldRow a) s fun t => seen.becomes t { pushed seen.me with adr := default }))

/-- R299, R301, R304 to R309: a store of ADR, its checks made once (`sc`), does its next unit and goes on from the state in which that unit's bits, from scratchpad as it stands or
from the rows that it pops from q3, are stored as `adrStores` stores them; a row without further units ends; after the last row, with every row of q3 popped
that its result fills, the word is complete. -/
def Obligations.AccessStoresEndWithTheirLastUnit : Prop :=
  ∀ (s sc s0 s1 : State) (d a : BitVec 6) (n : BitVec 3) (us more : List AUnit) (u : AUnit) (ps : List Piece3) (p : Nat) (x : List Byte × Bool) (row : Row)
    (rest : List Row),
    let th := s.me; let D := th.slotDesc n; let r := th.adr.row; let k := spanBytes u.box u.bits; let R := D.rowBytes
    let op := th.rs .adr d; let cnt := field (th.run .adr a 1) 0 32; let rows := field (th.run .adr a 2) 0 32
    let len := field (th.run .adr a 3) 0 32; let left := us.drop th.adr.sub; let have_ := th.adr.rows.length
    let box := fun (op : Option Dword) => adrOnce s (boxChecks s D a op false) = .ok sc ∧ s0 = sc ∧ us = D.boxUnits (boxCoords th a) r
    let gath := fun (op : Option Dword) => adrOnce s (gathChecks s D a op false) = .ok sc ∧ gathUnits D a sc r = .ok (us, s0)
    let pop := fun (s : State) => s.modMe fun th => { th.dropR 3 with adr := { th.adr with rows := th.adr.rows ++ [row] } }
    let goesOn := fun (i : Instr) (t : State) => exec i s = exec i t
    let completes := fun (i : Instr) (z : State) => Ends .adr i s fun t => z.becomes t { z.me with adr := default }
    let stores := fun (from_ : State) (o v : Nat) (P : State → Prop) => from_.accessPieces from_.adrIssuer true o u.pieces = .ok (ps, s1) →
      P (s1.adrStores from_.adrIssuer ps v)
    let ofSpad := fun (i : Instr) (total : Nat) =>
      (adrPlace s0 op (u.box / 8) k = .ok p → s0.spadRead s0.cur .adr p k = .ok x →
        stores (s0.readTaint s0.cur .adr x.2 false) D.ord (takeBits x.1 (u.box % 8) u.bits) fun z =>
          (left = u :: more → r < total → goesOn i (z.modMe Thread.unitDone)) ∧ (left = [u] → r + 1 = total → completes i z)) ∧
      (left = [] → r + 1 < total → goesOn i (s0.modMe Thread.rowDone)) ∧ (left = [] → r + 1 = total → completes i s0)
    let ofQueue := fun (i : Instr) (total : Nat) => let first := u.box / 8 / 512; let all := (total * R + 511) / 512
      let val := fun (rows : List Row) => takeBits (((rows.drop first).take (k / 512 + 2)).flatMap rowBytes) (u.box - first * 4096) u.bits
      let needs := (u.box / 8 + k + 511) / 512
      (left = u :: more → r < total → have_ < needs → th.qr.get 3 = row :: rest → goesOn i (pop s0)) ∧
      (left = u :: more → r < total → needs ≤ have_ → stores s0 D.ord (val th.adr.rows) fun z => goesOn i (z.modMe Thread.unitDone)) ∧
      (left = [u] → r + 1 = total → have_ + 1 = all → needs = all → th.qr.get 3 = row :: rest → stores (pop s0) D.ord (val (th.adr.rows ++ [row])) (completes i)) ∧
      (left = [] → r + 1 < total → goesOn i (s0.modMe Thread.rowDone)) ∧
      (left = [] → r + 1 = total → have_ < all → th.qr.get 3 = row :: rest → goesOn i (pop s0)) ∧
      (left = [] → r + 1 = total → all ≤ have_ → completes i s0)
    th.adrTrap = none →
    (box (some op) → ofSpad (.tst d n a) D.boxRows) ∧ (box none → ofQueue (.tstQ n a) D.boxRows) ∧
    (gath (some op) → ofSpad (.gst d n a) cnt) ∧ (gath none → ofQueue (.gstQ n a) cnt) ∧
    (adrOnce s (memRowChecks s a) = .ok s0 → have_ = r → th.qr.get 3 = row :: rest → memRow a (pop s0) r true = .ok u →
      stores (pop s0) 0 (row.toNat % 2 ^ u.bits) fun z =>
        (r + 1 < rows → goesOn (.vst a) (z.modMe fun th => th.unitDone.rowDone)) ∧ (r + 1 = rows → completes (.vst a) z)) ∧
    (adrOnce s (spadRowChecks s a true) = .ok s0 → have_ = r → th.qr.get 3 = row :: rest → adrPlace (pop s0) (th.run .adr a 0) (rowStep th a r) len = .ok p →
      let z := (pop s0).spadIssue s0.cur .adr p ((rowBytes row).take len) 4
      (r + 1 < rows → goesOn (.sstRow a) (z.modMe fun th => th.unitDone.rowDone)) ∧ (r + 1 = rows → completes (.sstRow a) z))

/-- R292, R311, R120: an atomic on memory, once what its scope orders before it is performed, replaces the operand at home by its operation's value and
with R = 1 pushes the old value to q8; one on scratchpad is issued once (R289: due 6 clocks later), in its clock replaces the operand, or has no effect at a word that another engine or
thread has pending (R291; which of several writers its trap names is the model's choice, log entry 99), and ends with the old value or that trap; in a context with DET = 1 it raises ILLEGAL_INSN. -/
def Obligations.AtomicsReplaceTheirOperand : Prop :=
  ∀ (s s1 : State) (a : BitVec 6) (c : BitVec 3) (r p z : BitVec 1) (as : List Acc) (pl : Nat) (o : Dword) (info : TrapInfo),
    let th := s.me; let size := if z = 1 then 8 else 4
    let addr := th.run .adr a 0; let v := (th.run .adr a 1).toNat % 2 ^ (8 * size); let cmp := (th.run .adr a 2).toNat % 2 ^ (8 * size)
    let sx := intVal (8 * size) true
    let rel := if c = 0 then s else if c = 4 then (s.drainThread s.cur).domainRelease (s.drainThread s.cur).me.die (s.drainThread s.cur).me.cid
      else s.drainThread s.cur
    let w := rel.adrIssuer; let at_ := as.headD default; let got := s1.loadHome w at_; let old := leNat got.1.1
    let read := got.2.readTaint got.2.cur .adr got.1.2 (s1.accsTaint w as)
    let give := fun (s : State) (old : Nat) => if r = 1 then s.modMe fun th => th.pushS 8 (BitVec.ofNat 64 old) else s
    let acq := fun (s : State) => if c = 0 then s else if c = 4 then s.acquire s.cur else s.modMe Thread.fenced
    let performed := c ≠ 0 → s.anyUnperformed s.cur = false ∧ (c = 4 → s.homesAway th.die = false)
    let atom := fun (i : Instr) (op : Nat) (new : Nat → Option Nat) =>
      ((s.ctxs.get th.cid).det = false → p = 0 → addr.toNat % size = 0 → performed →
        (r = 1 → rel.me.qlen 8 < 16) → rel.accessLin w addr.toNat size true 0 = .ok (as, s1) →
        Does .adr i s (acq (give (match new old with | some y => read.storeHome w at_ (leBytes size y) | none => read) old)).adrDone) ∧
      ((s.ctxs.get th.cid).det = false → p = 1 → th.atomoSent = false → s.spadOperand s.cur .adr addr size (adrBad addr) = .ok pl → pl % size = 0 →
        s.phaseCheck s.cur .adr pl size true = none → performed → (r = 1 → rel.me.qlen 8 < 16) → rel.ownUnperformed rel.cur .adr pl size = false →
        exec i s = .next (State.holdWord ((rel.issueAtom (.atom op v (if op = 7 then cmp else 0)) pl size).modMe fun th =>
          { th with atomBegun := some (r == 1, c.toNat == 4) }) .adr .outside)) ∧
      ((s.ctxs.get th.cid).det = false → p = 1 → th.atomoSent = true → th.atomoFail = none → th.atomoOld = some o → (r = 1 → th.qlen 8 < 16) →
        Does .adr i s (acq (State.modMe (give s o.toNat) Thread.atomClear)).adrDone) ∧
      ((s.ctxs.get th.cid).det = false → p = 1 → th.atomoSent = true → th.atomoFail = some info →
        exec i s = .next ((s.modMe Thread.atomClear).raise s.cur .adr info)) ∧
      (∀ (n : Nat) (q : SPend), s.spend[n]? = some q → q.act = .atom op v (if op = 7 then cmp else 0) → q.bytes.length = size → q.due ≤ s.clk → s.spadFrozen q = false → s.landed = [] →
        (s.thr q.thread).st = .running → let was := leNat (s.spadBytes q.cluster q.addr size); let meets := s.pendingRead q.cluster q.core q.eng q.addr size
        ∃ u, exec (.scratchpadWritePerform n) s = .next u ∧ u.spend = s.spend.eraseIdx n ∧ u.mem = s.mem ∧
          (meets = none → (u.thr q.thread).atomoOld = some (BitVec.ofNat 64 was) ∧ u.spad = (match new was with
            | some y => s.spad.setRange (spadKey q.cluster q.addr) (leBytes size y) | none => s.spad)) ∧
          (∀ k, meets = some k → (u.thr q.thread).atomoFail = some k ∧ u.spad = s.spad)) ∧
      ((s.ctxs.get th.cid).det = true → ∃ t : TrapInfo, t.code = .illegalInsn ∧ Traps .adr i s t)
    th.adrTrap = none →
    atom (.atomAdd a c r p z) 0 (fun old => some ((old + v) % 2 ^ (8 * size))) ∧
    atom (.atomMin a c r p z) 1 (fun old => some (if sx old ≤ sx v then old else v)) ∧
    atom (.atomMax a c r p z) 2 (fun old => some (if sx v ≤ sx old then old else v)) ∧
    atom (.atomAnd a c r p z) 3 (fun old => some (old &&& v)) ∧
    atom (.atomOr a c r p z) 4 (fun old => some (old ||| v)) ∧
    atom (.atomXor a c r p z) 5 (fun old => some (old ^^^ v)) ∧
    atom (.atomXchg a c r p z) 6 (fun _ => some v) ∧
    atom (.atomCas a c r p z) 7 (fun old => if old = cmp then some v else none)

/-- R292, R293, R294, R312, R289, R410: an ordered atomic of memory is sent once, to another die as a packet, and waits; one of scratchpad is issued, due 6 clocks later; with its
result it is complete, the old value pushed to q8 with R = 1, and one that its unit ended raises that trap. That an atomo travels as its own step and as a packet of its
own is the model's choice (log entries 32, 97). -/
def Obligations.OrderedAtomicsAreSentAndEndWithTheirResult : Prop :=
  ∀ (s s1 : State) (a : BitVec 6) (c : BitVec 3) (r p z : BitVec 1) (as : List Acc) (pl : Nat) (v : Dword) (info : TrapInfo), let th := s.me
    let size := if z = 1 then 8 else 4; let addr := th.run .adr a 0
    let rel := if c = 0 then s else if c = 4 then (s.drainThread s.cur).domainRelease (s.drainThread s.cur).me.die (s.drainThread s.cur).me.cid
      else s.drainThread s.cur
    let w := rel.adrIssuer; let qs := th.run .adr a 3; let pa := (as.headD default).pa
    let clear := s.modMe Thread.atomClear
    let given := if r = 1 then clear.modMe fun th => th.pushS 8 v else clear
    let acq := fun (s : State) => if c = 0 then s else if c = 4 then s.acquire s.cur else s.modMe Thread.fenced
    let performed := c ≠ 0 → s.anyUnperformed s.cur = false ∧ (c = 4 → s.homesAway th.die = false)
    let atomo := fun (op : Nat) (i : Instr) =>
      let made := fun (x : Atomo) (at_ : Nat) => x.thread = s.cur ∧ x.pa = at_ ∧ x.size = size ∧ x.op = BitVec.ofNat 3 op ∧ x.q = field qs 0 32 ∧ x.last = flag qs 32
      (th.atomoSent = false → p = 0 → bits qs 33 31 = 0 → addr.toNat % size = 0 → performed → rel.accessLin w addr.toNat size true 0 = .ok (as, s1) →
        ∃ (t : State) (x : Atomo), exec i s = .next (t.holdWord .adr .outside) ∧ t.atomo = s1.atomo ++ [x] ∧ made x pa ∧ x.spad = false ∧
          t.mem = (s1.loadHome w (as.headD default)).2.mem ∧
          t.me.atomoSent = true ∧ t.me.atomoOld = none ∧ (homeOf pa ≠ th.die → t.onWay (homeOf pa) (.atomo s.cur) = true)) ∧
      (th.atomoSent = false → p = 1 → bits qs 33 31 = 0 → s.spadOperand s.cur .adr addr size (adrBad addr) = .ok pl → pl % size = 0 →
        s.phaseCheck s.cur .adr pl size true = none → performed → rel.ownUnperformed rel.cur .adr pl size = false →
        ∃ x : Atomo, exec i s = .next ((rel.issueAtom (.atomo x) pl size).holdWord .adr .outside) ∧ made x pl ∧ x.spad = true ∧ x.cluster = th.cluster) ∧
      (th.atomoSent = true → th.atomoFail = none → th.atomoOld = some v → (r = 1 → th.qlen 8 < 16) → Ends .adr i s fun t => t = (acq given).adrDone) ∧
      (th.atomoSent = true → th.atomoFail = some info → ∃ k : TrapInfo, k.code = info.code ∧ k.estat = info.estat ∧ (info.code = .shape → k.addr = qs) ∧
        exec i s = .next (clear.raise s.cur .adr k))
    th.adrTrap = none →
    atomo 0 (.atomoAdd a c r p z) ∧ atomo 1 (.atomoMin a c r p z) ∧ atomo 2 (.atomoMax a c r p z) ∧ atomo 3 (.atomoAnd a c r p z) ∧
    atomo 4 (.atomoOr a c r p z) ∧ atomo 5 (.atomoXor a c r p z) ∧ atomo 6 (.atomoXchg a c r p z) ∧ atomo 7 (.atomoCas a c r p z)

/-- R293, R294, R312, R244, R410: an ordered atomic stays on its way while the packet that carries it does; one that arrives, from memory or from its scratchpad clock, or is
sent again, is handled by its unit: without a line entry left it is refused; else the line has an entry, from 0 on where it had none; with the line's next number it is performed, with every held one
that then comes up in turn, in number order, and the entry freed by a LAST; outside the window of 65,536 it ends with SHAPE cause 6; else it is held in its stream's reserved entry, or a shared one, or refused. A
line whose numbers have stood still is freed, its atomics ending with SHAPE cause 7; a halted ADR word raises its trap. That an atomo travels as its own step and as a packet of its own is the model's
choice (log entries 32, 97), as is what an atomo of scratchpad does at a pending word (log entry 99). -/
def Obligations.OrderingUnitsPerformInNumberOrder : Prop :=
  ∀ (s : State) (t n : Nat) (a : Atomo) (q : SPend), let u := s.unitOf a.line; let b := { a with unit := u, reserved := false }
    let e := s.atomLines.get a.line; let E : AtomLine := if e.live then e else { live := true, next := 0, held := [] }
    let room := e.live = true ∨ s.linesOf u < unitLines u; let line := fun (from_ : State) (e : AtomLine) => { from_ with atomLines := from_.atomLines.set a.line e }
    let own := ∃ k, a.stream = some k ∧ ∀ x ∈ s.heldBy u, x.reserved = true → x.stream ≠ some k
    let shared := ((s.heldBy u).filter fun x => !x.reserved).length < unitShared u
    let arrives := fun (i : Instr) (from_ : State) =>
      (¬ room → exec i s = .next { from_ with refused := from_.refused ++ [b] }) ∧
      (room → a.q = E.next → (∀ x ∈ E.held, x.q ≠ a.q + 1) → ∃ v, exec i s = .next v ∧
        v.atomLines = from_.atomLines.set a.line (if a.last then default else { E with next := a.q + 1 }) ∧
        v.mem = (from_.performAtomo b).mem ∧ v.spad = (from_.performAtomo b).spad ∧
        ((s.thr a.thread).st = .running → (a.spad = true → s.pendingRead a.cluster a.core .adr a.pa a.size = none) → ∃ old, (v.thr a.thread).atomoOld = some old)) ∧
      (∀ cs : List Atomo, room → a.q = E.next → (∀ x ∈ cs, x ∈ E.held) → cs.map (fun x => x.q) = (List.range cs.length).map (fun j => a.q + 1 + j) →
        (E.held.map fun x => x.q).Nodup → (∀ x ∈ E.held, x.q ≠ a.q + 1 + cs.length) → (∀ x ∈ a :: cs, x.spad = false) → ∃ v, exec i s = .next v ∧
        v.atomLines = from_.atomLines.set a.line (if ∃ x ∈ a :: cs, x.last = true then default
          else { live := true, next := a.q + 1 + cs.length, held := E.held.filter fun x => x ∉ cs }) ∧
        v.mem = (cs.foldl State.performAtomo (from_.performAtomo b)).mem ∧ v.spad = s.spad) ∧
      (room → (a.q < E.next ∨ E.next + 65536 ≤ a.q) → ∃ v, exec i s = .next v ∧ v.atomLines = from_.atomLines.set a.line E ∧ v.mem = s.mem ∧ v.spad = s.spad ∧
        ((s.thr a.thread).st = .running → ∃ k, (v.thr a.thread).atomoFail = some k ∧ k.code = .shape ∧ k.estat = 6)) ∧
      (room → E.next < a.q → a.q < E.next + 65536 → (own → exec i s = .next (line from_ { E with held := E.held ++ [{ b with reserved := true }] })) ∧
        (¬ own → shared → exec i s = .next (line from_ { E with held := E.held ++ [b] })) ∧
        (¬ own → ¬ shared → exec i s = .next (line { from_ with refused := from_.refused ++ [b] } E)))
    ((s.atomo.find? fun b => b.thread == t) = some a → s.onWay (homeOf a.pa) (.atomo t) = true → exec (.atomoArrival t) s = .next s) ∧
    ((s.atomo.find? fun b => b.thread == t) = some a → s.onWay (homeOf a.pa) (.atomo t) = false →
      arrives (.atomoArrival t) { s with atomo := s.atomo.filter fun b => b.thread ≠ t }) ∧
    ((s.refused.find? fun b => b.thread == t) = some a → arrives (.atomoRetry t) { s with refused := s.refused.filter fun b => b.thread ≠ t }) ∧
    (s.spend[n]? = some q → q.act = .atomo a → q.due ≤ s.clk → s.spadFrozen q = false → arrives (.scratchpadWritePerform n) { s with spend := s.spend.eraseIdx n }) ∧
    (∀ line, (s.atomLines.get line).held ≠ [] → ∃ n, exec (.atomoLineStall line) s = .next n ∧ n.atomLines = s.atomLines.set line default ∧
      n.mem = s.mem ∧ n.spad = s.spad ∧ ∀ b ∈ (s.atomLines.get line).held, (s.thr b.thread).st = .running →
        ∃ i, (n.thr b.thread).atomoFail = some i ∧ i.code = .shape ∧ i.estat = 7) ∧
    (∀ i, (s.thr t).adrTrap = some i → (s.thr t).adrQuiet = true → (s.thr t).pend = none →
      exec (.adrFaultTrap t) s = .next ((s.modThr t fun th => { th with adrTrap := none }).raise t .adr i))

/-! ## VEC (chapter The Vector Engine) -/

/-- R337, R340, R351: each integer, permute and move word writes every active lane of vD and leaves the others; .wrap keeps the low 32 bits of the exact
result, .sat clamps it to the signed range and .satu to the unsigned range. -/
def Obligations.IntegerAndMoveWordsWriteTheirActiveLanes : Prop :=
  ∀ (s : State) (d a b : BitVec 5) (m k : BitVec 3) (t : BitVec 2), let th := s.me; let x := fun i => lane (th.rv a) i; let y := fun i => lane (th.rv b) i
    let in_ := fun (v : Word) => if t = 2 then (v.toNat : Int) else v.toInt
    let out := fun (v : Int) =>
      BitVec.ofInt 32 (if t = 1 then max (-2 ^ 31) (min (2 ^ 31 - 1) v) else if t = 2 then max 0 (min (2 ^ 32 - 1) v) else v)
    let put := fun (i : Instr) (f : Nat → Word) => Ends .vec i s fun u => s.rowIs u d fun j => if flag (th.rm m) j then f j else lane (th.rv d) j
    put (.vintAdd d a b m t) (fun j => out (in_ (x j) + in_ (y j))) ∧
    put (.vintSub d a b m t) (fun j => out (in_ (x j) - in_ (y j))) ∧
    put (.vintMul d a b m t) (fun j => out (in_ (x j) * in_ (y j))) ∧
    put (.vintMulh d a b m t) (fun j => out (in_ (x j) * in_ (y j) / 2 ^ 32)) ∧
    put (.vintMin d a b m t) (fun j => out (min (in_ (x j)) (in_ (y j)))) ∧
    put (.vintMax d a b m t) (fun j => out (max (in_ (x j)) (in_ (y j)))) ∧
    put (.vintAbs d a m t) (fun j => out |in_ (x j)|) ∧
    put (.vintNeg d a m t) (fun j => out (-in_ (x j))) ∧
    put (.vintAnd d a b m) (fun j => x j &&& y j) ∧
    put (.vintOr d a b m) (fun j => x j ||| y j) ∧
    put (.vintXor d a b m) (fun j => x j ^^^ y j) ∧
    put (.vintAndn d a b m) (fun j => x j &&& ~~~(y j)) ∧
    put (.vintShl d a b m) (fun j => x j <<< ((y j).toNat % 32)) ∧
    put (.vintShr d a b m) (fun j => x j >>> ((y j).toNat % 32)) ∧
    put (.vintSra d a b m) (fun j => (x j).sshiftRight ((y j).toNat % 32)) ∧
    put (.vpermIdx d a b m) (fun j => x ((y j).toNat % 128)) ∧
    put (.vpermRot d a b m) (fun j => x ((j + (y 0).toNat % 128) % 128)) ∧
    put (.vpermBc d a b m) (fun _ => x ((y 0).toNat % 128)) ∧
    put (.vmovSplat d a m) (fun _ => (th.rs .vec (a.setWidth 6)).setWidth 32) ∧
    put (.vmovMv d a m) x ∧
    put (.viotaIdx d m) (fun j => BitVec.ofNat 32 j) ∧
    put (.viotaCnt d k m) (fun j => BitVec.ofNat 32 ((List.range j).countP fun l => flag (th.rm k) l)) ∧
    (Ends .vec (.vsel d a b m) s fun u => s.rowIs u d fun j => if flag (th.rm m) j then x j else y j) ∧
    (Ends .vec (.vmovIns d a b) s fun u => s.rowIs u d fun j =>
      if j = (th.rs .vec (b.setWidth 6)).toNat % 128 then (th.rs .vec (a.setWidth 6)).setWidth 32 else lane (th.rv d) j)

/-- R341, R342, R344, R352, R51, R337: each floating word writes every active lane of vD with its rounded result, and its exceptions are kept and
checked as `FpEnds` says. -/
def Obligations.FloatingWordsRoundEachActiveLane : Prop :=
  ∀ (s : State) (d a b : BitVec 5) (m : BitVec 3), let th := s.me; let x := fun i => lane (th.rv a) i; let y := fun i => lane (th.rv b) i
    let z := fun i => lane (th.rv d) i; let r := th.mode
    let put := fun (i : Instr) (f : Nat → Word × Flags) => FpEnds i s (raisedBy (th.rm m) fun j => (f j).2) fun s' u =>
      s'.rowIs u d fun j => if flag (th.rm m) j then (f j).1 else lane (th.rv d) j
    put (.vfltAdd d a b m) (fun j => fAdd r (x j) (y j)) ∧
    put (.vfltSub d a b m) (fun j => fSub r (x j) (y j)) ∧
    put (.vfltMul d a b m) (fun j => fMul r (x j) (y j)) ∧
    put (.vfltDiv d a b m) (fun j => fDiv r (x j) (y j)) ∧
    put (.vfltMin d a b m) (fun j => fMinMax false (x j) (y j)) ∧
    put (.vfltMax d a b m) (fun j => fMinMax true (x j) (y j)) ∧
    put (.vfltAbs d a m) (fun j => if (f32 (x j)).isNan then (nan32, sigFlag (f32 (x j))) else (x j &&& 0x7FFFFFFF#32, 0)) ∧
    put (.vfltNeg d a m) (fun j => if (f32 (x j)).isNan then (nan32, sigFlag (f32 (x j))) else (x j ^^^ 0x80000000#32, 0)) ∧
    put (.vfmaFma d a b m) (fun j => fFma r false false (x j) (y j) (z j)) ∧
    put (.vfmaFms d a b m) (fun j => fFma r false true (x j) (y j) (z j)) ∧
    put (.vfmaFnma d a b m) (fun j => fFma r true false (x j) (y j) (z j)) ∧
    put (.vfmaFnms d a b m) (fun j => fFma r true true (x j) (y j) (z j)) ∧
    put (.vsfuExp2 d a m) (fun j => sfuExp2 r (x j)) ∧
    put (.vsfuLog2 d a m) (fun j => sfuLog2 r (x j)) ∧
    put (.vsfuRcp d a m) (fun j => sfuRcp r (x j)) ∧
    put (.vsfuRsqrt d a m) (fun j => sfuRsqrt r (x j)) ∧
    put (.vsfuSqrt d a m) (fun j => sfuSqrt r (x j)) ∧
    put (.vcvtFrom d a b m) (fun j => fromFmt (fmtOf b) (packedAt (th.rv a) (fmtOf b).width j))

/-- R343, R357: a compare writes bit i of mD for each active lane and 0 for the others, raising NV for a NaN as its kind asks; the mask operations write
mD from their masks; a write to m0 is discarded. -/
def Obligations.CompareAndMaskWordsWriteTheirMask : Prop :=
  ∀ (s : State) (d e f : BitVec 3) (a b : BitVec 5) (m : BitVec 3) (t : BitVec 2), let th := s.me; let x := fun i => lane (th.rv a) i
    let y := fun i => lane (th.rv b) i
    let in_ := fun (v : Word) => if t = 2 then (v.toNat : Int) else v.toInt
    let nan := fun j => (f32 (x j)).isNan || (f32 (y j)).isNan
    let lt := fun j => if t = 0 then valLt (f32 (x j)) (f32 (y j)) else decide (in_ (x j) < in_ (y j))
    let eq := fun j => if t = 0 then valEq (f32 (x j)) (f32 (y j)) else x j == y j
    let quiet := fun j => if t = 0 ∧ ((f32 (x j)).isSig = true ∨ (f32 (y j)).isSig = true) then flNV else 0
    let ordered := fun j => if t = 0 ∧ nan j = true then flNV else 0
    let put := fun (i : Instr) (r : Nat → Bool) (nv : Nat → Flags) =>
      FpEnds i s (raisedBy (th.rm m) nv) fun s' u => s'.maskIs u d fun j => flag (th.rm m) j && r j
    let mask := fun (i : Instr) (g : Mask → Mask → Mask) => Does .vec i s (s.modMe fun th => th.wm d (g (th.rm e) (th.rm f)))
    put (.vcmpEq d a b m t) eq quiet ∧
    put (.vcmpNe d a b m t) (fun j => !eq j) quiet ∧
    put (.vcmpLt d a b m t) lt ordered ∧
    put (.vcmpLe d a b m t) (fun j => lt j || eq j) ordered ∧
    put (.vcmpGt d a b m t) (fun j => !lt j && !eq j && !(decide (t = 0) && nan j)) ordered ∧
    put (.vcmpGe d a b m t) (fun j => !lt j && !(decide (t = 0) && nan j)) ordered ∧
    (t = 0 → put (.vcmpUn d a b m) nan quiet) ∧
    mask (.vmaskAnd d e f) (fun p q => p &&& q) ∧
    mask (.vmaskOr d e f) (fun p q => p ||| q) ∧
    mask (.vmaskXor d e f) (fun p q => p ^^^ q) ∧
    mask (.vmaskAndn d e f) (fun p q => p &&& ~~~q) ∧
    mask (.vmaskNot d e) (fun p _ => ~~~p) ∧
    mask (.vmaskMov d e) (fun p _ => p) ∧
    (Ends .vec (.vmaskFirst d e) s fun u => s.maskIs u d fun j => flag (th.rm e) j && (List.range j).all fun l => !flag (th.rm e) l)

/-- R344 to R348, R356, R338: the conversions, quantisations and draws; one that rounds with draws, and vrand, use the draw of each lane's number from the
top seed entry and count 128 draws. -/
def Obligations.ConversionsQuantiseAndDraw : Prop :=
  ∀ (s : State) (d a b : BitVec 5) (m : BitVec 3) (t : BitVec 2) (e : SeedEntry) (es : List SeedEntry), let th := s.me; let mk := th.rm m
    let x := fun i => lane (th.rv a) i; let f := fmtOf b; let dr := fun j => vecDraw e.key (e.vec.toNat + j)
    let mode := fun j => if t = 2 then RMode.sr (dr j) else if t = 1 then .rz else th.mode
    let seeded := th.seedBefore .vec = false ∧ th.seeds = e :: es
    let drawn := fun (s : State) => if t = 2 then s.modMe Thread.useDraws else s
    let lanes := fun (i : Instr) (g : Nat → Word × Flags) => FpEnds i s (raisedBy mk fun j => (g j).2) fun s' u =>
      (drawn s').rowIs u d fun j => if flag mk j then (g j).1 else lane (th.rv d) j
    let made := fun k => computedScale mk (th.rv a) b k
    let scale := fun (given : Bool) (j : Nat) => s20Val (if given then (lane (th.rv (d + 1)) (j / 32)).setWidth 20 else (made (j / 32)).1)
    let q := fun (given : Bool) (j : Nat) => toFmt f (mode j) (scaledDown (f32 (x j)) (scale given j))
    let qnt := fun (i : Instr) (given res : Bool) => d ≠ 31 → (given = true → givenBad mk (th.rv (d + 1)) = none) →
      FpEnds i s ((if given then 0 else ((made 0).2 ||| (made 1).2) ||| ((made 2).2 ||| (made 3).2)) ||| raisedBy mk fun j => (q given j).2) fun s' u =>
        ∃ r0 r1 r2 : Row, (drawn s').becomes u
            (let th := (drawn s').me.wv d r0; let th := if given then th else th.wv (d + 1) r1; if res then th.wv a r2 else th) ∧
          (r0.toNat < 2 ^ (128 * f.width) ∧ ∀ j < 128, packedAt r0 f.width j = if flag mk j then (q given j).1 % 2 ^ f.width else 0) ∧
          (given = false → ∀ j < 128, lane r1 j = if j < 4 then (made j).1.setWidth 32 else lane (th.rv (d + 1)) j) ∧
          (a ≠ d → a ≠ d + 1 ∨ given = true → ∀ j < 128, lane r2 j = if flag mk j then residual f (f32 (x j)) (scale given j) (q given j).1 else x j)
    let up := fun (acc : Bool) (j : Nat) => match scaledUp (fmtVal f (packedAt (th.rv a) f.width j)) (s20Val ((lane (th.rv (a + 1)) (j / 32)).setWidth 20)) with
      | none => (nan32, flNV)
      | some v => if acc then addVal th.mode (f32 (lane (th.rv d) j)) v else roundVal th.mode v
    let dqnt := fun (i : Instr) (acc : Bool) => a ≠ 31 → givenBad mk (th.rv (a + 1)) = none →
      FpEnds i s (raisedBy mk fun j => (up acc j).2) fun s' u => s'.rowIs u d fun j => if flag mk j then (up acc j).1 else lane (th.rv d) j
    let rand := fun (i : Instr) (g : BitVec 32 → Word) => seeded → Ends .vec i s fun u =>
      (s.modMe Thread.useDraws).rowIs u d fun j => if flag mk j then g (dr j) else lane (th.rv d) j
    ((t = 2 → seeded) →
      (FpEnds (.vcvtTo d a b m t) s (raisedBy mk fun j => (toFmt f (mode j) (f32 (x j))).2) fun s' u =>
        (drawn s').packedIs u d f.width fun j => if flag mk j then (toFmt f (mode j) (f32 (x j))).1 % 2 ^ f.width else 0) ∧
      lanes (.vcvtF2i d a m t) (fun j => (BitVec.ofNat 32 (toIntFmt 32 true (mode j) (f32 (x j))).1, (toIntFmt 32 true (mode j) (f32 (x j))).2)) ∧
      lanes (.vcvtI2f d a m t) (fun j => intToF32 (mode j) (x j).toInt) ∧
      lanes (.vcvtU2f d a m t) (fun j => intToF32 (mode j) (x j).toNat) ∧
      qnt (.vqntC d a b m t) false false ∧ qnt (.vqntCr d a b m t) false true ∧ qnt (.vqntG d a b m t) true false ∧ qnt (.vqntGr d a b m t) true true) ∧
    dqnt (.vdqnt d a b m) false ∧ dqnt (.vdqntAcc d a b m) true ∧
    rand (.vrandU d m) (fun v => v) ∧ rand (.vrandF d m) uniform32

/-- R349, R350: over integers (TY 1 signed, TY 2 unsigned) a reduction gives the sum modulo 2^32, the extreme, or the lowest lane of the extreme, of the
active lanes, and with none of them its stated value; a scan gives each active lane that of the active lanes up to it, or before it. Over FP32 (TY 0) an extreme is that of
the active lanes that are no NaN, −0 below +0, NV being raised for a signalling NaN; a sum is rounded once at each step of the tree of R349, or of the scan of R350, and raises what its steps raise. -/
def Obligations.IntegerReductionsAndScansAreExact : Prop :=
  ∀ (s : State) (d a : BitVec 5) (m : BitVec 3) (t : BitVec 2), let th := s.me; let x := fun i => lane (th.rv a) i
    let in_ := fun (v : Word) => if t = 2 then (v.toNat : Int) else v.toInt
    let on := fun (n : Nat) => (List.range n).filter fun j => flag (th.rm m) j
    let sum := fun (n : Nat) (v : Word) => v = ((on n).map x).sum
    let ext := fun (le : Int → Int → Prop) (none_ : Word) (n : Nat) (v : Word) =>
      (on n = [] → v = none_) ∧ (on n ≠ [] → (∃ j ∈ on n, x j = v) ∧ ∀ j ∈ on n, le (in_ (x j)) (in_ v))
    let arg := fun (le : Int → Int → Prop) (v : Word) => (on 128 = [] → v = 0xFFFFFFFF#32) ∧
      (on 128 ≠ [] → v.toNat ∈ on 128 ∧ (∀ j ∈ on 128, le (in_ (x j)) (in_ (x v.toNat))) ∧ ∀ j ∈ on 128, j < v.toNat → x j ≠ x v.toNat)
    let hi := ext (· ≤ ·) (if t = 1 then 0x80000000#32 else 0); let lo := ext (· ≥ ·) (if t = 1 then 0x7FFFFFFF#32 else 0xFFFFFFFF#32)
    let red := fun (i q : Instr) (P : Word → Prop) =>
      (Ends .vec i s fun u => ∃ v, P v ∧ s.rowIs u d fun j => if j = 0 then v else lane (th.rv d) j) ∧
      (th.qlen 6 < 16 → Ends .vec q s fun u => ∃ v, P v ∧ s.becomes u (th.pushS 6 (v.setWidth 64)))
    let scan := fun (i : Instr) (excl : Bool) (P : Nat → Word → Prop) => Ends .vec i s fun u => ∃ g : Nat → Word, s.rowIs u d g ∧
      ∀ j < 128, if flag (th.rm m) j then P (if excl then j else j + 1) (g j) else g j = lane (th.rv d) j
    let redF := fun (i q : Instr) (fl : Flags) (P : Word → Prop) =>
      FpEnds i s fl (fun s' u => ∃ v, P v ∧ s'.rowIs u d fun j => if j = 0 then v else lane (th.rv d) j) ∧
      (th.qlen 6 < 16 → FpEnds q s fl fun s' u => ∃ v, P v ∧ s'.becomes u (s'.me.pushS 6 (v.setWidth 64)))
    let scanF := fun (i : Instr) (excl : Bool) (fl : Flags) (P : Nat → Word → Prop) => FpEnds i s fl fun s' u => ∃ g : Nat → Word, s'.rowIs u d g ∧
      ∀ j < 128, if flag (th.rm m) j then P (if excl then j else j + 1) (g j) else g j = lane (th.rv d) j
    let real := fun (n : Nat) => (on n).filter fun j => !(f32 (x j)).isNan; let sigs := raisedBy (th.rm m) fun j => sigFlag (f32 (x j))
    let extF := fun (worse : Word → Word → Bool) (n : Nat) (v : Word) =>
      (real n = [] → v = nan32) ∧ (real n ≠ [] → (∃ j ∈ real n, x j = v) ∧ ∀ j ∈ real n, worse v (x j) = false)
    let argF := fun (worse : Word → Word → Bool) (v : Word) => (real 128 = [] → v = 0xFFFFFFFF#32) ∧
      (real 128 ≠ [] → v.toNat ∈ real 128 ∧ (∀ j ∈ real 128, worse (x v.toNat) (x j) = false) ∧ ∀ j ∈ real 128, j < v.toNat → x j ≠ x v.toNat)
    let below := fun (a b : Word) => valBelow (f32 a) (f32 b); let above := fun (a b : Word) => valBelow (f32 b) (f32 a)
    let join := fun (a b : Option Word) => match a, b with
      | some a, some b => (some (fAdd th.mode a b).1, (fAdd th.mode a b).2) | some a, none => (some a, 0) | none, b => (b, 0)
    let leaf := fun j => if flag (th.rm m) j then some (x j) else none
    let out := fun (v : Option Word) => match v with | none => 0 | some v => if (f32 v).isNan then nan32 else v
    let all := fun (fs : List Flags) => fs.foldl (fun a f => a ||| f) 0
    (t = 0 → redF (.vredMax d a m t) (.vredMaxQ a m t) sigs (extF below 128) ∧ redF (.vredMin d a m t) (.vredMinQ a m t) sigs (extF above 128) ∧
      redF (.vredArgmax d a m t) (.vredArgmaxQ a m t) sigs (argF below) ∧ redF (.vredArgmin d a m t) (.vredArgminQ a m t) sigs (argF above) ∧
      scanF (.vscanMax d a m t) false sigs (extF below) ∧ scanF (.vscanMin d a m t) false sigs (extF above) ∧
      scanF (.vscanMaxX d a m t) true sigs (extF below) ∧ scanF (.vscanMinX d a m t) true sigs (extF above) ∧
      (∃ (node : Nat → Nat → Option Word) (fl : Nat → Nat → Flags), (∀ j, node 0 j = leaf j) ∧
        (∀ k j, (node (k + 1) j, fl (k + 1) j) = join (node k (2 * j)) (node k (2 * j + 1))) ∧
        redF (.vredSum d a m t) (.vredSumQ a m t) (all ((List.range 7).flatMap fun k => (List.range (2 ^ (6 - k))).map (fl (k + 1)))) (· = out (node 7 0))) ∧
      ∃ (acc : Nat → Option Word) (fl : Nat → Flags), acc 0 = none ∧
        (∀ j, (acc (j + 1), fl j) = if flag (th.rm m) j then join (acc j) (leaf j) else (acc j, 0)) ∧
        scanF (.vscanSum d a m t) false (all ((List.range 128).map fl)) (fun n v => v = out (acc n)) ∧
        scanF (.vscanSumX d a m t) true (all ((List.range 128).map fl)) (fun n v => v = out (acc n))) ∧
    (t = 1 ∨ t = 2 →
    red (.vredSum d a m t) (.vredSumQ a m t) (sum 128) ∧ red (.vredMax d a m t) (.vredMaxQ a m t) (hi 128) ∧
    red (.vredMin d a m t) (.vredMinQ a m t) (lo 128) ∧ red (.vredArgmax d a m t) (.vredArgmaxQ a m t) (arg (· ≤ ·)) ∧
    red (.vredArgmin d a m t) (.vredArgminQ a m t) (arg (· ≥ ·)) ∧
    scan (.vscanSum d a m t) false sum ∧ scan (.vscanMax d a m t) false hi ∧ scan (.vscanMin d a m t) false lo ∧
    scan (.vscanSumX d a m t) true sum ∧ scan (.vscanMaxX d a m t) true hi ∧ scan (.vscanMinX d a m t) true lo)

/-- R358, R349, R351, R355, R357, R162: the words of VEC that push or pop a queue, each where its queue has room or an entry, and its wait where not. vcomp writes the chosen dense
rows, and then, row by row, their positions into the metadata string, so that where vD and vB overlap the later write of a bit stands. -/
def Obligations.QueueWordsOfVec : Prop :=
  ∀ (s : State) (d a b : BitVec 5) (e m : BitVec 3) (n : BitVec 4) (t : BitVec 2), let th := s.me
    let take := fun (i : Instr) (q : Nat) => (∀ r rest, th.qr.get q = r :: rest → Ends .vec i s fun u =>
        (s.modMe fun th => th.dropR q).rowIs u d fun j => if flag (th.rm m) j then lane r j else lane (th.rv d) j) ∧
      (th.qr.get q = [] → Waits .vec i s (.popEmpty q))
    let give := fun (i : Instr) (q : Nat) => (th.qlen q < 8 → Ends .vec i s fun u => ∃ r, s.becomes u (th.pushR q r) ∧
        ∀ j < 128, lane r j = if flag (th.rm m) j then lane (th.rv a) j else 0) ∧
      (8 ≤ th.qlen q → Waits .vec i s (.pushFull q))
    let push := fun (i : Instr) (v : Dword) => (th.qlen 6 < 16 → Does .vec i s (s.modMe fun th => th.pushS 6 v)) ∧ (16 ≤ th.qlen 6 → Waits .vec i s (.pushFull 6))
    let big := 4 * 2 ^ t.toNat; let bitsOf := t.toNat + 2; let keep := fun j => chosen n.toNat ((List.range big).map fun k => field (lane (th.v.get (a.toNat + k)) j) 0 31)
    take (.vqin d m) 2 ∧ take (.vqinQ5 d m) 5 ∧ give (.vqout a m) 3 ∧ give (.vqoutQ11 a m) 11 ∧
    (∀ v rest, th.qs.get 7 = v :: rest → Ends .vec (.vqinS d m) s fun u =>
      (s.modMe fun th => th.dropS 7).rowIs u d fun j => if flag (th.rm m) j then v.setWidth 32 else lane (th.rv d) j) ∧
    (th.qs.get 7 = [] → Waits .vec (.vqinS d m) s (.popEmpty 7)) ∧
    push (.vmaskCnt e) (BitVec.ofNat 64 ((List.range 128).countP fun j => flag (th.rm e) j)) ∧
    push (.vmovExt a b) ((lane (th.rv a) ((th.rs .vec (b.setWidth 6)).toNat % 128)).setWidth 64) ∧
    (∀ q rest, th.qs.get 7 = q :: rest → a.toNat + big ≤ 32 → d.toNat + n.toNat ≤ 32 → b.toNat + 4 ≤ 32 →
      bits q 8 56 = 0 → (field q 0 8 + 1) * n.toNat * bitsOf ≤ 128 → 1 ≤ n.toNat → n.toNat ≤ 2 ^ (t.toNat + 1) →
      Ends .vec (.vcomp d a b m n t) s fun u => s.becomes u { th.dropS 7 with v := u.me.v } ∧
        ∀ j < 128, ∀ r < 32,
          let dense := d.toNat ≤ r ∧ r < d.toNat + n.toNat; let k := r - d.toNat
          let was := if dense then lane (th.v.get (a.toNat + (keep j).getD k 0)) j else lane (th.v.get r) j
          (flag (th.rm m) j = false → lane (u.me.v.get r) j = lane (th.v.get r) j) ∧
          (flag (th.rm m) j = true → ∀ l < 32, let at_ := 32 * (r - b.toNat) + l; let entry := at_ / bitsOf - field q 0 8 * n.toNat
            (lane (u.me.v.get r) j).getLsbD l =
              if b.toNat ≤ r ∧ r < b.toNat + 4 ∧ field q 0 8 * n.toNat ≤ at_ / bitsOf ∧ entry < n.toNat ∧ (dense → k ≤ entry) then
                ((keep j).getD entry 0).testBit (at_ % bitsOf)
              else was.getLsbD l))

/-! ## MAT (chapter The Matrix Engine) -/

/-- R363 to R366, R374: a tile command whose checks all pass (its format word at the head of q0, its handles, both headers, both phase sets, its seed; `w` is what a command that had to wait has found
before, which is not looked at again) is
recorded in the open batch and has popped its format word (which stands with a command that had to wait); with CB = 1, and room for a batch and a scoreboard
entry, it also commits the batch, at once or after the wait for that room; while its header has not come it waits with what it has found; mcommit commits
what is open; mwait ends once at most N batches run, mwait.acc once no command names the accumulator. -/
def Obligations.TileCommandsAreRecordedAndCommitted : Prop :=
  ∀ (s s0 sf s1 s2 : State) (k n2 : BitVec 2) (a b : BitVec 6) (v : BitVec 5) (c e : BitVec 1) (n : BitVec 3) (fw : Dword) (rest : List Dword) (w : TileWait)
    (ta tb : Nat × TileHdr), let th := s.me; let xa := s.handles.get (handleKey th.cluster a.toNat); let xb := s.handles.get (handleKey th.cluster b.toNat)
    let regs := if fwClass fw = 1 then th.v.getRange v.toNat ((fwT fw * idxBits fw + 31) / 32) else []
    let cmd := fun (op : BitVec 5) (ck : Bool) (k1 : Nat) =>
      ({ op := op, acc := k.toNat, fw := fw, ha := a.toNat, hb := b.toNat, baseA := ta.1, baseB := tb.1, hdrA := ta.2, hdrB := tb.2,
         mdat := w.regs, ck := ck, k := k1, seed := s2.me.seeds.length - 1, pc := s2.me.pc .mat,
         spoilt := false } : MatCmd)
    let forms := fun (op v : Nat) (ck : Bool) (k1 : Nat) =>
      th.commitWait = false ∧ (th.fmtHeld = none ∧ th.qs.get 0 = fw :: rest ∧ s0 = s.modMe (fun th => { th.dropS 0 with fmtHeld := some fw }) ∨
        th.fmtHeld = some fw ∧ th.qs.get 0 = rest ∧ s0 = s) ∧
      (th.tileAt = some w ∧ sf = s0 ∨
        th.tileAt = none ∧ w = { regs := regs, a := none, b := none, phased := false } ∧ sf = s0.modMe (fun th => { th with tileAt := some w }) ∧
        fwOk fw v = true ∧ (if op = 4 then fwClass fw = 0 ∨ fwClass fw = 3 else fwClass fw = op) ∧
        (3 ≤ op → fwFC fw = 0 ∧ fwSC fw = 0) ∧ (ck = true → fwFC fw = 0) ∧ (op = 4 → k1 ≤ fwN fw) ∧ (op = 1 → metaOk fw regs = true) ∧
        th.batch.length < 32 ∧ xa.owner = th.gang + 1 ∧ xb.owner = th.gang + 1 ∧ xa.st ≠ .free ∧ xb.st ≠ .free)
    let passes := fun (op v : Nat) (ck : Bool) (k1 : Nat) => forms op v ck k1 ∧
      matHeader sf false a w fw = .ok (ta, s1) ∧ matHeader s1 true b w fw = .ok (tb, s2) ∧
      (w.phased = true ∨ s2.phaseCheck s2.cur .mat ta.1 ta.2.tsz false = none ∧ s2.phaseCheck s2.cur .mat tb.1 tb.2.tsz false = none) ∧
      (fwRND fw = 2 → s2.me.seedBefore .mat = false ∧ s2.me.seeds ≠ [])
    let commits := fun (from_ u : State) (cs : List MatCmd) => ∃ bt, u.me.batches = from_.me.batches ++ [bt] ∧ bt.cmds = cs ∧ bt.bn = from_.me.bn ∧
      bt.started = false ∧ bt.since = from_.clk ∧ u.me.batch = [] ∧ u.me.bn = from_.me.bn + 1 ∧ u.me.acc = from_.me.acc ∧ u.mem = from_.mem ∧ u.spad = from_.spad
    let tile := fun (i : Instr) (op : BitVec 5) (v : Nat) (ck : Bool) (k1 : Nat) =>
      (passes op.toNat v ck k1 →
        (e = 0 → Does .mat i s (s2.modMe fun th => { th with batch := th.batch ++ [cmd op ck k1], tileAt := none, fmtHeld := none })) ∧
        (e = 1 → s2.me.batches.length < 4 → s2.me.sbFree ≠ none → Ends .mat i s fun u =>
          u.me.qs.get 0 = rest ∧ u.me.fmtHeld = none ∧ u.me.tileAt = none ∧ commits s2 u (s2.me.batch ++ [cmd op ck k1])) ∧
        (e = 1 → 4 ≤ s2.me.batches.length → exec i s = .next (State.holdWord
          (s2.modMe fun th => { th with batch := th.batch ++ [cmd op ck k1], tileAt := none, commitWait := true }) .mat .outside))) ∧
      (forms op.toNat v ck k1 → w.a = none → xa.wp < 64 → xa.st ≠ .full → xa.st ≠ .draining → xa.st ≠ .aborted →
        exec i s = .next (sf.holdWord .mat .outside)) ∧
      (th.commitWait = true → th.batches.length < 4 → th.sbFree ≠ none → Ends .mat i s fun u => u.me.commitWait = false ∧ commits s u th.batch)
    tile (.mma k a b c e) 0 0 (c == 1) 1 ∧ tile (.mmas k a b v c e) 1 v.toNat (c == 1) 1 ∧ tile (.mmat k a b c e) 2 0 (c == 1) 1 ∧
    tile (.mdist k a b e) 3 0 false 1 ∧ tile (.mtopk k a b e n) 4 0 false (n.toNat + 1) ∧
    (th.batch = [] → Does .mat .mcommit s s) ∧
    (th.batch ≠ [] → th.batches.length < 4 → th.sbFree ≠ none → Ends .mat .mcommit s fun u => commits s u th.batch) ∧
    (th.batches.length ≤ n2.toNat → Does .mat (.mwait n2) s s) ∧ (n2.toNat < th.batches.length → Waits .mat (.mwait n2) s .outside) ∧
    ((∀ x ∈ th.batch, x.acc ≠ k.toNat) → (∀ y ∈ th.batches, ∀ x ∈ y.cmds, x.acc ≠ k.toNat) → Does .mat (.mwaitAcc k) s s)

/-- R376 to R379, R375, R42, R52: the words that move accumulators, for one that no recorded or running command names: mzero; an mload or mstore, which holds MAT while each clock of
the matrix engine (`moveClock`) reads or writes one row, an mstore's in its format with latency 12, and ends once all have moved (an mload with checksums then requires KIND 0, one without
computes them, R377); and mrd and mwr with room or entries for every row that remains; row i of an accumulator is its i-th. -/
def Obligations.AccumulatorMovesMoveTheirRows : Prop :=
  ∀ (s : State) (t p : Nat) (k : BitVec 2) (v : BitVec 5) (c i : BitVec 1) (f : BitVec 3) (mv : MatMove) (rs rest : List Row), let th := s.me
    let free := (∀ x ∈ th.batch, x.acc ≠ k.toNat) ∧ ∀ y ∈ th.batches, ∀ x ∈ y.cmds, x.acc ≠ k.toNat
    let row := fun (th : Thread) (j l : Nat) => th.acc.get (128 * j + l)
    let op := th.rs .mat (v.setWidth 6); let first := field op 0 7; let count := field op 8 7 + 1; let n := th.mat.pushed
    let span := flag op 7 = false ∧ bits op 15 49 = 0 ∧ first + count ≤ 128 ∧ n < count
    let moved := fun (u : State) =>
      { th with acc := u.me.acc, rck := u.me.rck, cck := u.me.cck, accSt := u.me.accSt, qr := u.me.qr, mat := u.me.mat, move := u.me.move }
    let others := fun (u : State) => s.becomes u (moved u) ∧
      (∀ j, j ≠ k.toNat → (∀ l < 128, row u.me j l = row th j l) ∧ u.me.rck.get j = th.rck.get j ∧ u.me.cck.get j = th.cck.get j ∧
        u.me.accSt.get j = th.accSt.get j)
    let reads := fun (i : Instr) (g : Nat → Nat → Word) => free → span → th.qlen 5 + (count - n) ≤ 8 → Ends .mat i s fun u =>
      u.me.acc = th.acc ∧ u.me.mat = default ∧ (∀ q, q ≠ 5 → u.me.qr.get q = th.qr.get q) ∧ (u.me.qr.get 5).length = th.qlen 5 + (count - n) ∧
      (u.me.qr.get 5).take (th.qlen 5) = th.qr.get 5 ∧
      ∀ l < count - n, ∀ j < 128, lane ((u.me.qr.get 5).getD (th.qlen 5 + l) 0) j = g (first + n + l) j
    let writes := fun (i_ : Instr) (g : Nat → Nat → Option Word) => free → span → th.qr.get 11 = rs ++ rest → rs.length = count - n → Ends .mat i_ s fun u =>
      others u ∧ u.me.mat = default ∧ u.me.qr.get 11 = rest ∧ (u.me.accSt.get k.toNat).kindInt = (i == 1) ∧ (u.me.accSt.get k.toNat).ckvOff = true ∧
      ∀ l < 128, ∀ j < 128, lane (row u.me k.toNat l) j = (g l j).getD (lane (row th k.toNat l) j)
    let within := fun l => first + n ≤ l ∧ l < first + count
    let begins := fun (w : Instr) (m : MatMove) (len : Nat) (write : Bool) => free → th.move = none → field op 0 4 = 0 →
      s.spadOperand s.cur .mat op len { code := .shape, estat := 6, addr := op } = .ok p → s.phaseCheck s.cur .mat p len write = none →
      exec w s = .next (State.holdWord (s.modMe fun th => { th with move := some { m with base := p } }) .mat .outside)
    let fresh := fun (load ck : Bool) (fl : Nat) => ({ load := load, acc := k.toNat, base := 0, ck := ck, fl := fl, row := 0, got := [], touched := false } : MatMove)
    let size := if mv.fl = 0 then 4 else if mv.fl ≤ 2 then 2 else 1; let x := s.thr t; let at_ := mv.base + 512 * mv.row
    let to_ := mv.base + if mv.row < 128 then 128 * size * mv.row else 65536 + 512 * (mv.row - 128)
    let el := fun (w : Word) => if mv.fl = 0 then w.toNat else
      (toFloatFmt (if mv.fl = 1 then bf16 else if mv.fl = 2 then fp16 else if mv.fl = 3 then e4m3 else e5m2) .rne (f32 w)).1 % 2 ^ (8 * size)
    let moving := x.move = some mv ∧ mv.row < (if mv.ck then 130 else 128)
    begins (.mload k v c i) (fresh true (c == 1) i.toNat) (if c = 1 then 66560 else 65536) false ∧
    ((f = 0 ∨ c = 0 ∧ (th.accSt.get k.toNat).kindInt = false) → begins (.mstore k v c f) (fresh false (c == 1) f.toNat)
      (if c = 1 then 66560 else 16384 * (if f = 0 then 4 else if f.toNat ≤ 2 then 2 else 1)) true) ∧
    (moving → mv.load = true → s.ownUnperformed t .mat at_ 512 = false → s.pendingRead x.cluster (x.core % 4) .mat at_ 512 = none →
      s.moveClock t = State.modThr (if s.spadPoison x.cluster at_ 512 then s.taint t .mat 0x51 else s) t fun th =>
        { th with move := some { mv with row := mv.row + 1, got := mv.got ++ [rowOfBytes (s.spadBytes x.cluster at_ 512)] } }) ∧
    (moving → mv.load = false → ∃ bs : List Byte, s.moveClock t = (s.spadIssue t .mat to_ bs 12).modThr t (fun th =>
        { th with move := some { mv with row := mv.row + 1 } }) ∧
      (mv.row < 128 → bs.length = 128 * size ∧ ∀ j < 128, leNat ((bs.drop (size * j)).take size) = el (lane (row x mv.acc mv.row) j)) ∧
      (mv.row = 128 → bs = rowBytes (x.rck.get mv.acc)) ∧ (mv.row = 129 → bs = rowBytes (x.cck.get mv.acc))) ∧
    (free → Ends .mat (.mzero k) s fun u => others u ∧ (∀ l < 128, row u.me k.toNat l = 0) ∧ u.me.rck.get k.toNat = 0 ∧ u.me.cck.get k.toNat = 0 ∧
      u.me.accSt.get k.toNat = default) ∧
    (th.move = some mv → mv.load = true → mv.acc = k.toNat → mv.got.length = mv.row → mv.row = (if mv.ck then 130 else 128) → (mv.ck = true → mv.fl ≠ 1) →
      Ends .mat (.mload k v c i) s fun u =>
      others u ∧ u.me.move = none ∧ (∀ l < 128, row u.me k.toNat l = mv.got.getD l 0) ∧ (u.me.accSt.get k.toNat).kindInt = (mv.fl == 1) ∧
      (u.me.accSt.get k.toNat).ckvOff = (mv.fl == 1) ∧ (u.me.accSt.get k.toNat).loc = .none ∧
      (mv.ck = true → u.me.rck.get k.toNat = mv.got.getD 128 0 ∧ u.me.cck.get k.toNat = mv.got.getD 129 0) ∧
      (mv.ck = false → mv.fl = 1 → u.me.rck.get k.toNat = th.rck.get k.toNat ∧ u.me.cck.get k.toNat = th.cck.get k.toNat) ∧
      (mv.ck = false → mv.fl ≠ 1 → ∀ l < 128, lane (u.me.rck.get k.toNat) l = sumCheck (rowWords (mv.got.getD l 0)) ∧
        lane (u.me.cck.get k.toNat) l = sumCheck (mv.got.map fun r => lane r l))) ∧
    (th.move = some mv → mv.load = true → mv.row = 130 → mv.ck = true → mv.fl = 1 → ∃ x : TrapInfo, x.code = .shape ∧ x.estat = 9 ∧
      exec (.mload k v c i) s = .next (State.raise (s.modMe fun th => { th with move := none }) s.cur .mat x)) ∧
    (th.move = some mv → mv.load = false → mv.row = (if mv.ck then 130 else 128) →
      Ends .mat (.mstore k v c f) s fun u => s.becomes u { th with move := none }) ∧
    reads (.mrdRow k v) (fun l j => lane (row th k.toNat l) j) ∧ reads (.mrdCol k v) (fun l j => lane (row th k.toNat j) l) ∧
    writes (.mwrRow k v i) (fun l j => if within l then some (lane (rs.getD (l - first - n) 0) j) else none) ∧
    writes (.mwrCol k v i) (fun l j => if within j then some (lane (rs.getD (j - first - n) 0) l) else none)

/-- R379 to R381: the words on checksum vectors: mrd and mwr of one, mcks, which reports 5 when there is none to check and else its findings, and mfix,
which mends what mcks located and clears it. -/
def Obligations.ChecksumWordsReadWriteCheckAndMend : Prop :=
  ∀ (s : State) (k : BitVec 2) (v : BitVec 5) (r : Row) (rest : List Row), let th := s.me; let x := th.accSt.get k.toNat
    let free := (∀ x ∈ th.batch, x.acc ≠ k.toNat) ∧ ∀ y ∈ th.batches, ∀ x ∈ y.cmds, x.acc ≠ k.toNat
    let op := th.rs .mat (v.setWidth 6); let found := checkTile (field op 0 8) (if field op 8 8 = 255 then ⟨0, 1⟩ else ⟨1, 2 ^ field op 8 8⟩) (th.tile k.toNat)
    let row := fun (th : Thread) (l : Nat) => th.acc.get (128 * k.toNat + l)
    let noLoc := th.accSt.mod k.toNat fun x => { x with loc := .none }
    let marked := th.accSt.mod k.toNat fun x => { x with loc := found.2 }
    let given := th.accSt.mod k.toNat fun x => { x with ckvOff := false, loc := .none }
    free →
    (th.qlen 5 < 8 → Does .mat (.mrdRck k) s (s.modMe fun th => th.pushR 5 (th.rck.get k.toNat))) ∧
    (th.qlen 5 < 8 → Does .mat (.mrdCck k) s (s.modMe fun th => th.pushR 5 (th.cck.get k.toNat))) ∧
    (th.qr.get 11 = r :: rest → Does .mat (.mwrRck k) s (s.modMe fun th => { th.dropR 11 with rck := th.rck.set k.toNat r, accSt := given })) ∧
    (th.qr.get 11 = r :: rest → Does .mat (.mwrCck k) s (s.modMe fun th => { th.dropR 11 with cck := th.cck.set k.toNat r, accSt := given })) ∧
    (bits op 16 48 = 0 → field op 0 8 ≤ 31 → (field op 8 8 ≤ 149 ∨ field op 8 8 = 255) → th.qlen 5 < 8 →
      ((x.kindInt = true ∨ x.ckvOff = true) → Ends .mat (.mcks k v) s fun u => ∃ q, s.becomes u (th.pushR 5 q) ∧ lane q 0 = 5 ∧ lane q 1 = 0xFFFFFFFF#32 ∧
        lane q 2 = 0xFFFFFFFF#32 ∧ ∀ l < 128, 3 ≤ l → lane q l = 0) ∧
      (x.kindInt = false → x.ckvOff = false → Ends .mat (.mcks k v) s fun u =>
        s.becomes u { th.pushR 5 found.1 with accSt := marked })) ∧
    (Ends .mat (.mfix k) s fun u => s.becomes u { th with acc := u.me.acc, rck := u.me.rck, cck := u.me.cck, accSt := noLoc } ∧
      (x.loc = .none → ∀ l < 128, row u.me l = row th l) ∧
      (∀ i j, x.loc = .cell i j → i < 128 → j < 128 → ∀ l < 128, ∀ m < 128, lane (row u.me l) m = if l = i ∧ m = j then
        (round32 .rne (FracOps.sub (f32 (lane (th.rck.get k.toNat) i)).frac (sumWords (((List.range 128).filter fun n => n ≠ j).map fun n => lane (row th i) n)))
          false).1 else lane (row th l) m) ∧
      (∀ i, x.loc = .row i → i < 128 → (∀ l < 128, row u.me l = row th l) ∧ ∀ m < 128, lane (u.me.rck.get k.toNat) m =
        if m = i then sumCheck (rowWords (row th i)) else lane (th.rck.get k.toNat) m) ∧
      (∀ j, x.loc = .col j → j < 128 → (∀ l < 128, row u.me l = row th l) ∧ ∀ m < 128, lane (u.me.cck.get k.toNat) m =
        if m = j then sumCheck ((List.range 128).map fun l => lane (row th l) j) else lane (th.cck.get k.toNat) m))

/-! ## XFR (chapter Buffer Handles and the Copy Engine) -/

/-- R316, R317, R320, R324, R328 to R332: each copy word whose operands pass its checks, whose handle is its gang's or free and is ready, and that finds a
free scoreboard entry, is accepted: it binds its handle to the range, takes the entry, and its copy stands issued. A packing form of an MX tile has the
address of its scales at the head of q4 and pops it with its acceptance: `popped` is s without it. -/
def Obligations.CopyWordsAreAccepted : Prop :=
  ∀ (s : State) (h a : BitVec 6) (n : BitVec 3) (dir : BitVec 4) (b d i : Nat) (scale : Option Nat), let th := s.me; let cl := th.cluster
    let x := fun k => s.xs a k; let D := th.slotDesc n; let hd := s.handle cl h.toNat
    let ready := hd.foreign th.gang = false ∧ hd.ready = true ∧ th.sbFree ≠ none
    let quiet := fun (at_ len : Nat) (write : Bool) => s.phaseCheck s.cur .xfr at_ len write = none
    let takes := fun (w : Instr) (from_ : State) (op : BitVec 5) (base len : Nat) (P : Copy → Prop) =>
      Ends .xfr w s fun u => Bound s u h base len ∧ ∃ c : Copy, P c ∧ c.handle = h.toNat ∧ c.cluster = cl ∧ Accepted from_ u .xfr op (h.setWidth 32) (.copy c)
    let lines := fun (src dst : Port) (line len : Nat) (home : Bool) (c : Copy) => c.units = lineMoves src dst line len ∧ c.atHome = home ∧ c.halo = 0
    let c4 := pairOf (x 0) ++ pairOf (x 1) ++ [0]; let B := D.boxBytes; let len := (x 2).toNat; let rows := (x 2).toNat * D.rowBytes
    let box := unusedZero D c4 = true ∧ B ≤ 2 ^ 23 ∧ 1 ≤ D.rank ∧ D.rank ≤ 4 ∧ xfrPlace s (x 2) B true = .ok b ∧ b % 16 = 0 ∧ s.layoutGate D = .ok ()
    let pack := fun (fmt : Nat) => packPlace s (x 2) (x 3) fmt = .ok d ∧ packScales s (x 2) = .ok scale ∧ (pkMx (x 2) = true → scale ≠ none) ∧
      scalePhase s (x 2) scale = .ok () ∧ quiet d (pkTsz (x 2) fmt) true
    let popped := if pkMx (x 2) then s.modMe fun th => th.dropS 4 else s
    let packed := fun (fmt : Nat) (c : Copy) => c.packWord = x 2 ∧ c.packFmt = BitVec.ofNat 5 fmt
    let slot := unusedZero D c4 = true ∧ 2 ≤ D.rank ∧ D.rank ≤ 4 ∧ pack D.fmt ∧ s.layoutGate D = .ok ()
    let scat := fun (w : Instr) (comb : Nat) => ready → (3 ≤ D.rank ∨ field (x 0) 32 32 = 0) → 1 ≤ len → len ≤ 65536 → rows ≤ 2 ^ 23 → 2 ≤ D.rank →
      D.rank ≤ 4 → (comb ≠ 0 → combineOk D.fmt = true) → xfrPlace s (x 3) rows false = .ok b → xfrPlace s (x 1) (4 * len) false = .ok i → b % 16 = 0 →
      i % 4 = 0 → s.layoutGate D = .ok () → quiet i (4 * len) false → quiet b rows false →
      takes w s 3 b rows fun c => c.comb = comb ∧ c.atHome = true ∧ c.units.length = len
    (ready → lengthOk (x 2) = true → xfrPlace s (x 1) len true = .ok d → (x 0).toNat % 16 = 0 → d % 16 = 0 → quiet d len true →
      takes (.xcopy h a) s 0 d len (lines (.lin (8 * (x 0).toNat)) (.spad cl (8 * d)) (x 0).toNat len false)) ∧
    (ready → lengthOk (x 2) = true → xfrPlace s (x 0) len false = .ok b → xfrPlace s (x 1) len true = .ok d → overlap b len d len = false → b % 16 = 0 →
      d % 16 = 0 → quiet b len false → quiet d len true → takes (.xcopyS h a) s 0 d len (lines (.spad cl (8 * b)) (.spad cl (8 * d)) d len false)) ∧
    (ready → lengthOk (x 2) = true → xfrPlace s (x 0) len true = .ok b → b % 16 = 0 → (x 1).toNat % 16 = 0 → quiet b len false →
      takes (.xput h a) s 1 b len (lines (.spad cl (8 * b)) (.lin (8 * (x 1).toNat)) (x 1).toNat len true)) ∧
    (ready → lengthOk (x 1) = true → xfrPlace s (x 0) (x 1).toNat true = .ok d → d % 16 = 0 → quiet d (x 1).toNat true →
      takes (.xfill h a) s 6 d (x 1).toNat (lines (.pattern (x 2)) (.spad cl (8 * d)) d (x 1).toNat false)) ∧
    (ready → box → quiet b B true → takes (.xcopyT h n a) s 0 b B fun c => c.atHome = false ∧ c.ord = D.ord) ∧
    (ready → box → quiet b B false → takes (.xputT h n a) s 1 b B fun c => c.atHome = true ∧ c.ord = D.ord) ∧
    (ready → slot → takes (.xpack h n a) popped 4 d (pkTsz (x 2) D.fmt) fun c => packed D.fmt c ∧ c.packK = false) ∧
    (ready → slot → takes (.xpackK1 h n a) popped 4 d (pkTsz (x 2) D.fmt) fun c => packed D.fmt c ∧ c.packK = true) ∧
    (let v := x 1; let pitch := field v 8 24; let row := pkK (x 2) * widthOf (field v 0 5) / 8
      ready → bits v 5 3 = 0 → bits v 32 32 = 0 → pitch % 16 = 0 → pack (field v 0 5) → xfrPlace s (x 0) ((pkLanes (x 2) - 1) * pitch + row) false = .ok b →
      (∀ l < pkLanes (x 2), quiet (b + l * pitch) row false) → takes (.xpackS h a) popped 4 d (pkTsz (x 2) (field v 0 5)) (packed (field v 0 5))) ∧
    (ready → (3 ≤ D.rank ∨ field (x 0) 32 32 = 0) → 2 ≤ D.rank → D.rank ≤ 3 → pack D.fmt → xfrPlace s (x 1) (4 * pkK (x 2)) false = .ok i → i % 4 = 0 →
      s.layoutGate D = .ok () → quiet i (4 * pkK (x 2)) false → takes (.xgath h n a) popped 2 d (pkTsz (x 2) D.fmt) fun c => packed D.fmt c ∧ c.packK = true) ∧
    scat (.xscatO h n a) 0 ∧ scat (.xscatAdd h n a) 1 ∧ scat (.xscatMax h n a) 2 ∧ scat (.xscatMin h n a) 3 ∧
    (let v := x 1; let dest := 64 * s.neighbour th.die dir.toNat + field v 24 6
      ready → bits v 23 1 = 0 → bits v 30 2 = 0 → bits v 36 28 = 0 → lengthOk (x 2) = true → bits (x 3) 32 32 = 0 → field v 0 23 + len ≤ 2 ^ 23 →
      xfrPlace s (x 0) len false = .ok b → b % 16 = 0 → field v 0 23 % 16 = 0 → quiet b len false → s.haloUsable th.die dir.toNat = true →
      takes (.xhalo h a dir) s 5 b len fun c => c.halo = dir.toNat + 1 ∧ c.haloCbar = dest * 16 + field v 32 4 ∧ c.haloAddN = bits (x 3) 0 32)

/-- R318, R317, R331, R216, R333, R334: a unit of an accepted copy lands, which at its last byte fills the handle and ends the entry done; a halo's arrival
adds to the destination barrier once its sender owes no scratchpad write and the paths to its homes are open (R287); xrel frees a full handle and waits at a draining one; xabort aborts a pending copy. -/
def Obligations.CopyUnitsLandAndHandlesEnd : Prop :=
  ∀ (s s' : State) (k : Nat) (c c' : Copy) (u : CopyUnit) (rest : List CopyUnit) (wp : Nat) (h : BitVec 6), let x := s.tasks.get k
    let issued := x.work = .copy c ∧ x.parked = false ∧ s.workHeld k = false
    let th := s.me; let hd := s.handle th.cluster h.toNat
    let freed : Handle := { hd with owner := 0, st := .free, wp := 0 }
    (issued → c.units = u :: rest → c.halo = 0 → u ≠ .haloTest → u ≠ .haloAdd → s.unitStep x.thread { c with units := rest } u = .ok (s', c', some wp) →
      ∃ t, exec (.copyUnitLands k) s = .next t ∧ t.mem = s'.mem ∧ t.spad = s'.spad ∧ t.handles = (s'.setHandle c'.cluster c'.handle fun y => y.land wp).handles ∧
        (c'.units ≠ [] → t.tasks = s.tasks.set k { x with work := .copy c' }) ∧
        (c'.units = [] → t.tasks.get k = default ∧
          (((s'.thr x.thread).sb.get x.sb).valid = true → ((t.thr x.thread).sb.get x.sb).st = .done))) ∧
    (x.work = .copy c → c.units = [.haloAdd] → s.haloUsable x.die (c.halo - 1) = true → (s.cbars.get c.haloCbar).takes x.cid = true →
      s.anyUnperformed x.thread = false → s.homesAway (s.thr x.thread).die = false →
      ∃ t, exec (.haloArrival k) s = .next t ∧ t.cbars = s.cbars.set c.haloCbar { (s.cbars.get c.haloCbar).plus c.haloAddN with ocid := x.cid + 1, halo := true } ∧
        t.spad = s.spad ∧ t.tasks = s.tasks.set k default) ∧
    (x.work = .copy c → c.units = [.haloAdd] → s.haloUsable x.die (c.halo - 1) = true → (s.cbars.get c.haloCbar).takes x.cid = true →
      (s.anyUnperformed x.thread = true ∨ s.homesAway (s.thr x.thread).die = true) → exec (.haloArrival k) s = .next s) ∧
    (hd.foreign th.gang = false → (hd.st = .full ∨ hd.st = .aborted) → Ends .xfr (.xrel h) s fun t =>
      t.handles = s.handles.set (handleKey th.cluster h.toNat) freed ∧ t.mem = s.mem ∧ t.spad = s.spad) ∧
    (hd.foreign th.gang = false → hd.st = .free → Does .xfr (.xrel h) s s) ∧
    (hd.foreign th.gang = false → hd.st = .draining → Waits .xfr (.xrel h) s .outside) ∧
    (hd.foreign th.gang = false → (hd.st = .filling ∨ hd.st = .parked) → s.boundTask th.cluster h.toNat = some k → x.work = .copy c →
      Does .xfr (.xabort h) s (s.stopTask k .aborted)) ∧
    (hd.foreign th.gang = false → hd.st ≠ .filling → hd.st ≠ .parked → Does .xfr (.xabort h) s s)

/-! ## FAB (chapter Layouts and Collectives) -/

/-- R388 to R390, R393, R400, R405, R406: the words on rank lists and layout slots, for operands that pass their checks: ranks binds and caches its list,
rkinv drops the copy, lyset places the record on every die, lyset.get stores the layout word and the state, reshard begins the exchange, resid binds
residuals, fwait and fwait.slot end as an acquire once nothing pends, fabort aborts every FAB entry. That a reshard removes the slot's residual binding
when it is accepted is the model's choice (log entry 59). -/
def Obligations.LayoutWordsPlaceReadAndMoveLayouts : Prop :=
  ∀ (s s1 s2 s3 : State) (j : BitVec 8) (n : BitVec 2) (a b : BitVec 6) (bs : List Byte) (ds : List Nat) (as : List Acc), let th := s.me
    let x := s.fs a; let y := s.fs b; let slot := j.toNat; let l := s.slotOn th.die th.cid slot; let w := s.issuer s.cur .fab
    let list : RankList := { bound := true, addr := x.toNat, count := y.toNat, cached := true, dies := ds }
    let rec_ := recordSlot (dwIdx bs) ds; let r := th.ranks.get n.toNat
    let exchange : Reshard := { cid := th.cid, slot := slot, lt := x, pairs := l.pairs x, issued := true, status := 0, note := none }
    let bound := fun (l : LSlot) => { l with resid := if y = 0 then 0 else x.toNat, wire := bits y 0 5 }
    (x.toNat % 2 = 0 → 1 ≤ y.toNat → y.toNat ≤ 256 → fabRead s x.toNat (2 * y.toNat) = .ok (bs, s1) → s1.ranksOf bs = some ds →
      Does .fab (.ranks n a b) s (s1.modMe fun th => { th with ranks := th.ranks.set n.toNat list })) ∧
    (r.bound = true → Does .fab (.rkinv n) s (s.modMe fun th => { th with ranks := th.ranks.set n.toNat { r with cached := false, dies := [] } })) ∧
    (x.toNat % 64 = 0 → y.toNat < 4 → s.slotBusy th.cid slot = false → synRelease s true = .ok s1 → useRanks s1 (field y 0 2) y = .ok (ds, s2) →
      fabRead s2 x.toNat 64 = .ok (bs, s3) → recordOk (dwIdx bs) rec_ = true →
      Does .fab (.lyset j a b) s ((((s3.everySlot th.cid slot fun _ => rec_).dropDead th.cid slot).setFab 0).acquire s3.cur)) ∧
    (x.toNat % 16 = 0 → s.accessLin w x.toNat 16 true 0 = .ok (as, s1) →
      Does .fab (.lysetGet j a) s (s1.storeAccs w as (leBytes 8 l.lw.toNat ++ leBytes 8 (l.st.code + if l.cur then 256 else 0)))) ∧
    (l.st ≠ .empty → l.st ≠ .aborted → s.slotBusy th.cid slot = false → l.reshardOk x = true → th.sbFree ≠ none → Ends .fab (.reshard j a) s fun u =>
      Accepted s u .fab 1 (j.setWidth 32) (.reshard exchange) ∧
      ∀ d ∈ s.presentDies, (u.slotOn d th.cid slot) = { s.slotOn d th.cid slot with st := .resharding, resid := 0, wire := 0 }) ∧
    (x.toNat % 128 = 0 → y.toNat < 32 → l.st ≠ .empty → l.st ≠ .aborted → (y = 0 ∨ wireFormat y.toNat = true) → l.fmt = 0x08 →
      Does .fab (.resid j a b) s { s with slots := s.slots.set (slotKey th.die th.cid slot) (bound l) }) ∧
    ((th.sbAny fun e => e.eng == .fab && e.st == .pending) = false → Does .fab .fwait s (s.acquire s.cur)) ∧
    ((th.sbAny fun e => e.eng == .fab && e.st == .pending) = true → Waits .fab .fwait s .outside) ∧
    (l.st ≠ .resharding → Does .fab (.fwaitSlot j) s (s.acquire s.cur)) ∧
    (l.st = .resharding → Waits .fab (.fwaitSlot j) s .outside) ∧
    Does .fab .fabort s (s.abortAll s.cur true fun e => e == .fab)

/-- R396, R397, R401, R402, R316: a coll word on a stable slot whose pair its form accepts, with its handle ready and a scoreboard entry free, binds its
handle to the result's range, advances its die's CSEQ, and starts the collective of that number or joins it. -/
def Obligations.CollWordsJoinTheirCollective : Prop :=
  ∀ (s : State) (j : BitVec 8) (a b : BitVec 6) (r len e : Nat), let th := s.me; let x := s.fs a; let y := s.fs b; let slot := j.toNat
    let l := s.slotOn th.die th.cid slot; let dst := field y 0 23; let h := bits y 24 6
    let m := fun (fn : Nat) => ({ thread := s.cur, die := th.die, rank := r, sb := e, handle := h.toNat, dst := dst, fn := fn, lt := x, data := [],
                                  wire := 0, parked := false } : CollMember)
    let word := fun (i : Instr) (fn : Nat) => (fn = 4 → x.toNat < 4) → flag y 23 = false → bits y 30 34 = 0 → dst % 16 = 0 → l.st = .stable →
      l.dies.idxOf? th.die = some r → l.resultLen fn x r = .ok len → dst + len ≤ 2 ^ 23 → (s.handle th.cluster h.toNat).foreign th.gang = false →
      s.phaseCheck s.cur .fab dst len true = none → (s.handle th.cluster h.toNat).ready = true → th.sbFree = some e →
      (s.turnTaken th.cid slot = false ∨ (s.collAt th.cid slot l.cseq).isSome = true) →
      (∀ k c, s.collAt th.cid slot l.cseq = some (k, c) → c.fn = fn ∧ c.lt = x ∧ c.dead = none) →
      Ends .fab i s fun u => Bound s u h dst len ∧ u.slotOn th.die th.cid slot = { l with cseq := l.cseq + 1 } ∧ u.mem = s.mem ∧ u.spad = s.spad ∧
        u.me.sb = th.sb.set e { valid := true, st := .pending, eng := .fab, op := 2, pc := th.pc .fab, obj := BitVec.ofNat 32 h.toNat, ord := th.ordOf .fab } ∧
        (s.collAt th.cid slot l.cseq = none → u.nextTask = s.nextTask + 1 ∧ (u.tasks.get s.nextTask).work =
          .coll { cid := th.cid, slot := slot, cseq := l.cseq, members := [m fn], begun := false, step := 0, dead := none, left := 0 }) ∧
        (∀ k c, s.collAt th.cid slot l.cseq = some (k, c) → (u.tasks.get k).work = .coll { c with members := c.members ++ [m fn] })
    word (.collSum j a b) 0 ∧ word (.collMax j a b) 1 ∧ word (.collMin j a b) 2 ∧ word (.collAmerge j a b) 3 ∧ word (.collRing j a b) 4

/-- R398, R401, R402, R403, R391, R393: the steps of accepted FAB work: with every member issued and none parked, and a path from each die of the list to each other, each member reads its piece, the members take
their results, and these land and end it; a ring's blocks land one by one, block n of a member being the piece of the member n places before it in the ring, padded
with zeros (R401); a watchdog aborts a begun collective, but not while a link between its members retrains; a re-shard copies its pairs and, when none is
left, each die takes the target layout. That all results, and all target layouts, land in one step is the model's choice (log entry 59), as is the order
of combination where the context lets the device choose it (log entry 12) and which links keep the watchdog (log entry 60). -/
def Obligations.FabricWorkGoesOnStepByStep : Prop :=
  ∀ (s s' : State) (k : Nat) (c : Coll) (m m' : CollMember) (r : Reshard) (p : ReshardPair) (rest : List ReshardPair) (taint : Bool),
    let x := s.tasks.get k; let l := s.slotOn x.die c.cid c.slot; let lr := s.slotOn x.die r.cid r.slot
    let going := x.work = .coll c ∧ (∀ m ∈ c.members, m.parked = false) ∧ s.workHeld k = false ∧ l.dies.length ≤ c.members.length ∧
      c.dead = none ∧ s.joinedUp l.dies = true
    let axis := field c.lt 0 2
    let block := fun (n : Nat) (s : State) (m : CollMember) => let gr := l.group [axis] m.rank
      let size := (gr.foldl (fun n r => Nat.max n (l.pieceBytes l.lw r)) 0 + 127) / 128 * 128
      let bs := bytesOfWords l.unit (c.wordsOf (gr.getD (((gr.idxOf? m.rank).getD 0 + gr.length - n) % gr.length) 0))
      s.collLand m (n * size) (bs ++ List.replicate (size - bs.length) 0)
    let moving := x.work = .reshard r ∧ x.parked = false ∧ s.parkBlocked k = false
    let box := (lr.piece lr.lw p.src).inter (lr.piece r.lt p.dst); let width := match box with | q :: _ => q.2 - q.1 | [] => 0
    (going → c.members[c.step]? = some m → s.collGather { c with begun := true } m = .ok (m', s') →
      ∃ t, exec (.collStep k) s = .next t ∧ t.mem = s'.mem ∧ t.spad = s'.spad ∧
        (t.tasks.get k).work = .coll { c with begun := true, step := c.step + 1, members := c.members.set c.step m' }) ∧
    (going → c.fn ≠ 4 → c.step = c.members.length → ∀ kind inv, l.collOf c.lt = some (kind, inv) →
      let took := c.members.map fun m => { m with data := dataOf (c.result l kind inv m.rank) }
      ∃ t, exec (.collStep k) s = .next t ∧ t.mem = s.mem ∧ t.spad = s.spad ∧
        (t.tasks.get k).work = .coll { c with begun := true, step := c.step + 1, members := took }) ∧
    (going → c.fn ≠ 4 → c.step = c.members.length + 1 → exec (.collStep k) s = .next
      ((c.members.foldl (fun s m => s.collLand m 0 (bytesOfWords l.unit m.words)) s).collDone k { c with begun := true })) ∧
    (going → c.fn = 4 → c.members.length ≤ c.step → let n := c.step - c.members.length; let moved := c.members.foldl (block n) s
      (n + 1 < axisN l.lw axis → exec (.collStep k) s =
        .next (moved.setTask k fun x => { x with work := .coll { c with begun := true, step := c.step + 1 } })) ∧
      (axisN l.lw axis ≤ n + 1 → exec (.collStep k) s = .next (moved.collDone k { c with begun := true }))) ∧
    (x.work = .coll c → c.begun = true → (∀ m ∈ c.members, m.parked = false) → s.parkBlocked k = false →
      ((∀ m ∈ c.members, ∀ n ∈ c.members, s.pathRetrains 256 m.die n.die = false) →
        exec (.collWatchdogExpiry k) s = .next (s.collAbort k 0xF0 none)) ∧
      ((∃ m ∈ c.members, ∃ n ∈ c.members, s.pathRetrains 256 m.die n.die = true) → exec (.collWatchdogExpiry k) s = .next s)) ∧
    (moving → r.pairs = p :: rest → s.copyRows (s.reshardIssuer x r) lr r.lt p (width * lr.unit) box.rows = .ok (taint, s') →
      ∃ t, exec (.reshardPairCopy k) s = .next t ∧ t.mem = s'.mem ∧ (t.tasks.get k).work = .reshard { r with pairs := rest }) ∧
    (moving → r.pairs = [] → r.issued = true → ∃ t, exec (.reshardExchangeComplete k) s = .next t ∧ (t.tasks.get k) = default ∧ t.mem = s.mem ∧
      ∀ d ∈ s.presentDies, t.slotOn d r.cid r.slot = { s.slotOn d r.cid r.slot with st := .stable, lw := r.lt, cur := !(s.slotOn d r.cid r.slot).cur, cseq := 0 })

/-! ## ATN (chapter In-Cache Attention) -/

/-- R425, R426, R431, R432: the words on the KV translation memory, for operands that pass their checks: kvmap enters the frames of its record whose headers
agree, kvmap.new writes their headers first, kvmap.un removes the entries of a segment, kvlock and kvlock.un set and clear LOCK, kvapp appends slots to the
block that is filled so far, kvroll empties slots from x on, block by block, and waits at a
compacting one. -/
def Obligations.KvWordsMapLockAppendAndRollBack : Prop :=
  ∀ (s s1 s2 s3 s4 : State) (wait : Bool) (a : BitVec 6) (bs fs : List Byte) (hk : Nat) (dhc : BitVec 2) (fmt : BitVec 5) (es : List KtmEnt) (room : List KtmEnt)
    (ys : List (Append × List Nat)) (ds : List Dword) (rb : List (KtmEnt × Dword)), let op := s.ns a 0; let c := s.ns a 1
    let g := seqBlk (dwAt bs 0); let frames := (List.range g.nb).map (dwIdx fs)
    let record := op.toNat % 16 = 0 ∧ atnRead s op.toNat 16 false = .ok (bs, s1) ∧ atnRead s1 (op.toNat + 16) (8 * g.nb) false = .ok (fs, s2) ∧
      seqBlkOk (dwAt bs 0) = true ∧ geometryBits (dwIdx bs 1) = true ∧ (∀ f ∈ frames, bits f 57 7 = 0) ∧ g.b0 + g.nb ≤ 2 ^ 20 ∧
      geometryOf (dwIdx bs 1) = some (hk, dhc, fmt) ∧ mapFrames s2 g hk dhc fmt op frames.zipIdx = .ok (es, s3)
    let header := fun (e : KtmEnt) => hdrBytes 0 0 [] ++ dwBytes [e.geometry.toNat, e.seq + e.blk * 2 ^ 20] ++ leBytes 96 0
    let x := slotOfSeq op; let n := field c 0 6 + 1; let blocks := if x / 64 = (x + n - 1) / 64 then [x / 64] else [x / 64, (x + n - 1) / 64]
    let locked := fun (lock : Bool) => s.ktm.map fun e => if s.inSegment (seqBlk op) e then { e with lock := lock } else e
    (record → mapHeaders s3 op es = .ok s4 → ktmRoom s4.ktm s4.me.die es = some room → Does .atn (.kvmap a) s (s4.ktmEnter room es)) ∧
    (record → mapMay s3 es = .ok () → ktmRoom s3.ktm s3.me.die es = some room → Does .atn (.kvmapNew a) s
      ((es.foldl (fun (t : State) e => t.blockPut (s3.issuer s3.cur .atn) e 0 (header e)) s3).ktmEnter room es)) ∧
    (seqBlkOk op = true → Does .atn (.kvmapUn a) s { s with ktm := s.ktm.filter fun e => !s.inSegment (seqBlk op) e }) ∧
    (seqBlkOk op = true → atnEntries s (seqBlk op).seq (seqBlk op).blocks = .ok es →
      ((locked true).filter fun e => e.die == s.me.die && e.lock).length ≤ 61440 → Does .atn (.kvlock a) s { s with ktm := locked true }) ∧
    (seqBlkOk op = true → atnEntries s (seqBlk op).seq (seqBlk op).blocks = .ok es → Does .atn (.kvlockUn a) s { s with ktm := locked false }) ∧
    (seqSlotOk op = true → bits c 6 26 = 0 → atnEntries s (seqOf op) blocks = .ok es → appendCheck s (appendParts es x n (field c 32 32)) = .ok (ys, s1) →
      atnHeaders s1 es = .ok (ds, s2) → (∀ d ∈ ds, hdrState d ≠ 3) → hdrState (ds.getD 0 0) ≤ 1 → hdrFill (ds.getD 0 0) = x % 64 →
      (∀ d ∈ ds.tail, hdrState d = 0 ∧ hdrFill d = 0) → Does .atn (.kvapp a) s (ys.foldl (fun (t : State) y => t.appendPart y.1 y.2) s2)) ∧
    (let at_ := s.me.atnAt; let reached := fun (n : Nat) => s3.modMe fun th => { th with atnAt := n }
      seqSlotOk op = true → rollBlocks s (seqOf op) (at_ == 0) (s.ktm.length + 1) (x / 64 + at_) = .ok (rb, wait, s1) → rollAll s1 x false rb = .ok s2 →
      rollAll s2 x true rb = .ok s3 → (wait = false → Does .atn (.kvroll a) s (reached 0)) ∧
        (wait = true → exec (.kvroll a) s = .next ((reached (at_ + rb.length)).holdWord .atn .outside)))

/-- R440, R446, R447, R450, R451, R452, R439: patt, cent and sieve, for operands that pass their checks and with a scoreboard entry free, are accepted; csel
fills its selection slot; await ends as an acquire once nothing of ATN pends; await.abort aborts it; mcnt.clr clears the three counters. -/
def Obligations.AttentionWordsAreAcceptedSelectedAndAwaited : Prop :=
  ∀ (s s1 s2 : State) (q : BitVec 5) (a : BitVec 6) (e : KtmEnt) (es : List KtmEnt) (dst : Nat) (bs rs : List Byte) (ct : CenHdr), let th := s.me
    let v := s.ns a 0; let c := s.ns a 1; let d := s.ns a 3; let g := seqBlk v; let o := pattOp c; let h := bits d 24 6
    let len := o.hn * o.qn * (e.dh + 4) * 4; let x := slotOfSeq v; let n := field c 0 6 + 1; let h0 := field c 8 6; let hn := field c 16 6 + 1
    let blocks := if x / 64 = (x + n - 1) / 64 then [x / 64] else [x / 64, (x + n - 1) / 64]
    let keys := (List.range n).flatMap fun i => (List.range hn).map fun j => (x + i, h0 + j)
    let at_ := c.toNat; let cd := 64 * 2 ^ ct.dhc; let ch0 := field c 0 6; let chn := field c 8 6 + 1; let sel := field c 24 2; let size := (cd + 4) * 4
    let recs := fun j => (List.range ct.ncen).map fun k => cenOf ((rs.drop ((j * ct.ncen + k) * size)).take size)
    (seqBlkOk v = true → bits c 6 2 = 0 → bits c 14 2 = 0 → bits c 18 2 = 0 → flag c 23 = false → bits c 27 5 = 0 → bits (s.ns a 2) 32 32 = 0 →
      destOk d = true → atnEntries s g.seq g.blocks = .ok (e :: es) → (∀ y ∈ es, y.like e = true) → e.like e = true → o.h0 + o.hn ≤ e.hk →
      (∀ y ∈ e :: es, homeOf y.frame = th.die) → q.toNat + o.hn * o.qn * laneRegs e.dh ≤ 32 → (∀ k, o.msk = some k → (th.masks.get k).loaded = true) →
      atnDest s d len = .ok dst → (s.handle th.cluster h.toNat).foreign th.gang = false → (s.handle th.cluster h.toNat).ready = true → th.sbFree ≠ none →
      Ends .atn (.patt q a) s fun u => Bound s u h dst len ∧ ∃ p : Patt, Accepted s u .atn 4 (BitVec.ofNat 32 h.toNat) (.patt p) ∧ p.handle = h.toNat ∧
        p.dst = spadKey th.cluster dst ∧ p.seq = g.seq ∧ p.blocks = g.blocks ∧ p.h0 = o.h0 ∧ p.hn = o.hn ∧ p.qn = o.qn ∧ p.dh = e.dh ∧
        p.mask = o.msk.map th.masks.get ∧ p.sel = o.csl.map th.selection ∧ p.scale = bits (s.ns a 2) 0 32 ∧
        p.queries = th.queries q.toNat (o.hn * o.qn) e.dh ∧ p.parts = []) ∧
    (seqSlotOk v = true → bits c 6 2 = 0 → bits c 14 2 = 0 → bits c 22 10 = 0 → atnEntries s (seqOf v) blocks = .ok es → (s.ns a 2).toNat % 128 = 0 →
      atnRead s (s.ns a 2).toNat 128 true = .ok (bs, s1) → cenHdr bs = some ct → (∀ y ∈ es, y.dhc.toNat = ct.dhc ∧ h0 + hn ≤ y.hk ∧ h0 + hn ≤ ct.hc) →
      th.sbFree ≠ none → Ends .atn (.cent a) s fun u => ∃ w : Cent, Accepted s1 u .atn 7 (BitVec.ofNat 32 (seqOf v)) (.cent w) ∧ w.seq = seqOf v ∧
        w.keys = keys ∧ w.fills = [] ∧ w.dh = cd ∧ w.radius = bits c 32 32 ∧ w.table = (s.ns a 2).toNat ∧ w.ncen = ct.ncen) ∧
    (seqBlkOk v = true → atnEntries s g.seq g.blocks = .ok es → at_ % 16 = 0 → th.sbFree ≠ none → Ends .atn (.sieve a) s fun u =>
      ∃ w : Sieve, Accepted s u .atn 10 (BitVec.ofNat 32 g.seq) (.sieve w) ∧ w.seq = g.seq ∧ w.b0 = g.b0 ∧ w.nb = g.nb ∧ w.recAt = at_ ∧ w.thr = th.mthr ∧
        w.prior = [] ∧ w.moving = false) ∧
    (bits c 6 2 = 0 → bits c 14 2 = 0 → bits c 20 4 = 0 → bits c 26 38 = 0 → v.toNat % 128 = 0 → atnRead s v.toNat 128 true = .ok (bs, s1) →
      cenHdr bs = some ct → ch0 + chn ≤ ct.hc → q.toNat + chn * laneRegs cd ≤ 32 →
      atnRead s1 (cenAt v.toNat ct.ncen cd ch0 0) (chn * ct.ncen * size) true = .ok (rs, s2) → Ends .atn (.csel q a) s fun u =>
        s2.becomes u { s2.me with selOff := u.me.selOff } ∧ (∀ j < 64, (u.me.selection sel).getD j 0 =
          if ch0 ≤ j ∧ j < ch0 + chn then selectBits (th.lanesFrom (q.toNat + (j - ch0) * laneRegs cd) cd) (recs (j - ch0)) (field c 16 4 + 1) else -1) ∧
        ∀ k, k / 64 ≠ sel → u.me.selOff.get k = s2.me.selOff.get k) ∧
    (s.atnPending = false → Does .atn .await s (s.acquire s.cur)) ∧ (s.atnPending = true → Waits .atn .await s .outside) ∧
    ((s.abortAll s.cur true fun e => e == .atn).atnPending = false → Does .atn .awaitAbort s (s.abortAll s.cur true fun e => e == .atn)) ∧
    Does .atn .mcntClr s (s.modMe fun th => { th with mcntf := 0, mcntp := 0, mcnte := 0 })

/-- R437 to R439, R449: mprog loads the checked program, constants and boundaries of its table; meval delivers the class of every tile of its grid to
scratchpad, fills its handle and counts the classes; retn and retn.q write retention bytes from scratchpad or from q9, sampled when the word is issued: one
that waits at a compacting block keeps its sample. That mprog reads its program's
halfwords only as far as its mend is the model's choice (log entry 66). -/
def Obligations.MaskAndRetentionWordsHaveTheirEffect : Prop :=
  ∀ (s s1 s2 s3 : State) (n : BitVec 2) (a b : BitVec 6) (pa ta dst src dummy : Nat) (t0 bs ts : List Byte) (ps : List (BitVec 16)) (es : List KtmEnt)
    (ds : List Dword) (q9 : Dword) (rest : List Dword), let th := s.me; let v := s.ns a 0; let c := s.ns a 1; let d := s.ns a 2
    let w := (words4 t0).getD 0 0; let nc := field w 0 5; let nb := field w 8 9; let bounds := ((words4 ts).drop (1 + nc)).take nb
    let slot : MaskSlot := { loaded := true, prog := ps, consts := ((words4 ts).drop 1).take nc, bounds := bounds }
    let seen := untilMend (halves (s1.spadBytes s1.me.cluster pa (Nat.min 64 (2 ^ 23 - pa))))
    let nq := field c 0 12 + 1; let nk := field c 16 12 + 1; let ql := field c 32 4; let kl := field c 36 4; let m := th.masks.get n.toNat
    let len := (nq * nk + 63) / 64 * 16; let cs := gridClasses m (field v 0 32) (field v 32 32) nq nk ql kl; let h := field d 24 6
    let landed := ((s.bindHandle th.cluster h th.gang dst len).spadNow s.cur .atn th.cluster dst (classBytes cs len)).setHandle th.cluster h fun x => x.land len
    let count := fun k => (cs.filter fun c => c == k).length
    let x := slotOfSeq v; let rn := field c 0 6 + 1; let h0 := field c 8 6; let hn := field c 16 6 + 1
    let blocks := if x / 64 = (x + rn - 1) / 64 then [x / 64] else [x / 64, (x + rn - 1) / 64]
    let parts_ := fun (bs : List Byte) => retnParts es x rn h0 hn bs
    let writes := fun (from_ : State) (bs : List Byte) =>
      (parts_ bs).foldl (fun (t : State) p => t.blockPut (from_.issuer from_.cur .atn) p.1 p.2.1 p.2.2) from_
    let retains := fun (from_ to_ : State) (bs : List Byte) => seqSlotOk v = true ∧ retnOk c = true ∧ atnEntries s (seqOf v) blocks = .ok es ∧
      atnHeaders from_ es = .ok (ds, to_) ∧ (∀ d ∈ ds, hdrState d ≠ 3) ∧
      (∀ p ∈ es.zip ds, h0 + hn ≤ p.1.hk ∧ ∀ i < rn, (x + i) / 64 = p.1.blk → (x + i) % 64 < hdrFill p.2) ∧ retnMay to_ (parts_ bs) = .ok ()
    (atnPlace s v 2 = .ok pa → atnPlace s (s.ns b 0) 4 = .ok ta → pa % 2 = 0 → ta % 4 = 0 → atnScratch s ta 4 = .ok (t0, s1) → bits w 5 3 = 0 →
      bits w 17 15 = 0 → nc ≤ 16 → nb ≤ 256 → atnPlace s1 (s1.ns b 0) (4 + 4 * nc + 4 * nb) = .ok dummy → atnScratch s1 pa (2 * seen.length) = .ok (bs, s2) →
      maskScan nc 0 0 0 (halves bs) = .ok ps → atnScratch s2 ta (4 + 4 * nc + 4 * nb) = .ok (ts, s3) → badBound bounds = none →
      Does .atn (.mprog n a b) s (s3.modMe fun th => { th with masks := th.masks.set n.toNat slot })) ∧
    (bits c 12 4 = 0 → bits c 28 4 = 0 → bits c 40 24 = 0 → destOk d = true → field v 0 32 + nq * 2 ^ ql ≤ 2 ^ 32 → field v 32 32 + nk * 2 ^ kl ≤ 2 ^ 32 →
      m.loaded = true → atnDest s d len = .ok dst → (s.handle th.cluster h).foreign th.gang = false → (s.handle th.cluster h).ready = true →
      Does .atn (.meval n a) s (landed.modMe fun th => th.countTiles (count 2) (count 1) (count 0))) ∧
    let sampled := fun (s : State) (bs : List Byte) => s.modMe fun th => { th with atnData := some bs }
    let over_ := fun (s : State) => s.modMe fun th => { th with atnData := none }
    let waits := fun (from_ to_ : State) => seqSlotOk v = true ∧ retnOk c = true ∧ atnEntries s (seqOf v) blocks = .ok es ∧
      atnHeaders from_ es = .ok (ds, to_) ∧ (ds.any fun d => hdrState d == 3) = true
    let here := th.atnData = none ∧ atnPlace s (s.ns b 0) (rn * hn) = .ok src ∧ atnScratch s src (rn * hn) = .ok (bs, s1)
    (here → retains (sampled s1 bs) s2 bs → Does .atn (.retn a b) s (over_ (writes s2 bs))) ∧
    (here → waits (sampled s1 bs) s2 → exec (.retn a b) s = .next (s2.holdWord .atn .outside)) ∧
    (th.atnData = some bs → retains s s2 bs → Does .atn (.retn a b) s (over_ (writes s2 bs))) ∧
    (th.atnData = none → th.qs.get 9 = q9 :: rest → bits c 0 6 = 0 → hn ≤ 8 → retains (sampled s (leBytes 8 q9.toNat)) s2 (leBytes 8 q9.toNat) →
      Does .atn (.retnQ a) s ((over_ (writes s2 (leBytes 8 q9.toNat))).modMe fun th => th.dropS 9)) ∧
    (th.qs.get 9 = [] → seqSlotOk v = true → retnOk c = true → bits c 0 6 = 0 → hn ≤ 8 → Waits .atn (.retnQ a) s (.popEmpty 9))

/-- R441 to R444, R446, R450, R433, R434, R462: the steps of accepted ATN work: a slice does the next block of a patt, and with none left the merged records
land and end it, a fenced slice giving the identity; a cent assigns its next key; a sieve sets the blocks of its segment compacting, waits for those who
have read their headers, and moves: each block in turn takes the next 64 of the tokens kept, in increasing slot, those left free lose their entries on
the issuing die, and the record with its counts is written. -/
def Obligations.AttentionWorkGoesOnStepByStep : Prop :=
  ∀ (s s1 s' s2 s3 : State) (k blk y h fill : Nat) (rest : List Nat) (keys : List (Nat × Nat)) (x x1 x' : Patt) (c c' : Cent) (v : Sieve) (e : KtmEnt) (es : List KtmEnt)
    (ds : List Dword) (as : List Acc) (xs : List Token), let t := s.tasks.get k; let live := t.parked = false ∧ s.workHeld k = false; let cl := x.dst / 2 ^ 23
    let out := (List.range (x.hn * x.qn)).flatMap fun n => (x.merged (s.die t.die).sliceBad n).bytes
    let segment := s.ktmRun t.die t.cid v.seq ((List.range v.nb).map fun i => v.b0 + i) = .ok es
    (t.work = .patt x → live → x.blocks = blk :: rest → s.ktmAt t.die t.cid x.seq blk = some e → s.pattHeader t.thread e x = .ok (.read x1 s1) →
      s1.pattBlock t.thread e x1 = .ok (x', s') →
      ∃ u, exec (.slicePartialAttention k) s = .next u ∧ (u.tasks.get k).work = .patt { x' with blocks := rest } ∧ u.mem = s'.mem ∧ u.spad = s'.spad) ∧
    (t.work = .patt x → live → x.blocks = [] → x.handle < 64 → ∃ u, exec (.pattDone k) s = .next u ∧ u.tasks.get k = default ∧ u.mem = s.mem ∧
      u.spad = (s.spadNow t.thread .atn cl (x.dst % 2 ^ 23) out).spad ∧ u.handle cl x.handle = (s.handle cl x.handle).land out.length ∧
      (u.thr t.thread).mcntf = countUp (s.thr t.thread).mcntf x.nf) ∧
    (t.work = .cent c → live → s.centEarlier k t.thread = false → c.keys = (y, h) :: keys → s.ktmAt t.die t.cid c.seq (y / 64) = some e →
      s.centFill t.thread e c = .ok (some (fill, c'), s') → y % 64 < fill → h < e.hk → e.dh = c'.dh → s'.centAssign t.thread e c' y h = .ok s2 →
      ∃ u, exec (.centKeyUpdate k) s = .next u ∧ u.mem = s2.mem ∧ (keys ≠ [] → (u.tasks.get k).work = .cent { c' with keys := keys }) ∧
        (keys = [] → u.tasks.get k = default)) ∧
    (t.work = .sieve v → live → segment → v.ents = [] → s.sieveHeaders t.thread es = .ok (ds, s') → (∀ p ∈ es, ∀ q ∈ es, p.like q = true) →
      (∀ d ∈ ds, hdrState d ≠ 0 ∧ hdrState d ≠ 3) → ∃ u, exec (.sieveCompact k) s = .next u ∧ (u.tasks.get k).work = .sieve { v with prior := ds.map hdrState, ents := es } ∧
        u.mem = (es.foldl (fun (t : State) e => t.setBlockState e 3) s').mem) ∧
    let set_ := t.work = .sieve v ∧ live ∧ segment ∧ v.ents ≠ [] ∧ es.map (fun e => e.frame) = v.ents.map fun e => e.frame
    let kept := xs.filter fun x => x.ret.any fun b => decide (v.thr.toNat ≤ b.toNat); let left := (kept.length + 63) / 64
    let gone := fun (e : KtmEnt) => e.die == t.die && e.cid == t.cid && e.seq == v.seq && decide (v.b0 + left ≤ e.blk) && decide (e.blk < v.b0 + v.nb)
    (set_ → s.readersOf (es.map fun e => e.frame) = true → exec (.sieveCompact k) s = .next s) ∧
    (set_ → v.moving = false → s.readersOf (es.map fun e => e.frame) = false →
      exec (.sieveCompact k) s = .next (s.setTask k fun t => { t with work := .sieve { v with moving := true } })) ∧
    (set_ → v.moving = true → s.readersOf (es.map fun e => e.frame) = false → s.homeAcc t.thread v.recAt 16 true = .ok (as, s1) →
      s1.sieveHeaders t.thread es = .ok (ds, s2) → s2.sieveTokens t.thread (es.zip ds) = .ok (xs, s3) →
      let filled := es.zipIdx.foldl (fun (u : State) e => u.fillBlock (s3.issuer t.thread .atn) e.1 ((kept.drop (64 * e.2)).take 64)) s3
      let moved := { filled with ktm := s3.ktm.filter fun e => !gone e }
      ∃ u, exec (.sieveCompact k) s = .next u ∧ u.ktm = moved.ktm ∧ u.tasks.get k = default ∧
        u.mem = (moved.sieveRecord t.thread v.recAt (BitVec.ofNat 64 (kept.length + (xs.length - kept.length) * 2 ^ 32)) 1).mem)

/-! ## Barriers, rings and phases (chapter Barriers, Rings and Phases) -/

/-- R208 to R212, R201, R205, R287: an arrival on an own level's barrier whose mask names the member, with nothing pending and every earlier word executed, opens
the barrier or joins it and sets the member's PENDING bit; when every named member has arrived or ended, the barrier closes, every arrived member's bit is
cleared in the same step and each has a fence at its word (R287); a wait holds SYN while the bit is set. -/
def Obligations.GroupBarriersGatherTheirMembers : Prop :=
  ∀ (s s1 : State) (b k : BitVec 3) (a : BitVec 6) (named : List Nat), let th := s.me; let id := 8 * k.toNat + b.toNat
    let key := s.barKey th k.toNat b.toNat; let x := (s.gangs.get th.gang).barriers.get key; let here := x.arrived ++ [s.cur]
    let arrives := s.levelOk th k.toNat = true ∧ maskSet (s.group th k.toNat) (s.ys a) s.cur = some named ∧ th.pending.get id = false ∧
      th.allBefore .syn = true ∧ synRelease s (k == 4) = .ok s1 ∧ (x.opened = true → x.mask = named)
    let all := ∀ t ∈ named, t ∈ here ∨ (s.thr t).st = .ended
    let others := fun (u : State) => (∀ g, g ≠ th.gang → u.gangs.get g = s.gangs.get g) ∧
      (∀ y, y ≠ key → (u.gangs.get th.gang).barriers.get y = (s.gangs.get th.gang).barriers.get y) ∧
      (∀ v j, j ≠ id → (u.thr v).pending.get j = (s.thr v).pending.get j) ∧ (k ≠ 4 → u.mem = s1.mem) ∧ u.spad = s.spad
    let opens := fun (stage : Nat) (u : State) => others u ∧ (∀ v, v ≠ s.cur → u.thr v = s.thr v) ∧
      (u.gangs.get th.gang).barriers.get key = { opened := true, mask := named, arrived := here } ∧
      u.me = { th with pending := th.pending.set id true, synStage := stage }
    let closes := fun (stage : Nat) (u : State) => others u ∧ (u.gangs.get th.gang).barriers.get key = default ∧ u.me.synStage = stage ∧
      (∀ v ∈ here, (u.thr v).pending.get id = false) ∧ (∀ v, v ∉ here → u.thr v = s.thr v) ∧
      (∀ v ∈ here, (s.thr v).fences < (u.thr v).fences) ∧
      (∀ v, v ≠ s.cur → u.thr v = { s.thr v with pending := (u.thr v).pending, fences := (u.thr v).fences }) ∧
      u.me = { th with pending := u.me.pending, fences := u.me.fences, synStage := stage }
    (arrives → ¬ all → Ends .syn (.barArr b k a) s (opens th.synStage)) ∧
    (arrives → all → Ends .syn (.barArr b k a) s (closes th.synStage)) ∧
    (th.synStage ≠ 1 → arrives → ¬ all → ∃ u, opens 1 u ∧ exec (.bar b k a) s = .next (u.holdWord .syn .outside)) ∧
    (th.synStage ≠ 1 → arrives → all → Ends .syn (.bar b k a) s (closes 0)) ∧
    (th.synStage = 1 → th.pending.get id = true → Waits .syn (.bar b k a) s .outside) ∧
    (th.synStage = 1 → th.pending.get id = false → Does .syn (.bar b k a) s (s.setStage 0)) ∧
    (s.levelOk th k.toNat = true → th.pending.get id = true → Waits .syn (.barWt b k) s .outside) ∧
    (s.levelOk th k.toNat = true → th.pending.get id = false → Does .syn (.barWt b k) s (s.setStage 0))

/-- R213, R215: on a counting barrier of the cluster, init arms a free one, add raises COUNT and saturates, wait and take hold until COUNT has reached
TARGET, take then subtracts TARGET, the first to wait first (both have a fence at their
word, and after a halo's arrival end as an acquire, R287), and free frees one that nobody waits at. -/
def Obligations.CountingBarriersCount : Prop :=
  ∀ (s s1 : State) (n : BitVec 4) (a : BitVec 6), let th := s.me; let key := th.cluster * 16 + n.toNat; let x := s.cbars.get key; let v := s.ys a
    let own := x.armed = true ∧ x.owner = th.gang + 1; let q := cbarQueue s x; let left := x.waiters.filter (· ≠ s.cur)
    let first := q.find? fun u => u == s.cur || (s.thr u).atCbar n.toNat 3
    let kept := if x.ocid ≠ 0 ∧ x.ocid ≠ th.cid + 1 then 0 else x.count
    let put := fun (s : State) (y : Cbar) => { s with cbars := s.cbars.set key y }
    let held := ((put s { x with waiters := q }).holdWord .syn .outside)
    (x.armed = false → bits v 32 32 = 0 → bits v 0 32 ≠ 0 → Does .syn (.cbarInit n a) s
      (put s { armed := true, owner := th.gang + 1, ocid := th.cid + 1, target := bits v 0 32, count := kept, waiters := [],
               halo := x.halo && (x.ocid == 0 || x.ocid == th.cid + 1) })) ∧
    (own → bits v 32 32 = 0 → th.allBefore .syn = true → synRelease s false = .ok s1 → Ends .syn (.cbarAdd n a) s fun u =>
      ∃ c : Word, u = put s1 { x with count := c } ∧ c.toNat = Nat.min (x.count.toNat + (bits v 0 32).toNat) (2 ^ 32 - 1)) ∧
    (own → x.target.toNat ≤ x.count.toNat → Does .syn (.cbarWait n) s ((put s { x with waiters := left }).cbarSeen x)) ∧
    (own → x.count.toNat < x.target.toNat → exec (.cbarWait n) s = .next held) ∧
    (own → x.target.toNat ≤ x.count.toNat → first = some s.cur →
      Does .syn (.cbarTake n) s
        ((put s { x with count := x.count - x.target, waiters := left, halo := x.halo && x.count != x.target }).cbarSeen x)) ∧
    (own → (x.count.toNat < x.target.toNat ∨ first ≠ some s.cur) → exec (.cbarTake n) s = .next held) ∧
    (own → (x.waiters.any fun u => (s.thr u).atCbar n.toNat 2 || (s.thr u).atCbar n.toNat 3) = false → Does .syn (.cbarFree n) s (put s default))

/-- R217 to R226: ring activates a slot whose stages lie in the scratchpad and whose parties differ, and ring.rel unsets it with its unmade arrivals; sbar
records its member's arrival unless N steps are already ahead, and the arrival takes effect once the words before it are done, advancing STEP, a 32-bit count,
while every member's count is above it; phase.new begins the next phase, phase.rd and phase.wr declare a range or trap at an overlap. -/
def Obligations.RingsAdvanceAndPhasesAreDeclared : Prop :=
  ∀ (s : State) (n : BitVec 3) (a b : BitVec 6) (r : BitVec 2) (e : BitVec 3) (i : Nat) (x : SbarArr), let th := s.me; let key := th.cluster * 8 + n.toNat
    let rg := s.rings.get key; let g := s.ys a; let v := s.ys b; let own := rg.active = true ∧ rg.owner = th.gang + 1
    let fits := flag g 23 = false ∧ flag g 47 = false ∧ bits g 52 12 = 0 ∧ field g 0 23 % 128 = 0 ∧ field g 24 23 % 128 = 0 ∧ field g 24 23 ≠ 0 ∧
      field g 0 23 + (field g 48 4 + 1) * field g 24 23 ≤ 2 ^ 23 ∧ bits v 32 32 = 0 ∧ bits v 8 7 = 0 ∧ bits v 24 7 = 0
    let p := partyOf (bits v 0 16); let q := partyOf (bits v 16 16)
    let sbar := fun (w : Instr) (party : RingParty) (base : Nat) => ∀ m, own → party.memberThread rg s.cur th.ix1 base = some m →
      let es := if party.kind then allEngines else allEngines.filter fun e => flag party.mask (engCode e)
      let made : SbarArr := { ring := key, member := m, thread := s.cur, ord := th.ordOf .syn, engines := es }
      ((rg.counts.get m - rg.step).toInt < rg.stages → Does .syn w s { s with sbars := s.sbars ++ [made] }) ∧
      ((rg.stages : Int) ≤ (rg.counts.get m - rg.step).toInt → Waits .syn w s .outside)
    let R := s.rings.get x.ring
    let set_ : Ring := { active := true, owner := th.gang + 1, thread := s.cur, base := field g 0 23, ssz := field g 24 23, stages := field g 48 4 + 1,
                         prod := p, cons := q, step := 0, counts := [] }
    let range : Range := if v.toNat = 0 then ⟨0, 0⟩ else ⟨g.toNat, v.toNat⟩
    let phase := fun (w : Instr) (write : Bool) (at_ : Nat) => th.allBefore .syn = true → g.toNat % 16 = 0 → v.toNat % 16 = 0 → g.toNat + v.toNat ≤ 2 ^ 23 →
      (s.phaseClash s.cur e.toNat range write = none → Does .syn w s (s.modMe fun th => { th with phases := th.phases.set at_ range })) ∧
      (∀ c, s.phaseClash s.cur e.toNat range write = some c →
        ∃ t : TrapInfo, t.code = .phaseOverlap ∧ t.addr = BitVec.ofNat 64 c ∧ Traps .syn w s t)
    (rg.active = false → fits → s.partyBad p = false → s.partyBad q = false → s.partiesMeet p q = false → Does .syn (.ring n a b) s { s with rings := s.rings.set key set_ }) ∧
    let keep := s.sbars.filter fun y => y.ring ≠ key
    (own → Does .syn (.ringRel n) s { s with rings := s.rings.set key default, sbars := keep }) ∧
    sbar (.sbarP n) rg.prod 0 ∧ sbar (.sbarC n) rg.cons 8 ∧
    (s.sbars[i]? = some x → ((s.sbars.take i).any fun y => y.ring == x.ring && y.member == x.member) = false → x.ready s = true →
      ∃ u, exec (.sbarArrivalEffect i) s = .next u ∧ u.sbars = s.sbars.eraseIdx i ∧ u.mem = (s.drainThread x.thread).mem ∧ u.spad = s.spad ∧
        u.threads = s.threads ∧ (∀ k, k ≠ x.ring → u.rings.get k = s.rings.get k) ∧
        ∃ c, c ≤ 16 ∧ u.rings.get x.ring = { R with counts := R.counts.set x.member (R.counts.get x.member + 1), step := R.step + BitVec.ofNat 32 c } ∧
          (∀ m ∈ R.prod.members 0 ++ R.cons.members 8, 0 ≤ ((u.rings.get x.ring).counts.get m - (u.rings.get x.ring).step).toInt ∨ c = 0) ∧
          (c < 16 → (u.rings.get x.ring).stepDone = false)) ∧
    (th.allBefore .syn = true → Does .syn .phaseNew s (s.modMe fun th => { th with phases := [], phase := th.phase + 1 })) ∧
    phase (.phaseRd r e a b) false (8 * e.toNat + r.toNat) ∧ phase (.phaseWr r e a b) true (8 * e.toNat + 4 + r.toNat)

/-! ## Owner tokens and range words (chapters Owner Tokens and Memory Model) -/

/-- R259, R263 to R268: a token word by a party within the holder, after its release, moves the piece as the rule says: tklend adds the holder to the lender
chain and gives the piece to its recipient, tkret gives it back, tksplit and tkjoin cut and join pieces, tkshare and tkunsh add and remove a share; tkrecl,
which waits for no earlier word, frees a lost piece, and a tainted verdict on a reclaimed one has no effect; where the holder changes in a
hardware-managed region no die of either party keeps a line with a byte of it. A word held at a share waits, and TOKEN_WAIT_RESUME makes it anew. That the
bytes of a piece are found by the pages and tiles that name its region at that time is the model's choice (log entry 25), as is that tkshare does not ask
whether its recipient has ended (log entry 41). -/
def Obligations.TokensMoveBetweenParties : Prop :=
  ∀ (s s1 s0 : State) (a b : BitVec 6) (r : Region) (p : Piece), let th := s.me; let addr := s.ys a; let v := s.ys b
    let key := th.cid * 4096 + field v 0 12
    let free := th.allBefore .syn = true ∧ tokHeld s key addr = .ok (r, p); let held := free ∧ tokBegin s key p = .ok s1
    let named := fun (q : Party) => s.partyOperand th.node v = some q; let only := bits v 12 52 = 0
    let cleared := fun (u : State) (q : Party) => (s.regions.get key).swManaged = false → ∀ d ∈ s.partyDies q, ∀ line < 2 ^ 43,
      lineMask (s1.extentsOf key) key p.base p.top line ≠ 0 → u.rdc.get (d * 2 ^ 43 + line) = default
    let pieces := fun (k : Nat) (f : List Piece → List Piece) (u : State) =>
      u.regions = s.regions.mod k (fun r => { r with pieces := f r.pieces }) ∧ u.threads = (s.modMe Thread.fenced).threads ∧ u.spad = s.spad
    let one := fun (k : Nat) (p : Piece) (f : Piece → Piece) (u : State) => pieces k (List.map fun q => if q.base = p.base then f q else q) u
    let lent := fun (q : Party) (x : Piece) => { x with holder := q, chain := x.chain ++ [{ party := x.holder, lost := false }], st := .lent }
    let lends := fun (w : Instr) (s0 : State) => ∀ q, named q → (s.ctxs.get th.cid).det = false ∨ field v 12 3 = 0 → s.recipientGone q = false →
      p.chain.length ≠ 4 → (held → p.shares = [] → ∃ u, exec w s0 = .next (u.retire .syn s) ∧ one key p (lent q) u ∧ cleared u p.holder ∧ cleared u q) ∧
      (free → p.shares ≠ [] → exec w s0 = .next (s.holdWord .syn .outside))
    let rets := fun (w : Instr) (s0 : State) => only → p.chain ≠ [] →
      (held → p.shares = [] → ∃ u, exec w s0 = .next (u.retire .syn s) ∧ one key p Piece.returned u ∧ cleared u p.holder ∧ cleared u p.lender) ∧
      (free → p.shares ≠ [] → exec w s0 = .next (s.holdWord .syn .outside))
    let again := fun (opc : BitVec 8) => { s0 with cur := s.cur } = s ∧ (th.st = .running ∨ th.st = .handler) ∧ th.pend = none ∧ th.held.get 7 ≠ none ∧
      ∃ x w, th.head .syn = some x ∧ x.item = .word w ∧ bits w 24 8 = opc ∧ bits w 10 6 = a ∧ bits w 4 6 = b
    let cut := fun (q : Piece) => if q.base = p.base then [{ q with top := addr.toNat }, { q with base := addr.toNat }] else [q]
    let join := fun (l : Nat) (ps : List Piece) => (ps.filter fun x => x.base ≠ p.base).map fun x => if x.base = l then { x with top := p.top } else x
    let mine := s.tokIssuer.within; let cid' := field v 16 10; let key' := cid' * 4096 + field v 0 12
    lends (.tklend a b) s ∧ rets (.tkret a b) s ∧
    (again 0xE5 → lends (.tokenWaitResume s.cur) s0) ∧ (again 0xE6 → rets (.tokenWaitResume s.cur) s0) ∧
    (held → only → addr.toNat % 16 = 0 → addr.toNat ≠ p.base → p.shares = [] → r.pieces.length ≠ 64 → s.unitPieces r.home < 131072 →
      Ends .syn (.tksplit a b) s (pieces key (List.flatMap cut))) ∧
    (∀ l, held → only → r.pieces.find? (fun q => q.top == addr.toNat) = some l → p.base = addr.toNat → l.holder = p.holder → l.chain = p.chain →
      l.taint = p.taint → l.st = p.st → p.shares = [] → l.shares = [] → Ends .syn (.tkjoin a b) s (pieces key (join l.base))) ∧
    (∀ q, held → named q → p.shares.length < 15 →
      Ends .syn (.tkshare a b) s fun u => one key p (fun x => { x with shares := x.shares ++ [q] }) u ∧ cleared u q) ∧
    (∀ q, th.allBefore .syn = true → only → tokPiece s key addr = .ok (r, p) → p.st ≠ .lost → p.shares.find? mine = some q → tokBegin s key p = .ok s1 →
      Ends .syn (.tkunsh a b) s fun u => one key p (fun x => { x with shares := dropShare mine x.shares }) u ∧ cleared u q) ∧
    (let found := (s.ctxs.get th.cid).sys = true ∧ bits v 13 3 = 0 ∧ bits v 26 38 = 0 ∧ (s.ctxs.get cid').st ≠ .free ∧ tokPiece s key' addr = .ok (r, p);
      (found → p.st = .reclaimed → flag v 12 = true → Does .syn (.tkrecl a b) s s) ∧
      (found → (p.st = .lost ∨ p.st = .reclaimed ∧ flag v 12 = false) → tokBegin s key' p = .ok s1 → Ends .syn (.tkrecl a b) s
        (pieces key' (List.map fun q => if q.base = p.base then q.reclaim (flag v 12) else q))))

/-- R270, R271, R251, R252, R418: rwb leaves no dirty byte, rinv no cached line of the range in the issuing die's cache, once the thread's posted stores are
performed, and both wait while no path leads to a table of their walks or to a home that they write back to; a create command in form lists a region of one free piece, a destroy command removes a region whose one piece is free, and each writes
status 1. That a destroyed region's cached bytes are found by the pages and tiles that name it then is the model's choice (log entry 25). -/
def Obligations.RangeWordsAndRegionCommands : Prop :=
  ∀ (s s1 : State) (a b : BitVec 6) (d at_ : Nat) (ps : List (Nat × Nat)) (p : Piece), let th := s.me; let v := s.ys b
    let runs := bits v 32 31 = 0 ∧ bits v 0 32 ≠ 0 ∧ (s.drainThread s.cur).rangeParts (s.ys a) v = some (ps, s1) ∧ s1.rangeAway th.die ps = false
    let cached := fun (u : State) (line : Nat) => u.rdc.get (th.die * 2 ^ 43 + line)
    let dw := fun (i : Nat) => s.homeDword (at_ + 8 * i); let cid := field (dw 0) 16 10; let key := cid * 4096 + field (dw 0) 32 12
    let usable := at_ % 64 = 0 ∧ s.paHole at_ = false ∧ s.paLost at_ = false ∧ regionFormOk dw = true ∧ (s.ctxs.get cid).st = .active
    let r := regionOfCmd dw; let old := s.regions.get key
    let listed := { s with regions := s.regions.set key r, copies := s.copies.set key { live := true, bad := false, serial := (s.ctxs.get cid).serial, region := r } }
    (th.allBefore .syn = true → runs → Ends .syn (.rwb a b) s fun u => u.regions = s.regions ∧ u.spad = s.spad ∧ u.threads = s.threads ∧
      ∀ q ∈ ps, ∀ line < 2 ^ 43, (cached u line).dirty &&& physMask line q.1 q.2 = 0) ∧
    (th.allBefore .syn = true → runs → Ends .syn (.rinv a b) s fun u => u.regions = s.regions ∧ u.spad = s.spad ∧ u.threads = s.threads ∧
      ∀ q ∈ ps, ∀ line < 2 ^ 43, physMask line q.1 q.2 ≠ 0 → cached u line = default) ∧
    (th.allBefore .syn = true → bits v 32 31 = 0 → bits v 0 32 ≠ 0 → (s.drainThread s.cur).rangeParts (s.ys a) v = none →
      exec (.rwb a b) s = .next ((s.drainThread s.cur).holdWord .syn .outside) ∧ exec (.rinv a b) s = .next ((s.drainThread s.cur).holdWord .syn .outside)) ∧
    (th.allBefore .syn = true → bits v 32 31 = 0 → bits v 0 32 ≠ 0 → (s.drainThread s.cur).rangeParts (s.ys a) v = some (ps, s1) →
      s1.rangeAway th.die ps = true → exec (.rwb a b) s = .next (s1.holdWord .syn .outside) ∧ exec (.rinv a b) s = .next (s1.holdWord .syn .outside)) ∧
    (th.allBefore .syn = true → bits v 32 31 = 0 → bits v 0 32 = 0 → Does .syn (.rwb a b) s s ∧ Does .syn (.rinv a b) s s) ∧
    (usable → field (dw 0) 0 2 = 1 → r.base % 16 = 0 → r.len % 16 = 0 → 16 ≤ r.len → r.base + r.len ≤ 2 ^ 57 → old.live = false →
      s.regionLost old = false → s.unitPieces r.home < 131072 → (s.die r.home).present = true →
      exec (.tkcmdCreate d at_) s = .next (listed.cmdStatus d (at_ + 32) 1)) ∧
    (usable → field (dw 0) 0 2 = 2 → s.regionLost old = false → old.live = true → old.pieces = [p] → (p.st = .heldWrite ∨ p.st = .reclaimed) → p.shares = [] →
      ∃ t : State, exec (.tkcmdDestroy d at_) s = .next (t.cmdStatus d (at_ + 32) 1) ∧ t.regions = s.regions.set key default ∧ t.copies = s.copies.set key default ∧
        t.spad = s.spad ∧ t.threads = s.threads ∧ ∀ e ∈ s.presentDies, ∀ line < 2 ^ 43,
          lineMask ((s.drainPosted fun q => q.rkey == key + 1).extentsOf key) key old.base (old.base + old.len) line ≠ 0 →
            t.rdc.get (e * 2 ^ 43 + line) = default)

/-! ## Translation: shoot-down, migration, park ring, home loss (chapter Paging) -/

/-- R245, R246, R410, R418: in a context with privilege a tlbi in form sends its removal to every die present, to the others as packets, and waits until each has acknowledged, then ends as an
acquire; without privilege it raises PRIVILEGE. A die acknowledges each outstanding removal of its own whose packet has arrived, whose named entries no
ordered atomic under way has used and from which a path leads back, whatever stands before it; it has then performed its posted stores, written back what
its cache holds under the named entries, and holds no entry that one of them names. That a removal travels as a packet of its own, and that one step
acknowledges every removal that is ready, are the model's choices (log entry 97). -/
def Obligations.ShootDownsRemoveWhatTheyName : Prop :=
  ∀ (s : State) (a b : BitVec 6) (d : Nat), let th := s.me; let v := s.ys b; let va := (s.ys a).toNat; let code := field v 16 2
    let size := 2 ^ (if code = 0 then 16 else if code = 1 then 21 else 25)
    let sent := fun (sel : TlbSel) => s.shootDown sel (.thread s.cur)
    let sends := fun (sel : TlbSel) => (sent sel).shoots = s.shoots ++ [{ sel := sel, who := .thread s.cur, dies := s.presentDies }] ∧
      (∀ e ∈ s.presentDies, e ≠ th.die → (sent sel).onWay e (.shoot sel (.thread s.cur)) = true) ∧
      { sent sel with shoots := s.shoots, pairs := s.pairs, packets := s.packets, routers := s.routers, ports := s.ports, dports := s.dports } = s
    let f := s.drainPosted fun p => p.die == d
    let waiting := (s.shoots.any fun y => y.who == .thread s.cur) = true
    let word := fun (w : Instr) (form : Prop) (sel : TlbSel) =>
      ((s.ctxs.get th.cid).sys = true → th.synStage ≠ 1 → form → s.presentDies ≠ [] →
        exec w s = .next (((sent sel).setStage 1).holdWord .syn .outside) ∧ sends sel) ∧
      ((s.ctxs.get th.cid).sys = true → th.synStage = 1 → waiting → Waits .syn w s .outside) ∧
      ((s.ctxs.get th.cid).sys = true → th.synStage = 1 → ¬ waiting → Does .syn w s ((s.setStage 0).acquire s.cur)) ∧
      ((s.ctxs.get th.cid).sys = false → ∃ t : TrapInfo, t.code = .privilege ∧ Traps .syn w s t)
    word (.tlbiVa a b) (bits v 10 6 = 0 ∧ bits v 18 46 = 0 ∧ code ≠ 3 ∧ va % size = 0) (.page (field v 0 10) va size) ∧
    word (.tlbiTen a b) (bits (s.ys a) 16 48 = 0 ∧ bits v 10 54 = 0) (.tensor (field v 0 10) (field (s.ys a) 0 16)) ∧
    word (.tlbiCtx b) (bits v 10 54 = 0) (.ctx (field v 0 10)) ∧
    word .tlbiAll True .all ∧
    let ready := fun (x : Shoot) => x.dies.contains d && !s.onWay d (.shoot x.sel x.who) && !s.atomoUsed d x &&
      (!(s.die (x.who.die s)).present || s.pathOpen d (x.who.die s))
    let after := fun (x : Shoot) => { x with dies := x.dies.filter (· ≠ d) }
    let hit := fun (e : TlbEnt) => e.die == d && s.shoots.any fun x => ready x && x.sel.hits e
    ((∀ x ∈ s.shoots, ready x = false) → exec (.tlbiAcknowledge d) s = .next s) ∧
    ((∃ x ∈ s.shoots, ready x = true) → ∃ u, exec (.tlbiAcknowledge d) s = .next u ∧ u.tlb = s.tlb.filter (fun e => !hit e) ∧
      u.ktm = s.ktm.filter (fun e => !(e.die == d && s.shoots.any fun x => ready x && x.sel.hitsKtm e)) ∧ u.spad = s.spad ∧ u.threads = s.threads ∧
      u.mem = ((s.tlb.filter hit).foldl (fun (t : State) e => t.physBack d e.frame.1 e.frame.2) f).mem ∧
      (∀ x ∈ s.shoots, ready x = true → x.dies.filter (· ≠ d) ≠ [] → after x ∈ u.shoots) ∧
      (∀ x ∈ s.shoots, ready x = false → x.dies ≠ [] → x ∈ u.shoots) ∧
      (∀ y ∈ u.shoots, ready y = false ∧ (y ∈ s.shoots ∨ ∃ x ∈ s.shoots, ready x = true ∧ y = after x)))

/-- R241, R242, R247, R248: MIGCMD queues a command while 16 are not queued; a migration that may start marks its leaf migrating and shoots its page down,
and once every die has acknowledged, copies the page home to home, points the leaf at the new frame and writes its status; a park-ring register takes
its value; on a frozen die no migration starts or ends (R467); a lost home's die leaves the domain, with its translations, its posted stores and every cached line homed
there. That the posted stores of the lost die itself are dropped, while those of others to it are performed there, is the model's choice (log entry 44), as
is what else of a frozen die stands still (log entry 51). -/
def Obligations.PagesMigrateAndHomesAreLost : Prop :=
  ∀ (s : State) (d cmd : Nat) (v : Dword) (rest : List Nat) (e : Dword) (lv : Nat) (m : Mig), let D := s.die d
    let s1 := s.setDie d fun x => { x with migQ := rest }; let cid := field (s.homeDword cmd) 0 10; let va := (s.homeDword (cmd + 8)).toNat
    let new := (s.homeDword (cmd + 16)).toNat; let size := levelSize lv; let leaf := s1.leafAddr va walkLevels (s1.root cid)
    let mayStart := D.frozen = false ∧ s1.cmdUsable cmd = true ∧ s1.migForm cmd = true ∧ cid ≠ 0 ∧ va < 2 ^ 57 ∧ s1.walk va false walkLevels (s1.root cid) = .ok (e, lv) ∧
      field e 2 2 = 1 ∧ levelCode lv = field (s.homeDword cmd) 16 2 ∧ new % size = 0 ∧ s1.paHole new = false ∧ s1.paLost new = false ∧
      s1.paLost (field e 8 42 * 256) = false ∧ s1.presentDies ≠ []
    let old := field m.leaf 8 42 * 256; let f := s.flushEverywhere old m.sz; let c := f.copyHome m.cid old m.newFrame m.sz
    let gone := fun (s : State) => s.setDie d fun x => { x with present := false }
    (D.migQ.length < 16 → exec (.migcmdWrite d v) s = .next (s.setDie d fun x => { x with migQ := x.migQ ++ [field v 0 57] })) ∧
    (D.mig = none → D.migQ = cmd :: rest → mayStart → ∃ u, exec (.migrationStart d) s = .next u ∧ u.mem = (s1.homeWriteDword 0 leaf (withSt e 2)).mem ∧
      u.shoots = s.shoots ++ [{ sel := .page cid (va / size * size) size, who := .mig d, dies := s.presentDies }] ∧
      (u.die d).migQ = rest ∧ (u.die d).mig = some { cmd := cmd, cid := cid, va := va, sz := size, leafAt := leaf, leaf := e, newFrame := new }) ∧
    (D.mig = some m → (s.shoots.any fun y => y.who == .mig d) = true → exec (.migrationFinish d) s = .next s) ∧
    (D.frozen = true → exec (.migrationStart d) s = .next s ∧ exec (.migrationFinish d) s = .next s) ∧
    (D.mig = some m → D.frozen = false → (s.shoots.any fun y => y.who == .mig d) = false →
      exec (.migrationFinish d) s = .next ((((c.homeWriteDword 0 m.leafAt (withSt (withFrame m.leaf m.newFrame) 1)).migStatus d m.cmd
        (if f.rangePoison old m.sz then 4 else 1)).setDie d fun x => { x with mig := none }).pageFree m.cid m.va m.sz) ∧
      (f.paDown m.newFrame = false → c.homeRead m.newFrame m.sz = f.homeRead old m.sz)) ∧
    (exec (.parkRingWrite d 0x30 v) s = .next ((s.setDie d fun x => { x with plbase := v &&& 0x3FFFFFFFFF00F }).retryParks d)) ∧
    (exec (.parkRingWrite d 0x31 v) s = .next ((s.setDie d fun x => { x with plpos := cat 64 (bits v 32 32) (bits x.plpos 0 32) }).retryParks d)) ∧
    ((∀ w ∈ s.parkWaits, w.die ≠ d) → s.retryParks d = s) ∧
    (D.present = false → exec (.homeLoss d) s = .next s) ∧
    (D.present = true → exec (.homeLoss d) s = .next ((gone s).homeLostEvent d)) ∧
    (D.present = true → s.gangs = [] → s.tasks = [] → (∀ x ∈ s.dies, x.2.mig = none) →
      ∃ u, exec (.homeLoss d) s = .next u ∧ (u.die d).present = false ∧ u.tlb = s.tlb.filter (fun e => homeOf (field e.e0 8 42 * 256) ≠ d) ∧
        u.posted = s.posted.filter (fun p => homeOf p.pa != d && p.die != d) ∧ ∀ x ∈ u.rdc, homeOf (x.1 % 2 ^ 43 * 128) ≠ d)

/-! ## SYN: the thread, its children and its waits (chapters Context, Queues, Kernels and Memory Model) -/

/-- R121 to R124, R136 to R138, R146, R26, R469, R295: the words of SYN that act on their own thread: the seed words once VEC and MAT owe no draw, trap,
resume in either form, eret, wrcfg and rdcfg, pwr.st and pwr.hint, wait.sb, halt. That a seed word of a handler does not wait for drawing words set aside is
the model's choice (log entry 101). -/
def Obligations.SynWordsOnTheirThread : Prop :=
  ∀ (s s1 : State) (a : BitVec 6) (n i : BitVec 8) (e : SeedEntry) (rest : List SeedEntry) (bs : List Byte) (skip : BitVec 8), let th := s.me; let v := s.ys a
    let handler := th.st = .handler; let sys := (s.ctxs.get th.cid).sys
    let calm := th.vecOwes = false ∧ th.matOwes = false ∧ th.arrayOwes = false
    let seeds := fun (l : List SeedEntry) => s.modMe fun th => { th with seeds := l }
    let traps := fun (w : Instr) (c : TrapCode) => ∃ t : TrapInfo, t.code = c ∧ Traps .syn w s t
    let fork := fun (key : Dword) (x : Nat) => let c := BitVec.ofNat 64 (7 * 2 ^ 61 + 2 * x)
      ((draw key c).setWidth 64 <<< 32) + (draw key (c + 1)).setWidth 64
    let counted := fun (s1 : State) => (s1.setStage 0).modMe fun th => th.ws .syn a (BitVec.ofNat 64 th.unclean)
    let aborted := if th.synStage = 1 then s else (s.abortAll s.cur true fun e => e == .xfr || e == .fab || e == .atn).setStage 1
    (calm → th.seeds.length < 16 → Does .syn (.seedPush a) s (seeds ({ key := v, vec := 0, mat := 0 } :: th.seeds))) ∧
    (calm → 16 ≤ th.seeds.length → traps (.seedPush a) .shape ∧ traps (.seedFork a) .shape) ∧
    (calm → th.seeds = e :: rest → Does .syn .seedPop s (seeds rest)) ∧ (calm → th.seeds = [] → traps .seedPop .shape ∧ traps (.seedFork a) .shape) ∧
    (calm → th.seeds = e :: rest → rest.length < 15 →
      Does .syn (.seedFork a) s (seeds ({ key := fork e.key (field v 0 60), vec := 0, mat := 0 } :: e :: rest))) ∧
    (th.vecOwes = true → Waits .syn (.seedPush a) s (.engines [.vec]) ∧ Waits .syn .seedPop s (.engines [.vec]) ∧
      Waits .syn (.seedFork a) s (.engines [.vec])) ∧
    (∃ t : TrapInfo, t.code = .userTrap ∧ t.addr = cat 64 i (bits v 0 56) ∧ Traps .syn (.trap i a) s t) ∧
    (handler → th.sbPending = false → rewriteRecord s = .ok s1 → Does .syn (.resumeWait a) s (counted s1)) ∧
    (handler → th.sbPending = true → Waits .syn (.resumeWait a) s .outside) ∧
    (handler → aborted.me.sbPending = false → rewriteRecord aborted = .ok s1 → Does .syn (.resumeAbort a) s (counted s1)) ∧
    (handler → aborted.me.sbPending = true → exec (.resumeAbort a) s = .next (aborted.holdWord .syn .outside)) ∧
    (¬ handler → traps (.resumeWait a) .illegalInsn ∧ traps (.resumeAbort a) .illegalInsn ∧ traps .eret .illegalInsn) ∧
    (handler → th.allBefore .syn = true → th.sbPending = true → exec .eret s = .next ((s.setStage 1).holdWord .syn .outside)) ∧
    (eretCore s = .ok (bs, skip, s1) → s1.me.sten = false → ∃ u, exec .eret s = .next u ∧ u.me.st = .running ∧ u.me.inh = false ∧ u.mem = s1.mem ∧
      u.spad = s1.spad ∧ (∀ j, 1 ≤ j → j < 64 → u.me.s.get j = leDword ((bs.drop (8 * j)).take 8)) ∧
      u.me.fpctl = leDword ((bs.drop 0x268).take 8) &&& 0x1FFB ∧ u.me.aside = [] ∧ u.me.v = s1.me.v ∧ u.me.m = s1.me.m ∧ u.me.acc = s1.me.acc ∧
      ∀ t, t ≠ s1.cur → u.thr t = s1.thr t) ∧
    (sys = true → (n ≠ 0x20 ∨ (s.die th.die).migQ.length < 16) → Does .syn (.wrcfg n a) s (s.writeCfg th.die n.toNat v)) ∧
    (sys = true → 16 ≤ (s.die th.die).migQ.length → Waits .syn (.wrcfg 0x20 a) s .outside) ∧
    (sys = false → traps (.wrcfg n a) .privilege) ∧
    Does .syn (.rdcfg n a) s (s.modMe fun th => th.ws .syn a (s.readCfg th.die n.toNat)) ∧
    Does .syn (.pwrSt a) s (s.modMe fun th => th.ws .syn a (s.die th.die).pwrst) ∧
    (bits v 2 62 = 0 → Does .syn (.pwrHint a) s (s.modMe fun th => { th with hintX := bits v 0 2 ^^^ 2 })) ∧
    (bits v 2 62 ≠ 0 → traps (.pwrHint a) .shape) ∧
    (th.sbPending = false → Does .syn .waitSb s s) ∧ (th.sbPending = true → Waits .syn .waitSb s .outside) ∧
    (s.haltReady s.cur = false → Waits .syn .halt s .outside) ∧
    (s.haltReady s.cur = true → ∃ u, exec .halt s = .next u ∧ (u.thr s.cur).st = .ended ∧ (u.thr s.cur).iq = [] ∧ (u.thr s.cur).seeds = th.seeds ∧
      ∀ t, t ≠ s.cur → (u.thr t).st = (s.thr t).st ∧ (u.thr t).s = (s.thr t).s)

/-- R192, R193, R295, R249, R145: launch submits a node body and ends when the node is accepted, its slot naming the node; a launch reads its
body once, then waits for its entry and for room; cwait ends when the slot's node has ended; a wait on memory reads at home and ends as an acquire when its
compare holds and else waits to read again; replay tries parked work again and waits while an access that it took up has neither translated nor parked;
ctxsv stops a live gang and waits until it is saved; ctxld reloads a saved one, or ends one that no place can take any more. That replay tries each piece
of work once before it waits (log entry 52), the place of a restored gang (log entry 45), that ctxld finds the gang by the linear address of its area (log
entry 85) and that a launch waits while a graph list of its context is entering (log entry 69) are the model's choices. -/
def Obligations.LaunchesWaitsAndGangMoves : Prop :=
  ∀ (s s1 s3 s4 s5 from_ : State) (n : BitVec 4) (a b : BitVec 6) (as : List Acc) (data : List Byte) (bad : Bool) (j t g : Nat) (p : Place) (bd : Body)
    (ky : Dword), let th := s.me
    let x := s.ys a; let y := s.ys b; let sys := (s.ctxs.get th.cid).sys = true; let w := s.issuer s.cur .syn
    let reads := s.accessLin w x.toNat 64 false 0 = .ok (as, s1) ∧ s1.loadAccs w as = ((data, bad), s3)
    let looks := s.accessLin w x.toNat 8 false 1 = .ok (as, s1) ∧ s1.readsHome w as = ((data, bad), s3)
    let seen := s3.readTaint s3.cur .syn bad (s1.accsTaint w as); let body := bodyOf data
    let stage := launchStage bd ky true; let unsent := from_.setStage (launchStage bd ky false)
    let began := (th.synStage < 2 ∧ field x 0 6 = 0 ∧ reads ∧ body.ok false = true ∧ from_ = seen ∧ bd = body ∧
        ky = (match seen.me.seeds with | e :: _ => e.key | [] => 0)) ∨
      (2 ≤ th.synStage ∧ stageTaken th.synStage = false ∧ from_ = s ∧ bd = stageBody th.synStage ∧ ky = stageKey th.synStage)
    let submits := began ∧ takeEntry unsent .syn 0x0E 0 = .ok (j, s4)
    let empty := fun (k : Nat) => th.child.get k = 0 ∨ (s.nodes.get (th.cid * 2 ^ 32 + th.child.get k)).st.inFlight = false
    let word := fun (i : Instr) (holds : Nat → Nat → Prop) =>
      (¬ (th.synStage = 1 ∧ th.recheck = false) → th.allBefore .syn = true → field x 0 3 = 0 → looks →
        (holds (leDword data).toNat y.toNat → Does .syn i s ((seen.setStage 0).acquire seen.cur)) ∧
        (¬ holds (leDword data).toNat y.toNat →
          exec i s = .next ((seen.modMe fun th => { th with synStage := 1, recheck := false }).holdWord .syn .outside))) ∧
      (th.synStage = 1 → th.recheck = false → Waits .syn i s .outside)
    let replayed := if th.synStage = 1 then s else s.tasks.foldl (fun s e => if replayNames x e.2.cid then s.replayTask e.1 else s) s |>.parkedAgain s.parkWaits
    let remain := (replayed.parkWaits.any fun w => w.again && replayNames x w.cid) || replayed.tasks.any fun e => replayNames x e.2.cid && e.2.again == some e.2.work
    let named := bits x 10 53 = 0 ∧ (flag x 63 = false ∨ bits x 0 10 = 0)
    let die := field y 11 5 * 8 + field y 0 3; let core := field x 21 5 * 8 + field x 10 3; let G := (s.thr t).gang
    let back := s1.restoreAt g p x.toNat true
    (submits → s4.acceptLaunch s4.cur n.toNat stage (s4.me.ordOf .syn) = some s5 → Does .syn (.launch n a) s (s5.setStage 0)) ∧
    (submits → s4.acceptLaunch s4.cur n.toNat stage (s4.me.ordOf .syn) = none →
      exec (.launch n a) s = .next ((s4.setStage stage).holdWord .syn .outside)) ∧
    (began → unsent.me.sbFree = none → exec (.launch n a) s = .next (unsent.holdWord .syn .outside)) ∧
    (stageTaken th.synStage = true → Waits .syn (.launch n a) s .outside) ∧
    (s4.listing (s4.thr t).cid none = true → ∀ k o, s4.acceptLaunch t k stage o = none) ∧
    (∀ k o, s4.acceptLaunch t k stage o = some s5 →
      (s5.thr t).child.get k = (s4.ctxs.get (s4.thr t).cid).nextId.toNat) ∧
    (empty n.toNat → Does .syn (.cwait n) s ((s.modMe fun th => { th with child := th.child.set n.toNat 0 }).acquire s.cur)) ∧
    (¬ empty n.toNat → Waits .syn (.cwait n) s .outside) ∧
    ((∀ k < 16, empty k) → Does .syn .cwaitAll s ((s.modMe fun th => { th with child := [] }).acquire s.cur)) ∧
    ((∃ k < 16, ¬ empty k) → Waits .syn .cwaitAll s .outside) ∧
    word (.waitGeu a b) (fun v r => r ≤ v) ∧ word (.waitEq a b) (fun v r => v = r) ∧ word (.waitNe a b) (fun v r => v ≠ r) ∧
    word (.waitLtu a b) (fun v r => v < r) ∧
    (∃ u, exec (.memoryWaitRecheck t) s = .next u ∧ u = { s with threads := u.threads } ∧ u.thr t = { s.thr t with recheck := true } ∧
      ∀ v, v ≠ t → u.thr v = s.thr v) ∧
    (sys → named → remain = false → Does .syn (.replay a) s (replayed.setStage 0)) ∧
    (sys → named → remain = true → exec (.replay a) s = .next ((replayed.setStage 1).holdWord .syn .outside)) ∧
    (sys → th.synStage < 2 → field y 0 16 = 0 → s.onCore core (field x 13 8) = some t → bits x 26 38 = 0 → (s.thr t).cid = field x 0 10 →
      s.accessLin (Issuer.agent (s.thr t).die (field x 0 10)) y.toNat (s.areaBytes G) true 0 = .ok (as, s1) → (s.gangs.get G).st = .live →
      exec (.ctxsv a b) s = .next (((s1.stopGang G true y.toNat).setStage (G + 2)).holdWord .syn .outside)) ∧
    (sys → 2 ≤ th.synStage → (s.gangs.get (th.synStage - 2)).st = .stopping → Waits .syn (.ctxsv a b) s .outside) ∧
    (sys → 2 ≤ th.synStage → (s.gangs.get (th.synStage - 2)).st ≠ .stopping → Does .syn (.ctxsv a b) s (s.setStage 0)) ∧
    (sys → field x 0 16 = 0 → s.savedAt x.toNat = some g → s.gangStranded g = true → bits y 16 48 = 0 → Does .syn (.ctxld a b) s (s.loseGang g 0x15)) ∧
    (sys → field x 0 16 = 0 → s.savedAt x.toNat = some g → s.gangStranded g = false → s.movedPlace g die (field y 3 8) = some p → bits y 16 48 = 0 → (s.die die).present = true →
      s.placeFree g p = true →
      s.accessLin (Issuer.agent die (s.nodes.get (s.gangs.get g).node).cid) x.toNat (s.areaBytes g) false 0 = .ok (as, s1) →
      (back.gangs.get g).st ≠ .saved → Does .syn (.ctxld a b) s (back.unstop g))

/-- R288, R278, R367 to R371, R383, R459, R460, R467: an issued scratchpad write whose clock has come, on a die that is not frozen, puts its bytes there and nowhere else, where no write of
that clock by a higher core or engine stands; a posted store is performed, after the earlier ones of its thread that come before it; the array begins a command
committed in an earlier clock, or first replays its window where a stop has abandoned a replay (R383), and in the last clock of a command whose scales are
good every element of its tile takes the accumulated value and the rest of the accumulators stay; the nines core lets an equal value pass to its consumer,
and at a differing one withdraws every entry that SEQ pushed at or after it and raises CONTROL_DIVERGENCE. Which values are compared, and that a value is
withheld until the comparing step has let it pass, are the model's choices (log entry 75). -/
def Obligations.PendingAccessesAndArrayCommandsTakeEffect : Prop :=
  ∀ (s s1 : State) (n t num at_ : Nat) (w : SPend) (q : Posted) (b b1 : Batch) (c c1 : MatCmd) (reg : Bool) (v nines : Dword) (tile : Tile), let th := s.thr t
    let overlaps := (q :: comeBefore false q.thread (s.posted.take n).reverse [q.place]).contains; let rd := gotByte b1.got
    let frozen := (s.die th.die).frozen
    let begun := fun (rerun : Bool) (th : Thread) => th.setBatch fun b =>
      { b.idle with started := true, drawAt := (th.seedAt c.seed).mat, rerun := rerun }
    let ends := frozen = false ∧ th.curCmd = some (b, c) ∧ b.started = true ∧ clocksOf c ≤ b.pos + 1 ∧ s.arrayWaits t b c = false ∧
      s.arrayReads t ((readsDue b c).filter fun r => !s.readHeld t c r) = .ok s1 ∧ (s1.thr t).curCmd = some (b1, c1) ∧ clocksOf c1 ≤ b1.pos + 1 ∧
      scaleAtClock b1 c1 = none
    let key := ((s1.thr t).seedAt c1.seed).key; let el := fun (x : Thread) (k i j : Nat) => lane (x.acc.get (128 * k + i)) j
    let pushed := fun (q : Nat) => ((th.results.drop at_).filter fun x => x.what == q).length; let left := th.withdraw reg num s.clk
    let differs := th.compared reg num s.clk = some v ∧ th.active = true ∧ v ≠ nines
    let info := ({ code := .controlDivergence, estat := divergeEstat reg num, addr := v ^^^ nines } : TrapInfo)
    (s.spend[n]? = some w → w.act = .write → w.due ≤ s.clk → s.spadFrozen w = false → (∀ q ∈ s.landed, q.cluster = w.cluster → q.before w = true) →
      ∃ u, exec (.scratchpadWritePerform n) s = .next u ∧ u.spend = s.spend.eraseIdx n ∧ u.mem = s.mem ∧
      ∀ k, u.spad.get k = if w.cluster * 2 ^ 23 + w.addr ≤ k ∧ k < w.cluster * 2 ^ 23 + w.addr + w.bytes.length
        then w.bytes.getD (k - (w.cluster * 2 ^ 23 + w.addr)) 0 else s.spad.get k) ∧
    (s.spend[n]? = some w → (s.clk < w.due ∨ s.spadFrozen w = true) → exec (.scratchpadWritePerform n) s = .next s) ∧
    (s.posted[n]? = some q → ∃ u, exec (.memoryAccessPerformed n) s = .next u ∧ u.posted = s.posted.filter (fun x => !overlaps x) ∧ u.spad = s.spad ∧
      u.threads = s.threads ∧ u.mem = (s.drainPosted overlaps).mem ∧
      ∀ x ∈ s.posted.take n, x.thread = q.thread → overlap x.pa x.bytes.length q.pa q.bytes.length = true →
        (x.ord ≠ 3 ∨ q.ord ≠ 3 ∨ x.fences ≠ q.fences) → x ∉ u.posted) ∧
    (th.mayStart s.clk = true → th.curCmd = some (b, c) → b.since < s.clk) ∧
    (th.mayStart s.clk = true → frozen = false → th.curCmd = some (b, c) →
      (b.again = false → exec (.arrayCommandStart t) s = .next (s.modThr t (begun false))) ∧
      (b.again = true → s.replayWindow t c.acc = some tile → exec (.arrayCommandStart t) s = .next (s.modThr t fun th => begun true (th.setTile c.acc tile))) ∧
      (b.again = true → s.replayWindow t c.acc = none → exec (.arrayCommandStart t) s = .next (s.failError t b c))) ∧
    (th.mayStart s.clk = false ∨ frozen = true → exec (.arrayCommandStart t) s = .next s) ∧
    (ends → ∃ u, exec (.arrayCommandRetire t) s = .next u ∧ (b1.rerun = false → u.mem = s.mem) ∧ u.spad = s.spad ∧ (u.thr t).s = th.s ∧ (u.thr t).v = th.v ∧
      (u.thr t).tile c1.acc = tileResult c1 key b1.drawAt rd (th.tile c1.acc) ∧
      (∀ k, k ≠ c1.acc → (u.thr t).tile k = th.tile k) ∧
      (c1.op ≠ 4 → ∀ i < 128, ∀ j < 128, el (u.thr t) c1.acc i j = if i < fwM c1.fw ∧ j < fwN c1.fw
        then accElem c1.fw key b1.drawAt (el th c1.acc i j) i j (elemVals (blockVals rd c1) i j) else el th c1.acc i j)) ∧
    (th.lastClock = false ∨ frozen = true → exec (.arrayCommandRetire t) s = .next s) ∧
    (th.compared reg num s.clk = none ∨ th.active = false → exec (.ninesCompare t reg num nines) s = .next s) ∧
    (th.comparedAt reg num s.clk = some at_ → th.compared reg num s.clk = some v → th.active = true → v = nines →
      exec (.ninesCompare t reg num nines) s = .next (s.modThr t fun th => { th with results := th.results.eraseIdx at_ })) ∧
    (differs → exec (.ninesCompare t reg num nines) s = .next (((s.modThr t fun _ => left).raise t .seq info).noteDivergence th.die th.core)) ∧
    (th.comparedAt reg num s.clk = some at_ → left.results = th.results.take at_ ∧
      (∀ q ∈ seqQueues, left.qs.get q = (th.qs.get q).take ((th.qs.get q).length - pushed q)) ∧
      (∀ q, q ∉ seqQueues → left.qs.get q = th.qs.get q) ∧ left.s = th.s ∧ left.p = th.p)

/-- R126 to R134, R139, R158: a trap raised while the thread's array and MAT are idle, no atom of it on scratchpad is under way and no trap is pending: one that its user handler takes, the area
being writable, puts the record and the saved state into the area and enters the handler with the queues set aside and nothing else of the register files
changed, but for a format word that a waiting tile command has popped, which is at the head of q0 again; any other stops the thread, its record going to
a frame of its pool, or being held when none is free. That it is taken in the same step (log entry 31), that the waiting tile command gives its format word back
(log entry 94) and that a gang has one frame area for its records (log entry 18) are the model's choices. -/
def Obligations.TrapsAreTaken : Prop :=
  ∀ (s s1 : State) (t k : Nat) (e : Engine) (i : TrapInfo) (as : List Acc), let th := s.thr t; let pend : PendTrap := { eng := e, info := i }
    let waiting := s.modThr t fun th => ({ th with pend := some pend, fabStage := if e = .fab then 0 else th.fabStage } : Thread).unbegun; let q := th.unbegun
    let idle := th.curCmd = none ∧ th.arrayBusy = false ∧ th.move = none ∧ th.atomBegun = none ∧ (th.st = .running ∨ th.st = .handler)
    let plain := trapTaint i.code = none ∧ i.openE = 0 ∧ i.openA = false
    let user := flag th.trapvec 0 = true ∧ th.st = .running ∧ systemOnly i.code = false
    let w : Issuer := { waiting.issuer t e with eng := none }
    let entered := fun (u : State) => let x := u.thr t
      x.st = .handler ∧ x.inh = true ∧ x.pend = none ∧ x.aside = th.iq ∧ x.iq = [] ∧ x.savedFetch = th.fetch ∧ x.fetch = field th.trapvec 2 16 * 4 ∧
      x.loops = [] ∧ x.lcnt = 0 ∧ x.drain = 0 ∧ x.nst = 0 ∧ x.rrb = 0 ∧ x.tsCode = i.code.num ∧ x.tsEng = BitVec.ofNat 3 (engCode e) ∧
      x.skip = (if i.code = .brk then 1 else 0) ∧ x.s = th.s ∧ x.p = th.p ∧ x.v = th.v ∧ x.m = th.m ∧ x.acc = th.acc ∧ x.d = th.d ∧ x.qs = q.qs ∧
      x.qr = th.qr ∧ x.fpctl = th.fpctl ∧ x.trapvec = th.trapvec ∧ x.savedMarks = th.marks ∧ x.marks = []
    let record := fun (z : Thread) => trapArea { z with skip := (if i.code = .brk then 1 else 0) } e i false false
    let enters := fun (u : State) => entered u ∧ u.mem = (s1.storeAccs w as (record (waiting.thr t))).mem ∧ u.spad = s.spad ∧ ∀ v, v ≠ t → u.thr v = s.thr v
    let writable := waiting.accessLin w (field th.trapvec 18 46 * 2 ^ 11) 0x600 true 0 = .ok (as, s1)
    (idle → plain → user → writable → th.pend = none → enters (s.raise t e i)) ∧
    (idle → th.pend = some pend → user → waiting = s → writable → ∃ u, exec (.trapTakenUser t) s = .next u ∧ enters u) ∧
    (idle → th.pend = some pend → ¬ user → s.gangFrame th.gang th.cid = none → ∃ u, exec (.trapTakenSystem t) s = .next u ∧ u.mem = s.mem ∧
      u = { s with threads := u.threads } ∧ (u.thr t).st = .stopped ∧ (u.thr t).recHeld = true ∧ (u.thr t).pend = none ∧ (u.thr t).recCode = i.code ∧
      (u.thr t).recEng = e ∧ (u.thr t).recEstat = i.estat ∧ (u.thr t).recAddr = i.addr ∧ (u.thr t).s = th.s ∧ (u.thr t).iq = th.iq ∧
      ∀ v, v ≠ t → u.thr v = s.thr v) ∧
    (th.pend = none → th.recHeld = true → s.gangFrame th.gang th.cid = some k → s.areaBytes th.gang ≤ (s.ctxs.get th.cid).fsize.toNat * 0x10000 →
      s.accessLin (Issuer.agent th.die th.cid) (s.areaAt th.cid k + th.member * 0x60000) 0x600 true 0 = .ok (as, s1) →
      ∃ u, exec (.trapTakenSystem t) s = .next u ∧ (u.thr t).recHeld = false ∧ (u.thr t).area = some k ∧ (u.thr t).st = th.st ∧ (u.thr t).s = th.s ∧
        (u.ctxs.get th.cid).areas.get k = true)

/-! ## Gangs and nodes (chapters Context and Kernels) -/

/-- R141 to R147, R179 to R184, R194, R196, R202, R207, R462: the scheduler's steps: a gang that fits is dispatched, a loaded gang starts with every member, a
reservation is taken and dropped, children are boosted, a live gang that may be pre-empted stops with its members' registers kept, a settled one is saved
and leaves its cores, words that have begun being complete, a saved one is reloaded where it fits, and a core is fenced. That a fence's record names no context
(log entry 98), the place of a restored gang (log entry 45), its one area for frames and records (log entry 18) and that a waiting tile command counts as
unexecuted (log entry 94) are the model's choices. -/
def Obligations.TheSchedulerMovesGangs : Prop :=
  ∀ (s t2 t3 : State) (d n c g k core : Nat) (p : Place) (sh : Tab Range) (ns : List Nat), let D := s.die d; let x := s.gangs.get g; let N := s.nodes.get x.node
    let choice := (match D.reserved with | some n => (s.pool d).filter (· == n) | none => s.pool d).filter fun n => !s.lowerDie d n
    let leaves := fun (t : Nat) => (s.thr t).st = .running ∨ (s.thr t).st = .handler ∨ (s.thr t).st = .stopped
    let kept := fun (a b : Thread) => a.s = b.s ∧ a.p = b.p ∧ a.v = b.v ∧ a.m = b.m ∧ a.acc = b.acc ∧ a.d = b.d ∧ a.qs = b.qs ∧ a.qr = b.qr ∧ a.iq = b.iq
    let live := x.threads.filter fun t => (s.thr t).st == .leaving
    let done := live.foldl (fun (s : State) t => (s.finishMove t).finishAtom t) s
    let t1 := (done.drainPosted fun p => x.threads.contains p.thread).modGang g fun x => { x with area := k }
    let settled := x.st = .stopping ∧ s.gangSettled g = true ∧ done.areaBytes g ≤ (done.ctxs.get N.cid).fsize.toNat * 0x10000 ∧ x.byCtxsv = false ∧
      done.gangFrame g N.cid = some k ∧ saveThreads (t1.gangArea g) live t1 = .ok t2 ∧
      saveClusters g (x.threads.headD 0) (t2.gangClusters g) (t2.gangArea g + x.threads.length * 0x60000) t2 = .ok t3
    let fence := s.setDie d fun x => { x with coreBad := x.coreBad.set c true }
    (s.dieTakes d = true → s.firstFit d choice = some (n, p, sh) → exec (.gangDispatch d) s = .next (s.dispatchGang n p sh)) ∧
    (s.dieTakes d = false ∨ s.firstFit d choice = none → exec (.gangDispatch d) s = .next s) ∧
    (∀ (y : Node) (gi i share : Nat), let m := newMember y n g gi i p share
      m.st = .loaded ∧ m.s.get 1 = BitVec.ofNat 64 y.args ∧ m.s.get 2 = BitVec.ofNat 64 share ∧ (∀ j, j ≠ 1 → j ≠ 2 → m.s.get j = 0) ∧ m.fetch = 0 ∧
      m.slipw = 1024 ∧ m.member = i ∧ m.gang = g ∧ m.node = n ∧ m.cid = y.cid ∧ (m.die, m.core) = p.getD i (0, 0)) ∧
    (x.st = .loading → ∃ u, exec (.gangStart g) s = .next u ∧ u.gangs.get g = { x with st := .live } ∧ u.mem = s.mem ∧ u.spad = s.spad ∧
      (∀ t, t ∈ x.threads → (s.thr t).st = .loaded → u.thr t = { s.thr t with st := .running }) ∧
      (∀ t, (t ∉ x.threads ∨ (s.thr t).st ≠ .loaded) → u.thr t = s.thr t)) ∧
    (x.st ≠ .loading → exec (.gangStart g) s = .next s) ∧
    (D.reserved = none → s.pool d = n :: ns → s.fitsNow d n = false → (s.nodes.get n).dropped.contains d = false →
      exec (.reservationTimeout d) s = .next (s.setDie d fun x => { x with reserved := some n })) ∧
    (D.reserved = none → s.pool d = n :: ns → s.fitsNow d n = true → exec (.reservationTimeout d) s = .next s) ∧
    (D.reserved = some n → s.emptied.fitsNow d n = true → exec (.reservationDrop d) s = .next s) ∧
    (D.reserved = some n → s.emptied.fitsNow d n = false → ∃ u, exec (.reservationDrop d) s = .next u ∧ (u.die d).reserved = none ∧
      u.nodes.get n = { s.nodes.get n with dropped := (s.nodes.get n).dropped ++ [d], unplaceable := (u.nodes.get n).unplaceable } ∧ u.threads = s.threads ∧ u.gangs = s.gangs) ∧
    (x.st = .live → s.gangAwaits g = true → exec (.childBoostTimeout g) s = .next (s.modGang g fun x => { x with boost := true })) ∧
    (x.st ≠ .live ∨ s.gangAwaits g = false → exec (.childBoostTimeout g) s = .next s) ∧
    (s.mayPreempt g = true → ∃ u, exec (.gangPreempt g) s = .next u ∧ (u.gangs.get g).st = .stopping ∧ u.mem = s.mem ∧ u.spad = s.spad ∧
      (∀ t ∈ x.threads, leaves t → (u.thr t).st = .leaving ∧ (u.thr t).was = (s.thr t).st ∧ kept (u.thr t) (s.thr t).unbegun) ∧
      (∀ t, (t ∉ x.threads ∨ ¬ leaves t) → u.thr t = s.thr t)) ∧
    (s.mayPreempt g = false → exec (.gangPreempt g) s = .next s) ∧
    (settled → ∃ u, exec (.gangSaved g) s = .next u ∧ (u.gangs.get g).st = .saved ∧ (u.gangs.get g).area = k ∧
      (∀ t ∈ x.threads, (s.thr t).st = .leaving → (u.thr t).st = .saved ∧ kept (u.thr t) (done.thr t)) ∧
      (∀ e ∈ u.handles, e.2.owner ≠ g + 1) ∧ (∀ e ∈ u.cbars, e.2.owner ≠ g + 1) ∧ (∀ e ∈ u.rings, e.2.owner ≠ g + 1)) ∧
    ((∀ t ∈ live, (s.thr t).move = none ∧ (s.thr t).atomBegun = none) → ∀ t, done.thr t = s.thr t) ∧
    (x.st ≠ .stopping ∨ s.gangSettled g = false → (s.ctxs.get N.cid).st ≠ .stopping → exec (.gangSaved g) s = .next s) ∧
    (x.st = .saved → x.byCtxsv = false → (s.ctxs.get N.cid).st = .active → flag N.dies (d % 8) = true → s.gangStranded g = false →
      s.movedPlace g d core = some p → s.placeFree g p = true → exec (.gangRestore g d core) s = .next (s.restoreAt g p (s.gangArea g) false)) ∧
    (x.st ≠ .saved → exec (.gangRestore g d core) s = .next s) ∧
    (D.coreBad.get c = false → c < 256 → s.onCore d c = none → exec (.fenceCore d c) s =
      .next (fence.log d { kind := 7, code := 0, unit := c, cid := none, addr := 0, node := 0 }).logUnplaceables) ∧
    (D.coreBad.get c = false → c < 256 → ∀ t, s.onCore d c = some t → exec (.fenceCore d c) s =
      .next ((fence.loseGang (s.thr t).gang 0x51).log d { kind := 7, code := 0, unit := c, cid := none, addr := 0, node := 0 }).logUnplaceables) ∧
    (D.coreBad.get c = true ∨ 256 ≤ c → exec (.fenceCore d c) s = .next s)

/-- R177, R185, R189: a running node whose gangs are all given and ended takes the verdict of its highest contribution; its completion record ends it, and
a node that waited for it alone is held after a bad verdict and else becomes ready. -/
def Obligations.NodesEndWithTheirVerdict : Prop :=
  ∀ (s : State) (n : Nat), let x := s.nodes.get n; let r := x.contrib.rank
    let over_ := x.st = .running ∧ x.given = x.gangs ∧ x.live = 0
    (over_ → ∃ u, exec (.nodeEnding n) s = .next u ∧ u = { s with nodes := u.nodes } ∧
      u.nodes.get n = { x with st := .ending, verdict := if r = 3 then 5 else r + 1, reason := x.contrib.reason } ∧
      ∀ m, m ≠ n → u.nodes.get m = s.nodes.get m) ∧
    (¬ over_ → exec (.nodeEnding n) s = .next s) ∧
    (x.st = .ending → s.recordWaits n = false → ∃ u, exec (.nodeCompletionRecord n) s = .next u ∧ u.nodes.get n = { x with st := .ended } ∧
      ∀ m, (s.nodes.get m).st = .waiting → (s.nodes.get m).preds = [n] →
        (u.nodes.get m).st = if (s.nodes.get m).hold = true ∨ x.verdict = 3 ∨ x.verdict = 4 ∨ x.verdict = 5 then .held else .ready) ∧
    (x.st ≠ .ending → exec (.nodeCompletionRecord n) s = .next s)

/-! ## The host's side (chapter Queues) -/

/-- R149 to R158, R121, R122, R170, R171, R395, R421, R486: the packet at the head of the queue that a port serves, in form and not held by its BAR bit, is
taken when its work is accepted: HEAD rises by one, the queue stays active and no other queue changes. Launch and graph packets enter nodes, a graph packet
as many of its list in order as there is room for, being accepted with the last, seed packets
change the context's stack, a wait packet waits while its compare fails, a signal packet's value is written once its nodes have ended, a re-shard begins;
a malformed packet stops its queue in state error; and a QTAIL write sets TAIL, of a queue that is not attached too, but is dropped where its port cannot be
used. The key that a launch or graph packet's nodes fork is the one on top at its fetch. That a graph list enters in part, that no other node of its context
enters between, and its event after all have ended (log entry 69), when a queue's turn ends (log entry 14), and that a signal counts its nodes by QID (log
entry 87) are the model's choices. -/
def Obligations.HostPacketsAreTaken : Prop :=
  ∀ (s s1 s2 : State) (q n p : Nat) (v : Dword) (e : SeedEntry) (seeds : List SeedEntry) (as : List Acc) (y : Signal)
    (data : List Byte) (a : Admission), let x := s.queues.get q; let b := s.packet q; let C := s.ctxs.get x.cid
    let here := fun (kind : Nat) => s.serves q = true ∧ packetOk q b = true ∧ field (b.dw 0) 0 8 = kind ∧ s.barHolds q b = false
    let took := fun (u : State) => u.queues.get q = { x with head := x.head + 1, st := .active, entered := [], atSlot := none, kp := none } ∧ ∀ k, k ≠ q → u.queues.get k = s.queues.get k
    let dev := Issuer.agent x.die x.cid; let addr := (b.dw 1).toNat; let irq := flag (b.dw 0) 8
    let pushed := fun (w : Instr) (key : Dword) => C.seeds.length < 16 → ∃ u, exec w s = .next u ∧ took u ∧
      u.ctxs.get x.cid = { C with seeds := { key := key, vec := 0, mat := 0 } :: C.seeds } ∧ u.mem = s.mem
    let refused := fun (w : Instr) => ∃ u, exec w s = .next u ∧ took u ∧ u.ctxs = s.ctxs ∧ u.mem = s.mem ∧ u.nodes = s.nodes
    let sees := s.accessLin dev addr 8 false 0 = .ok (as, s1) ∧ s1.loadAccs dev (as.map fun a => { a with ord := 1 }) = ((data, false), s2)
    let holds := packetCompare (field (b.dw 3) 0 2) (leDword data) (b.dw 2)
    let waits := fun (w : Instr) => (sees → holds = true → ∃ u, exec w s = .next u ∧ took u ∧ u.mem = s2.mem) ∧
      (sees → holds = false → ∃ u, exec w s = .next u ∧ u.queues.get q = { x with st := .waiting } ∧ u.mem = s2.mem)
    let sent : Signal := { store := true, qid := q, cid := x.cid, addr := addr, value := b.dw 2, irq := irq, ptag := bits (b.dw 0) 32 32, ordinal := x.head,
                           nodes := (s1.nodes.filter fun e => e.2.qid == some q && e.2.st.inFlight).map Prod.fst }
    let F := s.fetched q; let alone := F.listing x.cid (some q) = false
    let cnt := field (b.dw 2) 0 13; let in_ := enterEntries q addr (F.packetOrigin q) (cnt - x.entered.length) F; let ns := (in_.queues.get q).entered
    let note : Signal := { store := false, qid := q, cid := x.cid, addr := 0, value := 0, nodes := ns, irq := true, ptag := bits (b.dw 0) 32 32, ordinal := x.head }
    let die := (s.queues.get y.qid).die; let slot := field (b.dw 1) 0 8; let l := s1.slotOn x.die x.cid slot
    let written := { s with signals := s.signals.eraseIdx n }; let ended := ∀ k ∈ y.nodes, (s.nodes.get k).st.inFlight = false
    let reached := if x.atSlot = some slot then s1 = s else s.statusWaits x.die x.cid (b.addr 4) = .ok s1
    let onBehalf : Reshard := { cid := x.cid, slot := slot, lt := b.dw 2, pairs := l.pairs (b.dw 2), issued := false, status := b.addr 4,
                                note := if irq then some (evRecord 6 0 x.cid q (bits (b.dw 0) 32 32) x.head 0) else none }
    (F.queues.get q = { x with kp := some (x.kp.getD (match C.seeds with | e :: _ => e.key | [] => 0)) } ∧ ∀ k, k ≠ q → F.queues.get k = s.queues.get k) ∧
    (here 1 → alone → F.nodeRoom x.cid (bits (b.dw 3) 32 8) 1 = true → F.admission x.cid b false = (a, s1) → a ≠ .wait → ∃ u, exec (.launchPacket q) s = .next u ∧
      took u ∧ (u.ctxs.get x.cid).lastNode = (s1.ctxs.get x.cid).nextId ∧
      ∀ h r d, a = .enter h r d → (u.nodes.get (x.cid * 2 ^ 32 + (s1.ctxs.get x.cid).nextId.toNat)).st =
        if (s1.predsOf x.cid r []) = [] then .ready else .waiting) ∧
    let usable := ∀ p, s.tailPort q = some p → s.portUp p = true
    (here 1 → ¬ alone → exec (.launchPacket q) s = .next (F.countTurn q x.head)) ∧ (here 2 → ¬ alone → exec (.graphPacket q) s = .next (F.countTurn q x.head)) ∧
    (here 2 → alone → cnt ≤ ns.length →
      exec (.graphPacket q) s = .next (((if irq then { in_ with signals := in_.signals ++ [note] } else in_).accept q false).countTurn q x.head)) ∧
    (here 2 → alone → ns.length < cnt → exec (.graphPacket q) s = .next (in_.countTurn q x.head) ∧ (in_.queues.get q).head = x.head ∧ x.entered <+: ns) ∧
    (here 2 → x.entered.length < cnt → ∀ bs, F.agentRead x.die x.cid (addr + 64 * x.entered.length) 64 = .ok ((bs, false), s1) →
      F.nodeRoom x.cid (bits ((bodyOf bs).dw 3) 32 8) 1 = true → s1.admission x.cid (bodyOf bs) true = (a, s2) → a ≠ .wait →
        ∃ m ns', ns = x.entered ++ m :: ns') ∧
    (here 3 → pushed (.seedPushPacket q) (b.dw 1)) ∧ (here 3 → 16 ≤ C.seeds.length → refused (.seedPushPacket q)) ∧
    (here 4 → C.seeds = e :: seeds → ∃ u, exec (.seedPopPacket q) s = .next u ∧ took u ∧ u.ctxs.get x.cid = { C with seeds := seeds } ∧ u.mem = s.mem) ∧
    (here 4 → C.seeds = [] → refused (.seedPopPacket q)) ∧
    (here 5 → C.seeds = e :: seeds → pushed (.seedForkPacket q) (forkKey e.key (field (b.dw 1) 0 60))) ∧ (here 5 → C.seeds = [] → refused (.seedForkPacket q)) ∧
    (here 6 → x.st ≠ .waiting → waits (.waitPacket q)) ∧ (x.st = .waiting → s.fetches q = true → waits (.waitPacketPoll q)) ∧
    (here 7 → s.accessLin dev addr 8 true 0 = .ok (as, s1) → ∃ u, exec (.signalPacket q) s = .next u ∧ took u ∧ u.signals = s.signals ++ [sent] ∧ u.mem = s.mem) ∧
    (s.signals[n]? = some y → y.behalf = none → ¬ ended → exec (.signalWrite n) s = .next s) ∧
    (s.signals[n]? = some y → y.behalf = none → ended → y.store = true → (written.domainRelease die y.cid).accessLin (Issuer.agent die y.cid) y.addr 8 true 0 = .ok (as, s1) →
      ∃ u, exec (.signalWrite n) s = .next u ∧ u.signals = s.signals.eraseIdx n ∧
        u.mem = ((s1.storeAccs (Issuer.agent die y.cid) as (leBytes 8 y.value.toNat)).domainRelease die y.cid).mem) ∧
    (s.signals[n]? = some y → y.behalf = none → ended → y.store = false →
      ∃ u, exec (.signalWrite n) s = .next u ∧ u.signals = s.signals.eraseIdx n ∧ u.mem = s.mem) ∧
    (∀ o, s.signals[n]? = some y → y.behalf = some o →
      (s.writeStatus o.die y.cid o.slot y.addr y.value.toNat = none → exec (.signalWrite n) s = .next s) ∧
      (s.writeStatus o.die y.cid o.slot y.addr y.value.toNat = some s1 →
        ∃ u, exec (.signalWrite n) s = .next u ∧ u.signals = s1.signals.eraseIdx n ∧ u.mem = s1.mem)) ∧
    (here 8 → reached → s1.slotBusy x.cid slot = true → ∃ u, exec (.reshardOnBehalf q) s = .next u ∧ u.queues.get q = { x with atSlot := some slot } ∧ u.mem = s1.mem) ∧
    (here 8 → reached → s1.slotBusy x.cid slot = false → l.st ≠ .empty → l.st ≠ .aborted → l.reshardOk (b.dw 2) = true →
      ∃ u, exec (.reshardOnBehalf q) s = .next u ∧ took u ∧ u.nextTask = s.nextTask + 1 ∧ (u.tasks.get s.nextTask).work = .reshard onBehalf ∧
        ∀ d ∈ s.presentDies, (u.slotOn d x.cid slot).st = .resharding) ∧
    (s.serves q = true → packetOk q b = false → ∃ u, exec (.malformedPacket q) s = .next u ∧ u.queues.get q = { x with st := .error } ∧ u.mem = s.mem) ∧
    (usable → ((bits v 0 32 - x.head).toNat ≤ 2 ^ x.l ∨ (x.st ≠ .active ∧ x.st ≠ .waiting)) →
      exec (.qtailWrite q v) s = .next { s with queues := s.queues.set q { x with tail := bits v 0 32 } }) ∧
    (usable → 2 ^ x.l < (bits v 0 32 - x.head).toNat → (x.st = .active ∨ x.st = .waiting) →
      ∃ u, exec (.qtailWrite q v) s = .next u ∧ u.queues.get q = { x with tail := bits v 0 32, st := .error }) ∧
    (∀ p, s.tailPort q = some p → s.portUp p = false → exec (.qtailWrite q v) s = .next { s with admin := s.admin.mod p fun p => { p with qdrop := true } }) ∧
    (isAdmin q = true → s.tailPort q = some (q / 4096 * 2 + q % 4096)) ∧ (isAdmin q = false → x.st = .unattached → s.tailPort q = none) ∧
    (isAdmin q = false → x.st ≠ .unattached → s.tailPort q = some x.port) ∧
    (∃ u, exec (.evconsWrite p v) s = .next u ∧ (u.admin.get p).cons = bits v 0 32 ∧ u.mem = s.mem ∧ u.threads = s.threads)

/-- R115, R117, R125, R139, R156, R157: a context-control packet that its rules allow is taken and changes its context as named: create makes a free context
active, stop pauses its queues, start makes a stopped one active again, destroy drains it, detaching its queues, ending every node of it not yet complete with
verdict cancelled, discarding its running threads and aborting its re-shards, and a drained one is freed; resume-thread restarts a stopped thread from its
frame; attach and detach queues, a detached one keeping what was last written to TAIL. One that they forbid is refused and counts as taken. The states in
which qattach, qdetach and resume-thread are allowed are the model's choice (log entry 70). -/
def Obligations.ContextControlActsOnContexts : Prop :=
  ∀ (s s1 : State) (q c t k : Nat) (bs : List Byte), let x := s.queues.get q; let b := s.packet q; let C := s.ctxs.get c; let d2 := b.dw 2; let th := s.thr t
    let here := fun (sub : Nat) => s.serves q = true ∧ packetOk q b = true ∧ field (b.dw 0) 0 8 = 9 ∧ s.barHolds q b = false ∧ field (b.dw 1) 0 8 = sub ∧
      field (b.dw 1) 8 10 = c
    let head := fun (u : State) => (u.queues.get q).head = x.head + 1
    let refused := fun (w : Instr) => ∃ u, exec w s = .next u ∧ head u ∧ u.ctxs = s.ctxs ∧ u.mem = s.mem ∧ u.threads = s.threads ∧
      ∀ k, k ≠ q → u.queues.get k = s.queues.get k
    let live := C.st = .active ∨ C.st = .stopping ∨ C.st = .stopped
    let busy := (s.gangs.any fun e => e.2.st.placed && (s.nodes.get e.2.node).cid == c) = true
    let drained := (s.accept q true).modCtx c fun x => { x with st := .draining }
    let K := x.port / 2 * 4096 + field d2 0 12; let l := field d2 13 5
    let attached : HQueue := { st := .active, cid := c, port := 2 * (x.port / 2) + field d2 12 1, l := l, wt := field d2 18 4 + 1, base := (b.dw 3).toNat,
                               hrep := (b.dw 4).toNat, head := 0, tail := 0, entered := [], atSlot := none }
    (here 1 → c ≠ 0 → C.st = .free → ∃ u, exec (.contextCreate q) s = .next u ∧ head u ∧ u.ctxs.get c = newCtx b x.port (C.serial + 1) ∧
      (u.ctxs.get c).st = .active ∧ ∀ j, j ≠ c → u.ctxs.get j = s.ctxs.get j) ∧
    (here 1 → (c = 0 ∨ C.st ≠ .free) → refused (.contextCreate q)) ∧
    (here 2 → C.st = .active → ∃ u, exec (.contextStop q) s = .next u ∧ (u.ctxs.get c).st = (if busy then .stopping else .stopped) ∧
      ∀ k, k ≠ q → (s.queues.get k).cid = c → ((s.queues.get k).st = .active ∨ (s.queues.get k).st = .waiting) → (u.queues.get k).st = .paused) ∧
    (here 2 → C.st ≠ .active → refused (.contextStop q)) ∧
    (here 3 → C.st = .stopped → ∃ u, exec (.contextStart q) s = .next u ∧ (u.ctxs.get c).st = .active ∧
      ∀ k, k ≠ q → (s.queues.get k).cid = c → (s.queues.get k).st = .paused → (u.queues.get k).st = .active) ∧
    (here 3 → C.st ≠ .stopped → refused (.contextStart q)) ∧
    (here 4 → live → (∀ e ∈ s.nodes, e.2.cid ≠ c) → (∀ e ∈ s.tasks, e.2.cid ≠ c) →
      exec (.contextDestroy q) s = .next (((drained.queuesOf c).foldl State.detach drained).shootDown (.ctx c) (.ctx c) |>.countTurn q x.head)) ∧
    (here 4 → live → ∃ u, exec (.contextDestroy q) s = .next u ∧ (u.ctxs.get c).st = .draining ∧
      (∀ k, (s.queues.get k).st ≠ .unattached → (s.queues.get k).cid = c → (u.queues.get k).st = .unattached) ∧
      (∀ n, (s.nodes.get n).cid = c → (s.nodes.get n).st = .waiting ∨ (s.nodes.get n).st = .held ∨ (s.nodes.get n).st = .ready ∨ (s.nodes.get n).st = .running →
        (u.nodes.get n).verdict = 5 ∧ ((u.nodes.get n).st = .ending ∨ (u.nodes.get n).st = .ended)) ∧
      (∀ t, (s.nodes.get (s.thr t).node).cid = c → (s.nodes.get (s.thr t).node).st = .running → (s.thr t).st ≠ .absent → (u.thr t).st = .ended) ∧
      (∀ k, (s.tasks.get k).cid = c → (∃ r, (s.tasks.get k).work = .reshard r) → u.tasks.get k = default) ∧
      (s.presentDies ≠ [] → { sel := .ctx c, who := .ctx c, dies := s.presentDies } ∈ u.shoots)) ∧
    (here 4 → ¬ live → refused (.contextDestroy q)) ∧
    (C.st = .draining → s.inFlight c = 0 → s.shooting (.ctx c) = false → (∀ y ∈ s.signals, y.cid ≠ c) → ∃ u, exec (.contextFreed c) s = .next u ∧
      u.ctxs.get c = { (default : Ctx) with serial := C.serial } ∧ (∀ e ∈ u.regions, e.1 / 4096 ≠ c) ∧ (∀ e ∈ u.slots, e.1 / 256 % 1024 ≠ c) ∧
      (∀ e ∈ u.ktm, e.cid ≠ c) ∧ u.mem = s.mem ∧ u.threads = s.threads) ∧
    (C.st ≠ .draining → exec (.contextFreed c) s = .next s) ∧
    (here 5 → live → s.stoppedOn c (field d2 11 5 * 8 + field d2 0 3) (field d2 3 8) = some t → th.sbPending = false → th.area = some k →
      s.agentRead th.die th.cid (s.areaAt th.cid k + th.member * 0x60000) 0x600 = .ok ((bs, false), s1) →
      ∃ u, exec (.resumeThread q) s = .next u ∧ head u ∧ (u.thr t).st = (if th.inh then .handler else .running) ∧ (u.thr t).area = none ∧
        (u.thr t).recHeld = false ∧ (∀ j, 1 ≤ j → j < 64 → (u.thr t).s.get j = leDword ((bs.drop (0x100 + 8 * j)).take 8)) ∧ (u.thr t).v = th.v ∧
        ∀ v, v ≠ t → u.thr v = s.thr v) ∧
    (here 5 → ¬ live → refused (.resumeThread q)) ∧
    (here 6 → isAdmin K = false → (s.queues.get K).st = .unattached → C.st = .active → (s.queuesOf c).length < 64 → 4 ≤ l → l ≤ 16 → bits (b.dw 3) 0 12 = 0 →
      K ≠ q → ∃ u, exec (.qattach q) s = .next u ∧ head u ∧ u.queues.get K = attached) ∧
    (here 6 → (isAdmin K = true ∨ (s.queues.get K).st ≠ .unattached) → refused (.qattach q)) ∧
    (here 7 → live → (s.queues.get K).st ≠ .unattached → (s.queues.get K).cid = c → K ≠ q → ∃ u, exec (.qdetach q) s = .next u ∧ head u ∧
      u.queues.get K = { s.queues.get K with st := .unattached, entered := [], atSlot := none, kp := none }) ∧
    (here 7 → ¬ live → refused (.qdetach q))

/-! ## The device: errors, power, links, reset (chapters Caches, Reliability, Links and Platform) -/

/-- R7, R178, R290, R455 to R458, R462, R463, R466 to R470, R488, R490: what the device does of its own and by its registers: nodes are released and
cancelled, pending bits and power states set, errors counted, poisoned or raised, lines evicted, slices fenced, periods begun, dies frozen, an expander
link lost, and the plain registers written under their access codes. Of a line found uncorrectable every dirty granule goes home as poison; a second error
in one accumulator fences its core, and one in one line its slice. That poison is logged without a context (log entries 53, 98), the record of an eviction
(log entry 50), and which recurrences count and when a tag is uncorrectable (log entry 106) are the model's choices. -/
def Obligations.ErrorsFencesAndPower : Prop :=
  ∀ (s : State) (c n d g line t k : Nat) (v : Dword) (bad : BitVec 8) (demand lines : List Nat) (e : Engine), let D := s.die d; let key := c * 2 ^ 32 + n
    let N := s.nodes.get key; let cancelled := s.modNode key fun x => { x with verdict := 5 }; let l := s.rdc.get (d * 2 ^ 43 + line); let L := s.llc.get line
    let down := s.paDown (line * 128) = true; let H := homeOf (line * 128); let loc := ((s.thr t).core, k); let home := (s.thr t).die
    let gone := if s.paDown (line * 128) then s.loseLine line else { s with llc := s.llc.set line default }
    let noted := fun (u : State) => u.setDie home fun x => { x with errAccs := x.errAccs ++ [loc] }
    let poisoned := fun (s : State) (gs : List Nat) => { s with poison := setPoison s.poison gs }
    let rec_ := fun (kind : Nat) (cid : Option Nat) (a : Nat) => ({ kind := kind, code := 0, unit := 0, cid := cid, addr := a, node := 0 } : LogRec)
    let unc : TrapInfo := { code := .uncorrectable, estat := 0, addr := 0, openE := -1, openA := true }
    let under := fun (b : Batch) (x : MatCmd) => (s.thr t).curCmd = some (b, x) ∧ b.started = true ∧ x.acc = k
    let line_ := line * 128
    let marked := fun (g : Nat) => ({ s with poison := s.poison.set g true }).log (homeOf (g * 16)) (rec_ 2 none (g * 16))
    let first := (s.thr t).active = true ∧ (s.die home).errAccs.contains loc = false
    let reg := fun (n : Nat) (f : Die → Die) => exec (.configRegisterWrite d n v) s = .next (s.setDie d f)
    (N.st = .held → exec (.nctlRelease c n) s = .next (s.modNode key fun x => { x with st := .ready, entered := s.clk })) ∧
    (N.st ≠ .held → exec (.nctlRelease c n) s = .next s) ∧
    ((N.st = .waiting ∨ N.st = .held ∨ N.st = .ready) → cancelled.recordWaits key = false →
      ∃ u, exec (.nctlCancel c n) s = .next u ∧ u.nodes.get key = { N with verdict := 5, st := .ended }) ∧
    (N.st = .running → exec (.nctlCancel c n) s = .next (s.stopNode key 5 0 none)) ∧
    (N.st.inFlight = false → exec (.nctlCancel c n) s = .next s) ∧
    (exec (.pendctlWrite d v) s = .next { s.setDie d (fun x => { x with pendctl := v }) with
      pbits := s.pbits.filter fun e => !(e.1 / 2 ^ 21 / 64 == d && flag (D.pendctl ^^^ v) (e.1 / 2 ^ 21 % 64)) }) ∧
    (D.sliceBad.get c = false → c < 32 → ∃ u, exec (.fenceSlice d c lines) s = .next u ∧ (u.die d).sliceBad.get c = true ∧
      (∀ e ∈ u.ktm, ¬ (e.die = d ∧ e.slot = c)) ∧ (∀ j, j ≠ c → (u.die d).sliceBad.get j = D.sliceBad.get j)) ∧
    (D.sliceBad.get c = true ∨ 32 ≤ c → exec (.fenceSlice d c lines) s = .next s) ∧
    (exec (.pstateWrite d v) s = .next (s.setDie d fun x => { x with psReq := bits v 0 2 })) ∧
    reg 0x50 (fun x => { x with elbase := v &&& 0x3FFFFFFFFF00F }) ∧ reg 0x51 (fun x => { x with elpos := cat 64 (bits v 32 32) (bits x.elpos 0 32) }) ∧
    reg 0x52 (fun x => { x with elcnt := v }) ∧ reg 0x5B (fun x => { x with bgbudX := bits v 0 32 ^^^ 0x20200810 }) ∧
    reg 0x59 (fun x => { x with dwtX := (if bits v 0 8 = 0 then 1 else bits v 0 8) ^^^ 32 }) ∧
    (∃ u, exec (.configRegisterWrite d 0x58 v) s = .next u ∧ u.plimit = Nat.min 4400 (Nat.max 1000 (field v 0 16))) ∧
    (isDiripo d 6 = true → (∃ u, exec (.configRegisterWrite d 0x10100 v) s = .next u ∧ (u.admin.get (diripoKey d)).admq = (v &&& 0xFFFFFFFFFFFFF000) ||| BitVec.ofNat 64 (ringBits v 4)) ∧
      ∃ u, exec (.configRegisterWrite d 0x10108 v) s = .next u ∧ (u.admin.get (diripoKey d)).admev = (v &&& 0xFFFFFFFFFFFFF000) ||| BitVec.ofNat 64 (ringBits v 7)) ∧
    (∀ m ∈ [0x00, 0x01, 0x40, 0x41, 0x42, 0x43, 0x44, 0x45, 0x5A], exec (.configRegisterWrite d m v) s = .next s) ∧
    (l.held = false → exec (.rdcEviction d line bad) s = .next s) ∧
    (l.held = true → (bad = 0 ∨ l.dirty = 0) → exec (.rdcEviction d line bad) s = .next (s.dropLine d line)) ∧
    (let hurt := ((List.range 8).filter fun i => bits l.dirty (16 * i) 16 != 0).map fun i => line * 8 + i;
      l.held = true → bad ≠ 0 → l.dirty ≠ 0 →
      (¬ down → exec (.rdcEviction d line bad) s = .next ((poisoned (s.dropLine d line) hurt).chargeLine d (l.cid + 1) line)) ∧
      (down → exec (.rdcEviction d line bad) s = .next ((s.dropLine d line).chargeLine d (l.cid + 1) line))) ∧
    (L.tag = 0 → exec (.llcLineEviction line bad) s = .next s) ∧
    (L.tag ≠ 0 → bad = 0 → exec (.llcLineEviction line bad) s = .next gone) ∧
    (let hurt := (if s.paDown line_ then gone else poisoned gone (badGranules line L.dirty)).chargeLine H L.tag line;
      L.tag ≠ 0 → bad ≠ 0 →
      ((s.die H).errLines.contains line = false → exec (.llcLineEviction line bad) s =
        .next (hurt.setDie H fun x => { x with errLines := x.errLines ++ [line] })) ∧
      ((s.die H).errLines.contains line = true → exec (.llcLineEviction line bad) s = .next (hurt.fenceSlice H (s.sliceOf line_) []))) ∧
    (∀ tag, (s.choice.head? = some true ∨ tag ≤ 1) → s.chargeLine d tag line =
      ({ s with choice := s.choice.tail } : State).log d { kind := 3, code := 0x51, unit := 0, cid := none, addr := line_, node := 0 }) ∧
    (∃ u, exec (.correctableError d) s = .next u ∧ bits (u.die d).elcnt 32 32 = bits D.elcnt 32 32 ∧
      (bits (u.die d).elcnt 0 32).toNat = Nat.min (2 ^ 32 - 1) ((bits D.elcnt 0 32).toNat + 1) ∧ ∀ x, x ≠ d → u.die x = s.die x) ∧
    (exec (.uncorrectableError (.memory g)) s = .next (marked g)) ∧ (homeOf (g * 16) = d → isHbm (g * 16) = true → exec (.patrolScrub d g true) s = .next (marked g)) ∧
    (exec (.patrolScrub d g false) s = .next s) ∧
    (l.held = true → g / 8 = line → exec (.uncorrectableError (.cached d g)) s = .next (({ s with
      rdc := s.rdc.set (d * 2 ^ 43 + line) { l with bad := l.bad ||| BitVec.ofNat 8 (2 ^ (g % 8)) } } : State).log d (rec_ 2 none (g * 16)))) ∧
    (exec (.uncorrectableError (.scratch c g)) s = .next (({ s with spoison := s.spoison.set (c * 2 ^ 19 + g) true }).log (c / 64) (rec_ 2 none (g * 16)))) ∧
    ((s.thr t).active = true → exec (.uncorrectableError (.engine t (engCode e))) s = .next (s.raise t e unc)) ∧
    ((s.thr t).active = true → (s.die home).errAccs.contains loc = true → exec (.uncorrectableError (.acc t k)) s = .next (s.fenceCore home (s.thr t).core)) ∧
    (first → (∀ b x, ¬ under b x) → ∀ tile, s.replayWindow t k = some tile →
      exec (.uncorrectableError (.acc t k)) s = .next (noted (s.replayed t k tile))) ∧
    (first → (∀ b x, ¬ under b x) → s.replayWindow t k = none →
      ((s.thr t).move = none ∨ ∃ m, (s.thr t).move = some m ∧ m.acc = k ∧ m.load = false) →
      exec (.uncorrectableError (.acc t k)) s = .next ((s.modThr t fun th => { th with move := none }).raise t .mat { unc with openE := 0xFF })) ∧
    (first → ∀ b x tile, under b x → b.rerun = false → s.replayWindow t k = some tile → exec (.uncorrectableError (.acc t k)) s =
      .next (noted (s.modThr t fun th => (th.setTile k tile).setBatch fun b => { b.idle with started := true, drawAt := b.drawAt, rerun := true }))) ∧
    (∃ u, exec (.uncorrectableError (.copy key)) s = .next u ∧ u = { s with copies := u.copies } ∧
      u.copies.get key = { s.copies.get key with bad := (s.copies.get key).live } ∧ ∀ j, j ≠ key → u.copies.get j = s.copies.get j) ∧
    (∃ u, exec (.arbiterPeriod demand) s = .next u ∧ u.period = s.period + 1 ∧ u.mem = s.mem ∧ u.threads = s.threads ∧
      ∀ x, (s.die x).present = true → ((s.die x).psReq ≠ 3 → (u.die x).psCur = (s.die x).psReq) ∧
        ((s.die x).psReq = 3 → s.dieBusy x = false → (u.die x).psCur = 3)) ∧
    (D.present = true → D.frozen = false → ∃ u, exec (.dieFreeze d) s = .next u ∧ (u.die d).frozen = true ∧
      (u.die d).frozenCnt.toNat = Nat.min (2 ^ 32 - 1) (D.frozenCnt.toNat + 1)) ∧
    (D.present = false ∨ D.frozen = true → exec (.dieFreeze d) s = .next s) ∧
    (D.cxlSize = 0 → exec (.cxlLinkDown d) s = .next s) ∧
    (D.cxlSize ≠ 0 → exec (.cxlLinkDown d) s = .next ((s.setDie d fun x => { x with cxlDown := true }).log d (rec_ 2 none (d * 2 ^ 42 + 2 ^ 41))))

/-- R408 to R421: a port that can retrain does at a lost lane, a LNKCTL or, once one of its flits has been replayed 8 times in a row, a replay limit; disabling and a lost peer turn it off, enabling trains it, a
training that ends gives it as many lanes as came up or fails it; a flit in sequence raises the next number awaited, one received before is acknowledged
again at the other end and not taken twice, and any other asks for a replay, which the other end begins and counts; new route tables are those of the ports as
they then are, and the packets that wait at routers go on under them. When an acknowledgement comes, that the other end begins a replay in the same step, and
that nothing is received from a port at its replay limit are the model's choices (log entry 97). -/
def Obligations.LinksFollowTheirPortStates : Prop :=
  ∀ (s : State) (d p lanes : Nat) (num : BitVec 16), let x := s.anyPort d p; let st := fun (u : State) => (u.anyPort d p).st; let all := s.allLanes d p
    let real := p < 6 ∨ isDiripo d p = true; let port := p < 6; let q := s.farEnd d p; let apart := q ≠ (d, p); let far := s.anyPort q.1 q.2
    let goes := fun (w : Instr) (to_ : LinkSt) => ∃ u, exec w s = .next u ∧ st u = to_ ∧ u.spad = s.spad ∧ u.queues = s.queues
    let stays := fun (w : Instr) => exec w s = .next s
    let takes := fun (crc : Bool) (f : LinkPort → LinkPort) => ∃ u, exec (.flitReceive d p num crc) s = .next u ∧ u.anyPort d p = f x ∧
      u.anyPort q.1 q.2 = { far with cursor := (far.retry.findIdx? fun f => f.num == x.rxNext).getD far.retry.length, replays := far.replays + 1 } ∧ u = { s with ports := u.ports, dports := u.dports }
    let farReal := q.2 < 6 ∨ isDiripo q.1 q.2 = true
    let hears := x.st.usable = true ∧ far.replays < 8
    let trained := x.st = .training ∨ x.st = .retraining
    (real → x.st.usable = true → 8 ≤ x.replays → goes (.linkReplayLimit d p) .retraining) ∧ (x.replays < 8 → stays (.linkReplayLimit d p)) ∧
    (real → x.st.usable = true → goes (.laneLost d p) .retraining) ∧
    (x.st.usable = false → stays (.linkReplayLimit d p) ∧ stays (.laneLost d p)) ∧
    (port → x.st.usable = true → goes (.lnkctlRetrain d p) .retraining) ∧
    (port → x.st ≠ .off → goes (.lnkctlDisable d p) .off) ∧ (port → x.st = .off → stays (.lnkctlDisable d p)) ∧
    (port → (x.st = .off ∨ x.st = .failed) → x.unconnected = false → goes (.lnkctlEnable d p) .training) ∧
    (port → (x.st ≠ .off ∧ x.st ≠ .failed ∨ x.unconnected = true) → stays (.lnkctlEnable d p)) ∧
    (port → ∃ u, exec (.lnkctlClear d p) s = .next u ∧ u.anyPort d p = { x with retrains := 0, crce := 0 } ∧ u.mem = s.mem) ∧
    (6 ≤ p → stays (.lnkctlRetrain d p) ∧ stays (.lnkctlDisable d p) ∧ stays (.lnkctlEnable d p) ∧ stays (.lnkctlClear d p)) ∧
    (real → trained → all ≤ lanes → goes (.linkTrained d p lanes) .up ∧ ∃ u, exec (.linkTrained d p lanes) s = .next u ∧ (u.anyPort d p).lanes = all) ∧
    (real → trained → lanes < all → all ≤ 2 * lanes →
      goes (.linkTrained d p lanes) .degraded ∧ ∃ u, exec (.linkTrained d p lanes) s = .next u ∧ (u.anyPort d p).lanes = lanes) ∧
    (real → trained → 2 * lanes < all → ∃ u, exec (.linkTrained d p lanes) s = .next u ∧ st u = .failed) ∧
    (real → x.st = .training → ∃ u, exec (.linkTrainingFailed d p) s = .next u ∧ st u = .failed) ∧
    (x.st ≠ .training → stays (.linkTrainingFailed d p)) ∧
    (real → x.st = .retraining → ∃ u, exec (.linkRetrainTimeout d p) s = .next u ∧ st u = .failed) ∧
    (x.st ≠ .retraining → stays (.linkRetrainTimeout d p)) ∧
    (real → x.st ≠ .off → ∃ u, exec (.peerDown d p) s = .next u ∧ st u = .off) ∧ (x.st = .off → stays (.peerDown d p)) ∧
    (x.st.usable = false ∨ 8 ≤ far.replays → ∀ crc, exec (.flitReceive d p num crc) s = .next s) ∧
    (real → farReal → apart → hears → takes false fun x => { x with crce := if x.crce = 0xFFFF then 0xFFFF else x.crce + 1, replay := true }) ∧
    (real → farReal → apart → hears → num ≠ x.rxNext → x.behind num = false → takes true fun x => { x with replay := true }) ∧
    (real → hears → x.behind num = true → exec (.flitReceive d p num true) s =
      .next ((s.setAnyPort q.1 q.2 fun y => y.landed num true).portBack d p)) ∧
    (real → hears → num = x.rxNext → ∃ u, exec (.flitReceive d p num true) s = .next u ∧ (u.anyPort d p).rxNext = x.rxNext + 1 ∧
      (u.anyPort d p).replay = false ∧ u.mem = s.mem) ∧
    (∃ u, exec .routeTablesInForce s = .next u ∧ u.routes = u.routesNow ∧ ∀ e ∈ s.presentDies, e ∉ s.survivors → (u.die e).present = false) ∧
    ((∀ e ∈ s.presentDies, e ∈ s.survivors) → exec .routeTablesInForce s = .next (State.forward { s with routes := s.routesNow }))

/-- R417, R468, R483 to R487, R490 to R492: power on and a module reset leave what memory beyond HBM and the host hold, without the bytes of dirty lines, and the
reset values of the rest; a die reset clears the die; bring-up ends waiting at step 5 with the values of its report, unless a step fails or the boot ROM does not
accept the image, which leaves the die in reset; a die that is joined becomes present, with its admin queue; the sideband's replies are appended in order, an
attestation names the nonce, the dies' claims and the board, its certificate chain comes on request, and its writes set PLIMIT and PSTATE. The model's choices: the
number of the step that is reported (log entry 73), the card's registers in a module reset (log entry 15), what of memory a module reset keeps (log entry 72), the
boundary of the signature's arithmetic and the bytes that are digested (log entry 107). -/
def Obligations.ResetBringUpAndSideband : Prop :=
  ∀ (s : State) (d c t : Nat) (r : BringUpReport) (nonce : BitVec 256) (v : Dword), let D := s.die d; let dies := (List.range 8).map fun i => 8 * s.pkgid + i; let x := r.image
    let cold := fun (u : State) => u.threads = [] ∧ u.nodes = [] ∧ u.gangs = [] ∧ u.ctxs = State.reset.ctxs ∧ u.regions = [] ∧ u.handles = [] ∧ u.spad = [] ∧
      u.queues = [] ∧ u.rdc = [] ∧ u.llc = [] ∧ u.hostMem = s.hostMem ∧ u.mem = s.loseAllDirty.mem.filter (fun e => !isHbm e.1) ∧ (u.die d).present = false ∧ u.dies = fused s.dies
    let accepted := x.digest = sha512 (leBytes 8 x.version ++ x.payload) ∧ x.signed = x.digest ∧ x.signer = D.fwKey ∧ D.fwMin ≤ x.version
    let fails := if r.fails ≠ 0 then r.fails else if accepted then 0 else 1
    let replies := fun (w : Instr) (x : SbReply) => exec w s = .next { s with sbOut := s.sbOut ++ [x] }
    let p := s.admin.get (diripoKey d); let l := if field p.admq 0 5 < 4 ∨ 16 < field p.admq 0 5 then 4 else field p.admq 0 5
    let base := field p.admq 12 52 * 4096; let comes := D.present = false ∧ D.step = 5 ∧ s.joined d = true
    (∃ u, exec .powerOn s = .next u ∧ cold u ∧ u.admin = []) ∧
    (∃ u, exec (.sidebandReset .module d c) s = .next u ∧ cold u ∧ u.admin = []) ∧
    (∃ u, exec (.sidebandReset .die d c) s = .next u ∧ (u.die d).present = false ∧ (∀ e ∈ u.rdc, e.1 / 2 ^ 43 ≠ d) ∧ (∀ e ∈ u.tlb, e.die ≠ d) ∧
      (∀ e ∈ u.ktm, e.die ≠ d) ∧ (∀ e ∈ u.handles, e.1 / 64 / 64 ≠ d) ∧ (u.die d).coreBad = [] ∧ (u.die d).sliceBad = [] ∧ (u.die d).psReq = 0 ∧
      ∀ q < 6, (u.anyPort d q).retrains = 0 ∧ (u.anyPort d q).crce = 0) ∧
    (s.onCore d c = none → exec (.sidebandReset .core d c) s = .next s) ∧
    (s.onCore d c = some t → exec (.sidebandReset .core d c) s = .next (s.loseGang (s.thr t).gang 0x51)) ∧
    (D.present = true ∨ 256 ≤ d → exec (.bringUp d r) s = .next s) ∧
    (D.present = false → d < 256 → fails ≠ 0 → exec (.bringUp d r) s = .next ((s.dieReset d).setDie d fun y => { y with failed := fails })) ∧
    (D.present = false → d < 256 → fails = 0 → ∃ u, exec (.bringUp d r) s = .next u ∧ (u.die d).step = 5 ∧ (u.die d).failed = 0 ∧
      (u.die d).present = false ∧ (u.die d).fwVersion = x.version ∧ (u.die d).fwDigest = x.digest ∧ (u.die d).offpkg = r.offpkg ∧ (u.die d).cxlSize = Nat.min r.cxlSize (2 ^ 41) ∧
      (∀ k, (u.die d).coreBad.get k = decide (k ∈ r.badCores)) ∧ (∀ k, (u.die d).sliceBad.get k = decide (k ∈ r.badSlices)) ∧ u.mem = s.mem) ∧
    (comes → ∃ u, exec (.diePresent d) s = .next u ∧ (u.die d).present = true ∧ (u.die d).everUp = true ∧ (u.die d).step = 7 ∧
      (u.die d).fwMin = Nat.max D.fwMin D.fwVersion ∧ u.threads = s.threads ∧ ((∀ e ∈ s.copies, e.2.region.home = d → e.2.bad = false) → u.mem = s.mem) ∧
      (isDiripo d 6 = true → u.queues.get (diripoKey d / 2 * 4096 + diripoKey d % 2) =
        { st := .active, cid := 0, port := diripoKey d, l := l, wt := 1, base := base, hrep := base + 64 * 2 ^ l, head := 0, tail := 0,
          entered := [], atSlot := none })) ∧
    (¬ comes → exec (.diePresent d) s = .next s) ∧
    replies .sidebandInventory (.inventory (dies.map s.dieReport)) ∧ replies (.sidebandPowerRead d) (.power d D.pwrst) ∧
    replies .sidebandLog (.log (dies.map fun d => (d, (s.die d).elcnt, (s.die d).elpos))) ∧
    (∃ u sig, exec (.sidebandAttest (.report nonce)) s = .next u ∧ u.sbOut = s.sbOut ++ [.attest nonce (dies.map s.dieClaim) Config.boardDigest sig] ∧ u.mem = s.mem) ∧
    replies (.sidebandAttest .chain) (.chain Config.certChain) ∧
    (∃ u, exec (.sidebandPlimitWrite v) s = .next u ∧ u.plimit = Nat.min 4400 (Nat.max 1000 (field v 0 16)) ∧ u.dies = s.dies) ∧
    exec (.sidebandPstateWrite d v) s = .next (s.setDie d fun x => { x with psReq := bits v 0 2 })

/-! ## The whole machine -/

/-- R57, R59, R63, R67, R97, R126, R140, R159, R459: a step that gives an engine its turn runs the instruction that its head word decodes to, in the state after
the clock with that thread current; a word that decodes to nothing raises its trap, one with a hazard waits, as does one that takes a value not yet compared; a device
step runs; a fetch delivers the word at the fetch address to its engine's queue and, where that queue was empty, gives the engine its turn in the same step, and it
delivers the markers of a mark word one by one. The turns of the agenda, and that a fetch turn also runs the engine, are the model's choice (log entry 1), as is the
clock count of the nines core (log entry 75). A word that ends leaves its queue, counts, and, without single step, changes nothing more than queues and fetch of
its thread; under single step of its engine STEP is raised. -/
def Obligations.AStepRunsTheDecodedWord : Prop :=
  ∀ (s s0 : State) (t : Nat) (e : Engine) (x : IqEntry) (w : Word) (i : Instr) (b : DecodeErr) (rest : List Turn), let s1 := s.newClock; let held := fun (th : Thread) => th.withheld e x w s1.clk
    let c := { s1 with agenda := rest, cur := t }; let f := { s1 with agenda := rest }; let th := f.thr t; let word := th.textWord th.fetch
    let turn := s1.agenda = .engine t e :: rest ∧ (c.thr t).mayRun e = true ∧ (c.die (c.thr t).die).frozen = false ∧ (c.thr t).head e = some x ∧ x.item = .word w
    let free := (c.thr t).hazards e x w = [] ∧ held (c.thr t) = false; let u := s.retire e s0
    (turn → free → decode w = .ok i → step s = exec i c) ∧
    (turn → free → decode w = .error b → step s = .next (c.raise t e (decodeTrap b))) ∧
    (turn → (c.thr t).hazards e x w = [] → held (c.thr t) = true → step s = .next (c.holdWord e (.engines [.seq]))) ∧
    (turn → (c.thr t).hazards e x w ≠ [] → step s = .next (c.holdWord e (.engines ((c.thr t).hazards e x w)))) ∧
    (s1.agenda = .device i :: rest → step s = exec i f) ∧
    (s1.agenda = .fetch t :: rest → (f.die th.die).frozen = false → ∀ n s2, f.deliver t = (some n, s2) → step s = s2.runEngine t (engineOf n)) ∧
    (s1.agenda = .fetch t :: rest → (f.die th.die).frozen = false → ∀ s2, f.deliver t = (none, s2) → step s = .next s2) ∧
    (th.mayFetch = true → th.st = .running → th.marks = [] → th.fullAt word = [] → th.iq.get (wordEng word) = [] → ∃ s2 y, f.deliver t = (some (wordEng word), s2) ∧
      (s2.thr t).head (engineOf (wordEng word)) = some y ∧ y.item = .word word ∧ y.addr = th.fetch ∧ s2.mem = f.mem ∧ (s2.thr t).s = th.s) ∧
    (∀ e j a marks, th.mayFetch = true → th.marks = (e, j, a) :: marks → iqRoom (th.iq.get e) ≠ 0 → ∃ s2, f.deliver t = (none, s2) ∧
      (s2.thr t).marks = marks ∧ (marks ≠ [] ∨ (∀ l, th.aheadLoops.head? = some l → th.fetch ≠ l.stop) → (s2.thr t).fetch = th.fetch) ∧ s2.mem = f.mem ∧ (s2.thr t).s = th.s) ∧
    (s.me.sten = false → (∀ v, v ≠ s.cur → u.thr v = s.thr v) ∧ u = { s with threads := u.threads } ∧
      u.me = { s.me with iq := u.me.iq, fetch := u.me.fetch, fetchSt := u.me.fetchSt, results := u.me.results, held := s.me.held.set (engCode e) none,
                         count := s.me.count.set (engCode e) (s.me.count.get (engCode e) + 1) } ∧
      (e ≠ .seq → u.me.results = s.me.results ∧ u.me.iq.get (engCode e) = dropMarkers (s.me.iq.get (engCode e)).tail) ∧
      (e = .seq → u.me.results = ((s0.thr s.cur).withResults s.me s.clk).results)) ∧
    (s.me.sten = true → s.me.steng = BitVec.ofNat 3 (engCode e) → ∃ (z : State) (k : TrapInfo), k.code = .step ∧ u = z.raise s.cur e k ∧
      z = { s with threads := z.threads } ∧ z.me.s = s.me.s ∧ z.me.v = s.me.v ∧ z.me.acc = s.me.acc ∧ z.me.stepPc = some (s.me.pc e))

/-- R57 to R63, and the encodings written out in the chapters: words of every engine decode to the instruction they are given as. -/
def Obligations.SpecWordsDecodeToTheirInstruction : Prop :=
  decode 0x0114000C = .ok (.addi 5 0 12) ∧ decode 0x01145FFC = .ok (.addi 5 5 0xFFC) ∧ decode 0x0E2FFFFE = .ok (.br 2 1 0x7FFFE) ∧
  decode 0x1600C342 = .ok (.fmtQ 12 13) ∧ decode 0x20088000 = .ok (.capt 2 1) ∧ decode 0x21788800 = .ok (.tld 30 1 4) ∧
  decode 0x26001007 = .ok (.vst 8) ∧ decode 0x4B402808 = .ok (.vcomp 8 0 20 0 2 0) ∧ decode 0x4C209604 = .ok (.vqntCr 4 2 0x0B 0 0) ∧
  decode 0x6C800120 = .ok (.mcks 2 9) ∧ decode 0x6D800000 = .ok (.mfix 2) ∧ decode 0x840D1001 = .ok (.xpackK1 3 2 8) ∧
  decode 0xA2045150 = .ok (.collSum 4 20 21) ∧ decode 0xC504A2C0 = .ok (.mprog 1 10 11) ∧ decode 0xE00B1C00 = .ok (.bar 1 3 7) ∧
  decode 0xE1030003 = .ok (.cbarTake 3) ∧ decode 0xE70028B0 = .ok (.tksplit 10 11) ∧ decode 0xFA001400 = .ok (.rdcfg 0 5)

/-- R57 to R63: for every well-formed instruction that has a word, with every operand at every value its encoding admits, the decoder reads the word back as
that instruction; so two well-formed instructions never share a word; and an instruction has no word exactly when it is a device step or outside act, one of the rows to which the
operation table gives no encoding. -/
def Obligations.DecodeReadsWhatEncodeWrites : Prop :=
  (∀ (i : Instr) (w : Word), i.wf = true → encode i = some w → decode w = .ok i) ∧
  (∀ (i j : Instr) (w : Word), i.wf = true → j.wf = true → encode i = some w → encode j = some w → i = j) ∧
  (∀ (i : Instr) (w : Word), i.wf = true → encode i = some w → decodeTableWord 32 w.toNat = some i) ∧
  ∀ i : Instr, encode i = none ↔ i.wordless = true

/-- R483, R468, R490, R26: at reset no thread, node, gang or context stands, every table is empty, so that a register, a byte of memory, scratchpad and host
memory reads zero, the clock and the period number are 0, PLIMIT is 4,400 and DWT.W 32, and memory has its canonical form. That memory reads zero is the
model's choice (log entry 2), as are the package number 0 (log entry 11), the empty agenda (log entry 1), and the reset values that the spec does not give: period 0,
and no packets, routers and pairs (log entry 13). -/
def Obligations.ResetLeavesTheModuleCold : Prop :=
  let r := State.reset
  r.threads = [] ∧ r.nodes = [] ∧ r.gangs = [] ∧ r.ctxs = [] ∧ r.dies = [] ∧ r.queues = [] ∧ r.regions = [] ∧ r.handles = [] ∧ r.cbars = [] ∧ r.rings = [] ∧
  r.tasks = [] ∧ r.spend = [] ∧ r.posted = [] ∧ r.landed = [] ∧ r.packets = [] ∧ r.routers = [] ∧ r.pairs = [] ∧ r.tlb = [] ∧ r.rdc = [] ∧ r.clk = 0 ∧ r.period = 0 ∧ r.agenda = [] ∧ r.pkgid = 0 ∧ r.memWf = true ∧
  (∀ a, r.mem.get a = 0 ∧ r.spad.get a = 0 ∧ r.hostMem.get a = 0) ∧ r.plimit = 4400 ∧
  (∀ d, (r.die d).present = false ∧ (r.die d).weight = 32 ∧ (r.die d).psCur = 0 ∧ (r.die d).elcnt = 0) ∧ ∀ d p, (r.port d p).st = .off

/-- R65: s0 reads as zero, p0 as true and m0 as all ones; a write to any of the three is discarded without a trap; and a queue pop or a load that writes s0
still pops and still loads. -/
def Obligations.FixedNamesReadTheirConstants : Prop :=
  ∀ (s s1 : State) (e : Engine) (v : Dword) (b : Bool) (x : Mask) (q : BitVec 4) (a : BitVec 6) (o : BitVec 9) (ea : Nat) (as : List Acc) (rest : List Dword),
    let th := s.me; let w := s.issuer s.cur .seq
    th.rs e 0 = 0 ∧ th.rp 0 = true ∧ th.rm 0 = BitVec.allOnes 128 ∧ th.ws e 0 v = th ∧ th.wp 0 b = th ∧ th.wm 0 x = th ∧
    (th.qs.get q.toNat = v :: rest → Does .seq (.qpop 0 q) s (s.modMe fun th => th.dropS q.toNat)) ∧
    (((th.rs .seq a).toNat : Int) + o.toInt * 8 = ea → ea < 2 ^ 57 → ea % 8 = 0 → s.accessLin w ea 8 false 0 = .ok (as, s1) →
      Ends .seq (.ldD 0 a o) s fun u => u.me.s = th.s ∧ u.mem = (s1.loadAccs w as).2.mem ∧ u.rdc = (s1.loadAccs w as).2.rdc)

/-- R277, R278, R280: a store changes no byte of home memory that it does not cover, unless an earlier store of its thread or a dirty byte of the cache of
the issuing die, or of a die that such a store was issued on, covers that byte; it reaches no scratchpad and no register; stored at home, its bytes stand there; and a load of the same part by the same
issuer returns the bytes stored. -/
def Obligations.AStoreChangesOnlyItsBytes : Prop :=
  ∀ (s : State) (w : Issuer) (a : Acc) (as : List Acc) (bs : List Byte) (k : Nat), let u := s.storeAccs w as bs; let one := s.storeAcc w a bs
    let mine := fun (p : Posted) => w.thread = some p.thread; let line := fun (d : Nat) => s.rdc.get (d * 2 ^ 43 + k / 128)
    u = { s with mem := u.mem, poison := u.poison, llc := u.llc, rdc := u.rdc, posted := u.posted, choice := u.choice } ∧
    (k < 2 ^ 50 → (∀ x ∈ as, x.pa + x.len ≤ 2 ^ 50 ∧ (k < x.pa ∨ x.pa + x.len ≤ k)) →
      (∀ d, (d = w.die ∨ ∃ p ∈ s.posted, mine p ∧ p.die = d) → (line d).dirty.getLsbD (k % 128) = false) →
      (∀ p ∈ s.posted, p.pa + p.bytes.length ≤ 2 ^ 50 ∧ (mine p → k < p.pa ∨ p.pa + p.bytes.length ≤ k)) → u.mem.get k = s.mem.get k) ∧
    (a.cached w.die = false → s.paDown a.pa = false → a.pa ≤ k → k < a.pa + bs.length → one.mem.get k = bs.getD (k - a.pa) 0) ∧
    (bs.length = a.len → (∀ j, a.pa ≤ j → j < a.pa + a.len → s.paDown j = false) → (a.ord ≠ 3 ∨ ∀ p ∈ s.posted, mine p → p.ord ≠ 3) →
      (one.loadAcc w a).1.1 = bs)

/-- Every instruction answers a next state in every state, and so does every step: no meaning of this model faults or refuses, and what the manual leaves
undefined after an instruction is a free value (log entry 9). -/
def Obligations.EveryInstructionAnswersANextState : Prop := (∀ (i : Instr) (s : State), Goes (exec i s)) ∧ ∀ s : State, Goes (step s)

/-- Home memory, scratchpad and host memory keep their canonical form (addresses strictly rising, no byte listed that an unlisted one reads as): from every
state in which they have it, a step leads to one in which they have it. -/
def Obligations.EveryStepKeepsMemoryCanonical : Prop := ∀ s t : State, s.memWf = true → step s = .next t → t.memWf = true

end
end

