-- ==== Sys2Proof/Laws/Decode.lean ====
section
/-! SUPPORT. Fields of words put together from fields: what the decoder reads of each format (R62), and the part of the decoder that each operation
code selects (R63). -/

namespace Sys2Proof.Laws
open Sys2Proof Sys2Proof.Machine

/-- A field above the lower of two parts. -/
@[simp] theorem bits_cat_hi {m n k : Nat} (a : BitVec m) (b : BitVec n) (lo len : Nat) (h : n ≤ lo) (hk : m + n ≤ k) :
    bits (cat k a b) lo len = bits a (lo - n) len := by
  apply BitVec.eq_of_getLsbD_eq
  intro i hi
  simp [bits, cat, hi, BitVec.getLsbD_append, show ¬ (lo + i < n) by omega, show lo - n + i = lo + i - n by omega]
  intro hh
  have := BitVec.lt_of_getLsbD hh
  omega

/-- A field within the lower of two parts. -/
@[simp] theorem bits_cat_lo {m n k : Nat} (a : BitVec m) (b : BitVec n) (lo len : Nat) (h : lo + len ≤ n) (hk : n ≤ k) :
    bits (cat k a b) lo len = bits b lo len := by
  apply BitVec.eq_of_getLsbD_eq
  intro i hi
  simp [bits, cat, hi, BitVec.getLsbD_append, show (lo + i < n) by omega]
  omega

/-- The whole of a vector. -/
@[simp] theorem bits_all {m : Nat} (a : BitVec m) : bits a 0 m = a := by simp [bits]

/-- A field of a literal. -/
theorem bits_lit {m : Nat} (x lo len : Nat) : bits (BitVec.ofNat m x) lo len = BitVec.ofNat len ((x % 2 ^ m) >>> lo) := by
  apply BitVec.eq_of_toNat_eq
  simp [bits]

/-! ## Formats -/

@[simp] theorem wordA_op (op : BitVec 8) (d : BitVec 6) (a : BitVec 6) (b : BitVec 6) (fn : BitVec 6) : bits (wordA op d a b fn) 24 8 = op := by simp [wordA]

@[simp] theorem wordA_d (op : BitVec 8) (d : BitVec 6) (a : BitVec 6) (b : BitVec 6) (fn : BitVec 6) : bits (wordA op d a b fn) 18 6 = d := by simp [wordA]

@[simp] theorem wordA_a (op : BitVec 8) (d : BitVec 6) (a : BitVec 6) (b : BitVec 6) (fn : BitVec 6) : bits (wordA op d a b fn) 12 6 = a := by simp [wordA]

@[simp] theorem wordA_b (op : BitVec 8) (d : BitVec 6) (a : BitVec 6) (b : BitVec 6) (fn : BitVec 6) : bits (wordA op d a b fn) 6 6 = b := by simp [wordA]

@[simp] theorem wordA_fn (op : BitVec 8) (d : BitVec 6) (a : BitVec 6) (b : BitVec 6) (fn : BitVec 6) : bits (wordA op d a b fn) 0 6 = fn := by simp [wordA]

@[simp] theorem wordB_op (op : BitVec 8) (d : BitVec 6) (a : BitVec 6) (imm12 : BitVec 12) : bits (wordB op d a imm12) 24 8 = op := by simp [wordB]

@[simp] theorem wordB_d (op : BitVec 8) (d : BitVec 6) (a : BitVec 6) (imm12 : BitVec 12) : bits (wordB op d a imm12) 18 6 = d := by simp [wordB]

@[simp] theorem wordB_a (op : BitVec 8) (d : BitVec 6) (a : BitVec 6) (imm12 : BitVec 12) : bits (wordB op d a imm12) 12 6 = a := by simp [wordB]

@[simp] theorem wordB_imm12 (op : BitVec 8) (d : BitVec 6) (a : BitVec 6) (imm12 : BitVec 12) : bits (wordB op d a imm12) 0 12 = imm12 := by simp [wordB]

@[simp] theorem wordC_op (op : BitVec 8) (d : BitVec 6) (imm18 : BitVec 18) : bits (wordC op d imm18) 24 8 = op := by simp [wordC]

@[simp] theorem wordC_d (op : BitVec 8) (d : BitVec 6) (imm18 : BitVec 18) : bits (wordC op d imm18) 18 6 = d := by simp [wordC]

@[simp] theorem wordC_imm18 (op : BitVec 8) (d : BitVec 6) (imm18 : BitVec 18) : bits (wordC op d imm18) 0 18 = imm18 := by simp [wordC]

@[simp] theorem wordD_op (op : BitVec 8) (p : BitVec 4) (neg : BitVec 1) (off19 : BitVec 19) : bits (wordD op p neg off19) 24 8 = op := by simp [wordD]

@[simp] theorem wordD_p (op : BitVec 8) (p : BitVec 4) (neg : BitVec 1) (off19 : BitVec 19) : bits (wordD op p neg off19) 20 4 = p := by simp [wordD]

@[simp] theorem wordD_neg (op : BitVec 8) (p : BitVec 4) (neg : BitVec 1) (off19 : BitVec 19) : bits (wordD op p neg off19) 19 1 = neg := by simp [wordD]

@[simp] theorem wordD_off19 (op : BitVec 8) (p : BitVec 4) (neg : BitVec 1) (off19 : BitVec 19) : bits (wordD op p neg off19) 0 19 = off19 := by simp [wordD]

@[simp] theorem wordE_op (op : BitVec 8) (cnt : BitVec 6) (body12 : BitVec 12) (stages : BitVec 3) (rot : BitVec 3) : bits (wordE op cnt body12 stages rot) 24 8 = op := by simp [wordE]

@[simp] theorem wordE_cnt (op : BitVec 8) (cnt : BitVec 6) (body12 : BitVec 12) (stages : BitVec 3) (rot : BitVec 3) : bits (wordE op cnt body12 stages rot) 18 6 = cnt := by simp [wordE]

@[simp] theorem wordE_body12 (op : BitVec 8) (cnt : BitVec 6) (body12 : BitVec 12) (stages : BitVec 3) (rot : BitVec 3) : bits (wordE op cnt body12 stages rot) 6 12 = body12 := by simp [wordE]

@[simp] theorem wordE_stages (op : BitVec 8) (cnt : BitVec 6) (body12 : BitVec 12) (stages : BitVec 3) (rot : BitVec 3) : bits (wordE op cnt body12 stages rot) 3 3 = stages := by simp [wordE]

@[simp] theorem wordE_rot (op : BitVec 8) (cnt : BitVec 6) (body12 : BitVec 12) (stages : BitVec 3) (rot : BitVec 3) : bits (wordE op cnt body12 stages rot) 0 3 = rot := by simp [wordE]

@[simp] theorem wordM_op (op : BitVec 8) (acc : BitVec 2) (ha : BitVec 6) (hb : BitVec 6) (vm : BitVec 5) (ck : BitVec 1) (cb : BitVec 1) (fl : BitVec 3) : bits (wordM op acc ha hb vm ck cb fl) 24 8 = op := by simp [wordM]

@[simp] theorem wordM_acc (op : BitVec 8) (acc : BitVec 2) (ha : BitVec 6) (hb : BitVec 6) (vm : BitVec 5) (ck : BitVec 1) (cb : BitVec 1) (fl : BitVec 3) : bits (wordM op acc ha hb vm ck cb fl) 22 2 = acc := by simp [wordM]

@[simp] theorem wordM_ha (op : BitVec 8) (acc : BitVec 2) (ha : BitVec 6) (hb : BitVec 6) (vm : BitVec 5) (ck : BitVec 1) (cb : BitVec 1) (fl : BitVec 3) : bits (wordM op acc ha hb vm ck cb fl) 16 6 = ha := by simp [wordM]

@[simp] theorem wordM_hb (op : BitVec 8) (acc : BitVec 2) (ha : BitVec 6) (hb : BitVec 6) (vm : BitVec 5) (ck : BitVec 1) (cb : BitVec 1) (fl : BitVec 3) : bits (wordM op acc ha hb vm ck cb fl) 10 6 = hb := by simp [wordM]

@[simp] theorem wordM_vm (op : BitVec 8) (acc : BitVec 2) (ha : BitVec 6) (hb : BitVec 6) (vm : BitVec 5) (ck : BitVec 1) (cb : BitVec 1) (fl : BitVec 3) : bits (wordM op acc ha hb vm ck cb fl) 5 5 = vm := by simp [wordM]

@[simp] theorem wordM_ck (op : BitVec 8) (acc : BitVec 2) (ha : BitVec 6) (hb : BitVec 6) (vm : BitVec 5) (ck : BitVec 1) (cb : BitVec 1) (fl : BitVec 3) : bits (wordM op acc ha hb vm ck cb fl) 4 1 = ck := by simp [wordM]

@[simp] theorem wordM_cb (op : BitVec 8) (acc : BitVec 2) (ha : BitVec 6) (hb : BitVec 6) (vm : BitVec 5) (ck : BitVec 1) (cb : BitVec 1) (fl : BitVec 3) : bits (wordM op acc ha hb vm ck cb fl) 3 1 = cb := by simp [wordM]

@[simp] theorem wordM_fl (op : BitVec 8) (acc : BitVec 2) (ha : BitVec 6) (hb : BitVec 6) (vm : BitVec 5) (ck : BitVec 1) (cb : BitVec 1) (fl : BitVec 3) : bits (wordM op acc ha hb vm ck cb fl) 0 3 = fl := by simp [wordM]

@[simp] theorem wordN_op (op : BitVec 8) (d : BitVec 6) (s : BitVec 6) (t : BitVec 6) (fn : BitVec 6) : bits (wordN op d s t fn) 24 8 = op := by simp [wordN]

@[simp] theorem wordN_d (op : BitVec 8) (d : BitVec 6) (s : BitVec 6) (t : BitVec 6) (fn : BitVec 6) : bits (wordN op d s t fn) 18 6 = d := by simp [wordN]

@[simp] theorem wordN_s (op : BitVec 8) (d : BitVec 6) (s : BitVec 6) (t : BitVec 6) (fn : BitVec 6) : bits (wordN op d s t fn) 12 6 = s := by simp [wordN]

@[simp] theorem wordN_t (op : BitVec 8) (d : BitVec 6) (s : BitVec 6) (t : BitVec 6) (fn : BitVec 6) : bits (wordN op d s t fn) 6 6 = t := by simp [wordN]

@[simp] theorem wordN_fn (op : BitVec 8) (d : BitVec 6) (s : BitVec 6) (t : BitVec 6) (fn : BitVec 6) : bits (wordN op d s t fn) 0 6 = fn := by simp [wordN]

@[simp] theorem wordS_op (op : BitVec 8) (obj8 : BitVec 8) (s : BitVec 6) (t : BitVec 6) (fn4 : BitVec 4) : bits (wordS op obj8 s t fn4) 24 8 = op := by simp [wordS]

@[simp] theorem wordS_obj8 (op : BitVec 8) (obj8 : BitVec 8) (s : BitVec 6) (t : BitVec 6) (fn4 : BitVec 4) : bits (wordS op obj8 s t fn4) 16 8 = obj8 := by simp [wordS]

@[simp] theorem wordS_s (op : BitVec 8) (obj8 : BitVec 8) (s : BitVec 6) (t : BitVec 6) (fn4 : BitVec 4) : bits (wordS op obj8 s t fn4) 10 6 = s := by simp [wordS]

@[simp] theorem wordS_t (op : BitVec 8) (obj8 : BitVec 8) (s : BitVec 6) (t : BitVec 6) (fn4 : BitVec 4) : bits (wordS op obj8 s t fn4) 4 6 = t := by simp [wordS]

@[simp] theorem wordS_fn4 (op : BitVec 8) (obj8 : BitVec 8) (s : BitVec 6) (t : BitVec 6) (fn4 : BitVec 4) : bits (wordS op obj8 s t fn4) 0 4 = fn4 := by simp [wordS]

@[simp] theorem wordT_op (op : BitVec 8) (d : BitVec 6) (ds : BitVec 3) (s : BitVec 6) (fn9 : BitVec 9) : bits (wordT op d ds s fn9) 24 8 = op := by simp [wordT]

@[simp] theorem wordT_d (op : BitVec 8) (d : BitVec 6) (ds : BitVec 3) (s : BitVec 6) (fn9 : BitVec 9) : bits (wordT op d ds s fn9) 18 6 = d := by simp [wordT]

@[simp] theorem wordT_ds (op : BitVec 8) (d : BitVec 6) (ds : BitVec 3) (s : BitVec 6) (fn9 : BitVec 9) : bits (wordT op d ds s fn9) 15 3 = ds := by simp [wordT]

@[simp] theorem wordT_s (op : BitVec 8) (d : BitVec 6) (ds : BitVec 3) (s : BitVec 6) (fn9 : BitVec 9) : bits (wordT op d ds s fn9) 9 6 = s := by simp [wordT]

@[simp] theorem wordT_fn9 (op : BitVec 8) (d : BitVec 6) (ds : BitVec 3) (s : BitVec 6) (fn9 : BitVec 9) : bits (wordT op d ds s fn9) 0 9 = fn9 := by simp [wordT]

@[simp] theorem wordV_op (op : BitVec 8) (vd : BitVec 5) (va : BitVec 5) (vb : BitVec 5) (m : BitVec 3) (opf : BitVec 4) (ty : BitVec 2) : bits (wordV op vd va vb m opf ty) 24 8 = op := by simp [wordV]

@[simp] theorem wordV_vd (op : BitVec 8) (vd : BitVec 5) (va : BitVec 5) (vb : BitVec 5) (m : BitVec 3) (opf : BitVec 4) (ty : BitVec 2) : bits (wordV op vd va vb m opf ty) 19 5 = vd := by simp [wordV]

@[simp] theorem wordV_va (op : BitVec 8) (vd : BitVec 5) (va : BitVec 5) (vb : BitVec 5) (m : BitVec 3) (opf : BitVec 4) (ty : BitVec 2) : bits (wordV op vd va vb m opf ty) 14 5 = va := by simp [wordV]

@[simp] theorem wordV_vb (op : BitVec 8) (vd : BitVec 5) (va : BitVec 5) (vb : BitVec 5) (m : BitVec 3) (opf : BitVec 4) (ty : BitVec 2) : bits (wordV op vd va vb m opf ty) 9 5 = vb := by simp [wordV]

@[simp] theorem wordV_m (op : BitVec 8) (vd : BitVec 5) (va : BitVec 5) (vb : BitVec 5) (m : BitVec 3) (opf : BitVec 4) (ty : BitVec 2) : bits (wordV op vd va vb m opf ty) 6 3 = m := by simp [wordV]

@[simp] theorem wordV_opf (op : BitVec 8) (vd : BitVec 5) (va : BitVec 5) (vb : BitVec 5) (m : BitVec 3) (opf : BitVec 4) (ty : BitVec 2) : bits (wordV op vd va vb m opf ty) 2 4 = opf := by simp [wordV]

@[simp] theorem wordV_ty (op : BitVec 8) (vd : BitVec 5) (va : BitVec 5) (vb : BitVec 5) (m : BitVec 3) (opf : BitVec 4) (ty : BitVec 2) : bits (wordV op vd va vb m opf ty) 0 2 = ty := by simp [wordV]

@[simp] theorem wordX_op (op : BitVec 8) (h : BitVec 6) (ds : BitVec 3) (s : BitVec 6) (fn5 : BitVec 5) (aux : BitVec 4) : bits (wordX op h ds s fn5 aux) 24 8 = op := by simp [wordX]

@[simp] theorem wordX_h (op : BitVec 8) (h : BitVec 6) (ds : BitVec 3) (s : BitVec 6) (fn5 : BitVec 5) (aux : BitVec 4) : bits (wordX op h ds s fn5 aux) 18 6 = h := by simp [wordX]

@[simp] theorem wordX_ds (op : BitVec 8) (h : BitVec 6) (ds : BitVec 3) (s : BitVec 6) (fn5 : BitVec 5) (aux : BitVec 4) : bits (wordX op h ds s fn5 aux) 15 3 = ds := by simp [wordX]

@[simp] theorem wordX_s (op : BitVec 8) (h : BitVec 6) (ds : BitVec 3) (s : BitVec 6) (fn5 : BitVec 5) (aux : BitVec 4) : bits (wordX op h ds s fn5 aux) 9 6 = s := by simp [wordX]

@[simp] theorem wordX_fn5 (op : BitVec 8) (h : BitVec 6) (ds : BitVec 3) (s : BitVec 6) (fn5 : BitVec 5) (aux : BitVec 4) : bits (wordX op h ds s fn5 aux) 4 5 = fn5 := by simp [wordX]

@[simp] theorem wordX_aux (op : BitVec 8) (h : BitVec 6) (ds : BitVec 3) (s : BitVec 6) (fn5 : BitVec 5) (aux : BitVec 4) : bits (wordX op h ds s fn5 aux) 0 4 = aux := by simp [wordX]

/-! ## Operation codes -/

theorem decode_00 (w : Word) (h : bits w 24 8 = 0#8) : decode w = decodeSeq00 w := by
  unfold decode decodeSeq
  rw [h]
  rfl

theorem decode_01 (w : Word) (h : bits w 24 8 = 1#8) : decode w = decodeSeq01 w := by
  unfold decode decodeSeq
  rw [h]
  rfl

theorem decode_02 (w : Word) (h : bits w 24 8 = 2#8) : decode w = decodeSeq02 w := by
  unfold decode decodeSeq
  rw [h]
  rfl

theorem decode_03 (w : Word) (h : bits w 24 8 = 3#8) : decode w = decodeSeq03 w := by
  unfold decode decodeSeq
  rw [h]
  rfl

theorem decode_04 (w : Word) (h : bits w 24 8 = 4#8) : decode w = decodeSeq04 w := by
  unfold decode decodeSeq
  rw [h]
  rfl

theorem decode_05 (w : Word) (h : bits w 24 8 = 5#8) : decode w = decodeSeq05 w := by
  unfold decode decodeSeq
  rw [h]
  rfl

theorem decode_06 (w : Word) (h : bits w 24 8 = 6#8) : decode w = decodeSeq06 w := by
  unfold decode decodeSeq
  rw [h]
  rfl

theorem decode_07 (w : Word) (h : bits w 24 8 = 7#8) : decode w = decodeSeq07 w := by
  unfold decode decodeSeq
  rw [h]
  rfl

theorem decode_08 (w : Word) (h : bits w 24 8 = 8#8) : decode w = decodeSeq08 w := by
  unfold decode decodeSeq
  rw [h]
  rfl

theorem decode_09 (w : Word) (h : bits w 24 8 = 9#8) : decode w = decodeSeq09 w := by
  unfold decode decodeSeq
  rw [h]
  rfl

theorem decode_0A (w : Word) (h : bits w 24 8 = 10#8) : decode w = decodeSeq0A w := by
  unfold decode decodeSeq
  rw [h]
  rfl

theorem decode_0B (w : Word) (h : bits w 24 8 = 11#8) : decode w = decodeSeq0B w := by
  unfold decode decodeSeq
  rw [h]
  rfl

theorem decode_0C (w : Word) (h : bits w 24 8 = 12#8) : decode w = decodeSeq0C w := by
  unfold decode decodeSeq
  rw [h]
  rfl

theorem decode_0D (w : Word) (h : bits w 24 8 = 13#8) : decode w = decodeSeq0D w := by
  unfold decode decodeSeq
  rw [h]
  rfl

theorem decode_0E (w : Word) (h : bits w 24 8 = 14#8) : decode w = decodeSeq0E w := by
  unfold decode decodeSeq
  rw [h]
  rfl

theorem decode_0F (w : Word) (h : bits w 24 8 = 15#8) : decode w = decodeSeq0F w := by
  unfold decode decodeSeq
  rw [h]
  rfl

theorem decode_10 (w : Word) (h : bits w 24 8 = 16#8) : decode w = decodeSeq10 w := by
  unfold decode decodeSeq
  rw [h]
  rfl

theorem decode_11 (w : Word) (h : bits w 24 8 = 17#8) : decode w = decodeSeq11 w := by
  unfold decode decodeSeq
  rw [h]
  rfl

theorem decode_12 (w : Word) (h : bits w 24 8 = 18#8) : decode w = decodeSeq12 w := by
  unfold decode decodeSeq
  rw [h]
  rfl

theorem decode_13 (w : Word) (h : bits w 24 8 = 19#8) : decode w = decodeSeq13 w := by
  unfold decode decodeSeq
  rw [h]
  rfl

theorem decode_14 (w : Word) (h : bits w 24 8 = 20#8) : decode w = decodeSeq14 w := by
  unfold decode decodeSeq
  rw [h]
  rfl

theorem decode_15 (w : Word) (h : bits w 24 8 = 21#8) : decode w = decodeSeq15 w := by
  unfold decode decodeSeq
  rw [h]
  rfl

theorem decode_16 (w : Word) (h : bits w 24 8 = 22#8) : decode w = decodeSeq16 w := by
  unfold decode decodeSeq
  rw [h]
  rfl

theorem decode_17 (w : Word) (h : bits w 24 8 = 23#8) : decode w = decodeSeq17 w := by
  unfold decode decodeSeq
  rw [h]
  rfl

theorem decode_18 (w : Word) (h : bits w 24 8 = 24#8) : decode w = decodeSeq18 w := by
  unfold decode decodeSeq
  rw [h]
  rfl

theorem decode_19 (w : Word) (h : bits w 24 8 = 25#8) : decode w = decodeSeq19 w := by
  unfold decode decodeSeq
  rw [h]
  rfl

theorem decode_1A (w : Word) (h : bits w 24 8 = 26#8) : decode w = decodeSeq1A w := by
  unfold decode decodeSeq
  rw [h]
  rfl

theorem decode_1B (w : Word) (h : bits w 24 8 = 27#8) : decode w = decodeSeq1B w := by
  unfold decode decodeSeq
  rw [h]
  rfl

theorem decode_1F (w : Word) (h : bits w 24 8 = 31#8) : decode w = decodeSeq1F w := by
  unfold decode decodeSeq
  rw [h]
  rfl

theorem decode_20 (w : Word) (h : bits w 24 8 = 32#8) : decode w = decodeAdr00 w := by
  unfold decode decodeAdr
  rw [h]
  rfl

theorem decode_21 (w : Word) (h : bits w 24 8 = 33#8) : decode w = decodeAdr01 w := by
  unfold decode decodeAdr
  rw [h]
  rfl

theorem decode_22 (w : Word) (h : bits w 24 8 = 34#8) : decode w = decodeAdr02 w := by
  unfold decode decodeAdr
  rw [h]
  rfl

theorem decode_23 (w : Word) (h : bits w 24 8 = 35#8) : decode w = decodeAdr03 w := by
  unfold decode decodeAdr
  rw [h]
  rfl

theorem decode_24 (w : Word) (h : bits w 24 8 = 36#8) : decode w = decodeAdr04 w := by
  unfold decode decodeAdr
  rw [h]
  rfl

theorem decode_25 (w : Word) (h : bits w 24 8 = 37#8) : decode w = decodeAdr05 w := by
  unfold decode decodeAdr
  rw [h]
  rfl

theorem decode_26 (w : Word) (h : bits w 24 8 = 38#8) : decode w = decodeAdr06 w := by
  unfold decode decodeAdr
  rw [h]
  rfl

theorem decode_27 (w : Word) (h : bits w 24 8 = 39#8) : decode w = decodeAdr07 w := by
  unfold decode decodeAdr
  rw [h]
  rfl

theorem decode_28 (w : Word) (h : bits w 24 8 = 40#8) : decode w = decodeAdr08 w := by
  unfold decode decodeAdr
  rw [h]
  rfl

theorem decode_29 (w : Word) (h : bits w 24 8 = 41#8) : decode w = decodeAdr09 w := by
  unfold decode decodeAdr
  rw [h]
  rfl

theorem decode_2A (w : Word) (h : bits w 24 8 = 42#8) : decode w = decodeAdr0A w := by
  unfold decode decodeAdr
  rw [h]
  rfl

theorem decode_2B (w : Word) (h : bits w 24 8 = 43#8) : decode w = decodeAdr0B w := by
  unfold decode decodeAdr
  rw [h]
  rfl

theorem decode_2C (w : Word) (h : bits w 24 8 = 44#8) : decode w = decodeAdr0C w := by
  unfold decode decodeAdr
  rw [h]
  rfl

theorem decode_2D (w : Word) (h : bits w 24 8 = 45#8) : decode w = decodeAdr0D w := by
  unfold decode decodeAdr
  rw [h]
  rfl

theorem decode_2E (w : Word) (h : bits w 24 8 = 46#8) : decode w = decodeAdr0E w := by
  unfold decode decodeAdr
  rw [h]
  rfl

theorem decode_40 (w : Word) (h : bits w 24 8 = 64#8) : decode w = decodeVec00 w := by
  unfold decode decodeVec
  rw [h]
  rfl

theorem decode_41 (w : Word) (h : bits w 24 8 = 65#8) : decode w = decodeVec01 w := by
  unfold decode decodeVec
  rw [h]
  rfl

theorem decode_42 (w : Word) (h : bits w 24 8 = 66#8) : decode w = decodeVec02 w := by
  unfold decode decodeVec
  rw [h]
  rfl

theorem decode_43 (w : Word) (h : bits w 24 8 = 67#8) : decode w = decodeVec03 w := by
  unfold decode decodeVec
  rw [h]
  rfl

theorem decode_44 (w : Word) (h : bits w 24 8 = 68#8) : decode w = decodeVec04 w := by
  unfold decode decodeVec
  rw [h]
  rfl

theorem decode_45 (w : Word) (h : bits w 24 8 = 69#8) : decode w = decodeVec05 w := by
  unfold decode decodeVec
  rw [h]
  rfl

theorem decode_46 (w : Word) (h : bits w 24 8 = 70#8) : decode w = decodeVec06 w := by
  unfold decode decodeVec
  rw [h]
  rfl

theorem decode_47 (w : Word) (h : bits w 24 8 = 71#8) : decode w = decodeVec07 w := by
  unfold decode decodeVec
  rw [h]
  rfl

theorem decode_48 (w : Word) (h : bits w 24 8 = 72#8) : decode w = decodeVec08 w := by
  unfold decode decodeVec
  rw [h]
  rfl

theorem decode_49 (w : Word) (h : bits w 24 8 = 73#8) : decode w = decodeVec09 w := by
  unfold decode decodeVec
  rw [h]
  rfl

theorem decode_4A (w : Word) (h : bits w 24 8 = 74#8) : decode w = decodeVec0A w := by
  unfold decode decodeVec
  rw [h]
  rfl

theorem decode_4B (w : Word) (h : bits w 24 8 = 75#8) : decode w = decodeVec0B w := by
  unfold decode decodeVec
  rw [h]
  rfl

theorem decode_4C (w : Word) (h : bits w 24 8 = 76#8) : decode w = decodeVec0C w := by
  unfold decode decodeVec
  rw [h]
  rfl

theorem decode_4D (w : Word) (h : bits w 24 8 = 77#8) : decode w = decodeVec0D w := by
  unfold decode decodeVec
  rw [h]
  rfl

theorem decode_4E (w : Word) (h : bits w 24 8 = 78#8) : decode w = decodeVec0E w := by
  unfold decode decodeVec
  rw [h]
  rfl

theorem decode_4F (w : Word) (h : bits w 24 8 = 79#8) : decode w = decodeVec0F w := by
  unfold decode decodeVec
  rw [h]
  rfl

theorem decode_50 (w : Word) (h : bits w 24 8 = 80#8) : decode w = decodeVec10 w := by
  unfold decode decodeVec
  rw [h]
  rfl

theorem decode_51 (w : Word) (h : bits w 24 8 = 81#8) : decode w = decodeVec11 w := by
  unfold decode decodeVec
  rw [h]
  rfl

theorem decode_52 (w : Word) (h : bits w 24 8 = 82#8) : decode w = decodeVec12 w := by
  unfold decode decodeVec
  rw [h]
  rfl

theorem decode_60 (w : Word) (h : bits w 24 8 = 96#8) : decode w = decodeMat00 w := by
  unfold decode decodeMat
  rw [h]
  rfl

theorem decode_61 (w : Word) (h : bits w 24 8 = 97#8) : decode w = decodeMat01 w := by
  unfold decode decodeMat
  rw [h]
  rfl

theorem decode_62 (w : Word) (h : bits w 24 8 = 98#8) : decode w = decodeMat02 w := by
  unfold decode decodeMat
  rw [h]
  rfl

theorem decode_63 (w : Word) (h : bits w 24 8 = 99#8) : decode w = decodeMat03 w := by
  unfold decode decodeMat
  rw [h]
  rfl

theorem decode_64 (w : Word) (h : bits w 24 8 = 100#8) : decode w = decodeMat04 w := by
  unfold decode decodeMat
  rw [h]
  rfl

theorem decode_65 (w : Word) (h : bits w 24 8 = 101#8) : decode w = decodeMat05 w := by
  unfold decode decodeMat
  rw [h]
  rfl

theorem decode_66 (w : Word) (h : bits w 24 8 = 102#8) : decode w = decodeMat06 w := by
  unfold decode decodeMat
  rw [h]
  rfl

theorem decode_67 (w : Word) (h : bits w 24 8 = 103#8) : decode w = decodeMat07 w := by
  unfold decode decodeMat
  rw [h]
  rfl

theorem decode_68 (w : Word) (h : bits w 24 8 = 104#8) : decode w = decodeMat08 w := by
  unfold decode decodeMat
  rw [h]
  rfl

theorem decode_69 (w : Word) (h : bits w 24 8 = 105#8) : decode w = decodeMat09 w := by
  unfold decode decodeMat
  rw [h]
  rfl

theorem decode_6A (w : Word) (h : bits w 24 8 = 106#8) : decode w = decodeMat0A w := by
  unfold decode decodeMat
  rw [h]
  rfl

theorem decode_6B (w : Word) (h : bits w 24 8 = 107#8) : decode w = decodeMat0B w := by
  unfold decode decodeMat
  rw [h]
  rfl

theorem decode_6C (w : Word) (h : bits w 24 8 = 108#8) : decode w = decodeMat0C w := by
  unfold decode decodeMat
  rw [h]
  rfl

theorem decode_6D (w : Word) (h : bits w 24 8 = 109#8) : decode w = decodeMat0D w := by
  unfold decode decodeMat
  rw [h]
  rfl

theorem decode_80 (w : Word) (h : bits w 24 8 = 128#8) : decode w = decodeXfr00 w := by
  unfold decode decodeXfr
  rw [h]
  rfl

theorem decode_81 (w : Word) (h : bits w 24 8 = 129#8) : decode w = decodeXfr01 w := by
  unfold decode decodeXfr
  rw [h]
  rfl

theorem decode_82 (w : Word) (h : bits w 24 8 = 130#8) : decode w = decodeXfr02 w := by
  unfold decode decodeXfr
  rw [h]
  rfl

theorem decode_83 (w : Word) (h : bits w 24 8 = 131#8) : decode w = decodeXfr03 w := by
  unfold decode decodeXfr
  rw [h]
  rfl

theorem decode_84 (w : Word) (h : bits w 24 8 = 132#8) : decode w = decodeXfr04 w := by
  unfold decode decodeXfr
  rw [h]
  rfl

theorem decode_85 (w : Word) (h : bits w 24 8 = 133#8) : decode w = decodeXfr05 w := by
  unfold decode decodeXfr
  rw [h]
  rfl

theorem decode_86 (w : Word) (h : bits w 24 8 = 134#8) : decode w = decodeXfr06 w := by
  unfold decode decodeXfr
  rw [h]
  rfl

theorem decode_87 (w : Word) (h : bits w 24 8 = 135#8) : decode w = decodeXfr07 w := by
  unfold decode decodeXfr
  rw [h]
  rfl

theorem decode_88 (w : Word) (h : bits w 24 8 = 136#8) : decode w = decodeXfr08 w := by
  unfold decode decodeXfr
  rw [h]
  rfl

theorem decode_A0 (w : Word) (h : bits w 24 8 = 160#8) : decode w = decodeFab00 w := by
  unfold decode decodeFab
  rw [h]
  rfl

theorem decode_A1 (w : Word) (h : bits w 24 8 = 161#8) : decode w = decodeFab01 w := by
  unfold decode decodeFab
  rw [h]
  rfl

theorem decode_A2 (w : Word) (h : bits w 24 8 = 162#8) : decode w = decodeFab02 w := by
  unfold decode decodeFab
  rw [h]
  rfl

theorem decode_A3 (w : Word) (h : bits w 24 8 = 163#8) : decode w = decodeFab03 w := by
  unfold decode decodeFab
  rw [h]
  rfl

theorem decode_A4 (w : Word) (h : bits w 24 8 = 164#8) : decode w = decodeFab04 w := by
  unfold decode decodeFab
  rw [h]
  rfl

theorem decode_A5 (w : Word) (h : bits w 24 8 = 165#8) : decode w = decodeFab05 w := by
  unfold decode decodeFab
  rw [h]
  rfl

theorem decode_A6 (w : Word) (h : bits w 24 8 = 166#8) : decode w = decodeFab06 w := by
  unfold decode decodeFab
  rw [h]
  rfl

theorem decode_A7 (w : Word) (h : bits w 24 8 = 167#8) : decode w = decodeFab07 w := by
  unfold decode decodeFab
  rw [h]
  rfl

theorem decode_C0 (w : Word) (h : bits w 24 8 = 192#8) : decode w = decodeAtn00 w := by
  unfold decode decodeAtn
  rw [h]
  rfl

theorem decode_C1 (w : Word) (h : bits w 24 8 = 193#8) : decode w = decodeAtn01 w := by
  unfold decode decodeAtn
  rw [h]
  rfl

theorem decode_C2 (w : Word) (h : bits w 24 8 = 194#8) : decode w = decodeAtn02 w := by
  unfold decode decodeAtn
  rw [h]
  rfl

theorem decode_C3 (w : Word) (h : bits w 24 8 = 195#8) : decode w = decodeAtn03 w := by
  unfold decode decodeAtn
  rw [h]
  rfl

theorem decode_C4 (w : Word) (h : bits w 24 8 = 196#8) : decode w = decodeAtn04 w := by
  unfold decode decodeAtn
  rw [h]
  rfl

theorem decode_C5 (w : Word) (h : bits w 24 8 = 197#8) : decode w = decodeAtn05 w := by
  unfold decode decodeAtn
  rw [h]
  rfl

theorem decode_C6 (w : Word) (h : bits w 24 8 = 198#8) : decode w = decodeAtn06 w := by
  unfold decode decodeAtn
  rw [h]
  rfl

theorem decode_C7 (w : Word) (h : bits w 24 8 = 199#8) : decode w = decodeAtn07 w := by
  unfold decode decodeAtn
  rw [h]
  rfl

theorem decode_C8 (w : Word) (h : bits w 24 8 = 200#8) : decode w = decodeAtn08 w := by
  unfold decode decodeAtn
  rw [h]
  rfl

theorem decode_C9 (w : Word) (h : bits w 24 8 = 201#8) : decode w = decodeAtn09 w := by
  unfold decode decodeAtn
  rw [h]
  rfl

theorem decode_CA (w : Word) (h : bits w 24 8 = 202#8) : decode w = decodeAtn0A w := by
  unfold decode decodeAtn
  rw [h]
  rfl

theorem decode_CB (w : Word) (h : bits w 24 8 = 203#8) : decode w = decodeAtn0B w := by
  unfold decode decodeAtn
  rw [h]
  rfl

theorem decode_CC (w : Word) (h : bits w 24 8 = 204#8) : decode w = decodeAtn0C w := by
  unfold decode decodeAtn
  rw [h]
  rfl

theorem decode_E0 (w : Word) (h : bits w 24 8 = 224#8) : decode w = decodeSyn00 w := by
  unfold decode decodeSyn
  rw [h]
  rfl

theorem decode_E1 (w : Word) (h : bits w 24 8 = 225#8) : decode w = decodeSyn01 w := by
  unfold decode decodeSyn
  rw [h]
  rfl

theorem decode_E2 (w : Word) (h : bits w 24 8 = 226#8) : decode w = decodeSyn02 w := by
  unfold decode decodeSyn
  rw [h]
  rfl

theorem decode_E3 (w : Word) (h : bits w 24 8 = 227#8) : decode w = decodeSyn03 w := by
  unfold decode decodeSyn
  rw [h]
  rfl

theorem decode_E4 (w : Word) (h : bits w 24 8 = 228#8) : decode w = decodeSyn04 w := by
  unfold decode decodeSyn
  rw [h]
  rfl

theorem decode_E5 (w : Word) (h : bits w 24 8 = 229#8) : decode w = decodeSyn05 w := by
  unfold decode decodeSyn
  rw [h]
  rfl

theorem decode_E6 (w : Word) (h : bits w 24 8 = 230#8) : decode w = decodeSyn06 w := by
  unfold decode decodeSyn
  rw [h]
  rfl

theorem decode_E7 (w : Word) (h : bits w 24 8 = 231#8) : decode w = decodeSyn07 w := by
  unfold decode decodeSyn
  rw [h]
  rfl

theorem decode_E8 (w : Word) (h : bits w 24 8 = 232#8) : decode w = decodeSyn08 w := by
  unfold decode decodeSyn
  rw [h]
  rfl

theorem decode_E9 (w : Word) (h : bits w 24 8 = 233#8) : decode w = decodeSyn09 w := by
  unfold decode decodeSyn
  rw [h]
  rfl

theorem decode_EA (w : Word) (h : bits w 24 8 = 234#8) : decode w = decodeSyn0A w := by
  unfold decode decodeSyn
  rw [h]
  rfl

theorem decode_EB (w : Word) (h : bits w 24 8 = 235#8) : decode w = decodeSyn0B w := by
  unfold decode decodeSyn
  rw [h]
  rfl

theorem decode_EC (w : Word) (h : bits w 24 8 = 236#8) : decode w = decodeSyn0C w := by
  unfold decode decodeSyn
  rw [h]
  rfl

theorem decode_ED (w : Word) (h : bits w 24 8 = 237#8) : decode w = decodeSyn0D w := by
  unfold decode decodeSyn
  rw [h]
  rfl

theorem decode_EE (w : Word) (h : bits w 24 8 = 238#8) : decode w = decodeSyn0E w := by
  unfold decode decodeSyn
  rw [h]
  rfl

theorem decode_EF (w : Word) (h : bits w 24 8 = 239#8) : decode w = decodeSyn0F w := by
  unfold decode decodeSyn
  rw [h]
  rfl

theorem decode_F0 (w : Word) (h : bits w 24 8 = 240#8) : decode w = decodeSyn10 w := by
  unfold decode decodeSyn
  rw [h]
  rfl

theorem decode_F1 (w : Word) (h : bits w 24 8 = 241#8) : decode w = decodeSyn11 w := by
  unfold decode decodeSyn
  rw [h]
  rfl

theorem decode_F2 (w : Word) (h : bits w 24 8 = 242#8) : decode w = decodeSyn12 w := by
  unfold decode decodeSyn
  rw [h]
  rfl

theorem decode_F3 (w : Word) (h : bits w 24 8 = 243#8) : decode w = decodeSyn13 w := by
  unfold decode decodeSyn
  rw [h]
  rfl

theorem decode_F4 (w : Word) (h : bits w 24 8 = 244#8) : decode w = decodeSyn14 w := by
  unfold decode decodeSyn
  rw [h]
  rfl

theorem decode_F5 (w : Word) (h : bits w 24 8 = 245#8) : decode w = decodeSyn15 w := by
  unfold decode decodeSyn
  rw [h]
  rfl

theorem decode_F6 (w : Word) (h : bits w 24 8 = 246#8) : decode w = decodeSyn16 w := by
  unfold decode decodeSyn
  rw [h]
  rfl

theorem decode_F7 (w : Word) (h : bits w 24 8 = 247#8) : decode w = decodeSyn17 w := by
  unfold decode decodeSyn
  rw [h]
  rfl

theorem decode_F8 (w : Word) (h : bits w 24 8 = 248#8) : decode w = decodeSyn18 w := by
  unfold decode decodeSyn
  rw [h]
  rfl

theorem decode_F9 (w : Word) (h : bits w 24 8 = 249#8) : decode w = decodeSyn19 w := by
  unfold decode decodeSyn
  rw [h]
  rfl

theorem decode_FA (w : Word) (h : bits w 24 8 = 250#8) : decode w = decodeSyn1A w := by
  unfold decode decodeSyn
  rw [h]
  rfl

theorem decode_FB (w : Word) (h : bits w 24 8 = 251#8) : decode w = decodeSyn1B w := by
  unfold decode decodeSyn
  rw [h]
  rfl

end Sys2Proof.Laws
end

