-- ==== Sys2Proof/Laws/Exec.lean ====
section
/-! SUPPORT. What `exec` does with each constructor: it calls that instruction's meaning. -/

namespace Sys2Proof.Machine
open Sys2Proof
set_option Elab.async false

@[simp] theorem exec_add (d : BitVec 6) (a : BitVec 6) (b : BitVec 6) (st0 : State) : exec (.add d a b) st0 = execAdd d a b st0 := rfl
@[simp] theorem exec_sub (d : BitVec 6) (a : BitVec 6) (b : BitVec 6) (st0 : State) : exec (.sub d a b) st0 = execSub d a b st0 := rfl
@[simp] theorem exec_and (d : BitVec 6) (a : BitVec 6) (b : BitVec 6) (st0 : State) : exec (.and d a b) st0 = execAnd d a b st0 := rfl
@[simp] theorem exec_or (d : BitVec 6) (a : BitVec 6) (b : BitVec 6) (st0 : State) : exec (.or d a b) st0 = execOr d a b st0 := rfl
@[simp] theorem exec_xor (d : BitVec 6) (a : BitVec 6) (b : BitVec 6) (st0 : State) : exec (.xor d a b) st0 = execXor d a b st0 := rfl
@[simp] theorem exec_andn (d : BitVec 6) (a : BitVec 6) (b : BitVec 6) (st0 : State) : exec (.andn d a b) st0 = execAndn d a b st0 := rfl
@[simp] theorem exec_shl (d : BitVec 6) (a : BitVec 6) (b : BitVec 6) (st0 : State) : exec (.shl d a b) st0 = execShl d a b st0 := rfl
@[simp] theorem exec_shr (d : BitVec 6) (a : BitVec 6) (b : BitVec 6) (st0 : State) : exec (.shr d a b) st0 = execShr d a b st0 := rfl
@[simp] theorem exec_sra (d : BitVec 6) (a : BitVec 6) (b : BitVec 6) (st0 : State) : exec (.sra d a b) st0 = execSra d a b st0 := rfl
@[simp] theorem exec_slt (d : BitVec 6) (a : BitVec 6) (b : BitVec 6) (st0 : State) : exec (.slt d a b) st0 = execSlt d a b st0 := rfl
@[simp] theorem exec_sltu (d : BitVec 6) (a : BitVec 6) (b : BitVec 6) (st0 : State) : exec (.sltu d a b) st0 = execSltu d a b st0 := rfl
@[simp] theorem exec_min (d : BitVec 6) (a : BitVec 6) (b : BitVec 6) (st0 : State) : exec (.min d a b) st0 = execMin d a b st0 := rfl
@[simp] theorem exec_max (d : BitVec 6) (a : BitVec 6) (b : BitVec 6) (st0 : State) : exec (.max d a b) st0 = execMax d a b st0 := rfl
@[simp] theorem exec_minu (d : BitVec 6) (a : BitVec 6) (b : BitVec 6) (st0 : State) : exec (.minu d a b) st0 = execMinu d a b st0 := rfl
@[simp] theorem exec_maxu (d : BitVec 6) (a : BitVec 6) (b : BitVec 6) (st0 : State) : exec (.maxu d a b) st0 = execMaxu d a b st0 := rfl
@[simp] theorem exec_mul (d : BitVec 6) (a : BitVec 6) (b : BitVec 6) (st0 : State) : exec (.mul d a b) st0 = execMul d a b st0 := rfl
@[simp] theorem exec_mulh (d : BitVec 6) (a : BitVec 6) (b : BitVec 6) (st0 : State) : exec (.mulh d a b) st0 = execMulh d a b st0 := rfl
@[simp] theorem exec_mulhu (d : BitVec 6) (a : BitVec 6) (b : BitVec 6) (st0 : State) : exec (.mulhu d a b) st0 = execMulhu d a b st0 := rfl
@[simp] theorem exec_div (d : BitVec 6) (a : BitVec 6) (b : BitVec 6) (st0 : State) : exec (.div d a b) st0 = execDiv d a b st0 := rfl
@[simp] theorem exec_divu (d : BitVec 6) (a : BitVec 6) (b : BitVec 6) (st0 : State) : exec (.divu d a b) st0 = execDivu d a b st0 := rfl
@[simp] theorem exec_rem (d : BitVec 6) (a : BitVec 6) (b : BitVec 6) (st0 : State) : exec (.rem d a b) st0 = execRem d a b st0 := rfl
@[simp] theorem exec_remu (d : BitVec 6) (a : BitVec 6) (b : BitVec 6) (st0 : State) : exec (.remu d a b) st0 = execRemu d a b st0 := rfl
@[simp] theorem exec_clz (d : BitVec 6) (a : BitVec 6) (st0 : State) : exec (.clz d a) st0 = execClz d a st0 := rfl
@[simp] theorem exec_ctz (d : BitVec 6) (a : BitVec 6) (st0 : State) : exec (.ctz d a) st0 = execCtz d a st0 := rfl
@[simp] theorem exec_popc (d : BitVec 6) (a : BitVec 6) (st0 : State) : exec (.popc d a) st0 = execPopc d a st0 := rfl
@[simp] theorem exec_addi (d : BitVec 6) (a : BitVec 6) (i : BitVec 12) (st0 : State) : exec (.addi d a i) st0 = execAddi d a i st0 := rfl
@[simp] theorem exec_andi (d : BitVec 6) (a : BitVec 6) (i : BitVec 12) (st0 : State) : exec (.andi d a i) st0 = execAndi d a i st0 := rfl
@[simp] theorem exec_ori (d : BitVec 6) (a : BitVec 6) (i : BitVec 12) (st0 : State) : exec (.ori d a i) st0 = execOri d a i st0 := rfl
@[simp] theorem exec_xori (d : BitVec 6) (a : BitVec 6) (i : BitVec 12) (st0 : State) : exec (.xori d a i) st0 = execXori d a i st0 := rfl
@[simp] theorem exec_shli (d : BitVec 6) (a : BitVec 6) (n : BitVec 6) (st0 : State) : exec (.shli d a n) st0 = execShli d a n st0 := rfl
@[simp] theorem exec_shri (d : BitVec 6) (a : BitVec 6) (n : BitVec 6) (st0 : State) : exec (.shri d a n) st0 = execShri d a n st0 := rfl
@[simp] theorem exec_srai (d : BitVec 6) (a : BitVec 6) (n : BitVec 6) (st0 : State) : exec (.srai d a n) st0 = execSrai d a n st0 := rfl
@[simp] theorem exec_slti (d : BitVec 6) (a : BitVec 6) (i : BitVec 11) (st0 : State) : exec (.slti d a i) st0 = execSlti d a i st0 := rfl
@[simp] theorem exec_sltiu (d : BitVec 6) (a : BitVec 6) (i : BitVec 11) (st0 : State) : exec (.sltiu d a i) st0 = execSltiu d a i st0 := rfl
@[simp] theorem exec_lui (d : BitVec 6) (i : BitVec 18) (st0 : State) : exec (.lui d i) st0 = execLui d i st0 := rfl
@[simp] theorem exec_auipc (d : BitVec 6) (i : BitVec 18) (st0 : State) : exec (.auipc d i) st0 = execAuipc d i st0 := rfl
@[simp] theorem exec_ldB (d : BitVec 6) (a : BitVec 6) (o : BitVec 9) (st0 : State) : exec (.ldB d a o) st0 = execLdB d a o st0 := rfl
@[simp] theorem exec_ldBu (d : BitVec 6) (a : BitVec 6) (o : BitVec 9) (st0 : State) : exec (.ldBu d a o) st0 = execLdBu d a o st0 := rfl
@[simp] theorem exec_ldH (d : BitVec 6) (a : BitVec 6) (o : BitVec 9) (st0 : State) : exec (.ldH d a o) st0 = execLdH d a o st0 := rfl
@[simp] theorem exec_ldHu (d : BitVec 6) (a : BitVec 6) (o : BitVec 9) (st0 : State) : exec (.ldHu d a o) st0 = execLdHu d a o st0 := rfl
@[simp] theorem exec_ldW (d : BitVec 6) (a : BitVec 6) (o : BitVec 9) (st0 : State) : exec (.ldW d a o) st0 = execLdW d a o st0 := rfl
@[simp] theorem exec_ldWu (d : BitVec 6) (a : BitVec 6) (o : BitVec 9) (st0 : State) : exec (.ldWu d a o) st0 = execLdWu d a o st0 := rfl
@[simp] theorem exec_ldD (d : BitVec 6) (a : BitVec 6) (o : BitVec 9) (st0 : State) : exec (.ldD d a o) st0 = execLdD d a o st0 := rfl
@[simp] theorem exec_stB (d : BitVec 6) (a : BitVec 6) (o : BitVec 9) (st0 : State) : exec (.stB d a o) st0 = execStB d a o st0 := rfl
@[simp] theorem exec_stH (d : BitVec 6) (a : BitVec 6) (o : BitVec 9) (st0 : State) : exec (.stH d a o) st0 = execStH d a o st0 := rfl
@[simp] theorem exec_stW (d : BitVec 6) (a : BitVec 6) (o : BitVec 9) (st0 : State) : exec (.stW d a o) st0 = execStW d a o st0 := rfl
@[simp] theorem exec_stD (d : BitVec 6) (a : BitVec 6) (o : BitVec 9) (st0 : State) : exec (.stD d a o) st0 = execStD d a o st0 := rfl
@[simp] theorem exec_cmpEq (d : BitVec 4) (a : BitVec 6) (b : BitVec 6) (st0 : State) : exec (.cmpEq d a b) st0 = execCmpEq d a b st0 := rfl
@[simp] theorem exec_cmpNe (d : BitVec 4) (a : BitVec 6) (b : BitVec 6) (st0 : State) : exec (.cmpNe d a b) st0 = execCmpNe d a b st0 := rfl
@[simp] theorem exec_cmpLt (d : BitVec 4) (a : BitVec 6) (b : BitVec 6) (st0 : State) : exec (.cmpLt d a b) st0 = execCmpLt d a b st0 := rfl
@[simp] theorem exec_cmpGe (d : BitVec 4) (a : BitVec 6) (b : BitVec 6) (st0 : State) : exec (.cmpGe d a b) st0 = execCmpGe d a b st0 := rfl
@[simp] theorem exec_cmpLtu (d : BitVec 4) (a : BitVec 6) (b : BitVec 6) (st0 : State) : exec (.cmpLtu d a b) st0 = execCmpLtu d a b st0 := rfl
@[simp] theorem exec_cmpGeu (d : BitVec 4) (a : BitVec 6) (b : BitVec 6) (st0 : State) : exec (.cmpGeu d a b) st0 = execCmpGeu d a b st0 := rfl
@[simp] theorem exec_cmpiEq (d : BitVec 4) (a : BitVec 6) (i : BitVec 9) (st0 : State) : exec (.cmpiEq d a i) st0 = execCmpiEq d a i st0 := rfl
@[simp] theorem exec_cmpiNe (d : BitVec 4) (a : BitVec 6) (i : BitVec 9) (st0 : State) : exec (.cmpiNe d a i) st0 = execCmpiNe d a i st0 := rfl
@[simp] theorem exec_cmpiLt (d : BitVec 4) (a : BitVec 6) (i : BitVec 9) (st0 : State) : exec (.cmpiLt d a i) st0 = execCmpiLt d a i st0 := rfl
@[simp] theorem exec_cmpiGe (d : BitVec 4) (a : BitVec 6) (i : BitVec 9) (st0 : State) : exec (.cmpiGe d a i) st0 = execCmpiGe d a i st0 := rfl
@[simp] theorem exec_cmpiLtu (d : BitVec 4) (a : BitVec 6) (i : BitVec 9) (st0 : State) : exec (.cmpiLtu d a i) st0 = execCmpiLtu d a i st0 := rfl
@[simp] theorem exec_cmpiGeu (d : BitVec 4) (a : BitVec 6) (i : BitVec 9) (st0 : State) : exec (.cmpiGeu d a i) st0 = execCmpiGeu d a i st0 := rfl
@[simp] theorem exec_pand (d : BitVec 4) (a : BitVec 4) (b : BitVec 4) (st0 : State) : exec (.pand d a b) st0 = execPand d a b st0 := rfl
@[simp] theorem exec_por (d : BitVec 4) (a : BitVec 4) (b : BitVec 4) (st0 : State) : exec (.por d a b) st0 = execPor d a b st0 := rfl
@[simp] theorem exec_pxor (d : BitVec 4) (a : BitVec 4) (b : BitVec 4) (st0 : State) : exec (.pxor d a b) st0 = execPxor d a b st0 := rfl
@[simp] theorem exec_pandn (d : BitVec 4) (a : BitVec 4) (b : BitVec 4) (st0 : State) : exec (.pandn d a b) st0 = execPandn d a b st0 := rfl
@[simp] theorem exec_pnot (d : BitVec 4) (a : BitVec 4) (st0 : State) : exec (.pnot d a) st0 = execPnot d a st0 := rfl
@[simp] theorem exec_pmov (d : BitVec 4) (a : BitVec 4) (st0 : State) : exec (.pmov d a) st0 = execPmov d a st0 := rfl
@[simp] theorem exec_br (p : BitVec 4) (n : BitVec 1) (o : BitVec 19) (st0 : State) : exec (.br p n o) st0 = execBr p n o st0 := rfl
@[simp] theorem exec_jal (d : BitVec 6) (i : BitVec 18) (st0 : State) : exec (.jal d i) st0 = execJal d i st0 := rfl
@[simp] theorem exec_jalr (d : BitVec 6) (a : BitVec 6) (i : BitVec 12) (st0 : State) : exec (.jalr d a i) st0 = execJalr d a i st0 := rfl
@[simp] theorem exec_loop (c : BitVec 6) (b : BitVec 12) (st0 : State) : exec (.loop c b) st0 = execLoop c b st0 := rfl
@[simp] theorem exec_loopRot (c : BitVec 6) (b : BitVec 12) (s : BitVec 3) (st0 : State) : exec (.loopRot c b s) st0 = execLoopRot c b s st0 := rfl
@[simp] theorem exec_loopi (n : BitVec 6) (b : BitVec 12) (st0 : State) : exec (.loopi n b) st0 = execLoopi n b st0 := rfl
@[simp] theorem exec_loopiRot (n : BitVec 6) (b : BitVec 12) (s : BitVec 3) (st0 : State) : exec (.loopiRot n b s) st0 = execLoopiRot n b s st0 := rfl
@[simp] theorem exec_passBoundary (t : Nat) (st0 : State) : exec (.passBoundary t) st0 = execPassBoundary t st0 := rfl
@[simp] theorem exec_rot (a : BitVec 6) (i : BitVec 12) (st0 : State) : exec (.rot a i) st0 = execRot a i st0 := rfl
@[simp] theorem exec_qpush (q : BitVec 4) (a : BitVec 6) (st0 : State) : exec (.qpush q a) st0 = execQpush q a st0 := rfl
@[simp] theorem exec_qpop (d : BitVec 6) (q : BitVec 4) (st0 : State) : exec (.qpop d q) st0 = execQpop d q st0 := rfl
@[simp] theorem exec_fmt (d : BitVec 6) (a : BitVec 6) (b : BitVec 6) (st0 : State) : exec (.fmt d a b) st0 = execFmt d a b st0 := rfl
@[simp] theorem exec_fmtQ (a : BitVec 6) (b : BitVec 6) (st0 : State) : exec (.fmtQ a b) st0 = execFmtQ a b st0 := rfl
@[simp] theorem exec_mark (j : BitVec 3) (m : BitVec 8) (st0 : State) : exec (.mark j m) st0 = execMark j m st0 := rfl
@[simp] theorem exec_join (j : BitVec 3) (st0 : State) : exec (.join j) st0 = execJoin j st0 := rfl
@[simp] theorem exec_rdsr (d : BitVec 6) (n : BitVec 12) (st0 : State) : exec (.rdsr d n) st0 = execRdsr d n st0 := rfl
@[simp] theorem exec_wrsr (a : BitVec 6) (n : BitVec 12) (st0 : State) : exec (.wrsr a n) st0 = execWrsr a n st0 := rfl
@[simp] theorem exec_sel (d : BitVec 6) (a : BitVec 6) (b : BitVec 6) (n : BitVec 1) (p : BitVec 4) (st0 : State) : exec (.sel d a b n p) st0 = execSel d a b n p st0 := rfl
@[simp] theorem exec_nop (st0 : State) : exec (.nop) st0 = execNop st0 := rfl
@[simp] theorem exec_brk (st0 : State) : exec (.brk) st0 = execBrk st0 := rfl
@[simp] theorem exec_capt (n : BitVec 3) (s : BitVec 3) (st0 : State) : exec (.capt n s) st0 = execCapt n s st0 := rfl
@[simp] theorem exec_tld (d : BitVec 6) (s : BitVec 3) (a : BitVec 6) (st0 : State) : exec (.tld d s a) st0 = execTld d s a st0 := rfl
@[simp] theorem exec_tldQ (s : BitVec 3) (a : BitVec 6) (st0 : State) : exec (.tldQ s a) st0 = execTldQ s a st0 := rfl
@[simp] theorem exec_tst (d : BitVec 6) (s : BitVec 3) (a : BitVec 6) (st0 : State) : exec (.tst d s a) st0 = execTst d s a st0 := rfl
@[simp] theorem exec_tstQ (s : BitVec 3) (a : BitVec 6) (st0 : State) : exec (.tstQ s a) st0 = execTstQ s a st0 := rfl
@[simp] theorem exec_gld (d : BitVec 6) (s : BitVec 3) (a : BitVec 6) (st0 : State) : exec (.gld d s a) st0 = execGld d s a st0 := rfl
@[simp] theorem exec_gldQ (s : BitVec 3) (a : BitVec 6) (st0 : State) : exec (.gldQ s a) st0 = execGldQ s a st0 := rfl
@[simp] theorem exec_gst (d : BitVec 6) (s : BitVec 3) (a : BitVec 6) (st0 : State) : exec (.gst d s a) st0 = execGst d s a st0 := rfl
@[simp] theorem exec_gstQ (s : BitVec 3) (a : BitVec 6) (st0 : State) : exec (.gstQ s a) st0 = execGstQ s a st0 := rfl
@[simp] theorem exec_vld (a : BitVec 6) (st0 : State) : exec (.vld a) st0 = execVld a st0 := rfl
@[simp] theorem exec_vst (a : BitVec 6) (st0 : State) : exec (.vst a) st0 = execVst a st0 := rfl
@[simp] theorem exec_sld (a : BitVec 6) (w : BitVec 3) (st0 : State) : exec (.sld a w) st0 = execSld a w st0 := rfl
@[simp] theorem exec_sldRow (a : BitVec 6) (st0 : State) : exec (.sldRow a) st0 = execSldRow a st0 := rfl
@[simp] theorem exec_sst (d : BitVec 6) (a : BitVec 6) (w : BitVec 3) (st0 : State) : exec (.sst d a w) st0 = execSst d a w st0 := rfl
@[simp] theorem exec_sstRow (a : BitVec 6) (st0 : State) : exec (.sstRow a) st0 = execSstRow a st0 := rfl
@[simp] theorem exec_atomAdd (a : BitVec 6) (c : BitVec 3) (r : BitVec 1) (p : BitVec 1) (z : BitVec 1) (st0 : State) : exec (.atomAdd a c r p z) st0 = execAtomAdd a c r p z st0 := rfl
@[simp] theorem exec_atomMin (a : BitVec 6) (c : BitVec 3) (r : BitVec 1) (p : BitVec 1) (z : BitVec 1) (st0 : State) : exec (.atomMin a c r p z) st0 = execAtomMin a c r p z st0 := rfl
@[simp] theorem exec_atomMax (a : BitVec 6) (c : BitVec 3) (r : BitVec 1) (p : BitVec 1) (z : BitVec 1) (st0 : State) : exec (.atomMax a c r p z) st0 = execAtomMax a c r p z st0 := rfl
@[simp] theorem exec_atomAnd (a : BitVec 6) (c : BitVec 3) (r : BitVec 1) (p : BitVec 1) (z : BitVec 1) (st0 : State) : exec (.atomAnd a c r p z) st0 = execAtomAnd a c r p z st0 := rfl
@[simp] theorem exec_atomOr (a : BitVec 6) (c : BitVec 3) (r : BitVec 1) (p : BitVec 1) (z : BitVec 1) (st0 : State) : exec (.atomOr a c r p z) st0 = execAtomOr a c r p z st0 := rfl
@[simp] theorem exec_atomXor (a : BitVec 6) (c : BitVec 3) (r : BitVec 1) (p : BitVec 1) (z : BitVec 1) (st0 : State) : exec (.atomXor a c r p z) st0 = execAtomXor a c r p z st0 := rfl
@[simp] theorem exec_atomXchg (a : BitVec 6) (c : BitVec 3) (r : BitVec 1) (p : BitVec 1) (z : BitVec 1) (st0 : State) : exec (.atomXchg a c r p z) st0 = execAtomXchg a c r p z st0 := rfl
@[simp] theorem exec_atomCas (a : BitVec 6) (c : BitVec 3) (r : BitVec 1) (p : BitVec 1) (z : BitVec 1) (st0 : State) : exec (.atomCas a c r p z) st0 = execAtomCas a c r p z st0 := rfl
@[simp] theorem exec_atomoAdd (a : BitVec 6) (c : BitVec 3) (r : BitVec 1) (p : BitVec 1) (z : BitVec 1) (st0 : State) : exec (.atomoAdd a c r p z) st0 = execAtomoAdd a c r p z st0 := rfl
@[simp] theorem exec_atomoMin (a : BitVec 6) (c : BitVec 3) (r : BitVec 1) (p : BitVec 1) (z : BitVec 1) (st0 : State) : exec (.atomoMin a c r p z) st0 = execAtomoMin a c r p z st0 := rfl
@[simp] theorem exec_atomoMax (a : BitVec 6) (c : BitVec 3) (r : BitVec 1) (p : BitVec 1) (z : BitVec 1) (st0 : State) : exec (.atomoMax a c r p z) st0 = execAtomoMax a c r p z st0 := rfl
@[simp] theorem exec_atomoAnd (a : BitVec 6) (c : BitVec 3) (r : BitVec 1) (p : BitVec 1) (z : BitVec 1) (st0 : State) : exec (.atomoAnd a c r p z) st0 = execAtomoAnd a c r p z st0 := rfl
@[simp] theorem exec_atomoOr (a : BitVec 6) (c : BitVec 3) (r : BitVec 1) (p : BitVec 1) (z : BitVec 1) (st0 : State) : exec (.atomoOr a c r p z) st0 = execAtomoOr a c r p z st0 := rfl
@[simp] theorem exec_atomoXor (a : BitVec 6) (c : BitVec 3) (r : BitVec 1) (p : BitVec 1) (z : BitVec 1) (st0 : State) : exec (.atomoXor a c r p z) st0 = execAtomoXor a c r p z st0 := rfl
@[simp] theorem exec_atomoXchg (a : BitVec 6) (c : BitVec 3) (r : BitVec 1) (p : BitVec 1) (z : BitVec 1) (st0 : State) : exec (.atomoXchg a c r p z) st0 = execAtomoXchg a c r p z st0 := rfl
@[simp] theorem exec_atomoCas (a : BitVec 6) (c : BitVec 3) (r : BitVec 1) (p : BitVec 1) (z : BitVec 1) (st0 : State) : exec (.atomoCas a c r p z) st0 = execAtomoCas a c r p z st0 := rfl
@[simp] theorem exec_prefL (a : BitVec 6) (st0 : State) : exec (.prefL a) st0 = execPrefL a st0 := rfl
@[simp] theorem exec_prefT (s : BitVec 3) (a : BitVec 6) (st0 : State) : exec (.prefT s a) st0 = execPrefT s a st0 := rfl
@[simp] theorem exec_fenceAcq (c : BitVec 3) (st0 : State) : exec (.fenceAcq c) st0 = execFenceAcq c st0 := rfl
@[simp] theorem exec_fenceRel (c : BitVec 3) (st0 : State) : exec (.fenceRel c) st0 = execFenceRel c st0 := rfl
@[simp] theorem exec_fenceFull (c : BitVec 3) (st0 : State) : exec (.fenceFull c) st0 = execFenceFull c st0 := rfl
@[simp] theorem exec_hwait (h : BitVec 6) (a : BitVec 6) (st0 : State) : exec (.hwait h a) st0 = execHwait h a st0 := rfl
@[simp] theorem exec_hwaitSt (h : BitVec 6) (a : BitVec 6) (st0 : State) : exec (.hwaitSt h a) st0 = execHwaitSt h a st0 := rfl
@[simp] theorem exec_ldq (a : BitVec 6) (w : BitVec 3) (st0 : State) : exec (.ldq a w) st0 = execLdq a w st0 := rfl
@[simp] theorem exec_adrFaultTrap (t : Nat) (st0 : State) : exec (.adrFaultTrap t) st0 = execAdrFaultTrap t st0 := rfl
@[simp] theorem exec_vintAdd (d : BitVec 5) (a : BitVec 5) (b : BitVec 5) (m : BitVec 3) (t : BitVec 2) (st0 : State) : exec (.vintAdd d a b m t) st0 = execVintAdd d a b m t st0 := rfl
@[simp] theorem exec_vintSub (d : BitVec 5) (a : BitVec 5) (b : BitVec 5) (m : BitVec 3) (t : BitVec 2) (st0 : State) : exec (.vintSub d a b m t) st0 = execVintSub d a b m t st0 := rfl
@[simp] theorem exec_vintMul (d : BitVec 5) (a : BitVec 5) (b : BitVec 5) (m : BitVec 3) (t : BitVec 2) (st0 : State) : exec (.vintMul d a b m t) st0 = execVintMul d a b m t st0 := rfl
@[simp] theorem exec_vintMulh (d : BitVec 5) (a : BitVec 5) (b : BitVec 5) (m : BitVec 3) (t : BitVec 2) (st0 : State) : exec (.vintMulh d a b m t) st0 = execVintMulh d a b m t st0 := rfl
@[simp] theorem exec_vintAnd (d : BitVec 5) (a : BitVec 5) (b : BitVec 5) (m : BitVec 3) (st0 : State) : exec (.vintAnd d a b m) st0 = execVintAnd d a b m st0 := rfl
@[simp] theorem exec_vintOr (d : BitVec 5) (a : BitVec 5) (b : BitVec 5) (m : BitVec 3) (st0 : State) : exec (.vintOr d a b m) st0 = execVintOr d a b m st0 := rfl
@[simp] theorem exec_vintXor (d : BitVec 5) (a : BitVec 5) (b : BitVec 5) (m : BitVec 3) (st0 : State) : exec (.vintXor d a b m) st0 = execVintXor d a b m st0 := rfl
@[simp] theorem exec_vintAndn (d : BitVec 5) (a : BitVec 5) (b : BitVec 5) (m : BitVec 3) (st0 : State) : exec (.vintAndn d a b m) st0 = execVintAndn d a b m st0 := rfl
@[simp] theorem exec_vintShl (d : BitVec 5) (a : BitVec 5) (b : BitVec 5) (m : BitVec 3) (st0 : State) : exec (.vintShl d a b m) st0 = execVintShl d a b m st0 := rfl
@[simp] theorem exec_vintShr (d : BitVec 5) (a : BitVec 5) (b : BitVec 5) (m : BitVec 3) (st0 : State) : exec (.vintShr d a b m) st0 = execVintShr d a b m st0 := rfl
@[simp] theorem exec_vintSra (d : BitVec 5) (a : BitVec 5) (b : BitVec 5) (m : BitVec 3) (st0 : State) : exec (.vintSra d a b m) st0 = execVintSra d a b m st0 := rfl
@[simp] theorem exec_vintMin (d : BitVec 5) (a : BitVec 5) (b : BitVec 5) (m : BitVec 3) (t : BitVec 2) (st0 : State) : exec (.vintMin d a b m t) st0 = execVintMin d a b m t st0 := rfl
@[simp] theorem exec_vintMax (d : BitVec 5) (a : BitVec 5) (b : BitVec 5) (m : BitVec 3) (t : BitVec 2) (st0 : State) : exec (.vintMax d a b m t) st0 = execVintMax d a b m t st0 := rfl
@[simp] theorem exec_vintAbs (d : BitVec 5) (a : BitVec 5) (m : BitVec 3) (t : BitVec 2) (st0 : State) : exec (.vintAbs d a m t) st0 = execVintAbs d a m t st0 := rfl
@[simp] theorem exec_vintNeg (d : BitVec 5) (a : BitVec 5) (m : BitVec 3) (t : BitVec 2) (st0 : State) : exec (.vintNeg d a m t) st0 = execVintNeg d a m t st0 := rfl
@[simp] theorem exec_vfltAdd (d : BitVec 5) (a : BitVec 5) (b : BitVec 5) (m : BitVec 3) (st0 : State) : exec (.vfltAdd d a b m) st0 = execVfltAdd d a b m st0 := rfl
@[simp] theorem exec_vfltSub (d : BitVec 5) (a : BitVec 5) (b : BitVec 5) (m : BitVec 3) (st0 : State) : exec (.vfltSub d a b m) st0 = execVfltSub d a b m st0 := rfl
@[simp] theorem exec_vfltMul (d : BitVec 5) (a : BitVec 5) (b : BitVec 5) (m : BitVec 3) (st0 : State) : exec (.vfltMul d a b m) st0 = execVfltMul d a b m st0 := rfl
@[simp] theorem exec_vfltDiv (d : BitVec 5) (a : BitVec 5) (b : BitVec 5) (m : BitVec 3) (st0 : State) : exec (.vfltDiv d a b m) st0 = execVfltDiv d a b m st0 := rfl
@[simp] theorem exec_vfltMin (d : BitVec 5) (a : BitVec 5) (b : BitVec 5) (m : BitVec 3) (st0 : State) : exec (.vfltMin d a b m) st0 = execVfltMin d a b m st0 := rfl
@[simp] theorem exec_vfltMax (d : BitVec 5) (a : BitVec 5) (b : BitVec 5) (m : BitVec 3) (st0 : State) : exec (.vfltMax d a b m) st0 = execVfltMax d a b m st0 := rfl
@[simp] theorem exec_vfltAbs (d : BitVec 5) (a : BitVec 5) (m : BitVec 3) (st0 : State) : exec (.vfltAbs d a m) st0 = execVfltAbs d a m st0 := rfl
@[simp] theorem exec_vfltNeg (d : BitVec 5) (a : BitVec 5) (m : BitVec 3) (st0 : State) : exec (.vfltNeg d a m) st0 = execVfltNeg d a m st0 := rfl
@[simp] theorem exec_vfmaFma (d : BitVec 5) (a : BitVec 5) (b : BitVec 5) (m : BitVec 3) (st0 : State) : exec (.vfmaFma d a b m) st0 = execVfmaFma d a b m st0 := rfl
@[simp] theorem exec_vfmaFms (d : BitVec 5) (a : BitVec 5) (b : BitVec 5) (m : BitVec 3) (st0 : State) : exec (.vfmaFms d a b m) st0 = execVfmaFms d a b m st0 := rfl
@[simp] theorem exec_vfmaFnma (d : BitVec 5) (a : BitVec 5) (b : BitVec 5) (m : BitVec 3) (st0 : State) : exec (.vfmaFnma d a b m) st0 = execVfmaFnma d a b m st0 := rfl
@[simp] theorem exec_vfmaFnms (d : BitVec 5) (a : BitVec 5) (b : BitVec 5) (m : BitVec 3) (st0 : State) : exec (.vfmaFnms d a b m) st0 = execVfmaFnms d a b m st0 := rfl
@[simp] theorem exec_vcmpEq (d : BitVec 3) (a : BitVec 5) (b : BitVec 5) (m : BitVec 3) (t : BitVec 2) (st0 : State) : exec (.vcmpEq d a b m t) st0 = execVcmpEq d a b m t st0 := rfl
@[simp] theorem exec_vcmpNe (d : BitVec 3) (a : BitVec 5) (b : BitVec 5) (m : BitVec 3) (t : BitVec 2) (st0 : State) : exec (.vcmpNe d a b m t) st0 = execVcmpNe d a b m t st0 := rfl
@[simp] theorem exec_vcmpLt (d : BitVec 3) (a : BitVec 5) (b : BitVec 5) (m : BitVec 3) (t : BitVec 2) (st0 : State) : exec (.vcmpLt d a b m t) st0 = execVcmpLt d a b m t st0 := rfl
@[simp] theorem exec_vcmpLe (d : BitVec 3) (a : BitVec 5) (b : BitVec 5) (m : BitVec 3) (t : BitVec 2) (st0 : State) : exec (.vcmpLe d a b m t) st0 = execVcmpLe d a b m t st0 := rfl
@[simp] theorem exec_vcmpGt (d : BitVec 3) (a : BitVec 5) (b : BitVec 5) (m : BitVec 3) (t : BitVec 2) (st0 : State) : exec (.vcmpGt d a b m t) st0 = execVcmpGt d a b m t st0 := rfl
@[simp] theorem exec_vcmpGe (d : BitVec 3) (a : BitVec 5) (b : BitVec 5) (m : BitVec 3) (t : BitVec 2) (st0 : State) : exec (.vcmpGe d a b m t) st0 = execVcmpGe d a b m t st0 := rfl
@[simp] theorem exec_vcmpUn (d : BitVec 3) (a : BitVec 5) (b : BitVec 5) (m : BitVec 3) (st0 : State) : exec (.vcmpUn d a b m) st0 = execVcmpUn d a b m st0 := rfl
@[simp] theorem exec_vcvtTo (d : BitVec 5) (a : BitVec 5) (b : BitVec 5) (m : BitVec 3) (t : BitVec 2) (st0 : State) : exec (.vcvtTo d a b m t) st0 = execVcvtTo d a b m t st0 := rfl
@[simp] theorem exec_vcvtFrom (d : BitVec 5) (a : BitVec 5) (b : BitVec 5) (m : BitVec 3) (st0 : State) : exec (.vcvtFrom d a b m) st0 = execVcvtFrom d a b m st0 := rfl
@[simp] theorem exec_vcvtF2i (d : BitVec 5) (a : BitVec 5) (m : BitVec 3) (t : BitVec 2) (st0 : State) : exec (.vcvtF2i d a m t) st0 = execVcvtF2i d a m t st0 := rfl
@[simp] theorem exec_vcvtI2f (d : BitVec 5) (a : BitVec 5) (m : BitVec 3) (t : BitVec 2) (st0 : State) : exec (.vcvtI2f d a m t) st0 = execVcvtI2f d a m t st0 := rfl
@[simp] theorem exec_vcvtU2f (d : BitVec 5) (a : BitVec 5) (m : BitVec 3) (t : BitVec 2) (st0 : State) : exec (.vcvtU2f d a m t) st0 = execVcvtU2f d a m t st0 := rfl
@[simp] theorem exec_vredSum (d : BitVec 5) (a : BitVec 5) (m : BitVec 3) (t : BitVec 2) (st0 : State) : exec (.vredSum d a m t) st0 = execVredSum d a m t st0 := rfl
@[simp] theorem exec_vredMax (d : BitVec 5) (a : BitVec 5) (m : BitVec 3) (t : BitVec 2) (st0 : State) : exec (.vredMax d a m t) st0 = execVredMax d a m t st0 := rfl
@[simp] theorem exec_vredMin (d : BitVec 5) (a : BitVec 5) (m : BitVec 3) (t : BitVec 2) (st0 : State) : exec (.vredMin d a m t) st0 = execVredMin d a m t st0 := rfl
@[simp] theorem exec_vredArgmax (d : BitVec 5) (a : BitVec 5) (m : BitVec 3) (t : BitVec 2) (st0 : State) : exec (.vredArgmax d a m t) st0 = execVredArgmax d a m t st0 := rfl
@[simp] theorem exec_vredArgmin (d : BitVec 5) (a : BitVec 5) (m : BitVec 3) (t : BitVec 2) (st0 : State) : exec (.vredArgmin d a m t) st0 = execVredArgmin d a m t st0 := rfl
@[simp] theorem exec_vredSumQ (a : BitVec 5) (m : BitVec 3) (t : BitVec 2) (st0 : State) : exec (.vredSumQ a m t) st0 = execVredSumQ a m t st0 := rfl
@[simp] theorem exec_vredMaxQ (a : BitVec 5) (m : BitVec 3) (t : BitVec 2) (st0 : State) : exec (.vredMaxQ a m t) st0 = execVredMaxQ a m t st0 := rfl
@[simp] theorem exec_vredMinQ (a : BitVec 5) (m : BitVec 3) (t : BitVec 2) (st0 : State) : exec (.vredMinQ a m t) st0 = execVredMinQ a m t st0 := rfl
@[simp] theorem exec_vredArgmaxQ (a : BitVec 5) (m : BitVec 3) (t : BitVec 2) (st0 : State) : exec (.vredArgmaxQ a m t) st0 = execVredArgmaxQ a m t st0 := rfl
@[simp] theorem exec_vredArgminQ (a : BitVec 5) (m : BitVec 3) (t : BitVec 2) (st0 : State) : exec (.vredArgminQ a m t) st0 = execVredArgminQ a m t st0 := rfl
@[simp] theorem exec_vscanSum (d : BitVec 5) (a : BitVec 5) (m : BitVec 3) (t : BitVec 2) (st0 : State) : exec (.vscanSum d a m t) st0 = execVscanSum d a m t st0 := rfl
@[simp] theorem exec_vscanMax (d : BitVec 5) (a : BitVec 5) (m : BitVec 3) (t : BitVec 2) (st0 : State) : exec (.vscanMax d a m t) st0 = execVscanMax d a m t st0 := rfl
@[simp] theorem exec_vscanMin (d : BitVec 5) (a : BitVec 5) (m : BitVec 3) (t : BitVec 2) (st0 : State) : exec (.vscanMin d a m t) st0 = execVscanMin d a m t st0 := rfl
@[simp] theorem exec_vscanSumX (d : BitVec 5) (a : BitVec 5) (m : BitVec 3) (t : BitVec 2) (st0 : State) : exec (.vscanSumX d a m t) st0 = execVscanSumX d a m t st0 := rfl
@[simp] theorem exec_vscanMaxX (d : BitVec 5) (a : BitVec 5) (m : BitVec 3) (t : BitVec 2) (st0 : State) : exec (.vscanMaxX d a m t) st0 = execVscanMaxX d a m t st0 := rfl
@[simp] theorem exec_vscanMinX (d : BitVec 5) (a : BitVec 5) (m : BitVec 3) (t : BitVec 2) (st0 : State) : exec (.vscanMinX d a m t) st0 = execVscanMinX d a m t st0 := rfl
@[simp] theorem exec_vpermIdx (d : BitVec 5) (a : BitVec 5) (b : BitVec 5) (m : BitVec 3) (st0 : State) : exec (.vpermIdx d a b m) st0 = execVpermIdx d a b m st0 := rfl
@[simp] theorem exec_vpermRot (d : BitVec 5) (a : BitVec 5) (b : BitVec 5) (m : BitVec 3) (st0 : State) : exec (.vpermRot d a b m) st0 = execVpermRot d a b m st0 := rfl
@[simp] theorem exec_vpermBc (d : BitVec 5) (a : BitVec 5) (b : BitVec 5) (m : BitVec 3) (st0 : State) : exec (.vpermBc d a b m) st0 = execVpermBc d a b m st0 := rfl
@[simp] theorem exec_vsel (d : BitVec 5) (a : BitVec 5) (b : BitVec 5) (m : BitVec 3) (st0 : State) : exec (.vsel d a b m) st0 = execVsel d a b m st0 := rfl
@[simp] theorem exec_vsfuExp2 (d : BitVec 5) (a : BitVec 5) (m : BitVec 3) (st0 : State) : exec (.vsfuExp2 d a m) st0 = execVsfuExp2 d a m st0 := rfl
@[simp] theorem exec_vsfuLog2 (d : BitVec 5) (a : BitVec 5) (m : BitVec 3) (st0 : State) : exec (.vsfuLog2 d a m) st0 = execVsfuLog2 d a m st0 := rfl
@[simp] theorem exec_vsfuRcp (d : BitVec 5) (a : BitVec 5) (m : BitVec 3) (st0 : State) : exec (.vsfuRcp d a m) st0 = execVsfuRcp d a m st0 := rfl
@[simp] theorem exec_vsfuRsqrt (d : BitVec 5) (a : BitVec 5) (m : BitVec 3) (st0 : State) : exec (.vsfuRsqrt d a m) st0 = execVsfuRsqrt d a m st0 := rfl
@[simp] theorem exec_vsfuSqrt (d : BitVec 5) (a : BitVec 5) (m : BitVec 3) (st0 : State) : exec (.vsfuSqrt d a m) st0 = execVsfuSqrt d a m st0 := rfl
@[simp] theorem exec_vmovSplat (d : BitVec 5) (a : BitVec 5) (m : BitVec 3) (st0 : State) : exec (.vmovSplat d a m) st0 = execVmovSplat d a m st0 := rfl
@[simp] theorem exec_vmovIns (d : BitVec 5) (a : BitVec 5) (b : BitVec 5) (st0 : State) : exec (.vmovIns d a b) st0 = execVmovIns d a b st0 := rfl
@[simp] theorem exec_vmovExt (a : BitVec 5) (b : BitVec 5) (st0 : State) : exec (.vmovExt a b) st0 = execVmovExt a b st0 := rfl
@[simp] theorem exec_vmovMv (d : BitVec 5) (a : BitVec 5) (m : BitVec 3) (st0 : State) : exec (.vmovMv d a m) st0 = execVmovMv d a m st0 := rfl
@[simp] theorem exec_vcomp (d : BitVec 5) (a : BitVec 5) (b : BitVec 5) (m : BitVec 3) (n : BitVec 4) (t : BitVec 2) (st0 : State) : exec (.vcomp d a b m n t) st0 = execVcomp d a b m n t st0 := rfl
@[simp] theorem exec_vqntC (d : BitVec 5) (a : BitVec 5) (b : BitVec 5) (m : BitVec 3) (t : BitVec 2) (st0 : State) : exec (.vqntC d a b m t) st0 = execVqntC d a b m t st0 := rfl
@[simp] theorem exec_vqntCr (d : BitVec 5) (a : BitVec 5) (b : BitVec 5) (m : BitVec 3) (t : BitVec 2) (st0 : State) : exec (.vqntCr d a b m t) st0 = execVqntCr d a b m t st0 := rfl
@[simp] theorem exec_vqntG (d : BitVec 5) (a : BitVec 5) (b : BitVec 5) (m : BitVec 3) (t : BitVec 2) (st0 : State) : exec (.vqntG d a b m t) st0 = execVqntG d a b m t st0 := rfl
@[simp] theorem exec_vqntGr (d : BitVec 5) (a : BitVec 5) (b : BitVec 5) (m : BitVec 3) (t : BitVec 2) (st0 : State) : exec (.vqntGr d a b m t) st0 = execVqntGr d a b m t st0 := rfl
@[simp] theorem exec_vdqnt (d : BitVec 5) (a : BitVec 5) (b : BitVec 5) (m : BitVec 3) (st0 : State) : exec (.vdqnt d a b m) st0 = execVdqnt d a b m st0 := rfl
@[simp] theorem exec_vdqntAcc (d : BitVec 5) (a : BitVec 5) (b : BitVec 5) (m : BitVec 3) (st0 : State) : exec (.vdqntAcc d a b m) st0 = execVdqntAcc d a b m st0 := rfl
@[simp] theorem exec_vrandU (d : BitVec 5) (m : BitVec 3) (st0 : State) : exec (.vrandU d m) st0 = execVrandU d m st0 := rfl
@[simp] theorem exec_vrandF (d : BitVec 5) (m : BitVec 3) (st0 : State) : exec (.vrandF d m) st0 = execVrandF d m st0 := rfl
@[simp] theorem exec_vmaskAnd (d : BitVec 3) (a : BitVec 3) (b : BitVec 3) (st0 : State) : exec (.vmaskAnd d a b) st0 = execVmaskAnd d a b st0 := rfl
@[simp] theorem exec_vmaskOr (d : BitVec 3) (a : BitVec 3) (b : BitVec 3) (st0 : State) : exec (.vmaskOr d a b) st0 = execVmaskOr d a b st0 := rfl
@[simp] theorem exec_vmaskXor (d : BitVec 3) (a : BitVec 3) (b : BitVec 3) (st0 : State) : exec (.vmaskXor d a b) st0 = execVmaskXor d a b st0 := rfl
@[simp] theorem exec_vmaskAndn (d : BitVec 3) (a : BitVec 3) (b : BitVec 3) (st0 : State) : exec (.vmaskAndn d a b) st0 = execVmaskAndn d a b st0 := rfl
@[simp] theorem exec_vmaskNot (d : BitVec 3) (a : BitVec 3) (st0 : State) : exec (.vmaskNot d a) st0 = execVmaskNot d a st0 := rfl
@[simp] theorem exec_vmaskMov (d : BitVec 3) (a : BitVec 3) (st0 : State) : exec (.vmaskMov d a) st0 = execVmaskMov d a st0 := rfl
@[simp] theorem exec_vmaskFirst (d : BitVec 3) (a : BitVec 3) (st0 : State) : exec (.vmaskFirst d a) st0 = execVmaskFirst d a st0 := rfl
@[simp] theorem exec_vmaskCnt (a : BitVec 3) (st0 : State) : exec (.vmaskCnt a) st0 = execVmaskCnt a st0 := rfl
@[simp] theorem exec_vqin (d : BitVec 5) (m : BitVec 3) (st0 : State) : exec (.vqin d m) st0 = execVqin d m st0 := rfl
@[simp] theorem exec_vqinQ5 (d : BitVec 5) (m : BitVec 3) (st0 : State) : exec (.vqinQ5 d m) st0 = execVqinQ5 d m st0 := rfl
@[simp] theorem exec_vqinS (d : BitVec 5) (m : BitVec 3) (st0 : State) : exec (.vqinS d m) st0 = execVqinS d m st0 := rfl
@[simp] theorem exec_vqout (a : BitVec 5) (m : BitVec 3) (st0 : State) : exec (.vqout a m) st0 = execVqout a m st0 := rfl
@[simp] theorem exec_vqoutQ11 (a : BitVec 5) (m : BitVec 3) (st0 : State) : exec (.vqoutQ11 a m) st0 = execVqoutQ11 a m st0 := rfl
@[simp] theorem exec_viotaIdx (d : BitVec 5) (m : BitVec 3) (st0 : State) : exec (.viotaIdx d m) st0 = execViotaIdx d m st0 := rfl
@[simp] theorem exec_viotaCnt (d : BitVec 5) (a : BitVec 3) (m : BitVec 3) (st0 : State) : exec (.viotaCnt d a m) st0 = execViotaCnt d a m st0 := rfl
@[simp] theorem exec_mma (k : BitVec 2) (a : BitVec 6) (b : BitVec 6) (c : BitVec 1) (e : BitVec 1) (st0 : State) : exec (.mma k a b c e) st0 = execMma k a b c e st0 := rfl
@[simp] theorem exec_mmas (k : BitVec 2) (a : BitVec 6) (b : BitVec 6) (v : BitVec 5) (c : BitVec 1) (e : BitVec 1) (st0 : State) : exec (.mmas k a b v c e) st0 = execMmas k a b v c e st0 := rfl
@[simp] theorem exec_mmat (k : BitVec 2) (a : BitVec 6) (b : BitVec 6) (c : BitVec 1) (e : BitVec 1) (st0 : State) : exec (.mmat k a b c e) st0 = execMmat k a b c e st0 := rfl
@[simp] theorem exec_mdist (k : BitVec 2) (a : BitVec 6) (b : BitVec 6) (e : BitVec 1) (st0 : State) : exec (.mdist k a b e) st0 = execMdist k a b e st0 := rfl
@[simp] theorem exec_mtopk (k : BitVec 2) (a : BitVec 6) (b : BitVec 6) (e : BitVec 1) (n : BitVec 3) (st0 : State) : exec (.mtopk k a b e n) st0 = execMtopk k a b e n st0 := rfl
@[simp] theorem exec_mzero (k : BitVec 2) (st0 : State) : exec (.mzero k) st0 = execMzero k st0 := rfl
@[simp] theorem exec_mload (k : BitVec 2) (v : BitVec 5) (c : BitVec 1) (i : BitVec 1) (st0 : State) : exec (.mload k v c i) st0 = execMload k v c i st0 := rfl
@[simp] theorem exec_mstore (k : BitVec 2) (v : BitVec 5) (c : BitVec 1) (f : BitVec 3) (st0 : State) : exec (.mstore k v c f) st0 = execMstore k v c f st0 := rfl
@[simp] theorem exec_mrdRow (k : BitVec 2) (v : BitVec 5) (st0 : State) : exec (.mrdRow k v) st0 = execMrdRow k v st0 := rfl
@[simp] theorem exec_mrdCol (k : BitVec 2) (v : BitVec 5) (st0 : State) : exec (.mrdCol k v) st0 = execMrdCol k v st0 := rfl
@[simp] theorem exec_mrdRck (k : BitVec 2) (st0 : State) : exec (.mrdRck k) st0 = execMrdRck k st0 := rfl
@[simp] theorem exec_mrdCck (k : BitVec 2) (st0 : State) : exec (.mrdCck k) st0 = execMrdCck k st0 := rfl
@[simp] theorem exec_mwrRow (k : BitVec 2) (v : BitVec 5) (i : BitVec 1) (st0 : State) : exec (.mwrRow k v i) st0 = execMwrRow k v i st0 := rfl
@[simp] theorem exec_mwrCol (k : BitVec 2) (v : BitVec 5) (i : BitVec 1) (st0 : State) : exec (.mwrCol k v i) st0 = execMwrCol k v i st0 := rfl
@[simp] theorem exec_mwrRck (k : BitVec 2) (st0 : State) : exec (.mwrRck k) st0 = execMwrRck k st0 := rfl
@[simp] theorem exec_mwrCck (k : BitVec 2) (st0 : State) : exec (.mwrCck k) st0 = execMwrCck k st0 := rfl
@[simp] theorem exec_mcommit (st0 : State) : exec (.mcommit) st0 = execMcommit st0 := rfl
@[simp] theorem exec_mwait (n : BitVec 2) (st0 : State) : exec (.mwait n) st0 = execMwait n st0 := rfl
@[simp] theorem exec_mwaitAcc (k : BitVec 2) (st0 : State) : exec (.mwaitAcc k) st0 = execMwaitAcc k st0 := rfl
@[simp] theorem exec_mcks (k : BitVec 2) (v : BitVec 5) (st0 : State) : exec (.mcks k v) st0 = execMcks k v st0 := rfl
@[simp] theorem exec_mfix (k : BitVec 2) (st0 : State) : exec (.mfix k) st0 = execMfix k st0 := rfl
@[simp] theorem exec_arrayCommandStart (t : Nat) (st0 : State) : exec (.arrayCommandStart t) st0 = execArrayCommandStart t st0 := rfl
@[simp] theorem exec_arrayCommandRetire (t : Nat) (st0 : State) : exec (.arrayCommandRetire t) st0 = execArrayCommandRetire t st0 := rfl
@[simp] theorem exec_xcopy (h : BitVec 6) (a : BitVec 6) (st0 : State) : exec (.xcopy h a) st0 = execXcopy h a st0 := rfl
@[simp] theorem exec_xcopyT (h : BitVec 6) (s : BitVec 3) (a : BitVec 6) (st0 : State) : exec (.xcopyT h s a) st0 = execXcopyT h s a st0 := rfl
@[simp] theorem exec_xcopyS (h : BitVec 6) (a : BitVec 6) (st0 : State) : exec (.xcopyS h a) st0 = execXcopyS h a st0 := rfl
@[simp] theorem exec_xput (h : BitVec 6) (a : BitVec 6) (st0 : State) : exec (.xput h a) st0 = execXput h a st0 := rfl
@[simp] theorem exec_xputT (h : BitVec 6) (s : BitVec 3) (a : BitVec 6) (st0 : State) : exec (.xputT h s a) st0 = execXputT h s a st0 := rfl
@[simp] theorem exec_xgath (h : BitVec 6) (s : BitVec 3) (a : BitVec 6) (st0 : State) : exec (.xgath h s a) st0 = execXgath h s a st0 := rfl
@[simp] theorem exec_xscatO (h : BitVec 6) (s : BitVec 3) (a : BitVec 6) (st0 : State) : exec (.xscatO h s a) st0 = execXscatO h s a st0 := rfl
@[simp] theorem exec_xscatAdd (h : BitVec 6) (s : BitVec 3) (a : BitVec 6) (st0 : State) : exec (.xscatAdd h s a) st0 = execXscatAdd h s a st0 := rfl
@[simp] theorem exec_xscatMax (h : BitVec 6) (s : BitVec 3) (a : BitVec 6) (st0 : State) : exec (.xscatMax h s a) st0 = execXscatMax h s a st0 := rfl
@[simp] theorem exec_xscatMin (h : BitVec 6) (s : BitVec 3) (a : BitVec 6) (st0 : State) : exec (.xscatMin h s a) st0 = execXscatMin h s a st0 := rfl
@[simp] theorem exec_xpack (h : BitVec 6) (s : BitVec 3) (a : BitVec 6) (st0 : State) : exec (.xpack h s a) st0 = execXpack h s a st0 := rfl
@[simp] theorem exec_xpackK1 (h : BitVec 6) (s : BitVec 3) (a : BitVec 6) (st0 : State) : exec (.xpackK1 h s a) st0 = execXpackK1 h s a st0 := rfl
@[simp] theorem exec_xpackS (h : BitVec 6) (a : BitVec 6) (st0 : State) : exec (.xpackS h a) st0 = execXpackS h a st0 := rfl
@[simp] theorem exec_xhalo (h : BitVec 6) (a : BitVec 6) (d : BitVec 4) (st0 : State) : exec (.xhalo h a d) st0 = execXhalo h a d st0 := rfl
@[simp] theorem exec_xfill (h : BitVec 6) (a : BitVec 6) (st0 : State) : exec (.xfill h a) st0 = execXfill h a st0 := rfl
@[simp] theorem exec_xrel (h : BitVec 6) (st0 : State) : exec (.xrel h) st0 = execXrel h st0 := rfl
@[simp] theorem exec_xabort (h : BitVec 6) (st0 : State) : exec (.xabort h) st0 = execXabort h st0 := rfl
@[simp] theorem exec_copyUnitLands (k : Nat) (st0 : State) : exec (.copyUnitLands k) st0 = execCopyUnitLands k st0 := rfl
@[simp] theorem exec_haloArrival (k : Nat) (st0 : State) : exec (.haloArrival k) st0 = execHaloArrival k st0 := rfl
@[simp] theorem exec_lyset (j : BitVec 8) (s : BitVec 6) (t : BitVec 6) (st0 : State) : exec (.lyset j s t) st0 = execLyset j s t st0 := rfl
@[simp] theorem exec_lysetGet (j : BitVec 8) (s : BitVec 6) (st0 : State) : exec (.lysetGet j s) st0 = execLysetGet j s st0 := rfl
@[simp] theorem exec_reshard (j : BitVec 8) (s : BitVec 6) (st0 : State) : exec (.reshard j s) st0 = execReshard j s st0 := rfl
@[simp] theorem exec_collSum (j : BitVec 8) (s : BitVec 6) (t : BitVec 6) (st0 : State) : exec (.collSum j s t) st0 = execCollSum j s t st0 := rfl
@[simp] theorem exec_collMax (j : BitVec 8) (s : BitVec 6) (t : BitVec 6) (st0 : State) : exec (.collMax j s t) st0 = execCollMax j s t st0 := rfl
@[simp] theorem exec_collMin (j : BitVec 8) (s : BitVec 6) (t : BitVec 6) (st0 : State) : exec (.collMin j s t) st0 = execCollMin j s t st0 := rfl
@[simp] theorem exec_collAmerge (j : BitVec 8) (s : BitVec 6) (t : BitVec 6) (st0 : State) : exec (.collAmerge j s t) st0 = execCollAmerge j s t st0 := rfl
@[simp] theorem exec_collRing (j : BitVec 8) (s : BitVec 6) (t : BitVec 6) (st0 : State) : exec (.collRing j s t) st0 = execCollRing j s t st0 := rfl
@[simp] theorem exec_ranks (n : BitVec 2) (s : BitVec 6) (t : BitVec 6) (st0 : State) : exec (.ranks n s t) st0 = execRanks n s t st0 := rfl
@[simp] theorem exec_rkinv (n : BitVec 2) (st0 : State) : exec (.rkinv n) st0 = execRkinv n st0 := rfl
@[simp] theorem exec_fwait (st0 : State) : exec (.fwait) st0 = execFwait st0 := rfl
@[simp] theorem exec_fwaitSlot (j : BitVec 8) (st0 : State) : exec (.fwaitSlot j) st0 = execFwaitSlot j st0 := rfl
@[simp] theorem exec_resid (j : BitVec 8) (s : BitVec 6) (t : BitVec 6) (st0 : State) : exec (.resid j s t) st0 = execResid j s t st0 := rfl
@[simp] theorem exec_fabort (st0 : State) : exec (.fabort) st0 = execFabort st0 := rfl
@[simp] theorem exec_collStep (k : Nat) (st0 : State) : exec (.collStep k) st0 = execCollStep k st0 := rfl
@[simp] theorem exec_collWatchdogExpiry (k : Nat) (st0 : State) : exec (.collWatchdogExpiry k) st0 = execCollWatchdogExpiry k st0 := rfl
@[simp] theorem exec_reshardExchangeComplete (k : Nat) (st0 : State) : exec (.reshardExchangeComplete k) st0 = execReshardExchangeComplete k st0 := rfl
@[simp] theorem exec_kvmap (s : BitVec 6) (st0 : State) : exec (.kvmap s) st0 = execKvmap s st0 := rfl
@[simp] theorem exec_kvmapNew (s : BitVec 6) (st0 : State) : exec (.kvmapNew s) st0 = execKvmapNew s st0 := rfl
@[simp] theorem exec_kvmapUn (s : BitVec 6) (st0 : State) : exec (.kvmapUn s) st0 = execKvmapUn s st0 := rfl
@[simp] theorem exec_kvlock (s : BitVec 6) (st0 : State) : exec (.kvlock s) st0 = execKvlock s st0 := rfl
@[simp] theorem exec_kvlockUn (s : BitVec 6) (st0 : State) : exec (.kvlockUn s) st0 = execKvlockUn s st0 := rfl
@[simp] theorem exec_kvapp (s : BitVec 6) (st0 : State) : exec (.kvapp s) st0 = execKvapp s st0 := rfl
@[simp] theorem exec_kvroll (s : BitVec 6) (st0 : State) : exec (.kvroll s) st0 = execKvroll s st0 := rfl
@[simp] theorem exec_patt (q : BitVec 5) (s : BitVec 6) (st0 : State) : exec (.patt q s) st0 = execPatt q s st0 := rfl
@[simp] theorem exec_mprog (n : BitVec 2) (s : BitVec 6) (t : BitVec 6) (st0 : State) : exec (.mprog n s t) st0 = execMprog n s t st0 := rfl
@[simp] theorem exec_meval (n : BitVec 2) (s : BitVec 6) (st0 : State) : exec (.meval n s) st0 = execMeval n s st0 := rfl
@[simp] theorem exec_cent (s : BitVec 6) (st0 : State) : exec (.cent s) st0 = execCent s st0 := rfl
@[simp] theorem exec_csel (q : BitVec 5) (s : BitVec 6) (st0 : State) : exec (.csel q s) st0 = execCsel q s st0 := rfl
@[simp] theorem exec_retn (s : BitVec 6) (t : BitVec 6) (st0 : State) : exec (.retn s t) st0 = execRetn s t st0 := rfl
@[simp] theorem exec_retnQ (s : BitVec 6) (st0 : State) : exec (.retnQ s) st0 = execRetnQ s st0 := rfl
@[simp] theorem exec_sieve (s : BitVec 6) (st0 : State) : exec (.sieve s) st0 = execSieve s st0 := rfl
@[simp] theorem exec_await (st0 : State) : exec (.await) st0 = execAwait st0 := rfl
@[simp] theorem exec_awaitAbort (st0 : State) : exec (.awaitAbort) st0 = execAwaitAbort st0 := rfl
@[simp] theorem exec_mcntClr (st0 : State) : exec (.mcntClr) st0 = execMcntClr st0 := rfl
@[simp] theorem exec_pattDone (k : Nat) (st0 : State) : exec (.pattDone k) st0 = execPattDone k st0 := rfl
@[simp] theorem exec_centKeyUpdate (k : Nat) (st0 : State) : exec (.centKeyUpdate k) st0 = execCentKeyUpdate k st0 := rfl
@[simp] theorem exec_sieveCompact (k : Nat) (st0 : State) : exec (.sieveCompact k) st0 = execSieveCompact k st0 := rfl
@[simp] theorem exec_bar (b : BitVec 3) (k : BitVec 3) (s : BitVec 6) (st0 : State) : exec (.bar b k s) st0 = execBar b k s st0 := rfl
@[simp] theorem exec_barArr (b : BitVec 3) (k : BitVec 3) (s : BitVec 6) (st0 : State) : exec (.barArr b k s) st0 = execBarArr b k s st0 := rfl
@[simp] theorem exec_barWt (b : BitVec 3) (k : BitVec 3) (st0 : State) : exec (.barWt b k) st0 = execBarWt b k st0 := rfl
@[simp] theorem exec_cbarInit (n : BitVec 4) (s : BitVec 6) (st0 : State) : exec (.cbarInit n s) st0 = execCbarInit n s st0 := rfl
@[simp] theorem exec_cbarAdd (n : BitVec 4) (s : BitVec 6) (st0 : State) : exec (.cbarAdd n s) st0 = execCbarAdd n s st0 := rfl
@[simp] theorem exec_cbarWait (n : BitVec 4) (st0 : State) : exec (.cbarWait n) st0 = execCbarWait n st0 := rfl
@[simp] theorem exec_cbarTake (n : BitVec 4) (st0 : State) : exec (.cbarTake n) st0 = execCbarTake n st0 := rfl
@[simp] theorem exec_cbarFree (n : BitVec 4) (st0 : State) : exec (.cbarFree n) st0 = execCbarFree n st0 := rfl
@[simp] theorem exec_sbarP (n : BitVec 3) (st0 : State) : exec (.sbarP n) st0 = execSbarP n st0 := rfl
@[simp] theorem exec_sbarC (n : BitVec 3) (st0 : State) : exec (.sbarC n) st0 = execSbarC n st0 := rfl
@[simp] theorem exec_sbarArrivalEffect (n : Nat) (st0 : State) : exec (.sbarArrivalEffect n) st0 = execSbarArrivalEffect n st0 := rfl
@[simp] theorem exec_ring (n : BitVec 3) (s : BitVec 6) (t : BitVec 6) (st0 : State) : exec (.ring n s t) st0 = execRing n s t st0 := rfl
@[simp] theorem exec_ringRel (n : BitVec 3) (st0 : State) : exec (.ringRel n) st0 = execRingRel n st0 := rfl
@[simp] theorem exec_phaseNew (st0 : State) : exec (.phaseNew) st0 = execPhaseNew st0 := rfl
@[simp] theorem exec_phaseRd (r : BitVec 2) (e : BitVec 3) (s : BitVec 6) (t : BitVec 6) (st0 : State) : exec (.phaseRd r e s t) st0 = execPhaseRd r e s t st0 := rfl
@[simp] theorem exec_phaseWr (r : BitVec 2) (e : BitVec 3) (s : BitVec 6) (t : BitVec 6) (st0 : State) : exec (.phaseWr r e s t) st0 = execPhaseWr r e s t st0 := rfl
@[simp] theorem exec_tklend (s : BitVec 6) (t : BitVec 6) (st0 : State) : exec (.tklend s t) st0 = execTklend s t st0 := rfl
@[simp] theorem exec_tkret (s : BitVec 6) (t : BitVec 6) (st0 : State) : exec (.tkret s t) st0 = execTkret s t st0 := rfl
@[simp] theorem exec_tksplit (s : BitVec 6) (t : BitVec 6) (st0 : State) : exec (.tksplit s t) st0 = execTksplit s t st0 := rfl
@[simp] theorem exec_tkjoin (s : BitVec 6) (t : BitVec 6) (st0 : State) : exec (.tkjoin s t) st0 = execTkjoin s t st0 := rfl
@[simp] theorem exec_tkshare (s : BitVec 6) (t : BitVec 6) (st0 : State) : exec (.tkshare s t) st0 = execTkshare s t st0 := rfl
@[simp] theorem exec_tkunsh (s : BitVec 6) (t : BitVec 6) (st0 : State) : exec (.tkunsh s t) st0 = execTkunsh s t st0 := rfl
@[simp] theorem exec_tkrecl (s : BitVec 6) (t : BitVec 6) (st0 : State) : exec (.tkrecl s t) st0 = execTkrecl s t st0 := rfl
@[simp] theorem exec_tokenWaitResume (t : Nat) (st0 : State) : exec (.tokenWaitResume t) st0 = execTokenWaitResume t st0 := rfl
@[simp] theorem exec_rwb (s : BitVec 6) (t : BitVec 6) (st0 : State) : exec (.rwb s t) st0 = execRwb s t st0 := rfl
@[simp] theorem exec_rinv (s : BitVec 6) (t : BitVec 6) (st0 : State) : exec (.rinv s t) st0 = execRinv s t st0 := rfl
@[simp] theorem exec_launch (n : BitVec 4) (s : BitVec 6) (st0 : State) : exec (.launch n s) st0 = execLaunch n s st0 := rfl
@[simp] theorem exec_cwait (n : BitVec 4) (st0 : State) : exec (.cwait n) st0 = execCwait n st0 := rfl
@[simp] theorem exec_cwaitAll (st0 : State) : exec (.cwaitAll) st0 = execCwaitAll st0 := rfl
@[simp] theorem exec_seedPush (s : BitVec 6) (st0 : State) : exec (.seedPush s) st0 = execSeedPush s st0 := rfl
@[simp] theorem exec_seedPop (st0 : State) : exec (.seedPop) st0 = execSeedPop st0 := rfl
@[simp] theorem exec_seedFork (s : BitVec 6) (st0 : State) : exec (.seedFork s) st0 = execSeedFork s st0 := rfl
@[simp] theorem exec_trap (i : BitVec 8) (s : BitVec 6) (st0 : State) : exec (.trap i s) st0 = execTrap i s st0 := rfl
@[simp] theorem exec_resumeWait (s : BitVec 6) (st0 : State) : exec (.resumeWait s) st0 = execResumeWait s st0 := rfl
@[simp] theorem exec_resumeAbort (s : BitVec 6) (st0 : State) : exec (.resumeAbort s) st0 = execResumeAbort s st0 := rfl
@[simp] theorem exec_eret (st0 : State) : exec (.eret) st0 = execEret st0 := rfl
@[simp] theorem exec_tlbiVa (s : BitVec 6) (t : BitVec 6) (st0 : State) : exec (.tlbiVa s t) st0 = execTlbiVa s t st0 := rfl
@[simp] theorem exec_tlbiTen (s : BitVec 6) (t : BitVec 6) (st0 : State) : exec (.tlbiTen s t) st0 = execTlbiTen s t st0 := rfl
@[simp] theorem exec_tlbiCtx (t : BitVec 6) (st0 : State) : exec (.tlbiCtx t) st0 = execTlbiCtx t st0 := rfl
@[simp] theorem exec_tlbiAll (st0 : State) : exec (.tlbiAll) st0 = execTlbiAll st0 := rfl
@[simp] theorem exec_tlbiAcknowledge (d : Nat) (st0 : State) : exec (.tlbiAcknowledge d) st0 = execTlbiAcknowledge d st0 := rfl
@[simp] theorem exec_replay (s : BitVec 6) (st0 : State) : exec (.replay s) st0 = execReplay s st0 := rfl
@[simp] theorem exec_ctxsv (s : BitVec 6) (t : BitVec 6) (st0 : State) : exec (.ctxsv s t) st0 = execCtxsv s t st0 := rfl
@[simp] theorem exec_ctxld (s : BitVec 6) (t : BitVec 6) (st0 : State) : exec (.ctxld s t) st0 = execCtxld s t st0 := rfl
@[simp] theorem exec_waitGeu (s : BitVec 6) (t : BitVec 6) (st0 : State) : exec (.waitGeu s t) st0 = execWaitGeu s t st0 := rfl
@[simp] theorem exec_waitEq (s : BitVec 6) (t : BitVec 6) (st0 : State) : exec (.waitEq s t) st0 = execWaitEq s t st0 := rfl
@[simp] theorem exec_waitNe (s : BitVec 6) (t : BitVec 6) (st0 : State) : exec (.waitNe s t) st0 = execWaitNe s t st0 := rfl
@[simp] theorem exec_waitLtu (s : BitVec 6) (t : BitVec 6) (st0 : State) : exec (.waitLtu s t) st0 = execWaitLtu s t st0 := rfl
@[simp] theorem exec_waitSb (st0 : State) : exec (.waitSb) st0 = execWaitSb st0 := rfl
@[simp] theorem exec_memoryWaitRecheck (t : Nat) (st0 : State) : exec (.memoryWaitRecheck t) st0 = execMemoryWaitRecheck t st0 := rfl
@[simp] theorem exec_halt (st0 : State) : exec (.halt) st0 = execHalt st0 := rfl
@[simp] theorem exec_wrcfg (n : BitVec 8) (s : BitVec 6) (st0 : State) : exec (.wrcfg n s) st0 = execWrcfg n s st0 := rfl
@[simp] theorem exec_rdcfg (n : BitVec 8) (s : BitVec 6) (st0 : State) : exec (.rdcfg n s) st0 = execRdcfg n s st0 := rfl
@[simp] theorem exec_pwrSt (s : BitVec 6) (st0 : State) : exec (.pwrSt s) st0 = execPwrSt s st0 := rfl
@[simp] theorem exec_pwrHint (s : BitVec 6) (st0 : State) : exec (.pwrHint s) st0 = execPwrHint s st0 := rfl
@[simp] theorem exec_fetch (t : Nat) (st0 : State) : exec (.fetch t) st0 = execFetch t st0 := rfl
@[simp] theorem exec_markerReachesHead (t : Nat) (e : Nat) (st0 : State) : exec (.markerReachesHead t e) st0 = execMarkerReachesHead t e st0 := rfl
@[simp] theorem exec_queueDeadlock (t : Nat) (st0 : State) : exec (.queueDeadlock t) st0 = execQueueDeadlock t st0 := rfl
@[simp] theorem exec_scratchpadWritePerform (n : Nat) (st0 : State) : exec (.scratchpadWritePerform n) st0 = execScratchpadWritePerform n st0 := rfl
@[simp] theorem exec_ninesCompare (t : Nat) (reg : Bool) (num : Nat) (nines : Dword) (st0 : State) : exec (.ninesCompare t reg num nines) st0 = execNinesCompare t reg num nines st0 := rfl
@[simp] theorem exec_trapTakenUser (t : Nat) (st0 : State) : exec (.trapTakenUser t) st0 = execTrapTakenUser t st0 := rfl
@[simp] theorem exec_trapTakenSystem (t : Nat) (st0 : State) : exec (.trapTakenSystem t) st0 = execTrapTakenSystem t st0 := rfl
@[simp] theorem exec_gangPreempt (g : Nat) (st0 : State) : exec (.gangPreempt g) st0 = execGangPreempt g st0 := rfl
@[simp] theorem exec_gangSaved (g : Nat) (st0 : State) : exec (.gangSaved g) st0 = execGangSaved g st0 := rfl
@[simp] theorem exec_gangRestore (g : Nat) (die : Nat) (core : Nat) (st0 : State) : exec (.gangRestore g die core) st0 = execGangRestore g die core st0 := rfl
@[simp] theorem exec_gangDispatch (d : Nat) (st0 : State) : exec (.gangDispatch d) st0 = execGangDispatch d st0 := rfl
@[simp] theorem exec_gangStart (g : Nat) (st0 : State) : exec (.gangStart g) st0 = execGangStart g st0 := rfl
@[simp] theorem exec_reservationTimeout (d : Nat) (st0 : State) : exec (.reservationTimeout d) st0 = execReservationTimeout d st0 := rfl
@[simp] theorem exec_reservationDrop (d : Nat) (st0 : State) : exec (.reservationDrop d) st0 = execReservationDrop d st0 := rfl
@[simp] theorem exec_childBoostTimeout (g : Nat) (st0 : State) : exec (.childBoostTimeout g) st0 = execChildBoostTimeout g st0 := rfl
@[simp] theorem exec_nodeEnding (n : Nat) (st0 : State) : exec (.nodeEnding n) st0 = execNodeEnding n st0 := rfl
@[simp] theorem exec_nodeCompletionRecord (n : Nat) (st0 : State) : exec (.nodeCompletionRecord n) st0 = execNodeCompletionRecord n st0 := rfl
@[simp] theorem exec_launchPacket (q : Nat) (st0 : State) : exec (.launchPacket q) st0 = execLaunchPacket q st0 := rfl
@[simp] theorem exec_graphPacket (q : Nat) (st0 : State) : exec (.graphPacket q) st0 = execGraphPacket q st0 := rfl
@[simp] theorem exec_seedPushPacket (q : Nat) (st0 : State) : exec (.seedPushPacket q) st0 = execSeedPushPacket q st0 := rfl
@[simp] theorem exec_seedPopPacket (q : Nat) (st0 : State) : exec (.seedPopPacket q) st0 = execSeedPopPacket q st0 := rfl
@[simp] theorem exec_seedForkPacket (q : Nat) (st0 : State) : exec (.seedForkPacket q) st0 = execSeedForkPacket q st0 := rfl
@[simp] theorem exec_waitPacket (q : Nat) (st0 : State) : exec (.waitPacket q) st0 = execWaitPacket q st0 := rfl
@[simp] theorem exec_waitPacketPoll (q : Nat) (st0 : State) : exec (.waitPacketPoll q) st0 = execWaitPacketPoll q st0 := rfl
@[simp] theorem exec_signalPacket (q : Nat) (st0 : State) : exec (.signalPacket q) st0 = execSignalPacket q st0 := rfl
@[simp] theorem exec_signalWrite (n : Nat) (st0 : State) : exec (.signalWrite n) st0 = execSignalWrite n st0 := rfl
@[simp] theorem exec_reshardOnBehalf (q : Nat) (st0 : State) : exec (.reshardOnBehalf q) st0 = execReshardOnBehalf q st0 := rfl
@[simp] theorem exec_contextCreate (q : Nat) (st0 : State) : exec (.contextCreate q) st0 = execContextCreate q st0 := rfl
@[simp] theorem exec_contextStop (q : Nat) (st0 : State) : exec (.contextStop q) st0 = execContextStop q st0 := rfl
@[simp] theorem exec_contextStart (q : Nat) (st0 : State) : exec (.contextStart q) st0 = execContextStart q st0 := rfl
@[simp] theorem exec_contextDestroy (q : Nat) (st0 : State) : exec (.contextDestroy q) st0 = execContextDestroy q st0 := rfl
@[simp] theorem exec_contextFreed (c : Nat) (st0 : State) : exec (.contextFreed c) st0 = execContextFreed c st0 := rfl
@[simp] theorem exec_resumeThread (q : Nat) (st0 : State) : exec (.resumeThread q) st0 = execResumeThread q st0 := rfl
@[simp] theorem exec_qattach (q : Nat) (st0 : State) : exec (.qattach q) st0 = execQattach q st0 := rfl
@[simp] theorem exec_qdetach (q : Nat) (st0 : State) : exec (.qdetach q) st0 = execQdetach q st0 := rfl
@[simp] theorem exec_qtailWrite (q : Nat) (v : Dword) (st0 : State) : exec (.qtailWrite q v) st0 = execQtailWrite q v st0 := rfl
@[simp] theorem exec_evconsWrite (p : Nat) (v : Dword) (st0 : State) : exec (.evconsWrite p v) st0 = execEvconsWrite p v st0 := rfl
@[simp] theorem exec_nctlRelease (c : Nat) (n : Nat) (st0 : State) : exec (.nctlRelease c n) st0 = execNctlRelease c n st0 := rfl
@[simp] theorem exec_nctlCancel (c : Nat) (n : Nat) (st0 : State) : exec (.nctlCancel c n) st0 = execNctlCancel c n st0 := rfl
@[simp] theorem exec_migcmdWrite (d : Nat) (v : Dword) (st0 : State) : exec (.migcmdWrite d v) st0 = execMigcmdWrite d v st0 := rfl
@[simp] theorem exec_migrationStart (d : Nat) (st0 : State) : exec (.migrationStart d) st0 = execMigrationStart d st0 := rfl
@[simp] theorem exec_migrationFinish (d : Nat) (st0 : State) : exec (.migrationFinish d) st0 = execMigrationFinish d st0 := rfl
@[simp] theorem exec_tkcmdCreate (d : Nat) (a : Nat) (st0 : State) : exec (.tkcmdCreate d a) st0 = execTkcmdCreate d a st0 := rfl
@[simp] theorem exec_tkcmdDestroy (d : Nat) (a : Nat) (st0 : State) : exec (.tkcmdDestroy d a) st0 = execTkcmdDestroy d a st0 := rfl
@[simp] theorem exec_parkRingWrite (d : Nat) (n : Nat) (v : Dword) (st0 : State) : exec (.parkRingWrite d n v) st0 = execParkRingWrite d n v st0 := rfl
@[simp] theorem exec_pendctlWrite (d : Nat) (v : Dword) (st0 : State) : exec (.pendctlWrite d v) st0 = execPendctlWrite d v st0 := rfl
@[simp] theorem exec_lnkctlRetrain (d : Nat) (p : Nat) (st0 : State) : exec (.lnkctlRetrain d p) st0 = execLnkctlRetrain d p st0 := rfl
@[simp] theorem exec_lnkctlDisable (d : Nat) (p : Nat) (st0 : State) : exec (.lnkctlDisable d p) st0 = execLnkctlDisable d p st0 := rfl
@[simp] theorem exec_lnkctlEnable (d : Nat) (p : Nat) (st0 : State) : exec (.lnkctlEnable d p) st0 = execLnkctlEnable d p st0 := rfl
@[simp] theorem exec_lnkctlClear (d : Nat) (p : Nat) (st0 : State) : exec (.lnkctlClear d p) st0 = execLnkctlClear d p st0 := rfl
@[simp] theorem exec_fenceCore (d : Nat) (c : Nat) (st0 : State) : exec (.fenceCore d c) st0 = execFenceCore d c st0 := rfl
@[simp] theorem exec_fenceSlice (d : Nat) (c : Nat) (bad : List Nat) (st0 : State) : exec (.fenceSlice d c bad) st0 = execFenceSlice d c bad st0 := rfl
@[simp] theorem exec_pstateWrite (d : Nat) (v : Dword) (st0 : State) : exec (.pstateWrite d v) st0 = execPstateWrite d v st0 := rfl
@[simp] theorem exec_configRegisterWrite (d : Nat) (n : Nat) (v : Dword) (st0 : State) : exec (.configRegisterWrite d n v) st0 = execConfigRegisterWrite d n v st0 := rfl
@[simp] theorem exec_homeLoss (d : Nat) (st0 : State) : exec (.homeLoss d) st0 = execHomeLoss d st0 := rfl
@[simp] theorem exec_atomoArrival (t : Nat) (st0 : State) : exec (.atomoArrival t) st0 = execAtomoArrival t st0 := rfl
@[simp] theorem exec_atomoRetry (t : Nat) (st0 : State) : exec (.atomoRetry t) st0 = execAtomoRetry t st0 := rfl
@[simp] theorem exec_atomoLineStall (line : Nat) (st0 : State) : exec (.atomoLineStall line) st0 = execAtomoLineStall line st0 := rfl
@[simp] theorem exec_rdcEviction (d : Nat) (line : Nat) (bad : BitVec 8) (st0 : State) : exec (.rdcEviction d line bad) st0 = execRdcEviction d line bad st0 := rfl
@[simp] theorem exec_correctableError (d : Nat) (st0 : State) : exec (.correctableError d) st0 = execCorrectableError d st0 := rfl
@[simp] theorem exec_uncorrectableError (site : UncSite) (st0 : State) : exec (.uncorrectableError site) st0 = execUncorrectableError site st0 := rfl
@[simp] theorem exec_patrolScrub (d : Nat) (g : Nat) (bad : Bool) (st0 : State) : exec (.patrolScrub d g bad) st0 = execPatrolScrub d g bad st0 := rfl
@[simp] theorem exec_arbiterPeriod (demand : List Nat) (st0 : State) : exec (.arbiterPeriod demand) st0 = execArbiterPeriod demand st0 := rfl
@[simp] theorem exec_dieFreeze (d : Nat) (st0 : State) : exec (.dieFreeze d) st0 = execDieFreeze d st0 := rfl
@[simp] theorem exec_flitReceive (d : Nat) (p : Nat) (num : BitVec 16) (crcOk : Bool) (st0 : State) : exec (.flitReceive d p num crcOk) st0 = execFlitReceive d p num crcOk st0 := rfl
@[simp] theorem exec_linkTrained (d : Nat) (p : Nat) (lanes : Nat) (st0 : State) : exec (.linkTrained d p lanes) st0 = execLinkTrained d p lanes st0 := rfl
@[simp] theorem exec_linkTrainingFailed (d : Nat) (p : Nat) (st0 : State) : exec (.linkTrainingFailed d p) st0 = execLinkTrainingFailed d p st0 := rfl
@[simp] theorem exec_linkReplayLimit (d : Nat) (p : Nat) (st0 : State) : exec (.linkReplayLimit d p) st0 = execLinkReplayLimit d p st0 := rfl
@[simp] theorem exec_laneLost (d : Nat) (p : Nat) (st0 : State) : exec (.laneLost d p) st0 = execLaneLost d p st0 := rfl
@[simp] theorem exec_linkRetrainTimeout (d : Nat) (p : Nat) (st0 : State) : exec (.linkRetrainTimeout d p) st0 = execLinkRetrainTimeout d p st0 := rfl
@[simp] theorem exec_peerDown (d : Nat) (p : Nat) (st0 : State) : exec (.peerDown d p) st0 = execPeerDown d p st0 := rfl
@[simp] theorem exec_routeTablesInForce (st0 : State) : exec (.routeTablesInForce) st0 = execRouteTablesInForce st0 := rfl
@[simp] theorem exec_cxlLinkDown (d : Nat) (st0 : State) : exec (.cxlLinkDown d) st0 = execCxlLinkDown d st0 := rfl
@[simp] theorem exec_powerOn (st0 : State) : exec (.powerOn) st0 = execPowerOn st0 := rfl
@[simp] theorem exec_sidebandReset (scope : ResetScope) (d : Nat) (c : Nat) (st0 : State) : exec (.sidebandReset scope d c) st0 = execSidebandReset scope d c st0 := rfl
@[simp] theorem exec_bringUp (d : Nat) (report : BringUpReport) (st0 : State) : exec (.bringUp d report) st0 = execBringUp d report st0 := rfl
@[simp] theorem exec_diePresent (d : Nat) (st0 : State) : exec (.diePresent d) st0 = execDiePresent d st0 := rfl
@[simp] theorem exec_sidebandInventory (st0 : State) : exec (.sidebandInventory) st0 = execSidebandInventory st0 := rfl
@[simp] theorem exec_sidebandAttest (req : AttestRequest) (st0 : State) : exec (.sidebandAttest req) st0 = execSidebandAttest req st0 := rfl
@[simp] theorem exec_sidebandPowerRead (d : Nat) (st0 : State) : exec (.sidebandPowerRead d) st0 = execSidebandPowerRead d st0 := rfl
@[simp] theorem exec_sidebandPlimitWrite (v : Dword) (st0 : State) : exec (.sidebandPlimitWrite v) st0 = execSidebandPlimitWrite v st0 := rfl
@[simp] theorem exec_sidebandPstateWrite (d : Nat) (v : Dword) (st0 : State) : exec (.sidebandPstateWrite d v) st0 = execSidebandPstateWrite d v st0 := rfl
@[simp] theorem exec_sidebandLog (st0 : State) : exec (.sidebandLog) st0 = execSidebandLog st0 := rfl
@[simp] theorem exec_malformedPacket (q : Nat) (st0 : State) : exec (.malformedPacket q) st0 = execMalformedPacket q st0 := rfl
@[simp] theorem exec_memoryAccessPerformed (n : Nat) (st0 : State) : exec (.memoryAccessPerformed n) st0 = execMemoryAccessPerformed n st0 := rfl
@[simp] theorem exec_llcLineEviction (line : Nat) (bad : BitVec 8) (st0 : State) : exec (.llcLineEviction line bad) st0 = execLlcLineEviction line bad st0 := rfl
@[simp] theorem exec_slicePartialAttention (k : Nat) (st0 : State) : exec (.slicePartialAttention k) st0 = execSlicePartialAttention k st0 := rfl
@[simp] theorem exec_reshardPairCopy (k : Nat) (st0 : State) : exec (.reshardPairCopy k) st0 = execReshardPairCopy k st0 := rfl

end Sys2Proof.Machine
end

