-- ==== Sys2Proof/Laws/Tab.lean ====
section
/-! SUPPORT. The laws of sparse tables: reading after writing, and the canonical form that every table operation keeps. The two reading laws need
no canonical form. -/

namespace Sys2Proof.Machine

/-- Reading above what remains above a key. -/
theorem Tab.get_above {α : Type} [Inhabited α] (t : Tab α) (k j : Nat) : (Tab.above t k).get j = if j ≤ k then (Tab.above t k).get j else t.get j := by
  induction t with
  | nil => simp [Tab.above]
  | cons e rest ih =>
    obtain ⟨i, v⟩ := e
    by_cases hi : i ≤ k
    · by_cases hj : j ≤ k
      · simp [hj]
      · rw [show Tab.above ((i, v) :: rest) k = Tab.above rest k by simp [Tab.above, hi], ih]
        simp [hj, Tab.get, show ¬ i = j by omega, show ¬ j < i by omega]
    · simp [Tab.above, hi]

/-- Nothing at or below the key remains above it. -/
theorem Tab.get_above_le {α : Type} [Inhabited α] (t : Tab α) (k j : Nat) (h : j ≤ k) : (Tab.above t k).get j = default := by
  induction t with
  | nil => simp [Tab.above, Tab.get]
  | cons e rest ih =>
    obtain ⟨i, v⟩ := e
    by_cases hi : i ≤ k
    · simpa [Tab.above, hi] using ih
    · simp [Tab.above, hi, Tab.get, show ¬ i = j by omega, show j < i by omega]

/-- A read after a write: the written value at its key, the earlier value elsewhere. -/
theorem Tab.get_set {α : Type} [Inhabited α] [DecidableEq α] (t : Tab α) (k : Nat) (v : α) (j : Nat) :
    (t.set k v).get j = if j = k then v else t.get j := by
  induction t with
  | nil =>
    by_cases hv : v = default <;> by_cases hj : j = k <;> simp_all [Tab.set, Tab.get, eq_comm]
  | cons e rest ih =>
    obtain ⟨i, w⟩ := e
    by_cases h1 : i < k
    · rw [show Tab.set ((i, w) :: rest) k v = (i, w) :: Tab.set rest k v by simp [Tab.set, h1]]
      by_cases hij : i = j
      · simp [Tab.get, hij, show ¬ j = k by omega]
      · by_cases hji : j < i
        · simp [Tab.get, hij, hji, show ¬ j = k by omega]
        · simp [Tab.get, hij, hji, ih]
    · by_cases h2 : i = k
      · subst h2
        by_cases hv : v = default
        · rw [show Tab.set ((i, w) :: rest) i v = Tab.above rest i by simp [Tab.set, hv]]
          by_cases hj : j ≤ i
          · rw [Tab.get_above_le rest i j hj]
            by_cases hji : j = i
            · simp [hji, hv]
            · simp [hji, Tab.get, show ¬ i = j by omega, show j < i by omega]
          · rw [Tab.get_above]
            simp [hj, show ¬ j = i by omega, Tab.get, show ¬ i = j by omega, show ¬ j < i by omega]
        · rw [show Tab.set ((i, w) :: rest) i v = (i, v) :: rest by simp [Tab.set, hv]]
          by_cases hj : j = i
          · simp [Tab.get, hj]
          · simp [Tab.get, hj, show ¬ i = j by omega]
      · by_cases hv : v = default
        · rw [show Tab.set ((i, w) :: rest) k v = (i, w) :: rest by simp [Tab.set, h1, h2, hv]]
          by_cases hj : j = k
          · simp [hj, hv, Tab.get, h2, show k < i by omega]
          · simp [hj]
        · rw [show Tab.set ((i, w) :: rest) k v = (k, v) :: (i, w) :: rest by simp [Tab.set, h1, h2, hv]]
          by_cases hj : j = k
          · simp [hj, Tab.get]
          · by_cases hjk : j < k
            · simp [hj, Tab.get, show ¬ k = j by omega, hjk, show ¬ i = j by omega, show j < i by omega]
            · rw [show Tab.get ((k, v) :: (i, w) :: rest) j = Tab.get ((i, w) :: rest) j by
                rw [Tab.get, if_neg (show ¬ k = j by omega), if_neg hjk]]
              simp [hj]

@[simp] theorem Tab.get_set_same {α : Type} [Inhabited α] [DecidableEq α] (t : Tab α) (k : Nat) (v : α) : (t.set k v).get k = v := by simp [Tab.get_set]

theorem Tab.get_set_other {α : Type} [Inhabited α] [DecidableEq α] (t : Tab α) (k : Nat) (v : α) (j : Nat) (h : j ≠ k) : (t.set k v).get j = t.get j := by
  simp [Tab.get_set, h]

@[simp] theorem Tab.get_nil {α : Type} [Inhabited α] (j : Nat) : Tab.get ([] : Tab α) j = default := by simp [Tab.get]

/-- A read after a run of writes. -/
theorem Tab.get_setRange {α : Type} [Inhabited α] [DecidableEq α] (vs : List α) : ∀ (t : Tab α) (k j : Nat),
    (t.setRange k vs).get j = if k ≤ j ∧ j < k + vs.length then vs.getD (j - k) default else t.get j := by
  induction vs with
  | nil =>
    intro t k j
    simp [Tab.setRange, show ¬ (k ≤ j ∧ j < k) by omega]
  | cons v vs ih =>
    intro t k j
    rw [Tab.setRange, ih, Tab.get_set]
    by_cases h1 : j = k
    · simp [h1]
    · by_cases h2 : k + 1 ≤ j ∧ j < k + 1 + vs.length
      · obtain ⟨m, rfl⟩ : ∃ m, j = k + 1 + m := ⟨j - (k + 1), by omega⟩
        simp [h2.1, show m < vs.length by omega, show k ≤ k + 1 + m by omega, show k + 1 + m < k + (vs.length + 1) by omega,
          show k + 1 + m - k = m + 1 by omega]
      · simp only [h2, if_false, h1]
        simp only [List.length_cons]
        rw [if_neg (by omega)]

/-! ## The canonical form -/

/-- Canonical above a bound, in one step. -/
theorem Tab.wfFrom_cons {α : Type} [Inhabited α] [DecidableEq α] (lo : Option Nat) (j : Nat) (v : α) (rest : Tab α) :
    Tab.wfFrom lo ((j, v) :: rest) = true ↔ (∀ l, lo = some l → l < j) ∧ v ≠ default ∧ Tab.wfFrom (some j) rest = true := by
  cases lo <;> simp [Tab.wfFrom, and_assoc]

/-- A lower bound may be lowered. -/
theorem Tab.wfFrom_lower {α : Type} [Inhabited α] [DecidableEq α] (lo lo' : Option Nat) (t : Tab α)
    (h : ∀ l', lo' = some l' → ∃ l, lo = some l ∧ l' ≤ l) (w : Tab.wfFrom lo t = true) : Tab.wfFrom lo' t = true := by
  cases t with
  | nil => rfl
  | cons e rest =>
    obtain ⟨j, v⟩ := e
    rw [Tab.wfFrom_cons] at w ⊢
    refine ⟨fun l' hl => ?_, w.2⟩
    obtain ⟨l, h1, h2⟩ := h l' hl
    have := w.1 l h1
    omega

/-- What remains above a key is canonical above that key. -/
theorem Tab.wfFrom_above {α : Type} [Inhabited α] [DecidableEq α] (k : Nat) (t : Tab α) (lo : Option Nat) (w : Tab.wfFrom lo t = true) :
    Tab.wfFrom (some k) (Tab.above t k) = true := by
  induction t generalizing lo with
  | nil => rfl
  | cons e rest ih =>
    obtain ⟨j, v⟩ := e
    rw [Tab.wfFrom_cons] at w
    by_cases hj : j ≤ k
    · simpa [Tab.above, hj] using ih (some j) w.2.2
    · rw [show Tab.above ((j, v) :: rest) k = (j, v) :: rest by simp [Tab.above, hj], Tab.wfFrom_cons]
      exact ⟨fun l hl => by cases hl; omega, w.2⟩

/-- A write keeps the canonical form above a bound below its key. -/
theorem Tab.wfFrom_set {α : Type} [Inhabited α] [DecidableEq α] (k : Nat) (v : α) (t : Tab α) (lo : Option Nat) (hk : ∀ l, lo = some l → l < k)
    (w : Tab.wfFrom lo t = true) : Tab.wfFrom lo (t.set k v) = true := by
  induction t generalizing lo with
  | nil =>
    by_cases hv : v = default
    · simp [Tab.set, hv, Tab.wfFrom]
    · rw [show Tab.set ([] : Tab α) k v = [(k, v)] by simp [Tab.set, hv], Tab.wfFrom_cons]
      exact ⟨hk, hv, rfl⟩
  | cons e rest ih =>
    obtain ⟨j, x⟩ := e
    have w' := w
    rw [Tab.wfFrom_cons] at w
    by_cases h1 : j < k
    · rw [show Tab.set ((j, x) :: rest) k v = (j, x) :: Tab.set rest k v by simp [Tab.set, h1], Tab.wfFrom_cons]
      exact ⟨w.1, w.2.1, ih (some j) (fun l hl => by cases hl; exact h1) w.2.2⟩
    · by_cases h2 : j = k
      · subst h2
        by_cases hv : v = default
        · rw [show Tab.set ((j, x) :: rest) j v = Tab.above rest j by simp [Tab.set, hv]]
          exact Tab.wfFrom_lower (some j) lo _ (fun l hl => ⟨j, rfl, Nat.le_of_lt (hk l hl)⟩) (Tab.wfFrom_above j rest _ w.2.2)
        · rw [show Tab.set ((j, x) :: rest) j v = (j, v) :: rest by simp [Tab.set, hv], Tab.wfFrom_cons]
          exact ⟨w.1, hv, w.2.2⟩
      · by_cases hv : v = default
        · simpa [Tab.set, h1, h2, hv] using w'
        · rw [show Tab.set ((j, x) :: rest) k v = (k, v) :: (j, x) :: rest by simp [Tab.set, h1, h2, hv], Tab.wfFrom_cons, Tab.wfFrom_cons]
          exact ⟨hk, hv, fun l hl => by cases hl; omega, w.2⟩

/-- A write keeps the canonical form. -/
theorem Tab.wf_set {α : Type} [Inhabited α] [DecidableEq α] (t : Tab α) (k : Nat) (v : α) (w : t.wf = true) : (t.set k v).wf = true :=
  Tab.wfFrom_set k v t none (fun _ h => nomatch h) w

/-- A run of writes keeps the canonical form. -/
theorem Tab.wf_setRange {α : Type} [Inhabited α] [DecidableEq α] (vs : List α) : ∀ (t : Tab α) (k : Nat), t.wf = true → (t.setRange k vs).wf = true := by
  induction vs with
  | nil => exact fun _ _ w => w
  | cons v vs ih => exact fun t k w => ih _ _ (Tab.wf_set t k v w)

/-- Replacing a value keeps the canonical form. -/
theorem Tab.wf_mod {α : Type} [Inhabited α] [DecidableEq α] (t : Tab α) (k : Nat) (f : α → α) (w : t.wf = true) : (t.mod k f).wf = true := Tab.wf_set t k _ w

/-- Removing entries keeps the canonical form above a bound. -/
theorem Tab.wfFrom_filter {α : Type} [Inhabited α] [DecidableEq α] (p : Nat × α → Bool) (t : Tab α) (lo : Option Nat) (w : Tab.wfFrom lo t = true) :
    Tab.wfFrom lo (t.filter p) = true := by
  induction t generalizing lo with
  | nil => rfl
  | cons e rest ih =>
    obtain ⟨j, v⟩ := e
    have w' := w
    rw [Tab.wfFrom_cons] at w
    by_cases hp : p (j, v) = true
    · rw [List.filter_cons_of_pos hp, Tab.wfFrom_cons]
      exact ⟨w.1, w.2.1, ih (some j) w.2.2⟩
    · rw [List.filter_cons_of_neg hp]
      exact Tab.wfFrom_lower (some j) lo _ (fun l hl => ⟨j, rfl, Nat.le_of_lt (w.1 l hl)⟩) (ih (some j) w.2.2)

/-- Removing entries keeps the canonical form. -/
theorem Tab.wf_filter {α : Type} [Inhabited α] [DecidableEq α] (p : Nat × α → Bool) (t : Tab α) (w : t.wf = true) : Tab.wf (t.filter p) = true :=
  Tab.wfFrom_filter p t none w

/-- Removing a range keeps the canonical form. -/
theorem Tab.wf_dropRange {α : Type} [Inhabited α] [DecidableEq α] (t : Tab α) (lo hi : Nat) (w : t.wf = true) : (t.dropRange lo hi).wf = true :=
  Tab.wf_filter _ t w

end Sys2Proof.Machine
end

