-- ==== Sys2Proof/Laws/Memory.lean ====
section
/-! SUPPORT. What the operations over memory can change, and that each keeps the canonical form of memory. -/

namespace Sys2Proof.Machine
open Sys2Proof

/-! ## What changes -/

/-- `t` is `s` but for home memory, its poison and dirty lines, the remote-data caches, the posted stores and the device's choices. -/
def MemOnly (s t : State) : Prop :=
  t = { s with mem := t.mem, poison := t.poison, llc := t.llc, rdc := t.rdc, posted := t.posted, choice := t.choice }

/-- `t` is `s` but for the translation caches. -/
def TlbOnly (s t : State) : Prop := t = { s with tlb := t.tlb }

/-- Canonical memory stays canonical. -/
def KeepsMem (s t : State) : Prop := Memory.wf s.mem = true → Memory.wf t.mem = true

theorem MemOnly.refl (s : State) : MemOnly s s := rfl
theorem TlbOnly.refl (s : State) : TlbOnly s s := rfl
theorem KeepsMem.refl (s : State) : KeepsMem s s := id

theorem MemOnly.trans {s t u : State} (h : MemOnly s t) (k : MemOnly t u) : MemOnly s u := by
  unfold MemOnly at *; rw [k, h]

theorem TlbOnly.trans {s t u : State} (h : TlbOnly s t) (k : TlbOnly t u) : TlbOnly s u := by
  unfold TlbOnly at *; rw [k, h]

theorem KeepsMem.trans {s t u : State} (h : KeepsMem s t) (k : KeepsMem t u) : KeepsMem s u := fun w => k (h w)

/-- What only changes memory leaves the threads, the current thread and the scratchpads. -/
theorem MemOnly.keeps {s t : State} (h : MemOnly s t) : t.threads = s.threads ∧ t.cur = s.cur ∧ t.spad = s.spad ∧ t.me = s.me ∧ ∀ k, t.thr k = s.thr k := by
  rw [h]; exact ⟨rfl, rfl, rfl, rfl, fun _ => rfl⟩

/-- What only changes the translation caches leaves everything a load reads. -/
theorem TlbOnly.keeps {s t : State} (h : TlbOnly s t) : t.threads = s.threads ∧ t.cur = s.cur ∧ t.spad = s.spad ∧ t.mem = s.mem ∧ t.me = s.me ∧
    ∀ k, t.thr k = s.thr k := by
  rw [h]; exact ⟨rfl, rfl, rfl, rfl, rfl, fun _ => rfl⟩

/-- A relation that holds of every round of a fold holds of the fold. -/
theorem foldl_rel {α : Type} (R : State → State → Prop) (rfl_ : ∀ s, R s s) (tr : ∀ s t u, R s t → R t u → R s u) (f : State → α → State)
    (step : ∀ s a, R s (f s a)) (l : List α) : ∀ s, R s (l.foldl f s) := by
  induction l with
  | nil => exact rfl_
  | cons a l ih => exact fun s => tr _ _ _ (step s a) (ih _)

/-- Memory only, and canonical memory stays canonical. -/
def MemStep (s t : State) : Prop := MemOnly s t ∧ KeepsMem s t

theorem MemStep.refl (s : State) : MemStep s s := ⟨.refl s, .refl s⟩
theorem MemStep.trans {s t u : State} (h : MemStep s t) (k : MemStep t u) : MemStep s u := ⟨h.1.trans k.1, h.2.trans k.2⟩
theorem MemStep.fold {α : Type} (f : State → α → State) (step : ∀ s a, MemStep s (f s a)) (l : List α) (s : State) : MemStep s (l.foldl f s) :=
  foldl_rel MemStep .refl (fun _ _ _ => .trans) f step l s

/-! ## Home memory and the caches -/

theorem homeWrite_step (s : State) (cid pa : Nat) (bs : List Byte) : MemStep s (s.homeWrite cid pa bs) := by
  unfold State.homeWrite; split
  · exact .refl s
  · exact ⟨rfl, fun w => Tab.wf_setRange _ _ _ w⟩

theorem homeWriteDword_step (s : State) (cid pa : Nat) (v : Dword) : MemStep s (s.homeWriteDword cid pa v) := homeWrite_step ..

theorem writeBack_step (s : State) (d line : Nat) (sel : BitVec 128) : MemStep s (s.writeBack d line sel) := by
  unfold State.writeBack
  extract_lets l out
  split
  · exact .refl s
  split
  · exact ⟨rfl, id⟩
  · refine MemStep.trans (t := (List.range 128).foldl (fun (s : State) i => if flag out i = true then { s with mem := Tab.set s.mem (line * 128 + i) (bits l.data (8 * i) 8) } else s) s) ?_ ⟨rfl, id⟩
    refine MemStep.fold _ (fun s i => ?_) _ s
    split
    · exact ⟨rfl, fun w => Tab.wf_set _ _ _ w⟩
    · exact .refl s

theorem dropLine_step (s : State) (d line : Nat) : MemStep s (s.dropLine d line) :=
  (writeBack_step s d line _).trans ⟨rfl, id⟩

theorem rdcRoom_step (s : State) (d line : Nat) : MemStep s (s.rdcRoom d line) := by
  unfold State.rdcRoom; split
  · exact .refl s
  · split
    · exact dropLine_step ..
    · exact .refl s

theorem fillLine_step (s : State) (d line : Nat) : MemStep s (s.fillLine d line) := by
  unfold State.fillLine
  split
  · exact .refl s
  · exact (rdcRoom_step s d line).trans ⟨rfl, id⟩

theorem rdcRead_step (s : State) (d pa n : Nat) : MemStep s (s.rdcRead d pa n).2 := fillLine_step ..

theorem rdcWrite_step (s : State) (d cid t pa : Nat) (bs : List Byte) : MemStep s (s.rdcWrite d cid t pa bs) :=
  (rdcRoom_step s d (pa / 128)).trans ⟨rfl, id⟩

theorem performPosted_step (s : State) (p : Posted) : MemStep s (s.performPosted p) := by
  unfold State.performPosted; split
  · exact MemStep.fold _ (fun s q => rdcWrite_step ..) _ s
  · exact homeWrite_step ..

theorem drainPosted_step (s : State) (sel : Posted → Bool) : MemStep s (s.drainPosted sel) :=
  MemStep.trans (t := { s with posted := s.posted.filter fun p => !sel p }) ⟨rfl, id⟩ (MemStep.fold _ performPosted_step _ _)

theorem drainOverlap_step (s : State) (t : Option Nat) (a : Acc) : MemStep s (s.drainOverlap t a) := by
  unfold State.drainOverlap; split
  · exact .refl s
  · dsimp only; split
    · exact drainPosted_step ..
    · split
      · exact MemStep.trans (t := { s with choice := _ }) ⟨rfl, id⟩ (drainPosted_step ..)
      · exact MemStep.trans (t := { s with choice := _ }) ⟨rfl, id⟩ (drainPosted_step ..)

theorem drainThread_step (s : State) (t : Nat) : MemStep s (s.drainThread t) := drainPosted_step ..

/-! ## Loads and stores -/

theorem loadAcc_step (s : State) (w : Issuer) (a : Acc) : MemStep s (s.loadAcc w a).2 := by
  unfold State.loadAcc
  refine (drainOverlap_step s w.thread a).trans ?_
  extract_lets s1
  split
  · have : ∀ (l : List (Nat × Nat)) (r : (List Byte × Bool) × State), MemStep r.2 (l.foldl (fun (r : (List Byte × Bool) × State) p =>
        let x := r.2.rdcRead w.die p.1 p.2
        ((r.1.1 ++ x.1.1, r.1.2 || x.1.2), x.2)) r).2 := by
      intro l
      induction l with
      | nil => exact fun r => .refl _
      | cons p l ih => exact fun r => (rdcRead_step r.2 w.die p.1 p.2).trans (ih _)
    exact this _ _
  · refine MemStep.fold _ (fun s p => ?_) _ s1
    split
    · exact dropLine_step ..
    · exact .refl s

theorem loadAccs_step (w : Issuer) (as : List Acc) : ∀ s : State, MemStep s (s.loadAccs w as).2 := by
  induction as with
  | nil => exact fun s => .refl s
  | cons a as ih => exact fun s => (loadAcc_step s w a).trans (ih _)

theorem storeAcc_step (s : State) (w : Issuer) (a : Acc) (bs : List Byte) : MemStep s (s.storeAcc w a bs) := by
  unfold State.storeAcc
  refine (drainOverlap_step s w.thread a).trans ?_
  extract_lets s1
  split
  · exact MemStep.fold _ (fun s p => rdcWrite_step ..) _ s1
  · refine MemStep.trans (MemStep.fold _ (fun s p => ?_) _ s1) (homeWrite_step ..)
    split
    · exact dropLine_step ..
    · exact .refl s

theorem storeAccs_step (w : Issuer) (as : List Acc) : ∀ (s : State) (bs : List Byte), MemStep s (s.storeAccs w as bs) := by
  induction as with
  | nil => exact fun s _ => .refl s
  | cons a as ih => exact fun s bs => (storeAcc_step s w a _).trans (ih _ _)

theorem loadHome_step (s : State) (w : Issuer) (a : Acc) : MemStep s (s.loadHome w a).2 := loadAcc_step ..
theorem storeHome_step (s : State) (w : Issuer) (a : Acc) (bs : List Byte) : MemStep s (s.storeHome w a bs) := storeAcc_step ..

theorem domainRelease_step (s : State) (die cid : Nat) : MemStep s (s.domainRelease die cid) := MemStep.fold _ (fun _ _ => writeBack_step ..) _ s

theorem domainAcquire_step (s : State) (die cid : Nat) : MemStep s (s.domainAcquire die cid) := by
  unfold State.domainAcquire
  extract_lets xs
  refine MemStep.fold _ (fun s line => ?_) _ s
  extract_lets l
  split
  · exact .refl s
  · exact ⟨rfl, id⟩

/-! ## Translation fills the translation caches and changes nothing else -/

/-- What a bind that answers has done. -/
theorem bind_ok {ε α β : Type} {x : Except ε α} {f : α → Except ε β} {b : β} (h : (x >>= f) = .ok b) : ∃ a, x = .ok a ∧ f a = .ok b := by
  cases x with
  | error _ => cases h
  | ok a => exact ⟨a, rfl, h⟩

theorem tlbHold_tlb (s : State) (at_ cid : Nat) (key : TlbKey) (e0 e1 : Dword) : TlbOnly s (s.tlbHold at_ cid key e0 e1) := rfl

/-- An entry that may be held. -/
theorem holdIf_tlb (s : State) (c : Prop) [Decidable c] (at_ cid : Nat) (key : TlbKey) (e0 e1 : Dword) :
    TlbOnly s (if c then s.tlbHold at_ cid key e0 e1 else s) := by
  split
  · exact tlbHold_tlb ..
  · exact .refl s

theorem translate_tlb {s t : State} {d cid va n : Nat} {write : Bool} {a : Acc} (h : s.translate d cid va n write = .ok (a, t)) : TlbOnly s t := by
  unfold State.translate at h
  split at h
  · cases h
  split at h
  · split at h
    · cases h
    split at h
    · cases h
    · cases h; rfl
  split at h
  · obtain ⟨x, -, h⟩ := bind_ok h
    rw [← (Prod.mk.inj (Except.ok.inj h)).2]; exact tlbHold_tlb ..
  · split at h
    · cases h
    · obtain ⟨x, -, h⟩ := bind_ok h
      obtain ⟨y, -, h⟩ := bind_ok h
      rw [← (Prod.mk.inj (Except.ok.inj h)).2]; exact holdIf_tlb ..

theorem translateParts_tlb {d cid : Nat} {write : Bool} {ord : Nat} (l : List (Nat × Nat)) : ∀ {s t : State} {as : List Acc},
    translateParts d cid write ord l s = .ok (as, t) → TlbOnly s t := by
  induction l with
  | nil => intro s t as h; cases h; rfl
  | cons p l ih =>
    intro s t as h
    obtain ⟨x, hx, h⟩ := bind_ok h
    obtain ⟨y, hy, h⟩ := bind_ok h
    cases h
    exact (translate_tlb hx).trans (ih hy)

/-- The checks of a translated access change nothing. -/
theorem checked_same {s t : State} {w : Issuer} {write : Bool} {as bs : List Acc} (h : s.checked w write as = .ok (bs, t)) : bs = as ∧ t = s := by
  unfold State.checked at h
  split at h
  · cases h
  · split at h
    · cases h; exact ⟨rfl, rfl⟩
    · cases h

theorem accessLin_tlb {s t : State} {w : Issuer} {va n : Nat} {write : Bool} {ord : Nat} {as : List Acc}
    (h : s.accessLin w va n write ord = .ok (as, t)) : TlbOnly s t := by
  obtain ⟨x, hx, h⟩ := bind_ok h
  exact (checked_same h).2 ▸ translateParts_tlb _ hx

theorem directory_tlb {s t : State} {d cid tid : Nat} {write : Bool} {e : Dword × Dword} (h : s.directory d cid tid write = .ok (e, t)) : TlbOnly s t := by
  unfold State.directory at h
  split at h
  · cases h; exact tlbHold_tlb ..
  · simp only at h
    generalize hx : State.root _ _ + _ = x at h
    split at h
    · cases h
    split at h
    · cases h
    split at h
    · cases h
    split at h
    · cases h
    split at h
    · cases h
    split at h
    · cases h
    rw [← (Prod.mk.inj (Except.ok.inj h)).2]; exact tlbHold_tlb ..

theorem translateTile_tlb {s t : State} {d cid tid k off n : Nat} {e0 e1 : Dword} {write : Bool} {a : Acc}
    (h : s.translateTile d cid tid k off n e0 e1 write = .ok (a, t)) : TlbOnly s t := by
  unfold State.translateTile at h
  simp only at h
  split at h
  · cases h
  split at h
  · obtain ⟨x, -, h⟩ := bind_ok h
    rw [← (Prod.mk.inj (Except.ok.inj h)).2]; exact tlbHold_tlb ..
  split at h
  · cases h
  split at h
  · cases h
  split at h
  · cases h
  split at h
  · cases h
  split at h
  · cases h
  split at h
  · cases h
  obtain ⟨x, -, h⟩ := bind_ok h
  rw [← (Prod.mk.inj (Except.ok.inj h)).2]; exact holdIf_tlb ..

theorem reachTile_tlb {s t : State} {w : Issuer} {tid k off n span : Nat} {write : Bool} {ord : Nat} {as : List Acc}
    (h : s.reachTile w tid k off n span write ord = .ok (as, t)) : TlbOnly s t := by
  obtain ⟨x, hx, h⟩ := bind_ok h
  simp only at h
  split at h
  · cases h
  · obtain ⟨y, hy, h⟩ := bind_ok h
    rw [← (Prod.mk.inj (Except.ok.inj h)).2]; exact (directory_tlb hx).trans (translateTile_tlb hy)

theorem accessTile_tlb {s t : State} {w : Issuer} {tid k off n span : Nat} {write : Bool} {ord : Nat} {as : List Acc}
    (h : s.accessTile w tid k off n span write ord = .ok (as, t)) : TlbOnly s t := by
  obtain ⟨x, hx, h⟩ := bind_ok h
  exact (checked_same h).2 ▸ reachTile_tlb hx

theorem reachPort_tlb {s t : State} {w : Issuer} {p : Port} {n : Nat} {write : Bool} {ord : Nat} {as : List Acc}
    (h : s.reachPort w p n write ord = .ok (as, t)) : TlbOnly s t := by
  unfold State.reachPort at h
  split at h
  · exact translateParts_tlb _ h
  · exact reachTile_tlb h
  · cases h; rfl

theorem accessPort_tlb {s t : State} {w : Issuer} {p : Port} {n : Nat} {write : Bool} {ord : Nat} {as : List Acc}
    (h : s.accessPort w p n write ord = .ok (as, t)) : TlbOnly s t := by
  obtain ⟨x, hx, h⟩ := bind_ok h
  exact (checked_same h).2 ▸ reachPort_tlb hx

theorem reachPieces_tlb {w : Issuer} {write : Bool} {ord : Nat} (l : List ((Port × Nat) × Nat)) : ∀ {s t : State} {ps : List (Piece3 × Nat)},
    s.reachPieces w write ord l = .ok (ps, t) → TlbOnly s t := by
  induction l with
  | nil => intro s t ps h; cases h; rfl
  | cons p l ih =>
    intro s t ps h
    obtain ⟨x, hx, h⟩ := bind_ok h
    obtain ⟨y, hy, h⟩ := bind_ok h
    cases h
    exact (reachPort_tlb hx).trans (ih hy)

theorem accessPieces_tlb {w : Issuer} {write : Bool} {ord : Nat} {l : List (Port × Nat)} {s t : State} {ps : List Piece3}
    (h : s.accessPieces w write ord l = .ok (ps, t)) : TlbOnly s t := by
  obtain ⟨x, hx, h⟩ := bind_ok h
  simp only at h
  split at h
  · cases h
  · split at h
    · cases h
    · rw [← (Prod.mk.inj (Except.ok.inj h)).2]; exact reachPieces_tlb _ hx

/-! ## Pieces -/

theorem loadPieces_step (w : Issuer) (ps : List Piece3) : ∀ s : State, MemStep s (s.loadPieces w ps).2 := by
  induction ps with
  | nil => exact fun s => .refl s
  | cons p ps ih => exact fun s => (loadAccs_step w p.accs s).trans (ih _)

theorem storePieces_step (w : Issuer) (ps : List Piece3) : ∀ (s : State) (v : Nat), MemStep s (s.storePieces w ps v) := by
  induction ps with
  | nil => exact fun s _ => .refl s
  | cons p ps ih => exact fun s v => (storeAccs_step w p.accs s _).trans (ih _ _)

/-! ## Scratchpad and host memory -/

/-- A write of scratchpad changes the scratchpad, its poison and what the threads' command windows know of it, and keeps the canonical form. -/
theorem spadWrite_only (s : State) (c a : Nat) (bs : List Byte) :
    s.spadWrite c a bs = { s with spad := (s.spadWrite c a bs).spad, spoison := (s.spadWrite c a bs).spoison, threads := (s.spadWrite c a bs).threads } ∧
    (Memory.wf s.spad = true → Memory.wf (s.spadWrite c a bs).spad = true) := ⟨rfl, fun w => Tab.wf_setRange _ _ _ w⟩

/-- A byte of scratchpad after a write. -/
theorem spadWrite_get (s : State) (c a : Nat) (bs : List Byte) (k : Nat) :
    (s.spadWrite c a bs).spad.get k = if spadKey c a ≤ k ∧ k < spadKey c a + bs.length then bs.getD (k - spadKey c a) 0 else s.spad.get k :=
  Tab.get_setRange bs s.spad (spadKey c a) k

/-- A byte of home memory after a write at home. -/
theorem homeWrite_get (s : State) (cid pa : Nat) (bs : List Byte) (h : s.paDown pa = false) (k : Nat) :
    (s.homeWrite cid pa bs).mem.get k = if pa ≤ k ∧ k < pa + bs.length then bs.getD (k - pa) 0 else s.mem.get k := by
  unfold State.homeWrite; simp only [h]; exact Tab.get_setRange bs s.mem pa k

/-- A write of host memory changes it alone, and keeps the canonical form. -/
theorem hostWrite_only (s : State) (a : Nat) (bs : List Byte) : s.hostWrite a bs = { s with hostMem := (s.hostWrite a bs).hostMem } ∧
    (Memory.wf s.hostMem = true → Memory.wf (s.hostWrite a bs).hostMem = true) := ⟨rfl, fun w => Tab.wf_setRange _ _ _ w⟩

theorem reset_memWf : State.reset.memWf = true := rfl

end Sys2Proof.Machine
end

