-- ==== Sys2Proof/Laws/State.lean ====
section
/-! SUPPORT. One lemma per field of the state per update of it, so that no proof unfolds a record update. -/

namespace Sys2Proof.Machine
open Sys2Proof
set_option Elab.async false

/-! ## `State.modThr` replaces the record of one thread -/

@[simp] theorem State.modThr_clk (s : State) (t : Nat) (f : Thread → Thread) : (s.modThr t f).clk = s.clk := rfl
@[simp] theorem State.modThr_agenda (s : State) (t : Nat) (f : Thread → Thread) : (s.modThr t f).agenda = s.agenda := rfl
@[simp] theorem State.modThr_cur (s : State) (t : Nat) (f : Thread → Thread) : (s.modThr t f).cur = s.cur := rfl
@[simp] theorem State.modThr_bgTurn (s : State) (t : Nat) (f : Thread → Thread) : (s.modThr t f).bgTurn = s.bgTurn := rfl
@[simp] theorem State.modThr_choice (s : State) (t : Nat) (f : Thread → Thread) : (s.modThr t f).choice = s.choice := rfl
@[simp] theorem State.modThr_freeCtr (s : State) (t : Nat) (f : Thread → Thread) : (s.modThr t f).freeCtr = s.freeCtr := rfl
@[simp] theorem State.modThr_pkgid (s : State) (t : Nat) (f : Thread → Thread) : (s.modThr t f).pkgid = s.pkgid := rfl
@[simp] theorem State.modThr_plimitX (s : State) (t : Nat) (f : Thread → Thread) : (s.modThr t f).plimitX = s.plimitX := rfl
@[simp] theorem State.modThr_period (s : State) (t : Nat) (f : Thread → Thread) : (s.modThr t f).period = s.period := rfl
@[simp] theorem State.modThr_mem (s : State) (t : Nat) (f : Thread → Thread) : (s.modThr t f).mem = s.mem := rfl
@[simp] theorem State.modThr_poison (s : State) (t : Nat) (f : Thread → Thread) : (s.modThr t f).poison = s.poison := rfl
@[simp] theorem State.modThr_hostMem (s : State) (t : Nat) (f : Thread → Thread) : (s.modThr t f).hostMem = s.hostMem := rfl
@[simp] theorem State.modThr_rdc (s : State) (t : Nat) (f : Thread → Thread) : (s.modThr t f).rdc = s.rdc := rfl
@[simp] theorem State.modThr_llc (s : State) (t : Nat) (f : Thread → Thread) : (s.modThr t f).llc = s.llc := rfl
@[simp] theorem State.modThr_posted (s : State) (t : Nat) (f : Thread → Thread) : (s.modThr t f).posted = s.posted := rfl
@[simp] theorem State.modThr_spad (s : State) (t : Nat) (f : Thread → Thread) : (s.modThr t f).spad = s.spad := rfl
@[simp] theorem State.modThr_spoison (s : State) (t : Nat) (f : Thread → Thread) : (s.modThr t f).spoison = s.spoison := rfl
@[simp] theorem State.modThr_spend (s : State) (t : Nat) (f : Thread → Thread) : (s.modThr t f).spend = s.spend := rfl
@[simp] theorem State.modThr_landed (s : State) (t : Nat) (f : Thread → Thread) : (s.modThr t f).landed = s.landed := rfl
@[simp] theorem State.modThr_pbits (s : State) (t : Nat) (f : Thread → Thread) : (s.modThr t f).pbits = s.pbits := rfl
@[simp] theorem State.modThr_tlb (s : State) (t : Nat) (f : Thread → Thread) : (s.modThr t f).tlb = s.tlb := rfl
@[simp] theorem State.modThr_regions (s : State) (t : Nat) (f : Thread → Thread) : (s.modThr t f).regions = s.regions := rfl
@[simp] theorem State.modThr_owed (s : State) (t : Nat) (f : Thread → Thread) : (s.modThr t f).owed = s.owed := rfl
@[simp] theorem State.modThr_copies (s : State) (t : Nat) (f : Thread → Thread) : (s.modThr t f).copies = s.copies := rfl
@[simp] theorem State.modThr_ktm (s : State) (t : Nat) (f : Thread → Thread) : (s.modThr t f).ktm = s.ktm := rfl
@[simp] theorem State.modThr_slots (s : State) (t : Nat) (f : Thread → Thread) : (s.modThr t f).slots = s.slots := rfl
@[simp] theorem State.modThr_handles (s : State) (t : Nat) (f : Thread → Thread) : (s.modThr t f).handles = s.handles := rfl
@[simp] theorem State.modThr_cbars (s : State) (t : Nat) (f : Thread → Thread) : (s.modThr t f).cbars = s.cbars := rfl
@[simp] theorem State.modThr_rings (s : State) (t : Nat) (f : Thread → Thread) : (s.modThr t f).rings = s.rings := rfl
@[simp] theorem State.modThr_sbars (s : State) (t : Nat) (f : Thread → Thread) : (s.modThr t f).sbars = s.sbars := rfl
@[simp] theorem State.modThr_atomo (s : State) (t : Nat) (f : Thread → Thread) : (s.modThr t f).atomo = s.atomo := rfl
@[simp] theorem State.modThr_refused (s : State) (t : Nat) (f : Thread → Thread) : (s.modThr t f).refused = s.refused := rfl
@[simp] theorem State.modThr_atomLines (s : State) (t : Nat) (f : Thread → Thread) : (s.modThr t f).atomLines = s.atomLines := rfl
@[simp] theorem State.modThr_dies (s : State) (t : Nat) (f : Thread → Thread) : (s.modThr t f).dies = s.dies := rfl
@[simp] theorem State.modThr_ports (s : State) (t : Nat) (f : Thread → Thread) : (s.modThr t f).ports = s.ports := rfl
@[simp] theorem State.modThr_dports (s : State) (t : Nat) (f : Thread → Thread) : (s.modThr t f).dports = s.dports := rfl
@[simp] theorem State.modThr_packets (s : State) (t : Nat) (f : Thread → Thread) : (s.modThr t f).packets = s.packets := rfl
@[simp] theorem State.modThr_routers (s : State) (t : Nat) (f : Thread → Thread) : (s.modThr t f).routers = s.routers := rfl
@[simp] theorem State.modThr_pairs (s : State) (t : Nat) (f : Thread → Thread) : (s.modThr t f).pairs = s.pairs := rfl
@[simp] theorem State.modThr_routes (s : State) (t : Nat) (f : Thread → Thread) : (s.modThr t f).routes = s.routes := rfl
@[simp] theorem State.modThr_ctxs (s : State) (t : Nat) (f : Thread → Thread) : (s.modThr t f).ctxs = s.ctxs := rfl
@[simp] theorem State.modThr_nodes (s : State) (t : Nat) (f : Thread → Thread) : (s.modThr t f).nodes = s.nodes := rfl
@[simp] theorem State.modThr_gangs (s : State) (t : Nat) (f : Thread → Thread) : (s.modThr t f).gangs = s.gangs := rfl
@[simp] theorem State.modThr_nextGang (s : State) (t : Nat) (f : Thread → Thread) : (s.modThr t f).nextGang = s.nextGang := rfl
@[simp] theorem State.modThr_nextThread (s : State) (t : Nat) (f : Thread → Thread) : (s.modThr t f).nextThread = s.nextThread := rfl
@[simp] theorem State.modThr_tasks (s : State) (t : Nat) (f : Thread → Thread) : (s.modThr t f).tasks = s.tasks := rfl
@[simp] theorem State.modThr_nextTask (s : State) (t : Nat) (f : Thread → Thread) : (s.modThr t f).nextTask = s.nextTask := rfl
@[simp] theorem State.modThr_parkWaits (s : State) (t : Nat) (f : Thread → Thread) : (s.modThr t f).parkWaits = s.parkWaits := rfl
@[simp] theorem State.modThr_shoots (s : State) (t : Nat) (f : Thread → Thread) : (s.modThr t f).shoots = s.shoots := rfl
@[simp] theorem State.modThr_queues (s : State) (t : Nat) (f : Thread → Thread) : (s.modThr t f).queues = s.queues := rfl
@[simp] theorem State.modThr_admin (s : State) (t : Nat) (f : Thread → Thread) : (s.modThr t f).admin = s.admin := rfl
@[simp] theorem State.modThr_signals (s : State) (t : Nat) (f : Thread → Thread) : (s.modThr t f).signals = s.signals := rfl
@[simp] theorem State.modThr_sbOut (s : State) (t : Nat) (f : Thread → Thread) : (s.modThr t f).sbOut = s.sbOut := rfl

/-! ## `State.modMe` replaces the record of the current thread -/

@[simp] theorem State.modMe_clk (s : State) (f : Thread → Thread) : (s.modMe f).clk = s.clk := rfl
@[simp] theorem State.modMe_agenda (s : State) (f : Thread → Thread) : (s.modMe f).agenda = s.agenda := rfl
@[simp] theorem State.modMe_cur (s : State) (f : Thread → Thread) : (s.modMe f).cur = s.cur := rfl
@[simp] theorem State.modMe_bgTurn (s : State) (f : Thread → Thread) : (s.modMe f).bgTurn = s.bgTurn := rfl
@[simp] theorem State.modMe_choice (s : State) (f : Thread → Thread) : (s.modMe f).choice = s.choice := rfl
@[simp] theorem State.modMe_freeCtr (s : State) (f : Thread → Thread) : (s.modMe f).freeCtr = s.freeCtr := rfl
@[simp] theorem State.modMe_pkgid (s : State) (f : Thread → Thread) : (s.modMe f).pkgid = s.pkgid := rfl
@[simp] theorem State.modMe_plimitX (s : State) (f : Thread → Thread) : (s.modMe f).plimitX = s.plimitX := rfl
@[simp] theorem State.modMe_period (s : State) (f : Thread → Thread) : (s.modMe f).period = s.period := rfl
@[simp] theorem State.modMe_mem (s : State) (f : Thread → Thread) : (s.modMe f).mem = s.mem := rfl
@[simp] theorem State.modMe_poison (s : State) (f : Thread → Thread) : (s.modMe f).poison = s.poison := rfl
@[simp] theorem State.modMe_hostMem (s : State) (f : Thread → Thread) : (s.modMe f).hostMem = s.hostMem := rfl
@[simp] theorem State.modMe_rdc (s : State) (f : Thread → Thread) : (s.modMe f).rdc = s.rdc := rfl
@[simp] theorem State.modMe_llc (s : State) (f : Thread → Thread) : (s.modMe f).llc = s.llc := rfl
@[simp] theorem State.modMe_posted (s : State) (f : Thread → Thread) : (s.modMe f).posted = s.posted := rfl
@[simp] theorem State.modMe_spad (s : State) (f : Thread → Thread) : (s.modMe f).spad = s.spad := rfl
@[simp] theorem State.modMe_spoison (s : State) (f : Thread → Thread) : (s.modMe f).spoison = s.spoison := rfl
@[simp] theorem State.modMe_spend (s : State) (f : Thread → Thread) : (s.modMe f).spend = s.spend := rfl
@[simp] theorem State.modMe_landed (s : State) (f : Thread → Thread) : (s.modMe f).landed = s.landed := rfl
@[simp] theorem State.modMe_pbits (s : State) (f : Thread → Thread) : (s.modMe f).pbits = s.pbits := rfl
@[simp] theorem State.modMe_tlb (s : State) (f : Thread → Thread) : (s.modMe f).tlb = s.tlb := rfl
@[simp] theorem State.modMe_regions (s : State) (f : Thread → Thread) : (s.modMe f).regions = s.regions := rfl
@[simp] theorem State.modMe_owed (s : State) (f : Thread → Thread) : (s.modMe f).owed = s.owed := rfl
@[simp] theorem State.modMe_copies (s : State) (f : Thread → Thread) : (s.modMe f).copies = s.copies := rfl
@[simp] theorem State.modMe_ktm (s : State) (f : Thread → Thread) : (s.modMe f).ktm = s.ktm := rfl
@[simp] theorem State.modMe_slots (s : State) (f : Thread → Thread) : (s.modMe f).slots = s.slots := rfl
@[simp] theorem State.modMe_handles (s : State) (f : Thread → Thread) : (s.modMe f).handles = s.handles := rfl
@[simp] theorem State.modMe_cbars (s : State) (f : Thread → Thread) : (s.modMe f).cbars = s.cbars := rfl
@[simp] theorem State.modMe_rings (s : State) (f : Thread → Thread) : (s.modMe f).rings = s.rings := rfl
@[simp] theorem State.modMe_sbars (s : State) (f : Thread → Thread) : (s.modMe f).sbars = s.sbars := rfl
@[simp] theorem State.modMe_atomo (s : State) (f : Thread → Thread) : (s.modMe f).atomo = s.atomo := rfl
@[simp] theorem State.modMe_refused (s : State) (f : Thread → Thread) : (s.modMe f).refused = s.refused := rfl
@[simp] theorem State.modMe_atomLines (s : State) (f : Thread → Thread) : (s.modMe f).atomLines = s.atomLines := rfl
@[simp] theorem State.modMe_dies (s : State) (f : Thread → Thread) : (s.modMe f).dies = s.dies := rfl
@[simp] theorem State.modMe_ports (s : State) (f : Thread → Thread) : (s.modMe f).ports = s.ports := rfl
@[simp] theorem State.modMe_dports (s : State) (f : Thread → Thread) : (s.modMe f).dports = s.dports := rfl
@[simp] theorem State.modMe_packets (s : State) (f : Thread → Thread) : (s.modMe f).packets = s.packets := rfl
@[simp] theorem State.modMe_routers (s : State) (f : Thread → Thread) : (s.modMe f).routers = s.routers := rfl
@[simp] theorem State.modMe_pairs (s : State) (f : Thread → Thread) : (s.modMe f).pairs = s.pairs := rfl
@[simp] theorem State.modMe_routes (s : State) (f : Thread → Thread) : (s.modMe f).routes = s.routes := rfl
@[simp] theorem State.modMe_ctxs (s : State) (f : Thread → Thread) : (s.modMe f).ctxs = s.ctxs := rfl
@[simp] theorem State.modMe_nodes (s : State) (f : Thread → Thread) : (s.modMe f).nodes = s.nodes := rfl
@[simp] theorem State.modMe_gangs (s : State) (f : Thread → Thread) : (s.modMe f).gangs = s.gangs := rfl
@[simp] theorem State.modMe_nextGang (s : State) (f : Thread → Thread) : (s.modMe f).nextGang = s.nextGang := rfl
@[simp] theorem State.modMe_nextThread (s : State) (f : Thread → Thread) : (s.modMe f).nextThread = s.nextThread := rfl
@[simp] theorem State.modMe_tasks (s : State) (f : Thread → Thread) : (s.modMe f).tasks = s.tasks := rfl
@[simp] theorem State.modMe_nextTask (s : State) (f : Thread → Thread) : (s.modMe f).nextTask = s.nextTask := rfl
@[simp] theorem State.modMe_parkWaits (s : State) (f : Thread → Thread) : (s.modMe f).parkWaits = s.parkWaits := rfl
@[simp] theorem State.modMe_shoots (s : State) (f : Thread → Thread) : (s.modMe f).shoots = s.shoots := rfl
@[simp] theorem State.modMe_queues (s : State) (f : Thread → Thread) : (s.modMe f).queues = s.queues := rfl
@[simp] theorem State.modMe_admin (s : State) (f : Thread → Thread) : (s.modMe f).admin = s.admin := rfl
@[simp] theorem State.modMe_signals (s : State) (f : Thread → Thread) : (s.modMe f).signals = s.signals := rfl
@[simp] theorem State.modMe_sbOut (s : State) (f : Thread → Thread) : (s.modMe f).sbOut = s.sbOut := rfl

/-! ## `State.putS` writes a scalar of the current thread -/

@[simp] theorem State.putS_clk (s : State) (d : BitVec 6) (v : Dword) : (s.putS d v).clk = s.clk := rfl
@[simp] theorem State.putS_agenda (s : State) (d : BitVec 6) (v : Dword) : (s.putS d v).agenda = s.agenda := rfl
@[simp] theorem State.putS_cur (s : State) (d : BitVec 6) (v : Dword) : (s.putS d v).cur = s.cur := rfl
@[simp] theorem State.putS_bgTurn (s : State) (d : BitVec 6) (v : Dword) : (s.putS d v).bgTurn = s.bgTurn := rfl
@[simp] theorem State.putS_choice (s : State) (d : BitVec 6) (v : Dword) : (s.putS d v).choice = s.choice := rfl
@[simp] theorem State.putS_freeCtr (s : State) (d : BitVec 6) (v : Dword) : (s.putS d v).freeCtr = s.freeCtr := rfl
@[simp] theorem State.putS_pkgid (s : State) (d : BitVec 6) (v : Dword) : (s.putS d v).pkgid = s.pkgid := rfl
@[simp] theorem State.putS_plimitX (s : State) (d : BitVec 6) (v : Dword) : (s.putS d v).plimitX = s.plimitX := rfl
@[simp] theorem State.putS_period (s : State) (d : BitVec 6) (v : Dword) : (s.putS d v).period = s.period := rfl
@[simp] theorem State.putS_mem (s : State) (d : BitVec 6) (v : Dword) : (s.putS d v).mem = s.mem := rfl
@[simp] theorem State.putS_poison (s : State) (d : BitVec 6) (v : Dword) : (s.putS d v).poison = s.poison := rfl
@[simp] theorem State.putS_hostMem (s : State) (d : BitVec 6) (v : Dword) : (s.putS d v).hostMem = s.hostMem := rfl
@[simp] theorem State.putS_rdc (s : State) (d : BitVec 6) (v : Dword) : (s.putS d v).rdc = s.rdc := rfl
@[simp] theorem State.putS_llc (s : State) (d : BitVec 6) (v : Dword) : (s.putS d v).llc = s.llc := rfl
@[simp] theorem State.putS_posted (s : State) (d : BitVec 6) (v : Dword) : (s.putS d v).posted = s.posted := rfl
@[simp] theorem State.putS_spad (s : State) (d : BitVec 6) (v : Dword) : (s.putS d v).spad = s.spad := rfl
@[simp] theorem State.putS_spoison (s : State) (d : BitVec 6) (v : Dword) : (s.putS d v).spoison = s.spoison := rfl
@[simp] theorem State.putS_spend (s : State) (d : BitVec 6) (v : Dword) : (s.putS d v).spend = s.spend := rfl
@[simp] theorem State.putS_landed (s : State) (d : BitVec 6) (v : Dword) : (s.putS d v).landed = s.landed := rfl
@[simp] theorem State.putS_pbits (s : State) (d : BitVec 6) (v : Dword) : (s.putS d v).pbits = s.pbits := rfl
@[simp] theorem State.putS_tlb (s : State) (d : BitVec 6) (v : Dword) : (s.putS d v).tlb = s.tlb := rfl
@[simp] theorem State.putS_regions (s : State) (d : BitVec 6) (v : Dword) : (s.putS d v).regions = s.regions := rfl
@[simp] theorem State.putS_owed (s : State) (d : BitVec 6) (v : Dword) : (s.putS d v).owed = s.owed := rfl
@[simp] theorem State.putS_copies (s : State) (d : BitVec 6) (v : Dword) : (s.putS d v).copies = s.copies := rfl
@[simp] theorem State.putS_ktm (s : State) (d : BitVec 6) (v : Dword) : (s.putS d v).ktm = s.ktm := rfl
@[simp] theorem State.putS_slots (s : State) (d : BitVec 6) (v : Dword) : (s.putS d v).slots = s.slots := rfl
@[simp] theorem State.putS_handles (s : State) (d : BitVec 6) (v : Dword) : (s.putS d v).handles = s.handles := rfl
@[simp] theorem State.putS_cbars (s : State) (d : BitVec 6) (v : Dword) : (s.putS d v).cbars = s.cbars := rfl
@[simp] theorem State.putS_rings (s : State) (d : BitVec 6) (v : Dword) : (s.putS d v).rings = s.rings := rfl
@[simp] theorem State.putS_sbars (s : State) (d : BitVec 6) (v : Dword) : (s.putS d v).sbars = s.sbars := rfl
@[simp] theorem State.putS_atomo (s : State) (d : BitVec 6) (v : Dword) : (s.putS d v).atomo = s.atomo := rfl
@[simp] theorem State.putS_refused (s : State) (d : BitVec 6) (v : Dword) : (s.putS d v).refused = s.refused := rfl
@[simp] theorem State.putS_atomLines (s : State) (d : BitVec 6) (v : Dword) : (s.putS d v).atomLines = s.atomLines := rfl
@[simp] theorem State.putS_dies (s : State) (d : BitVec 6) (v : Dword) : (s.putS d v).dies = s.dies := rfl
@[simp] theorem State.putS_ports (s : State) (d : BitVec 6) (v : Dword) : (s.putS d v).ports = s.ports := rfl
@[simp] theorem State.putS_dports (s : State) (d : BitVec 6) (v : Dword) : (s.putS d v).dports = s.dports := rfl
@[simp] theorem State.putS_packets (s : State) (d : BitVec 6) (v : Dword) : (s.putS d v).packets = s.packets := rfl
@[simp] theorem State.putS_routers (s : State) (d : BitVec 6) (v : Dword) : (s.putS d v).routers = s.routers := rfl
@[simp] theorem State.putS_pairs (s : State) (d : BitVec 6) (v : Dword) : (s.putS d v).pairs = s.pairs := rfl
@[simp] theorem State.putS_routes (s : State) (d : BitVec 6) (v : Dword) : (s.putS d v).routes = s.routes := rfl
@[simp] theorem State.putS_ctxs (s : State) (d : BitVec 6) (v : Dword) : (s.putS d v).ctxs = s.ctxs := rfl
@[simp] theorem State.putS_nodes (s : State) (d : BitVec 6) (v : Dword) : (s.putS d v).nodes = s.nodes := rfl
@[simp] theorem State.putS_gangs (s : State) (d : BitVec 6) (v : Dword) : (s.putS d v).gangs = s.gangs := rfl
@[simp] theorem State.putS_nextGang (s : State) (d : BitVec 6) (v : Dword) : (s.putS d v).nextGang = s.nextGang := rfl
@[simp] theorem State.putS_nextThread (s : State) (d : BitVec 6) (v : Dword) : (s.putS d v).nextThread = s.nextThread := rfl
@[simp] theorem State.putS_tasks (s : State) (d : BitVec 6) (v : Dword) : (s.putS d v).tasks = s.tasks := rfl
@[simp] theorem State.putS_nextTask (s : State) (d : BitVec 6) (v : Dword) : (s.putS d v).nextTask = s.nextTask := rfl
@[simp] theorem State.putS_parkWaits (s : State) (d : BitVec 6) (v : Dword) : (s.putS d v).parkWaits = s.parkWaits := rfl
@[simp] theorem State.putS_shoots (s : State) (d : BitVec 6) (v : Dword) : (s.putS d v).shoots = s.shoots := rfl
@[simp] theorem State.putS_queues (s : State) (d : BitVec 6) (v : Dword) : (s.putS d v).queues = s.queues := rfl
@[simp] theorem State.putS_admin (s : State) (d : BitVec 6) (v : Dword) : (s.putS d v).admin = s.admin := rfl
@[simp] theorem State.putS_signals (s : State) (d : BitVec 6) (v : Dword) : (s.putS d v).signals = s.signals := rfl
@[simp] theorem State.putS_sbOut (s : State) (d : BitVec 6) (v : Dword) : (s.putS d v).sbOut = s.sbOut := rfl

/-! ## `State.putP` writes a predicate of the current thread -/

@[simp] theorem State.putP_clk (s : State) (d : BitVec 4) (v : Bool) : (s.putP d v).clk = s.clk := rfl
@[simp] theorem State.putP_agenda (s : State) (d : BitVec 4) (v : Bool) : (s.putP d v).agenda = s.agenda := rfl
@[simp] theorem State.putP_cur (s : State) (d : BitVec 4) (v : Bool) : (s.putP d v).cur = s.cur := rfl
@[simp] theorem State.putP_bgTurn (s : State) (d : BitVec 4) (v : Bool) : (s.putP d v).bgTurn = s.bgTurn := rfl
@[simp] theorem State.putP_choice (s : State) (d : BitVec 4) (v : Bool) : (s.putP d v).choice = s.choice := rfl
@[simp] theorem State.putP_freeCtr (s : State) (d : BitVec 4) (v : Bool) : (s.putP d v).freeCtr = s.freeCtr := rfl
@[simp] theorem State.putP_pkgid (s : State) (d : BitVec 4) (v : Bool) : (s.putP d v).pkgid = s.pkgid := rfl
@[simp] theorem State.putP_plimitX (s : State) (d : BitVec 4) (v : Bool) : (s.putP d v).plimitX = s.plimitX := rfl
@[simp] theorem State.putP_period (s : State) (d : BitVec 4) (v : Bool) : (s.putP d v).period = s.period := rfl
@[simp] theorem State.putP_mem (s : State) (d : BitVec 4) (v : Bool) : (s.putP d v).mem = s.mem := rfl
@[simp] theorem State.putP_poison (s : State) (d : BitVec 4) (v : Bool) : (s.putP d v).poison = s.poison := rfl
@[simp] theorem State.putP_hostMem (s : State) (d : BitVec 4) (v : Bool) : (s.putP d v).hostMem = s.hostMem := rfl
@[simp] theorem State.putP_rdc (s : State) (d : BitVec 4) (v : Bool) : (s.putP d v).rdc = s.rdc := rfl
@[simp] theorem State.putP_llc (s : State) (d : BitVec 4) (v : Bool) : (s.putP d v).llc = s.llc := rfl
@[simp] theorem State.putP_posted (s : State) (d : BitVec 4) (v : Bool) : (s.putP d v).posted = s.posted := rfl
@[simp] theorem State.putP_spad (s : State) (d : BitVec 4) (v : Bool) : (s.putP d v).spad = s.spad := rfl
@[simp] theorem State.putP_spoison (s : State) (d : BitVec 4) (v : Bool) : (s.putP d v).spoison = s.spoison := rfl
@[simp] theorem State.putP_spend (s : State) (d : BitVec 4) (v : Bool) : (s.putP d v).spend = s.spend := rfl
@[simp] theorem State.putP_landed (s : State) (d : BitVec 4) (v : Bool) : (s.putP d v).landed = s.landed := rfl
@[simp] theorem State.putP_pbits (s : State) (d : BitVec 4) (v : Bool) : (s.putP d v).pbits = s.pbits := rfl
@[simp] theorem State.putP_tlb (s : State) (d : BitVec 4) (v : Bool) : (s.putP d v).tlb = s.tlb := rfl
@[simp] theorem State.putP_regions (s : State) (d : BitVec 4) (v : Bool) : (s.putP d v).regions = s.regions := rfl
@[simp] theorem State.putP_owed (s : State) (d : BitVec 4) (v : Bool) : (s.putP d v).owed = s.owed := rfl
@[simp] theorem State.putP_copies (s : State) (d : BitVec 4) (v : Bool) : (s.putP d v).copies = s.copies := rfl
@[simp] theorem State.putP_ktm (s : State) (d : BitVec 4) (v : Bool) : (s.putP d v).ktm = s.ktm := rfl
@[simp] theorem State.putP_slots (s : State) (d : BitVec 4) (v : Bool) : (s.putP d v).slots = s.slots := rfl
@[simp] theorem State.putP_handles (s : State) (d : BitVec 4) (v : Bool) : (s.putP d v).handles = s.handles := rfl
@[simp] theorem State.putP_cbars (s : State) (d : BitVec 4) (v : Bool) : (s.putP d v).cbars = s.cbars := rfl
@[simp] theorem State.putP_rings (s : State) (d : BitVec 4) (v : Bool) : (s.putP d v).rings = s.rings := rfl
@[simp] theorem State.putP_sbars (s : State) (d : BitVec 4) (v : Bool) : (s.putP d v).sbars = s.sbars := rfl
@[simp] theorem State.putP_atomo (s : State) (d : BitVec 4) (v : Bool) : (s.putP d v).atomo = s.atomo := rfl
@[simp] theorem State.putP_refused (s : State) (d : BitVec 4) (v : Bool) : (s.putP d v).refused = s.refused := rfl
@[simp] theorem State.putP_atomLines (s : State) (d : BitVec 4) (v : Bool) : (s.putP d v).atomLines = s.atomLines := rfl
@[simp] theorem State.putP_dies (s : State) (d : BitVec 4) (v : Bool) : (s.putP d v).dies = s.dies := rfl
@[simp] theorem State.putP_ports (s : State) (d : BitVec 4) (v : Bool) : (s.putP d v).ports = s.ports := rfl
@[simp] theorem State.putP_dports (s : State) (d : BitVec 4) (v : Bool) : (s.putP d v).dports = s.dports := rfl
@[simp] theorem State.putP_packets (s : State) (d : BitVec 4) (v : Bool) : (s.putP d v).packets = s.packets := rfl
@[simp] theorem State.putP_routers (s : State) (d : BitVec 4) (v : Bool) : (s.putP d v).routers = s.routers := rfl
@[simp] theorem State.putP_pairs (s : State) (d : BitVec 4) (v : Bool) : (s.putP d v).pairs = s.pairs := rfl
@[simp] theorem State.putP_routes (s : State) (d : BitVec 4) (v : Bool) : (s.putP d v).routes = s.routes := rfl
@[simp] theorem State.putP_ctxs (s : State) (d : BitVec 4) (v : Bool) : (s.putP d v).ctxs = s.ctxs := rfl
@[simp] theorem State.putP_nodes (s : State) (d : BitVec 4) (v : Bool) : (s.putP d v).nodes = s.nodes := rfl
@[simp] theorem State.putP_gangs (s : State) (d : BitVec 4) (v : Bool) : (s.putP d v).gangs = s.gangs := rfl
@[simp] theorem State.putP_nextGang (s : State) (d : BitVec 4) (v : Bool) : (s.putP d v).nextGang = s.nextGang := rfl
@[simp] theorem State.putP_nextThread (s : State) (d : BitVec 4) (v : Bool) : (s.putP d v).nextThread = s.nextThread := rfl
@[simp] theorem State.putP_tasks (s : State) (d : BitVec 4) (v : Bool) : (s.putP d v).tasks = s.tasks := rfl
@[simp] theorem State.putP_nextTask (s : State) (d : BitVec 4) (v : Bool) : (s.putP d v).nextTask = s.nextTask := rfl
@[simp] theorem State.putP_parkWaits (s : State) (d : BitVec 4) (v : Bool) : (s.putP d v).parkWaits = s.parkWaits := rfl
@[simp] theorem State.putP_shoots (s : State) (d : BitVec 4) (v : Bool) : (s.putP d v).shoots = s.shoots := rfl
@[simp] theorem State.putP_queues (s : State) (d : BitVec 4) (v : Bool) : (s.putP d v).queues = s.queues := rfl
@[simp] theorem State.putP_admin (s : State) (d : BitVec 4) (v : Bool) : (s.putP d v).admin = s.admin := rfl
@[simp] theorem State.putP_signals (s : State) (d : BitVec 4) (v : Bool) : (s.putP d v).signals = s.signals := rfl
@[simp] theorem State.putP_sbOut (s : State) (d : BitVec 4) (v : Bool) : (s.putP d v).sbOut = s.sbOut := rfl

/-! ## `State.setDie` replaces the record of a die -/

@[simp] theorem State.setDie_clk (s : State) (d : Nat) (f : Die → Die) : (s.setDie d f).clk = s.clk := rfl
@[simp] theorem State.setDie_agenda (s : State) (d : Nat) (f : Die → Die) : (s.setDie d f).agenda = s.agenda := rfl
@[simp] theorem State.setDie_cur (s : State) (d : Nat) (f : Die → Die) : (s.setDie d f).cur = s.cur := rfl
@[simp] theorem State.setDie_bgTurn (s : State) (d : Nat) (f : Die → Die) : (s.setDie d f).bgTurn = s.bgTurn := rfl
@[simp] theorem State.setDie_choice (s : State) (d : Nat) (f : Die → Die) : (s.setDie d f).choice = s.choice := rfl
@[simp] theorem State.setDie_freeCtr (s : State) (d : Nat) (f : Die → Die) : (s.setDie d f).freeCtr = s.freeCtr := rfl
@[simp] theorem State.setDie_pkgid (s : State) (d : Nat) (f : Die → Die) : (s.setDie d f).pkgid = s.pkgid := rfl
@[simp] theorem State.setDie_plimitX (s : State) (d : Nat) (f : Die → Die) : (s.setDie d f).plimitX = s.plimitX := rfl
@[simp] theorem State.setDie_period (s : State) (d : Nat) (f : Die → Die) : (s.setDie d f).period = s.period := rfl
@[simp] theorem State.setDie_mem (s : State) (d : Nat) (f : Die → Die) : (s.setDie d f).mem = s.mem := rfl
@[simp] theorem State.setDie_poison (s : State) (d : Nat) (f : Die → Die) : (s.setDie d f).poison = s.poison := rfl
@[simp] theorem State.setDie_hostMem (s : State) (d : Nat) (f : Die → Die) : (s.setDie d f).hostMem = s.hostMem := rfl
@[simp] theorem State.setDie_rdc (s : State) (d : Nat) (f : Die → Die) : (s.setDie d f).rdc = s.rdc := rfl
@[simp] theorem State.setDie_llc (s : State) (d : Nat) (f : Die → Die) : (s.setDie d f).llc = s.llc := rfl
@[simp] theorem State.setDie_posted (s : State) (d : Nat) (f : Die → Die) : (s.setDie d f).posted = s.posted := rfl
@[simp] theorem State.setDie_spad (s : State) (d : Nat) (f : Die → Die) : (s.setDie d f).spad = s.spad := rfl
@[simp] theorem State.setDie_spoison (s : State) (d : Nat) (f : Die → Die) : (s.setDie d f).spoison = s.spoison := rfl
@[simp] theorem State.setDie_spend (s : State) (d : Nat) (f : Die → Die) : (s.setDie d f).spend = s.spend := rfl
@[simp] theorem State.setDie_landed (s : State) (d : Nat) (f : Die → Die) : (s.setDie d f).landed = s.landed := rfl
@[simp] theorem State.setDie_pbits (s : State) (d : Nat) (f : Die → Die) : (s.setDie d f).pbits = s.pbits := rfl
@[simp] theorem State.setDie_tlb (s : State) (d : Nat) (f : Die → Die) : (s.setDie d f).tlb = s.tlb := rfl
@[simp] theorem State.setDie_regions (s : State) (d : Nat) (f : Die → Die) : (s.setDie d f).regions = s.regions := rfl
@[simp] theorem State.setDie_owed (s : State) (d : Nat) (f : Die → Die) : (s.setDie d f).owed = s.owed := rfl
@[simp] theorem State.setDie_copies (s : State) (d : Nat) (f : Die → Die) : (s.setDie d f).copies = s.copies := rfl
@[simp] theorem State.setDie_ktm (s : State) (d : Nat) (f : Die → Die) : (s.setDie d f).ktm = s.ktm := rfl
@[simp] theorem State.setDie_slots (s : State) (d : Nat) (f : Die → Die) : (s.setDie d f).slots = s.slots := rfl
@[simp] theorem State.setDie_handles (s : State) (d : Nat) (f : Die → Die) : (s.setDie d f).handles = s.handles := rfl
@[simp] theorem State.setDie_cbars (s : State) (d : Nat) (f : Die → Die) : (s.setDie d f).cbars = s.cbars := rfl
@[simp] theorem State.setDie_rings (s : State) (d : Nat) (f : Die → Die) : (s.setDie d f).rings = s.rings := rfl
@[simp] theorem State.setDie_sbars (s : State) (d : Nat) (f : Die → Die) : (s.setDie d f).sbars = s.sbars := rfl
@[simp] theorem State.setDie_atomo (s : State) (d : Nat) (f : Die → Die) : (s.setDie d f).atomo = s.atomo := rfl
@[simp] theorem State.setDie_refused (s : State) (d : Nat) (f : Die → Die) : (s.setDie d f).refused = s.refused := rfl
@[simp] theorem State.setDie_atomLines (s : State) (d : Nat) (f : Die → Die) : (s.setDie d f).atomLines = s.atomLines := rfl
@[simp] theorem State.setDie_ports (s : State) (d : Nat) (f : Die → Die) : (s.setDie d f).ports = s.ports := rfl
@[simp] theorem State.setDie_dports (s : State) (d : Nat) (f : Die → Die) : (s.setDie d f).dports = s.dports := rfl
@[simp] theorem State.setDie_packets (s : State) (d : Nat) (f : Die → Die) : (s.setDie d f).packets = s.packets := rfl
@[simp] theorem State.setDie_routers (s : State) (d : Nat) (f : Die → Die) : (s.setDie d f).routers = s.routers := rfl
@[simp] theorem State.setDie_pairs (s : State) (d : Nat) (f : Die → Die) : (s.setDie d f).pairs = s.pairs := rfl
@[simp] theorem State.setDie_routes (s : State) (d : Nat) (f : Die → Die) : (s.setDie d f).routes = s.routes := rfl
@[simp] theorem State.setDie_ctxs (s : State) (d : Nat) (f : Die → Die) : (s.setDie d f).ctxs = s.ctxs := rfl
@[simp] theorem State.setDie_nodes (s : State) (d : Nat) (f : Die → Die) : (s.setDie d f).nodes = s.nodes := rfl
@[simp] theorem State.setDie_gangs (s : State) (d : Nat) (f : Die → Die) : (s.setDie d f).gangs = s.gangs := rfl
@[simp] theorem State.setDie_threads (s : State) (d : Nat) (f : Die → Die) : (s.setDie d f).threads = s.threads := rfl
@[simp] theorem State.setDie_nextGang (s : State) (d : Nat) (f : Die → Die) : (s.setDie d f).nextGang = s.nextGang := rfl
@[simp] theorem State.setDie_nextThread (s : State) (d : Nat) (f : Die → Die) : (s.setDie d f).nextThread = s.nextThread := rfl
@[simp] theorem State.setDie_tasks (s : State) (d : Nat) (f : Die → Die) : (s.setDie d f).tasks = s.tasks := rfl
@[simp] theorem State.setDie_nextTask (s : State) (d : Nat) (f : Die → Die) : (s.setDie d f).nextTask = s.nextTask := rfl
@[simp] theorem State.setDie_parkWaits (s : State) (d : Nat) (f : Die → Die) : (s.setDie d f).parkWaits = s.parkWaits := rfl
@[simp] theorem State.setDie_shoots (s : State) (d : Nat) (f : Die → Die) : (s.setDie d f).shoots = s.shoots := rfl
@[simp] theorem State.setDie_queues (s : State) (d : Nat) (f : Die → Die) : (s.setDie d f).queues = s.queues := rfl
@[simp] theorem State.setDie_admin (s : State) (d : Nat) (f : Die → Die) : (s.setDie d f).admin = s.admin := rfl
@[simp] theorem State.setDie_signals (s : State) (d : Nat) (f : Die → Die) : (s.setDie d f).signals = s.signals := rfl
@[simp] theorem State.setDie_sbOut (s : State) (d : Nat) (f : Die → Die) : (s.setDie d f).sbOut = s.sbOut := rfl

/-! ## `State.modNode` replaces the record of a node -/

@[simp] theorem State.modNode_clk (s : State) (n : Nat) (f : Node → Node) : (s.modNode n f).clk = s.clk := rfl
@[simp] theorem State.modNode_agenda (s : State) (n : Nat) (f : Node → Node) : (s.modNode n f).agenda = s.agenda := rfl
@[simp] theorem State.modNode_cur (s : State) (n : Nat) (f : Node → Node) : (s.modNode n f).cur = s.cur := rfl
@[simp] theorem State.modNode_bgTurn (s : State) (n : Nat) (f : Node → Node) : (s.modNode n f).bgTurn = s.bgTurn := rfl
@[simp] theorem State.modNode_choice (s : State) (n : Nat) (f : Node → Node) : (s.modNode n f).choice = s.choice := rfl
@[simp] theorem State.modNode_freeCtr (s : State) (n : Nat) (f : Node → Node) : (s.modNode n f).freeCtr = s.freeCtr := rfl
@[simp] theorem State.modNode_pkgid (s : State) (n : Nat) (f : Node → Node) : (s.modNode n f).pkgid = s.pkgid := rfl
@[simp] theorem State.modNode_plimitX (s : State) (n : Nat) (f : Node → Node) : (s.modNode n f).plimitX = s.plimitX := rfl
@[simp] theorem State.modNode_period (s : State) (n : Nat) (f : Node → Node) : (s.modNode n f).period = s.period := rfl
@[simp] theorem State.modNode_mem (s : State) (n : Nat) (f : Node → Node) : (s.modNode n f).mem = s.mem := rfl
@[simp] theorem State.modNode_poison (s : State) (n : Nat) (f : Node → Node) : (s.modNode n f).poison = s.poison := rfl
@[simp] theorem State.modNode_hostMem (s : State) (n : Nat) (f : Node → Node) : (s.modNode n f).hostMem = s.hostMem := rfl
@[simp] theorem State.modNode_rdc (s : State) (n : Nat) (f : Node → Node) : (s.modNode n f).rdc = s.rdc := rfl
@[simp] theorem State.modNode_llc (s : State) (n : Nat) (f : Node → Node) : (s.modNode n f).llc = s.llc := rfl
@[simp] theorem State.modNode_posted (s : State) (n : Nat) (f : Node → Node) : (s.modNode n f).posted = s.posted := rfl
@[simp] theorem State.modNode_spad (s : State) (n : Nat) (f : Node → Node) : (s.modNode n f).spad = s.spad := rfl
@[simp] theorem State.modNode_spoison (s : State) (n : Nat) (f : Node → Node) : (s.modNode n f).spoison = s.spoison := rfl
@[simp] theorem State.modNode_spend (s : State) (n : Nat) (f : Node → Node) : (s.modNode n f).spend = s.spend := rfl
@[simp] theorem State.modNode_landed (s : State) (n : Nat) (f : Node → Node) : (s.modNode n f).landed = s.landed := rfl
@[simp] theorem State.modNode_pbits (s : State) (n : Nat) (f : Node → Node) : (s.modNode n f).pbits = s.pbits := rfl
@[simp] theorem State.modNode_tlb (s : State) (n : Nat) (f : Node → Node) : (s.modNode n f).tlb = s.tlb := rfl
@[simp] theorem State.modNode_regions (s : State) (n : Nat) (f : Node → Node) : (s.modNode n f).regions = s.regions := rfl
@[simp] theorem State.modNode_owed (s : State) (n : Nat) (f : Node → Node) : (s.modNode n f).owed = s.owed := rfl
@[simp] theorem State.modNode_copies (s : State) (n : Nat) (f : Node → Node) : (s.modNode n f).copies = s.copies := rfl
@[simp] theorem State.modNode_ktm (s : State) (n : Nat) (f : Node → Node) : (s.modNode n f).ktm = s.ktm := rfl
@[simp] theorem State.modNode_slots (s : State) (n : Nat) (f : Node → Node) : (s.modNode n f).slots = s.slots := rfl
@[simp] theorem State.modNode_handles (s : State) (n : Nat) (f : Node → Node) : (s.modNode n f).handles = s.handles := rfl
@[simp] theorem State.modNode_cbars (s : State) (n : Nat) (f : Node → Node) : (s.modNode n f).cbars = s.cbars := rfl
@[simp] theorem State.modNode_rings (s : State) (n : Nat) (f : Node → Node) : (s.modNode n f).rings = s.rings := rfl
@[simp] theorem State.modNode_sbars (s : State) (n : Nat) (f : Node → Node) : (s.modNode n f).sbars = s.sbars := rfl
@[simp] theorem State.modNode_atomo (s : State) (n : Nat) (f : Node → Node) : (s.modNode n f).atomo = s.atomo := rfl
@[simp] theorem State.modNode_refused (s : State) (n : Nat) (f : Node → Node) : (s.modNode n f).refused = s.refused := rfl
@[simp] theorem State.modNode_atomLines (s : State) (n : Nat) (f : Node → Node) : (s.modNode n f).atomLines = s.atomLines := rfl
@[simp] theorem State.modNode_dies (s : State) (n : Nat) (f : Node → Node) : (s.modNode n f).dies = s.dies := rfl
@[simp] theorem State.modNode_ports (s : State) (n : Nat) (f : Node → Node) : (s.modNode n f).ports = s.ports := rfl
@[simp] theorem State.modNode_dports (s : State) (n : Nat) (f : Node → Node) : (s.modNode n f).dports = s.dports := rfl
@[simp] theorem State.modNode_packets (s : State) (n : Nat) (f : Node → Node) : (s.modNode n f).packets = s.packets := rfl
@[simp] theorem State.modNode_routers (s : State) (n : Nat) (f : Node → Node) : (s.modNode n f).routers = s.routers := rfl
@[simp] theorem State.modNode_pairs (s : State) (n : Nat) (f : Node → Node) : (s.modNode n f).pairs = s.pairs := rfl
@[simp] theorem State.modNode_routes (s : State) (n : Nat) (f : Node → Node) : (s.modNode n f).routes = s.routes := rfl
@[simp] theorem State.modNode_ctxs (s : State) (n : Nat) (f : Node → Node) : (s.modNode n f).ctxs = s.ctxs := rfl
@[simp] theorem State.modNode_gangs (s : State) (n : Nat) (f : Node → Node) : (s.modNode n f).gangs = s.gangs := rfl
@[simp] theorem State.modNode_threads (s : State) (n : Nat) (f : Node → Node) : (s.modNode n f).threads = s.threads := rfl
@[simp] theorem State.modNode_nextGang (s : State) (n : Nat) (f : Node → Node) : (s.modNode n f).nextGang = s.nextGang := rfl
@[simp] theorem State.modNode_nextThread (s : State) (n : Nat) (f : Node → Node) : (s.modNode n f).nextThread = s.nextThread := rfl
@[simp] theorem State.modNode_tasks (s : State) (n : Nat) (f : Node → Node) : (s.modNode n f).tasks = s.tasks := rfl
@[simp] theorem State.modNode_nextTask (s : State) (n : Nat) (f : Node → Node) : (s.modNode n f).nextTask = s.nextTask := rfl
@[simp] theorem State.modNode_parkWaits (s : State) (n : Nat) (f : Node → Node) : (s.modNode n f).parkWaits = s.parkWaits := rfl
@[simp] theorem State.modNode_shoots (s : State) (n : Nat) (f : Node → Node) : (s.modNode n f).shoots = s.shoots := rfl
@[simp] theorem State.modNode_queues (s : State) (n : Nat) (f : Node → Node) : (s.modNode n f).queues = s.queues := rfl
@[simp] theorem State.modNode_admin (s : State) (n : Nat) (f : Node → Node) : (s.modNode n f).admin = s.admin := rfl
@[simp] theorem State.modNode_signals (s : State) (n : Nat) (f : Node → Node) : (s.modNode n f).signals = s.signals := rfl
@[simp] theorem State.modNode_sbOut (s : State) (n : Nat) (f : Node → Node) : (s.modNode n f).sbOut = s.sbOut := rfl

/-! ## `State.modGang` replaces the record of a gang -/

@[simp] theorem State.modGang_clk (s : State) (g : Nat) (f : Gang → Gang) : (s.modGang g f).clk = s.clk := rfl
@[simp] theorem State.modGang_agenda (s : State) (g : Nat) (f : Gang → Gang) : (s.modGang g f).agenda = s.agenda := rfl
@[simp] theorem State.modGang_cur (s : State) (g : Nat) (f : Gang → Gang) : (s.modGang g f).cur = s.cur := rfl
@[simp] theorem State.modGang_bgTurn (s : State) (g : Nat) (f : Gang → Gang) : (s.modGang g f).bgTurn = s.bgTurn := rfl
@[simp] theorem State.modGang_choice (s : State) (g : Nat) (f : Gang → Gang) : (s.modGang g f).choice = s.choice := rfl
@[simp] theorem State.modGang_freeCtr (s : State) (g : Nat) (f : Gang → Gang) : (s.modGang g f).freeCtr = s.freeCtr := rfl
@[simp] theorem State.modGang_pkgid (s : State) (g : Nat) (f : Gang → Gang) : (s.modGang g f).pkgid = s.pkgid := rfl
@[simp] theorem State.modGang_plimitX (s : State) (g : Nat) (f : Gang → Gang) : (s.modGang g f).plimitX = s.plimitX := rfl
@[simp] theorem State.modGang_period (s : State) (g : Nat) (f : Gang → Gang) : (s.modGang g f).period = s.period := rfl
@[simp] theorem State.modGang_mem (s : State) (g : Nat) (f : Gang → Gang) : (s.modGang g f).mem = s.mem := rfl
@[simp] theorem State.modGang_poison (s : State) (g : Nat) (f : Gang → Gang) : (s.modGang g f).poison = s.poison := rfl
@[simp] theorem State.modGang_hostMem (s : State) (g : Nat) (f : Gang → Gang) : (s.modGang g f).hostMem = s.hostMem := rfl
@[simp] theorem State.modGang_rdc (s : State) (g : Nat) (f : Gang → Gang) : (s.modGang g f).rdc = s.rdc := rfl
@[simp] theorem State.modGang_llc (s : State) (g : Nat) (f : Gang → Gang) : (s.modGang g f).llc = s.llc := rfl
@[simp] theorem State.modGang_posted (s : State) (g : Nat) (f : Gang → Gang) : (s.modGang g f).posted = s.posted := rfl
@[simp] theorem State.modGang_spad (s : State) (g : Nat) (f : Gang → Gang) : (s.modGang g f).spad = s.spad := rfl
@[simp] theorem State.modGang_spoison (s : State) (g : Nat) (f : Gang → Gang) : (s.modGang g f).spoison = s.spoison := rfl
@[simp] theorem State.modGang_spend (s : State) (g : Nat) (f : Gang → Gang) : (s.modGang g f).spend = s.spend := rfl
@[simp] theorem State.modGang_landed (s : State) (g : Nat) (f : Gang → Gang) : (s.modGang g f).landed = s.landed := rfl
@[simp] theorem State.modGang_pbits (s : State) (g : Nat) (f : Gang → Gang) : (s.modGang g f).pbits = s.pbits := rfl
@[simp] theorem State.modGang_tlb (s : State) (g : Nat) (f : Gang → Gang) : (s.modGang g f).tlb = s.tlb := rfl
@[simp] theorem State.modGang_regions (s : State) (g : Nat) (f : Gang → Gang) : (s.modGang g f).regions = s.regions := rfl
@[simp] theorem State.modGang_owed (s : State) (g : Nat) (f : Gang → Gang) : (s.modGang g f).owed = s.owed := rfl
@[simp] theorem State.modGang_copies (s : State) (g : Nat) (f : Gang → Gang) : (s.modGang g f).copies = s.copies := rfl
@[simp] theorem State.modGang_ktm (s : State) (g : Nat) (f : Gang → Gang) : (s.modGang g f).ktm = s.ktm := rfl
@[simp] theorem State.modGang_slots (s : State) (g : Nat) (f : Gang → Gang) : (s.modGang g f).slots = s.slots := rfl
@[simp] theorem State.modGang_handles (s : State) (g : Nat) (f : Gang → Gang) : (s.modGang g f).handles = s.handles := rfl
@[simp] theorem State.modGang_cbars (s : State) (g : Nat) (f : Gang → Gang) : (s.modGang g f).cbars = s.cbars := rfl
@[simp] theorem State.modGang_rings (s : State) (g : Nat) (f : Gang → Gang) : (s.modGang g f).rings = s.rings := rfl
@[simp] theorem State.modGang_sbars (s : State) (g : Nat) (f : Gang → Gang) : (s.modGang g f).sbars = s.sbars := rfl
@[simp] theorem State.modGang_atomo (s : State) (g : Nat) (f : Gang → Gang) : (s.modGang g f).atomo = s.atomo := rfl
@[simp] theorem State.modGang_refused (s : State) (g : Nat) (f : Gang → Gang) : (s.modGang g f).refused = s.refused := rfl
@[simp] theorem State.modGang_atomLines (s : State) (g : Nat) (f : Gang → Gang) : (s.modGang g f).atomLines = s.atomLines := rfl
@[simp] theorem State.modGang_dies (s : State) (g : Nat) (f : Gang → Gang) : (s.modGang g f).dies = s.dies := rfl
@[simp] theorem State.modGang_ports (s : State) (g : Nat) (f : Gang → Gang) : (s.modGang g f).ports = s.ports := rfl
@[simp] theorem State.modGang_dports (s : State) (g : Nat) (f : Gang → Gang) : (s.modGang g f).dports = s.dports := rfl
@[simp] theorem State.modGang_packets (s : State) (g : Nat) (f : Gang → Gang) : (s.modGang g f).packets = s.packets := rfl
@[simp] theorem State.modGang_routers (s : State) (g : Nat) (f : Gang → Gang) : (s.modGang g f).routers = s.routers := rfl
@[simp] theorem State.modGang_pairs (s : State) (g : Nat) (f : Gang → Gang) : (s.modGang g f).pairs = s.pairs := rfl
@[simp] theorem State.modGang_routes (s : State) (g : Nat) (f : Gang → Gang) : (s.modGang g f).routes = s.routes := rfl
@[simp] theorem State.modGang_ctxs (s : State) (g : Nat) (f : Gang → Gang) : (s.modGang g f).ctxs = s.ctxs := rfl
@[simp] theorem State.modGang_nodes (s : State) (g : Nat) (f : Gang → Gang) : (s.modGang g f).nodes = s.nodes := rfl
@[simp] theorem State.modGang_threads (s : State) (g : Nat) (f : Gang → Gang) : (s.modGang g f).threads = s.threads := rfl
@[simp] theorem State.modGang_nextGang (s : State) (g : Nat) (f : Gang → Gang) : (s.modGang g f).nextGang = s.nextGang := rfl
@[simp] theorem State.modGang_nextThread (s : State) (g : Nat) (f : Gang → Gang) : (s.modGang g f).nextThread = s.nextThread := rfl
@[simp] theorem State.modGang_tasks (s : State) (g : Nat) (f : Gang → Gang) : (s.modGang g f).tasks = s.tasks := rfl
@[simp] theorem State.modGang_nextTask (s : State) (g : Nat) (f : Gang → Gang) : (s.modGang g f).nextTask = s.nextTask := rfl
@[simp] theorem State.modGang_parkWaits (s : State) (g : Nat) (f : Gang → Gang) : (s.modGang g f).parkWaits = s.parkWaits := rfl
@[simp] theorem State.modGang_shoots (s : State) (g : Nat) (f : Gang → Gang) : (s.modGang g f).shoots = s.shoots := rfl
@[simp] theorem State.modGang_queues (s : State) (g : Nat) (f : Gang → Gang) : (s.modGang g f).queues = s.queues := rfl
@[simp] theorem State.modGang_admin (s : State) (g : Nat) (f : Gang → Gang) : (s.modGang g f).admin = s.admin := rfl
@[simp] theorem State.modGang_signals (s : State) (g : Nat) (f : Gang → Gang) : (s.modGang g f).signals = s.signals := rfl
@[simp] theorem State.modGang_sbOut (s : State) (g : Nat) (f : Gang → Gang) : (s.modGang g f).sbOut = s.sbOut := rfl

/-! ## `State.modCtx` replaces the record of a context -/

@[simp] theorem State.modCtx_clk (s : State) (c : Nat) (f : Ctx → Ctx) : (s.modCtx c f).clk = s.clk := rfl
@[simp] theorem State.modCtx_agenda (s : State) (c : Nat) (f : Ctx → Ctx) : (s.modCtx c f).agenda = s.agenda := rfl
@[simp] theorem State.modCtx_cur (s : State) (c : Nat) (f : Ctx → Ctx) : (s.modCtx c f).cur = s.cur := rfl
@[simp] theorem State.modCtx_bgTurn (s : State) (c : Nat) (f : Ctx → Ctx) : (s.modCtx c f).bgTurn = s.bgTurn := rfl
@[simp] theorem State.modCtx_choice (s : State) (c : Nat) (f : Ctx → Ctx) : (s.modCtx c f).choice = s.choice := rfl
@[simp] theorem State.modCtx_freeCtr (s : State) (c : Nat) (f : Ctx → Ctx) : (s.modCtx c f).freeCtr = s.freeCtr := rfl
@[simp] theorem State.modCtx_pkgid (s : State) (c : Nat) (f : Ctx → Ctx) : (s.modCtx c f).pkgid = s.pkgid := rfl
@[simp] theorem State.modCtx_plimitX (s : State) (c : Nat) (f : Ctx → Ctx) : (s.modCtx c f).plimitX = s.plimitX := rfl
@[simp] theorem State.modCtx_period (s : State) (c : Nat) (f : Ctx → Ctx) : (s.modCtx c f).period = s.period := rfl
@[simp] theorem State.modCtx_mem (s : State) (c : Nat) (f : Ctx → Ctx) : (s.modCtx c f).mem = s.mem := rfl
@[simp] theorem State.modCtx_poison (s : State) (c : Nat) (f : Ctx → Ctx) : (s.modCtx c f).poison = s.poison := rfl
@[simp] theorem State.modCtx_hostMem (s : State) (c : Nat) (f : Ctx → Ctx) : (s.modCtx c f).hostMem = s.hostMem := rfl
@[simp] theorem State.modCtx_rdc (s : State) (c : Nat) (f : Ctx → Ctx) : (s.modCtx c f).rdc = s.rdc := rfl
@[simp] theorem State.modCtx_llc (s : State) (c : Nat) (f : Ctx → Ctx) : (s.modCtx c f).llc = s.llc := rfl
@[simp] theorem State.modCtx_posted (s : State) (c : Nat) (f : Ctx → Ctx) : (s.modCtx c f).posted = s.posted := rfl
@[simp] theorem State.modCtx_spad (s : State) (c : Nat) (f : Ctx → Ctx) : (s.modCtx c f).spad = s.spad := rfl
@[simp] theorem State.modCtx_spoison (s : State) (c : Nat) (f : Ctx → Ctx) : (s.modCtx c f).spoison = s.spoison := rfl
@[simp] theorem State.modCtx_spend (s : State) (c : Nat) (f : Ctx → Ctx) : (s.modCtx c f).spend = s.spend := rfl
@[simp] theorem State.modCtx_landed (s : State) (c : Nat) (f : Ctx → Ctx) : (s.modCtx c f).landed = s.landed := rfl
@[simp] theorem State.modCtx_pbits (s : State) (c : Nat) (f : Ctx → Ctx) : (s.modCtx c f).pbits = s.pbits := rfl
@[simp] theorem State.modCtx_tlb (s : State) (c : Nat) (f : Ctx → Ctx) : (s.modCtx c f).tlb = s.tlb := rfl
@[simp] theorem State.modCtx_regions (s : State) (c : Nat) (f : Ctx → Ctx) : (s.modCtx c f).regions = s.regions := rfl
@[simp] theorem State.modCtx_owed (s : State) (c : Nat) (f : Ctx → Ctx) : (s.modCtx c f).owed = s.owed := rfl
@[simp] theorem State.modCtx_copies (s : State) (c : Nat) (f : Ctx → Ctx) : (s.modCtx c f).copies = s.copies := rfl
@[simp] theorem State.modCtx_ktm (s : State) (c : Nat) (f : Ctx → Ctx) : (s.modCtx c f).ktm = s.ktm := rfl
@[simp] theorem State.modCtx_slots (s : State) (c : Nat) (f : Ctx → Ctx) : (s.modCtx c f).slots = s.slots := rfl
@[simp] theorem State.modCtx_handles (s : State) (c : Nat) (f : Ctx → Ctx) : (s.modCtx c f).handles = s.handles := rfl
@[simp] theorem State.modCtx_cbars (s : State) (c : Nat) (f : Ctx → Ctx) : (s.modCtx c f).cbars = s.cbars := rfl
@[simp] theorem State.modCtx_rings (s : State) (c : Nat) (f : Ctx → Ctx) : (s.modCtx c f).rings = s.rings := rfl
@[simp] theorem State.modCtx_sbars (s : State) (c : Nat) (f : Ctx → Ctx) : (s.modCtx c f).sbars = s.sbars := rfl
@[simp] theorem State.modCtx_atomo (s : State) (c : Nat) (f : Ctx → Ctx) : (s.modCtx c f).atomo = s.atomo := rfl
@[simp] theorem State.modCtx_refused (s : State) (c : Nat) (f : Ctx → Ctx) : (s.modCtx c f).refused = s.refused := rfl
@[simp] theorem State.modCtx_atomLines (s : State) (c : Nat) (f : Ctx → Ctx) : (s.modCtx c f).atomLines = s.atomLines := rfl
@[simp] theorem State.modCtx_dies (s : State) (c : Nat) (f : Ctx → Ctx) : (s.modCtx c f).dies = s.dies := rfl
@[simp] theorem State.modCtx_ports (s : State) (c : Nat) (f : Ctx → Ctx) : (s.modCtx c f).ports = s.ports := rfl
@[simp] theorem State.modCtx_dports (s : State) (c : Nat) (f : Ctx → Ctx) : (s.modCtx c f).dports = s.dports := rfl
@[simp] theorem State.modCtx_packets (s : State) (c : Nat) (f : Ctx → Ctx) : (s.modCtx c f).packets = s.packets := rfl
@[simp] theorem State.modCtx_routers (s : State) (c : Nat) (f : Ctx → Ctx) : (s.modCtx c f).routers = s.routers := rfl
@[simp] theorem State.modCtx_pairs (s : State) (c : Nat) (f : Ctx → Ctx) : (s.modCtx c f).pairs = s.pairs := rfl
@[simp] theorem State.modCtx_routes (s : State) (c : Nat) (f : Ctx → Ctx) : (s.modCtx c f).routes = s.routes := rfl
@[simp] theorem State.modCtx_nodes (s : State) (c : Nat) (f : Ctx → Ctx) : (s.modCtx c f).nodes = s.nodes := rfl
@[simp] theorem State.modCtx_gangs (s : State) (c : Nat) (f : Ctx → Ctx) : (s.modCtx c f).gangs = s.gangs := rfl
@[simp] theorem State.modCtx_threads (s : State) (c : Nat) (f : Ctx → Ctx) : (s.modCtx c f).threads = s.threads := rfl
@[simp] theorem State.modCtx_nextGang (s : State) (c : Nat) (f : Ctx → Ctx) : (s.modCtx c f).nextGang = s.nextGang := rfl
@[simp] theorem State.modCtx_nextThread (s : State) (c : Nat) (f : Ctx → Ctx) : (s.modCtx c f).nextThread = s.nextThread := rfl
@[simp] theorem State.modCtx_tasks (s : State) (c : Nat) (f : Ctx → Ctx) : (s.modCtx c f).tasks = s.tasks := rfl
@[simp] theorem State.modCtx_nextTask (s : State) (c : Nat) (f : Ctx → Ctx) : (s.modCtx c f).nextTask = s.nextTask := rfl
@[simp] theorem State.modCtx_parkWaits (s : State) (c : Nat) (f : Ctx → Ctx) : (s.modCtx c f).parkWaits = s.parkWaits := rfl
@[simp] theorem State.modCtx_shoots (s : State) (c : Nat) (f : Ctx → Ctx) : (s.modCtx c f).shoots = s.shoots := rfl
@[simp] theorem State.modCtx_queues (s : State) (c : Nat) (f : Ctx → Ctx) : (s.modCtx c f).queues = s.queues := rfl
@[simp] theorem State.modCtx_admin (s : State) (c : Nat) (f : Ctx → Ctx) : (s.modCtx c f).admin = s.admin := rfl
@[simp] theorem State.modCtx_signals (s : State) (c : Nat) (f : Ctx → Ctx) : (s.modCtx c f).signals = s.signals := rfl
@[simp] theorem State.modCtx_sbOut (s : State) (c : Nat) (f : Ctx → Ctx) : (s.modCtx c f).sbOut = s.sbOut := rfl

/-! ## `State.setHandle` replaces a buffer handle -/

@[simp] theorem State.setHandle_clk (s : State) (c h : Nat) (f : Handle → Handle) : (s.setHandle c h f).clk = s.clk := rfl
@[simp] theorem State.setHandle_agenda (s : State) (c h : Nat) (f : Handle → Handle) : (s.setHandle c h f).agenda = s.agenda := rfl
@[simp] theorem State.setHandle_cur (s : State) (c h : Nat) (f : Handle → Handle) : (s.setHandle c h f).cur = s.cur := rfl
@[simp] theorem State.setHandle_bgTurn (s : State) (c h : Nat) (f : Handle → Handle) : (s.setHandle c h f).bgTurn = s.bgTurn := rfl
@[simp] theorem State.setHandle_choice (s : State) (c h : Nat) (f : Handle → Handle) : (s.setHandle c h f).choice = s.choice := rfl
@[simp] theorem State.setHandle_freeCtr (s : State) (c h : Nat) (f : Handle → Handle) : (s.setHandle c h f).freeCtr = s.freeCtr := rfl
@[simp] theorem State.setHandle_pkgid (s : State) (c h : Nat) (f : Handle → Handle) : (s.setHandle c h f).pkgid = s.pkgid := rfl
@[simp] theorem State.setHandle_plimitX (s : State) (c h : Nat) (f : Handle → Handle) : (s.setHandle c h f).plimitX = s.plimitX := rfl
@[simp] theorem State.setHandle_period (s : State) (c h : Nat) (f : Handle → Handle) : (s.setHandle c h f).period = s.period := rfl
@[simp] theorem State.setHandle_mem (s : State) (c h : Nat) (f : Handle → Handle) : (s.setHandle c h f).mem = s.mem := rfl
@[simp] theorem State.setHandle_poison (s : State) (c h : Nat) (f : Handle → Handle) : (s.setHandle c h f).poison = s.poison := rfl
@[simp] theorem State.setHandle_hostMem (s : State) (c h : Nat) (f : Handle → Handle) : (s.setHandle c h f).hostMem = s.hostMem := rfl
@[simp] theorem State.setHandle_rdc (s : State) (c h : Nat) (f : Handle → Handle) : (s.setHandle c h f).rdc = s.rdc := rfl
@[simp] theorem State.setHandle_llc (s : State) (c h : Nat) (f : Handle → Handle) : (s.setHandle c h f).llc = s.llc := rfl
@[simp] theorem State.setHandle_posted (s : State) (c h : Nat) (f : Handle → Handle) : (s.setHandle c h f).posted = s.posted := rfl
@[simp] theorem State.setHandle_spad (s : State) (c h : Nat) (f : Handle → Handle) : (s.setHandle c h f).spad = s.spad := rfl
@[simp] theorem State.setHandle_spoison (s : State) (c h : Nat) (f : Handle → Handle) : (s.setHandle c h f).spoison = s.spoison := rfl
@[simp] theorem State.setHandle_spend (s : State) (c h : Nat) (f : Handle → Handle) : (s.setHandle c h f).spend = s.spend := rfl
@[simp] theorem State.setHandle_landed (s : State) (c h : Nat) (f : Handle → Handle) : (s.setHandle c h f).landed = s.landed := rfl
@[simp] theorem State.setHandle_pbits (s : State) (c h : Nat) (f : Handle → Handle) : (s.setHandle c h f).pbits = s.pbits := rfl
@[simp] theorem State.setHandle_tlb (s : State) (c h : Nat) (f : Handle → Handle) : (s.setHandle c h f).tlb = s.tlb := rfl
@[simp] theorem State.setHandle_regions (s : State) (c h : Nat) (f : Handle → Handle) : (s.setHandle c h f).regions = s.regions := rfl
@[simp] theorem State.setHandle_owed (s : State) (c h : Nat) (f : Handle → Handle) : (s.setHandle c h f).owed = s.owed := rfl
@[simp] theorem State.setHandle_copies (s : State) (c h : Nat) (f : Handle → Handle) : (s.setHandle c h f).copies = s.copies := rfl
@[simp] theorem State.setHandle_ktm (s : State) (c h : Nat) (f : Handle → Handle) : (s.setHandle c h f).ktm = s.ktm := rfl
@[simp] theorem State.setHandle_slots (s : State) (c h : Nat) (f : Handle → Handle) : (s.setHandle c h f).slots = s.slots := rfl
@[simp] theorem State.setHandle_cbars (s : State) (c h : Nat) (f : Handle → Handle) : (s.setHandle c h f).cbars = s.cbars := rfl
@[simp] theorem State.setHandle_rings (s : State) (c h : Nat) (f : Handle → Handle) : (s.setHandle c h f).rings = s.rings := rfl
@[simp] theorem State.setHandle_sbars (s : State) (c h : Nat) (f : Handle → Handle) : (s.setHandle c h f).sbars = s.sbars := rfl
@[simp] theorem State.setHandle_atomo (s : State) (c h : Nat) (f : Handle → Handle) : (s.setHandle c h f).atomo = s.atomo := rfl
@[simp] theorem State.setHandle_refused (s : State) (c h : Nat) (f : Handle → Handle) : (s.setHandle c h f).refused = s.refused := rfl
@[simp] theorem State.setHandle_atomLines (s : State) (c h : Nat) (f : Handle → Handle) : (s.setHandle c h f).atomLines = s.atomLines := rfl
@[simp] theorem State.setHandle_dies (s : State) (c h : Nat) (f : Handle → Handle) : (s.setHandle c h f).dies = s.dies := rfl
@[simp] theorem State.setHandle_ports (s : State) (c h : Nat) (f : Handle → Handle) : (s.setHandle c h f).ports = s.ports := rfl
@[simp] theorem State.setHandle_dports (s : State) (c h : Nat) (f : Handle → Handle) : (s.setHandle c h f).dports = s.dports := rfl
@[simp] theorem State.setHandle_packets (s : State) (c h : Nat) (f : Handle → Handle) : (s.setHandle c h f).packets = s.packets := rfl
@[simp] theorem State.setHandle_routers (s : State) (c h : Nat) (f : Handle → Handle) : (s.setHandle c h f).routers = s.routers := rfl
@[simp] theorem State.setHandle_pairs (s : State) (c h : Nat) (f : Handle → Handle) : (s.setHandle c h f).pairs = s.pairs := rfl
@[simp] theorem State.setHandle_routes (s : State) (c h : Nat) (f : Handle → Handle) : (s.setHandle c h f).routes = s.routes := rfl
@[simp] theorem State.setHandle_ctxs (s : State) (c h : Nat) (f : Handle → Handle) : (s.setHandle c h f).ctxs = s.ctxs := rfl
@[simp] theorem State.setHandle_nodes (s : State) (c h : Nat) (f : Handle → Handle) : (s.setHandle c h f).nodes = s.nodes := rfl
@[simp] theorem State.setHandle_gangs (s : State) (c h : Nat) (f : Handle → Handle) : (s.setHandle c h f).gangs = s.gangs := rfl
@[simp] theorem State.setHandle_threads (s : State) (c h : Nat) (f : Handle → Handle) : (s.setHandle c h f).threads = s.threads := rfl
@[simp] theorem State.setHandle_nextGang (s : State) (c h : Nat) (f : Handle → Handle) : (s.setHandle c h f).nextGang = s.nextGang := rfl
@[simp] theorem State.setHandle_nextThread (s : State) (c h : Nat) (f : Handle → Handle) : (s.setHandle c h f).nextThread = s.nextThread := rfl
@[simp] theorem State.setHandle_tasks (s : State) (c h : Nat) (f : Handle → Handle) : (s.setHandle c h f).tasks = s.tasks := rfl
@[simp] theorem State.setHandle_nextTask (s : State) (c h : Nat) (f : Handle → Handle) : (s.setHandle c h f).nextTask = s.nextTask := rfl
@[simp] theorem State.setHandle_parkWaits (s : State) (c h : Nat) (f : Handle → Handle) : (s.setHandle c h f).parkWaits = s.parkWaits := rfl
@[simp] theorem State.setHandle_shoots (s : State) (c h : Nat) (f : Handle → Handle) : (s.setHandle c h f).shoots = s.shoots := rfl
@[simp] theorem State.setHandle_queues (s : State) (c h : Nat) (f : Handle → Handle) : (s.setHandle c h f).queues = s.queues := rfl
@[simp] theorem State.setHandle_admin (s : State) (c h : Nat) (f : Handle → Handle) : (s.setHandle c h f).admin = s.admin := rfl
@[simp] theorem State.setHandle_signals (s : State) (c h : Nat) (f : Handle → Handle) : (s.setHandle c h f).signals = s.signals := rfl
@[simp] theorem State.setHandle_sbOut (s : State) (c h : Nat) (f : Handle → Handle) : (s.setHandle c h f).sbOut = s.sbOut := rfl

/-! ## `State.setTask` replaces a task -/

@[simp] theorem State.setTask_clk (s : State) (k : Nat) (f : Task → Task) : (s.setTask k f).clk = s.clk := rfl
@[simp] theorem State.setTask_agenda (s : State) (k : Nat) (f : Task → Task) : (s.setTask k f).agenda = s.agenda := rfl
@[simp] theorem State.setTask_cur (s : State) (k : Nat) (f : Task → Task) : (s.setTask k f).cur = s.cur := rfl
@[simp] theorem State.setTask_bgTurn (s : State) (k : Nat) (f : Task → Task) : (s.setTask k f).bgTurn = s.bgTurn := rfl
@[simp] theorem State.setTask_choice (s : State) (k : Nat) (f : Task → Task) : (s.setTask k f).choice = s.choice := rfl
@[simp] theorem State.setTask_freeCtr (s : State) (k : Nat) (f : Task → Task) : (s.setTask k f).freeCtr = s.freeCtr := rfl
@[simp] theorem State.setTask_pkgid (s : State) (k : Nat) (f : Task → Task) : (s.setTask k f).pkgid = s.pkgid := rfl
@[simp] theorem State.setTask_plimitX (s : State) (k : Nat) (f : Task → Task) : (s.setTask k f).plimitX = s.plimitX := rfl
@[simp] theorem State.setTask_period (s : State) (k : Nat) (f : Task → Task) : (s.setTask k f).period = s.period := rfl
@[simp] theorem State.setTask_mem (s : State) (k : Nat) (f : Task → Task) : (s.setTask k f).mem = s.mem := rfl
@[simp] theorem State.setTask_poison (s : State) (k : Nat) (f : Task → Task) : (s.setTask k f).poison = s.poison := rfl
@[simp] theorem State.setTask_hostMem (s : State) (k : Nat) (f : Task → Task) : (s.setTask k f).hostMem = s.hostMem := rfl
@[simp] theorem State.setTask_rdc (s : State) (k : Nat) (f : Task → Task) : (s.setTask k f).rdc = s.rdc := rfl
@[simp] theorem State.setTask_llc (s : State) (k : Nat) (f : Task → Task) : (s.setTask k f).llc = s.llc := rfl
@[simp] theorem State.setTask_posted (s : State) (k : Nat) (f : Task → Task) : (s.setTask k f).posted = s.posted := rfl
@[simp] theorem State.setTask_spad (s : State) (k : Nat) (f : Task → Task) : (s.setTask k f).spad = s.spad := rfl
@[simp] theorem State.setTask_spoison (s : State) (k : Nat) (f : Task → Task) : (s.setTask k f).spoison = s.spoison := rfl
@[simp] theorem State.setTask_spend (s : State) (k : Nat) (f : Task → Task) : (s.setTask k f).spend = s.spend := rfl
@[simp] theorem State.setTask_landed (s : State) (k : Nat) (f : Task → Task) : (s.setTask k f).landed = s.landed := rfl
@[simp] theorem State.setTask_pbits (s : State) (k : Nat) (f : Task → Task) : (s.setTask k f).pbits = s.pbits := rfl
@[simp] theorem State.setTask_tlb (s : State) (k : Nat) (f : Task → Task) : (s.setTask k f).tlb = s.tlb := rfl
@[simp] theorem State.setTask_regions (s : State) (k : Nat) (f : Task → Task) : (s.setTask k f).regions = s.regions := rfl
@[simp] theorem State.setTask_owed (s : State) (k : Nat) (f : Task → Task) : (s.setTask k f).owed = s.owed := rfl
@[simp] theorem State.setTask_copies (s : State) (k : Nat) (f : Task → Task) : (s.setTask k f).copies = s.copies := rfl
@[simp] theorem State.setTask_ktm (s : State) (k : Nat) (f : Task → Task) : (s.setTask k f).ktm = s.ktm := rfl
@[simp] theorem State.setTask_slots (s : State) (k : Nat) (f : Task → Task) : (s.setTask k f).slots = s.slots := rfl
@[simp] theorem State.setTask_handles (s : State) (k : Nat) (f : Task → Task) : (s.setTask k f).handles = s.handles := rfl
@[simp] theorem State.setTask_cbars (s : State) (k : Nat) (f : Task → Task) : (s.setTask k f).cbars = s.cbars := rfl
@[simp] theorem State.setTask_rings (s : State) (k : Nat) (f : Task → Task) : (s.setTask k f).rings = s.rings := rfl
@[simp] theorem State.setTask_sbars (s : State) (k : Nat) (f : Task → Task) : (s.setTask k f).sbars = s.sbars := rfl
@[simp] theorem State.setTask_atomo (s : State) (k : Nat) (f : Task → Task) : (s.setTask k f).atomo = s.atomo := rfl
@[simp] theorem State.setTask_refused (s : State) (k : Nat) (f : Task → Task) : (s.setTask k f).refused = s.refused := rfl
@[simp] theorem State.setTask_atomLines (s : State) (k : Nat) (f : Task → Task) : (s.setTask k f).atomLines = s.atomLines := rfl
@[simp] theorem State.setTask_dies (s : State) (k : Nat) (f : Task → Task) : (s.setTask k f).dies = s.dies := rfl
@[simp] theorem State.setTask_ports (s : State) (k : Nat) (f : Task → Task) : (s.setTask k f).ports = s.ports := rfl
@[simp] theorem State.setTask_dports (s : State) (k : Nat) (f : Task → Task) : (s.setTask k f).dports = s.dports := rfl
@[simp] theorem State.setTask_packets (s : State) (k : Nat) (f : Task → Task) : (s.setTask k f).packets = s.packets := rfl
@[simp] theorem State.setTask_routers (s : State) (k : Nat) (f : Task → Task) : (s.setTask k f).routers = s.routers := rfl
@[simp] theorem State.setTask_pairs (s : State) (k : Nat) (f : Task → Task) : (s.setTask k f).pairs = s.pairs := rfl
@[simp] theorem State.setTask_routes (s : State) (k : Nat) (f : Task → Task) : (s.setTask k f).routes = s.routes := rfl
@[simp] theorem State.setTask_ctxs (s : State) (k : Nat) (f : Task → Task) : (s.setTask k f).ctxs = s.ctxs := rfl
@[simp] theorem State.setTask_nodes (s : State) (k : Nat) (f : Task → Task) : (s.setTask k f).nodes = s.nodes := rfl
@[simp] theorem State.setTask_gangs (s : State) (k : Nat) (f : Task → Task) : (s.setTask k f).gangs = s.gangs := rfl
@[simp] theorem State.setTask_threads (s : State) (k : Nat) (f : Task → Task) : (s.setTask k f).threads = s.threads := rfl
@[simp] theorem State.setTask_nextGang (s : State) (k : Nat) (f : Task → Task) : (s.setTask k f).nextGang = s.nextGang := rfl
@[simp] theorem State.setTask_nextThread (s : State) (k : Nat) (f : Task → Task) : (s.setTask k f).nextThread = s.nextThread := rfl
@[simp] theorem State.setTask_nextTask (s : State) (k : Nat) (f : Task → Task) : (s.setTask k f).nextTask = s.nextTask := rfl
@[simp] theorem State.setTask_parkWaits (s : State) (k : Nat) (f : Task → Task) : (s.setTask k f).parkWaits = s.parkWaits := rfl
@[simp] theorem State.setTask_shoots (s : State) (k : Nat) (f : Task → Task) : (s.setTask k f).shoots = s.shoots := rfl
@[simp] theorem State.setTask_queues (s : State) (k : Nat) (f : Task → Task) : (s.setTask k f).queues = s.queues := rfl
@[simp] theorem State.setTask_admin (s : State) (k : Nat) (f : Task → Task) : (s.setTask k f).admin = s.admin := rfl
@[simp] theorem State.setTask_signals (s : State) (k : Nat) (f : Task → Task) : (s.setTask k f).signals = s.signals := rfl
@[simp] theorem State.setTask_sbOut (s : State) (k : Nat) (f : Task → Task) : (s.setTask k f).sbOut = s.sbOut := rfl

/-! ## `State.hostWrite` writes host memory -/

@[simp] theorem State.hostWrite_clk (s : State) (a : Nat) (bs : List Byte) : (s.hostWrite a bs).clk = s.clk := rfl
@[simp] theorem State.hostWrite_agenda (s : State) (a : Nat) (bs : List Byte) : (s.hostWrite a bs).agenda = s.agenda := rfl
@[simp] theorem State.hostWrite_cur (s : State) (a : Nat) (bs : List Byte) : (s.hostWrite a bs).cur = s.cur := rfl
@[simp] theorem State.hostWrite_bgTurn (s : State) (a : Nat) (bs : List Byte) : (s.hostWrite a bs).bgTurn = s.bgTurn := rfl
@[simp] theorem State.hostWrite_choice (s : State) (a : Nat) (bs : List Byte) : (s.hostWrite a bs).choice = s.choice := rfl
@[simp] theorem State.hostWrite_freeCtr (s : State) (a : Nat) (bs : List Byte) : (s.hostWrite a bs).freeCtr = s.freeCtr := rfl
@[simp] theorem State.hostWrite_pkgid (s : State) (a : Nat) (bs : List Byte) : (s.hostWrite a bs).pkgid = s.pkgid := rfl
@[simp] theorem State.hostWrite_plimitX (s : State) (a : Nat) (bs : List Byte) : (s.hostWrite a bs).plimitX = s.plimitX := rfl
@[simp] theorem State.hostWrite_period (s : State) (a : Nat) (bs : List Byte) : (s.hostWrite a bs).period = s.period := rfl
@[simp] theorem State.hostWrite_mem (s : State) (a : Nat) (bs : List Byte) : (s.hostWrite a bs).mem = s.mem := rfl
@[simp] theorem State.hostWrite_poison (s : State) (a : Nat) (bs : List Byte) : (s.hostWrite a bs).poison = s.poison := rfl
@[simp] theorem State.hostWrite_rdc (s : State) (a : Nat) (bs : List Byte) : (s.hostWrite a bs).rdc = s.rdc := rfl
@[simp] theorem State.hostWrite_llc (s : State) (a : Nat) (bs : List Byte) : (s.hostWrite a bs).llc = s.llc := rfl
@[simp] theorem State.hostWrite_posted (s : State) (a : Nat) (bs : List Byte) : (s.hostWrite a bs).posted = s.posted := rfl
@[simp] theorem State.hostWrite_spad (s : State) (a : Nat) (bs : List Byte) : (s.hostWrite a bs).spad = s.spad := rfl
@[simp] theorem State.hostWrite_spoison (s : State) (a : Nat) (bs : List Byte) : (s.hostWrite a bs).spoison = s.spoison := rfl
@[simp] theorem State.hostWrite_spend (s : State) (a : Nat) (bs : List Byte) : (s.hostWrite a bs).spend = s.spend := rfl
@[simp] theorem State.hostWrite_landed (s : State) (a : Nat) (bs : List Byte) : (s.hostWrite a bs).landed = s.landed := rfl
@[simp] theorem State.hostWrite_pbits (s : State) (a : Nat) (bs : List Byte) : (s.hostWrite a bs).pbits = s.pbits := rfl
@[simp] theorem State.hostWrite_tlb (s : State) (a : Nat) (bs : List Byte) : (s.hostWrite a bs).tlb = s.tlb := rfl
@[simp] theorem State.hostWrite_regions (s : State) (a : Nat) (bs : List Byte) : (s.hostWrite a bs).regions = s.regions := rfl
@[simp] theorem State.hostWrite_owed (s : State) (a : Nat) (bs : List Byte) : (s.hostWrite a bs).owed = s.owed := rfl
@[simp] theorem State.hostWrite_copies (s : State) (a : Nat) (bs : List Byte) : (s.hostWrite a bs).copies = s.copies := rfl
@[simp] theorem State.hostWrite_ktm (s : State) (a : Nat) (bs : List Byte) : (s.hostWrite a bs).ktm = s.ktm := rfl
@[simp] theorem State.hostWrite_slots (s : State) (a : Nat) (bs : List Byte) : (s.hostWrite a bs).slots = s.slots := rfl
@[simp] theorem State.hostWrite_handles (s : State) (a : Nat) (bs : List Byte) : (s.hostWrite a bs).handles = s.handles := rfl
@[simp] theorem State.hostWrite_cbars (s : State) (a : Nat) (bs : List Byte) : (s.hostWrite a bs).cbars = s.cbars := rfl
@[simp] theorem State.hostWrite_rings (s : State) (a : Nat) (bs : List Byte) : (s.hostWrite a bs).rings = s.rings := rfl
@[simp] theorem State.hostWrite_sbars (s : State) (a : Nat) (bs : List Byte) : (s.hostWrite a bs).sbars = s.sbars := rfl
@[simp] theorem State.hostWrite_atomo (s : State) (a : Nat) (bs : List Byte) : (s.hostWrite a bs).atomo = s.atomo := rfl
@[simp] theorem State.hostWrite_refused (s : State) (a : Nat) (bs : List Byte) : (s.hostWrite a bs).refused = s.refused := rfl
@[simp] theorem State.hostWrite_atomLines (s : State) (a : Nat) (bs : List Byte) : (s.hostWrite a bs).atomLines = s.atomLines := rfl
@[simp] theorem State.hostWrite_dies (s : State) (a : Nat) (bs : List Byte) : (s.hostWrite a bs).dies = s.dies := rfl
@[simp] theorem State.hostWrite_ports (s : State) (a : Nat) (bs : List Byte) : (s.hostWrite a bs).ports = s.ports := rfl
@[simp] theorem State.hostWrite_dports (s : State) (a : Nat) (bs : List Byte) : (s.hostWrite a bs).dports = s.dports := rfl
@[simp] theorem State.hostWrite_packets (s : State) (a : Nat) (bs : List Byte) : (s.hostWrite a bs).packets = s.packets := rfl
@[simp] theorem State.hostWrite_routers (s : State) (a : Nat) (bs : List Byte) : (s.hostWrite a bs).routers = s.routers := rfl
@[simp] theorem State.hostWrite_pairs (s : State) (a : Nat) (bs : List Byte) : (s.hostWrite a bs).pairs = s.pairs := rfl
@[simp] theorem State.hostWrite_routes (s : State) (a : Nat) (bs : List Byte) : (s.hostWrite a bs).routes = s.routes := rfl
@[simp] theorem State.hostWrite_ctxs (s : State) (a : Nat) (bs : List Byte) : (s.hostWrite a bs).ctxs = s.ctxs := rfl
@[simp] theorem State.hostWrite_nodes (s : State) (a : Nat) (bs : List Byte) : (s.hostWrite a bs).nodes = s.nodes := rfl
@[simp] theorem State.hostWrite_gangs (s : State) (a : Nat) (bs : List Byte) : (s.hostWrite a bs).gangs = s.gangs := rfl
@[simp] theorem State.hostWrite_threads (s : State) (a : Nat) (bs : List Byte) : (s.hostWrite a bs).threads = s.threads := rfl
@[simp] theorem State.hostWrite_nextGang (s : State) (a : Nat) (bs : List Byte) : (s.hostWrite a bs).nextGang = s.nextGang := rfl
@[simp] theorem State.hostWrite_nextThread (s : State) (a : Nat) (bs : List Byte) : (s.hostWrite a bs).nextThread = s.nextThread := rfl
@[simp] theorem State.hostWrite_tasks (s : State) (a : Nat) (bs : List Byte) : (s.hostWrite a bs).tasks = s.tasks := rfl
@[simp] theorem State.hostWrite_nextTask (s : State) (a : Nat) (bs : List Byte) : (s.hostWrite a bs).nextTask = s.nextTask := rfl
@[simp] theorem State.hostWrite_parkWaits (s : State) (a : Nat) (bs : List Byte) : (s.hostWrite a bs).parkWaits = s.parkWaits := rfl
@[simp] theorem State.hostWrite_shoots (s : State) (a : Nat) (bs : List Byte) : (s.hostWrite a bs).shoots = s.shoots := rfl
@[simp] theorem State.hostWrite_queues (s : State) (a : Nat) (bs : List Byte) : (s.hostWrite a bs).queues = s.queues := rfl
@[simp] theorem State.hostWrite_admin (s : State) (a : Nat) (bs : List Byte) : (s.hostWrite a bs).admin = s.admin := rfl
@[simp] theorem State.hostWrite_signals (s : State) (a : Nat) (bs : List Byte) : (s.hostWrite a bs).signals = s.signals := rfl
@[simp] theorem State.hostWrite_sbOut (s : State) (a : Nat) (bs : List Byte) : (s.hostWrite a bs).sbOut = s.sbOut := rfl

/-! ## `State.contribute` combines an event into the contribution of a thread -/

@[simp] theorem State.contribute_clk (s : State) (t k : Nat) (r : BitVec 8) (pc : TextAddr) : (s.contribute t k r pc).clk = s.clk := rfl
@[simp] theorem State.contribute_agenda (s : State) (t k : Nat) (r : BitVec 8) (pc : TextAddr) : (s.contribute t k r pc).agenda = s.agenda := rfl
@[simp] theorem State.contribute_cur (s : State) (t k : Nat) (r : BitVec 8) (pc : TextAddr) : (s.contribute t k r pc).cur = s.cur := rfl
@[simp] theorem State.contribute_bgTurn (s : State) (t k : Nat) (r : BitVec 8) (pc : TextAddr) : (s.contribute t k r pc).bgTurn = s.bgTurn := rfl
@[simp] theorem State.contribute_choice (s : State) (t k : Nat) (r : BitVec 8) (pc : TextAddr) : (s.contribute t k r pc).choice = s.choice := rfl
@[simp] theorem State.contribute_freeCtr (s : State) (t k : Nat) (r : BitVec 8) (pc : TextAddr) : (s.contribute t k r pc).freeCtr = s.freeCtr := rfl
@[simp] theorem State.contribute_pkgid (s : State) (t k : Nat) (r : BitVec 8) (pc : TextAddr) : (s.contribute t k r pc).pkgid = s.pkgid := rfl
@[simp] theorem State.contribute_plimitX (s : State) (t k : Nat) (r : BitVec 8) (pc : TextAddr) : (s.contribute t k r pc).plimitX = s.plimitX := rfl
@[simp] theorem State.contribute_period (s : State) (t k : Nat) (r : BitVec 8) (pc : TextAddr) : (s.contribute t k r pc).period = s.period := rfl
@[simp] theorem State.contribute_mem (s : State) (t k : Nat) (r : BitVec 8) (pc : TextAddr) : (s.contribute t k r pc).mem = s.mem := rfl
@[simp] theorem State.contribute_poison (s : State) (t k : Nat) (r : BitVec 8) (pc : TextAddr) : (s.contribute t k r pc).poison = s.poison := rfl
@[simp] theorem State.contribute_hostMem (s : State) (t k : Nat) (r : BitVec 8) (pc : TextAddr) : (s.contribute t k r pc).hostMem = s.hostMem := rfl
@[simp] theorem State.contribute_rdc (s : State) (t k : Nat) (r : BitVec 8) (pc : TextAddr) : (s.contribute t k r pc).rdc = s.rdc := rfl
@[simp] theorem State.contribute_llc (s : State) (t k : Nat) (r : BitVec 8) (pc : TextAddr) : (s.contribute t k r pc).llc = s.llc := rfl
@[simp] theorem State.contribute_posted (s : State) (t k : Nat) (r : BitVec 8) (pc : TextAddr) : (s.contribute t k r pc).posted = s.posted := rfl
@[simp] theorem State.contribute_spad (s : State) (t k : Nat) (r : BitVec 8) (pc : TextAddr) : (s.contribute t k r pc).spad = s.spad := rfl
@[simp] theorem State.contribute_spoison (s : State) (t k : Nat) (r : BitVec 8) (pc : TextAddr) : (s.contribute t k r pc).spoison = s.spoison := rfl
@[simp] theorem State.contribute_spend (s : State) (t k : Nat) (r : BitVec 8) (pc : TextAddr) : (s.contribute t k r pc).spend = s.spend := rfl
@[simp] theorem State.contribute_landed (s : State) (t k : Nat) (r : BitVec 8) (pc : TextAddr) : (s.contribute t k r pc).landed = s.landed := rfl
@[simp] theorem State.contribute_pbits (s : State) (t k : Nat) (r : BitVec 8) (pc : TextAddr) : (s.contribute t k r pc).pbits = s.pbits := rfl
@[simp] theorem State.contribute_tlb (s : State) (t k : Nat) (r : BitVec 8) (pc : TextAddr) : (s.contribute t k r pc).tlb = s.tlb := rfl
@[simp] theorem State.contribute_regions (s : State) (t k : Nat) (r : BitVec 8) (pc : TextAddr) : (s.contribute t k r pc).regions = s.regions := rfl
@[simp] theorem State.contribute_owed (s : State) (t k : Nat) (r : BitVec 8) (pc : TextAddr) : (s.contribute t k r pc).owed = s.owed := rfl
@[simp] theorem State.contribute_copies (s : State) (t k : Nat) (r : BitVec 8) (pc : TextAddr) : (s.contribute t k r pc).copies = s.copies := rfl
@[simp] theorem State.contribute_ktm (s : State) (t k : Nat) (r : BitVec 8) (pc : TextAddr) : (s.contribute t k r pc).ktm = s.ktm := rfl
@[simp] theorem State.contribute_slots (s : State) (t k : Nat) (r : BitVec 8) (pc : TextAddr) : (s.contribute t k r pc).slots = s.slots := rfl
@[simp] theorem State.contribute_handles (s : State) (t k : Nat) (r : BitVec 8) (pc : TextAddr) : (s.contribute t k r pc).handles = s.handles := rfl
@[simp] theorem State.contribute_cbars (s : State) (t k : Nat) (r : BitVec 8) (pc : TextAddr) : (s.contribute t k r pc).cbars = s.cbars := rfl
@[simp] theorem State.contribute_rings (s : State) (t k : Nat) (r : BitVec 8) (pc : TextAddr) : (s.contribute t k r pc).rings = s.rings := rfl
@[simp] theorem State.contribute_sbars (s : State) (t k : Nat) (r : BitVec 8) (pc : TextAddr) : (s.contribute t k r pc).sbars = s.sbars := rfl
@[simp] theorem State.contribute_atomo (s : State) (t k : Nat) (r : BitVec 8) (pc : TextAddr) : (s.contribute t k r pc).atomo = s.atomo := rfl
@[simp] theorem State.contribute_refused (s : State) (t k : Nat) (r : BitVec 8) (pc : TextAddr) : (s.contribute t k r pc).refused = s.refused := rfl
@[simp] theorem State.contribute_atomLines (s : State) (t k : Nat) (r : BitVec 8) (pc : TextAddr) : (s.contribute t k r pc).atomLines = s.atomLines := rfl
@[simp] theorem State.contribute_dies (s : State) (t k : Nat) (r : BitVec 8) (pc : TextAddr) : (s.contribute t k r pc).dies = s.dies := rfl
@[simp] theorem State.contribute_ports (s : State) (t k : Nat) (r : BitVec 8) (pc : TextAddr) : (s.contribute t k r pc).ports = s.ports := rfl
@[simp] theorem State.contribute_dports (s : State) (t k : Nat) (r : BitVec 8) (pc : TextAddr) : (s.contribute t k r pc).dports = s.dports := rfl
@[simp] theorem State.contribute_packets (s : State) (t k : Nat) (r : BitVec 8) (pc : TextAddr) : (s.contribute t k r pc).packets = s.packets := rfl
@[simp] theorem State.contribute_routers (s : State) (t k : Nat) (r : BitVec 8) (pc : TextAddr) : (s.contribute t k r pc).routers = s.routers := rfl
@[simp] theorem State.contribute_pairs (s : State) (t k : Nat) (r : BitVec 8) (pc : TextAddr) : (s.contribute t k r pc).pairs = s.pairs := rfl
@[simp] theorem State.contribute_routes (s : State) (t k : Nat) (r : BitVec 8) (pc : TextAddr) : (s.contribute t k r pc).routes = s.routes := rfl
@[simp] theorem State.contribute_ctxs (s : State) (t k : Nat) (r : BitVec 8) (pc : TextAddr) : (s.contribute t k r pc).ctxs = s.ctxs := rfl
@[simp] theorem State.contribute_nodes (s : State) (t k : Nat) (r : BitVec 8) (pc : TextAddr) : (s.contribute t k r pc).nodes = s.nodes := rfl
@[simp] theorem State.contribute_gangs (s : State) (t k : Nat) (r : BitVec 8) (pc : TextAddr) : (s.contribute t k r pc).gangs = s.gangs := rfl
@[simp] theorem State.contribute_nextGang (s : State) (t k : Nat) (r : BitVec 8) (pc : TextAddr) : (s.contribute t k r pc).nextGang = s.nextGang := rfl
@[simp] theorem State.contribute_nextThread (s : State) (t k : Nat) (r : BitVec 8) (pc : TextAddr) : (s.contribute t k r pc).nextThread = s.nextThread := rfl
@[simp] theorem State.contribute_tasks (s : State) (t k : Nat) (r : BitVec 8) (pc : TextAddr) : (s.contribute t k r pc).tasks = s.tasks := rfl
@[simp] theorem State.contribute_nextTask (s : State) (t k : Nat) (r : BitVec 8) (pc : TextAddr) : (s.contribute t k r pc).nextTask = s.nextTask := rfl
@[simp] theorem State.contribute_parkWaits (s : State) (t k : Nat) (r : BitVec 8) (pc : TextAddr) : (s.contribute t k r pc).parkWaits = s.parkWaits := rfl
@[simp] theorem State.contribute_shoots (s : State) (t k : Nat) (r : BitVec 8) (pc : TextAddr) : (s.contribute t k r pc).shoots = s.shoots := rfl
@[simp] theorem State.contribute_queues (s : State) (t k : Nat) (r : BitVec 8) (pc : TextAddr) : (s.contribute t k r pc).queues = s.queues := rfl
@[simp] theorem State.contribute_admin (s : State) (t k : Nat) (r : BitVec 8) (pc : TextAddr) : (s.contribute t k r pc).admin = s.admin := rfl
@[simp] theorem State.contribute_signals (s : State) (t k : Nat) (r : BitVec 8) (pc : TextAddr) : (s.contribute t k r pc).signals = s.signals := rfl
@[simp] theorem State.contribute_sbOut (s : State) (t k : Nat) (r : BitVec 8) (pc : TextAddr) : (s.contribute t k r pc).sbOut = s.sbOut := rfl

/-! ## `State.taint` taints the contribution of a thread -/

@[simp] theorem State.taint_clk (s : State) (t : Nat) (e : Engine) (r : BitVec 8) : (s.taint t e r).clk = s.clk := rfl
@[simp] theorem State.taint_agenda (s : State) (t : Nat) (e : Engine) (r : BitVec 8) : (s.taint t e r).agenda = s.agenda := rfl
@[simp] theorem State.taint_cur (s : State) (t : Nat) (e : Engine) (r : BitVec 8) : (s.taint t e r).cur = s.cur := rfl
@[simp] theorem State.taint_bgTurn (s : State) (t : Nat) (e : Engine) (r : BitVec 8) : (s.taint t e r).bgTurn = s.bgTurn := rfl
@[simp] theorem State.taint_choice (s : State) (t : Nat) (e : Engine) (r : BitVec 8) : (s.taint t e r).choice = s.choice := rfl
@[simp] theorem State.taint_freeCtr (s : State) (t : Nat) (e : Engine) (r : BitVec 8) : (s.taint t e r).freeCtr = s.freeCtr := rfl
@[simp] theorem State.taint_pkgid (s : State) (t : Nat) (e : Engine) (r : BitVec 8) : (s.taint t e r).pkgid = s.pkgid := rfl
@[simp] theorem State.taint_plimitX (s : State) (t : Nat) (e : Engine) (r : BitVec 8) : (s.taint t e r).plimitX = s.plimitX := rfl
@[simp] theorem State.taint_period (s : State) (t : Nat) (e : Engine) (r : BitVec 8) : (s.taint t e r).period = s.period := rfl
@[simp] theorem State.taint_mem (s : State) (t : Nat) (e : Engine) (r : BitVec 8) : (s.taint t e r).mem = s.mem := rfl
@[simp] theorem State.taint_poison (s : State) (t : Nat) (e : Engine) (r : BitVec 8) : (s.taint t e r).poison = s.poison := rfl
@[simp] theorem State.taint_hostMem (s : State) (t : Nat) (e : Engine) (r : BitVec 8) : (s.taint t e r).hostMem = s.hostMem := rfl
@[simp] theorem State.taint_rdc (s : State) (t : Nat) (e : Engine) (r : BitVec 8) : (s.taint t e r).rdc = s.rdc := rfl
@[simp] theorem State.taint_llc (s : State) (t : Nat) (e : Engine) (r : BitVec 8) : (s.taint t e r).llc = s.llc := rfl
@[simp] theorem State.taint_posted (s : State) (t : Nat) (e : Engine) (r : BitVec 8) : (s.taint t e r).posted = s.posted := rfl
@[simp] theorem State.taint_spad (s : State) (t : Nat) (e : Engine) (r : BitVec 8) : (s.taint t e r).spad = s.spad := rfl
@[simp] theorem State.taint_spoison (s : State) (t : Nat) (e : Engine) (r : BitVec 8) : (s.taint t e r).spoison = s.spoison := rfl
@[simp] theorem State.taint_spend (s : State) (t : Nat) (e : Engine) (r : BitVec 8) : (s.taint t e r).spend = s.spend := rfl
@[simp] theorem State.taint_landed (s : State) (t : Nat) (e : Engine) (r : BitVec 8) : (s.taint t e r).landed = s.landed := rfl
@[simp] theorem State.taint_pbits (s : State) (t : Nat) (e : Engine) (r : BitVec 8) : (s.taint t e r).pbits = s.pbits := rfl
@[simp] theorem State.taint_tlb (s : State) (t : Nat) (e : Engine) (r : BitVec 8) : (s.taint t e r).tlb = s.tlb := rfl
@[simp] theorem State.taint_regions (s : State) (t : Nat) (e : Engine) (r : BitVec 8) : (s.taint t e r).regions = s.regions := rfl
@[simp] theorem State.taint_owed (s : State) (t : Nat) (e : Engine) (r : BitVec 8) : (s.taint t e r).owed = s.owed := rfl
@[simp] theorem State.taint_copies (s : State) (t : Nat) (e : Engine) (r : BitVec 8) : (s.taint t e r).copies = s.copies := rfl
@[simp] theorem State.taint_ktm (s : State) (t : Nat) (e : Engine) (r : BitVec 8) : (s.taint t e r).ktm = s.ktm := rfl
@[simp] theorem State.taint_slots (s : State) (t : Nat) (e : Engine) (r : BitVec 8) : (s.taint t e r).slots = s.slots := rfl
@[simp] theorem State.taint_handles (s : State) (t : Nat) (e : Engine) (r : BitVec 8) : (s.taint t e r).handles = s.handles := rfl
@[simp] theorem State.taint_cbars (s : State) (t : Nat) (e : Engine) (r : BitVec 8) : (s.taint t e r).cbars = s.cbars := rfl
@[simp] theorem State.taint_rings (s : State) (t : Nat) (e : Engine) (r : BitVec 8) : (s.taint t e r).rings = s.rings := rfl
@[simp] theorem State.taint_sbars (s : State) (t : Nat) (e : Engine) (r : BitVec 8) : (s.taint t e r).sbars = s.sbars := rfl
@[simp] theorem State.taint_atomo (s : State) (t : Nat) (e : Engine) (r : BitVec 8) : (s.taint t e r).atomo = s.atomo := rfl
@[simp] theorem State.taint_refused (s : State) (t : Nat) (e : Engine) (r : BitVec 8) : (s.taint t e r).refused = s.refused := rfl
@[simp] theorem State.taint_atomLines (s : State) (t : Nat) (e : Engine) (r : BitVec 8) : (s.taint t e r).atomLines = s.atomLines := rfl
@[simp] theorem State.taint_dies (s : State) (t : Nat) (e : Engine) (r : BitVec 8) : (s.taint t e r).dies = s.dies := rfl
@[simp] theorem State.taint_ports (s : State) (t : Nat) (e : Engine) (r : BitVec 8) : (s.taint t e r).ports = s.ports := rfl
@[simp] theorem State.taint_dports (s : State) (t : Nat) (e : Engine) (r : BitVec 8) : (s.taint t e r).dports = s.dports := rfl
@[simp] theorem State.taint_packets (s : State) (t : Nat) (e : Engine) (r : BitVec 8) : (s.taint t e r).packets = s.packets := rfl
@[simp] theorem State.taint_routers (s : State) (t : Nat) (e : Engine) (r : BitVec 8) : (s.taint t e r).routers = s.routers := rfl
@[simp] theorem State.taint_pairs (s : State) (t : Nat) (e : Engine) (r : BitVec 8) : (s.taint t e r).pairs = s.pairs := rfl
@[simp] theorem State.taint_routes (s : State) (t : Nat) (e : Engine) (r : BitVec 8) : (s.taint t e r).routes = s.routes := rfl
@[simp] theorem State.taint_ctxs (s : State) (t : Nat) (e : Engine) (r : BitVec 8) : (s.taint t e r).ctxs = s.ctxs := rfl
@[simp] theorem State.taint_nodes (s : State) (t : Nat) (e : Engine) (r : BitVec 8) : (s.taint t e r).nodes = s.nodes := rfl
@[simp] theorem State.taint_gangs (s : State) (t : Nat) (e : Engine) (r : BitVec 8) : (s.taint t e r).gangs = s.gangs := rfl
@[simp] theorem State.taint_nextGang (s : State) (t : Nat) (e : Engine) (r : BitVec 8) : (s.taint t e r).nextGang = s.nextGang := rfl
@[simp] theorem State.taint_nextThread (s : State) (t : Nat) (e : Engine) (r : BitVec 8) : (s.taint t e r).nextThread = s.nextThread := rfl
@[simp] theorem State.taint_tasks (s : State) (t : Nat) (e : Engine) (r : BitVec 8) : (s.taint t e r).tasks = s.tasks := rfl
@[simp] theorem State.taint_nextTask (s : State) (t : Nat) (e : Engine) (r : BitVec 8) : (s.taint t e r).nextTask = s.nextTask := rfl
@[simp] theorem State.taint_parkWaits (s : State) (t : Nat) (e : Engine) (r : BitVec 8) : (s.taint t e r).parkWaits = s.parkWaits := rfl
@[simp] theorem State.taint_shoots (s : State) (t : Nat) (e : Engine) (r : BitVec 8) : (s.taint t e r).shoots = s.shoots := rfl
@[simp] theorem State.taint_queues (s : State) (t : Nat) (e : Engine) (r : BitVec 8) : (s.taint t e r).queues = s.queues := rfl
@[simp] theorem State.taint_admin (s : State) (t : Nat) (e : Engine) (r : BitVec 8) : (s.taint t e r).admin = s.admin := rfl
@[simp] theorem State.taint_signals (s : State) (t : Nat) (e : Engine) (r : BitVec 8) : (s.taint t e r).signals = s.signals := rfl
@[simp] theorem State.taint_sbOut (s : State) (t : Nat) (e : Engine) (r : BitVec 8) : (s.taint t e r).sbOut = s.sbOut := rfl

/-! ## Reads of what was written -/

@[simp] theorem State.thr_modThr_same (s : State) (t : Nat) (f : Thread → Thread) : (s.modThr t f).thr t = f (s.thr t) := by
  simp [State.modThr, State.thr, Tab.mod]

theorem State.thr_modThr_other (s : State) (t u : Nat) (f : Thread → Thread) (h : u ≠ t) : (s.modThr t f).thr u = s.thr u := by
  simp [State.modThr, State.thr, Tab.mod, Tab.get_set_other _ _ _ _ h]

@[simp] theorem State.me_modMe (s : State) (f : Thread → Thread) : (s.modMe f).me = f s.me := State.thr_modThr_same s s.cur f

theorem State.thr_modMe_other (s : State) (u : Nat) (f : Thread → Thread) (h : u ≠ s.cur) : (s.modMe f).thr u = s.thr u :=
  State.thr_modThr_other s s.cur u f h

@[simp] theorem State.me_putS (s : State) (d : BitVec 6) (v : Dword) : (s.putS d v).me = s.me.ws .seq d v := State.me_modMe s _

@[simp] theorem State.me_putP (s : State) (d : BitVec 4) (v : Bool) : (s.putP d v).me = s.me.wp d v := State.me_modMe s _

@[simp] theorem State.die_setDie_same (s : State) (d : Nat) (f : Die → Die) : (s.setDie d f).die d = f (s.die d) := by
  simp [State.setDie, State.die, Tab.mod]

theorem State.die_setDie_other (s : State) (d e : Nat) (f : Die → Die) (h : e ≠ d) : (s.setDie d f).die e = s.die e := by
  simp [State.setDie, State.die, Tab.mod, Tab.get_set_other _ _ _ _ h]

theorem State.becomes_modMe (s : State) (f : Thread → Thread) : s.becomes (s.modMe f) (f s.me) :=
  ⟨rfl, State.thr_modThr_same .., fun _ h => State.thr_modThr_other _ _ _ _ h⟩

/-- A change of the current thread's record alone, after another. -/
theorem State.becomes_trans {s t u : State} {th th' : Thread} (h : s.becomes t th) (k : t.becomes u th') : s.becomes u th' := by
  have hc : t.cur = s.cur := by rw [h.1]
  refine ⟨?_, by rw [← hc]; exact k.2.1, fun v hv => (k.2.2 v (by rw [hc]; exact hv)).trans (h.2.2 v hv)⟩
  rw [k.1, h.1]

/-- A further change of the record. -/
theorem State.becomes.mod {s t : State} {th : Thread} (h : s.becomes t th) (f : Thread → Thread) : s.becomes (t.modMe f) (f th) := by
  have hc : t.cur = s.cur := by rw [h.1]
  have hm : t.me = th := by have := h.2.1; rw [← hc] at this; exact this
  have := State.becomes_trans h (State.becomes_modMe t f)
  rwa [hm] at this

theorem State.becomes.me {s t : State} {th : Thread} (h : s.becomes t th) : t.me = th := by
  have hc : t.cur = s.cur := by rw [h.1]
  have := h.2.1; rw [← hc] at this; exact this

theorem State.becomes_refl (s : State) : s.becomes s s.me := ⟨rfl, rfl, fun _ _ => rfl⟩

/-! ## `Thread.wv` -/

@[simp] theorem Thread.wv_st (th : Thread) (n : BitVec 5) (v : Row) : (th.wv n v).st = th.st := rfl
@[simp] theorem Thread.wv_was (th : Thread) (n : BitVec 5) (v : Row) : (th.wv n v).was = th.was := rfl
@[simp] theorem Thread.wv_cid (th : Thread) (n : BitVec 5) (v : Row) : (th.wv n v).cid = th.cid := rfl
@[simp] theorem Thread.wv_node (th : Thread) (n : BitVec 5) (v : Row) : (th.wv n v).node = th.node := rfl
@[simp] theorem Thread.wv_gang (th : Thread) (n : BitVec 5) (v : Row) : (th.wv n v).gang = th.gang := rfl
@[simp] theorem Thread.wv_member (th : Thread) (n : BitVec 5) (v : Row) : (th.wv n v).member = th.member := rfl
@[simp] theorem Thread.wv_die (th : Thread) (n : BitVec 5) (v : Row) : (th.wv n v).die = th.die := rfl
@[simp] theorem Thread.wv_core (th : Thread) (n : BitVec 5) (v : Row) : (th.wv n v).core = th.core := rfl
@[simp] theorem Thread.wv_text (th : Thread) (n : BitVec 5) (v : Row) : (th.wv n v).text = th.text := rfl
@[simp] theorem Thread.wv_s (th : Thread) (n : BitVec 5) (v : Row) : (th.wv n v).s = th.s := rfl
@[simp] theorem Thread.wv_p (th : Thread) (n : BitVec 5) (v : Row) : (th.wv n v).p = th.p := rfl
@[simp] theorem Thread.wv_m (th : Thread) (n : BitVec 5) (v : Row) : (th.wv n v).m = th.m := rfl
@[simp] theorem Thread.wv_acc (th : Thread) (n : BitVec 5) (v : Row) : (th.wv n v).acc = th.acc := rfl
@[simp] theorem Thread.wv_rck (th : Thread) (n : BitVec 5) (v : Row) : (th.wv n v).rck = th.rck := rfl
@[simp] theorem Thread.wv_cck (th : Thread) (n : BitVec 5) (v : Row) : (th.wv n v).cck = th.cck := rfl
@[simp] theorem Thread.wv_accSt (th : Thread) (n : BitVec 5) (v : Row) : (th.wv n v).accSt = th.accSt := rfl
@[simp] theorem Thread.wv_d (th : Thread) (n : BitVec 5) (v : Row) : (th.wv n v).d = th.d := rfl
@[simp] theorem Thread.wv_slipw (th : Thread) (n : BitVec 5) (v : Row) : (th.wv n v).slipw = th.slipw := rfl
@[simp] theorem Thread.wv_lcnt (th : Thread) (n : BitVec 5) (v : Row) : (th.wv n v).lcnt = th.lcnt := rfl
@[simp] theorem Thread.wv_nst (th : Thread) (n : BitVec 5) (v : Row) : (th.wv n v).nst = th.nst := rfl
@[simp] theorem Thread.wv_drain (th : Thread) (n : BitVec 5) (v : Row) : (th.wv n v).drain = th.drain := rfl
@[simp] theorem Thread.wv_loops (th : Thread) (n : BitVec 5) (v : Row) : (th.wv n v).loops = th.loops := rfl
@[simp] theorem Thread.wv_rrb (th : Thread) (n : BitVec 5) (v : Row) : (th.wv n v).rrb = th.rrb := rfl
@[simp] theorem Thread.wv_rrbOrd (th : Thread) (n : BitVec 5) (v : Row) : (th.wv n v).rrbOrd = th.rrbOrd := rfl
@[simp] theorem Thread.wv_asideOrd (th : Thread) (n : BitVec 5) (v : Row) : (th.wv n v).asideOrd = th.asideOrd := rfl
@[simp] theorem Thread.wv_gangIdx (th : Thread) (n : BitVec 5) (v : Row) : (th.wv n v).gangIdx = th.gangIdx := rfl
@[simp] theorem Thread.wv_gangs (th : Thread) (n : BitVec 5) (v : Row) : (th.wv n v).gangs = th.gangs := rfl
@[simp] theorem Thread.wv_lix (th : Thread) (n : BitVec 5) (v : Row) : (th.wv n v).lix = th.lix := rfl
@[simp] theorem Thread.wv_lsz (th : Thread) (n : BitVec 5) (v : Row) : (th.wv n v).lsz = th.lsz := rfl
@[simp] theorem Thread.wv_fpctl (th : Thread) (n : BitVec 5) (v : Row) : (th.wv n v).fpctl = th.fpctl := rfl
@[simp] theorem Thread.wv_trapvec (th : Thread) (n : BitVec 5) (v : Row) : (th.wv n v).trapvec = th.trapvec := rfl
@[simp] theorem Thread.wv_tsCode (th : Thread) (n : BitVec 5) (v : Row) : (th.wv n v).tsCode = th.tsCode := rfl
@[simp] theorem Thread.wv_tsEng (th : Thread) (n : BitVec 5) (v : Row) : (th.wv n v).tsEng = th.tsEng := rfl
@[simp] theorem Thread.wv_inh (th : Thread) (n : BitVec 5) (v : Row) : (th.wv n v).inh = th.inh := rfl
@[simp] theorem Thread.wv_mthr (th : Thread) (n : BitVec 5) (v : Row) : (th.wv n v).mthr = th.mthr := rfl
@[simp] theorem Thread.wv_mcntf (th : Thread) (n : BitVec 5) (v : Row) : (th.wv n v).mcntf = th.mcntf := rfl
@[simp] theorem Thread.wv_mcntp (th : Thread) (n : BitVec 5) (v : Row) : (th.wv n v).mcntp = th.mcntp := rfl
@[simp] theorem Thread.wv_mcnte (th : Thread) (n : BitVec 5) (v : Row) : (th.wv n v).mcnte = th.mcnte := rfl
@[simp] theorem Thread.wv_seeds (th : Thread) (n : BitVec 5) (v : Row) : (th.wv n v).seeds = th.seeds := rfl
@[simp] theorem Thread.wv_iq (th : Thread) (n : BitVec 5) (v : Row) : (th.wv n v).iq = th.iq := rfl
@[simp] theorem Thread.wv_aside (th : Thread) (n : BitVec 5) (v : Row) : (th.wv n v).aside = th.aside := rfl
@[simp] theorem Thread.wv_held (th : Thread) (n : BitVec 5) (v : Row) : (th.wv n v).held = th.held := rfl
@[simp] theorem Thread.wv_fetch (th : Thread) (n : BitVec 5) (v : Row) : (th.wv n v).fetch = th.fetch := rfl
@[simp] theorem Thread.wv_fetchSt (th : Thread) (n : BitVec 5) (v : Row) : (th.wv n v).fetchSt = th.fetchSt := rfl
@[simp] theorem Thread.wv_marks (th : Thread) (n : BitVec 5) (v : Row) : (th.wv n v).marks = th.marks := rfl
@[simp] theorem Thread.wv_savedFetch (th : Thread) (n : BitVec 5) (v : Row) : (th.wv n v).savedFetch = th.savedFetch := rfl
@[simp] theorem Thread.wv_savedFetchSt (th : Thread) (n : BitVec 5) (v : Row) : (th.wv n v).savedFetchSt = th.savedFetchSt := rfl
@[simp] theorem Thread.wv_savedMarks (th : Thread) (n : BitVec 5) (v : Row) : (th.wv n v).savedMarks = th.savedMarks := rfl
@[simp] theorem Thread.wv_nextOrd (th : Thread) (n : BitVec 5) (v : Row) : (th.wv n v).nextOrd = th.nextOrd := rfl
@[simp] theorem Thread.wv_qs (th : Thread) (n : BitVec 5) (v : Row) : (th.wv n v).qs = th.qs := rfl
@[simp] theorem Thread.wv_qr (th : Thread) (n : BitVec 5) (v : Row) : (th.wv n v).qr = th.qr := rfl
@[simp] theorem Thread.wv_sb (th : Thread) (n : BitVec 5) (v : Row) : (th.wv n v).sb = th.sb := rfl
@[simp] theorem Thread.wv_pend (th : Thread) (n : BitVec 5) (v : Row) : (th.wv n v).pend = th.pend := rfl
@[simp] theorem Thread.wv_skip (th : Thread) (n : BitVec 5) (v : Row) : (th.wv n v).skip = th.skip := rfl
@[simp] theorem Thread.wv_sten (th : Thread) (n : BitVec 5) (v : Row) : (th.wv n v).sten = th.sten := rfl
@[simp] theorem Thread.wv_steng (th : Thread) (n : BitVec 5) (v : Row) : (th.wv n v).steng = th.steng := rfl
@[simp] theorem Thread.wv_recCode (th : Thread) (n : BitVec 5) (v : Row) : (th.wv n v).recCode = th.recCode := rfl
@[simp] theorem Thread.wv_recEng (th : Thread) (n : BitVec 5) (v : Row) : (th.wv n v).recEng = th.recEng := rfl
@[simp] theorem Thread.wv_recEstat (th : Thread) (n : BitVec 5) (v : Row) : (th.wv n v).recEstat = th.recEstat := rfl
@[simp] theorem Thread.wv_recAddr (th : Thread) (n : BitVec 5) (v : Row) : (th.wv n v).recAddr = th.recAddr := rfl
@[simp] theorem Thread.wv_recSystem (th : Thread) (n : BitVec 5) (v : Row) : (th.wv n v).recSystem = th.recSystem := rfl
@[simp] theorem Thread.wv_recNest (th : Thread) (n : BitVec 5) (v : Row) : (th.wv n v).recNest = th.recNest := rfl
@[simp] theorem Thread.wv_area (th : Thread) (n : BitVec 5) (v : Row) : (th.wv n v).area = th.area := rfl
@[simp] theorem Thread.wv_recHeld (th : Thread) (n : BitVec 5) (v : Row) : (th.wv n v).recHeld = th.recHeld := rfl
@[simp] theorem Thread.wv_stepPc (th : Thread) (n : BitVec 5) (v : Row) : (th.wv n v).stepPc = th.stepPc := rfl
@[simp] theorem Thread.wv_synAside (th : Thread) (n : BitVec 5) (v : Row) : (th.wv n v).synAside = th.synAside := rfl
@[simp] theorem Thread.wv_count (th : Thread) (n : BitVec 5) (v : Row) : (th.wv n v).count = th.count := rfl
@[simp] theorem Thread.wv_adr (th : Thread) (n : BitVec 5) (v : Row) : (th.wv n v).adr = th.adr := rfl
@[simp] theorem Thread.wv_mat (th : Thread) (n : BitVec 5) (v : Row) : (th.wv n v).mat = th.mat := rfl
@[simp] theorem Thread.wv_move (th : Thread) (n : BitVec 5) (v : Row) : (th.wv n v).move = th.move := rfl
@[simp] theorem Thread.wv_adrTrap (th : Thread) (n : BitVec 5) (v : Row) : (th.wv n v).adrTrap = th.adrTrap := rfl
@[simp] theorem Thread.wv_atomoSent (th : Thread) (n : BitVec 5) (v : Row) : (th.wv n v).atomoSent = th.atomoSent := rfl
@[simp] theorem Thread.wv_atomoOld (th : Thread) (n : BitVec 5) (v : Row) : (th.wv n v).atomoOld = th.atomoOld := rfl
@[simp] theorem Thread.wv_atomoFail (th : Thread) (n : BitVec 5) (v : Row) : (th.wv n v).atomoFail = th.atomoFail := rfl
@[simp] theorem Thread.wv_atomBegun (th : Thread) (n : BitVec 5) (v : Row) : (th.wv n v).atomBegun = th.atomBegun := rfl
@[simp] theorem Thread.wv_fences (th : Thread) (n : BitVec 5) (v : Row) : (th.wv n v).fences = th.fences := rfl
@[simp] theorem Thread.wv_synStage (th : Thread) (n : BitVec 5) (v : Row) : (th.wv n v).synStage = th.synStage := rfl
@[simp] theorem Thread.wv_fabStage (th : Thread) (n : BitVec 5) (v : Row) : (th.wv n v).fabStage = th.fabStage := rfl
@[simp] theorem Thread.wv_atnAt (th : Thread) (n : BitVec 5) (v : Row) : (th.wv n v).atnAt = th.atnAt := rfl
@[simp] theorem Thread.wv_recheck (th : Thread) (n : BitVec 5) (v : Row) : (th.wv n v).recheck = th.recheck := rfl
@[simp] theorem Thread.wv_fmtHeld (th : Thread) (n : BitVec 5) (v : Row) : (th.wv n v).fmtHeld = th.fmtHeld := rfl
@[simp] theorem Thread.wv_commitWait (th : Thread) (n : BitVec 5) (v : Row) : (th.wv n v).commitWait = th.commitWait := rfl
@[simp] theorem Thread.wv_tileAt (th : Thread) (n : BitVec 5) (v : Row) : (th.wv n v).tileAt = th.tileAt := rfl
@[simp] theorem Thread.wv_results (th : Thread) (n : BitVec 5) (v : Row) : (th.wv n v).results = th.results := rfl
@[simp] theorem Thread.wv_atnData (th : Thread) (n : BitVec 5) (v : Row) : (th.wv n v).atnData = th.atnData := rfl
@[simp] theorem Thread.wv_frameAt (th : Thread) (n : BitVec 5) (v : Row) : (th.wv n v).frameAt = th.frameAt := rfl
@[simp] theorem Thread.wv_batch (th : Thread) (n : BitVec 5) (v : Row) : (th.wv n v).batch = th.batch := rfl
@[simp] theorem Thread.wv_batches (th : Thread) (n : BitVec 5) (v : Row) : (th.wv n v).batches = th.batches := rfl
@[simp] theorem Thread.wv_bn (th : Thread) (n : BitVec 5) (v : Row) : (th.wv n v).bn = th.bn := rfl
@[simp] theorem Thread.wv_masks (th : Thread) (n : BitVec 5) (v : Row) : (th.wv n v).masks = th.masks := rfl
@[simp] theorem Thread.wv_selOff (th : Thread) (n : BitVec 5) (v : Row) : (th.wv n v).selOff = th.selOff := rfl
@[simp] theorem Thread.wv_ranks (th : Thread) (n : BitVec 5) (v : Row) : (th.wv n v).ranks = th.ranks := rfl
@[simp] theorem Thread.wv_child (th : Thread) (n : BitVec 5) (v : Row) : (th.wv n v).child = th.child := rfl
@[simp] theorem Thread.wv_launches (th : Thread) (n : BitVec 5) (v : Row) : (th.wv n v).launches = th.launches := rfl
@[simp] theorem Thread.wv_pending (th : Thread) (n : BitVec 5) (v : Row) : (th.wv n v).pending = th.pending := rfl
@[simp] theorem Thread.wv_phase (th : Thread) (n : BitVec 5) (v : Row) : (th.wv n v).phase = th.phase := rfl
@[simp] theorem Thread.wv_phases (th : Thread) (n : BitVec 5) (v : Row) : (th.wv n v).phases = th.phases := rfl
@[simp] theorem Thread.wv_hintX (th : Thread) (n : BitVec 5) (v : Row) : (th.wv n v).hintX = th.hintX := rfl
@[simp] theorem Thread.wv_contrib (th : Thread) (n : BitVec 5) (v : Row) : (th.wv n v).contrib = th.contrib := rfl
@[simp] theorem Thread.wv_deadSet (th : Thread) (n : BitVec 5) (v : Row) : (th.wv n v).deadSet = th.deadSet := rfl
@[simp] theorem Thread.wv_stall (th : Thread) (n : BitVec 5) (v : Row) : (th.wv n v).stall = th.stall := rfl
@[simp] theorem Thread.wv_turn (th : Thread) (n : BitVec 5) (v : Row) : (th.wv n v).turn = th.turn := rfl

/-! ## `Thread.pushS` -/

@[simp] theorem Thread.pushS_st (th : Thread) (q : Nat) (v : Dword) : (th.pushS q v).st = th.st := rfl
@[simp] theorem Thread.pushS_was (th : Thread) (q : Nat) (v : Dword) : (th.pushS q v).was = th.was := rfl
@[simp] theorem Thread.pushS_cid (th : Thread) (q : Nat) (v : Dword) : (th.pushS q v).cid = th.cid := rfl
@[simp] theorem Thread.pushS_node (th : Thread) (q : Nat) (v : Dword) : (th.pushS q v).node = th.node := rfl
@[simp] theorem Thread.pushS_gang (th : Thread) (q : Nat) (v : Dword) : (th.pushS q v).gang = th.gang := rfl
@[simp] theorem Thread.pushS_member (th : Thread) (q : Nat) (v : Dword) : (th.pushS q v).member = th.member := rfl
@[simp] theorem Thread.pushS_die (th : Thread) (q : Nat) (v : Dword) : (th.pushS q v).die = th.die := rfl
@[simp] theorem Thread.pushS_core (th : Thread) (q : Nat) (v : Dword) : (th.pushS q v).core = th.core := rfl
@[simp] theorem Thread.pushS_text (th : Thread) (q : Nat) (v : Dword) : (th.pushS q v).text = th.text := rfl
@[simp] theorem Thread.pushS_s (th : Thread) (q : Nat) (v : Dword) : (th.pushS q v).s = th.s := rfl
@[simp] theorem Thread.pushS_p (th : Thread) (q : Nat) (v : Dword) : (th.pushS q v).p = th.p := rfl
@[simp] theorem Thread.pushS_v (th : Thread) (q : Nat) (v : Dword) : (th.pushS q v).v = th.v := rfl
@[simp] theorem Thread.pushS_m (th : Thread) (q : Nat) (v : Dword) : (th.pushS q v).m = th.m := rfl
@[simp] theorem Thread.pushS_acc (th : Thread) (q : Nat) (v : Dword) : (th.pushS q v).acc = th.acc := rfl
@[simp] theorem Thread.pushS_rck (th : Thread) (q : Nat) (v : Dword) : (th.pushS q v).rck = th.rck := rfl
@[simp] theorem Thread.pushS_cck (th : Thread) (q : Nat) (v : Dword) : (th.pushS q v).cck = th.cck := rfl
@[simp] theorem Thread.pushS_accSt (th : Thread) (q : Nat) (v : Dword) : (th.pushS q v).accSt = th.accSt := rfl
@[simp] theorem Thread.pushS_d (th : Thread) (q : Nat) (v : Dword) : (th.pushS q v).d = th.d := rfl
@[simp] theorem Thread.pushS_slipw (th : Thread) (q : Nat) (v : Dword) : (th.pushS q v).slipw = th.slipw := rfl
@[simp] theorem Thread.pushS_lcnt (th : Thread) (q : Nat) (v : Dword) : (th.pushS q v).lcnt = th.lcnt := rfl
@[simp] theorem Thread.pushS_nst (th : Thread) (q : Nat) (v : Dword) : (th.pushS q v).nst = th.nst := rfl
@[simp] theorem Thread.pushS_drain (th : Thread) (q : Nat) (v : Dword) : (th.pushS q v).drain = th.drain := rfl
@[simp] theorem Thread.pushS_loops (th : Thread) (q : Nat) (v : Dword) : (th.pushS q v).loops = th.loops := rfl
@[simp] theorem Thread.pushS_rrb (th : Thread) (q : Nat) (v : Dword) : (th.pushS q v).rrb = th.rrb := rfl
@[simp] theorem Thread.pushS_rrbOrd (th : Thread) (q : Nat) (v : Dword) : (th.pushS q v).rrbOrd = th.rrbOrd := rfl
@[simp] theorem Thread.pushS_asideOrd (th : Thread) (q : Nat) (v : Dword) : (th.pushS q v).asideOrd = th.asideOrd := rfl
@[simp] theorem Thread.pushS_gangIdx (th : Thread) (q : Nat) (v : Dword) : (th.pushS q v).gangIdx = th.gangIdx := rfl
@[simp] theorem Thread.pushS_gangs (th : Thread) (q : Nat) (v : Dword) : (th.pushS q v).gangs = th.gangs := rfl
@[simp] theorem Thread.pushS_lix (th : Thread) (q : Nat) (v : Dword) : (th.pushS q v).lix = th.lix := rfl
@[simp] theorem Thread.pushS_lsz (th : Thread) (q : Nat) (v : Dword) : (th.pushS q v).lsz = th.lsz := rfl
@[simp] theorem Thread.pushS_fpctl (th : Thread) (q : Nat) (v : Dword) : (th.pushS q v).fpctl = th.fpctl := rfl
@[simp] theorem Thread.pushS_trapvec (th : Thread) (q : Nat) (v : Dword) : (th.pushS q v).trapvec = th.trapvec := rfl
@[simp] theorem Thread.pushS_tsCode (th : Thread) (q : Nat) (v : Dword) : (th.pushS q v).tsCode = th.tsCode := rfl
@[simp] theorem Thread.pushS_tsEng (th : Thread) (q : Nat) (v : Dword) : (th.pushS q v).tsEng = th.tsEng := rfl
@[simp] theorem Thread.pushS_inh (th : Thread) (q : Nat) (v : Dword) : (th.pushS q v).inh = th.inh := rfl
@[simp] theorem Thread.pushS_mthr (th : Thread) (q : Nat) (v : Dword) : (th.pushS q v).mthr = th.mthr := rfl
@[simp] theorem Thread.pushS_mcntf (th : Thread) (q : Nat) (v : Dword) : (th.pushS q v).mcntf = th.mcntf := rfl
@[simp] theorem Thread.pushS_mcntp (th : Thread) (q : Nat) (v : Dword) : (th.pushS q v).mcntp = th.mcntp := rfl
@[simp] theorem Thread.pushS_mcnte (th : Thread) (q : Nat) (v : Dword) : (th.pushS q v).mcnte = th.mcnte := rfl
@[simp] theorem Thread.pushS_seeds (th : Thread) (q : Nat) (v : Dword) : (th.pushS q v).seeds = th.seeds := rfl
@[simp] theorem Thread.pushS_iq (th : Thread) (q : Nat) (v : Dword) : (th.pushS q v).iq = th.iq := rfl
@[simp] theorem Thread.pushS_aside (th : Thread) (q : Nat) (v : Dword) : (th.pushS q v).aside = th.aside := rfl
@[simp] theorem Thread.pushS_held (th : Thread) (q : Nat) (v : Dword) : (th.pushS q v).held = th.held := rfl
@[simp] theorem Thread.pushS_fetch (th : Thread) (q : Nat) (v : Dword) : (th.pushS q v).fetch = th.fetch := rfl
@[simp] theorem Thread.pushS_fetchSt (th : Thread) (q : Nat) (v : Dword) : (th.pushS q v).fetchSt = th.fetchSt := rfl
@[simp] theorem Thread.pushS_marks (th : Thread) (q : Nat) (v : Dword) : (th.pushS q v).marks = th.marks := rfl
@[simp] theorem Thread.pushS_savedFetch (th : Thread) (q : Nat) (v : Dword) : (th.pushS q v).savedFetch = th.savedFetch := rfl
@[simp] theorem Thread.pushS_savedFetchSt (th : Thread) (q : Nat) (v : Dword) : (th.pushS q v).savedFetchSt = th.savedFetchSt := rfl
@[simp] theorem Thread.pushS_savedMarks (th : Thread) (q : Nat) (v : Dword) : (th.pushS q v).savedMarks = th.savedMarks := rfl
@[simp] theorem Thread.pushS_nextOrd (th : Thread) (q : Nat) (v : Dword) : (th.pushS q v).nextOrd = th.nextOrd := rfl
@[simp] theorem Thread.pushS_qr (th : Thread) (q : Nat) (v : Dword) : (th.pushS q v).qr = th.qr := rfl
@[simp] theorem Thread.pushS_sb (th : Thread) (q : Nat) (v : Dword) : (th.pushS q v).sb = th.sb := rfl
@[simp] theorem Thread.pushS_pend (th : Thread) (q : Nat) (v : Dword) : (th.pushS q v).pend = th.pend := rfl
@[simp] theorem Thread.pushS_skip (th : Thread) (q : Nat) (v : Dword) : (th.pushS q v).skip = th.skip := rfl
@[simp] theorem Thread.pushS_sten (th : Thread) (q : Nat) (v : Dword) : (th.pushS q v).sten = th.sten := rfl
@[simp] theorem Thread.pushS_steng (th : Thread) (q : Nat) (v : Dword) : (th.pushS q v).steng = th.steng := rfl
@[simp] theorem Thread.pushS_recCode (th : Thread) (q : Nat) (v : Dword) : (th.pushS q v).recCode = th.recCode := rfl
@[simp] theorem Thread.pushS_recEng (th : Thread) (q : Nat) (v : Dword) : (th.pushS q v).recEng = th.recEng := rfl
@[simp] theorem Thread.pushS_recEstat (th : Thread) (q : Nat) (v : Dword) : (th.pushS q v).recEstat = th.recEstat := rfl
@[simp] theorem Thread.pushS_recAddr (th : Thread) (q : Nat) (v : Dword) : (th.pushS q v).recAddr = th.recAddr := rfl
@[simp] theorem Thread.pushS_recSystem (th : Thread) (q : Nat) (v : Dword) : (th.pushS q v).recSystem = th.recSystem := rfl
@[simp] theorem Thread.pushS_recNest (th : Thread) (q : Nat) (v : Dword) : (th.pushS q v).recNest = th.recNest := rfl
@[simp] theorem Thread.pushS_area (th : Thread) (q : Nat) (v : Dword) : (th.pushS q v).area = th.area := rfl
@[simp] theorem Thread.pushS_recHeld (th : Thread) (q : Nat) (v : Dword) : (th.pushS q v).recHeld = th.recHeld := rfl
@[simp] theorem Thread.pushS_stepPc (th : Thread) (q : Nat) (v : Dword) : (th.pushS q v).stepPc = th.stepPc := rfl
@[simp] theorem Thread.pushS_synAside (th : Thread) (q : Nat) (v : Dword) : (th.pushS q v).synAside = th.synAside := rfl
@[simp] theorem Thread.pushS_count (th : Thread) (q : Nat) (v : Dword) : (th.pushS q v).count = th.count := rfl
@[simp] theorem Thread.pushS_adr (th : Thread) (q : Nat) (v : Dword) : (th.pushS q v).adr = th.adr := rfl
@[simp] theorem Thread.pushS_mat (th : Thread) (q : Nat) (v : Dword) : (th.pushS q v).mat = th.mat := rfl
@[simp] theorem Thread.pushS_move (th : Thread) (q : Nat) (v : Dword) : (th.pushS q v).move = th.move := rfl
@[simp] theorem Thread.pushS_adrTrap (th : Thread) (q : Nat) (v : Dword) : (th.pushS q v).adrTrap = th.adrTrap := rfl
@[simp] theorem Thread.pushS_atomoSent (th : Thread) (q : Nat) (v : Dword) : (th.pushS q v).atomoSent = th.atomoSent := rfl
@[simp] theorem Thread.pushS_atomoOld (th : Thread) (q : Nat) (v : Dword) : (th.pushS q v).atomoOld = th.atomoOld := rfl
@[simp] theorem Thread.pushS_atomoFail (th : Thread) (q : Nat) (v : Dword) : (th.pushS q v).atomoFail = th.atomoFail := rfl
@[simp] theorem Thread.pushS_atomBegun (th : Thread) (q : Nat) (v : Dword) : (th.pushS q v).atomBegun = th.atomBegun := rfl
@[simp] theorem Thread.pushS_fences (th : Thread) (q : Nat) (v : Dword) : (th.pushS q v).fences = th.fences := rfl
@[simp] theorem Thread.pushS_synStage (th : Thread) (q : Nat) (v : Dword) : (th.pushS q v).synStage = th.synStage := rfl
@[simp] theorem Thread.pushS_fabStage (th : Thread) (q : Nat) (v : Dword) : (th.pushS q v).fabStage = th.fabStage := rfl
@[simp] theorem Thread.pushS_atnAt (th : Thread) (q : Nat) (v : Dword) : (th.pushS q v).atnAt = th.atnAt := rfl
@[simp] theorem Thread.pushS_recheck (th : Thread) (q : Nat) (v : Dword) : (th.pushS q v).recheck = th.recheck := rfl
@[simp] theorem Thread.pushS_fmtHeld (th : Thread) (q : Nat) (v : Dword) : (th.pushS q v).fmtHeld = th.fmtHeld := rfl
@[simp] theorem Thread.pushS_commitWait (th : Thread) (q : Nat) (v : Dword) : (th.pushS q v).commitWait = th.commitWait := rfl
@[simp] theorem Thread.pushS_tileAt (th : Thread) (q : Nat) (v : Dword) : (th.pushS q v).tileAt = th.tileAt := rfl
@[simp] theorem Thread.pushS_results (th : Thread) (q : Nat) (v : Dword) : (th.pushS q v).results = th.results := rfl
@[simp] theorem Thread.pushS_atnData (th : Thread) (q : Nat) (v : Dword) : (th.pushS q v).atnData = th.atnData := rfl
@[simp] theorem Thread.pushS_frameAt (th : Thread) (q : Nat) (v : Dword) : (th.pushS q v).frameAt = th.frameAt := rfl
@[simp] theorem Thread.pushS_batch (th : Thread) (q : Nat) (v : Dword) : (th.pushS q v).batch = th.batch := rfl
@[simp] theorem Thread.pushS_batches (th : Thread) (q : Nat) (v : Dword) : (th.pushS q v).batches = th.batches := rfl
@[simp] theorem Thread.pushS_bn (th : Thread) (q : Nat) (v : Dword) : (th.pushS q v).bn = th.bn := rfl
@[simp] theorem Thread.pushS_masks (th : Thread) (q : Nat) (v : Dword) : (th.pushS q v).masks = th.masks := rfl
@[simp] theorem Thread.pushS_selOff (th : Thread) (q : Nat) (v : Dword) : (th.pushS q v).selOff = th.selOff := rfl
@[simp] theorem Thread.pushS_ranks (th : Thread) (q : Nat) (v : Dword) : (th.pushS q v).ranks = th.ranks := rfl
@[simp] theorem Thread.pushS_child (th : Thread) (q : Nat) (v : Dword) : (th.pushS q v).child = th.child := rfl
@[simp] theorem Thread.pushS_launches (th : Thread) (q : Nat) (v : Dword) : (th.pushS q v).launches = th.launches := rfl
@[simp] theorem Thread.pushS_pending (th : Thread) (q : Nat) (v : Dword) : (th.pushS q v).pending = th.pending := rfl
@[simp] theorem Thread.pushS_phase (th : Thread) (q : Nat) (v : Dword) : (th.pushS q v).phase = th.phase := rfl
@[simp] theorem Thread.pushS_phases (th : Thread) (q : Nat) (v : Dword) : (th.pushS q v).phases = th.phases := rfl
@[simp] theorem Thread.pushS_hintX (th : Thread) (q : Nat) (v : Dword) : (th.pushS q v).hintX = th.hintX := rfl
@[simp] theorem Thread.pushS_contrib (th : Thread) (q : Nat) (v : Dword) : (th.pushS q v).contrib = th.contrib := rfl
@[simp] theorem Thread.pushS_deadSet (th : Thread) (q : Nat) (v : Dword) : (th.pushS q v).deadSet = th.deadSet := rfl
@[simp] theorem Thread.pushS_stall (th : Thread) (q : Nat) (v : Dword) : (th.pushS q v).stall = th.stall := rfl
@[simp] theorem Thread.pushS_turn (th : Thread) (q : Nat) (v : Dword) : (th.pushS q v).turn = th.turn := rfl

/-! ## `Thread.dropS` -/

@[simp] theorem Thread.dropS_st (th : Thread) (q : Nat) : (th.dropS q).st = th.st := rfl
@[simp] theorem Thread.dropS_was (th : Thread) (q : Nat) : (th.dropS q).was = th.was := rfl
@[simp] theorem Thread.dropS_cid (th : Thread) (q : Nat) : (th.dropS q).cid = th.cid := rfl
@[simp] theorem Thread.dropS_node (th : Thread) (q : Nat) : (th.dropS q).node = th.node := rfl
@[simp] theorem Thread.dropS_gang (th : Thread) (q : Nat) : (th.dropS q).gang = th.gang := rfl
@[simp] theorem Thread.dropS_member (th : Thread) (q : Nat) : (th.dropS q).member = th.member := rfl
@[simp] theorem Thread.dropS_die (th : Thread) (q : Nat) : (th.dropS q).die = th.die := rfl
@[simp] theorem Thread.dropS_core (th : Thread) (q : Nat) : (th.dropS q).core = th.core := rfl
@[simp] theorem Thread.dropS_text (th : Thread) (q : Nat) : (th.dropS q).text = th.text := rfl
@[simp] theorem Thread.dropS_s (th : Thread) (q : Nat) : (th.dropS q).s = th.s := rfl
@[simp] theorem Thread.dropS_p (th : Thread) (q : Nat) : (th.dropS q).p = th.p := rfl
@[simp] theorem Thread.dropS_v (th : Thread) (q : Nat) : (th.dropS q).v = th.v := rfl
@[simp] theorem Thread.dropS_m (th : Thread) (q : Nat) : (th.dropS q).m = th.m := rfl
@[simp] theorem Thread.dropS_acc (th : Thread) (q : Nat) : (th.dropS q).acc = th.acc := rfl
@[simp] theorem Thread.dropS_rck (th : Thread) (q : Nat) : (th.dropS q).rck = th.rck := rfl
@[simp] theorem Thread.dropS_cck (th : Thread) (q : Nat) : (th.dropS q).cck = th.cck := rfl
@[simp] theorem Thread.dropS_accSt (th : Thread) (q : Nat) : (th.dropS q).accSt = th.accSt := rfl
@[simp] theorem Thread.dropS_d (th : Thread) (q : Nat) : (th.dropS q).d = th.d := rfl
@[simp] theorem Thread.dropS_slipw (th : Thread) (q : Nat) : (th.dropS q).slipw = th.slipw := rfl
@[simp] theorem Thread.dropS_lcnt (th : Thread) (q : Nat) : (th.dropS q).lcnt = th.lcnt := rfl
@[simp] theorem Thread.dropS_nst (th : Thread) (q : Nat) : (th.dropS q).nst = th.nst := rfl
@[simp] theorem Thread.dropS_drain (th : Thread) (q : Nat) : (th.dropS q).drain = th.drain := rfl
@[simp] theorem Thread.dropS_loops (th : Thread) (q : Nat) : (th.dropS q).loops = th.loops := rfl
@[simp] theorem Thread.dropS_rrb (th : Thread) (q : Nat) : (th.dropS q).rrb = th.rrb := rfl
@[simp] theorem Thread.dropS_rrbOrd (th : Thread) (q : Nat) : (th.dropS q).rrbOrd = th.rrbOrd := rfl
@[simp] theorem Thread.dropS_asideOrd (th : Thread) (q : Nat) : (th.dropS q).asideOrd = th.asideOrd := rfl
@[simp] theorem Thread.dropS_gangIdx (th : Thread) (q : Nat) : (th.dropS q).gangIdx = th.gangIdx := rfl
@[simp] theorem Thread.dropS_gangs (th : Thread) (q : Nat) : (th.dropS q).gangs = th.gangs := rfl
@[simp] theorem Thread.dropS_lix (th : Thread) (q : Nat) : (th.dropS q).lix = th.lix := rfl
@[simp] theorem Thread.dropS_lsz (th : Thread) (q : Nat) : (th.dropS q).lsz = th.lsz := rfl
@[simp] theorem Thread.dropS_fpctl (th : Thread) (q : Nat) : (th.dropS q).fpctl = th.fpctl := rfl
@[simp] theorem Thread.dropS_trapvec (th : Thread) (q : Nat) : (th.dropS q).trapvec = th.trapvec := rfl
@[simp] theorem Thread.dropS_tsCode (th : Thread) (q : Nat) : (th.dropS q).tsCode = th.tsCode := rfl
@[simp] theorem Thread.dropS_tsEng (th : Thread) (q : Nat) : (th.dropS q).tsEng = th.tsEng := rfl
@[simp] theorem Thread.dropS_inh (th : Thread) (q : Nat) : (th.dropS q).inh = th.inh := rfl
@[simp] theorem Thread.dropS_mthr (th : Thread) (q : Nat) : (th.dropS q).mthr = th.mthr := rfl
@[simp] theorem Thread.dropS_mcntf (th : Thread) (q : Nat) : (th.dropS q).mcntf = th.mcntf := rfl
@[simp] theorem Thread.dropS_mcntp (th : Thread) (q : Nat) : (th.dropS q).mcntp = th.mcntp := rfl
@[simp] theorem Thread.dropS_mcnte (th : Thread) (q : Nat) : (th.dropS q).mcnte = th.mcnte := rfl
@[simp] theorem Thread.dropS_seeds (th : Thread) (q : Nat) : (th.dropS q).seeds = th.seeds := rfl
@[simp] theorem Thread.dropS_iq (th : Thread) (q : Nat) : (th.dropS q).iq = th.iq := rfl
@[simp] theorem Thread.dropS_aside (th : Thread) (q : Nat) : (th.dropS q).aside = th.aside := rfl
@[simp] theorem Thread.dropS_held (th : Thread) (q : Nat) : (th.dropS q).held = th.held := rfl
@[simp] theorem Thread.dropS_fetch (th : Thread) (q : Nat) : (th.dropS q).fetch = th.fetch := rfl
@[simp] theorem Thread.dropS_fetchSt (th : Thread) (q : Nat) : (th.dropS q).fetchSt = th.fetchSt := rfl
@[simp] theorem Thread.dropS_marks (th : Thread) (q : Nat) : (th.dropS q).marks = th.marks := rfl
@[simp] theorem Thread.dropS_savedFetch (th : Thread) (q : Nat) : (th.dropS q).savedFetch = th.savedFetch := rfl
@[simp] theorem Thread.dropS_savedFetchSt (th : Thread) (q : Nat) : (th.dropS q).savedFetchSt = th.savedFetchSt := rfl
@[simp] theorem Thread.dropS_savedMarks (th : Thread) (q : Nat) : (th.dropS q).savedMarks = th.savedMarks := rfl
@[simp] theorem Thread.dropS_nextOrd (th : Thread) (q : Nat) : (th.dropS q).nextOrd = th.nextOrd := rfl
@[simp] theorem Thread.dropS_qr (th : Thread) (q : Nat) : (th.dropS q).qr = th.qr := rfl
@[simp] theorem Thread.dropS_sb (th : Thread) (q : Nat) : (th.dropS q).sb = th.sb := rfl
@[simp] theorem Thread.dropS_pend (th : Thread) (q : Nat) : (th.dropS q).pend = th.pend := rfl
@[simp] theorem Thread.dropS_skip (th : Thread) (q : Nat) : (th.dropS q).skip = th.skip := rfl
@[simp] theorem Thread.dropS_sten (th : Thread) (q : Nat) : (th.dropS q).sten = th.sten := rfl
@[simp] theorem Thread.dropS_steng (th : Thread) (q : Nat) : (th.dropS q).steng = th.steng := rfl
@[simp] theorem Thread.dropS_recCode (th : Thread) (q : Nat) : (th.dropS q).recCode = th.recCode := rfl
@[simp] theorem Thread.dropS_recEng (th : Thread) (q : Nat) : (th.dropS q).recEng = th.recEng := rfl
@[simp] theorem Thread.dropS_recEstat (th : Thread) (q : Nat) : (th.dropS q).recEstat = th.recEstat := rfl
@[simp] theorem Thread.dropS_recAddr (th : Thread) (q : Nat) : (th.dropS q).recAddr = th.recAddr := rfl
@[simp] theorem Thread.dropS_recSystem (th : Thread) (q : Nat) : (th.dropS q).recSystem = th.recSystem := rfl
@[simp] theorem Thread.dropS_recNest (th : Thread) (q : Nat) : (th.dropS q).recNest = th.recNest := rfl
@[simp] theorem Thread.dropS_area (th : Thread) (q : Nat) : (th.dropS q).area = th.area := rfl
@[simp] theorem Thread.dropS_recHeld (th : Thread) (q : Nat) : (th.dropS q).recHeld = th.recHeld := rfl
@[simp] theorem Thread.dropS_stepPc (th : Thread) (q : Nat) : (th.dropS q).stepPc = th.stepPc := rfl
@[simp] theorem Thread.dropS_synAside (th : Thread) (q : Nat) : (th.dropS q).synAside = th.synAside := rfl
@[simp] theorem Thread.dropS_count (th : Thread) (q : Nat) : (th.dropS q).count = th.count := rfl
@[simp] theorem Thread.dropS_adr (th : Thread) (q : Nat) : (th.dropS q).adr = th.adr := rfl
@[simp] theorem Thread.dropS_mat (th : Thread) (q : Nat) : (th.dropS q).mat = th.mat := rfl
@[simp] theorem Thread.dropS_move (th : Thread) (q : Nat) : (th.dropS q).move = th.move := rfl
@[simp] theorem Thread.dropS_adrTrap (th : Thread) (q : Nat) : (th.dropS q).adrTrap = th.adrTrap := rfl
@[simp] theorem Thread.dropS_atomoSent (th : Thread) (q : Nat) : (th.dropS q).atomoSent = th.atomoSent := rfl
@[simp] theorem Thread.dropS_atomoOld (th : Thread) (q : Nat) : (th.dropS q).atomoOld = th.atomoOld := rfl
@[simp] theorem Thread.dropS_atomoFail (th : Thread) (q : Nat) : (th.dropS q).atomoFail = th.atomoFail := rfl
@[simp] theorem Thread.dropS_atomBegun (th : Thread) (q : Nat) : (th.dropS q).atomBegun = th.atomBegun := rfl
@[simp] theorem Thread.dropS_fences (th : Thread) (q : Nat) : (th.dropS q).fences = th.fences := rfl
@[simp] theorem Thread.dropS_synStage (th : Thread) (q : Nat) : (th.dropS q).synStage = th.synStage := rfl
@[simp] theorem Thread.dropS_fabStage (th : Thread) (q : Nat) : (th.dropS q).fabStage = th.fabStage := rfl
@[simp] theorem Thread.dropS_atnAt (th : Thread) (q : Nat) : (th.dropS q).atnAt = th.atnAt := rfl
@[simp] theorem Thread.dropS_recheck (th : Thread) (q : Nat) : (th.dropS q).recheck = th.recheck := rfl
@[simp] theorem Thread.dropS_fmtHeld (th : Thread) (q : Nat) : (th.dropS q).fmtHeld = th.fmtHeld := rfl
@[simp] theorem Thread.dropS_commitWait (th : Thread) (q : Nat) : (th.dropS q).commitWait = th.commitWait := rfl
@[simp] theorem Thread.dropS_tileAt (th : Thread) (q : Nat) : (th.dropS q).tileAt = th.tileAt := rfl
@[simp] theorem Thread.dropS_results (th : Thread) (q : Nat) : (th.dropS q).results = th.results := rfl
@[simp] theorem Thread.dropS_atnData (th : Thread) (q : Nat) : (th.dropS q).atnData = th.atnData := rfl
@[simp] theorem Thread.dropS_frameAt (th : Thread) (q : Nat) : (th.dropS q).frameAt = th.frameAt := rfl
@[simp] theorem Thread.dropS_batch (th : Thread) (q : Nat) : (th.dropS q).batch = th.batch := rfl
@[simp] theorem Thread.dropS_batches (th : Thread) (q : Nat) : (th.dropS q).batches = th.batches := rfl
@[simp] theorem Thread.dropS_bn (th : Thread) (q : Nat) : (th.dropS q).bn = th.bn := rfl
@[simp] theorem Thread.dropS_masks (th : Thread) (q : Nat) : (th.dropS q).masks = th.masks := rfl
@[simp] theorem Thread.dropS_selOff (th : Thread) (q : Nat) : (th.dropS q).selOff = th.selOff := rfl
@[simp] theorem Thread.dropS_ranks (th : Thread) (q : Nat) : (th.dropS q).ranks = th.ranks := rfl
@[simp] theorem Thread.dropS_child (th : Thread) (q : Nat) : (th.dropS q).child = th.child := rfl
@[simp] theorem Thread.dropS_launches (th : Thread) (q : Nat) : (th.dropS q).launches = th.launches := rfl
@[simp] theorem Thread.dropS_pending (th : Thread) (q : Nat) : (th.dropS q).pending = th.pending := rfl
@[simp] theorem Thread.dropS_phase (th : Thread) (q : Nat) : (th.dropS q).phase = th.phase := rfl
@[simp] theorem Thread.dropS_phases (th : Thread) (q : Nat) : (th.dropS q).phases = th.phases := rfl
@[simp] theorem Thread.dropS_hintX (th : Thread) (q : Nat) : (th.dropS q).hintX = th.hintX := rfl
@[simp] theorem Thread.dropS_contrib (th : Thread) (q : Nat) : (th.dropS q).contrib = th.contrib := rfl
@[simp] theorem Thread.dropS_deadSet (th : Thread) (q : Nat) : (th.dropS q).deadSet = th.deadSet := rfl
@[simp] theorem Thread.dropS_stall (th : Thread) (q : Nat) : (th.dropS q).stall = th.stall := rfl
@[simp] theorem Thread.dropS_turn (th : Thread) (q : Nat) : (th.dropS q).turn = th.turn := rfl

/-! ## `Thread.pushR` -/

@[simp] theorem Thread.pushR_st (th : Thread) (q : Nat) (v : Row) : (th.pushR q v).st = th.st := rfl
@[simp] theorem Thread.pushR_was (th : Thread) (q : Nat) (v : Row) : (th.pushR q v).was = th.was := rfl
@[simp] theorem Thread.pushR_cid (th : Thread) (q : Nat) (v : Row) : (th.pushR q v).cid = th.cid := rfl
@[simp] theorem Thread.pushR_node (th : Thread) (q : Nat) (v : Row) : (th.pushR q v).node = th.node := rfl
@[simp] theorem Thread.pushR_gang (th : Thread) (q : Nat) (v : Row) : (th.pushR q v).gang = th.gang := rfl
@[simp] theorem Thread.pushR_member (th : Thread) (q : Nat) (v : Row) : (th.pushR q v).member = th.member := rfl
@[simp] theorem Thread.pushR_die (th : Thread) (q : Nat) (v : Row) : (th.pushR q v).die = th.die := rfl
@[simp] theorem Thread.pushR_core (th : Thread) (q : Nat) (v : Row) : (th.pushR q v).core = th.core := rfl
@[simp] theorem Thread.pushR_text (th : Thread) (q : Nat) (v : Row) : (th.pushR q v).text = th.text := rfl
@[simp] theorem Thread.pushR_s (th : Thread) (q : Nat) (v : Row) : (th.pushR q v).s = th.s := rfl
@[simp] theorem Thread.pushR_p (th : Thread) (q : Nat) (v : Row) : (th.pushR q v).p = th.p := rfl
@[simp] theorem Thread.pushR_v (th : Thread) (q : Nat) (v : Row) : (th.pushR q v).v = th.v := rfl
@[simp] theorem Thread.pushR_m (th : Thread) (q : Nat) (v : Row) : (th.pushR q v).m = th.m := rfl
@[simp] theorem Thread.pushR_acc (th : Thread) (q : Nat) (v : Row) : (th.pushR q v).acc = th.acc := rfl
@[simp] theorem Thread.pushR_rck (th : Thread) (q : Nat) (v : Row) : (th.pushR q v).rck = th.rck := rfl
@[simp] theorem Thread.pushR_cck (th : Thread) (q : Nat) (v : Row) : (th.pushR q v).cck = th.cck := rfl
@[simp] theorem Thread.pushR_accSt (th : Thread) (q : Nat) (v : Row) : (th.pushR q v).accSt = th.accSt := rfl
@[simp] theorem Thread.pushR_d (th : Thread) (q : Nat) (v : Row) : (th.pushR q v).d = th.d := rfl
@[simp] theorem Thread.pushR_slipw (th : Thread) (q : Nat) (v : Row) : (th.pushR q v).slipw = th.slipw := rfl
@[simp] theorem Thread.pushR_lcnt (th : Thread) (q : Nat) (v : Row) : (th.pushR q v).lcnt = th.lcnt := rfl
@[simp] theorem Thread.pushR_nst (th : Thread) (q : Nat) (v : Row) : (th.pushR q v).nst = th.nst := rfl
@[simp] theorem Thread.pushR_drain (th : Thread) (q : Nat) (v : Row) : (th.pushR q v).drain = th.drain := rfl
@[simp] theorem Thread.pushR_loops (th : Thread) (q : Nat) (v : Row) : (th.pushR q v).loops = th.loops := rfl
@[simp] theorem Thread.pushR_rrb (th : Thread) (q : Nat) (v : Row) : (th.pushR q v).rrb = th.rrb := rfl
@[simp] theorem Thread.pushR_rrbOrd (th : Thread) (q : Nat) (v : Row) : (th.pushR q v).rrbOrd = th.rrbOrd := rfl
@[simp] theorem Thread.pushR_asideOrd (th : Thread) (q : Nat) (v : Row) : (th.pushR q v).asideOrd = th.asideOrd := rfl
@[simp] theorem Thread.pushR_gangIdx (th : Thread) (q : Nat) (v : Row) : (th.pushR q v).gangIdx = th.gangIdx := rfl
@[simp] theorem Thread.pushR_gangs (th : Thread) (q : Nat) (v : Row) : (th.pushR q v).gangs = th.gangs := rfl
@[simp] theorem Thread.pushR_lix (th : Thread) (q : Nat) (v : Row) : (th.pushR q v).lix = th.lix := rfl
@[simp] theorem Thread.pushR_lsz (th : Thread) (q : Nat) (v : Row) : (th.pushR q v).lsz = th.lsz := rfl
@[simp] theorem Thread.pushR_fpctl (th : Thread) (q : Nat) (v : Row) : (th.pushR q v).fpctl = th.fpctl := rfl
@[simp] theorem Thread.pushR_trapvec (th : Thread) (q : Nat) (v : Row) : (th.pushR q v).trapvec = th.trapvec := rfl
@[simp] theorem Thread.pushR_tsCode (th : Thread) (q : Nat) (v : Row) : (th.pushR q v).tsCode = th.tsCode := rfl
@[simp] theorem Thread.pushR_tsEng (th : Thread) (q : Nat) (v : Row) : (th.pushR q v).tsEng = th.tsEng := rfl
@[simp] theorem Thread.pushR_inh (th : Thread) (q : Nat) (v : Row) : (th.pushR q v).inh = th.inh := rfl
@[simp] theorem Thread.pushR_mthr (th : Thread) (q : Nat) (v : Row) : (th.pushR q v).mthr = th.mthr := rfl
@[simp] theorem Thread.pushR_mcntf (th : Thread) (q : Nat) (v : Row) : (th.pushR q v).mcntf = th.mcntf := rfl
@[simp] theorem Thread.pushR_mcntp (th : Thread) (q : Nat) (v : Row) : (th.pushR q v).mcntp = th.mcntp := rfl
@[simp] theorem Thread.pushR_mcnte (th : Thread) (q : Nat) (v : Row) : (th.pushR q v).mcnte = th.mcnte := rfl
@[simp] theorem Thread.pushR_seeds (th : Thread) (q : Nat) (v : Row) : (th.pushR q v).seeds = th.seeds := rfl
@[simp] theorem Thread.pushR_iq (th : Thread) (q : Nat) (v : Row) : (th.pushR q v).iq = th.iq := rfl
@[simp] theorem Thread.pushR_aside (th : Thread) (q : Nat) (v : Row) : (th.pushR q v).aside = th.aside := rfl
@[simp] theorem Thread.pushR_held (th : Thread) (q : Nat) (v : Row) : (th.pushR q v).held = th.held := rfl
@[simp] theorem Thread.pushR_fetch (th : Thread) (q : Nat) (v : Row) : (th.pushR q v).fetch = th.fetch := rfl
@[simp] theorem Thread.pushR_fetchSt (th : Thread) (q : Nat) (v : Row) : (th.pushR q v).fetchSt = th.fetchSt := rfl
@[simp] theorem Thread.pushR_marks (th : Thread) (q : Nat) (v : Row) : (th.pushR q v).marks = th.marks := rfl
@[simp] theorem Thread.pushR_savedFetch (th : Thread) (q : Nat) (v : Row) : (th.pushR q v).savedFetch = th.savedFetch := rfl
@[simp] theorem Thread.pushR_savedFetchSt (th : Thread) (q : Nat) (v : Row) : (th.pushR q v).savedFetchSt = th.savedFetchSt := rfl
@[simp] theorem Thread.pushR_savedMarks (th : Thread) (q : Nat) (v : Row) : (th.pushR q v).savedMarks = th.savedMarks := rfl
@[simp] theorem Thread.pushR_nextOrd (th : Thread) (q : Nat) (v : Row) : (th.pushR q v).nextOrd = th.nextOrd := rfl
@[simp] theorem Thread.pushR_qs (th : Thread) (q : Nat) (v : Row) : (th.pushR q v).qs = th.qs := rfl
@[simp] theorem Thread.pushR_sb (th : Thread) (q : Nat) (v : Row) : (th.pushR q v).sb = th.sb := rfl
@[simp] theorem Thread.pushR_pend (th : Thread) (q : Nat) (v : Row) : (th.pushR q v).pend = th.pend := rfl
@[simp] theorem Thread.pushR_skip (th : Thread) (q : Nat) (v : Row) : (th.pushR q v).skip = th.skip := rfl
@[simp] theorem Thread.pushR_sten (th : Thread) (q : Nat) (v : Row) : (th.pushR q v).sten = th.sten := rfl
@[simp] theorem Thread.pushR_steng (th : Thread) (q : Nat) (v : Row) : (th.pushR q v).steng = th.steng := rfl
@[simp] theorem Thread.pushR_recCode (th : Thread) (q : Nat) (v : Row) : (th.pushR q v).recCode = th.recCode := rfl
@[simp] theorem Thread.pushR_recEng (th : Thread) (q : Nat) (v : Row) : (th.pushR q v).recEng = th.recEng := rfl
@[simp] theorem Thread.pushR_recEstat (th : Thread) (q : Nat) (v : Row) : (th.pushR q v).recEstat = th.recEstat := rfl
@[simp] theorem Thread.pushR_recAddr (th : Thread) (q : Nat) (v : Row) : (th.pushR q v).recAddr = th.recAddr := rfl
@[simp] theorem Thread.pushR_recSystem (th : Thread) (q : Nat) (v : Row) : (th.pushR q v).recSystem = th.recSystem := rfl
@[simp] theorem Thread.pushR_recNest (th : Thread) (q : Nat) (v : Row) : (th.pushR q v).recNest = th.recNest := rfl
@[simp] theorem Thread.pushR_area (th : Thread) (q : Nat) (v : Row) : (th.pushR q v).area = th.area := rfl
@[simp] theorem Thread.pushR_recHeld (th : Thread) (q : Nat) (v : Row) : (th.pushR q v).recHeld = th.recHeld := rfl
@[simp] theorem Thread.pushR_stepPc (th : Thread) (q : Nat) (v : Row) : (th.pushR q v).stepPc = th.stepPc := rfl
@[simp] theorem Thread.pushR_synAside (th : Thread) (q : Nat) (v : Row) : (th.pushR q v).synAside = th.synAside := rfl
@[simp] theorem Thread.pushR_count (th : Thread) (q : Nat) (v : Row) : (th.pushR q v).count = th.count := rfl
@[simp] theorem Thread.pushR_adr (th : Thread) (q : Nat) (v : Row) : (th.pushR q v).adr = th.adr := rfl
@[simp] theorem Thread.pushR_mat (th : Thread) (q : Nat) (v : Row) : (th.pushR q v).mat = th.mat := rfl
@[simp] theorem Thread.pushR_move (th : Thread) (q : Nat) (v : Row) : (th.pushR q v).move = th.move := rfl
@[simp] theorem Thread.pushR_adrTrap (th : Thread) (q : Nat) (v : Row) : (th.pushR q v).adrTrap = th.adrTrap := rfl
@[simp] theorem Thread.pushR_atomoSent (th : Thread) (q : Nat) (v : Row) : (th.pushR q v).atomoSent = th.atomoSent := rfl
@[simp] theorem Thread.pushR_atomoOld (th : Thread) (q : Nat) (v : Row) : (th.pushR q v).atomoOld = th.atomoOld := rfl
@[simp] theorem Thread.pushR_atomoFail (th : Thread) (q : Nat) (v : Row) : (th.pushR q v).atomoFail = th.atomoFail := rfl
@[simp] theorem Thread.pushR_atomBegun (th : Thread) (q : Nat) (v : Row) : (th.pushR q v).atomBegun = th.atomBegun := rfl
@[simp] theorem Thread.pushR_fences (th : Thread) (q : Nat) (v : Row) : (th.pushR q v).fences = th.fences := rfl
@[simp] theorem Thread.pushR_synStage (th : Thread) (q : Nat) (v : Row) : (th.pushR q v).synStage = th.synStage := rfl
@[simp] theorem Thread.pushR_fabStage (th : Thread) (q : Nat) (v : Row) : (th.pushR q v).fabStage = th.fabStage := rfl
@[simp] theorem Thread.pushR_atnAt (th : Thread) (q : Nat) (v : Row) : (th.pushR q v).atnAt = th.atnAt := rfl
@[simp] theorem Thread.pushR_recheck (th : Thread) (q : Nat) (v : Row) : (th.pushR q v).recheck = th.recheck := rfl
@[simp] theorem Thread.pushR_fmtHeld (th : Thread) (q : Nat) (v : Row) : (th.pushR q v).fmtHeld = th.fmtHeld := rfl
@[simp] theorem Thread.pushR_commitWait (th : Thread) (q : Nat) (v : Row) : (th.pushR q v).commitWait = th.commitWait := rfl
@[simp] theorem Thread.pushR_tileAt (th : Thread) (q : Nat) (v : Row) : (th.pushR q v).tileAt = th.tileAt := rfl
@[simp] theorem Thread.pushR_results (th : Thread) (q : Nat) (v : Row) : (th.pushR q v).results = th.results := rfl
@[simp] theorem Thread.pushR_atnData (th : Thread) (q : Nat) (v : Row) : (th.pushR q v).atnData = th.atnData := rfl
@[simp] theorem Thread.pushR_frameAt (th : Thread) (q : Nat) (v : Row) : (th.pushR q v).frameAt = th.frameAt := rfl
@[simp] theorem Thread.pushR_batch (th : Thread) (q : Nat) (v : Row) : (th.pushR q v).batch = th.batch := rfl
@[simp] theorem Thread.pushR_batches (th : Thread) (q : Nat) (v : Row) : (th.pushR q v).batches = th.batches := rfl
@[simp] theorem Thread.pushR_bn (th : Thread) (q : Nat) (v : Row) : (th.pushR q v).bn = th.bn := rfl
@[simp] theorem Thread.pushR_masks (th : Thread) (q : Nat) (v : Row) : (th.pushR q v).masks = th.masks := rfl
@[simp] theorem Thread.pushR_selOff (th : Thread) (q : Nat) (v : Row) : (th.pushR q v).selOff = th.selOff := rfl
@[simp] theorem Thread.pushR_ranks (th : Thread) (q : Nat) (v : Row) : (th.pushR q v).ranks = th.ranks := rfl
@[simp] theorem Thread.pushR_child (th : Thread) (q : Nat) (v : Row) : (th.pushR q v).child = th.child := rfl
@[simp] theorem Thread.pushR_launches (th : Thread) (q : Nat) (v : Row) : (th.pushR q v).launches = th.launches := rfl
@[simp] theorem Thread.pushR_pending (th : Thread) (q : Nat) (v : Row) : (th.pushR q v).pending = th.pending := rfl
@[simp] theorem Thread.pushR_phase (th : Thread) (q : Nat) (v : Row) : (th.pushR q v).phase = th.phase := rfl
@[simp] theorem Thread.pushR_phases (th : Thread) (q : Nat) (v : Row) : (th.pushR q v).phases = th.phases := rfl
@[simp] theorem Thread.pushR_hintX (th : Thread) (q : Nat) (v : Row) : (th.pushR q v).hintX = th.hintX := rfl
@[simp] theorem Thread.pushR_contrib (th : Thread) (q : Nat) (v : Row) : (th.pushR q v).contrib = th.contrib := rfl
@[simp] theorem Thread.pushR_deadSet (th : Thread) (q : Nat) (v : Row) : (th.pushR q v).deadSet = th.deadSet := rfl
@[simp] theorem Thread.pushR_stall (th : Thread) (q : Nat) (v : Row) : (th.pushR q v).stall = th.stall := rfl
@[simp] theorem Thread.pushR_turn (th : Thread) (q : Nat) (v : Row) : (th.pushR q v).turn = th.turn := rfl

/-! ## `Thread.dropR` -/

@[simp] theorem Thread.dropR_st (th : Thread) (q : Nat) : (th.dropR q).st = th.st := rfl
@[simp] theorem Thread.dropR_was (th : Thread) (q : Nat) : (th.dropR q).was = th.was := rfl
@[simp] theorem Thread.dropR_cid (th : Thread) (q : Nat) : (th.dropR q).cid = th.cid := rfl
@[simp] theorem Thread.dropR_node (th : Thread) (q : Nat) : (th.dropR q).node = th.node := rfl
@[simp] theorem Thread.dropR_gang (th : Thread) (q : Nat) : (th.dropR q).gang = th.gang := rfl
@[simp] theorem Thread.dropR_member (th : Thread) (q : Nat) : (th.dropR q).member = th.member := rfl
@[simp] theorem Thread.dropR_die (th : Thread) (q : Nat) : (th.dropR q).die = th.die := rfl
@[simp] theorem Thread.dropR_core (th : Thread) (q : Nat) : (th.dropR q).core = th.core := rfl
@[simp] theorem Thread.dropR_text (th : Thread) (q : Nat) : (th.dropR q).text = th.text := rfl
@[simp] theorem Thread.dropR_s (th : Thread) (q : Nat) : (th.dropR q).s = th.s := rfl
@[simp] theorem Thread.dropR_p (th : Thread) (q : Nat) : (th.dropR q).p = th.p := rfl
@[simp] theorem Thread.dropR_v (th : Thread) (q : Nat) : (th.dropR q).v = th.v := rfl
@[simp] theorem Thread.dropR_m (th : Thread) (q : Nat) : (th.dropR q).m = th.m := rfl
@[simp] theorem Thread.dropR_acc (th : Thread) (q : Nat) : (th.dropR q).acc = th.acc := rfl
@[simp] theorem Thread.dropR_rck (th : Thread) (q : Nat) : (th.dropR q).rck = th.rck := rfl
@[simp] theorem Thread.dropR_cck (th : Thread) (q : Nat) : (th.dropR q).cck = th.cck := rfl
@[simp] theorem Thread.dropR_accSt (th : Thread) (q : Nat) : (th.dropR q).accSt = th.accSt := rfl
@[simp] theorem Thread.dropR_d (th : Thread) (q : Nat) : (th.dropR q).d = th.d := rfl
@[simp] theorem Thread.dropR_slipw (th : Thread) (q : Nat) : (th.dropR q).slipw = th.slipw := rfl
@[simp] theorem Thread.dropR_lcnt (th : Thread) (q : Nat) : (th.dropR q).lcnt = th.lcnt := rfl
@[simp] theorem Thread.dropR_nst (th : Thread) (q : Nat) : (th.dropR q).nst = th.nst := rfl
@[simp] theorem Thread.dropR_drain (th : Thread) (q : Nat) : (th.dropR q).drain = th.drain := rfl
@[simp] theorem Thread.dropR_loops (th : Thread) (q : Nat) : (th.dropR q).loops = th.loops := rfl
@[simp] theorem Thread.dropR_rrb (th : Thread) (q : Nat) : (th.dropR q).rrb = th.rrb := rfl
@[simp] theorem Thread.dropR_rrbOrd (th : Thread) (q : Nat) : (th.dropR q).rrbOrd = th.rrbOrd := rfl
@[simp] theorem Thread.dropR_asideOrd (th : Thread) (q : Nat) : (th.dropR q).asideOrd = th.asideOrd := rfl
@[simp] theorem Thread.dropR_gangIdx (th : Thread) (q : Nat) : (th.dropR q).gangIdx = th.gangIdx := rfl
@[simp] theorem Thread.dropR_gangs (th : Thread) (q : Nat) : (th.dropR q).gangs = th.gangs := rfl
@[simp] theorem Thread.dropR_lix (th : Thread) (q : Nat) : (th.dropR q).lix = th.lix := rfl
@[simp] theorem Thread.dropR_lsz (th : Thread) (q : Nat) : (th.dropR q).lsz = th.lsz := rfl
@[simp] theorem Thread.dropR_fpctl (th : Thread) (q : Nat) : (th.dropR q).fpctl = th.fpctl := rfl
@[simp] theorem Thread.dropR_trapvec (th : Thread) (q : Nat) : (th.dropR q).trapvec = th.trapvec := rfl
@[simp] theorem Thread.dropR_tsCode (th : Thread) (q : Nat) : (th.dropR q).tsCode = th.tsCode := rfl
@[simp] theorem Thread.dropR_tsEng (th : Thread) (q : Nat) : (th.dropR q).tsEng = th.tsEng := rfl
@[simp] theorem Thread.dropR_inh (th : Thread) (q : Nat) : (th.dropR q).inh = th.inh := rfl
@[simp] theorem Thread.dropR_mthr (th : Thread) (q : Nat) : (th.dropR q).mthr = th.mthr := rfl
@[simp] theorem Thread.dropR_mcntf (th : Thread) (q : Nat) : (th.dropR q).mcntf = th.mcntf := rfl
@[simp] theorem Thread.dropR_mcntp (th : Thread) (q : Nat) : (th.dropR q).mcntp = th.mcntp := rfl
@[simp] theorem Thread.dropR_mcnte (th : Thread) (q : Nat) : (th.dropR q).mcnte = th.mcnte := rfl
@[simp] theorem Thread.dropR_seeds (th : Thread) (q : Nat) : (th.dropR q).seeds = th.seeds := rfl
@[simp] theorem Thread.dropR_iq (th : Thread) (q : Nat) : (th.dropR q).iq = th.iq := rfl
@[simp] theorem Thread.dropR_aside (th : Thread) (q : Nat) : (th.dropR q).aside = th.aside := rfl
@[simp] theorem Thread.dropR_held (th : Thread) (q : Nat) : (th.dropR q).held = th.held := rfl
@[simp] theorem Thread.dropR_fetch (th : Thread) (q : Nat) : (th.dropR q).fetch = th.fetch := rfl
@[simp] theorem Thread.dropR_fetchSt (th : Thread) (q : Nat) : (th.dropR q).fetchSt = th.fetchSt := rfl
@[simp] theorem Thread.dropR_marks (th : Thread) (q : Nat) : (th.dropR q).marks = th.marks := rfl
@[simp] theorem Thread.dropR_savedFetch (th : Thread) (q : Nat) : (th.dropR q).savedFetch = th.savedFetch := rfl
@[simp] theorem Thread.dropR_savedFetchSt (th : Thread) (q : Nat) : (th.dropR q).savedFetchSt = th.savedFetchSt := rfl
@[simp] theorem Thread.dropR_savedMarks (th : Thread) (q : Nat) : (th.dropR q).savedMarks = th.savedMarks := rfl
@[simp] theorem Thread.dropR_nextOrd (th : Thread) (q : Nat) : (th.dropR q).nextOrd = th.nextOrd := rfl
@[simp] theorem Thread.dropR_qs (th : Thread) (q : Nat) : (th.dropR q).qs = th.qs := rfl
@[simp] theorem Thread.dropR_sb (th : Thread) (q : Nat) : (th.dropR q).sb = th.sb := rfl
@[simp] theorem Thread.dropR_pend (th : Thread) (q : Nat) : (th.dropR q).pend = th.pend := rfl
@[simp] theorem Thread.dropR_skip (th : Thread) (q : Nat) : (th.dropR q).skip = th.skip := rfl
@[simp] theorem Thread.dropR_sten (th : Thread) (q : Nat) : (th.dropR q).sten = th.sten := rfl
@[simp] theorem Thread.dropR_steng (th : Thread) (q : Nat) : (th.dropR q).steng = th.steng := rfl
@[simp] theorem Thread.dropR_recCode (th : Thread) (q : Nat) : (th.dropR q).recCode = th.recCode := rfl
@[simp] theorem Thread.dropR_recEng (th : Thread) (q : Nat) : (th.dropR q).recEng = th.recEng := rfl
@[simp] theorem Thread.dropR_recEstat (th : Thread) (q : Nat) : (th.dropR q).recEstat = th.recEstat := rfl
@[simp] theorem Thread.dropR_recAddr (th : Thread) (q : Nat) : (th.dropR q).recAddr = th.recAddr := rfl
@[simp] theorem Thread.dropR_recSystem (th : Thread) (q : Nat) : (th.dropR q).recSystem = th.recSystem := rfl
@[simp] theorem Thread.dropR_recNest (th : Thread) (q : Nat) : (th.dropR q).recNest = th.recNest := rfl
@[simp] theorem Thread.dropR_area (th : Thread) (q : Nat) : (th.dropR q).area = th.area := rfl
@[simp] theorem Thread.dropR_recHeld (th : Thread) (q : Nat) : (th.dropR q).recHeld = th.recHeld := rfl
@[simp] theorem Thread.dropR_stepPc (th : Thread) (q : Nat) : (th.dropR q).stepPc = th.stepPc := rfl
@[simp] theorem Thread.dropR_synAside (th : Thread) (q : Nat) : (th.dropR q).synAside = th.synAside := rfl
@[simp] theorem Thread.dropR_count (th : Thread) (q : Nat) : (th.dropR q).count = th.count := rfl
@[simp] theorem Thread.dropR_adr (th : Thread) (q : Nat) : (th.dropR q).adr = th.adr := rfl
@[simp] theorem Thread.dropR_mat (th : Thread) (q : Nat) : (th.dropR q).mat = th.mat := rfl
@[simp] theorem Thread.dropR_move (th : Thread) (q : Nat) : (th.dropR q).move = th.move := rfl
@[simp] theorem Thread.dropR_adrTrap (th : Thread) (q : Nat) : (th.dropR q).adrTrap = th.adrTrap := rfl
@[simp] theorem Thread.dropR_atomoSent (th : Thread) (q : Nat) : (th.dropR q).atomoSent = th.atomoSent := rfl
@[simp] theorem Thread.dropR_atomoOld (th : Thread) (q : Nat) : (th.dropR q).atomoOld = th.atomoOld := rfl
@[simp] theorem Thread.dropR_atomoFail (th : Thread) (q : Nat) : (th.dropR q).atomoFail = th.atomoFail := rfl
@[simp] theorem Thread.dropR_atomBegun (th : Thread) (q : Nat) : (th.dropR q).atomBegun = th.atomBegun := rfl
@[simp] theorem Thread.dropR_fences (th : Thread) (q : Nat) : (th.dropR q).fences = th.fences := rfl
@[simp] theorem Thread.dropR_synStage (th : Thread) (q : Nat) : (th.dropR q).synStage = th.synStage := rfl
@[simp] theorem Thread.dropR_fabStage (th : Thread) (q : Nat) : (th.dropR q).fabStage = th.fabStage := rfl
@[simp] theorem Thread.dropR_atnAt (th : Thread) (q : Nat) : (th.dropR q).atnAt = th.atnAt := rfl
@[simp] theorem Thread.dropR_recheck (th : Thread) (q : Nat) : (th.dropR q).recheck = th.recheck := rfl
@[simp] theorem Thread.dropR_fmtHeld (th : Thread) (q : Nat) : (th.dropR q).fmtHeld = th.fmtHeld := rfl
@[simp] theorem Thread.dropR_commitWait (th : Thread) (q : Nat) : (th.dropR q).commitWait = th.commitWait := rfl
@[simp] theorem Thread.dropR_tileAt (th : Thread) (q : Nat) : (th.dropR q).tileAt = th.tileAt := rfl
@[simp] theorem Thread.dropR_results (th : Thread) (q : Nat) : (th.dropR q).results = th.results := rfl
@[simp] theorem Thread.dropR_atnData (th : Thread) (q : Nat) : (th.dropR q).atnData = th.atnData := rfl
@[simp] theorem Thread.dropR_frameAt (th : Thread) (q : Nat) : (th.dropR q).frameAt = th.frameAt := rfl
@[simp] theorem Thread.dropR_batch (th : Thread) (q : Nat) : (th.dropR q).batch = th.batch := rfl
@[simp] theorem Thread.dropR_batches (th : Thread) (q : Nat) : (th.dropR q).batches = th.batches := rfl
@[simp] theorem Thread.dropR_bn (th : Thread) (q : Nat) : (th.dropR q).bn = th.bn := rfl
@[simp] theorem Thread.dropR_masks (th : Thread) (q : Nat) : (th.dropR q).masks = th.masks := rfl
@[simp] theorem Thread.dropR_selOff (th : Thread) (q : Nat) : (th.dropR q).selOff = th.selOff := rfl
@[simp] theorem Thread.dropR_ranks (th : Thread) (q : Nat) : (th.dropR q).ranks = th.ranks := rfl
@[simp] theorem Thread.dropR_child (th : Thread) (q : Nat) : (th.dropR q).child = th.child := rfl
@[simp] theorem Thread.dropR_launches (th : Thread) (q : Nat) : (th.dropR q).launches = th.launches := rfl
@[simp] theorem Thread.dropR_pending (th : Thread) (q : Nat) : (th.dropR q).pending = th.pending := rfl
@[simp] theorem Thread.dropR_phase (th : Thread) (q : Nat) : (th.dropR q).phase = th.phase := rfl
@[simp] theorem Thread.dropR_phases (th : Thread) (q : Nat) : (th.dropR q).phases = th.phases := rfl
@[simp] theorem Thread.dropR_hintX (th : Thread) (q : Nat) : (th.dropR q).hintX = th.hintX := rfl
@[simp] theorem Thread.dropR_contrib (th : Thread) (q : Nat) : (th.dropR q).contrib = th.contrib := rfl
@[simp] theorem Thread.dropR_deadSet (th : Thread) (q : Nat) : (th.dropR q).deadSet = th.deadSet := rfl
@[simp] theorem Thread.dropR_stall (th : Thread) (q : Nat) : (th.dropR q).stall = th.stall := rfl
@[simp] theorem Thread.dropR_turn (th : Thread) (q : Nat) : (th.dropR q).turn = th.turn := rfl

/-! ## `Thread.popIq` -/

@[simp] theorem Thread.popIq_st (th : Thread) (e : Engine) : (th.popIq e).st = th.st := rfl
@[simp] theorem Thread.popIq_was (th : Thread) (e : Engine) : (th.popIq e).was = th.was := rfl
@[simp] theorem Thread.popIq_cid (th : Thread) (e : Engine) : (th.popIq e).cid = th.cid := rfl
@[simp] theorem Thread.popIq_node (th : Thread) (e : Engine) : (th.popIq e).node = th.node := rfl
@[simp] theorem Thread.popIq_gang (th : Thread) (e : Engine) : (th.popIq e).gang = th.gang := rfl
@[simp] theorem Thread.popIq_member (th : Thread) (e : Engine) : (th.popIq e).member = th.member := rfl
@[simp] theorem Thread.popIq_die (th : Thread) (e : Engine) : (th.popIq e).die = th.die := rfl
@[simp] theorem Thread.popIq_core (th : Thread) (e : Engine) : (th.popIq e).core = th.core := rfl
@[simp] theorem Thread.popIq_text (th : Thread) (e : Engine) : (th.popIq e).text = th.text := rfl
@[simp] theorem Thread.popIq_s (th : Thread) (e : Engine) : (th.popIq e).s = th.s := rfl
@[simp] theorem Thread.popIq_p (th : Thread) (e : Engine) : (th.popIq e).p = th.p := rfl
@[simp] theorem Thread.popIq_v (th : Thread) (e : Engine) : (th.popIq e).v = th.v := rfl
@[simp] theorem Thread.popIq_m (th : Thread) (e : Engine) : (th.popIq e).m = th.m := rfl
@[simp] theorem Thread.popIq_acc (th : Thread) (e : Engine) : (th.popIq e).acc = th.acc := rfl
@[simp] theorem Thread.popIq_rck (th : Thread) (e : Engine) : (th.popIq e).rck = th.rck := rfl
@[simp] theorem Thread.popIq_cck (th : Thread) (e : Engine) : (th.popIq e).cck = th.cck := rfl
@[simp] theorem Thread.popIq_accSt (th : Thread) (e : Engine) : (th.popIq e).accSt = th.accSt := rfl
@[simp] theorem Thread.popIq_d (th : Thread) (e : Engine) : (th.popIq e).d = th.d := rfl
@[simp] theorem Thread.popIq_slipw (th : Thread) (e : Engine) : (th.popIq e).slipw = th.slipw := rfl
@[simp] theorem Thread.popIq_lcnt (th : Thread) (e : Engine) : (th.popIq e).lcnt = th.lcnt := rfl
@[simp] theorem Thread.popIq_nst (th : Thread) (e : Engine) : (th.popIq e).nst = th.nst := rfl
@[simp] theorem Thread.popIq_drain (th : Thread) (e : Engine) : (th.popIq e).drain = th.drain := rfl
@[simp] theorem Thread.popIq_loops (th : Thread) (e : Engine) : (th.popIq e).loops = th.loops := rfl
@[simp] theorem Thread.popIq_rrb (th : Thread) (e : Engine) : (th.popIq e).rrb = th.rrb := rfl
@[simp] theorem Thread.popIq_rrbOrd (th : Thread) (e : Engine) : (th.popIq e).rrbOrd = th.rrbOrd := rfl
@[simp] theorem Thread.popIq_asideOrd (th : Thread) (e : Engine) : (th.popIq e).asideOrd = th.asideOrd := rfl
@[simp] theorem Thread.popIq_gangIdx (th : Thread) (e : Engine) : (th.popIq e).gangIdx = th.gangIdx := rfl
@[simp] theorem Thread.popIq_gangs (th : Thread) (e : Engine) : (th.popIq e).gangs = th.gangs := rfl
@[simp] theorem Thread.popIq_lix (th : Thread) (e : Engine) : (th.popIq e).lix = th.lix := rfl
@[simp] theorem Thread.popIq_lsz (th : Thread) (e : Engine) : (th.popIq e).lsz = th.lsz := rfl
@[simp] theorem Thread.popIq_fpctl (th : Thread) (e : Engine) : (th.popIq e).fpctl = th.fpctl := rfl
@[simp] theorem Thread.popIq_trapvec (th : Thread) (e : Engine) : (th.popIq e).trapvec = th.trapvec := rfl
@[simp] theorem Thread.popIq_tsCode (th : Thread) (e : Engine) : (th.popIq e).tsCode = th.tsCode := rfl
@[simp] theorem Thread.popIq_tsEng (th : Thread) (e : Engine) : (th.popIq e).tsEng = th.tsEng := rfl
@[simp] theorem Thread.popIq_inh (th : Thread) (e : Engine) : (th.popIq e).inh = th.inh := rfl
@[simp] theorem Thread.popIq_mthr (th : Thread) (e : Engine) : (th.popIq e).mthr = th.mthr := rfl
@[simp] theorem Thread.popIq_mcntf (th : Thread) (e : Engine) : (th.popIq e).mcntf = th.mcntf := rfl
@[simp] theorem Thread.popIq_mcntp (th : Thread) (e : Engine) : (th.popIq e).mcntp = th.mcntp := rfl
@[simp] theorem Thread.popIq_mcnte (th : Thread) (e : Engine) : (th.popIq e).mcnte = th.mcnte := rfl
@[simp] theorem Thread.popIq_seeds (th : Thread) (e : Engine) : (th.popIq e).seeds = th.seeds := rfl
@[simp] theorem Thread.popIq_aside (th : Thread) (e : Engine) : (th.popIq e).aside = th.aside := rfl
@[simp] theorem Thread.popIq_held (th : Thread) (e : Engine) : (th.popIq e).held = th.held := rfl
@[simp] theorem Thread.popIq_fetch (th : Thread) (e : Engine) : (th.popIq e).fetch = th.fetch := rfl
@[simp] theorem Thread.popIq_fetchSt (th : Thread) (e : Engine) : (th.popIq e).fetchSt = th.fetchSt := rfl
@[simp] theorem Thread.popIq_marks (th : Thread) (e : Engine) : (th.popIq e).marks = th.marks := rfl
@[simp] theorem Thread.popIq_savedFetch (th : Thread) (e : Engine) : (th.popIq e).savedFetch = th.savedFetch := rfl
@[simp] theorem Thread.popIq_savedFetchSt (th : Thread) (e : Engine) : (th.popIq e).savedFetchSt = th.savedFetchSt := rfl
@[simp] theorem Thread.popIq_savedMarks (th : Thread) (e : Engine) : (th.popIq e).savedMarks = th.savedMarks := rfl
@[simp] theorem Thread.popIq_nextOrd (th : Thread) (e : Engine) : (th.popIq e).nextOrd = th.nextOrd := rfl
@[simp] theorem Thread.popIq_qs (th : Thread) (e : Engine) : (th.popIq e).qs = th.qs := rfl
@[simp] theorem Thread.popIq_qr (th : Thread) (e : Engine) : (th.popIq e).qr = th.qr := rfl
@[simp] theorem Thread.popIq_sb (th : Thread) (e : Engine) : (th.popIq e).sb = th.sb := rfl
@[simp] theorem Thread.popIq_pend (th : Thread) (e : Engine) : (th.popIq e).pend = th.pend := rfl
@[simp] theorem Thread.popIq_skip (th : Thread) (e : Engine) : (th.popIq e).skip = th.skip := rfl
@[simp] theorem Thread.popIq_sten (th : Thread) (e : Engine) : (th.popIq e).sten = th.sten := rfl
@[simp] theorem Thread.popIq_steng (th : Thread) (e : Engine) : (th.popIq e).steng = th.steng := rfl
@[simp] theorem Thread.popIq_recCode (th : Thread) (e : Engine) : (th.popIq e).recCode = th.recCode := rfl
@[simp] theorem Thread.popIq_recEng (th : Thread) (e : Engine) : (th.popIq e).recEng = th.recEng := rfl
@[simp] theorem Thread.popIq_recEstat (th : Thread) (e : Engine) : (th.popIq e).recEstat = th.recEstat := rfl
@[simp] theorem Thread.popIq_recAddr (th : Thread) (e : Engine) : (th.popIq e).recAddr = th.recAddr := rfl
@[simp] theorem Thread.popIq_recSystem (th : Thread) (e : Engine) : (th.popIq e).recSystem = th.recSystem := rfl
@[simp] theorem Thread.popIq_recNest (th : Thread) (e : Engine) : (th.popIq e).recNest = th.recNest := rfl
@[simp] theorem Thread.popIq_area (th : Thread) (e : Engine) : (th.popIq e).area = th.area := rfl
@[simp] theorem Thread.popIq_recHeld (th : Thread) (e : Engine) : (th.popIq e).recHeld = th.recHeld := rfl
@[simp] theorem Thread.popIq_stepPc (th : Thread) (e : Engine) : (th.popIq e).stepPc = th.stepPc := rfl
@[simp] theorem Thread.popIq_synAside (th : Thread) (e : Engine) : (th.popIq e).synAside = th.synAside := rfl
@[simp] theorem Thread.popIq_count (th : Thread) (e : Engine) : (th.popIq e).count = th.count := rfl
@[simp] theorem Thread.popIq_adr (th : Thread) (e : Engine) : (th.popIq e).adr = th.adr := rfl
@[simp] theorem Thread.popIq_mat (th : Thread) (e : Engine) : (th.popIq e).mat = th.mat := rfl
@[simp] theorem Thread.popIq_move (th : Thread) (e : Engine) : (th.popIq e).move = th.move := rfl
@[simp] theorem Thread.popIq_adrTrap (th : Thread) (e : Engine) : (th.popIq e).adrTrap = th.adrTrap := rfl
@[simp] theorem Thread.popIq_atomoSent (th : Thread) (e : Engine) : (th.popIq e).atomoSent = th.atomoSent := rfl
@[simp] theorem Thread.popIq_atomoOld (th : Thread) (e : Engine) : (th.popIq e).atomoOld = th.atomoOld := rfl
@[simp] theorem Thread.popIq_atomoFail (th : Thread) (e : Engine) : (th.popIq e).atomoFail = th.atomoFail := rfl
@[simp] theorem Thread.popIq_atomBegun (th : Thread) (e : Engine) : (th.popIq e).atomBegun = th.atomBegun := rfl
@[simp] theorem Thread.popIq_fences (th : Thread) (e : Engine) : (th.popIq e).fences = th.fences := rfl
@[simp] theorem Thread.popIq_synStage (th : Thread) (e : Engine) : (th.popIq e).synStage = th.synStage := rfl
@[simp] theorem Thread.popIq_fabStage (th : Thread) (e : Engine) : (th.popIq e).fabStage = th.fabStage := rfl
@[simp] theorem Thread.popIq_atnAt (th : Thread) (e : Engine) : (th.popIq e).atnAt = th.atnAt := rfl
@[simp] theorem Thread.popIq_recheck (th : Thread) (e : Engine) : (th.popIq e).recheck = th.recheck := rfl
@[simp] theorem Thread.popIq_fmtHeld (th : Thread) (e : Engine) : (th.popIq e).fmtHeld = th.fmtHeld := rfl
@[simp] theorem Thread.popIq_commitWait (th : Thread) (e : Engine) : (th.popIq e).commitWait = th.commitWait := rfl
@[simp] theorem Thread.popIq_tileAt (th : Thread) (e : Engine) : (th.popIq e).tileAt = th.tileAt := rfl
@[simp] theorem Thread.popIq_results (th : Thread) (e : Engine) : (th.popIq e).results = th.results := rfl
@[simp] theorem Thread.popIq_atnData (th : Thread) (e : Engine) : (th.popIq e).atnData = th.atnData := rfl
@[simp] theorem Thread.popIq_frameAt (th : Thread) (e : Engine) : (th.popIq e).frameAt = th.frameAt := rfl
@[simp] theorem Thread.popIq_batch (th : Thread) (e : Engine) : (th.popIq e).batch = th.batch := rfl
@[simp] theorem Thread.popIq_batches (th : Thread) (e : Engine) : (th.popIq e).batches = th.batches := rfl
@[simp] theorem Thread.popIq_bn (th : Thread) (e : Engine) : (th.popIq e).bn = th.bn := rfl
@[simp] theorem Thread.popIq_masks (th : Thread) (e : Engine) : (th.popIq e).masks = th.masks := rfl
@[simp] theorem Thread.popIq_selOff (th : Thread) (e : Engine) : (th.popIq e).selOff = th.selOff := rfl
@[simp] theorem Thread.popIq_ranks (th : Thread) (e : Engine) : (th.popIq e).ranks = th.ranks := rfl
@[simp] theorem Thread.popIq_child (th : Thread) (e : Engine) : (th.popIq e).child = th.child := rfl
@[simp] theorem Thread.popIq_launches (th : Thread) (e : Engine) : (th.popIq e).launches = th.launches := rfl
@[simp] theorem Thread.popIq_pending (th : Thread) (e : Engine) : (th.popIq e).pending = th.pending := rfl
@[simp] theorem Thread.popIq_phase (th : Thread) (e : Engine) : (th.popIq e).phase = th.phase := rfl
@[simp] theorem Thread.popIq_phases (th : Thread) (e : Engine) : (th.popIq e).phases = th.phases := rfl
@[simp] theorem Thread.popIq_hintX (th : Thread) (e : Engine) : (th.popIq e).hintX = th.hintX := rfl
@[simp] theorem Thread.popIq_contrib (th : Thread) (e : Engine) : (th.popIq e).contrib = th.contrib := rfl
@[simp] theorem Thread.popIq_deadSet (th : Thread) (e : Engine) : (th.popIq e).deadSet = th.deadSet := rfl
@[simp] theorem Thread.popIq_stall (th : Thread) (e : Engine) : (th.popIq e).stall = th.stall := rfl
@[simp] theorem Thread.popIq_turn (th : Thread) (e : Engine) : (th.popIq e).turn = th.turn := rfl

/-! ## Registers -/

theorem Thread.ws_only (th : Thread) (e : Engine) (n : BitVec 6) (v : Dword) : th.ws e n v = { th with s := (th.ws e n v).s } := by
  unfold Thread.ws; split <;> rfl

theorem Thread.wm_only (th : Thread) (n : BitVec 3) (v : Mask) : th.wm n v = { th with m := (th.wm n v).m } := by
  unfold Thread.wm; split <;> rfl

theorem Thread.setPAt_only (th : Thread) (r : BitVec 4) (n : Nat) (v : Bool) : th.setPAt r n v = { th with p := (th.setPAt r n v).p } := by
  unfold Thread.setPAt; split <;> rfl

/-- s0 reads as zero, whatever is written (R65). -/
theorem Thread.sAt_zero (th : Thread) (r : BitVec 4) : th.sAt r 0 = 0 := rfl

/-- p0 reads as true (R65). -/
theorem Thread.pAt_zero (th : Thread) (r : BitVec 4) : th.pAt r 0 = true := rfl

/-- m0 reads as all ones (R65). -/
theorem Thread.rm_zero (th : Thread) : th.rm 0 = BitVec.allOnes 128 := rfl

/-- The physical scalars of two names differ when the names do (R66). -/
theorem physS_inj (r : BitVec 4) (m n : Nat) (hm : m < 64) (hn : n < 64) (h : physS r m = physS r n) : m = n := by
  unfold physS at h
  split at h <;> split at h <;> omega

/-- A scalar after a write of a scalar under the same RRB. -/
theorem Thread.sAt_ws (th : Thread) (e : Engine) (d n : BitVec 6) (v : Dword) :
    (th.ws e d v).sAt (th.rrbOf e) n.toNat = if n = d ∧ d ≠ 0 then v else th.sAt (th.rrbOf e) n.toNat := by
  unfold Thread.ws Thread.sAt
  by_cases hd : d = 0
  · simp [hd]
  · simp only [hd, if_false, ne_eq, not_false_eq_true, and_true]
    by_cases hn : n = d
    · have : d.toNat ≠ 0 := fun h => hd (by apply BitVec.eq_of_toNat_eq; simpa using h)
      simp [hn, this]
    · simp only [hn, if_false]
      by_cases h0 : n.toNat = 0
      · simp [h0]
      · have hne : physS (th.rrbOf e) n.toNat ≠ physS (th.rrbOf e) d.toNat := fun h =>
          hn (BitVec.eq_of_toNat_eq (physS_inj _ _ _ n.isLt d.isLt h))
        simp [h0, Tab.get_set_other _ _ _ _ hne]

/-- A vector register after a write of one. -/
theorem Thread.rv_wv (th : Thread) (d n : BitVec 5) (v : Row) : (th.wv d v).rv n = if n = d then v else th.rv n := by
  unfold Thread.wv Thread.rv
  rw [Tab.get_set]
  by_cases h : n = d
  · simp [h]
  · have : n.toNat ≠ d.toNat := fun e => h (BitVec.eq_of_toNat_eq e)
    simp [h, this]

end Sys2Proof.Machine
end

