-- ==== Sys2Proof/Laws/Ops.lean ====
section
/-! SUPPORT. How a word ends: completion, wait and trap, the frames of leaving a queue and of waiting, and completion in the forms the statements use. -/

namespace Sys2Proof.Machine
open Sys2Proof

/-! ## The three ends of a word -/

@[simp] theorem finish_ok (e : Engine) (s s' : State) : finish e s (.ok s') = .next (s'.retire e s) := rfl
@[simp] theorem finish_hold (e : Engine) (s s' : State) (w : Wait) : finish e s (.error (.hold w s')) = .next (s'.holdWord e w) := rfl
@[simp] theorem finish_trap (e : Engine) (s s' : State) (i : TrapInfo) : finish e s (.error (.trap i s')) = .next (s'.raise s'.cur e i) := rfl

/-- A word ends in a next state, whatever becomes of it. -/
theorem finish_next (e : Engine) (s : State) (r : Except Exit State) : Goes (finish e s r) := by
  rcases r with ⟨_ | _⟩ | _ <;> exact ⟨_, rfl⟩

/-- A word that completes. -/
theorem does_of_ok {e : Engine} {i : Instr} {s s' : State} {r : Except Exit State} (h : exec i s = finish e s r) (hr : r = .ok s') : Does e i s s' := by
  unfold Does; rw [h, hr]; rfl

/-- A word that completes, with what holds of its effect. -/
theorem ends_of_ok {e : Engine} {i : Instr} {s s' : State} {r : Except Exit State} {P : State → Prop} (h : exec i s = finish e s r) (hr : r = .ok s')
    (hp : P s') : Ends e i s P := ⟨s', by rw [h, hr]; rfl, hp⟩

/-- A word that waits with nothing done. -/
theorem waits_of_hold {e : Engine} {i : Instr} {s : State} {r : Except Exit State} {w : Wait} (h : exec i s = finish e s r) (hr : r = .error (.hold w s)) :
    Waits e i s w := by unfold Waits; rw [h, hr]; rfl

/-- A word that traps with nothing done. -/
theorem traps_of_trap {e : Engine} {i : Instr} {s : State} {r : Except Exit State} {t : TrapInfo} (h : exec i s = finish e s r)
    (hr : r = .error (.trap t s)) : Traps e i s t := by unfold Traps; rw [h, hr]; rfl

theorem Does.ends {e : Engine} {i : Instr} {s s' : State} {P : State → Prop} (h : Does e i s s') (hp : P s') : Ends e i s P := ⟨s', h, hp⟩

/-! ## SEQ words -/

/-- A SEQ word that writes one scalar. -/
theorem does_seqOp {i : Instr} {s : State} {d : BitVec 6} {v : Thread → Dword} {w : Dword} (h : exec i s = seqOp d v s) (hw : v s.me = w) :
    Does .seq i s (s.putS d w) := by
  subst hw; exact does_of_ok h rfl

/-- A SEQ word that writes one predicate. -/
theorem does_seqPred {i : Instr} {s : State} {d : BitVec 4} {v : Thread → Bool} {w : Bool} (h : exec i s = seqPred d v s) (hw : v s.me = w) :
    Does .seq i s (s.putP d w) := by
  subst hw; exact does_of_ok h rfl

/-! ## ADR words -/

/-- A word of ADR that is not halted has its meaning. -/
theorem adrWord_none (s : State) (body : Except Exit State) (h : s.me.adrTrap = none) : adrWord s body = finish .adr s body := by
  unfold adrWord; rw [h]

/-! ## Leaving a queue -/

/-- What a word that leaves its queue does to its thread (R159). -/
def Thread.leaves (th : Thread) (e : Engine) : Thread :=
  { th.popIq e with held := th.held.set (engCode e) none, count := th.count.set (engCode e) (th.count.get (engCode e) + 1) }.release

/-- Delivering pass boundaries changes SEQ's queue and the fetch address alone. -/
theorem Thread.crossBoundaries_only (n : Nat) : ∀ th : Thread,
    Thread.crossBoundaries n th = { th with iq := (Thread.crossBoundaries n th).iq, fetch := (Thread.crossBoundaries n th).fetch } := by
  induction n with
  | zero => exact fun _ => rfl
  | succ n ih =>
    intro th
    unfold Thread.crossBoundaries
    split
    · rfl
    · split
      · rw [ih]
      · rfl

/-- Letting fetch go on changes the queues and fetch alone. -/
theorem Thread.goOn_only (th : Thread) : th.goOn = { th with iq := th.goOn.iq, fetch := th.goOn.fetch, fetchSt := .going } :=
  Thread.crossBoundaries_only 8 _

/-- Releasing fetch changes the queues and fetch alone. -/
theorem Thread.release_only (th : Thread) : th.release = { th with iq := th.release.iq, fetch := th.release.fetch, fetchSt := th.release.fetchSt } := by
  unfold Thread.release
  split
  · split
    · rw [Thread.goOn_only]
    · rfl
  · split
    · rw [Thread.goOn_only]
    · rfl
  · split
    · rw [Thread.goOn_only]
    · rfl
  · rfl

/-- What leaving a queue changes of a thread: queues, fetch, what the engine is held at, and its count. -/
theorem Thread.leaves_only (th : Thread) (e : Engine) : th.leaves e =
    { th with iq := (th.leaves e).iq, fetch := (th.leaves e).fetch, fetchSt := (th.leaves e).fetchSt, held := th.held.set (engCode e) none,
              count := th.count.set (engCode e) (th.count.get (engCode e) + 1) } := by
  unfold Thread.leaves; rw [Thread.release_only]; rfl

/-- A thread with what its word has produced: SEQ's results await their comparison (R459), another engine's word produces none. -/
def Thread.resulted (before th : Thread) (e : Engine) (clk : Nat) : Thread := if e = .seq then before.withResults th clk else th

/-- A word's results change nothing else of a thread. -/
theorem Thread.resulted_only (b th : Thread) (e : Engine) (clk : Nat) : b.resulted th e clk = { th with results := (b.resulted th e clk).results } := by
  unfold Thread.resulted; split <;> rfl

/-- Without single step a word leaves its results and its queue, and nothing else happens. -/
theorem retire_calm (s b : State) (e : Engine) (h : s.me.sten = false) :
    s.retire e b = s.modThr s.cur fun th => ((b.thr s.cur).resulted th e s.clk).leaves e := by
  have calm : (((b.thr s.cur).resulted (s.thr s.cur) e s.clk).leaves e).sten = false := by
    rw [Thread.leaves_only, Thread.resulted_only]; exact h
  unfold State.retire
  simp only [State.thr_modThr_same]
  rw [if_neg]
  · rfl
  · show ¬ ((((b.thr s.cur).resulted (s.thr s.cur) e s.clk).leaves e).sten && _) = true
    rw [calm]; simp

/-- A wait changes nothing but what the engine is held at. -/
theorem holdWord_becomes (s : State) (e : Engine) (w : Wait) : s.becomes (s.holdWord e w) { s.me with held := s.me.held.set (engCode e) (some w) } :=
  State.becomes_modMe s _

end Sys2Proof.Machine
end

