-- ==== Sys2Proof/Laws/PerInstr.lean ====
section
/-! SUPPORT. The family `RoundTrip`: for each constructor of `Instr`, the word that the encoder writes for a well-formed instruction decodes to
that instruction (R57 to R63). -/

namespace Sys2Proof.Laws.RoundTrip
open Sys2Proof Sys2Proof.Machine Sys2Proof.Laws

set_option Elab.async false
set_option linter.unusedSimpArgs false

/-- The decoder reads the encoder's word of a well-formed instruction as that instruction. -/
def Statement (i : Instr) : Prop := i.wf = true → ∀ w, encode i = some w → decode w = .ok i

theorem add (d : BitVec 6) (a : BitVec 6) (b : BitVec 6) : Statement (.add d a b) := by
  intro h x e
  obtain rfl : _ = x := Option.some.inj e
  clear e
  refine (decode_00 _ (wordA_op ..)).trans ?_
  simp_all [decodeSeq00, checked, Instr.wf, bits_lit]

theorem sub (d : BitVec 6) (a : BitVec 6) (b : BitVec 6) : Statement (.sub d a b) := by
  intro h x e
  obtain rfl : _ = x := Option.some.inj e
  clear e
  refine (decode_00 _ (wordA_op ..)).trans ?_
  simp_all [decodeSeq00, checked, Instr.wf, bits_lit]

theorem and (d : BitVec 6) (a : BitVec 6) (b : BitVec 6) : Statement (.and d a b) := by
  intro h x e
  obtain rfl : _ = x := Option.some.inj e
  clear e
  refine (decode_00 _ (wordA_op ..)).trans ?_
  simp_all [decodeSeq00, checked, Instr.wf, bits_lit]

theorem or (d : BitVec 6) (a : BitVec 6) (b : BitVec 6) : Statement (.or d a b) := by
  intro h x e
  obtain rfl : _ = x := Option.some.inj e
  clear e
  refine (decode_00 _ (wordA_op ..)).trans ?_
  simp_all [decodeSeq00, checked, Instr.wf, bits_lit]

theorem xor (d : BitVec 6) (a : BitVec 6) (b : BitVec 6) : Statement (.xor d a b) := by
  intro h x e
  obtain rfl : _ = x := Option.some.inj e
  clear e
  refine (decode_00 _ (wordA_op ..)).trans ?_
  simp_all [decodeSeq00, checked, Instr.wf, bits_lit]

theorem andn (d : BitVec 6) (a : BitVec 6) (b : BitVec 6) : Statement (.andn d a b) := by
  intro h x e
  obtain rfl : _ = x := Option.some.inj e
  clear e
  refine (decode_00 _ (wordA_op ..)).trans ?_
  simp_all [decodeSeq00, checked, Instr.wf, bits_lit]

theorem shl (d : BitVec 6) (a : BitVec 6) (b : BitVec 6) : Statement (.shl d a b) := by
  intro h x e
  obtain rfl : _ = x := Option.some.inj e
  clear e
  refine (decode_00 _ (wordA_op ..)).trans ?_
  simp_all [decodeSeq00, checked, Instr.wf, bits_lit]

theorem shr (d : BitVec 6) (a : BitVec 6) (b : BitVec 6) : Statement (.shr d a b) := by
  intro h x e
  obtain rfl : _ = x := Option.some.inj e
  clear e
  refine (decode_00 _ (wordA_op ..)).trans ?_
  simp_all [decodeSeq00, checked, Instr.wf, bits_lit]

theorem sra (d : BitVec 6) (a : BitVec 6) (b : BitVec 6) : Statement (.sra d a b) := by
  intro h x e
  obtain rfl : _ = x := Option.some.inj e
  clear e
  refine (decode_00 _ (wordA_op ..)).trans ?_
  simp_all [decodeSeq00, checked, Instr.wf, bits_lit]

theorem slt (d : BitVec 6) (a : BitVec 6) (b : BitVec 6) : Statement (.slt d a b) := by
  intro h x e
  obtain rfl : _ = x := Option.some.inj e
  clear e
  refine (decode_00 _ (wordA_op ..)).trans ?_
  simp_all [decodeSeq00, checked, Instr.wf, bits_lit]

theorem sltu (d : BitVec 6) (a : BitVec 6) (b : BitVec 6) : Statement (.sltu d a b) := by
  intro h x e
  obtain rfl : _ = x := Option.some.inj e
  clear e
  refine (decode_00 _ (wordA_op ..)).trans ?_
  simp_all [decodeSeq00, checked, Instr.wf, bits_lit]

theorem min (d : BitVec 6) (a : BitVec 6) (b : BitVec 6) : Statement (.min d a b) := by
  intro h x e
  obtain rfl : _ = x := Option.some.inj e
  clear e
  refine (decode_00 _ (wordA_op ..)).trans ?_
  simp_all [decodeSeq00, checked, Instr.wf, bits_lit]

theorem max (d : BitVec 6) (a : BitVec 6) (b : BitVec 6) : Statement (.max d a b) := by
  intro h x e
  obtain rfl : _ = x := Option.some.inj e
  clear e
  refine (decode_00 _ (wordA_op ..)).trans ?_
  simp_all [decodeSeq00, checked, Instr.wf, bits_lit]

theorem minu (d : BitVec 6) (a : BitVec 6) (b : BitVec 6) : Statement (.minu d a b) := by
  intro h x e
  obtain rfl : _ = x := Option.some.inj e
  clear e
  refine (decode_00 _ (wordA_op ..)).trans ?_
  simp_all [decodeSeq00, checked, Instr.wf, bits_lit]

theorem maxu (d : BitVec 6) (a : BitVec 6) (b : BitVec 6) : Statement (.maxu d a b) := by
  intro h x e
  obtain rfl : _ = x := Option.some.inj e
  clear e
  refine (decode_00 _ (wordA_op ..)).trans ?_
  simp_all [decodeSeq00, checked, Instr.wf, bits_lit]

theorem mul (d : BitVec 6) (a : BitVec 6) (b : BitVec 6) : Statement (.mul d a b) := by
  intro h x e
  obtain rfl : _ = x := Option.some.inj e
  clear e
  refine (decode_00 _ (wordA_op ..)).trans ?_
  simp_all [decodeSeq00, checked, Instr.wf, bits_lit]

theorem mulh (d : BitVec 6) (a : BitVec 6) (b : BitVec 6) : Statement (.mulh d a b) := by
  intro h x e
  obtain rfl : _ = x := Option.some.inj e
  clear e
  refine (decode_00 _ (wordA_op ..)).trans ?_
  simp_all [decodeSeq00, checked, Instr.wf, bits_lit]

theorem mulhu (d : BitVec 6) (a : BitVec 6) (b : BitVec 6) : Statement (.mulhu d a b) := by
  intro h x e
  obtain rfl : _ = x := Option.some.inj e
  clear e
  refine (decode_00 _ (wordA_op ..)).trans ?_
  simp_all [decodeSeq00, checked, Instr.wf, bits_lit]

theorem div (d : BitVec 6) (a : BitVec 6) (b : BitVec 6) : Statement (.div d a b) := by
  intro h x e
  obtain rfl : _ = x := Option.some.inj e
  clear e
  refine (decode_00 _ (wordA_op ..)).trans ?_
  simp_all [decodeSeq00, checked, Instr.wf, bits_lit]

theorem divu (d : BitVec 6) (a : BitVec 6) (b : BitVec 6) : Statement (.divu d a b) := by
  intro h x e
  obtain rfl : _ = x := Option.some.inj e
  clear e
  refine (decode_00 _ (wordA_op ..)).trans ?_
  simp_all [decodeSeq00, checked, Instr.wf, bits_lit]

theorem rem (d : BitVec 6) (a : BitVec 6) (b : BitVec 6) : Statement (.rem d a b) := by
  intro h x e
  obtain rfl : _ = x := Option.some.inj e
  clear e
  refine (decode_00 _ (wordA_op ..)).trans ?_
  simp_all [decodeSeq00, checked, Instr.wf, bits_lit]

theorem remu (d : BitVec 6) (a : BitVec 6) (b : BitVec 6) : Statement (.remu d a b) := by
  intro h x e
  obtain rfl : _ = x := Option.some.inj e
  clear e
  refine (decode_00 _ (wordA_op ..)).trans ?_
  simp_all [decodeSeq00, checked, Instr.wf, bits_lit]

theorem clz (d : BitVec 6) (a : BitVec 6) : Statement (.clz d a) := by
  intro h x e
  obtain rfl : _ = x := Option.some.inj e
  clear e
  refine (decode_00 _ (wordA_op ..)).trans ?_
  simp_all [decodeSeq00, checked, Instr.wf, bits_lit]

theorem ctz (d : BitVec 6) (a : BitVec 6) : Statement (.ctz d a) := by
  intro h x e
  obtain rfl : _ = x := Option.some.inj e
  clear e
  refine (decode_00 _ (wordA_op ..)).trans ?_
  simp_all [decodeSeq00, checked, Instr.wf, bits_lit]

theorem popc (d : BitVec 6) (a : BitVec 6) : Statement (.popc d a) := by
  intro h x e
  obtain rfl : _ = x := Option.some.inj e
  clear e
  refine (decode_00 _ (wordA_op ..)).trans ?_
  simp_all [decodeSeq00, checked, Instr.wf, bits_lit]

theorem addi (d : BitVec 6) (a : BitVec 6) (i : BitVec 12) : Statement (.addi d a i) := by
  intro h x e
  obtain rfl : _ = x := Option.some.inj e
  clear e
  refine (decode_01 _ (wordB_op ..)).trans ?_
  simp_all [decodeSeq01, checked, Instr.wf, bits_lit]

theorem andi (d : BitVec 6) (a : BitVec 6) (i : BitVec 12) : Statement (.andi d a i) := by
  intro h x e
  obtain rfl : _ = x := Option.some.inj e
  clear e
  refine (decode_02 _ (wordB_op ..)).trans ?_
  simp_all [decodeSeq02, checked, Instr.wf, bits_lit]

theorem ori (d : BitVec 6) (a : BitVec 6) (i : BitVec 12) : Statement (.ori d a i) := by
  intro h x e
  obtain rfl : _ = x := Option.some.inj e
  clear e
  refine (decode_03 _ (wordB_op ..)).trans ?_
  simp_all [decodeSeq03, checked, Instr.wf, bits_lit]

theorem xori (d : BitVec 6) (a : BitVec 6) (i : BitVec 12) : Statement (.xori d a i) := by
  intro h x e
  obtain rfl : _ = x := Option.some.inj e
  clear e
  refine (decode_04 _ (wordB_op ..)).trans ?_
  simp_all [decodeSeq04, checked, Instr.wf, bits_lit]

theorem shli (d : BitVec 6) (a : BitVec 6) (n : BitVec 6) : Statement (.shli d a n) := by
  intro h x e
  obtain rfl : _ = x := Option.some.inj e
  clear e
  refine (decode_05 _ (wordB_op ..)).trans ?_
  simp_all [decodeSeq05, checked, Instr.wf, bits_lit]

theorem shri (d : BitVec 6) (a : BitVec 6) (n : BitVec 6) : Statement (.shri d a n) := by
  intro h x e
  obtain rfl : _ = x := Option.some.inj e
  clear e
  refine (decode_05 _ (wordB_op ..)).trans ?_
  simp_all [decodeSeq05, checked, Instr.wf, bits_lit]

theorem srai (d : BitVec 6) (a : BitVec 6) (n : BitVec 6) : Statement (.srai d a n) := by
  intro h x e
  obtain rfl : _ = x := Option.some.inj e
  clear e
  refine (decode_05 _ (wordB_op ..)).trans ?_
  simp_all [decodeSeq05, checked, Instr.wf, bits_lit]

theorem slti (d : BitVec 6) (a : BitVec 6) (i : BitVec 11) : Statement (.slti d a i) := by
  intro h x e
  obtain rfl : _ = x := Option.some.inj e
  clear e
  refine (decode_06 _ (wordB_op ..)).trans ?_
  simp_all [decodeSeq06, checked, Instr.wf, bits_lit]

theorem sltiu (d : BitVec 6) (a : BitVec 6) (i : BitVec 11) : Statement (.sltiu d a i) := by
  intro h x e
  obtain rfl : _ = x := Option.some.inj e
  clear e
  refine (decode_06 _ (wordB_op ..)).trans ?_
  simp_all [decodeSeq06, checked, Instr.wf, bits_lit]

theorem lui (d : BitVec 6) (i : BitVec 18) : Statement (.lui d i) := by
  intro h x e
  obtain rfl : _ = x := Option.some.inj e
  clear e
  refine (decode_07 _ (wordC_op ..)).trans ?_
  simp_all [decodeSeq07, checked, Instr.wf, bits_lit]

theorem auipc (d : BitVec 6) (i : BitVec 18) : Statement (.auipc d i) := by
  intro h x e
  obtain rfl : _ = x := Option.some.inj e
  clear e
  refine (decode_08 _ (wordC_op ..)).trans ?_
  simp_all [decodeSeq08, checked, Instr.wf, bits_lit]

theorem ldB (d : BitVec 6) (a : BitVec 6) (o : BitVec 9) : Statement (.ldB d a o) := by
  intro h x e
  obtain rfl : _ = x := Option.some.inj e
  clear e
  refine (decode_09 _ (wordB_op ..)).trans ?_
  simp_all [decodeSeq09, checked, Instr.wf, bits_lit]

theorem ldBu (d : BitVec 6) (a : BitVec 6) (o : BitVec 9) : Statement (.ldBu d a o) := by
  intro h x e
  obtain rfl : _ = x := Option.some.inj e
  clear e
  refine (decode_09 _ (wordB_op ..)).trans ?_
  simp_all [decodeSeq09, checked, Instr.wf, bits_lit]

theorem ldH (d : BitVec 6) (a : BitVec 6) (o : BitVec 9) : Statement (.ldH d a o) := by
  intro h x e
  obtain rfl : _ = x := Option.some.inj e
  clear e
  refine (decode_09 _ (wordB_op ..)).trans ?_
  simp_all [decodeSeq09, checked, Instr.wf, bits_lit]

theorem ldHu (d : BitVec 6) (a : BitVec 6) (o : BitVec 9) : Statement (.ldHu d a o) := by
  intro h x e
  obtain rfl : _ = x := Option.some.inj e
  clear e
  refine (decode_09 _ (wordB_op ..)).trans ?_
  simp_all [decodeSeq09, checked, Instr.wf, bits_lit]

theorem ldW (d : BitVec 6) (a : BitVec 6) (o : BitVec 9) : Statement (.ldW d a o) := by
  intro h x e
  obtain rfl : _ = x := Option.some.inj e
  clear e
  refine (decode_09 _ (wordB_op ..)).trans ?_
  simp_all [decodeSeq09, checked, Instr.wf, bits_lit]

theorem ldWu (d : BitVec 6) (a : BitVec 6) (o : BitVec 9) : Statement (.ldWu d a o) := by
  intro h x e
  obtain rfl : _ = x := Option.some.inj e
  clear e
  refine (decode_09 _ (wordB_op ..)).trans ?_
  simp_all [decodeSeq09, checked, Instr.wf, bits_lit]

theorem ldD (d : BitVec 6) (a : BitVec 6) (o : BitVec 9) : Statement (.ldD d a o) := by
  intro h x e
  obtain rfl : _ = x := Option.some.inj e
  clear e
  refine (decode_09 _ (wordB_op ..)).trans ?_
  simp_all [decodeSeq09, checked, Instr.wf, bits_lit]

theorem stB (d : BitVec 6) (a : BitVec 6) (o : BitVec 9) : Statement (.stB d a o) := by
  intro h x e
  obtain rfl : _ = x := Option.some.inj e
  clear e
  refine (decode_0A _ (wordB_op ..)).trans ?_
  simp_all [decodeSeq0A, checked, Instr.wf, bits_lit]

theorem stH (d : BitVec 6) (a : BitVec 6) (o : BitVec 9) : Statement (.stH d a o) := by
  intro h x e
  obtain rfl : _ = x := Option.some.inj e
  clear e
  refine (decode_0A _ (wordB_op ..)).trans ?_
  simp_all [decodeSeq0A, checked, Instr.wf, bits_lit]

theorem stW (d : BitVec 6) (a : BitVec 6) (o : BitVec 9) : Statement (.stW d a o) := by
  intro h x e
  obtain rfl : _ = x := Option.some.inj e
  clear e
  refine (decode_0A _ (wordB_op ..)).trans ?_
  simp_all [decodeSeq0A, checked, Instr.wf, bits_lit]

theorem stD (d : BitVec 6) (a : BitVec 6) (o : BitVec 9) : Statement (.stD d a o) := by
  intro h x e
  obtain rfl : _ = x := Option.some.inj e
  clear e
  refine (decode_0A _ (wordB_op ..)).trans ?_
  simp_all [decodeSeq0A, checked, Instr.wf, bits_lit]

theorem cmpEq (d : BitVec 4) (a : BitVec 6) (b : BitVec 6) : Statement (.cmpEq d a b) := by
  intro h x e
  obtain rfl : _ = x := Option.some.inj e
  clear e
  refine (decode_0B _ (wordA_op ..)).trans ?_
  simp_all [decodeSeq0B, checked, Instr.wf, bits_lit]

theorem cmpNe (d : BitVec 4) (a : BitVec 6) (b : BitVec 6) : Statement (.cmpNe d a b) := by
  intro h x e
  obtain rfl : _ = x := Option.some.inj e
  clear e
  refine (decode_0B _ (wordA_op ..)).trans ?_
  simp_all [decodeSeq0B, checked, Instr.wf, bits_lit]

theorem cmpLt (d : BitVec 4) (a : BitVec 6) (b : BitVec 6) : Statement (.cmpLt d a b) := by
  intro h x e
  obtain rfl : _ = x := Option.some.inj e
  clear e
  refine (decode_0B _ (wordA_op ..)).trans ?_
  simp_all [decodeSeq0B, checked, Instr.wf, bits_lit]

theorem cmpGe (d : BitVec 4) (a : BitVec 6) (b : BitVec 6) : Statement (.cmpGe d a b) := by
  intro h x e
  obtain rfl : _ = x := Option.some.inj e
  clear e
  refine (decode_0B _ (wordA_op ..)).trans ?_
  simp_all [decodeSeq0B, checked, Instr.wf, bits_lit]

theorem cmpLtu (d : BitVec 4) (a : BitVec 6) (b : BitVec 6) : Statement (.cmpLtu d a b) := by
  intro h x e
  obtain rfl : _ = x := Option.some.inj e
  clear e
  refine (decode_0B _ (wordA_op ..)).trans ?_
  simp_all [decodeSeq0B, checked, Instr.wf, bits_lit]

theorem cmpGeu (d : BitVec 4) (a : BitVec 6) (b : BitVec 6) : Statement (.cmpGeu d a b) := by
  intro h x e
  obtain rfl : _ = x := Option.some.inj e
  clear e
  refine (decode_0B _ (wordA_op ..)).trans ?_
  simp_all [decodeSeq0B, checked, Instr.wf, bits_lit]

theorem cmpiEq (d : BitVec 4) (a : BitVec 6) (i : BitVec 9) : Statement (.cmpiEq d a i) := by
  intro h x e
  obtain rfl : _ = x := Option.some.inj e
  clear e
  refine (decode_0C _ (wordB_op ..)).trans ?_
  simp_all [decodeSeq0C, checked, Instr.wf, bits_lit]

theorem cmpiNe (d : BitVec 4) (a : BitVec 6) (i : BitVec 9) : Statement (.cmpiNe d a i) := by
  intro h x e
  obtain rfl : _ = x := Option.some.inj e
  clear e
  refine (decode_0C _ (wordB_op ..)).trans ?_
  simp_all [decodeSeq0C, checked, Instr.wf, bits_lit]

theorem cmpiLt (d : BitVec 4) (a : BitVec 6) (i : BitVec 9) : Statement (.cmpiLt d a i) := by
  intro h x e
  obtain rfl : _ = x := Option.some.inj e
  clear e
  refine (decode_0C _ (wordB_op ..)).trans ?_
  simp_all [decodeSeq0C, checked, Instr.wf, bits_lit]

theorem cmpiGe (d : BitVec 4) (a : BitVec 6) (i : BitVec 9) : Statement (.cmpiGe d a i) := by
  intro h x e
  obtain rfl : _ = x := Option.some.inj e
  clear e
  refine (decode_0C _ (wordB_op ..)).trans ?_
  simp_all [decodeSeq0C, checked, Instr.wf, bits_lit]

theorem cmpiLtu (d : BitVec 4) (a : BitVec 6) (i : BitVec 9) : Statement (.cmpiLtu d a i) := by
  intro h x e
  obtain rfl : _ = x := Option.some.inj e
  clear e
  refine (decode_0C _ (wordB_op ..)).trans ?_
  simp_all [decodeSeq0C, checked, Instr.wf, bits_lit]

theorem cmpiGeu (d : BitVec 4) (a : BitVec 6) (i : BitVec 9) : Statement (.cmpiGeu d a i) := by
  intro h x e
  obtain rfl : _ = x := Option.some.inj e
  clear e
  refine (decode_0C _ (wordB_op ..)).trans ?_
  simp_all [decodeSeq0C, checked, Instr.wf, bits_lit]

theorem pand (d : BitVec 4) (a : BitVec 4) (b : BitVec 4) : Statement (.pand d a b) := by
  intro h x e
  obtain rfl : _ = x := Option.some.inj e
  clear e
  refine (decode_0D _ (wordA_op ..)).trans ?_
  simp_all [decodeSeq0D, checked, Instr.wf, bits_lit]

theorem por (d : BitVec 4) (a : BitVec 4) (b : BitVec 4) : Statement (.por d a b) := by
  intro h x e
  obtain rfl : _ = x := Option.some.inj e
  clear e
  refine (decode_0D _ (wordA_op ..)).trans ?_
  simp_all [decodeSeq0D, checked, Instr.wf, bits_lit]

theorem pxor (d : BitVec 4) (a : BitVec 4) (b : BitVec 4) : Statement (.pxor d a b) := by
  intro h x e
  obtain rfl : _ = x := Option.some.inj e
  clear e
  refine (decode_0D _ (wordA_op ..)).trans ?_
  simp_all [decodeSeq0D, checked, Instr.wf, bits_lit]

theorem pandn (d : BitVec 4) (a : BitVec 4) (b : BitVec 4) : Statement (.pandn d a b) := by
  intro h x e
  obtain rfl : _ = x := Option.some.inj e
  clear e
  refine (decode_0D _ (wordA_op ..)).trans ?_
  simp_all [decodeSeq0D, checked, Instr.wf, bits_lit]

theorem pnot (d : BitVec 4) (a : BitVec 4) : Statement (.pnot d a) := by
  intro h x e
  obtain rfl : _ = x := Option.some.inj e
  clear e
  refine (decode_0D _ (wordA_op ..)).trans ?_
  simp_all [decodeSeq0D, checked, Instr.wf, bits_lit]

theorem pmov (d : BitVec 4) (a : BitVec 4) : Statement (.pmov d a) := by
  intro h x e
  obtain rfl : _ = x := Option.some.inj e
  clear e
  refine (decode_0D _ (wordA_op ..)).trans ?_
  simp_all [decodeSeq0D, checked, Instr.wf, bits_lit]

theorem br (p : BitVec 4) (n : BitVec 1) (o : BitVec 19) : Statement (.br p n o) := by
  intro h x e
  obtain rfl : _ = x := Option.some.inj e
  clear e
  refine (decode_0E _ (wordD_op ..)).trans ?_
  simp_all [decodeSeq0E, checked, Instr.wf, bits_lit]

theorem jal (d : BitVec 6) (i : BitVec 18) : Statement (.jal d i) := by
  intro h x e
  obtain rfl : _ = x := Option.some.inj e
  clear e
  refine (decode_0F _ (wordC_op ..)).trans ?_
  simp_all [decodeSeq0F, checked, Instr.wf, bits_lit]

theorem jalr (d : BitVec 6) (a : BitVec 6) (i : BitVec 12) : Statement (.jalr d a i) := by
  intro h x e
  obtain rfl : _ = x := Option.some.inj e
  clear e
  refine (decode_10 _ (wordB_op ..)).trans ?_
  simp_all [decodeSeq10, checked, Instr.wf, bits_lit]

theorem loop (c : BitVec 6) (b : BitVec 12) : Statement (.loop c b) := by
  intro h x e
  obtain rfl : _ = x := Option.some.inj e
  clear e
  refine (decode_11 _ (wordE_op ..)).trans ?_
  simp_all [decodeSeq11, checked, Instr.wf, bits_lit]

theorem loopRot (c : BitVec 6) (b : BitVec 12) (s : BitVec 3) : Statement (.loopRot c b s) := by
  intro h x e
  obtain rfl : _ = x := Option.some.inj e
  clear e
  refine (decode_11 _ (wordE_op ..)).trans ?_
  simp_all [decodeSeq11, checked, Instr.wf, bits_lit]

theorem loopi (n : BitVec 6) (b : BitVec 12) : Statement (.loopi n b) := by
  intro h x e
  obtain rfl : _ = x := Option.some.inj e
  clear e
  refine (decode_12 _ (wordE_op ..)).trans ?_
  simp_all [decodeSeq12, checked, Instr.wf, bits_lit]

theorem loopiRot (n : BitVec 6) (b : BitVec 12) (s : BitVec 3) : Statement (.loopiRot n b s) := by
  intro h x e
  obtain rfl : _ = x := Option.some.inj e
  clear e
  refine (decode_12 _ (wordE_op ..)).trans ?_
  simp_all [decodeSeq12, checked, Instr.wf, bits_lit]

theorem passBoundary (t : Nat) : Statement (.passBoundary t) := by
  intro _ _ h
  cases h

theorem rot (a : BitVec 6) (i : BitVec 12) : Statement (.rot a i) := by
  intro h x e
  obtain rfl : _ = x := Option.some.inj e
  clear e
  refine (decode_13 _ (wordB_op ..)).trans ?_
  simp_all [decodeSeq13, checked, Instr.wf, bits_lit]

theorem qpush (q : BitVec 4) (a : BitVec 6) : Statement (.qpush q a) := by
  intro h x e
  obtain rfl : _ = x := Option.some.inj e
  clear e
  refine (decode_14 _ (wordA_op ..)).trans ?_
  simp_all [decodeSeq14, checked, Instr.wf, bits_lit]

theorem qpop (d : BitVec 6) (q : BitVec 4) : Statement (.qpop d q) := by
  intro h x e
  obtain rfl : _ = x := Option.some.inj e
  clear e
  refine (decode_15 _ (wordA_op ..)).trans ?_
  simp_all [decodeSeq15, checked, Instr.wf, bits_lit]

theorem fmt (d : BitVec 6) (a : BitVec 6) (b : BitVec 6) : Statement (.fmt d a b) := by
  intro h x e
  obtain rfl : _ = x := Option.some.inj e
  clear e
  refine (decode_16 _ (wordA_op ..)).trans ?_
  simp_all [decodeSeq16, checked, Instr.wf, bits_lit]

theorem fmtQ (a : BitVec 6) (b : BitVec 6) : Statement (.fmtQ a b) := by
  intro h x e
  obtain rfl : _ = x := Option.some.inj e
  clear e
  refine (decode_16 _ (wordA_op ..)).trans ?_
  simp_all [decodeSeq16, checked, Instr.wf, bits_lit]

theorem mark (j : BitVec 3) (m : BitVec 8) : Statement (.mark j m) := by
  intro h x e
  obtain rfl : _ = x := Option.some.inj e
  clear e
  refine (decode_17 _ (wordB_op ..)).trans ?_
  simp_all [decodeSeq17, checked, Instr.wf, bits_lit]

theorem join (j : BitVec 3) : Statement (.join j) := by
  intro h x e
  obtain rfl : _ = x := Option.some.inj e
  clear e
  refine (decode_18 _ (wordB_op ..)).trans ?_
  simp_all [decodeSeq18, checked, Instr.wf, bits_lit]

theorem rdsr (d : BitVec 6) (n : BitVec 12) : Statement (.rdsr d n) := by
  intro h x e
  obtain rfl : _ = x := Option.some.inj e
  clear e
  refine (decode_19 _ (wordB_op ..)).trans ?_
  simp_all [decodeSeq19, checked, Instr.wf, bits_lit]

theorem wrsr (a : BitVec 6) (n : BitVec 12) : Statement (.wrsr a n) := by
  intro h x e
  obtain rfl : _ = x := Option.some.inj e
  clear e
  refine (decode_1A _ (wordB_op ..)).trans ?_
  simp_all [decodeSeq1A, checked, Instr.wf, bits_lit]

theorem sel (d : BitVec 6) (a : BitVec 6) (b : BitVec 6) (n : BitVec 1) (p : BitVec 4) : Statement (.sel d a b n p) := by
  intro h x e
  obtain rfl : _ = x := Option.some.inj e
  clear e
  refine (decode_1B _ (wordA_op ..)).trans ?_
  simp_all [decodeSeq1B, checked, Instr.wf, bits_lit]

theorem nop : Statement (.nop) := by
  intro h x e
  obtain rfl : _ = x := Option.some.inj e
  clear e
  refine (decode_1F _ (wordA_op ..)).trans ?_
  simp_all [decodeSeq1F, checked, Instr.wf, bits_lit]

theorem brk : Statement (.brk) := by
  intro h x e
  obtain rfl : _ = x := Option.some.inj e
  clear e
  refine (decode_1F _ (wordA_op ..)).trans ?_
  simp_all [decodeSeq1F, checked, Instr.wf, bits_lit]

theorem capt (n : BitVec 3) (s : BitVec 3) : Statement (.capt n s) := by
  intro h x e
  obtain rfl : _ = x := Option.some.inj e
  clear e
  refine (decode_20 _ (wordT_op ..)).trans ?_
  simp_all [decodeAdr00, checked, Instr.wf, bits_lit]

theorem tld (d : BitVec 6) (s : BitVec 3) (a : BitVec 6) : Statement (.tld d s a) := by
  intro h x e
  obtain rfl : _ = x := Option.some.inj e
  clear e
  refine (decode_21 _ (wordT_op ..)).trans ?_
  simp_all [decodeAdr01, checked, Instr.wf, bits_lit]

theorem tldQ (s : BitVec 3) (a : BitVec 6) : Statement (.tldQ s a) := by
  intro h x e
  obtain rfl : _ = x := Option.some.inj e
  clear e
  refine (decode_21 _ (wordT_op ..)).trans ?_
  simp_all [decodeAdr01, checked, Instr.wf, bits_lit]

theorem tst (d : BitVec 6) (s : BitVec 3) (a : BitVec 6) : Statement (.tst d s a) := by
  intro h x e
  obtain rfl : _ = x := Option.some.inj e
  clear e
  refine (decode_22 _ (wordT_op ..)).trans ?_
  simp_all [decodeAdr02, checked, Instr.wf, bits_lit]

theorem tstQ (s : BitVec 3) (a : BitVec 6) : Statement (.tstQ s a) := by
  intro h x e
  obtain rfl : _ = x := Option.some.inj e
  clear e
  refine (decode_22 _ (wordT_op ..)).trans ?_
  simp_all [decodeAdr02, checked, Instr.wf, bits_lit]

theorem gld (d : BitVec 6) (s : BitVec 3) (a : BitVec 6) : Statement (.gld d s a) := by
  intro h x e
  obtain rfl : _ = x := Option.some.inj e
  clear e
  refine (decode_23 _ (wordT_op ..)).trans ?_
  simp_all [decodeAdr03, checked, Instr.wf, bits_lit]

theorem gldQ (s : BitVec 3) (a : BitVec 6) : Statement (.gldQ s a) := by
  intro h x e
  obtain rfl : _ = x := Option.some.inj e
  clear e
  refine (decode_23 _ (wordT_op ..)).trans ?_
  simp_all [decodeAdr03, checked, Instr.wf, bits_lit]

theorem gst (d : BitVec 6) (s : BitVec 3) (a : BitVec 6) : Statement (.gst d s a) := by
  intro h x e
  obtain rfl : _ = x := Option.some.inj e
  clear e
  refine (decode_24 _ (wordT_op ..)).trans ?_
  simp_all [decodeAdr04, checked, Instr.wf, bits_lit]

theorem gstQ (s : BitVec 3) (a : BitVec 6) : Statement (.gstQ s a) := by
  intro h x e
  obtain rfl : _ = x := Option.some.inj e
  clear e
  refine (decode_24 _ (wordT_op ..)).trans ?_
  simp_all [decodeAdr04, checked, Instr.wf, bits_lit]

theorem vld (a : BitVec 6) : Statement (.vld a) := by
  intro h x e
  obtain rfl : _ = x := Option.some.inj e
  clear e
  refine (decode_25 _ (wordT_op ..)).trans ?_
  simp_all [decodeAdr05, checked, Instr.wf, bits_lit]

theorem vst (a : BitVec 6) : Statement (.vst a) := by
  intro h x e
  obtain rfl : _ = x := Option.some.inj e
  clear e
  refine (decode_26 _ (wordT_op ..)).trans ?_
  simp_all [decodeAdr06, checked, Instr.wf, bits_lit]

theorem sld (a : BitVec 6) (w : BitVec 3) : Statement (.sld a w) := by
  intro h x e
  obtain rfl : _ = x := Option.some.inj e
  clear e
  refine (decode_27 _ (wordT_op ..)).trans ?_
  simp_all [decodeAdr07, checked, Instr.wf, bits_lit]

theorem sldRow (a : BitVec 6) : Statement (.sldRow a) := by
  intro h x e
  obtain rfl : _ = x := Option.some.inj e
  clear e
  refine (decode_27 _ (wordT_op ..)).trans ?_
  simp_all [decodeAdr07, checked, Instr.wf, bits_lit]

theorem sst (d : BitVec 6) (a : BitVec 6) (w : BitVec 3) : Statement (.sst d a w) := by
  intro h x e
  obtain rfl : _ = x := Option.some.inj e
  clear e
  refine (decode_28 _ (wordT_op ..)).trans ?_
  simp_all [decodeAdr08, checked, Instr.wf, bits_lit]
  intro hw
  subst hw
  simp [storeWidth] at h

theorem sstRow (a : BitVec 6) : Statement (.sstRow a) := by
  intro h x e
  obtain rfl : _ = x := Option.some.inj e
  clear e
  refine (decode_28 _ (wordT_op ..)).trans ?_
  simp_all [decodeAdr08, checked, Instr.wf, bits_lit]

theorem atomAdd (a : BitVec 6) (c : BitVec 3) (r : BitVec 1) (p : BitVec 1) (z : BitVec 1) : Statement (.atomAdd a c r p z) := by
  intro h x e
  obtain rfl : _ = x := Option.some.inj e
  clear e
  refine (decode_29 _ (wordT_op ..)).trans ?_
  simp_all [decodeAdr09, checked, Instr.wf, bits_lit]

theorem atomMin (a : BitVec 6) (c : BitVec 3) (r : BitVec 1) (p : BitVec 1) (z : BitVec 1) : Statement (.atomMin a c r p z) := by
  intro h x e
  obtain rfl : _ = x := Option.some.inj e
  clear e
  refine (decode_29 _ (wordT_op ..)).trans ?_
  simp_all [decodeAdr09, checked, Instr.wf, bits_lit]

theorem atomMax (a : BitVec 6) (c : BitVec 3) (r : BitVec 1) (p : BitVec 1) (z : BitVec 1) : Statement (.atomMax a c r p z) := by
  intro h x e
  obtain rfl : _ = x := Option.some.inj e
  clear e
  refine (decode_29 _ (wordT_op ..)).trans ?_
  simp_all [decodeAdr09, checked, Instr.wf, bits_lit]

theorem atomAnd (a : BitVec 6) (c : BitVec 3) (r : BitVec 1) (p : BitVec 1) (z : BitVec 1) : Statement (.atomAnd a c r p z) := by
  intro h x e
  obtain rfl : _ = x := Option.some.inj e
  clear e
  refine (decode_29 _ (wordT_op ..)).trans ?_
  simp_all [decodeAdr09, checked, Instr.wf, bits_lit]

theorem atomOr (a : BitVec 6) (c : BitVec 3) (r : BitVec 1) (p : BitVec 1) (z : BitVec 1) : Statement (.atomOr a c r p z) := by
  intro h x e
  obtain rfl : _ = x := Option.some.inj e
  clear e
  refine (decode_29 _ (wordT_op ..)).trans ?_
  simp_all [decodeAdr09, checked, Instr.wf, bits_lit]

theorem atomXor (a : BitVec 6) (c : BitVec 3) (r : BitVec 1) (p : BitVec 1) (z : BitVec 1) : Statement (.atomXor a c r p z) := by
  intro h x e
  obtain rfl : _ = x := Option.some.inj e
  clear e
  refine (decode_29 _ (wordT_op ..)).trans ?_
  simp_all [decodeAdr09, checked, Instr.wf, bits_lit]

theorem atomXchg (a : BitVec 6) (c : BitVec 3) (r : BitVec 1) (p : BitVec 1) (z : BitVec 1) : Statement (.atomXchg a c r p z) := by
  intro h x e
  obtain rfl : _ = x := Option.some.inj e
  clear e
  refine (decode_29 _ (wordT_op ..)).trans ?_
  simp_all [decodeAdr09, checked, Instr.wf, bits_lit]

theorem atomCas (a : BitVec 6) (c : BitVec 3) (r : BitVec 1) (p : BitVec 1) (z : BitVec 1) : Statement (.atomCas a c r p z) := by
  intro h x e
  obtain rfl : _ = x := Option.some.inj e
  clear e
  refine (decode_29 _ (wordT_op ..)).trans ?_
  simp_all [decodeAdr09, checked, Instr.wf, bits_lit]

theorem atomoAdd (a : BitVec 6) (c : BitVec 3) (r : BitVec 1) (p : BitVec 1) (z : BitVec 1) : Statement (.atomoAdd a c r p z) := by
  intro h x e
  obtain rfl : _ = x := Option.some.inj e
  clear e
  refine (decode_2A _ (wordT_op ..)).trans ?_
  simp_all [decodeAdr0A, checked, Instr.wf, bits_lit]

theorem atomoMin (a : BitVec 6) (c : BitVec 3) (r : BitVec 1) (p : BitVec 1) (z : BitVec 1) : Statement (.atomoMin a c r p z) := by
  intro h x e
  obtain rfl : _ = x := Option.some.inj e
  clear e
  refine (decode_2A _ (wordT_op ..)).trans ?_
  simp_all [decodeAdr0A, checked, Instr.wf, bits_lit]

theorem atomoMax (a : BitVec 6) (c : BitVec 3) (r : BitVec 1) (p : BitVec 1) (z : BitVec 1) : Statement (.atomoMax a c r p z) := by
  intro h x e
  obtain rfl : _ = x := Option.some.inj e
  clear e
  refine (decode_2A _ (wordT_op ..)).trans ?_
  simp_all [decodeAdr0A, checked, Instr.wf, bits_lit]

theorem atomoAnd (a : BitVec 6) (c : BitVec 3) (r : BitVec 1) (p : BitVec 1) (z : BitVec 1) : Statement (.atomoAnd a c r p z) := by
  intro h x e
  obtain rfl : _ = x := Option.some.inj e
  clear e
  refine (decode_2A _ (wordT_op ..)).trans ?_
  simp_all [decodeAdr0A, checked, Instr.wf, bits_lit]

theorem atomoOr (a : BitVec 6) (c : BitVec 3) (r : BitVec 1) (p : BitVec 1) (z : BitVec 1) : Statement (.atomoOr a c r p z) := by
  intro h x e
  obtain rfl : _ = x := Option.some.inj e
  clear e
  refine (decode_2A _ (wordT_op ..)).trans ?_
  simp_all [decodeAdr0A, checked, Instr.wf, bits_lit]

theorem atomoXor (a : BitVec 6) (c : BitVec 3) (r : BitVec 1) (p : BitVec 1) (z : BitVec 1) : Statement (.atomoXor a c r p z) := by
  intro h x e
  obtain rfl : _ = x := Option.some.inj e
  clear e
  refine (decode_2A _ (wordT_op ..)).trans ?_
  simp_all [decodeAdr0A, checked, Instr.wf, bits_lit]

theorem atomoXchg (a : BitVec 6) (c : BitVec 3) (r : BitVec 1) (p : BitVec 1) (z : BitVec 1) : Statement (.atomoXchg a c r p z) := by
  intro h x e
  obtain rfl : _ = x := Option.some.inj e
  clear e
  refine (decode_2A _ (wordT_op ..)).trans ?_
  simp_all [decodeAdr0A, checked, Instr.wf, bits_lit]

theorem atomoCas (a : BitVec 6) (c : BitVec 3) (r : BitVec 1) (p : BitVec 1) (z : BitVec 1) : Statement (.atomoCas a c r p z) := by
  intro h x e
  obtain rfl : _ = x := Option.some.inj e
  clear e
  refine (decode_2A _ (wordT_op ..)).trans ?_
  simp_all [decodeAdr0A, checked, Instr.wf, bits_lit]

theorem prefL (a : BitVec 6) : Statement (.prefL a) := by
  intro h x e
  obtain rfl : _ = x := Option.some.inj e
  clear e
  refine (decode_2B _ (wordT_op ..)).trans ?_
  simp_all [decodeAdr0B, checked, Instr.wf, bits_lit]

theorem prefT (s : BitVec 3) (a : BitVec 6) : Statement (.prefT s a) := by
  intro h x e
  obtain rfl : _ = x := Option.some.inj e
  clear e
  refine (decode_2B _ (wordT_op ..)).trans ?_
  simp_all [decodeAdr0B, checked, Instr.wf, bits_lit]

theorem fenceAcq (c : BitVec 3) : Statement (.fenceAcq c) := by
  intro h x e
  obtain rfl : _ = x := Option.some.inj e
  clear e
  refine (decode_2C _ (wordT_op ..)).trans ?_
  simp_all [decodeAdr0C, checked, Instr.wf, bits_lit]

theorem fenceRel (c : BitVec 3) : Statement (.fenceRel c) := by
  intro h x e
  obtain rfl : _ = x := Option.some.inj e
  clear e
  refine (decode_2C _ (wordT_op ..)).trans ?_
  simp_all [decodeAdr0C, checked, Instr.wf, bits_lit]

theorem fenceFull (c : BitVec 3) : Statement (.fenceFull c) := by
  intro h x e
  obtain rfl : _ = x := Option.some.inj e
  clear e
  refine (decode_2C _ (wordT_op ..)).trans ?_
  simp_all [decodeAdr0C, checked, Instr.wf, bits_lit]

theorem hwait (h : BitVec 6) (a : BitVec 6) : Statement (.hwait h a) := by
  intro h x e
  obtain rfl : _ = x := Option.some.inj e
  clear e
  refine (decode_2D _ (wordT_op ..)).trans ?_
  simp_all [decodeAdr0D, checked, Instr.wf, bits_lit]

theorem hwaitSt (h : BitVec 6) (a : BitVec 6) : Statement (.hwaitSt h a) := by
  intro h x e
  obtain rfl : _ = x := Option.some.inj e
  clear e
  refine (decode_2D _ (wordT_op ..)).trans ?_
  simp_all [decodeAdr0D, checked, Instr.wf, bits_lit]

theorem ldq (a : BitVec 6) (w : BitVec 3) : Statement (.ldq a w) := by
  intro h x e
  obtain rfl : _ = x := Option.some.inj e
  clear e
  refine (decode_2E _ (wordT_op ..)).trans ?_
  simp_all [decodeAdr0E, checked, Instr.wf, bits_lit]

theorem adrFaultTrap (t : Nat) : Statement (.adrFaultTrap t) := by
  intro _ _ h
  cases h

theorem vintAdd (d : BitVec 5) (a : BitVec 5) (b : BitVec 5) (m : BitVec 3) (t : BitVec 2) : Statement (.vintAdd d a b m t) := by
  intro h x e
  obtain rfl : _ = x := Option.some.inj e
  clear e
  refine (decode_40 _ (wordV_op ..)).trans ?_
  simp_all [decodeVec00, checked, Instr.wf, bits_lit]

theorem vintSub (d : BitVec 5) (a : BitVec 5) (b : BitVec 5) (m : BitVec 3) (t : BitVec 2) : Statement (.vintSub d a b m t) := by
  intro h x e
  obtain rfl : _ = x := Option.some.inj e
  clear e
  refine (decode_40 _ (wordV_op ..)).trans ?_
  simp_all [decodeVec00, checked, Instr.wf, bits_lit]

theorem vintMul (d : BitVec 5) (a : BitVec 5) (b : BitVec 5) (m : BitVec 3) (t : BitVec 2) : Statement (.vintMul d a b m t) := by
  intro h x e
  obtain rfl : _ = x := Option.some.inj e
  clear e
  refine (decode_40 _ (wordV_op ..)).trans ?_
  simp_all [decodeVec00, checked, Instr.wf, bits_lit]

theorem vintMulh (d : BitVec 5) (a : BitVec 5) (b : BitVec 5) (m : BitVec 3) (t : BitVec 2) : Statement (.vintMulh d a b m t) := by
  intro h x e
  obtain rfl : _ = x := Option.some.inj e
  clear e
  refine (decode_40 _ (wordV_op ..)).trans ?_
  simp_all [decodeVec00, checked, Instr.wf, bits_lit]

theorem vintAnd (d : BitVec 5) (a : BitVec 5) (b : BitVec 5) (m : BitVec 3) : Statement (.vintAnd d a b m) := by
  intro h x e
  obtain rfl : _ = x := Option.some.inj e
  clear e
  refine (decode_40 _ (wordV_op ..)).trans ?_
  simp_all [decodeVec00, checked, Instr.wf, bits_lit]

theorem vintOr (d : BitVec 5) (a : BitVec 5) (b : BitVec 5) (m : BitVec 3) : Statement (.vintOr d a b m) := by
  intro h x e
  obtain rfl : _ = x := Option.some.inj e
  clear e
  refine (decode_40 _ (wordV_op ..)).trans ?_
  simp_all [decodeVec00, checked, Instr.wf, bits_lit]

theorem vintXor (d : BitVec 5) (a : BitVec 5) (b : BitVec 5) (m : BitVec 3) : Statement (.vintXor d a b m) := by
  intro h x e
  obtain rfl : _ = x := Option.some.inj e
  clear e
  refine (decode_40 _ (wordV_op ..)).trans ?_
  simp_all [decodeVec00, checked, Instr.wf, bits_lit]

theorem vintAndn (d : BitVec 5) (a : BitVec 5) (b : BitVec 5) (m : BitVec 3) : Statement (.vintAndn d a b m) := by
  intro h x e
  obtain rfl : _ = x := Option.some.inj e
  clear e
  refine (decode_40 _ (wordV_op ..)).trans ?_
  simp_all [decodeVec00, checked, Instr.wf, bits_lit]

theorem vintShl (d : BitVec 5) (a : BitVec 5) (b : BitVec 5) (m : BitVec 3) : Statement (.vintShl d a b m) := by
  intro h x e
  obtain rfl : _ = x := Option.some.inj e
  clear e
  refine (decode_40 _ (wordV_op ..)).trans ?_
  simp_all [decodeVec00, checked, Instr.wf, bits_lit]

theorem vintShr (d : BitVec 5) (a : BitVec 5) (b : BitVec 5) (m : BitVec 3) : Statement (.vintShr d a b m) := by
  intro h x e
  obtain rfl : _ = x := Option.some.inj e
  clear e
  refine (decode_40 _ (wordV_op ..)).trans ?_
  simp_all [decodeVec00, checked, Instr.wf, bits_lit]

theorem vintSra (d : BitVec 5) (a : BitVec 5) (b : BitVec 5) (m : BitVec 3) : Statement (.vintSra d a b m) := by
  intro h x e
  obtain rfl : _ = x := Option.some.inj e
  clear e
  refine (decode_40 _ (wordV_op ..)).trans ?_
  simp_all [decodeVec00, checked, Instr.wf, bits_lit]

theorem vintMin (d : BitVec 5) (a : BitVec 5) (b : BitVec 5) (m : BitVec 3) (t : BitVec 2) : Statement (.vintMin d a b m t) := by
  intro h x e
  obtain rfl : _ = x := Option.some.inj e
  clear e
  refine (decode_40 _ (wordV_op ..)).trans ?_
  simp_all [decodeVec00, checked, Instr.wf, bits_lit]

theorem vintMax (d : BitVec 5) (a : BitVec 5) (b : BitVec 5) (m : BitVec 3) (t : BitVec 2) : Statement (.vintMax d a b m t) := by
  intro h x e
  obtain rfl : _ = x := Option.some.inj e
  clear e
  refine (decode_40 _ (wordV_op ..)).trans ?_
  simp_all [decodeVec00, checked, Instr.wf, bits_lit]

theorem vintAbs (d : BitVec 5) (a : BitVec 5) (m : BitVec 3) (t : BitVec 2) : Statement (.vintAbs d a m t) := by
  intro h x e
  obtain rfl : _ = x := Option.some.inj e
  clear e
  refine (decode_40 _ (wordV_op ..)).trans ?_
  simp_all [decodeVec00, checked, Instr.wf, bits_lit]

theorem vintNeg (d : BitVec 5) (a : BitVec 5) (m : BitVec 3) (t : BitVec 2) : Statement (.vintNeg d a m t) := by
  intro h x e
  obtain rfl : _ = x := Option.some.inj e
  clear e
  refine (decode_40 _ (wordV_op ..)).trans ?_
  simp_all [decodeVec00, checked, Instr.wf, bits_lit]

theorem vfltAdd (d : BitVec 5) (a : BitVec 5) (b : BitVec 5) (m : BitVec 3) : Statement (.vfltAdd d a b m) := by
  intro h x e
  obtain rfl : _ = x := Option.some.inj e
  clear e
  refine (decode_41 _ (wordV_op ..)).trans ?_
  simp_all [decodeVec01, checked, Instr.wf, bits_lit]

theorem vfltSub (d : BitVec 5) (a : BitVec 5) (b : BitVec 5) (m : BitVec 3) : Statement (.vfltSub d a b m) := by
  intro h x e
  obtain rfl : _ = x := Option.some.inj e
  clear e
  refine (decode_41 _ (wordV_op ..)).trans ?_
  simp_all [decodeVec01, checked, Instr.wf, bits_lit]

theorem vfltMul (d : BitVec 5) (a : BitVec 5) (b : BitVec 5) (m : BitVec 3) : Statement (.vfltMul d a b m) := by
  intro h x e
  obtain rfl : _ = x := Option.some.inj e
  clear e
  refine (decode_41 _ (wordV_op ..)).trans ?_
  simp_all [decodeVec01, checked, Instr.wf, bits_lit]

theorem vfltDiv (d : BitVec 5) (a : BitVec 5) (b : BitVec 5) (m : BitVec 3) : Statement (.vfltDiv d a b m) := by
  intro h x e
  obtain rfl : _ = x := Option.some.inj e
  clear e
  refine (decode_41 _ (wordV_op ..)).trans ?_
  simp_all [decodeVec01, checked, Instr.wf, bits_lit]

theorem vfltMin (d : BitVec 5) (a : BitVec 5) (b : BitVec 5) (m : BitVec 3) : Statement (.vfltMin d a b m) := by
  intro h x e
  obtain rfl : _ = x := Option.some.inj e
  clear e
  refine (decode_41 _ (wordV_op ..)).trans ?_
  simp_all [decodeVec01, checked, Instr.wf, bits_lit]

theorem vfltMax (d : BitVec 5) (a : BitVec 5) (b : BitVec 5) (m : BitVec 3) : Statement (.vfltMax d a b m) := by
  intro h x e
  obtain rfl : _ = x := Option.some.inj e
  clear e
  refine (decode_41 _ (wordV_op ..)).trans ?_
  simp_all [decodeVec01, checked, Instr.wf, bits_lit]

theorem vfltAbs (d : BitVec 5) (a : BitVec 5) (m : BitVec 3) : Statement (.vfltAbs d a m) := by
  intro h x e
  obtain rfl : _ = x := Option.some.inj e
  clear e
  refine (decode_41 _ (wordV_op ..)).trans ?_
  simp_all [decodeVec01, checked, Instr.wf, bits_lit]

theorem vfltNeg (d : BitVec 5) (a : BitVec 5) (m : BitVec 3) : Statement (.vfltNeg d a m) := by
  intro h x e
  obtain rfl : _ = x := Option.some.inj e
  clear e
  refine (decode_41 _ (wordV_op ..)).trans ?_
  simp_all [decodeVec01, checked, Instr.wf, bits_lit]

theorem vfmaFma (d : BitVec 5) (a : BitVec 5) (b : BitVec 5) (m : BitVec 3) : Statement (.vfmaFma d a b m) := by
  intro h x e
  obtain rfl : _ = x := Option.some.inj e
  clear e
  refine (decode_42 _ (wordV_op ..)).trans ?_
  simp_all [decodeVec02, checked, Instr.wf, bits_lit]

theorem vfmaFms (d : BitVec 5) (a : BitVec 5) (b : BitVec 5) (m : BitVec 3) : Statement (.vfmaFms d a b m) := by
  intro h x e
  obtain rfl : _ = x := Option.some.inj e
  clear e
  refine (decode_42 _ (wordV_op ..)).trans ?_
  simp_all [decodeVec02, checked, Instr.wf, bits_lit]

theorem vfmaFnma (d : BitVec 5) (a : BitVec 5) (b : BitVec 5) (m : BitVec 3) : Statement (.vfmaFnma d a b m) := by
  intro h x e
  obtain rfl : _ = x := Option.some.inj e
  clear e
  refine (decode_42 _ (wordV_op ..)).trans ?_
  simp_all [decodeVec02, checked, Instr.wf, bits_lit]

theorem vfmaFnms (d : BitVec 5) (a : BitVec 5) (b : BitVec 5) (m : BitVec 3) : Statement (.vfmaFnms d a b m) := by
  intro h x e
  obtain rfl : _ = x := Option.some.inj e
  clear e
  refine (decode_42 _ (wordV_op ..)).trans ?_
  simp_all [decodeVec02, checked, Instr.wf, bits_lit]

theorem vcmpEq (d : BitVec 3) (a : BitVec 5) (b : BitVec 5) (m : BitVec 3) (t : BitVec 2) : Statement (.vcmpEq d a b m t) := by
  intro h x e
  obtain rfl : _ = x := Option.some.inj e
  clear e
  refine (decode_43 _ (wordV_op ..)).trans ?_
  simp_all [decodeVec03, checked, Instr.wf, bits_lit]

theorem vcmpNe (d : BitVec 3) (a : BitVec 5) (b : BitVec 5) (m : BitVec 3) (t : BitVec 2) : Statement (.vcmpNe d a b m t) := by
  intro h x e
  obtain rfl : _ = x := Option.some.inj e
  clear e
  refine (decode_43 _ (wordV_op ..)).trans ?_
  simp_all [decodeVec03, checked, Instr.wf, bits_lit]

theorem vcmpLt (d : BitVec 3) (a : BitVec 5) (b : BitVec 5) (m : BitVec 3) (t : BitVec 2) : Statement (.vcmpLt d a b m t) := by
  intro h x e
  obtain rfl : _ = x := Option.some.inj e
  clear e
  refine (decode_43 _ (wordV_op ..)).trans ?_
  simp_all [decodeVec03, checked, Instr.wf, bits_lit]

theorem vcmpLe (d : BitVec 3) (a : BitVec 5) (b : BitVec 5) (m : BitVec 3) (t : BitVec 2) : Statement (.vcmpLe d a b m t) := by
  intro h x e
  obtain rfl : _ = x := Option.some.inj e
  clear e
  refine (decode_43 _ (wordV_op ..)).trans ?_
  simp_all [decodeVec03, checked, Instr.wf, bits_lit]

theorem vcmpGt (d : BitVec 3) (a : BitVec 5) (b : BitVec 5) (m : BitVec 3) (t : BitVec 2) : Statement (.vcmpGt d a b m t) := by
  intro h x e
  obtain rfl : _ = x := Option.some.inj e
  clear e
  refine (decode_43 _ (wordV_op ..)).trans ?_
  simp_all [decodeVec03, checked, Instr.wf, bits_lit]

theorem vcmpGe (d : BitVec 3) (a : BitVec 5) (b : BitVec 5) (m : BitVec 3) (t : BitVec 2) : Statement (.vcmpGe d a b m t) := by
  intro h x e
  obtain rfl : _ = x := Option.some.inj e
  clear e
  refine (decode_43 _ (wordV_op ..)).trans ?_
  simp_all [decodeVec03, checked, Instr.wf, bits_lit]

theorem vcmpUn (d : BitVec 3) (a : BitVec 5) (b : BitVec 5) (m : BitVec 3) : Statement (.vcmpUn d a b m) := by
  intro h x e
  obtain rfl : _ = x := Option.some.inj e
  clear e
  refine (decode_43 _ (wordV_op ..)).trans ?_
  simp_all [decodeVec03, checked, Instr.wf, bits_lit]

theorem vcvtTo (d : BitVec 5) (a : BitVec 5) (b : BitVec 5) (m : BitVec 3) (t : BitVec 2) : Statement (.vcvtTo d a b m t) := by
  intro h x e
  obtain rfl : _ = x := Option.some.inj e
  clear e
  refine (decode_44 _ (wordV_op ..)).trans ?_
  simp_all [decodeVec04, checked, Instr.wf, bits_lit]

theorem vcvtFrom (d : BitVec 5) (a : BitVec 5) (b : BitVec 5) (m : BitVec 3) : Statement (.vcvtFrom d a b m) := by
  intro h x e
  obtain rfl : _ = x := Option.some.inj e
  clear e
  refine (decode_44 _ (wordV_op ..)).trans ?_
  simp_all [decodeVec04, checked, Instr.wf, bits_lit]

theorem vcvtF2i (d : BitVec 5) (a : BitVec 5) (m : BitVec 3) (t : BitVec 2) : Statement (.vcvtF2i d a m t) := by
  intro h x e
  obtain rfl : _ = x := Option.some.inj e
  clear e
  refine (decode_44 _ (wordV_op ..)).trans ?_
  simp_all [decodeVec04, checked, Instr.wf, bits_lit]

theorem vcvtI2f (d : BitVec 5) (a : BitVec 5) (m : BitVec 3) (t : BitVec 2) : Statement (.vcvtI2f d a m t) := by
  intro h x e
  obtain rfl : _ = x := Option.some.inj e
  clear e
  refine (decode_44 _ (wordV_op ..)).trans ?_
  simp_all [decodeVec04, checked, Instr.wf, bits_lit]

theorem vcvtU2f (d : BitVec 5) (a : BitVec 5) (m : BitVec 3) (t : BitVec 2) : Statement (.vcvtU2f d a m t) := by
  intro h x e
  obtain rfl : _ = x := Option.some.inj e
  clear e
  refine (decode_44 _ (wordV_op ..)).trans ?_
  simp_all [decodeVec04, checked, Instr.wf, bits_lit]

theorem vredSum (d : BitVec 5) (a : BitVec 5) (m : BitVec 3) (t : BitVec 2) : Statement (.vredSum d a m t) := by
  intro h x e
  obtain rfl : _ = x := Option.some.inj e
  clear e
  refine (decode_45 _ (wordV_op ..)).trans ?_
  simp_all [decodeVec05, checked, Instr.wf, bits_lit]

theorem vredMax (d : BitVec 5) (a : BitVec 5) (m : BitVec 3) (t : BitVec 2) : Statement (.vredMax d a m t) := by
  intro h x e
  obtain rfl : _ = x := Option.some.inj e
  clear e
  refine (decode_45 _ (wordV_op ..)).trans ?_
  simp_all [decodeVec05, checked, Instr.wf, bits_lit]

theorem vredMin (d : BitVec 5) (a : BitVec 5) (m : BitVec 3) (t : BitVec 2) : Statement (.vredMin d a m t) := by
  intro h x e
  obtain rfl : _ = x := Option.some.inj e
  clear e
  refine (decode_45 _ (wordV_op ..)).trans ?_
  simp_all [decodeVec05, checked, Instr.wf, bits_lit]

theorem vredArgmax (d : BitVec 5) (a : BitVec 5) (m : BitVec 3) (t : BitVec 2) : Statement (.vredArgmax d a m t) := by
  intro h x e
  obtain rfl : _ = x := Option.some.inj e
  clear e
  refine (decode_45 _ (wordV_op ..)).trans ?_
  simp_all [decodeVec05, checked, Instr.wf, bits_lit]

theorem vredArgmin (d : BitVec 5) (a : BitVec 5) (m : BitVec 3) (t : BitVec 2) : Statement (.vredArgmin d a m t) := by
  intro h x e
  obtain rfl : _ = x := Option.some.inj e
  clear e
  refine (decode_45 _ (wordV_op ..)).trans ?_
  simp_all [decodeVec05, checked, Instr.wf, bits_lit]

theorem vredSumQ (a : BitVec 5) (m : BitVec 3) (t : BitVec 2) : Statement (.vredSumQ a m t) := by
  intro h x e
  obtain rfl : _ = x := Option.some.inj e
  clear e
  refine (decode_45 _ (wordV_op ..)).trans ?_
  simp_all [decodeVec05, checked, Instr.wf, bits_lit]

theorem vredMaxQ (a : BitVec 5) (m : BitVec 3) (t : BitVec 2) : Statement (.vredMaxQ a m t) := by
  intro h x e
  obtain rfl : _ = x := Option.some.inj e
  clear e
  refine (decode_45 _ (wordV_op ..)).trans ?_
  simp_all [decodeVec05, checked, Instr.wf, bits_lit]

theorem vredMinQ (a : BitVec 5) (m : BitVec 3) (t : BitVec 2) : Statement (.vredMinQ a m t) := by
  intro h x e
  obtain rfl : _ = x := Option.some.inj e
  clear e
  refine (decode_45 _ (wordV_op ..)).trans ?_
  simp_all [decodeVec05, checked, Instr.wf, bits_lit]

theorem vredArgmaxQ (a : BitVec 5) (m : BitVec 3) (t : BitVec 2) : Statement (.vredArgmaxQ a m t) := by
  intro h x e
  obtain rfl : _ = x := Option.some.inj e
  clear e
  refine (decode_45 _ (wordV_op ..)).trans ?_
  simp_all [decodeVec05, checked, Instr.wf, bits_lit]

theorem vredArgminQ (a : BitVec 5) (m : BitVec 3) (t : BitVec 2) : Statement (.vredArgminQ a m t) := by
  intro h x e
  obtain rfl : _ = x := Option.some.inj e
  clear e
  refine (decode_45 _ (wordV_op ..)).trans ?_
  simp_all [decodeVec05, checked, Instr.wf, bits_lit]

theorem vscanSum (d : BitVec 5) (a : BitVec 5) (m : BitVec 3) (t : BitVec 2) : Statement (.vscanSum d a m t) := by
  intro h x e
  obtain rfl : _ = x := Option.some.inj e
  clear e
  refine (decode_46 _ (wordV_op ..)).trans ?_
  simp_all [decodeVec06, checked, Instr.wf, bits_lit]

theorem vscanMax (d : BitVec 5) (a : BitVec 5) (m : BitVec 3) (t : BitVec 2) : Statement (.vscanMax d a m t) := by
  intro h x e
  obtain rfl : _ = x := Option.some.inj e
  clear e
  refine (decode_46 _ (wordV_op ..)).trans ?_
  simp_all [decodeVec06, checked, Instr.wf, bits_lit]

theorem vscanMin (d : BitVec 5) (a : BitVec 5) (m : BitVec 3) (t : BitVec 2) : Statement (.vscanMin d a m t) := by
  intro h x e
  obtain rfl : _ = x := Option.some.inj e
  clear e
  refine (decode_46 _ (wordV_op ..)).trans ?_
  simp_all [decodeVec06, checked, Instr.wf, bits_lit]

theorem vscanSumX (d : BitVec 5) (a : BitVec 5) (m : BitVec 3) (t : BitVec 2) : Statement (.vscanSumX d a m t) := by
  intro h x e
  obtain rfl : _ = x := Option.some.inj e
  clear e
  refine (decode_46 _ (wordV_op ..)).trans ?_
  simp_all [decodeVec06, checked, Instr.wf, bits_lit]

theorem vscanMaxX (d : BitVec 5) (a : BitVec 5) (m : BitVec 3) (t : BitVec 2) : Statement (.vscanMaxX d a m t) := by
  intro h x e
  obtain rfl : _ = x := Option.some.inj e
  clear e
  refine (decode_46 _ (wordV_op ..)).trans ?_
  simp_all [decodeVec06, checked, Instr.wf, bits_lit]

theorem vscanMinX (d : BitVec 5) (a : BitVec 5) (m : BitVec 3) (t : BitVec 2) : Statement (.vscanMinX d a m t) := by
  intro h x e
  obtain rfl : _ = x := Option.some.inj e
  clear e
  refine (decode_46 _ (wordV_op ..)).trans ?_
  simp_all [decodeVec06, checked, Instr.wf, bits_lit]

theorem vpermIdx (d : BitVec 5) (a : BitVec 5) (b : BitVec 5) (m : BitVec 3) : Statement (.vpermIdx d a b m) := by
  intro h x e
  obtain rfl : _ = x := Option.some.inj e
  clear e
  refine (decode_47 _ (wordV_op ..)).trans ?_
  simp_all [decodeVec07, checked, Instr.wf, bits_lit]

theorem vpermRot (d : BitVec 5) (a : BitVec 5) (b : BitVec 5) (m : BitVec 3) : Statement (.vpermRot d a b m) := by
  intro h x e
  obtain rfl : _ = x := Option.some.inj e
  clear e
  refine (decode_47 _ (wordV_op ..)).trans ?_
  simp_all [decodeVec07, checked, Instr.wf, bits_lit]

theorem vpermBc (d : BitVec 5) (a : BitVec 5) (b : BitVec 5) (m : BitVec 3) : Statement (.vpermBc d a b m) := by
  intro h x e
  obtain rfl : _ = x := Option.some.inj e
  clear e
  refine (decode_47 _ (wordV_op ..)).trans ?_
  simp_all [decodeVec07, checked, Instr.wf, bits_lit]

theorem vsel (d : BitVec 5) (a : BitVec 5) (b : BitVec 5) (m : BitVec 3) : Statement (.vsel d a b m) := by
  intro h x e
  obtain rfl : _ = x := Option.some.inj e
  clear e
  refine (decode_48 _ (wordV_op ..)).trans ?_
  simp_all [decodeVec08, checked, Instr.wf, bits_lit]

theorem vsfuExp2 (d : BitVec 5) (a : BitVec 5) (m : BitVec 3) : Statement (.vsfuExp2 d a m) := by
  intro h x e
  obtain rfl : _ = x := Option.some.inj e
  clear e
  refine (decode_49 _ (wordV_op ..)).trans ?_
  simp_all [decodeVec09, checked, Instr.wf, bits_lit]

theorem vsfuLog2 (d : BitVec 5) (a : BitVec 5) (m : BitVec 3) : Statement (.vsfuLog2 d a m) := by
  intro h x e
  obtain rfl : _ = x := Option.some.inj e
  clear e
  refine (decode_49 _ (wordV_op ..)).trans ?_
  simp_all [decodeVec09, checked, Instr.wf, bits_lit]

theorem vsfuRcp (d : BitVec 5) (a : BitVec 5) (m : BitVec 3) : Statement (.vsfuRcp d a m) := by
  intro h x e
  obtain rfl : _ = x := Option.some.inj e
  clear e
  refine (decode_49 _ (wordV_op ..)).trans ?_
  simp_all [decodeVec09, checked, Instr.wf, bits_lit]

theorem vsfuRsqrt (d : BitVec 5) (a : BitVec 5) (m : BitVec 3) : Statement (.vsfuRsqrt d a m) := by
  intro h x e
  obtain rfl : _ = x := Option.some.inj e
  clear e
  refine (decode_49 _ (wordV_op ..)).trans ?_
  simp_all [decodeVec09, checked, Instr.wf, bits_lit]

theorem vsfuSqrt (d : BitVec 5) (a : BitVec 5) (m : BitVec 3) : Statement (.vsfuSqrt d a m) := by
  intro h x e
  obtain rfl : _ = x := Option.some.inj e
  clear e
  refine (decode_49 _ (wordV_op ..)).trans ?_
  simp_all [decodeVec09, checked, Instr.wf, bits_lit]

theorem vmovSplat (d : BitVec 5) (a : BitVec 5) (m : BitVec 3) : Statement (.vmovSplat d a m) := by
  intro h x e
  obtain rfl : _ = x := Option.some.inj e
  clear e
  refine (decode_4A _ (wordV_op ..)).trans ?_
  simp_all [decodeVec0A, checked, Instr.wf, bits_lit]

theorem vmovIns (d : BitVec 5) (a : BitVec 5) (b : BitVec 5) : Statement (.vmovIns d a b) := by
  intro h x e
  obtain rfl : _ = x := Option.some.inj e
  clear e
  refine (decode_4A _ (wordV_op ..)).trans ?_
  simp_all [decodeVec0A, checked, Instr.wf, bits_lit]

theorem vmovExt (a : BitVec 5) (b : BitVec 5) : Statement (.vmovExt a b) := by
  intro h x e
  obtain rfl : _ = x := Option.some.inj e
  clear e
  refine (decode_4A _ (wordV_op ..)).trans ?_
  simp_all [decodeVec0A, checked, Instr.wf, bits_lit]

theorem vmovMv (d : BitVec 5) (a : BitVec 5) (m : BitVec 3) : Statement (.vmovMv d a m) := by
  intro h x e
  obtain rfl : _ = x := Option.some.inj e
  clear e
  refine (decode_4A _ (wordV_op ..)).trans ?_
  simp_all [decodeVec0A, checked, Instr.wf, bits_lit]

theorem vcomp (d : BitVec 5) (a : BitVec 5) (b : BitVec 5) (m : BitVec 3) (n : BitVec 4) (t : BitVec 2) : Statement (.vcomp d a b m n t) := by
  intro h x e
  obtain rfl : _ = x := Option.some.inj e
  clear e
  refine (decode_4B _ (wordV_op ..)).trans ?_
  simp_all [decodeVec0B, checked, Instr.wf, bits_lit]

theorem vqntC (d : BitVec 5) (a : BitVec 5) (b : BitVec 5) (m : BitVec 3) (t : BitVec 2) : Statement (.vqntC d a b m t) := by
  intro h x e
  obtain rfl : _ = x := Option.some.inj e
  clear e
  refine (decode_4C _ (wordV_op ..)).trans ?_
  simp_all [decodeVec0C, checked, Instr.wf, bits_lit]

theorem vqntCr (d : BitVec 5) (a : BitVec 5) (b : BitVec 5) (m : BitVec 3) (t : BitVec 2) : Statement (.vqntCr d a b m t) := by
  intro h x e
  obtain rfl : _ = x := Option.some.inj e
  clear e
  refine (decode_4C _ (wordV_op ..)).trans ?_
  simp_all [decodeVec0C, checked, Instr.wf, bits_lit]

theorem vqntG (d : BitVec 5) (a : BitVec 5) (b : BitVec 5) (m : BitVec 3) (t : BitVec 2) : Statement (.vqntG d a b m t) := by
  intro h x e
  obtain rfl : _ = x := Option.some.inj e
  clear e
  refine (decode_4C _ (wordV_op ..)).trans ?_
  simp_all [decodeVec0C, checked, Instr.wf, bits_lit]

theorem vqntGr (d : BitVec 5) (a : BitVec 5) (b : BitVec 5) (m : BitVec 3) (t : BitVec 2) : Statement (.vqntGr d a b m t) := by
  intro h x e
  obtain rfl : _ = x := Option.some.inj e
  clear e
  refine (decode_4C _ (wordV_op ..)).trans ?_
  simp_all [decodeVec0C, checked, Instr.wf, bits_lit]

theorem vdqnt (d : BitVec 5) (a : BitVec 5) (b : BitVec 5) (m : BitVec 3) : Statement (.vdqnt d a b m) := by
  intro h x e
  obtain rfl : _ = x := Option.some.inj e
  clear e
  refine (decode_4D _ (wordV_op ..)).trans ?_
  simp_all [decodeVec0D, checked, Instr.wf, bits_lit]

theorem vdqntAcc (d : BitVec 5) (a : BitVec 5) (b : BitVec 5) (m : BitVec 3) : Statement (.vdqntAcc d a b m) := by
  intro h x e
  obtain rfl : _ = x := Option.some.inj e
  clear e
  refine (decode_4D _ (wordV_op ..)).trans ?_
  simp_all [decodeVec0D, checked, Instr.wf, bits_lit]

theorem vrandU (d : BitVec 5) (m : BitVec 3) : Statement (.vrandU d m) := by
  intro h x e
  obtain rfl : _ = x := Option.some.inj e
  clear e
  refine (decode_4E _ (wordV_op ..)).trans ?_
  simp_all [decodeVec0E, checked, Instr.wf, bits_lit]

theorem vrandF (d : BitVec 5) (m : BitVec 3) : Statement (.vrandF d m) := by
  intro h x e
  obtain rfl : _ = x := Option.some.inj e
  clear e
  refine (decode_4E _ (wordV_op ..)).trans ?_
  simp_all [decodeVec0E, checked, Instr.wf, bits_lit]

theorem vmaskAnd (d : BitVec 3) (a : BitVec 3) (b : BitVec 3) : Statement (.vmaskAnd d a b) := by
  intro h x e
  obtain rfl : _ = x := Option.some.inj e
  clear e
  refine (decode_4F _ (wordV_op ..)).trans ?_
  simp_all [decodeVec0F, checked, Instr.wf, bits_lit]

theorem vmaskOr (d : BitVec 3) (a : BitVec 3) (b : BitVec 3) : Statement (.vmaskOr d a b) := by
  intro h x e
  obtain rfl : _ = x := Option.some.inj e
  clear e
  refine (decode_4F _ (wordV_op ..)).trans ?_
  simp_all [decodeVec0F, checked, Instr.wf, bits_lit]

theorem vmaskXor (d : BitVec 3) (a : BitVec 3) (b : BitVec 3) : Statement (.vmaskXor d a b) := by
  intro h x e
  obtain rfl : _ = x := Option.some.inj e
  clear e
  refine (decode_4F _ (wordV_op ..)).trans ?_
  simp_all [decodeVec0F, checked, Instr.wf, bits_lit]

theorem vmaskAndn (d : BitVec 3) (a : BitVec 3) (b : BitVec 3) : Statement (.vmaskAndn d a b) := by
  intro h x e
  obtain rfl : _ = x := Option.some.inj e
  clear e
  refine (decode_4F _ (wordV_op ..)).trans ?_
  simp_all [decodeVec0F, checked, Instr.wf, bits_lit]

theorem vmaskNot (d : BitVec 3) (a : BitVec 3) : Statement (.vmaskNot d a) := by
  intro h x e
  obtain rfl : _ = x := Option.some.inj e
  clear e
  refine (decode_4F _ (wordV_op ..)).trans ?_
  simp_all [decodeVec0F, checked, Instr.wf, bits_lit]

theorem vmaskMov (d : BitVec 3) (a : BitVec 3) : Statement (.vmaskMov d a) := by
  intro h x e
  obtain rfl : _ = x := Option.some.inj e
  clear e
  refine (decode_4F _ (wordV_op ..)).trans ?_
  simp_all [decodeVec0F, checked, Instr.wf, bits_lit]

theorem vmaskFirst (d : BitVec 3) (a : BitVec 3) : Statement (.vmaskFirst d a) := by
  intro h x e
  obtain rfl : _ = x := Option.some.inj e
  clear e
  refine (decode_4F _ (wordV_op ..)).trans ?_
  simp_all [decodeVec0F, checked, Instr.wf, bits_lit]

theorem vmaskCnt (a : BitVec 3) : Statement (.vmaskCnt a) := by
  intro h x e
  obtain rfl : _ = x := Option.some.inj e
  clear e
  refine (decode_4F _ (wordV_op ..)).trans ?_
  simp_all [decodeVec0F, checked, Instr.wf, bits_lit]

theorem vqin (d : BitVec 5) (m : BitVec 3) : Statement (.vqin d m) := by
  intro h x e
  obtain rfl : _ = x := Option.some.inj e
  clear e
  refine (decode_50 _ (wordV_op ..)).trans ?_
  simp_all [decodeVec10, checked, Instr.wf, bits_lit]

theorem vqinQ5 (d : BitVec 5) (m : BitVec 3) : Statement (.vqinQ5 d m) := by
  intro h x e
  obtain rfl : _ = x := Option.some.inj e
  clear e
  refine (decode_50 _ (wordV_op ..)).trans ?_
  simp_all [decodeVec10, checked, Instr.wf, bits_lit]

theorem vqinS (d : BitVec 5) (m : BitVec 3) : Statement (.vqinS d m) := by
  intro h x e
  obtain rfl : _ = x := Option.some.inj e
  clear e
  refine (decode_50 _ (wordV_op ..)).trans ?_
  simp_all [decodeVec10, checked, Instr.wf, bits_lit]

theorem vqout (a : BitVec 5) (m : BitVec 3) : Statement (.vqout a m) := by
  intro h x e
  obtain rfl : _ = x := Option.some.inj e
  clear e
  refine (decode_51 _ (wordV_op ..)).trans ?_
  simp_all [decodeVec11, checked, Instr.wf, bits_lit]

theorem vqoutQ11 (a : BitVec 5) (m : BitVec 3) : Statement (.vqoutQ11 a m) := by
  intro h x e
  obtain rfl : _ = x := Option.some.inj e
  clear e
  refine (decode_51 _ (wordV_op ..)).trans ?_
  simp_all [decodeVec11, checked, Instr.wf, bits_lit]

theorem viotaIdx (d : BitVec 5) (m : BitVec 3) : Statement (.viotaIdx d m) := by
  intro h x e
  obtain rfl : _ = x := Option.some.inj e
  clear e
  refine (decode_52 _ (wordV_op ..)).trans ?_
  simp_all [decodeVec12, checked, Instr.wf, bits_lit]

theorem viotaCnt (d : BitVec 5) (a : BitVec 3) (m : BitVec 3) : Statement (.viotaCnt d a m) := by
  intro h x e
  obtain rfl : _ = x := Option.some.inj e
  clear e
  refine (decode_52 _ (wordV_op ..)).trans ?_
  simp_all [decodeVec12, checked, Instr.wf, bits_lit]

theorem mma (k : BitVec 2) (a : BitVec 6) (b : BitVec 6) (c : BitVec 1) (e : BitVec 1) : Statement (.mma k a b c e) := by
  intro h x e
  obtain rfl : _ = x := Option.some.inj e
  clear e
  refine (decode_60 _ (wordM_op ..)).trans ?_
  simp_all [decodeMat00, checked, Instr.wf, bits_lit]

theorem mmas (k : BitVec 2) (a : BitVec 6) (b : BitVec 6) (v : BitVec 5) (c : BitVec 1) (e : BitVec 1) : Statement (.mmas k a b v c e) := by
  intro h x e
  obtain rfl : _ = x := Option.some.inj e
  clear e
  refine (decode_61 _ (wordM_op ..)).trans ?_
  simp_all [decodeMat01, checked, Instr.wf, bits_lit]

theorem mmat (k : BitVec 2) (a : BitVec 6) (b : BitVec 6) (c : BitVec 1) (e : BitVec 1) : Statement (.mmat k a b c e) := by
  intro h x e
  obtain rfl : _ = x := Option.some.inj e
  clear e
  refine (decode_62 _ (wordM_op ..)).trans ?_
  simp_all [decodeMat02, checked, Instr.wf, bits_lit]

theorem mdist (k : BitVec 2) (a : BitVec 6) (b : BitVec 6) (e : BitVec 1) : Statement (.mdist k a b e) := by
  intro h x e
  obtain rfl : _ = x := Option.some.inj e
  clear e
  refine (decode_63 _ (wordM_op ..)).trans ?_
  simp_all [decodeMat03, checked, Instr.wf, bits_lit]

theorem mtopk (k : BitVec 2) (a : BitVec 6) (b : BitVec 6) (e : BitVec 1) (n : BitVec 3) : Statement (.mtopk k a b e n) := by
  intro h x e
  obtain rfl : _ = x := Option.some.inj e
  clear e
  refine (decode_64 _ (wordM_op ..)).trans ?_
  simp_all [decodeMat04, checked, Instr.wf, bits_lit]

theorem mzero (k : BitVec 2) : Statement (.mzero k) := by
  intro h x e
  obtain rfl : _ = x := Option.some.inj e
  clear e
  refine (decode_65 _ (wordM_op ..)).trans ?_
  simp_all [decodeMat05, checked, Instr.wf, bits_lit]

theorem mload (k : BitVec 2) (v : BitVec 5) (c : BitVec 1) (i : BitVec 1) : Statement (.mload k v c i) := by
  intro h x e
  obtain rfl : _ = x := Option.some.inj e
  clear e
  refine (decode_66 _ (wordM_op ..)).trans ?_
  simp_all [decodeMat06, checked, Instr.wf, bits_lit]

theorem mstore (k : BitVec 2) (v : BitVec 5) (c : BitVec 1) (f : BitVec 3) : Statement (.mstore k v c f) := by
  intro h x e
  obtain rfl : _ = x := Option.some.inj e
  clear e
  refine (decode_67 _ (wordM_op ..)).trans ?_
  simp_all [decodeMat07, checked, Instr.wf, bits_lit]

theorem mrdRow (k : BitVec 2) (v : BitVec 5) : Statement (.mrdRow k v) := by
  intro h x e
  obtain rfl : _ = x := Option.some.inj e
  clear e
  refine (decode_68 _ (wordM_op ..)).trans ?_
  simp_all [decodeMat08, checked, Instr.wf, bits_lit]

theorem mrdCol (k : BitVec 2) (v : BitVec 5) : Statement (.mrdCol k v) := by
  intro h x e
  obtain rfl : _ = x := Option.some.inj e
  clear e
  refine (decode_68 _ (wordM_op ..)).trans ?_
  simp_all [decodeMat08, checked, Instr.wf, bits_lit]

theorem mrdRck (k : BitVec 2) : Statement (.mrdRck k) := by
  intro h x e
  obtain rfl : _ = x := Option.some.inj e
  clear e
  refine (decode_68 _ (wordM_op ..)).trans ?_
  simp_all [decodeMat08, checked, Instr.wf, bits_lit]

theorem mrdCck (k : BitVec 2) : Statement (.mrdCck k) := by
  intro h x e
  obtain rfl : _ = x := Option.some.inj e
  clear e
  refine (decode_68 _ (wordM_op ..)).trans ?_
  simp_all [decodeMat08, checked, Instr.wf, bits_lit]

theorem mwrRow (k : BitVec 2) (v : BitVec 5) (i : BitVec 1) : Statement (.mwrRow k v i) := by
  intro h x e
  obtain rfl : _ = x := Option.some.inj e
  clear e
  refine (decode_69 _ (wordM_op ..)).trans ?_
  simp_all [decodeMat09, checked, Instr.wf, bits_lit]

theorem mwrCol (k : BitVec 2) (v : BitVec 5) (i : BitVec 1) : Statement (.mwrCol k v i) := by
  intro h x e
  obtain rfl : _ = x := Option.some.inj e
  clear e
  refine (decode_69 _ (wordM_op ..)).trans ?_
  simp_all [decodeMat09, checked, Instr.wf, bits_lit]

theorem mwrRck (k : BitVec 2) : Statement (.mwrRck k) := by
  intro h x e
  obtain rfl : _ = x := Option.some.inj e
  clear e
  refine (decode_69 _ (wordM_op ..)).trans ?_
  simp_all [decodeMat09, checked, Instr.wf, bits_lit]

theorem mwrCck (k : BitVec 2) : Statement (.mwrCck k) := by
  intro h x e
  obtain rfl : _ = x := Option.some.inj e
  clear e
  refine (decode_69 _ (wordM_op ..)).trans ?_
  simp_all [decodeMat09, checked, Instr.wf, bits_lit]

theorem mcommit : Statement (.mcommit) := by
  intro h x e
  obtain rfl : _ = x := Option.some.inj e
  clear e
  refine (decode_6A _ (wordM_op ..)).trans ?_
  simp_all [decodeMat0A, checked, Instr.wf, bits_lit]

theorem mwait (n : BitVec 2) : Statement (.mwait n) := by
  intro h x e
  obtain rfl : _ = x := Option.some.inj e
  clear e
  refine (decode_6B _ (wordM_op ..)).trans ?_
  simp_all [decodeMat0B, checked, Instr.wf, bits_lit]

theorem mwaitAcc (k : BitVec 2) : Statement (.mwaitAcc k) := by
  intro h x e
  obtain rfl : _ = x := Option.some.inj e
  clear e
  refine (decode_6B _ (wordM_op ..)).trans ?_
  simp_all [decodeMat0B, checked, Instr.wf, bits_lit]

theorem mcks (k : BitVec 2) (v : BitVec 5) : Statement (.mcks k v) := by
  intro h x e
  obtain rfl : _ = x := Option.some.inj e
  clear e
  refine (decode_6C _ (wordM_op ..)).trans ?_
  simp_all [decodeMat0C, checked, Instr.wf, bits_lit]

theorem mfix (k : BitVec 2) : Statement (.mfix k) := by
  intro h x e
  obtain rfl : _ = x := Option.some.inj e
  clear e
  refine (decode_6D _ (wordM_op ..)).trans ?_
  simp_all [decodeMat0D, checked, Instr.wf, bits_lit]

theorem arrayCommandStart (t : Nat) : Statement (.arrayCommandStart t) := by
  intro _ _ h
  cases h

theorem arrayCommandRetire (t : Nat) : Statement (.arrayCommandRetire t) := by
  intro _ _ h
  cases h

theorem xcopy (h : BitVec 6) (a : BitVec 6) : Statement (.xcopy h a) := by
  intro h x e
  obtain rfl : _ = x := Option.some.inj e
  clear e
  refine (decode_80 _ (wordX_op ..)).trans ?_
  simp_all [decodeXfr00, checked, Instr.wf, bits_lit]

theorem xcopyT (h : BitVec 6) (s : BitVec 3) (a : BitVec 6) : Statement (.xcopyT h s a) := by
  intro h x e
  obtain rfl : _ = x := Option.some.inj e
  clear e
  refine (decode_80 _ (wordX_op ..)).trans ?_
  simp_all [decodeXfr00, checked, Instr.wf, bits_lit]

theorem xcopyS (h : BitVec 6) (a : BitVec 6) : Statement (.xcopyS h a) := by
  intro h x e
  obtain rfl : _ = x := Option.some.inj e
  clear e
  refine (decode_80 _ (wordX_op ..)).trans ?_
  simp_all [decodeXfr00, checked, Instr.wf, bits_lit]

theorem xput (h : BitVec 6) (a : BitVec 6) : Statement (.xput h a) := by
  intro h x e
  obtain rfl : _ = x := Option.some.inj e
  clear e
  refine (decode_81 _ (wordX_op ..)).trans ?_
  simp_all [decodeXfr01, checked, Instr.wf, bits_lit]

theorem xputT (h : BitVec 6) (s : BitVec 3) (a : BitVec 6) : Statement (.xputT h s a) := by
  intro h x e
  obtain rfl : _ = x := Option.some.inj e
  clear e
  refine (decode_81 _ (wordX_op ..)).trans ?_
  simp_all [decodeXfr01, checked, Instr.wf, bits_lit]

theorem xgath (h : BitVec 6) (s : BitVec 3) (a : BitVec 6) : Statement (.xgath h s a) := by
  intro h x e
  obtain rfl : _ = x := Option.some.inj e
  clear e
  refine (decode_82 _ (wordX_op ..)).trans ?_
  simp_all [decodeXfr02, checked, Instr.wf, bits_lit]

theorem xscatO (h : BitVec 6) (s : BitVec 3) (a : BitVec 6) : Statement (.xscatO h s a) := by
  intro h x e
  obtain rfl : _ = x := Option.some.inj e
  clear e
  refine (decode_83 _ (wordX_op ..)).trans ?_
  simp_all [decodeXfr03, checked, Instr.wf, bits_lit]

theorem xscatAdd (h : BitVec 6) (s : BitVec 3) (a : BitVec 6) : Statement (.xscatAdd h s a) := by
  intro h x e
  obtain rfl : _ = x := Option.some.inj e
  clear e
  refine (decode_83 _ (wordX_op ..)).trans ?_
  simp_all [decodeXfr03, checked, Instr.wf, bits_lit]

theorem xscatMax (h : BitVec 6) (s : BitVec 3) (a : BitVec 6) : Statement (.xscatMax h s a) := by
  intro h x e
  obtain rfl : _ = x := Option.some.inj e
  clear e
  refine (decode_83 _ (wordX_op ..)).trans ?_
  simp_all [decodeXfr03, checked, Instr.wf, bits_lit]

theorem xscatMin (h : BitVec 6) (s : BitVec 3) (a : BitVec 6) : Statement (.xscatMin h s a) := by
  intro h x e
  obtain rfl : _ = x := Option.some.inj e
  clear e
  refine (decode_83 _ (wordX_op ..)).trans ?_
  simp_all [decodeXfr03, checked, Instr.wf, bits_lit]

theorem xpack (h : BitVec 6) (s : BitVec 3) (a : BitVec 6) : Statement (.xpack h s a) := by
  intro h x e
  obtain rfl : _ = x := Option.some.inj e
  clear e
  refine (decode_84 _ (wordX_op ..)).trans ?_
  simp_all [decodeXfr04, checked, Instr.wf, bits_lit]

theorem xpackK1 (h : BitVec 6) (s : BitVec 3) (a : BitVec 6) : Statement (.xpackK1 h s a) := by
  intro h x e
  obtain rfl : _ = x := Option.some.inj e
  clear e
  refine (decode_84 _ (wordX_op ..)).trans ?_
  simp_all [decodeXfr04, checked, Instr.wf, bits_lit]

theorem xpackS (h : BitVec 6) (a : BitVec 6) : Statement (.xpackS h a) := by
  intro h x e
  obtain rfl : _ = x := Option.some.inj e
  clear e
  refine (decode_84 _ (wordX_op ..)).trans ?_
  simp_all [decodeXfr04, checked, Instr.wf, bits_lit]

theorem xhalo (h : BitVec 6) (a : BitVec 6) (d : BitVec 4) : Statement (.xhalo h a d) := by
  intro h x e
  obtain rfl : _ = x := Option.some.inj e
  clear e
  refine (decode_85 _ (wordX_op ..)).trans ?_
  simp_all [decodeXfr05, checked, Instr.wf, bits_lit]

theorem xfill (h : BitVec 6) (a : BitVec 6) : Statement (.xfill h a) := by
  intro h x e
  obtain rfl : _ = x := Option.some.inj e
  clear e
  refine (decode_86 _ (wordX_op ..)).trans ?_
  simp_all [decodeXfr06, checked, Instr.wf, bits_lit]

theorem xrel (h : BitVec 6) : Statement (.xrel h) := by
  intro h x e
  obtain rfl : _ = x := Option.some.inj e
  clear e
  refine (decode_87 _ (wordX_op ..)).trans ?_
  simp_all [decodeXfr07, checked, Instr.wf, bits_lit]

theorem xabort (h : BitVec 6) : Statement (.xabort h) := by
  intro h x e
  obtain rfl : _ = x := Option.some.inj e
  clear e
  refine (decode_88 _ (wordX_op ..)).trans ?_
  simp_all [decodeXfr08, checked, Instr.wf, bits_lit]

theorem copyUnitLands (k : Nat) : Statement (.copyUnitLands k) := by
  intro _ _ h
  cases h

theorem haloArrival (k : Nat) : Statement (.haloArrival k) := by
  intro _ _ h
  cases h

theorem lyset (j : BitVec 8) (s : BitVec 6) (t : BitVec 6) : Statement (.lyset j s t) := by
  intro h x e
  obtain rfl : _ = x := Option.some.inj e
  clear e
  refine (decode_A0 _ (wordS_op ..)).trans ?_
  simp_all [decodeFab00, checked, Instr.wf, bits_lit]

theorem lysetGet (j : BitVec 8) (s : BitVec 6) : Statement (.lysetGet j s) := by
  intro h x e
  obtain rfl : _ = x := Option.some.inj e
  clear e
  refine (decode_A0 _ (wordS_op ..)).trans ?_
  simp_all [decodeFab00, checked, Instr.wf, bits_lit]

theorem reshard (j : BitVec 8) (s : BitVec 6) : Statement (.reshard j s) := by
  intro h x e
  obtain rfl : _ = x := Option.some.inj e
  clear e
  refine (decode_A1 _ (wordS_op ..)).trans ?_
  simp_all [decodeFab01, checked, Instr.wf, bits_lit]

theorem collSum (j : BitVec 8) (s : BitVec 6) (t : BitVec 6) : Statement (.collSum j s t) := by
  intro h x e
  obtain rfl : _ = x := Option.some.inj e
  clear e
  refine (decode_A2 _ (wordS_op ..)).trans ?_
  simp_all [decodeFab02, checked, Instr.wf, bits_lit]

theorem collMax (j : BitVec 8) (s : BitVec 6) (t : BitVec 6) : Statement (.collMax j s t) := by
  intro h x e
  obtain rfl : _ = x := Option.some.inj e
  clear e
  refine (decode_A2 _ (wordS_op ..)).trans ?_
  simp_all [decodeFab02, checked, Instr.wf, bits_lit]

theorem collMin (j : BitVec 8) (s : BitVec 6) (t : BitVec 6) : Statement (.collMin j s t) := by
  intro h x e
  obtain rfl : _ = x := Option.some.inj e
  clear e
  refine (decode_A2 _ (wordS_op ..)).trans ?_
  simp_all [decodeFab02, checked, Instr.wf, bits_lit]

theorem collAmerge (j : BitVec 8) (s : BitVec 6) (t : BitVec 6) : Statement (.collAmerge j s t) := by
  intro h x e
  obtain rfl : _ = x := Option.some.inj e
  clear e
  refine (decode_A2 _ (wordS_op ..)).trans ?_
  simp_all [decodeFab02, checked, Instr.wf, bits_lit]

theorem collRing (j : BitVec 8) (s : BitVec 6) (t : BitVec 6) : Statement (.collRing j s t) := by
  intro h x e
  obtain rfl : _ = x := Option.some.inj e
  clear e
  refine (decode_A2 _ (wordS_op ..)).trans ?_
  simp_all [decodeFab02, checked, Instr.wf, bits_lit]

theorem ranks (n : BitVec 2) (s : BitVec 6) (t : BitVec 6) : Statement (.ranks n s t) := by
  intro h x e
  obtain rfl : _ = x := Option.some.inj e
  clear e
  refine (decode_A3 _ (wordS_op ..)).trans ?_
  simp_all [decodeFab03, checked, Instr.wf, bits_lit]

theorem rkinv (n : BitVec 2) : Statement (.rkinv n) := by
  intro h x e
  obtain rfl : _ = x := Option.some.inj e
  clear e
  refine (decode_A4 _ (wordS_op ..)).trans ?_
  simp_all [decodeFab04, checked, Instr.wf, bits_lit]

theorem fwait : Statement (.fwait) := by
  intro h x e
  obtain rfl : _ = x := Option.some.inj e
  clear e
  refine (decode_A5 _ (wordS_op ..)).trans ?_
  simp_all [decodeFab05, checked, Instr.wf, bits_lit]

theorem fwaitSlot (j : BitVec 8) : Statement (.fwaitSlot j) := by
  intro h x e
  obtain rfl : _ = x := Option.some.inj e
  clear e
  refine (decode_A5 _ (wordS_op ..)).trans ?_
  simp_all [decodeFab05, checked, Instr.wf, bits_lit]

theorem resid (j : BitVec 8) (s : BitVec 6) (t : BitVec 6) : Statement (.resid j s t) := by
  intro h x e
  obtain rfl : _ = x := Option.some.inj e
  clear e
  refine (decode_A6 _ (wordS_op ..)).trans ?_
  simp_all [decodeFab06, checked, Instr.wf, bits_lit]

theorem fabort : Statement (.fabort) := by
  intro h x e
  obtain rfl : _ = x := Option.some.inj e
  clear e
  refine (decode_A7 _ (wordS_op ..)).trans ?_
  simp_all [decodeFab07, checked, Instr.wf, bits_lit]

theorem collStep (k : Nat) : Statement (.collStep k) := by
  intro _ _ h
  cases h

theorem collWatchdogExpiry (k : Nat) : Statement (.collWatchdogExpiry k) := by
  intro _ _ h
  cases h

theorem reshardExchangeComplete (k : Nat) : Statement (.reshardExchangeComplete k) := by
  intro _ _ h
  cases h

theorem kvmap (s : BitVec 6) : Statement (.kvmap s) := by
  intro h x e
  obtain rfl : _ = x := Option.some.inj e
  clear e
  refine (decode_C0 _ (wordN_op ..)).trans ?_
  simp_all [decodeAtn00, checked, Instr.wf, bits_lit]

theorem kvmapNew (s : BitVec 6) : Statement (.kvmapNew s) := by
  intro h x e
  obtain rfl : _ = x := Option.some.inj e
  clear e
  refine (decode_C0 _ (wordN_op ..)).trans ?_
  simp_all [decodeAtn00, checked, Instr.wf, bits_lit]

theorem kvmapUn (s : BitVec 6) : Statement (.kvmapUn s) := by
  intro h x e
  obtain rfl : _ = x := Option.some.inj e
  clear e
  refine (decode_C0 _ (wordN_op ..)).trans ?_
  simp_all [decodeAtn00, checked, Instr.wf, bits_lit]

theorem kvlock (s : BitVec 6) : Statement (.kvlock s) := by
  intro h x e
  obtain rfl : _ = x := Option.some.inj e
  clear e
  refine (decode_C1 _ (wordN_op ..)).trans ?_
  simp_all [decodeAtn01, checked, Instr.wf, bits_lit]

theorem kvlockUn (s : BitVec 6) : Statement (.kvlockUn s) := by
  intro h x e
  obtain rfl : _ = x := Option.some.inj e
  clear e
  refine (decode_C1 _ (wordN_op ..)).trans ?_
  simp_all [decodeAtn01, checked, Instr.wf, bits_lit]

theorem kvapp (s : BitVec 6) : Statement (.kvapp s) := by
  intro h x e
  obtain rfl : _ = x := Option.some.inj e
  clear e
  refine (decode_C2 _ (wordN_op ..)).trans ?_
  simp_all [decodeAtn02, checked, Instr.wf, bits_lit]

theorem kvroll (s : BitVec 6) : Statement (.kvroll s) := by
  intro h x e
  obtain rfl : _ = x := Option.some.inj e
  clear e
  refine (decode_C3 _ (wordN_op ..)).trans ?_
  simp_all [decodeAtn03, checked, Instr.wf, bits_lit]

theorem patt (q : BitVec 5) (s : BitVec 6) : Statement (.patt q s) := by
  intro h x e
  obtain rfl : _ = x := Option.some.inj e
  clear e
  refine (decode_C4 _ (wordN_op ..)).trans ?_
  simp_all [decodeAtn04, checked, Instr.wf, bits_lit]

theorem mprog (n : BitVec 2) (s : BitVec 6) (t : BitVec 6) : Statement (.mprog n s t) := by
  intro h x e
  obtain rfl : _ = x := Option.some.inj e
  clear e
  refine (decode_C5 _ (wordN_op ..)).trans ?_
  simp_all [decodeAtn05, checked, Instr.wf, bits_lit]

theorem meval (n : BitVec 2) (s : BitVec 6) : Statement (.meval n s) := by
  intro h x e
  obtain rfl : _ = x := Option.some.inj e
  clear e
  refine (decode_C6 _ (wordN_op ..)).trans ?_
  simp_all [decodeAtn06, checked, Instr.wf, bits_lit]

theorem cent (s : BitVec 6) : Statement (.cent s) := by
  intro h x e
  obtain rfl : _ = x := Option.some.inj e
  clear e
  refine (decode_C7 _ (wordN_op ..)).trans ?_
  simp_all [decodeAtn07, checked, Instr.wf, bits_lit]

theorem csel (q : BitVec 5) (s : BitVec 6) : Statement (.csel q s) := by
  intro h x e
  obtain rfl : _ = x := Option.some.inj e
  clear e
  refine (decode_C8 _ (wordN_op ..)).trans ?_
  simp_all [decodeAtn08, checked, Instr.wf, bits_lit]

theorem retn (s : BitVec 6) (t : BitVec 6) : Statement (.retn s t) := by
  intro h x e
  obtain rfl : _ = x := Option.some.inj e
  clear e
  refine (decode_C9 _ (wordN_op ..)).trans ?_
  simp_all [decodeAtn09, checked, Instr.wf, bits_lit]

theorem retnQ (s : BitVec 6) : Statement (.retnQ s) := by
  intro h x e
  obtain rfl : _ = x := Option.some.inj e
  clear e
  refine (decode_C9 _ (wordN_op ..)).trans ?_
  simp_all [decodeAtn09, checked, Instr.wf, bits_lit]

theorem sieve (s : BitVec 6) : Statement (.sieve s) := by
  intro h x e
  obtain rfl : _ = x := Option.some.inj e
  clear e
  refine (decode_CA _ (wordN_op ..)).trans ?_
  simp_all [decodeAtn0A, checked, Instr.wf, bits_lit]

theorem await : Statement (.await) := by
  intro h x e
  obtain rfl : _ = x := Option.some.inj e
  clear e
  refine (decode_CB _ (wordN_op ..)).trans ?_
  simp_all [decodeAtn0B, checked, Instr.wf, bits_lit]

theorem awaitAbort : Statement (.awaitAbort) := by
  intro h x e
  obtain rfl : _ = x := Option.some.inj e
  clear e
  refine (decode_CB _ (wordN_op ..)).trans ?_
  simp_all [decodeAtn0B, checked, Instr.wf, bits_lit]

theorem mcntClr : Statement (.mcntClr) := by
  intro h x e
  obtain rfl : _ = x := Option.some.inj e
  clear e
  refine (decode_CC _ (wordN_op ..)).trans ?_
  simp_all [decodeAtn0C, checked, Instr.wf, bits_lit]

theorem pattDone (k : Nat) : Statement (.pattDone k) := by
  intro _ _ h
  cases h

theorem centKeyUpdate (k : Nat) : Statement (.centKeyUpdate k) := by
  intro _ _ h
  cases h

theorem sieveCompact (k : Nat) : Statement (.sieveCompact k) := by
  intro _ _ h
  cases h

theorem bar (b : BitVec 3) (k : BitVec 3) (s : BitVec 6) : Statement (.bar b k s) := by
  intro h x e
  obtain rfl : _ = x := Option.some.inj e
  clear e
  refine (decode_E0 _ (wordS_op ..)).trans ?_
  simp_all [decodeSyn00, checked, Instr.wf, bits_lit]

theorem barArr (b : BitVec 3) (k : BitVec 3) (s : BitVec 6) : Statement (.barArr b k s) := by
  intro h x e
  obtain rfl : _ = x := Option.some.inj e
  clear e
  refine (decode_E0 _ (wordS_op ..)).trans ?_
  simp_all [decodeSyn00, checked, Instr.wf, bits_lit]

theorem barWt (b : BitVec 3) (k : BitVec 3) : Statement (.barWt b k) := by
  intro h x e
  obtain rfl : _ = x := Option.some.inj e
  clear e
  refine (decode_E0 _ (wordS_op ..)).trans ?_
  simp_all [decodeSyn00, checked, Instr.wf, bits_lit]

theorem cbarInit (n : BitVec 4) (s : BitVec 6) : Statement (.cbarInit n s) := by
  intro h x e
  obtain rfl : _ = x := Option.some.inj e
  clear e
  refine (decode_E1 _ (wordS_op ..)).trans ?_
  simp_all [decodeSyn01, checked, Instr.wf, bits_lit]

theorem cbarAdd (n : BitVec 4) (s : BitVec 6) : Statement (.cbarAdd n s) := by
  intro h x e
  obtain rfl : _ = x := Option.some.inj e
  clear e
  refine (decode_E1 _ (wordS_op ..)).trans ?_
  simp_all [decodeSyn01, checked, Instr.wf, bits_lit]

theorem cbarWait (n : BitVec 4) : Statement (.cbarWait n) := by
  intro h x e
  obtain rfl : _ = x := Option.some.inj e
  clear e
  refine (decode_E1 _ (wordS_op ..)).trans ?_
  simp_all [decodeSyn01, checked, Instr.wf, bits_lit]

theorem cbarTake (n : BitVec 4) : Statement (.cbarTake n) := by
  intro h x e
  obtain rfl : _ = x := Option.some.inj e
  clear e
  refine (decode_E1 _ (wordS_op ..)).trans ?_
  simp_all [decodeSyn01, checked, Instr.wf, bits_lit]

theorem cbarFree (n : BitVec 4) : Statement (.cbarFree n) := by
  intro h x e
  obtain rfl : _ = x := Option.some.inj e
  clear e
  refine (decode_E1 _ (wordS_op ..)).trans ?_
  simp_all [decodeSyn01, checked, Instr.wf, bits_lit]

theorem sbarP (n : BitVec 3) : Statement (.sbarP n) := by
  intro h x e
  obtain rfl : _ = x := Option.some.inj e
  clear e
  refine (decode_E2 _ (wordS_op ..)).trans ?_
  simp_all [decodeSyn02, checked, Instr.wf, bits_lit]

theorem sbarC (n : BitVec 3) : Statement (.sbarC n) := by
  intro h x e
  obtain rfl : _ = x := Option.some.inj e
  clear e
  refine (decode_E2 _ (wordS_op ..)).trans ?_
  simp_all [decodeSyn02, checked, Instr.wf, bits_lit]

theorem sbarArrivalEffect (n : Nat) : Statement (.sbarArrivalEffect n) := by
  intro _ _ h
  cases h

theorem ring (n : BitVec 3) (s : BitVec 6) (t : BitVec 6) : Statement (.ring n s t) := by
  intro h x e
  obtain rfl : _ = x := Option.some.inj e
  clear e
  refine (decode_E3 _ (wordS_op ..)).trans ?_
  simp_all [decodeSyn03, checked, Instr.wf, bits_lit]

theorem ringRel (n : BitVec 3) : Statement (.ringRel n) := by
  intro h x e
  obtain rfl : _ = x := Option.some.inj e
  clear e
  refine (decode_E3 _ (wordS_op ..)).trans ?_
  simp_all [decodeSyn03, checked, Instr.wf, bits_lit]

theorem phaseNew : Statement (.phaseNew) := by
  intro h x e
  obtain rfl : _ = x := Option.some.inj e
  clear e
  refine (decode_E4 _ (wordS_op ..)).trans ?_
  simp_all [decodeSyn04, checked, Instr.wf, bits_lit]

theorem phaseRd (r : BitVec 2) (e : BitVec 3) (s : BitVec 6) (t : BitVec 6) : Statement (.phaseRd r e s t) := by
  intro h x e
  obtain rfl : _ = x := Option.some.inj e
  clear e
  refine (decode_E4 _ (wordS_op ..)).trans ?_
  simp_all [decodeSyn04, checked, Instr.wf, bits_lit]

theorem phaseWr (r : BitVec 2) (e : BitVec 3) (s : BitVec 6) (t : BitVec 6) : Statement (.phaseWr r e s t) := by
  intro h x e
  obtain rfl : _ = x := Option.some.inj e
  clear e
  refine (decode_E4 _ (wordS_op ..)).trans ?_
  simp_all [decodeSyn04, checked, Instr.wf, bits_lit]

theorem tklend (s : BitVec 6) (t : BitVec 6) : Statement (.tklend s t) := by
  intro h x e
  obtain rfl : _ = x := Option.some.inj e
  clear e
  refine (decode_E5 _ (wordS_op ..)).trans ?_
  simp_all [decodeSyn05, checked, Instr.wf, bits_lit]

theorem tkret (s : BitVec 6) (t : BitVec 6) : Statement (.tkret s t) := by
  intro h x e
  obtain rfl : _ = x := Option.some.inj e
  clear e
  refine (decode_E6 _ (wordS_op ..)).trans ?_
  simp_all [decodeSyn06, checked, Instr.wf, bits_lit]

theorem tksplit (s : BitVec 6) (t : BitVec 6) : Statement (.tksplit s t) := by
  intro h x e
  obtain rfl : _ = x := Option.some.inj e
  clear e
  refine (decode_E7 _ (wordS_op ..)).trans ?_
  simp_all [decodeSyn07, checked, Instr.wf, bits_lit]

theorem tkjoin (s : BitVec 6) (t : BitVec 6) : Statement (.tkjoin s t) := by
  intro h x e
  obtain rfl : _ = x := Option.some.inj e
  clear e
  refine (decode_E8 _ (wordS_op ..)).trans ?_
  simp_all [decodeSyn08, checked, Instr.wf, bits_lit]

theorem tkshare (s : BitVec 6) (t : BitVec 6) : Statement (.tkshare s t) := by
  intro h x e
  obtain rfl : _ = x := Option.some.inj e
  clear e
  refine (decode_E9 _ (wordS_op ..)).trans ?_
  simp_all [decodeSyn09, checked, Instr.wf, bits_lit]

theorem tkunsh (s : BitVec 6) (t : BitVec 6) : Statement (.tkunsh s t) := by
  intro h x e
  obtain rfl : _ = x := Option.some.inj e
  clear e
  refine (decode_EA _ (wordS_op ..)).trans ?_
  simp_all [decodeSyn0A, checked, Instr.wf, bits_lit]

theorem tkrecl (s : BitVec 6) (t : BitVec 6) : Statement (.tkrecl s t) := by
  intro h x e
  obtain rfl : _ = x := Option.some.inj e
  clear e
  refine (decode_EB _ (wordS_op ..)).trans ?_
  simp_all [decodeSyn0B, checked, Instr.wf, bits_lit]

theorem tokenWaitResume (t : Nat) : Statement (.tokenWaitResume t) := by
  intro _ _ h
  cases h

theorem rwb (s : BitVec 6) (t : BitVec 6) : Statement (.rwb s t) := by
  intro h x e
  obtain rfl : _ = x := Option.some.inj e
  clear e
  refine (decode_EC _ (wordS_op ..)).trans ?_
  simp_all [decodeSyn0C, checked, Instr.wf, bits_lit]

theorem rinv (s : BitVec 6) (t : BitVec 6) : Statement (.rinv s t) := by
  intro h x e
  obtain rfl : _ = x := Option.some.inj e
  clear e
  refine (decode_ED _ (wordS_op ..)).trans ?_
  simp_all [decodeSyn0D, checked, Instr.wf, bits_lit]

theorem launch (n : BitVec 4) (s : BitVec 6) : Statement (.launch n s) := by
  intro h x e
  obtain rfl : _ = x := Option.some.inj e
  clear e
  refine (decode_EE _ (wordS_op ..)).trans ?_
  simp_all [decodeSyn0E, checked, Instr.wf, bits_lit]

theorem cwait (n : BitVec 4) : Statement (.cwait n) := by
  intro h x e
  obtain rfl : _ = x := Option.some.inj e
  clear e
  refine (decode_EF _ (wordS_op ..)).trans ?_
  simp_all [decodeSyn0F, checked, Instr.wf, bits_lit]

theorem cwaitAll : Statement (.cwaitAll) := by
  intro h x e
  obtain rfl : _ = x := Option.some.inj e
  clear e
  refine (decode_EF _ (wordS_op ..)).trans ?_
  simp_all [decodeSyn0F, checked, Instr.wf, bits_lit]

theorem seedPush (s : BitVec 6) : Statement (.seedPush s) := by
  intro h x e
  obtain rfl : _ = x := Option.some.inj e
  clear e
  refine (decode_F0 _ (wordS_op ..)).trans ?_
  simp_all [decodeSyn10, checked, Instr.wf, bits_lit]

theorem seedPop : Statement (.seedPop) := by
  intro h x e
  obtain rfl : _ = x := Option.some.inj e
  clear e
  refine (decode_F0 _ (wordS_op ..)).trans ?_
  simp_all [decodeSyn10, checked, Instr.wf, bits_lit]

theorem seedFork (s : BitVec 6) : Statement (.seedFork s) := by
  intro h x e
  obtain rfl : _ = x := Option.some.inj e
  clear e
  refine (decode_F0 _ (wordS_op ..)).trans ?_
  simp_all [decodeSyn10, checked, Instr.wf, bits_lit]

theorem trap (i : BitVec 8) (s : BitVec 6) : Statement (.trap i s) := by
  intro h x e
  obtain rfl : _ = x := Option.some.inj e
  clear e
  refine (decode_F1 _ (wordS_op ..)).trans ?_
  simp_all [decodeSyn11, checked, Instr.wf, bits_lit]

theorem resumeWait (s : BitVec 6) : Statement (.resumeWait s) := by
  intro h x e
  obtain rfl : _ = x := Option.some.inj e
  clear e
  refine (decode_F2 _ (wordS_op ..)).trans ?_
  simp_all [decodeSyn12, checked, Instr.wf, bits_lit]

theorem resumeAbort (s : BitVec 6) : Statement (.resumeAbort s) := by
  intro h x e
  obtain rfl : _ = x := Option.some.inj e
  clear e
  refine (decode_F2 _ (wordS_op ..)).trans ?_
  simp_all [decodeSyn12, checked, Instr.wf, bits_lit]

theorem eret : Statement (.eret) := by
  intro h x e
  obtain rfl : _ = x := Option.some.inj e
  clear e
  refine (decode_F3 _ (wordS_op ..)).trans ?_
  simp_all [decodeSyn13, checked, Instr.wf, bits_lit]

theorem tlbiVa (s : BitVec 6) (t : BitVec 6) : Statement (.tlbiVa s t) := by
  intro h x e
  obtain rfl : _ = x := Option.some.inj e
  clear e
  refine (decode_F4 _ (wordS_op ..)).trans ?_
  simp_all [decodeSyn14, checked, Instr.wf, bits_lit]

theorem tlbiTen (s : BitVec 6) (t : BitVec 6) : Statement (.tlbiTen s t) := by
  intro h x e
  obtain rfl : _ = x := Option.some.inj e
  clear e
  refine (decode_F4 _ (wordS_op ..)).trans ?_
  simp_all [decodeSyn14, checked, Instr.wf, bits_lit]

theorem tlbiCtx (t : BitVec 6) : Statement (.tlbiCtx t) := by
  intro h x e
  obtain rfl : _ = x := Option.some.inj e
  clear e
  refine (decode_F4 _ (wordS_op ..)).trans ?_
  simp_all [decodeSyn14, checked, Instr.wf, bits_lit]

theorem tlbiAll : Statement (.tlbiAll) := by
  intro h x e
  obtain rfl : _ = x := Option.some.inj e
  clear e
  refine (decode_F4 _ (wordS_op ..)).trans ?_
  simp_all [decodeSyn14, checked, Instr.wf, bits_lit]

theorem tlbiAcknowledge (d : Nat) : Statement (.tlbiAcknowledge d) := by
  intro _ _ h
  cases h

theorem replay (s : BitVec 6) : Statement (.replay s) := by
  intro h x e
  obtain rfl : _ = x := Option.some.inj e
  clear e
  refine (decode_F5 _ (wordS_op ..)).trans ?_
  simp_all [decodeSyn15, checked, Instr.wf, bits_lit]

theorem ctxsv (s : BitVec 6) (t : BitVec 6) : Statement (.ctxsv s t) := by
  intro h x e
  obtain rfl : _ = x := Option.some.inj e
  clear e
  refine (decode_F6 _ (wordS_op ..)).trans ?_
  simp_all [decodeSyn16, checked, Instr.wf, bits_lit]

theorem ctxld (s : BitVec 6) (t : BitVec 6) : Statement (.ctxld s t) := by
  intro h x e
  obtain rfl : _ = x := Option.some.inj e
  clear e
  refine (decode_F6 _ (wordS_op ..)).trans ?_
  simp_all [decodeSyn16, checked, Instr.wf, bits_lit]

theorem waitGeu (s : BitVec 6) (t : BitVec 6) : Statement (.waitGeu s t) := by
  intro h x e
  obtain rfl : _ = x := Option.some.inj e
  clear e
  refine (decode_F7 _ (wordS_op ..)).trans ?_
  simp_all [decodeSyn17, checked, Instr.wf, bits_lit]

theorem waitEq (s : BitVec 6) (t : BitVec 6) : Statement (.waitEq s t) := by
  intro h x e
  obtain rfl : _ = x := Option.some.inj e
  clear e
  refine (decode_F7 _ (wordS_op ..)).trans ?_
  simp_all [decodeSyn17, checked, Instr.wf, bits_lit]

theorem waitNe (s : BitVec 6) (t : BitVec 6) : Statement (.waitNe s t) := by
  intro h x e
  obtain rfl : _ = x := Option.some.inj e
  clear e
  refine (decode_F7 _ (wordS_op ..)).trans ?_
  simp_all [decodeSyn17, checked, Instr.wf, bits_lit]

theorem waitLtu (s : BitVec 6) (t : BitVec 6) : Statement (.waitLtu s t) := by
  intro h x e
  obtain rfl : _ = x := Option.some.inj e
  clear e
  refine (decode_F7 _ (wordS_op ..)).trans ?_
  simp_all [decodeSyn17, checked, Instr.wf, bits_lit]

theorem waitSb : Statement (.waitSb) := by
  intro h x e
  obtain rfl : _ = x := Option.some.inj e
  clear e
  refine (decode_F7 _ (wordS_op ..)).trans ?_
  simp_all [decodeSyn17, checked, Instr.wf, bits_lit]

theorem memoryWaitRecheck (t : Nat) : Statement (.memoryWaitRecheck t) := by
  intro _ _ h
  cases h

theorem halt : Statement (.halt) := by
  intro h x e
  obtain rfl : _ = x := Option.some.inj e
  clear e
  refine (decode_F8 _ (wordS_op ..)).trans ?_
  simp_all [decodeSyn18, checked, Instr.wf, bits_lit]

theorem wrcfg (n : BitVec 8) (s : BitVec 6) : Statement (.wrcfg n s) := by
  intro h x e
  obtain rfl : _ = x := Option.some.inj e
  clear e
  refine (decode_F9 _ (wordS_op ..)).trans ?_
  simp_all [decodeSyn19, checked, Instr.wf, bits_lit]

theorem rdcfg (n : BitVec 8) (s : BitVec 6) : Statement (.rdcfg n s) := by
  intro h x e
  obtain rfl : _ = x := Option.some.inj e
  clear e
  refine (decode_FA _ (wordS_op ..)).trans ?_
  simp_all [decodeSyn1A, checked, Instr.wf, bits_lit]

theorem pwrSt (s : BitVec 6) : Statement (.pwrSt s) := by
  intro h x e
  obtain rfl : _ = x := Option.some.inj e
  clear e
  refine (decode_FB _ (wordS_op ..)).trans ?_
  simp_all [decodeSyn1B, checked, Instr.wf, bits_lit]

theorem pwrHint (s : BitVec 6) : Statement (.pwrHint s) := by
  intro h x e
  obtain rfl : _ = x := Option.some.inj e
  clear e
  refine (decode_FB _ (wordS_op ..)).trans ?_
  simp_all [decodeSyn1B, checked, Instr.wf, bits_lit]

theorem fetch (t : Nat) : Statement (.fetch t) := by
  intro _ _ h
  cases h

theorem markerReachesHead (t : Nat) (e : Nat) : Statement (.markerReachesHead t e) := by
  intro _ _ h
  cases h

theorem queueDeadlock (t : Nat) : Statement (.queueDeadlock t) := by
  intro _ _ h
  cases h

theorem scratchpadWritePerform (n : Nat) : Statement (.scratchpadWritePerform n) := by
  intro _ _ h
  cases h

theorem ninesCompare (t : Nat) (reg : Bool) (num : Nat) (nines : Dword) : Statement (.ninesCompare t reg num nines) := by
  intro _ _ h
  cases h

theorem trapTakenUser (t : Nat) : Statement (.trapTakenUser t) := by
  intro _ _ h
  cases h

theorem trapTakenSystem (t : Nat) : Statement (.trapTakenSystem t) := by
  intro _ _ h
  cases h

theorem gangPreempt (g : Nat) : Statement (.gangPreempt g) := by
  intro _ _ h
  cases h

theorem gangSaved (g : Nat) : Statement (.gangSaved g) := by
  intro _ _ h
  cases h

theorem gangRestore (g : Nat) (die : Nat) (core : Nat) : Statement (.gangRestore g die core) := by
  intro _ _ h
  cases h

theorem gangDispatch (d : Nat) : Statement (.gangDispatch d) := by
  intro _ _ h
  cases h

theorem gangStart (g : Nat) : Statement (.gangStart g) := by
  intro _ _ h
  cases h

theorem reservationTimeout (d : Nat) : Statement (.reservationTimeout d) := by
  intro _ _ h
  cases h

theorem reservationDrop (d : Nat) : Statement (.reservationDrop d) := by
  intro _ _ h
  cases h

theorem childBoostTimeout (g : Nat) : Statement (.childBoostTimeout g) := by
  intro _ _ h
  cases h

theorem nodeEnding (n : Nat) : Statement (.nodeEnding n) := by
  intro _ _ h
  cases h

theorem nodeCompletionRecord (n : Nat) : Statement (.nodeCompletionRecord n) := by
  intro _ _ h
  cases h

theorem launchPacket (q : Nat) : Statement (.launchPacket q) := by
  intro _ _ h
  cases h

theorem graphPacket (q : Nat) : Statement (.graphPacket q) := by
  intro _ _ h
  cases h

theorem seedPushPacket (q : Nat) : Statement (.seedPushPacket q) := by
  intro _ _ h
  cases h

theorem seedPopPacket (q : Nat) : Statement (.seedPopPacket q) := by
  intro _ _ h
  cases h

theorem seedForkPacket (q : Nat) : Statement (.seedForkPacket q) := by
  intro _ _ h
  cases h

theorem waitPacket (q : Nat) : Statement (.waitPacket q) := by
  intro _ _ h
  cases h

theorem waitPacketPoll (q : Nat) : Statement (.waitPacketPoll q) := by
  intro _ _ h
  cases h

theorem signalPacket (q : Nat) : Statement (.signalPacket q) := by
  intro _ _ h
  cases h

theorem signalWrite (n : Nat) : Statement (.signalWrite n) := by
  intro _ _ h
  cases h

theorem reshardOnBehalf (q : Nat) : Statement (.reshardOnBehalf q) := by
  intro _ _ h
  cases h

theorem contextCreate (q : Nat) : Statement (.contextCreate q) := by
  intro _ _ h
  cases h

theorem contextStop (q : Nat) : Statement (.contextStop q) := by
  intro _ _ h
  cases h

theorem contextStart (q : Nat) : Statement (.contextStart q) := by
  intro _ _ h
  cases h

theorem contextDestroy (q : Nat) : Statement (.contextDestroy q) := by
  intro _ _ h
  cases h

theorem contextFreed (c : Nat) : Statement (.contextFreed c) := by
  intro _ _ h
  cases h

theorem resumeThread (q : Nat) : Statement (.resumeThread q) := by
  intro _ _ h
  cases h

theorem qattach (q : Nat) : Statement (.qattach q) := by
  intro _ _ h
  cases h

theorem qdetach (q : Nat) : Statement (.qdetach q) := by
  intro _ _ h
  cases h

theorem qtailWrite (q : Nat) (v : Dword) : Statement (.qtailWrite q v) := by
  intro _ _ h
  cases h

theorem evconsWrite (p : Nat) (v : Dword) : Statement (.evconsWrite p v) := by
  intro _ _ h
  cases h

theorem nctlRelease (c : Nat) (n : Nat) : Statement (.nctlRelease c n) := by
  intro _ _ h
  cases h

theorem nctlCancel (c : Nat) (n : Nat) : Statement (.nctlCancel c n) := by
  intro _ _ h
  cases h

theorem migcmdWrite (d : Nat) (v : Dword) : Statement (.migcmdWrite d v) := by
  intro _ _ h
  cases h

theorem migrationStart (d : Nat) : Statement (.migrationStart d) := by
  intro _ _ h
  cases h

theorem migrationFinish (d : Nat) : Statement (.migrationFinish d) := by
  intro _ _ h
  cases h

theorem tkcmdCreate (d : Nat) (a : Nat) : Statement (.tkcmdCreate d a) := by
  intro _ _ h
  cases h

theorem tkcmdDestroy (d : Nat) (a : Nat) : Statement (.tkcmdDestroy d a) := by
  intro _ _ h
  cases h

theorem parkRingWrite (d : Nat) (n : Nat) (v : Dword) : Statement (.parkRingWrite d n v) := by
  intro _ _ h
  cases h

theorem pendctlWrite (d : Nat) (v : Dword) : Statement (.pendctlWrite d v) := by
  intro _ _ h
  cases h

theorem lnkctlRetrain (d : Nat) (p : Nat) : Statement (.lnkctlRetrain d p) := by
  intro _ _ h
  cases h

theorem lnkctlDisable (d : Nat) (p : Nat) : Statement (.lnkctlDisable d p) := by
  intro _ _ h
  cases h

theorem lnkctlEnable (d : Nat) (p : Nat) : Statement (.lnkctlEnable d p) := by
  intro _ _ h
  cases h

theorem lnkctlClear (d : Nat) (p : Nat) : Statement (.lnkctlClear d p) := by
  intro _ _ h
  cases h

theorem fenceCore (d : Nat) (c : Nat) : Statement (.fenceCore d c) := by
  intro _ _ h
  cases h

theorem fenceSlice (d : Nat) (c : Nat) (bad : List Nat) : Statement (.fenceSlice d c bad) := by
  intro _ _ h
  cases h

theorem pstateWrite (d : Nat) (v : Dword) : Statement (.pstateWrite d v) := by
  intro _ _ h
  cases h

theorem configRegisterWrite (d : Nat) (n : Nat) (v : Dword) : Statement (.configRegisterWrite d n v) := by
  intro _ _ h
  cases h

theorem homeLoss (d : Nat) : Statement (.homeLoss d) := by
  intro _ _ h
  cases h

theorem atomoArrival (t : Nat) : Statement (.atomoArrival t) := by
  intro _ _ h
  cases h

theorem atomoRetry (t : Nat) : Statement (.atomoRetry t) := by
  intro _ _ h
  cases h

theorem atomoLineStall (line : Nat) : Statement (.atomoLineStall line) := by
  intro _ _ h
  cases h

theorem rdcEviction (d : Nat) (line : Nat) (bad : BitVec 8) : Statement (.rdcEviction d line bad) := by
  intro _ _ h
  cases h

theorem correctableError (d : Nat) : Statement (.correctableError d) := by
  intro _ _ h
  cases h

theorem uncorrectableError (site : UncSite) : Statement (.uncorrectableError site) := by
  intro _ _ h
  cases h

theorem patrolScrub (d : Nat) (g : Nat) (bad : Bool) : Statement (.patrolScrub d g bad) := by
  intro _ _ h
  cases h

theorem arbiterPeriod (demand : List Nat) : Statement (.arbiterPeriod demand) := by
  intro _ _ h
  cases h

theorem dieFreeze (d : Nat) : Statement (.dieFreeze d) := by
  intro _ _ h
  cases h

theorem flitReceive (d : Nat) (p : Nat) (num : BitVec 16) (crcOk : Bool) : Statement (.flitReceive d p num crcOk) := by
  intro _ _ h
  cases h

theorem linkTrained (d : Nat) (p : Nat) (lanes : Nat) : Statement (.linkTrained d p lanes) := by
  intro _ _ h
  cases h

theorem linkTrainingFailed (d : Nat) (p : Nat) : Statement (.linkTrainingFailed d p) := by
  intro _ _ h
  cases h

theorem linkReplayLimit (d : Nat) (p : Nat) : Statement (.linkReplayLimit d p) := by
  intro _ _ h
  cases h

theorem laneLost (d : Nat) (p : Nat) : Statement (.laneLost d p) := by
  intro _ _ h
  cases h

theorem linkRetrainTimeout (d : Nat) (p : Nat) : Statement (.linkRetrainTimeout d p) := by
  intro _ _ h
  cases h

theorem peerDown (d : Nat) (p : Nat) : Statement (.peerDown d p) := by
  intro _ _ h
  cases h

theorem routeTablesInForce : Statement (.routeTablesInForce) := by
  intro _ _ h
  cases h

theorem cxlLinkDown (d : Nat) : Statement (.cxlLinkDown d) := by
  intro _ _ h
  cases h

theorem powerOn : Statement (.powerOn) := by
  intro _ _ h
  cases h

theorem sidebandReset (scope : ResetScope) (d : Nat) (c : Nat) : Statement (.sidebandReset scope d c) := by
  intro _ _ h
  cases h

theorem bringUp (d : Nat) (report : BringUpReport) : Statement (.bringUp d report) := by
  intro _ _ h
  cases h

theorem diePresent (d : Nat) : Statement (.diePresent d) := by
  intro _ _ h
  cases h

theorem sidebandInventory : Statement (.sidebandInventory) := by
  intro _ _ h
  cases h

theorem sidebandAttest (req : AttestRequest) : Statement (.sidebandAttest req) := by
  intro _ _ h
  cases h

theorem sidebandPowerRead (d : Nat) : Statement (.sidebandPowerRead d) := by
  intro _ _ h
  cases h

theorem sidebandPlimitWrite (v : Dword) : Statement (.sidebandPlimitWrite v) := by
  intro _ _ h
  cases h

theorem sidebandPstateWrite (d : Nat) (v : Dword) : Statement (.sidebandPstateWrite d v) := by
  intro _ _ h
  cases h

theorem sidebandLog : Statement (.sidebandLog) := by
  intro _ _ h
  cases h

theorem malformedPacket (q : Nat) : Statement (.malformedPacket q) := by
  intro _ _ h
  cases h

theorem memoryAccessPerformed (n : Nat) : Statement (.memoryAccessPerformed n) := by
  intro _ _ h
  cases h

theorem llcLineEviction (line : Nat) (bad : BitVec 8) : Statement (.llcLineEviction line bad) := by
  intro _ _ h
  cases h

theorem slicePartialAttention (k : Nat) : Statement (.slicePartialAttention k) := by
  intro _ _ h
  cases h

theorem reshardPairCopy (k : Nat) : Statement (.reshardPairCopy k) := by
  intro _ _ h
  cases h

end Sys2Proof.Laws.RoundTrip
end

