-- ==== Sys2Proof/Tests/Slice0.lean ====
section
/-! SUPPORT. Tests: what a word may carry, words of the spec's encodings, one step of a few instructions on small states, and for the statements that have
hypotheses states that meet them. -/

namespace Sys2Proof.Tests
open Sys2Proof Sys2Proof.Machine
set_option Elab.async false

/-! ## Well-formed instructions: a term that each check of R60 refuses -/

theorem test_wf_run4 : (Instr.tld 0 0 61).wf = false ∧ (Instr.tld 0 0 60).wf = true := by decide
theorem test_wf_run3 : (Instr.cent 62).wf = false ∧ (Instr.cent 61).wf = true := by decide
theorem test_wf_run2 : (Instr.sieve 63).wf = false ∧ (Instr.sieve 62).wf = true := by decide
theorem test_wf_patt_run : (Instr.patt 0 61).wf = false ∧ (Instr.patt 0 60).wf = true := by decide
theorem test_wf_atom_run : (Instr.atomAdd 61 0 0 0 0).wf = false := by decide
theorem test_wf_scope : (Instr.atomAdd 60 5 0 0 0).wf = false ∧ (Instr.fenceAcq 5).wf = false ∧ (Instr.fenceAcq 4).wf = true := by decide
theorem test_wf_level : (Instr.bar 0 5 0).wf = false ∧ (Instr.bar 0 4 0).wf = true := by decide
theorem test_wf_width : (Instr.sld 0 7).wf = false ∧ (Instr.sst 0 0 1).wf = false ∧ (Instr.sst 0 0 6).wf = true := by decide
theorem test_wf_queue : (Instr.qpush 2 0).wf = false ∧ (Instr.qpop 0 7).wf = false ∧ (Instr.qpush 10 0).wf = true := by decide
theorem test_wf_mark : (Instr.mark 0 0).wf = false ∧ (Instr.mark 0 1).wf = true := by decide
theorem test_wf_special : (Instr.rdsr 0 0xFFF).wf = false ∧ (Instr.wrsr 0 0x000).wf = false := by decide
theorem test_wf_config : (Instr.rdcfg 0x7F 0).wf = false ∧ (Instr.wrcfg 0x00 0).wf = false ∧ (Instr.rdcfg 0x00 5).wf = true := by decide
theorem test_wf_vec_type : (Instr.vintAdd 0 0 0 0 3).wf = false ∧ (Instr.vintMulh 0 0 0 0 1).wf = false ∧ (Instr.vintAbs 0 0 0 2).wf = false := by decide
theorem test_wf_vec_format : (Instr.vcvtTo 0 0 5 0 0).wf = false ∧ (Instr.vcvtFrom 0 0 0x10 0).wf = false ∧ (Instr.vqntC 0 0 0x03 0 0).wf = false ∧
    (Instr.vdqnt 0 0 0x0A 0).wf = false := by decide
theorem test_wf_vec_pattern : (Instr.vcomp 0 0 0 0 0 0).wf = false ∧ (Instr.vcomp 0 0 0 0 3 0).wf = false ∧ (Instr.vcomp 0 0 0 0 2 0).wf = true := by decide
theorem test_wf_mat_format : (Instr.mstore 0 0 0 5).wf = false ∧ (Instr.mstore 0 0 0 4).wf = true := by decide
theorem test_wf_direction : (Instr.xhalo 0 0 6).wf = false ∧ (Instr.xhalo 0 0 5).wf = true := by decide

/-! ## Words written out from the spec's encodings -/

theorem test_word_seq : decodeTableWord 32 0x0114000C = some (.addi 5 0 12) ∧ decodeTableWord 32 0x01145FFC = some (.addi 5 5 0xFFC) ∧
    decodeTableWord 32 0x0E2FFFFE = some (.br 2 1 0x7FFFE) ∧ decodeTableWord 32 0x1600C342 = some (.fmtQ 12 13) := by decide
theorem test_word_adr : decodeTableWord 32 0x20088000 = some (.capt 2 1) ∧ decodeTableWord 32 0x21788800 = some (.tld 30 1 4) ∧
    decodeTableWord 32 0x26001007 = some (.vst 8) := by decide
theorem test_word_vec : decodeTableWord 32 0x4B402808 = some (.vcomp 8 0 20 0 2 0) ∧ decodeTableWord 32 0x4C209604 = some (.vqntCr 4 2 0x0B 0 0) := by decide
theorem test_word_mat : decodeTableWord 32 0x6C800120 = some (.mcks 2 9) ∧ decodeTableWord 32 0x6D800000 = some (.mfix 2) ∧
    decodeTableWord 32 0x6A000000 = some .mcommit := by decide
theorem test_word_xfr : decodeTableWord 32 0x840D1001 = some (.xpackK1 3 2 8) := by decide
theorem test_word_fab : decodeTableWord 32 0xA2045150 = some (.collSum 4 20 21) := by decide
theorem test_word_atn : decodeTableWord 32 0xC504A2C0 = some (.mprog 1 10 11) ∧ decodeTableWord 32 0xC6054000 = some (.meval 1 20) := by decide
theorem test_word_syn : decodeTableWord 32 0xE00B1C00 = some (.bar 1 3 7) ∧ decodeTableWord 32 0xE1030003 = some (.cbarTake 3) ∧
    decodeTableWord 32 0xE3025150 = some (.ring 2 20 21) ∧ decodeTableWord 32 0xE40428B2 = some (.phaseWr 0 4 10 11) := by decide
theorem test_word_syn_tokens : decodeTableWord 32 0xE70028B0 = some (.tksplit 10 11) ∧ decodeTableWord 32 0xE50028B0 = some (.tklend 10 11) ∧
    decodeTableWord 32 0xF7002091 = some (.waitEq 8 9) ∧ decodeTableWord 32 0xEE025000 = some (.launch 2 20) := by decide
theorem test_word_syn_thread : decodeTableWord 32 0xFA001400 = some (.rdcfg 0 5) ∧ decodeTableWord 32 0xF3000000 = some .eret ∧
    decodeTableWord 32 0xF8000000 = some .halt := by decide
theorem test_word_unassigned : decodeTableWord 32 0x1F000000 = none ∧ decodeTableWord 16 0x0000 = none := by decide
theorem test_word_marker_kept : decodeTableWord 32 0x0114000D = some (.addi 5 0 13) := by decide

/-! ## Small states -/

/-- A running thread with one seed. -/
def hart : Thread := { (default : Thread) with st := .running, slipw := 1024, seeds := [{ key := 7, vec := 0, mat := 0 }] }
/-- A module with die 0 present and thread 0 running in context 0. -/
def base : State := { State.reset with threads := [(0, hart)], dies := [(0, { (default : Die) with present := true, everUp := true })] }
/-- The same with another record of thread 0. -/
def of (f : Thread → Thread) : State := base.modThr 0 f
/-- Scalars of thread 0. -/
def scalars (l : List (Nat × Dword)) : State := of fun th => { th with s := l }
/-- An access or a check goes through. -/
def given {ε α : Type} (x : Except ε α) : Bool := match x with | .ok _ => true | .error _ => false
theorem given_ok {ε α : Type} {x : Except ε α} (h : given x = true) : ∃ a, x = .ok a := by
  cases x with
  | ok a => exact ⟨a, rfl⟩
  | error e => exact absurd h (by simp [given])
/-- The state that an instruction answers. -/
def next (o : Host.Outcome State Fault Refusal) : State := match o with | .next s => s | _ => State.reset
/-- The check holds, or the access answers and what follows of it holds. -/
def holds {ε α : Type} (x : Except ε α) (p : α → Bool) : Bool := match x with | .ok a => p a | .error _ => false

/-! ## SEQ -/

theorem test_add_wraps : (next (exec (.add 3 1 2) (scalars [(1, -1), (2, 3)]))).me.rs .seq 3 = 2 := by decide +kernel
theorem test_sltiu_extends : (next (exec (.sltiu 3 1 0x7FF) (scalars [(1, 5)]))).me.rs .seq 3 = 1 := by decide +kernel
theorem test_add_leaves_s0 : (next (exec (.add 0 1 1) (scalars [(1, 4)]))).me.s = [(1, 4)] := by decide +kernel
theorem test_div_by_zero : (next (exec (.div 3 1 2) (scalars [(1, 4)]))).me.rs .seq 3 = 0xFFFFFFFFFFFFFFFF := by decide +kernel
theorem test_sra_sign : (next (exec (.srai 3 1 63) (scalars [(1, 0x8000000000000000)]))).me.rs .seq 3 = 0xFFFFFFFFFFFFFFFF := by decide +kernel
theorem test_brk_traps : (next (exec .brk base)).me.recCode = .brk ∨ (next (exec .brk base)).me.pend.isSome = true := by decide +kernel

/-- ScalarArithmeticWritesItsResult: a divisor that is not 0. -/
theorem test_given_division : (scalars [(2, 3)]).me.rs .seq 2 ≠ 0 := by decide +kernel
/-- DivisionCornersGiveTheirValues: a zero divisor; the most negative number by −1. -/
theorem test_given_corners : base.me.rs .seq 2 = 0 ∧ (scalars [(1, 0x8000000000000000), (2, -1)]).me.rs .seq 1 = 0x8000000000000000#64 ∧
    (scalars [(1, 0x8000000000000000), (2, -1)]).me.rs .seq 2 = 0xFFFFFFFFFFFFFFFF#64 := by decide +kernel
/-- ScalarLoadsExtendTheirBytes, ScalarStoresWriteTheirBytes, FixedNamesReadTheirConstants: an access of each size, at the first byte of memory. -/
theorem test_given_load (n : Fin 4) : ∃ r, base.accessLin (base.issuer 0 .seq) 0 (2 ^ n.val) false 0 = .ok r := given_ok (by revert n; decide +kernel)
theorem test_given_store (n : Fin 4) : ∃ r, base.accessLin (base.issuer 0 .seq) 0 (2 ^ n.val) true 0 = .ok r := given_ok (by revert n; decide +kernel)
theorem test_given_load_address : ((base.me.rs .seq 1).toNat : Int) + (0 : BitVec 9).toInt * 8 = (0 : Nat) := by decide +kernel
/-- ScalarStoresWriteTheirBytes: an address at 2^57, one below 0, a misaligned one. -/
theorem test_given_stop : ((scalars [(1, 0x200000000000000)]).me.rs .seq 1).toNat = 2 ^ 57 ∧
    ((base.me.rs .seq 1).toNat : Int) + (-1 : BitVec 9).toInt * 2 < 0 ∧ ((scalars [(1, 1)]).me.rs .seq 1).toNat % 2 ≠ 0 := by decide +kernel
/-- TransfersGoToTheirTarget: p0 taken, p0 inverted not taken. -/
theorem test_given_branch : xor (base.me.rp 0) (decide ((0 : BitVec 1) = 1)) = true ∧ xor (base.me.rp 0) (decide ((1 : BitVec 1) = 1)) = false := by decide +kernel
/-- LoopWordsStartTheirLoop: an allowed body with and without passes, a body that is refused. -/
theorem test_given_loop : base.me.loopOk 1 = true ∧ base.me.loopOk 0 = false ∧ (scalars [(1, 2)]).me.rs .seq 1 ≠ 0 ∧ base.me.rs .seq 1 = 0 := by decide +kernel
/-- A pass boundary at SEQ's head. -/
def inPass (lcnt : Dword) (drain : BitVec 3) : State := of fun th =>
  { th with iq := [(0, [{ item := .pass true, addr := 4, ord := 0, rrb := 0 }])], lcnt := lcnt, drain := drain,
            loops := [{ lcnt := 0, drain := 0, nst := 0, rot := true, start := 0, body := 1 }] }
/-- PassBoundariesCountDown: more passes, a draining pass, the last one. -/
theorem test_given_pass : (∀ n d, (((inPass n d).thr 0).head .seq).map (fun x => x.item.isPass) = some true) ∧ ((inPass 1 0).thr 0).lcnt ≠ 0 ∧
    ((inPass 0 1).thr 0).drain ≠ 0 ∧ ((inPass 0 0).thr 0).loops.length = 1 ∧ ((inPass 0 1).thr 0).loops.getLast?.map (fun l => l.rot) = some true := by
  refine ⟨fun _ _ => rfl, ?_⟩; decide +kernel
/-- Its clause on an enclosing loop, whose counts come back. -/
theorem test_given_nested : let k : LoopEntry := { lcnt := 3, drain := 1, nst := 2, rot := false, start := 0, body := 2 }
    let s := (inPass 0 0).modThr 0 fun th => { th with loops := k :: th.loops }
    (s.thr 0).lcnt = 0 ∧ (s.thr 0).drain = 0 ∧ (s.thr 0).loops.head? = some k ∧ (s.thr 0).loops.length = 2 := by decide +kernel
/-- Its last clause: SEQ held at a pop of an empty queue, stuck for 65,536 clocks. -/
theorem test_given_deadlock : let th : Thread := { hart with stall := 65536, deadSet := 1, iq := [(0, [{ item := .word 0, addr := 0, ord := 0, rrb := 0 }])], held := [(0, some (.popEmpty 6))] }
    65536 ≤ th.stall ∧ flag th.deadSet 0 = true ∧ th.heldAt 0 = true := by decide +kernel
/-- QueueAndRegisterWordsOfSeq: a queue with room and one that holds an entry, a full one and an empty one, a shape in range. -/
theorem test_given_queues : base.me.qlen 0 < queueDepth 0 ∧ (of fun th => th.pushS 6 5).me.qs.get 6 = [5] ∧ base.me.qs.get 6 = [] ∧
    queueDepth 0 ≤ (of fun th => { th with qs := [(0, List.replicate 16 1)] }).me.qlen 0 := by decide +kernel
theorem test_given_shape : let y : Dword := 0x2008080; bits y 26 38 = 0 ∧ 1 ≤ field y 0 8 ∧ field y 0 8 ≤ 128 ∧ 1 ≤ field y 8 8 ∧ field y 8 8 ≤ 128 ∧
    field y 16 10 % 8 = 0 ∧ 8 ≤ field y 16 10 ∧ field y 16 10 ≤ 512 := by decide
/-- AStepRunsTheDecodedWord: an engine's turn at a word that decodes, and one at a word that does not. -/
def atWord (w : Word) (sten : Bool) : State := { of fun th => { th with iq := [(0, [{ item := .word w, addr := 0, ord := 0, rrb := 0 }])], nextOrd := 1, sten := sten } with
  agenda := [.engine 0 .seq] }
theorem test_given_turn (w : Fin 2) : let s1 := (atWord (if w = 0 then 0x0114000C else 0x1F000000) false).newClock; let c := { s1 with agenda := [], cur := 0 }
    s1.agenda = .engine 0 .seq :: [] ∧ (c.thr 0).mayRun .seq = true ∧ (c.die (c.thr 0).die).frozen = false ∧ ((c.thr 0).head .seq).isSome = true ∧
    (c.thr 0).hazards .seq { item := .word 0x0114000C, addr := 0, ord := 0, rrb := 0 } 0x0114000C = [] := by revert w; decide +kernel
/-- A word whose operand is still withheld. -/
theorem test_given_withheld : let s1 := (atWord 0x0114500C false).newClock; let th := { s1.me with results := [{ what := 21, due := 9 }] }
    th.withheld .seq { item := .word 0x0114500C, addr := 0, ord := 0, rrb := 0 } 0x0114500C s1.clk = false ∧
    ({ th with rrb := 0 } : Thread).withheld .vec { item := .word 0x0114500C, addr := 0, ord := 0, rrb := 0 } 0x0114500C s1.clk = true ∧
    s1.me.withheld .seq { item := .word 0x0114000C, addr := 0, ord := 0, rrb := 0 } 0x0114000C s1.clk = false := by decide +kernel
theorem test_given_decoding : decode 0x0114000C = .ok (.addi 5 0 12) ∧ (match decode 0x1F000000 with | .error _ => true | .ok _ => false) = true := by decide
theorem test_given_step : (atWord 0 true).me.sten = true ∧ (atWord 0 true).me.steng = BitVec.ofNat 3 (engCode .seq) ∧ (atWord 0 false).me.sten = false := by decide +kernel
/-- Its clause on fetch: a thread whose next word is addi. -/
def fetching : State := { of fun th => { th with text := [(0, 0x0C), (2, 0x14), (3, 0x01)] } with agenda := [.fetch 0] }
theorem test_given_fetch : let s1 := fetching.newClock; let th := s1.thr 0
    s1.agenda = [.fetch 0] ∧ th.mayFetch = true ∧ th.st = .running ∧ th.textWord th.fetch = 0x0114000C ∧ th.marks = [] ∧ th.fullAt 0x0114000C = [] ∧
    th.iq.get 0 = [] ∧ (s1.deliver 0).1 = some 0 ∧ (let s2 := s1.modThr 0 fun th => { th with marks := [(3, 1, 0)] }
    (s2.thr 0).mayFetch = true ∧ (s2.thr 0).marks = [(3, 1, 0)] ∧ iqRoom ((s2.thr 0).iq.get 3) ≠ 0) := by decide +kernel
/-- ResetLeavesTheModuleCold has no hypothesis; its closed parts. -/
theorem test_reset_memory : State.reset.memWf = true ∧ State.reset.plimit = 4400 ∧ (State.reset.die 3).weight = 32 := by decide +kernel
/-- EveryStepKeepsMemoryCanonical: the state after reset, and one with a byte of memory. -/
theorem test_given_memory : base.memWf = true ∧ { base with mem := [(5, 1)] }.memWf = true := by decide +kernel

/-! ## ADR -/

/-- Thread 0 with a one-row box of 16 elements of 8 bits in d0, a two-dimensional one in d1, an index list of one entry and one strided row of 16 bytes. -/
def boxed : State := of fun th => { th with
  d := [(0, 0x2000000000), (2, 16), (4, 0x1000000000), (8, 0x4000000000), (10, 0x100000010), (12, 0x1001000000000)],
  s := [(20, 0x100), (21, 1), (26, 1), (27, 16)], qr := [(3, [7])] }
/-- AccessWordsOnScalarsHaveTheirEffect: the descriptor dwords of d0 held in scalars, a scratchpad operand that is placed, a handle met. -/
theorem test_given_capt : let th := (scalars [(8, 0x2000000000), (10, 16), (12, 0x1000000000)]).me
    captTrap (fun i => th.sAt (th.rrbOf .adr) (8 + i)) = none ∧ base.me.adrTrap = none := by decide +kernel
theorem test_given_scratch : (match base.spadOperand 0 .adr 0 8 (adrBad 0) with | .ok p => decide (p = 0) | _ => false) = true ∧
    base.phaseCheck 0 .adr 0 8 true = none ∧ given (base.spadRead 0 .adr 0 8) = true ∧ base.me.qlen 8 < 16 ∧
    given (base.accessLin base.adrIssuer 0 8 false 0) = true := by decide +kernel
theorem test_given_met : bits (0 : Dword) 24 40 = 0 ∧ (base.handle 0 3).st = .free ∧ base.anyUnperformed 0 = false := by decide +kernel
/-- AccessLoadsEndWithTheirLastUnit: the one unit of the box, of the gathered row and of the strided row, each fresh and with its checks passed. -/
theorem test_given_tld : let D := boxed.me.slotDesc 0; let us := D.boxUnits (boxCoords boxed.me 16) 0
    0 + 1 = D.boxRows ∧ us.length = 1 ∧ given (boxed.accessPieces boxed.adrIssuer false D.ord (us.flatMap fun u => u.pieces)) = true ∧
    given (boxChecks boxed D 16 (some 0) true) = true ∧ given (boxChecks boxed D 16 none true) = true ∧ given (adrPlace boxed 0 0 16) = true ∧
    D.rowBytes ≤ (coveredBits us + 7) / 8 ∧ (boxed.me.adr.pushed + 1 = (D.boxRows * D.rowBytes + 511) / 512) ∧ boxed.me.qlen 2 < 8 := by decide +kernel
theorem test_given_gld : let D := boxed.me.slotDesc 1; field (boxed.me.run .adr 20 1) 0 32 = 1 ∧
    (match gathUnits D 20 boxed 0 with | .ok (us, _) => decide (us.length = 1) | _ => false) = true ∧ given (gathChecks boxed D 20 (some 0) true) = true ∧
    given (gathChecks boxed D 20 none true) = true := by decide +kernel
theorem test_given_vld : field (boxed.me.run .adr 24 2) 0 32 = 1 ∧ given (memRow 24 boxed 0 false) = true ∧ given (memRowChecks boxed 24) = true ∧
    given (adrPlace boxed (boxed.me.run .adr 24 0) (rowStep boxed.me 24 0) 16) = true ∧ given (spadRowChecks boxed 24 false) = true := by decide +kernel
/-- AccessStoresEndWithTheirLastUnit: the same for stores, with one row in q3. -/
theorem test_given_tst : let D := boxed.me.slotDesc 0; given (boxChecks boxed D 16 (some 0) false) = true ∧ given (boxChecks boxed D 16 none false) = true ∧
    boxed.me.adr.rows.length + 1 = (D.boxRows * D.rowBytes + 511) / 512 ∧ boxed.me.qr.get 3 = [7] ∧ given (boxed.spadRead 0 .adr 0 16) = true := by decide +kernel
theorem test_given_gst : let D := boxed.me.slotDesc 1; given (gathChecks boxed D 20 (some 0) false) = true ∧ given (gathChecks boxed D 20 none false) = true ∧
    given (memRow 24 boxed 0 true) = true ∧ given (spadRowChecks boxed 24 true) = true := by decide +kernel
/-- Both with more than one unit: a box of two rows of 512 elements over a tensor of one row of 256: its first row has one unit and out of range elements, its second none. -/
def wide : State := of fun th => { th with
  d := [(16, 0x4000000000), (18, 0x100000100), (20, 0x2020000000000)], adr := { (default : Resume) with sub := 1, checked := true }, qr := [(3, [7])] }
theorem test_given_units : let D := wide.me.slotDesc 2; let us := D.boxUnits (boxCoords wide.me 16) 0; let us1 := D.boxUnits (boxCoords wide.me 16) 1
    us.length = 1 ∧ us1 = [] ∧ us.drop wide.me.adr.sub = [] ∧ D.boxRows = 2 ∧ 0 + 1 < D.boxRows ∧ (coveredBits us + 7) / 8 < D.rowBytes ∧ given (adrPlace wide 0 256 256) = true ∧
    given (adrOnce wide (boxChecks wide D 16 (some 0) true)) = true ∧ wide.me.adrFresh = false ∧ 0 * D.rowBytes / 512 ≤ wide.me.adr.pushed ∧
    wide.me.adr.pushed < (0 + 1) * D.rowBytes / 512 ∧ (2 * D.rowBytes + 511) / 512 = 2 := by decide +kernel
theorem test_given_rows_to_store : let D := wide.me.slotDesc 2; let all := (2 * D.rowBytes + 511) / 512; let us := D.boxUnits (boxCoords wide.me 16) 0
    wide.me.adr.rows.length < all ∧ wide.me.qr.get 3 = [7] ∧ (us.map fun u => (u.box / 8 + spanBytes u.box u.bits + 511) / 512) = [1] := by decide +kernel
/-- AtomicsReplaceTheirOperand: an aligned operand in memory, one in scratchpad to be issued, one issued whose clock has come, its result, a context with DET = 1. -/
theorem test_given_atom : (base.ctxs.get 0).det = false ∧ (base.me.run .adr 8 0).toNat % 4 = 0 ∧ given (base.accessLin base.adrIssuer 0 4 true 0) = true ∧
    given (base.spadOperand 0 .adr 0 4 (adrBad 0)) = true ∧ base.phaseCheck 0 .adr 0 4 true = none ∧ given (base.spadRead 0 .adr 0 4) = true ∧
    base.me.atomoSent = false ∧ base.anyUnperformed 0 = false ∧ base.homesAway 0 = false ∧ base.landed = [] ∧ (base.thr 0).st = .running ∧
    (let s := { (of fun th => { th with atomoSent := true, atomoOld := some 3 }) with
                clk := 9, spend := [{ cluster := 0, addr := 0, act := .atom 0 1 0, bytes := [0, 0, 0, 0], due := 9, thread := 0, core := 0, eng := .adr, ord := 0 }] }
     s.me.atomoSent = true ∧ s.me.atomoOld = some 3 ∧ (s.spend[0]?.map fun q => decide (q.act = .atom 0 1 0) && decide (q.due ≤ s.clk)) = some true) ∧
    (({ base with ctxs := [(0, { (default : Ctx) with det := true })] } : State).ctxs.get 0).det = true := by decide +kernel
/-- Its clauses on pending words: one of its own engine and thread, none; one that another engine has set; a trap that its atom has met. -/
def pendingAt : State := { base with dies := [(0, { (default : Die) with present := true, everUp := true, pendctl := 1 })], pbits := [(0, [(.mat, 0)])] }
theorem test_given_met_atom : base.ownUnperformed 0 .adr 0 4 = false ∧ base.pendingRead 0 0 .adr 0 4 = none ∧ (pendingAt.pendingRead 0 0 .adr 0 4).isSome = true ∧
    (let th := (of fun th => { th with atomoSent := true, atomoFail := some (adrBad 3) }).me; th.atomoSent = true ∧ th.atomoFail = some (adrBad 3)) := by decide +kernel
/-- OrderedAtomicsAreSentAndEndWithTheirResult: not yet sent; sent and with its result. -/
theorem test_given_atomo : base.me.atomoSent = false ∧ bits (base.me.run .adr 8 3) 33 31 = 0 ∧
    (let th := (of fun th => { th with atomoSent := true, atomoOld := some 4 }).me; th.atomoSent = true ∧ th.atomoFail = none ∧ th.atomoOld = some 4) := by
  decide +kernel
/-- An ordered atomic with number 2 at a line whose next number is 2. -/
def sent : Atomo := { (default : Atomo) with q := 2, size := 4, line := 1, pa := 128 }
def atUnit : State := { base with atomo := [sent], refused := [sent], atomLines := [(1, { live := true, next := 2, held := [{ sent with q := 4 }] })] }
/-- OrderingUnitsPerformInNumberOrder: a unit without a line entry left and one with; numbers in turn, with held ones that then come up, outside the window, within it; a stream's
own reserved entry, a shared one, none; an atomo of scratchpad whose clock has come. -/
theorem test_given_arrival_of_atomo : let E := atUnit.atomLines.get 1; let u := atUnit.unitOf 1; let cs := [{ sent with q := 3 }, { sent with q := 4 }]
    E.live = true ∧ sent.q = E.next ∧ (∀ x ∈ E.held, x.q ≠ sent.q + 1) ∧ (E.held.map fun x => x.q).Nodup ∧ (1 : Nat) < E.next ∧ E.next + 65536 ≤ 65538 ∧ E.next < 3 ∧
    cs.map (fun x => x.q) = (List.range cs.length).map (fun j => sent.q + 1 + j) ∧ (∀ x ∈ sent :: cs, x.spad = false) ∧
    (let H : AtomLine := { E with held := cs }; (∀ x ∈ cs, x ∈ H.held) ∧ (H.held.map fun x => x.q).Nodup ∧ ∀ x ∈ H.held, x.q ≠ sent.q + 1 + cs.length) ∧ atUnit.linesOf u < unitLines u ∧
    ((atUnit.heldBy u).filter fun x => !x.reserved).length < unitShared u ∧ (∀ x ∈ atUnit.heldBy u, x.reserved = true → x.stream ≠ some 0) ∧ sent.stream = none := by decide +kernel
theorem test_given_full_unit : let s : State := { base with atomLines := (List.range 256).map fun i => (2 ^ 44 + i, { live := true, next := 0, held := List.replicate (if i = 0 then 16 else 0) { sent with unit := 2 ^ 20 } }) }
    ¬ (s.atomLines.get (2 ^ 44 + 300)).live = true ∧ ¬ s.linesOf (s.unitOf (2 ^ 44 + 300)) < unitLines (s.unitOf (2 ^ 44 + 300)) ∧
    ¬ ((s.heldBy (2 ^ 20)).filter fun x => !x.reserved).length < unitShared (2 ^ 20) := by decide +kernel
theorem test_given_atomo_clock : let q : SPend := { (default : SPend) with act := .atomo { sent with spad := true }, due := 5 }; let s : State := { base with clk := 6, spend := [q] }
    s.spend[0]? = some q ∧ q.due ≤ s.clk ∧ s.spadFrozen q = false := by decide +kernel
/-- OrderingUnitsPerformInNumberOrder: a packet still on its way; on its turn, at its line; held at a line that stands still; a halted ADR word's trap. -/
theorem test_given_turn_of_line : (atUnit.atomo.find? fun b => b.thread == 0) = some sent ∧ (atUnit.refused.find? fun b => b.thread == 0) = some sent ∧
    atUnit.onWay 0 (.atomo 0) = false ∧ (atUnit.atomLines.get 1).live = true ∧ sent.q = (atUnit.atomLines.get 1).next ∧
    ((atUnit.atomLines.get 1).held.find? fun b => b.q == sent.q + 1) = none ∧ (atUnit.atomLines.get 1).held ≠ [] := by decide +kernel
theorem test_given_on_way : ({ atUnit with packets := [{ src := 1, dst := 0, num := 0, use := .atomo 0 }] } : State).onWay (homeOf sent.pa) (.atomo 0) = true := by decide +kernel
theorem test_given_adr_trap : let th := (of fun th => { th with adrTrap := some (adrBad 5) }).me; th.adrTrap = some (adrBad 5) ∧ th.adrQuiet = true ∧
    th.pend = none := by decide +kernel
theorem test_capt_moves : (next (exec (.capt 1 0) (scalars [(8, 0x2000000000), (10, 16), (12, 0x1000000000)]))).me.d =
    [(0, 0x2000000000), (2, 16), (4, 0x1000000000)] := by decide +kernel
theorem test_vst_stores : ((next (exec (.vst 24) boxed)).posted.map fun p => p.bytes.take 2) = [[7, 0]] ∨ (next (exec (.vst 24) boxed)).mem = [(0, 7)] := by decide +kernel

/-! ## VEC and MAT -/

/-- Lanes 0 and 1 of v1 and v2 given. -/
def lanes (a b : Row) : State := of fun th => { th with v := [(1, a), (2, b)] }
theorem test_vint_sat : let s := next (exec (.vintAdd 3 1 2 0 1) (lanes 0x7FFFFFFF 1)); lane (s.me.rv 3) 0 = 0x7FFFFFFF ∧ lane (s.me.rv 3) 1 = 0 := by
  decide +kernel
theorem test_vperm_rot : lane ((next (exec (.vpermRot 3 1 2 0) (lanes 0x500000000 1))).me.rv 3) 0 = 5 := by decide +kernel
theorem test_vflt_add : lane ((next (exec (.vfltAdd 3 1 2 0) (lanes 0x3F800000 0x40000000))).me.rv 3) 0 = 0x40400000 := by decide +kernel
theorem test_vmask_cnt : (next (exec (.vmaskCnt 0) base)).me.qs.get 6 = [128] := by decide +kernel
/-- FloatingWordsRoundEachActiveLane, CompareAndMaskWordsWriteTheirMask: exceptions that are not enabled, and the division by zero that is. -/
theorem test_given_exceptions : let s := of fun th => { th with fpctl := 0x1F00 }; base.me.fpEn = 0 ∧ s.me.fpEn ≠ 0 ∧
    (fDiv s.me.mode 0x3F800000 0).2 &&& s.me.fpEn ≠ 0 := by decide +kernel
/-- ConversionsQuantiseAndDraw: a seed, scales given and in order, registers below 31. -/
theorem test_given_draws : base.me.seedBefore .vec = false ∧ base.me.seeds = [{ key := 7, vec := 0, mat := 0 }] ∧ (4 : BitVec 5) ≠ 31 ∧
    givenBad (base.me.rm 1) (base.me.rv 5) = none := by decide +kernel
/-- IntegerReductionsAndScansAreExact: room in q6. -/
theorem test_given_reduction : base.me.qlen 6 < 16 ∧ ((1 : BitVec 2) = 1 ∨ (1 : BitVec 2) = 2) := by decide +kernel
theorem test_vred_argmax : (next (exec (.vredArgmaxQ 1 0 1) (lanes 0x700000002 0))).me.qs.get 6 = [1] := by decide +kernel
/-- QueueWordsOfVec: a row, a scalar, none; a full queue; a vcomp of two of four in form. -/
theorem test_given_rows : (of fun th => { th with qr := [(2, [5])], qs := [(7, [6])] }).me.qr.get 2 = [5] ∧
    (of fun th => { th with qr := [(2, [5])], qs := [(7, [6])] }).me.qs.get 7 = [6] ∧ base.me.qr.get 2 = [] ∧ base.me.qs.get 7 = [] ∧ base.me.qlen 3 < 8 ∧
    8 ≤ (of fun th => { th with qr := [(3, List.replicate 8 1)] }).me.qlen 3 ∧ 16 ≤ (of fun th => { th with qs := [(6, List.replicate 16 1)] }).me.qlen 6 := by
  decide +kernel
theorem test_given_vcomp : (0 : BitVec 5).toNat + 4 ≤ 32 ∧ (8 : BitVec 5).toNat + 2 ≤ 32 ∧ (20 : BitVec 5).toNat + 4 ≤ 32 ∧
    (8 + 2 ≤ 20 ∨ 20 + 4 ≤ 8) ∧ bits (3 : Dword) 8 56 = 0 ∧ (field (3 : Dword) 0 8 + 1) * 2 * 2 ≤ 128 := by decide

/-- A format word of 8-bit integers: CLASS, FB, K / 8 and SN. -/
def word (cls fb k8 sn : Nat) : Dword := BitVec.ofNat 64 (cls * 2 ^ 60 + fb * 2 ^ 50 + k8 * 2 ^ 25 + sn * 2 ^ 18)
/-- A tile header: FMT, ROLE, planes and K. -/
def header (fmt role npl k : Nat) : Tab Byte → Nat → Tab Byte := fun m a =>
  (m.setRange a (leBytes 8 (fmt * 2 ^ 12 + role * 2 ^ 17 + npl * 2 ^ 18 + k * 2 ^ 29))).setRange (a + 16) (leBytes 8 64)
/-- Thread 0 with a format word in q0 and the tiles of its two operands behind h0 and h1. -/
def tiles (fw : Dword) (kA fb npl kB : Nat) : State :=
  { of (fun th => { th with qs := [(0, [fw])] }) with
    handles := [(0, { owner := 1, st := .full, base := 0, len := 65536, wp := 65536, rdr := 0 }), (1, { owner := 1, st := .full, base := 65536, len := 65536, wp := 65536, rdr := 0 })]
    spad := header fb 1 npl kB (header 0 0 8 kA [] 0) 65536 }
/-- The checks of TileCommandsAreRecordedAndCommitted on a format word of the OP. -/
def passes (op : Nat) (s : State) (fw : Dword) : Bool :=
  let xa := s.handles.get 0; let xb := s.handles.get 1
  s.me.qs.get 0 == [fw] && fwOk fw 0 && (if op = 4 then fwClass fw == 0 || fwClass fw == 3 else fwClass fw == op) && fwFC fw == 0 && fwSC fw == 0 &&
  decide (1 ≤ fwN fw) && (op != 1 || metaOk fw [0]) && decide (s.me.batch.length < 32) && xa.owner == 1 && xb.owner == 1 && xa.st != .free && xb.st != .free &&
  s.me.tileAt == none && let w : TileWait := { regs := [0], a := none, b := none, phased := false }
  (match matHeader (s.modMe fun th => { th with tileAt := some w }) false 0 w fw with
   | .ok (ta, s1) => (match matHeader s1 true 1 w fw with
     | .ok (tb, s2) => (s2.phaseCheck 0 .mat ta.1 ta.2.tsz false).isNone && (s2.phaseCheck 0 .mat tb.1 tb.2.tsz false).isNone &&
         decide (s2.me.batches.length < 4) && s2.me.sbFree.isSome
     | _ => false)
   | _ => false)
theorem test_given_mma : passes 0 (tiles (word 0 0 1 0) 8 0 8 8) (word 0 0 1 0) = true := by decide +kernel
theorem test_given_mmas : passes 1 (tiles (word 1 0 4 1) 32 0 8 8) (word 1 0 4 1) = true := by decide +kernel
theorem test_given_mmat : passes 2 (tiles (word 2 16 1 0) 8 16 2 8) (word 2 16 1 0) = true := by decide +kernel
theorem test_given_mdist : passes 3 (tiles (word 3 0 1 0) 8 0 8 8) (word 3 0 1 0) = true := by decide +kernel
theorem test_given_mtopk : passes 4 (tiles (word 0 0 1 0) 8 0 8 8) (word 0 0 1 0) = true := by decide +kernel
/-- A command whose format word has been popped and that waits; one recorded that waits for room to commit. -/
theorem test_given_waiting_tile : (of fun th => { th with fmtHeld := some 5 }).me.fmtHeld = some 5 ∧ base.me.fmtHeld = none ∧ base.me.commitWait = false ∧
    (of fun th => { th with commitWait := true }).me.commitWait = true ∧ base.me.batches.length < 4 ∧ base.me.sbFree ≠ none ∧
    4 ≤ (of fun th => { th with batches := List.replicate 4 default }).me.batches.length := by decide +kernel
/-- A command that has waited for its header with what it had found, and whose header has not come. -/
theorem test_given_found : let w : TileWait := { regs := [], a := some (0, default), b := none, phased := false }; let v : TileWait := { w with a := none }
    (of fun th => { th with tileAt := some w }).me.tileAt = some w ∧ v.a = none ∧ given (matHeader (tiles (word 0 0 1 0) 8 0 8 8) false 0 w (word 0 0 1 0)) = true ∧
    (let x : Handle := { owner := 1, st := .filling, base := 0, len := 65536, wp := 0, rdr := 0 }; x.wp < 64 ∧ x.st ≠ .full ∧ x.st ≠ .draining ∧ x.st ≠ .aborted) := by decide +kernel
theorem test_mma_records : ((next (exec (.mma 0 0 1 0 0) (tiles (word 0 0 1 0) 8 0 8 8))).me.batch.map fun c => (c.op, c.ha, c.hb, c.baseB)) = [(0, 0, 1, 65536)] := by
  decide +kernel
/-- The tile command that it records, begun on the array, with 63 of its 64 clocks gone. -/
def onArray : State :=
  let s := next (exec (.mma 0 0 1 0 1) (tiles (word 0 0 1 0) 8 0 8 8))
  s.modMe fun th => { th with batches := th.batches.map fun b => { b with started := true, pos := 63 } }
/-- Its other clauses: a batch open, none open, batches committed and none; an accumulator that nothing names and one that a command names. -/
theorem test_given_batches : base.me.batch = [] ∧ onArray.me.batches.length = 1 ∧ (next (exec (.mma 0 0 1 0 0) (tiles (word 0 0 1 0) 8 0 8 8))).me.batch ≠ [] ∧
    (∀ y ∈ onArray.me.batches, ∀ x ∈ y.cmds, x.acc ≠ 1) := by decide +kernel
/-- PendingAccessesAndArrayCommandsTakeEffect: the last clock of a command whose rows are there; a command that may start; one that may not. -/
theorem test_given_last_clock : (match onArray.me.curCmd with
    | some (b, c) => b.started && decide (clocksOf c ≤ b.pos + 1) && !onArray.arrayWaits 0 b c &&
        (match onArray.arrayReads 0 ((readsDue b c).filter fun r => !onArray.readHeld 0 c r) with
         | .ok s1 => (match (s1.thr 0).curCmd with | some (b1, c1) => decide (clocksOf c1 ≤ b1.pos + 1) && (scaleAtClock b1 c1).isNone && !b1.rerun | none => false)
         | .error _ => false)
    | none => false) = true := by decide +kernel
theorem test_given_start : let idle := fun (again : Bool) => onArray.modMe fun th => { th with batches := th.batches.map fun b => { b.idle with again := again } }
    (idle false).me.mayStart 9 = true ∧ (idle false).me.mayStart 0 = false ∧ (idle true).me.mayStart 9 = true ∧ base.me.mayStart 9 = false ∧ base.me.lastClock = false ∧
    ((idle false).me.curCmd.map fun x => decide (x.1.since < 9) && !x.1.again) = some true ∧ ((idle true).me.curCmd.map fun x => x.1.again && ((idle true).replayWindow 0 x.2.acc).isSome) = some true := by
  decide +kernel
theorem test_given_pending_access : let s := { base with clk := 9, spend := [{ (default : SPend) with due := 9, bytes := [1] }, { (default : SPend) with due := 10 }],
                                                            posted := [{ (default : Posted) with bytes := [1] }] }
    (s.spend[0]?.map fun w => decide (w.due ≤ s.clk) && decide (w.act = .write)) = some true ∧ s.landed = [] ∧ (s.spend[1]?.map fun w => decide (s.clk < w.due)) = some true ∧ s.posted[0]? ≠ none := by
  decide +kernel
/-- A die whose core clock runs, and one that is frozen: its scratchpad, its migrations and its work stand still (R467). -/
def frosty (b : Bool) : State := { base with
  clk := 9, spend := [{ (default : SPend) with due := 9, bytes := [1] }], dies := [(0, { (default : Die) with present := true, frozen := b })]
  tasks := [(0, { (default : Task) with work := .copy default })] }
theorem test_given_freeze : (frosty false).workHeld 0 = false ∧ (frosty true).workHeld 0 = true ∧ (frosty true).parkBlocked 0 = false ∧
    ((frosty false).spend[0]?.map (frosty false).spadFrozen) = some false ∧ ((frosty true).spend[0]?.map (frosty true).spadFrozen) = some true ∧
    ((frosty true).performDue.spend.map fun p => p.due) = [10] ∧ (frosty false).performDue.spend = [] ∧ ((frosty true).die 0).frozen = true := by decide +kernel
/-- A value of s1 and one of q0 that are still withheld, and one of p2. -/
def withheld : State := of fun th => { th.pushS 0 7 with s := [(1, 5)], results := [{ what := 17, due := 8 }, { what := 0, due := 8 }, { what := 82, due := 9 }] }
theorem test_given_compare : withheld.me.compared true 1 0 = some 5 ∧ withheld.me.comparedAt true 1 0 = some 0 ∧ (5 : Dword) ≠ 6 ∧ withheld.me.active = true ∧
    withheld.me.compared false 0 0 = some 7 ∧ withheld.me.comparedAt false 0 0 = some 1 ∧ withheld.me.compared true 66 0 = some 0 ∧ withheld.me.compared true 1 8 = none := by decide +kernel
theorem test_diverge_withdraws : let s := next (exec (.ninesCompare 0 true 1 6) withheld); s.me.qs.get 0 = [] ∧ s.me.results = [] ∧ s.me.s = [(1, 5)] := by decide +kernel
/-- AccumulatorMovesMoveTheirRows: an operand in form, an mload whose rows are read, an mstore at its end, entries and room for the rows that remain. -/
theorem test_given_span : let op : Dword := 0x105; flag op 7 = false ∧ bits op 15 49 = 0 ∧ field op 0 7 + (field op 8 7 + 1) ≤ 128 ∧
    base.me.qlen 5 + 2 ≤ 8 ∧ base.me.mat.pushed < field op 8 7 + 1 := by decide +kernel
def moving (load : Bool) : State := of fun th =>
  { th with move := some { load := load, acc := 0, base := 0, ck := false, fl := 0, row := 128, got := List.replicate 128 3, touched := false } }
theorem test_given_bad_move : let th := (of fun th => { th with move := some { load := true, acc := 0, base := 0, ck := true, fl := 1, row := 130, got := [], touched := false } }).me
    (th.move.map fun m => (m.load, m.row, m.ck, m.fl)) = some (true, 130, true, 1) := by decide +kernel
theorem test_given_begins : base.me.move = none ∧ field (0x10 : Dword) 0 4 = 0 ∧ given (base.spadOperand 0 .mat 0x10 66560 { code := .shape, estat := 6, addr := 0x10 }) = true ∧
    base.phaseCheck 0 .mat 0x10 66560 false = none ∧ base.phaseCheck 0 .mat 0x10 66560 true = none ∧ (base.me.accSt.get 0).kindInt = false := by decide +kernel
theorem test_given_moving : let s := (moving true).modMe fun th => { th with move := th.move.map fun m => { m with row := 5 } }
    (s.me.move.map fun m => m.load && decide (m.row < 128)) = some true ∧ s.ownUnperformed 0 .mat 2560 512 = false ∧ s.pendingRead 0 0 .mat 2560 512 = none ∧
    (∀ r ∈ [0, 128, 129], (((moving false).modMe fun th => { th with move := th.move.map fun m => { m with row := r, ck := true } }).me.move.map fun m =>
      !m.load && decide (m.row < 130) && m.ck) = some true) := by decide +kernel
theorem test_given_move : ((moving true).me.move.map fun m => (m.load, m.acc, decide (m.got.length = m.row), decide (m.row = 128))) = some (true, 0, true, true) ∧
    ((moving false).me.move.map fun m => (m.load, decide (m.row = 128))) = some (false, true) := by decide +kernel
theorem test_mrd_row : (next (exec (.mrdRow 1 4) (of fun th => { th with s := [(4, 0x2)], acc := [(130, 9)] }))).me.qr.get 5 = [9] := by decide +kernel
theorem test_mload_ends : let s := next (exec (.mload 0 0 0 0) (moving true)); s.me.acc.get 127 = 3 ∧ s.me.move = none := by decide +kernel
/-- ChecksumWordsReadWriteCheckAndMend: a tile with checksums and one without, an operand in form, a row in q11, a location found. -/
theorem test_given_checksums : bits (0x9510 : Dword) 16 48 = 0 ∧ field (0x9510 : Dword) 0 8 ≤ 31 ∧ field (0x9510 : Dword) 8 8 ≤ 149 ∧ field (0xFF00 : Dword) 8 8 = 255 ∧
    (base.me.accSt.get 0).kindInt = false ∧ (base.me.accSt.get 0).ckvOff = false ∧ (base.me.accSt.get 0).loc = .none ∧
    (∀ x ∈ base.me.batch, x.acc ≠ 0) ∧ (of fun th => th.pushR 11 4).me.qr.get 11 = [4] := by decide +kernel
theorem test_given_location : ((of fun th => { th with accSt := [(0, { (default : AccSt) with loc := .cell 127 0 }), (1, { (default : AccSt) with loc := .row 127 })] }).me.accSt.get 0).loc =
    .cell 127 0 ∧ ((of fun th => { th with accSt := [(0, { (default : AccSt) with loc := .col 127 })] }).me.accSt.get 0).loc = .col 127 := by decide +kernel
theorem test_mcks_none : (next (exec (.mcks 0 0) (of fun th => { th with accSt := [(0, { (default : AccSt) with kindInt := true })] }))).me.qr.get 5 =
    [0xFFFFFFFFFFFFFFFF00000005] := by decide +kernel

/-! ## XFR, FAB and ATN -/

/-- Thread 0 with copy operands from s8: a length of 16, and with d1 a box of two dimensions of 8-bit integers, 8 by 8. -/
def copies : State := of fun th => { th with
  s := [(8, 0x100), (9, 0x40), (10, 16), (26, 0x807), (27, 0x400), (34, 1), (35, 0x1000)]
  d := [(8, 0x4000000000), (10, 0x800000008), (12, 0x8000800000000)] }
/-- CopyWordsAreAccepted: a handle that is free and a scoreboard entry; the plain copies, the boxes, the packed tile, the gathered and the scattered rows. -/
theorem test_given_copy : let s := copies; let hd := s.handle 0 5
    hd.foreign 0 = false ∧ hd.ready = true ∧ s.me.sbFree ≠ none ∧ lengthOk (s.xs 8 2) = true ∧ holds (xfrPlace s (s.xs 8 1) 16 true) (fun d => d % 16 == 0) = true ∧
    (s.xs 8 0).toNat % 16 = 0 ∧ s.phaseCheck 0 .xfr 0x40 16 true = none ∧ overlap 0x100 16 0x40 16 = false := by decide +kernel
theorem test_given_fill : lengthOk (copies.xs 9 1) = true ∧ holds (xfrPlace copies (copies.xs 9 0) 16 true) (fun d => d % 16 == 0) = true := by decide +kernel
theorem test_given_box : let s := copies; let D := s.me.slotDesc 1
    unusedZero D [0, 0, 0, 0, 0] = true ∧ D.boxBytes = 64 ∧ D.rank = 2 ∧ holds (xfrPlace s 0x40 64 true) (fun b => b % 16 == 0) = true ∧
    given (s.layoutGate D) = true := by decide +kernel
theorem test_given_pack : let s := copies; let D := s.me.slotDesc 1; given (packPlace s (s.xs 24 2) (s.xs 24 3) D.fmt) = true ∧
    holds (packScales s (s.xs 24 2)) (fun c => c.isNone) = true ∧ pkMx (s.xs 24 2) = false ∧ given (scalePhase s (s.xs 24 2) none) = true ∧
    s.phaseCheck 0 .xfr 0x400 (pkTsz (s.xs 24 2) D.fmt) true = none := by decide +kernel
theorem test_given_scales : let s := of fun th => { th with qs := [(4, [0x800])] }; let p : Dword := BitVec.ofNat 64 (2 ^ 16 * 2 ^ 30 - 1)
    pkMx p = true ∧ holds (packScales s p) (fun c => c == some 0x800) = true ∧ given (scalePhase s p (some 0x800)) = true := by decide +kernel
theorem test_given_gather : let s := copies; holds (xfrPlace s (s.xs 24 1) (4 * pkK (s.xs 24 2)) false) (fun i => i % 4 == 0) = true ∧
    field (s.xs 24 0) 32 32 = 0 := by decide +kernel
theorem test_given_scatter : let s := copies; let D := s.me.slotDesc 1; (s.xs 32 2).toNat = 1 ∧ D.rowBytes = 8 ∧ combineOk D.fmt = true ∧
    holds (xfrPlace s (s.xs 32 3) 8 false) (fun b => b % 16 == 0) = true := by decide +kernel
theorem test_given_halo : let s := { base with ports := [(0, { (default : LinkPort) with st := .up })] }
    s.haloUsable 0 0 = true ∧ bits (0x40 : Dword) 23 1 = 0 ∧ bits (0x40 : Dword) 30 2 = 0 ∧ bits (0x40 : Dword) 36 28 = 0 ∧
    field (0x40 : Dword) 0 23 + 16 ≤ 2 ^ 23 := by decide +kernel
/-- A copy accepted. -/
noncomputable def copying : State := next (exec (.xcopy 5 8) copies)
theorem test_xcopy_binds : (copying.handle 0 5).st = .filling ∧ (copying.handle 0 5).base = 0x40 ∧ (copying.handle 0 5).len = 16 := by decide +kernel
/-- CopyUnitsLandAndHandlesEnd: its unit; a halo at its barrier; handles that are full, free, draining, filling. -/
theorem test_given_unit : (match (copying.tasks.get 0).work with
    | .copy c => (match c.units with
      | u :: rest => decide (c.halo = 0) && u != .haloTest && u != .haloAdd && holds (copying.unitStep 0 { c with units := rest } u) fun r => r.2.2.isSome
      | [] => false)
    | _ => false) = true ∧ (copying.tasks.get 0).parked = false ∧ copying.workHeld 0 = false ∧ copying.boundTask 0 5 = some 0 := by decide +kernel
theorem test_given_halo_sender : base.anyUnperformed 0 = false ∧ base.homesAway (base.thr 0).die = false ∧
    ({ base with spend := [{ (default : SPend) with thread := 0 }] } : State).anyUnperformed 0 = true := by decide +kernel
theorem test_given_halo_end : ({ (default : Cbar) with armed := true, owner := 1, ocid := 1, target := 1 } : Cbar).takes 0 = true := by decide +kernel
theorem test_given_handles : ∀ st ∈ [HandleSt.full, .free, .draining], let s : State := { base with handles := [(5, { owner := 1, st := st, base := 0, len := 16, wp := 16, rdr := 0 })] }
    (s.handle 0 5).foreign 0 = false ∧ (s.handle 0 5).st = st := by decide +kernel
theorem test_xrel_frees : (next (exec (.xrel 5) { base with handles := [(5, { owner := 1, st := .full, base := 0, len := 16, wp := 16, rdr := 0 })] })).handle 0 5 = { owner := 0, st := .free, base := 0, len := 16, wp := 0, rdr := 0 } := by
  decide +kernel

/-- A layout of one rank, die 0: four words of 32 bits; layout word 1, buffers at 0x1000 and 0x2000. -/
def layout : LSlot := { st := .stable, lw := 1, fmt := 8, rank := 1, cur := false, ext := [4, 0, 0, 0, 0], buf0 := 0x1000, buf1 := 0x2000, rstr := 128, dies := [0],
                        cseq := 0, resid := 0, wire := 0 }
/-- Die 0 with that layout in slot 4, a bound rank list of die 0, the record of the layout at address 0x40, operands from s8. -/
def placed : State := { of (fun th => { th with s := [(8, 2), (10, 0x40), (11, 1)], ranks := [(0, { bound := true, addr := 0, count := 1, cached := true, dies := [0] })] }) with
  slots := [(4, layout)]
  mem := (Tab.setRange [] 0x40 (leBytes 8 1 ++ leBytes 8 0x28 ++ leBytes 8 4 ++ leBytes 8 0 ++ leBytes 8 0 ++ leBytes 8 0x1000 ++ leBytes 8 0x2000 ++ leBytes 8 128) : Tab Byte) }
/-- LayoutWordsPlaceReadAndMoveLayouts. -/
theorem test_given_ranks : holds (fabRead placed 0 2) (fun r => decide (r.2.ranksOf r.1 = some [0])) = true ∧ (placed.me.ranks.get 0).bound = true ∧
    (placed.fs 11).toNat = 1 := by decide +kernel
theorem test_given_lyset : placed.slotBusy 0 4 = false ∧ holds (synRelease placed true) (fun s1 => holds (useRanks s1 0 0) fun r =>
    holds (fabRead r.2 0x40 64) fun x => recordOk (dwIdx x.1) (recordSlot (dwIdx x.1) r.1)) = true := by decide +kernel
theorem test_given_reshard : (placed.slotOn 0 0 4).reshardOk (placed.fs 8) = true ∧ (placed.slotOn 0 0 4).st ≠ .empty ∧ (placed.slotOn 0 0 4).st ≠ .aborted ∧
    (placed.slotOn 0 0 4).fmt = 0x08 ∧ given (placed.accessLin (placed.issuer 0 .fab) 0 16 true 0) = true := by decide +kernel
theorem test_given_fwait : (placed.me.sbAny fun e => e.eng == .fab && e.st == .pending) = false ∧
    ((of fun th => { th with sb := [(0, { (default : SbEntry) with valid := true, eng := .fab })] }).me.sbAny fun e => e.eng == .fab && e.st == .pending) = true := by
  decide +kernel
/-- CollWordsJoinTheirCollective: each form, alone on its slot, and ring with its axis. -/
theorem test_given_coll : (∀ fn ∈ [0, 1, 2, 3], holds ((placed.slotOn 0 0 4).resultLen fn (placed.fs 8) 0) (fun n => n == 16) = true) ∧
    given ((placed.slotOn 0 0 4).resultLen 4 (placed.fs 8) 0) = true ∧ (placed.fs 8).toNat < 4 ∧ (placed.slotOn 0 0 4).dies.idxOf? 0 = some 0 ∧
    placed.turnTaken 0 4 = false ∧ placed.collAt 0 4 0 = none ∧ placed.me.sbFree = some 0 ∧ (placed.handle 0 0).ready = true := by decide +kernel
/-- FabricWorkGoesOnStepByStep: a ring whose blocks land, before and at the last of an axis; a path one of whose links retrains, and one that does not. -/
theorem test_given_ring_step : let s := next (exec (.collRing 4 8 9) placed); (match (s.tasks.get 0).work with
    | .coll c => c.fn == 4 && decide (c.members.length ≤ 1) && decide (axisN layout.lw (field c.lt 0 2) ≤ (1 - c.members.length) + 1) && c.members.all (fun m => !m.parked)
    | _ => false) = true ∧ axisN 0x10000000000 0 = 2 := by decide +kernel
def retraining : State := { base with routes := [(1, 1)], ports := [(0, { (default : LinkPort) with st := .retraining })] }
theorem test_given_retraining_path : retraining.pathRetrains 256 0 1 = true ∧ base.pathRetrains 256 0 1 = false := by decide +kernel
/-- A collective with its one member, and a re-shard. -/
noncomputable def joined : State := next (exec (.collSum 4 8 9) placed)
noncomputable def resharding : State := next (exec (.reshard 4 8) placed)
/-- FabricWorkGoesOnStepByStep. -/
theorem test_given_member : (match (joined.tasks.get 0).work with
    | .coll c => (c.members.all fun m => !m.parked) && decide (layout.dies.length ≤ c.members.length) && decide (c.fn ≠ 4) && (layout.collOf c.lt).isSome &&
        (match c.members[0]? with | some m => given (joined.collGather { c with begun := true } m) | none => false)
    | _ => false) = true ∧ placed.joinedUp [0] = true ∧ joined.workHeld 0 = false ∧ joined.parkBlocked 0 = false ∧ (∀ q < 6, (joined.port 0 q).st ≠ .retraining) := by decide +kernel
theorem test_given_pair : (match (resharding.tasks.get 0).work with
    | .reshard r => (match r.pairs with
      | p :: _ => let l := resharding.slotOn 0 0 4; let box := (l.piece l.lw p.src).inter (l.piece r.lt p.dst)
                  let width := match box with | q :: _ => q.2 - q.1 | [] => 0
                  given (resharding.copyRows (resharding.reshardIssuer (resharding.tasks.get 0) r) l r.lt p (width * l.unit) box.rows)
      | [] => false)
    | _ => false) = true := by decide +kernel

/-- A segment record at 0x40 of one block, block 0 of sequence 0 in the frame at 0x10000: one head of 64 elements of bf16; its header; operands from s8. -/
def segment : State := { of (fun th => { th with s := [(8, 0x40), (12, 0x10000000000), (24, 0x10000000000), (26, 0x40), (27, 0x10000000000)] }) with
  mem := (Tab.setRange (Tab.setRange [] 0x40 (leBytes 8 0x10000000000 ++ leBytes 8 0x9000 ++ leBytes 8 0x10000)) 0x10010 (leBytes 8 0x9000) : Tab Byte) }
/-- The segment entered, then four slots appended to it. -/
noncomputable def mapped : State := next (exec (.kvmap 8) segment)
noncomputable def appended : State := next (exec (.kvapp 40) (mapped.modMe fun th => { th with s := [(41, 3)] }))
theorem test_kvmap_enters : (mapped.ktm.map fun e => (e.seq, e.blk, e.frame, e.hk, e.lock)) = [(0, 0, 0x10000, 1, false)] := by decide +kernel
theorem test_kvapp_fills : hdrFill (appended.homeDword 0x10000) = 4 ∧ hdrState (appended.homeDword 0x10000) = 1 := by decide +kernel
/-- KvWordsMapLockAppendAndRollBack. -/
theorem test_given_kvmap : holds (atnRead segment 0x40 16 false) (fun r => seqBlkOk (dwAt r.1 0) && geometryBits (dwIdx r.1 1) &&
    (match geometryOf (dwIdx r.1 1) with
     | some (hk, dhc, fmt) => let g := seqBlk (dwAt r.1 0)
       holds (atnRead r.2 0x50 8 false) fun q => holds (mapFrames q.2 g hk dhc fmt 0x40 ((List.range g.nb).map (dwIdx q.1)).zipIdx) fun m =>
         given (mapHeaders m.2 0x40 m.1) && given (mapMay m.2 m.1) && (ktmRoom m.2.ktm 0 m.1).isSome
     | none => false)) = true := by decide +kernel
theorem test_given_kvlock : seqBlkOk (mapped.ns 12 0) = true ∧ holds (atnEntries mapped 0 [0]) (fun es => es.length == 1) = true := by decide +kernel
theorem test_given_kvapp : seqSlotOk 0 = true ∧ holds (atnEntries mapped 0 [0]) (fun es => holds (appendCheck mapped (appendParts es 0 1 0)) fun y =>
    holds (atnHeaders y.2 es) fun d => (d.1.all fun x => decide (hdrState x ≤ 1)) && decide (hdrFill (d.1.getD 0 0) = 0)) = true := by decide +kernel
theorem test_given_kvroll : holds (rollBlocks appended 0 true 2 0) (fun r => !r.2.1 && holds (rollAll r.2.2 1 false r.1) fun s2 => given (rollAll s2 1 true r.1)) = true := by
  decide +kernel
theorem test_given_kvroll_wait : let s := { appended with mem := appended.mem.set 0x10000 3 }
    holds (rollBlocks s 0 true 2 0) (fun r => r.2.1 && r.1.isEmpty) = true := by decide +kernel
/-- AttentionWordsAreAcceptedSelectedAndAwaited: a segment of one like block at home, a destination, a table of centroids. -/
theorem test_given_patt : let s := appended.modMe fun th => { th with s := [(24, 0x10000000000)] }; destOk (s.ns 24 3) = true ∧
    holds (atnEntries s 0 [0]) (fun es => es.all fun e => e.like e && homeOf e.frame == 0 && decide ((pattOp 0).h0 + (pattOp 0).hn ≤ e.hk) &&
      decide (0 + (pattOp 0).hn * (pattOp 0).qn * laneRegs e.dh ≤ 32) && given (atnDest s 0 ((pattOp 0).hn * (pattOp 0).qn * (e.dh + 4) * 4))) = true := by decide +kernel
/-- A table of centroids at 0x8000: one head, one centroid of 64 elements. -/
noncomputable def tabled : State := { appended with mem := Tab.setRange appended.mem 0x8000 (leBytes 8 0x100) }.modMe fun th => { th with s := [(26, 0x8000), (32, 0x8000), (40, 0x40)] }
theorem test_given_cent : holds (atnRead tabled 0x8000 128 true) (fun r => match cenHdr r.1 with
    | some ct => ct.dhc == 0 && ct.hc == 1 && ct.ncen == 1 && decide ((tabled.ns 24 2).toNat % 128 = 0) &&
        given (atnRead r.2 (cenAt 0x8000 1 64 0 0) ((64 + 4) * 4) true)
    | none => false) = true := by decide +kernel
theorem test_given_await : base.atnPending = false ∧ (of fun th => { th with sb := [(0, { (default : SbEntry) with valid := true, eng := .atn })] }).atnPending = true := by
  decide +kernel
/-- MaskAndRetentionWordsHaveTheirEffect: the program halfwords 4000, B000, C000 at 0x100 with a table of nothing; its slot; bytes for one key. -/
def programmed : State := { of (fun th => { th with s := [(8, 0x100), (9, 0x200)], qs := [(9, [5])] }) with
  spad := (Tab.setRange [] 0x100 [0, 0x40, 0, 0xB0, 0, 0xC0] : Tab Byte) }
theorem test_given_mprog : let seen := untilMend (halves (programmed.spadBytes 0 0x100 64)); seen.length = 3 ∧ given (maskScan 0 0 0 0 seen) = true ∧
    given (atnPlace programmed 0x100 2) = true ∧ holds (atnScratch programmed 0x200 4) (fun r => decide (field ((words4 r.1).getD 0 0) 0 5 = 0)) = true ∧
    badBound [] = none := by decide +kernel
theorem test_given_meval : ((next (exec (.mprog 1 8 9) programmed)).me.masks.get 1).loaded = true ∧ destOk 0 = true ∧ given (atnDest programmed 0 16) = true := by decide +kernel
theorem test_given_retn : let s := appended; holds (atnEntries s 0 [0]) (fun es => holds (atnHeaders s es) fun d => (d.1.all fun x => decide (0 < hdrFill x)) &&
    given (retnMay d.2 (retnParts es 0 1 0 1 [9]))) = true ∧ given (atnScratch s 0 1) = true ∧ retnOk 0 = true ∧ programmed.me.qs.get 9 = [5] := by decide +kernel
/-- A retn that samples at issue, one that holds its sample, one that waits at a compacting block. -/
theorem test_given_sample : appended.me.atnData = none ∧ given (atnPlace appended (appended.ns 1 0) 1) = true ∧ (of fun th => { th with atnData := some [9] }).me.atnData = some [9] ∧
    (let s : State := { appended with mem := appended.mem.set 0x10000 3 }
     holds (atnEntries s 0 [0]) (fun es => holds (atnHeaders s es) fun d => d.1.any fun x => hdrState x == 3) = true) := by decide +kernel
/-- AttentionWorkGoesOnStepByStep: a block that a patt reads, a key that a cent assigns, the segment that a sieve compacts. -/
theorem test_given_block : holds (atnEntries appended 0 [0]) (fun es => match es with
    | [e] => (match appended.pattHeader 0 e { (default : Patt) with hn := 1, qn := 1, dh := 64 } with
      | .ok (.read x s1) => (match s1.pattBlock 0 e x with | .ok _ => true | _ => false)
      | _ => false)
    | _ => false) = true ∧ (default : Patt).handle < 64 := by decide +kernel
theorem test_given_key : holds (atnEntries tabled 0 [0]) (fun es => match es with
    | [e] => holds (tabled.centFill 0 e { (default : Cent) with dh := 64, table := 0x8000, ncen := 1, keys := [(3, 0)] }) (fun r => match r.1 with
        | some (fill, c) => decide (3 < fill) && given (r.2.centAssign 0 e c 3 0)
        | none => false)
    | _ => false) = true ∧ tabled.centEarlier 0 0 = false := by decide +kernel
theorem test_given_sieve : holds (appended.ktmRun 0 0 0 [0]) (fun es => holds (appended.sieveHeaders 0 es) fun r => r.1.all fun d => hdrState d != 0 && hdrState d != 3) = true ∧
    appended.readersOf [0x10000] = false := by decide +kernel
/-- Its move, and a reader that it waits for. -/
theorem test_given_sieve_move : holds (appended.ktmRun 0 0 0 [0]) (fun es => !es.isEmpty && (es.map fun e => e.frame) == [0x10000] &&
      holds (appended.sieveHeaders 0 es) fun r => given (r.2.sieveTokens 0 (es.zip r.1))) = true ∧ given (appended.homeAcc 0 0x8000 16 true) = true ∧
    ({ appended with tasks := [(0, { (default : Task) with work := .patt { (default : Patt) with frame := 0x10000, hdr := some 1 } })] } : State).readersOf [0x10000] = true := by decide +kernel

/-! ## SYN -/

/-- Threads 0 and 1 of one level-2 gang in a context with privilege, on cores 0 and 1; node 0 runs. -/
def pair (f : Thread → Thread) : State := { base with
  threads := [(0, f { hart with node := 7 }), (1, { hart with core := 1, member := 1, node := 7 })]
  ctxs := [(0, { (default : Ctx) with st := .active, sys := true, fcnt := 4, fsize := 200, fbase := 0x10000000 })]
  gangs := [(0, { (default : Gang) with st := .live, node := 7, level := 2, threads := [0, 1] })]
  nodes := [(7, { (default : Node) with st := .running, nid := 7, gangs := 1, members := 2, given := 1, live := 1, dies := 1, level := 2 })] }
/-- Scalars of its thread 0. -/
def duo (l : List (Nat × Dword)) : State := pair fun th => { th with s := l }
/-- GroupBarriersGatherTheirMembers: an arrival that is not the last, and one that is. -/
theorem test_given_arrival : let s := duo [(8, 3)]; s.levelOk s.me 1 = true ∧ maskSet (s.group s.me 1) (s.ys 8) 0 = some [0, 1] ∧ s.me.pending.get 8 = false ∧
    s.me.allBefore .syn = true := by decide +kernel
theorem test_given_last_arrival : let s := duo [(8, 1)]; maskSet (s.group s.me 1) (s.ys 8) 0 = some [0] ∧ ((s.gangs.get 0).barriers.get (s.barKey s.me 1 0)).opened = false := by
  decide +kernel
theorem test_given_release : given (synRelease (duo []) false) = true ∧ given (synRelease (duo []) true) = true := by decide +kernel
theorem test_given_all : maskSet ((duo []).group (duo []).me 1) 3 0 = some [0, 1] ∧ maskSet ((duo []).group (duo []).me 1) 1 0 = some [0] ∧
    ((duo []).thr 1).st ≠ .ended := by decide +kernel
theorem test_given_waiting : (pair fun th => { th with synStage := 1, pending := [(8, true)] }).me.pending.get 8 = true ∧ (duo []).me.synStage ≠ 1 := by decide +kernel
theorem test_bar_closes : let s := next (exec (.barArr 0 1 8) (duo [(8, 3)])); let t := next (exec (.barArr 0 1 8) { s with cur := 1, threads := s.threads.mod 1 fun th => { th with s := [(8, 3)] } })
    s.me.pending.get 8 = true ∧ (t.thr 0).pending.get 8 = false ∧ (t.thr 1).pending.get 8 = false := by decide +kernel
/-- CountingBarriersCount: a free one; an own one below its target, and at it with the thread first in its queue. -/
def counted (n : BitVec 32) : State := { duo [(8, 2)] with cbars := [(3, { armed := true, owner := 1, ocid := 1, target := 2, count := n, waiters := [0], halo := false })] }
theorem test_given_cbar : (base.cbars.get 3).armed = false ∧ bits (2 : Dword) 32 32 = 0 ∧ bits (2 : Dword) 0 32 ≠ 0 ∧ ((counted 1).cbars.get 3).armed = true ∧
    ((counted 1).cbars.get 3).count.toNat < ((counted 1).cbars.get 3).target.toNat ∧ ((counted 2).cbars.get 3).target.toNat ≤ ((counted 2).cbars.get 3).count.toNat ∧
    ((cbarQueue (counted 2) ((counted 2).cbars.get 3)).find? fun u => u == 0 || ((counted 2).thr u).atCbar 3 3) = some 0 ∧
    ([0].any fun u => ((counted 2).thr u).atCbar 3 2 || ((counted 2).thr u).atCbar 3 3) = false := by decide +kernel
theorem test_cbar_add_saturates : ((next (exec (.cbarAdd 3 8) (counted 0xFFFFFFFF))).cbars.get 3).count = 0xFFFFFFFF := by decide +kernel
/-- RingsAdvanceAndPhasesAreDeclared: a ring of two stages of 128 bytes that XFR fills and MAT empties; a phase range with and without a clash. -/
def ringed : State := { duo [(8, 0x0001000080000000), (9, 0x00080010), (10, 0x40), (11, 0x10)] with
  rings := [(2, { active := true, owner := 1, thread := 0, base := 0, ssz := 128, stages := 2, prod := partyOf 0x10, cons := partyOf 0x08, step := 0, counts := [] })] }
theorem test_given_ring : let g := ringed.ys 8; let v := ringed.ys 9; (ringed.rings.get 1).active = false ∧ flag g 23 = false ∧ flag g 47 = false ∧ bits g 52 12 = 0 ∧
    field g 0 23 % 128 = 0 ∧ field g 24 23 = 128 ∧ field g 0 23 + (field g 48 4 + 1) * field g 24 23 ≤ 2 ^ 23 ∧ bits v 32 32 = 0 ∧ bits v 8 7 = 0 ∧ bits v 24 7 = 0 ∧
    ringed.partyBad (partyOf (bits v 0 16)) = false ∧ ringed.partyBad (partyOf (bits v 16 16)) = false ∧
    ringed.partiesMeet (partyOf (bits v 0 16)) (partyOf (bits v 16 16)) = false := by decide +kernel
theorem test_given_sbar : let r := ringed.rings.get 2; r.prod.memberThread r 0 ringed.me.ix1 0 = some 0 ∧ r.cons.memberThread r 0 ringed.me.ix1 8 = some 8 ∧
    (r.counts.get 0 - r.step).toInt < r.stages ∧ ((r.stages : Int) ≤ ((2 : BitVec 32) - r.step).toInt) := by decide +kernel
theorem test_given_sbar_effect : (let x : SbarArr := { ring := 2, member := 0, thread := 0, ord := 0, engines := [.xfr] }; x.ready ringed) = true := by decide +kernel
theorem test_given_phase : (ringed.ys 10).toNat % 16 = 0 ∧ (ringed.ys 11).toNat % 16 = 0 ∧ ringed.phaseClash 0 4 ⟨0x40, 0x10⟩ true = none ∧
    (pair fun th => { th with phases := [(8 * 3 + 4, ⟨0x40, 0x10⟩)] }).phaseClash 0 4 ⟨0x40, 0x10⟩ false = some 0x40 := by decide +kernel

/-- Region 0 of context 0: 4 KiB from address 0, its one piece held by thread 0 of node 7. -/
def piece : Piece := { base := 0, top := 4096, holder := .thread 7 0, chain := [], shares := [], taint := false, st := .heldWrite, lostBy := none }
def owned (p : Piece) (l : List (Nat × Dword)) : State := { duo l with
  regions := [(0, { live := true, tensor := false, tid := 0, base := 0, len := 4096, swManaged := false, home := 0, pieces := [p] })] }
/-- TokensMoveBetweenParties: the piece free, with its lender, lost, shared; the recipient thread 1 of the node. -/
theorem test_given_token : let s := owned piece [(8, 0x40), (9, 0x100000000)]; given (tokHeld s 0 (s.ys 8)) = true ∧ given (tokBegin s 0 piece) = true ∧
    s.partyOperand 7 (s.ys 9) = some (.thread 7 1) ∧ s.recipientGone (.thread 7 1) = false ∧ s.me.allBefore .syn = true ∧ bits (0 : Dword) 12 52 = 0 ∧
    (s.ys 8).toNat % 16 = 0 ∧ (s.ys 8).toNat ≠ piece.base ∧ s.unitPieces 0 < 131072 := by decide +kernel
theorem test_given_lent : let p := { piece with chain := [{ party := .domain, lost := false }] }; given (tokHeld (owned p []) 0 0) = true ∧ p.chain ≠ [] := by decide +kernel
theorem test_given_share : let p := { piece with shares := [.thread 7 0] }; let s := owned p []
    given (tokPiece s 0 0) = true ∧ (p.shares.find? s.tokIssuer.within) = some (.thread 7 0) ∧ p.shares ≠ [] := by decide +kernel
theorem test_given_lost : given (tokPiece (owned { piece with st := .lost } []) 0 0) = true ∧ ((duo []).ctxs.get 0).sys = true ∧ ((duo []).ctxs.get 0).st ≠ .free := by decide +kernel
theorem test_given_reclaimed : let s := owned { piece with st := .reclaimed } [(9, 0x1000)]; given (tokPiece s 0 0) = true ∧ flag (s.ys 9) 12 = true ∧
    flag (0 : Dword) 12 = false ∧ bits (s.ys 9) 13 3 = 0 ∧ bits (s.ys 9) 26 38 = 0 ∧ (s.ctxs.get 0).sys = true ∧ (s.ctxs.get 0).st ≠ .free := by decide +kernel
theorem test_given_split : let s := next (exec (.tksplit 8 10) (owned piece [(8, 0x40)])); ((s.regions.get 0).pieces.map fun p => (p.base, p.top)) = [(0, 0x40), (0x40, 4096)] ∧
    ((s.regions.get 0).pieces.find? fun q => q.top == 0x40).map (fun p => p.base) = some 0 := by decide +kernel
theorem test_given_token_wait : let s : State := pair fun th => { th with held := [(7, some .outside)], iq := [(7, [{ item := .word 0xE5002240, addr := 0, ord := 0, rrb := 0 }])] }
    s.me.held.get 7 ≠ none ∧ (s.me.head .syn).map (fun x => x.item) = some (.word 0xE5002240) ∧ bits (0xE5002240 : Word) 10 6 = 8 ∧ bits (0xE5002240 : Word) 4 6 = 36 := by
  decide +kernel
/-- RangeWordsAndRegionCommands: a range of 16 bytes; a create command for region 5 of context 0, a destroy command for region 0. -/
def commanded (kind : Nat) : State := { owned { piece with holder := .domain } [(9, 0x10)] with
  mem := (Tab.setRange [] 0x400 (leBytes 8 (kind + if kind = 1 then 5 * 2 ^ 32 else 0) ++ leBytes 8 0x10000 ++ leBytes 8 4096) : Tab Byte) }
theorem test_given_range : let v := (commanded 1).ys 9; bits v 32 31 = 0 ∧ bits v 0 32 ≠ 0 ∧ bits (0 : Dword) 0 32 = 0 := by decide +kernel
/-- A range that is walked and whose homes are open, one whose tables no path reaches, one with a dirty line of a home that no path reaches. -/
theorem test_given_range_ways : let v := (commanded 1).ys 9; ((commanded 1).rangeParts 0 v).isSome = true ∧ (commanded 1).rangeAway 0 [(0, 16)] = false ∧
    (let s : State := { (commanded 1).modMe (fun th => { th with cid := 1 }) with ctxs := [(1, { (default : Ctx) with st := .active, ptroot := BitVec.ofNat 57 (2 ^ 42) })], dies := [(0, { (default : Die) with present := true, everUp := true }), (1, { (default : Die) with present := true, everUp := true })] }
     s.rangeParts 0 v = none) ∧
    (let s : State := { commanded 1 with dies := [(0, { (default : Die) with present := true, everUp := true }), (1, { (default : Die) with present := true, everUp := true })],
                                         rdc := [(2 ^ 42 / 128, { (default : RdcLine) with filled := true, dirty := 1 })] }
     s.rangeAway 0 [(2 ^ 42, 16)] = true) := by decide +kernel
theorem test_given_create : let s := commanded 1; let dw := fun i => s.homeDword (0x400 + 8 * i); s.cmdUsable 0x400 = true ∧ regionFormOk dw = true ∧ field (dw 0) 0 2 = 1 ∧
    (regionOfCmd dw).base = 0x10000 ∧ (regionOfCmd dw).len = 4096 ∧ (s.regions.get 5).live = false ∧ (s.die (regionOfCmd dw).home).present = true ∧
    (s.ctxs.get 0).st = .active := by decide +kernel
theorem test_given_destroy : let s := commanded 2; regionFormOk (fun i => s.homeDword (0x400 + 8 * i)) = true ∧ field (s.homeDword 0x400) 0 2 = 2 ∧ (s.regions.get 0).live = true ∧
    s.regionLost (s.regions.get 0) = false := by decide +kernel
/-- ShootDownsRemoveWhatTheyName: with and without privilege, a form, a removal that die 0 has to acknowledge. -/
theorem test_given_shoot : ((duo []).ctxs.get 0).sys = true ∧ (base.ctxs.get 0).sys = false ∧ (duo []).presentDies = [0] ∧ bits (0 : Dword) 10 6 = 0 ∧
    (let s := { duo [] with shoots := [{ sel := .all, who := .thread 0, dies := [0] }] }
     (s.shoots.findIdx? fun y => y.dies.contains 0) = some 0 ∧ (s.shoots.any fun y => y.who == .thread 0) = true ∧
     s.ackReady 0 { sel := .all, who := .thread 0, dies := [0] } = true ∧ s.onWay 0 (.shoot .all (.thread 0)) = false ∧ s.atomoUsed 0 { sel := .all, who := .thread 0, dies := [0] } = false ∧
     ({ s with atomo := [{ (default : Atomo) with used := { (default : TlbEnt) with die := 0 } }] } : State).atomoUsed 0 { sel := .all, who := .thread 0, dies := [0] } = true ∧
     ({ s with packets := [{ src := 1, dst := 0, num := 0, use := .shoot .all (.thread 0) }] } : State).ackReady 0 { sel := .all, who := .thread 0, dies := [0] } = false) := by
  decide +kernel
/-- PagesMigrateAndHomesAreLost: a command at 0x400 for a page of 64 KiB of context 1 whose leaf at the last level maps frame 0x100000. -/
def migratable : State := { duo [] with
  ctxs := [(0, { (default : Ctx) with st := .active, sys := true }), (1, { (default : Ctx) with st := .active, ptroot := 0x2000 })]
  dies := [(0, { (default : Die) with present := true, everUp := true, migQ := [0x400] })]
  mem := (Tab.setRange (Tab.setRange (Tab.setRange (Tab.setRange (Tab.setRange (Tab.setRange [] 0x400 (leBytes 8 1 ++ leBytes 8 0 ++ leBytes 8 0x200000))
    0x2000 (leBytes 8 0x4001)) 0x4000 (leBytes 8 0x8001)) 0x8000 (leBytes 8 0xC001)) 0xC000 (leBytes 8 0xD001)) 0xD000 (leBytes 8 (2 + 4 + 16 + 64 + 0x100000)) : Tab Byte) }
theorem test_given_migration : let s := migratable; s.cmdUsable 0x400 = true ∧ s.migForm 0x400 = true ∧ field (s.homeDword 0x400) 0 10 = 1 ∧
    holds (s.walk 0 false walkLevels (s.root 1)) (fun r => decide (field r.1 2 2 = 1) && decide (levelCode r.2 = field (s.homeDword 0x400) 16 2) && decide (levelSize r.2 = 2 ^ 16)) = true ∧
    (s.homeDword 0x410).toNat % 2 ^ 16 = 0 ∧ s.paHole 0x200000 = false ∧ s.paLost 0x200000 = false ∧ (s.die 0).migQ = [0x400] ∧ (s.die 0).mig = none ∧ (s.die 0).frozen = false := by decide +kernel
theorem test_given_home_loss : base.gangs = [] ∧ base.tasks = [] ∧ (∀ x ∈ base.dies, x.2.mig = none) ∧ (base.die 0).present = true ∧ (base.die 1).present = false := by decide +kernel

/-- SynWordsOnTheirThread: seeds with room, full, none; a handler with its area at 0; a MIGCMD that is full; a thread that may halt and one that may not. -/
def handling (f : Thread → Thread) : State := pair fun th => f { th with st := .handler, trapvec := 1 }
theorem test_given_seeds : base.me.vecOwes = false ∧ base.me.matOwes = false ∧ base.me.arrayOwes = false ∧ base.me.seeds.length = 1 ∧
    (of fun th => { th with seeds := List.replicate 16 { key := 1, vec := 0, mat := 0 } }).me.seeds.length = 16 ∧ (of fun th => { th with seeds := [] }).me.seeds = [] := by decide +kernel
theorem test_given_handler : (handling id).me.st = .handler ∧ (handling id).me.sbPending = false ∧ given (rewriteRecord (handling id)) = true ∧
    given (eretCore (handling id)) = true ∧ (duo []).me.st ≠ .handler ∧
    (handling fun th => { th with sb := [(0, { (default : SbEntry) with valid := true })] }).me.sbPending = true := by decide +kernel
theorem test_given_halt : (duo []).haltReady 0 = true ∧ (pair fun th => { th with sb := [(0, { (default : SbEntry) with valid := true })] }).haltReady 0 = false ∧
    bits (3 : Dword) 2 62 = 0 ∧ bits (4 : Dword) 2 62 ≠ 0 ∧
    16 ≤ (({ duo [] with dies := [(0, { (default : Die) with migQ := List.replicate 16 0 })] } : State).die 0).migQ.length := by decide +kernel
theorem test_seed_push : (next (exec (.seedPush 8) (scalars [(8, 9)]))).me.seeds.map (fun e => e.key) = [9, 7] := by decide +kernel
theorem test_halt_ends : ((next (exec .halt (duo []))).thr 0).st = .ended := by decide +kernel
/-- LaunchesWaitsAndGangMoves: parked work and a parked access that a replay has taken up and that still waits; a graph list of the context that is entering. -/
theorem test_given_replay : let s : State := { base with tasks := [(0, { (default : Task) with work := .copy default, again := some (.copy default) })], parkWaits := [{ (default : ParkWait) with again := true }] }
    (s.tasks.any fun e => replayNames 0 e.2.cid && e.2.again == some e.2.work) = true ∧ (s.parkWaits.any fun w => w.again && replayNames 0 w.cid) = true ∧
    (s.tasks.any fun e => replayNames 5 e.2.cid) = false ∧ bits (0 : Dword) 10 53 = 0 := by decide +kernel
/-- LaunchesWaitsAndGangMoves: a launch body at 0x40, a dword to wait on, a gang to stop, one that is saved. -/
def launching : State := { duo [(8, 0x40), (9, 0x80)] with
  mem := (Tab.setRange [] 0x40 (leBytes 8 1 ++ leBytes 8 0x1000 ++ leBytes 8 0 ++ leBytes 8 0x100000001) : Tab Byte) }
theorem test_given_launch : holds (launching.accessLin (launching.issuer 0 .syn) 0x40 64 false 0) (fun r => (bodyOf (r.2.loadAccs (launching.issuer 0 .syn) r.1).1.1).ok false) = true ∧
    given (takeEntry launching .syn 0x0E 0) = true ∧ launching.me.synStage < 2 ∧ (launching.acceptLaunch 0 2 (launchStage (bodyOf (leBytes 64 0x100000001000000000000000010000000000000001)) 0 true) 0).isSome = true ∧
    stageTaken (launchStage [1] 5 true) = true ∧ stageTaken (launchStage [1] 5 false) = false ∧ 2 ≤ launchStage [1] 5 false ∧
    (of fun th => { th with sb := (List.range 16).map fun j => (j, { (default : SbEntry) with valid := true }) }).me.sbFree = none := by decide +kernel
theorem test_given_wait : given (launching.accessLin (launching.issuer 0 .syn) 0x80 8 false 1) = true ∧ launching.me.child.get 3 = 0 ∧
    (launching.nodes.get 7).st.inFlight = true := by decide +kernel
theorem test_given_ctxsv : (duo []).onCore 0 1 = some 1 ∧ ((duo []).gangs.get 0).st = .live ∧
    given ((duo []).accessLin (Issuer.agent 0 0) 0x100000 ((duo []).areaBytes 0) true 0) = true := by decide +kernel
def savedGang : State := { duo [] with
  threads := [(0, { hart with node := 9, gang := 3 }), (1, { hart with st := .saved, gang := 1, core := 2 })]
  gangs := [(1, { (default : Gang) with st := .saved, node := 7, threads := [1], byCtxsv := true, area := 0x100000 }), (3, { (default : Gang) with st := .live, threads := [0] })] }
theorem test_given_ctxld : savedGang.savedAt 0x100000 = some 1 ∧ savedGang.movedPlace 1 0 5 = some [(0, 5)] ∧ savedGang.placeFree 1 [(0, 5)] = true ∧ savedGang.gangStranded 1 = false ∧
    ({ savedGang with nodes := [] } : State).gangStranded 1 = true ∧
    given (savedGang.accessLin (Issuer.agent 0 0) 0x100000 (savedGang.areaBytes 1) false 0) = true := by decide +kernel
/-- TrapsAreTaken: an idle thread whose handler takes traps, one whose does not, one whose record is held. -/
theorem test_given_user : let s := pair fun th => { th with trapvec := 1 }; s.me.curCmd = none ∧ s.me.arrayBusy = false ∧ s.me.move = none ∧ s.me.atomBegun = none ∧ flag s.me.trapvec 0 = true ∧
    systemOnly .brk = false ∧ trapTaint .brk = none ∧ given (s.accessLin { s.issuer 0 .seq with eng := none } (field s.me.trapvec 18 46 * 2 ^ 11) 0x600 true 0) = true ∧
    flag (duo []).me.trapvec 0 = false ∧ base.gangFrame 0 0 = none := by decide +kernel
theorem test_given_held_record : let s := pair fun th => { th with st := .stopped, recHeld := true }; s.gangFrame 0 0 = some 0 ∧
    s.areaBytes 0 ≤ (s.ctxs.get 0).fsize.toNat * 0x10000 ∧ given (s.accessLin (Issuer.agent 0 0) (s.areaAt 0 0 + 0 * 0x60000) 0x600 true 0) = true := by decide +kernel
theorem test_trap_enters : let s := next (exec (.trap 5 8) (pair fun th => { th with trapvec := 0x100001, s := [(8, 3)] }))
    s.me.st = .handler ∧ s.me.inh = true ∧ s.me.tsCode = (TrapCode.userTrap).num := by decide +kernel

/-! ## Gangs, the host and the device -/

/-- The pair with a ready node of one gang of one member. -/
def sched : State := { pair id with nodes := [(7, { (default : Node) with st := .running, nid := 7, gangs := 1, members := 2, given := 1, live := 1, dies := 1, level := 2 }),
  (9, { (default : Node) with st := .ready, nid := 9, gangs := 1, members := 1, dies := 1 })] }
/-- The pair's gang in a state, its members in another. -/
def ganged (st : GangSt) (th : ThreadSt) (ctx : CtxSt) : State := let s := pair fun x => { x with st := th, was := .running }
  { s with gangs := s.gangs.mod 0 fun x => { x with st := st }, threads := s.threads.mod 1 fun x => { x with st := th, was := .running },
           ctxs := s.ctxs.mod 0 fun c => { c with st := ctx } }
/-- TheSchedulerMovesGangs. -/
theorem test_given_dispatch : sched.dieTakes 0 = true ∧ sched.pool 0 = [9] ∧ sched.lowerDie 0 9 = false ∧ (sched.firstFit 0 [9]).isSome = true ∧ base.dieTakes 1 = false ∧
    sched.fitsNow 0 9 = true ∧ (sched.die 0).reserved = none := by decide +kernel
theorem test_given_gang : ((ganged .loading .loaded .active).gangs.get 0).st = .loading ∧ (ganged .live .running .stopping).mayPreempt 0 = true ∧ (duo []).mayPreempt 0 = false ∧
    (duo []).gangAwaits 0 = false ∧ (ganged .live .ended .active).gangAwaits 0 = true ∧ (duo []).onCore 0 1 = some 1 ∧ (duo []).onCore 0 5 = none ∧
    ((duo []).die 0).coreBad.get 5 = false := by decide +kernel
theorem test_given_settled : let s := ganged .stopping .leaving .active; (s.gangs.get 0).st = .stopping ∧ s.gangSettled 0 = true ∧
    s.areaBytes 0 ≤ (s.ctxs.get 0).fsize.toNat * 0x10000 ∧ (s.gangs.get 0).byCtxsv = false ∧ s.gangFrame 0 0 = some 0 ∧
    (∀ t ∈ [0, 1], (s.thr t).move = none ∧ (s.thr t).atomBegun = none) := by decide +kernel
theorem test_given_reserved : let s := { sched with dies := [(0, { (default : Die) with present := true, everUp := true, reserved := some 9, coreBad := (List.range 256).map fun c => (c, true) })] }
    (s.die 0).reserved = some 9 ∧ s.emptied.fitsNow 0 9 = false ∧ s.fitsNow 0 9 = false := by decide +kernel
theorem test_given_restore : let s := { savedGang with gangs := savedGang.gangs.mod 1 fun x => { x with byCtxsv := false } }
    (s.gangs.get 1).st = .saved ∧ (s.ctxs.get 0).st = .active ∧ flag (s.nodes.get 7).dies 0 = true ∧ s.gangStranded 1 = false := by decide +kernel
/-- NodesEndWithTheirVerdict. -/
theorem test_given_node : let x : Node := { (default : Node) with st := .running, gangs := 1, given := 1, live := 0 }
    let s : State := { duo [] with nodes := [(7, x), (8, { x with st := .ending }), (9, { x with st := .waiting, preds := [8] })] }
    (s.nodes.get 7).st = .running ∧ (s.nodes.get 7).given = (s.nodes.get 7).gangs ∧ (s.nodes.get 8).st = .ending ∧ s.recordWaits 8 = false ∧
    (s.nodes.get 9).preds = [8] := by decide +kernel

/-- Queue q of context 0 with one packet of the dwords given. -/
def hosted (q : Nat) (l : List Nat) : State := { duo [] with
  queues := [(q, { st := .active, cid := 0, port := 0, l := 4, wt := 1, base := 0, hrep := 0x10000, head := 0, tail := 1, entered := [], atSlot := none })]
  dports := [(0, { (default : LinkPort) with st := .up })]
  hostMem := (Tab.setRange [] 0 (l.flatMap fun v => leBytes 8 v) : Tab Byte) }
/-- The packet of a kind stands at the head of the queue that its port serves, in form and not held. -/
def here (q kind : Nat) (s : State) : Bool := let b := s.packet q
  s.serves q && packetOk q b && decide (field (b.dw 0) 0 8 = kind) && !s.barHolds q b
/-- A context of whose queues another's graph list is entering, and one without. -/
theorem test_given_listing : let s := hosted 9 [1, 0x1000, 0, 0x100000001]
    s.listing 0 (some 9) = false ∧ ({ s with queues := s.queues.mod 9 fun x => { x with entered := [7] } } : State).listing 0 (some 8) = true ∧
    ({ s with queues := s.queues.mod 9 fun x => { x with entered := [7] } } : State).listing 0 none = true := by decide +kernel
/-- A tail of each kind of queue, a port that can be used and one that cannot, a status owed for a reshard. -/
theorem test_given_tails : let s := hosted 9 []; s.tailPort 9 = some 0 ∧ s.portUp 0 = true ∧ s.tailPort 8 = none ∧ (s.queues.get 8).st = .unattached ∧ isAdmin 8 = false ∧ isAdmin 4097 = true ∧
    s.tailPort 4097 = some 3 ∧ ({ s with dports := [] } : State).portUp 0 = false ∧ (s.writeStatus 0 0 4 0x100 1).isSome = true ∧
    ({ s with signals := [{ (default : Signal) with behalf := some default }] } : State).signals[0]?.map (fun y => y.behalf) = some (some default) := by decide +kernel
/-- HostPacketsAreTaken: a packet of each kind in form, and one that is not. -/
theorem test_given_launch_packet : here 9 1 (hosted 9 [1, 0x1000, 0, 0x100000001]) = true ∧ (hosted 9 [1, 0x1000, 0, 0x100000001]).nodeRoom 0 1 1 = true := by decide +kernel
theorem test_given_graph_packet : let s := hosted 9 [2, 0x1000, 1]; here 9 2 s = true ∧ ((enterEntries 9 0x1000 (s.packetOrigin 9) 1 s).queues.get 9).entered.length = 1 ∧
    holds (s.agentRead 0 0 0x1000 64) (fun r => !r.1.2 && s.nodeRoom 0 (bits ((bodyOf r.1.1).dw 3) 32 8) 1 && decide ((r.2.admission 0 (bodyOf r.1.1) true).1 ≠ .wait)) = true ∧
    (let t := { s with queues := s.queues.mod 9 fun x => { x with tail := 1 }, nodes := (List.range 16384).map fun i => (10 + i, { (default : Node) with st := .waiting }) }
     ((enterEntries 9 0x1000 (t.packetOrigin 9) 1 t).queues.get 9).entered = []) := by decide +kernel
theorem test_given_seed_packets : here 9 3 (hosted 9 [3, 5]) = true ∧ here 9 4 (hosted 9 [4]) = true ∧ here 9 5 (hosted 9 [5, 6]) = true ∧
    ((hosted 9 [4]).ctxs.get 0).seeds = [] := by decide +kernel
theorem test_given_wait_packet : here 9 6 (hosted 9 [6, 0x100, 0, 1]) = true ∧ given ((hosted 9 []).accessLin (Issuer.agent 0 0) 0x100 8 false 0) = true ∧
    packetCompare 1 0 0 = true ∧ packetCompare 1 0 5 = false := by decide +kernel
theorem test_given_signal_packet : here 9 7 (hosted 9 [7, 0x100, 9]) = true ∧ given ((hosted 9 []).accessLin (Issuer.agent 0 0) 0x100 8 true 0) = true := by decide +kernel
theorem test_given_reshard_packet : let s := { hosted 9 [8, 4, 2] with slots := [(4, layout)] }; here 9 8 s = true ∧ s.slotBusy 0 4 = false ∧
    (s.slotOn 0 0 4).reshardOk 2 = true ∧ given (s.statusWaits 0 0 0) = true := by decide +kernel
theorem test_given_malformed : (hosted 9 [0x55]).serves 9 = true ∧ packetOk 9 ((hosted 9 [0x55]).packet 9) = false ∧ ((hosted 9 []).queues.get 9).st ≠ .unattached ∧
    (hosted 9 []).portUp 0 = true ∧ ((3 : BitVec 32) - 0).toNat ≤ 2 ^ 4 ∧ 2 ^ 4 < ((17 : BitVec 32) - 0).toNat := by decide +kernel
theorem test_seed_packet : ((next (exec (.seedPushPacket 9) (hosted 9 [3, 5]))).ctxs.get 0).seeds.map (fun e => e.key) = [5] ∧
    ((next (exec (.seedPushPacket 9) (hosted 9 [3, 5]))).queues.get 9).head = 1 := by decide +kernel
/-- ContextControlActsOnContexts: each packet of the admin queue, for context 2 in the state that it asks. -/
def control (sub : Nat) (rest : List Nat) (st : CtxSt) : State := let s := hosted 0 ([9, sub + 2 * 256] ++ rest)
  { s with ctxs := s.ctxs.set 2 { (default : Ctx) with st := st } }
theorem test_given_control : here 0 9 (control 1 [] .free) = true ∧ here 0 9 (control 2 [] .active) = true ∧ here 0 9 (control 3 [] .stopped) = true ∧
    here 0 9 (control 4 [] .active) = true := by decide +kernel
theorem test_given_control_queues : here 0 9 (control 5 [8] .active) = true ∧ here 0 9 (control 6 [0x8009, 0x1000, 0x2000] .active) = true ∧ here 0 9 (control 7 [9] .active) = true ∧
    ((control 6 [] .active).queues.get 9).st = .unattached ∧ ((control 6 [] .active).queuesOf 2).length < 64 ∧ isAdmin 9 = false ∧ isAdmin 0 = true := by decide +kernel
/-- A destroy with a node that waits, a thread that runs, work in flight. -/
theorem test_given_destroy_in_flight : let s := { (control 4 [] .active) with
      nodes := [(7, { (default : Node) with st := .running, cid := 2 }), (8, { (default : Node) with st := .waiting, cid := 2 })]
      tasks := [(0, { (default : Task) with work := .reshard default, cid := 2 })] }
    here 0 9 s = true ∧ (s.ctxs.get 2).st = .active ∧ (s.nodes.get 8).st = .waiting ∧ (s.nodes.get (s.thr 0).node).st = .running ∧ (s.thr 0).st ≠ .absent ∧ s.presentDies ≠ [] := by decide +kernel
theorem test_given_freed : let s := control 4 [] .draining; (s.ctxs.get 2).st = .draining ∧ s.inFlight 2 = 0 ∧ s.shooting (.ctx 2) = false ∧ (∀ y ∈ s.signals, y.cid ≠ 2) := by decide +kernel
theorem test_given_stopped : let s := pair fun th => { th with st := .stopped, area := some 1 }; s.stoppedOn 0 0 0 = some 0 ∧ s.me.sbPending = false ∧
    given (s.agentRead 0 0 (s.areaAt 0 1) 0x600) = true := by decide +kernel
theorem test_context_create : ((next (exec (.contextCreate 0) (control 1 [0x4000] .free))).ctxs.get 2).st = .active ∧
    ((next (exec (.contextCreate 0) (control 1 [0x4000] .free))).ctxs.get 2).ptroot = 0x4000 := by decide +kernel
/-- ErrorsFencesAndPower: nodes in each state, slices, lines, an accumulator with a window and one without, dies. -/
theorem test_given_device : ((duo []).nodes.get 7).st = .running ∧ ((duo []).nodes.get 8).st.inFlight = false ∧ ((duo []).die 0).sliceBad.get 31 = false ∧
    ((duo []).rdc.get 5).held = false ∧ ((duo []).llc.get 5).tag = 0 ∧ (base.thr 0).active = true ∧ ((duo []).die 0).frozen = false ∧ ((duo []).die 0).cxlSize = 0 ∧
    isDiripo 0 6 = true := by decide +kernel
/-- Poison of a cached granule (R456): a write that covers part of it leaves it, one that covers all clears it, in the cache and, written back, at home. -/
theorem test_cached_poison : let s := { base with poison := [(0x40, true)] }; let bad := fun (s : State) => (s.rdcRead 1 0x400 4).1.2
    let half := s.rdcWrite 1 0 0 0x400 (List.replicate 8 7); let all := half.rdcWrite 1 0 0 0x400 (List.replicate 16 7)
    bad s = true ∧ bad half = true ∧ (half.dropLine 1 8).poison = [(0x40, true)] ∧ bad all = false ∧ (all.dropLine 1 8).poison = [] ∧
    (((s.rdcRead 1 0x410 4).2.poisonCached 1 0x41).rdcRead 1 0x410 4).1.2 = true := by decide +kernel
theorem test_given_lines : let l : RdcLine := { (default : RdcLine) with filled := true, dirty := 0xFFFF }; l.held = true ∧ bits l.dirty (16 * 0) 16 != 0 ∧
    flag (1 : BitVec 8) 0 = true ∧ (({ base with llc := [(5, { (default : LlcLine) with tag := 1 })] } : State).llc.get 5).tag ≠ 0 ∧
    (({ base with dies := [(0, { (default : Die) with errLines := [5], errAccs := [(0, 1)] })] } : State).die 0).errLines.contains 5 = true ∧
    ({ base with choice := [true] } : State).choice.head? = some true ∧ ({ base with dies := [(0, { (default : Die) with cxlDown := true, cxlSize := 2 ^ 41 })] } : State).paDown (2 ^ 41) = true ∧ homeOf (5 * 16) = 0 ∧ isHbm (5 * 16) = true ∧
    40 / 8 = 5 := by decide +kernel
theorem test_given_window : let s := of fun th => { th with accSt := [(1, { (default : AccSt) with win := { (default : MatWin) with bad := true } })] }
    (base.replayWindow 0 0).isSome = true ∧ s.replayWindow 0 1 = none ∧ s.me.curCmd = none ∧ s.me.move = none ∧ (moving false).me.move.map (fun m => (m.acc, m.load)) = some (0, false) ∧
    (onArray.me.curCmd.map fun x => (x.1.started, x.1.rerun, decide ((onArray.replayWindow 0 x.2.acc).isSome = true))) = some (true, false, true) := by decide +kernel
theorem test_correctable : ((next (exec (.correctableError 0) base)).die 0).elcnt = 1 := by decide +kernel
/-- LinksFollowTheirPortStates: a port in each state. -/
def ported (st : LinkSt) : State := { base with ports := [(2, { (default : LinkPort) with st := st, rxNext := 5 })] }
theorem test_given_ports : (((ported .up).anyPort 0 2).st.usable = true ∧ ((ported .off).anyPort 0 2).st = .off ∧ ((ported .training).anyPort 0 2).st = .training ∧
    ((ported .retraining).anyPort 0 2).st = .retraining ∧ ((ported .failed).anyPort 0 2).unconnected = false) ∧ ((ported .up).anyPort 0 2).rxNext = 5 := by decide +kernel
theorem test_given_lanes : (ported .training).allLanes 0 2 ≤ 32 ∧ (ported .training).allLanes 0 2 ≤ 2 * 16 ∧ 2 * 7 < (ported .training).allLanes 0 2 ∧
    (∀ e ∈ base.presentDies, e ∈ base.survivors) := by decide +kernel
theorem test_given_flits : let x := (ported .up).anyPort 0 2; (ported .up).farEnd 0 2 = (2, 3) ∧ x.behind 4 = true ∧ x.behind 6 = false ∧ (6 : BitVec 16) ≠ x.rxNext ∧
    (ported .up).farEnd 0 6 = (0, 7) ∧ isDiripo 0 7 = true := by decide +kernel
/-- A port one of whose flits has been replayed 8 times in a row, and one that is not. -/
theorem test_given_worn_port : let worn : LinkPort := { (default : LinkPort) with st := .up, replays := 8 }; let s : State := { base with ports := [(2, worn)] }
    8 ≤ (s.anyPort 0 2).replays ∧ (s.anyPort 0 2).st.usable = true ∧ ((ported .up).anyPort 2 3).replays < 8 ∧ ((ported .up).anyPort 0 2).replays < 8 := by decide +kernel
theorem test_flit_number : ((next (exec (.flitReceive 0 2 5 true) (ported .up))).anyPort 0 2).rxNext = 6 ∧
    ((next (exec (.flitReceive 0 2 7 true) (ported .up))).anyPort 0 2).replay = true := by decide +kernel
/-- ResetBringUpAndSideband: a die that waits at step 5 with its ports settled, a report that fails and one that does not. -/
def waitingDie : State := { State.reset with dies := [(0, { (default : Die) with step := 5 })] }
/-- An image that the boot ROM accepts on a die whose fused key digest is 0, and reports with it. -/
def image : FwImage := let h := sha512 (leBytes 8 4 ++ [1, 2]); { version := 4, payload := [1, 2], digest := h, signed := h, signer := 0 }
def reported (n : Nat) (x : FwImage) : BringUpReport := { fails := n, badCores := [], badSlices := [], offpkg := 0, unconnected := [], cxlSize := 0, image := x }
theorem test_given_bring_up : let x := image; (waitingDie.die 0).present = false ∧ (reported 3 x).fails ≠ 0 ∧ (reported 0 x).fails = 0 ∧
    x.digest = sha512 (leBytes 8 x.version ++ x.payload) ∧ x.signed = x.digest ∧ x.signer = (waitingDie.die 0).fwKey ∧ (waitingDie.die 0).fwMin ≤ x.version := by decide +kernel
/-- FIPS 180-4's own example: the digest of abc. -/
theorem test_sha512_abc : sha512 [0x61, 0x62, 0x63] =
    0xddaf35a193617abacc417349ae20413112e6fa4e89a97ea20a9eeee64b55d39a2192992a274fc1a836ba3c23a3feebbd454d4423643ce80e2a9ac94fa54ca49f := by decide +kernel
theorem test_bring_up_fails : let u := next (exec (.bringUp 0 (reported 0 { image with version := 3 })) waitingDie); (u.die 0).step = 0 ∧ (u.die 0).failed = 1 := by decide +kernel
theorem test_given_joined : (waitingDie.die 0).step = 5 ∧ waitingDie.joined 0 = true := by decide +kernel
theorem test_power_on : (next (exec .powerOn base)).threads = [] := by decide +kernel

/-! ## The whole machine -/

/-- DecodeReadsWhatEncodeWrites: a well-formed word of each format, and a device step, which has none. -/
theorem test_given_encode : (Instr.tld 30 1 4).wf = true ∧ encode (.tld 30 1 4) = some 0x21788800 ∧ encode (.vcomp 8 0 20 0 2 0) = some 0x4B402808 ∧
    encode (.br 2 1 0x7FFFE) = some 0x0E2FFFFE ∧ encode .powerOn = none := by decide
/-- AStoreChangesOnlyItsBytes: a store of four bytes at 0x80 at home, bytes just below and above it. -/
theorem test_given_store_bytes : let a : Acc := { pa := 0x80, len := 4, va := 0x80, rkey := 0, w := true, ord := 1 }
    a.cached 0 = false ∧ base.paDown 0x80 = false ∧ (0x7F < a.pa ∧ a.pa + a.len ≤ 0x84) ∧ a.pa + a.len ≤ 2 ^ 50 ∧
    (base.rdc.get 0).dirty.getLsbD 0x7F = false ∧ base.posted = [] := by decide +kernel
theorem test_store_lands : let a : Acc := { pa := 0x80, len := 4, va := 0x80, rkey := 0, w := true, ord := 1 }
    (base.storeAcc (base.issuer 0 .seq) a [1, 2, 0, 4]).mem = [(0x80, 1), (0x81, 2), (0x83, 4)] := by decide +kernel

end Sys2Proof.Tests
end

section
/-! SUPPORT. What an operation on the device's own state can change: its log, its memory and its lines. -/

namespace Sys2Proof.Machine

/-! ## Single records -/

/-- What an update of dies leaves of each, it leaves of every die of the state. -/
theorem State.setDie_keeps {α : Type} (g : Die → α) (s : State) (d : Nat) (f : Die → Die) (h : ∀ x, g (f x) = g x) (e : Nat) :
    g ((s.setDie d f).die e) = g (s.die e) := by
  by_cases he : e = d
  · rw [he, State.die_setDie_same, h]
  · rw [State.die_setDie_other _ _ _ _ he]

/-- Only what an update makes of the thread's present record counts. -/
theorem State.modThr_congr {s : State} {t : Nat} {f g : Thread → Thread} (h : f (s.thr t) = g (s.thr t)) : s.modThr t f = s.modThr t g :=
  congrArg (fun x => { s with threads := s.threads.set t x }) h

/-- A key whose value is not the default is listed. -/
theorem Tab.mem_of_get_ne_default {α : Type} [Inhabited α] (t : Tab α) (k : Nat) (h : t.get k ≠ default) : (k, t.get k) ∈ t := by
  induction t with
  | nil => exact absurd (Tab.get_nil k) h
  | cons e rest ih =>
    obtain ⟨j, v⟩ := e
    by_cases hj : j = k
    · simp [Tab.get, hj]
    · by_cases hk : k < j
      · simp [Tab.get, hj, hk] at h
      · simp only [Tab.get, if_neg hj, if_neg hk] at h ⊢
        exact List.mem_cons_of_mem _ (ih h)

/-- A die that is present is listed among those present. -/
theorem State.mem_presentDies {s : State} {x : Nat} (h : (s.die x).present = true) : x ∈ s.presentDies := by
  have hd : s.dies.get x ≠ default := fun e => by simp [State.die, e, show (default : Die).present = false from rfl] at h
  exact List.mem_map.2 ⟨_, List.mem_filter.2 ⟨Tab.mem_of_get_ne_default _ _ hd, h⟩, rfl⟩

theorem State.die_congr {s t : State} (h : t.dies = s.dies) (x : Nat) : t.die x = s.die x := congrArg (Tab.get · x) h

/-- Whether an address lies behind a link that is down depends on the dies alone. -/
theorem State.paDown_congr {s t : State} (h : t.dies = s.dies) (pa : Nat) : t.paDown pa = s.paDown pa := by
  simp only [State.paDown, State.die_congr h]

/-- A counter of 32 bits that saturates (R455, R467). -/
theorem saturating_toNat (c : BitVec 32) : (if c = BitVec.allOnes 32 then c else c + 1).toNat = Nat.min (2 ^ 32 - 1) (c.toNat + 1) := by
  split
  case isTrue h => rw [h]; rfl
  case isFalse h =>
    have hne : c.toNat ≠ 2 ^ 32 - 1 := fun e => h (BitVec.eq_of_toNat_eq e)
    have hlt := c.isLt
    rw [BitVec.toNat_add, show Nat.min (2 ^ 32 - 1) (c.toNat + 1) = c.toNat + 1 from Nat.min_eq_right (by omega)]
    exact Nat.mod_eq_of_lt (by simp; omega)

/-! ## The log (R464, R465) -/

/-- A die without the counts of its log. -/
def Die.uncounted (x : Die) : Die := { x with elcnt := 0, elpos := 0 }

/-- `t` is `s` but for memory, its poison and lines, and the counts of the dies' logs. -/
def LogOnly (s t : State) : Prop :=
  t = { s with mem := t.mem, poison := t.poison, llc := t.llc, rdc := t.rdc, posted := t.posted, choice := t.choice, dies := t.dies } ∧
  ∀ x, (t.die x).uncounted = (s.die x).uncounted

theorem log_only (s : State) (d : Nat) (r : LogRec) : LogOnly s (s.log d r) := by
  unfold State.log
  extract_lets die n prod cons at_ drop d0 s1
  split
  · exact ⟨rfl, State.setDie_keeps Die.uncounted s d _ fun _ => rfl⟩
  · have hm : MemOnly s s1 := (homeWrite_step ..).1
    refine ⟨?_, fun x => ?_⟩
    · simp only [State.setDie]; rw [hm]
    · have hs : (s1.die x).uncounted = (s.die x).uncounted := by rw [hm]; rfl
      rw [← hs]
      exact State.setDie_keeps Die.uncounted s1 d _ (fun _ => by rfl) x

@[simp] theorem State.log_nodes (s : State) (d : Nat) (r : LogRec) : (s.log d r).nodes = s.nodes := by rw [(log_only s d r).1]

/-! ## Lines of the caches -/

/-- `t` is `s` but for home memory, the lines of the slices and the free values taken. -/
def LostOnly (s t : State) : Prop := t = { s with mem := t.mem, llc := t.llc, freeCtr := t.freeCtr }

theorem LostOnly.trans {s t u : State} (h : LostOnly s t) (k : LostOnly t u) : LostOnly s u := by
  unfold LostOnly at *; rw [k, h]

theorem LostOnly.dies {s t : State} (h : LostOnly s t) : t.dies = s.dies := by rw [h]

theorem loseLine_only (s : State) (line : Nat) : LostOnly s (s.loseLine line) := by
  unfold State.loseLine
  refine LostOnly.trans (foldl_rel LostOnly (fun _ => rfl) (fun _ _ _ => .trans) _ (fun s g => ?_) (List.range 8) s) rfl
  split <;> rfl

/-- The granules of a mask made from a test are those that pass it. -/
theorem flag_foldl_granules (f : Nat → Bool) (i : Nat) (hi : i < 8) (l : List Nat) : ∀ m : BitVec 8,
    flag (l.foldl (fun m g => if f g then m ||| BitVec.ofNat 8 (2 ^ g) else m) m) i = (flag m i || l.contains i && f i) := by
  induction l with
  | nil => simp
  | cons g l ih =>
    intro m
    have hbit : (BitVec.ofNat 8 (2 ^ g)).getLsbD i = (i == g) := by
      rw [BitVec.getLsbD_ofNat, Nat.testBit_two_pow]
      by_cases hg : i = g
      · subst hg; simp [hi]
      · simp [hg, Ne.symm hg]
    have hm : flag (if f g then m ||| BitVec.ofNat 8 (2 ^ g) else m) i = (flag m i || (i == g) && f i) := by
      split
      case isTrue hf =>
        rw [flag, BitVec.getLsbD_or, hbit]
        by_cases hg : i = g
        · rw [hg, hf, Bool.and_true]
        · rw [beq_false_of_ne hg, Bool.false_and]
      case isFalse hf =>
        by_cases hg : i = g
        · rw [hg, Bool.eq_false_iff.2 hf, Bool.and_false, Bool.or_false]
        · rw [beq_false_of_ne hg, Bool.false_and, Bool.or_false]
    rw [List.foldl_cons, ih, hm, List.contains_cons]
    cases f i <;> simp [Bool.or_assoc]

/-- The granules of a line named by a mask that is made from a test. -/
theorem badGranules_granulesOf (line : Nat) (f : Nat → Bool) :
    badGranules line (granulesOf f) = ((List.range 8).filter f).map fun i => line * 8 + i := by
  unfold badGranules
  congr 1
  refine List.filter_congr fun i hi => ?_
  have h8 := List.mem_range.1 hi
  rw [granulesOf, flag_foldl_granules f i h8]
  simp [h8]

end Sys2Proof.Machine
end

section
/-! SUPPORT. Nodes that end, and slices that are fenced (R178, R189, R462, R463). -/

namespace Sys2Proof.Machine

/-! ## The completion of a node (R177, R189) -/

@[simp] theorem State.putEvent_nodes (s : State) (port : Nat) (r : EvRec) : (s.putEvent port r).nodes = s.nodes := by
  simp only [State.putEvent, State.diripoSend, State.hostWrite_nodes]

@[simp] theorem State.holdOut_nodes (s : State) (port : Nat) (w : PortWrite) : (s.holdOut port w).nodes = s.nodes := rfl

@[simp] theorem State.event_nodes (s : State) (cid : Nat) (r : EvRec) : (s.event cid r).nodes = s.nodes := by
  unfold State.event State.eventOn State.eventFor
  extract_lets p
  split
  · rw [State.putEvent_nodes]
  · rw [State.holdOut_nodes]

theorem MemOnly.nodes {s t : State} (h : MemOnly s t) : t.nodes = s.nodes := by rw [h]

theorem TlbOnly.nodes {s t : State} (h : TlbOnly s t) : t.nodes = s.nodes := by rw [h]

/-- A release writes to memory alone. -/
theorem release_step (s : State) (t : Nat) : MemStep s (s.release t) := (drainThread_step s t).trans (domainRelease_step ..)

/-- What informs a node does not change one that does not wait. -/
theorem informNode_get (s : State) (n pred k : Nat) (bad : Bool) (h : (s.nodes.get k).st ≠ .waiting) :
    (s.informNode n pred bad).nodes.get k = s.nodes.get k := by
  by_cases hk : k = n
  · subst hk
    unfold State.informNode
    rw [if_neg fun w => h w.1]
  · unfold State.informNode
    extract_lets x hold
    split
    · split
      · split <;> exact Tab.get_set_other _ _ _ _ hk
      · exact Tab.get_set_other _ _ _ _ hk
    · rfl

/-- A node that does not wait stays as it is while others are informed. -/
theorem informNodes_get (l : Tab Node) (pred k : Nat) (bad : Bool) (s : State) (h : (s.nodes.get k).st ≠ .waiting) :
    (l.foldl (fun s e => s.informNode e.1 pred bad) s).nodes.get k = s.nodes.get k :=
  foldl_rel (fun s t => (s.nodes.get k).st ≠ .waiting → t.nodes.get k = s.nodes.get k) (fun _ _ => rfl)
    (fun s t u h1 h2 w => (h2 (by rw [h1 w]; exact w)).trans (h1 w)) _ (fun s e => informNode_get s e.1 pred k bad) l s h

/-- A node whose record need not wait ends, and keeps all else it holds. -/
theorem completeNode_get (s : State) (n : Nat) (h : s.recordWaits n = false) :
    (s.completeNode n).nodes.get n = { s.nodes.get n with st := .ended } := by
  unfold State.completeNode
  rw [h]
  extract_lets x die s1 s2 s3 s4
  have h1 : s1.nodes = s.nodes := by
    refine (MemStep.fold _ (fun s e => ?_) _ s).1.nodes
    split
    · exact release_step ..
    · exact .refl s
  have h2 : s2.nodes = s1.nodes := by
    unfold s2
    split
    · rfl
    · split
      case h_1 as t ht => 
        exact ((storeAccs_step ..).trans (domainRelease_step ..)).1.nodes.trans (accessLin_tlb ht).nodes
      case h_2 => rw [State.log_nodes]
  have h3 : s3.nodes.get n = { s.nodes.get n with st := .ended } := by
    rw [← h1, ← h2]; exact Tab.get_set_same _ _ _
  have h4 : s4.nodes.get n = s3.nodes.get n := informNodes_get _ _ _ _ _ (by rw [h3]; exact fun e => nomatch e)
  rw [if_neg Bool.false_ne_true, ← h3, ← h4]
  split
  · rw [State.event_nodes]
  · rfl

/-! ## Slices (R462, R463) -/

/-- The KV translation entries and the slices fenced are the same in `t` as in `s`. -/
def SlicesKept (s t : State) : Prop := t.ktm = s.ktm ∧ ∀ x, (t.die x).sliceBad = (s.die x).sliceBad

theorem SlicesKept.refl (s : State) : SlicesKept s s := ⟨rfl, fun _ => rfl⟩

theorem SlicesKept.of_dies {s t : State} (hk : t.ktm = s.ktm) (hd : t.dies = s.dies) : SlicesKept s t :=
  ⟨hk, fun x => congrArg Die.sliceBad (State.die_congr hd x)⟩

theorem SlicesKept.trans {s t u : State} (h : SlicesKept s t) (k : SlicesKept t u) : SlicesKept s u :=
  ⟨k.1.trans h.1, fun x => (k.2 x).trans (h.2 x)⟩

theorem SlicesKept.fold {α : Type} (f : State → α → State) (step : ∀ s a, SlicesKept s (f s a)) (l : List α) (s : State) : SlicesKept s (l.foldl f s) :=
  foldl_rel SlicesKept .refl (fun _ _ _ => .trans) f step l s

theorem log_slices (s : State) (d : Nat) (r : LogRec) : SlicesKept s (s.log d r) := by
  obtain ⟨h, hd⟩ := log_only s d r
  exact ⟨by rw [h], fun x => (congrArg Die.sliceBad (hd x) :)⟩

theorem chargeLine_slices (s : State) (d tag line : Nat) : SlicesKept s (s.chargeLine d tag line) := by
  unfold State.chargeLine
  extract_lets tag' s1 cid st hit s2
  have h1 : SlicesKept s s1 := .of_dies rfl rfl
  split
  · exact h1.trans (log_slices ..)
  · have h2 : SlicesKept s1 s2 := .fold _ (fun s e => by exact .of_dies rfl rfl) _ s1
    exact (h1.trans h2).trans (log_slices ..)

theorem hurtLine_slices (s : State) (d tag line : Nat) (granules : BitVec 8) : SlicesKept s (s.hurtLine d tag line granules) := by
  unfold State.hurtLine
  split
  · exact chargeLine_slices ..
  · refine SlicesKept.trans ?_ (chargeLine_slices ..)
    exact .of_dies rfl rfl

theorem LostOnly.slices {s t : State} (h : LostOnly s t) : SlicesKept s t := .of_dies (by rw [h]) (by rw [h])

theorem evictLlc_slices (s : State) (line : Nat) (bad : BitVec 8) : SlicesKept s (s.evictLlc line bad) := by
  unfold State.evictLlc
  extract_lets l s1
  have h1 : SlicesKept s s1 := by
    unfold s1
    split
    · exact (loseLine_only ..).slices
    · exact .of_dies rfl rfl
  split
  · exact .refl s
  · split
    · exact h1
    · exact h1.trans (hurtLine_slices ..)

theorem failAtomo_slices (s : State) (a : Atomo) (cause : Nat) : SlicesKept s (s.failAtomo a cause) := by
  unfold State.failAtomo
  dsimp only
  split <;> exact .of_dies rfl rfl

/-- Fencing a usable slice takes it from SLICES, and the KV translation entries with that slice go; the other slices of the die stay as they are. -/
theorem fenceSlice_fences (s : State) (d c : Nat) (bad : List Nat) (hb : (s.die d).sliceBad.get c = false) (hc : c < 32) :
    ((s.fenceSlice d c bad).die d).sliceBad = (s.die d).sliceBad.set c true ∧
    (s.fenceSlice d c bad).ktm = s.ktm.filter fun e => !(e.die == d && e.slot == c) := by
  unfold State.fenceSlice
  extract_lets lines units s1 s2 s3 s4
  rw [if_neg (by simp [hb, hc])]
  have h1 : SlicesKept s s1 := .fold _ (fun s l => evictLlc_slices ..) _ s
  have h3 : SlicesKept s2 s3 := .fold _ (fun s e => .fold _ (fun s a => failAtomo_slices ..) _ s) _ s2
  have h4 := log_slices s4 d { kind := 8, code := 0, unit := c, cid := none, addr := 0, node := 0 }
  refine ⟨?_, ?_⟩
  · rw [h4.2 d, show s4.die d = _ from State.die_setDie_same ..]
    exact congrArg (Tab.set · c true) ((h3.2 d).trans (h1.2 d))
  · rw [h4.1]
    exact h3.1.trans (congrArg (List.filter _) h1.1)

end Sys2Proof.Machine
end

section
/-! SUPPORT. The arbiter's periods (R466, R490) and the errors of an accumulator (R383, R462). -/

namespace Sys2Proof.Machine

/-! ## Power states -/

/-- Memory, threads and the period number are the same in `t` as in `s`, and of each die its presence and the power state asked for. -/
structure PowerKept (s t : State) : Prop where
  mem : t.mem = s.mem
  threads : t.threads = s.threads
  period : t.period = s.period
  psReq : ∀ x, (t.die x).psReq = (s.die x).psReq
  present : ∀ x, (t.die x).present = (s.die x).present

theorem PowerKept.refl (s : State) : PowerKept s s := ⟨rfl, rfl, rfl, fun _ => rfl, fun _ => rfl⟩

theorem PowerKept.trans {s t u : State} (h : PowerKept s t) (k : PowerKept t u) : PowerKept s u :=
  ⟨k.mem.trans h.mem, k.threads.trans h.threads, k.period.trans h.period, fun x => (k.psReq x).trans (h.psReq x), fun x => (k.present x).trans (h.present x)⟩

theorem PowerKept.fold {α : Type} (f : State → α → State) (step : ∀ s a, PowerKept s (f s a)) (l : List α) (s : State) : PowerKept s (l.foldl f s) :=
  foldl_rel PowerKept .refl (fun _ _ _ => .trans) f step l s

/-- An update of a die that leaves its presence and the power state asked for. -/
theorem PowerKept.setDie (s : State) (d : Nat) (f : Die → Die) (hr : ∀ x, (f x).psReq = x.psReq) (hp : ∀ x, (f x).present = x.present) :
    PowerKept s (s.setDie d f) :=
  ⟨rfl, rfl, rfl, s.setDie_keeps Die.psReq d f hr, s.setDie_keeps Die.present d f hp⟩

/-- A die has the power state asked for, or state 3 is asked for and a core of it is occupied (R490). -/
def State.powerSettled (s : State) (d : Nat) : Prop := (s.die d).psCur = (s.die d).psReq ∨ (s.die d).psReq = 3 ∧ s.dieBusy d = true

theorem State.dieBusy_congr {s t : State} (h : t.threads = s.threads) (d : Nat) : t.dieBusy d = s.dieBusy d := by simp only [State.dieBusy, h]

theorem powerStart_kept (s : State) (d : Nat) : PowerKept s (s.powerStart d) := by
  unfold State.powerStart
  extract_lets x off s1
  have h1 : PowerKept s s1 := by
    unfold s1
    split
    · exact ⟨rfl, rfl, rfl, fun _ => rfl, fun _ => rfl⟩
    · exact .refl s
  split
  · exact .refl s
  · split
    · split
      · exact .refl s
      · have hoff : PowerKept s off := .setDie s d _ (fun _ => by rfl) (fun _ => by rfl)
        exact ⟨hoff.mem, hoff.threads, hoff.period, hoff.psReq, hoff.present⟩
    · exact h1.trans (.setDie s1 d _ (fun _ => by rfl) (fun _ => by rfl))

/-- At the start of a period a die takes the power state asked for, unless that is 3 and a core is occupied. -/
theorem powerStart_settled (s : State) (d : Nat) : (s.powerStart d).powerSettled d := by
  unfold State.powerStart
  extract_lets x off s1
  by_cases hsame : x.psReq = x.psCur
  · rw [if_pos hsame]; exact .inl hsame.symm
  rw [if_neg hsame]
  by_cases h3 : x.psReq = 3
  · rw [if_pos h3]
    by_cases hb : s.dieBusy d = true
    · rw [if_pos hb]; exact .inr ⟨h3, hb⟩
    · rw [if_neg hb]
      have hoff : off.die d = { x with psCur := 3 } := State.die_setDie_same ..
      refine .inl ?_
      show (off.die d).psCur = (off.die d).psReq
      rw [hoff]
      exact h3.symm
  · rw [if_neg h3]
    refine .inl ?_
    rw [State.die_setDie_same]

/-- The start of a period on one die leaves another as it is. -/
theorem powerStart_other (s : State) (d e : Nat) (h : e ≠ d) : (s.powerStart d).die e = s.die e := by
  unfold State.powerStart
  extract_lets x off s1
  have h1 : s1.die e = s.die e := by unfold s1; split <;> rfl
  split
  · rfl
  · split
    · split
      · rfl
      · exact (State.die_congr (s := off) rfl e).trans (State.die_setDie_other _ _ _ _ h)
    · exact (State.die_setDie_other _ _ _ _ h).trans h1

/-- A die that has taken its power state keeps it while others take theirs. -/
theorem powerStart_keeps_settled (s : State) (d e : Nat) (h : s.powerSettled e) : (s.powerStart d).powerSettled e := by
  by_cases he : e = d
  · rw [he]; exact powerStart_settled s d
  · unfold State.powerSettled at *
    rwa [powerStart_other s d e he, State.dieBusy_congr (powerStart_kept s d).threads]

/-- Every die of a list has taken its power state once the period has started on each. -/
theorem powerStarts_settled (l : List Nat) (e : Nat) : ∀ s : State, e ∈ l ∨ s.powerSettled e → (l.foldl State.powerStart s).powerSettled e := by
  induction l with
  | nil => exact fun s h => h.resolve_left List.not_mem_nil
  | cons d l ih =>
    refine fun s h => ih _ ?_
    rcases h with h | h
    · rcases List.mem_cons.1 h with rfl | h
      · exact .inr (powerStart_settled s e)
      · exact .inl h
    · exact .inr (powerStart_keeps_settled s d e h)

/-- A new period: the period number rises, memory and threads stay, and each die present takes its power state. -/
theorem newPeriod_starts (s : State) (demand : List Nat) : let u := s.newPeriod demand; u.period = s.period + 1 ∧ u.mem = s.mem ∧ u.threads = s.threads ∧
    ∀ x, (s.die x).present = true → ((s.die x).psReq ≠ 3 → (u.die x).psCur = (s.die x).psReq) ∧
      ((s.die x).psReq = 3 → s.dieBusy x = false → (u.die x).psCur = 3) := by
  unfold State.newPeriod
  extract_lets gs s1 s2 u
  have h1 : PowerKept s s1 := .fold _ (fun s y => .setDie s y.1 _ (fun _ => by rfl) (fun _ => by rfl)) gs s
  have h2 : PowerKept s s2 := h1.trans (.fold _ powerStart_kept s1.presentDies s1)
  refine ⟨congrArg (· + 1) h2.period, h2.mem, h2.threads, fun x hx => ?_⟩
  have hset : s2.powerSettled x := powerStarts_settled _ x s1 (.inl (State.mem_presentDies ((h1.present x).trans hx)))
  unfold State.powerSettled at hset
  rw [h2.psReq x, State.dieBusy_congr h2.threads] at hset
  refine ⟨fun h => hset.resolve_right fun w => h w.1, fun h hb => ?_⟩
  exact (hset.resolve_right fun w => by rw [hb] at w; exact nomatch w.2).trans h

/-! ## Errors in an accumulator -/

/-- What meets an error in accumulator `k` of a thread: the command under way on it, or a word of MAT (R383). -/
def State.accMeets (s : State) (t k : Nat) : State :=
  match (s.thr t).curCmd with
  | some (b, c) => if b.started ∧ c.acc = k then s.consumeError t b c fun s => s.failError t b c else s.accWordError t k
  | none => s.accWordError t k

/-- A second error in an accumulator fences the core; a first one is noted when the accumulator is replayed. -/
theorem accError_eq (s : State) (t k : Nat) : s.accError t k =
    if (s.die (s.thr t).die).errAccs.contains ((s.thr t).core, k) then s.fenceCore (s.thr t).die (s.thr t).core
    else if (s.replayWindow t k).isSome then (s.accMeets t k).setDie (s.thr t).die fun x => { x with errAccs := x.errAccs ++ [((s.thr t).core, k)] }
    else s.accMeets t k := rfl

/-- Without a command under way on the accumulator a word of MAT meets the error. -/
theorem accMeets_word {s : State} {t k : Nat} (h : ∀ b c, ¬ ((s.thr t).curCmd = some (b, c) ∧ b.started = true ∧ c.acc = k)) :
    s.accMeets t k = s.accWordError t k := by
  unfold State.accMeets
  split
  case h_1 b c hc => rw [if_neg fun w => h b c ⟨hc, w⟩]
  case h_2 => rfl

/-- A command under way on the accumulator runs again from its first clock, if it has not done so and its window can be replayed. -/
theorem accMeets_command {s : State} {t k : Nat} {b : Batch} {c : MatCmd} {tile : Tile}
    (h : (s.thr t).curCmd = some (b, c) ∧ b.started = true ∧ c.acc = k) (hr : b.rerun = false) (hw : s.replayWindow t k = some tile) :
    s.accMeets t k = s.modThr t fun th => (th.setTile k tile).setBatch fun b => { b.idle with started := true, drawAt := b.drawAt, rerun := true } := by
  obtain ⟨hc, hs, rfl⟩ := h
  unfold State.accMeets State.consumeError
  simp [hc, hs, hr, hw]

/-- A word of MAT holds while the window is replayed. -/
theorem accWordError_replayed {s : State} {t k : Nat} {tile : Tile} (hw : s.replayWindow t k = some tile) : s.accWordError t k = s.replayed t k tile := by
  unfold State.accWordError; rw [hw]

/-- A word of MAT whose accumulator cannot be replayed raises UNCORRECTABLE, and an mstore under way on it ends. -/
theorem accWordError_raised {s : State} {t k : Nat} (hw : s.replayWindow t k = none)
    (hm : (s.thr t).move = none ∨ ∃ m, (s.thr t).move = some m ∧ m.acc = k ∧ m.load = false) :
    s.accWordError t k = (s.modThr t fun th => { th with move := none }).raise t .mat
      { code := .uncorrectable, estat := 0, addr := 0, openE := 0xFF, openA := true } := by
  unfold State.accWordError; rw [hw]
  refine congrArg (State.raise · t .mat _) (State.modThr_congr ?_)
  rcases hm with hm | ⟨m, hm, ha, hl⟩
  · simp only [hm]
  · simp [hm, ha, hl]

end Sys2Proof.Machine
end

section
/-! What the device does of its own and by its registers: each act by its case, and the statement O50 from them. -/

namespace Sys2Proof.Machine

/-! ## Nodes (R178) -/

theorem nctlRelease_held {s : State} {c n : Nat} (h : (s.nodes.get (nodeKey c n)).st = .held) :
    exec (.nctlRelease c n) s = .next (s.modNode (nodeKey c n) fun x => { x with st := .ready, entered := s.clk }) := by
  rw [exec_nctlRelease, execNctlRelease, State.releaseNode, if_pos h, State.readyNode]

theorem nctlRelease_other {s : State} {c n : Nat} (h : (s.nodes.get (nodeKey c n)).st ≠ .held) : exec (.nctlRelease c n) s = .next s := by
  rw [exec_nctlRelease, execNctlRelease, State.releaseNode, if_neg h]

theorem nctlCancel_unplaced {s : State} {c n : Nat} (h : (s.nodes.get (nodeKey c n)).st = .waiting ∨ (s.nodes.get (nodeKey c n)).st = .held ∨
      (s.nodes.get (nodeKey c n)).st = .ready) (hw : (s.modNode (nodeKey c n) fun x => { x with verdict := 5 }).recordWaits (nodeKey c n) = false) :
    ∃ u, exec (.nctlCancel c n) s = .next u ∧ u.nodes.get (nodeKey c n) = { s.nodes.get (nodeKey c n) with verdict := 5, st := .ended } := by
  have hc : s.cancelNode (nodeKey c n) = (s.modNode (nodeKey c n) fun x => { x with verdict := 5 }).completeNode (nodeKey c n) := by
    unfold State.cancelNode
    rcases h with h | h | h <;> rw [h]
  refine ⟨_, congrArg Host.Outcome.next hc, ?_⟩
  rw [completeNode_get _ _ hw]
  exact congrArg (fun x : Node => { x with st := .ended }) (Tab.get_set_same ..)

theorem nctlCancel_running {s : State} {c n : Nat} (h : (s.nodes.get (nodeKey c n)).st = .running) :
    exec (.nctlCancel c n) s = .next (s.stopNode (nodeKey c n) 5 0 none) := by
  rw [exec_nctlCancel, execNctlCancel, State.cancelNode, h]

theorem nctlCancel_past {s : State} {c n : Nat} (h : (s.nodes.get (nodeKey c n)).st.inFlight = false) : exec (.nctlCancel c n) s = .next s := by
  rw [exec_nctlCancel, execNctlCancel, State.cancelNode]
  split
  case h_5 => rfl
  all_goals next hs => rw [hs] at h; exact nomatch h

/-! ## Configuration registers (R7, R466 to R468, R486) -/

/-- PLIMIT takes the value written, held between 1,000 and 4,400 (R468). -/
theorem plimit_setPlimit (s : State) (v : Dword) : (s.setPlimit v).plimit = Nat.min 4400 (Nat.max 1000 (field v 0 16)) := by
  have hx : (s.setPlimit v).plimit = (plimitOf v).toNat := by
    simp only [State.plimit, State.setPlimit, BitVec.xor_assoc, BitVec.xor_self, BitVec.xor_zero]
  have hb : (plimitOf v).toNat = min 4400 (max 1000 (bits v 0 16).toNat) := by
    unfold plimitOf field
    split
    case isTrue h => exact (show 4400 = min 4400 (max 1000 (bits v 0 16).toNat) by omega)
    case isFalse h =>
      split
      case isTrue h2 => exact (show 1000 = min 4400 (max 1000 (bits v 0 16).toNat) by omega)
      case isFalse h2 => omega
  exact hx.trans hb

/-- ADMQ and ADMEV take their base and a ring size within their range (R486). -/
theorem cardWrite_rings (s : State) (d : Nat) (v : Dword) (h : isDiripo d 6 = true) :
    (∃ u, exec (.configRegisterWrite d 0x10100 v) s = .next u ∧ (u.admin.get (diripoKey d)).admq = ringReg v 4) ∧
    ∃ u, exec (.configRegisterWrite d 0x10108 v) s = .next u ∧ (u.admin.get (diripoKey d)).admev = ringReg v 7 := by
  constructor <;> refine ⟨_, rfl, ?_⟩ <;>
    simp [State.writeCard, h, Tab.mod, AdminPort.admq, AdminPort.admev]

/-! ## Caches (R258, R456, R463) -/

/-- Granules become poisoned at home. -/
def State.poisoned (s : State) (gs : List Nat) : State := { s with poison := setPoison s.poison gs }

theorem hurtLine_eq (s : State) (d tag line : Nat) (granules : BitVec 8) : s.hurtLine d tag line granules =
    (if s.paDown (line * 128) then s else s.poisoned (badGranules line granules)).chargeLine d tag line := rfl

/-- A remote-data line found uncorrectable is written back, its dirty granules as poison, unless their home is behind a link that is down. -/
theorem rdcEviction_hurt {s : State} {d line : Nat} {bad : BitVec 8} (hl : (s.rdc.get (rdcKey d line)).held = true) (hb : bad ≠ 0)
    (hd : (s.rdc.get (rdcKey d line)).dirty ≠ 0) : exec (.rdcEviction d line bad) s =
      .next ((if s.paDown (line * 128) then s.dropLine d line else (s.dropLine d line).poisoned
        (((List.range 8).filter (touches (s.rdc.get (rdcKey d line)).dirty)).map fun i => line * 8 + i)).chargeLine d
          ((s.rdc.get (rdcKey d line)).cid + 1) line) := by
  have hdies : (s.dropLine d line).dies = s.dies := by
    have h := (dropLine_step s d line).1
    generalize s.dropLine d line = t at h
    rw [h]
  rw [exec_rdcEviction, execRdcEviction, State.evictRdc]
  simp only [hl, hb, hd, Bool.not_true, Bool.false_eq_true, if_false, or_self]
  rw [hurtLine_eq, State.paDown_congr hdies, badGranules_granulesOf]

theorem rdcEviction_hurt_home {s : State} {d line : Nat} {bad : BitVec 8} (hl : (s.rdc.get (rdcKey d line)).held = true) (hb : bad ≠ 0)
    (hd : (s.rdc.get (rdcKey d line)).dirty ≠ 0) (h : ¬ s.paDown (line * 128) = true) : exec (.rdcEviction d line bad) s =
      .next (((s.dropLine d line).poisoned (((List.range 8).filter (touches (s.rdc.get (rdcKey d line)).dirty)).map fun i => line * 8 + i)).chargeLine d
        ((s.rdc.get (rdcKey d line)).cid + 1) line) := by
  rw [rdcEviction_hurt hl hb hd, if_neg h]

theorem rdcEviction_hurt_down {s : State} {d line : Nat} {bad : BitVec 8} (hl : (s.rdc.get (rdcKey d line)).held = true) (hb : bad ≠ 0)
    (hd : (s.rdc.get (rdcKey d line)).dirty ≠ 0) (h : s.paDown (line * 128) = true) :
    exec (.rdcEviction d line bad) s = .next ((s.dropLine d line).chargeLine d ((s.rdc.get (rdcKey d line)).cid + 1) line) := by
  rw [rdcEviction_hurt hl hb hd, if_pos h]

theorem rdcEviction_none {s : State} {d line : Nat} {bad : BitVec 8} (h : (s.rdc.get (rdcKey d line)).held = false) :
    exec (.rdcEviction d line bad) s = .next s := congrArg Host.Outcome.next (if_pos (by rw [h]; rfl))

theorem rdcEviction_sound {s : State} {d line : Nat} {bad : BitVec 8} (hl : (s.rdc.get (rdcKey d line)).held = true)
    (h : bad = 0 ∨ (s.rdc.get (rdcKey d line)).dirty = 0) : exec (.rdcEviction d line bad) s = .next (s.dropLine d line) :=
  congrArg Host.Outcome.next ((if_neg (by rw [hl]; exact Bool.false_ne_true)).trans (if_pos h))

/-- What remains once a dirty line of a slice has gone: to home memory, or nowhere behind a link that is down (R488). -/
def State.lineGone (s : State) (line : Nat) : State := if s.paDown (line * 128) then s.loseLine line else { s with llc := s.llc.set line default }

theorem State.lineGone_dies (s : State) (line : Nat) : (s.lineGone line).dies = s.dies := by
  unfold State.lineGone
  split
  · exact (loseLine_only s line).dies
  · rfl

/-- A line found uncorrectable as it is evicted from a slice goes home as poison and is charged. -/
theorem evictLlc_hurt {s : State} {line : Nat} {bad : BitVec 8} (ht : (s.llc.get line).tag ≠ 0) (hb : bad ≠ 0) : s.evictLlc line bad =
    (if s.paDown (line * 128) then s.lineGone line else (s.lineGone line).poisoned (badGranules line (s.llc.get line).dirty)).chargeLine
      (homeOf (line * 128)) (s.llc.get line).tag line := by
  have h : s.evictLlc line bad = (s.lineGone line).hurtLine (homeOf (line * 128)) (s.llc.get line).tag line (s.llc.get line).dirty := by
    rw [State.evictLlc, if_neg ht]; exact if_neg hb
  rw [h, hurtLine_eq, State.paDown_congr (s.lineGone_dies line)]

theorem evictLlc_sound {s : State} {line : Nat} (ht : (s.llc.get line).tag ≠ 0) : s.evictLlc line 0 = s.lineGone line := by
  rw [State.evictLlc, if_neg ht]; exact if_pos rfl

theorem evictLlc_none {s : State} {line : Nat} {bad : BitVec 8} (ht : (s.llc.get line).tag = 0) : s.evictLlc line bad = s := by
  rw [State.evictLlc]; exact if_pos ht

/-- An error that no context can be named for is logged without one, and charges nobody (R463). -/
theorem chargeLine_unnamed {s : State} {d tag line : Nat} (h : s.choice.head? = some true ∨ tag ≤ 1) : s.chargeLine d tag line =
    ({ s with choice := s.choice.tail } : State).log d { kind := 3, code := 0x51, unit := 0, cid := none, addr := line * 128, node := 0 } := by
  have ht : (if s.choice.head?.getD false = true then 0 else tag) ≤ 1 := by
    rcases h with h | h
    · rw [h]; exact Nat.zero_le 1
    · split
      · exact Nat.zero_le 1
      · exact h
  unfold State.chargeLine
  exact if_pos (.inl ht)

/-! ## Counts (R455, R464, R467) -/

/-- A correctable error adds 1 to CECC, which saturates, and to nothing else. -/
theorem countError_counts (s : State) (d : Nat) : bits ((s.countError d).die d).elcnt 32 32 = bits (s.die d).elcnt 32 32 ∧
    (bits ((s.countError d).die d).elcnt 0 32).toNat = Nat.min (2 ^ 32 - 1) ((bits (s.die d).elcnt 0 32).toNat + 1) ∧
    ∀ x, x ≠ d → (s.countError d).die x = s.die x := by
  refine ⟨?_, ?_, fun x hx => State.die_setDie_other _ _ _ _ hx⟩
  · rw [State.countError, State.die_setDie_same]
    exact (Laws.bits_cat_hi _ _ 32 32 (by decide) (by decide)).trans (by simp)
  · rw [State.countError, State.die_setDie_same, ← saturating_toNat]
    exact congrArg BitVec.toNat ((Laws.bits_cat_lo _ _ 0 32 (by decide) (by decide)).trans (Laws.bits_all _))

/-- A die that freezes counts it, and the count saturates. -/
theorem dieFreeze_freezes {s : State} {d : Nat} (hp : (s.die d).present = true) (hf : (s.die d).frozen = false) :
    ∃ u, exec (.dieFreeze d) s = .next u ∧ (u.die d).frozen = true ∧ (u.die d).frozenCnt.toNat = Nat.min (2 ^ 32 - 1) ((s.die d).frozenCnt.toNat + 1) := by
  refine ⟨_, congrArg Host.Outcome.next (if_neg (by simp [hp, hf])), ?_⟩
  rw [State.die_setDie_same]
  exact ⟨rfl, saturating_toNat _⟩

theorem dieFreeze_idle {s : State} {d : Nat} (h : (s.die d).present = false ∨ (s.die d).frozen = true) : exec (.dieFreeze d) s = .next s :=
  congrArg Host.Outcome.next (if_pos (by simpa using h))

/-! ## Fences (R462) -/

/-- A slice fenced is one of SLICES no more, and only that one. -/
theorem fenceSlice_takes (s : State) (d c : Nat) (lines : List Nat) (hb : (s.die d).sliceBad.get c = false) (hc : c < 32) :
    ∃ u, exec (.fenceSlice d c lines) s = .next u ∧ (u.die d).sliceBad.get c = true ∧ (∀ e ∈ u.ktm, ¬ (e.die = d ∧ e.slot = c)) ∧
      ∀ j, j ≠ c → (u.die d).sliceBad.get j = (s.die d).sliceBad.get j := by
  obtain ⟨hbad, hktm⟩ := fenceSlice_fences s d c lines hb hc
  refine ⟨_, rfl, ?_, fun e he => ?_, fun j hj => ?_⟩
  · rw [hbad, Tab.get_set_same]
  · rw [hktm] at he
    simpa [imp_iff_not_or] using (List.mem_filter.1 he).2
  · rw [hbad, Tab.get_set_other _ _ _ _ hj]

theorem fenceSlice_idle {s : State} {d c : Nat} {lines : List Nat} (h : (s.die d).sliceBad.get c = true ∨ 32 ≤ c) : exec (.fenceSlice d c lines) s = .next s :=
  congrArg Host.Outcome.next (if_pos h)

/-- An error in a dirty line of a slice: the first is noted, a second one in the same line fences the slice. -/
theorem llcLineEviction_hurt {s : State} {line : Nat} {bad : BitVec 8} (ht : (s.llc.get line).tag ≠ 0) (hb : bad ≠ 0) :
    ((s.die (homeOf (line * 128))).errLines.contains line = false → exec (.llcLineEviction line bad) s =
      .next ((s.evictLlc line bad).setDie (homeOf (line * 128)) fun x => { x with errLines := x.errLines ++ [line] })) ∧
    ((s.die (homeOf (line * 128))).errLines.contains line = true → exec (.llcLineEviction line bad) s =
      .next ((s.evictLlc line bad).fenceSlice (homeOf (line * 128)) (s.sliceOf (line * 128)) [])) := by
  rw [exec_llcLineEviction, execLlcLineEviction, State.lineError]
  constructor <;> intro h <;> simp only [ht, hb, h, or_self, if_false, if_true, Bool.false_eq_true]

/-- An eviction that finds no error, or no line, is no error of the line's place. -/
theorem llcLineEviction_sound {s : State} {line : Nat} {bad : BitVec 8} (h : bad = 0 ∨ (s.llc.get line).tag = 0) :
    exec (.llcLineEviction line bad) s = .next (s.evictLlc line bad) := congrArg Host.Outcome.next (if_pos h)

/-! ## Uncorrectable errors (R383, R455, R456) -/

theorem engineOf_engCode (e : Engine) : engineOf (engCode e) = e := by cases e <;> rfl

/-- An engine that consumes an error raises UNCORRECTABLE. -/
theorem uncorrectable_engine {s : State} {t : Nat} (e : Engine) (h : (s.thr t).active = true) :
    exec (.uncorrectableError (.engine t (engCode e))) s =
      .next (s.raise t e { code := .uncorrectable, estat := 0, addr := 0, openE := -1, openA := true }) := by
  rw [exec_uncorrectableError, execUncorrectableError, engineOf_engCode, if_pos h]

/-- An error in an accumulator of a thread that executes words. -/
theorem uncorrectable_acc {s : State} {t : Nat} (k : Nat) (h : (s.thr t).active = true) :
    exec (.uncorrectableError (.acc t k)) s = .next (s.accError t k) := congrArg Host.Outcome.next (if_pos h)

/-- A granule of a line that the cache holds becomes poisoned there. -/
theorem uncorrectable_cached {s : State} {d g : Nat} (h : (s.rdc.get (rdcKey d (g / 8))).held = true) : exec (.uncorrectableError (.cached d g)) s =
    .next (({ s with rdc := s.rdc.set (rdcKey d (g / 8)) { s.rdc.get (rdcKey d (g / 8)) with
      bad := (s.rdc.get (rdcKey d (g / 8))).bad ||| BitVec.ofNat 8 (2 ^ (g % 8)) } } : State).log d
        { kind := 2, code := 0, unit := 0, cid := none, addr := g * 16, node := 0 }) :=
  congrArg Host.Outcome.next (if_neg (by simp [h]))

section
variable {s : State} {t k : Nat} (hfirst : (s.die (s.thr t).die).errAccs.contains ((s.thr t).core, k) = false)
include hfirst

theorem accError_replayable {tile : Tile} (hw : s.replayWindow t k = some tile) : s.accError t k =
    (s.accMeets t k).setDie (s.thr t).die fun x => { x with errAccs := x.errAccs ++ [((s.thr t).core, k)] } := by
  rw [accError_eq, hfirst, hw]; rfl

theorem accError_unreplayable (hw : s.replayWindow t k = none) : s.accError t k = s.accMeets t k := by
  rw [accError_eq, hfirst, hw]; rfl

end

theorem accError_second {s : State} {t k : Nat} (h : (s.die (s.thr t).die).errAccs.contains ((s.thr t).core, k) = true) :
    s.accError t k = s.fenceCore (s.thr t).die (s.thr t).core := by
  rw [accError_eq, if_pos h]

/-! ## The statement -/

/-- Settles O50 from the lemmas on each act's cases. The clauses that `rfl` closes are those of PENDCTL and PSTATE, of the plain registers, and of poison in memory
and scratchpad, whose updates the statement writes out as the model does. -/
theorem errorsFencesAndPower : Obligations.ErrorsFencesAndPower := by
  intro s c n d g line t k v bad demand lines e
    D key N cancelled l L down H loc home gone noted poisoned rec_ unc under line_ marked first reg
  refine ⟨nctlRelease_held, nctlRelease_other, nctlCancel_unplaced, nctlCancel_running, nctlCancel_past, rfl,
    fenceSlice_takes s d c lines, fenceSlice_idle, rfl, rfl, rfl, rfl, rfl, rfl, ⟨_, rfl, plimit_setPlimit s v⟩, cardWrite_rings s d v,
    ?plain, rdcEviction_none, rdcEviction_sound,
    fun hl hb hd => ⟨rdcEviction_hurt_home hl hb hd, rdcEviction_hurt_down hl hb hd⟩, ?llcNone, ?llcSound, ?llcHurt, fun tag => chargeLine_unnamed,
    ⟨_, rfl, countError_counts s d⟩, rfl, ?scrub, ?scrubSound, ?cached, rfl, uncorrectable_engine e, ?second, ?wordReplayed, ?wordRaised, ?commandReplayed, ?copy, ⟨_, rfl, newPeriod_starts s demand⟩,
    dieFreeze_freezes, dieFreeze_idle, ?noExpander, ?expander⟩
  case plain => exact fun m hm => by fin_cases hm <;> rfl
  case llcNone => exact fun h => (llcLineEviction_sound (.inr h)).trans (by rw [evictLlc_none h])
  case llcSound => exact fun h hb => (llcLineEviction_sound (.inl hb)).trans (by rw [hb, evictLlc_sound h]; rfl)
  case llcHurt =>
    intro hurt ht hb
    have hh : s.evictLlc line bad = hurt := evictLlc_hurt ht hb
    rw [← hh]
    exact llcLineEviction_hurt ht hb
  case scrub => exact fun h hm => congrArg Host.Outcome.next (if_pos ⟨rfl, h, hm⟩)
  case scrubSound => exact congrArg Host.Outcome.next (if_neg fun h => nomatch h.1)
  case cached =>
    rintro hl rfl
    exact uncorrectable_cached hl
  case second => exact fun ha h => (uncorrectable_acc k ha).trans (congrArg _ (accError_second h))
  case wordReplayed =>
    rintro ⟨ha, hf⟩ hu tile hw
    rw [uncorrectable_acc k ha, accError_replayable hf hw, accMeets_word hu, accWordError_replayed hw]
  case wordRaised =>
    rintro ⟨ha, hf⟩ hu hw hm
    rw [uncorrectable_acc k ha, accError_unreplayable hf hw, accMeets_word hu, accWordError_raised hw hm]
  case commandReplayed =>
    rintro ⟨ha, hf⟩ b x tile hu hr hw
    rw [uncorrectable_acc k ha, accError_replayable hf hw, accMeets_command hu hr hw]
  case copy => exact ⟨_, rfl, rfl, Tab.get_set_same .., fun j hj => Tab.get_set_other _ _ _ _ hj⟩
  case noExpander => exact fun h => congrArg Host.Outcome.next (if_pos h)
  case expander => exact fun h => congrArg Host.Outcome.next (if_neg h)

end Sys2Proof.Machine
end

section
/-! SUPPORT. The decoder reads what the encoder writes (R57 to R63). -/

namespace Sys2Proof.Laws.RoundTrip
open Sys2Proof Sys2Proof.Machine Sys2Proof.Laws

/-- Every constructor has its member of the family. -/
theorem statement (i : Instr) : Statement i :=
  Instr.casesOn i
    add sub and or xor andn shl shr sra slt sltu min max minu maxu mul mulh mulhu div divu rem remu clz ctz popc addi andi ori xori shli shri srai
    slti sltiu lui auipc ldB ldBu ldH ldHu ldW ldWu ldD stB stH stW stD cmpEq cmpNe cmpLt cmpGe cmpLtu cmpGeu cmpiEq cmpiNe cmpiLt cmpiGe cmpiLtu
    cmpiGeu pand por pxor pandn pnot pmov br jal jalr loop loopRot loopi loopiRot passBoundary rot qpush qpop fmt fmtQ mark join rdsr wrsr sel nop brk
    capt tld tldQ tst tstQ gld gldQ gst gstQ vld vst sld sldRow sst sstRow atomAdd atomMin atomMax atomAnd atomOr atomXor atomXchg atomCas atomoAdd
    atomoMin atomoMax atomoAnd atomoOr atomoXor atomoXchg atomoCas prefL prefT fenceAcq fenceRel fenceFull hwait hwaitSt ldq adrFaultTrap vintAdd
    vintSub vintMul vintMulh vintAnd vintOr vintXor vintAndn vintShl vintShr vintSra vintMin vintMax vintAbs vintNeg vfltAdd vfltSub vfltMul vfltDiv
    vfltMin vfltMax vfltAbs vfltNeg vfmaFma vfmaFms vfmaFnma vfmaFnms vcmpEq vcmpNe vcmpLt vcmpLe vcmpGt vcmpGe vcmpUn vcvtTo vcvtFrom vcvtF2i vcvtI2f
    vcvtU2f vredSum vredMax vredMin vredArgmax vredArgmin vredSumQ vredMaxQ vredMinQ vredArgmaxQ vredArgminQ vscanSum vscanMax vscanMin vscanSumX
    vscanMaxX vscanMinX vpermIdx vpermRot vpermBc vsel vsfuExp2 vsfuLog2 vsfuRcp vsfuRsqrt vsfuSqrt vmovSplat vmovIns vmovExt vmovMv vcomp vqntC
    vqntCr vqntG vqntGr vdqnt vdqntAcc vrandU vrandF vmaskAnd vmaskOr vmaskXor vmaskAndn vmaskNot vmaskMov vmaskFirst vmaskCnt vqin vqinQ5 vqinS vqout
    vqoutQ11 viotaIdx viotaCnt mma mmas mmat mdist mtopk mzero mload mstore mrdRow mrdCol mrdRck mrdCck mwrRow mwrCol mwrRck mwrCck mcommit mwait
    mwaitAcc mcks mfix arrayCommandStart arrayCommandRetire xcopy xcopyT xcopyS xput xputT xgath xscatO xscatAdd xscatMax xscatMin xpack xpackK1
    xpackS xhalo xfill xrel xabort copyUnitLands haloArrival lyset lysetGet reshard collSum collMax collMin collAmerge collRing ranks rkinv fwait
    fwaitSlot resid fabort collStep collWatchdogExpiry reshardExchangeComplete kvmap kvmapNew kvmapUn kvlock kvlockUn kvapp kvroll patt mprog meval
    cent csel retn retnQ sieve await awaitAbort mcntClr pattDone centKeyUpdate sieveCompact bar barArr barWt cbarInit cbarAdd cbarWait cbarTake
    cbarFree sbarP sbarC sbarArrivalEffect ring ringRel phaseNew phaseRd phaseWr tklend tkret tksplit tkjoin tkshare tkunsh tkrecl tokenWaitResume rwb
    rinv launch cwait cwaitAll seedPush seedPop seedFork trap resumeWait resumeAbort eret tlbiVa tlbiTen tlbiCtx tlbiAll tlbiAcknowledge replay ctxsv
    ctxld waitGeu waitEq waitNe waitLtu waitSb memoryWaitRecheck halt wrcfg rdcfg pwrSt pwrHint fetch markerReachesHead queueDeadlock
    scratchpadWritePerform ninesCompare trapTakenUser trapTakenSystem gangPreempt gangSaved gangRestore gangDispatch gangStart reservationTimeout
    reservationDrop childBoostTimeout nodeEnding nodeCompletionRecord launchPacket graphPacket seedPushPacket seedPopPacket seedForkPacket waitPacket
    waitPacketPoll signalPacket signalWrite reshardOnBehalf contextCreate contextStop contextStart contextDestroy contextFreed resumeThread qattach
    qdetach qtailWrite evconsWrite nctlRelease nctlCancel migcmdWrite migrationStart migrationFinish tkcmdCreate tkcmdDestroy parkRingWrite
    pendctlWrite lnkctlRetrain lnkctlDisable lnkctlEnable lnkctlClear fenceCore fenceSlice pstateWrite configRegisterWrite homeLoss atomoArrival
    atomoRetry atomoLineStall rdcEviction correctableError uncorrectableError patrolScrub arbiterPeriod dieFreeze flitReceive linkTrained
    linkTrainingFailed linkReplayLimit laneLost linkRetrainTimeout peerDown routeTablesInForce cxlLinkDown powerOn sidebandReset bringUp diePresent
    sidebandInventory sidebandAttest sidebandPowerRead sidebandPlimitWrite sidebandPstateWrite sidebandLog malformedPacket memoryAccessPerformed
    llcLineEviction slicePartialAttention reshardPairCopy

end Sys2Proof.Laws.RoundTrip

namespace Sys2Proof.Machine

theorem decode_encode {i : Instr} {w : Word} (h : i.wf = true) (e : encode i = some w) : decode w = .ok i := Laws.RoundTrip.statement i h w e

/-- A word that decodes is read from the operation table's numbering too. -/
theorem decodeTableWord_of_decode {w : Word} {i : Instr} (h : decode w = .ok i) : decodeTableWord 32 w.toNat = some i := by
  rw [decodeTableWord, if_pos ⟨rfl, w.isLt⟩, BitVec.ofNat_toNat, BitVec.setWidth_eq, h]

/-- The encoder leaves out the rows without an encoding, and no other. -/
theorem isNone_encode (i : Instr) : (encode i).isNone = i.wordless := by cases i <;> rfl

/-- Settles O55: the family `RoundTrip` gives the first clause, from which the next two follow. -/
theorem decodeReadsWhatEncodeWrites : Obligations.DecodeReadsWhatEncodeWrites := by
  refine ⟨fun i w => decode_encode, fun i j w hi hj ei ej => ?_, fun i w hi ei => decodeTableWord_of_decode (decode_encode hi ei), fun i => ?_⟩
  · exact Except.ok.inj ((decode_encode hi ei).symm.trans (decode_encode hj ej))
  · rw [← isNone_encode, Option.isNone_iff_eq_none]

end Sys2Proof.Machine
end

section
/-! SUPPORT. Words and constants with a fixed reading (R57 to R63, R65), and that every instruction answers a next state (R60, R126, R162). -/

namespace Sys2Proof.Machine

/-! ## The spec's words -/

/-- Settles O54: each word decodes as it is given. -/
theorem specWordsDecodeToTheirInstruction : Obligations.SpecWordsDecodeToTheirInstruction := by
  unfold Obligations.SpecWordsDecodeToTheirInstruction
  decide

/-! ## The fixed names -/

theorem Thread.ws_zero (th : Thread) (e : Engine) (v : Dword) : th.ws e 0 v = th := rfl

theorem Thread.wp_zero (th : Thread) (b : Bool) : th.wp 0 b = th := rfl

theorem Thread.wm_zero (th : Thread) (x : Mask) : th.wm 0 x = th := rfl

/-- What an update of threads leaves of each, it leaves of every thread of the state. -/
theorem State.modThr_keeps {α : Type} (g : Thread → α) (s : State) (t : Nat) (f : Thread → Thread) (h : ∀ x, g (f x) = g x) (v : Nat) :
    g ((s.modThr t f).thr v) = g (s.thr v) := by
  by_cases hv : v = t
  · rw [hv, State.thr_modThr_same, h]
  · rw [State.thr_modThr_other _ _ _ _ hv]

/-- Tainting a thread leaves the current thread's scalars. -/
@[simp] theorem State.me_s_taint (s : State) (t : Nat) (e : Engine) (r : BitVec 8) : (s.taint t e r).me.s = s.me.s :=
  State.modThr_keeps Thread.s s t (fun th => { th with contrib := th.contrib.join { rank := 2, reason := r, pc := (s.thr t).pc e, clk := s.clk } })
    (fun _ => rfl) s.cur

/-- What a read taints changes neither memory nor a scalar. -/
theorem readTaint_keeps (s : State) (t : Nat) (e : Engine) (poison piece : Bool) : (s.readTaint t e poison piece).me.s = s.me.s ∧
    (s.readTaint t e poison piece).mem = s.mem ∧ (s.readTaint t e poison piece).rdc = s.rdc := by
  cases poison <;> cases piece <;> simp [State.readTaint]

/-- An address below 2^57 that its size divides passes SEQ's checks (R91). -/
theorem seqCheck_ok {s : State} {a : BitVec 6} {o : BitVec 9} {size ea : Nat} {write : Bool} (h : ((s.me.rs .seq a).toNat : Int) + o.toInt * size = ea)
    (hlt : ea < 2 ^ 57) (hal : ea % size = 0) : seqCheck s a o size write = .ok ea := by
  have hea : seqAddr s a o size = ea := h
  simp only [seqCheck, hea, Int.toNat_natCast]
  rw [if_neg (by omega), if_neg (by omega)]

/-- A pop moves its queue's head, whatever becomes of the value (R108). -/
theorem qpop_pops {s : State} {q : BitVec 4} {v : Dword} {rest : List Dword} (d : BitVec 6) (h : s.me.qs.get q.toNat = v :: rest) :
    Does .seq (.qpop d q) s (s.modMe fun th => (th.dropS q.toNat).ws .seq d v) :=
  does_of_ok (exec_qpop d q s) (by rw [h])

/-- A load of SEQ that passes its checks completes with the bytes read, extended (R90). -/
theorem does_seqLoad {i : Instr} {s s' : State} {d a : BitVec 6} {o : BitVec 9} {size ea : Nat} {ext : Nat → Dword} {as : List Acc}
    (hi : exec i s = seqLoad size ext d a o s) (h : ((s.me.rs .seq a).toNat : Int) + o.toInt * size = ea) (hlt : ea < 2 ^ 57) (hal : ea % size = 0)
    (hacc : s.accessLin (s.issuer s.cur .seq) ea size false 0 = .ok (as, s')) :
    let w := s.issuer s.cur .seq
    let got := s'.loadAccs w as
    Does .seq i s ((got.2.readTaint s'.cur .seq got.1.2 (s'.accsTaint w as)).putS d (ext (leNat got.1.1))) := by
  refine does_of_ok hi ?_
  rw [seqCheck_ok h hlt hal]
  show (liftMem s _ >>= _) = _
  rw [hacc]
  rfl

/-- Settles O57: the write that a pop or a load would make to s0 is the only effect that is missing. -/
theorem fixedNamesReadTheirConstants : Obligations.FixedNamesReadTheirConstants := by
  intro s s1 e v b x q a o ea as rest th w
  refine ⟨rfl, rfl, th.rm_zero, th.ws_zero e v, th.wp_zero b, th.wm_zero x, qpop_pops 0, fun h hlt hal hacc => ?_⟩
  refine (does_seqLoad (exec_ldD 0 a o s) h hlt hal hacc).ends ?_
  obtain ⟨-, -, -, -, htlb, -⟩ := (accessLin_tlb hacc).keeps
  obtain ⟨-, -, -, hmem, -⟩ := (loadAccs_step w as s1).1.keeps
  obtain ⟨hs, hm, hr⟩ := readTaint_keeps (s1.loadAccs w as).2 s1.cur .seq (s1.loadAccs w as).1.2 (s1.accsTaint w as)
  refine ⟨?_, hm, hr⟩
  rw [State.me_putS, Thread.ws_zero, hs, hmem, htlb]

/-! ## A next state in every state -/

theorem goes_next (s : State) : Goes (.next s) := ⟨s, rfl⟩

theorem passBoundary_goes (t : Nat) (s : State) : Goes (exec (.passBoundary t) s) := by
  rw [exec_passBoundary, execPassBoundary]
  split
  · split <;> exact goes_next _
  · exact goes_next _

theorem adrFaultTrap_goes (t : Nat) (s : State) : Goes (exec (.adrFaultTrap t) s) := by
  rw [exec_adrFaultTrap, execAdrFaultTrap]
  split
  · split <;> exact goes_next _
  · exact goes_next _

theorem atomoArrival_goes (t : Nat) (s : State) : Goes (exec (.atomoArrival t) s) := by
  rw [exec_atomoArrival, execAtomoArrival]
  split <;> exact goes_next _

theorem atomoRetry_goes (t : Nat) (s : State) : Goes (exec (.atomoRetry t) s) := by
  rw [exec_atomoRetry, execAtomoRetry]
  split <;> exact goes_next _

theorem atomoLineStall_goes (line : Nat) (s : State) : Goes (exec (.atomoLineStall line) s) := by
  rw [exec_atomoLineStall, execAtomoLineStall]
  split <;> exact goes_next _

/-- A token word that resumes ends as it does at its engine's turn. -/
theorem tokenWaitResume_goes (t : Nat) (s : State) : Goes (exec (.tokenWaitResume t) s) := by
  rw [exec_tokenWaitResume, execTokenWaitResume]
  split
  · exact goes_next _
  · split
    · split
      · split
        · exact finish_next ..
        · split
          · exact finish_next ..
          · exact goes_next _
      · exact goes_next _
    · exact goes_next _

theorem eret_goes (s : State) : Goes (exec .eret s) := by
  rw [exec_eret, execEret]
  split
  · exact finish_next ..
  · extract_lets
    split <;> exact goes_next _

theorem halt_goes (s : State) : Goes (exec .halt s) := by
  rw [exec_halt, execHalt]
  split <;> exact goes_next _

/-- The four ways to answer: words that cannot but complete or trap, words that complete, wait or trap as their operands say, device steps and outside acts with
one answer, and the rest, which distinguish cases of their own. -/
theorem exec_goes (i : Instr) (s : State) : Goes (exec i s) := by
  cases i with
  | add | sub | and | or | xor | andn | shl | shr | sra | slt | sltu | min | max | minu | maxu | mul | mulh | mulhu | div | divu | rem | remu | clz |
  ctz | popc | addi | andi | ori | xori | shli | shri | srai | slti | sltiu | lui | auipc | cmpEq | cmpNe | cmpLt | cmpGe | cmpLtu | cmpGeu | cmpiEq |
  cmpiNe | cmpiLt | cmpiGe | cmpiLtu | cmpiGeu | pand | por | pxor | pandn | pnot | pmov | br | jal | jalr | rot | mark | join | rdsr | wrsr | sel |
  nop | brk | vintAdd | vintSub | vintMul | vintMulh | vintAnd | vintOr | vintXor | vintAndn | vintShl | vintShr | vintSra | vintMin | vintMax |
  vintAbs | vintNeg | vpermIdx | vpermRot | vpermBc | vsel | vmovSplat | vmovIns | vmovMv | vmaskAnd | vmaskOr | vmaskXor | vmaskAndn | vmaskNot |
  vmaskMov | vmaskFirst | viotaIdx | viotaCnt | fabort | mcntClr | trap | rdcfg | pwrSt => exact goes_next _
  | ldB | ldBu | ldH | ldHu | ldW | ldWu | ldD | stB | stH | stW | stD | loop | loopRot | loopi | loopiRot | qpush | qpop | fmt | fmtQ | capt | tld |
  tldQ | tst | tstQ | gld | gldQ | gst | gstQ | vld | vst | sld | sldRow | sst | sstRow | atomAdd | atomMin | atomMax | atomAnd | atomOr | atomXor |
  atomXchg | atomCas | atomoAdd | atomoMin | atomoMax | atomoAnd | atomoOr | atomoXor | atomoXchg | atomoCas | prefL | prefT | fenceAcq | fenceRel |
  fenceFull | hwait | hwaitSt | ldq | vfltAdd | vfltSub | vfltMul | vfltDiv | vfltMin | vfltMax | vfltAbs | vfltNeg | vfmaFma | vfmaFms | vfmaFnma |
  vfmaFnms | vcmpEq | vcmpNe | vcmpLt | vcmpLe | vcmpGt | vcmpGe | vcmpUn | vcvtTo | vcvtFrom | vcvtF2i | vcvtI2f | vcvtU2f | vredSum | vredMax |
  vredMin | vredArgmax | vredArgmin | vredSumQ | vredMaxQ | vredMinQ | vredArgmaxQ | vredArgminQ | vscanSum | vscanMax | vscanMin | vscanSumX |
  vscanMaxX | vscanMinX | vsfuExp2 | vsfuLog2 | vsfuRcp | vsfuRsqrt | vsfuSqrt | vmovExt | vcomp | vqntC | vqntCr | vqntG | vqntGr | vdqnt | vdqntAcc
  | vrandU | vrandF | vmaskCnt | vqin | vqinQ5 | vqinS | vqout | vqoutQ11 | mma | mmas | mmat | mdist | mtopk | mzero | mload | mstore | mrdRow |
  mrdCol | mrdRck | mrdCck | mwrRow | mwrCol | mwrRck | mwrCck | mcommit | mwait | mwaitAcc | mcks | mfix | xcopy | xcopyT | xcopyS | xput | xputT |
  xgath | xscatO | xscatAdd | xscatMax | xscatMin | xpack | xpackK1 | xpackS | xhalo | xfill | xrel | xabort | lyset | lysetGet | reshard | collSum |
  collMax | collMin | collAmerge | collRing | ranks | rkinv | fwait | fwaitSlot | resid | kvmap | kvmapNew | kvmapUn | kvlock | kvlockUn | kvapp |
  kvroll | patt | mprog | meval | cent | csel | retn | retnQ | sieve | await | awaitAbort | bar | barArr | barWt | cbarInit | cbarAdd | cbarWait |
  cbarTake | cbarFree | sbarP | sbarC | ring | ringRel | phaseNew | phaseRd | phaseWr | tklend | tkret | tksplit | tkjoin | tkshare | tkunsh | tkrecl
  | rwb | rinv | launch | cwait | cwaitAll | seedPush | seedPop | seedFork | resumeWait | resumeAbort | tlbiVa | tlbiTen | tlbiCtx | tlbiAll | replay
  | ctxsv | ctxld | waitGeu | waitEq | waitNe | waitLtu | waitSb | wrcfg | pwrHint => exact finish_next ..
  | arrayCommandStart | arrayCommandRetire | copyUnitLands | haloArrival | collStep | collWatchdogExpiry | reshardExchangeComplete | pattDone |
  centKeyUpdate | sieveCompact | sbarArrivalEffect | tlbiAcknowledge | memoryWaitRecheck | fetch | markerReachesHead | queueDeadlock |
  scratchpadWritePerform | ninesCompare | trapTakenUser | trapTakenSystem | gangPreempt | gangSaved | gangRestore | gangDispatch | gangStart |
  reservationTimeout | reservationDrop | childBoostTimeout | nodeEnding | nodeCompletionRecord | launchPacket | graphPacket | seedPushPacket |
  seedPopPacket | seedForkPacket | waitPacket | waitPacketPoll | signalPacket | signalWrite | reshardOnBehalf | contextCreate | contextStop |
  contextStart | contextDestroy | contextFreed | resumeThread | qattach | qdetach | qtailWrite | evconsWrite | nctlRelease | nctlCancel | migcmdWrite
  | migrationStart | migrationFinish | tkcmdCreate | tkcmdDestroy | parkRingWrite | pendctlWrite | lnkctlRetrain | lnkctlDisable | lnkctlEnable |
  lnkctlClear | fenceCore | fenceSlice | pstateWrite | configRegisterWrite | homeLoss | rdcEviction | correctableError | uncorrectableError |
  patrolScrub | arbiterPeriod | dieFreeze | flitReceive | linkTrained | linkTrainingFailed | linkReplayLimit | laneLost | linkRetrainTimeout |
  peerDown | routeTablesInForce | cxlLinkDown | powerOn | sidebandReset | bringUp | diePresent | sidebandInventory | sidebandAttest |
  sidebandPowerRead | sidebandPlimitWrite | sidebandPstateWrite | sidebandLog | malformedPacket | memoryAccessPerformed | llcLineEviction |
  slicePartialAttention | reshardPairCopy => exact goes_next _
  | passBoundary t => exact passBoundary_goes t s
  | adrFaultTrap t => exact adrFaultTrap_goes t s
  | atomoArrival t => exact atomoArrival_goes t s
  | atomoRetry t => exact atomoRetry_goes t s
  | atomoLineStall line => exact atomoLineStall_goes line s
  | tokenWaitResume t => exact tokenWaitResume_goes t s
  | eret => exact eret_goes s
  | halt => exact halt_goes s

theorem runEngine_goes (s : State) (t : Nat) (e : Engine) : Goes (s.runEngine t e) := by
  unfold State.runEngine
  dsimp only
  split
  · exact goes_next _
  · split
    · exact goes_next _
    · split
      · exact exec_goes ..
      · exact exec_goes ..
      · split
        · split
          · exact exec_goes ..
          · exact goes_next _
        · exact goes_next _

theorem runFetch_goes (s : State) (t : Nat) : Goes (s.runFetch t) := by
  unfold State.runFetch
  split
  · exact goes_next _
  · split
    · exact runEngine_goes ..
    · exact goes_next _

theorem runDefault_goes (s : State) : Goes s.runDefault := by
  unfold State.runDefault
  dsimp only
  split
  · split
    · exact runEngine_goes ..
    · split
      · exact runFetch_goes ..
      · split
        · exact exec_goes ..
        · exact goes_next _
  · exact goes_next _

theorem step_goes (s : State) : Goes (step s) := by
  unfold step
  dsimp only
  split
  · exact exec_goes ..
  · exact runEngine_goes ..
  · exact runFetch_goes ..
  · exact runDefault_goes _

/-- Settles O59, from what each instruction answers and what each turn runs. -/
theorem everyInstructionAnswersANextState : Obligations.EveryInstructionAnswersANextState := ⟨exec_goes, step_goes⟩

end Sys2Proof.Machine
end

section
/-! SUPPORT. The turns of a step (R57, R59, R63, R67, R97, R126, R159, R459), what fetch delivers (R110, R165), and leaving a queue under single step (R140). -/

namespace Sys2Proof.Machine

/-! ## An engine's turn -/

/-- Engine `e` of thread `t` may run, and at its head stands the entry `x` of the word `w`. -/
structure State.TurnAt (s : State) (t : Nat) (e : Engine) (x : IqEntry) (w : Word) : Prop where
  runs : (s.thr t).mayRun e = true
  thawed : (s.die (s.thr t).die).frozen = false
  head : (s.thr t).head e = some x
  item : x.item = .word w

theorem State.thr_cur (s : State) (c t : Nat) : State.thr { s with cur := c } t = s.thr t := rfl

theorem State.die_cur (s : State) (c d : Nat) : State.die { s with cur := c } d = s.die d := rfl

section
variable {s : State} {t : Nat} {e : Engine} {x : IqEntry} {w : Word} (h : s.TurnAt t e x w)
include h

theorem State.TurnAt.runs_decoded {i : Instr} (hf : s.waitsFor t e x w = []) (hd : decode w = .ok i) : s.runEngine t e = exec i { s with cur := t } := by
  have hc : State.waitsFor { s with cur := t } t e x w = [] := hf
  rw [State.runEngine]
  simp [State.thr_cur, State.die_cur, h.runs, h.thawed, h.head, h.item, hc, hd]

theorem State.TurnAt.raises_undecoded {d : DecodeErr} (hf : s.waitsFor t e x w = []) (hd : decode w = .error d) :
    s.runEngine t e = .next (State.raise { s with cur := t } t e (decodeTrap d)) := by
  have hc : State.waitsFor { s with cur := t } t e x w = [] := hf
  rw [State.runEngine]
  simp [State.thr_cur, State.die_cur, h.runs, h.thawed, h.head, h.item, hc, hd]

theorem State.TurnAt.waits {f : Engine} {es : List Engine} (hf : s.waitsFor t e x w = f :: es) :
    s.runEngine t e = .next (State.holdWord { s with cur := t } e (.engines (f :: es))) := by
  have hc : State.waitsFor { s with cur := t } t e x w = f :: es := hf
  rw [State.runEngine]
  simp [State.thr_cur, State.die_cur, h.runs, h.thawed, h.head, h.item, hc]

end

/-! ## What a word waits for -/

theorem waitsFor_free {s : State} {t : Nat} {e : Engine} {x : IqEntry} {w : Word} (hz : (s.thr t).hazards e x w = [])
    (hh : (s.thr t).withheld e x w s.clk = false) : s.waitsFor t e x w = [] := by
  rw [State.waitsFor, hz, hh]; rfl

theorem waitsFor_withheld {s : State} {t : Nat} {e : Engine} {x : IqEntry} {w : Word} (hz : (s.thr t).hazards e x w = [])
    (hh : (s.thr t).withheld e x w s.clk = true) : s.waitsFor t e x w = [.seq] := by
  rw [State.waitsFor, hz, hh]; rfl

theorem waitsFor_hazards {s : State} {t : Nat} {e : Engine} {x : IqEntry} {w : Word} (hz : (s.thr t).hazards e x w ≠ []) :
    s.waitsFor t e x w = (s.thr t).hazards e x w := by
  unfold State.waitsFor
  split
  case h_1 h => exact absurd h hz
  case h_2 => rfl

/-! ## The turns of a step -/

theorem step_engine {s : State} {t : Nat} {e : Engine} {rest : List Turn} (h : s.newClock.agenda = .engine t e :: rest) :
    step s = State.runEngine { s.newClock with agenda := rest } t e := by
  unfold step; dsimp only; rw [h]

theorem step_device {s : State} {i : Instr} {rest : List Turn} (h : s.newClock.agenda = .device i :: rest) :
    step s = exec i { s.newClock with agenda := rest } := by
  unfold step; dsimp only; rw [h]

theorem step_fetch {s : State} {t : Nat} {rest : List Turn} (h : s.newClock.agenda = .fetch t :: rest) :
    step s = State.runFetch { s.newClock with agenda := rest } t := by
  unfold step; dsimp only; rw [h]

theorem runFetch_some {s u : State} {t n : Nat} (h : (s.die (s.thr t).die).frozen = false) (hd : s.deliver t = (some n, u)) :
    s.runFetch t = u.runEngine t (engineOf n) := by
  rw [State.runFetch, if_neg (by simp [h]), hd]

theorem runFetch_none {s u : State} {t : Nat} (h : (s.die (s.thr t).die).frozen = false) (hd : s.deliver t = (none, u)) :
    s.runFetch t = .next u := by
  rw [State.runFetch, if_neg (by simp [h]), hd]

/-! ## Pass boundaries that fetch delivers (R101) -/

/-- Delivering pass boundaries only adds to the end of a queue. -/
theorem Thread.crossBoundaries_extends (n k : Nat) : ∀ th : Thread, th.iq.get k <+: (Thread.crossBoundaries n th).iq.get k := by
  induction n with
  | zero => exact fun _ => ⟨[], List.append_nil _⟩
  | succ n ih =>
    intro th
    unfold Thread.crossBoundaries
    split
    · exact ⟨[], List.append_nil _⟩
    · split
      · refine List.IsPrefix.trans ?_ (ih _)
        dsimp only
        rw [Tab.get_set]
        split
        case isTrue hk => rw [hk]; exact ⟨_, rfl⟩
        case isFalse => exact ⟨[], List.append_nil _⟩
      · exact ⟨[], List.append_nil _⟩

/-- Pass boundaries go to SEQ's queue alone. -/
theorem Thread.crossBoundaries_other (n k : Nat) (hk : k ≠ 0) : ∀ th : Thread, (Thread.crossBoundaries n th).iq.get k = th.iq.get k := by
  induction n with
  | zero => exact fun _ => rfl
  | succ n ih =>
    intro th
    unfold Thread.crossBoundaries
    split
    · rfl
    · split
      · rw [ih]; exact Tab.get_set_other _ _ _ _ hk
      · rfl

/-- Where no loop's body ends, fetch delivers no boundary. -/
theorem Thread.crossBoundaries_apart (n : Nat) (th : Thread) (h : ∀ l, th.aheadLoops.head? = some l → th.fetch ≠ l.stop) :
    Thread.crossBoundaries n th = th := by
  cases n with
  | zero => rfl
  | succ n =>
    unfold Thread.crossBoundaries
    split
    · rfl
    case h_2 l ls hl => rw [if_neg (h l (by rw [hl]; rfl))]

/-- Where fetch goes on it only adds to the end of a queue. -/
theorem Thread.goOn_extends (th : Thread) (k : Nat) : th.iq.get k <+: th.goOn.iq.get k :=
  Thread.crossBoundaries_extends 8 k { th with fetchSt := .going }

theorem Thread.goOn_other (th : Thread) (k : Nat) (hk : k ≠ 0) : th.goOn.iq.get k = th.iq.get k :=
  Thread.crossBoundaries_other 8 k hk { th with fetchSt := .going }

theorem Thread.goOn_apart (th : Thread) (h : ∀ l, th.aheadLoops.head? = some l → th.fetch ≠ l.stop) : th.goOn = { th with fetchSt := .going } :=
  Thread.crossBoundaries_apart 8 { th with fetchSt := .going } h

/-- Letting fetch go on leaves the queues of the other engines than SEQ. -/
theorem Thread.release_other (th : Thread) (k : Nat) (hk : k ≠ 0) : th.release.iq.get k = th.iq.get k := by
  have hgo := th.goOn_other k hk
  unfold Thread.release
  split
  case h_4 => rfl
  all_goals
    split
    · exact hgo
    · rfl

/-! ## What fetch delivers -/

theorem Thread.mayFetch_going {th : Thread} (h : th.mayFetch = true) : th.fetchSt = .going := by
  simp only [Thread.mayFetch, Bool.and_eq_true, beq_iff_eq] at h
  exact h.1.2

theorem Thread.passJoin_of_mayFetch {th : Thread} (h : th.mayFetch = true) : th.passJoin = th := by
  rw [Thread.passJoin, Thread.mayFetch_going h]

theorem thr_passJoin {s : State} {t : Nat} (h : (s.thr t).mayFetch = true) : (s.modThr t Thread.passJoin).thr t = s.thr t := by
  rw [State.thr_modThr_same, Thread.passJoin_of_mayFetch h]

/-- A word that has room goes to its engine. -/
theorem deliver_word {s : State} {t : Nat} {w : Word} (hw : (s.thr t).textWord (s.thr t).fetch = w) (hm : (s.thr t).mayFetch = true)
    (hr : (s.thr t).st = .running) (hk : (s.thr t).marks = []) (hf : (s.thr t).fullAt w = []) (hq : (s.thr t).iq.get (wordEng w) = []) :
    s.deliver t = (some (wordEng w), (s.modThr t Thread.passJoin).modThr t fun th => th.take w) := by
  rw [State.deliver, thr_passJoin hm, hw, hm, hk, hr, hf, hq]
  simp

/-- A marker whose queue has room follows its mark word. -/
theorem deliver_marker {s : State} {t e j : Nat} {a : TextAddr} {marks : List (Nat × Nat × TextAddr)} (hm : (s.thr t).mayFetch = true)
    (hk : (s.thr t).marks = (e, j, a) :: marks) (hroom : iqRoom ((s.thr t).iq.get e) ≠ 0) :
    s.deliver t = (none, (s.modThr t Thread.passJoin).modThr t Thread.takeMark) := by
  have hf : (s.thr t).fullAt ((s.thr t).textWord (s.thr t).fetch) = [] := by rw [Thread.fullAt, hk]; exact if_neg hroom
  rw [State.deliver, thr_passJoin hm, hm, hf, hk]
  simp

/-- The entry that fetch makes of the word before it. -/
def Thread.entryOf (th : Thread) (w : Word) : IqEntry := { item := .word w, addr := th.fetch, ord := th.nextOrd, rrb := th.rrb }

/-- A thread whose word has gone to its engine's queue, before fetch stops or goes on. -/
def Thread.delivered (th : Thread) (w : Word) : Thread :=
  { th.append (wordEng w) (.word w) th.fetch with
    marks := match markOf w with | some (j, m) => marksOf j m th.fetch | none => []
    fetch := match fetchJump w th.fetch with | some x => x | none => th.fetch + 4 }

theorem Thread.delivered_iq (th : Thread) (w : Word) : (th.delivered w).iq.get (wordEng w) = th.iq.get (wordEng w) ++ [th.entryOf w] := by
  simp [Thread.delivered, Thread.append, IqItem.isWord, Thread.entryOf]

/-- After a word fetch goes on or stops. -/
theorem Thread.take_cases (th : Thread) (w : Word) : th.take w = (th.delivered w).goOn ∨ ∃ f, th.take w = { th.delivered w with fetchSt := f } := by
  unfold Thread.take
  extract_lets a th1 th2
  split
  · split
    · exact .inl rfl
    · exact .inr ⟨_, rfl⟩
  · exact .inr ⟨_, rfl⟩

theorem Thread.take_s (th : Thread) (w : Word) : (th.take w).s = th.s := by
  obtain h | ⟨f, h⟩ := th.take_cases w
  · rw [h, Thread.goOn_only]; rfl
  · rw [h]; rfl

/-- A word that is taken stands at the head of a queue that was empty. -/
theorem Thread.take_head {th : Thread} {w : Word} (hq : th.iq.get (wordEng w) = []) :
    ((th.take w).iq.get (wordEng w)).head? = some (th.entryOf w) := by
  have hd : (th.delivered w).iq.get (wordEng w) = [th.entryOf w] := by rw [Thread.delivered_iq, hq]; rfl
  obtain h | ⟨f, h⟩ := th.take_cases w
  · obtain ⟨l, hl⟩ : [th.entryOf w] <+: (th.take w).iq.get (wordEng w) := by
      rw [h, ← hd]; exact Thread.goOn_extends ..
    rw [← hl]; rfl
  · rw [h]; exact congrArg List.head? hd

theorem engCode_engineOf {n : Nat} (h : n < 8) : engCode (engineOf n) = n := by interval_cases n <;> rfl

theorem wordEng_lt (w : Word) : wordEng w < 8 := (bits w 29 3).isLt

/-- A marker behind SEQ's words leaves the loops that fetch goes by. -/
theorem Thread.aheadLoops_append_marker (th : Thread) (e j : Nat) (a : TextAddr) : (th.append e (.marker j) a).aheadLoops = th.aheadLoops := by
  have hq : (th.append e (.marker j) a).iq.get 0 = th.iq.get 0 ∨ ∃ x : IqEntry, x.item = .marker j ∧ (th.append e (.marker j) a).iq.get 0 = th.iq.get 0 ++ [x] := by
    unfold Thread.append
    dsimp only
    split
    · exact .inl rfl
    · rw [Tab.get_set]
      split
      case isTrue he => exact .inr ⟨_, rfl, by rw [he]⟩
      case isFalse => exact .inl rfl
  obtain h | ⟨x, hx, h⟩ := hq
  · exact congrArg (List.foldl _ th.loopView) h
  · refine (congrArg (List.foldl _ th.loopView) h).trans ?_
    rw [List.foldl_append, List.foldl_cons, List.foldl_nil, IqEntry.onLoops, hx]
    rfl

/-- A thread whose next marker has gone to its queue, before fetch goes on. -/
def Thread.marked (th : Thread) (e j : Nat) (a : TextAddr) (rest : List (Nat × Nat × TextAddr)) : Thread := { th.append e (.marker j) a with marks := rest }

theorem Thread.takeMark_eq {th : Thread} {e j : Nat} {a : TextAddr} {rest : List (Nat × Nat × TextAddr)} (h : th.marks = (e, j, a) :: rest) :
    th.takeMark = if rest.isEmpty then (th.marked e j a rest).goOn else th.marked e j a rest := by
  unfold Thread.takeMark; rw [h]; rfl

/-- A marker that is taken leaves the scalars and the other marks. -/
theorem Thread.takeMark_keeps {th : Thread} {e j : Nat} {a : TextAddr} {rest : List (Nat × Nat × TextAddr)} (h : th.marks = (e, j, a) :: rest) :
    th.takeMark.marks = rest ∧ th.takeMark.s = th.s := by
  rw [Thread.takeMark_eq h]
  split
  · rw [Thread.goOn_only]; exact ⟨rfl, rfl⟩
  · exact ⟨rfl, rfl⟩

/-- A marker that is taken leaves the fetch address, unless it was the last and fetch then stands at the end of a loop's body. -/
theorem Thread.takeMark_fetch {th : Thread} {e j : Nat} {a : TextAddr} {rest : List (Nat × Nat × TextAddr)} (h : th.marks = (e, j, a) :: rest)
    (hb : rest ≠ [] ∨ ∀ l, th.aheadLoops.head? = some l → th.fetch ≠ l.stop) : th.takeMark.fetch = th.fetch := by
  rw [Thread.takeMark_eq h]
  split
  case isTrue he =>
    have hl : ∀ l, th.aheadLoops.head? = some l → th.fetch ≠ l.stop := hb.resolve_left (not_not_intro (List.isEmpty_iff.1 he))
    have ha : (th.marked e j a rest).aheadLoops = th.aheadLoops := th.aheadLoops_append_marker e j a
    rw [Thread.goOn_apart _ (by rw [ha]; exact hl)]
    rfl
  case isFalse => rfl

/-! ## Leaving a queue -/

/-- Under single step of its engine a word leaves its results and its queue, and STEP is raised (R140). -/
theorem retire_stepped (s b : State) (e : Engine) (h : s.me.sten = true) (he : s.me.steng = BitVec.ofNat 3 (engCode e)) :
    ∃ k : TrapInfo, k.code = .step ∧ s.retire e b = ((s.modThr s.cur fun th => ((b.thr s.cur).resulted th e s.clk).leaves e).modThr s.cur
      fun th => { th with stepPc := some (s.me.pc e) }).raise s.cur e k := by
  have stepped : (((b.thr s.cur).resulted (s.thr s.cur) e s.clk).leaves e).sten = true ∧
      (((b.thr s.cur).resulted (s.thr s.cur) e s.clk).leaves e).steng = BitVec.ofNat 3 (engCode e) := by
    rw [Thread.leaves_only, Thread.resulted_only]; exact ⟨h, he⟩
  obtain ⟨hten, hteng⟩ := stepped
  refine ⟨?trap, ?code, ?raised⟩
  case raised =>
    unfold State.retire
    extract_lets t a s1 th addr s2
    have hth : th = ((b.thr s.cur).resulted (s.thr s.cur) e s.clk).leaves e := State.thr_modThr_same ..
    rw [if_pos (by rw [hth, hten, hteng]; simp)]
    rfl
  case code => rfl

/-- A word of another engine than SEQ leaves the head of its own queue, and the markers behind it. -/
theorem Thread.leaves_iq (th : Thread) {e : Engine} (h : e ≠ .seq) : (th.leaves e).iq.get (engCode e) = dropMarkers (th.iq.get (engCode e)).tail := by
  have h0 : engCode e ≠ 0 := by
    cases e with
    | seq => exact absurd rfl h
    | adr | vec | mat | xfr | fab | atn | syn => exact nofun
  rw [Thread.leaves, Thread.release_other _ _ h0]
  exact Tab.get_set_same ..

/-- What leaving a queue with its results changes of a thread (R159, R459). -/
theorem Thread.resulted_leaves_only (b th : Thread) (e : Engine) (clk : Nat) : (b.resulted th e clk).leaves e =
    { th with iq := ((b.resulted th e clk).leaves e).iq, fetch := ((b.resulted th e clk).leaves e).fetch, fetchSt := ((b.resulted th e clk).leaves e).fetchSt,
              results := (b.resulted th e clk).results, held := th.held.set (engCode e) none,
              count := th.count.set (engCode e) (th.count.get (engCode e) + 1) } := by
  have h := Thread.resulted_only b th e clk
  generalize b.resulted th e clk = r at h ⊢
  rw [h]
  exact Thread.leaves_only _ e

/-- A word's results leave the queues. -/
theorem Thread.resulted_iq (b th : Thread) (e : Engine) (clk : Nat) : (b.resulted th e clk).iq = th.iq := by rw [Thread.resulted_only]

/-- The results of a thread whose word has left: SEQ's await their comparison, another engine's word produces none (R459). -/
theorem Thread.resulted_leaves_results (b th : Thread) (e : Engine) (clk : Nat) : ((b.resulted th e clk).leaves e).results =
    if e = .seq then (b.withResults th clk).results else th.results := by
  rw [Thread.leaves_only, Thread.resulted]
  split <;> rfl

/-- Without single step a word that ends changes the queues, fetch, results and count of its thread, and nothing else. -/
theorem retire_calm_frame {s : State} (b : State) (e : Engine) (h : s.me.sten = false) :
    let u := s.retire e b
    (∀ v, v ≠ s.cur → u.thr v = s.thr v) ∧ u = { s with threads := u.threads } ∧
      u.me = { s.me with iq := u.me.iq, fetch := u.me.fetch, fetchSt := u.me.fetchSt, results := u.me.results, held := s.me.held.set (engCode e) none,
                         count := s.me.count.set (engCode e) (s.me.count.get (engCode e) + 1) } ∧
      (e ≠ .seq → u.me.results = s.me.results ∧ u.me.iq.get (engCode e) = dropMarkers (s.me.iq.get (engCode e)).tail) ∧
      (e = .seq → u.me.results = ((b.thr s.cur).withResults s.me s.clk).results) := by
  intro u
  have hu : u = s.modMe fun th => ((b.thr s.cur).resulted th e s.clk).leaves e := retire_calm s b e h
  have hme : u.me = ((b.thr s.cur).resulted s.me e s.clk).leaves e := by rw [hu, State.me_modMe]
  refine ⟨fun v hv => by rw [hu]; exact State.thr_modMe_other _ _ _ hv, by rw [hu]; rfl, ?record, fun he => ⟨?results, ?queue⟩, fun he => ?awaits⟩
  case record =>
    rw [hme, Thread.resulted_leaves_only]
  case results => rw [hme, Thread.resulted_leaves_results, if_neg he]
  case queue => rw [hme, Thread.leaves_iq _ he, Thread.resulted_iq]
  case awaits => rw [hme, Thread.resulted_leaves_results, if_pos he]

/-- Under single step the state in which STEP is raised differs from the word's effect in its thread alone, whose registers stand. -/
theorem retire_stepped_frame {s : State} (b : State) (e : Engine) (h : s.me.sten = true) (he : s.me.steng = BitVec.ofNat 3 (engCode e)) :
    ∃ (z : State) (k : TrapInfo), k.code = .step ∧ s.retire e b = z.raise s.cur e k ∧
      z = { s with threads := z.threads } ∧ z.me.s = s.me.s ∧ z.me.v = s.me.v ∧ z.me.acc = s.me.acc ∧ z.me.stepPc = some (s.me.pc e) := by
  obtain ⟨k, hk, hr⟩ := retire_stepped s b e h he
  refine ⟨_, k, hk, hr, rfl, ?_⟩
  have hme : State.me ((s.modThr s.cur fun th => ((b.thr s.cur).resulted th e s.clk).leaves e).modThr s.cur fun th => { th with stepPc := some (s.me.pc e) }) =
      { ((b.thr s.cur).resulted s.me e s.clk).leaves e with stepPc := some (s.me.pc e) } :=
    (State.thr_modThr_same ..).trans (by rw [State.thr_modThr_same]; rfl)
  rw [hme, Thread.resulted_leaves_only]
  exact ⟨rfl, rfl, rfl, rfl⟩

/-! ## The statement -/

/-- Settles O53: the clauses of an engine's turn by what its head word waits for and decodes to, those of fetch by what it delivers, those of a word that ends by
whether its engine is stepped. -/
theorem aStepRunsTheDecodedWord : Obligations.AStepRunsTheDecodedWord := by
  intro s s0 t e x w i b rest s1 held c f th word turn free u
  have engineTurn : s1.agenda = .engine t e :: rest → step s = f.runEngine t e := step_engine
  have deviceTurn : s1.agenda = .device i :: rest → step s = exec i f := step_device
  have fetchTurn : s1.agenda = .fetch t :: rest → step s = f.runFetch t := step_fetch
  clear_value s1
  have at_ : turn → step s = f.runEngine t e ∧ f.TurnAt t e x w := fun ⟨ha, hruns, hthawed, hhead, hitem⟩ =>
    ⟨engineTurn ha, hruns, hthawed, hhead, hitem⟩
  refine ⟨fun ht ⟨hz, hh⟩ hd => ?runs, fun ht ⟨hz, hh⟩ hd => ?traps, fun ht hz hh => ?withheld, fun ht hz => ?hazard, deviceTurn,
    fun ha hthawed n s2 hd => (fetchTurn ha).trans (runFetch_some hthawed hd), fun ha hthawed s2 hd => (fetchTurn ha).trans (runFetch_none hthawed hd),
    fun hm hr hk hf hq => ?word, fun e j a marks hm hk hroom => ?marker, retire_calm_frame s0 e, retire_stepped_frame s0 e⟩
  case runs =>
    obtain ⟨hs, hat⟩ := at_ ht
    exact hs.trans (hat.runs_decoded (waitsFor_free hz hh) hd)
  case traps =>
    obtain ⟨hs, hat⟩ := at_ ht
    exact hs.trans (hat.raises_undecoded (waitsFor_free hz hh) hd)
  case withheld =>
    obtain ⟨hs, hat⟩ := at_ ht
    exact hs.trans (hat.waits (waitsFor_withheld hz hh))
  case hazard =>
    obtain ⟨hs, hat⟩ := at_ ht
    obtain ⟨g, gs, hgs⟩ := List.exists_cons_of_ne_nil hz
    refine hs.trans ((hat.waits ((waitsFor_hazards hz).trans hgs)).trans ?_)
    rw [← hgs]
  case word =>
    have hthr : State.thr ((f.modThr t Thread.passJoin).modThr t fun th => th.take word) t = th.take word := by
      rw [State.thr_modThr_same, thr_passJoin hm]
    refine ⟨_, th.entryOf word, deliver_word rfl hm hr hk hf hq, ?_, rfl, rfl, rfl, by rw [hthr, Thread.take_s]⟩
    rw [hthr, Thread.head, engCode_engineOf (wordEng_lt _)]
    exact Thread.take_head hq
  case marker =>
    have hthr : State.thr ((f.modThr t Thread.passJoin).modThr t Thread.takeMark) t = th.takeMark := by
      rw [State.thr_modThr_same, thr_passJoin hm]
    obtain ⟨hmarks, hs⟩ := Thread.takeMark_keeps hk
    exact ⟨_, deliver_marker hm hk hroom, by rw [hthr, hmarks], fun hb => by rw [hthr, Thread.takeMark_fetch hk hb], rfl, by rw [hthr, hs]⟩

end Sys2Proof.Machine
end

section
/-! SUPPORT. The scalar results of SEQ (R86 to R89, R93 to R95): what the arithmetic of each word comes to, and the words that write one scalar or one predicate. -/

namespace Sys2Proof.Machine

/-! ## Fields and immediates as integers -/

/-- The lowest bits of a vector as a number. -/
theorem bits_zero_toNat {m : Nat} (x : BitVec m) (n : Nat) : (bits x 0 n).toNat = x.toNat % 2 ^ n := by simp [bits]

/-- The vector of another width holds the integer's residue. -/
theorem setWidth_ofInt {v w : Nat} (z : Int) : (BitVec.ofInt w z).setWidth v = BitVec.ofInt v (z % 2 ^ w) := by
  have hz : 0 ≤ z % 2 ^ w := Int.emod_nonneg _ (by positivity)
  rw [← BitVec.ofNat_toNat, BitVec.toNat_ofInt, ← BitVec.ofInt_natCast]
  push_cast
  rw [Int.toNat_of_nonneg hz]

/-- A text address moved by k words. -/
theorem textAddr_add_words (pc k : TextAddr) : pc + k * 4 = BitVec.ofInt 18 (pc.toNat + 4 * k.toInt) := by
  rw [BitVec.ofInt_add, BitVec.ofInt_natCast, BitVec.ofNat_toNat, BitVec.setWidth_eq, BitVec.ofInt_mul, BitVec.ofInt_toInt, BitVec.mul_comm]
  rfl

theorem sext64_toInt {w : Nat} (i : BitVec w) (h : w ≤ 64) : (sext64 i).toInt = i.toInt := BitVec.toInt_signExtend_of_le h

/-! ## Results of the integer group (R86 to R89) -/

theorem boolDw_decide (p : Prop) [Decidable p] : boolDw (decide p) = if p then 1 else 0 := by
  unfold boolDw; simp only [decide_eq_true_eq]

theorem boolDw_slt (x y : Dword) : boolDw (x.slt y) = if x.toInt < y.toInt then 1 else 0 := boolDw_decide _

theorem boolDw_ult (x y : Dword) : boolDw (x.ult y) = if x.toNat < y.toNat then 1 else 0 := boolDw_decide _

theorem ite_sle (x y u v : Dword) : (if x.sle y then u else v) = if x.toInt ≤ y.toInt then u else v := by
  simp only [BitVec.sle, decide_eq_true_eq]

theorem ite_ule (x y u v : Dword) : (if x.ule y then u else v) = if x.toNat ≤ y.toNat then u else v := by
  simp only [BitVec.ule, decide_eq_true_eq]

theorem mul_eq_ofNat (x y : Dword) : x * y = BitVec.ofNat 64 (x.toNat * y.toNat) := by
  simp only [BitVec.ofNat_mul, BitVec.ofNat_toNat, BitVec.setWidth_eq]

theorem divs_eq {x y : Dword} (h : y ≠ 0) : divs x y = BitVec.ofInt 64 (x.toInt.tdiv y.toInt) := by
  rw [divs, if_neg h]
  exact BitVec.eq_of_toInt_eq (by rw [BitVec.toInt_sdiv, BitVec.toInt_ofInt])

theorem divuu_eq {x y : Dword} (h : y ≠ 0) : divuu x y = BitVec.ofNat 64 (x.toNat / y.toNat) := by
  rw [divuu, if_neg h, BitVec.udiv_def]

theorem rems_eq {x y : Dword} (h : y ≠ 0) : rems x y = BitVec.ofInt 64 (x.toInt.tmod y.toInt) := by
  rw [rems, if_neg h, ← BitVec.toInt_srem, BitVec.ofInt_toInt]

theorem remuu_eq {x y : Dword} (h : y ≠ 0) : remuu x y = BitVec.ofNat 64 (x.toNat % y.toNat) := by
  rw [remuu, if_neg h, BitVec.umod_def]

/-- lui's immediate stands twelve bits up (R89). -/
theorem sext64_shl (k : BitVec 18) : sext64 k <<< 12 = BitVec.ofInt 64 (k.toInt * 2 ^ 12) := by
  rw [BitVec.shiftLeft_eq_mul_twoPow, BitVec.ofInt_mul]; rfl

/-- auipc's address (R89). -/
theorem textAddr_add_words_setWidth (pc k : TextAddr) : (pc + k * 4).setWidth 64 = BitVec.ofInt 64 ((pc.toNat + 4 * k.toInt) % 2 ^ 18) := by
  rw [textAddr_add_words, setWidth_ofInt]

/-! ## The three bit counts (R86) -/

/-- clz: the bits above the first one are 0. -/
theorem clz64_counts (x : Dword) :
    ∃ n ≤ 64, clz64 x = BitVec.ofNat 64 n ∧ (∀ i < n, x.getLsbD (63 - i) = false) ∧ (n < 64 → x.getLsbD (63 - n) = true) := by
  by_cases hx : x = 0
  · exact ⟨64, le_rfl, if_pos hx, fun i _ => by rw [hx]; simp, fun h => absurd h (lt_irrefl _)⟩
  · have hn : x.toNat ≠ 0 := fun h => hx (BitVec.eq_of_toNat_eq h)
    have hlog : x.toNat.log2 < 64 := (Nat.log2_lt hn).2 x.isLt
    refine ⟨63 - x.toNat.log2, by omega, if_neg hx, fun i hi => ?above, fun _ => ?first⟩
    case above =>
      refine Nat.testBit_lt_two_pow (Nat.lt_log2_self.trans_le (Nat.pow_le_pow_right (by decide) ?_))
      omega
    case first =>
      rw [show 63 - (63 - x.toNat.log2) = x.toNat.log2 by omega]
      exact Nat.testBit_log2 hn

/-- ctz: the bits below the first one are 0. -/
theorem ctz64_counts (x : Dword) :
    ∃ n ≤ 64, ctz64 x = BitVec.ofNat 64 n ∧ (∀ i < n, x.getLsbD i = false) ∧ (n < 64 → x.getLsbD n = true) := by
  unfold ctz64
  cases hf : (List.range 64).find? fun i => flag x i with
  | none =>
    have hall := List.find?_range_eq_none.1 hf
    exact ⟨64, le_rfl, rfl, fun i hi => by simpa using hall i hi, fun h => absurd h (lt_irrefl _)⟩
  | some n =>
    obtain ⟨hn, hmem, hbelow⟩ := List.find?_range_eq_some.1 hf
    exact ⟨n, (List.mem_range.1 hmem).le, rfl, fun i hi => by simpa using hbelow i hi, fun _ => hn⟩

/-- Adding up truth values counts those that hold. -/
theorem foldl_toNat_eq_countP {α : Type} (p : α → Bool) (l : List α) : ∀ n, l.foldl (fun n i => n + (p i).toNat) n = n + l.countP p := by
  induction l with
  | nil => exact fun _ => rfl
  | cons a l ih =>
    intro n
    rw [List.foldl_cons, ih, List.countP_cons]
    cases p a <;> simp [Nat.add_comm, Nat.add_left_comm]

theorem popc64_counts (x : Dword) : popc64 x = BitVec.ofNat 64 ((List.range 64).countP fun i => x.getLsbD i) := by
  rw [popc64, foldl_toNat_eq_countP, Nat.zero_add]

/-! ## The words -/

section
variable {i : Instr} {s : State} {d a b : BitVec 6} {w : Dword}

/-- A SEQ word that writes one scalar from two. -/
theorem does_seqAlu {f : Dword → Dword → Dword} (h : exec i s = seqAlu f d a b s) (hw : f (s.me.rs .seq a) (s.me.rs .seq b) = w) :
    Does .seq i s (s.putS d w) := does_seqOp h hw

/-- A SEQ word that writes one scalar from one. -/
theorem does_seqUna {f : Dword → Dword} (h : exec i s = seqUna f d a s) (hw : f (s.me.rs .seq a) = w) : Does .seq i s (s.putS d w) := does_seqOp h hw

end

/-- Settles O3: the counts of the one scalar read. -/
theorem bitCountsAreTheCounts : Obligations.BitCountsAreTheCounts := by
  intro s d a x
  obtain ⟨n, hn, hclz, habove⟩ := clz64_counts x
  obtain ⟨m, hm, hctz, hbelow⟩ := ctz64_counts x
  exact ⟨⟨n, hn, does_seqUna (exec_clz d a s) hclz, habove⟩, ⟨m, hm, does_seqUna (exec_ctz d a s) hctz, hbelow⟩,
    does_seqUna (exec_popc d a s) (popc64_counts x)⟩

/-- Settles O1: each word's result, written as the spec's table has it. -/
theorem scalarArithmeticWritesItsResult : Obligations.ScalarArithmeticWritesItsResult := by
  refine ⟨fun s d a b => ?group, fun s d a n i j k => ?immediate⟩
  case group =>
    intro x y
    have amount : (bits y 0 6).toNat = y.toNat % 64 := bits_zero_toNat y 6
    rw [amount]
    exact ⟨does_seqAlu (exec_add ..) rfl, does_seqAlu (exec_sub ..) rfl, does_seqAlu (exec_and ..) rfl, does_seqAlu (exec_or ..) rfl,
      does_seqAlu (exec_xor ..) rfl, does_seqAlu (exec_andn ..) rfl, does_seqAlu (exec_shl ..) rfl, does_seqAlu (exec_shr ..) rfl,
      does_seqAlu (exec_sra ..) rfl, does_seqAlu (exec_slt ..) (boolDw_slt x y), does_seqAlu (exec_sltu ..) (boolDw_ult x y),
      does_seqAlu (exec_min ..) (ite_sle x y x y), does_seqAlu (exec_max ..) (ite_sle y x x y), does_seqAlu (exec_minu ..) (ite_ule x y x y),
      does_seqAlu (exec_maxu ..) (ite_ule y x x y), does_seqAlu (exec_mul ..) (mul_eq_ofNat x y), does_seqAlu (exec_mulh ..) rfl,
      does_seqAlu (exec_mulhu ..) rfl, fun hy => ⟨does_seqAlu (exec_div ..) (divs_eq hy), does_seqAlu (exec_divu ..) (divuu_eq hy),
        does_seqAlu (exec_rem ..) (rems_eq hy), does_seqAlu (exec_remu ..) (remuu_eq hy)⟩⟩
  case immediate =>
    intro x
    have imm : (sext64 j).toInt = j.toInt := sext64_toInt j (by decide)
    exact ⟨does_seqUna (exec_addi ..) rfl, does_seqUna (exec_andi ..) rfl, does_seqUna (exec_ori ..) rfl, does_seqUna (exec_xori ..) rfl,
      does_seqUna (exec_shli ..) rfl, does_seqUna (exec_shri ..) rfl, does_seqUna (exec_srai ..) rfl,
      does_seqUna (exec_slti ..) (by rw [boolDw_slt, imm]), does_seqUna (exec_sltiu ..) (boolDw_ult x _),
      does_seqOp (exec_lui ..) (sext64_shl k), does_seqOp (exec_auipc ..) (textAddr_add_words_setWidth _ k)⟩

/-- Settles O2: the corners are those of the model's division. -/
theorem divisionCornersGiveTheirValues : Obligations.DivisionCornersGiveTheirValues := by
  intro s d a b x y
  refine ⟨fun hy => ?zero, fun hx hy => ?overflow⟩
  case zero =>
    exact ⟨does_seqAlu (exec_div ..) (if_pos hy), does_seqAlu (exec_divu ..) (if_pos hy), does_seqAlu (exec_rem ..) (if_pos hy),
      does_seqAlu (exec_remu ..) (if_pos hy)⟩
  case overflow =>
    have quotient : divs x y = x := by rw [hx, hy]; decide
    have remainder : rems x y = 0 := by rw [hx, hy]; decide
    exact ⟨does_seqAlu (exec_div ..) quotient, does_seqAlu (exec_rem ..) remainder⟩

theorem bne_eq_decide {w : Nat} (x y : BitVec w) : (x != y) = decide (x ≠ y) := by
  rw [bne, beq_eq_decide, decide_not]

/-- Whether a predicate agrees with the NEG bit of a word (R95, R96). -/
theorem bne_neg (p : Bool) (n : BitVec 1) : (p != (n == 1)) = xor p (decide (n = 1)) := by
  rw [Bool.bne_eq_xor]; rfl

/-- Settles O4: the conditions of the table, on two scalars or on a scalar and the extended immediate. -/
theorem comparesWriteTheirPredicate : Obligations.ComparesWriteTheirPredicate := by
  intro s d p q r a b i n x y z u v
  have imm : z.toInt = i.toInt := sext64_toInt i (by decide)
  exact ⟨does_seqPred (exec_cmpEq ..) (beq_eq_decide x y), does_seqPred (exec_cmpNe ..) (bne_eq_decide x y), does_seqPred (exec_cmpLt ..) rfl,
    does_seqPred (exec_cmpGe ..) rfl, does_seqPred (exec_cmpLtu ..) rfl, does_seqPred (exec_cmpGeu ..) rfl,
    does_seqPred (exec_cmpiEq ..) (beq_eq_decide x z), does_seqPred (exec_cmpiNe ..) (bne_eq_decide x z),
    does_seqPred (exec_cmpiLt ..) (by rw [← imm]; rfl), does_seqPred (exec_cmpiGe ..) (by rw [← imm]; rfl), does_seqPred (exec_cmpiLtu ..) rfl,
    does_seqPred (exec_cmpiGeu ..) rfl, does_seqPred (exec_pand ..) rfl, does_seqPred (exec_por ..) rfl, does_seqPred (exec_pxor ..) rfl,
    does_seqPred (exec_pandn ..) rfl, does_seqPred (exec_pnot ..) rfl, does_seqPred (exec_pmov ..) rfl, does_seqOp (exec_sel ..) (by rw [bne_neg])⟩

end Sys2Proof.Machine
end

section
/-! SUPPORT. Loads and stores of SEQ (R90, R91). -/

namespace Sys2Proof.Machine

/-- A store of SEQ that passes its checks writes the low bytes of its scalar (R91). -/
theorem does_seqStore {i : Instr} {s s' : State} {d a : BitVec 6} {o : BitVec 9} {size ea : Nat} {as : List Acc} (hi : exec i s = seqStore size d a o s)
    (h : ((s.me.rs .seq a).toNat : Int) + o.toInt * size = ea) (hlt : ea < 2 ^ 57) (hal : ea % size = 0)
    (hacc : s.accessLin (s.issuer s.cur .seq) ea size true 0 = .ok (as, s')) :
    Does .seq i s (s'.storeAccs (s.issuer s.cur .seq) as (leBytes size (s'.me.rs .seq d).toNat)) := by
  refine does_of_ok hi ?_
  rw [seqCheck_ok h hlt hal]
  show (liftMem s _ >>= _) = _
  rw [hacc]
  rfl

/-! ## The two stops before translation -/

section
variable {i : Instr} {s : State} {d a : BitVec 6} {o : BitVec 9} {size : Nat} {ext : Nat → Dword} {write : Bool}

/-- The address of R91 lies outside [0, 2^57). -/
def AddrOutside (s : State) (a : BitVec 6) (o : BitVec 9) (size : Nat) : Prop := seqAddr s a o size < 0 ∨ 2 ^ 57 ≤ seqAddr s a o size

/-- PAGE_FAULT says whether a store raised it (R238). -/
theorem pageFault_estat_write (write : Bool) : flag (BitVec.ofNat 64 (1 + if write then 256 else 0)) 8 = write := by
  cases write <;> decide

theorem seqCheck_outside (h : AddrOutside s a o size) :
    ∃ t : TrapInfo, t.code = .pageFault ∧ flag t.estat 8 = write ∧ seqCheck s a o size write = .error (.trap t s) := by
  have stop : seqCheck s a o size write = (pageFault 1 write (BitVec.ofInt 64 (seqAddr s a o size)).toNat).exit s := if_pos h
  exact ⟨{ code := .pageFault, estat := _, addr := _ }, rfl, pageFault_estat_write write, stop⟩

theorem seqCheck_misaligned (hnn : 0 ≤ seqAddr s a o size) (hlt : seqAddr s a o size < 2 ^ 57) (hmod : seqAddr s a o size % size ≠ 0) :
    ∃ t : TrapInfo, t.code = .align ∧ seqCheck s a o size write = .error (.trap t s) := by
  have hn : (seqAddr s a o size).toNat % size ≠ 0 := fun e => hmod (by rw [← Int.toNat_of_nonneg hnn]; exact_mod_cast e)
  exact ⟨_, rfl, (if_neg (by omega)).trans (if_pos hn)⟩

/-- A load whose check traps has no effect. -/
theorem seqLoad_traps {t : TrapInfo} (hi : exec i s = seqLoad size ext d a o s) (h : seqCheck s a o size false = .error (.trap t s)) : Traps .seq i s t :=
  traps_of_trap hi (by rw [h]; rfl)

/-- A store whose check traps has no effect. -/
theorem seqStore_traps {t : TrapInfo} (hi : exec i s = seqStore size d a o s) (h : seqCheck s a o size true = .error (.trap t s)) : Traps .seq i s t :=
  traps_of_trap hi (by rw [h]; rfl)

theorem seqLoad_outside (hi : exec i s = seqLoad size ext d a o s) (h : AddrOutside s a o size) :
    ∃ t : TrapInfo, t.code = .pageFault ∧ flag t.estat 8 = false ∧ Traps .seq i s t :=
  have ⟨t, hc, hw, ht⟩ := seqCheck_outside h
  ⟨t, hc, hw, seqLoad_traps hi ht⟩

theorem seqStore_outside (hi : exec i s = seqStore size d a o s) (h : AddrOutside s a o size) :
    ∃ t : TrapInfo, t.code = .pageFault ∧ flag t.estat 8 = true ∧ Traps .seq i s t :=
  have ⟨t, hc, hw, ht⟩ := seqCheck_outside h
  ⟨t, hc, hw, seqStore_traps hi ht⟩

theorem seqLoad_misaligned (hi : exec i s = seqLoad size ext d a o s) (hnn : 0 ≤ seqAddr s a o size) (hlt : seqAddr s a o size < 2 ^ 57)
    (hmod : seqAddr s a o size % size ≠ 0) :
    ∃ t : TrapInfo, t.code = .align ∧ Traps .seq i s t :=
  have ⟨t, hc, ht⟩ := seqCheck_misaligned hnn hlt hmod
  ⟨t, hc, seqLoad_traps hi ht⟩

theorem seqStore_misaligned (hi : exec i s = seqStore size d a o s) (hnn : 0 ≤ seqAddr s a o size) (hlt : seqAddr s a o size < 2 ^ 57)
    (hmod : seqAddr s a o size % size ≠ 0) :
    ∃ t : TrapInfo, t.code = .align ∧ Traps .seq i s t :=
  have ⟨t, hc, ht⟩ := seqCheck_misaligned hnn hlt hmod
  ⟨t, hc, seqStore_traps hi ht⟩

end

/-- Settles O5: each width is the one load operation with its size and extension. -/
theorem scalarLoadsExtendTheirBytes : Obligations.ScalarLoadsExtendTheirBytes := by
  intro s s' d a o ea as w rd got after
  refine ⟨fun h => ?b, fun h => ?h, fun h => ?w, fun h => ?d⟩
  all_goals obtain ⟨hea, hlt, hal, hacc⟩ := h
  case b => exact ⟨does_seqLoad (ext := sextN 8) (exec_ldB d a o s) hea hlt hal hacc,
      does_seqLoad (ext := BitVec.ofNat 64) (exec_ldBu d a o s) hea hlt hal hacc⟩
  case h => exact ⟨does_seqLoad (ext := sextN 16) (exec_ldH d a o s) hea hlt hal hacc,
      does_seqLoad (ext := BitVec.ofNat 64) (exec_ldHu d a o s) hea hlt hal hacc⟩
  case w => exact ⟨does_seqLoad (ext := sextN 32) (exec_ldW d a o s) hea hlt hal hacc,
      does_seqLoad (ext := BitVec.ofNat 64) (exec_ldWu d a o s) hea hlt hal hacc⟩
  case d => exact does_seqLoad (ext := BitVec.ofNat 64) (exec_ldD d a o s) hea hlt hal hacc

/-- Settles O6: each width is the one store operation with its size; the stops are those of the check that loads and stores share. -/
theorem scalarStoresWriteTheirBytes : Obligations.ScalarStoresWriteTheirBytes := by
  refine ⟨fun s s' d a o ea as => ?stores, fun s d a o => ?stops⟩
  case stores =>
    exact ⟨fun ⟨hea, hlt, hal, hacc⟩ => does_seqStore (exec_stB d a o s) hea hlt hal hacc,
      fun ⟨hea, hlt, hal, hacc⟩ => does_seqStore (exec_stH d a o s) hea hlt hal hacc,
      fun ⟨hea, hlt, hal, hacc⟩ => does_seqStore (exec_stW d a o s) hea hlt hal hacc,
      fun ⟨hea, hlt, hal, hacc⟩ => does_seqStore (exec_stD d a o s) hea hlt hal hacc⟩
  case stops =>
    exact ⟨seqLoad_outside (exec_ldB d a o s), seqLoad_outside (exec_ldBu d a o s), seqLoad_outside (exec_ldH d a o s), seqLoad_outside (exec_ldHu d a o s),
      seqLoad_outside (exec_ldW d a o s), seqLoad_outside (exec_ldWu d a o s), seqLoad_outside (exec_ldD d a o s), seqStore_outside (exec_stB d a o s),
      seqStore_outside (exec_stH d a o s), seqStore_outside (exec_stW d a o s), seqStore_outside (exec_stD d a o s),
      seqLoad_misaligned (exec_ldH d a o s), seqLoad_misaligned (exec_ldHu d a o s), seqLoad_misaligned (exec_ldW d a o s),
      seqLoad_misaligned (exec_ldWu d a o s), seqLoad_misaligned (exec_ldD d a o s), seqStore_misaligned (exec_stH d a o s),
      seqStore_misaligned (exec_stW d a o s), seqStore_misaligned (exec_stD d a o s)⟩

end Sys2Proof.Machine
end

section
/-! SUPPORT. The loop words of SEQ (R99, R100). -/

namespace Sys2Proof.Machine

/-! ## How a loop word ends -/

/-- The innermost entry of a loop that starts: its counts stand in the registers (R100, R105). -/
def loopEntry (start : TextAddr) (b : BitVec 12) (st : BitVec 3) (rot : Bool) : LoopEntry :=
  { lcnt := 0, drain := 0, nst := st, rot := rot, start := start, body := b }

/-- A thread whose loop of n passes and S − 1 = `st` starts at `start` (R100). -/
def Thread.loopStarted (th : Thread) (start : TextAddr) (b : BitVec 12) (n : Dword) (st : BitVec 3) (rot : Bool) : Thread :=
  let th := { th with loops := th.shelve ++ [loopEntry start b st rot], lcnt := n - 1, drain := st, nst := st }
  if rot then th.firstStage else th

/-- A thread whose fetch, if it waits for the loop word, goes past the body at `start` (R100). -/
def Thread.loopSkipped (th : Thread) (start : TextAddr) (b : BitVec 12) : Thread :=
  if th.fetchWaits then { th with fetch := start + 4 * b.setWidth 18 } else th

/-- The length of a body in bytes. -/
theorem bodyBytes_eq (b : BitVec 12) : BitVec.ofNat 18 (4 * b.toNat) = 4 * b.setWidth 18 := by
  rw [BitVec.ofNat_mul, BitVec.ofNat_toNat]; rfl

/-- A loop word starts its loop, skips its body, or raises SHAPE. -/
theorem loopWord_cases {i : Instr} {s : State} {n : Thread → Dword} {b : BitVec 12} {st : BitVec 3} {rot : Bool} (h : exec i s = seqLoop n b st rot s) :
    (s.me.loopOk b = true → n s.me ≠ 0 → Does .seq i s (s.modMe fun th => th.loopStarted (s.me.pc .seq + 4) b (n s.me) st rot)) ∧
    (s.me.loopOk b = true → n s.me = 0 → Does .seq i s (s.modMe fun th => th.loopSkipped (s.me.pc .seq + 4) b)) ∧
    (s.me.loopOk b = false → ∃ t : TrapInfo, t.code = .shape ∧ Traps .seq i s t) := by
  refine ⟨fun hok hn => does_of_ok h ?starts, fun hok hn => does_of_ok h ?skips, fun hok =>
    ⟨{ code := .shape, estat := 0, addr := 0, openE := -1, openA := true }, rfl, traps_of_trap h ?refused⟩⟩
  case starts =>
    simp only [hok, hn, Bool.not_true, Bool.false_eq_true, if_false]
    rfl
  case skips =>
    simp only [hok, hn, Bool.not_true, Bool.false_eq_true, if_false, if_true, bodyBytes_eq]
    rfl
  case refused =>
    simp only [hok, Bool.not_false, if_true]
    rfl

/-- Settles O8: the four words differ in their trip count and in whether they rotate. -/
theorem loopWordsStartTheirLoop : Obligations.LoopWordsStartTheirLoop := fun s c b st =>
  ⟨loopWord_cases (exec_loop c b s), loopWord_cases (exec_loopRot c b st s), loopWord_cases (exec_loopi c b s), loopWord_cases (exec_loopiRot c b st s)⟩

end Sys2Proof.Machine
end

section
/-! SUPPORT. Three statements on SEQ that are false as they stand, each with what holds in the place of the clause that fails (R96, R108, R110, R111, R165). -/

namespace Sys2Proof.Machine

/-! ## Writing a record back -/

/-- A write below every key that is listed puts its entry in front, unless its value is the default. -/
theorem Tab.set_of_wfFrom {α : Type} [Inhabited α] [DecidableEq α] {t : Tab α} {k : Nat} (h : Tab.wfFrom (some k) t = true) (v : α) :
    t.set k v = if v = default then t else (k, v) :: t := by
  cases t with
  | nil => rfl
  | cons e rest =>
    obtain ⟨j, u⟩ := e
    have hlt : k < j := ((Tab.wfFrom_cons _ _ _ _).1 h).1 k rfl
    simp [Tab.set, hlt.ne', hlt.not_gt]

/-- Nothing goes from above a key below all that are listed. -/
theorem Tab.above_of_wfFrom {α : Type} [Inhabited α] [DecidableEq α] {t : Tab α} {k : Nat} (h : Tab.wfFrom (some k) t = true) : Tab.above t k = t := by
  cases t with
  | nil => rfl
  | cons e rest =>
    obtain ⟨j, u⟩ := e
    exact if_neg (((Tab.wfFrom_cons _ _ _ _).1 h).1 k rfl).not_ge

/-- In a canonical table, to write what a key holds changes nothing. -/
theorem Tab.set_get_self {α : Type} [Inhabited α] [DecidableEq α] {t : Tab α} (k : Nat) : ∀ {lo}, Tab.wfFrom lo t = true → t.set k (t.get k) = t := by
  induction t with
  | nil => exact fun _ => if_pos rfl
  | cons e rest ih =>
    intro lo h
    obtain ⟨j, v⟩ := e
    obtain ⟨-, hv, hrest⟩ := (Tab.wfFrom_cons _ _ _ _).1 h
    obtain hj | hj | hj := Nat.lt_trichotomy j k
    · simp [Tab.set, Tab.get, hj, hj.ne, hj.not_gt, ih hrest]
    · simp [Tab.set, Tab.get, hj, hv]
    · simp [Tab.set, Tab.get, hj, hj.ne', hj.not_gt]

/-- In a canonical table, of two writes at one key the later counts. -/
theorem Tab.set_set {α : Type} [Inhabited α] [DecidableEq α] {t : Tab α} (k : Nat) (v w : α) : ∀ {lo}, Tab.wfFrom lo t = true →
    (t.set k v).set k w = t.set k w := by
  induction t with
  | nil => intro lo _; by_cases hv : v = default <;> simp [Tab.set, hv, Tab.above]
  | cons e rest ih =>
    intro lo h
    obtain ⟨j, u⟩ := e
    obtain ⟨-, -, hrest⟩ := (Tab.wfFrom_cons _ _ _ _).1 h
    obtain hj | hj | hj := Nat.lt_trichotomy j k
    · simp [Tab.set, hj, ih hrest]
    · by_cases hv : v = default
      · subst hj
        simp [Tab.set, hv, Tab.above_of_wfFrom hrest, Tab.set_of_wfFrom hrest]
      · simp [Tab.set, hj, hv]
    · by_cases hv : v = default <;> simp [Tab.set, hj.ne', hj.not_gt, hj.not_ge, hv, Tab.above]

theorem State.modMe_of_eq {s : State} (h : s.threads.wf = true) {f : Thread → Thread} (hf : f s.me = s.me) : s.modMe f = s := by
  have hset : s.threads.set s.cur (f s.me) = s.threads := by rw [hf]; exact Tab.set_get_self s.cur h
  exact congrArg (fun x => { s with threads := x }) hset

theorem State.modMe_modMe {s : State} (h : s.threads.wf = true) (f g : Thread → Thread) : (s.modMe f).modMe g = s.modMe fun th => g (f th) := by
  have hset : (s.threads.set s.cur (f s.me)).set s.cur (g (s.modMe f).me) = s.threads.set s.cur (g (f s.me)) := by
    rw [State.me_modMe, Tab.set_set s.cur _ _ h]
  exact congrArg (fun x => { s with threads := x }) hset

/-- A state whose thread table is not canonical: it lists the key of the current thread twice, and to write the default record there drops both entries. -/
def twiceListed (th : Thread) : State := { State.reset with threads := [(0, th), (0, th)] }

/-! ## A branch not taken (R96) -/

/-- With a canonical thread table a branch not taken does nothing. -/
theorem does_br_untaken {s : State} (h : s.threads.wf = true) {p : BitVec 4} {n : BitVec 1} (o : BitVec 19) (hp : xor (s.me.rp p) (decide (n = 1)) = false) :
    Does .seq (.br p n o) s s := by
  refine does_of_ok (exec_br p n o s) (congrArg Except.ok (State.modMe_of_eq h ?_))
  rw [bne_neg, hp]
  rfl

/-- Refutes O7: a branch not taken writes the record of its thread back. Where the table lists a default record, that takes it out with the later entries of its
key, which the statement keeps; `does_br_untaken` has the clause for a canonical table. -/
theorem not_transfersGoToTheirTarget : ¬ Obligations.TransfersGoToTheirTarget := by
  intro h
  obtain ⟨-, hbr, -⟩ := h (twiceListed default) 0 1 0 0 0 0 0
  have untaken : exec (.br 0 1 0) (twiceListed default) = .next ((twiceListed default).retire .seq (twiceListed default)) := hbr rfl
  have written : exec (.br 0 1 0) (twiceListed default) = .next (((twiceListed default).modMe id).retire .seq (twiceListed default)) := rfl
  have same := congrArg (fun s => s.threads.length) (Host.Outcome.next.inj (untaken.symm.trans written))
  exact absurd same (by decide)

/-! ## A pop (R108) -/

/-- With a canonical thread table a pop drops the head of its queue and then writes its scalar. -/
theorem does_qpop {s : State} (h : s.threads.wf = true) (d : BitVec 6) {q : BitVec 4} {v : Dword} {rest : List Dword} (hq : s.me.qs.get q.toNat = v :: rest) :
    Does .seq (.qpop d q) s ((s.modMe fun th => th.dropS q.toNat).putS d v) := by
  rw [State.putS, State.modMe_modMe h]
  exact qpop_pops d hq

/-- A thread that holds nothing but one entry of q6. -/
def oneEntry : Thread := { (default : Thread) with qs := [(6, [5])] }

/-- Refutes O10: the pop of the only thing that a thread holds. The statement writes the emptied record before the scalar, which takes it out of the table with the later
entries of its key, where the word writes the record once; `does_qpop` has the clause for a canonical table. -/
theorem not_queueAndRegisterWordsOfSeq : ¬ Obligations.QueueAndRegisterWordsOfSeq := by
  intro h
  obtain ⟨-, hqpop, -⟩ := h.1 (twiceListed oneEntry) 1 0 0 6 0 0 0 0
  have stated : exec (.qpop 1 6) (twiceListed oneEntry) = .next ((((twiceListed oneEntry).modMe fun th => th.dropS 6).putS 1 5).retire .seq (twiceListed oneEntry)) :=
    hqpop 5 [] rfl
  have popped : exec (.qpop 1 6) (twiceListed oneEntry) = .next (((twiceListed oneEntry).modMe fun th => (th.dropS 6).ws .seq 1 5).retire .seq (twiceListed oneEntry)) :=
    qpop_pops 1 rfl
  have same := congrArg (fun s => s.threads.length) (Host.Outcome.next.inj (stated.symm.trans popped))
  exact absurd same (by decide)

/-! ## A marker step at a join (R110, R111, R165) -/

/-- A join that lets fetch go on only adds to the end of a queue. -/
theorem Thread.passJoin_extends (th : Thread) (k : Nat) : th.iq.get k <+: th.passJoin.iq.get k := by
  unfold Thread.passJoin
  split
  · split
    · exact th.goOn_extends k
    · exact ⟨[], List.append_nil _⟩
  · exact ⟨[], List.append_nil _⟩

/-- A join that lets fetch go on adds to SEQ's queue alone. -/
theorem Thread.passJoin_other (th : Thread) {k : Nat} (hk : k ≠ 0) : th.passJoin.iq.get k = th.iq.get k := by
  unfold Thread.passJoin
  split
  · split
    · exact th.goOn_other k hk
    · rfl
  · rfl

/-- A marker step takes the markers off the head of its queue and leaves the others, but for pass boundaries that come to the end of SEQ's queue when a join lets fetch
go on. -/
theorem markerReachesHead_queues (s : State) (t e : Nat) : ∃ u, exec (.markerReachesHead t e) s = .next u ∧
    (e ≠ 0 → (u.thr t).iq.get e = dropMarkers ((s.thr t).iq.get e)) ∧ (∀ f, f ≠ 0 → f ≠ e → (u.thr t).iq.get f = (s.thr t).iq.get f) ∧
    (if e = 0 then dropMarkers ((s.thr t).iq.get 0) else (s.thr t).iq.get 0) <+: (u.thr t).iq.get 0 := by
  refine ⟨_, rfl, fun he => ?own, fun f hf hfe => ?other, ?seq⟩ <;> rw [State.thr_modThr_same]
  case own => rw [Thread.passJoin_other _ he, Tab.get_set_same]
  case other => rw [Thread.passJoin_other _ hf, Tab.get_set_other _ _ _ _ hfe]
  case seq =>
    refine List.IsPrefix.trans ?_ (Thread.passJoin_extends _ 0)
    rw [Tab.get_set]
    by_cases he : e = 0
    · rw [if_pos he, if_pos he.symm, he]
    · rw [if_neg he, if_neg (Ne.symm he)]

/-- A thread whose fetch stands at a join of slot 0, the last word of a loop's body: the join is in SEQ's queue, and of the slot's markers one is left, at ADR's head. -/
def joinEndsBody : Thread :=
  { (default : Thread) with
    iq := [(0, [{ item := .word 0x18000000, addr := 8, ord := 6, rrb := 0 }]), (1, [{ item := .marker 0, addr := 0, ord := 2, rrb := 0 }])]
    nextOrd := 8, fetch := 12, fetchSt := .onJoin 0
    loops := [{ lcnt := 0, drain := 0, nst := 0, rot := false, start := 8, body := 1 }] }

/-- Refutes O9 in the clause on markers: with the last marker of its slot gone the join lets fetch go on, and at the end of a loop's body fetch delivers the pass boundary
to SEQ's queue, which the statement leaves as it is. `markerReachesHead_queues` says what becomes of the queues. -/
theorem not_passBoundariesCountDown : ¬ Obligations.PassBoundariesCountDown := by
  intro h
  obtain ⟨-, -, -, hmarker, -⟩ := h
  obtain ⟨u, hu, -, hother, -⟩ := hmarker { State.reset with threads := [(0, joinEndsBody)] } 0 1
  rw [← Host.Outcome.next.inj hu] at hother
  have kept := hother 0 (by decide)
  exact absurd kept (by decide)

end Sys2Proof.Machine
end

section
/-! SUPPORT. What the end of a thread leaves of the threads (R146, R205, R206, R273). -/

namespace Sys2Proof.Machine

/-! ## What neither a release of tokens nor the end of another thread changes -/

/-- Of a thread its state, its scalars, its seed stack and its instruction queues. -/
def Thread.own (th : Thread) : ThreadSt × Tab Dword × List SeedEntry × Tab (List IqEntry) := (th.st, th.s, th.seeds, th.iq)

/-- Of every thread, `t` has the same as `s` in what `g` reads. -/
structure ThreadsKeep {α : Type} (g : Thread → α) (s t : State) : Prop where
  keep : ∀ k, g (t.thr k) = g (s.thr k)

section
variable {α : Type} {g : Thread → α}

theorem ThreadsKeep.refl (s : State) : ThreadsKeep g s s := ⟨fun _ => rfl⟩

theorem ThreadsKeep.trans {s t u : State} (h : ThreadsKeep g s t) (k : ThreadsKeep g t u) : ThreadsKeep g s u := ⟨fun x => (k.keep x).trans (h.keep x)⟩

theorem ThreadsKeep.fold {β : Type} (f : State → β → State) (step : ∀ s a, ThreadsKeep g s (f s a)) (l : List β) (s : State) :
    ThreadsKeep g s (l.foldl f s) := foldl_rel (ThreadsKeep g) .refl (fun _ _ _ => .trans) f step l s

theorem ThreadsKeep.of_threads {s t : State} (h : t.threads = s.threads) : ThreadsKeep g s t := ⟨fun k => by rw [State.thr, State.thr, h]⟩

theorem ThreadsKeep.of_mem {s t : State} (h : MemStep s t) : ThreadsKeep g s t := .of_threads h.1.keeps.1

theorem ThreadsKeep.ite {s t u : State} {c : Prop} [Decidable c] (h : ThreadsKeep g s t) (k : ThreadsKeep g s u) :
    ThreadsKeep g s (if c then t else u) := by
  split
  · exact h
  · exact k

/-- An update of one record that leaves what `g` reads. -/
theorem ThreadsKeep.modThr (s : State) (t : Nat) (f : Thread → Thread) (h : g (f (s.thr t)) = g (s.thr t)) : ThreadsKeep g s (s.modThr t f) := by
  refine ⟨fun k => ?_⟩
  by_cases hk : k = t
  · rw [hk, State.thr_modThr_same, h]
  · rw [State.thr_modThr_other _ _ _ _ hk]

end

/-- Every thread has the same own part in `t` as in `s`. -/
abbrev OwnKept (s t : State) : Prop := ThreadsKeep Thread.own s t

/-! ## Tokens (R259, R273) -/

theorem cacheBack_step (s : State) (xs : List Extent) (key base top d : Nat) : MemStep s (s.cacheBack xs key base top d) :=
  MemStep.fold _ (fun _ _ => writeBack_step ..) _ s

theorem cacheDrop_step (s : State) (xs : List Extent) (key base top d : Nat) : MemStep s (s.cacheDrop xs key base top d) := by
  refine MemStep.fold _ (fun s line => ?_) _ s
  extract_lets m s1
  split
  · exact .refl s
  · exact (writeBack_step ..).trans ⟨rfl, id⟩

theorem moveCaches_step (s : State) (key : Nat) (p : Piece) (old new : Party) : MemStep s (s.moveCaches key p old new) := by
  unfold State.moveCaches
  extract_lets s1 xs ds s2
  have h1 : MemStep s s1 := drainPosted_step ..
  have h2 : MemStep s1 s2 := MemStep.fold _ (fun _ _ => cacheBack_step ..) _ s1
  split
  · exact h1
  · exact (h1.trans h2).trans (MemStep.fold _ (fun _ _ => cacheDrop_step ..) _ s2)

/-- A share that goes changes memory and the pieces. -/
theorem unshare_own (s : State) (key : Nat) (p : Piece) (f : Party → Bool) : OwnKept s (s.unshare key p f) := by
  unfold State.unshare
  split
  · exact .refl s
  · extract_lets s1 xs s2
    have h1 : MemStep s s1 := drainPosted_step ..
    have h2 : MemStep s1 s2 := by
      unfold s2
      split
      · exact .refl s1
      · exact MemStep.fold _ (fun _ _ => cacheDrop_step ..) _ s1
    exact (ThreadsKeep.of_mem (h1.trans h2)).trans (.of_threads rfl)

theorem giveBack_own (s : State) (key : Nat) (p : Piece) : OwnKept s (s.giveBack key p) :=
  (ThreadsKeep.of_mem (moveCaches_step s key p _ _)).trans (.of_threads rfl)

theorem unshareAll_own (n x key base fuel : Nat) : ∀ s : State, OwnKept s (s.unshareAll n x key base fuel) := by
  induction fuel with
  | zero => exact .refl
  | succ fuel ih =>
    intro s
    unfold State.unshareAll
    split
    · exact .refl s
    · split
      · exact (unshare_own ..).trans (ih _)
      · exact .refl s

theorem giveBackAll_own (n x key base fuel : Nat) : ∀ s : State, OwnKept s (s.giveBackAll n x key base fuel) := by
  induction fuel with
  | zero => exact .refl
  | succ fuel ih =>
    intro s
    unfold State.giveBackAll
    split
    · exact .refl s
    · split
      · exact (giveBack_own ..).trans (ih _)
      · exact .refl s

theorem tokensOfEnd_own (s : State) (n x : Nat) : OwnKept s (s.tokensOfEnd n x) := by
  unfold State.tokensOfEnd
  extract_lets s1 s2
  have h1 : OwnKept s s1 := .fold _ (fun s e => by exact unshareAll_own n x e.1 e.2.base 16 s) _ s
  have h2 : OwnKept s1 s2 := .fold _ (fun s e => by exact giveBackAll_own n x e.1 e.2.base 5 s) _ s1
  refine (h1.trans h2).trans ?_
  split
  · exact .of_threads rfl
  · exact .refl s2

/-! ## Events, barriers and gangs (R158, R205, R206) -/

@[simp] theorem State.putEvent_threads (s : State) (port : Nat) (r : EvRec) : (s.putEvent port r).threads = s.threads := by
  simp only [State.putEvent, State.diripoSend, State.hostWrite_threads]

@[simp] theorem State.holdOut_threads (s : State) (port : Nat) (w : PortWrite) : (s.holdOut port w).threads = s.threads := rfl

@[simp] theorem State.eventFor_threads (s : State) (port : Nat) (r : EvRec) (t : Option Nat) : (s.eventFor port r t).threads = s.threads := by
  unfold State.eventFor
  extract_lets p
  split
  · rw [State.putEvent_threads]
  · rw [State.holdOut_threads]

@[simp] theorem State.event_threads (s : State) (cid : Nat) (r : EvRec) : (s.event cid r).threads = s.threads := State.eventFor_threads ..

@[simp] theorem State.checkStopped_threads (s : State) (cid : Nat) : (s.checkStopped cid).threads = s.threads := by
  unfold State.checkStopped
  extract_lets busy
  split
  · rw [State.event_threads]
  · rfl

theorem acquire_own (s : State) (t : Nat) : OwnKept s (s.acquire t) :=
  (ThreadsKeep.modThr s t _ (by rfl)).trans (.of_mem (domainAcquire_step ..))

theorem settleBarrier_own (s : State) (g key : Nat) : OwnKept s (s.settleBarrier g key) := by
  unfold State.settleBarrier
  extract_lets b id s1 s2
  have h1 : OwnKept s s1 := .of_threads rfl
  have h2 : OwnKept s1 s2 := .fold _ (fun s t => .modThr s t _ (by rfl)) _ s1
  refine .ite ((h1.trans h2).trans (.fold _ (fun s t => ?_) _ s2)) (.refl s)
  exact .ite (acquire_own s t) (.modThr s t _ (by rfl))

theorem settleBarriers_own (s : State) (g : Nat) : OwnKept s (s.settleBarriers g) := .fold _ (fun s e => by exact settleBarrier_own s g e.1) _ s

theorem settleTask_own (s : State) (x : Task) (st : SbSt) : OwnKept s (s.settleTask x st) := by
  unfold State.settleTask
  split
  · exact .modThr s _ _ (by rfl)
  · exact .refl s

theorem stopTask_own (s : State) (k : Nat) (st : SbSt) : OwnKept s (s.stopTask k st) := by
  unfold State.stopTask
  extract_lets x s1
  have h1 : OwnKept s s1 := by
    unfold s1
    split
    · exact .of_threads rfl
    · exact .refl s
  exact (h1.trans (settleTask_own ..)).trans (.of_threads rfl)

theorem loosenWork_own (s : State) (ts : List Nat) : OwnKept s (s.loosenWork ts) := by
  refine .fold _ (fun s e => ?_) _ s
  extract_lets x
  exact .ite (stopTask_own ..) (.ite (.of_threads rfl) (.refl s))

theorem retireGang_own (s : State) (g : Nat) : OwnKept s (s.retireGang g) := by
  unfold State.retireGang
  extract_lets x s1 rings s2 s3 s4
  have h3 : OwnKept s1 s3 := by
    unfold s3
    split <;> exact .of_threads rfl
  exact ((loosenWork_own s _).trans h3).trans (.of_threads (State.checkStopped_threads ..))

/-! ## The end of a thread (R146, R221) -/

theorem sbarEffect_own (s : State) (n : Nat) : OwnKept s (s.sbarEffect n) := by
  unfold State.sbarEffect
  split
  · exact .refl s
  · split
    · exact .refl s
    · exact (ThreadsKeep.of_mem (drainThread_step ..)).trans (.of_threads rfl)

theorem sbarsOf_own (t fuel : Nat) : ∀ s : State, OwnKept s (s.sbarsOf t fuel) := by
  induction fuel with
  | zero => exact .refl
  | succ fuel ih =>
    intro s
    unfold State.sbarsOf
    split
    · exact (sbarEffect_own ..).trans (ih _)
    · exact .refl s

theorem dropArea_own (s : State) (t : Nat) : OwnKept s (s.dropArea t) := by
  unfold State.dropArea
  extract_lets th s1
  have h1 : OwnKept s s1 := .modThr s t _ (by rfl)
  split
  · exact .refl s
  · exact .ite h1 (h1.trans (.of_threads rfl))

/-- A thread that leaves is discarded, after and before steps that keep what every thread has of its own. -/
theorem leave_discards (s : State) (t : Nat) : ∃ u, OwnKept s u ∧ OwnKept (u.modThr t Thread.discarded) (s.leave t) := by
  unfold State.leave
  extract_lets s1 th s2 s3 s4 s5 s6 s7
  have h1 : OwnKept s s1 := sbarsOf_own ..
  have h2 : OwnKept s1 s2 := .fold _ (fun s b => by exact .of_threads rfl) _ s1
  have h3 : OwnKept s2 s3 := dropArea_own ..
  have h7 : OwnKept s6 s7 := settleBarriers_own ..
  refine ⟨s5, ((h1.trans h2).trans h3).trans (.of_threads rfl), h7.trans ?_⟩
  split
  · exact retireGang_own ..
  · exact .refl s7

theorem endThread_discards (s : State) (t : Nat) : ∃ u, OwnKept s u ∧ OwnKept (u.modThr t Thread.discarded) (s.endThread t) := by
  obtain ⟨u, h, k⟩ := leave_discards ((s.drainThread t).tokensOfEnd (s.thr t).node (s.nodeIndex (s.thr t))) t
  exact ⟨u, ((ThreadsKeep.of_mem (drainThread_step ..)).trans (tokensOfEnd_own ..)).trans h, k⟩

/-- What a thread has of its own when its state is discarded. -/
theorem Thread.discarded_own (th : Thread) : th.discarded.own = (.ended, th.s, th.seeds, []) := rfl

/-- A thread that ends has ended, with no word delivered and its seeds kept; the others go on as they were. -/
theorem endThread_ends (s : State) (t : Nat) : ((s.endThread t).thr t).own = (.ended, (s.thr t).s, (s.thr t).seeds, []) ∧
    ∀ k, k ≠ t → ((s.endThread t).thr k).own = (s.thr k).own := by
  obtain ⟨u, h, k⟩ := endThread_discards s t
  have hu := h.keep t
  simp only [Thread.own, Prod.mk.injEq] at hu
  refine ⟨?_, fun j hj => ?_⟩
  · rw [k.keep, State.thr_modThr_same, Thread.discarded_own, hu.2.1, hu.2.2.1]
  · rw [k.keep, State.thr_modThr_other _ _ _ _ hj, h.keep]

end Sys2Proof.Machine
end

section
/-! SUPPORT. The words of SYN that act on their own thread, each by its cases, and the statement O42 from them. -/

namespace Sys2Proof.Machine

/-! ## Seed words (R123, R124) -/

section
variable {i : Instr} {s : State} {f : List SeedEntry → Option (List SeedEntry)} (hi : exec i s = seedWord f s)
include hi

theorem seedWord_does (h : s.me.vecOwes = false ∧ s.me.matOwes = false ∧ s.me.arrayOwes = false) {l : List SeedEntry} (hf : f s.me.seeds = some l) :
    Does .syn i s (s.modMe fun th => { th with seeds := l }) := by
  obtain ⟨hv, hm, ha⟩ := h
  exact does_of_ok hi (by simp [hv, hm, ha, hf])

theorem seedWord_traps (h : s.me.vecOwes = false ∧ s.me.matOwes = false ∧ s.me.arrayOwes = false) (hf : f s.me.seeds = none) :
    ∃ t : TrapInfo, t.code = .shape ∧ Traps .syn i s t := by
  obtain ⟨hv, hm, ha⟩ := h
  exact ⟨_, rfl, traps_of_trap hi (by simp only [hv, hm, ha, hf, Bool.false_or, Bool.false_eq_true, if_false]; rfl)⟩

theorem seedWord_waits (h : s.me.vecOwes = true) : Waits .syn i s (.engines [.vec]) := waits_of_hold hi (by rw [if_pos h]; rfl)

end

theorem seedPushed_room {k : Dword} {l : List SeedEntry} (h : l.length < 16) : seedPushed k l = some ({ key := k, vec := 0, mat := 0 } :: l) :=
  if_neg (by omega)

theorem seedPushed_full {k : Dword} {l : List SeedEntry} (h : 16 ≤ l.length) : seedPushed k l = none := if_pos h

theorem seedForked_full {v : Dword} {l : List SeedEntry} (h : 16 ≤ l.length) : seedForked v l = none := by
  cases l with
  | nil => rfl
  | cons e rest => exact seedPushed_full h

/-! ## Resume and eret (R136, R137) -/

theorem needHandler_ok {s : State} (h : s.me.st = .handler) : needHandler s = .ok () := if_pos h

theorem needHandler_traps {s : State} (h : s.me.st ≠ .handler) :
    needHandler s = .error (.trap { code := .illegalInsn, estat := 0, addr := 0, openE := -1, openA := true } s) := if_neg h

/-- A word that state handler alone allows raises ILLEGAL_INSN in every other. -/
theorem traps_outside_handler {i : Instr} {s : State} {f : Unit → Except Exit State} (hi : exec i s = finish .syn s (needHandler s >>= f))
    (h : s.me.st ≠ .handler) : ∃ t : TrapInfo, t.code = .illegalInsn ∧ Traps .syn i s t :=
  ⟨_, rfl, traps_of_trap hi (by rw [needHandler_traps h]; rfl)⟩

theorem resumeEnd_pending {a : BitVec 6} {s : State} (h : s.me.sbPending = true) : resumeEnd a s = .error (.hold .outside s) := if_pos h

theorem resumeEnd_ok {a : BitVec 6} {s u : State} (h : s.me.sbPending = false) (hr : rewriteRecord s = .ok u) :
    resumeEnd a s = .ok ((u.setStage 0).modMe fun th => th.ws .syn a (BitVec.ofNat 64 th.unclean)) := by
  rw [resumeEnd, if_neg (by simp [h]), hr]
  rfl

/-- The state in which resume.abort ends: its asynchronous work has been aborted once (R136). -/
def State.resumeAborted (s : State) : State :=
  if s.me.synStage = 1 then s else (s.abortAll s.cur true fun e => e == .xfr || e == .fab || e == .atn).setStage 1

theorem exec_resumeWait_of_handler {s : State} (a : BitVec 6) (h : s.me.st = .handler) : exec (.resumeWait a) s = finish .syn s (resumeEnd a s) := by
  rw [exec_resumeWait, execResumeWait, needHandler_ok h]
  rfl

theorem exec_resumeAbort_of_handler {s : State} (a : BitVec 6) (h : s.me.st = .handler) :
    exec (.resumeAbort a) s = finish .syn s (resumeEnd a s.resumeAborted) := by
  rw [exec_resumeAbort, execResumeAbort, needHandler_ok h]
  rfl

/-- eret traps as what it reads traps. -/
theorem exec_eret_of_error {s : State} {x : Exit} (h : eretCore s = .error x) : exec .eret s = finish .syn s (.error x) := by
  rw [exec_eret, execEret, h]

/-- eret waits while an entry is pending, from its first step on. -/
theorem eretCore_pending {s : State} (h : s.me.st = .handler) (ha : s.me.allBefore .syn = true) (hp : s.me.sbPending = true) :
    eretCore s = .error (.hold .outside (s.setStage 1)) := by
  rw [eretCore, needHandler_ok h, synAfter, if_pos ha, if_pos hp]
  rfl

/-! ### What a return to the program leaves of a thread -/

/-- A fold over batches that changes the scoreboard alone at every batch changes it alone. -/
theorem Thread.foldl_sb_only {α : Type} (f : Thread → α → Thread) (h : ∀ th b, f th b = { th with sb := (f th b).sb }) (l : List α) :
    ∀ th, l.foldl f th = { th with sb := (l.foldl f th).sb } := by
  induction l with
  | nil => exact fun _ => rfl
  | cons b l ih =>
    intro th
    rw [List.foldl_cons, ih (f th b)]
    generalize (l.foldl f (f th b)).sb = x
    rw [h th b]

theorem Thread.batchEntries_only (th : Thread) (st : SbSt) : th.batchEntries st = { th with sb := (th.batchEntries st).sb } :=
  Thread.foldl_sb_only _ (fun th b => by split <;> rfl) th.batches th

/-- A restart gives the waits and entries anew, and changes nothing else of a thread. -/
theorem Thread.restarted_only (th : Thread) : th.restarted = { th with
    sb := th.restarted.sb, held := [], stall := 0, deadSet := 0, stepPc := none, recheck := true, pend := none, adrTrap := none, skip := 0
    results := [], atnData := none } := by
  unfold Thread.restarted
  rw [Thread.batchEntries_only]
  rfl

/-- Of a thread what a return to its program settles, but for queues and fetch. -/
def Thread.program (th : Thread) : ThreadSt × Bool × Tab (List IqEntry) × Tab Dword × Dword × Tab Row × Tab Mask × Tab Row × Bool :=
  (th.st, th.inh, th.aside, th.s, th.fpctl, th.v, th.m, th.acc, th.sten)

theorem Thread.release_program (th : Thread) : th.release.program = th.program := by rw [Thread.release_only]; rfl

theorem Thread.restarted_program (th : Thread) : th.restarted.program = th.program := by rw [Thread.restarted_only]; rfl

theorem Thread.applySkip_program (th : Thread) (skip : BitVec 8) : (th.applySkip skip).program = th.program := rfl

/-- A reload leaves the registers that the area does not hold. -/
theorem Thread.reload_keeps (th : Thread) (bs : List Byte) :
    (th.reload bs).v = th.v ∧ (th.reload bs).m = th.m ∧ (th.reload bs).acc = th.acc ∧ (th.reload bs).sten = th.sten := by
  rw [Thread.reload]
  exact ⟨rfl, rfl, rfl, rfl⟩

/-- The registers that a return reloads, and what it leaves. -/
theorem Thread.leaveHandler_program (th : Thread) (bs : List Byte) (skip : BitVec 8) :
    (th.leaveHandler bs skip).program = (.running, false, [], (th.reload bs).s, (th.reload bs).fpctl, th.v, th.m, th.acc, th.sten) := by
  rw [Thread.leaveHandler, Thread.release_program, Thread.restarted_program, Thread.applySkip_program]
  obtain ⟨hv, hm, hacc, hsten⟩ := th.reload_keeps bs
  rw [← hv, ← hm, ← hacc, ← hsten]
  generalize th.reload bs = r
  rfl

/-- A read after a run of writes of the keys from 1 on. -/
theorem Tab.get_foldl_set_succ {α : Type} [Inhabited α] [DecidableEq α] (f : Nat → α) (n j : Nat) (t : Tab α) :
    ((List.range n).foldl (fun t i => t.set (i + 1) (f i)) t).get (j + 1) = if j < n then f j else t.get (j + 1) := by
  induction n with
  | zero => rfl
  | succ n ih =>
    rw [List.range_succ, List.foldl_append, List.foldl_cons, List.foldl_nil, Tab.get_set, ih]
    by_cases hj : j = n
    · simp [hj]
    · simp [hj, show (j < n + 1) = (j < n) by simp; omega]

/-- The scalars that a return or a resume reloads, from the bytes at 0x100. -/
theorem Thread.reload_s (th : Thread) (bs : List Byte) {j : Nat} (h1 : 1 ≤ j) (h : j < 64) : (th.reload bs).s.get j = leDword ((bs.drop (8 * j)).take 8) := by
  obtain ⟨i, rfl⟩ : ∃ i, j = i + 1 := ⟨j - 1, by omega⟩
  have hs : (th.reload bs).s = (List.range 63).foldl (fun t j => t.set (j + 1) (dwAt bs (0x108 + 8 * j - 0x100))) th.s := by
    rw [Thread.reload]
  rw [hs, Tab.get_foldl_set_succ (fun j => dwAt bs (0x108 + 8 * j - 0x100)) 63 i th.s, if_pos (by omega), dwAt,
    show 0x108 + 8 * i - 0x100 = 8 * (i + 1) by omega]

/-- eret outside single step returns to the program (R137). -/
theorem eret_returns {s u : State} {bs : List Byte} {skip : BitVec 8} (h : eretCore s = .ok (bs, skip, u)) (hs : u.me.sten = false) :
    exec .eret s = .next (u.modMe fun th => { th.leaveHandler bs skip with count := th.count.set 7 (th.count.get 7 + 1) }) := by
  have hx := u.me.leaveHandler_program bs skip
  simp only [Thread.program, Prod.mk.injEq] at hx
  obtain ⟨-, -, -, -, -, -, -, -, hsten⟩ := hx
  rw [exec_eret, execEret, h]
  refine if_neg fun w => ?_
  rw [State.me_modMe] at w
  exact absurd (w.1.symm.trans (hsten.trans hs)) (by decide)

/-! ## Halt (R146) -/

/-- halt ends its thread. -/
theorem halt_ends {s : State} (h : s.haltReady s.cur = true) : ∃ u, exec .halt s = .next u ∧
    (u.thr s.cur).own = (.ended, s.me.s, s.me.seeds, []) ∧ ∀ t, t ≠ s.cur → (u.thr t).own = (s.thr t).own := by
  rw [exec_halt, execHalt, h]
  refine ⟨_, rfl, ?_⟩
  generalize hv : (if s.me.st = .handler then s.taint s.cur .syn s.me.recCode.num else s) = v
  have hk : OwnKept s v := hv ▸ .ite (.modThr s _ _ (by rfl)) (.refl s)
  obtain ⟨hown, hothers⟩ := endThread_ends v s.cur
  have hcur := hk.keep s.cur
  simp only [Thread.own, Prod.mk.injEq] at hcur
  obtain ⟨-, hs, hseeds, -⟩ := hcur
  exact ⟨by rw [hown, hs, hseeds]; rfl, fun t ht => (hothers t ht).trans (hk.keep t)⟩

theorem halt_waits {s : State} (h : s.haltReady s.cur = false) : Waits .syn .halt s .outside := by
  rw [Waits, exec_halt, execHalt, h]
  rfl

/-! ## Configuration and power words (R26, R469), wait.sb (R295) -/

theorem needPriv_ok {s : State} (h : (s.ctxs.get s.me.cid).sys = true) : needPriv s = .ok () := if_pos h

theorem exec_wrcfg_of_sys {s : State} (n : BitVec 8) (a : BitVec 6) (h : (s.ctxs.get s.me.cid).sys = true) : exec (.wrcfg n a) s = finish .syn s
    (if n = 0x20 ∧ 16 ≤ (s.die s.me.die).migQ.length then synHold s else .ok (s.writeCfg s.me.die n.toNat (s.ys a))) := by
  rw [exec_wrcfg, execWrcfg, needPriv_ok h]
  rfl

/-! ## The statement -/

/-- Settles O42 from the lemmas on each word's cases. -/
theorem synWordsOnTheirThread : Obligations.SynWordsOnTheirThread := by
  intro s s1 a n i e rest bs skip th v handler sys calm seeds traps fork counted aborted
  have push : exec (.seedPush a) s = seedWord (seedPushed v) s := exec_seedPush a s
  have pop : exec .seedPop s = seedWord seedPopped s := exec_seedPop s
  have forks : exec (.seedFork a) s = seedWord (seedForked v) s := exec_seedFork a s
  have habort : s.resumeAborted = aborted := rfl
  refine ⟨fun hc h => seedWord_does push hc (seedPushed_room h), fun hc h => ⟨seedWord_traps push hc (seedPushed_full h), seedWord_traps forks hc (seedForked_full h)⟩,
    fun hc h => seedWord_does pop hc (by rw [h]; rfl), fun hc h => ⟨seedWord_traps pop hc (by rw [h]; rfl), seedWord_traps forks hc (by rw [h]; rfl)⟩,
    fun hc h hr => seedWord_does forks hc (by rw [h]; exact seedPushed_room (Nat.succ_lt_succ hr)), fun h => ⟨seedWord_waits push h, seedWord_waits pop h, seedWord_waits forks h⟩,
    ⟨_, rfl, rfl, traps_of_trap (exec_trap i a s) rfl⟩,
    fun hh hp hr => does_of_ok (exec_resumeWait_of_handler a hh) (resumeEnd_ok hp hr), fun hh hp => waits_of_hold (exec_resumeWait_of_handler a hh) (resumeEnd_pending hp),
    fun hh hp hr => does_of_ok (exec_resumeAbort_of_handler a hh) (resumeEnd_ok hp hr), ?abortWaits,
    fun hh => ⟨traps_outside_handler (exec_resumeWait a s) hh, traps_outside_handler (exec_resumeAbort a s) hh, ?eretTraps⟩,
    fun hh ha hp => exec_eret_of_error (eretCore_pending hh ha hp), ?eretReturns,
    ?wrcfg, ?wrcfgWaits, ?wrcfgTraps, does_of_ok (exec_rdcfg n a s) rfl, does_of_ok (exec_pwrSt a s) rfl,
    fun h => does_of_ok (exec_pwrHint a s) (if_neg (not_not.2 h)), fun h => ⟨_, rfl, traps_of_trap (exec_pwrHint a s) (if_pos h)⟩,
    fun h => does_of_ok (exec_waitSb s) (if_neg (by simpa using h)), fun h => waits_of_hold (exec_waitSb s) (if_pos h), halt_waits, ?halt⟩
  case abortWaits =>
    intro hh hp
    rw [exec_resumeAbort_of_handler a hh, habort, resumeEnd_pending hp]
    rfl
  case eretTraps =>
    have hcore : eretCore s = .error (.trap { code := .illegalInsn, estat := 0, addr := 0, openE := -1, openA := true } s) := by
      rw [eretCore, needHandler_traps hh]; rfl
    exact ⟨_, rfl, exec_eret_of_error hcore⟩
  case eretReturns =>
    intro h hsten
    have hx := s1.me.leaveHandler_program bs skip
    simp only [Thread.program, Prod.mk.injEq] at hx
    obtain ⟨hst, hinh, haside, hs, hfp, hv, hm, hacc, -⟩ := hx
    refine ⟨_, eret_returns h hsten, ?_⟩
    rw [State.me_modMe]
    refine ⟨hst, hinh, rfl, rfl, fun j h1 hj => ?_, hfp, haside, hv, hm, hacc, fun t ht => State.thr_modMe_other _ _ _ ht⟩
    exact (congrArg (Tab.get · j) hs).trans (Thread.reload_s _ _ h1 hj)
  case wrcfg => exact fun h hn => does_of_ok (exec_wrcfg_of_sys n a h) (if_neg fun w => hn.elim (absurd w.1) (Nat.not_lt.2 w.2))
  case wrcfgWaits => exact fun h hq => waits_of_hold (exec_wrcfg_of_sys 0x20 a h) (if_pos ⟨rfl, hq⟩)
  case wrcfgTraps => exact fun h => ⟨_, rfl, traps_of_trap (exec_wrcfg n a s) (by rw [needPriv, if_neg (by simpa using h)]; rfl)⟩
  case halt =>
    intro h
    obtain ⟨u, hu, hown, hothers⟩ := halt_ends h
    simp only [Thread.own, Prod.mk.injEq] at hown hothers
    obtain ⟨hst, -, hseeds, hiq⟩ := hown
    exact ⟨u, hu, hst, hiq, hseeds, fun t ht => ⟨(hothers t ht).1, (hothers t ht).2.1⟩⟩

end Sys2Proof.Machine
end

section
/-! SUPPORT. Taking a trap (R126 to R134, R139): the threads whose engines have stopped, each route by its case, and the statement O45 from them. -/

namespace Sys2Proof.Machine

/-! ## Records that are written again -/

/-- Of two writes at one key the later counts, whatever the table, if the earlier value is not the default. -/
theorem Tab.set_set_of_ne {α : Type} [Inhabited α] [DecidableEq α] (t : Tab α) (k : Nat) {v : α} (w : α) (h : v ≠ default) :
    (t.set k v).set k w = t.set k w := by
  induction t with
  | nil => simp [Tab.set, h, Tab.above]
  | cons e rest ih =>
    obtain ⟨j, u⟩ := e
    obtain hj | hj | hj := Nat.lt_trichotomy j k
    · simp [Tab.set, hj, ih]
    · simp [Tab.set, hj, h]
    · simp [Tab.set, hj.not_gt, hj.ne', hj.not_ge, h, Tab.above]

/-- Two updates of a record are one, if the first leaves one that is not the default. -/
theorem State.modThr_modThr {s : State} {t : Nat} {f : Thread → Thread} (g : Thread → Thread) (h : f (s.thr t) ≠ default) :
    (s.modThr t f).modThr t g = s.modThr t fun th => g (f th) := by
  have hset : (s.threads.set t (f (s.thr t))).set t (g ((s.modThr t f).thr t)) = s.threads.set t (g (f (s.thr t))) := by
    rw [State.thr_modThr_same, Tab.set_set_of_ne _ _ _ h]
  exact congrArg (fun x => { s with threads := x }) hset

theorem Thread.ne_default_of_pend {th : Thread} {p : PendTrap} (h : th.pend = some p) : th ≠ default := fun e => by
  rw [e] at h
  exact nomatch h

/-! ## A thread whose engines have stopped (R126) -/

/-- A thread that executes words, with nothing under way in its array, in MAT or on scratchpad. -/
structure Thread.Idle (th : Thread) : Prop where
  cmd : th.curCmd = none
  array : th.arrayBusy = false
  move : th.move = none
  atom : th.atomBegun = none
  st : th.st = .running ∨ th.st = .handler

/-- What giving back a format word changes of a thread (R127, log entry 94). -/
theorem Thread.unbegun_only (th : Thread) : th.unbegun = { th with
    fmtHeld := th.unbegun.fmtHeld, tileAt := th.unbegun.tileAt, commitWait := th.unbegun.commitWait, batch := th.unbegun.batch, qs := th.unbegun.qs } := by
  unfold Thread.unbegun
  split <;> rfl

/-- The record of a thread in which a trap is pending, its waiting tile command's format word given back. -/
def Thread.trapping (th : Thread) (p : PendTrap) : Thread :=
  ({ th with pend := some p, fabStage := if p.eng = .fab then 0 else th.fabStage } : Thread).unbegun

/-- The format word goes back to the queue whatever else the record says. -/
theorem Thread.trapping_eq (th : Thread) (p : PendTrap) :
    th.trapping p = { th.unbegun with pend := some p, fabStage := if p.eng = .fab then 0 else th.fabStage } := by
  unfold Thread.trapping Thread.unbegun
  simp only
  split <;> rfl

theorem Thread.trapping_pend (th : Thread) (p : PendTrap) : (th.trapping p).pend = some p := by rw [Thread.trapping_eq]

theorem Thread.Idle.trapping {th : Thread} (h : th.Idle) (p : PendTrap) : (th.trapping p).Idle := by
  obtain ⟨hc, ha, hm, hb, hs⟩ := h
  rw [Thread.trapping, Thread.unbegun_only]
  exact ⟨hc, ha, hm, hb, hs⟩

theorem Thread.Idle.quiet {th : Thread} (h : th.Idle) : th.quiet = true := by
  simp [Thread.quiet, Thread.moveBusy, Thread.atomBusy, h.array, h.move, h.atom]

theorem Thread.Idle.takes {th : Thread} (h : th.Idle) : (!th.quiet || !(th.st == .running || th.st == .handler)) = false := by
  obtain hs | hs := h.st <;> rw [h.quiet, hs] <;> rfl

theorem finishMove_none {s : State} {t : Nat} (h : (s.thr t).move = none) : s.finishMove t = s := by
  have hd : (s.thr t).moveDone = false := by simp [Thread.moveDone, h]
  rw [State.finishMove, Thread.moveBad, hd]
  rfl

/-- Whether an ordered atomic has been sent stands again as it was while no atom on scratchpad has begun. -/
def Thread.sentAgain (th : Thread) : Thread := { th with atomoSent := th.atomoSent && th.atomBegun.isNone }

theorem Thread.sentAgain_none {th : Thread} (h : th.atomBegun = none) : th.sentAgain = th := by
  have hsent : (th.atomoSent && th.atomBegun.isNone) = th.atomoSent := by rw [h, Option.isNone_none, Bool.and_true]
  rw [Thread.sentAgain, hsent]

theorem finishAtom_none {s : State} {t : Nat} (h : (s.thr t).atomBegun = none) : s.finishAtom t = s.modThr t Thread.sentAgain := by
  unfold State.finishAtom
  simp only [h]
  rfl

theorem thr_finishAtom_none {s : State} {t : Nat} (h : (s.thr t).atomBegun = none) (v : Nat) : (s.finishAtom t).thr v = s.thr v := by
  rw [finishAtom_none h]
  by_cases hv : v = t
  · rw [hv, State.thr_modThr_same, Thread.sentAgain_none h]
  · exact State.thr_modThr_other _ _ _ _ hv

/-- Once the engines of a thread have stopped its pending trap goes its way (R126, R128). -/
theorem takeTrap_idle {s : State} {t : Nat} {p : PendTrap} (h : (s.thr t).Idle) (hp : (s.thr t).pend = some p) :
    s.takeTrap t = if (s.thr t).userRoute p.info.code then (s.finishAtom t).takeUser t p else (s.finishAtom t).takeSystem t p := by
  unfold State.takeTrap
  rw [h.takes, if_neg Bool.false_ne_true, finishMove_none h.move]
  simp only [hp, thr_finishAtom_none h.atom]

theorem userRoute_iff (th : Thread) (c : TrapCode) : th.userRoute c = true ↔ flag th.trapvec 0 = true ∧ th.st = .running ∧ systemOnly c = false := by
  simp [Thread.userRoute, and_assoc]

/-! ## The user handler (R134) -/

/-- A trap that the handler takes, the area being writable: the record goes there and the thread enters. -/
theorem takeUser_ok {s s1 : State} {t : Nat} {p : PendTrap} {as : List Acc}
    (h : s.accessLin { s.issuer t p.eng with eng := none } (s.thr t).tarea 0x600 true 0 = .ok (as, s1)) :
    s.takeUser t p = (s1.storeAccs { s.issuer t p.eng with eng := none } as
      (trapArea { s.thr t with skip := skipOf p.info.code } p.eng p.info false false)).modThr t fun th => (th.recordTrap p.eng p.info false).enterHandler := by
  have h' : s.accessLin { s.issuer t p.eng with eng := none } ({ s.thr t with skip := skipOf p.info.code } : Thread).tarea 0x600 true 0 = .ok (as, s1) := h
  simp only [State.takeUser, h']

/-- The state in which a trap of a thread is pending. -/
def State.trapWaiting (s : State) (t : Nat) (p : PendTrap) : State := s.modThr t (·.trapping p)

/-- Writing back its record leaves that state as it is. -/
theorem finishAtom_trapWaiting {s : State} {t : Nat} (p : PendTrap) (h : (s.thr t).Idle) : (s.trapWaiting t p).finishAtom t = s.trapWaiting t p := by
  have hi := h.trapping p
  rw [finishAtom_none (by rw [State.trapWaiting, State.thr_modThr_same]; exact hi.atom), State.trapWaiting,
    State.modThr_modThr _ (Thread.ne_default_of_pend ((s.thr t).trapping_pend p))]
  exact State.modThr_congr (Thread.sentAgain_none hi.atom)

/-- A plain trap that a thread at rest raises is pending, and is taken in the same step (log entry 31). -/
theorem raise_plain {s : State} {t : Nat} {e : Engine} {i : TrapInfo} (hc : (s.thr t).curCmd = none) (hn : (s.thr t).pend = none)
    (ht : trapTaint i.code = none) (he : i.openE = 0) (ha : i.openA = false) :
    s.raise t e i = (s.trapWaiting t { eng := e, info := i }).takeTrap t := by
  have hfill : s.fillTrap i = (i, s) := by rw [State.fillTrap, he, ha]; rfl
  unfold State.raise
  simp only [hfill, ht]
  generalize hf : (fun th : Thread => ({ th with
    pend := match th.pend with | none => some { eng := e, info := i } | some p => some p, fabStage := if e = .fab then 0 else th.fabStage } : Thread)) = f
  have hrec : f (s.thr t) = { s.thr t with pend := some { eng := e, info := i }, fabStage := if e = .fab then 0 else (s.thr t).fabStage } := by
    rw [← hf]
    simp only [hn]
  have hcmd : ((s.modThr t f).thr t).curCmd = none := by rw [State.thr_modThr_same, hrec]; exact hc
  have hhalt : (s.modThr t f).arrayHalt t = s.trapWaiting t { eng := e, info := i } := by
    unfold State.arrayHalt
    rw [hcmd]
    refine (State.modThr_modThr _ (Thread.ne_default_of_pend (p := { eng := e, info := i }) (by rw [hrec]))).trans (State.modThr_congr ?_)
    rw [hrec]
    rfl
  rw [hhalt]

/-! ## System software (R139) -/

theorem gangFrame_congr {s u : State} (hg : u.gangs = s.gangs) (hc : u.ctxs = s.ctxs) (ha : ∀ v, (u.thr v).area = (s.thr v).area) (g cid : Nat) :
    u.gangFrame g cid = s.gangFrame g cid := by
  simp only [State.gangFrame, State.freeFrame, hg, hc, ha]

/-- Without a free frame area the record stays held in the device. -/
theorem recordToFrame_none {s : State} {t : Nat} (h : s.gangFrame (s.thr t).gang (s.thr t).cid = none) :
    s.recordToFrame t = s.modThr t fun th => { th with recHeld := true } := by
  simp only [State.recordToFrame, h]

/-- The record of a thread that a trap stops. -/
def Thread.stoppedBy (p : PendTrap) (th : Thread) : Thread := { th.recordTrap p.eng p.info true with st := .stopped }

/-- A trap that system software takes while no frame area is free. -/
theorem takeSystem_none {s : State} {t : Nat} {p : PendTrap} (h : s.gangFrame (s.thr t).gang (s.thr t).cid = none) :
    s.takeSystem t p = (s.modThr t (Thread.stoppedBy p)).modThr t fun th => { th with recHeld := true } := by
  have harea : ∀ v, ((s.modThr t (Thread.stoppedBy p)).thr v).area = (s.thr v).area := fun v => by
    by_cases hv : v = t
    · rw [hv, State.thr_modThr_same]; rfl
    · rw [State.thr_modThr_other _ _ _ _ hv]
  have htake : s.takeSystem t p = (s.modThr t (Thread.stoppedBy p)).recordToFrame t := rfl
  rw [htake]
  refine recordToFrame_none ?_
  rw [State.thr_modThr_same]
  exact (gangFrame_congr (s := s) (u := s.modThr t (Thread.stoppedBy p)) rfl rfl harea _ _).trans h

/-- The event of a trap changes no thread and no context. -/
theorem eventFor_ctxs (s : State) (port : Nat) (r : EvRec) (t : Option Nat) : (s.eventFor port r t).ctxs = s.ctxs := by
  unfold State.eventFor
  extract_lets p
  split
  · simp only [State.putEvent, State.diripoSend, State.hostWrite_ctxs]
  · rfl

theorem trapEvent_kept (s : State) (t : Nat) : (s.trapEvent t).ctxs = s.ctxs ∧ (s.trapEvent t).threads = s.threads :=
  ⟨eventFor_ctxs .., State.eventFor_threads ..⟩

/-- A record that a frame takes: the area belongs to the gang, the record is in it, and the thread stays as it was stopped. -/
theorem recordToFrame_some {s s1 : State} {t k : Nat} {as : List Acc} (hk : s.gangFrame (s.thr t).gang (s.thr t).cid = some k)
    (hs : s.areaBytes (s.thr t).gang ≤ (s.ctxs.get (s.thr t).cid).fsize.toNat * 0x10000)
    (ha : s.accessLin (Issuer.agent (s.thr t).die (s.thr t).cid) (s.areaAt (s.thr t).cid k + (s.thr t).member * 0x60000) 0x600 true 0 = .ok (as, s1)) :
    (s.recordToFrame t).thr t = { s.thr t with recHeld := false, area := some k } ∧
      ((s.recordToFrame t).ctxs.get (s.thr t).cid).areas.get k = true := by
  simp only [State.recordToFrame, hk, if_neg (Nat.not_lt.2 hs), ha]
  generalize trapArea _ _ _ _ _ = bs
  have hm := (storeAccs_step (Issuer.agent (s.thr t).die (s.thr t).cid) (as.map fun a => { a with ord := 1 }) s1 bs).1
  have ht := accessLin_tlb ha
  generalize s1.storeAccs _ _ bs = s2 at hm ⊢
  have hthr : s2.thr t = s.thr t := (hm.keeps.2.2.2.2 t).trans (ht.keeps.2.2.2.2.2 t)
  obtain ⟨hctxs, hthreads⟩ := trapEvent_kept (({ s2 with ctxs := s2.ctxs.mod (s.thr t).cid fun c => { c with areas := c.areas.set k true } } : State).modThr t
    fun th => { th with recHeld := false, area := some k }) t
  refine ⟨?_, ?_⟩
  · rw [State.thr, hthreads]
    refine (State.thr_modThr_same _ t _).trans ?_
    rw [← hthr]
    rfl
  · rw [hctxs, State.modThr_ctxs, Tab.mod, Tab.get_set_same, Tab.get_set_same]

/-! ## The statement -/

section
variable {s s1 : State} {t : Nat} {p : PendTrap} {as : List Acc}

/-- The registers, queues and flow of a thread that has entered its handler for a trap. -/
def Thread.enteredFor (x th : Thread) (p : PendTrap) : Prop :=
  x.st = .handler ∧ x.inh = true ∧ x.pend = none ∧ x.aside = th.iq ∧ x.iq = [] ∧ x.savedFetch = th.fetch ∧ x.fetch = field th.trapvec 2 16 * 4 ∧
  x.loops = [] ∧ x.lcnt = 0 ∧ x.drain = 0 ∧ x.nst = 0 ∧ x.rrb = 0 ∧ x.tsCode = p.info.code.num ∧ x.tsEng = BitVec.ofNat 3 (engCode p.eng) ∧
  x.skip = (if p.info.code = .brk then 1 else 0) ∧ x.s = th.s ∧ x.p = th.p ∧ x.v = th.v ∧ x.m = th.m ∧ x.acc = th.acc ∧ x.d = th.d ∧
  x.qs = th.unbegun.qs ∧ x.qr = th.qr ∧ x.fpctl = th.fpctl ∧ x.trapvec = th.trapvec ∧ x.savedMarks = th.marks ∧ x.marks = []

theorem Thread.trapping_enters (th : Thread) (p : PendTrap) : (((th.trapping p).recordTrap p.eng p.info false).enterHandler).enteredFor th p := by
  rw [Thread.trapping_eq, Thread.unbegun_only]
  exact ⟨rfl, rfl, rfl, rfl, rfl, rfl, rfl, rfl, rfl, rfl, rfl, rfl, rfl, rfl, rfl, rfl, rfl, rfl, rfl, rfl, rfl, rfl, rfl, rfl, rfl, rfl, rfl⟩

/-- The handler is entered from the state in which the trap is pending: the record stands in the area, and nothing else changes but the thread. -/
theorem takeTrap_enters (h : (s.thr t).Idle) (hv : flag (s.thr t).trapvec 0 = true) (hst : (s.thr t).st = .running) (hc : systemOnly p.info.code = false)
    (ha : (s.trapWaiting t p).accessLin { (s.trapWaiting t p).issuer t p.eng with eng := none } (field (s.thr t).trapvec 18 46 * 2 ^ 11) 0x600 true 0
      = .ok (as, s1)) :
    let u := (s.trapWaiting t p).takeTrap t
    (u.thr t).enteredFor (s.thr t) p ∧
      u.mem = (s1.storeAccs { (s.trapWaiting t p).issuer t p.eng with eng := none } as
        (trapArea { (s.trapWaiting t p).thr t with skip := if p.info.code = .brk then 1 else 0 } p.eng p.info false false)).mem ∧
      u.spad = s.spad ∧ ∀ v, v ≠ t → u.thr v = s.thr v := by
  intro u
  have hw : (s.trapWaiting t p).thr t = (s.thr t).trapping p := State.thr_modThr_same ..
  have hroute : ((s.thr t).trapping p).userRoute p.info.code = true := by
    rw [userRoute_iff, Thread.trapping, Thread.unbegun_only]
    exact ⟨hv, hst, hc⟩
  have htarea : ((s.trapWaiting t p).thr t).tarea = field (s.thr t).trapvec 18 46 * 2 ^ 11 := by
    rw [hw, Thread.trapping, Thread.unbegun_only]
    rfl
  have hu : u = (s.trapWaiting t p).takeUser t p := by
    unfold u
    rw [takeTrap_idle (by rw [hw]; exact h.trapping p) (by rw [hw]; exact Thread.trapping_pend ..), hw, if_pos hroute, finishAtom_trapWaiting p h]
  rw [takeUser_ok (by rw [htarea]; exact ha)] at hu
  have hm := (storeAccs_step { (s.trapWaiting t p).issuer t p.eng with eng := none } as s1
    (trapArea { (s.trapWaiting t p).thr t with skip := skipOf p.info.code } p.eng p.info false false)).1
  have htlb := accessLin_tlb ha
  have hthr : ∀ v, ((s1.storeAccs { (s.trapWaiting t p).issuer t p.eng with eng := none } as
      (trapArea { (s.trapWaiting t p).thr t with skip := skipOf p.info.code } p.eng p.info false false)).thr v) = (s.trapWaiting t p).thr v :=
    fun v => (hm.keeps.2.2.2.2 v).trans (htlb.keeps.2.2.2.2.2 v)
  rw [hu]
  refine ⟨?_, rfl, ?_, fun v hne => ?_⟩
  · rw [State.thr_modThr_same, hthr, hw]
    exact Thread.trapping_enters ..
  · exact hm.keeps.2.2.1.trans htlb.keeps.2.2.1
  · rw [State.thr_modThr_other _ _ _ _ hne, hthr]
    exact State.thr_modThr_other _ _ _ _ hne

end

/-- Settles O45: a trap is pending once it is raised, and goes its way as the engines of its thread have stopped. -/
theorem trapsAreTaken : Obligations.TrapsAreTaken := by
  intro s s1 t k e i as th pend waiting q idle plain user w entered record enters writable
  have hidle : idle → th.Idle := fun ⟨hc, ha, hm, hb, hst⟩ => ⟨hc, ha, hm, hb, hst⟩
  have hwaiting : waiting = s.trapWaiting t pend := rfl
  have taken : idle → user → writable → enters ((s.trapWaiting t pend).takeTrap t) := fun hi ⟨hv, hst, hc⟩ ha => takeTrap_enters (hidle hi) hv hst hc ha
  refine ⟨?raised, ?pending, ?system, ?held⟩
  case raised =>
    rintro hi ⟨ht, he, ha⟩ hu hw hp
    rw [raise_plain hi.1 hp ht he ha]
    exact taken hi hu hw
  case pending =>
    intro hi hp hu hs hw
    have hroute : (s.thr t).userRoute pend.info.code = true := (userRoute_iff ..).2 hu
    refine ⟨s.takeTrap t, ?_, ?_⟩
    · rw [exec_trapTakenUser, execTrapTakenUser]
      simp only [show (s.thr t).pend = some pend from hp, hroute, if_true]
    · have htaken := taken hi hu hw
      rwa [← hwaiting, hs] at htaken
  case system =>
    intro hi hp hu hk
    have hroute : (s.thr t).userRoute pend.info.code = false := Bool.eq_false_iff.2 fun h => hu ((userRoute_iff ..).1 h)
    have hthr : ∀ v, (s.finishAtom t).thr v = s.thr v := thr_finishAtom_none (hidle hi).atom
    have hfin := finishAtom_none (hidle hi).atom
    have htake : s.takeTrap t = _ := (takeTrap_idle (hidle hi) hp).trans
      ((if_neg (by rw [hroute]; exact Bool.false_ne_true)).trans (takeSystem_none (by
        rw [hthr, hfin]
        exact (gangFrame_congr (s := s) (u := s.modThr t Thread.sentAgain) rfl rfl (fun v => by rw [← hfin, hthr]) _ _).trans hk)))
    refine ⟨s.takeTrap t, ?_, ?_⟩
    · rw [exec_trapTakenSystem, execTrapTakenSystem]
      simp only [show (s.thr t).pend = some pend from hp, hroute, Bool.false_eq_true, if_false]
    · rw [htake, State.thr_modThr_same, State.thr_modThr_same, hthr]
      refine ⟨?_, ?_, rfl, rfl, rfl, rfl, rfl, rfl, rfl, rfl, rfl, fun v hv => ?_⟩
      · rw [hfin]; rfl
      · rw [hfin]; rfl
      · rw [State.thr_modThr_other _ _ _ _ hv, State.thr_modThr_other _ _ _ _ hv, hthr]
  case held =>
    intro hp hr hk hsize ha
    obtain ⟨hthr, harea⟩ := recordToFrame_some hk hsize ha
    refine ⟨s.recordToFrame t, ?_, ?_, ?_, ?_, ?_, harea⟩
    · rw [exec_trapTakenSystem, execTrapTakenSystem]
      simp only [show (s.thr t).pend = none from hp, show (s.thr t).recHeld = true from hr, if_true]
    all_goals rw [hthr]

end Sys2Proof.Machine
end

section
/-! SUPPORT. Saving a gang (R141, R143, R144): accesses of the device's own agents, the size of a thread frame. -/

namespace Sys2Proof.Machine

/-! ## The size of a thread frame (R143) -/

@[simp] theorem leBytes_length (n : Nat) : ∀ x, (leBytes n x).length = n := by
  induction n with
  | zero => exact fun _ => rfl
  | succ n ih => exact fun x => congrArg (· + 1) (ih _)

/-- Pieces of one size. -/
theorem length_flatMap_of {α β : Type} {f : α → List β} {n : Nat} (h : ∀ x, (f x).length = n) (l : List α) : (l.flatMap f).length = n * l.length := by
  simp [List.length_flatMap, h, Nat.mul_comm]

@[simp] theorem dwBytes_length (ws : List Nat) : (dwBytes ws).length = 8 * ws.length :=
  length_flatMap_of (fun _ => leBytes_length ..) ws

@[simp] theorem Tab.getRange_length {α : Type} [Inhabited α] (t : Tab α) (n : Nat) : ∀ k, (t.getRange k n).length = n := by
  induction n with
  | zero => exact fun _ => rfl
  | succ n ih => exact fun k => congrArg (· + 1) (ih _)

@[simp] theorem padTo_length (n : Nat) (bs : List Byte) : (padTo n bs).length = max n bs.length := by
  simp only [padTo, List.length_append, leBytes_length]
  omega

theorem rowBytes_length (r : Row) : (rowBytes r).length = 512 := leBytes_length ..

@[simp] theorem rowsImage_length (t : Tab Row) (k n : Nat) : (rowsImage t k n).length = 512 * n := by
  rw [rowsImage, length_flatMap_of rowBytes_length, Tab.getRange_length]

@[simp] theorem recordBytes_length (th : Thread) (e : Engine) (i : TrapInfo) (system nest : Bool) : (recordBytes th e i system nest).length = 0x100 := by
  simp [recordBytes, allEngines]

theorem seqBytes_length {th : Thread} (h : th.loops.length ≤ 4) : (seqBytes th).length = 0x300 := by
  have hl : ((th.loops ++ List.replicate (4 - th.loops.length) (loopEntryOf 0 0)).flatMap LoopEntry.words).length = 8 := by
    rw [length_flatMap_of (n := 2) fun _ => rfl, List.length_append, List.length_replicate]
    omega
  simp only [seqBytes, List.length_append, dwBytes_length, hl, leBytes_length, List.length_cons, List.length_nil, List.length_map, Tab.getRange_length]

theorem seedBytes_length {th : Thread} (h : th.seeds.length ≤ 16) : (seedBytes th).length = 512 := by
  have hl : (th.seeds.reverse.flatMap fun e => dwBytes [e.key.toNat, e.vec.toNat, e.mat.toNat, 0]).length = 32 * th.seeds.length := by
    rw [length_flatMap_of (n := 32) fun _ => dwBytes_length _, List.length_reverse]
  simp only [seedBytes, List.length_append, hl, leBytes_length]
  omega

/-- The record, the state of SEQ and the seed stack take 0x600 bytes (R134). -/
theorem trapArea_length {th : Thread} (e : Engine) (i : TrapInfo) (system nest : Bool) (hl : th.loops.length ≤ 4) (hs : th.seeds.length ≤ 16) :
    (trapArea th e i system nest).length = 0x600 := by
  simp only [trapArea, List.length_append, recordBytes_length, seqBytes_length hl, seedBytes_length hs]

theorem iqImage_length (q : List IqEntry) : (iqImage q).length = 512 := by
  have h64 : ((q.filter fun x => !x.item.isPass).take 64).length ≤ 64 := List.length_take_le ..
  rw [iqImage, padTo_length, length_flatMap_of (n := 8) fun _ => by rw [List.length_append, leBytes_length, leBytes_length]]
  omega

/-- A thread frame takes 0x60000 bytes, the queues, loops and seeds being within their bounds (R143). -/
theorem threadFrame_length {th : Thread} (e : Engine) (i : TrapInfo) {eng : List Byte} (hq : ∀ q, (th.qs.get q).length ≤ 16) (hr : ∀ q, (th.qr.get q).length ≤ 8)
    (hl : th.loops.length ≤ 4) (hs : th.seeds.length ≤ 16) (he : eng.length = 0x1C00) : (threadFrame th e i eng).length = 0x60000 := by
  have hqs : ∀ q, (padTo 128 (dwBytes ((th.qs.get q).map BitVec.toNat))).length = 128 := fun q => by
    rw [padTo_length, dwBytes_length, List.length_map]
    have := hq q
    omega
  have hqr : ∀ q, (padTo 4096 ((th.qr.get q).flatMap rowBytes)).length = 4096 := fun q => by
    rw [padTo_length, length_flatMap_of rowBytes_length]
    have := hr q
    omega
  have hmasks : ((List.range 8).flatMap fun k => leBytes 16 (th.rm (BitVec.ofNat 3 k)).toNat).length = 128 := by
    rw [length_flatMap_of fun _ => leBytes_length .., List.length_range]
  have hiq : ((List.range 8).flatMap fun e => iqImage (th.iq.get e)).length = 4096 := by
    rw [length_flatMap_of fun _ => iqImage_length _, List.length_range]
  have hcks : ((List.range 4).flatMap fun k => rowsImage th.rck k 1 ++ rowsImage th.cck k 1).length = 4096 := by
    rw [length_flatMap_of (n := 1024) fun _ => by rw [List.length_append, rowsImage_length, rowsImage_length], List.length_range]
  have harea := trapArea_length (th := { th with skip := th.frameSkip i }) e i true th.inh hl hs
  simp only [threadFrame, List.length_append, padTo_length, harea, hmasks, hiq, hcks, rowsImage_length, leBytes_length, he, dwBytes_length, List.length_map,
    Tab.getRange_length, List.flatMap_cons, List.flatMap_nil, hqs, hqr, List.length_nil]
  decide

end Sys2Proof.Machine
end

section
/-! SUPPORT. The writing of the frames of a gang's members and of its clusters (R143). -/

namespace Sys2Proof.Machine

/-! ## Writing a frame (R143) -/

theorem agentWrite_of_accessLin {s u : State} {die cid va : Nat} {bs : List Byte} {as : List Acc}
    (h : s.accessLin (.agent die cid) va bs.length true 0 = .ok (as, u)) :
    s.agentWrite die cid va bs = .ok (u.storeAccs (.agent die cid) (as.map fun a => { a with ord := 1 }) bs) := by
  rw [State.agentWrite, h]
  rfl

theorem agentWrite_of_error {s : State} {die cid va : Nat} {bs : List Byte} {m : MemStop}
    (h : s.accessLin (.agent die cid) va bs.length true 0 = .error m) : s.agentWrite die cid va bs = .error m := by
  rw [State.agentWrite, h]
  rfl

theorem agentWrite_mem {s t : State} {die cid va : Nat} {bs : List Byte} {as : List Acc}
    (h : s.accessLin (.agent die cid) va bs.length true 0 = .ok (as, s)) (k : s.agentWrite die cid va bs = .ok t) : MemOnly s t := by
  rw [agentWrite_of_accessLin h] at k
  cases k
  exact (storeAccs_step ..).1

/-- A member whose frame's free values have been taken. -/
def State.framed (s : State) (v : Nat) : State :=
  let s1 := (s.fillTrap (s.thr v).frameTrap.2).2
  ((s1.modThr v fun th => { th with frameAt := s1.freeCtr }).freeBytes 0x1C00).2

/-- The frame that a member has of its own (R143). -/
def State.ownFrame (s : State) (v : Nat) : List Byte :=
  let x := s.fillTrap (s.thr v).frameTrap.2
  threadFrame (s.thr v) (s.thr v).frameTrap.1 x.1 ((x.2.modThr v fun th => { th with frameAt := x.2.freeCtr }).freeBytes 0x1C00).1

theorem ownFrame_length {s : State} {v : Nat} (hq : ∀ q, ((s.thr v).qs.get q).length ≤ 16) (hr : ∀ q, ((s.thr v).qr.get q).length ≤ 8)
    (hl : (s.thr v).loops.length ≤ 4) (hs : (s.thr v).seeds.length ≤ 16) : (s.ownFrame v).length = 0x60000 := by
  refine threadFrame_length _ _ hq hr hl hs ?_
  rw [State.freeBytes, List.length_map, List.length_range]

/-- A member is saved by taking the free values of its frame, finding what the frame begins with, and writing it. -/
theorem saveThread_eq (s : State) (area v : Nat) : s.saveThread area v =
    (s.framed v).frameHead v area ((s.ownFrame v).take 0x600) >>= fun x => match x.1 with
      | some h => x.2.agentWrite (s.thr v).die (s.thr v).cid (area + (s.thr v).member * 0x60000) (h ++ (s.ownFrame v).drop 0x600)
      | none => x.2.agentWrite (s.thr v).die (s.thr v).cid (area + (s.thr v).member * 0x60000 + 0x600) ((s.ownFrame v).drop 0x600) := by
  unfold State.saveThread State.framed State.ownFrame
  dsimp only <;>
    (generalize s.fillTrap (s.thr v).frameTrap.2 = x
     obtain ⟨i, s1⟩ := x
     dsimp only
     generalize (s1.modThr v fun th => { th with frameAt := s1.freeCtr }).freeBytes 0x1C00 = y
     rfl)

/-- A frame begins with the member's own record unless the member had stopped. -/
theorem frameHead_unstopped {s : State} {v area : Nat} {own : List Byte} (h : (s.thr v).was ≠ .stopped) : s.frameHead v area own = .ok (some own, s) := by
  rw [State.frameHead, if_neg fun hw => h hw.1]

/-- A member that had not stopped has its whole frame written. -/
theorem saveThread_unstopped {s : State} {area v : Nat} (h : ((s.framed v).thr v).was ≠ .stopped) :
    s.saveThread area v = (s.framed v).agentWrite (s.thr v).die (s.thr v).cid (area + (s.thr v).member * 0x60000) (s.ownFrame v) := by
  rw [saveThread_eq, frameHead_unstopped h]
  dsimp only [bind, Except.bind]
  rw [List.take_append_drop]

theorem saveThreads_one {s t : State} {area v : Nat} (h : s.saveThread area v = .ok t) : saveThreads area [v] s = .ok t := by
  rw [saveThreads, h]
  rfl

/-! ## Writing the clusters' frames (R143)

The kernel does not decide `saveClusters g t0 (c :: cs) i s = …` by unfolding: one side runs ahead of the other into the write of 65,536 bytes. The equation
is taken from the structural recursion itself, whose body is then any function. -/

/-- What a structural recursion over a list makes of a list that is not empty. -/
theorem brecOn_cons {α : Type} {motive : List α → Type} (F : (l : List α) → List.below (motive := motive) l → motive l) (a : α) (l : List α) :
    ∃ r : List.below (motive := motive) (a :: l), r.1 = List.brecOn l F ∧ List.brecOn (a :: l) F = F (a :: l) r := ⟨_, rfl, rfl⟩

/-- A recursion's body that distinguishes the empty list from others, at one that is not empty. -/
theorem listBody_cons {σ ρ : Type} (nil : Nat → σ → List.below (motive := fun _ => Nat → σ → ρ) ([] : List Nat) → ρ)
    (cons : (a : Nat) → (l : List Nat) → Nat → σ → List.below (motive := fun _ => Nat → σ → ρ) (a :: l) → ρ) (a : Nat) (l : List Nat) (i : Nat) (s : σ)
    (r : List.below (motive := fun _ => Nat → σ → ρ) (a :: l)) (F : (l : List Nat) → List.below (motive := fun _ => Nat → σ → ρ) l → Nat → σ → ρ)
    (h : F = fun x f x_1 x_2 => (match (motive := (x : List Nat) → Nat → σ → List.below (motive := fun _ => Nat → σ → ρ) x → ρ) x, x_1, x_2 with
      | [], i, s => nil i s
      | a :: l, i, s => cons a l i s) f) : F (a :: l) r i s = cons a l i s r := by
  subst h
  rfl

set_option smartUnfolding false in
theorem saveClusters_eq_brecOn (g t0 : Nat) (l : List Nat) : saveClusters g t0 l = List.brecOn l (saveClusters._f g t0) := rfl

/-- The frame of a cluster whose head holds the values `objs`. -/
def State.clusterImage (s : State) (g c : Nat) (r : Range) (objs : List Byte) : List Byte :=
  padTo (s.clusterFrame g c) (objs ++ s.spadBytes c r.base r.len)

theorem saveClusters_cons {g t0 c i : Nat} {cs : List Nat} {s s1 : State} {objs : List Byte} (hx : s.freeBytes 0x10000 = (objs, s1)) :
    saveClusters g t0 (c :: cs) i s =
      match s1.agentWrite (c / 64) (s.thr t0).cid i (s1.clusterImage g c ((s.gangs.get g).shares.get c) objs) with
      | .error m => .error (m, t0)
      | .ok u => saveClusters g t0 cs (i + u.clusterFrame g c)
          (u.poisonOut (c / 64) (s.thr t0).cid c ((s.gangs.get g).shares.get c).base ((s.gangs.get g).shares.get c).len (i + 0x10000)) := by
  obtain ⟨F, hF⟩ : ∃ F, F = saveClusters._f g t0 := ⟨_, rfl⟩
  obtain ⟨r, hr, hrec⟩ := brecOn_cons F c cs
  rw [saveClusters_eq_brecOn, saveClusters_eq_brecOn, ← hF, hrec, ← hr]
  clear hrec hr
  delta saveClusters._f at hF
  set_option smartUnfolding false in
  refine (listBody_cons _ _ _ _ _ _ _ _ hF).trans ?_
  split
  next a b hy =>
  cases hx.symm.trans hy
  rfl

section
variable {g t0 c i : Nat} {s s1 : State} {objs : List Byte} (hx : s.freeBytes 0x10000 = (objs, s1))
include hx

/-- A gang's one cluster is saved where its frame can be written in the context of the member named. -/
theorem saveClusters_one_ok {t : State} (h : s1.agentWrite (c / 64) (s.thr t0).cid i (s1.clusterImage g c ((s.gangs.get g).shares.get c) objs) = .ok t) :
    ∃ u, saveClusters g t0 [c] i s = .ok u := by
  rw [saveClusters_cons hx, h]
  exact ⟨_, rfl⟩

theorem saveClusters_one_error {m : MemStop}
    (h : s1.agentWrite (c / 64) (s.thr t0).cid i (s1.clusterImage g c ((s.gangs.get g).shares.get c) objs) = .error m) :
    saveClusters g t0 [c] i s = .error (m, t0) := by
  rw [saveClusters_cons hx, h]

end

end Sys2Proof.Machine
end

section
/-! SUPPORT. The saving of a settled gang by its steps (R126, R141, R143). -/

namespace Sys2Proof.Machine

/-- The members of a gang that leave their cores. -/
def State.leavers (s : State) (g : Nat) : List Nat := (s.gangs.get g).threads.filter fun t => (s.thr t).st == .leaving

/-- Their words that have begun are complete (R126). -/
def State.begunDone (s : State) (g : Nat) : State := (s.leavers g).foldl (fun s t => (s.finishMove t).finishAtom t) s

/-- The gang's stores are performed and a frame area is chosen. -/
def State.areaChosen (s : State) (g k : Nat) : State :=
  ((s.begunDone g).drainPosted fun p => (s.gangs.get g).threads.contains p.thread).modGang g fun x => { x with area := k }

section
variable {s t2 : State} {g k : Nat} (hst : (s.gangs.get g).st = .stopping) (hs : s.gangSettled g = true)
  (hfit : (s.begunDone g).areaBytes g ≤ ((s.begunDone g).ctxs.get (s.nodes.get (s.gangs.get g).node).cid).fsize.toNat * 0x10000)
  (hby : (s.gangs.get g).byCtxsv = false) (hk : (s.begunDone g).gangFrame g (s.nodes.get (s.gangs.get g).node).cid = some k)
  (h2 : saveThreads ((s.areaChosen g k).gangArea g) (s.leavers g) (s.areaChosen g k) = .ok t2)
include hst hs hfit hby hk h2

/-- Once the members' frames are written, the saving of a gang turns on its clusters' (R143). -/
theorem saveGang_of_saveThreads : s.saveGang g =
    match saveClusters g ((s.leavers g).headD ((s.gangs.get g).threads.headD 0)) (t2.gangClusters g)
      (t2.gangArea g + (s.gangs.get g).threads.length * 0x60000) t2 with
    | .error (m, t) => (match m.reason with | some r => (s.begunDone g).stopNode (s.gangs.get g).node 3 r (some t) | none => s.begunDone g)
    | .ok t3 => (({ t3 with
        ctxs := t3.ctxs.mod (s.nodes.get (s.gangs.get g).node).cid fun c => { c with areas := c.areas.set k true } } : State).gangPiecesBack g).clearGang g := by
  unfold State.areaChosen State.begunDone State.leavers at *
  unfold State.saveGang
  simp only [hst, hs, hby, ne_eq, not_true_eq_false, Bool.not_true, Bool.false_eq_true, or_self, if_false]
  rw [if_neg (Nat.not_lt.mpr hfit), hk]
  simp only [bind, Except.bind]
  rw [h2] <;> rfl

/-- A gang one of whose clusters cannot be written is not saved: its node stops. -/
theorem saveGang_stops {m : MemStop} {t : Nat} {r : BitVec 8}
    (h3 : saveClusters g ((s.leavers g).headD ((s.gangs.get g).threads.headD 0)) (t2.gangClusters g)
      (t2.gangArea g + (s.gangs.get g).threads.length * 0x60000) t2 = .error (m, t)) (hr : m.reason = some r) :
    s.saveGang g = (s.begunDone g).stopNode (s.gangs.get g).node 3 r (some t) := by
  rw [saveGang_of_saveThreads hst hs hfit hby hk h2, h3]
  simp only [hr]

end

end Sys2Proof.Machine
end

section
/-! SUPPORT. What the writing of a gang's frames, and the completion of words that have begun, leave of a state (R126, R143). -/

namespace Sys2Proof.Machine

/-! ## What the writing of a gang's frames leaves of a state -/

/-- A thread without the number of the free values that stand in its frame. -/
def Thread.unframed (th : Thread) : Thread := { th with frameAt := 0 }

/-- `t` is `s` but for memory, its caches, the translation caches, the free values taken and, of the threads, the numbers of those in their frames. -/
structure FramesOnly (s t : State) : Prop where
  only : t = { s with
    mem := t.mem, poison := t.poison, llc := t.llc, rdc := t.rdc, posted := t.posted, choice := t.choice, tlb := t.tlb, freeCtr := t.freeCtr, threads := t.threads }
  thr : ThreadsKeep Thread.unframed s t

theorem FramesOnly.refl (s : State) : FramesOnly s s := ⟨rfl, .refl s⟩

theorem FramesOnly.trans {s t u : State} (h : FramesOnly s t) (k : FramesOnly t u) : FramesOnly s u :=
  ⟨by rw [k.only, h.only], h.thr.trans k.thr⟩

theorem FramesOnly.of_mem {s t : State} (h : MemOnly s t) : FramesOnly s t := ⟨by rw [h], .of_threads h.keeps.1⟩

theorem FramesOnly.of_tlb {s t : State} (h : TlbOnly s t) : FramesOnly s t := ⟨by rw [h], .of_threads h.keeps.1⟩

theorem FramesOnly.fold {α : Type} (f : State → α → State) (step : ∀ s a, FramesOnly s (f s a)) (l : List α) (s : State) : FramesOnly s (l.foldl f s) :=
  foldl_rel FramesOnly .refl (fun _ _ _ => .trans) f step l s

theorem agentWrite_frames {s t : State} {die cid va : Nat} {bs : List Byte} (h : s.agentWrite die cid va bs = .ok t) : FramesOnly s t := by
  obtain ⟨⟨as, u⟩, hu, h⟩ := bind_ok h
  cases h
  exact (FramesOnly.of_tlb (accessLin_tlb hu)).trans (.of_mem (storeAccs_step ..).1)

theorem agentRead_frames {s t : State} {die cid va n : Nat} {r : List Byte × Bool} (h : s.agentRead die cid va n = .ok (r, t)) : FramesOnly s t := by
  unfold State.agentRead at h
  split at h
  · cases h
    exact .refl s
  · obtain ⟨⟨as, u⟩, hu, h⟩ := bind_ok h
    rw [← (Prod.mk.inj (Except.ok.inj h)).2]
    exact (FramesOnly.of_tlb (accessLin_tlb hu)).trans (.of_mem (loadAccs_step ..).1)

theorem frameHead_frames {s t : State} {v area : Nat} {own : List Byte} {x : Option (List Byte)} (h : s.frameHead v area own = .ok (x, t)) :
    FramesOnly s t := by
  unfold State.frameHead at h
  extract_lets th at h
  split at h
  · cases h
    exact .refl s
  · split at h
    · cases h
      exact .refl s
    · obtain ⟨⟨⟨bs, bad⟩, u⟩, hu, h⟩ := bind_ok h
      simp only at h
      split at h
      · cases h
      · cases h
        exact agentRead_frames hu

theorem fillTrap_frames (s : State) (i : TrapInfo) : FramesOnly s (s.fillTrap i).2 := by
  unfold State.fillTrap
  split
  · exact ⟨rfl, .of_threads rfl⟩
  · exact .refl s

theorem freeBytes_frames (s : State) (n : Nat) : FramesOnly s (s.freeBytes n).2 := ⟨rfl, .of_threads rfl⟩

theorem framed_frames (s : State) (v : Nat) : FramesOnly s (s.framed v) := by
  have hnumber : FramesOnly (s.fillTrap (s.thr v).frameTrap.2).2
      ((s.fillTrap (s.thr v).frameTrap.2).2.modThr v fun th => { th with frameAt := (s.fillTrap (s.thr v).frameTrap.2).2.freeCtr }) := ⟨rfl, .modThr _ v _ rfl⟩
  exact ((fillTrap_frames ..).trans hnumber).trans (freeBytes_frames ..)

theorem saveThread_frames {s t : State} {area v : Nat} (h : s.saveThread area v = .ok t) : FramesOnly s t := by
  rw [saveThread_eq] at h
  obtain ⟨⟨x, u⟩, hu, h⟩ := bind_ok h
  refine ((framed_frames s v).trans (frameHead_frames hu)).trans ?_
  cases x with
  | none => exact agentWrite_frames h
  | some b => exact agentWrite_frames h

theorem saveThreads_frames {area : Nat} (l : List Nat) : ∀ {s t : State}, saveThreads area l s = .ok t → FramesOnly s t := by
  induction l with
  | nil =>
    intro s t h
    cases h
    exact .refl s
  | cons v l ih =>
    intro s t h
    rw [saveThreads] at h
    split at h
    · cases h
    · next u hu => exact (saveThread_frames hu).trans (ih h)

theorem poisonOut_frames (s : State) (die cid c a n va : Nat) : FramesOnly s (s.poisonOut die cid c a n va) := by
  refine FramesOnly.fold _ (fun s p => ?_) _ s
  split
  · split
    · next as t ht => exact (FramesOnly.of_tlb (accessLin_tlb ht)).trans ⟨rfl, .of_threads rfl⟩
    · exact .refl s
  · exact .refl s

theorem saveClusters_frames {g t0 : Nat} (l : List Nat) : ∀ {i : Nat} {s t : State}, saveClusters g t0 l i s = .ok t → FramesOnly s t := by
  induction l with
  | nil =>
    intro i s t h
    cases h
    exact .refl s
  | cons c l ih =>
    intro i s t h
    obtain ⟨objs, s1, hx⟩ : ∃ objs s1, s.freeBytes 0x10000 = (objs, s1) := ⟨_, _, rfl⟩
    have hfree : FramesOnly s s1 := by
      have hf := freeBytes_frames s 0x10000
      rwa [hx] at hf
    rw [saveClusters_cons hx] at h
    split at h
    · cases h
    · next u hu => exact ((hfree.trans (agentWrite_frames hu)).trans (poisonOut_frames ..)).trans (ih h)

theorem gangPiecesBack_step (s : State) (g : Nat) : MemStep s (s.gangPiecesBack g) := by
  refine MemStep.fold _ (fun s e => ?_) _ s
  split
  · exact MemStep.fold _ (fun _ _ => cacheBack_step ..) _ s
  · exact .refl s

/-! ## Words that have begun are complete (R126) -/

theorem endMove_st (th : Thread) : th.endMove.st = th.st := by
  unfold Thread.endMove
  split
  · rfl
  · extract_lets th1
    split <;> rfl

theorem finishMove_st (s : State) (t : Nat) : ThreadsKeep Thread.st s (s.finishMove t) := by
  unfold State.finishMove
  exact .ite (.modThr s t _ rfl) (.ite (.modThr s t _ (endMove_st _)) (.refl s))

theorem acquire_st (s : State) (t : Nat) : ThreadsKeep Thread.st s (s.acquire t) :=
  (ThreadsKeep.modThr s t _ rfl).trans (.of_mem (domainAcquire_step ..))

theorem finishAtom_st (s : State) (t : Nat) : ThreadsKeep Thread.st s (s.finishAtom t) := by
  unfold State.finishAtom
  extract_lets th s1
  have h1 : ThreadsKeep Thread.st s s1 := .modThr s t _ rfl
  split
  · next ret dom v _ _ =>
    extract_lets s2 s3
    have h2 : ThreadsKeep Thread.st s1 s2 := .modThr s1 t _ (by split <;> rfl)
    have h3 : ThreadsKeep Thread.st s2 s3 := .modThr s2 t _ rfl
    exact ((h1.trans h2).trans h3).trans (.ite (acquire_st ..) (.modThr s3 t _ rfl))
  · exact h1.trans (.modThr s1 t _ rfl)
  · exact h1

theorem begunDone_st (s : State) (g : Nat) : ThreadsKeep Thread.st s (s.begunDone g) :=
  .fold _ (fun s t => (finishMove_st s t).trans (finishAtom_st ..)) _ s

end Sys2Proof.Machine
end

section
/-! SUPPORT. The clause of a settled gang that holds (R126, R141, R143, R144). -/

namespace Sys2Proof.Machine

theorem acquire_gangs (s : State) (t : Nat) : (s.acquire t).gangs = s.gangs := by
  have h : MemOnly (s.modThr t Thread.fenced) (s.acquire t) := (domainAcquire_step ..).1
  rw [h]
  rfl

theorem finishMove_gangs (s : State) (t : Nat) : (s.finishMove t).gangs = s.gangs := by
  unfold State.finishMove
  split
  · rfl
  · split <;> rfl

theorem finishAtom_gangs (s : State) (t : Nat) : (s.finishAtom t).gangs = s.gangs := by
  unfold State.finishAtom
  extract_lets th s1
  split
  · extract_lets s2 s3
    refine Eq.trans ?_ (rfl : s3.gangs = s.gangs)
    clear_value s3
    split
    · exact acquire_gangs s3 t
    · rfl
  · rfl
  · rfl

/-- To complete words that have begun leaves the gangs. -/
theorem begunDone_gangs (s : State) (g : Nat) : (s.begunDone g).gangs = s.gangs :=
  foldl_rel (fun s t => t.gangs = s.gangs) (fun _ => rfl) (fun _ _ _ h k => k.trans h) _ (fun s t => (finishAtom_gangs ..).trans (finishMove_gangs s t)) _ s

/-! ## A gang that has left its cores (R144) -/

/-- Updates of the records of some threads, each of which a second leaves as it is. -/
theorem thr_foldl_modThr {f : Thread → Thread} (hf : ∀ th, f (f th) = f th) (l : List Nat) (t : Nat) :
    ∀ s : State, (l.foldl (fun s v => s.modThr v f) s).thr t = if t ∈ l then f (s.thr t) else s.thr t := by
  induction l with
  | nil => exact fun _ => rfl
  | cons v l ih =>
    intro s
    rw [List.foldl_cons, ih]
    by_cases hv : t = v
    · subst hv
      simp [hf]
    · simp [State.thr_modThr_other _ _ _ _ hv, hv]

/-- A member that was leaving is saved. -/
def Thread.saved (th : Thread) : Thread := if th.st = .leaving then { th with st := .saved } else th

theorem Thread.saved_saved (th : Thread) : th.saved.saved = th.saved := by
  unfold Thread.saved
  by_cases h : th.st = .leaving <;> simp [h]

theorem foldl_modThr_only (f : Thread → Thread) (l : List Nat) (s : State) :
    l.foldl (fun s v => s.modThr v f) s = { s with threads := (l.foldl (fun s v => s.modThr v f) s).threads } :=
  foldl_rel (fun s t => t = { s with threads := t.threads }) (fun _ => rfl) (fun _ _ _ h k => by rw [k, h]) _ (fun _ _ => rfl) l s

/-- What a gang that has left its cores leaves behind: of its own, its objects of communication. -/
def State.clearedObjects (s : State) (g : Nat) : State := { s.modGang g fun x =>
    { x with
      st := .saved, handles := s.handles.filter fun e => e.2.owner = g + 1, cbars := s.cbars.filter fun e => e.2.owner = g + 1
      rings := s.rings.filter fun e => e.2.owner = g + 1, sbars := s.sbars.filter fun a => x.threads.contains a.thread } with
  sbars := s.sbars.filter fun a => !(s.gangs.get g).threads.contains a.thread
  handles := s.handles.filter fun e => e.2.owner ≠ g + 1
  cbars := s.cbars.filter fun e => e.2.owner ≠ g + 1
  rings := s.rings.filter fun e => e.2.owner ≠ g + 1 }

theorem clearGang_eq (s : State) (g : Nat) : s.clearGang g = (s.gangs.get g).threads.foldl (fun s v => s.modThr v Thread.saved) (s.clearedObjects g) := rfl

theorem clearGang_gang (s : State) (g : Nat) : ((s.clearGang g).gangs.get g).st = .saved ∧ ((s.clearGang g).gangs.get g).area = (s.gangs.get g).area := by
  rw [clearGang_eq, foldl_modThr_only]
  simp [State.clearedObjects, State.modGang, Tab.mod]

theorem clearGang_thr {s : State} {g t : Nat} (ht : t ∈ (s.gangs.get g).threads) : (s.clearGang g).thr t = (s.thr t).saved := by
  rw [clearGang_eq, thr_foldl_modThr Thread.saved_saved, if_pos ht]
  rfl

theorem clearGang_objects (s : State) (g : Nat) : (∀ e ∈ (s.clearGang g).handles, e.2.owner ≠ g + 1) ∧ (∀ e ∈ (s.clearGang g).cbars, e.2.owner ≠ g + 1) ∧
    (∀ e ∈ (s.clearGang g).rings, e.2.owner ≠ g + 1) := by
  rw [clearGang_eq, foldl_modThr_only]
  simp [State.clearedObjects]

/-- What a gang consists of: its record, its members and its objects of communication. -/
def State.gangParts (s : State) : Tab Gang × Tab Thread × Tab Handle × Tab Cbar × Tab Ring := (s.gangs, s.threads, s.handles, s.cbars, s.rings)

theorem putEvent_parts (s : State) (port : Nat) (r : EvRec) : (s.putEvent port r).gangParts = s.gangParts := by
  simp only [State.gangParts, State.putEvent, State.diripoSend, State.hostWrite_gangs, State.hostWrite_threads, State.hostWrite_handles, State.hostWrite_cbars,
    State.hostWrite_rings]

theorem eventFor_parts (s : State) (port : Nat) (r : EvRec) (t : Option Nat) : (s.eventFor port r t).gangParts = s.gangParts := by
  unfold State.eventFor
  extract_lets p
  split
  · exact putEvent_parts ..
  · rfl

/-- A context whose last gang has left may be stopped, of which the host hears. -/
theorem checkStopped_parts (s : State) (cid : Nat) : (s.checkStopped cid).gangParts = s.gangParts := by
  unfold State.checkStopped
  extract_lets busy
  split
  · exact eventFor_parts ..
  · rfl

/-! ## The clause that holds -/

theorem areaChosen_gang (s : State) (g k : Nat) : (s.areaChosen g k).gangs.get g = { s.gangs.get g with area := k } := by
  have h : MemOnly (s.begunDone g) ((s.begunDone g).drainPosted fun p => (s.gangs.get g).threads.contains p.thread) := (drainPosted_step ..).1
  rw [State.areaChosen, State.modGang, h, Tab.mod, Tab.get_set_same, begunDone_gangs]

theorem areaChosen_thr (s : State) (g k t : Nat) : (s.areaChosen g k).thr t = (s.begunDone g).thr t :=
  (drainPosted_step (s.begunDone g) fun p => (s.gangs.get g).threads.contains p.thread).1.keeps.2.2.2.2 t

section
variable {s t2 t3 : State} {g k : Nat} (hst : (s.gangs.get g).st = .stopping) (hs : s.gangSettled g = true)
  (hfit : (s.begunDone g).areaBytes g ≤ ((s.begunDone g).ctxs.get (s.nodes.get (s.gangs.get g).node).cid).fsize.toNat * 0x10000)
  (hby : (s.gangs.get g).byCtxsv = false) (hk : (s.begunDone g).gangFrame g (s.nodes.get (s.gangs.get g).node).cid = some k)
  (h2 : saveThreads ((s.areaChosen g k).gangArea g) (s.leavers g) (s.areaChosen g k) = .ok t2)
  (h3 : saveClusters g ((s.leavers g).headD ((s.gangs.get g).threads.headD 0)) (t2.gangClusters g)
    (t2.gangArea g + (s.gangs.get g).threads.length * 0x60000) t2 = .ok t3)
include hst hs hfit hby hk h2 h3

/-- A settled gang leaves its cores in a state in which, of its own, its frames alone have been written. -/
theorem saveGang_saves : ∃ v, v.gangs = (s.areaChosen g k).gangs ∧ ThreadsKeep Thread.unframed (s.areaChosen g k) v ∧ s.saveGang g = v.clearGang g := by
  have hf := (saveThreads_frames _ h2).trans (saveClusters_frames _ h3)
  have hg : t3.gangs = (s.areaChosen g k).gangs := by rw [hf.only]
  refine ⟨_, ?gangs, ?threads, (saveGang_of_saveThreads hst hs hfit hby hk h2).trans (by rw [h3])⟩
  case gangs => rw [(gangPiecesBack_step ..).1, hg]
  case threads =>
    refine ThreadsKeep.trans ?_ (.of_mem (gangPiecesBack_step ..))
    exact hf.thr.trans (.of_threads rfl)

/-- O46's clause of a settled gang, its cluster frames being written in the context of the first member still leaving. -/
theorem gangSaved_saves : ∃ u, exec (.gangSaved g) s = .next u ∧ (u.gangs.get g).st = .saved ∧ (u.gangs.get g).area = k ∧
    (∀ t ∈ (s.gangs.get g).threads, (s.thr t).st = .leaving → (u.thr t).unframed = { ((s.begunDone g).thr t).unframed with st := .saved }) ∧
    (∀ e ∈ u.handles, e.2.owner ≠ g + 1) ∧ (∀ e ∈ u.cbars, e.2.owner ≠ g + 1) ∧ (∀ e ∈ u.rings, e.2.owner ≠ g + 1) := by
  obtain ⟨v, hv, hthr, hsave⟩ := saveGang_saves hst hs hfit hby hk h2 h3
  have hgang : v.gangs.get g = { s.gangs.get g with area := k } := by rw [hv, areaChosen_gang]
  have hparts := checkStopped_parts (v.clearGang g) (s.nodes.get (s.gangs.get g).node).cid
  simp only [State.gangParts, Prod.mk.injEq] at hparts
  obtain ⟨hgangs, hthreads, hhandles, hcbars, hrings⟩ := hparts
  obtain ⟨hsaved, harea⟩ := clearGang_gang v g
  obtain ⟨ho, hc, hr⟩ := clearGang_objects v g
  refine ⟨_, by rw [exec_gangSaved, execGangSaved, hsave], by rw [hgangs, hsaved], by rw [hgangs, harea, hgang], fun t ht hl => ?_, by rwa [hhandles], by rwa [hcbars],
    by rwa [hrings]⟩
  have hkept : (v.thr t).unframed = ((s.begunDone g).thr t).unframed := (hthr.keep t).trans (by rw [areaChosen_thr])
  have hleaving : (v.thr t).st = .leaving :=
    (congrArg Thread.st hkept).trans (((begunDone_st s g).keep t).trans hl)
  rw [State.thr, hthreads]
  refine Eq.trans (congrArg Thread.unframed (clearGang_thr (by rw [hgang]; exact ht))) ?_
  rw [Thread.saved, if_pos hleaving, ← hkept]
  rfl

end

end Sys2Proof.Machine
end

section
/-! O46. A gang of which the first member has ended while another leaves. -/

namespace Sys2Proof.Machine

/-! ## The gang -/

/-- A die that stands, with its home memory. -/
def standingDie : Die := { (default : Die) with present := true, everUp := true }

/-- A gang of node 9 that leaves its cores. Of its two members the first has ended, and its context, 5, reaches the first address past the die's home memory
through a held leaf. The second still leaves; its context, 0, does not reach that address. -/
def strayHead : State := { State.reset with
  dies := [(0, standingDie)]
  ctxs := [(5, { (default : Ctx) with st := .active, fbase := BitVec.ofNat _ (2 ^ 36 - 0xC0000), fcnt := 1, fsize := 16 })]
  nodes := [(9, { (default : Node) with st := .running, cid := 5 })]
  gangs := [(0, { (default : Gang) with st := .stopping, node := 9, threads := [0, 1] })]
  threads := [(0, { (default : Thread) with st := .ended, cid := 5 }), (1, { (default : Thread) with st := .leaving, was := .running })]
  tlb := [{ die := 0, unit := 0, cid := 5, key := .leaf (2 ^ 36) (2 ^ 16), e0 := 0x44, e1 := 0 }] }

section
variable {t : State} (hd : t.dies = [(0, standingDie)])
include hd

/-- The second member's frame lies in home memory. -/
theorem frameAccess_ok : ∃ as, t.accessLin (.agent 0 0) (2 ^ 36 - 0xC0000) 0x60000 true 0 = .ok (as, t) := by
  cases t
  cases hd
  exact ⟨_, rfl⟩

/-- The cluster's frame lies past it, where context 0 reads a hole. -/
theorem clusterAccess_faults : t.accessLin (.agent 0 0) (2 ^ 36) 0x10000 true 0 = .error (pageFault 5 true (2 ^ 36)) := by
  cases t
  cases hd
  rfl

/-- Context 5 holds a leaf for it. -/
theorem clusterAccess_ok (ht : t.tlb = strayHead.tlb) : ∃ x, t.accessLin (.agent 0 5) (2 ^ 36) 0x10000 true 0 = .ok x := by
  cases t
  cases hd
  cases ht
  exact ⟨_, rfl⟩

end

/-- The state in which the second member's frame is written. -/
def strayHeadFramed : State := (strayHead.areaChosen 0 0).framed 1

theorem strayHeadFramed_dies : strayHeadFramed.dies = [(0, standingDie)] := rfl

/-- The second member's frame is written, and of what follows only memory has changed. -/
theorem strayHead_frame_saved : ∃ t, saveThreads (2 ^ 36 - 0xC0000) [1] (strayHead.areaChosen 0 0) = .ok t ∧ MemOnly strayHeadFramed t := by
  have hlen : ((strayHead.areaChosen 0 0).ownFrame 1).length = 0x60000 :=
    ownFrame_length (fun _ => Nat.zero_le _) (fun _ => Nat.zero_le _) (Nat.zero_le _) (Nat.zero_le _)
  obtain ⟨as, ha⟩ := frameAccess_ok strayHeadFramed_dies
  rw [← hlen] at ha
  refine ⟨_, saveThreads_one ?_, agentWrite_mem ha (agentWrite_of_accessLin ha)⟩
  rw [saveThread_unstopped (by decide)]
  exact agentWrite_of_accessLin ha

theorem gangArea_of_mem {s t : State} (h : MemOnly s t) (g : Nat) : t.gangArea g = s.gangArea g := by rw [h]; rfl
theorem gangClusters_of_mem {s t : State} (h : MemOnly s t) (g : Nat) : t.gangClusters g = s.gangClusters g := by rw [h]; rfl

/-- The cluster's frame takes 65,536 bytes, the gang having no share of its scratchpad. -/
theorem clusterImage_length {s : State} {g c : Nat} {r : Range} {objs : List Byte} (hg : s.clusterFrame g c = 0x10000) (hr : r.len = 0)
    (ho : objs.length = 0x10000) : (s.clusterImage g c r objs).length = 0x10000 := by
  rw [State.clusterImage, padTo_length, hg, List.length_append, ho, hr, State.spadBytes, Tab.getRange_length]
  rfl

/-- The cluster's frame is written for the first member and meets a hole for the second. -/
theorem strayHead_clusters {t : State} (h : MemOnly strayHeadFramed t) :
    (∃ u, saveClusters 0 0 [0] (2 ^ 36) t = .ok u) ∧ saveClusters 0 1 [0] (2 ^ 36) t = .error (pageFault 5 true (2 ^ 36), 1) := by
  have hthr : t.threads = strayHeadFramed.threads := by rw [h]
  have hgangs : t.gangs = strayHeadFramed.gangs := by rw [h]
  have hdies : t.dies = [(0, standingDie)] := by rw [h]; rfl
  have htlb : t.tlb = strayHead.tlb := by rw [h]; rfl
  obtain ⟨objs, u, hx⟩ : ∃ objs u, t.freeBytes 0x10000 = (objs, u) := ⟨_, _, rfl⟩
  obtain ⟨ho, hu⟩ := Prod.mk.inj hx
  have hobjs : objs.length = 0x10000 := by rw [← ho, List.length_map, List.length_range]
  have hlen : (u.clusterImage 0 0 ((t.gangs.get 0).shares.get 0) objs).length = 0x10000 := by
    refine clusterImage_length ?_ ?_ hobjs
    · rw [State.clusterFrame, ← hu, hgangs]; decide
    · rw [hgangs]; decide
  have h0 : (t.thr 0).cid = 5 := by rw [State.thr, hthr]; decide
  have h1 : (t.thr 1).cid = 0 := by rw [State.thr, hthr]; decide
  constructor
  · obtain ⟨⟨as, v⟩, ha⟩ := clusterAccess_ok (t := u) (by rw [← hu]; exact hdies) (by rw [← hu]; exact htlb)
    rw [← hlen] at ha
    exact saveClusters_one_ok hx (by rw [h0]; exact agentWrite_of_accessLin ha)
  · refine saveClusters_one_error hx ?_
    rw [h1]
    refine agentWrite_of_error ?_
    rw [hlen]
    exact clusterAccess_faults (by rw [← hu]; exact hdies)

/-- Refutes O46: the clause of a settled gang writes the cluster frames in the context of the gang's first member, the model in that of the first member still
leaving. In `strayHead` the first has ended and is of another context: the statement's frame is written, the model's meets a hole, and the node stops.
`gangSaved_saves` has the clause for the first member still leaving. -/
theorem not_theSchedulerMovesGangs : ¬ Obligations.TheSchedulerMovesGangs := by
  intro h
  obtain ⟨t, hsave, hmem⟩ := strayHead_frame_saved
  obtain ⟨⟨t3, hok⟩, herr⟩ := strayHead_clusters hmem
  have harea : t.gangArea 0 = 2 ^ 36 - 0xC0000 := (gangArea_of_mem hmem 0).trans (by decide)
  have hclusters : t.gangClusters 0 = [0] := (gangClusters_of_mem hmem 0).trans (by decide)
  obtain ⟨-, -, -, -, -, -, -, -, -, -, -, -, -, hsaved, -⟩ := h strayHead t t3 0 0 0 0 0 0 [] [] []
  obtain ⟨u, hu, hst, -⟩ := hsaved ⟨rfl, by decide, by decide, rfl, by decide, hsave, by rw [harea, hclusters]; exact hok⟩
  have hstop : strayHead.saveGang 0 = (strayHead.begunDone 0).stopNode 9 3 0x10 (some 1) :=
    saveGang_stops (s := strayHead) (g := 0) (k := 0) rfl (by decide) (by decide) rfl (by decide) hsave (by rw [harea, hclusters]; exact herr) rfl
  rw [exec_gangSaved, execGangSaved, hstop] at hu
  cases hu
  exact absurd hst (by decide)

end Sys2Proof.Machine
end

section
/-! O49. A context destroyed while the table of dies is not canonical (R125). -/

namespace Sys2Proof.Machine

/-! ## The dies that are present -/

/-- In a canonical table of dies, a record that keeps its presence leaves the list of those present. -/
theorem presentKeys_set {t : Tab Die} {k : Nat} {v : Die} (hv : v.present = (t.get k).present) : ∀ {lo}, Tab.wfFrom lo t = true →
    ((t.set k v).filter fun e => e.2.present).map Prod.fst = (t.filter fun e => e.2.present).map Prod.fst := by
  induction t with
  | nil =>
    intro lo _
    rw [Tab.set]
    split
    · rfl
    · rw [List.filter_cons_of_neg (by rw [hv]; exact Bool.false_ne_true)]
  | cons e rest ih =>
    obtain ⟨j, w⟩ := e
    intro lo h
    obtain ⟨-, -, hrest⟩ := (Tab.wfFrom_cons ..).mp h
    rcases lt_trichotomy j k with hj | rfl | hj
    · rw [Tab.get, if_neg hj.ne, if_neg hj.not_gt] at hv
      rw [Tab.set, if_pos hj]
      simp only [List.filter_cons]
      split
      · rw [List.map_cons, List.map_cons, ih hv hrest]
      · exact ih hv hrest
    · rw [Tab.get, if_pos rfl] at hv
      rw [Tab.set, if_neg (lt_irrefl j), if_pos rfl]
      split
      · next hd => rw [Tab.above_of_wfFrom hrest, List.filter_cons_of_neg (by rw [← hv, hd]; decide)]
      · simp only [List.filter_cons, hv]
        split <;> rfl
    · rw [Tab.get, if_neg hj.ne', if_pos hj] at hv
      rw [Tab.set, if_neg hj.not_gt, if_neg hj.ne']
      split
      · rfl
      · rw [List.filter_cons_of_neg (by rw [hv]; decide)]

theorem presentDies_setDie {s : State} {d : Nat} {f : Die → Die} (h : s.dies.wf = true) (hf : (f (s.die d)).present = (s.die d).present) :
    (s.setDie d f).presentDies = s.presentDies := presentKeys_set hf h

/-- With a canonical table of dies an error record leaves the list of those present. -/
theorem presentDies_log {s : State} (h : s.dies.wf = true) (d : Nat) (r : LogRec) : (s.log d r).presentDies = s.presentDies := by
  unfold State.log
  extract_lets die n prod cons at_ drop d0 u
  have hmem : MemOnly s u := (homeWrite_step ..).1
  have hu : u.dies = s.dies := by rw [hmem]
  split
  · exact presentDies_setDie h rfl
  · rw [presentDies_setDie (by rw [hu]; exact h) rfl, State.presentDies, hu]
    rfl

/-! ## The destroyed context -/

/-- A host that asks for the end of context 2, which holds a waiting node whose completion record cannot be written, and a table that lists die 8 twice. The count of
the die's error records is all that the first entry holds; it is about to come round to 0. -/
def twiceListedDie : State := { State.reset with
  queues := [(0, { st := .active, cid := 0, port := 0, l := 4, wt := 1, base := 0, hrep := 0x10000, head := 0, tail := 1, entered := [], atSlot := none })]
  dports := [(0, { (default : LinkPort) with st := .up })]
  hostMem := Tab.setRange [] 0 ([9, 4 + 2 * 256].flatMap fun v => leBytes 8 v)
  dies := [(0, { (default : Die) with present := true, everUp := true }), (8, { (default : Die) with elpos := 0xFFFFFFFF }),
    (8, { (default : Die) with present := true })]
  ctxs := [(2, { (default : Ctx) with st := .active, pkg := 1 })]
  nodes := [(9, { (default : Node) with st := .waiting, cid := 2, crec := 2 ^ 57 })] }

theorem twiceListedDie_present : twiceListedDie.presentDies = [0, 8] := by decide

/-- The shootdowns outstanding after a step. -/
def shootsOf : Out → List Shoot
  | .next u => u.shoots
  | _ => []

theorem twiceListedDie_shoots : (shootsOf (execContextDestroy 0 twiceListedDie)).map Shoot.dies = [[0]] := by decide +kernel

/-- Refutes O49 in the clause on a destroyed context's shootdown, which it sends to the dies present before: the error record of a completion that cannot be written
takes a die's record out of a table that is not canonical, with the later entries of its key. `presentDies_log` has what holds of a canonical table. -/
theorem not_contextControlActsOnContexts : ¬ Obligations.ContextControlActsOnContexts := by
  intro h
  obtain ⟨-, -, -, -, -, -, -, hdestroy, -⟩ := h twiceListedDie twiceListedDie 0 2 0 0 []
  obtain ⟨u, hu, -, -, -, -, -, hshoot⟩ := hdestroy (by decide +kernel) (Or.inl (by decide))
  have hmem := hshoot (by decide)
  have hshoots := twiceListedDie_shoots
  rw [← exec_contextDestroy, hu] at hshoots
  have hdies := List.mem_map_of_mem (f := Shoot.dies) hmem
  rw [show u.shoots.map Shoot.dies = [[0]] from hshoots, twiceListedDie_present] at hdies
  exact absurd hdies (by decide)

end Sys2Proof.Machine
end

section
/-! O48. A signal written to a page whose home is another die (R155, R277). -/

namespace Sys2Proof.Machine

/-! ## The write of a signal (R155) -/

/-- An event leaves home memory and the signals that wait. -/
theorem event_keeps (s : State) (cid : Nat) (r : EvRec) : (s.event cid r).mem = s.mem ∧ (s.event cid r).signals = s.signals := by
  unfold State.event State.eventOn State.eventFor
  extract_lets p
  split
  · simp only [State.putEvent, State.diripoSend, State.hostWrite_mem, State.hostWrite_signals, and_self]
  · exact ⟨rfl, rfl⟩

theorem MemOnly.signals {s t : State} (h : MemOnly s t) : t.signals = s.signals := by rw [h]
theorem TlbOnly.signals {s t : State} (h : TlbOnly s t) : t.signals = s.signals := by rw [h]

/-- The die of the port of a signal's queue. -/
def State.signalDie (s : State) (y : Signal) : Nat := (s.queues.get y.qid).die

/-- The signal leaves the list, and what its context has written at its queue's die is released. -/
def State.signalReleased (s : State) (n : Nat) (y : Signal) : State :=
  ({ s with signals := s.signals.eraseIdx n } : State).domainRelease (s.signalDie y) y.cid

/-- A signal's value is stored from a die through accesses of its context, and released. -/
def State.signalStored (t : State) (die : Nat) (y : Signal) (as : List Acc) : State :=
  (t.storeAccs (.agent die y.cid) as (leBytes 8 y.value.toNat)).domainRelease die y.cid

theorem signalStored_step (t : State) (die : Nat) (y : Signal) (as : List Acc) : MemStep t (t.signalStored die y as) :=
  (storeAccs_step ..).trans (domainRelease_step ..)

/-- The value of a signal whose nodes have ended is stored at its home, whatever ORD its page has, and released. -/
theorem signalWrite_stores {s t : State} {n : Nat} {y : Signal} {as : List Acc} (hy : s.signals[n]? = some y) (hb : y.behalf = none)
    (hended : ∀ k ∈ y.nodes, (s.nodes.get k).st.inFlight = false) (hstore : y.store = true)
    (hacc : (s.signalReleased n y).accessLin (.agent (s.signalDie y) y.cid) y.addr 8 true 0 = .ok (as, t)) :
    ∃ u, exec (.signalWrite n) s = .next u ∧ u.signals = s.signals.eraseIdx n ∧
      u.mem = (t.signalStored (s.signalDie y) y (as.map fun a => { a with ord := 1 })).mem := by
  have hall : (y.nodes.all fun k => !(s.nodes.get k).st.inFlight) = true := by simpa using hended
  let v := t.signalStored (s.signalDie y) y (as.map fun a => { a with ord := 1 })
  have hexec : exec (.signalWrite n) s = .next (if y.irq then v.event y.cid (y.event 6) else v) := by
    rw [State.signalReleased, State.signalDie] at hacc
    simp [execSignalWrite, State.writeSignal, hy, hb, hall, hstore, hacc, v, State.signalStored, State.signalDie]
  have hsig : v.signals = s.signals.eraseIdx n :=
    calc v.signals = t.signals := (signalStored_step ..).1.signals
      _ = (s.signalReleased n y).signals := (accessLin_tlb hacc).signals
      _ = s.signals.eraseIdx n := (domainRelease_step ..).1.signals
  refine ⟨_, hexec, ?_⟩
  split
  · exact ⟨(event_keeps ..).2.trans hsig, (event_keeps ..).1⟩
  · exact ⟨hsig, rfl⟩

/-! ## A signal to another die's memory -/

/-- A signal of context 5, by a queue that die 0 serves: 1, to be written to address 0. -/
def farSignal : Signal := { store := true, qid := 9, cid := 5, addr := 0, value := 1, nodes := [], irq := false, ptag := 0, ordinal := 0 }

/-- Two dies that stand, and `farSignal` to be written. Die 0 holds the leaf of its page: mapped, writable, release-consistent (ORD 2), at the lowest address of
die 1. -/
def farHome : State := { State.reset with
  dies := [(0, standingDie), (1, standingDie)]
  signals := [farSignal]
  tlb := [{ die := 0, unit := 0, cid := 5, key := .leaf 0 (2 ^ 16), e0 := BitVec.ofNat 64 (0x66 + 2 ^ 42), e1 := 0 }] }

/-- The access to the signalled dword: its ordering kind is its page's. -/
def farAccess : Acc := { pa := 2 ^ 42, len := 8, va := 0, rkey := regionKey 5 0, w := true, ord := 2 }

theorem farHome_access : (farHome.signalReleased 0 farSignal).accessLin (.agent 0 5) 0 8 true 0 =
    .ok ([farAccess], farHome.signalReleased 0 farSignal) := rfl

/-- Home memory after the signal's bytes are stored through an access and released. -/
def farStored (a : Acc) : Tab Byte :=
  ((farHome.signalReleased 0 farSignal).signalStored 0 farSignal [a]).mem

/-- Stored as its page has it, the dword stays in the cache of die 0. -/
theorem farStored_page : farStored farAccess = [] := by decide +kernel

/-- Stored as a strong access it reaches its home. -/
theorem farStored_strong : farStored { farAccess with ord := 1 } = [(2 ^ 42, 1)] := by decide +kernel

/-- Refutes O48 in the clause on the write of a signal: it stores with the ordering kind of the page, the model with the strong one. In `farHome` the page is
release-consistent and another die is its home: the statement's dword is left in the remote-data cache, and no region makes the release write it back; the model's is
at home. `signalWrite_stores` is the clause with the strong kind. -/
theorem not_hostPacketsAreTaken : ¬ Obligations.HostPacketsAreTaken := by
  intro h
  obtain ⟨-, -, -, -, -, -, -, -, -, -, -, -, -, -, -, -, -, hwrite, -⟩ :=
    h farHome (farHome.signalReleased 0 farSignal) farHome 0 0 0 0 { key := 0, vec := 0, mat := 0 } [] [farAccess] farSignal [] .wait
  obtain ⟨u, hu, -, hmem⟩ := hwrite rfl rfl (fun k hk => nomatch hk) rfl farHome_access
  obtain ⟨v, hv, -, hstrong⟩ := signalWrite_stores (s := farHome) (n := 0) (y := farSignal) rfl rfl (fun k hk => nomatch hk) rfl farHome_access
  rw [hu] at hv
  cases hv
  have hpage : u.mem = [] := hmem.trans farStored_page
  have hhome : u.mem = [(2 ^ 42, 1)] := hstrong.trans farStored_strong
  rw [hpage] at hhome
  exact nomatch hhome

end Sys2Proof.Machine
end

section
/-! O47. What the completion of a node tells its successors (R177, R185, R189). -/

namespace Sys2Proof.Machine

/-- What informs a node leaves every other. -/
theorem informNode_other (s : State) {n k : Nat} (pred : Nat) (bad : Bool) (h : k ≠ n) : (s.informNode n pred bad).nodes.get k = s.nodes.get k := by
  unfold State.informNode
  extract_lets x hold
  split
  · split
    · split <;> exact Tab.get_set_other _ _ _ _ h
    · exact Tab.get_set_other _ _ _ _ h
  · rfl

/-- A node that waited for one alone, which has ended, is held or ready once informed. -/
theorem informNode_told {s : State} {n pred : Nat} (bad : Bool) (hw : (s.nodes.get n).st = .waiting) (hp : (s.nodes.get n).preds = [pred])
    (he : (s.nodes.get pred).st = .ended) :
    ((s.informNode n pred bad).nodes.get n).st = if ((s.nodes.get n).hold || bad) = true then .held else .ready := by
  have hall : s.predsEnded (s.nodes.get n) = true := by simp [State.predsEnded, hp, he]
  unfold State.informNode
  extract_lets x hold
  rw [if_pos ⟨hw, by rw [hp]; simp⟩, if_pos hall]
  split <;> exact congrArg Node.st (Tab.get_set_same ..)

/-- Every node of a list that waited for one alone, which has ended, is held or ready once the list is informed. -/
theorem informNodes_told {n pred : Nat} (bad : Bool) (l : Tab Node) : ∀ s : State, n ∈ l.map Prod.fst → (s.nodes.get n).st = .waiting →
    (s.nodes.get n).preds = [pred] → (s.nodes.get pred).st = .ended →
    ((l.foldl (fun s e => s.informNode e.1 pred bad) s).nodes.get n).st = if ((s.nodes.get n).hold || bad) = true then .held else .ready := by
  induction l with
  | nil => exact fun s h => nomatch h
  | cons e l ih =>
    intro s hmem hw hp he
    rw [List.foldl_cons]
    by_cases hn : n = e.1
    · subst hn
      have htold := informNode_told bad hw hp he
      rw [informNodes_get _ _ _ _ _ (by rw [htold]; split <;> simp), htold]
    · have hsame := informNode_other s pred bad hn
      have hpred : (s.informNode e.1 pred bad).nodes.get pred = s.nodes.get pred := informNode_get _ _ _ _ _ (by rw [he]; simp)
      rw [← hsame]
      exact ih _ (by simpa [hn] using hmem) (by rw [hsame, hw]) (by rw [hsame, hp]) (by rw [hpred, he])

/-- A node whose record need not wait ends, and then every node is informed. -/
theorem completeNode_informs (s : State) (n : Nat) (h : s.recordWaits n = false) :
    ∃ v : State, v.nodes = s.nodes.set n { s.nodes.get n with st := .ended } ∧
      (s.completeNode n).nodes = (v.nodes.foldl (fun u e => u.informNode e.1 n (badVerdict (s.nodes.get n).verdict)) v).nodes := by
  unfold State.completeNode
  rw [h]
  extract_lets x die s1 s2 s3 s4
  have h1 : s1.nodes = s.nodes := by
    refine (MemStep.fold _ (fun s e => ?_) _ s).1.nodes
    split
    · exact release_step ..
    · exact .refl s
  have h2 : s2.nodes = s1.nodes := by
    unfold s2
    split
    · rfl
    · split
      case h_1 as t ht => exact ((storeAccs_step ..).trans (domainRelease_step ..)).1.nodes.trans (accessLin_tlb ht).nodes
      case h_2 => rw [State.log_nodes]
  refine ⟨s3, ?_, ?_⟩
  · show s2.nodes.set n { s2.nodes.get n with st := .ended } = _
    rw [h2, h1]
  · rw [if_neg Bool.false_ne_true]
    split
    · rw [State.event_nodes]
    · rfl

/-- A node that waited for one alone is held after a bad verdict of that one, and else becomes ready. -/
theorem completeNode_told {s : State} {n m : Nat} (h : s.recordWaits n = false) (he : (s.nodes.get n).st = .ending) (hw : (s.nodes.get m).st = .waiting)
    (hp : (s.nodes.get m).preds = [n]) :
    ((s.completeNode n).nodes.get m).st = if ((s.nodes.get m).hold || badVerdict (s.nodes.get n).verdict) = true then .held else .ready := by
  obtain ⟨v, hv, hc⟩ := completeNode_informs s n h
  have hne : m ≠ n := fun e => by rw [e, he] at hw; exact nomatch hw
  have hm : v.nodes.get m = s.nodes.get m := by rw [hv, Tab.get_set_other _ _ _ _ hne]
  have hlisted : m ∈ v.nodes.map Prod.fst :=
    List.mem_map_of_mem (f := Prod.fst) (Tab.mem_of_get_ne_default v.nodes m fun e => by rw [← hm, e] at hw; exact nomatch hw)
  rw [hc, informNodes_told _ _ v hlisted (by rw [hm, hw]) (by rw [hm, hp]) (by rw [hv, Tab.get_set_same]), hm]

/-- The verdicts that hold a successor are tainted, rejected and cancelled. -/
theorem badVerdict_iff (v : Nat) : badVerdict v = true ↔ v = 3 ∨ v = 4 ∨ v = 5 := by simp [badVerdict, or_assoc]

/-- Settles O47: the verdict is `Node.decide`'s, and the successors are those that `completeNode` informs. -/
theorem nodesEndWithTheirVerdict : Obligations.NodesEndWithTheirVerdict := by
  intro s n x r over_
  refine ⟨fun h => ?ends, fun h => congrArg Host.Outcome.next (if_neg h), fun he h => ?completes, fun h => congrArg Host.Outcome.next (if_neg h)⟩
  case ends =>
    exact ⟨s.modNode n Node.decide, congrArg Host.Outcome.next (if_pos h), rfl, Tab.get_set_same .., fun m hm => Tab.get_set_other _ _ _ _ hm⟩
  case completes =>
    refine ⟨s.completeNode n, congrArg Host.Outcome.next (if_pos he), completeNode_get s n h, fun m hw hp => ?_⟩
    simp only [completeNode_told h he hw hp, Bool.or_eq_true, badVerdict_iff]
    rfl

end Sys2Proof.Machine
end

section
/-! SUPPORT. The entry of a launched node (R172, R176, R192), and what a read of a word leaves of its thread. -/

namespace Sys2Proof.Machine

/-! ## Admission changes no context (R176) -/

/-- What answers past a check that would have stopped it. -/
theorem ok_of_ite_error {ε α : Type} {p : Prop} [Decidable p] {e : ε} {x : Except ε α} {y : α} (h : (if p then .error e else x) = .ok y) : x = .ok y := by
  split at h
  · cases h
  · exact h

theorem admissionRead_ctxs {s t : State} {cid va n : Nat} {bs : List Byte} (h : admissionRead s cid va n = .ok (bs, t)) : t.ctxs = s.ctxs := by
  unfold admissionRead at h
  split at h
  case h_1 r u hr =>
    cases h
    rw [(agentRead_frames hr).only]
  all_goals cases h

theorem admissionOf_ctxs {s t : State} {cid : Nat} {b : Body} {list : Bool} {a : Admission} (h : admissionOf s cid b list = .ok (a, t)) :
    t.ctxs = s.ctxs := by
  obtain ⟨⟨hb, s1⟩, h1, h⟩ := bind_ok (ok_of_ite_error (ok_of_ite_error h))
  dsimp only at h
  split at h
  · cases h
  obtain ⟨⟨ab, s2⟩, h2, h⟩ := bind_ok h
  have hread : s2.ctxs = s.ctxs := (admissionRead_ctxs h2).trans (admissionRead_ctxs h1)
  dsimp only at h
  split at h
  · obtain ⟨x, hx, h⟩ := bind_ok h
    cases hx
    cases ok_of_ite_error (ok_of_ite_error (ok_of_ite_error h))
    exact hread
  · obtain ⟨⟨nb, s3⟩, h3, h⟩ := bind_ok h
    cases ok_of_ite_error (ok_of_ite_error (ok_of_ite_error h))
    exact (admissionRead_ctxs h3).trans hread

theorem admission_ctxs (s : State) (cid : Nat) (b : Body) (list : Bool) : (s.admission cid b list).2.ctxs = s.ctxs := by
  unfold State.admission
  split
  case h_1 x hx => exact admissionOf_ctxs hx
  case h_2 => rfl

/-! ## The node that a launch enters (R172, R192) -/

theorem enterNode_key (s : State) (cid : Nat) (b : Body) (a : Admission) (o : Origin) :
    (s.enterNode cid b a o).1 = nodeKey cid (s.ctxs.get cid).nextId.toNat := by cases a <;> rfl

theorem nodeKey_mod (cid : Nat) (nid : BitVec 32) : nodeKey cid nid.toNat % 2 ^ 32 = nid.toNat := by
  have h := nid.isLt
  unfold nodeKey
  omega

/-- Nothing is accepted while a graph list of the context is entering (R171). -/
theorem acceptLaunch_listing {s : State} {t : Nat} (h : s.listing (s.thr t).cid none = true) (n stage ord : Nat) : s.acceptLaunch t n stage ord = none := by
  unfold State.acceptLaunch
  extract_lets th b
  rw [if_pos (by rw [h, Bool.or_true])]

/-- The slot of an accepted launch names the context's next node. -/
theorem acceptLaunch_slot {s u : State} {t n stage ord : Nat} (h : s.acceptLaunch t n stage ord = some u) :
    (u.thr t).child.get n = (s.ctxs.get (s.thr t).cid).nextId.toNat := by
  unfold State.acceptLaunch at h
  extract_lets th b at h
  split at h
  · cases h
  have hc := admission_ctxs s th.cid b false
  split at h
  · cases h
  case h_2 a v _ hv =>
    rw [hv] at hc
    cases h
    dsimp only
    rw [State.thr_modThr_same, enterNode_key, nodeKey_mod, hc]
    split <;> exact Tab.get_set_same ..

/-! ## Reads of a word -/

theorem readHome_step (s : State) (w : Issuer) (a : Acc) : MemStep s (s.readHome w a).2 := drainOverlap_step s w.thread a

theorem readsHome_step (w : Issuer) (as : List Acc) : ∀ s : State, MemStep s (s.readsHome w as).2 := by
  induction as with
  | nil => exact fun s => .refl s
  | cons a as ih => exact fun s => (readHome_step s w a).trans (ih _)

theorem taint_ys (s : State) (t : Nat) (e : Engine) (r : BitVec 8) (b : BitVec 6) : (s.taint t e r).ys b = s.ys b :=
  State.modThr_keeps (fun th => th.rs .syn b) s t _ (fun _ => by rfl) s.cur

/-- Tainting for a read leaves the scalars that SYN's head word names. -/
theorem readTaint_ys (s : State) (t : Nat) (e : Engine) (poison piece : Bool) (b : BitVec 6) : (s.readTaint t e poison piece).ys b = s.ys b := by
  cases poison <;> cases piece <;> simp [State.readTaint, taint_ys]

end Sys2Proof.Machine
end

section
/-! SUPPORT. launch, cwait, the waits on memory, replay, ctxsv and ctxld (R145, R192, R193, R249, R295), each by its cases, and the statement O43 from them. -/

namespace Sys2Proof.Machine

/-! ## launch (R192) -/

section
variable {s s4 s5 : State} {n j : Nat} {b : Body} {key : Dword}

theorem submitLaunch_accepted (he : takeEntry (s.setStage (launchStage b key false)) .syn 0x0E 0 = .ok (j, s4))
    (ha : s4.acceptLaunch s4.cur n (launchStage b key true) (s4.me.ordOf .syn) = some s5) : submitLaunch n b key s = .ok (s5.setStage 0) := by
  unfold submitLaunch
  rw [he]
  dsimp only [bind, Except.bind]
  rw [ha]

theorem submitLaunch_waits (he : takeEntry (s.setStage (launchStage b key false)) .syn 0x0E 0 = .ok (j, s4))
    (ha : s4.acceptLaunch s4.cur n (launchStage b key true) (s4.me.ordOf .syn) = none) :
    submitLaunch n b key s = .error (.hold .outside (s4.setStage (launchStage b key true))) := by
  unfold submitLaunch
  rw [he]
  dsimp only [bind, Except.bind]
  rw [ha]
  rfl

theorem submitLaunch_noEntry (h : (s.setStage (launchStage b key false)).me.sbFree = none) :
    submitLaunch n b key s = .error (.hold .outside (s.setStage (launchStage b key false))) := by
  unfold submitLaunch takeEntry
  rw [h]
  rfl

end

section
variable {s : State} {n : BitVec 4} {a : BitVec 6}

/-- The key on top of the current thread's seed stack (R122). -/
def State.seedKeyOnTop (s : State) : Dword :=
  match s.me.seeds with
  | e :: _ => e.key
  | [] => 0

/-- A launch reads its body once, and submits it with the key on top of the seed stack. -/
theorem exec_launch_reads {s1 s3 : State} {as : List Acc} {data : List Byte} {bad : Bool} (hst : s.me.synStage < 2) (hal : field (s.ys a) 0 6 = 0)
    (hacc : s.accessLin (s.issuer s.cur .syn) (s.ys a).toNat 64 false 0 = .ok (as, s1)) (hload : s1.loadAccs (s.issuer s.cur .syn) as = ((data, bad), s3))
    (hok : (bodyOf data).ok false = true) :
    let seen := s3.readTaint s3.cur .syn bad (s1.accsTaint (s.issuer s.cur .syn) as)
    exec (.launch n a) s = finish .syn s (submitLaunch n.toNat (bodyOf data) seen.seedKeyOnTop seen) := by
  intro seen
  have hcur : s3.cur = s1.cur := by
    obtain ⟨-, h, -⟩ := (loadAccs_step (s.issuer s.cur .syn) as s1).1.keeps
    rwa [hload] at h
  have htaken : ¬ stageTaken s.me.synStage = true := by simp [stageTaken, hst]
  rw [exec_launch]
  unfold execLaunch
  rw [if_neg htaken, if_neg (by omega)]
  extract_lets b w
  rw [if_neg (not_not.2 hal), hacc]
  dsimp only [liftMem, bind, Except.bind]
  rw [hload, ← hcur, if_neg (by rw [hok]; exact Bool.false_ne_true)]
  rfl

/-- A launch that has read its body goes on from its stage. -/
theorem exec_launch_resumes (hst : 2 ≤ s.me.synStage) (ht : stageTaken s.me.synStage = false) :
    exec (.launch n a) s = finish .syn s (submitLaunch n.toNat (stageBody s.me.synStage) (stageKey s.me.synStage) s) := by
  rw [exec_launch]
  unfold execLaunch
  rw [if_neg (by rw [ht]; exact Bool.false_ne_true), if_pos hst]

/-- A submitted launch waits: its acceptance is the order point's. -/
theorem launch_waits_taken (ht : stageTaken s.me.synStage = true) : Waits .syn (.launch n a) s .outside :=
  waits_of_hold (exec_launch n a s) (if_pos ht)

end

/-! ## cwait (R193) -/

/-- A slot is empty or its node has ended. -/
theorem childEnded_iff (s : State) (k : Nat) : s.childEnded k = true ↔
    s.me.child.get k = 0 ∨ (s.nodes.get (s.me.cid * 2 ^ 32 + s.me.child.get k)).st.inFlight = false := by
  simp [State.childEnded, nodeKey]

theorem childrenEnded_iff (s : State) : (List.range 16).all s.childEnded = true ↔ ∀ k < 16, s.childEnded k = true := by simp

/-- A word of SYN that completes when a condition holds, and else waits. -/
theorem does_or_waits {i : Instr} {s u : State} {c : Bool} (h : exec i s = finish .syn s (if !c then synHold s else .ok u)) :
    (c = true → Does .syn i s u) ∧ (¬ c = true → Waits .syn i s .outside) :=
  ⟨fun hc => does_of_ok h (by rw [hc]; rfl), fun hc => waits_of_hold h (by rw [Bool.eq_false_iff.2 hc]; rfl)⟩

/-! ## The waits on memory (R295) -/

section
variable {i : Instr} {f : Dword → Dword → Bool} {a b : BitVec 6} {s : State} (hi : exec i s = waitWord f a b s)
include hi

/-- A wait that has read waits until it is told to read again. -/
theorem waitWord_idle (hst : s.me.synStage = 1) (hr : s.me.recheck = false) : Waits .syn i s .outside :=
  waits_of_hold hi (if_pos ⟨hst, by rw [hr]; rfl⟩)

/-- A wait reads at home: it completes as an acquire when its compare holds, and else waits to read again. -/
theorem waitWord_reads {s1 s3 : State} {as : List Acc} {data : List Byte} {bad : Bool} (hr : ¬ (s.me.synStage = 1 ∧ s.me.recheck = false))
    (hb : s.me.allBefore .syn = true) (hal : field (s.ys a) 0 3 = 0)
    (hacc : s.accessLin (s.issuer s.cur .syn) (s.ys a).toNat 8 false 1 = .ok (as, s1)) (hread : s1.readsHome (s.issuer s.cur .syn) as = ((data, bad), s3)) :
    let seen := s3.readTaint s3.cur .syn bad (s1.accsTaint (s.issuer s.cur .syn) as)
    (f (leDword data) (s.ys b) = true → Does .syn i s ((seen.setStage 0).acquire seen.cur)) ∧
    (¬ f (leDword data) (s.ys b) = true →
      exec i s = .next ((seen.modMe fun th => { th with synStage := 1, recheck := false }).holdWord .syn .outside)) := by
  intro seen
  have hmem : MemOnly s1 s3 := by
    have h := (readsHome_step (s.issuer s.cur .syn) as s1).1
    rwa [hread] at h
  obtain ⟨-, hcur, -, hme, -⟩ := hmem.keeps
  obtain ⟨-, -, -, -, hme1, -⟩ := (accessLin_tlb hacc).keeps
  have hys : seen.ys b = s.ys b :=
    calc seen.ys b = s3.ys b := readTaint_ys ..
      _ = s.ys b := congrArg (fun th : Thread => th.rs .syn b) (hme.trans hme1)
  have hword : exec i s = finish .syn s (if f (leDword data) (s.ys b) then .ok ((seen.setStage 0).acquire seen.cur)
      else synHold (seen.modMe fun th => { th with synStage := 1, recheck := false })) := by
    rw [hi]
    unfold waitWord
    rw [if_neg (by simpa using hr), synAfter, if_pos hb]
    show finish .syn s (if field (s.ys a) 0 3 ≠ 0 then _ else _) = _
    rw [if_neg (not_not.2 hal), hacc]
    dsimp only [liftMem, bind, Except.bind]
    rw [hread, ← hcur, ← hys]
  exact ⟨fun h => does_of_ok hword (if_pos h), fun h => by rw [hword, if_neg h]; rfl⟩

end

/-! ## replay (R249), ctxsv and ctxld (R145) -/

/-- What a replay has tried of the work that it names, once (log entry 52). -/
def State.workRetried (s : State) (v : Dword) : State :=
  if s.me.synStage = 1 then s
  else (s.tasks.foldl (fun s e => if replayNames v e.2.cid then s.replayTask e.1 else s) s).parkedAgain s.parkWaits

theorem bind_of_ok {ε α β : Type} {x : Except ε α} {a : α} (h : x = .ok a) (f : α → Except ε β) : (x >>= f) = f a := by rw [h]; rfl

theorem areaAligned_ok {s : State} {v : Dword} (h : field v 0 16 = 0) : areaAligned s v = .ok () := if_neg (not_not.2 h)

section
variable {s s1 : State} {a b : BitVec 6} (hp : (s.ctxs.get s.me.cid).sys = true)
include hp

/-- A replay in form waits while work that it has taken up has neither translated nor parked. -/
theorem exec_replay_of_form (hf : bits (s.ys a) 10 53 = 0 ∧ (flag (s.ys a) 63 = false ∨ bits (s.ys a) 0 10 = 0)) : exec (.replay a) s = finish .syn s
    (if (s.workRetried (s.ys a)).replayOwes (s.ys a) then synHold ((s.workRetried (s.ys a)).setStage 1) else .ok ((s.workRetried (s.ys a)).setStage 0)) := by
  have hform : ¬ (bits (s.ys a) 10 53 ≠ 0 ∨ (flag (s.ys a) 63 = true ∧ bits (s.ys a) 0 10 ≠ 0)) := by
    rintro (h | ⟨h, hb⟩)
    · exact h hf.1
    · exact hf.2.elim (fun hn => by rw [hn] at h; exact nomatch h) hb
  rw [exec_replay]
  unfold execReplay
  rw [bind_of_ok (needPriv_ok hp)]
  exact congrArg (finish .syn s) (if_neg hform)

/-- A ctxsv that has begun waits while its gang is stopping. -/
theorem exec_ctxsv_begun (hst : 2 ≤ s.me.synStage) : exec (.ctxsv a b) s = finish .syn s
    (if (s.gangs.get (s.me.synStage - 2)).st = .stopping then synHold s else .ok (s.setStage 0)) := by
  rw [exec_ctxsv]
  unfold execCtxsv
  rw [bind_of_ok (needPriv_ok hp)]
  exact congrArg (finish .syn s) (if_pos hst)

/-- ctxsv stops the live gang of the thread on the core that it names, its area being writable, and waits. -/
theorem ctxsv_stops {t g : Nat} {as : List Acc} (hst : s.me.synStage < 2) (hal : field (s.ys b) 0 16 = 0)
    (ht : s.onCore (field (s.ys a) 21 5 * 8 + field (s.ys a) 10 3) (field (s.ys a) 13 8) = some t) (hres : bits (s.ys a) 26 38 = 0)
    (hcid : (s.thr t).cid = field (s.ys a) 0 10) (hg : (s.thr t).gang = g)
    (hacc : s.accessLin (Issuer.agent (s.thr t).die (field (s.ys a) 0 10)) (s.ys b).toNat (s.areaBytes g) true 0 = .ok (as, s1))
    (hlive : (s.gangs.get g).st = .live) :
    exec (.ctxsv a b) s = .next (((s1.stopGang g true (s.ys b).toNat).setStage (g + 2)).holdWord .syn .outside) := by
  subst hg
  rw [exec_ctxsv]
  unfold execCtxsv
  rw [bind_of_ok (needPriv_ok hp), if_neg (by omega)]
  extract_lets v area cid
  rw [bind_of_ok (areaAligned_ok hal), ht]
  dsimp only
  rw [if_neg (by simp [v, cid, hres, hcid]), hacc]
  show finish .syn s (if (s.gangs.get (s.thr t).gang).st ≠ .live then _ else _) = _
  rw [if_neg (not_not.2 hlive)]
  rfl

/-- A ctxld whose gang no place can take any more ends the gang. -/
theorem ctxld_loses {g : Nat} (hal : field (s.ys a) 0 16 = 0) (hg : s.savedAt (s.ys a).toNat = some g) (hs : s.gangStranded g = true)
    (hres : bits (s.ys b) 16 48 = 0) : Does .syn (.ctxld a b) s (s.loseGang g 0x15) := by
  refine does_of_ok (exec_ctxld a b s) ?_
  rw [bind_of_ok (needPriv_ok hp)]
  extract_lets area v die
  rw [bind_of_ok (areaAligned_ok hal), hg]
  exact if_pos ⟨hs, hres⟩

/-- ctxld restores a saved gang to a free place, its area being readable, and lets the members that go on drop their records. -/
theorem ctxld_restores {g die : Nat} {p : Place} {as : List Acc} (hal : field (s.ys a) 0 16 = 0) (hg : s.savedAt (s.ys a).toNat = some g)
    (hs : s.gangStranded g = false) (hd : field (s.ys b) 11 5 * 8 + field (s.ys b) 0 3 = die) (hm : s.movedPlace g die (field (s.ys b) 3 8) = some p)
    (hres : bits (s.ys b) 16 48 = 0) (hpres : (s.die die).present = true) (hfree : s.placeFree g p = true)
    (hacc : s.accessLin (Issuer.agent die (s.nodes.get (s.gangs.get g).node).cid) (s.ys a).toNat (s.areaBytes g) false 0 = .ok (as, s1))
    (hback : ((s1.restoreAt g p (s.ys a).toNat true).gangs.get g).st ≠ .saved) :
    Does .syn (.ctxld a b) s ((s1.restoreAt g p (s.ys a).toNat true).unstop g) := by
  subst hd
  refine does_of_ok (exec_ctxld a b s) ?_
  rw [bind_of_ok (needPriv_ok hp)]
  extract_lets area v die
  rw [bind_of_ok (areaAligned_ok hal), hg]
  dsimp only
  rw [if_neg (by simp [hs]), hm]
  dsimp only
  rw [if_neg (by simp [v, die, hres, hpres, hfree]), hacc]
  exact if_neg hback

end

/-! ## The statement -/

/-- Settles O43 from the lemmas on each word's cases. -/
theorem launchesWaitsAndGangMoves : Obligations.LaunchesWaitsAndGangMoves := by
  intro s s1 s3 s4 s5 from_ n a b as data bad j t g p bd ky th x y sys w reads looks seen body stage unsent began submits empty word replayed remain named
    die core G back
  have launch (h : began) : exec (.launch n a) s = finish .syn s (submitLaunch n.toNat bd ky from_) := by
    rcases h with ⟨hst, hal, ⟨hacc, hload⟩, hok, rfl, rfl, rfl⟩ | ⟨hst, ht, rfl, rfl, rfl⟩
    · exact exec_launch_reads hst hal hacc hload hok
    · exact exec_launch_resumes hst ht
  have ended (k : Nat) : s.childEnded k = true ↔ empty k := childEnded_iff s k
  have wait := does_or_waits (exec_cwait n s)
  have waitAll := does_or_waits (exec_cwaitAll s)
  have waits {i : Instr} {f : Dword → Dword → Bool} {holds : Nat → Nat → Prop} (hi : exec i s = waitWord f a b s)
      (hf : ∀ v r, f v r = true ↔ holds v.toNat r.toNat) : word i holds := by
    refine ⟨fun hr hb hal ⟨hacc, hread⟩ => ?_, fun hst hr => waitWord_idle hi hst hr⟩
    rw [← hf]
    exact waitWord_reads hi hr hb hal hacc hread
  have replay (hp : sys) (hf : named) : exec (.replay a) s = finish .syn s (if remain then synHold (replayed.setStage 1) else .ok (replayed.setStage 0)) :=
    exec_replay_of_form hp hf
  refine ⟨fun ⟨hb, he⟩ ha => does_of_ok (launch hb) (submitLaunch_accepted he ha), fun ⟨hb, he⟩ ha => by rw [launch hb, submitLaunch_waits he ha]; rfl,
    fun hb he => by rw [launch hb, submitLaunch_noEntry he]; rfl, launch_waits_taken, fun h k o => acceptLaunch_listing h k _ o,
    fun k o h => acceptLaunch_slot h, fun h => wait.1 ((ended _).2 h), fun h => wait.2 fun hc => h ((ended _).1 hc), ?all, ?notAll,
    waits (holds := fun v r => r ≤ v) (exec_waitGeu a b s) fun v r => decide_eq_true_iff, waits (exec_waitEq a b s) fun v r => beq_iff_eq.trans BitVec.toNat_inj.symm,
    waits (exec_waitNe a b s) fun v r => bne_iff_ne.trans BitVec.toNat_inj.symm.not, waits (exec_waitLtu a b s) fun v r => decide_eq_true_iff,
    ⟨_, exec_memoryWaitRecheck t s, rfl, State.thr_modThr_same .., fun v hv => State.thr_modThr_other _ _ _ _ hv⟩,
    fun hp hf h => does_of_ok (replay hp hf) (by rw [h]; rfl), fun hp hf h => by rw [replay hp hf, h]; rfl,
    fun hp hst hal ht hres hcid hacc hlive => ctxsv_stops hp hst hal ht hres hcid rfl hacc hlive,
    fun hp hst h => waits_of_hold (exec_ctxsv_begun hp hst) (if_pos h), fun hp hst h => does_of_ok (exec_ctxsv_begun hp hst) (if_neg h),
    fun hp hal hg hs hres => ctxld_loses hp hal hg hs hres,
    fun hp hal hg hs hm hres hpres hfree hacc hback => ctxld_restores hp hal hg hs rfl hm hres hpres hfree hacc hback⟩
  case all => exact fun h => waitAll.1 ((childrenEnded_iff s).2 fun k hk => (ended k).2 (h k hk))
  case notAll => exact fun ⟨k, hk, h⟩ => waitAll.2 fun hc => h ((ended k).1 ((childrenEnded_iff s).1 hc k hk))

end Sys2Proof.Machine
end

section
/-! SUPPORT. Group barriers (R201, R205, R208 to R212, R287): the closing of a barrier as it meets each thread, the arrival and the wait, and the statement O35
from them. -/

namespace Sys2Proof.Machine

/-! ## What SYN words wait for, and the release at an arrival (R210, R211) -/

theorem synAfter_ok {s : State} (h : s.me.allBefore .syn = true) : synAfter s = .ok () := if_pos h

/-- A release performs posted stores, and nothing else happens. -/
theorem synRelease_step {s s1 : State} {domain : Bool} (h : synRelease s domain = .ok s1) : MemStep s s1 := by
  unfold synRelease at h
  split at h
  · cases h
  · cases h
    split
    · exact release_step s s.cur
    · exact drainThread_step s s.cur

/-! ## Rounds over the records of threads -/

/-- `t` is `s` but for memory, as `MemOnly` has it, and the records of the threads. -/
def MemThreadsOnly (s t : State) : Prop := MemOnly { s with threads := t.threads } t

theorem MemThreadsOnly.trans {s t u : State} (h : MemThreadsOnly s t) (k : MemThreadsOnly t u) : MemThreadsOnly s u := by
  unfold MemThreadsOnly MemOnly at *; rw [k, h]

theorem MemThreadsOnly.modThr {s u : State} {t : Nat} {f : Thread → Thread} (h : MemOnly (s.modThr t f) u) : MemThreadsOnly s u := by
  unfold MemThreadsOnly MemOnly at *; rw [h]; rfl

theorem MemThreadsOnly.keeps {s t : State} (h : MemThreadsOnly s t) : t.cur = s.cur ∧ t.gangs = s.gangs ∧ t.spad = s.spad := by
  rw [h]; exact ⟨rfl, rfl, rfl⟩

section
variable {f : Thread → Thread} {round : State → Nat → State} (h : ∀ s t, MemOnly (s.modThr t f) (round s t)) (l : List Nat) (s : State)
include h

theorem foldl_memThreads : MemThreadsOnly s (l.foldl round s) :=
  foldl_rel MemThreadsOnly (fun _ => rfl) (fun _ _ _ => .trans) round (fun s t => .modThr (h s t)) l s

/-- Rounds that each apply `f` to a thread's record apply it as often as the thread is listed. -/
theorem foldl_thr (v : Nat) : (l.foldl round s).thr v = f^[l.count v] (s.thr v) := by
  induction l generalizing s with
  | nil => rfl
  | cons t l ih =>
    obtain ⟨-, -, -, -, hthr⟩ := (h s t).keeps
    rw [List.foldl_cons, ih, hthr]
    by_cases hv : v = t
    · subst hv
      rw [State.thr_modThr_same, List.count_cons_self, Function.iterate_succ_apply]
    · rw [State.thr_modThr_other _ _ _ _ hv, List.count_cons_of_ne (Ne.symm hv)]

end

/-! ## How a barrier's closing meets a thread (R210, R287) -/

/-- The PENDING bit `id` becomes 0. -/
def Thread.unpend (id : Nat) (th : Thread) : Thread := { th with pending := th.pending.set id false }

/-- A thread once a barrier closes at which it has arrived `n` times. -/
def Thread.met (id n : Nat) (th : Thread) : Thread := Thread.fenced^[n] ((Thread.unpend id)^[n] th)

theorem Thread.unpends_only (id n : Nat) (th : Thread) : (Thread.unpend id)^[n] th = { th with pending := ((Thread.unpend id)^[n] th).pending } := by
  induction n generalizing th with
  | zero => rfl
  | succ n ih => rw [Function.iterate_succ_apply, ih]; rfl

theorem Thread.unpends_pending (id n j : Nat) (th : Thread) :
    ((Thread.unpend id)^[n] th).pending.get j = if j = id ∧ 0 < n then false else th.pending.get j := by
  induction n with
  | zero => simp
  | succ n ih =>
    rw [Function.iterate_succ_apply']
    by_cases hj : j = id <;> simp [Thread.unpend, Tab.get_set, ih, hj]

theorem Thread.fences_only (n : Nat) (th : Thread) : Thread.fenced^[n] th = { th with fences := th.fences + n } := by
  induction n with
  | zero => rfl
  | succ n ih => rw [Function.iterate_succ_apply', ih]; rfl

theorem Thread.met_only (id n : Nat) (th : Thread) : th.met id n = { th with pending := (th.met id n).pending, fences := th.fences + n } := by
  unfold Thread.met
  rw [Thread.fences_only, Thread.unpends_only]

theorem Thread.met_pending (id n j : Nat) (th : Thread) : (th.met id n).pending.get j = if j = id ∧ 0 < n then false else th.pending.get j := by
  unfold Thread.met
  rw [Thread.fences_only]
  exact Thread.unpends_pending id n j th

/-! ## A barrier settles (R205, R210) -/

/-- Replace the record of a group barrier of a gang. -/
def State.setBarrier (s : State) (g key : Nat) (x : Barrier) : State := s.modGang g fun y => { y with barriers := y.barriers.set key x }

theorem setBarrier_same (s : State) (g key : Nat) (x : Barrier) : ((s.setBarrier g key x).gangs.get g).barriers.get key = x := by
  simp [State.setBarrier, State.modGang, Tab.mod]

theorem setBarrier_otherKey (s : State) (g : Nat) {key y : Nat} (x : Barrier) (h : y ≠ key) :
    ((s.setBarrier g key x).gangs.get g).barriers.get y = (s.gangs.get g).barriers.get y := by
  simp [State.setBarrier, State.modGang, Tab.mod, Tab.get_set, h]

theorem setBarrier_otherGang (s : State) {g j : Nat} (key : Nat) (x : Barrier) (h : j ≠ g) : (s.setBarrier g key x).gangs.get j = s.gangs.get j := by
  simp [State.setBarrier, State.modGang, Tab.mod, Tab.get_set, h]

theorem settleBarrier_open {s : State} {g key : Nat} (h : ((s.gangs.get g).barriers.get key).complete s = false) : s.settleBarrier g key = s :=
  if_neg (by rw [h]; exact Bool.false_ne_true)

section
variable {s : State} {g key : Nat} (h : ((s.gangs.get g).barriers.get key).complete s = true)
include h

/-- A complete barrier closes, and every thread meets it as often as it has arrived. -/
theorem settleBarrier_closes : MemThreadsOnly (s.setBarrier g key default) (s.settleBarrier g key) ∧
    (∀ v, (s.settleBarrier g key).thr v = (s.thr v).met (key % 64) (((s.gangs.get g).barriers.get key).arrived.count v)) ∧
    (key % 64 / 8 ≠ 4 → (s.settleBarrier g key).mem = s.mem) := by
  unfold State.settleBarrier
  extract_lets b id s1 s2
  rw [if_pos h]
  have hun (s : State) (t : Nat) : MemOnly (s.modThr t (Thread.unpend id)) (s.modThr t fun th => { th with pending := th.pending.set id false }) := rfl
  have hfence (s : State) (t : Nat) : MemOnly (s.modThr t Thread.fenced) (if id / 8 = 4 then s.acquire t else s.modThr t Thread.fenced) := by
    split
    · exact (domainAcquire_step ..).1
    · exact .refl _
  refine ⟨(foldl_memThreads hun _ s1).trans (foldl_memThreads hfence _ s2), fun v => ?_, fun hk => ?_⟩
  · rw [foldl_thr hfence, foldl_thr hun]; rfl
  · have hmem (s : State) (f : Thread → Thread) (l : List Nat) : (l.foldl (fun s t => s.modThr t f) s).mem = s.mem :=
      foldl_rel (fun s t : State => t.mem = s.mem) (fun _ => rfl) (fun _ _ _ h k => k.trans h) (fun s t => s.modThr t f) (fun _ _ => rfl) l s
    simp only [if_neg (show ¬ id / 8 = 4 from hk)]
    exact (hmem s2 _ _).trans (hmem s1 _ _)

end

/-- Settling a barrier changes neither whose step it is nor a stage. -/
theorem settleBarrier_stage (s : State) (g key : Nat) :
    (s.settleBarrier g key).cur = s.cur ∧ ∀ v, ((s.settleBarrier g key).thr v).synStage = (s.thr v).synStage := by
  cases h : ((s.gangs.get g).barriers.get key).complete s with
  | false => rw [settleBarrier_open h]; exact ⟨rfl, fun _ => rfl⟩
  | true =>
    obtain ⟨hmem, hmet, -⟩ := settleBarrier_closes h
    obtain ⟨hcur, -⟩ := hmem.keeps
    exact ⟨hcur, fun v => by rw [hmet, Thread.met_only]⟩

/-! ## The arrival (R208, R210) -/

/-- The number of the PENDING bit of barrier (k, b). -/
def barId (b k : BitVec 3) : Nat := 8 * k.toNat + b.toNat

theorem barKey_id (s : State) (b k : BitVec 3) : s.barKey s.me k.toNat b.toNat % 64 = barId b k := by
  unfold State.barKey barId
  split <;> omega

theorem barId_level (b k : BitVec 3) : barId b k / 8 = k.toNat := by unfold barId; omega

/-- The record of the current thread's barrier (k, b). -/
def State.ownBarrier (s : State) (b k : BitVec 3) : Barrier := (s.gangs.get s.me.gang).barriers.get (s.barKey s.me k.toNat b.toNat)

/-- That record with another in its place. -/
def State.withBarrier (s : State) (b k : BitVec 3) (x : Barrier) : State := s.setBarrier s.me.gang (s.barKey s.me k.toNat b.toNat) x

/-- The record once the current thread has joined the barrier with the mask `named`. -/
def State.barrierJoined (s : State) (b k : BitVec 3) (named : List Nat) : Barrier :=
  { opened := true, mask := named, arrived := (s.ownBarrier b k).arrived ++ [s.cur] }

/-- The current thread has joined barrier (k, b). -/
def State.barJoin (s : State) (b k : BitVec 3) (named : List Nat) : State :=
  (s.withBarrier b k (s.barrierJoined b k named)).modMe fun th => { th with pending := th.pending.set (barId b k) true }

/-- What an arrival that may proceed comes to: the thread joins, and the barrier closes if it is complete. -/
theorem barArrive_ok {s s1 : State} {b k : BitVec 3} {a : BitVec 6} {named : List Nat} (hl : s.levelOk s.me k.toNat = true)
    (hm : maskSet (s.group s.me k.toNat) (s.ys a) s.cur = some named) (hp : s.me.pending.get (8 * k.toNat + b.toNat) = false)
    (hb : s.me.allBefore .syn = true) (hr : synRelease s (k == 4) = .ok s1) (hx : (s.ownBarrier b k).opened = true → (s.ownBarrier b k).mask = named) :
    barArrive b k a s = .ok ((s1.barJoin b k named).settleBarrier s.me.gang (s.barKey s.me k.toNat b.toNat)) := by
  have hs : s1 = _ := (synRelease_step hr).1
  have hown : s1.ownBarrier b k = s.ownBarrier b k := by rw [hs]; rfl
  have hkey : s1.barKey s1.me k.toNat b.toNat = s.barKey s.me k.toNat b.toNat := by rw [hs]; rfl
  have hme : s1.me = s.me := by rw [hs]; rfl
  unfold barArrive
  extract_lets th m
  rw [if_neg (by simp [th, hl]), hm]
  dsimp only
  rw [if_neg (by simp [th, hp]), bind_of_ok (synAfter_ok hb), bind_of_ok hr]
  rw [show th = s1.me from hme.symm, ← hkey, ← hme]
  rw [← hown] at hx
  exact if_neg fun ⟨ho, hne⟩ => hne (hx ho)

/-- What an arrival changes of threads and gangs before its barrier settles. -/
structure BarJoined (s s1 : State) (b k : BitVec 3) (named : List Nat) (j : State) : Prop where
  cur : j.cur = s.cur
  mem : j.mem = s1.mem
  spad : j.spad = s.spad
  gangs : j.gangs = (s.withBarrier b k (s.barrierJoined b k named)).gangs
  same : j.thr s.cur = { s.me with pending := s.me.pending.set (barId b k) true }
  others : ∀ v, v ≠ s.cur → j.thr v = s.thr v

theorem barJoin_barJoined {s s1 : State} (b k : BitVec 3) (named : List Nat) (h : MemOnly s s1) : BarJoined s s1 b k named (s1.barJoin b k named) := by
  rw [h]
  exact ⟨rfl, rfl, rfl, rfl, State.me_modMe .., fun v hv => State.thr_modMe_other _ _ _ hv⟩

section
variable {s s1 j : State} {b k : BitVec 3} {named : List Nat} (h : BarJoined s s1 b k named j)
include h

/-- The barrier stands as the arrival left it. -/
theorem BarJoined.barrier : (j.gangs.get s.me.gang).barriers.get (s.barKey s.me k.toNat b.toNat) = s.barrierJoined b k named := by
  rw [h.gangs]; exact setBarrier_same ..

/-- An arrival leaves of every thread what does not read its PENDING bit. -/
theorem BarJoined.keeps {α : Type} {g : Thread → α} (hg : g { s.me with pending := s.me.pending.set (barId b k) true } = g s.me) : ThreadsKeep g s j := by
  refine ⟨fun v => ?_⟩
  by_cases hv : v = s.cur
  · rw [hv, h.same]; exact hg
  · rw [h.others v hv]

/-- A barrier is complete when every member that its mask names has arrived or ended. -/
theorem BarJoined.complete_iff : (s.barrierJoined b k named).complete j = true ↔
    ∀ t ∈ named, t ∈ (s.barrierJoined b k named).arrived ∨ (s.thr t).st = .ended := by
  have hst (v : Nat) : (j.thr v).st = (s.thr v).st := (h.keeps (g := Thread.st) rfl).keep v
  simp [Barrier.complete, State.barrierJoined, hst]

end

/-! ## The two ends of an arrival (R210, R212) -/

section
variable (s s1 : State) (b k : BitVec 3)

/-- What an arrival at barrier (k, b) leaves of gangs, PENDING bits, memory and scratchpad. -/
def BarFrame (u : State) : Prop :=
  (∀ g, g ≠ s.me.gang → u.gangs.get g = s.gangs.get g) ∧
  (∀ y, y ≠ s.barKey s.me k.toNat b.toNat → (u.gangs.get s.me.gang).barriers.get y = (s.gangs.get s.me.gang).barriers.get y) ∧
  (∀ v i, i ≠ barId b k → (u.thr v).pending.get i = (s.thr v).pending.get i) ∧ (k ≠ 4 → u.mem = s1.mem) ∧ u.spad = s.spad

/-- An arrival that is not the last leaves the barrier open and its thread pending, at the stage given. -/
def BarOpens (named : List Nat) (stage : Nat) (u : State) : Prop :=
  BarFrame s s1 b k u ∧ (∀ v, v ≠ s.cur → u.thr v = s.thr v) ∧
  (u.gangs.get s.me.gang).barriers.get (s.barKey s.me k.toNat b.toNat) = s.barrierJoined b k named ∧
  u.me = { s.me with pending := s.me.pending.set (barId b k) true, synStage := stage }

/-- The last arrival closes the barrier; no arrived thread is pending, and each has a fence at its word. -/
def BarCloses (here : List Nat) (stage : Nat) (u : State) : Prop :=
  BarFrame s s1 b k u ∧ (u.gangs.get s.me.gang).barriers.get (s.barKey s.me k.toNat b.toNat) = default ∧ u.me.synStage = stage ∧
  (∀ v ∈ here, (u.thr v).pending.get (barId b k) = false) ∧ (∀ v, v ∉ here → u.thr v = s.thr v) ∧ (∀ v ∈ here, (s.thr v).fences < (u.thr v).fences) ∧
  (∀ v, v ≠ s.cur → u.thr v = { s.thr v with pending := (u.thr v).pending, fences := (u.thr v).fences }) ∧
  u.me = { s.me with pending := u.me.pending, fences := u.me.fences, synStage := stage }

end

/-- A change of the current thread's stage leaves everything else of every thread. -/
theorem thr_of_staged {s u : State} {stage : Nat} (h : s.becomes u { s.me with synStage := stage }) (v : Nat) :
    u.thr v = { s.thr v with synStage := (u.thr v).synStage } := by
  obtain ⟨-, hme, hother⟩ := h
  by_cases hv : v = s.cur
  · rw [hv, hme]; rfl
  · rw [hother v hv]

section
variable {s s1 j u : State} {b k : BitVec 3} {named : List Nat} {stage : Nat} (h : BarJoined s s1 b k named j)
include h

theorem BarJoined.pending_other {i : Nat} (hi : i ≠ barId b k) (v : Nat) : (j.thr v).pending.get i = (s.thr v).pending.get i :=
  (h.keeps (g := fun th => th.pending.get i) (Tab.get_set_other _ _ _ _ hi)).keep v

theorem BarJoined.opens (hu : j.becomes u { j.me with synStage := stage }) : BarOpens s s1 b k named stage u := by
  have hthr := thr_of_staged hu
  have hme := hu.me
  obtain ⟨hrest, -, hother⟩ := hu
  have hg : u.gangs = (s.withBarrier b k (s.barrierJoined b k named)).gangs := by rw [hrest, ← h.gangs]
  refine ⟨⟨fun g hg' => ?_, fun y hy => ?_, fun v i hi => ?_, fun _ => ?_, ?_⟩, fun v hv => ?_, ?_, ?_⟩
  · rw [hg]; exact setBarrier_otherGang _ _ _ hg'
  · rw [hg]; exact setBarrier_otherKey _ _ _ hy
  · rw [hthr]; exact h.pending_other hi v
  · rw [hrest, ← h.mem]
  · rw [hrest, ← h.spad]
  · rw [hother v (by rwa [h.cur]), h.others v hv]
  · rw [hg]; exact setBarrier_same ..
  · rw [hme, State.me, h.cur, h.same]

theorem BarJoined.closes {here : List Nat} (hhere : (s.barrierJoined b k named).arrived = here) (hc : (s.barrierJoined b k named).complete j = true)
    (hu : (j.settleBarrier s.me.gang (s.barKey s.me k.toNat b.toNat)).becomes u
      { (j.settleBarrier s.me.gang (s.barKey s.me k.toNat b.toNat)).me with synStage := stage }) : BarCloses s s1 b k here stage u := by
  subst hhere
  have hthr := thr_of_staged hu
  have hme := hu.me
  obtain ⟨hrest, -, hother⟩ := hu
  have hsettle := settleBarrier_closes (s := j) (g := s.me.gang) (key := s.barKey s.me k.toNat b.toNat) (by rwa [h.barrier])
  rw [h.barrier, barKey_id, barId_level] at hsettle
  generalize j.settleBarrier s.me.gang (s.barKey s.me k.toNat b.toNat) = t at *
  obtain ⟨hmem, hmet, hlevel⟩ := hsettle
  obtain ⟨hcur, hgangs, hspad⟩ := hmem.keeps
  have hg : u.gangs = (j.setBarrier s.me.gang (s.barKey s.me k.toNat b.toNat) default).gangs := by rw [hrest]; exact hgangs
  have hmine : s.cur ∈ (s.barrierJoined b k named).arrived := List.mem_append_right _ (List.mem_singleton.2 rfl)
  have hcur' : t.cur = s.cur := hcur.trans h.cur
  have hout {v : Nat} (hv : v ≠ s.cur) : u.thr v = (s.thr v).met (barId b k) ((s.barrierJoined b k named).arrived.count v) := by
    rw [hother v (by rwa [hcur']), hmet, h.others v hv]
  refine ⟨⟨fun g hg' => ?_, fun y hy => ?_, fun v i hi => ?_, fun hk => ?_, ?_⟩, ?_, ?_, fun v hv => ?_, fun v hv => ?_, fun v hv => ?_, fun v hv => ?_, ?_⟩
  · rw [hg, setBarrier_otherGang _ _ _ hg', h.gangs]; exact setBarrier_otherGang _ _ _ hg'
  · rw [hg, setBarrier_otherKey _ _ _ hy, h.gangs]; exact setBarrier_otherKey _ _ _ hy
  · rw [hthr, hmet, Thread.met_pending, if_neg (by simp [hi])]; exact h.pending_other hi v
  · rw [hrest, ← h.mem]; exact hlevel fun h4 => hk (BitVec.eq_of_toNat_eq h4)
  · rw [hrest, ← h.spad]; exact hspad
  · rw [hg]; exact setBarrier_same ..
  · rw [hme]
  · rw [hthr, hmet, Thread.met_pending, if_pos ⟨rfl, List.count_pos_iff.2 hv⟩]
  · rw [hout fun hv' => hv (by rw [hv']; exact hmine), List.count_eq_zero_of_not_mem hv]; rfl
  · rw [hthr, hmet, Thread.met_only, ← (h.keeps (g := Thread.fences) rfl).keep]; exact Nat.lt_add_of_pos_right (List.count_pos_iff.2 hv)
  · rw [hout hv, Thread.met_only]
  · rw [hme, State.me, hcur', hmet, Thread.met_only, h.same]

end

/-! ## The words (R209, R210) -/

section
variable {s : State} {b k : BitVec 3}

theorem barHeld_pending (h : s.me.pending.get (barId b k) = true) : barHeld b k s = .error (.hold .outside s) := if_pos h

theorem barHeld_clear (h : s.me.pending.get (barId b k) = false) : barHeld b k s = .ok (s.setStage 0) := if_neg (Bool.eq_false_iff.1 h)

/-- A bar that has not arrived arrives and waits. -/
theorem exec_bar_arrives {a : BitVec 6} {t : State} (hst : s.me.synStage ≠ 1) (ha : barArrive b k a s = .ok t) :
    exec (.bar b k a) s = finish .syn s (barHeld b k (t.setStage 1)) := by
  rw [exec_bar]
  unfold execBar
  rw [if_neg hst, bind_of_ok ha]

theorem exec_bar_waits {a : BitVec 6} (hst : s.me.synStage = 1) : exec (.bar b k a) s = finish .syn s (barHeld b k s) :=
  congrArg (finish .syn s) (if_pos hst)

theorem exec_barWt_waits (hl : s.levelOk s.me k.toNat = true) : exec (.barWt b k) s = finish .syn s (barHeld b k s) :=
  congrArg (finish .syn s) (if_neg (by rw [hl]; exact Bool.false_ne_true))

end

/-! ## The statement -/

/-- Settles O35: an arrival joins its barrier, and by whether that completes it, opens or closes it. -/
theorem groupBarriersGatherTheirMembers : Obligations.GroupBarriersGatherTheirMembers := by
  intro s s1 b k a named th id key x here arrives all others opens closes
  let joined := s1.barJoin b k named
  let settled := joined.settleBarrier th.gang key
  have hjoin (h : arrives) : BarJoined s s1 b k named joined := by
    obtain ⟨-, -, -, -, hr, -⟩ := h
    exact barJoin_barJoined b k named (synRelease_step hr).1
  have harrive (h : arrives) : barArrive b k a s = .ok settled := by
    obtain ⟨hl, hm, hp, hb, hr, hx⟩ := h
    exact barArrive_ok hl hm hp hb hr hx
  have hopen (h : arrives) (hn : ¬ all) : settled = joined :=
    settleBarrier_open (by rw [(hjoin h).barrier]; exact Bool.eq_false_iff.2 fun hc => hn ((hjoin h).complete_iff.1 hc))
  have hcur (h : arrives) : settled.cur = s.cur := (settleBarrier_stage ..).1.trans (hjoin h).cur
  have hstage (h : arrives) : settled.me.synStage = th.synStage := by
    rw [State.me, hcur h]; exact ((settleBarrier_stage ..).2 _).trans (((hjoin h).keeps (g := Thread.synStage) rfl).keep _)
  have hsame (h : arrives) : settled.becomes settled { settled.me with synStage := th.synStage } := by
    rw [← hstage h]; exact State.becomes_refl settled
  have hset (n : Nat) : settled.becomes (settled.setStage n) { settled.me with synStage := n } := State.becomes_modMe settled _
  have hopens {stage : Nat} {u : State} (h : arrives) (hn : ¬ all) (hu : settled.becomes u { settled.me with synStage := stage }) : opens stage u := by
    rw [hopen h hn] at hu
    exact (hjoin h).opens hu
  have hcloses {stage : Nat} {u : State} (h : arrives) (ha : all) (hu : settled.becomes u { settled.me with synStage := stage }) : closes stage u :=
    (hjoin h).closes rfl ((hjoin h).complete_iff.2 ha) hu
  refine ⟨fun h hn => ends_of_ok (exec_barArr b k a s) (harrive h) (hopens h hn (hsame h)),
    fun h ha => ends_of_ok (exec_barArr b k a s) (harrive h) (hcloses h ha (hsame h)), fun hst h hn => ⟨settled.setStage 1, hopens h hn (hset 1), ?_⟩,
    fun hst h ha => ends_of_ok (exec_bar_arrives hst (harrive h)) (barHeld_clear ?_) (hcloses h ha ((hset 1).mod _)),
    fun hst hp => waits_of_hold (exec_bar_waits hst) (barHeld_pending hp), fun hst hp => does_of_ok (exec_bar_waits hst) (barHeld_clear hp),
    fun hl hp => waits_of_hold (exec_barWt_waits hl) (barHeld_pending hp), fun hl hp => does_of_ok (exec_barWt_waits hl) (barHeld_clear hp)⟩
  · obtain ⟨-, -, -, hme⟩ := hopens h hn (hset 1)
    rw [exec_bar_arrives hst (harrive h), barHeld_pending (by rw [hme]; exact Tab.get_set_same ..)]
    rfl
  · obtain ⟨-, -, -, hclear, -⟩ := hcloses h ha (hset 1)
    rw [State.me, show (settled.setStage 1).cur = s.cur from hcur h]
    exact hclear s.cur (List.mem_append_right _ (List.mem_singleton.2 rfl))

end Sys2Proof.Machine
end

section
/-! SUPPORT. Counting barriers (R213, R215, R287): each word of cbar by its cases, and the statement O36 from them. -/

namespace Sys2Proof.Machine

/-- COUNT grows by the operand and saturates. -/
theorem Cbar.plus_count (x : Cbar) (n : BitVec 32) : (x.plus n).count.toNat = Nat.min (x.count.toNat + n.toNat) (2 ^ 32 - 1) :=
  (BitVec.toNat_ofNat ..).trans (Nat.mod_eq_of_lt (Nat.lt_of_le_of_lt (Nat.min_le_right ..) (by decide)))

section
variable {s : State} {n : BitVec 4} {x : Cbar} (hx : s.cbars.get (s.cbarKey n) = x)
include hx

/-- init arms a free barrier. -/
theorem cbarInit_arms {a : BitVec 6} (hf : x.armed = false) (hr : bits (s.ys a) 32 32 = 0) (ht : bits (s.ys a) 0 32 ≠ 0) : Does .syn (.cbarInit n a) s
    (s.setCbar (s.cbarKey n)
      { armed := true, owner := s.me.gang + 1, ocid := s.me.cid + 1, target := bits (s.ys a) 0 32,
        count := if x.ocid ≠ 0 ∧ x.ocid ≠ s.me.cid + 1 then 0 else x.count, waiters := [], halo := x.halo && (x.ocid == 0 || x.ocid == s.me.cid + 1) }) := by
  subst hx
  exact does_of_ok (exec_cbarInit n a s) ((if_neg (by rw [hf]; exact Bool.false_ne_true)).trans (if_neg (not_or.2 ⟨not_not.2 hr, ht⟩)))

variable (hown : x.armed = true ∧ x.owner = s.me.gang + 1)
include hown

/-- An armed barrier of the thread's own gang may be used (R213). -/
theorem cbarUse_own : cbarUse s n = .ok x := by
  obtain ⟨ha, ho⟩ := hown
  subst hx
  unfold cbarUse
  rw [if_neg (by simp [ha]), if_neg (not_not.2 ho)]

/-- add raises COUNT once its release is done. -/
theorem cbarAdd_adds {s1 : State} {a : BitVec 6} (hr : bits (s.ys a) 32 32 = 0) (hb : s.me.allBefore .syn = true) (hs : synRelease s false = .ok s1) :
    Does .syn (.cbarAdd n a) s (s1.setCbar (s.cbarKey n) (x.plus (bits (s.ys a) 0 32))) := by
  have hkey : s1.cbarKey n = s.cbarKey n := by
    obtain ⟨-, -, -, hme, -⟩ := (synRelease_step hs).1.keeps
    rw [State.cbarKey, State.cbarKey, hme]
  refine does_of_ok (exec_cbarAdd n a s) ?_
  rw [bind_of_ok (cbarUse_own hx hown), if_neg (not_not.2 hr), bind_of_ok (synAfter_ok hb), bind_of_ok hs, hkey]

/-- wait completes at TARGET and leaves the queue. -/
theorem cbarWait_reached (h : x.target.toNat ≤ x.count.toNat) :
    Does .syn (.cbarWait n) s ((s.setCbar (s.cbarKey n) { x with waiters := x.waiters.filter (· ≠ s.cur) }).cbarSeen x) := by
  refine does_of_ok (exec_cbarWait n s) ?_
  rw [bind_of_ok (cbarUse_own hx hown), if_neg (Nat.not_lt.2 h)]

/-- wait below TARGET is held in the queue. -/
theorem cbarWait_held (h : x.count.toNat < x.target.toNat) :
    exec (.cbarWait n) s = .next ((s.setCbar (s.cbarKey n) { x with waiters := cbarQueue s x }).holdWord .syn .outside) := by
  rw [exec_cbarWait, execCbarWait, bind_of_ok (cbarUse_own hx hown), if_pos h]
  rfl

/-- take at TARGET, first of the takes in the queue, subtracts TARGET. -/
theorem cbarTake_takes (h : x.target.toNat ≤ x.count.toNat)
    (hfirst : (cbarQueue s x).find? (fun u => u == s.cur || (s.thr u).atCbar n.toNat 3) = some s.cur) : Does .syn (.cbarTake n) s
    ((s.setCbar (s.cbarKey n) { x with count := x.count - x.target, waiters := x.waiters.filter (· ≠ s.cur), halo := x.halo && x.count != x.target }).cbarSeen
      x) := by
  refine does_of_ok (exec_cbarTake n s) ?_
  rw [bind_of_ok (cbarUse_own hx hown)]
  exact if_neg (not_or.2 ⟨Nat.not_lt.2 h, not_not.2 hfirst⟩)

/-- take below TARGET, or behind another take, is held in the queue. -/
theorem cbarTake_held (h : x.count.toNat < x.target.toNat ∨
      (cbarQueue s x).find? (fun u => u == s.cur || (s.thr u).atCbar n.toNat 3) ≠ some s.cur) :
    exec (.cbarTake n) s = .next ((s.setCbar (s.cbarKey n) { x with waiters := cbarQueue s x }).holdWord .syn .outside) := by
  rw [exec_cbarTake, execCbarTake, bind_of_ok (cbarUse_own hx hown)]
  exact congrArg (finish .syn s) (if_pos h)

/-- free frees a barrier at which no word waits. -/
theorem cbarFree_frees (h : (x.waiters.any fun u => (s.thr u).atCbar n.toNat 2 || (s.thr u).atCbar n.toNat 3) = false) :
    Does .syn (.cbarFree n) s (s.setCbar (s.cbarKey n) default) := by
  refine does_of_ok (exec_cbarFree n s) ?_
  rw [bind_of_ok (cbarUse_own hx hown), if_neg (Bool.eq_false_iff.1 h)]

end

/-! ## The statement -/

/-- Settles O36 from the lemmas on each word of cbar. -/
theorem countingBarriersCount : Obligations.CountingBarriersCount := by
  intro s s1 n a th key x v own q left first kept put held
  have hx : s.cbars.get (s.cbarKey n) = x := rfl
  exact ⟨cbarInit_arms hx, fun ho hr hb hs => (cbarAdd_adds hx ho hr hb hs).ends ⟨_, rfl, Cbar.plus_count ..⟩, cbarWait_reached hx, cbarWait_held hx,
    cbarTake_takes hx, cbarTake_held hx, cbarFree_frees hx⟩

end Sys2Proof.Machine
end

section
/-! SUPPORT. Ring regions and phases (R217 to R226): the steps that a ring completes, each word by its cases, and the statement O37 from them. -/

namespace Sys2Proof.Machine

/-! ## The steps that a ring completes (R217, R222) -/

theorem toInt_sub_one_nonneg {a : BitVec 32} (h : 0 < a.toInt) : 0 ≤ (a - 1).toInt := by
  rw [BitVec.toInt_eq_toNat_cond] at *
  have hsub : (a - 1).toNat = a.toNat - 1 := by bv_omega
  split at h <;> omega

/-- A ring once `c` further steps are complete. -/
def Ring.stepped (r : Ring) (c : BitVec 32) : Ring := { r with step := r.step + c }

theorem Ring.stepped_zero (r : Ring) : r.stepped 0 = r := by simp [Ring.stepped]

theorem Ring.stepped_stepped (r : Ring) (c d : BitVec 32) : (r.stepped c).stepped d = r.stepped (c + d) := by simp [Ring.stepped, BitVec.add_assoc]

/-- A step completes only while every member's count is above it, so no count is left below STEP. -/
theorem Ring.past_stepped_one {r : Ring} (h : r.stepDone = true) {m : Nat} (hm : m ∈ r.prod.members 0 ++ r.cons.members 8) :
    0 ≤ (r.stepped 1).past (r.counts.get m) := by
  have habove : 0 < (r.counts.get m - r.step).toInt := of_decide_eq_true (List.all_eq_true.1 h m hm)
  have hsub : r.counts.get m - (r.step + 1) = r.counts.get m - r.step - 1 := by bv_omega
  unfold Ring.past Ring.stepped
  rw [hsub]
  exact toInt_sub_one_nonneg habove

/-- A ring completes as many steps as the counts allow, and at most `n`. -/
theorem Ring.settle_steps (n : Nat) (r : Ring) : ∃ c, c ≤ n ∧ Ring.settle n r = r.stepped (BitVec.ofNat 32 c) ∧
    (∀ m ∈ r.prod.members 0 ++ r.cons.members 8, 0 ≤ (Ring.settle n r).past (r.counts.get m) ∨ c = 0) ∧ (c < n → (Ring.settle n r).stepDone = false) := by
  induction n generalizing r with
  | zero => exact ⟨0, Nat.le_refl 0, r.stepped_zero.symm, fun _ _ => .inr rfl, fun h => absurd h (Nat.lt_irrefl 0)⟩
  | succ n ih =>
    unfold Ring.settle
    cases hd : r.stepDone with
    | false => exact ⟨0, Nat.zero_le _, r.stepped_zero.symm, fun _ _ => .inr rfl, fun _ => hd⟩
    | true =>
      rw [if_pos rfl]
      obtain ⟨c, hc, heq, hpast, hdone⟩ := ih (r.stepped 1)
      refine ⟨c + 1, Nat.succ_le_succ hc, ?_, fun m hm => .inl ?_, fun h => hdone (Nat.lt_of_succ_lt_succ h)⟩
      · calc Ring.settle n (r.stepped 1) = (r.stepped 1).stepped (BitVec.ofNat 32 c) := heq
          _ = r.stepped (1 + BitVec.ofNat 32 c) := Ring.stepped_stepped ..
          _ = r.stepped (BitVec.ofNat 32 (c + 1)) := by rw [BitVec.add_comm, BitVec.ofNat_add]; rfl
      · obtain hp | rfl := hpast m hm
        · exact hp
        · exact (heq.trans (Ring.stepped_zero _)) ▸ Ring.past_stepped_one hd hm

/-! ## Arrivals that take effect (R221, R222) -/

/-- A ring with one more arrival of member `m`. -/
def Ring.counted (r : Ring) (m : Nat) : Ring := { r with counts := r.counts.set m (r.counts.get m + 1) }

section
variable {s : State} {i : Nat} {x : SbarArr} (hi : s.sbars[i]? = some x)
  (hfirst : ((s.sbars.take i).any fun y => y.ring == x.ring && y.member == x.member) = false) (hr : x.ready s = true)
include hi hfirst hr

/-- An arrival that may take effect counts, once the stores that it releases are performed. -/
theorem sbarEffect_counts : s.sbarEffect i = { s.drainThread x.thread with
    sbars := s.sbars.eraseIdx i, rings := s.rings.mod x.ring fun r => Ring.settle 16 (r.counted x.member) } := by
  have hs : s.drainThread x.thread = _ := (drainThread_step s x.thread).1
  unfold State.sbarEffect
  rw [hi]
  dsimp only
  rw [if_neg (by simp [hfirst, hr]), hs]
  rfl

/-- An arrival's effect on its ring, and what it leaves. -/
theorem sbarArrivalEffect_advances : ∃ u, exec (.sbarArrivalEffect i) s = .next u ∧ u.sbars = s.sbars.eraseIdx i ∧ u.mem = (s.drainThread x.thread).mem ∧
    u.spad = s.spad ∧ u.threads = s.threads ∧ (∀ k, k ≠ x.ring → u.rings.get k = s.rings.get k) ∧
    ∃ c, c ≤ 16 ∧ u.rings.get x.ring = ((s.rings.get x.ring).counted x.member).stepped (BitVec.ofNat 32 c) ∧
      (∀ m ∈ (s.rings.get x.ring).prod.members 0 ++ (s.rings.get x.ring).cons.members 8,
        0 ≤ (u.rings.get x.ring).past ((u.rings.get x.ring).counts.get m) ∨ c = 0) ∧ (c < 16 → (u.rings.get x.ring).stepDone = false) := by
  obtain ⟨hthreads, -, hspad, -⟩ := (drainThread_step s x.thread).1.keeps
  obtain ⟨c, hc, heq, hpast, hdone⟩ := Ring.settle_steps 16 ((s.rings.get x.ring).counted x.member)
  refine ⟨_, congrArg Host.Outcome.next (sbarEffect_counts hi hfirst hr), rfl, rfl, hspad, hthreads, fun k hk => Tab.get_set_other _ _ _ _ hk, c, hc, ?_⟩
  dsimp only [Tab.mod]
  rw [Tab.get_set_same]
  refine ⟨heq, ?_, hdone⟩
  rw [heq] at hpast ⊢
  exact hpast

end

/-! ## The words of rings (R218 to R221) -/

section
variable {s : State} {n : BitVec 3}

/-- An sbar by a member of a party counts as made, or waits while the member is ahead by all stages. -/
theorem synSbar_member {i : Instr} {cons : Bool} (hi : exec i s = synSbar cons n s) {r : Ring} {p : RingParty} {m : Nat}
    (hr : s.rings.get (ringKey s.me.cluster n.toNat) = r) (hp : (if cons then r.cons else r.prod) = p)
    (hown : r.active = true ∧ r.owner = s.me.gang + 1) (hm : p.memberThread r s.cur s.me.ix1 (if cons then 8 else 0) = some m) :
    ((r.past (r.counts.get m) < r.stages → Does .syn i s { s with sbars := s.sbars ++
      [{ ring := ringKey s.me.cluster n.toNat, member := m, thread := s.cur, ord := s.me.ordOf .syn,
         engines := if p.kind then allEngines else allEngines.filter fun e => flag p.mask (engCode e) }] }) ∧
      ((r.stages : Int) ≤ r.past (r.counts.get m) → Waits .syn i s .outside)) := by
  subst hr hp
  obtain ⟨ha, ho⟩ := hown
  unfold synSbar at hi
  extract_lets th key r p at hi
  rw [if_neg (by simp [r, key, th, ha]), if_neg (not_not.2 ho), hm] at hi
  exact ⟨fun h => does_of_ok hi (if_neg (Int.not_le.2 h)), fun h => waits_of_hold hi (if_pos h)⟩

/-- A slot that is not active is activated, its stages lying in the scratchpad and its parties being valid and apart. -/
theorem ring_activates {a b : BitVec 6} {r : Ring} (hr : s.rings.get (ringKey s.me.cluster n.toNat) = r) (hact : r.active = false)
    (hf : flag (s.ys a) 23 = false ∧ flag (s.ys a) 47 = false ∧ bits (s.ys a) 52 12 = 0 ∧ field (s.ys a) 0 23 % 128 = 0 ∧ field (s.ys a) 24 23 % 128 = 0 ∧
      field (s.ys a) 24 23 ≠ 0 ∧ field (s.ys a) 0 23 + (field (s.ys a) 48 4 + 1) * field (s.ys a) 24 23 ≤ 2 ^ 23 ∧ bits (s.ys b) 32 32 = 0 ∧
      bits (s.ys b) 8 7 = 0 ∧ bits (s.ys b) 24 7 = 0)
    (hp : s.partyBad (partyOf (bits (s.ys b) 0 16)) = false)
    (hq : s.partyBad (partyOf (bits (s.ys b) 16 16)) = false)
    (hpq : s.partiesMeet (partyOf (bits (s.ys b) 0 16)) (partyOf (bits (s.ys b) 16 16)) = false) :
    Does .syn (.ring n a b) s { s with rings := s.rings.set (ringKey s.me.cluster n.toNat) {
        active := true, owner := s.me.gang + 1, thread := s.cur, base := field (s.ys a) 0 23, ssz := field (s.ys a) 24 23, stages := field (s.ys a) 48 4 + 1,
        prod := partyOf (bits (s.ys b) 0 16), cons := partyOf (bits (s.ys b) 16 16), step := 0, counts := [] } } := by
  subst hr
  obtain ⟨h23, h47, h52, hbase, hssz, hpos, hend, hv⟩ := hf
  refine does_of_ok (exec_ring n a b s) ?_
  dsimp only
  rw [if_neg (Bool.eq_false_iff.1 hact), if_neg (by rw [h23, h47]; simpa [h52, hbase, hssz, hpos] using hend), if_neg (by simp [hv]), if_neg (by simp [hp, hq, hpq])]

/-- ring.rel unsets the slot, and its arrivals that have not taken effect go. -/
theorem ringRel_unsets {r : Ring} (hr : s.rings.get (ringKey s.me.cluster n.toNat) = r) (hown : r.active = true ∧ r.owner = s.me.gang + 1) :
    Does .syn (.ringRel n) s { s with
      rings := s.rings.set (ringKey s.me.cluster n.toNat) default
      sbars := s.sbars.filter fun y => y.ring ≠ ringKey s.me.cluster n.toNat } := by
  subst hr
  obtain ⟨ha, ho⟩ := hown
  exact does_of_ok (exec_ringRel n s) ((if_neg (by simp [ha])).trans (if_neg (not_not.2 ho)))

end

/-! ## Phases (R224 to R226) -/

section
variable {s : State} (hb : s.me.allBefore .syn = true)
include hb

/-- phase.new empties every set and begins the next phase. -/
theorem phaseNew_begins : Does .syn .phaseNew s (s.modMe fun th => { th with phases := [], phase := th.phase + 1 }) :=
  does_of_ok (exec_phaseNew s) (bind_of_ok (synAfter_ok hb) _)

/-- A declaration in form sets its range, or traps at the lowest byte that it shares with a declared one. -/
theorem synPhase_declares {i : Instr} {write : Bool} {r : BitVec 2} {e : BitVec 3} {a b : BitVec 6} (hi : exec i s = synPhase write r e a b s) {x : Range}
    (hx : (if (s.ys b).toNat = 0 then ⟨0, 0⟩ else ⟨(s.ys a).toNat, (s.ys b).toNat⟩) = x) (ha : (s.ys a).toNat % 16 = 0) (hl : (s.ys b).toNat % 16 = 0)
    (hend : (s.ys a).toNat + (s.ys b).toNat ≤ 2 ^ 23) :
    (s.phaseClash s.cur e.toNat x write = none →
      Does .syn i s (s.modMe fun th => { th with phases := th.phases.set (8 * e.toNat + (if write then 4 else 0) + r.toNat) x })) ∧
    ∀ c, s.phaseClash s.cur e.toNat x write = some c → ∃ t : TrapInfo, t.code = .phaseOverlap ∧ t.addr = BitVec.ofNat 64 c ∧ Traps .syn i s t := by
  subst hx
  unfold synPhase at hi
  rw [bind_of_ok (synAfter_ok hb)] at hi
  dsimp only at hi
  rw [if_neg (by simp [ha, hl]), if_neg (Nat.not_lt.2 hend)] at hi
  constructor
  · intro h
    rw [h] at hi
    exact does_of_ok hi rfl
  · intro c h
    rw [h] at hi
    exact ⟨_, rfl, rfl, traps_of_trap hi rfl⟩

end

/-! ## The statement -/

/-- Settles O37 from the lemmas on each word and on the arrivals. -/
theorem ringsAdvanceAndPhasesAreDeclared : Obligations.RingsAdvanceAndPhasesAreDeclared := by
  intro s n a b r e i x th key rg g v own fits p q sbar R set_ range phase
  have hr : s.rings.get (ringKey s.me.cluster n.toNat) = rg := rfl
  have made {w : Instr} {cons : Bool} {party : RingParty} {base : Nat} (hi : exec w s = synSbar cons n s) (hp : (if cons then rg.cons else rg.prod) = party)
      (hbase : (if cons then 8 else 0) = base) : sbar w party base := fun m ho hm => synSbar_member hi hr hp ho (by rw [hbase]; exact hm)
  have declared {w : Instr} {write : Bool} {at_ : Nat} (hi : exec w s = synPhase write r e a b s)
      (hat : 8 * e.toNat + (if write then 4 else 0) + r.toNat = at_) : phase w write at_ := by
    subst hat
    exact fun hb ha hl hend => synPhase_declares hb hi rfl ha hl hend
  exact ⟨ring_activates hr, ringRel_unsets hr, made (exec_sbarP n s) rfl rfl, made (exec_sbarC n s) rfl rfl, fun hi hf hx => sbarArrivalEffect_advances hi hf hx, phaseNew_begins,
    declared (exec_phaseRd r e a b s) rfl, declared (exec_phaseWr r e a b s) rfl⟩

end Sys2Proof.Machine
end

section
/-! SUPPORT. Removals sent and acknowledged (R245, R246, R410, R418): what sending a packet changes, what a shoot-down sends, what its acknowledgement leaves, and
the statement O40 from them. -/

namespace Sys2Proof.Machine

/-! ## Sending packets (R410, R414) -/

/-- `t` is `s` but for the packets, their numbers, the routers and the ports. -/
def FabricOnly (s t : State) : Prop :=
  t = { s with pairs := t.pairs, packets := t.packets, routers := t.routers, ports := t.ports, dports := t.dports }

theorem FabricOnly.refl (s : State) : FabricOnly s s := rfl

theorem FabricOnly.trans {s t u : State} (h : FabricOnly s t) (k : FabricOnly t u) : FabricOnly s u := by
  unfold FabricOnly at *; rw [k, h]

/-- But for the removal outstanding, and what the fabric carries, nothing has changed. -/
theorem FabricOnly.undone {s t : State} {l : List Shoot} (h : FabricOnly { s with shoots := l } t) :
    { t with shoots := s.shoots, pairs := s.pairs, packets := s.packets, routers := s.routers, ports := s.ports, dports := s.dports } = s := by
  rw [h]

theorem setAnyPort_fabric (s : State) (d p : Nat) (f : LinkPort → LinkPort) :
    FabricOnly s (s.setAnyPort d p f) ∧ (s.setAnyPort d p f).packets = s.packets := by
  unfold State.setAnyPort
  split
  · exact ⟨rfl, rfl⟩
  · split <;> exact ⟨rfl, rfl⟩

/-- The routers send on what they can; every packet is still on its way. -/
theorem forward_fabric (s : State) : FabricOnly s s.forward ∧ s.forward.packets = s.packets := by
  refine foldl_rel (fun s t => FabricOnly s t ∧ t.packets = s.packets) (fun s => ⟨.refl s, rfl⟩) (fun s t u h k => ⟨h.1.trans k.1, k.2.trans h.2⟩) _
    (fun s e => ?_) s.routers { s with routers := [] }
  split
  · split
    · exact setAnyPort_fabric ..
    · exact ⟨rfl, rfl⟩
  · exact ⟨rfl, rfl⟩

theorem sendPacket_fabric (s : State) (src dst : Nat) (use : PacketUse) : FabricOnly s (s.sendPacket src dst use) :=
  FabricOnly.trans (by rfl) (forward_fabric _).1

theorem sendPacket_onWay (s : State) (src dst e : Nat) (use : PacketUse) :
    (s.sendPacket src dst use).onWay e use = (s.onWay e use || dst == e) := by
  unfold State.sendPacket State.onWay
  rw [(forward_fabric _).2]
  simp

/-- What goes out to a list of dies is on its way to each. -/
theorem foldl_sendPacket_onWay (src : State → Nat) (use : PacketUse) (e : Nat) (l : List Nat) : ∀ s : State,
    (l.foldl (fun s d => s.sendPacket (src s) d use) s).onWay e use = (s.onWay e use || l.contains e) := by
  induction l with
  | nil => exact fun s => (Bool.or_false _).symm
  | cons d l ih =>
    intro s
    rw [List.foldl_cons, ih, sendPacket_onWay, List.contains_cons, Bool.or_assoc, BEq.comm]

/-! ## A removal sent (R245) -/

section
variable {s : State} (h : s.presentDies ≠ []) (sel : TlbSel) (who : ShootBy)
include h

theorem shootDown_eq : s.shootDown sel who = (s.presentDies.filter fun d => d != who.die s).foldl (fun s d => s.sendPacket (who.die s) d (.shoot sel who))
    { s with shoots := s.shoots ++ [{ sel := sel, who := who, dies := s.presentDies }] } := if_neg (by simpa using h)

/-- A removal is outstanding at every die present, and only the fabric carries more. -/
theorem shootDown_fabric : FabricOnly { s with shoots := s.shoots ++ [{ sel := sel, who := who, dies := s.presentDies }] } (s.shootDown sel who) := by
  rw [shootDown_eq h]
  exact foldl_rel FabricOnly .refl (fun _ _ _ => .trans) _ (fun s d => sendPacket_fabric ..) _ _

theorem shootDown_onWay {e : Nat} (he : e ∈ s.presentDies) (hd : e ≠ who.die s) : (s.shootDown sel who).onWay e (.shoot sel who) = true := by
  rw [shootDown_eq h, foldl_sendPacket_onWay fun s => who.die s]
  exact Bool.or_eq_true_iff.2 (.inr (List.contains_iff_mem.2 (List.mem_filter.2 ⟨he, bne_iff_ne.2 hd⟩)))

theorem shootDown_shooting : (s.shootDown sel who).shooting who = true := by
  rw [shootDown_fabric h sel who]
  simp [State.shooting]

end

/-! ## tlbi (R245) -/

section
variable {i : Instr} {ok : Bool} {sel : TlbSel} {s : State} (hi : exec i s = synTlbi ok sel s)
include hi

theorem tlbi_privilege (hp : (s.ctxs.get s.me.cid).sys = false) : ∃ t : TrapInfo, t.code = .privilege ∧ Traps .syn i s t :=
  ⟨_, rfl, traps_of_trap hi (by rw [needPriv, if_neg (by simp [hp])]; rfl)⟩

variable (hp : (s.ctxs.get s.me.cid).sys = true)
include hp

theorem exec_tlbi_sends (hst : s.me.synStage ≠ 1) (hok : ok = true) (h : s.presentDies ≠ []) :
    exec i s = .next (((s.shootDown sel (.thread s.cur)).setStage 1).holdWord .syn .outside) := by
  have hcur : (s.shootDown sel (.thread s.cur)).cur = s.cur := by rw [shootDown_fabric h]
  rw [hi, synTlbi, bind_of_ok (needPriv_ok hp), if_neg hst, if_neg (by simp [hok])]
  dsimp only
  rw [hcur, if_pos (shootDown_shooting h ..)]
  rfl

theorem tlbi_waits (hst : s.me.synStage = 1) (h : s.shooting (.thread s.cur) = true) : Waits .syn i s .outside :=
  waits_of_hold hi (by rw [bind_of_ok (needPriv_ok hp), if_pos hst, if_pos h]; rfl)

theorem tlbi_does (hst : s.me.synStage = 1) (h : ¬ s.shooting (.thread s.cur) = true) : Does .syn i s ((s.setStage 0).acquire s.cur) :=
  does_of_ok hi (by rw [bind_of_ok (needPriv_ok hp), if_pos hst, if_neg h])

end

/-- The page size of a size code that names one (R232). -/
theorem codeSize_eq {c : Nat} (h : c < 3) : codeSize c = 2 ^ (if c = 0 then 16 else if c = 1 then 21 else 25) := by
  interval_cases c <;> rfl

/-! ## Acknowledgement (R246) -/

theorem physBack_step (s : State) (d pa n : Nat) : MemStep s (s.physBack d pa n) := MemStep.fold _ (fun _ _ => writeBack_step ..) _ s

/-- A removal that a die can acknowledge now. -/
def State.ackNow (s : State) (d : Nat) (x : Shoot) : Bool := x.dies.contains d && s.ackReady d x

theorem ackable_contains {s : State} {d : Nat} {x : Shoot} (hx : x ∈ s.shoots) : (s.ackable d).contains x = s.ackNow d x := by
  rw [Bool.eq_iff_iff, List.contains_iff_mem, State.ackable, List.mem_filter]
  exact and_iff_right hx

theorem any_ackable (s : State) (d : Nat) (f : Shoot → Bool) : (s.ackable d).any f = s.shoots.any fun x => s.ackNow d x && f x := List.any_filter

/-- A translation that the die holds and that a removal which it can acknowledge names. -/
def State.ackHit (s : State) (d : Nat) (e : TlbEnt) : Bool := e.die == d && s.shoots.any fun x => s.ackNow d x && x.sel.hits e

/-- What a die does to memory before it acknowledges: it performs its posted stores and writes back what its cache holds under the named entries. -/
def State.ackBack (s : State) (d : Nat) : State :=
  (s.tlb.filter (s.ackHit d)).foldl (fun t e => t.physBack d e.frame.1 e.frame.2) (s.drainPosted fun p => p.die == d)

theorem ackBack_step (s : State) (d : Nat) : MemStep s (s.ackBack d) :=
  (drainPosted_step ..).trans (MemStep.fold _ (fun _ _ => physBack_step ..) _ _)

/-- The removals outstanding once a die has acknowledged those that it can. -/
def State.ackShoots (s : State) (d : Nat) : List Shoot :=
  (s.shoots.map fun x => if s.ackNow d x then x.without d else x).filter fun x => !x.dies.isEmpty

theorem acknowledge_none {s : State} {d : Nat} (h : ∀ x ∈ s.shoots, s.ackNow d x = false) : s.acknowledge d = s :=
  if_pos (List.isEmpty_iff.2 (List.filter_eq_nil_iff.2 fun x hx => Bool.not_eq_true _ ▸ h x hx))

/-- With a removal that it can acknowledge, a die acts on memory, drops what is named and takes itself off what it acknowledges. -/
theorem acknowledge_some {s : State} {d : Nat} (h : ∃ x ∈ s.shoots, s.ackNow d x = true) : s.acknowledge d =
    { s.ackBack d with
      tlb := s.tlb.filter fun e => !s.ackHit d e
      ktm := s.ktm.filter fun e => !(e.die == d && s.shoots.any fun x => s.ackNow d x && x.sel.hitsKtm e)
      shoots := s.ackShoots d } := by
  have hne : ¬ (s.ackable d).isEmpty = true := by
    obtain ⟨x, hx, hr⟩ := h
    exact fun he => List.filter_eq_nil_iff.1 (List.isEmpty_iff.1 he) x hx hr
  have hdrain : (s.drainPosted fun p => p.die == d).tlb = s.tlb := by rw [(drainPosted_step ..).1]
  have hback : (s.ackBack d).tlb = s.tlb ∧ (s.ackBack d).ktm = s.ktm ∧ (s.ackBack d).shoots = s.shoots := by rw [(ackBack_step ..).1]; exact ⟨rfl, rfl, rfl⟩
  obtain ⟨htlb, hktm, hshoots⟩ := hback
  have hleft : (s.shoots.map fun x => if (s.ackable d).contains x then x.without d else x) =
      s.shoots.map fun x => if s.ackNow d x then x.without d else x := List.map_congr_left fun x hx => by rw [ackable_contains hx]
  rw [State.acknowledge, if_neg hne]
  simp only [any_ackable, hdrain]
  change { s.ackBack d with
    tlb := (s.ackBack d).tlb.filter fun e => !s.ackHit d e
    ktm := (s.ackBack d).ktm.filter fun e => !(e.die == d && s.shoots.any fun x => s.ackNow d x && x.sel.hitsKtm e)
    shoots := ((s.ackBack d).shoots.map fun x => if (s.ackable d).contains x then x.without d else x).filter fun x => !x.dies.isEmpty } = _
  rw [htlb, hktm, hshoots, hleft]
  rfl

theorem Shoot.without_eq (d : Nat) (x : Shoot) : x.without d = { x with dies := x.dies.filter (· ≠ d) } := by
  refine congrArg (Shoot.mk x.sel x.who) (List.filter_congr fun e _ => Bool.eq_iff_iff.2 ?_)
  rw [bne_iff_ne, decide_eq_true_iff]

/-- What is outstanding then: removals with dies left, those acknowledged without the die. -/
theorem mem_ackShoots {s : State} {d : Nat} {y : Shoot} :
    y ∈ s.ackShoots d ↔ (∃ x ∈ s.shoots, (if s.ackNow d x then x.without d else x) = y) ∧ y.dies ≠ [] := by
  rw [State.ackShoots, List.mem_filter, List.mem_map]
  simp

/-- The die is no longer awaited in what it has acknowledged. -/
theorem ackNow_without (s : State) (d : Nat) (x : Shoot) : s.ackNow d (x.without d) = false := by
  simp [State.ackNow, Shoot.without]

/-- A die that has acknowledged leaves nothing that it could acknowledge. -/
theorem ackNow_of_mem_ackShoots {s : State} {d : Nat} {y : Shoot} (h : y ∈ s.ackShoots d) :
    s.ackNow d y = false ∧ (y ∈ s.shoots ∨ ∃ x ∈ s.shoots, s.ackNow d x = true ∧ y = x.without d) := by
  obtain ⟨⟨x, hx, rfl⟩, -⟩ := mem_ackShoots.1 h
  split
  · next hr => exact ⟨ackNow_without s d x, .inr ⟨x, hx, hr, rfl⟩⟩
  · next hr => exact ⟨Bool.eq_false_iff.2 hr, .inl hx⟩

/-! ## The statement -/

/-- Settles O40: the four words are `synTlbi` with their checks and removals, and what a die can acknowledge is `ackNow`. -/
theorem shootDownsRemoveWhatTheyName : Obligations.ShootDownsRemoveWhatTheyName := by
  intro s a b d th v va code size sent sends f waiting word
  have tlbi {w : Instr} {ok : Bool} {sel' sel : TlbSel} {form : Prop} (hi : exec w s = synTlbi ok sel' s) (hform : form → ok = true ∧ sel' = sel) :
      word w form sel := by
    refine ⟨fun hp hst hf hd => ?_, tlbi_waits hi, tlbi_does hi, tlbi_privilege hi⟩
    obtain ⟨hok, rfl⟩ := hform hf
    have hfab := shootDown_fabric hd sel' (.thread s.cur)
    refine ⟨exec_tlbi_sends hi hp hst hok hd, congrArg State.shoots hfab, fun e he hne => shootDown_onWay hd _ _ he hne, hfab.undone⟩
  refine ⟨tlbi (exec_tlbiVa a b s) fun ⟨hlo, hhi, hcode, hal⟩ => ?va, tlbi (exec_tlbiTen a b s) fun ⟨ha, hb⟩ => ⟨by rw [ha, hb]; rfl, rfl⟩,
    tlbi (exec_tlbiCtx b s) fun hb => ⟨by rw [hb]; rfl, rfl⟩, tlbi (exec_tlbiAll s) fun _ => ⟨rfl, rfl⟩, ?ack⟩
  case va =>
    have hlt : code < 4 := Nat.mod_lt _ (by decide)
    have hsize : codeSize code = size := codeSize_eq (by omega)
    refine ⟨?_, by rw [hsize]⟩
    rw [hlo, hhi, hsize]
    simpa using And.intro hcode hal
  case ack =>
    intro ready after hit
    have hready : ready = s.ackNow d := by
      funext x
      simp only [ready, State.ackNow, State.ackReady, Bool.and_assoc]
    clear_value ready
    subst hready
    have hafter : after = Shoot.without d := funext fun x => (x.without_eq d).symm
    clear_value after
    subst hafter
    obtain ⟨hthreads, -, hspad, -⟩ := (ackBack_step s d).1.keeps
    exact ⟨fun h => congrArg Host.Outcome.next (acknowledge_none h), fun h =>
      ⟨_, congrArg Host.Outcome.next (acknowledge_some h), rfl, rfl, hspad, hthreads, rfl,
        fun x hx hr hne => mem_ackShoots.2 ⟨⟨x, hx, if_pos hr⟩, by rw [x.without_eq d]; exact hne⟩,
        fun x hx hr hne => mem_ackShoots.2 ⟨⟨x, hx, if_neg (Bool.eq_false_iff.1 hr)⟩, hne⟩, fun y hy => ackNow_of_mem_ackShoots hy⟩⟩

end Sys2Proof.Machine
end

section
/-! O41. A migration of a die whose table is not canonical (R242). -/

namespace Sys2Proof.Machine

/-- Die 8 is listed twice: its first entry holds only a migration command at 0x400, which asks for the first 64 KiB of context 1 to move to 0x200000 of die 0. The five
tables that map that page lie in die 0. -/
def twiceListedMover : State := { State.reset with
  dies := [(0, standingDie), (8, { (default : Die) with migQ := [0x400] }), (8, { (default : Die) with present := true })]
  ctxs := [(1, { (default : Ctx) with st := .active, ptroot := 0x2000 })]
  mem := [(0x400, 1), (0x2000, 0x4001), (0x4000, 0x8001), (0x8000, 0xC001), (0xC000, 0xD001), (0xD000, 0x100056), (0x410, 0x200000)].foldl
    (fun t (e : Nat × Nat) => Tab.setRange t e.1 (leBytes 8 e.2)) [] }

/-- The command has been taken from the queue. -/
def twiceListedTaken : State := twiceListedMover.setDie 8 fun x => { x with migQ := [] }

/-- The walk ends at the leaf of 64 KiB, mapped at frame 0x100000. -/
theorem twiceListedMover_walk : twiceListedTaken.walk (twiceListedMover.homeDword 0x408).toNat false walkLevels
    (twiceListedTaken.root (field (twiceListedMover.homeDword 0x400) 0 10)) = .ok (0x100056, 4) := by decide +kernel

theorem twiceListedMover_present : twiceListedMover.presentDies = [0, 8] := by decide

theorem twiceListedMover_shoots : (shootsOf (execMigrationStart 8 twiceListedMover)).map Shoot.dies = [[0]] := by decide +kernel

/-- Refutes O41 in the clause on a migration that starts, whose removal it sends to the dies present before: taking the command from the queue takes a die's record out of a
table that is not canonical, with the later entries of its key. `presentDies_setDie` has what holds of a canonical table. -/
theorem not_pagesMigrateAndHomesAreLost : ¬ Obligations.PagesMigrateAndHomesAreLost := by
  intro h
  obtain ⟨-, hstart, -⟩ := h twiceListedMover 8 0x400 0 [] 0x100056 4 default
  obtain ⟨u, hu, -, hshoots, -⟩ := hstart (by decide) (by decide) ⟨by decide, by decide +kernel, by decide +kernel, by decide +kernel, by decide +kernel,
    twiceListedMover_walk, by decide, by decide +kernel, by decide +kernel, by decide +kernel, by decide +kernel, by decide +kernel, by decide⟩
  have hdies : u.shoots.map Shoot.dies = [[0]] := by
    rw [← twiceListedMover_shoots, ← exec_migrationStart, hu]
    rfl
  rw [hshoots, twiceListedMover_present] at hdies
  exact absurd hdies (by decide)

end Sys2Proof.Machine
end

section
/-! SUPPORT. What write-backs and invalidations leave in the remote-data caches (R258, R259, R271, R286). -/

namespace Sys2Proof.Machine

/-- What every round of a fold leaves, the fold leaves. -/
theorem foldl_keep {α β : Type} (g : State → β) (f : State → α → State) (step : ∀ s a, g (f s a) = g s) (l : List α) (s : State) : g (l.foldl f s) = g s :=
  foldl_rel (fun s t => g t = g s) (fun _ => rfl) (fun _ _ _ h k => k.trans h) f step l s

/-! ## Lines only fade -/

/-- A cache line of `t` is gone where that of `s` is, and has no dirty byte where that of `s` has none. -/
structure Fades (s t : State) : Prop where
  gone : ∀ k, s.rdc.get k = default → t.rdc.get k = default
  clean : ∀ k m, (s.rdc.get k).dirty &&& m = 0 → (t.rdc.get k).dirty &&& m = 0

theorem Fades.of_rdc {s t : State} (h : t.rdc = s.rdc) : Fades s t := ⟨fun k hk => by rw [h, hk], fun k m hk => by rw [h, hk]⟩

theorem Fades.refl (s : State) : Fades s s := .of_rdc rfl

theorem Fades.trans {s t u : State} (h : Fades s t) (k : Fades t u) : Fades s u :=
  ⟨fun j hj => k.gone j (h.gone j hj), fun j m hj => k.clean j m (h.clean j m hj)⟩

theorem Fades.fold {α : Type} (f : State → α → State) (step : ∀ s a, Fades s (f s a)) (l : List α) (s : State) : Fades s (l.foldl f s) :=
  foldl_rel Fades .refl (fun _ _ _ => .trans) f step l s

/-- One line is rewritten, with no byte dirty that was not. -/
theorem Fades.set {s t : State} (k : Nat) (l : RdcLine) (h : t.rdc = s.rdc.set k l) (hgone : s.rdc.get k = default → l = default)
    (hclean : ∀ m, (s.rdc.get k).dirty &&& m = 0 → l.dirty &&& m = 0) : Fades s t := by
  have hget (j : Nat) : t.rdc.get j = if j = k then l else s.rdc.get j := by rw [h, Tab.get_set]
  constructor
  · intro j hj
    rw [hget]
    split
    case isTrue e => exact hgone (e ▸ hj)
    case isFalse => exact hj
  · intro j m hj
    rw [hget]
    split
    case isTrue e => exact hclean m (e ▸ hj)
    case isFalse => exact hj

/-- A line is taken out. -/
theorem Fades.drop {s t : State} (k : Nat) (h : t.rdc = s.rdc.set k default) : Fades s t :=
  .set k default h (fun _ => rfl) fun m _ => by simp [show (default : RdcLine).dirty = 0 from rfl]

/-- A write-back takes the selected dirty bits off its line; a line without them stays as it is. -/
theorem writeBack_rdc (s : State) (d line : Nat) (sel : BitVec 128) :
    (s.writeBack d line sel).rdc = if (s.rdc.get (rdcKey d line)).dirty &&& sel = 0 then s.rdc
      else s.rdc.set (rdcKey d line) ((s.rdc.get (rdcKey d line)).cleaned sel) := by
  unfold State.writeBack
  extract_lets l out
  split
  · rfl
  split
  · rfl
  · exact congrArg (Tab.set · (rdcKey d line) (l.cleaned sel)) (foldl_keep State.rdc _ (fun s i => by split <;> rfl) _ s)

theorem writeBack_clean (s : State) (d line : Nat) (sel : BitVec 128) : ((s.writeBack d line sel).rdc.get (rdcKey d line)).dirty &&& sel = 0 := by
  rw [writeBack_rdc]
  split
  case isTrue h => exact h
  case isFalse =>
    rw [Tab.get_set_same]
    simp [RdcLine.cleaned, BitVec.and_assoc]

theorem writeBack_fades (s : State) (d line : Nat) (sel : BitVec 128) : Fades s (s.writeBack d line sel) := by
  have h := writeBack_rdc s d line sel
  split at h
  case isTrue => exact .of_rdc h
  case isFalse hd =>
    refine .set _ _ h (fun e => absurd ?_ hd) fun m hm => ?_
    · rw [e]; simp [show (default : RdcLine).dirty = 0 from rfl]
    · change (s.rdc.get (rdcKey d line)).dirty &&& ~~~sel &&& m = 0
      rw [BitVec.and_assoc, BitVec.and_comm (~~~sel), ← BitVec.and_assoc, hm]
      exact BitVec.zero_and

/-- Take a line out, the dirty bytes outside a mask first written back, if it holds bytes of the mask. -/
def State.dropMasked (s : State) (d line : Nat) (m : BitVec 128) : State :=
  if m = 0 then s else { s.writeBack d line (~~~m) with rdc := (s.writeBack d line (~~~m)).rdc.set (rdcKey d line) default }

theorem dropMasked_fades (s : State) (d line : Nat) (m : BitVec 128) : Fades s (s.dropMasked d line m) := by
  unfold State.dropMasked
  split
  · exact .refl s
  · exact (writeBack_fades s d line (~~~m)).trans (.drop _ rfl)

theorem dropMasked_gone (s : State) (d line : Nat) {m : BitVec 128} (h : m ≠ 0) : (s.dropMasked d line m).rdc.get (rdcKey d line) = default := by
  rw [State.dropMasked, if_neg h]
  exact Tab.get_set_same ..

theorem cacheDrop_eq (s : State) (xs : List Extent) (key base top d : Nat) :
    s.cacheDrop xs key base top d = (s.rdcLines d).foldl (fun s line => s.dropMasked d line (lineMask xs key base top line)) s := rfl

theorem physDrop_eq (s : State) (d pa n : Nat) : s.physDrop d pa n = (s.rdcLines d).foldl (fun s line => s.dropMasked d line (physMask line pa n)) s := rfl

theorem cacheDrop_fades (s : State) (xs : List Extent) (key base top d : Nat) : Fades s (s.cacheDrop xs key base top d) := by
  rw [cacheDrop_eq]
  exact .fold _ (fun _ _ => dropMasked_fades ..) _ s

theorem physBack_fades (s : State) (d pa n : Nat) : Fades s (s.physBack d pa n) := .fold _ (fun _ _ => writeBack_fades ..) _ s

theorem physDrop_fades (s : State) (d pa n : Nat) : Fades s (s.physDrop d pa n) := by
  rw [physDrop_eq]
  exact .fold _ (fun _ _ => dropMasked_fades ..) _ s

theorem domainAcquire_fades (s : State) (die cid : Nat) : Fades s (s.domainAcquire die cid) := by
  refine .fold _ (fun s line => ?_) _ s
  dsimp only
  split
  · exact .refl s
  · refine .set _ _ rfl (fun e => ?_) fun m hm => ?_
    · rw [e]; rfl
    · split
      · simp [show (default : RdcLine).dirty = 0 from rfl]
      · exact hm

theorem acquire_fades (s : State) (t : Nat) : Fades s (s.acquire t) :=
  (Fades.of_rdc (by rfl)).trans (domainAcquire_fades (s.modThr t Thread.fenced) ..)

/-! ## Rounds over lines, dies and ranges -/

/-- What the round of one element brings about, and every round keeps, holds after all. -/
theorem foldl_of_mem {α : Type} {P : State → Prop} {f : State → α → State} {a : α} (hit : ∀ s, P (f s a)) (keep : ∀ s b, P s → P (f s b)) {l : List α}
    (h : a ∈ l) : ∀ s, P (l.foldl f s) := by
  induction l with
  | nil => cases h
  | cons b l ih =>
    intro s
    rw [List.foldl_cons]
    rcases List.mem_cons.1 h with rfl | h
    · exact List.foldlRecOn l f (hit s) fun s hs c _ => keep s c hs
    · exact ih h _

/-- A line that a die's cache holds is listed. -/
theorem mem_rdcLines {s : State} {d line : Nat} (hl : line < 2 ^ 43) (h : s.rdc.get (rdcKey d line) ≠ default) : line ∈ s.rdcLines d := by
  have hdiv : rdcKey d line / 2 ^ 43 = d := by rw [rdcKey]; omega
  have hmod : rdcKey d line % 2 ^ 43 = line := by rw [rdcKey]; omega
  exact List.mem_map.2 ⟨_, List.mem_filter.2 ⟨Tab.mem_of_get_ne_default _ _ h, decide_eq_true hdiv⟩, hmod⟩

/-- What a round over a die's lines brings about for the line that it meets holds of every line, if it holds of one that is not there. -/
theorem foldl_rdcLines {P : RdcLine → Prop} {f : State → Nat → State} {d line : Nat} (hl : line < 2 ^ 43) (h0 : P default)
    (hit : ∀ s, P ((f s line).rdc.get (rdcKey d line))) (keep : ∀ s x, P (s.rdc.get (rdcKey d line)) → P ((f s x).rdc.get (rdcKey d line))) (s : State) :
    P (((s.rdcLines d).foldl f s).rdc.get (rdcKey d line)) := by
  by_cases h : s.rdc.get (rdcKey d line) = default
  · exact List.foldlRecOn (motive := fun t => P (t.rdc.get (rdcKey d line))) _ f (h ▸ h0) fun t ht x _ => keep t x ht
  · exact foldl_of_mem (P := fun t => P (t.rdc.get (rdcKey d line))) hit keep (mem_rdcLines hl h) s

theorem cacheDrop_gone (s : State) {xs : List Extent} {key base top line : Nat} (d : Nat) (hl : line < 2 ^ 43) (hm : lineMask xs key base top line ≠ 0) :
    (s.cacheDrop xs key base top d).rdc.get (rdcKey d line) = default := by
  rw [cacheDrop_eq]
  exact foldl_rdcLines (P := (· = default)) hl rfl (fun s => dropMasked_gone s d line hm) (fun s x => (dropMasked_fades s d x _).gone _) s

theorem physDrop_gone (s : State) {pa n line : Nat} (d : Nat) (hl : line < 2 ^ 43) (hm : physMask line pa n ≠ 0) :
    (s.physDrop d pa n).rdc.get (rdcKey d line) = default := by
  rw [physDrop_eq]
  exact foldl_rdcLines (P := (· = default)) hl rfl (fun s => dropMasked_gone s d line hm) (fun s x => (dropMasked_fades s d x _).gone _) s

theorem physBack_clean (s : State) (d pa n : Nat) {line : Nat} (hl : line < 2 ^ 43) :
    ((s.physBack d pa n).rdc.get (rdcKey d line)).dirty &&& physMask line pa n = 0 := by
  refine foldl_rdcLines (f := fun t x => t.writeBack d x (physMask x pa n)) (P := fun l => l.dirty &&& physMask line pa n = 0) hl ?_ (fun t => ?_)
    (fun t x ht => ?_) s
  · exact BitVec.zero_and
  · exact writeBack_clean t d line _
  · exact (writeBack_fades t d x _).clean _ _ ht

/-- After an invalidation on a list of dies none of them holds a line with a byte of the range. -/
theorem cacheDrops_gone (s : State) {xs : List Extent} {key base top d line : Nat} {ds : List Nat} (hd : d ∈ ds) (hl : line < 2 ^ 43)
    (hm : lineMask xs key base top line ≠ 0) : (ds.foldl (fun s d => s.cacheDrop xs key base top d) s).rdc.get (rdcKey d line) = default := by
  refine foldl_of_mem (f := fun (t : State) e => t.cacheDrop xs key base top e) (P := fun t => t.rdc.get (rdcKey d line) = default) (fun t => ?_)
    (fun t e ht => ?_) hd s
  · exact cacheDrop_gone t d hl hm
  · exact (cacheDrop_fades t ..).gone _ ht

theorem physDrop_step (s : State) (d pa n : Nat) : MemStep s (s.physDrop d pa n) := by
  refine MemStep.fold _ (fun s line => ?_) _ s
  dsimp only
  split
  · exact .refl s
  · exact (writeBack_step ..).trans ⟨rfl, id⟩

/-! ## Posted stores that have been performed -/

theorem writeBack_posted (s : State) (d line : Nat) (sel : BitVec 128) : (s.writeBack d line sel).posted = s.posted := by
  unfold State.writeBack
  extract_lets l out
  split
  · rfl
  split
  · rfl
  · exact foldl_keep State.posted _ (fun s i => by split <;> rfl) _ s

theorem rdcWrite_posted (s : State) (d cid t pa : Nat) (bs : List Byte) : (s.rdcWrite d cid t pa bs).posted = s.posted := by
  change (s.rdcRoom d (pa / 128)).posted = s.posted
  unfold State.rdcRoom
  split
  · rfl
  · split
    · exact writeBack_posted ..
    · rfl

/-- A posted store performed takes no other off the list. -/
theorem performPosted_posted (s : State) (p : Posted) : (s.performPosted p).posted = s.posted := by
  unfold State.performPosted
  split
  · exact foldl_keep State.posted _ (fun s q => rdcWrite_posted ..) _ s
  · unfold State.homeWrite
    split <;> rfl

theorem drainPosted_posted (s : State) (sel : Posted → Bool) : (s.drainPosted sel).posted = s.posted.filter fun p => !sel p :=
  foldl_keep State.posted _ performPosted_posted _ _

/-- Once the stores that a test names have been performed, none of them is left to perform. -/
theorem drainPosted_again (s : State) (sel : Posted → Bool) : (s.drainPosted sel).drainPosted sel = s.drainPosted sel := by
  have hnone : (s.drainPosted sel).posted.filter sel = [] := by simp [drainPosted_posted]
  have hrest : ((s.drainPosted sel).posted.filter fun p => !sel p) = (s.drainPosted sel).posted := by simp [drainPosted_posted]
  generalize s.drainPosted sel = t at hnone hrest
  rw [State.drainPosted, hnone, hrest]
  rfl

end Sys2Proof.Machine
end

section
/-! SUPPORT. Tokens (R259, R263 to R268): what every token word does before and after its own effect, each word by its cases, and the statement O38 from them. -/

namespace Sys2Proof.Machine

/-! ## Caches of a party that has lost or gained a piece (R259) -/

theorem partyDies_of_mem {s t : State} (h : MemOnly s t) (q : Party) : t.partyDies q = s.partyDies q := by rw [h]; rfl

/-- In a hardware-managed region no die of a party of `s` keeps in `u` a line with a byte of the piece, its bytes found by the pages and tiles of `s1`. -/
def State.Purged (s s1 : State) (key : Nat) (p : Piece) (q : Party) (u : State) : Prop :=
  (s.regions.get key).swManaged = false → ∀ d ∈ s.partyDies q, ∀ line < 2 ^ 43, lineMask (s1.extentsOf key) key p.base p.top line ≠ 0 →
    u.rdc.get (rdcKey d line) = default

theorem State.Purged.fades {s s1 t u : State} {key : Nat} {p : Piece} {q : Party} (h : s.Purged s1 key p q t) (k : Fades t u) : s.Purged s1 key p q u :=
  fun hw d hd line hl hm => k.gone _ (h hw d hd line hl hm)

/-- Region accesses already issued have been performed (R257). -/
def State.Settled (s : State) (key : Nat) : Prop := (s.drainPosted fun q => q.rkey == key + 1) = s

/-- The old party's dies write back, then those of both parties drop their lines (R259). -/
theorem moveCaches_of_settled {s : State} {key : Nat} (h : s.Settled key) (hw : (s.regions.get key).swManaged = false) (p : Piece) (old new : Party) :
    s.moveCaches key p old new =
      let back := (s.partyDies old).foldl (fun t d => t.cacheBack (s.extentsOf key) key p.base p.top d) s
      (s.partyDies old ++ back.partyDies new).foldl (fun t d => t.cacheDrop (s.extentsOf key) key p.base p.top d) back := by
  unfold State.moveCaches
  rw [h]
  dsimp only
  rw [hw, if_neg Bool.false_ne_true]

/-- Both parties of a move lose their lines. -/
theorem moveCaches_purged {s s1 : State} {key : Nat} (h : MemOnly s s1) (hd : s1.Settled key) (p : Piece) (old new : Party) :
    s.Purged s1 key p old (s1.moveCaches key p old new) ∧ s.Purged s1 key p new (s1.moveCaches key p old new) := by
  suffices hboth : ∀ q, (∀ d ∈ s.partyDies q, d ∈ s.partyDies old ++ s.partyDies new) → s.Purged s1 key p q (s1.moveCaches key p old new) from
    ⟨hboth old fun _ => List.mem_append_left _, hboth new fun _ => List.mem_append_right _⟩
  intro q hq hw d hdq line hl hm
  have hback : MemOnly s ((s1.partyDies old).foldl (fun s d => s.cacheBack (s1.extentsOf key) key p.base p.top d) s1) :=
    h.trans (MemStep.fold _ (fun _ _ => cacheBack_step ..) _ s1).1
  rw [moveCaches_of_settled hd (by rw [h]; exact hw)]
  dsimp only
  rw [partyDies_of_mem hback, partyDies_of_mem h old]
  exact cacheDrops_gone _ (hq d hdq) hl hm

/-! ## What a token word does around its own effect (R257, R263) -/

/-- Before its effect a release: memory only, and the region's accesses already issued are performed. -/
theorem tokBegin_step {s s1 : State} {key : Nat} {p : Piece} (h : tokBegin s key p = .ok s1) : MemStep s s1 ∧ s1.Settled key := by
  obtain ⟨t, ht, h⟩ := bind_ok h
  split at h
  · cases h
  · cases h
    exact ⟨(synRelease_step ht).trans (drainPosted_step ..), drainPosted_again ..⟩

/-- `t` has the tokens, the threads and the scratchpads of `s`. -/
structure State.Still (s t : State) : Prop where
  regions : t.regions = s.regions
  threads : t.threads = s.threads
  spad : t.spad = s.spad
  cur : t.cur = s.cur

theorem State.Still.refl (s : State) : s.Still s := ⟨rfl, rfl, rfl, rfl⟩

theorem State.Still.trans {s t u : State} (h : s.Still t) (k : t.Still u) : s.Still u :=
  ⟨k.regions.trans h.regions, k.threads.trans h.threads, k.spad.trans h.spad, k.cur.trans h.cur⟩

theorem State.Still.of_mem {s t : State} (h : MemStep s t) : s.Still t := by
  obtain ⟨hthreads, hcur, hspad, -⟩ := h.1.keeps
  exact ⟨by rw [h.1], hthreads, hspad, hcur⟩

/-- The word has rewritten the pieces of one region, which is a fence of its thread; the scratchpads are as they were. -/
def State.TokDone (s : State) (key : Nat) (f : List Piece → List Piece) (u : State) : Prop :=
  u.regions = s.regions.mod key (fun r => { r with pieces := f r.pieces }) ∧ u.threads = (s.modMe Thread.fenced).threads ∧ u.spad = s.spad

theorem setPieces_tokDone {s t : State} (h : s.Still t) (key : Nat) (f : List Piece → List Piece) : s.TokDone key f (t.setPieces key f).tokEnd := by
  obtain ⟨hregions, hthreads, hspad, hcur⟩ := h
  have hm : MemOnly ((t.setPieces key f).modThr t.cur Thread.fenced) (t.setPieces key f).tokEnd := (domainAcquire_step ..).1
  refine ⟨?_, ?_, ?_⟩
  · rw [hm, ← hregions]; rfl
  · rw [hm.keeps.1]; simp only [State.modMe, State.modThr, State.setPieces, hthreads, hcur]
  · rw [hm.keeps.2.2.1, ← hspad]; rfl

theorem setPieces_fades (t : State) (key : Nat) (f : List Piece → List Piece) : Fades t (t.setPieces key f).tokEnd :=
  (Fades.of_rdc (by rfl)).trans (acquire_fades (t.setPieces key f) _)

/-- The piece of a region that starts at a base is replaced. -/
def atBase (base : Nat) (f : Piece → Piece) : List Piece → List Piece := List.map fun q => if q.base = base then f q else q

/-- A word whose own effect is on the pieces alone. -/
theorem repieced_tokDone {s s1 : State} {key : Nat} {p : Piece} (h : tokBegin s key p = .ok s1) (f : List Piece → List Piece) :
    s.TokDone key f (s1.setPieces key f).tokEnd := setPieces_tokDone (.of_mem (tokBegin_step h).1) key f

/-- A word that moves the piece from one party to another. -/
theorem moved_tokDone {s s1 : State} {key : Nat} {p : Piece} (h : tokBegin s key p = .ok s1) (old new : Party) (f : List Piece → List Piece) :
    let u := ((s1.moveCaches key p old new).setPieces key f).tokEnd
    s.TokDone key f u ∧ s.Purged s1 key p old u ∧ s.Purged s1 key p new u := by
  obtain ⟨hm, hd⟩ := tokBegin_step h
  obtain ⟨hold, hnew⟩ := moveCaches_purged hm.1 hd p old new
  exact ⟨setPieces_tokDone (.of_mem (hm.trans (moveCaches_step ..))) key f, hold.fades (setPieces_fades ..), hnew.fades (setPieces_fades ..)⟩

theorem tokRegionOnly_ok {s : State} {addr v : Dword} (h : bits v 12 52 = 0) : tokRegionOnly s addr v = .ok () := if_pos h

/-! ## Words of the holder (R264 to R267) -/

/-- The piece with a new holder, the old one its most recent lender (R264). -/
def Piece.lentTo (q : Party) (x : Piece) : Piece := { x with holder := q, chain := x.chain ++ [{ party := x.holder, lost := false }], st := .lent }

/-- The piece that starts at a base cut at an address (R266). -/
def cutAt (base at_ : Nat) (q : Piece) : List Piece := if q.base = base then [{ q with top := at_ }, { q with base := at_ }] else [q]

/-- The piece that starts at a base gone, the piece before it grown up to its top (R266). -/
def joinTo (before base top : Nat) (ps : List Piece) : List Piece :=
  (ps.filter fun x => x.base ≠ base).map fun x => if x.base = before then { x with top := top } else x

theorem tokPiece_region {s : State} {key : Nat} {a : Dword} {r : Region} {p : Piece} (h : tokPiece s key a = .ok (r, p)) : r = s.regions.get key := by
  unfold tokPiece at h
  extract_lets x at h
  split at h
  · cases h
  split at h
  · cases h
  split at h
  · cases h
  split at h
  · cases h
  · exact (Prod.mk.inj (Except.ok.inj h)).1.symm

theorem tokHeld_region {s : State} {key : Nat} {a : Dword} {r : Region} {p : Piece} (h : tokHeld s key a = .ok (r, p)) : r = s.regions.get key := by
  obtain ⟨x, hx, h⟩ := bind_ok h
  have hr := tokPiece_region (r := x.1) (p := x.2) hx
  dsimp only at h
  split at h
  · cases h
  split at h
  · cases h
  · cases h; exact hr

/-- A party's dies drop their lines of a piece of a hardware-managed region. -/
def State.dropFor (s : State) (sw : Bool) (xs : List Extent) (key : Nat) (p : Piece) (q : Party) : State :=
  if sw then s else (s.partyDies q).foldl (fun s d => s.cacheDrop xs key p.base p.top d) s

theorem dropFor_step (s : State) (sw : Bool) (xs : List Extent) (key : Nat) (p : Piece) (q : Party) : MemStep s (s.dropFor sw xs key p q) := by
  unfold State.dropFor
  split
  · exact .refl s
  · exact .fold _ (fun _ _ => cacheDrop_step ..) _ s

theorem dropFor_purged {s t : State} (h : MemOnly s t) (s1 : State) (key : Nat) (p : Piece) (q : Party) :
    s.Purged s1 key p q (t.dropFor (s.regions.get key).swManaged (s1.extentsOf key) key p q) := by
  intro hw d hd line hl hm
  rw [State.dropFor, hw, if_neg Bool.false_ne_true, partyDies_of_mem h]
  exact cacheDrops_gone t hd hl hm

/-- A party's dies write back their dirty bytes of a piece of a hardware-managed region. -/
def State.backFor (s : State) (sw : Bool) (xs : List Extent) (key : Nat) (p : Piece) (q : Party) : State :=
  if sw then s else (s.partyDies q).foldl (fun s d => s.cacheBack xs key p.base p.top d) s

theorem backFor_step (s : State) (sw : Bool) (xs : List Extent) (key : Nat) (p : Piece) (q : Party) : MemStep s (s.backFor sw xs key p q) := by
  unfold State.backFor
  split
  · exact .refl s
  · exact .fold _ (fun _ _ => cacheBack_step ..) _ s

section
variable {s s1 : State} {a b : BitVec 6} {r : Region} {p : Piece} {key : Nat} (hkey : s.myRegion (s.ys b) = key) (hb : s.me.allBefore .syn = true)
include hkey hb

section
variable (hp : tokHeld s key (s.ys a) = .ok (r, p))
include hp

section
variable {q : Party} (hq : s.partyOperand s.me.node (s.ys b) = some q)
include hq

section
variable (hdet : (s.ctxs.get s.me.cid).det = false ∨ field (s.ys b) 12 3 = 0) (hgone : s.recipientGone q = false) (hlen : p.chain.length ≠ 4)
include hdet hgone hlen

/-- tklend with its checks passed: it waits at a share, and else begins. -/
theorem execTklend_checked : execTklend a b s = finish .syn s (if p.shares ≠ [] then holdAt s .outside
    else tokBegin s key p >>= fun t => .ok ((t.moveCaches key p p.holder q).setPieces key (atBase p.base (Piece.lentTo q))).tokEnd) := by
  subst hkey
  refine congrArg (finish .syn s) ?_
  rw [bind_of_ok (synAfter_ok hb)]
  dsimp only
  rw [hq]
  dsimp only
  rw [bind_of_ok hp]
  dsimp only
  rw [if_neg (not_and_or.2 (hdet.imp Bool.eq_false_iff.1 not_not.2)), if_neg (by simp [hgone]), if_neg hlen]
  rfl

/-- A lend gives the piece to its recipient. -/
theorem execTklend_lends (h1 : tokBegin s key p = .ok s1) (hs : p.shares = []) : ∃ u, execTklend a b s = .next (u.retire .syn s) ∧
    s.TokDone key (atBase p.base (Piece.lentTo q)) u ∧ s.Purged s1 key p p.holder u ∧ s.Purged s1 key p q u := by
  refine ⟨_, ?_, moved_tokDone h1 p.holder q _⟩
  rw [execTklend_checked hkey hb hp hq hdet hgone hlen, if_neg (not_not.2 hs), bind_of_ok h1]
  rfl

theorem execTklend_waits (hs : p.shares ≠ []) : execTklend a b s = .next (s.holdWord .syn .outside) := by
  rw [execTklend_checked hkey hb hp hq hdet hgone hlen, if_pos hs]
  rfl

end

/-- A share is added, the holder's dirty bytes written back and the party's lines dropped. -/
theorem tkshare_shares (h1 : tokBegin s key p = .ok s1) (hlen : p.shares.length < 15) : Ends .syn (.tkshare a b) s fun u =>
    s.TokDone key (atBase p.base fun x => { x with shares := x.shares ++ [q] }) u ∧ s.Purged s1 key p q u := by
  obtain ⟨hm, -⟩ := tokBegin_step h1
  have hback := hm.trans (backFor_step s1 (s.regions.get key).swManaged (s1.extentsOf key) key p p.holder)
  refine ends_of_ok (exec_tkshare a b s) ?_ ⟨setPieces_tokDone (.of_mem (hback.trans (dropFor_step ..))) key _,
    (dropFor_purged hback.1 s1 key p q).fades (setPieces_fades ..)⟩
  subst hkey
  rw [bind_of_ok (synAfter_ok hb)]
  dsimp only
  rw [hq]
  dsimp only
  rw [bind_of_ok hp]
  dsimp only
  rw [if_neg (Nat.not_le.2 hlen), bind_of_ok h1, tokHeld_region hp]
  rfl

end

variable (hv : bits (s.ys b) 12 52 = 0)
include hv

/-- tkret with its checks passed: it waits at a share, and else begins. -/
theorem execTkret_checked (hc : p.chain ≠ []) : execTkret a b s = finish .syn s (if p.shares ≠ [] then holdAt s .outside
    else tokBegin s key p >>= fun t => .ok ((t.moveCaches key p p.holder p.lender).setPieces key (atBase p.base Piece.returned)).tokEnd) := by
  subst hkey
  refine congrArg (finish .syn s) ?_
  rw [bind_of_ok (synAfter_ok hb)]
  dsimp only
  rw [bind_of_ok (tokRegionOnly_ok hv), bind_of_ok hp]
  dsimp only
  rw [if_neg hc]
  rfl

/-- A return gives the piece back to its most recent lender. -/
theorem execTkret_returns (hc : p.chain ≠ []) (h1 : tokBegin s key p = .ok s1) (hs : p.shares = []) : ∃ u, execTkret a b s = .next (u.retire .syn s) ∧
    s.TokDone key (atBase p.base Piece.returned) u ∧ s.Purged s1 key p p.holder u ∧ s.Purged s1 key p p.lender u := by
  refine ⟨_, ?_, moved_tokDone h1 p.holder p.lender _⟩
  rw [execTkret_checked hkey hb hp hv hc, if_neg (not_not.2 hs), bind_of_ok h1]
  rfl

theorem execTkret_waits (hc : p.chain ≠ []) (hs : p.shares ≠ []) : execTkret a b s = .next (s.holdWord .syn .outside) := by
  rw [execTkret_checked hkey hb hp hv hc, if_pos hs]
  rfl

theorem tksplit_cuts (h1 : tokBegin s key p = .ok s1) (hal : (s.ys a).toNat % 16 = 0) (hne : (s.ys a).toNat ≠ p.base) (hs : p.shares = [])
    (hlen : r.pieces.length ≠ 64) (hroom : s.unitPieces r.home < 131072) :
    Ends .syn (.tksplit a b) s (s.TokDone key (List.flatMap (cutAt p.base (s.ys a).toNat))) := by
  refine ends_of_ok (exec_tksplit a b s) ?_ (repieced_tokDone h1 _)
  subst hkey
  rw [bind_of_ok (synAfter_ok hb)]
  dsimp only
  rw [bind_of_ok (tokRegionOnly_ok hv), bind_of_ok hp]
  dsimp only
  rw [if_neg (not_or.2 ⟨not_not.2 hal, hne⟩), if_neg (not_not.2 hs), if_neg (not_or.2 ⟨hlen, Nat.not_le.2 hroom⟩), bind_of_ok h1]
  rfl

theorem tkjoin_joins (h1 : tokBegin s key p = .ok s1) {l : Piece} (hl : r.pieces.find? (fun q => q.top == (s.ys a).toNat) = some l)
    (hbase : p.base = (s.ys a).toNat) (hlike : l.holder = p.holder ∧ l.chain = p.chain ∧ l.taint = p.taint ∧ l.st = p.st ∧ p.shares = [] ∧ l.shares = []) :
    Ends .syn (.tkjoin a b) s (s.TokDone key (joinTo l.base p.base p.top)) := by
  refine ends_of_ok (exec_tkjoin a b s) ?_ (repieced_tokDone h1 _)
  subst hkey
  rw [bind_of_ok (synAfter_ok hb)]
  dsimp only
  rw [bind_of_ok (tokRegionOnly_ok hv), bind_of_ok hp]
  dsimp only
  rw [hl]
  dsimp only
  rw [if_neg (not_not.2 hbase), if_neg (by simpa [not_or] using hlike), bind_of_ok h1]
  rfl

end

/-- A share is removed, its party's lines dropped. -/
theorem tkunsh_unshares {q : Party} (hv : bits (s.ys b) 12 52 = 0) (hp : tokPiece s key (s.ys a) = .ok (r, p)) (hst : p.st ≠ .lost)
    (hf : p.shares.find? s.tokIssuer.within = some q) (h1 : tokBegin s key p = .ok s1) : Ends .syn (.tkunsh a b) s fun u =>
    s.TokDone key (atBase p.base fun x => { x with shares := dropShare s.tokIssuer.within x.shares }) u ∧ s.Purged s1 key p q u := by
  obtain ⟨hm, hd⟩ := tokBegin_step h1
  refine ends_of_ok (exec_tkunsh a b s) ?_ ⟨setPieces_tokDone (.of_mem (hm.trans (dropFor_step ..))) key _,
    (dropFor_purged hm.1 s1 key p q).fades (setPieces_fades ..)⟩
  have hany : p.shares.any s.tokIssuer.within = true := List.any_eq_true.2 ⟨q, List.mem_of_find?_eq_some hf, List.find?_some hf⟩
  have hiss : s1.tokIssuer = s.tokIssuer := by rw [hm.1]; rfl
  have hreg : s1.regions = s.regions := by rw [hm.1]
  subst hkey
  rw [bind_of_ok (synAfter_ok hb)]
  dsimp only
  rw [bind_of_ok (tokRegionOnly_ok hv), bind_of_ok hp]
  dsimp only
  rw [if_neg hst, if_neg (by simp [hany]), bind_of_ok h1, hiss, State.unshare, hf]
  dsimp only
  rw [hd, hreg]
  rfl

end

/-! ## A held word made anew (R264) -/

/-- At its word, a token word at which SYN is held is executed as at its turn. -/
theorem execTokenWaitResume_word {s s0 : State} {x : IqEntry} {w : Word} (hs : { s0 with cur := s.cur } = s) (hst : s.me.st = .running ∨ s.me.st = .handler)
    (hpend : s.me.pend = none) (hheld : s.me.held.get 7 ≠ none) (hx : s.me.head .syn = some x) (hw : x.item = .word w) :
    exec (.tokenWaitResume s.cur) s0 = if bits w 24 8 = (0xE5 : BitVec 8) then execTklend (bits w 10 6) (bits w 4 6) s
      else if bits w 24 8 = (0xE6 : BitVec 8) then execTkret (bits w 10 6) (bits w 4 6) s else .next s0 := by
  have hme : s0.thr s.cur = s.me := (congrArg (fun t : State => t.thr s.cur) hs :)
  have hready : ((s.me.st == .running || s.me.st == .handler) && s.me.pend.isNone && (s.me.held.get 7).isSome) = true := by
    simp [hst, hpend, Option.isSome_iff_ne_none.2 hheld]
  rw [exec_tokenWaitResume, execTokenWaitResume, hme, hready, hx, hs]
  dsimp only
  rw [hw]
  rfl

/-! ## Reclaiming a lost piece (R268) -/

theorem log_still (s : State) (d : Nat) (r : LogRec) : s.Still (s.log d r) := by rw [(log_only s d r).1]; exact ⟨rfl, rfl, rfl, rfl⟩

theorem reclaimCaches_still (s : State) (key : Nat) (p : Piece) : s.Still (s.reclaimCaches key p) := by
  have hdrain : s.Still (s.drainPosted fun q => q.rkey == key + 1) := .of_mem (drainPosted_step ..)
  unfold State.reclaimCaches
  extract_lets s1 xs
  split
  · exact hdrain
  refine hdrain.trans (foldl_rel State.Still .refl (fun _ _ _ => .trans) _ (fun s d => ?_) _ s1)
  refine foldl_rel State.Still .refl (fun _ _ _ => .trans) _ (fun s line => ?_) _ s
  extract_lets m l lost s2 s3
  split
  · exact .refl s
  have hline : s.Still s3 := .of_mem ((writeBack_step ..).trans (u := s3) ⟨rfl, id⟩)
  split
  · exact hline.trans (log_still ..)
  · exact hline

section
variable {s : State} {a b : BitVec 6} {r : Region} {p : Piece} (hsys : (s.ctxs.get s.me.cid).sys = true)
  (hv : bits (s.ys b) 13 3 = 0 ∧ bits (s.ys b) 26 38 = 0) (hctx : (s.ctxs.get (field (s.ys b) 16 10)).st ≠ .free)
  (hp : tokPiece s (regionKey (field (s.ys b) 16 10) (regionOf (s.ys b))) (s.ys a) = .ok (r, p))
include hsys hv hctx hp

/-- tkrecl of a piece that is lost or reclaimed, with its checks passed. -/
theorem execTkrecl_checked (hst : p.st = .lost ∨ p.st = .reclaimed) : execTkrecl a b s = finish .syn s
    (if p.st = .reclaimed ∧ flag (s.ys b) 12 then .ok s
      else tokBegin s (regionKey (field (s.ys b) 16 10) (regionOf (s.ys b))) p >>= fun t =>
        .ok ((t.reclaimCaches (regionKey (field (s.ys b) 16 10) (regionOf (s.ys b))) p).setPieces (regionKey (field (s.ys b) 16 10) (regionOf (s.ys b)))
          (atBase p.base (Piece.reclaim (flag (s.ys b) 12)))).tokEnd) := by
  obtain ⟨hlo, hhi⟩ := hv
  refine congrArg (finish .syn s) ?_
  rw [bind_of_ok (needPriv_ok hsys)]
  dsimp only
  rw [if_neg (not_or.2 ⟨not_not.2 hlo, not_not.2 hhi⟩), if_neg hctx, bind_of_ok hp]
  dsimp only
  rw [if_neg (fun h => hst.elim h.1 h.2)]
  rfl

/-- A tainted verdict on a reclaimed piece has no effect. -/
theorem tkrecl_nothing (hst : p.st = .reclaimed) (ht : flag (s.ys b) 12 = true) : Does .syn (.tkrecl a b) s s :=
  does_of_ok (execTkrecl_checked hsys hv hctx hp (.inr hst)) (if_pos ⟨hst, ht⟩)

/-- A lost piece, or a reclaimed one with a clean verdict, is the domain's again. -/
theorem tkrecl_reclaims {s1 : State} (hst : p.st = .lost ∨ p.st = .reclaimed ∧ flag (s.ys b) 12 = false)
    (h1 : tokBegin s (regionKey (field (s.ys b) 16 10) (regionOf (s.ys b))) p = .ok s1) : Ends .syn (.tkrecl a b) s
    (s.TokDone (regionKey (field (s.ys b) 16 10) (regionOf (s.ys b))) (atBase p.base fun q => q.reclaim (flag (s.ys b) 12))) := by
  have hnot : ¬ (p.st = .reclaimed ∧ flag (s.ys b) 12 = true) := fun ⟨hr, ht⟩ => hst.elim (fun hl => by rw [hl] at hr; cases hr) fun h => by rw [h.2] at ht; cases ht
  refine ends_of_ok (execTkrecl_checked hsys hv hctx hp (hst.imp_right And.left)) ((if_neg hnot).trans (bind_of_ok h1 _))
    (setPieces_tokDone ((State.Still.of_mem (tokBegin_step h1).1).trans (reclaimCaches_still ..)) _ _)

end

/-! ## The statement -/

/-- Settles O38 from the lemmas on each word: a lend or return made anew is the word itself. -/
theorem tokensMoveBetweenParties : Obligations.TokensMoveBetweenParties := by
  intro s s1 s0 a b r p th addr v key free held named only cleared pieces one lent lends rets again cut join mine cid' key'
  have hkey : s.myRegion (s.ys b) = key := rfl
  have hlends {w : Instr} {t : State} (hw : exec w t = execTklend a b s) : lends w t := fun q hq hdet hgone hlen =>
    ⟨fun ⟨⟨hb, hp⟩, h1⟩ hs => hw ▸ execTklend_lends hkey hb hp hq hdet hgone hlen h1 hs,
      fun ⟨hb, hp⟩ hs => hw.trans (execTklend_waits hkey hb hp hq hdet hgone hlen hs)⟩
  have hrets {w : Instr} {t : State} (hw : exec w t = execTkret a b s) : rets w t := fun hv hc =>
    ⟨fun ⟨⟨hb, hp⟩, h1⟩ hs => hw ▸ execTkret_returns hkey hb hp hv hc h1 hs, fun ⟨hb, hp⟩ hs => hw.trans (execTkret_waits hkey hb hp hv hc hs)⟩
  refine ⟨hlends (exec_tklend a b s), hrets (exec_tkret a b s), fun ⟨hs, hst, hpend, hheld, x, w, hx, hw, hopc, ha, hb⟩ => hlends ?lend,
    fun ⟨hs, hst, hpend, hheld, x, w, hx, hw, hopc, ha, hb⟩ => hrets ?ret,
    fun ⟨⟨hb, hp⟩, h1⟩ hv hal hne hs hlen hroom => tksplit_cuts hkey hb hp hv h1 hal hne hs hlen hroom,
    fun l ⟨⟨hb, hp⟩, h1⟩ hv hl hbase h2 h3 h4 h5 h6 h7 => tkjoin_joins hkey hb hp hv h1 hl hbase ⟨h2, h3, h4, h5, h6, h7⟩,
    fun q ⟨⟨hb, hp⟩, h1⟩ hq hlen => tkshare_shares hkey hb hp hq h1 hlen,
    fun q hb hv hp hst hf h1 => tkunsh_unshares hkey hb hv hp hst hf h1,
    fun ⟨hsys, hlo, hhi, hctx, hp⟩ hst ht => tkrecl_nothing hsys ⟨hlo, hhi⟩ hctx hp hst ht,
    fun ⟨hsys, hlo, hhi, hctx, hp⟩ hst h1 => tkrecl_reclaims hsys ⟨hlo, hhi⟩ hctx hp hst h1⟩
  case lend => rw [execTokenWaitResume_word hs hst hpend hheld hx hw, if_pos hopc, ha, hb]
  case ret => rw [execTokenWaitResume_word hs hst hpend hheld hx hw, if_neg (by rw [hopc]; decide), if_pos hopc, ha, hb]

end Sys2Proof.Machine
end

section
/-! SUPPORT. Range write-back and invalidation, and the region commands (R251, R252, R270, R271): each by its cases, and the statement O39 from them. -/

namespace Sys2Proof.Machine

/-! ## The parts of a range (R271) -/

/-- A fold over options keeps what each of its steps that answers keeps. -/
theorem foldlM_rel {α β : Type} {R : β → β → Prop} (rfl_ : ∀ x, R x x) (tr : ∀ x y z, R x y → R y z → R x z) {f : β → α → Option β}
    (step : ∀ x a y, f x a = some y → R x y) (l : List α) : ∀ {x y : β}, l.foldlM f x = some y → R x y := by
  induction l with
  | nil => intro x y h; cases h; exact rfl_ _
  | cons a l ih =>
    intro x y h
    rw [List.foldlM_cons] at h
    obtain ⟨z, hz, h⟩ := Option.bind_eq_some_iff.1 h
    exact tr _ _ _ (step x a z hz) (ih h)

theorem rangeStep_tlb {x y : List (Nat × Nat) × State} {r : Except MemStop (Acc × State)} (hr : ∀ a t, r = .ok (a, t) → TlbOnly x.2 t)
    (h : rangeStep x r = some y) : TlbOnly x.2 y.2 := by
  unfold rangeStep at h
  split at h
  · next a t => cases h; exact hr a t rfl
  · cases h
  · cases h; exact .refl _

/-- The walks of a range fill the translation caches and change nothing else. -/
theorem rangeParts_tlb {s t : State} {addr v : Dword} {ps : List (Nat × Nat)} (h : s.rangeParts addr v = some (ps, t)) : TlbOnly s t := by
  have hfold {f : List (Nat × Nat) × State → Nat × Nat → Except MemStop (Acc × State)} {u : State} (l : List (Nat × Nat))
      (hf : ∀ x p a t, f x p = .ok (a, t) → TlbOnly x.2 t) (h : l.foldlM (fun x p => rangeStep x (f x p)) ([], u) = some (ps, t)) : TlbOnly u t :=
    foldlM_rel (R := fun x y => TlbOnly x.2 y.2) (fun x => .refl x.2) (fun _ _ _ => .trans) (fun x p y => rangeStep_tlb (hf x p)) l h
  unfold State.rangeParts at h
  extract_lets th at_ tid len at h
  split at h
  · split at h
    · cases h
    · cases h; exact .refl s
    · next e0 e1 u hd => exact (directory_tlb hd).trans (hfold _ (fun x p a t => translateTile_tlb) h)
  · exact hfold _ (fun x p a t => translate_tlb) h

/-! ## rwb and rinv (R270, R271) -/

section
variable {s : State} {a b : BitVec 6} {i : Instr} {f : State → Nat → Nat → Nat → State} (hi : exec i s = synRange f a b s)
  (hb : s.me.allBefore .syn = true) (hv : bits (s.ys b) 32 31 = 0)
include hi hb hv

/-- A range of no bytes. -/
theorem range_empty (hn : bits (s.ys b) 0 32 = 0) : Does .syn i s s := by
  refine does_of_ok hi ?_
  rw [bind_of_ok (synAfter_ok hb)]
  dsimp only
  rw [if_neg (not_not.2 hv), if_pos hn]

variable (hn : bits (s.ys b) 0 32 ≠ 0)
include hn

/-- The thread's posted stores performed, the word finds its parts. -/
theorem range_begun : exec i s = finish .syn s (((s.drainThread s.cur).rangeParts (s.ys a) (s.ys b)).elim (holdAt (s.drainThread s.cur) .outside) fun x =>
    if x.2.rangeAway s.me.die x.1 then holdAt x.2 .outside else .ok (x.1.foldl (fun t p => f t s.me.die p.1 p.2) x.2)) := by
  refine hi.trans (congrArg (finish .syn s) ?_)
  have hys : (s.drainThread s.cur).ys a = s.ys a := by rw [(drainThread_step ..).1]; rfl
  rw [bind_of_ok (synAfter_ok hb)]
  dsimp only
  rw [if_neg (not_not.2 hv), if_neg hn, hys]
  split
  case h_1 hparts => rw [hparts]; rfl
  case h_2 ps t hparts =>
    have hme : t.me = s.me := (rangeParts_tlb hparts).keeps.2.2.2.2.1.trans (drainThread_step ..).1.keeps.2.2.2.1
    rw [hparts, hme]
    rfl

/-- With no path to a table of its walks, or to a home that it writes back to, the word waits. -/
theorem range_waits_tables (h : (s.drainThread s.cur).rangeParts (s.ys a) (s.ys b) = none) :
    exec i s = .next ((s.drainThread s.cur).holdWord .syn .outside) := by
  rw [range_begun hi hb hv hn, h]
  rfl

variable {ps : List (Nat × Nat)} {s1 : State} (h : (s.drainThread s.cur).rangeParts (s.ys a) (s.ys b) = some (ps, s1))
include h

theorem range_waits_homes (haway : s1.rangeAway s.me.die ps = true) : exec i s = .next (s1.holdWord .syn .outside) := by
  rw [range_begun hi hb hv hn, h]
  exact congrArg (finish .syn s) (if_pos haway)

/-- The word acts on its parts in turn. -/
theorem range_acts (haway : s1.rangeAway s.me.die ps = false) (hstep : ∀ t d pa n, MemStep t (f t d pa n)) : Ends .syn i s fun u =>
    u.regions = s.regions ∧ u.spad = s.spad ∧ u.threads = s.threads ∧ u = ps.foldl (fun t p => f t s.me.die p.1 p.2) s1 := by
  have hstill : s.Still (ps.foldl (fun t p => f t s.me.die p.1 p.2) s1) := by
    have htlb : (s.drainThread s.cur).Still s1 := by rw [rangeParts_tlb h]; exact ⟨rfl, rfl, rfl, rfl⟩
    exact ((State.Still.of_mem (drainThread_step ..)).trans htlb).trans (.of_mem (MemStep.fold _ (fun _ _ => hstep ..) ps s1))
  refine ⟨_, ?_, hstill.regions, hstill.spad, hstill.threads, rfl⟩
  rw [range_begun hi hb hv hn, h]
  exact congrArg (finish .syn s) (if_neg (Bool.eq_false_iff.1 haway))

end

/-- Written back part by part, a cache has no dirty byte of any. -/
theorem physBacks_clean {ps : List (Nat × Nat)} {q : Nat × Nat} (hq : q ∈ ps) (s : State) (d : Nat) {line : Nat} (hl : line < 2 ^ 43) :
    ((ps.foldl (fun t p => t.physBack d p.1 p.2) s).rdc.get (rdcKey d line)).dirty &&& physMask line q.1 q.2 = 0 := by
  refine foldl_of_mem (f := fun (t : State) (p : Nat × Nat) => t.physBack d p.1 p.2)
    (P := fun t => (t.rdc.get (rdcKey d line)).dirty &&& physMask line q.1 q.2 = 0) (fun t => ?_) (fun t x ht => ?_) hq s
  · exact physBack_clean t d q.1 q.2 hl
  · exact (physBack_fades t d x.1 x.2).clean _ _ ht

/-- Invalidated part by part, a cache has no line of any. -/
theorem physDrops_gone {ps : List (Nat × Nat)} {q : Nat × Nat} (hq : q ∈ ps) (s : State) (d : Nat) {line : Nat} (hl : line < 2 ^ 43)
    (hm : physMask line q.1 q.2 ≠ 0) : (ps.foldl (fun t p => t.physDrop d p.1 p.2) s).rdc.get (rdcKey d line) = default := by
  refine foldl_of_mem (f := fun (t : State) (p : Nat × Nat) => t.physDrop d p.1 p.2) (P := fun t => t.rdc.get (rdcKey d line) = default) (fun t => ?_)
    (fun t x ht => ?_) hq s
  · exact physDrop_gone t d hl hm
  · exact (physDrop_fades t d x.1 x.2).gone _ ht

/-! ## Region commands (R251, R252) -/

section
variable {s t : State} {d a n : Nat} {dw : Nat → Dword} (hdw : (fun i => s.homeDword (a + 8 * i)) = dw) (hal : a % 64 = 0) (hhole : s.paHole a = false)
  (hlost : s.paLost a = false)
include hdw hal hhole hlost

/-- A command that can be read is carried out, and its status is written. -/
theorem regionCommand_answers (h : field (dw 0) 0 2 = 1 ∧ s.regionCreate dw = (n, t) ∨ field (dw 0) 0 2 = 2 ∧ s.regionDestroy dw = (n, t)) :
    s.regionCommand d a = t.cmdStatus d (a + 32) n := by
  rw [State.regionCommand, if_neg (by simp [State.cmdUsable, hal, hhole, hlost]), hdw]
  dsimp only
  rcases h with ⟨hk, h⟩ | ⟨hk, h⟩
  · rw [hk, h]; rfl
  · rw [hk, h]; rfl

theorem tkcmdCreate_answers (hk : field (dw 0) 0 2 = 1) (h : s.regionCreate dw = (n, t)) : exec (.tkcmdCreate d a) s = .next (t.cmdStatus d (a + 32) n) := by
  have hk0 : field (s.homeDword a) 0 2 = 1 := by rw [← hdw] at hk; exact hk
  rw [exec_tkcmdCreate, execTkcmdCreate, if_pos hk0, regionCommand_answers hdw hal hhole hlost (.inl ⟨hk, h⟩)]

theorem tkcmdDestroy_answers (hk : field (dw 0) 0 2 = 2) (h : s.regionDestroy dw = (n, t)) : exec (.tkcmdDestroy d a) s = .next (t.cmdStatus d (a + 32) n) := by
  have hk0 : field (s.homeDword a) 0 2 = 2 := by rw [← hdw] at hk; exact hk
  rw [exec_tkcmdDestroy, execTkcmdDestroy, if_pos hk0, regionCommand_answers hdw hal hhole hlost (.inr ⟨hk, h⟩)]

end

section
variable {s : State} {dw : Nat → Dword} {cid key : Nat} (hcid : field (dw 0) 16 10 = cid) (hkey : regionKey cid (field (dw 0) 32 12) = key)
  (hform : regionFormOk dw = true) (hctx : (s.ctxs.get cid).st = .active)
include hcid hkey hform hctx

/-- A create command in form lists its region, with its copy. -/
theorem regionCreate_lists {r : Region} (hr : regionOfCmd dw = r) (hbase : r.base % 16 = 0) (hlen : r.len % 16 = 0) (hmin : 16 ≤ r.len)
    (hmax : r.base + r.len ≤ 2 ^ 57) (hlive : (s.regions.get key).live = false) (hlost : s.regionLost (s.regions.get key) = false)
    (hroom : s.unitPieces r.home < 131072) (hhome : (s.die r.home).present = true) : s.regionCreate dw = (1, { s with
      regions := s.regions.set key r, copies := s.copies.set key { live := true, bad := false, serial := (s.ctxs.get cid).serial, region := r } }) := by
  have hbits : field (dw 0) 32 12 < 4096 := Nat.mod_lt _ (by decide)
  have hof : key / 4096 = cid := by rw [← hkey, regionKey]; omega
  have hfit : ¬ ((!regionFormOk dw) = true ∨ (s.ctxs.get cid).st ≠ .active ∨ r.base % 16 ≠ 0 ∨ r.len % 16 ≠ 0 ∨ r.len < 16 ∨ 2 ^ 57 < r.base + r.len) := by
    simpa [hform, hctx, hbase, hlen, hmin] using hmax
  unfold State.regionCreate
  dsimp only
  rw [hr, hcid, hkey, if_neg hfit, if_neg (by simp [hlive, hlost, hroom]), if_neg (by simp [hhome])]
  unfold State.keepCopy
  dsimp only
  rw [hof, Tab.get_set_same]

/-- A destroy command of a region of one free piece removes it; no die present keeps a line with a byte of it. -/
theorem regionDestroy_removes {r : Region} {p : Piece} (hr : s.regions.get key = r) (hlost : s.regionLost r = false) (hlive : r.live = true)
    (hpieces : r.pieces = [p]) (hfree : (p.st = .heldWrite ∨ p.st = .reclaimed) ∧ p.shares = []) :
    ∃ t : State, s.regionDestroy dw = (1, t) ∧ t.regions = s.regions.set key default ∧ t.copies = s.copies.set key default ∧
      t.spad = s.spad ∧ t.threads = s.threads ∧ ∀ e ∈ s.presentDies, ∀ line < 2 ^ 43,
        lineMask ((s.drainPosted fun q => q.rkey == key + 1).extentsOf key) key r.base (r.base + r.len) line ≠ 0 → t.rdc.get (rdcKey e line) = default := by
  let drained := s.drainPosted fun q => q.rkey == key + 1
  let back := drained.presentDies.foldl (fun t e => t.cacheBack (drained.extentsOf key) key r.base (r.base + r.len) e) drained
  let out := back.presentDies.foldl (fun t e => t.cacheDrop (drained.extentsOf key) key r.base (r.base + r.len) e) back
  have hback : MemStep s back := (drainPosted_step ..).trans (.fold _ (fun _ _ => cacheBack_step ..) _ drained)
  have hout : MemStep s out := hback.trans (.fold _ (fun _ _ => cacheDrop_step ..) _ back)
  have hstill := State.Still.of_mem hout
  have hdies : back.presentDies = s.presentDies := by rw [hback.1]; rfl
  refine ⟨out.removeRegion key, ?_, congrArg (Tab.set · key default) hstill.regions, ?_, hstill.spad, hstill.threads,
    fun e he line hl hm => cacheDrops_gone back (hdies ▸ he) hl hm⟩
  · unfold State.regionDestroy
    dsimp only
    rw [hcid, hkey, hr, if_neg (by simp [hform, hctx]), if_neg (by simp [hlost]), if_neg (by simp [hlive]), hpieces]
    exact if_pos hfree
  · have hcopies : out.copies = s.copies := by rw [hout.1]
    exact congrArg (Tab.set · key default) hcopies

end

/-! ## The statement -/

/-- Settles O39 from the lemmas on range words and on region commands. -/
theorem rangeWordsAndRegionCommands : Obligations.RangeWordsAndRegionCommands := by
  intro s s1 a b d at_ ps p th v runs cached dw cid key usable r old listed
  have hrwb := exec_rwb a b s
  have hrinv := exec_rinv a b s
  have hdw : (fun i => s.homeDword (at_ + 8 * i)) = dw := rfl
  have hcid : field (dw 0) 16 10 = cid := rfl
  have hkey : regionKey cid (field (dw 0) 32 12) = key := rfl
  have hr : regionOfCmd dw = r := rfl
  have hold : s.regions.get key = old := rfl
  refine ⟨fun hb ⟨hv, hn, hparts, haway⟩ => ?rwb, fun hb ⟨hv, hn, hparts, haway⟩ => ?rinv,
    fun hb hv hn h => ⟨range_waits_tables hrwb hb hv hn h, range_waits_tables hrinv hb hv hn h⟩,
    fun hb hv hn h haway => ⟨range_waits_homes hrwb hb hv hn h haway, range_waits_homes hrinv hb hv hn h haway⟩,
    fun hb hv hn => ⟨range_empty hrwb hb hv hn, range_empty hrinv hb hv hn⟩,
    fun ⟨hal, hhole, hpl, hform, hctx⟩ hk hbase hlen hmin hmax hlive hlost hroom hhome => tkcmdCreate_answers hdw hal hhole hpl hk
      (regionCreate_lists hcid hkey hform hctx hr hbase hlen hmin hmax hlive hlost hroom hhome),
    fun ⟨hal, hhole, hpl, hform, hctx⟩ hk hlost hlive hpieces hst hshares => ?destroy⟩
  case rwb =>
    obtain ⟨u, hu, hregions, hspad, hthreads, rfl⟩ := range_acts hrwb hb hv hn hparts haway physBack_step
    exact ⟨_, hu, hregions, hspad, hthreads, fun q hq line hl => physBacks_clean hq s1 _ hl⟩
  case rinv =>
    obtain ⟨u, hu, hregions, hspad, hthreads, rfl⟩ := range_acts hrinv hb hv hn hparts haway physDrop_step
    exact ⟨_, hu, hregions, hspad, hthreads, fun q hq line hl hm => physDrops_gone hq s1 _ hl hm⟩
  case destroy =>
    obtain ⟨t, ht, hremoved⟩ := regionDestroy_removes hcid hkey hform hctx hold hlost hlive hpieces ⟨hst, hshares⟩
    exact ⟨t, tkcmdDestroy_answers hdw hal hhole hpl hk ht, hremoved⟩

end Sys2Proof.Machine
end

section
/-! SUPPORT. The canonical form of memory as an invariant. -/

namespace Sys2Proof.Machine

/-! ## Canonical memory -/

/-- Home memory, scratchpad and host memory have their canonical form. -/
def State.Canon (s : State) : Prop := s.memWf = true

theorem State.canon_iff (s : State) : s.Canon ↔ Memory.wf s.mem = true ∧ Memory.wf s.spad = true ∧ Memory.wf s.hostMem = true := by
  simp only [State.Canon, State.memWf, Bool.and_eq_true, and_assoc]

/-- An update of other fields keeps the form. -/
theorem State.Canon.upd {s t : State} (h : s.Canon) (e : (t.mem, t.spad, t.hostMem) = (s.mem, s.spad, s.hostMem)) : t.Canon := by
  simp only [Prod.mk.injEq] at e
  obtain ⟨hm, hp, hh⟩ := e
  rw [State.canon_iff, hm, hp, hh, ← State.canon_iff]
  exact h

/-- What only changes home memory keeps the form. -/
theorem State.Canon.step {s t : State} (h : s.Canon) (k : MemStep s t) : t.Canon := by
  obtain ⟨hm, hs, hh⟩ := (State.canon_iff s).1 h
  obtain ⟨only, keeps⟩ := k
  rw [State.canon_iff]
  exact ⟨keeps hm, by rw [only]; exact hs, by rw [only]; exact hh⟩

/-- What only changes the translation caches keeps the form. -/
theorem State.Canon.tlb {s t : State} (h : s.Canon) (k : TlbOnly s t) : t.Canon := by rw [k]; exact h.upd rfl

theorem State.Canon.of_eq {α : Type} {x : α × State} {a : α} {t : State} (h : x.2.Canon) (e : x = (a, t)) : t.Canon := by rw [e] at h; exact h

theorem State.Canon.setMem {s : State} (h : s.Canon) (a : Nat) (bs : List Byte) : { s with mem := s.mem.setRange a bs }.Canon := by
  rw [State.canon_iff] at h ⊢
  exact ⟨Tab.wf_setRange bs _ a h.1, h.2⟩

theorem State.Canon.filterSpad {s : State} (h : s.Canon) (p : Nat × Byte → Bool) : { s with spad := s.spad.filter p }.Canon := by
  rw [State.canon_iff] at h ⊢
  exact ⟨h.1, Tab.wf_filter p _ h.2.1, h.2.2⟩

/-- A fold keeps what each of its rounds keeps. -/
theorem foldl_all {α β : Type} {P : β → Prop} {f : β → α → β} {l : List α} {b : β} (round : ∀ b a, P b → P (f b a)) (h : P b) : P (l.foldl f b) :=
  List.foldlRecOn l f h fun b hb a _ => round b a hb

theorem foldl_canon {α : Type} {f : State → α → State} {l : List α} {s : State} (round : ∀ s a, s.Canon → (f s a).Canon) (h : s.Canon) :
    (l.foldl f s).Canon := foldl_all round h

theorem ite_canon {p : Prop} [Decidable p] {s t : State} (hs : s.Canon) (ht : t.Canon) : (if p then s else t).Canon := by
  split
  · exact hs
  · exact ht

/-! ## Canonical answers -/

/-- What is answered satisfies `P`, and what stops it satisfies `E`. -/
def Answers {ε α : Type} (E : ε → Prop) (P : α → Prop) : Except ε α → Prop
  | .ok a => P a
  | .error x => E x

/-- The state that a word stops with has canonical memory. -/
def Exit.Canon : Exit → Prop
  | .trap _ s => s.Canon
  | .hold _ s => s.Canon

/-- The state answered, where there is one. -/
def Maybe {α : Type} (P : α → Prop) : Option α → Prop
  | some a => P a
  | none => True

/-- The next state has canonical memory. -/
def OutCanon : Out → Prop
  | .next s => s.Canon
  | _ => True

/-- The answer of a word: its exits have canonical memory. -/
abbrev WordCanon {α : Type} (P : α → Prop) : Except Exit α → Prop := Answers Exit.Canon P

/-- The answer of an access or of another part of the device: what stops it carries no state. -/
abbrev Yields {ε α : Type} (P : α → Prop) : Except ε α → Prop := Answers (fun _ => True) P

variable {ε α β : Type} {E : ε → Prop} {P : α → Prop} {Q : β → Prop}

theorem Answers.bind {x : Except ε α} {f : α → Except ε β} (h : Answers E P x) (k : ∀ a, P a → Answers E Q (f a)) : Answers E Q (x >>= f) := by
  cases x with
  | ok a => exact k a h
  | error e => exact h

theorem Answers.ite {p : Prop} [Decidable p] {x y : Except ε α} (hx : Answers E P x) (hy : Answers E P y) : Answers E P (if p then x else y) := by
  split
  · exact hx
  · exact hy

theorem Answers.map {x : Except ε α} {f : α → β} (h : Answers E P x) (k : ∀ a, P a → Q (f a)) : Answers E Q (x.map f) := by
  cases x with
  | ok a => exact k a h
  | error e => exact h

/-- A check that stops the word, or lets it go on. -/
theorem Answers.check {γ : Type} {p : Prop} [Decidable p] {x : Except ε γ} {y : Except ε β} (hx : Answers E (fun _ => True) x) (hy : Answers E Q y) :
    Answers E Q (if p then x >>= fun _ => y else y) := by
  split
  · exact hx.bind fun _ _ => hy
  · exact hy

theorem Answers.of_ok {x : Except ε α} {a : α} (h : Answers E P x) (e : x = .ok a) : P a := by rw [e] at h; exact h

theorem Answers.of_error {x : Except ε α} {a : ε} (h : Answers E P x) (e : x = .error a) : E a := by rw [e] at h; exact h

theorem OutCanon.ite {p : Prop} [Decidable p] {x y : Out} (hx : OutCanon x) (hy : OutCanon y) : OutCanon (if p then x else y) := by
  split
  · exact hx
  · exact hy

theorem Maybe.ite {p : Prop} [Decidable p] {x y : Option α} (hx : Maybe P x) (hy : Maybe P y) : Maybe P (if p then x else y) := by
  split
  · exact hx
  · exact hy

/-- Of an answer without a state nothing is asked. -/
theorem Yields.any {x : Except ε α} : Yields (fun _ => True) x := by cases x <;> trivial

theorem Maybe.of_some {x : Option α} {a : α} (h : Maybe P x) (e : x = some a) : P a := by rw [e] at h; exact h

theorem Answers.foldlM {f : β → α → Except ε β} {l : List α} {b : β} (round : ∀ b a, Q b → Answers E Q (f b a)) (h : Q b) : Answers E Q (l.foldlM f b) := by
  induction l generalizing b with
  | nil => exact h
  | cons a l ih => exact (round b a h).bind fun c hc => ih hc

theorem Maybe.foldlM {f : β → α → Option β} {l : List α} {b : β} (round : ∀ b a, Q b → Maybe Q (f b a)) (h : Q b) : Maybe Q (l.foldlM f b) := by
  induction l generalizing b with
  | nil => exact h
  | cons a l ih =>
    simp only [List.foldlM_cons]
    cases hx : f b a with
    | none => trivial
    | some c => exact ih ((round b a h).of_some hx)

/-- An access changes the translation caches alone. -/
theorem Yields.of_tlb {s : State} {x : Except ε (α × State)} (hs : s.Canon) (k : ∀ {a t}, x = .ok (a, t) → TlbOnly s t) : Yields (fun r => r.2.Canon) x := by
  rcases x with _ | ⟨a, t⟩
  · trivial
  · exact hs.tlb (k rfl)

/-! ## Home memory, caches and translation -/

section
variable {s : State}

theorem homeWrite_canon {cid pa : Nat} {bs : List Byte} (hs : s.Canon) : (s.homeWrite cid pa bs).Canon := hs.step (homeWrite_step ..)

theorem homeWriteDword_canon {cid pa : Nat} {v : Dword} (hs : s.Canon) : (s.homeWriteDword cid pa v).Canon := hs.step (homeWriteDword_step ..)

theorem writeBack_canon {d line : Nat} {sel : BitVec 128} (hs : s.Canon) : (s.writeBack d line sel).Canon := hs.step (writeBack_step ..)

theorem dropLine_canon {d line : Nat} (hs : s.Canon) : (s.dropLine d line).Canon := hs.step (dropLine_step ..)

theorem rdcRoom_canon {d line : Nat} (hs : s.Canon) : (s.rdcRoom d line).Canon := hs.step (rdcRoom_step ..)

theorem fillLine_canon {d line : Nat} (hs : s.Canon) : (s.fillLine d line).Canon := hs.step (fillLine_step ..)

theorem rdcWrite_canon {d cid t pa : Nat} {bs : List Byte} (hs : s.Canon) : (s.rdcWrite d cid t pa bs).Canon := hs.step (rdcWrite_step ..)

theorem performPosted_canon {p : Posted} (hs : s.Canon) : (s.performPosted p).Canon := hs.step (performPosted_step ..)

theorem drainPosted_canon {sel : Posted → Bool} (hs : s.Canon) : (s.drainPosted sel).Canon := hs.step (drainPosted_step ..)

theorem drainOverlap_canon {t : Option Nat} {a : Acc} (hs : s.Canon) : (s.drainOverlap t a).Canon := hs.step (drainOverlap_step ..)

theorem drainThread_canon {t : Nat} (hs : s.Canon) : (s.drainThread t).Canon := hs.step (drainThread_step ..)

theorem storeAcc_canon {w : Issuer} {a : Acc} {bs : List Byte} (hs : s.Canon) : (s.storeAcc w a bs).Canon := hs.step (storeAcc_step ..)

theorem storeAccs_canon {w : Issuer} {as : List Acc} {bs : List Byte} (hs : s.Canon) : (s.storeAccs w as bs).Canon := hs.step (storeAccs_step ..)

theorem storeHome_canon {w : Issuer} {a : Acc} {bs : List Byte} (hs : s.Canon) : (s.storeHome w a bs).Canon := hs.step (storeHome_step ..)

theorem domainRelease_canon {die cid : Nat} (hs : s.Canon) : (s.domainRelease die cid).Canon := hs.step (domainRelease_step ..)

theorem domainAcquire_canon {die cid : Nat} (hs : s.Canon) : (s.domainAcquire die cid).Canon := hs.step (domainAcquire_step ..)

theorem storePieces_canon {w : Issuer} {ps : List Piece3} {v : Nat} (hs : s.Canon) : (s.storePieces w ps v).Canon := hs.step (storePieces_step ..)

theorem rdcRead_canon {d pa n : Nat} (hs : s.Canon) : (s.rdcRead d pa n).2.Canon := hs.step (rdcRead_step ..)

theorem loadAcc_canon {w : Issuer} {a : Acc} (hs : s.Canon) : (s.loadAcc w a).2.Canon := hs.step (loadAcc_step ..)

theorem loadAccs_canon {w : Issuer} {as : List Acc} (hs : s.Canon) : (s.loadAccs w as).2.Canon := hs.step (loadAccs_step ..)

theorem loadHome_canon {w : Issuer} {a : Acc} (hs : s.Canon) : (s.loadHome w a).2.Canon := hs.step (loadHome_step ..)

theorem loadPieces_canon {w : Issuer} {ps : List Piece3} (hs : s.Canon) : (s.loadPieces w ps).2.Canon := hs.step (loadPieces_step ..)

theorem translate_canon {at_ cid va n : Nat} {write : Bool} (hs : s.Canon) :
    Yields (fun r => r.2.Canon) (s.translate at_ cid va n write) := .of_tlb hs translate_tlb

theorem accessLin_canon {w : Issuer} {va n : Nat} {write : Bool} {ord : Nat} (hs : s.Canon) :
    Yields (fun r => r.2.Canon) (s.accessLin w va n write ord) := .of_tlb hs accessLin_tlb

theorem directory_canon {at_ cid tid : Nat} {write : Bool} (hs : s.Canon) :
    Yields (fun r => r.2.Canon) (s.directory at_ cid tid write) := .of_tlb hs directory_tlb

theorem translateTile_canon {at_ cid tid k off n : Nat} {e0 e1 : Dword} {write : Bool} (hs : s.Canon) :
    Yields (fun r => r.2.Canon) (s.translateTile at_ cid tid k off n e0 e1 write) := .of_tlb hs translateTile_tlb

theorem reachTile_canon {w : Issuer} {tid k off n span : Nat} {write : Bool} {ord : Nat} (hs : s.Canon) :
    Yields (fun r => r.2.Canon) (s.reachTile w tid k off n span write ord) := .of_tlb hs reachTile_tlb

theorem accessTile_canon {w : Issuer} {tid k off n span : Nat} {write : Bool} {ord : Nat} (hs : s.Canon) :
    Yields (fun r => r.2.Canon) (s.accessTile w tid k off n span write ord) := .of_tlb hs accessTile_tlb

theorem reachPort_canon {w : Issuer} {p : Port} {n : Nat} {write : Bool} {ord : Nat} (hs : s.Canon) :
    Yields (fun r => r.2.Canon) (s.reachPort w p n write ord) := .of_tlb hs reachPort_tlb

theorem accessPort_canon {w : Issuer} {p : Port} {n : Nat} {write : Bool} {ord : Nat} (hs : s.Canon) :
    Yields (fun r => r.2.Canon) (s.accessPort w p n write ord) := .of_tlb hs accessPort_tlb

theorem accessPieces_canon {w : Issuer} {write : Bool} {ord : Nat} {l : List (Port × Nat)} (hs : s.Canon) :
    Yields (fun r => r.2.Canon) (s.accessPieces w write ord l) := .of_tlb hs accessPieces_tlb

theorem translateParts_canon {at_ cid : Nat} {write : Bool} {ord : Nat} {l : List (Nat × Nat)} (hs : s.Canon) :
    Yields (fun r => r.2.Canon) (translateParts at_ cid write ord l s) := .of_tlb hs (translateParts_tlb l)

theorem reachPieces_canon {w : Issuer} {write : Bool} {ord : Nat} {l : List ((Port × Nat) × Nat)} (hs : s.Canon) :
    Yields (fun r => r.2.Canon) (s.reachPieces w write ord l) := .of_tlb hs (reachPieces_tlb l)

theorem checked_canon {w : Issuer} {write : Bool} {as : List Acc} (hs : s.Canon) : Yields (fun r => r.2.Canon) (s.checked w write as) :=
  .of_tlb hs fun h => (checked_same h).2 ▸ TlbOnly.refl _

theorem tlbHold_canon {at_ cid : Nat} {key : TlbKey} {e0 e1 : Dword} (hs : s.Canon) : (s.tlbHold at_ cid key e0 e1).Canon := hs.tlb (tlbHold_tlb ..)

/-! ## Scratchpad and host memory -/

theorem spadWrite_canon {c a : Nat} {bs : List Byte} (hs : s.Canon) : (s.spadWrite c a bs).Canon := by
  obtain ⟨hm, hp, hh⟩ := s.canon_iff.1 hs
  exact (State.canon_iff _).2 ⟨hm, (spadWrite_only s c a bs).2 hp, hh⟩

theorem hostWrite_canon {a : Nat} {bs : List Byte} (hs : s.Canon) : (s.hostWrite a bs).Canon := by
  obtain ⟨hm, hp, hh⟩ := s.canon_iff.1 hs
  exact (State.canon_iff _).2 ⟨hm, hp, (hostWrite_only s a bs).2 hh⟩

end

/-! ## How a word stops -/

section
variable {α : Type} {P : α → Prop} {s : State}

theorem MemStop.exit_canon {m : MemStop} (hs : s.Canon) : WordCanon P (m.exit s : Except Exit α) := by
  cases m <;> exact hs

theorem liftMem_canon {r : Except MemStop α} (hs : s.Canon) (h : Yields P r) : WordCanon P (liftMem s r) := by
  cases r with
  | ok a => exact h
  | error m => exact MemStop.exit_canon hs

theorem trapAt_canon {code : TrapCode} {estat addr : Dword} (hs : s.Canon) : WordCanon P (trapAt s code estat addr : Except Exit α) := hs

theorem holdAt_canon {w : Wait} (hs : s.Canon) : WordCanon P (holdAt s w : Except Exit α) := hs

end

end Sys2Proof.Machine
end

section
/-! SUPPORT. What shared operations keep: canonical memory over links, scratchpad, events, atomics, the array and tokens. -/

namespace Sys2Proof.Machine

/-! ## The links and packets -/

theorem setDie_canon {s : State} {d : Nat} {f : Die → Die} (hs : s.Canon) : (s.setDie d f).Canon := hs.upd rfl

theorem setAnyPort_canon {s : State} {d p : Nat} {f : LinkPort → LinkPort} (hs : s.Canon) : (s.setAnyPort d p f).Canon :=
  ite_canon (hs.upd rfl) (ite_canon (hs.upd rfl) hs)

theorem bothEnds_canon {s : State} {d p : Nat} {f : LinkPort → LinkPort} (hs : s.Canon) :
    (s.bothEnds d p f).Canon := setAnyPort_canon (setAnyPort_canon hs)

theorem forward_canon {s : State} (hs : s.Canon) : s.forward.Canon := by
  unfold State.forward
  refine foldl_canon (fun s1 a hs1 => ?_) (hs.upd rfl)
  split
  · exact ite_canon (setAnyPort_canon hs1) (hs1.upd rfl)
  · exact hs1.upd rfl

theorem sendPacket_canon {s : State} {src dst : Nat} {use : PacketUse} (hs : s.Canon) : (s.sendPacket src dst use).Canon := forward_canon (hs.upd rfl)

theorem arrive_canon {s : State} {d : Nat} {k : Packet} (hs : s.Canon) : (s.arrive d k).Canon :=
  ite_canon (forward_canon (hs.upd rfl)) (ite_canon hs (hs.upd rfl))

theorem dropPackets_canon {s : State} {d : Nat} (hs : s.Canon) : (s.dropPackets d).Canon := forward_canon (hs.upd rfl)

/-! ## Reads at home -/

theorem readHome_canon {s : State} {w : Issuer} {a : Acc} (hs : s.Canon) : (s.readHome w a).2.Canon := drainOverlap_canon hs

theorem readsHome_canon {s : State} {w : Issuer} {l : List Acc} (hs : s.Canon) : (s.readsHome w l).2.Canon := by
  induction l generalizing s with
  | nil => exact hs
  | cons _ _ ih => exact ih (readHome_canon hs)

/-! ## The scratchpad -/

theorem modThr_canon {s : State} {t : Nat} {f : Thread → Thread} (hs : s.Canon) : (s.modThr t f).Canon := hs.upd rfl

theorem spadSetPoison_canon {s : State} {cluster a n : Nat} (hs : s.Canon) : (s.spadSetPoison cluster a n).Canon := hs.upd rfl

theorem spadAct_canon {s : State} {t : Nat} {e : Engine} {act : SpadAct} {a : Nat} {bs : List Byte} {lat : Nat} (hs : s.Canon) :
    (s.spadAct t e act a bs lat).Canon :=
  hs.upd rfl

theorem spadIssue_canon {s : State} {t : Nat} {e : Engine} {a : Nat} {bs : List Byte} {lat : Nat} (hs : s.Canon) : (s.spadIssue t e a bs lat).Canon :=
  spadAct_canon hs

theorem settlePending_canon {s : State} {cluster : Nat} {x : Engine × Nat} {a n : Nat} (hs : s.Canon) :
    (s.settlePending cluster x a n).Canon := hs.upd rfl

theorem spadLand_canon {s : State} {p : SPend} (hs : s.Canon) : (s.spadLand p).Canon := by
  unfold State.spadLand
  extract_lets later s1
  have hs1 : s1.Canon := foldl_canon (fun _ _ hs1 => spadWrite_canon hs1) (spadWrite_canon hs)
  exact hs1.upd rfl

theorem spadNow_canon {s : State} {t : Nat} {e : Engine} {cluster a : Nat} {bs : List Byte} (hs : s.Canon) : (s.spadNow t e cluster a bs).Canon :=
  spadLand_canon hs

theorem spadRead_canon {s : State} {t : Nat} {e : Engine} {a n : Nat} (hs : s.Canon) : WordCanon (fun _ => True) (s.spadRead t e a n) := by
  unfold State.spadRead
  split
  · exact holdAt_canon hs
  · dsimp only
    split
    · exact hs
    · exact trivial

theorem spadOperand_canon {s : State} {t : Nat} {e : Engine} {op : Dword} {z : Nat} {bad : TrapInfo} (hs : s.Canon) :
    WordCanon (fun _ => True) (s.spadOperand t e op z bad) := by
  unfold State.spadOperand
  split
  · exact .ite hs trivial
  · dsimp only
    split
    · exact hs
    · exact .ite hs (.ite (holdAt_canon hs) trivial)

/-! ## Events, reports and the log -/

theorem contribute_canon {s : State} {t rank : Nat} {reason : BitVec 8} {pc : TextAddr} (hs : s.Canon) : (s.contribute t rank reason pc).Canon :=
  modThr_canon hs

theorem taint_canon {s : State} {t : Nat} {e : Engine} {reason : BitVec 8} (hs : s.Canon) : (s.taint t e reason).Canon := contribute_canon hs

theorem readTaint_canon {s : State} {t : Nat} {e : Engine} {poison piece : Bool} (hs : s.Canon) : (s.readTaint t e poison piece).Canon :=
  ite_canon (taint_canon (ite_canon (taint_canon hs) hs)) (ite_canon (taint_canon hs) hs)

theorem diripoSend_canon {s : State} {port : Nat} (hs : s.Canon) : (s.diripoSend port).Canon := hs.upd rfl

theorem putEvent_canon {s : State} {port : Nat} {r : EvRec} (hs : s.Canon) : (s.putEvent port r).Canon := by
  unfold State.putEvent
  extract_lets p prod s1 s2
  have hs2 : s2.Canon := hostWrite_canon (hostWrite_canon hs)
  clear_value s2
  exact diripoSend_canon (hs2.upd rfl)

theorem holdOut_canon {s : State} {port : Nat} {w : PortWrite} (hs : s.Canon) : (s.holdOut port w).Canon := hs.upd rfl

theorem eventFor_canon {s : State} {port : Nat} {r : EvRec} {t : Option Nat} (hs : s.Canon) : (s.eventFor port r t).Canon :=
  ite_canon (putEvent_canon hs) (holdOut_canon hs)

theorem eventOn_canon {s : State} {port : Nat} {r : EvRec} (hs : s.Canon) : (s.eventOn port r).Canon := eventFor_canon hs

theorem flushOut_canon {port : Nat} (l : List PortWrite) : ∀ {s : State}, s.Canon → (flushOut port l s).Canon := by
  induction l with
  | nil => exact fun hs => hs
  | cons w rest ih =>
    intro s hs
    cases w with
    | report q a v =>
      refine ih ?_
      split
      · exact diripoSend_canon (hostWrite_canon hs)
      · exact holdOut_canon hs
    | event r t =>
      refine ih ?_
      split
      · exact putEvent_canon hs
      · exact holdOut_canon hs

theorem report_canon {s : State} {q : Nat} (hs : s.Canon) : (s.report q).Canon := ite_canon (diripoSend_canon (hostWrite_canon hs)) (holdOut_canon hs)

theorem flushPort_canon {s : State} {port : Nat} (hs : s.Canon) : (s.flushPort port).Canon := ite_canon hs (flushOut_canon _ (hs.upd rfl))

theorem threadEvent_canon {s : State} {t cid : Nat} {r : EvRec} (hs : s.Canon) : (s.threadEvent t cid r).Canon := eventFor_canon hs

theorem event_canon {s : State} {cid : Nat} {r : EvRec} (hs : s.Canon) : (s.event cid r).Canon := eventOn_canon hs

theorem log_canon {s : State} {d : Nat} {r : LogRec} (hs : s.Canon) :
    (s.log d r).Canon := ite_canon (setDie_canon hs) (setDie_canon (homeWrite_canon hs))

/-! ## Atomics -/

theorem spadAtom_canon {s : State} {p : SPend} {op size v c : Nat} (hs : s.Canon) :
    (s.spadAtom p op size v c).1.Canon := ite_canon (spadLand_canon hs) hs

theorem giveAtom_canon {s : State} {t old : Nat} {bad : Bool} (hs : s.Canon) : (s.giveAtom t old bad).Canon :=
  ite_canon hs (modThr_canon (readTaint_canon hs))

theorem endAtomo_canon {s : State} {a : Atomo} {i : TrapInfo} (hs : s.Canon) : (s.endAtomo a i).Canon := modThr_canon hs

theorem performAtomo_canon {s : State} {a : Atomo} (hs : s.Canon) : (s.performAtomo a).Canon := by
  unfold State.performAtomo
  split
  · split
    · exact settlePending_canon (endAtomo_canon hs)
    · exact settlePending_canon (giveAtom_canon (spadAtom_canon hs))
  · exact giveAtom_canon (ite_canon (homeWrite_canon hs) hs)

theorem drainLine_canon {line fuel : Nat} {s : State} {x : AtomLine} {x1 : Bool} (hs : s.Canon) : (drainLine line fuel s x x1).1.Canon := by
  induction fuel generalizing s x x1 with
  | zero => exact hs
  | succ _ ih =>
    unfold drainLine
    split
    · exact hs
    · exact ih (performAtomo_canon (hs.upd rfl))

theorem failAtomo_canon {s : State} {a : Atomo} {cause : Nat} (hs : s.Canon) : (s.failAtomo a cause).Canon :=
  endAtomo_canon (ite_canon (settlePending_canon hs) hs)

theorem freeLine_canon {s : State} {line : Nat} (hs : s.Canon) :
    (s.freeLine line).Canon := foldl_canon (fun _ _ hs1 => failAtomo_canon hs1) (hs.upd rfl)

theorem arriveAtomo_canon {s : State} {a : Atomo} (hs : s.Canon) : (s.arriveAtomo a).Canon := by
  unfold State.arriveAtomo
  dsimp only
  split
  · exact hs.upd rfl
  · exact ite_canon (ite_canon (freeLine_canon (drainLine_canon (performAtomo_canon (hs.upd rfl))))
      (drainLine_canon (performAtomo_canon (hs.upd rfl)))) (ite_canon (failAtomo_canon (hs.upd rfl))
      (ite_canon (hs.upd rfl) (ite_canon (hs.upd rfl) (hs.upd rfl))))

theorem performPend_canon {s : State} {p : SPend} (hs : s.Canon) : (s.performPend p).Canon := by
  unfold State.performPend
  split
  · exact settlePending_canon (spadLand_canon hs)
  · split
    · exact settlePending_canon (modThr_canon hs)
    · exact settlePending_canon (giveAtom_canon (spadAtom_canon hs))
  · exact arriveAtomo_canon hs

theorem performDueFrom_canon {now : Nat} {l : List SPend} {s : State} (hs : s.Canon) : (performDueFrom now l s).Canon := by
  induction l generalizing s with
  | nil => exact hs
  | cons _ _ ih => exact ite_canon (ih (performPend_canon (hs.upd rfl))) hs

theorem performDue_canon {s : State} (hs : s.Canon) : s.performDue.Canon := by
  unfold State.performDue
  extract_lets still go s1
  have hs1 : s1.Canon := performDueFrom_canon (hs.upd rfl)
  exact hs1.upd rfl

/-! ## The array -/

theorem arrayTrap_canon {s : State} {t : Nat} {i : TrapInfo} (hs : s.Canon) : (s.arrayTrap t i).Canon := modThr_canon hs

theorem releaseHandles_canon {s : State} {cluster : Nat} {hs : List Nat} (hc : s.Canon) : (s.releaseHandles cluster hs).Canon := hc.upd rfl

theorem noteReplay_canon {s : State} {t : Nat} (hs : s.Canon) : (s.noteReplay t).Canon := log_canon (contribute_canon hs)

theorem replayed_canon {s : State} {t k : Nat} {tile : Tile} (hs : s.Canon) : (s.replayed t k tile).Canon := noteReplay_canon (modThr_canon hs)

theorem consumeError_canon {s : State} {t : Nat} {b : Batch} {c : MatCmd} {fail : State → State} (hf : ∀ s, s.Canon → (fail s).Canon) (hs : s.Canon) :
    (s.consumeError t b c fail).Canon := by
  unfold State.consumeError
  split
  · exact modThr_canon hs
  · exact hf s hs

theorem failError_canon {s : State} {t : Nat} {b : Batch} {c : MatCmd} (hs : s.Canon) : (s.failError t b c).Canon :=
  arrayTrap_canon (log_canon (contribute_canon hs))

theorem retireCmd_canon {s : State} {t : Nat} {b : Batch} {c : MatCmd} {rd : TileSrc} (hs : s.Canon) : (s.retireCmd t b c rd).Canon :=
  ite_canon (releaseHandles_canon (modThr_canon (ite_canon (noteReplay_canon hs) hs))) (modThr_canon (ite_canon (noteReplay_canon hs) hs))

theorem scaleFails_canon {s : State} {t : Nat} {b : Batch} {c : MatCmd} {x : BadScale} (hs : s.Canon) : (s.scaleFails t b c x).Canon :=
  ite_canon (consumeError_canon (fun _ hs1 => arrayTrap_canon (ite_canon (log_canon (ite_canon (contribute_canon hs1) hs1))
    (ite_canon (contribute_canon hs1) hs1))) hs) (arrayTrap_canon (ite_canon (log_canon (ite_canon (contribute_canon hs) hs))
    (ite_canon (contribute_canon hs) hs)))

theorem arrayRead_canon {s : State} {t : Nat} {r : Nat × Nat × Nat} (hs : s.Canon) : Yields State.Canon (s.arrayRead t r) := by
  unfold State.arrayRead
  dsimp only
  split
  · exact trivial
  · exact .ite trivial hs

theorem arrayReads_canon {s : State} {t : Nat} {l : List (Nat × Nat × Nat)} (hs : s.Canon) : Yields State.Canon (s.arrayReads t l) := by
  induction l generalizing s with
  | nil => exact hs
  | cons _ _ ih =>
    unfold State.arrayReads
    split
    · exact trivial
    next s1 hx =>
      have hs1 : s1.Canon := (arrayRead_canon hs).of_ok hx
      exact ih hs1

theorem nextClock_canon {s : State} {t : Nat} {b : Batch} {c : MatCmd} (hs : s.Canon) : (s.nextClock t b c).Canon := by
  unfold State.nextClock
  split
  · exact scaleFails_canon hs
  · exact ite_canon (retireCmd_canon hs) (modThr_canon hs)

theorem arrayClock_canon {s : State} {t : Nat} (hs : s.Canon) : (s.arrayClock t).Canon := by
  unfold State.arrayClock
  split
  · exact hs
  · split
    · exact hs
    · split
      · exact arrayTrap_canon hs
      · exact consumeError_canon (fun _ hs1 => failError_canon hs1) hs
      next s1 hx =>
        have hs1 : s1.Canon := (arrayReads_canon hs).of_ok hx
        split
        · exact ite_canon (modThr_canon hs1) hs1
        · split
          · exact nextClock_canon hs1
          · exact hs1

theorem arrayStart_canon {s : State} {t : Nat} (hs : s.Canon) : (s.arrayStart t).Canon := by
  unfold State.arrayStart
  split
  · exact hs
  · split
    · exact modThr_canon hs
    · split
      · exact modThr_canon hs
      · exact failError_canon hs

theorem arrayHalt_canon {s : State} {t : Nat} (hs : s.Canon) : (s.arrayHalt t).Canon := by
  unfold State.arrayHalt
  split
  · exact modThr_canon hs
  · exact modThr_canon (ite_canon (modThr_canon hs) hs)

theorem moveClock_canon {s : State} {t : Nat} (hs : s.Canon) : (s.moveClock t).Canon := by
  unfold State.moveClock
  dsimp only
  split
  · exact hs
  · split
    · exact hs
    · split
      · split
        · exact hs
        · split
          · exact arrayHalt_canon (modThr_canon hs)
          · exact modThr_canon (ite_canon (taint_canon hs) hs)
      · exact modThr_canon (spadIssue_canon hs)

theorem matClock_canon {s : State} (hs : s.Canon) : s.matClock.Canon :=
  foldl_canon (fun _ _ hs1 => ite_canon hs1 (moveClock_canon (arrayClock_canon (ite_canon (arrayStart_canon hs1) hs1)))) hs

/-! ## Tokens -/

theorem cacheBack_canon {s : State} {xs : List Extent} {key base top d : Nat} (hs : s.Canon) : (s.cacheBack xs key base top d).Canon :=
  foldl_canon (fun _ _ hs1 => writeBack_canon hs1) hs

theorem cacheDrop_canon {s : State} {xs : List Extent} {key base top d : Nat} (hs : s.Canon) : (s.cacheDrop xs key base top d).Canon := by
  unfold State.cacheDrop
  refine foldl_canon (fun s1 a hs1 => ?_) hs
  extract_lets m s2
  have hs2 : s2.Canon := writeBack_canon hs1
  exact ite_canon hs1 (hs2.upd rfl)

theorem moveCaches_canon {s : State} {key : Nat} {p : Piece} {old new : Party} (hs : s.Canon) : (s.moveCaches key p old new).Canon :=
  ite_canon (drainPosted_canon hs) (foldl_canon (fun _ _ hs1 => cacheDrop_canon hs1)
    (foldl_canon (fun _ _ hs1 => cacheBack_canon hs1) (drainPosted_canon hs)))

theorem setPiece_canon {s : State} {key base : Nat} {f : Piece → Piece} (hs : s.Canon) : (s.setPiece key base f).Canon := hs.upd rfl

theorem giveBack_canon {s : State} {key : Nat} {p : Piece} (hs : s.Canon) : (s.giveBack key p).Canon := setPiece_canon (moveCaches_canon hs)

theorem unshare_canon {s : State} {key : Nat} {p : Piece} {f : Party → Bool} (hs : s.Canon) : (s.unshare key p f).Canon := by
  unfold State.unshare
  split
  · exact hs
  · exact setPiece_canon (ite_canon (drainPosted_canon hs) (foldl_canon (fun _ _ hs1 => cacheDrop_canon hs1) (drainPosted_canon hs)))

theorem giveBackAll_canon {s : State} {n x key base fuel : Nat} (hs : s.Canon) : (s.giveBackAll n x key base fuel).Canon := by
  induction fuel generalizing s with
  | zero => exact hs
  | succ _ ih =>
    unfold State.giveBackAll
    split
    · exact hs
    · exact ite_canon (ih (giveBack_canon hs)) hs

theorem unshareAll_canon {s : State} {n x key base fuel : Nat} (hs : s.Canon) : (s.unshareAll n x key base fuel).Canon := by
  induction fuel generalizing s with
  | zero => exact hs
  | succ _ ih =>
    unfold State.unshareAll
    split
    · exact hs
    · exact ite_canon (ih (unshare_canon hs)) hs

theorem tokensOfEnd_canon {s : State} {n x : Nat} (hs : s.Canon) : (s.tokensOfEnd n x).Canon := by
  unfold State.tokensOfEnd
  extract_lets s1 s2
  have hs1 : s1.Canon := foldl_canon (fun _ _ hs1 => unshareAll_canon hs1) hs
  have hs2 : s2.Canon := foldl_canon (fun _ _ hs2 => giveBackAll_canon hs2) hs1
  exact ite_canon (hs2.upd rfl) hs2

theorem settleOwed_canon {s : State} (hs : s.Canon) : s.settleOwed.Canon := foldl_canon (fun _ _ hs1 => tokensOfEnd_canon hs1) (hs.upd rfl)

theorem loseParties_canon {s : State} {gone : Party → Bool} (hs : s.Canon) : (s.loseParties gone).Canon := hs.upd rfl

theorem loseThread_canon {s : State} {n x : Nat} (hs : s.Canon) : (s.loseThread n x).Canon := loseParties_canon hs

theorem keepCopy_canon {s : State} {key : Nat} (hs : s.Canon) : (s.keepCopy key).Canon := hs.upd rfl

theorem removeRegion_canon {s : State} {key : Nat} (hs : s.Canon) : (s.removeRegion key).Canon := hs.upd rfl

theorem loseHome_canon {s : State} {d : Nat} (hs : s.Canon) : (s.loseHome d).Canon := hs.upd rfl

theorem rebuildRegions_canon {s : State} {d : Nat} (hs : s.Canon) : (s.rebuildRegions d).Canon :=
  foldl_canon (fun _ _ hs1 => ite_canon (log_canon (removeRegion_canon hs1)) (ite_canon (ite_canon (hs1.upd rfl) (removeRegion_canon hs1)) hs1)) hs

end Sys2Proof.Machine
end

section
/-! SUPPORT. What ends keep: canonical memory over tasks, ends of threads and nodes, and traps. -/

namespace Sys2Proof.Machine

/-! ## Tasks -/

theorem setHandle_canon {s : State} {cluster h : Nat} {f : Handle → Handle} (hs : s.Canon) : (s.setHandle cluster h f).Canon := hs.upd rfl

theorem setTask_canon {s : State} {k : Nat} {f : Task → Task} (hs : s.Canon) : (s.setTask k f).Canon := hs.upd rfl

theorem dropTask_canon {s : State} {k : Nat} (hs : s.Canon) : (s.dropTask k).Canon := hs.upd rfl

theorem settle_canon {s : State} {t j : Nat} {st : SbSt} (hs : s.Canon) : (s.settle t j st).Canon := modThr_canon hs

theorem rebound_canon {s : State} {cluster h : Nat} (hs : s.Canon) : (s.rebound cluster h).Canon := hs.upd rfl

theorem bindHandle_canon {s : State} {cluster h gang base len : Nat} (hs : s.Canon) : (s.bindHandle cluster h gang base len).Canon :=
  setHandle_canon (rebound_canon hs)

theorem endHandle_canon {s : State} {cluster h : Nat} {st : HandleSt} (hs : s.Canon) : (s.endHandle cluster h st).Canon := setHandle_canon hs

theorem writePark_canon {s : State} {d : Nat} {d0 d1 d2 : Dword} (hs : s.Canon) : Maybe State.Canon (s.writePark d d0 d1 d2) :=
  .ite trivial (setDie_canon (homeWrite_canon hs))

theorem parkRecord_canon {s : State} {d : Nat} {w : ParkWait} (hs : s.Canon) : (s.parkRecord d w).2.Canon := by
  unfold State.parkRecord
  split
  next s1 hx =>
    have hs1 : s1.Canon := (writePark_canon hs).of_some hx
    exact event_canon hs1
  · exact ite_canon (log_canon (hs.upd rfl)) (hs.upd rfl)

theorem settleTask_canon {s : State} {x : Task} {st : SbSt} (hs : s.Canon) : (s.settleTask x st).Canon := ite_canon (settle_canon hs) hs

theorem markParked_canon {s : State} {k t : Nat} (hs : s.Canon) : (s.markParked k t).Canon := by
  unfold State.markParked
  dsimp only
  split
  · exact foldl_canon (fun _ _ hs1 => ite_canon (endHandle_canon (settle_canon hs1)) hs1) (setTask_canon hs)
  · split
    · exact endHandle_canon (settleTask_canon (setTask_canon hs))
    · exact settleTask_canon (setTask_canon hs)

theorem parkTask_canon {s : State} {k t : Nat} {e : Engine} {i : TrapInfo} {home : Option Nat} (hs : s.Canon) : (s.parkTask k t e i home).Canon := by
  unfold State.parkTask
  dsimp only
  split
  next s1 hx =>
    have hs1 : s1.Canon := .of_eq (parkRecord_canon (setTask_canon hs)) hx
    exact markParked_canon hs1
  next s1 hx =>
    have hs1 : s1.Canon := .of_eq (parkRecord_canon (setTask_canon hs)) hx
    exact hs1

theorem retryParks_canon {s : State} {d : Nat} (hs : s.Canon) : (s.retryParks d).Canon := by
  unfold State.retryParks
  refine foldl_canon (fun s1 a hs1 => ?_) hs
  split
  · exact hs1
  · split
    · exact hs1
    next s2 hx =>
      have hs2 : s2.Canon := (writePark_canon hs1).of_some hx
      split
      · exact markParked_canon (event_canon (hs2.upd rfl))
      · exact event_canon (hs2.upd rfl)

theorem doneTask_canon {s : State} {k : Nat} (hs : s.Canon) : (s.doneTask k).Canon := dropTask_canon (settleTask_canon hs)

theorem stopTask_canon {s : State} {k : Nat} {st : SbSt} (hs : s.Canon) : (s.stopTask k st).Canon := by
  unfold State.stopTask
  refine dropTask_canon (settleTask_canon ?_)
  split
  · exact endHandle_canon hs
  · exact hs

theorem failTaint_canon {s : State} {k : Nat} {e : Engine} {reason : BitVec 8} (hs : s.Canon) : (s.failTaint k e reason).Canon :=
  taint_canon (stopTask_canon hs)

theorem everySlot_canon {s : State} {cid slot : Nat} {f : LSlot → LSlot} (hs : s.Canon) : (s.everySlot cid slot f).Canon := hs.upd rfl

theorem memberAbort_canon {s : State} {m : CollMember} {reason : BitVec 8} {asker : Option Nat} (hs : s.Canon) :
    (s.memberAbort m reason asker).Canon :=
  taint_canon (settle_canon (endHandle_canon hs))

theorem collAbort_canon {s : State} {k : Nat} {reason : BitVec 8} {asker : Option Nat} (hs : s.Canon) : (s.collAbort k reason asker).Canon := by
  unfold State.collAbort
  dsimp only
  split
  · exact ite_canon hs (ite_canon (dropTask_canon (foldl_canon (fun _ _ hs1 => memberAbort_canon hs1) hs))
      (setTask_canon (dropTask_canon (foldl_canon (fun _ _ hs1 => memberAbort_canon hs1) hs))))
  · exact hs

theorem writeStatus_canon {s : State} {die cid slot at_ v : Nat} (hs : s.Canon) : Maybe State.Canon (s.writeStatus die cid slot at_ v) := by
  unfold State.writeStatus
  split
  · exact hs
  · split
    next s1 hx =>
      have hs1 : s1.Canon := (accessLin_canon hs).of_ok hx
      exact domainRelease_canon (storeAccs_canon hs1)
    · exact trivial
    · exact log_canon hs

theorem noteDone_canon {s : State} {cid : Nat} {note : Option EvRec} (hs : s.Canon) : (s.noteDone cid note).Canon := by
  unfold State.noteDone
  split
  · exact event_canon hs
  · exact hs

theorem endBehalf_canon {s : State} {die : Nat} {r : Reshard} {v : Nat} (hs : s.Canon) : (s.endBehalf die r v).Canon := by
  unfold State.endBehalf
  split
  next s1 hx =>
    have hs1 : s1.Canon := (writeStatus_canon hs).of_some hx
    exact noteDone_canon hs1
  · exact hs.upd rfl

theorem reshardAbort_canon {s : State} {k : Nat} {reason : BitVec 8} {asker : Option Nat} (hs : s.Canon) : (s.reshardAbort k reason asker).Canon := by
  unfold State.reshardAbort
  dsimp only
  split
  · exact dropTask_canon (ite_canon (taint_canon (settle_canon (everySlot_canon hs))) (endBehalf_canon (everySlot_canon hs)))
  · exact hs

theorem setBlockState_canon {s : State} {e : KtmEnt} {st : Nat} (hs : s.Canon) : (s.setBlockState e st).Canon := homeWriteDword_canon hs

theorem undoCompact_canon {s : State} {e : KtmEnt} {st : Nat} (hs : s.Canon) : (s.undoCompact e st).Canon := ite_canon hs (setBlockState_canon hs)

theorem sieveRestore_canon {s : State} {v : Sieve} (hs : s.Canon) : (s.sieveRestore v).Canon := foldl_canon (fun _ _ hs1 => undoCompact_canon hs1) hs

theorem sieveRecord_canon {s : State} {t at_ : Nat} {d0 d1 : Dword} (hs : s.Canon) : (s.sieveRecord t at_ d0 d1).Canon := by
  unfold State.sieveRecord
  dsimp only
  split
  next s1 hx =>
    have hs1 : s1.Canon := (accessLin_canon (domainRelease_canon (drainThread_canon hs))).of_ok hx
    exact storeAccs_canon hs1
  · exact domainRelease_canon (drainThread_canon hs)

theorem abortTask_canon {s : State} {k t : Nat} {asked : Bool} (hs : s.Canon) : (s.abortTask k t asked).Canon := by
  unfold State.abortTask
  extract_lets x
  split
  · exact hs
  · exact stopTask_canon hs
  · exact stopTask_canon hs
  · exact stopTask_canon hs
  · exact ite_canon hs (stopTask_canon (sieveRecord_canon (sieveRestore_canon hs)))
  · exact collAbort_canon hs
  · exact reshardAbort_canon hs

theorem abortAll_canon {s : State} {t : Nat} {asked : Bool} {f : Engine → Bool} (hs : s.Canon) : (s.abortAll t asked f).Canon :=
  foldl_canon (fun _ _ hs1 => ite_canon (abortTask_canon hs1) hs1) hs

/-! ## Ends of threads, gangs and nodes -/

theorem modNode_canon {s : State} {n : Nat} {f : Node → Node} (hs : s.Canon) : (s.modNode n f).Canon := hs.upd rfl

theorem modGang_canon {s : State} {g : Nat} {f : Gang → Gang} (hs : s.Canon) : (s.modGang g f).Canon := hs.upd rfl

theorem checkStopped_canon {s : State} {cid : Nat} (hs : s.Canon) : (s.checkStopped cid).Canon := ite_canon (event_canon (hs.upd rfl)) hs

theorem freeArea_canon {s : State} {cid k : Nat} (hs : s.Canon) : (s.freeArea cid k).Canon := hs.upd rfl

theorem dropArea_canon {s : State} {t : Nat} (hs : s.Canon) : (s.dropArea t).Canon := by
  unfold State.dropArea
  dsimp only
  split
  · exact hs
  · exact ite_canon (modThr_canon hs) (freeArea_canon (modThr_canon hs))

theorem acquire_canon {s : State} {t : Nat} (hs : s.Canon) : (s.acquire t).Canon := domainAcquire_canon (modThr_canon hs)

theorem release_canon {s : State} {t : Nat} (hs : s.Canon) : (s.release t).Canon := domainRelease_canon (drainThread_canon hs)

theorem settleBarrier_canon {s : State} {g key : Nat} (hs : s.Canon) : (s.settleBarrier g key).Canon :=
  ite_canon (foldl_canon (fun _ _ hs1 => ite_canon (acquire_canon hs1) (modThr_canon hs1))
    (foldl_canon (fun _ _ hs1 => modThr_canon hs1) (modGang_canon hs))) hs

theorem settleBarriers_canon {s : State} {g : Nat} (hs : s.Canon) :
    (s.settleBarriers g).Canon := foldl_canon (fun _ _ hs1 => settleBarrier_canon hs1) hs

theorem sbarEffect_canon {s : State} {n : Nat} (hs : s.Canon) : (s.sbarEffect n).Canon := by
  unfold State.sbarEffect
  split
  · exact hs
  · refine ite_canon ?_ ?_
    · exact hs
    · extract_lets s1
      have hs1 : s1.Canon := drainThread_canon hs
      exact hs1.upd rfl

theorem sbarsOf_canon {t : Nat} (fuel : Nat) : ∀ {s : State}, s.Canon → (s.sbarsOf t fuel).Canon := by
  induction fuel with
  | zero => exact fun hs => hs
  | succ n ih =>
    intro s hs
    unfold State.sbarsOf
    split
    · exact ih (sbarEffect_canon hs)
    · exact hs

theorem loosenWork_canon {s : State} {ts : List Nat} (hs : s.Canon) : (s.loosenWork ts).Canon :=
  foldl_canon (fun _ _ hs1 => ite_canon (stopTask_canon hs1) (ite_canon (setTask_canon hs1) hs1)) hs

theorem retireGang_canon {s : State} {g : Nat} (hs : s.Canon) : (s.retireGang g).Canon := by
  unfold State.retireGang
  extract_lets x s1 rings s2 s3 s4
  have hs1 : s1.Canon := loosenWork_canon hs
  have hs2 : s2.Canon := hs1.upd rfl
  have hs3 : s3.Canon := ite_canon (freeArea_canon hs2) hs2
  have hs4 : s4.Canon := modGang_canon hs3
  exact checkStopped_canon (modNode_canon hs4)

theorem leave_canon {s : State} {t : Nat} (hs : s.Canon) : (s.leave t).Canon := by
  unfold State.leave
  extract_lets s1 th s2 s3 s4 s5 s6 s7
  have hs1 : s1.Canon := sbarsOf_canon _ hs
  have hs2 : s2.Canon := foldl_canon (fun _ _ hs2 => releaseHandles_canon hs2) hs1
  have hs3 : s3.Canon := dropArea_canon hs2
  have hs4 : s4.Canon := hs3.upd rfl
  have hs5 : s5.Canon := modNode_canon hs4
  have hs6 : s6.Canon := modThr_canon hs5
  have hs7 : s7.Canon := settleBarriers_canon hs6
  exact ite_canon (retireGang_canon hs7) hs7

theorem endThread_canon {s : State} {t : Nat} (hs : s.Canon) : (s.endThread t).Canon := by
  unfold State.endThread
  exact leave_canon (tokensOfEnd_canon (drainThread_canon hs))

theorem discardThread_canon {s : State} {t rank : Nat} {reason : BitVec 8} {lost : Bool} (hs : s.Canon) :
    (s.discardThread t rank reason lost).Canon :=
  ite_canon hs (leave_canon (ite_canon (loseThread_canon (abortAll_canon (contribute_canon (drainThread_canon hs))))
    (tokensOfEnd_canon (abortAll_canon (contribute_canon (drainThread_canon hs))))))

theorem loseGang_canon {s : State} {g : Nat} {reason : BitVec 8} (hs : s.Canon) : (s.loseGang g reason).Canon :=
  foldl_canon (fun _ _ hs1 => discardThread_canon hs1) hs

theorem readyNode_canon {s : State} {n : Nat} (hs : s.Canon) : (s.readyNode n).Canon := modNode_canon hs

theorem informNode_canon {s : State} {n pred : Nat} {bad : Bool} (hs : s.Canon) : (s.informNode n pred bad).Canon :=
  ite_canon (ite_canon (ite_canon (modNode_canon hs) (readyNode_canon hs)) (modNode_canon hs)) hs

theorem completeNode_canon {s : State} {n : Nat} (hs : s.Canon) : (s.completeNode n).Canon := by
  unfold State.completeNode
  extract_lets x die s1 s2 s3 s4
  have hs1 : s1.Canon := foldl_canon (fun _ _ hs1 => ite_canon (release_canon hs1) hs1) hs
  have hs2 : s2.Canon := by
    unfold s2
    split
    · exact hs1
    · split
      next s5 hx =>
        have hs2 : s5.Canon := (accessLin_canon hs1).of_ok hx
        exact domainRelease_canon (storeAccs_canon hs2)
      · exact log_canon hs1
  have hs3 : s3.Canon := modNode_canon hs2
  have hs4 : s4.Canon := foldl_canon (fun _ _ hs4 => informNode_canon hs4) hs3
  exact ite_canon (modNode_canon hs) (ite_canon (event_canon hs4) hs4)

theorem stopNode_canon {s : State} {n verdict : Nat} {reason : BitVec 8} {place : Option Nat} (hs : s.Canon) :
    (s.stopNode n verdict reason place).Canon := by
  unfold State.stopNode
  split
  · split
    · exact ite_canon (modNode_canon (foldl_canon (fun _ _ hs1 => ite_canon (discardThread_canon hs1) hs1) hs))
        (modNode_canon (modNode_canon (foldl_canon (fun _ _ hs1 => ite_canon (discardThread_canon hs1) hs1) hs)))
    · exact modNode_canon (modNode_canon (foldl_canon (fun _ _ hs1 => ite_canon (discardThread_canon hs1) hs1) hs))
  · split
    · exact ite_canon (modNode_canon (foldl_canon (fun _ _ hs1 => ite_canon (discardThread_canon hs1) hs1) hs))
        (modNode_canon (modNode_canon (foldl_canon (fun _ _ hs1 => ite_canon (discardThread_canon hs1) hs1) hs)))
    · exact modNode_canon (modNode_canon (foldl_canon (fun _ _ hs1 => ite_canon (discardThread_canon hs1) hs1) hs))

theorem cancelNode_canon {s : State} {n : Nat} (hs : s.Canon) : (s.cancelNode n).Canon := by
  unfold State.cancelNode
  split
  · exact completeNode_canon (modNode_canon hs)
  · exact completeNode_canon (modNode_canon hs)
  · exact completeNode_canon (modNode_canon hs)
  · exact stopNode_canon hs
  · exact hs

theorem releaseNode_canon {s : State} {n : Nat} (hs : s.Canon) : (s.releaseNode n).Canon := ite_canon (readyNode_canon hs) hs

/-! ## Traps and the end of a word -/

theorem trapEvent_canon {s : State} {t : Nat} (hs : s.Canon) : (s.trapEvent t).Canon := threadEvent_canon hs

theorem recordToFrame_canon {s : State} {t : Nat} (hs : s.Canon) : (s.recordToFrame t).Canon := by
  unfold State.recordToFrame
  extract_lets th i
  split
  · exact modThr_canon hs
  · split
    · exact stopNode_canon hs
    · split
      next s1 hx =>
        have hs1 : s1.Canon := (accessLin_canon hs).of_ok hx
        extract_lets s2 s3
        have hs2 : s2.Canon := storeAccs_canon hs1
        have hs3 : s3.Canon := hs2.upd rfl
        exact trapEvent_canon (modThr_canon hs3)
      · split
        · exact stopNode_canon hs
        · exact modThr_canon hs

theorem takeSystem_canon {s : State} {t : Nat} {p : PendTrap} (hs : s.Canon) : (s.takeSystem t p).Canon := recordToFrame_canon (modThr_canon hs)

theorem takeUser_canon {s : State} {t : Nat} {p : PendTrap} (hs : s.Canon) : (s.takeUser t p).Canon := by
  unfold State.takeUser
  dsimp only
  split
  next s1 hx =>
    have hs1 : s1.Canon := (accessLin_canon hs).of_ok hx
    exact modThr_canon (storeAccs_canon hs1)
  · exact takeSystem_canon hs
  · exact hs

theorem finishAtom_canon {s : State} {t : Nat} (hs : s.Canon) : (s.finishAtom t).Canon := by
  unfold State.finishAtom
  dsimp only
  split
  · exact ite_canon (acquire_canon (modThr_canon (modThr_canon (modThr_canon hs)))) (modThr_canon (modThr_canon (modThr_canon (modThr_canon hs))))
  · exact modThr_canon (modThr_canon hs)
  · exact modThr_canon hs

theorem finishMove_canon {s : State} {t : Nat} (hs : s.Canon) : (s.finishMove t).Canon := ite_canon (modThr_canon hs) (ite_canon (modThr_canon hs) hs)

theorem takeTrap_canon {s : State} {t : Nat} (hs : s.Canon) : (s.takeTrap t).Canon := by
  unfold State.takeTrap
  refine ite_canon ?_ ?_
  · exact hs
  · dsimp only
    split
    · exact finishMove_canon hs
    · exact ite_canon (takeUser_canon (finishAtom_canon (finishMove_canon hs))) (takeSystem_canon (finishAtom_canon (finishMove_canon hs)))

theorem fillTrap_canon {s : State} {i : TrapInfo} (hs : s.Canon) : (s.fillTrap i).2.Canon := by
  unfold State.fillTrap
  split
  · exact hs.upd rfl
  · exact hs

theorem logTrap_canon {s : State} {t : Nat} {e : Engine} {i : TrapInfo} (hs : s.Canon) : (s.logTrap t e i).Canon := by
  unfold State.logTrap
  split
  · exact log_canon hs
  · exact hs

theorem raise_canon {s : State} {t : Nat} {e : Engine} {i : TrapInfo} (hs : s.Canon) : (s.raise t e i).Canon := by
  unfold State.raise
  split
  next s1 hx =>
    have hs1 : s1.Canon := .of_eq (fillTrap_canon hs) hx
    refine takeTrap_canon (arrayHalt_canon (modThr_canon ?_))
    split
    · exact logTrap_canon (taint_canon hs1)
    · exact hs1

theorem retire_canon {s : State} {e : Engine} {before : State} (hs : s.Canon) : (s.retire e before).Canon :=
  ite_canon (raise_canon (modThr_canon (modThr_canon hs))) (modThr_canon hs)

theorem holdWord_canon {s : State} {e : Engine} {w : Wait} (hs : s.Canon) : (s.holdWord e w).Canon := modThr_canon hs

theorem finish_canon {e : Engine} {s : State} {r : Except Exit State} (hr : WordCanon State.Canon r) : OutCanon (finish e s r) := by
  rcases r with (⟨i, s'⟩ | ⟨w, s'⟩) | s'
  · exact raise_canon hr
  · exact holdWord_canon hr
  · exact retire_canon hr

theorem deliver_canon {s : State} {t : Nat} (hs : s.Canon) : (s.deliver t).2.Canon := by
  unfold State.deliver
  extract_lets s1 th w first
  have hs1 : s1.Canon := modThr_canon hs
  clear_value s1 w
  split
  · exact hs1
  · split
    · dsimp only
      split
      · exact modThr_canon hs1
      · exact hs1
    · split
      · dsimp only
        exact raise_canon hs1
      · split
        · exact hs1
        · dsimp only
          exact modThr_canon hs1

/-! ## The deadlock watch -/

theorem breakDeadlock_canon {s : State} {t : Nat} (hs : s.Canon) : (s.breakDeadlock t).Canon := by
  unfold State.breakDeadlock
  dsimp only
  split
  · exact hs
  · split
    · exact hs
    · exact raise_canon hs

theorem tick_canon {s : State} (hs : s.Canon) : s.tick.Canon := by
  unfold State.tick
  extract_lets s1 s2
  have hs1 : s1.Canon := matClock_canon hs
  have hs2 : s2.Canon := settleOwed_canon (performDue_canon (hs1.upd rfl))
  exact foldl_canon (fun _ _ hs3 => ite_canon hs3 (breakDeadlock_canon (modThr_canon hs3))) hs2

end Sys2Proof.Machine
end

section
/-! SUPPORT. What SEQ and ADR keep: canonical memory over fetch, scalar words, accesses and atomics. -/

namespace Sys2Proof.Machine

/-! ## Fetch and SEQ -/

theorem modMe_canon {s : State} {f : Thread → Thread} (hs : s.Canon) : (s.modMe f).Canon := modThr_canon hs

theorem takeEntry_canon {s : State} {e : Engine} {op : BitVec 5} {obj : BitVec 32} (hs : s.Canon) :
    WordCanon (fun r => r.2.Canon) (takeEntry s e op obj) := by
  unfold takeEntry
  split
  · exact holdAt_canon hs
  · exact hs

theorem openTrap_canon {α : Type} {s : State} {code : TrapCode} {P : α → Prop} (hs : s.Canon) : WordCanon P (openTrap s code) := hs

theorem seqOp_canon {d : BitVec 6} {v : Thread → Dword} {s : State} (hs : s.Canon) : OutCanon (seqOp d v s) := finish_canon hs

theorem seqAlu_canon {f : Dword → Dword → Dword} {d a b : BitVec 6} {s : State} (hs : s.Canon) : OutCanon (seqAlu f d a b s) := seqOp_canon hs

theorem seqUna_canon {f : Dword → Dword} {d a : BitVec 6} {s : State} (hs : s.Canon) : OutCanon (seqUna f d a s) := seqOp_canon hs

theorem seqPred_canon {d : BitVec 4} {v : Thread → Bool} {s : State} (hs : s.Canon) : OutCanon (seqPred d v s) := finish_canon hs

theorem seqCmp_canon {f : Dword → Dword → Bool} {d : BitVec 4} {a b : BitVec 6} {s : State} (hs : s.Canon) :
    OutCanon (seqCmp f d a b s) := seqPred_canon hs

theorem seqCmpi_canon {f : Dword → Dword → Bool} {d : BitVec 4} {a : BitVec 6} {i : BitVec 9} {s : State} (hs : s.Canon) :
    OutCanon (seqCmpi f d a i s) :=
  seqPred_canon hs

theorem seqLog_canon {f : Bool → Bool → Bool} {d a b : BitVec 4} {s : State} (hs : s.Canon) : OutCanon (seqLog f d a b s) := seqPred_canon hs

theorem seqCheck_canon {s : State} {a : BitVec 6} {o : BitVec 9} {size : Nat} {write : Bool} (hs : s.Canon) :
    WordCanon (fun _ => True) (seqCheck s a o size write) :=
  .ite (MemStop.exit_canon hs) (.ite hs trivial)

theorem seqLoad_canon {size : Nat} {ext : Nat → Dword} {d a : BitVec 6} {o : BitVec 9} {s : State} (hs : s.Canon) :
    OutCanon (seqLoad size ext d a o s) :=
  finish_canon ((seqCheck_canon hs).bind fun _ _ => (liftMem_canon hs (accessLin_canon hs)).bind fun ⟨_, _⟩ hs1 =>
    modMe_canon (readTaint_canon (loadAccs_canon hs1)))

theorem seqStore_canon {size : Nat} {d a : BitVec 6} {o : BitVec 9} {s : State} (hs : s.Canon) : OutCanon (seqStore size d a o s) :=
  finish_canon ((seqCheck_canon hs).bind fun _ _ => (liftMem_canon hs (accessLin_canon hs)).bind fun ⟨_, _⟩ hs1 => storeAccs_canon hs1)

theorem seqLoop_canon {n : Thread → Dword} {body : BitVec 12} {st : BitVec 3} {rot : Bool} {s : State} (hs : s.Canon) :
    OutCanon (seqLoop n body st rot s) :=
  finish_canon (.ite (openTrap_canon hs) (.ite hs hs))

theorem seqPush_canon {s : State} {q : Nat} {v : Dword} (hs : s.Canon) : WordCanon State.Canon (seqPush s q v) := .ite (holdAt_canon hs) hs

theorem execPassBoundary_canon {t : Nat} {s : State} (hs : s.Canon) : OutCanon (execPassBoundary t s) := by
  unfold execPassBoundary
  split
  · exact .ite (modThr_canon hs) hs
  · exact hs

theorem execQpop_canon {d : BitVec 6} {q : BitVec 4} {s : State} (hs : s.Canon) : OutCanon (execQpop d q s) := by
  unfold execQpop
  refine finish_canon ?_
  split
  · exact holdAt_canon hs
  · exact hs

theorem execFmt_canon {d a b : BitVec 6} {s : State} (hs : s.Canon) : OutCanon (execFmt d a b s) := by
  unfold execFmt
  refine finish_canon ?_
  split
  · exact openTrap_canon hs
  · exact hs

theorem execFmtQ_canon {a b : BitVec 6} {s : State} (hs : s.Canon) : OutCanon (execFmtQ a b s) := by
  unfold execFmtQ
  refine finish_canon ?_
  split
  · exact openTrap_canon hs
  · exact seqPush_canon hs

/-! ## Pieces of tensors -/

theorem loadPiece_canon {s : State} {w : Issuer} {p : Piece3} (hs : s.Canon) : (s.loadPiece w p).2.Canon := loadAccs_canon hs

theorem layoutGate_canon {s : State} {D : Desc} (hs : s.Canon) : WordCanon (fun _ => True) (s.layoutGate D) := by
  unfold State.layoutGate
  dsimp only
  split
  · exact trivial
  · exact holdAt_canon hs
  · exact hs

/-! ## ADR -/

theorem adrShape_canon {α : Type} {s : State} {cause : Nat} {addr : Dword} {P : α → Prop} (hs : s.Canon) : WordCanon P (adrShape s cause addr) :=
  trapAt_canon hs

theorem adrHalt_canon {α : Type} {s : State} {m : MemStop} {P : α → Prop} (hs : s.Canon) : WordCanon P (adrHalt s m) := by
  unfold adrHalt
  split
  · exact holdAt_canon hs
  · exact .ite hs hs

theorem adrWord_canon {s : State} {body : Except Exit State} (hs : s.Canon) (hbody : WordCanon State.Canon body) : OutCanon (adrWord s body) := by
  unfold adrWord
  refine finish_canon ?_
  split
  · exact .ite hs (holdAt_canon hs)
  · exact hbody

theorem adrDone_canon {s : State} (hs : s.Canon) : s.adrDone.Canon := modMe_canon hs

theorem adrOnce_canon {s : State} {r : Except Exit Unit} (hs : s.Canon) (hr : WordCanon (fun _ => True) r) : WordCanon State.Canon (adrOnce s r) := by
  unfold adrOnce
  split
  · exact hr.bind fun _ _ => modMe_canon hs
  · exact hs

theorem adrPlace_canon {s : State} {op : Dword} {d : Int} {z : Nat} (hs : s.Canon) : WordCanon (fun _ => True) (adrPlace s op d z) := by
  unfold adrPlace
  split
  · exact hs
  · split
    next s1 hx =>
      have hs1 : s1.Canon := (spadOperand_canon hs).of_error hx
      exact hs1
    · exact spadOperand_canon hs

theorem adrOperand_canon {s : State} {op : Dword} {z : Nat} (hs : s.Canon) : WordCanon (fun _ => True) (adrOperand s op z) := spadOperand_canon hs

theorem adrAlign_canon {s : State} {a n : Nat} (hs : s.Canon) : WordCanon (fun _ => True) (adrAlign s a n) := .ite (trapAt_canon hs) trivial

theorem adrPhase_canon {s : State} {a n : Nat} {write : Bool} (hs : s.Canon) : WordCanon (fun _ => True) (adrPhase s a n write) := by
  unfold adrPhase
  split
  · exact hs
  · exact trivial

theorem adrPushRow_canon {s : State} {r : Row} (hs : s.Canon) : WordCanon State.Canon (adrPushRow s r) := .ite (holdAt_canon hs) hs

theorem adrPushTo_canon {n fuel : Nat} {s : State} (hs : s.Canon) : WordCanon State.Canon (adrPushTo n fuel s) := by
  induction fuel generalizing s with
  | zero => exact hs
  | succ _ ih => exact .ite hs ((adrPushRow_canon hs).bind fun _ hs1 => ih hs1)

theorem adrPopTo_canon {n fuel : Nat} {s : State} (hs : s.Canon) : WordCanon State.Canon (adrPopTo n fuel s) := by
  induction fuel generalizing s with
  | zero => exact hs
  | succ _ ih =>
    unfold adrPopTo
    split
    · exact hs
    · split
      · exact holdAt_canon hs
      · exact ih (modMe_canon hs)

theorem adrPush8_canon {s : State} {v : Dword} (hs : s.Canon) : WordCanon State.Canon (adrPush8 s v) := .ite (holdAt_canon hs) hs

theorem adrStore_canon {s : State} {w : Issuer} {p : Piece3} {bs : List Byte} (hs : s.Canon) : (s.adrStore w p bs).Canon := by
  unfold State.adrStore
  split
  · refine foldl_all (P := fun x : State × List Byte => x.1.Canon) (fun x a hx => ?_) (hs.upd rfl)
    exact ite_canon (storeAcc_canon hx) (hx.upd rfl)
  · exact storeAccs_canon (hs.upd rfl)

theorem adrStores_canon {s : State} {w : Issuer} {l : List Piece3} {fuel : Nat} (hs : s.Canon) : (s.adrStores w l fuel).Canon := by
  induction l generalizing s fuel with
  | nil => exact hs
  | cons _ _ ih => exact ih (adrStore_canon hs)

theorem adrLoadUnit_canon {s : State} {dst : Option Dword} {ord : Nat} {u : AUnit} (hs : s.Canon) :
    WordCanon State.Canon (adrLoadUnit s dst ord u) := by
  unfold adrLoadUnit
  split
  · refine (adrPlace_canon hs).bind fun place _ => ?_
    dsimp only
    split
    · exact adrHalt_canon hs
    next s1 hx =>
      have hs1 : s1.Canon := (accessPieces_canon hs).of_ok hx
      exact modMe_canon (spadIssue_canon (modMe_canon (readTaint_canon (loadPieces_canon hs1))))
  · refine Answers.bind (P := fun _ => True) trivial fun place _ => ?_
    dsimp only
    split
    · exact adrHalt_canon hs
    next s1 hx =>
      have hs1 : s1.Canon := (accessPieces_canon hs).of_ok hx
      exact modMe_canon (modMe_canon (readTaint_canon (loadPieces_canon hs1)))

theorem adrSource_canon {s : State} {src : Option Dword} {u : AUnit} (hs : s.Canon) : WordCanon (fun r => r.2.Canon) (adrSource s src u) := by
  unfold adrSource
  split
  · exact (adrPlace_canon hs).bind fun _ _ => (spadRead_canon hs).bind fun ⟨_, _⟩ _ => readTaint_canon hs
  · exact (adrPopTo_canon hs).bind fun _ hs1 => hs1

theorem adrStoreUnit_canon {s : State} {src : Option Dword} {ord : Nat} {u : AUnit} (hs : s.Canon) :
    WordCanon State.Canon (adrStoreUnit s src ord u) := by
  unfold adrStoreUnit
  refine (adrSource_canon hs).bind fun ⟨v, s1⟩ hs1 => ?_
  split
  next s2 hx =>
    have hs2 : s2.Canon := .of_eq hs1 hx
    dsimp only
    split
    · exact adrHalt_canon hs2
    next s3 hx1 =>
      have hs3 : s3.Canon := (accessPieces_canon hs2).of_ok hx1
      exact modMe_canon (adrStores_canon hs3)

theorem adrUnits_canon {f : State → AUnit → Except Exit State} {l : List AUnit} {s : State} (hf : ∀ s x2, s.Canon → WordCanon State.Canon (f s x2))
  (hs : s.Canon) :
    WordCanon State.Canon (adrUnits f l s) := by
  induction l generalizing s with
  | nil => exact hs
  | cons _ _ ih => exact (hf _ _ hs).bind fun _ hs1 => ih hs1

theorem adrRows_canon {n : Nat} {units : State → Nat → Except Exit (List AUnit × State)} {f : State → AUnit → Except Exit State}
  {close : State → Nat → List AUnit → Except Exit State} {fuel : Nat} {s : State}
  (hunits : ∀ s x2, s.Canon → WordCanon (fun r => r.2.Canon) (units s x2)) (hf : ∀ s x2, s.Canon → WordCanon State.Canon (f s x2))
  (hclose : ∀ s x2 x3, s.Canon → WordCanon State.Canon (close s x2 x3)) (hs : s.Canon) :
    WordCanon State.Canon (adrRows n units f close fuel s) := by
  induction fuel generalizing s with
  | zero => exact hs
  | succ _ ih => exact .ite hs ((hunits _ _ hs).bind fun ⟨_, _⟩ hs1 => Answers.bind (adrUnits_canon (fun _ _ hs2 => hf _ _ hs2) hs1) fun _ hs2 =>
    (hclose _ _ _ hs2).bind fun _ hs3 => ih (modMe_canon hs3))

theorem adrCloseLoad_canon {dst : Option Dword} {R : Nat} {s : State} {r : Nat} {us : List AUnit} (hs : s.Canon) :
    WordCanon State.Canon (adrCloseLoad dst R s r us) := by
  unfold adrCloseLoad
  split
  · exact .ite ((adrPlace_canon hs).bind fun _ _ => hs) hs
  · exact adrPushTo_canon hs

theorem adrLoadRows_canon {s : State} {dst : Option Dword} {ord n R : Nat} {units : State → Nat → Except Exit (List AUnit × State)} (hs : s.Canon)
  (hunits : ∀ s x2, s.Canon → WordCanon (fun r => r.2.Canon) (units s x2)) :
    WordCanon State.Canon (adrLoadRows s dst ord n R units) := by
  unfold adrLoadRows
  refine Answers.bind (adrRows_canon (fun _ _ hs1 => hunits _ _ hs1) (fun _ _ hs1 => adrLoadUnit_canon hs1) (fun _ _ _ hs1 =>
    adrCloseLoad_canon hs1) hs) fun s1 hs1 => ?_
  split
  · exact Answers.bind (P := State.Canon) hs1 fun _ hs2 => hs2
  · exact (adrPushTo_canon hs1).bind fun _ hs2 => hs2

theorem adrStoreRows_canon {s : State} {src : Option Dword} {ord n R : Nat} {units : State → Nat → Except Exit (List AUnit × State)} (hs : s.Canon)
  (hunits : ∀ s x2, s.Canon → WordCanon (fun r => r.2.Canon) (units s x2)) :
    WordCanon State.Canon (adrStoreRows s src ord n R units) := by
  unfold adrStoreRows
  refine Answers.bind (adrRows_canon (fun _ _ hs1 => hunits _ _ hs1) (fun _ _ hs1 => adrStoreUnit_canon hs1) (fun _ _ _ hs1 => hs1) hs) fun s1 hs1 =>
    ?_
  split
  · exact Answers.bind (P := State.Canon) hs1 fun _ hs2 => hs2
  · exact (adrPopTo_canon hs1).bind fun _ hs2 => hs2

theorem boxChecks_canon {s : State} {D : Desc} {a : BitVec 6} {op : Option Dword} {write : Bool} (hs : s.Canon) :
    WordCanon (fun _ => True) (boxChecks s D a op write) := by
  unfold boxChecks
  split
  · exact adrShape_canon hs
  · refine Answers.ite ?_ ?_
    · exact adrShape_canon hs
    · refine Answers.ite ?_ ?_
      · exact adrShape_canon hs
      · split
        · exact Answers.bind (P := fun _ => True) ((adrOperand_canon hs).bind fun _ _ => .check (adrAlign_canon hs) trivial) fun _ _ =>
            (layoutGate_canon hs).bind fun _ _ => adrPhase_canon hs
        · exact Answers.bind (P := fun _ => True) trivial fun _ _ => (layoutGate_canon hs).bind fun _ _ => trivial

theorem adrTld_canon {dst : Option (BitVec 6)} {n : BitVec 3} {a : BitVec 6} {s : State} (hs : s.Canon) : OutCanon (adrTld dst n a s) :=
  adrWord_canon hs ((adrOnce_canon hs (boxChecks_canon hs)).bind fun _ hs1 => adrLoadRows_canon hs1 (fun _ _ hs2 => hs2))

theorem adrTst_canon {src : Option (BitVec 6)} {n : BitVec 3} {a : BitVec 6} {s : State} (hs : s.Canon) : OutCanon (adrTst src n a s) :=
  adrWord_canon hs ((adrOnce_canon hs (boxChecks_canon hs)).bind fun _ hs1 => adrStoreRows_canon hs1 (fun _ _ hs2 => hs2))

theorem gathChecks_canon {s : State} {D : Desc} {a : BitVec 6} {op : Option Dword} {write : Bool} (hs : s.Canon) :
    WordCanon (fun _ => True) (gathChecks s D a op write) := by
  unfold gathChecks
  split
  · exact adrShape_canon hs
  · split
    · exact adrShape_canon hs
    · split
      · exact adrShape_canon hs
      · refine (adrOperand_canon hs).bind fun il _ => (adrAlign_canon hs).bind fun x _ => ?_
        split
        · exact Answers.bind (P := fun _ => True) ((adrOperand_canon hs).bind fun _ _ => (adrAlign_canon hs).bind fun _ _ => trivial) fun _ _ =>
            (layoutGate_canon hs).bind fun _ _ => (adrPhase_canon hs).bind fun _ _ => adrPhase_canon hs
        · exact Answers.bind (P := fun _ => True) trivial fun _ _ => (layoutGate_canon hs).bind fun _ _ => (adrPhase_canon hs).bind fun _ _ => trivial

theorem gathIndex_canon {a : BitVec 6} {s : State} {j : Nat} (hs : s.Canon) : WordCanon (fun r => r.2.Canon) (gathIndex a s j) := by
  unfold gathIndex
  split
  · exact hs
  · exact (adrPlace_canon hs).bind fun _ _ => (spadRead_canon hs).bind fun ⟨_, _⟩ _ => modMe_canon (readTaint_canon hs)

theorem gathUnits_canon {D : Desc} {a : BitVec 6} {s : State} {j : Nat} (hs : s.Canon) : WordCanon (fun r => r.2.Canon) (gathUnits D a s j) :=
  (gathIndex_canon hs).bind fun ⟨_, _⟩ hs1 => hs1

theorem adrGld_canon {dst : Option (BitVec 6)} {n : BitVec 3} {a : BitVec 6} {s : State} (hs : s.Canon) : OutCanon (adrGld dst n a s) :=
  adrWord_canon hs ((adrOnce_canon hs (gathChecks_canon hs)).bind fun _ hs1 => adrLoadRows_canon hs1 (fun _ _ hs2 => gathUnits_canon hs2))

theorem adrGst_canon {src : Option (BitVec 6)} {n : BitVec 3} {a : BitVec 6} {s : State} (hs : s.Canon) : OutCanon (adrGst src n a s) :=
  adrWord_canon hs ((adrOnce_canon hs (gathChecks_canon hs)).bind fun _ hs1 => adrStoreRows_canon hs1 (fun _ _ hs2 => gathUnits_canon hs2))

theorem memRow_canon {a : BitVec 6} {s : State} {r : Nat} {write : Bool} (hs : s.Canon) : WordCanon (fun _ => True) (memRow a s r write) :=
  .ite (adrHalt_canon hs) trivial

theorem vldRows_canon {a : BitVec 6} {n fuel : Nat} {s : State} (hs : s.Canon) : WordCanon State.Canon (vldRows a n fuel s) := by
  induction fuel generalizing s with
  | zero => exact hs
  | succ _ ih =>
    unfold vldRows
    split
    · exact .ite hs (holdAt_canon hs)
    · dsimp only
      split
      · exact hs
      · refine (memRow_canon hs).bind fun u _ => ?_
        split
        · exact adrHalt_canon hs
        next s1 hx =>
          have hs1 : s1.Canon := (accessPieces_canon hs).of_ok hx
          exact ih (modMe_canon (readTaint_canon (loadPieces_canon hs1)))

theorem vstRows_canon {a : BitVec 6} {n fuel : Nat} {s : State} (hs : s.Canon) : WordCanon State.Canon (vstRows a n fuel s) := by
  induction fuel generalizing s with
  | zero => exact hs
  | succ _ ih =>
    unfold vstRows
    dsimp only
    split
    · exact hs
    · refine (adrPopTo_canon hs).bind fun s1 hs1 => (memRow_canon hs1).bind fun u _ => ?_
      split
      · exact adrHalt_canon hs1
      next s2 hx =>
        have hs2 : s2.Canon := (accessPieces_canon hs1).of_ok hx
        exact ih (modMe_canon (adrStores_canon hs2))

theorem memRowChecks_canon {s : State} {a : BitVec 6} (hs : s.Canon) : WordCanon (fun _ => True) (memRowChecks s a) := by
  unfold memRowChecks
  split
  · exact adrShape_canon hs
  · exact adrAlign_canon hs

theorem spadRowChecks_canon {s : State} {a : BitVec 6} {write : Bool} (hs : s.Canon) : WordCanon (fun _ => True) (spadRowChecks s a write) := by
  unfold spadRowChecks
  split
  · exact adrShape_canon hs
  · refine (adrOperand_canon hs).bind fun p _ => (adrAlign_canon hs).bind fun x _ => ?_
    refine Answers.ite ?_ ?_
    · exact trivial
    · dsimp only
      split
      · exact adrShape_canon hs
      · split
        · exact hs
        · exact trivial

theorem sldRows_canon {a : BitVec 6} {n fuel : Nat} {s : State} (hs : s.Canon) : WordCanon State.Canon (sldRows a n fuel s) := by
  induction fuel generalizing s with
  | zero => exact hs
  | succ _ ih => exact .ite hs (.ite (holdAt_canon hs) ((adrPlace_canon hs).bind fun _ _ => (spadRead_canon hs).bind fun ⟨_, _⟩ _ =>
    ih (modMe_canon (readTaint_canon hs))))

theorem sstRows_canon {a : BitVec 6} {n fuel : Nat} {s : State} (hs : s.Canon) : WordCanon State.Canon (sstRows a n fuel s) := by
  induction fuel generalizing s with
  | zero => exact hs
  | succ _ ih => exact .ite hs ((adrPopTo_canon hs).bind fun _ hs1 => (adrPlace_canon hs1).bind fun _ _ => ih (modMe_canon (spadIssue_canon hs1)))

theorem atomRelease_canon {s : State} {scope : Nat} (hs : s.Canon) : WordCanon State.Canon (atomRelease s scope) :=
  .ite hs (.ite (holdAt_canon hs) (ite_canon (domainRelease_canon (drainThread_canon hs)) (drainThread_canon hs)))

theorem atomAcquire_canon {s : State} {scope : Nat} (hs : s.Canon) : (atomAcquire s scope).Canon :=
  ite_canon hs (ite_canon (acquire_canon hs) (modMe_canon hs))

theorem atomPlace_canon {s : State} {x : AtomArgs} (hs : s.Canon) : WordCanon (fun _ => True) (atomPlace s x) :=
  (spadOperand_canon hs).bind fun _ _ => (adrAlign_canon hs).bind fun _ _ => (adrPhase_canon hs).bind fun _ _ => trivial

theorem issueAtom_canon {s : State} {act : SpadAct} {a n : Nat} (hs : s.Canon) : (s.issueAtom act a n).Canon := modMe_canon (spadAct_canon hs)

theorem atomEnd_canon {s : State} {x : AtomArgs} {v : Dword} (hs : s.Canon) : WordCanon State.Canon (atomEnd s x v) :=
  .ite ((adrPush8_canon hs).bind fun _ hs1 => adrDone_canon (atomAcquire_canon (modMe_canon hs1))) (Answers.bind (P := State.Canon) hs fun _ hs1 =>
    adrDone_canon (atomAcquire_canon (modMe_canon hs1)))

theorem atomOwn_canon {s : State} {a n : Nat} (hs : s.Canon) : WordCanon (fun _ => True) (atomOwn s a n) := .ite (holdAt_canon hs) trivial

theorem atomSpad_canon {s : State} {x : AtomArgs} (hs : s.Canon) : WordCanon State.Canon (atomSpad s x) := by
  unfold atomSpad
  split
  · split
    · exact hs
    · exact atomEnd_canon hs
    · exact holdAt_canon hs
  · exact (atomPlace_canon hs).bind fun _ _ => (atomRelease_canon hs).bind fun _ hs1 =>
      .ite (holdAt_canon hs1) ((atomOwn_canon hs1).bind fun _ _ => hs1)

theorem atomMem_canon {s : State} {x : AtomArgs} (hs : s.Canon) : WordCanon State.Canon (atomMem s x) := by
  unfold atomMem
  refine (adrAlign_canon hs).bind fun x1 _ => (atomRelease_canon hs).bind fun s1 hs1 => ?_
  extract_lets w __do_jp
  split
  · exact holdAt_canon hs1
  · split
    · exact adrHalt_canon hs1
    next s2 hx =>
      have hs2 : s2.Canon := (accessLin_canon hs1).of_ok hx
      exact .ite ((adrPush8_canon (ite_canon (storeHome_canon (readTaint_canon (loadHome_canon hs2))) (readTaint_canon (loadHome_canon hs2)))).bind
        fun _ hs3 => adrDone_canon (atomAcquire_canon hs3)) (Answers.bind (P := State.Canon)
        (ite_canon (storeHome_canon (readTaint_canon (loadHome_canon hs2))) (readTaint_canon (loadHome_canon hs2))) fun _ hs3 =>
        adrDone_canon (atomAcquire_canon hs3))

theorem adrAtom_canon {op : Nat} {a : BitVec 6} {c : BitVec 3} {r p z : BitVec 1} {s : State} (hs : s.Canon) : OutCanon (adrAtom op a c r p z s) :=
  adrWord_canon hs (.ite hs (.ite (atomSpad_canon hs) (atomMem_canon hs)))

theorem sendAtomo_canon {s : State} {a : Atomo} (hs : s.Canon) : (s.sendAtomo a).Canon := by
  unfold State.sendAtomo
  extract_lets s1
  have hs1 : s1.Canon := ite_canon hs (sendPacket_canon hs)
  exact modMe_canon (hs1.upd rfl)

theorem atomoIssue_canon {s : State} {x : AtomArgs} {qs : Dword} (hs : s.Canon) : WordCanon State.Canon (atomoIssue s x qs) := by
  unfold atomoIssue
  split
  · exact adrShape_canon hs
  · split
    · exact (atomPlace_canon hs).bind fun _ _ => (atomRelease_canon hs).bind fun _ hs1 => (atomOwn_canon hs1).bind fun _ _ => hs1
    · refine (adrAlign_canon hs).bind fun x1 _ => (atomRelease_canon hs).bind fun s1 hs1 => ?_
      dsimp only
      split
      · exact adrHalt_canon hs1
      next s2 hx =>
        have hs2 : s2.Canon := (accessLin_canon hs1).of_ok hx
        exact sendAtomo_canon (loadHome_canon (ite_canon (taint_canon hs2) hs2))

theorem adrAtomo_canon {op : Nat} {a : BitVec 6} {c : BitVec 3} {r p z : BitVec 1} {s : State} (hs : s.Canon) :
    OutCanon (adrAtomo op a c r p z s) := by
  unfold adrAtomo
  refine adrWord_canon hs ?_
  split
  · exact atomoIssue_canon hs
  · split
    · exact hs
    · exact atomEnd_canon hs
    · exact holdAt_canon hs

theorem adrFence_canon {rel acq : Bool} {c : BitVec 3} {s : State} (hs : s.Canon) : OutCanon (adrFence rel acq c s) :=
  adrWord_canon hs (.ite (holdAt_canon hs) (ite_canon (acquire_canon
    (modMe_canon (ite_canon (domainRelease_canon (ite_canon (drainThread_canon hs) hs)) (ite_canon (drainThread_canon hs) hs))))
    (modMe_canon (ite_canon (domainRelease_canon (ite_canon (drainThread_canon hs) hs)) (ite_canon (drainThread_canon hs) hs)))))

theorem adrHwait_canon {st : Bool} {h a : BitVec 6} {s : State} (hs : s.Canon) : OutCanon (adrHwait st h a s) :=
  adrWord_canon hs (.ite (adrShape_canon hs) (.ite hs (.ite (.ite (adrPush8_canon hs) hs) (holdAt_canon hs))))

theorem execCapt_canon {n sl : BitVec 3} {s : State} (hs : s.Canon) : OutCanon (execCapt n sl s) := by
  unfold execCapt
  refine adrWord_canon hs ?_
  dsimp only
  split <;> exact hs

theorem execSld_canon {a : BitVec 6} {c : BitVec 3} {s : State} (hs : s.Canon) : OutCanon (execSld a c s) :=
  adrWord_canon hs ((spadOperand_canon hs).bind fun _ _ => (adrAlign_canon hs).bind fun _ _ => (adrPhase_canon hs).bind fun _ _ =>
    (spadRead_canon hs).bind fun ⟨_, _⟩ _ => adrPush8_canon (readTaint_canon hs))

theorem execSst_canon {d a : BitVec 6} {c : BitVec 3} {s : State} (hs : s.Canon) : OutCanon (execSst d a c s) :=
  adrWord_canon hs ((spadOperand_canon hs).bind fun _ _ => (adrAlign_canon hs).bind fun _ _ => (adrPhase_canon hs).bind fun _ _ => hs)

theorem execLdq_canon {a : BitVec 6} {c : BitVec 3} {s : State} (hs : s.Canon) : OutCanon (execLdq a c s) := by
  unfold execLdq
  refine adrWord_canon hs ((adrAlign_canon hs).bind fun x _ => ?_)
  refine Answers.ite ?_ ?_
  · exact holdAt_canon hs
  · dsimp only
    split
    · exact adrHalt_canon hs
    next s1 hx =>
      have hs1 : s1.Canon := (accessLin_canon hs).of_ok hx
      exact adrPush8_canon (readTaint_canon (loadAccs_canon hs1))

theorem execAdrFaultTrap_canon {t : Nat} {s : State} (hs : s.Canon) : OutCanon (execAdrFaultTrap t s) := by
  unfold execAdrFaultTrap
  dsimp only
  split
  · exact .ite (raise_canon (modThr_canon hs)) hs
  · exact hs

theorem execAtomoArrival_canon {t : Nat} {s : State} (hs : s.Canon) : OutCanon (execAtomoArrival t s) := by
  unfold execAtomoArrival
  split
  · exact ite_canon hs (arriveAtomo_canon (hs.upd rfl))
  · exact hs

theorem execAtomoRetry_canon {t : Nat} {s : State} (hs : s.Canon) : OutCanon (execAtomoRetry t s) := by
  unfold execAtomoRetry
  split
  · exact arriveAtomo_canon (hs.upd rfl)
  · exact hs

end Sys2Proof.Machine
end

section
/-! SUPPORT. What the other engines keep: canonical memory over barriers, tokens, VEC, MAT and XFR. -/

namespace Sys2Proof.Machine

/-! ## Barriers, rings and phases -/

theorem synTrap_canon {α : Type} {s : State} {code : TrapCode} {cause obj : Nat} {addr : Dword} {P : α → Prop} (hs : s.Canon) :
    WordCanon P (synTrap s code cause obj addr) :=
  trapAt_canon hs

theorem synTrapOpen_canon {α : Type} {s : State} {code : TrapCode} {cause obj : Nat} {P : α → Prop} (hs : s.Canon) :
    WordCanon P (synTrapOpen s code cause obj) :=
  hs

theorem synAfter_canon {s : State} (hs : s.Canon) : WordCanon (fun _ => True) (synAfter s) := .ite trivial (holdAt_canon hs)

theorem synRelease_canon {s : State} {domain : Bool} (hs : s.Canon) : WordCanon State.Canon (synRelease s domain) :=
  .ite (holdAt_canon hs) (ite_canon (release_canon hs) (drainThread_canon hs))

theorem setStage_canon {s : State} {n : Nat} (hs : s.Canon) : (s.setStage n).Canon := modMe_canon hs

theorem barArrive_canon {b k : BitVec 3} {a : BitVec 6} {s : State} (hs : s.Canon) : WordCanon State.Canon (barArrive b k a s) := by
  unfold barArrive
  dsimp only
  split
  · exact synTrapOpen_canon hs
  · split
    · exact synTrap_canon hs
    · exact .ite (synTrapOpen_canon hs) ((synAfter_canon hs).bind fun _ _ => (synRelease_canon hs).bind fun _ hs1 =>
        .ite (synTrap_canon hs1) (settleBarrier_canon (modMe_canon (modGang_canon hs1))))

theorem barHeld_canon {b k : BitVec 3} {s : State} (hs : s.Canon) : WordCanon State.Canon (barHeld b k s) := .ite (holdAt_canon hs) hs

theorem execBar_canon {b k : BitVec 3} {a : BitVec 6} {s : State} (hs : s.Canon) : OutCanon (execBar b k a s) :=
  finish_canon (.ite (barHeld_canon hs) ((barArrive_canon hs).bind fun _ hs1 => barHeld_canon (setStage_canon hs1)))

theorem cbarUse_canon {s : State} {n : BitVec 4} (hs : s.Canon) : WordCanon (fun _ => True) (cbarUse s n) :=
  .ite (synTrapOpen_canon hs) (.ite (synTrapOpen_canon hs) trivial)

theorem setCbar_canon {s : State} {key : Nat} {x : Cbar} (hs : s.Canon) : (s.setCbar key x).Canon := hs.upd rfl

theorem execCbarAdd_canon {n : BitVec 4} {a : BitVec 6} {s : State} (hs : s.Canon) : OutCanon (execCbarAdd n a s) :=
  finish_canon ((cbarUse_canon hs).bind fun _ _ => .check (synTrap_canon hs) ((synAfter_canon hs).bind fun _ _ =>
    (synRelease_canon hs).bind fun _ hs1 => hs1))

theorem cbarSeen_canon {s : State} {x : Cbar} (hs : s.Canon) : (s.cbarSeen x).Canon := ite_canon (acquire_canon hs) (modMe_canon hs)

theorem execCbarWait_canon {n : BitVec 4} {s : State} (hs : s.Canon) : OutCanon (execCbarWait n s) :=
  finish_canon ((cbarUse_canon hs).bind fun _ _ => .ite (holdAt_canon (setCbar_canon hs)) (cbarSeen_canon (setCbar_canon hs)))

theorem execCbarTake_canon {n : BitVec 4} {s : State} (hs : s.Canon) : OutCanon (execCbarTake n s) :=
  finish_canon ((cbarUse_canon hs).bind fun _ _ => .ite (holdAt_canon (setCbar_canon hs)) (cbarSeen_canon (setCbar_canon hs)))

theorem execRing_canon {n : BitVec 3} {a b : BitVec 6} {s : State} (hs : s.Canon) : OutCanon (execRing n a b s) :=
  finish_canon (.ite (synTrapOpen_canon hs) (.ite (synTrap_canon hs) (.ite (synTrap_canon hs) (.ite (synTrap_canon hs) hs))))

theorem synSbar_canon {cons : Bool} {n : BitVec 3} {s : State} (hs : s.Canon) : OutCanon (synSbar cons n s) := by
  unfold synSbar
  refine finish_canon ?_
  extract_lets th key r p es
  split
  · exact synTrapOpen_canon hs
  · split
    · exact synTrapOpen_canon hs
    · split
      · exact synTrapOpen_canon hs
      · exact .ite (holdAt_canon hs) hs

theorem synPhase_canon {write : Bool} {r : BitVec 2} {e : BitVec 3} {a b : BitVec 6} {s : State} (hs : s.Canon) :
    OutCanon (synPhase write r e a b s) := by
  unfold synPhase
  refine finish_canon ((synAfter_canon hs).bind fun x _ => .check (synTrapOpen_canon hs) (.check (synTrapOpen_canon hs) ?_))
  extract_lets x1
  split
  · exact synTrap_canon hs
  · exact hs

/-! ## The token words -/

theorem tokTrap_canon {α : Type} {s : State} {code : TrapCode} {cause : Nat} {a : Dword} {P : α → Prop} (hs : s.Canon) :
    WordCanon P (tokTrap s code cause a) :=
  trapAt_canon hs

theorem tokShape_canon {α : Type} {s : State} {cause : Nat} {a : Dword} {P : α → Prop} (hs : s.Canon) :
    WordCanon P (tokShape s cause a) := tokTrap_canon hs

theorem tokPiece_canon {s : State} {key : Nat} {a : Dword} (hs : s.Canon) : WordCanon (fun _ => True) (tokPiece s key a) := by
  unfold tokPiece
  dsimp only
  split
  · exact hs
  · split
    · exact tokTrap_canon hs
    · split
      · exact tokTrap_canon hs
      · split
        · exact tokTrap_canon hs
        · exact trivial

theorem tokHeld_canon {s : State} {key : Nat} {a : Dword} (hs : s.Canon) : WordCanon (fun _ => True) (tokHeld s key a) :=
  (tokPiece_canon hs).bind fun ⟨_, _⟩ _ => .check (tokTrap_canon hs) (.check (tokTrap_canon hs) trivial)

theorem tokBegin_canon {s : State} {key : Nat} {p : Piece} (hs : s.Canon) : WordCanon State.Canon (tokBegin s key p) :=
  (synRelease_canon hs).bind fun _ hs1 => .ite (holdAt_canon hs1) (drainPosted_canon hs1)

theorem tokEnd_canon {s : State} (hs : s.Canon) : s.tokEnd.Canon := acquire_canon hs

theorem execTklend_canon {a b : BitVec 6} {s : State} (hs : s.Canon) : OutCanon (execTklend a b s) := by
  unfold execTklend
  refine finish_canon ((synAfter_canon hs).bind fun x _ => ?_)
  dsimp only
  split
  · exact tokShape_canon hs
  · exact (tokHeld_canon hs).bind fun ⟨_, _⟩ _ => .check (tokTrap_canon hs)
      (.check (tokShape_canon hs) (.check (tokShape_canon hs) (.check (holdAt_canon hs) ((tokBegin_canon hs).bind fun _ hs2 =>
      tokEnd_canon (setPiece_canon (moveCaches_canon hs2))))))

theorem tokRegionOnly_canon {s : State} {addr v : Dword} (hs : s.Canon) : WordCanon (fun _ => True) (tokRegionOnly s addr v) :=
  .ite trivial (tokShape_canon hs)

theorem execTkret_canon {a b : BitVec 6} {s : State} (hs : s.Canon) : OutCanon (execTkret a b s) :=
  finish_canon ((synAfter_canon hs).bind fun _ _ => (tokRegionOnly_canon hs).bind fun _ _ => (tokHeld_canon hs).bind fun ⟨_, _⟩ _ =>
    .check (tokShape_canon hs) (.check (holdAt_canon hs) ((tokBegin_canon hs).bind fun _ hs2 => tokEnd_canon (giveBack_canon hs2))))

theorem setPieces_canon {s : State} {key : Nat} {f : List Piece → List Piece} (hs : s.Canon) : (s.setPieces key f).Canon := hs.upd rfl

theorem execTksplit_canon {a b : BitVec 6} {s : State} (hs : s.Canon) : OutCanon (execTksplit a b s) :=
  finish_canon ((synAfter_canon hs).bind fun _ _ => (tokRegionOnly_canon hs).bind fun _ _ => (tokHeld_canon hs).bind fun ⟨_, _⟩ _ =>
    .check (tokShape_canon hs) (.check (tokShape_canon hs) (.check (tokShape_canon hs) ((tokBegin_canon hs).bind fun _ hs2 =>
    tokEnd_canon (setPieces_canon hs2)))))

theorem execTkjoin_canon {a b : BitVec 6} {s : State} (hs : s.Canon) : OutCanon (execTkjoin a b s) := by
  unfold execTkjoin
  refine finish_canon ((synAfter_canon hs).bind fun x _ => (tokRegionOnly_canon hs).bind fun x1 _ => (tokHeld_canon hs).bind fun ⟨r, p⟩ hs1 => ?_)
  split
  · split
    · exact tokShape_canon hs
    · exact .check (tokShape_canon hs) (.check (tokShape_canon hs) ((tokBegin_canon hs).bind fun _ hs2 => tokEnd_canon (setPieces_canon hs2)))

theorem execTkshare_canon {a b : BitVec 6} {s : State} (hs : s.Canon) : OutCanon (execTkshare a b s) := by
  unfold execTkshare
  refine finish_canon ((synAfter_canon hs).bind fun x _ => ?_)
  dsimp only
  split
  · exact tokShape_canon hs
  · exact (tokHeld_canon hs).bind fun ⟨_, _⟩ _ => .check (tokShape_canon hs) ((tokBegin_canon hs).bind fun _ hs2 =>
      tokEnd_canon (setPiece_canon (ite_canon (ite_canon hs2 (foldl_canon (fun _ _ hs3 => cacheBack_canon hs3) hs2))
      (foldl_canon (fun _ _ hs3 => cacheDrop_canon hs3) (ite_canon hs2 (foldl_canon (fun _ _ hs3 => cacheBack_canon hs3) hs2))))))

theorem execTkunsh_canon {a b : BitVec 6} {s : State} (hs : s.Canon) : OutCanon (execTkunsh a b s) :=
  finish_canon ((synAfter_canon hs).bind fun _ _ => (tokRegionOnly_canon hs).bind fun _ _ => (tokPiece_canon hs).bind fun ⟨_, _⟩ _ =>
    .check (tokTrap_canon hs) (.check (tokTrap_canon hs) ((tokBegin_canon hs).bind fun _ hs2 => tokEnd_canon (unshare_canon hs2))))

theorem reclaimCaches_canon {s : State} {key : Nat} {p : Piece} (hs : s.Canon) : (s.reclaimCaches key p).Canon := by
  unfold State.reclaimCaches
  extract_lets s1 xs
  have hs1 : s1.Canon := drainPosted_canon hs
  split
  · exact hs1
  · refine foldl_canon (fun s2 a hs2 => foldl_canon (fun s3 a1 hs3 => ?_) hs2) hs1
    split
    · extract_lets m l lost s4 s5
      have hs4 : s4.Canon := writeBack_canon hs3
      have hs5 : s5.Canon := hs4.upd rfl
      exact ite_canon hs3 (ite_canon (log_canon hs5) hs5)
    · extract_lets m l lost s4 s5
      have hs4 : s4.Canon := writeBack_canon hs3
      have hs5 : s5.Canon := hs4.upd rfl
      exact ite_canon hs3 (ite_canon (log_canon hs5) hs5)

theorem needPriv_canon {s : State} (hs : s.Canon) : WordCanon (fun _ => True) (needPriv s) := .ite trivial (openTrap_canon hs)

theorem execTkrecl_canon {a b : BitVec 6} {s : State} (hs : s.Canon) : OutCanon (execTkrecl a b s) :=
  finish_canon ((needPriv_canon hs).bind fun _ _ => .check (tokShape_canon hs)
    (.check (tokShape_canon hs) ((tokPiece_canon hs).bind fun ⟨_, _⟩ _ =>
    .check (tokShape_canon hs) (.ite hs ((tokBegin_canon hs).bind fun _ hs2 => tokEnd_canon (setPiece_canon (reclaimCaches_canon hs2)))))))

theorem execTokenWaitResume_canon {t : Nat} {s : State} (hs : s.Canon) : OutCanon (execTokenWaitResume t s) := by
  unfold execTokenWaitResume
  dsimp only
  split
  · exact hs
  · split
    · split
      · exact .ite (execTklend_canon (hs.upd rfl)) (.ite (execTkret_canon (hs.upd rfl)) hs)
      · exact hs
    · exact hs

theorem rangeStep_canon {x : List (Nat × Nat) × State} {r : Except MemStop (Acc × State)} (hx : x.2.Canon) (hr : Yields (fun r => r.2.Canon) r) :
    Maybe (fun r => r.2.Canon) (rangeStep x r) := by
  unfold rangeStep
  split
  · exact hr
  · exact trivial
  · exact hx

theorem rangeParts_canon {s : State} {addr v : Dword} (hs : s.Canon) : Maybe (fun r => r.2.Canon) (s.rangeParts addr v) := by
  unfold State.rangeParts
  extract_lets th at_ tid len
  split
  · split
    · trivial
    · exact hs
    next s1 hx =>
      have hs1 : s1.Canon := (directory_canon hs).of_ok hx
      exact Maybe.foldlM (fun x p hs2 => rangeStep_canon hs2 (translateTile_canon hs2)) hs1
  · exact Maybe.foldlM (fun x p hs2 => rangeStep_canon hs2 (translate_canon hs2)) hs

theorem physBack_canon {s : State} {d pa n : Nat} (hs : s.Canon) : (s.physBack d pa n).Canon := foldl_canon (fun _ _ hs1 => writeBack_canon hs1) hs

theorem physDrop_canon {s : State} {d pa n : Nat} (hs : s.Canon) : (s.physDrop d pa n).Canon := by
  unfold State.physDrop
  refine foldl_canon (fun s1 a hs1 => ?_) hs
  extract_lets m s2
  have hs2 : s2.Canon := writeBack_canon hs1
  exact ite_canon hs1 (hs2.upd rfl)

theorem synRange_canon {f : State → Nat → Nat → Nat → State} {a b : BitVec 6} {s : State} (hf : ∀ s x2 x3 x4, s.Canon → (f s x2 x3 x4).Canon)
  (hs : s.Canon) :
    OutCanon (synRange f a b s) := by
  unfold synRange
  refine finish_canon ((synAfter_canon hs).bind fun x _ => .check hs ?_)
  refine Answers.ite ?_ ?_
  · exact hs
  · dsimp only
    split
    · exact holdAt_canon (drainThread_canon hs)
    next s1 hx =>
      have hs1 : s1.Canon := (rangeParts_canon (drainThread_canon hs)).of_some hx
      exact .ite (holdAt_canon hs1) (foldl_canon (fun _ _ hs2 => hf _ _ _ _ hs2) hs1)

theorem cmdStatus_canon {s : State} {d a v : Nat} (hs : s.Canon) : (s.cmdStatus d a v).Canon := domainRelease_canon (homeWrite_canon hs)

theorem regionCreate_canon {s : State} {d : Nat → Dword} (hs : s.Canon) : (s.regionCreate d).2.Canon := by
  unfold State.regionCreate
  dsimp only
  split
  · exact hs
  · split
    · exact hs
    · split
      · exact hs
      · exact keepCopy_canon (hs.upd rfl)

theorem regionDestroy_canon {s : State} {d : Nat → Dword} (hs : s.Canon) : (s.regionDestroy d).2.Canon := by
  unfold State.regionDestroy
  dsimp only
  split
  · exact hs
  · split
    · exact hs
    · split
      · exact hs
      · split
        · split
          · exact removeRegion_canon (foldl_canon (fun _ _ hs1 => cacheDrop_canon hs1)
              (foldl_canon (fun _ _ hs1 => cacheBack_canon hs1) (drainPosted_canon hs)))
          · exact hs
        · exact hs

theorem regionCommand_canon {s : State} {die a : Nat} (hs : s.Canon) : (s.regionCommand die a).Canon := by
  unfold State.regionCommand
  refine ite_canon ?_ ?_
  · exact hs
  · dsimp only
    refine cmdStatus_canon ?_
    split
    · exact regionCreate_canon hs
    · exact regionDestroy_canon hs
    · exact hs

/-! ## VEC -/

theorem vecLanes_canon {d : BitVec 5} {m : BitVec 3} {f : Thread → Nat → Word} {s : State} (hs : s.Canon) :
    OutCanon (vecLanes d m f s) := finish_canon hs

theorem vecFlags_canon {s : State} {xs : List (Nat × Flags)} (hs : s.Canon) : WordCanon State.Canon (vecFlags s xs) := .ite hs hs

theorem vecFp_canon {d : BitVec 5} {m : BitVec 3} {f : Thread → Nat → Word × Flags} {s : State} (hs : s.Canon) : OutCanon (vecFp d m f s) :=
  finish_canon ((vecFlags_canon hs).bind fun _ hs1 => hs1)

theorem pushQ6_canon {s : State} {v : Dword} (hs : s.Canon) : WordCanon State.Canon (pushQ6 s v) := .ite (holdAt_canon hs) hs

theorem vecShape_canon {α : Type} {s : State} {cause : Nat} {addr : Dword} {P : α → Prop} (hs : s.Canon) : WordCanon P (vecShape s cause addr) := hs

theorem vecSeed_canon {s : State} (hs : s.Canon) : WordCanon (fun _ => True) (vecSeed s) := by
  unfold vecSeed
  split
  · exact holdAt_canon hs
  · split
    · exact hs
    · exact trivial

theorem tyMode_canon {s : State} {t : BitVec 2} (hs : s.Canon) : WordCanon (fun _ => True) (tyMode s t) :=
  .ite ((vecSeed_canon hs).bind fun _ _ => trivial) trivial

theorem vintOp_canon {f : Int → Int → Int} {d a b : BitVec 5} {m : BitVec 3} {t : BitVec 2} {s : State} (hs : s.Canon) :
    OutCanon (vintOp f d a b m t s) :=
  vecLanes_canon hs

theorem vintBits_canon {f : Word → Word → Word} {d a b : BitVec 5} {m : BitVec 3} {s : State} (hs : s.Canon) : OutCanon (vintBits f d a b m s) :=
  vecLanes_canon hs

theorem vintUna_canon {f : Int → Int} {d a : BitVec 5} {m : BitVec 3} {t : BitVec 2} {s : State} (hs : s.Canon) : OutCanon (vintUna f d a m t s) :=
  vecLanes_canon hs

theorem vfltOp_canon {f : RMode → Word → Word → Word × Flags} {d a b : BitVec 5} {m : BitVec 3} {s : State} (hs : s.Canon) :
    OutCanon (vfltOp f d a b m s) :=
  vecFp_canon hs

theorem vfltUna_canon {f : RMode → Word → Word × Flags} {d a : BitVec 5} {m : BitVec 3} {s : State} (hs : s.Canon) : OutCanon (vfltUna f d a m s) :=
  vecFp_canon hs

theorem vfmaOp_canon {negProd negAdd : Bool} {d a b : BitVec 5} {m : BitVec 3} {s : State} (hs : s.Canon) :
    OutCanon (vfmaOp negProd negAdd d a b m s) :=
  vecFp_canon hs

theorem vcmpOp_canon {f : LaneCmp → Bool × Flags} {d : BitVec 3} {a b : BitVec 5} {m : BitVec 3} {t : BitVec 2} {s : State} (hs : s.Canon) :
    OutCanon (vcmpOp f d a b m t s) :=
  finish_canon ((vecFlags_canon hs).bind fun _ hs1 => hs1)

theorem vcvtLanes_canon {f : RMode → Word → Word × Flags} {d a : BitVec 5} {m : BitVec 3} {t : BitVec 2} {s : State} (hs : s.Canon) :
    OutCanon (vcvtLanes f d a m t s) :=
  finish_canon ((tyMode_canon hs).bind fun ⟨_, _⟩ _ => (vecFlags_canon hs).bind fun _ hs2 => hs2)

theorem vredOp_canon {op : RedOp} {d a : BitVec 5} {m : BitVec 3} {t : BitVec 2} {s : State} (hs : s.Canon) : OutCanon (vredOp op d a m t s) :=
  finish_canon ((vecFlags_canon hs).bind fun _ hs1 => hs1)

theorem vredPush_canon {op : RedOp} {a : BitVec 5} {m : BitVec 3} {t : BitVec 2} {s : State} (hs : s.Canon) : OutCanon (vredPush op a m t s) :=
  finish_canon (.ite (holdAt_canon hs) ((vecFlags_canon hs).bind fun _ hs1 => pushQ6_canon hs1))

theorem vscanOp_canon {op : RedOp} {excl : Bool} {d a : BitVec 5} {m : BitVec 3} {t : BitVec 2} {s : State} (hs : s.Canon) :
    OutCanon (vscanOp op excl d a m t s) :=
  finish_canon ((vecFlags_canon hs).bind fun _ hs1 => hs1)

theorem execVcomp_canon {d a b : BitVec 5} {m : BitVec 3} {n : BitVec 4} {t : BitVec 2} {s : State} (hs : s.Canon) :
    OutCanon (execVcomp d a b m n t s) := by
  unfold execVcomp
  refine finish_canon ?_
  split
  · exact vecShape_canon hs
  · split
    · exact holdAt_canon hs
    · exact .ite (vecShape_canon hs) hs

theorem scaleTrap_canon {α : Type} {s : State} {x : Nat × Bool × BitVec 20} {P : α → Prop} (hs : s.Canon) : WordCanon P (scaleTrap s x) :=
  .ite hs (vecShape_canon hs)

theorem vqntOp_canon {given res : Bool} {d a b : BitVec 5} {m : BitVec 3} {t : BitVec 2} {s : State} (hs : s.Canon) :
    OutCanon (vqntOp given res d a b m t s) := by
  unfold vqntOp
  refine finish_canon ?_
  split
  · exact vecShape_canon hs
  · refine (tyMode_canon hs).bind fun ⟨draws, mode⟩ hs1 => ?_
    split
    · split
      · extract_lets th mask row made scales sc f qs scaleFl __do_jp
        split
        · exact Answers.bind (P := fun _ => True) (scaleTrap_canon hs) fun _ _ => (vecFlags_canon hs).bind fun _ hs2 => hs2
        · exact Answers.bind (P := fun _ => True) trivial fun _ _ => (vecFlags_canon hs).bind fun _ hs2 => hs2
      · exact (vecFlags_canon hs).bind fun _ hs2 => hs2

theorem vdqntOp_canon {acc : Bool} {d a b : BitVec 5} {m : BitVec 3} {s : State} (hs : s.Canon) : OutCanon (vdqntOp acc d a b m s) := by
  unfold vdqntOp
  refine finish_canon ?_
  refine Answers.ite ?_ ?_
  · exact vecShape_canon hs
  · split
    · dsimp only
      split
      · exact Answers.bind (P := fun _ => True) (scaleTrap_canon hs) fun _ _ => (vecFlags_canon hs).bind fun _ hs1 => hs1
      · exact Answers.bind (P := fun _ => True) trivial fun _ _ => (vecFlags_canon hs).bind fun _ hs1 => hs1
    · dsimp only
      split
      · exact Answers.bind (P := fun _ => True) (scaleTrap_canon hs) fun _ _ => (vecFlags_canon hs).bind fun _ hs1 => hs1
      · exact Answers.bind (P := fun _ => True) trivial fun _ _ => (vecFlags_canon hs).bind fun _ hs1 => hs1

theorem vrandOp_canon {f : BitVec 32 → Word} {d : BitVec 5} {m : BitVec 3} {s : State} (hs : s.Canon) : OutCanon (vrandOp f d m s) :=
  finish_canon ((vecSeed_canon hs).bind fun _ _ => hs)

theorem vmaskOp_canon {f : Mask → Mask → Mask} {d a b : BitVec 3} {s : State} (hs : s.Canon) : OutCanon (vmaskOp f d a b s) := finish_canon hs

theorem vqinRow_canon {q : Nat} {d : BitVec 5} {m : BitVec 3} {s : State} (hs : s.Canon) : OutCanon (vqinRow q d m s) := by
  unfold vqinRow
  refine finish_canon ?_
  split
  · exact holdAt_canon hs
  · exact hs

theorem vqoutRow_canon {q : Nat} {a : BitVec 5} {m : BitVec 3} {s : State} (hs : s.Canon) : OutCanon (vqoutRow q a m s) :=
  finish_canon (.ite (holdAt_canon hs) hs)

theorem execVqinS_canon {d : BitVec 5} {m : BitVec 3} {s : State} (hs : s.Canon) : OutCanon (execVqinS d m s) := by
  unfold execVqinS
  refine finish_canon ?_
  split
  · exact holdAt_canon hs
  · exact hs

/-! ## MAT -/

theorem matTrap_canon {α : Type} {s : State} {code : TrapCode} {low : Nat} {fw : Dword} {P : α → Prop} (hs : s.Canon) :
    WordCanon P (matTrap s code low fw) :=
  hs

theorem matShape_canon {α : Type} {s : State} {cause : Nat} {P : α → Prop} (hs : s.Canon) : WordCanon P (matShape s cause) := hs

theorem accBusy_canon {s : State} {k : BitVec 2} (hs : s.Canon) : WordCanon (fun _ => True) (accBusy s k) := by
  unfold accBusy
  dsimp only
  split
  · exact hs
  · exact trivial

theorem popFormat_canon {s : State} (hs : s.Canon) : WordCanon (fun r => r.2.Canon) (popFormat s) := by
  unfold popFormat
  dsimp only
  split
  · exact hs
  · exact hs
  · exact .ite (holdAt_canon hs) (trapAt_canon hs)

theorem matHandle_canon {s : State} {h : BitVec 6} {fw : Dword} (hs : s.Canon) : WordCanon (fun _ => True) (matHandle s h fw) :=
  .ite trivial (matTrap_canon hs)

theorem matHeader_canon {s : State} {isB : Bool} {h : BitVec 6} {w : TileWait} {fw : Dword} (hs : s.Canon) :
    WordCanon (fun r => r.2.Canon) (matHeader s isB h w fw) := by
  unfold matHeader
  split
  · exact hs
  · exact .ite (holdAt_canon hs) ((spadRead_canon hs).bind fun ⟨_, _⟩ _ =>
      .ite (modMe_canon (readTaint_canon hs)) (matTrap_canon (readTaint_canon hs)))

theorem matPhase_canon {s : State} {a n : Nat} {write : Bool} (hs : s.Canon) : WordCanon (fun _ => True) (matPhase s a n write) := by
  unfold matPhase
  split
  · exact hs
  · exact trivial

theorem commitBatch_canon {s : State} {op : BitVec 5} (hs : s.Canon) : WordCanon State.Canon (commitBatch s op) :=
  .ite (holdAt_canon hs) ((takeEntry_canon hs).bind fun ⟨_, _⟩ hs1 => hs1)

theorem tileForm_canon {op : BitVec 5} {a b : BitVec 6} {v : BitVec 5} {ck : Bool} {n : BitVec 3} {fw : Dword} {s : State} (hs : s.Canon) :
    WordCanon (fun r => r.2.Canon) (tileForm op a b v ck n fw s) := by
  unfold tileForm
  split
  · dsimp only
    split
    · exact hs
    · exact Answers.bind (P := fun _ => True) (.ite (matTrap_canon hs) trivial) fun _ _ =>
        Answers.bind (P := fun _ => True) (.ite (matTrap_canon hs) trivial) fun _ _ =>
        Answers.bind (P := fun _ => True) (.ite (matTrap_canon hs) trivial) fun _ _ =>
        Answers.bind (P := fun _ => True) (.ite (matTrap_canon hs) trivial) fun _ _ =>
        .check hs (Answers.bind (P := fun _ => True) (.ite (matTrap_canon hs) trivial) fun _ _ => (matHandle_canon hs).bind fun _ _ =>
        (matHandle_canon hs).bind fun _ _ => hs)
  · dsimp only
    split
    · exact hs
    · exact Answers.bind (P := fun _ => True) (.ite (matTrap_canon hs) trivial) fun _ _ =>
        Answers.bind (P := fun _ => True) (.ite (matTrap_canon hs) trivial) fun _ _ =>
        Answers.bind (P := fun _ => True) (.ite (matTrap_canon hs) trivial) fun _ _ =>
        Answers.bind (P := fun _ => True) (.ite (matTrap_canon hs) trivial) fun _ _ =>
        .check hs (Answers.bind (P := fun _ => True) (.ite (matTrap_canon hs) trivial) fun _ _ => (matHandle_canon hs).bind fun _ _ =>
        (matHandle_canon hs).bind fun _ _ => hs)

theorem tileCmd_canon {op : BitVec 5} {k : BitVec 2} {a b : BitVec 6} {v : BitVec 5} {ck commit : Bool} {n : BitVec 3} {s : State} (hs : s.Canon) :
    OutCanon (tileCmd op k a b v ck commit n s) := by
  unfold tileCmd
  refine finish_canon (Answers.ite (commitBatch_canon hs) ?_)
  refine (popFormat_canon hs).bind fun ⟨fw, s1⟩ hs1 => (tileForm_canon hs1).bind fun ⟨w, s2⟩ hs2 => (matHeader_canon hs2).bind fun ⟨xa, s3⟩ hs3 =>
    (matHeader_canon hs3).bind fun xb hs4 => ?_
  split
  next xb s4 =>
    extract_lets s5 draws c put seeded phased
    have hs5 : s5.Canon := modMe_canon hs4
    have hphased : ∀ u, WordCanon State.Canon (phased u) := fun u =>
      .check (holdAt_canon hs5) (.check (matTrap_canon hs5) (.ite (commitBatch_canon (modMe_canon hs5)) (modMe_canon hs5)))
    split
    · exact (matPhase_canon hs4).bind fun _ _ => (matPhase_canon hs4).bind fun u _ => hphased u
    · exact hphased ()

theorem execMwaitAcc_canon {k : BitVec 2} {s : State} (hs : s.Canon) : OutCanon (execMwaitAcc k s) := by
  unfold execMwaitAcc
  refine finish_canon ?_
  split
  · exact (accBusy_canon hs).map fun _ _ => hs
  · split
    · exact holdAt_canon hs
    · exact hs

theorem matRange_canon {s : State} {op : Dword} {n : Nat} {write : Bool} (hs : s.Canon) : WordCanon (fun _ => True) (matRange s op n write) :=
  .ite hs ((spadOperand_canon hs).bind fun _ _ => (matPhase_canon hs).bind fun _ _ => trivial)

theorem moveWord_canon {k : BitVec 2} {check : Except Exit Nat} {m : Nat → MatMove} {s : State} (hcheck : WordCanon (fun _ => True) check)
  (hs : s.Canon) :
    OutCanon (moveWord k check m s) :=
  finish_canon (.ite (matShape_canon (modMe_canon hs)) (.ite hs (.ite (holdAt_canon hs) ((accBusy_canon hs).bind fun _ _ => hcheck.bind fun _ _ =>
    holdAt_canon (modMe_canon hs)))))

theorem matSpan_canon {s : State} {op : Dword} (hs : s.Canon) : WordCanon (fun _ => True) (matSpan s op) := .ite hs trivial

theorem pushRows_canon {count : Nat} {row : Thread → Nat → Row} {fuel : Nat} {s : State} (hs : s.Canon) :
    WordCanon State.Canon (pushRows count row fuel s) := by
  induction fuel generalizing s with
  | zero => exact hs
  | succ _ ih => exact .ite hs (.ite (holdAt_canon hs) (ih (modMe_canon hs)))

theorem popRows_canon {count : Nat} {put : Thread → Nat → Row → Thread} {fuel : Nat} {s : State} (hs : s.Canon) :
    WordCanon State.Canon (popRows count put fuel s) := by
  induction fuel generalizing s with
  | zero => exact hs
  | succ _ ih =>
    unfold popRows
    split
    · exact .ite hs (holdAt_canon hs)
    · exact .ite hs (ih (modMe_canon hs))

theorem mrdSpan_canon {k : BitVec 2} {v : BitVec 5} {row : Tile → Nat → Row} {s : State} (hs : s.Canon) : OutCanon (mrdSpan k v row s) :=
  finish_canon ((accBusy_canon hs).bind fun _ _ => (matSpan_canon hs).bind fun ⟨_, _⟩ _ => pushRows_canon hs)

theorem pushQ5_canon {s : State} {r : Row} (hs : s.Canon) : WordCanon State.Canon (pushQ5 s r) := .ite (holdAt_canon hs) hs

theorem mwrSpan_canon {k : BitVec 2} {v : BitVec 5} {i : BitVec 1} {put : Tile → Nat → Row → Tile} {s : State} (hs : s.Canon) :
    OutCanon (mwrSpan k v i put s) :=
  finish_canon ((accBusy_canon hs).bind fun _ _ => (matSpan_canon hs).bind fun ⟨_, _⟩ _ => popRows_canon hs)

theorem mwrCheck_canon {k : BitVec 2} {put : Thread → Row → Thread} {s : State} (hs : s.Canon) : OutCanon (mwrCheck k put s) := by
  unfold mwrCheck
  refine finish_canon ((accBusy_canon hs).bind fun x _ => ?_)
  split
  · exact holdAt_canon hs
  · exact hs

theorem mcksOperand_canon {s : State} {op : Dword} (hs : s.Canon) : WordCanon (fun _ => True) (mcksOperand s op) := .ite hs trivial

theorem execMcks_canon {k : BitVec 2} {v : BitVec 5} {s : State} (hs : s.Canon) : OutCanon (execMcks k v s) :=
  finish_canon ((accBusy_canon hs).bind fun _ _ => (mcksOperand_canon hs).bind fun ⟨_, _⟩ _ =>
    .ite (pushQ5_canon hs) ((pushQ5_canon hs).bind fun _ hs2 => hs2))

/-! ## XFR -/

theorem xfrShape_canon {α : Type} {s : State} {cause : Nat} {op : Dword} {P : α → Prop} (hs : s.Canon) :
    WordCanon P (xfrShape s cause op) := trapAt_canon hs

theorem xfrShapeOpen_canon {α : Type} {s : State} {cause : Nat} {P : α → Prop} (hs : s.Canon) : WordCanon P (xfrShapeOpen s cause) := hs

theorem xfrNeed_canon {s : State} {ok : Bool} {cause : Nat} {op : Dword} (hs : s.Canon) : WordCanon (fun _ => True) (xfrNeed s ok cause op) :=
  .ite trivial (xfrShape_canon hs)

theorem xfrAlign_canon {s : State} {a n : Nat} (hs : s.Canon) : WordCanon (fun _ => True) (xfrAlign s a n) := .ite trivial hs

theorem xfrPlace_canon {s : State} {op : Dword} {z : Nat} {ring : Bool} (hs : s.Canon) : WordCanon (fun _ => True) (xfrPlace s op z ring) :=
  .ite (xfrShape_canon hs) (spadOperand_canon hs)

theorem xfrPhase_canon {s : State} {a n : Nat} {write : Bool} (hs : s.Canon) : WordCanon (fun _ => True) (xfrPhase s a n write) := by
  unfold xfrPhase
  split
  · exact hs
  · exact trivial

theorem xfrAccept_canon {s : State} {h : BitVec 6} {op : BitVec 5} {base len : Nat} {c : Copy} (hs : s.Canon) :
    WordCanon State.Canon (xfrAccept s h op base len c) :=
  .ite (xfrShapeOpen_canon hs) (.ite (holdAt_canon hs) ((takeEntry_canon hs).bind fun ⟨_, _⟩ hs1 => hs1))

theorem execXcopy_canon {h a : BitVec 6} {s : State} (hs : s.Canon) : OutCanon (execXcopy h a s) :=
  finish_canon ((xfrNeed_canon hs).bind fun _ _ => (xfrPlace_canon hs).bind fun _ _ => (xfrAlign_canon hs).bind fun _ _ =>
    (xfrAlign_canon hs).bind fun _ _ => (xfrPhase_canon hs).bind fun _ _ => xfrAccept_canon hs)

theorem execXcopyS_canon {h a : BitVec 6} {s : State} (hs : s.Canon) : OutCanon (execXcopyS h a s) :=
  finish_canon ((xfrNeed_canon hs).bind fun _ _ => (xfrPlace_canon hs).bind fun _ _ => (xfrPlace_canon hs).bind fun _ _ =>
    .check (xfrShapeOpen_canon hs) ((xfrAlign_canon hs).bind fun _ _ => (xfrAlign_canon hs).bind fun _ _ => (xfrPhase_canon hs).bind fun _ _ =>
    (xfrPhase_canon hs).bind fun _ _ => xfrAccept_canon hs))

theorem execXput_canon {h a : BitVec 6} {s : State} (hs : s.Canon) : OutCanon (execXput h a s) :=
  finish_canon ((xfrNeed_canon hs).bind fun _ _ => (xfrPlace_canon hs).bind fun _ _ => (xfrAlign_canon hs).bind fun _ _ =>
    (xfrAlign_canon hs).bind fun _ _ => (xfrPhase_canon hs).bind fun _ _ => xfrAccept_canon hs)

theorem execXfill_canon {h a : BitVec 6} {s : State} (hs : s.Canon) : OutCanon (execXfill h a s) :=
  finish_canon ((xfrNeed_canon hs).bind fun _ _ => (xfrPlace_canon hs).bind fun _ _ => (xfrAlign_canon hs).bind fun _ _ =>
    (xfrPhase_canon hs).bind fun _ _ => xfrAccept_canon hs)

theorem boxCopy_canon {store : Bool} {op : BitVec 5} {h : BitVec 6} {n : BitVec 3} {a : BitVec 6} {s : State} (hs : s.Canon) :
    OutCanon (boxCopy store op h n a s) :=
  finish_canon (.check (.ite (xfrShape_canon hs) (xfrShape_canon hs))
    (.check (xfrShapeOpen_canon hs) (.check (xfrShapeOpen_canon hs) ((xfrPlace_canon hs).bind fun _ _ => (xfrAlign_canon hs).bind fun _ _ =>
    (layoutGate_canon hs).bind fun _ _ => (xfrPhase_canon hs).bind fun _ _ => xfrAccept_canon hs))))

theorem packPlace_canon {s : State} {p dst : Dword} {fmt : Nat} (hs : s.Canon) : WordCanon (fun _ => True) (packPlace s p dst fmt) :=
  (xfrNeed_canon hs).bind fun _ _ => (xfrPlace_canon hs).bind fun _ _ => (xfrAlign_canon hs).bind fun _ _ => trivial

theorem packScales_canon {s : State} {p : Dword} (hs : s.Canon) : WordCanon (fun _ => True) (packScales s p) := by
  unfold packScales
  split
  · exact trivial
  · split
    · exact trivial
    · exact (xfrPlace_canon hs).bind fun _ _ => (xfrAlign_canon hs).bind fun _ _ => trivial

theorem scalePhase_canon {s : State} {p : Dword} {scale : Option Nat} (hs : s.Canon) : WordCanon (fun _ => True) (scalePhase s p scale) := by
  unfold scalePhase
  split
  · exact xfrPhase_canon hs
  · exact trivial

theorem packAccept_canon {s : State} {h : BitVec 6} {op : BitVec 5} {d : Nat} {p : Dword} {fmt : Nat} {scale : Option Nat} {c : Copy} (hs : s.Canon) :
    WordCanon State.Canon (packAccept s h op d p fmt scale c) :=
  .ite (xfrShapeOpen_canon hs) (.ite (holdAt_canon hs) ((xfrAccept_canon hs).bind fun _ hs1 => ite_canon (modMe_canon hs1) hs1))

theorem packSlot_canon {kdim : Nat} {h : BitVec 6} {n : BitVec 3} {a : BitVec 6} {s : State} (hs : s.Canon) : OutCanon (packSlot kdim h n a s) :=
  finish_canon (.check (.ite (xfrShape_canon hs) (xfrShape_canon hs)) ((xfrNeed_canon hs).bind fun _ _ =>
    .check (xfrShapeOpen_canon hs) ((packPlace_canon hs).bind fun _ _ => (packScales_canon hs).bind fun _ _ => (layoutGate_canon hs).bind fun _ _ =>
    (xfrPhase_canon hs).bind fun _ _ => (scalePhase_canon hs).bind fun _ _ => packAccept_canon hs)))

theorem execXpackS_canon {h a : BitVec 6} {s : State} (hs : s.Canon) : OutCanon (execXpackS h a s) := by
  unfold execXpackS
  refine finish_canon ((xfrNeed_canon hs).bind fun _ _ => (xfrNeed_canon hs).bind fun _ _ => (packPlace_canon hs).bind fun d _ =>
    (packScales_canon hs).bind fun scale _ => (xfrPlace_canon hs).bind fun b _ => ?_)
  refine Answers.bind (P := fun _ => True) (foldl_all (fun r l hr => ?_) trivial) fun _ _ => (xfrPhase_canon hs).bind fun _ _ =>
    (scalePhase_canon hs).bind fun _ _ => packAccept_canon hs
  split
  · exact hr
  · exact xfrPhase_canon hs

theorem execXgath_canon {h : BitVec 6} {n : BitVec 3} {a : BitVec 6} {s : State} (hs : s.Canon) : OutCanon (execXgath h n a s) :=
  finish_canon ((xfrNeed_canon hs).bind fun _ _ => (xfrNeed_canon hs).bind fun _ _ =>
    .check (xfrShapeOpen_canon hs) ((packPlace_canon hs).bind fun _ _ => (xfrPlace_canon hs).bind fun _ _ => (xfrAlign_canon hs).bind fun _ _ =>
    (packScales_canon hs).bind fun _ _ => (layoutGate_canon hs).bind fun _ _ => (xfrPhase_canon hs).bind fun _ _ =>
    (xfrPhase_canon hs).bind fun _ _ => (scalePhase_canon hs).bind fun _ _ => packAccept_canon hs))

theorem scatter_canon {comb : Nat} {h : BitVec 6} {n : BitVec 3} {a : BitVec 6} {s : State} (hs : s.Canon) : OutCanon (scatter comb h n a s) :=
  finish_canon ((xfrNeed_canon hs).bind fun _ _ => (xfrNeed_canon hs).bind fun _ _ =>
    .check (xfrShapeOpen_canon hs) (.check (xfrShapeOpen_canon hs) ((xfrPlace_canon hs).bind fun _ _ => (xfrPlace_canon hs).bind fun _ _ =>
    (xfrAlign_canon hs).bind fun _ _ => (xfrAlign_canon hs).bind fun _ _ => (layoutGate_canon hs).bind fun _ _ => (xfrPhase_canon hs).bind fun _ _ =>
    (xfrPhase_canon hs).bind fun _ _ => xfrAccept_canon hs)))

theorem execXhalo_canon {h a : BitVec 6} {dir : BitVec 4} {s : State} (hs : s.Canon) : OutCanon (execXhalo h a dir s) :=
  finish_canon ((xfrNeed_canon hs).bind fun _ _ => (xfrNeed_canon hs).bind fun _ _ => (xfrNeed_canon hs).bind fun _ _ =>
    (xfrNeed_canon hs).bind fun _ _ => (xfrPlace_canon hs).bind fun _ _ => (xfrAlign_canon hs).bind fun _ _ => (xfrAlign_canon hs).bind fun _ _ =>
    (xfrPhase_canon hs).bind fun _ _ => (xfrAccept_canon hs).bind fun _ hs1 => .ite hs1 (stopTask_canon hs1))

theorem workStop_canon {s : State} {k t : Nat} {e : Engine} {m : MemStop} (hs : s.Canon) : (s.workStop k t e m).Canon := by
  unfold State.workStop
  split
  · exact setTask_canon hs
  · split
    · exact stopTask_canon hs
    · exact failTaint_canon hs
    · exact parkTask_canon hs

theorem portRead_canon {s : State} {w : Issuer} {core : Nat} {c : Copy} {p : Port} {n : Nat} (hs : s.Canon) :
    Yields (fun r => r.2.2.Canon) (s.portRead w core c p n) := by
  unfold State.portRead
  split
  · exact hs
  · exact hs
  · exact hs
  · split
    · exact trivial
    · exact .ite trivial hs
  · split
    · exact trivial
    next s1 hx =>
      have hs1 : s1.Canon := (accessPort_canon hs).of_ok hx
      exact .ite trivial (loadPiece_canon hs1)

theorem portWrite_canon {s : State} {w : Issuer} {c : Copy} {p : Port} {n v : Nat} (hs : s.Canon) :
    Yields (fun r => r.1.Canon) (s.portWrite w c p n v) := by
  unfold State.portWrite
  split
  · exact hs
  · exact hs
  · exact hs
  · exact spadNow_canon hs
  · split
    · exact trivial
    next s1 hx =>
      have hs1 : s1.Canon := (accessPort_canon hs).of_ok hx
      exact storePieces_canon hs1

theorem runAccess_canon {s : State} {w : Issuer} {c : Copy} {write : Bool} {ps : List (Port × Nat)} (hs : s.Canon) :
    Yields (fun r => r.2.Canon) (s.runAccess w c write ps) := by
  unfold State.runAccess
  split
  · exact trivial
  next s1 hx =>
    have hs1 : s1.Canon := (accessPieces_canon hs).of_ok hx
    exact hs1

theorem unitStep_canon {s : State} {t : Nat} {c : Copy} {u : CopyUnit} (hs : s.Canon) : Yields (fun r => r.1.Canon) (s.unitStep t c u) := by
  unfold State.unitStep
  split
  · exact (portRead_canon hs).bind fun ⟨_, _, _⟩ hs1 => (portWrite_canon hs1).bind fun ⟨_, _⟩ hs2 => readTaint_canon hs2
  · exact (runAccess_canon hs).bind fun ⟨_, _⟩ hs1 => .check Yields.any (readTaint_canon (loadPieces_canon hs1))
  · exact (portRead_canon hs).bind fun ⟨_, _, _⟩ hs1 => (runAccess_canon hs1).bind fun ⟨_, _⟩ hs2 => storePieces_canon hs2
  · exact (portRead_canon hs).bind fun ⟨_, _, _⟩ hs1 => (runAccess_canon hs1).bind fun ⟨_, _⟩ hs2 =>
      .check Yields.any (readTaint_canon (storePieces_canon (loadPieces_canon hs2)))
  · exact (portRead_canon hs).bind fun ⟨_, _, _⟩ hs1 => hs1
  · exact spadNow_canon hs
  · exact hs
  · exact hs

theorem poisonHome_canon {s : State} {w : Issuer} {a : Acc} (hs : s.Canon) : (s.poisonHome w a).Canon := by
  unfold State.poisonHome
  split
  · extract_lets s1
    have hs1 : s1.Canon := dropLine_canon hs
    exact ite_canon hs1 (hs1.upd rfl)
  · exact ite_canon hs (hs.upd rfl)

theorem poisonPort_canon {s : State} {w : Issuer} {c : Copy} {p : Port} (hs : s.Canon) : (s.poisonPort w c p).Canon := by
  unfold State.poisonPort
  split
  · exact spadSetPoison_canon hs
  · exact ite_canon (spadSetPoison_canon hs) hs
  · exact hs
  · exact hs
  · split
    next s1 hx =>
      have hs1 : s1.Canon := (accessPort_canon hs).of_ok hx
      exact foldl_canon (fun _ _ hs2 => poisonHome_canon hs2) hs1
    · exact hs

theorem carry_canon {s : State} {w : Issuer} {c : Copy} {src dst : Port} {n : Nat} (hs : s.Canon) : (s.carry w c src dst n).Canon :=
  foldl_canon (fun _ _ hs1 => poisonPort_canon hs1) hs

theorem carryPoison_canon {s : State} {t : Nat} {c : Copy} {u : CopyUnit} (hs : s.Canon) : (s.carryPoison t c u).Canon := by
  unfold State.carryPoison
  split
  · exact carry_canon hs
  · exact foldl_canon (fun _ _ hs1 => carry_canon hs1) hs
  · exact foldl_canon (fun _ _ hs1 => carry_canon hs1) hs
  · exact foldl_canon (fun _ _ hs1 => carry_canon hs1) hs
  · exact hs

theorem copyPending_canon {s : State} {k t : Nat} {i : TrapInfo} (hs : s.Canon) : (s.copyPending k t i).Canon := by
  unfold State.copyPending
  split
  · exact parkRecord_canon (stopTask_canon hs)

theorem landTo_canon {s : State} {k : Nat} {c : Copy} {wp : Nat} (hs : s.Canon) : (s.landTo k c wp).Canon :=
  ite_canon (doneTask_canon (setHandle_canon hs)) (setHandle_canon hs)

theorem landUnit_canon {s : State} {k : Nat} (hs : s.Canon) : (s.landUnit k).Canon := by
  unfold State.landUnit
  dsimp only
  split
  · split
    · exact hs
    · split
      · exact hs
      · exact ite_canon (stopTask_canon hs) (setTask_canon hs)
      · exact hs
      · split
        · exact hs
        · split
          · exact workStop_canon hs
          · exact failTaint_canon (carryPoison_canon hs)
          · exact copyPending_canon hs
          next s1 _ _ hx =>
            have hs1 : s1.Canon := (unitStep_canon hs).of_ok hx
            split
            · exact landTo_canon (setTask_canon hs1)
            · exact setTask_canon hs1
  · exact hs

theorem haloArrive_canon {s : State} {k : Nat} (hs : s.Canon) : (s.haloArrive k).Canon := by
  unfold State.haloArrive
  extract_lets x s1
  have hs1 : s1.Canon := release_canon hs
  split
  · exact ite_canon hs (ite_canon hs (ite_canon (stopTask_canon hs) (ite_canon hs (doneTask_canon (setHandle_canon (hs1.upd rfl))))))
  · exact hs

theorem execXrel_canon {h : BitVec 6} {s : State} (hs : s.Canon) : OutCanon (execXrel h s) := by
  unfold execXrel
  refine finish_canon ?_
  dsimp only
  split
  · exact xfrShapeOpen_canon hs
  · split
    · exact hs
    · exact xfrShapeOpen_canon hs
    · exact xfrShapeOpen_canon hs
    · exact holdAt_canon hs
    · exact hs

theorem execXabort_canon {h : BitVec 6} {s : State} (hs : s.Canon) : OutCanon (execXabort h s) := by
  unfold execXabort
  refine finish_canon ?_
  dsimp only
  split
  · exact xfrShapeOpen_canon hs
  · split
    · split
      · exact abortTask_canon hs
      · exact hs
    · split
      · exact abortTask_canon hs
      · exact hs
    · exact hs

end Sys2Proof.Machine
end

section
/-! SUPPORT. What the device keeps: canonical memory over translation control, gangs, links and power. -/

namespace Sys2Proof.Machine

/-! ## Translation control and shootdown -/

theorem shootDown_canon {s : State} {sel : TlbSel} {who : ShootBy} (hs : s.Canon) : (s.shootDown sel who).Canon :=
  ite_canon hs (foldl_canon (fun _ _ hs1 => sendPacket_canon hs1) (hs.upd rfl))

theorem acknowledge_canon {s : State} {d : Nat} (hs : s.Canon) : (s.acknowledge d).Canon := by
  unfold State.acknowledge
  extract_lets xs named s1 s2
  have hs1 : s1.Canon := drainPosted_canon hs
  have hs2 : s2.Canon := foldl_canon (fun _ _ hs2 => physBack_canon hs2) hs1
  exact ite_canon hs (hs2.upd rfl)

theorem synTlbi_canon {ok : Bool} {sel : TlbSel} {s : State} (hs : s.Canon) : OutCanon (synTlbi ok sel s) :=
  finish_canon ((needPriv_canon hs).bind fun _ _ => .ite (.ite (holdAt_canon hs) (acquire_canon (setStage_canon hs)))
    (.ite (openTrap_canon hs) (.ite (holdAt_canon (setStage_canon (shootDown_canon hs))) (acquire_canon (shootDown_canon hs)))))

theorem migStatus_canon {s : State} {d a v : Nat} (hs : s.Canon) : (s.migStatus d a v).Canon := cmdStatus_canon hs

theorem migBegin_canon {s : State} {d a : Nat} (hs : s.Canon) : (s.migBegin d a).Canon := by
  unfold State.migBegin
  refine ite_canon ?_ ?_
  · exact hs
  · dsimp only
    split
    · exact migStatus_canon hs
    · split
      · exact migStatus_canon hs
      · exact migStatus_canon hs
      · exact ite_canon (migStatus_canon hs) (ite_canon (migStatus_canon hs) (setDie_canon (shootDown_canon (homeWriteDword_canon hs))))

theorem execMigrationStart_canon {d : Nat} {s : State} (hs : s.Canon) : OutCanon (execMigrationStart d s) := by
  unfold execMigrationStart
  split
  · exact hs
  · split
    · exact migBegin_canon (setDie_canon hs)
    · exact hs

theorem flushEverywhere_canon {s : State} {pa n : Nat} (hs : s.Canon) : (s.flushEverywhere pa n).Canon :=
  foldl_canon (fun _ _ hs1 => foldl_canon (fun _ _ hs2 => ite_canon hs2 (dropLine_canon hs2)) hs1) hs

theorem copyHome_canon {s : State} {cid src dst n : Nat} (hs : s.Canon) : (s.copyHome cid src dst n).Canon := by
  unfold State.copyHome
  extract_lets bs bad s1
  have hs1 : s1.Canon := homeWrite_canon hs
  exact hs1.upd rfl

theorem pageFree_canon {s : State} {cid va n : Nat} (hs : s.Canon) : (s.pageFree cid va n).Canon := foldl_canon (fun _ _ hs1 => setTask_canon hs1) hs

theorem migEnd_canon {s : State} {d : Nat} {m : Mig} (hs : s.Canon) : (s.migEnd d m).Canon :=
  ite_canon hs (pageFree_canon (setDie_canon (migStatus_canon (homeWriteDword_canon (copyHome_canon (flushEverywhere_canon hs))))))

theorem execMigrationFinish_canon {d : Nat} {s : State} (hs : s.Canon) : OutCanon (execMigrationFinish d s) := by
  unfold execMigrationFinish
  split
  · exact hs
  · split
    · exact migEnd_canon hs
    · exact hs

theorem queueMig_canon {s : State} {d : Nat} {v : Dword} (hs : s.Canon) : (s.queueMig d v).Canon := ite_canon (setDie_canon hs) hs

theorem wordLost_canon {s : State} {t : Nat} {e : Engine} {va n : Nat} (hs : s.Canon) : (s.wordLost t e va n).Canon := by
  unfold State.wordLost
  split
  · exact ite_canon (ite_canon (modThr_canon hs) (raise_canon hs)) hs
  · exact hs

theorem taskLost_canon {s : State} {k : Nat} (hs : s.Canon) : (s.taskLost k).Canon := by
  unfold State.taskLost
  split
  · exact hs
  · exact collAbort_canon hs
  · exact reshardAbort_canon hs
  · exact stopTask_canon hs

theorem pageLost_canon {s : State} {cid va n : Nat} (hs : s.Canon) : (s.pageLost cid va n).Canon := by
  unfold State.pageLost
  refine foldl_canon (fun s1 a hs1 => ?_) (foldl_canon (fun _ _ hs1 => ite_canon (foldl_canon (fun _ _ hs2 => wordLost_canon hs2) hs1) hs1) hs)
  split
  · exact ite_canon (taskLost_canon hs1) hs1
  · exact hs1

theorem parkedLost_canon {s : State} {d : Nat} (hs : s.Canon) :
    (s.parkedLost d).Canon := foldl_canon (fun _ _ hs1 => ite_canon (taskLost_canon hs1) hs1) hs

theorem migLost_canon {s : State} {lost : Nat} (hs : s.Canon) : (s.migLost lost).Canon := by
  unfold State.migLost
  refine foldl_canon (fun s1 a hs1 => ?_) hs
  split
  · exact ite_canon (setDie_canon (pageLost_canon (ite_canon (migStatus_canon (ite_canon hs1 (homeWriteDword_canon hs1)))
      (ite_canon hs1 (homeWriteDword_canon hs1))))) hs1
  · exact hs1

theorem writeParkRing_canon {s : State} {d n : Nat} {v : Dword} (hs : s.Canon) : (s.writeParkRing d n v).Canon := retryParks_canon (setDie_canon hs)

theorem loseBlocks_canon {s : State} {d : Nat} (hs : s.Canon) : (s.loseBlocks d).Canon := by
  unfold State.loseBlocks
  refine foldl_canon (fun s1 a hs1 => ?_) hs
  split
  · exact hs1
  · split
    · exact stopTask_canon (sieveRecord_canon (sieveRestore_canon hs1))
    · exact stopTask_canon hs1

theorem dropEntriesOf_canon {s : State} {d : Nat} (hs : s.Canon) : (s.dropEntriesOf d).Canon := hs.upd rfl

theorem loseAtomos_canon {s : State} {d : Nat} (hs : s.Canon) : (s.loseAtomos d).Canon := by
  unfold State.loseAtomos
  extract_lets all s1
  have hs1 : s1.Canon := foldl_canon (fun _ _ hs1 => endAtomo_canon hs1) hs
  exact hs1.upd rfl

theorem discardLinesOf_canon {s : State} {d : Nat} (hs : s.Canon) : (s.discardLinesOf d).Canon :=
  foldl_canon (fun _ _ hs1 => ite_canon hs1 (log_canon hs1)) (hs.upd rfl)

theorem losePartiesOf_canon {s : State} {d : Nat} (hs : s.Canon) : (s.losePartiesOf d).Canon := loseParties_canon hs

theorem loseGangsOn_canon {s : State} {d : Nat} (hs : s.Canon) : (s.loseGangsOn d).Canon :=
  foldl_canon (fun _ _ hs1 => ite_canon (loseGang_canon hs1) hs1) hs

theorem loseCollsOn_canon {s : State} {d : Nat} (hs : s.Canon) : (s.loseCollsOn d).Canon := by
  unfold State.loseCollsOn
  refine foldl_canon (fun s1 a hs1 => ?_) hs
  split
  · exact ite_canon (collAbort_canon hs1) hs1
  · exact ite_canon (reshardAbort_canon hs1) hs1
  · exact hs1

theorem loseSlotsOn_canon {s : State} {d : Nat} (hs : s.Canon) : (s.loseSlotsOn d).Canon := hs.upd rfl

theorem homeLostEvent_canon {s : State} {d : Nat} (hs : s.Canon) : (s.homeLostEvent d).Canon := by
  unfold State.homeLostEvent
  extract_lets s1 s2 s3
  have hs1 : s1.Canon := dropPackets_canon (hs.upd rfl)
  have hs2 : s2.Canon := loseAtomos_canon (dropEntriesOf_canon (loseBlocks_canon hs1))
  have hs3 : s3.Canon := discardLinesOf_canon (drainPosted_canon (hs2.upd rfl))
  exact parkedLost_canon (migLost_canon (losePartiesOf_canon (loseHome_canon (loseGangsOn_canon (loseSlotsOn_canon (loseCollsOn_canon hs3))))))

theorem loseDie_canon {s : State} {d : Nat} (hs : s.Canon) : (s.loseDie d).Canon := ite_canon (homeLostEvent_canon (setDie_canon hs)) hs

/-! ## Gangs, saves and restores -/

theorem agentRead_canon {s : State} {die cid va n : Nat} (hs : s.Canon) : Yields (fun r => r.2.Canon) (s.agentRead die cid va n) :=
  .ite hs ((accessLin_canon hs).bind fun ⟨_, _⟩ hs1 => loadAccs_canon hs1)

theorem agentWrite_canon {s : State} {die cid va : Nat} {bs : List Byte} (hs : s.Canon) : Yields State.Canon (s.agentWrite die cid va bs) :=
  (accessLin_canon hs).bind fun ⟨_, _⟩ hs1 => storeAccs_canon hs1

theorem loadStop_canon {s0 s : State} {n : Nat} {m : MemStop} (hs0 : s0.Canon) (hs : s.Canon) : (loadStop s0 s n m).Canon := by
  unfold loadStop
  split
  · exact stopNode_canon hs
  · exact hs0

theorem loadMember_canon {s : State} {t base len : Nat} (hs : s.Canon) : Yields (fun r => r.2.Canon) (s.loadMember t base len) :=
  (agentRead_canon hs).bind fun ⟨_, _⟩ hs1 => (agentRead_canon hs1).bind fun ⟨_, _⟩ hs2 =>
    .ite (Answers.bind (P := State.Canon) (ite_canon (modThr_canon hs2) (spadWrite_canon (modThr_canon hs2))) fun _ hs3 =>
    hs3) ((agentWrite_canon (ite_canon (modThr_canon hs2) (spadWrite_canon (modThr_canon hs2)))).bind fun _ hs3 => hs3)

theorem loadAll_canon {l : List (Nat × Nat)} {fuel : Nat} {s : State} (hs : s.Canon) : Yields (fun r => r.2.Canon) (loadAll l fuel s) := by
  induction l generalizing fuel s with
  | nil => exact hs
  | cons _ _ ih => exact (loadMember_canon hs).bind fun ⟨_, _⟩ hs1 => (ih hs1).bind fun ⟨_, _⟩ hs2 => hs2

theorem dispatchGang_canon {s : State} {n : Nat} {p : Place} {shares : Tab Range} (hs : s.Canon) : (s.dispatchGang n p shares).Canon := by
  unfold State.dispatchGang
  extract_lets x g t0 ts __src gang s' s'1 s'2
  have hs1 : s'.Canon := hs.upd rfl
  have hs2 : s'1.Canon := modNode_canon hs1
  have hs3 : s'2.Canon := hs2.upd rfl
  split
  · exact loadStop_canon hs hs3
  next s'3 hx =>
    have hs4 : s'3.Canon := (loadAll_canon hs3).of_ok hx
    exact stopNode_canon hs4
  next s'3 hx =>
    have hs4 : s'3.Canon := (loadAll_canon hs3).of_ok hx
    exact hs4

theorem dispatchOn_canon {s : State} {d : Nat} (hs : s.Canon) : (s.dispatchOn d).Canon := by
  unfold State.dispatchOn
  refine ite_canon ?_ ?_
  · exact hs
  · split
    · dsimp only
      split
      · exact hs
      · exact dispatchGang_canon hs
    · dsimp only
      split
      · exact hs
      · exact dispatchGang_canon hs

theorem startGang_canon {s : State} {g : Nat} (hs : s.Canon) : (s.startGang g).Canon :=
  ite_canon (foldl_canon (fun _ _ hs1 => modThr_canon hs1) (modGang_canon hs)) hs

theorem execReservationTimeout_canon {d : Nat} {s : State} (hs : s.Canon) : OutCanon (execReservationTimeout d s) := by
  unfold execReservationTimeout
  split
  · exact ite_canon hs (setDie_canon hs)
  · exact hs

theorem emptied_canon {s : State} (hs : s.Canon) : s.emptied.Canon := hs.upd rfl

theorem logUnplaceable_canon {s : State} {n : Nat} (hs : s.Canon) : (s.logUnplaceable n).Canon := ite_canon (log_canon (modNode_canon hs)) hs

theorem logUnplaceables_canon {s : State} (hs : s.Canon) : s.logUnplaceables.Canon := foldl_canon (fun _ _ hs1 => logUnplaceable_canon hs1) hs

theorem execReservationDrop_canon {d : Nat} {s : State} (hs : s.Canon) : OutCanon (execReservationDrop d s) := by
  unfold execReservationDrop
  split
  · exact hs
  · exact ite_canon hs (logUnplaceable_canon (modNode_canon (setDie_canon hs)))

theorem stopGang_canon {s : State} {g : Nat} {byCtxsv : Bool} {area : Nat} (hs : s.Canon) : (s.stopGang g byCtxsv area).Canon :=
  foldl_canon (fun _ _ hs1 => ite_canon (modThr_canon (arrayHalt_canon hs1)) hs1) (modGang_canon hs)

theorem endBoosts_canon {s : State} (hs : s.Canon) : s.endBoosts.Canon := foldl_canon (fun _ _ hs1 => ite_canon (modGang_canon hs1) hs1) hs

theorem freeBytes_canon {s : State} {n : Nat} (hs : s.Canon) : (s.freeBytes n).2.Canon := hs.upd rfl

theorem frameHead_canon {s : State} {t area : Nat} {own : List Byte} (hs : s.Canon) : Yields (fun r => r.2.Canon) (s.frameHead t area own) := by
  unfold State.frameHead
  dsimp only
  split
  · exact hs
  · exact .ite hs ((agentRead_canon hs).bind fun ⟨_, _⟩ hs1 => .ite trivial hs1)

theorem saveThread_canon {s : State} {area t : Nat} (hs : s.Canon) : Yields State.Canon (s.saveThread area t) := by
  unfold State.saveThread
  extract_lets th at_
  split
  next i s1 hx =>
    have hs1 : s1.Canon := .of_eq (fillTrap_canon hs) hx
    extract_lets s2
    have hs2 : s2.Canon := modThr_canon hs1
    split
    next eng s3 hy =>
      have hs3 : s3.Canon := .of_eq (freeBytes_canon hs2) hy
      extract_lets bs
      refine (frameHead_canon hs3).bind fun ⟨head, s4⟩ hs4 => ?_
      have hs4 : s4.Canon := hs4
      clear_value bs at_
      dsimp only
      split
      · exact agentWrite_canon hs4
      · exact agentWrite_canon hs4

theorem saveThreads_canon {area : Nat} {l : List Nat} {s : State} (hs : s.Canon) : Yields State.Canon (saveThreads area l s) := by
  induction l generalizing s with
  | nil => exact hs
  | cons _ _ ih =>
    unfold saveThreads
    split
    · exact trivial
    next s1 hx =>
      have hs1 : s1.Canon := (saveThread_canon hs).of_ok hx
      exact ih hs1

theorem poisonOut_canon {s : State} {die cid cluster a n va : Nat} (hs : s.Canon) : (s.poisonOut die cid cluster a n va).Canon := by
  unfold State.poisonOut
  refine foldl_canon (fun s1 a1 hs1 => ?_) hs
  split
  · split
    next s2 hx =>
      have hs2 : s2.Canon := (accessLin_canon hs1).of_ok hx
      exact hs2.upd rfl
    · exact hs1
  · exact hs1

theorem saveClusters_canon {g t0 : Nat} {l : List Nat} {at_ : Nat} {s : State} (hs : s.Canon) : Yields State.Canon (saveClusters g t0 l at_ s) := by
  induction l generalizing at_ s with
  | nil => exact hs
  | cons c cs ih =>
    rcases hx : s.freeBytes 0x10000 with ⟨objs, s1⟩
    have hs1 : s1.Canon := .of_eq (freeBytes_canon hs) hx
    rw [saveClusters_cons hx]
    split
    · trivial
    next s2 hy => exact ih (poisonOut_canon ((agentWrite_canon hs1).of_ok hy))

theorem gangPiecesBack_canon {s : State} {g : Nat} (hs : s.Canon) : (s.gangPiecesBack g).Canon :=
  foldl_canon (fun _ _ hs1 => ite_canon (foldl_canon (fun _ _ hs2 => cacheBack_canon hs2) hs1) hs1) hs

theorem clearGang_canon {s : State} {g : Nat} (hs : s.Canon) : (s.clearGang g).Canon := by
  unfold State.clearGang
  extract_lets x s1 s2
  have hs1 : s1.Canon := modGang_canon hs
  have hs2 : s2.Canon := hs1.upd rfl
  exact foldl_canon (fun _ _ hs3 => modThr_canon hs3) hs2

theorem saveGang_canon {s : State} {g : Nat} (hs : s.Canon) : (s.saveGang g).Canon := by
  unfold State.saveGang
  extract_lets x cid live t0 s1 s2
  have hs1 : s1.Canon := foldl_canon (fun _ _ hs1 => finishAtom_canon (finishMove_canon hs1)) hs
  refine ite_canon hs (ite_canon (stopNode_canon hs1) ?_)
  split
  · exact hs1
  · extract_lets s3
    have hs3 : s3.Canon := modGang_canon (drainPosted_canon hs1)
    split
    · split
      · exact stopNode_canon hs1
      · exact hs1
    next s4 hx =>
      have hs4 : s4.Canon := ((saveThreads_canon hs3).bind fun _ hs4 => saveClusters_canon hs4).of_ok hx
      exact clearGang_canon (gangPiecesBack_canon (ite_canon hs4 (hs4.upd rfl)))

theorem unpark_canon {s : State} {k t : Nat} (hs : s.Canon) : (s.unpark k t).Canon := by
  unfold State.unpark
  dsimp only
  split
  · exact foldl_canon (fun _ _ hs1 => ite_canon (endHandle_canon (settle_canon hs1)) hs1) (setTask_canon hs)
  · split
    · exact hs
    · split
      · exact endHandle_canon (settleTask_canon (setTask_canon hs))
      · exact settleTask_canon (setTask_canon hs)

theorem objectsBack_canon {s : State} {g : Nat} {ms : List (Nat × Nat)} (hs : s.Canon) : (s.objectsBack g ms).Canon := modGang_canon (hs.upd rfl)

theorem cleanDie_canon {s : State} {cid d : Nat} (hs : s.Canon) : (s.cleanDie cid d).Canon :=
  foldl_canon (fun _ _ hs1 => ite_canon hs1 (dropLine_canon hs1)) hs

theorem moveTasks_canon {s : State} {ts : List Nat} {ms : List (Nat × Nat)} (hs : s.Canon) : (s.moveTasks ts ms).Canon := hs.upd rfl

theorem loadThreads_canon {area : Nat} {go : Bool} {l : List Nat} {s : State} (hs : s.Canon) :
    Yields (fun r => r.2.Canon) (loadThreads area go l s) := by
  induction l generalizing s with
  | nil => exact hs
  | cons _ _ ih =>
    unfold loadThreads
    dsimp only
    split
    · exact trivial
    next s1 hx =>
      have hs1 : s1.Canon := (agentRead_canon hs).of_ok hx
      split
      · exact trivial
      next s2 hx1 =>
        have hs2 : s2.Canon := (ih (modThr_canon hs1)).of_ok hx1
        exact hs2

theorem loadClusters_canon {g t0 : Nat} {ms : List (Nat × Nat)} {shares : Tab Range} {l : List Nat} {fuel : Nat} {s : State} (hs : s.Canon) :
    Yields (fun r => r.2.Canon) (loadClusters g t0 ms shares l fuel s) := by
  induction l generalizing fuel s with
  | nil => exact hs
  | cons _ _ ih =>
    unfold loadClusters
    dsimp only
    split
    · exact trivial
    next s1 hx =>
      have hs1 : s1.Canon := (agentRead_canon hs).of_ok hx
      split
      · exact trivial
      next s2 hx1 =>
        have hs2 : s2.Canon := (ih (spadWrite_canon hs1)).of_ok hx1
        exact hs2

theorem restoreAt_canon {s : State} {g : Nat} {p : Place} {area : Nat} {go : Bool} (hs : s.Canon) : (s.restoreAt g p area go).Canon := by
  unfold State.restoreAt
  extract_lets x cid ms clusters oldDies live s1 t0
  have hs1 : s1.Canon := foldl_canon (fun _ _ hs1 => modThr_canon hs1) hs
  have loaded : ∀ a, Yields (fun r => r.2.Canon) ((do
      let (bad, s1) ← loadThreads area go live s1
      let (bad', s1) ← loadClusters g t0 ms x.shares clusters a s1
      Except.ok (bad.or (if bad' then some t0 else none), s1)) : Except (MemStop × Nat) (Option Nat × State)) := fun a =>
    (loadThreads_canon hs1).bind fun ⟨_, _⟩ hs2 => (loadClusters_canon hs2).bind fun ⟨_, _⟩ hs3 => hs3
  split
  · split
    · exact stopNode_canon hs
    · exact hs
  next hx => exact stopNode_canon ((loaded _).of_ok hx)
  next s2 hx =>
    have hs2 : s2.Canon := (loaded _).of_ok hx
    extract_lets s3 s4 s5 s6
    have hs5 : s5.Canon :=
      foldl_canon (fun _ _ h => foldl_canon (fun _ _ h => ite_canon (unpark_canon h) h) h) (moveTasks_canon (objectsBack_canon hs2))
    have hs6 : s6.Canon := ite_canon hs5 (freeArea_canon hs5)
    exact foldl_canon (fun _ _ h => ite_canon h (cleanDie_canon h)) hs6

theorem restoreGang_canon {s : State} {g die core area : Nat} (hs : s.Canon) : (s.restoreGang g die core area).Canon := by
  unfold State.restoreGang
  split
  · exact loseGang_canon hs
  · split
    · exact hs
    · exact ite_canon (restoreAt_canon hs) hs

theorem fenceCore_canon {s : State} {d c : Nat} (hs : s.Canon) : (s.fenceCore d c).Canon := by
  unfold State.fenceCore
  refine ite_canon ?_ ?_
  · exact hs
  · refine logUnplaceables_canon (log_canon ?_)
    split
    · exact loseGang_canon (setDie_canon hs)
    · exact setDie_canon hs

/-! ## Ports and links -/

theorem logLink_canon {s : State} {d p : Nat} (hs : s.Canon) : (s.logLink d p).Canon := ite_canon (log_canon (log_canon hs)) (log_canon hs)

theorem dropHalos_canon {s : State} {d p : Nat} (hs : s.Canon) : (s.dropHalos d p).Canon := by
  unfold State.dropHalos
  refine foldl_canon (fun s1 a hs1 => ?_) hs
  split
  · exact ite_canon (stopTask_canon hs1) hs1
  · exact hs1

theorem portDown_canon {s : State} {d p : Nat} {st : LinkSt} (hs : s.Canon) : (s.portDown d p st).Canon := by
  unfold State.portDown
  split
  · extract_lets q again s1 s2
    have hs1 : s1.Canon := logLink_canon (bothEnds_canon hs)
    have hs2 : s2.Canon := forward_canon (hs1.upd rfl)
    exact dropHalos_canon (dropHalos_canon hs2)
  · extract_lets q again s1 s2
    have hs1 : s1.Canon := logLink_canon (bothEnds_canon hs)
    have hs2 : s2.Canon := forward_canon (hs1.upd rfl)
    exact hs2

theorem retrain_canon {s : State} {d p : Nat} (hs : s.Canon) : (s.retrain d p).Canon := ite_canon (bothEnds_canon hs) hs

theorem linkAct_canon {s : State} {act d p : Nat} (hs : s.Canon) : (s.linkAct act d p).Canon := by
  unfold State.linkAct
  refine ite_canon ?_ ?_
  · exact hs
  · split
    · exact retrain_canon hs
    · exact ite_canon hs (portDown_canon hs)
    · exact ite_canon (bothEnds_canon hs) hs
    · exact setAnyPort_canon hs
    · exact hs

theorem portBack_canon {s : State} {d p : Nat} (hs : s.Canon) : (s.portBack d p).Canon := ite_canon (flushPort_canon hs) hs

theorem linkUp_canon {s : State} {d p : Nat} {st : LinkSt} {lanes : Nat} (hs : s.Canon) : (s.linkUp d p st lanes).Canon := bothEnds_canon hs

theorem execLinkTrained_canon {d p lanes : Nat} {s : State} (hs : s.Canon) : OutCanon (execLinkTrained d p lanes s) :=
  portBack_canon (ite_canon hs (ite_canon (forward_canon (linkUp_canon hs))
    (ite_canon (forward_canon (logLink_canon (linkUp_canon hs))) (portDown_canon hs))))

theorem takeFlit_canon {s : State} {d p : Nat} {num : BitVec 16} (hs : s.Canon) : (s.takeFlit d p num).Canon := by
  unfold State.takeFlit
  split
  · dsimp only
    split
    · exact forward_canon (arrive_canon (setAnyPort_canon (hs.upd rfl)))
    · exact setAnyPort_canon (hs.upd rfl)
  · dsimp only
    split <;> exact setAnyPort_canon (hs.upd rfl)

theorem execFlitReceive_canon {d p : Nat} {num : BitVec 16} {crcOk : Bool} {s : State} (hs : s.Canon) : OutCanon (execFlitReceive d p num crcOk s) :=
  ite_canon hs (ite_canon (setAnyPort_canon (setAnyPort_canon hs)) (ite_canon (portBack_canon (takeFlit_canon (setAnyPort_canon hs)))
    (ite_canon (portBack_canon (setAnyPort_canon hs)) (setAnyPort_canon (setAnyPort_canon hs)))))

theorem loseLine_canon {s : State} {line : Nat} (hs : s.Canon) : (s.loseLine line).Canon := by
  unfold State.loseLine
  extract_lets s'
  have hs' : s'.Canon := by
    refine foldl_canon (fun s1 g hs1 => ?_) hs
    split
    · exact State.Canon.setMem (freeBytes_canon hs1) _ _
    · exact hs1
  exact hs'.upd rfl

theorem loseDirty_canon {s : State} {d : Nat} (hs : s.Canon) : (s.loseDirty d).Canon := foldl_canon (fun _ _ hs1 => loseLine_canon hs1) hs

theorem dieReset_canon {s : State} {d : Nat} (hs : s.Canon) : (s.dieReset d).Canon := by
  unfold State.dieReset
  extract_lets s1 s2 s3 s4
  have hs1 : s1.Canon := loseDirty_canon (loseDie_canon hs)
  have hs2 : s2.Canon := foldl_canon (fun _ _ hs2 => ite_canon hs2 (setAnyPort_canon (ite_canon hs2 (portDown_canon hs2)))) hs1
  have hs3 : s3.Canon := dropPackets_canon hs2
  have hs4 : s4.Canon := hs3.upd rfl
  exact logUnplaceables_canon (setDie_canon hs4)

theorem newRoutes_canon {s : State} (hs : s.Canon) : s.newRoutes.Canon := by
  unfold State.newRoutes
  extract_lets alive s1
  have hs1 : s1.Canon := foldl_canon (fun _ _ hs1 => dieReset_canon hs1) hs
  exact forward_canon (hs1.upd rfl)

theorem writeLnkctl_canon {s : State} {d : Nat} {v : Dword} (hs : s.Canon) : (s.writeLnkctl d v).Canon := linkAct_canon hs

/-! ## Power -/

theorem poisonMemory_canon {s : State} {g : Nat} (hs : s.Canon) : (s.poisonMemory g).Canon := log_canon (hs.upd rfl)

theorem countError_canon {s : State} {d : Nat} (hs : s.Canon) : (s.countError d).Canon := setDie_canon hs

theorem accWordError_canon {s : State} {t k : Nat} (hs : s.Canon) : (s.accWordError t k).Canon := by
  unfold State.accWordError
  split
  · exact replayed_canon hs
  · exact raise_canon (modThr_canon hs)

theorem accError_canon {s : State} {t k : Nat} (hs : s.Canon) : (s.accError t k).Canon := by
  unfold State.accError
  split
  · dsimp only
    split
    · exact fenceCore_canon hs
    · refine setDie_canon ?_
      split
      · exact ite_canon (consumeError_canon (fun _ hs1 => failError_canon hs1) hs) (accWordError_canon hs)
      · exact accWordError_canon hs
  · dsimp only
    split
    · exact fenceCore_canon hs
    · split
      · exact ite_canon (consumeError_canon (fun _ hs1 => failError_canon hs1) hs) (accWordError_canon hs)
      · exact accWordError_canon hs

theorem poisonCached_canon {s : State} {d g : Nat} (hs : s.Canon) : (s.poisonCached d g).Canon := ite_canon hs (log_canon (hs.upd rfl))

theorem execUncorrectableError_canon {site : UncSite} {s : State} (hs : s.Canon) : OutCanon (execUncorrectableError site s) := by
  unfold execUncorrectableError
  split
  · exact ite_canon (accError_canon hs) hs
  · exact ite_canon (raise_canon hs) hs
  · exact poisonMemory_canon hs
  · exact poisonCached_canon hs
  · exact hs.upd rfl
  · exact log_canon (hs.upd rfl)

theorem chargeLine_canon {s : State} {d tag line : Nat} (hs : s.Canon) : (s.chargeLine d tag line).Canon :=
  ite_canon (log_canon (hs.upd rfl)) (log_canon (foldl_canon (fun _ _ hs1 => modNode_canon hs1) (hs.upd rfl)))

theorem hurtLine_canon {s : State} {d tag line : Nat} {granules : BitVec 8} (hs : s.Canon) : (s.hurtLine d tag line granules).Canon :=
  chargeLine_canon (ite_canon hs (hs.upd rfl))

theorem evictRdc_canon {s : State} {d line : Nat} {bad : BitVec 8} (hs : s.Canon) : (s.evictRdc d line bad).Canon :=
  ite_canon hs (ite_canon (dropLine_canon hs) (hurtLine_canon (dropLine_canon hs)))

theorem evictLlc_canon {s : State} {line : Nat} {bad : BitVec 8} (hs : s.Canon) : (s.evictLlc line bad).Canon :=
  ite_canon hs (ite_canon (ite_canon (loseLine_canon hs) (hs.upd rfl)) (hurtLine_canon (ite_canon (loseLine_canon hs) (hs.upd rfl))))

theorem fenceSlice_canon {s : State} {d c : Nat} {bad : List Nat} (hs : s.Canon) : (s.fenceSlice d c bad).Canon := by
  unfold State.fenceSlice
  refine ite_canon ?_ ?_
  · exact hs
  · extract_lets lines units s1 s2 s3 s4
    have hs1 : s1.Canon := foldl_canon (fun _ _ hs1 => evictLlc_canon hs1) hs
    have hs2 : s2.Canon := hs1.upd rfl
    have hs3 : s3.Canon := foldl_canon (fun _ _ hs3 => foldl_canon (fun _ _ hs4 => failAtomo_canon hs4) hs3) hs2
    have hs4 : s4.Canon := setDie_canon hs3
    exact log_canon hs4

theorem lineError_canon {s : State} {line : Nat} {bad : BitVec 8} (hs : s.Canon) : (s.lineError line bad).Canon :=
  ite_canon (evictLlc_canon hs) (ite_canon (fenceSlice_canon (evictLlc_canon hs)) (setDie_canon (evictLlc_canon hs)))

theorem writeFence_canon {s : State} {d : Nat} {v : Dword} (hs : s.Canon) : (s.writeFence d v).Canon :=
  ite_canon (fenceCore_canon hs) (ite_canon (fenceSlice_canon hs) hs)

theorem setPlimit_canon {s : State} {v : Dword} (hs : s.Canon) : (s.setPlimit v).Canon := hs.upd rfl

theorem zeroScratch_canon {s : State} {d : Nat} (hs : s.Canon) : (s.zeroScratch d).Canon := hs.filterSpad _

theorem powerStart_canon {s : State} {d : Nat} (hs : s.Canon) : (s.powerStart d).Canon := by
  unfold State.powerStart
  split
  · exact ite_canon hs (ite_canon hs (setDie_canon (ite_canon (zeroScratch_canon hs) hs)))
  · extract_lets x __src s1
    have hs1 : __src.Canon := setDie_canon hs
    have hs2 : s1.Canon := ite_canon (zeroScratch_canon hs) hs
    exact ite_canon hs (ite_canon (hs1.upd rfl) (setDie_canon hs2))

theorem newPeriod_canon {s : State} {demand : List Nat} (hs : s.Canon) : (s.newPeriod demand).Canon := by
  unfold State.newPeriod
  extract_lets gs s1 s2
  have hs1 : s1.Canon := foldl_canon (fun _ _ hs1 => setDie_canon hs1) hs
  have hs2 : s2.Canon := foldl_canon (fun _ _ hs2 => powerStart_canon hs2) hs1
  exact hs2.upd rfl

theorem writePstate_canon {s : State} {d : Nat} {v : Dword} (hs : s.Canon) : (s.writePstate d v).Canon := setDie_canon hs

theorem writePendctl_canon {s : State} {d : Nat} {v : Dword} (hs : s.Canon) : (s.writePendctl d v).Canon := by
  unfold State.writePendctl
  extract_lets old s1
  have hs1 : s1.Canon := setDie_canon hs
  exact hs1.upd rfl

theorem writePlain_canon {s : State} {d n : Nat} {v : Dword} (hs : s.Canon) : (s.writePlain d n v).Canon :=
  ite_canon (setDie_canon hs) (ite_canon (setDie_canon hs) (ite_canon (setDie_canon hs)
    (ite_canon (setPlimit_canon hs) (ite_canon (setDie_canon hs) (ite_canon (setDie_canon hs) hs)))))

theorem writeCard_canon {s : State} {d off : Nat} {v : Dword} (hs : s.Canon) : (s.writeCard d off v).Canon := ite_canon hs (hs.upd rfl)

theorem writeNctl_canon {s : State} {v : Dword} (hs : s.Canon) : (s.writeNctl v).Canon :=
  ite_canon (releaseNode_canon hs) (ite_canon (cancelNode_canon hs) hs)

theorem writeCfg_canon {s : State} {d n : Nat} {v : Dword} (hs : s.Canon) : (s.writeCfg d n v).Canon :=
  ite_canon (writeNctl_canon hs) (ite_canon (queueMig_canon hs) (ite_canon (regionCommand_canon hs)
    (ite_canon (writeParkRing_canon hs) (ite_canon (writePendctl_canon hs)
    (ite_canon (writeLnkctl_canon hs) (ite_canon (writeFence_canon hs) (ite_canon (writePstate_canon hs) (writePlain_canon hs))))))))

end Sys2Proof.Machine
end

section
/-! SUPPORT. What the fabric and attention keep: canonical memory over FAB, KV blocks, masks and ATN. -/

namespace Sys2Proof.Machine

/-! ## FAB -/

theorem fabTrap_canon {α : Type} {s : State} {cause obj : Nat} {op : Dword} {P : α → Prop} (hs : s.Canon) : WordCanon P (fabTrap s cause obj op) :=
  trapAt_canon hs

theorem fabTrapOpen_canon {α : Type} {s : State} {cause obj : Nat} {P : α → Prop} (hs : s.Canon) : WordCanon P (fabTrapOpen s cause obj) := hs

theorem setFab_canon {s : State} {n : Nat} (hs : s.Canon) : (s.setFab n).Canon := modMe_canon hs

theorem dropDead_canon {s : State} {cid slot : Nat} (hs : s.Canon) : (s.dropDead cid slot).Canon := hs.upd rfl

theorem fabRead_canon {s : State} {a n : Nat} (hs : s.Canon) : WordCanon (fun r => r.2.Canon) (fabRead s a n) :=
  (liftMem_canon hs (accessLin_canon hs)).bind fun ⟨_, _⟩ hs1 => readTaint_canon (loadAccs_canon hs1)

theorem fabRanks_canon {s : State} {n a count : Nat} {op : Dword} (hs : s.Canon) : WordCanon (fun r => r.2.Canon) (fabRanks s n a count op) := by
  unfold fabRanks
  refine (fabRead_canon hs).bind fun ⟨bs, s1⟩ hs1 => ?_
  split
  next s2 hx =>
    have hs2 : s2.Canon := .of_eq hs1 hx
    split
    · exact hs2
    · exact fabTrap_canon hs2

theorem useRanks_canon {s : State} {n : Nat} {op : Dword} (hs : s.Canon) : WordCanon (fun r => r.2.Canon) (useRanks s n op) :=
  .ite (fabTrap_canon hs) (.ite hs (fabRanks_canon hs))

theorem execRanks_canon {n : BitVec 2} {a b : BitVec 6} {s : State} (hs : s.Canon) : OutCanon (execRanks n a b s) :=
  finish_canon (.ite (fabTrap_canon hs) (.ite (fabTrap_canon hs) ((fabRanks_canon hs).bind fun ⟨_, _⟩ hs1 => hs1)))

theorem execLyset_canon {j : BitVec 8} {a b : BitVec 6} {s : State} (hs : s.Canon) : OutCanon (execLyset j a b s) :=
  finish_canon (.ite (fabTrap_canon hs) (.ite (fabTrap_canon hs) (.ite (holdAt_canon (setFab_canon hs)) ((synRelease_canon hs).bind fun _ hs1 =>
    (useRanks_canon hs1).bind fun ⟨_, _⟩ hs2 => (fabRead_canon hs2).bind fun ⟨_, _⟩ hs3 =>
    .ite (fabTrap_canon hs3) (acquire_canon (setFab_canon (dropDead_canon (everySlot_canon hs3))))))))

theorem execLysetGet_canon {j : BitVec 8} {a : BitVec 6} {s : State} (hs : s.Canon) : OutCanon (execLysetGet j a s) :=
  finish_canon (.ite (fabTrap_canon hs) ((liftMem_canon hs (accessLin_canon hs)).bind fun ⟨_, _⟩ hs1 => storeAccs_canon hs1))

theorem beginReshard_canon {s : State} {cid slot : Nat} {x : Task} (hs : s.Canon) : (s.beginReshard cid slot x).Canon := by
  unfold State.beginReshard
  extract_lets __src
  have hs1 : __src.Canon := everySlot_canon hs
  exact hs1.upd rfl

theorem execReshard_canon {j : BitVec 8} {a : BitVec 6} {s : State} (hs : s.Canon) : OutCanon (execReshard j a s) :=
  finish_canon (.ite (fabTrapOpen_canon hs) (.ite (holdAt_canon (setFab_canon hs))
    (.ite (fabTrap_canon hs) ((takeEntry_canon hs).bind fun ⟨_, _⟩ hs1 => hs1))))

theorem copyBytes_canon {s : State} {w : Issuer} {src dst n : Nat} (hs : s.Canon) : Yields (fun r => r.2.Canon) (s.copyBytes w src dst n) := by
  unfold State.copyBytes
  split
  · exact trivial
  next s1 hx =>
    have hs1 : s1.Canon := (accessLin_canon hs).of_ok hx
    split
    · exact trivial
    next s2 hx1 =>
      have hs2 : s2.Canon := (accessLin_canon hs1).of_ok hx1
      exact .ite trivial (storeAccs_canon (loadAccs_canon hs2))

theorem copyRows_canon {s : State} {w : Issuer} {l : LSlot} {lt : Dword} {p : ReshardPair} {n : Nat} {l1 : List (List Nat)} (hs : s.Canon) :
    Yields (fun r => r.2.Canon) (s.copyRows w l lt p n l1) := by
  induction l1 generalizing s with
  | nil => exact hs
  | cons _ _ ih => exact (copyBytes_canon hs).bind fun ⟨_, _⟩ hs1 => (ih hs1).bind fun ⟨_, _⟩ hs2 => hs2

theorem reshardStep_canon {s : State} {k : Nat} (hs : s.Canon) : (s.reshardStep k).Canon := by
  unfold State.reshardStep
  dsimp only
  split
  · split
    · exact hs
    · split
      · exact hs
      · split
        next s1 hx =>
          have hs1 : s1.Canon := (copyRows_canon hs).of_ok hx
          exact setTask_canon (ite_canon (readTaint_canon hs1) hs1)
        · exact reshardAbort_canon hs
        · exact setTask_canon hs
        · exact ite_canon (reshardAbort_canon hs) (ite_canon (reshardAbort_canon hs) (parkTask_canon hs))
  · exact hs

theorem reshardEnd_canon {s : State} {k : Nat} (hs : s.Canon) : (s.reshardEnd k).Canon := by
  unfold State.reshardEnd
  dsimp only
  split
  · exact ite_canon hs (ite_canon (doneTask_canon (dropDead_canon (everySlot_canon hs)))
      (dropTask_canon (endBehalf_canon (dropDead_canon (everySlot_canon hs)))))
  · exact hs

theorem collGather_canon {s : State} {c : Coll} {m : CollMember} (hs : s.Canon) : Yields (fun r => r.2.Canon) (s.collGather c m) := by
  unfold State.collGather
  dsimp only
  split
  · exact trivial
  next s1 hx =>
    have hs1 : s1.Canon := (accessLin_canon hs).of_ok hx
    split
    · exact trivial
    · split
      · exact readTaint_canon (loadAccs_canon hs1)
      · split
        · split
          · exact trivial
          next s2 hx1 =>
            have hs2 : s2.Canon := (accessLin_canon (readTaint_canon (loadAccs_canon hs1))).of_ok hx1
            exact .ite trivial (storeAccs_canon (readTaint_canon (loadAccs_canon hs2)))
        · exact readTaint_canon (loadAccs_canon hs1)

theorem collStop_canon {s : State} {k : Nat} {c : Coll} {m : CollMember} {x : PartStop} (hs : s.Canon) : (s.collStop k c m x).Canon := by
  unfold State.collStop
  split
  · exact collAbort_canon hs
  · exact setTask_canon hs
  · exact ite_canon (collAbort_canon hs) (ite_canon (collAbort_canon hs) (ite_canon (collAbort_canon hs) (parkTask_canon hs)))

theorem collLand_canon {s : State} {m : CollMember} {off : Nat} {bs : List Byte} (hs : s.Canon) : (s.collLand m off bs).Canon :=
  setHandle_canon (spadNow_canon hs)

theorem collDone_canon {s : State} {k : Nat} {c : Coll} (hs : s.Canon) : (s.collDone k c).Canon :=
  dropTask_canon (foldl_canon (fun _ _ hs1 => settle_canon hs1) hs)

theorem ringLand_canon {s : State} {c : Coll} {l : LSlot} {b : Nat} {m : CollMember} (hs : s.Canon) : (s.ringLand c l b m).Canon := by
  unfold State.ringLand
  split
  · exact collLand_canon hs

theorem collMove_canon {s : State} {k : Nat} {c : Coll} {l : LSlot} {n : Nat} (hs : s.Canon) : (s.collMove k c l n).Canon := by
  unfold State.collMove
  split
  · exact ite_canon (setTask_canon (foldl_canon (fun _ _ hs1 => ringLand_canon hs1) hs))
      (collDone_canon (foldl_canon (fun _ _ hs1 => ringLand_canon hs1) hs))
  · split
    · split
      · exact setTask_canon hs
      · exact hs
    · exact collDone_canon (foldl_canon (fun _ _ hs1 => collLand_canon hs1) hs)

theorem collStep_canon {s : State} {k : Nat} (hs : s.Canon) : (s.collStep k).Canon := by
  unfold State.collStep
  dsimp only
  split
  · split
    · exact hs
    · split
      · split
        next s1 hx =>
          have hs1 : s1.Canon := (collGather_canon hs).of_ok hx
          exact setTask_canon hs1
        · exact collStop_canon hs
      · exact collMove_canon hs
  · exact hs

theorem collExpire_canon {s : State} {k : Nat} (hs : s.Canon) : (s.collExpire k).Canon := by
  unfold State.collExpire
  split
  · exact ite_canon hs (collAbort_canon hs)
  · exact hs

theorem collJoin_canon {s : State} {slot cseq : Nat} {m : CollMember} (hs : s.Canon) : (s.collJoin slot cseq m).Canon := by
  unfold State.collJoin
  dsimp only
  split
  · split
    · exact ite_canon (dropTask_canon (memberAbort_canon (hs.upd rfl))) (setTask_canon (memberAbort_canon (hs.upd rfl)))
    · exact ite_canon (setTask_canon (hs.upd rfl)) (collAbort_canon (setTask_canon (hs.upd rfl)))
  · exact hs.upd rfl

theorem collWord_canon {fn : Nat} {j : BitVec 8} {a b : BitVec 6} {s : State} (hs : s.Canon) : OutCanon (collWord fn j a b s) := by
  unfold collWord
  refine finish_canon ?_
  dsimp only
  split
  · exact fabTrap_canon hs
  · split
    · exact fabTrap_canon hs
    · split
      · exact holdAt_canon hs
      · split
        · exact fabTrapOpen_canon hs
        · split
          · exact fabTrapOpen_canon hs
          · split
            · exact fabTrapOpen_canon hs
            · exact fabTrap_canon hs
            · split
              · exact fabTrap_canon hs
              · split
                · exact hs
                · exact .ite (holdAt_canon hs) ((takeEntry_canon hs).bind fun ⟨_, _⟩ hs1 => collJoin_canon (bindHandle_canon hs1))

theorem execResid_canon {j : BitVec 8} {a b : BitVec 6} {s : State} (hs : s.Canon) : OutCanon (execResid j a b s) :=
  finish_canon (.ite (fabTrap_canon hs) (.ite (fabTrap_canon hs) (.ite (fabTrapOpen_canon hs) (.ite hs (.ite (fabTrapOpen_canon hs) hs)))))

/-! ## KV blocks -/

theorem atnTrap_canon {α : Type} {s : State} {cause : Nat} {op : Dword} {P : α → Prop} (hs : s.Canon) :
    WordCanon P (atnTrap s cause op) := trapAt_canon hs

theorem atnTrapNone_canon {α : Type} {s : State} {cause : Nat} {P : α → Prop} (hs : s.Canon) : WordCanon P (atnTrapNone s cause) := trapAt_canon hs

theorem atnNeed_canon {s : State} {ok : Bool} {op : Dword} (hs : s.Canon) :
    WordCanon (fun _ => True) (atnNeed s ok op) := .ite trivial (atnTrap_canon hs)

theorem atnAlign_canon {s : State} {a n : Nat} (hs : s.Canon) : WordCanon (fun _ => True) (atnAlign s a n) := .ite trivial hs

theorem blockRead_canon {s : State} {w : Issuer} {e : KtmEnt} {off n : Nat} (hs : s.Canon) : Yields (fun r => r.2.Canon) (s.blockRead w e off n) := by
  unfold State.blockRead
  split
  · exact trivial
  · exact loadHome_canon hs

theorem blockPut_canon {s : State} {w : Issuer} {e : KtmEnt} {off : Nat} {bs : List Byte} (hs : s.Canon) : (s.blockPut w e off bs).Canon := by
  unfold State.blockPut
  split
  · exact storeHome_canon hs
  · exact hs

theorem atnTaint_canon {s : State} {x : List Byte × Bool × Bool} (hs : s.Canon) : (atnTaint s x).Canon := readTaint_canon hs

theorem atnBlock_canon {s : State} {e : KtmEnt} {off n : Nat} (hs : s.Canon) : WordCanon (fun r => r.2.Canon) (atnBlock s e off n) :=
  (liftMem_canon hs (blockRead_canon hs)).bind fun ⟨_, _⟩ hs1 => atnTaint_canon hs1

theorem atnRead_canon {s : State} {a n : Nat} {home : Bool} (hs : s.Canon) : WordCanon (fun r => r.2.Canon) (atnRead s a n home) :=
  (liftMem_canon hs (accessLin_canon hs)).bind fun ⟨_, _⟩ hs1 => readTaint_canon (loadAccs_canon hs1)

theorem atnEntries_canon {s : State} {seq : Nat} {bs : List Nat} (hs : s.Canon) : WordCanon (fun _ => True) (atnEntries s seq bs) := by
  unfold atnEntries
  split
  · exact trivial
  · exact hs

theorem mapFrame_canon {s : State} {g : SeqBlk} {hk : Nat} {dhc : BitVec 2} {fmt : BitVec 5} {op : Dword} {i va : Nat} (hs : s.Canon) :
    WordCanon (fun r => r.2.Canon) (mapFrame s g hk dhc fmt op i va) :=
  (liftMem_canon hs (translate_canon hs)).bind fun ⟨_, _⟩ hs1 => (atnAlign_canon hs1).bind fun _ _ => .ite (atnTrap_canon hs1) hs1

theorem mapFrames_canon {s : State} {g : SeqBlk} {hk : Nat} {dhc : BitVec 2} {fmt : BitVec 5} {op : Dword} {l : List (Dword × Nat)} (hs : s.Canon) :
    WordCanon (fun r => r.2.Canon) (mapFrames s g hk dhc fmt op l) := by
  induction l generalizing s with
  | nil => exact hs
  | cons _ _ ih => exact (mapFrame_canon hs).bind fun ⟨_, _⟩ hs1 => (ih hs1).bind fun ⟨_, _⟩ hs2 => hs2

theorem mapHeaders_canon {s : State} {op : Dword} {l : List KtmEnt} (hs : s.Canon) : WordCanon State.Canon (mapHeaders s op l) := by
  induction l generalizing s with
  | nil => exact hs
  | cons _ _ ih => exact (atnBlock_canon hs).bind fun ⟨_, _⟩ hs1 => .ite (atnTrap_canon hs1) (ih hs1)

theorem mapMay_canon {s : State} {l : List KtmEnt} (hs : s.Canon) : WordCanon (fun _ => True) (mapMay s l) := by
  induction l generalizing s with
  | nil => exact trivial
  | cons _ _ ih =>
    unfold mapMay
    refine Answers.bind (P := fun _ => True) (liftMem_canon hs ?_) fun _ _ => ih hs
    exact Yields.any

theorem ktmEnter_canon {s : State} {room new : List KtmEnt} (hs : s.Canon) : (s.ktmEnter room new).Canon := hs.upd rfl

theorem kvmapWord_canon {new : Bool} {a : BitVec 6} {s : State} (hs : s.Canon) : OutCanon (kvmapWord new a s) := by
  unfold kvmapWord
  refine finish_canon ((atnAlign_canon hs).bind fun x _ => (atnRead_canon hs).bind fun ⟨bs, s1⟩ hs1 => (atnRead_canon hs1).bind fun ⟨fs, s2⟩ hs2 =>
    (atnNeed_canon hs2).bind fun x1 _ => ?_)
  split
  · exact atnTrap_canon hs2
  · refine (mapFrames_canon hs2).bind fun ⟨es, s3⟩ hs3 => Answers.bind (P := State.Canon)
      (.ite ((mapMay_canon hs3).bind fun _ _ => hs3) (mapHeaders_canon hs3)) fun s4 hs4 => ?_
    split
    · exact atnTrap_canon hs4
    · exact ktmEnter_canon (ite_canon (foldl_canon (fun _ _ hs5 => blockPut_canon hs5) hs4) hs4)

theorem kvlockWord_canon {lock : Bool} {a : BitVec 6} {s : State} (hs : s.Canon) : OutCanon (kvlockWord lock a s) :=
  finish_canon ((atnNeed_canon hs).bind fun _ _ => (atnEntries_canon hs).bind fun _ _ => .ite (atnTrap_canon hs) hs)

theorem atnHeader_canon {s : State} {e : KtmEnt} (hs : s.Canon) : WordCanon (fun r => r.2.Canon) (atnHeader s e) :=
  (atnBlock_canon hs).bind fun ⟨_, _⟩ hs1 => hs1

theorem appendCheck_canon {s : State} {l : List Append} (hs : s.Canon) : WordCanon (fun r => r.2.Canon) (appendCheck s l) := by
  induction l generalizing s with
  | nil => exact hs
  | cons _ _ ih =>
    unfold appendCheck
    refine Answers.bind (P := fun _ => True) (liftMem_canon hs ?_) fun _ _ =>
      .ite (Answers.bind (P := fun r : List Byte × State => r.2.Canon) hs fun ⟨_, _⟩ hs1 => (ih hs1).bind fun ⟨_, _⟩ hs2 =>
      hs2) ((atnBlock_canon hs).bind fun ⟨_, _⟩ hs1 => (ih hs1).bind fun ⟨_, _⟩ hs2 => hs2)
    exact Yields.any

theorem appendPart_canon {s : State} {x : Append} {before : List Nat} (hs : s.Canon) : (s.appendPart x before).Canon :=
  blockPut_canon (foldl_canon (fun _ _ hs1 => blockPut_canon hs1) (blockPut_canon hs))

theorem atnHeaders_canon {s : State} {l : List KtmEnt} (hs : s.Canon) : WordCanon (fun r => r.2.Canon) (atnHeaders s l) := by
  induction l generalizing s with
  | nil => exact hs
  | cons _ _ ih => exact (atnHeader_canon hs).bind fun ⟨_, _⟩ hs1 => (ih hs1).bind fun ⟨_, _⟩ hs2 => hs2

theorem execKvapp_canon {a : BitVec 6} {s : State} (hs : s.Canon) : OutCanon (execKvapp a s) :=
  finish_canon ((atnNeed_canon hs).bind fun _ _ => (atnNeed_canon hs).bind fun _ _ => (atnEntries_canon hs).bind fun _ _ =>
    (appendCheck_canon hs).bind fun ⟨_, _⟩ hs1 => (atnHeaders_canon hs1).bind fun ⟨_, _⟩ hs2 =>
    .ite (holdAt_canon hs2) (.ite (atnTrapNone_canon hs2) (foldl_canon (fun _ _ hs3 => appendPart_canon hs3) hs2)))

theorem rollBlocks_canon {s : State} {seq : Nat} {first : Bool} {fuel b : Nat} (hs : s.Canon) :
    WordCanon (fun r => r.2.2.Canon) (rollBlocks s seq first fuel b) := by
  induction fuel generalizing s b first with
  | zero => exact hs
  | succ _ ih =>
    unfold rollBlocks
    split
    · exact .ite hs hs
    · exact (atnHeader_canon hs).bind fun ⟨_, _⟩ hs1 => .ite hs1 (.ite hs1 ((ih hs1).bind fun ⟨_, _, _⟩ hs2 => hs2))

theorem rollAll_canon {s : State} {x : Nat} {go : Bool} {l : List (KtmEnt × Dword)} (hs : s.Canon) : WordCanon State.Canon (rollAll s x go l) := by
  induction l generalizing s with
  | nil => exact hs
  | cons _ _ ih =>
    unfold rollAll
    extract_lets f __do_jp
    split
    · exact ih hs
    · split
      · refine Answers.bind (P := fun r : List Byte × State => r.2.Canon) hs fun ⟨x1, x2⟩ hs1 =>
          Answers.bind (P := fun _ => True) (liftMem_canon hs1 ?_) fun _ _ => ih (ite_canon (blockPut_canon hs1) hs1)
        exact Yields.any
      · refine (atnBlock_canon hs).bind fun ⟨x1, x2⟩ hs1 => Answers.bind (P := fun _ => True) (liftMem_canon hs1 ?_) fun _ _ =>
          ih (ite_canon (blockPut_canon hs1) hs1)
        exact Yields.any

theorem execKvroll_canon {a : BitVec 6} {s : State} (hs : s.Canon) : OutCanon (execKvroll a s) :=
  finish_canon ((atnNeed_canon hs).bind fun _ _ => (rollBlocks_canon hs).bind fun ⟨_, _, _⟩ hs1 => (rollAll_canon hs1).bind fun _ hs2 =>
    (rollAll_canon hs2).bind fun _ hs3 => .ite (holdAt_canon (modMe_canon hs3)) hs3)

/-! ## Masks -/

theorem maskTrap_canon {α : Type} {s : State} {cause i : Nat} {P : α → Prop} (hs : s.Canon) : WordCanon P (maskTrap s cause i) := hs

theorem atnPlace_canon {s : State} {op : Dword} {n : Nat} (hs : s.Canon) :
    WordCanon (fun _ => True) (atnPlace s op n) := .ite (atnTrap_canon hs) trivial

theorem atnScratch_canon {s : State} {a n : Nat} (hs : s.Canon) : WordCanon (fun r => r.2.Canon) (atnScratch s a n) := by
  unfold atnScratch
  split
  · exact hs
  · exact (spadRead_canon hs).bind fun ⟨_, _⟩ _ => readTaint_canon hs

theorem execMprog_canon {n : BitVec 2} {a b : BitVec 6} {s : State} (hs : s.Canon) : OutCanon (execMprog n a b s) := by
  unfold execMprog
  refine finish_canon ((atnPlace_canon hs).bind fun pa _ => (atnPlace_canon hs).bind fun ta _ => (atnAlign_canon hs).bind fun x _ =>
    (atnAlign_canon hs).bind fun x1 _ => (atnScratch_canon hs).bind fun ⟨t0, s1⟩ hs1 => ?_)
  split
  next s2 hx =>
    have hs2 : s2.Canon := .of_eq hs1 hx
    dsimp only
    split
    · exact maskTrap_canon hs2
    · refine (atnPlace_canon hs2).bind fun x3 _ => (atnScratch_canon hs2).bind fun ⟨x4, x5⟩ hs3 => ?_
      split
      · exact maskTrap_canon hs3
      · refine (atnScratch_canon hs3).bind fun ⟨x7, x8⟩ hs4 => ?_
        split
        · exact maskTrap_canon hs4
        · exact hs4

theorem atnDest_canon {s : State} {v : Dword} {len : Nat} (hs : s.Canon) : WordCanon (fun _ => True) (atnDest s v len) := by
  unfold atnDest
  refine (spadOperand_canon hs).bind fun d _ => (atnAlign_canon hs).bind fun x _ => ?_
  split
  · exact hs
  · exact trivial

theorem atnHandle_canon {s : State} {h : Nat} {v : Dword} (hs : s.Canon) : WordCanon (fun _ => True) (atnHandle s h v) :=
  .ite (atnTrap_canon hs) (.ite (holdAt_canon hs) trivial)

theorem execMeval_canon {n : BitVec 2} {a : BitVec 6} {s : State} (hs : s.Canon) : OutCanon (execMeval n a s) :=
  finish_canon ((atnNeed_canon hs).bind fun _ _ => (atnNeed_canon hs).bind fun _ _ => (atnNeed_canon hs).bind fun _ _ =>
    .check (atnTrapNone_canon hs) ((atnDest_canon hs).bind fun _ _ => (atnHandle_canon hs).bind fun _ _ =>
    modMe_canon (setHandle_canon (spadNow_canon (bindHandle_canon hs)))))

/-! ## ATN -/

theorem execPatt_canon {q : BitVec 5} {a : BitVec 6} {s : State} (hs : s.Canon) : OutCanon (execPatt q a s) := by
  unfold execPatt
  refine finish_canon ((atnNeed_canon hs).bind fun x _ => (atnNeed_canon hs).bind fun x1 _ => (atnNeed_canon hs).bind fun x2 _ =>
    (atnNeed_canon hs).bind fun x3 _ => (atnEntries_canon hs).bind fun es _ => ?_)
  split
  · exact hs
  · exact .check (atnTrapNone_canon hs) (.check (atnTrapNone_canon hs)
      (.check (atnTrapNone_canon hs) (.check (atnTrapNone_canon hs) ((atnDest_canon hs).bind fun _ _ => (atnHandle_canon hs).bind fun _ _ =>
      (takeEntry_canon hs).bind fun ⟨_, _⟩ hs1 => hs1))))

theorem blockGet_canon {s : State} {t : Nat} {e : KtmEnt} {off n : Nat} (hs : s.Canon) : Yields (fun r => r.2.Canon) (s.blockGet t e off n) := by
  unfold State.blockGet
  split
  · exact trivial
  next s1 hx =>
    have hs1 : s1.Canon := (blockRead_canon hs).of_ok hx
    exact .ite trivial (readTaint_canon hs1)

theorem pattSlot_canon {s : State} {t : Nat} {e : KtmEnt} {x : Patt} {cls : Nat} {pids : List Nat} {h p : Nat} (hs : s.Canon) :
    Yields (fun r => r.2.Canon) (s.pattSlot t e x cls pids h p) :=
  .ite ((blockGet_canon hs).bind fun ⟨_, _⟩ hs1 => .ite hs1 ((blockGet_canon hs1).bind fun ⟨_, _⟩ hs2 => (blockGet_canon hs2).bind fun ⟨_, _⟩ hs3 =>
    hs3)) (Answers.bind (P := fun r : List Byte × State => r.2.Canon) hs fun ⟨_, _⟩ hs1 =>
    .ite hs1 ((blockGet_canon hs1).bind fun ⟨_, _⟩ hs2 => (blockGet_canon hs2).bind fun ⟨_, _⟩ hs3 => hs3))

theorem pattSlots_canon {s : State} {t : Nat} {e : KtmEnt} {x : Patt} {cls : Nat} {pids : List Nat} {l : List (Nat × Nat)} (hs : s.Canon) :
    Yields (fun r => r.2.Canon) (s.pattSlots t e x cls pids l) := by
  induction l generalizing s x with
  | nil => exact hs
  | cons _ _ ih => exact (pattSlot_canon hs).bind fun ⟨_, _⟩ hs1 => ih hs1

theorem pattBlock_canon {s : State} {t : Nat} {e : KtmEnt} {x : Patt} (hs : s.Canon) : Yields (fun r => r.2.Canon) (s.pattBlock t e x) := by
  unfold State.pattBlock
  split
  · exact hs
  · exact .ite hs (.ite ((blockGet_canon hs).bind fun ⟨_, _⟩ hs1 => pattSlots_canon hs1)
      (Answers.bind (P := fun r : List Byte × State => r.2.Canon) hs fun ⟨_, _⟩ hs1 => pattSlots_canon hs1))

theorem atnStop_canon {s : State} {k : Nat} {x : BlockStop} (hs : s.Canon) : (s.atnStop k x).Canon := by
  unfold State.atnStop
  split
  · exact failTaint_canon hs
  · exact workStop_canon hs

/-- What a patt says about a block's header carries a state with canonical memory. -/
def HdrSays.Canon : HdrSays → Prop
  | .read _ s => s.Canon
  | .wait s => s.Canon
  | .shape s => s.Canon

theorem pattHeader_canon {s : State} {t : Nat} {e : KtmEnt} {x : Patt} (hs : s.Canon) : Yields HdrSays.Canon (s.pattHeader t e x) := by
  unfold State.pattHeader
  split
  · exact hs
  · refine (blockGet_canon hs).bind fun ⟨hb, s1⟩ hs1 => ?_
    exact .ite hs1 (.ite hs1 hs1)

theorem pattStep_canon {s : State} {k : Nat} (hs : s.Canon) : (s.pattStep k).Canon := by
  unfold State.pattStep
  dsimp only
  split
  · split
    · exact hs
    · refine ite_canon hs ?_
      split
      · exact atnStop_canon hs
      · split
        · exact atnStop_canon hs
        next hx => exact (pattHeader_canon hs).of_ok hx
        next hx => exact failTaint_canon ((pattHeader_canon hs).of_ok hx)
        next x s1 hx =>
          have hs1 : s1.Canon := (pattHeader_canon hs).of_ok hx
          split
          · exact atnStop_canon (setTask_canon hs1)
          next s2 hy =>
            have hs2 : s2.Canon := (pattBlock_canon hs1).of_ok hy
            exact setTask_canon hs2
  · exact hs

theorem pattEnd_canon {s : State} {k : Nat} (hs : s.Canon) : (s.pattEnd k).Canon := by
  unfold State.pattEnd
  dsimp only
  split
  · exact ite_canon hs (doneTask_canon (modThr_canon (setHandle_canon (spadNow_canon hs))))
  · exact hs

theorem execCent_canon {a : BitVec 6} {s : State} (hs : s.Canon) : OutCanon (execCent a s) := by
  unfold execCent
  refine finish_canon ((atnNeed_canon hs).bind fun x _ => (atnNeed_canon hs).bind fun x1 _ => (atnEntries_canon hs).bind fun es _ =>
    .check (atnTrapNone_canon hs) ((atnAlign_canon hs).bind fun x2 _ => (atnRead_canon hs).bind fun ⟨bs, s1⟩ hs1 => ?_))
  split
  next s2 hx =>
    have hs2 : s2.Canon := .of_eq hs1 hx
    split
    · exact atnTrapNone_canon hs2
    · exact .check (atnTrapNone_canon hs2) ((takeEntry_canon hs2).bind fun ⟨_, _⟩ hs3 => hs3)

theorem centFill_canon {s : State} {t : Nat} {e : KtmEnt} {x : Cent} (hs : s.Canon) : Yields (fun r => r.2.Canon) (s.centFill t e x) := by
  unfold State.centFill
  split
  · exact hs
  · exact (blockGet_canon hs).bind fun ⟨_, _⟩ hs1 => .ite hs1 hs1

theorem homeAcc_canon {s : State} {t a n : Nat} {write : Bool} (hs : s.Canon) : Yields (fun r => r.2.Canon) (s.homeAcc t a n write) := by
  unfold State.homeAcc
  split
  · exact trivial
  next s1 hx =>
    have hs1 : s1.Canon := (accessLin_canon hs).of_ok hx
    exact hs1

theorem centAssign_canon {s : State} {t : Nat} {e : KtmEnt} {x : Cent} {y h : Nat} (hs : s.Canon) : Yields State.Canon (s.centAssign t e x y h) := by
  unfold State.centAssign
  refine (blockGet_canon hs).bind fun ⟨kb, s1⟩ hs1 => (homeAcc_canon hs1).bind fun ⟨as, s2⟩ hs2 => ?_
  split
  next s3 hx =>
    have hs3 : s3.Canon := .of_eq hs2 hx
    dsimp only
    split
    · exact trivial
    · split
      · exact readTaint_canon (loadAccs_canon hs3)
      · refine (homeAcc_canon (readTaint_canon (loadAccs_canon hs3))).bind fun ⟨x3, x4⟩ hs4 => ?_
        split
        · exact trivial
        · exact blockPut_canon (storeAccs_canon hs4)

theorem centStep_canon {s : State} {k : Nat} (hs : s.Canon) : (s.centStep k).Canon := by
  unfold State.centStep
  dsimp only
  split
  · split
    · exact hs
    · split
      · exact hs
      · split
        · exact atnStop_canon hs
        · split
          · exact atnStop_canon hs
          next s1 hx =>
            have hs1 : s1.Canon := (centFill_canon hs).of_ok hx
            exact hs1
          next s1 hx =>
            have hs1 : s1.Canon := (centFill_canon hs).of_ok hx
            split
            · exact ite_canon (doneTask_canon hs1) (setTask_canon hs1)
            · split
              · exact atnStop_canon (setTask_canon hs1)
              next s2 hx1 =>
                have hs2 : s2.Canon := (centAssign_canon hs1).of_ok hx1
                exact ite_canon (doneTask_canon hs2) (setTask_canon hs2)
  · exact hs

theorem execCsel_canon {q : BitVec 5} {a : BitVec 6} {s : State} (hs : s.Canon) : OutCanon (execCsel q a s) := by
  unfold execCsel
  refine finish_canon ((atnNeed_canon hs).bind fun x _ => (atnAlign_canon hs).bind fun x1 _ => (atnRead_canon hs).bind fun ⟨bs, s1⟩ hs1 => ?_)
  split
  next s2 hx =>
    have hs2 : s2.Canon := .of_eq hs1 hx
    split
    · exact atnTrapNone_canon hs2
    · exact .check (atnTrapNone_canon hs2) (.check (atnTrapNone_canon hs2) ((atnRead_canon hs2).bind fun ⟨_, _⟩ hs3 => hs3))

theorem retnMay_canon {s : State} {l : List (KtmEnt × Nat × List Byte)} (hs : s.Canon) : WordCanon (fun _ => True) (retnMay s l) := by
  induction l generalizing s with
  | nil => exact trivial
  | cons _ _ ih =>
    unfold retnMay
    refine Answers.bind (P := fun _ => True) (liftMem_canon hs ?_) fun _ _ => ih hs
    exact Yields.any

theorem retnSample_canon {bytes : State → Except Exit (List Byte × State)} {s : State}
  (hbytes : ∀ s, s.Canon → WordCanon (fun r => r.2.Canon) (bytes s)) (hs : s.Canon) :
    WordCanon (fun r => r.2.Canon) (retnSample bytes s) := by
  unfold retnSample
  split
  · exact hs
  · exact (hbytes _ hs).bind fun ⟨_, _⟩ hs1 => hs1

theorem retnWord_canon {s : State} {v c : Dword} {bytes : State → Except Exit (List Byte × State)} (hs : s.Canon)
  (hbytes : ∀ s, s.Canon → WordCanon (fun r => r.2.Canon) (bytes s)) :
    WordCanon State.Canon (retnWord s v c bytes) :=
  (atnEntries_canon hs).bind fun _ _ => Answers.bind (retnSample_canon (fun _ hs1 => hbytes _ hs1) hs) fun ⟨_, _⟩ hs1 =>
    (atnHeaders_canon hs1).bind fun ⟨_, _⟩ hs2 => .ite (holdAt_canon hs2)
    (.ite (atnTrapNone_canon hs2) ((retnMay_canon hs2).bind fun _ _ => modMe_canon (foldl_canon (fun _ _ hs3 => blockPut_canon hs3) hs2)))

theorem execRetn_canon {a b : BitVec 6} {s : State} (hs : s.Canon) : OutCanon (execRetn a b s) :=
  finish_canon ((atnNeed_canon hs).bind fun _ _ => (atnNeed_canon hs).bind fun _ _ =>
    retnWord_canon hs (fun _ hs1 => (atnPlace_canon hs1).bind fun _ _ => atnScratch_canon hs1))

theorem execRetnQ_canon {a : BitVec 6} {s : State} (hs : s.Canon) : OutCanon (execRetnQ a s) := by
  unfold execRetnQ
  refine finish_canon ((atnNeed_canon hs).bind fun x _ => (atnNeed_canon hs).bind fun x1 _ => ?_)
  split
  · exact holdAt_canon hs
  · exact Answers.bind (retnWord_canon hs (fun _ hs1 => hs1)) fun _ hs1 => hs1

theorem execSieve_canon {a : BitVec 6} {s : State} (hs : s.Canon) : OutCanon (execSieve a s) :=
  finish_canon ((atnNeed_canon hs).bind fun _ _ => (atnEntries_canon hs).bind fun _ _ => (atnAlign_canon hs).bind fun _ _ =>
    (takeEntry_canon hs).bind fun ⟨_, _⟩ hs1 => hs1)

theorem sieveHeaders_canon {s : State} {t : Nat} {l : List KtmEnt} (hs : s.Canon) : Yields (fun r => r.2.Canon) (s.sieveHeaders t l) := by
  induction l generalizing s with
  | nil => exact hs
  | cons _ _ ih =>
    unfold State.sieveHeaders
    refine (blockGet_canon hs).bind fun ⟨hb, s1⟩ hs1 => ?_
    split
    next s2 hx =>
      have hs2 : s2.Canon := .of_eq hs1 hx
      split
      · exact trivial
      · exact (ih hs2).bind fun ⟨_, _⟩ hs3 => hs3

theorem sieveTokens_canon {s : State} {t : Nat} {l : List (KtmEnt × Dword)} (hs : s.Canon) : Yields (fun r => r.2.Canon) (s.sieveTokens t l) := by
  induction l generalizing s with
  | nil => exact hs
  | cons _ _ ih =>
    unfold State.sieveTokens
    refine (blockGet_canon hs).bind fun ⟨f, s1⟩ hs1 => ?_
    split
    next s2 hx =>
      have hs2 : s2.Canon := .of_eq hs1 hx
      split
      · exact trivial
      · exact (ih hs2).bind fun ⟨_, _⟩ hs3 => hs3

theorem putToken_canon {s : State} {w : Issuer} {e : KtmEnt} {p : Nat} {x : Token} (hs : s.Canon) : (s.putToken w e p x).Canon :=
  foldl_canon (fun _ _ hs1 => blockPut_canon (blockPut_canon (blockPut_canon (blockPut_canon hs1)))) (blockPut_canon hs)

theorem fillBlock_canon {s : State} {w : Issuer} {e : KtmEnt} {xs : List Token} (hs : s.Canon) : (s.fillBlock w e xs).Canon :=
  blockPut_canon (foldl_canon (fun _ _ hs1 => putToken_canon hs1) hs)

theorem sieveBegin_canon {s : State} {k : Nat} {t : Task} {v : Sieve} {es : List KtmEnt} (hs : s.Canon) : (s.sieveBegin k t v es).Canon := by
  unfold State.sieveBegin
  split
  · exact failTaint_canon (sieveRecord_canon hs)
  · exact atnStop_canon hs
  next s1 hx =>
    have hs1 : s1.Canon := (sieveHeaders_canon hs).of_ok hx
    split
    · split
      · exact ite_canon (atnStop_canon hs1) (setTask_canon (foldl_canon (fun _ _ hs2 => setBlockState_canon hs2) hs1))
      next s2 hx1 =>
        have hs2 : s2.Canon := (homeAcc_canon hs1).of_ok hx1
        exact ite_canon (stopTask_canon (sieveRecord_canon hs2)) (setTask_canon (foldl_canon (fun _ _ hs3 => setBlockState_canon hs3) hs1))
    · split
      · exact ite_canon (atnStop_canon hs1) (setTask_canon (foldl_canon (fun _ _ hs2 => setBlockState_canon hs2) hs1))
      next s2 hx1 =>
        have hs2 : s2.Canon := (homeAcc_canon hs1).of_ok hx1
        exact ite_canon (stopTask_canon (sieveRecord_canon hs2)) (setTask_canon (foldl_canon (fun _ _ hs3 => setBlockState_canon hs3) hs1))

theorem sieveStay_canon {s : State} {k : Nat} {v : Sieve} {m : BlockStop} (hs : s.Canon) :
    (s.sieveStay k v m).Canon := atnStop_canon (setTask_canon hs)

theorem sieveMove_canon {s : State} {k : Nat} {t : Task} {v : Sieve} {es : List KtmEnt} (hs : s.Canon) : (s.sieveMove k t v es).Canon := by
  unfold State.sieveMove
  split
  · exact sieveStay_canon hs
  next s1 hx =>
    have hs1 : s1.Canon := (homeAcc_canon hs).of_ok hx
    split
    · exact failTaint_canon (sieveRecord_canon (sieveRestore_canon hs1))
    · exact sieveStay_canon hs1
    next s2 hx1 =>
      have hs2 : s2.Canon := (sieveHeaders_canon hs1).of_ok hx1
      split
      · exact failTaint_canon (sieveRecord_canon (sieveRestore_canon hs2))
      · exact sieveStay_canon hs2
      next s3 hx2 =>
        have hs3 : s3.Canon := (sieveTokens_canon hs2).of_ok hx2
        extract_lets back kept w s4 left s5
        have hs4 : s4.Canon := foldl_canon (fun _ _ hs4 => fillBlock_canon hs4) hs3
        have hs5 : s5.Canon := hs4.upd rfl
        exact doneTask_canon (sieveRecord_canon hs5)

theorem sieveStep_canon {s : State} {k : Nat} (hs : s.Canon) : (s.sieveStep k).Canon := by
  unfold State.sieveStep
  dsimp only
  split
  · split
    · exact hs
    · split
      · exact sieveStay_canon hs
      · exact ite_canon (sieveBegin_canon hs) (ite_canon (setTask_canon (sieveRestore_canon hs))
          (ite_canon hs (ite_canon (setTask_canon hs) (sieveMove_canon hs))))
  · exact hs

end Sys2Proof.Machine
end

section
/-! SUPPORT. What the host's side keeps: canonical memory over nodes, queues, bring-up and SYN. -/

namespace Sys2Proof.Machine

/-! ## Admission and nodes -/

theorem admissionRead_canon {s : State} {cid va n : Nat} (hs : s.Canon) : Yields (fun r => r.2.Canon) (admissionRead s cid va n) := by
  unfold admissionRead
  split
  next s1 hx =>
    have hs1 : s1.Canon := (agentRead_canon hs).of_ok hx
    exact hs1
  · exact trivial
  · exact trivial
  · exact trivial

theorem admissionOf_canon {s : State} {cid : Nat} {b : Body} {list : Bool} (hs : s.Canon) :
    Yields (fun r => r.2.Canon) (admissionOf s cid b list) := by
  unfold admissionOf
  split
  · exact trivial
  · split
    · exact trivial
    · refine (admissionRead_canon hs).bind fun ⟨hb, s1⟩ hs1 => ?_
      split
      next s2 hx =>
        have hs2 : s2.Canon := .of_eq hs1 hx
        extract_lets h
        split
        · exact trivial
        · exact (admissionRead_canon hs2).bind fun ⟨_, _⟩ hs3 => .ite
            (Answers.bind (P := fun r : List Byte × State => r.2.Canon) hs3 fun ⟨_, _⟩ hs4 =>
            .ite trivial (.ite trivial (.ite trivial hs4))) ((admissionRead_canon hs3).bind fun ⟨_, _⟩ hs4 =>
            .ite trivial (.ite trivial (.ite trivial hs4)))

theorem admission_canon {s : State} {cid : Nat} {b : Body} {list : Bool} (hs : s.Canon) : (s.admission cid b list).2.Canon := by
  unfold State.admission
  split
  next hx => exact (admissionOf_canon hs).of_ok hx
  · exact hs

theorem enterNode_canon {s : State} {cid : Nat} {b : Body} {a : Admission} {o : Origin} (hs : s.Canon) : (s.enterNode cid b a o).2.Canon := by
  unfold State.enterNode
  split
  · dsimp only
    split
    · exact readyNode_canon (hs.upd rfl)
    · exact hs.upd rfl
  · refine completeNode_canon ?_
    dsimp only
    exact hs.upd rfl
  · exact hs.upd rfl

theorem endNode_canon {s : State} {n : Nat} (hs : s.Canon) : (s.endNode n).Canon := ite_canon (modNode_canon hs) hs

/-! ## The host -/

theorem countTurn_canon {s : State} {q : Nat} {h : BitVec 32} (hs : s.Canon) : (s.countTurn q h).Canon := ite_canon hs (hs.upd rfl)

theorem packetEvent_canon {s : State} {q kind code : Nat} {b : Body} (hs : s.Canon) : (s.packetEvent q kind code b).Canon :=
  ite_canon (eventOn_canon hs) (event_canon hs)

theorem queueState_canon {s : State} {q : Nat} {st : QSt} (hs : s.Canon) : (s.queueState q st).Canon := report_canon (hs.upd rfl)

theorem queueErr_canon {s : State} {q : Nat} (hs : s.Canon) : (s.queueErr q).Canon := queueState_canon (ite_canon (eventOn_canon hs) (event_canon hs))

theorem accept_canon {s : State} {q : Nat} {done : Bool} (hs : s.Canon) : (s.accept q done).Canon := by
  unfold State.accept
  extract_lets b s1
  have hs1 : s1.Canon := ite_canon (packetEvent_canon hs) hs
  exact queueState_canon (hs1.upd rfl)

theorem refuse_canon {s : State} {q reason : Nat} (hs : s.Canon) : (s.refuse q reason).Canon := accept_canon (packetEvent_canon hs)

theorem fetched_canon {s : State} {q : Nat} (hs : s.Canon) : (s.fetched q).Canon := hs.upd rfl

theorem onPacket_canon {s : State} {q kind : Nat} {f : Body → State → State} (hs : s.Canon) (hf : ∀ x1 s, s.Canon → (f x1 s).Canon) :
    (s.onPacket q kind f).Canon :=
  ite_canon (countTurn_canon (ite_canon (ite_canon (fetched_canon hs) hs) (hf _ _ (ite_canon (fetched_canon hs) hs)))) hs

theorem execLaunchPacket_canon {q : Nat} {s : State} (hs : s.Canon) : OutCanon (execLaunchPacket q s) := by
  unfold execLaunchPacket
  refine onPacket_canon hs (fun x1 s1 hs1 => ?_)
  dsimp only
  split
  · exact hs1
  · split
    · exact hs1
    next s2 _ hx =>
      have hs2 : s2.Canon := .of_eq (admission_canon hs1) hx
      exact accept_canon (enterNode_canon hs2)

theorem enterEntries_canon {q at_ : Nat} {o : Origin} {n : Nat} {s : State} (hs : s.Canon) : (enterEntries q at_ o n s).Canon := by
  induction n generalizing s with
  | zero => exact hs
  | succ n ih =>
    unfold enterEntries
    dsimp only
    split
    · exact hs
    · exact queueErr_canon hs
    · exact queueErr_canon hs
    next hx =>
      refine ite_canon hs ?_
      split
      · exact hs
      next s2 _ hy =>
        have hs2 : s2.Canon := .of_eq (admission_canon ((agentRead_canon hs).of_ok hx)) hy
        exact ih ((enterNode_canon hs2).upd rfl)

theorem execGraphPacket_canon {q : Nat} {s : State} (hs : s.Canon) : OutCanon (execGraphPacket q s) := by
  unfold execGraphPacket
  refine onPacket_canon hs (fun x1 s1 hs1 => ?_)
  split
  · exact hs1
  · split
    · extract_lets n s2 x note
      have hs2 : s2.Canon := enterEntries_canon hs1
      exact ite_canon hs2 (accept_canon (hs2.upd rfl))
    · exact ite_canon (enterEntries_canon hs1) (accept_canon (enterEntries_canon hs1))

theorem seedPacket_canon {s : State} {q : Nat} {f : List SeedEntry → Option (List SeedEntry)} (hs : s.Canon) : (s.seedPacket q f).Canon := by
  unfold State.seedPacket
  dsimp only
  split
  · exact refuse_canon hs
  · exact accept_canon (hs.upd rfl)

theorem evalWait_canon {s : State} {q : Nat} {b : Body} (hs : s.Canon) : (s.evalWait q b).Canon := by
  unfold State.evalWait
  dsimp only
  split
  · exact hs
  · exact queueErr_canon hs
  next s1 hx =>
    have hs1 : s1.Canon := (accessLin_canon hs).of_ok hx
    exact ite_canon (queueErr_canon (loadAccs_canon hs1)) (ite_canon (accept_canon (loadAccs_canon hs1))
      (ite_canon (loadAccs_canon hs1) (queueState_canon (loadAccs_canon hs1))))

theorem execSignalPacket_canon {q : Nat} {s : State} (hs : s.Canon) : OutCanon (execSignalPacket q s) := by
  unfold execSignalPacket
  refine onPacket_canon hs (fun x1 s1 hs1 => ?_)
  dsimp only
  split
  · exact hs1
  · exact queueErr_canon hs1
  next s2 hx =>
    have hs2 : s2.Canon := (accessLin_canon hs1).of_ok hx
    exact accept_canon (hs2.upd rfl)

theorem signalErr_canon {s : State} {y : Signal} (hs : s.Canon) : (s.signalErr y).Canon := ite_canon (queueState_canon (event_canon hs)) hs

theorem writeSignal_canon {s : State} {n : Nat} (hs : s.Canon) : (s.writeSignal n).Canon := by
  unfold State.writeSignal
  split
  · exact hs
  · split
    · split
      · exact hs
      next s1 hx =>
        have hs1 : s1.Canon := (writeStatus_canon hs).of_some hx
        exact noteDone_canon (hs1.upd rfl)
    · refine ite_canon ?_ ?_
      · exact hs
      · extract_lets die s' done w
        have hs1 : s'.Canon := hs.upd rfl
        split
        · exact ite_canon (event_canon hs1) hs1
        · split
          · exact hs
          · exact signalErr_canon hs1
          next s1 hx =>
            have hs2 : s1.Canon := (accessLin_canon (domainRelease_canon hs1)).of_ok hx
            exact ite_canon (event_canon (domainRelease_canon (storeAccs_canon hs2))) (domainRelease_canon (storeAccs_canon hs2))

theorem statusWaits_canon {s : State} {die cid at_ : Nat} (hs : s.Canon) : Yields State.Canon (s.statusWaits die cid at_) := by
  unfold State.statusWaits
  split
  · exact hs
  · split
    · exact trivial
    next s1 hx =>
      have hs1 : s1.Canon := (accessLin_canon hs).of_ok hx
      exact hs1

theorem execReshardOnBehalf_canon {q : Nat} {s : State} (hs : s.Canon) : OutCanon (execReshardOnBehalf q s) := by
  unfold execReshardOnBehalf
  refine onPacket_canon hs fun b s1 hs1 => ?_
  extract_lets x slot
  have waits : Yields State.Canon (if x.atSlot = some slot then .ok s1 else s1.statusWaits x.die x.cid (b.addr 4)) := .ite hs1 (statusWaits_canon hs1)
  split
  · exact hs1
  · exact queueErr_canon hs1
  next s2 hx =>
    have hs2 : s2.Canon := waits.of_ok hx
    extract_lets l
    refine ite_canon (hs2.upd rfl) (ite_canon ?_ (accept_canon (beginReshard_canon hs2)))
    split
    next s3 hy =>
      have hs3 : s3.Canon := (writeStatus_canon hs2).of_some hy
      exact accept_canon hs3
    · exact hs2.upd rfl

theorem onControl_canon {s : State} {q sub : Nat} {f : Body → Nat → State → Except Nat State} (hs : s.Canon)
  (hf : ∀ x1 x2 s, s.Canon → Yields State.Canon (f x1 x2 s)) :
    (s.onControl q sub f).Canon := by
  unfold State.onControl
  refine onPacket_canon hs (fun x1 s1 hs1 => ?_)
  split
  · exact hs1
  · split
    · exact refuse_canon hs1
    next s' hx =>
      have hs2 : s'.Canon := (hf _ _ _ hs1).of_ok hx
      exact hs2

theorem modCtx_canon {s : State} {c : Nat} {f : Ctx → Ctx} (hs : s.Canon) : (s.modCtx c f).Canon := hs.upd rfl

theorem execContextStop_canon {q : Nat} {s : State} (hs : s.Canon) : OutCanon (execContextStop q s) :=
  onControl_canon hs (fun _ _ _ hs1 => .ite trivial (checkStopped_canon
    (foldl_canon (fun _ _ hs2 => ite_canon (queueState_canon hs2) hs2) (modCtx_canon (accept_canon hs1)))))

theorem execContextStart_canon {q : Nat} {s : State} (hs : s.Canon) : OutCanon (execContextStart q s) :=
  onControl_canon hs (fun _ _ _ hs1 => .ite trivial (foldl_canon (fun _ _ hs2 =>
    ite_canon (queueState_canon hs2) hs2) (modCtx_canon (accept_canon hs1))))

theorem detach_canon {s : State} {k : Nat} (hs : s.Canon) : (s.detach k).Canon := hs.upd rfl

theorem execContextDestroy_canon {q : Nat} {s : State} (hs : s.Canon) : OutCanon (execContextDestroy q s) := by
  unfold execContextDestroy
  refine onControl_canon hs fun b c s1 hs1 => .ite trivial ?_
  extract_lets s2 s3 s4 s5
  have hs3 : s3.Canon := foldl_canon (fun _ _ h => detach_canon h) (modCtx_canon (accept_canon hs1))
  have hs4 : s4.Canon := foldl_canon (fun _ _ h => ite_canon (cancelNode_canon h) h) hs3
  have hs5 : s5.Canon := foldl_canon (fun _ _ h => ite_canon (reshardAbort_canon h) h) hs4
  exact shootDown_canon hs5

theorem freeContext_canon {s : State} {c : Nat} (hs : s.Canon) : (s.freeContext c).Canon := by
  unfold State.freeContext
  refine ite_canon ?_ ?_
  · exact hs
  · extract_lets s1 s2 __src
    have hs1 : s1.Canon := foldl_canon (fun _ _ hs1 => removeRegion_canon hs1) hs
    have hs2 : s2.Canon := hs1.upd rfl
    exact modCtx_canon (event_canon hs2)

theorem resumeFrom_canon {s : State} {t : Nat} (hs : s.Canon) : Maybe State.Canon (s.resumeFrom t) := by
  unfold State.resumeFrom
  extract_lets th
  split
  · exact hs
  · split
    next m _ =>
      cases m.reason with
      | none => trivial
      | some r => exact stopNode_canon hs
    next hx => exact stopNode_canon ((agentRead_canon hs).of_ok hx)
    next hx => exact modThr_canon (dropArea_canon ((agentRead_canon hs).of_ok hx))

theorem execResumeThread_canon {q : Nat} {s : State} (hs : s.Canon) : OutCanon (execResumeThread q s) := by
  unfold execResumeThread
  refine onControl_canon hs (fun x1 x2 s1 hs1 => ?_)
  refine Answers.ite ?_ ?_
  · exact trivial
  · dsimp only
    split
    · exact accept_canon hs1
    · split
      · exact hs1
      · split
        · exact hs1
        next s2 hx =>
          have hs2 : s2.Canon := (resumeFrom_canon hs1).of_some hx
          exact accept_canon hs2

theorem execQdetach_canon {q : Nat} {s : State} (hs : s.Canon) : OutCanon (execQdetach q s) :=
  onControl_canon hs (fun _ _ _ hs1 => .ite trivial (ite_canon (detach_canon (accept_canon hs1)) (accept_canon hs1)))

theorem execQtailWrite_canon {q : Nat} {v : Dword} {s : State} (hs : s.Canon) : OutCanon (execQtailWrite q v s) := by
  unfold execQtailWrite
  dsimp only [OutCanon]
  split
  · exact hs.upd rfl
  · exact ite_canon (queueErr_canon (hs.upd rfl)) (hs.upd rfl)

/-! ## Bring-up -/

theorem loseAllDirty_canon {s : State} (hs : s.Canon) : s.loseAllDirty.Canon := foldl_canon (fun _ _ hs1 => loseLine_canon hs1) hs

theorem moduleReset_canon {s : State} (hs : s.Canon) : s.moduleReset.Canon := by
  obtain ⟨hm, _, hh⟩ := (State.canon_iff _).1 (loseAllDirty_canon hs)
  exact (State.canon_iff _).2 ⟨Tab.wf_filter _ _ hm, rfl, hh⟩

theorem coreReset_canon {s : State} {d c : Nat} (hs : s.Canon) : (s.coreReset d c).Canon := by
  unfold State.coreReset
  split
  · exact loseGang_canon hs
  · exact hs

theorem execSidebandReset_canon {scope : ResetScope} {d c : Nat} {s : State} (hs : s.Canon) : OutCanon (execSidebandReset scope d c s) := by
  unfold execSidebandReset
  split
  · exact moduleReset_canon hs
  · exact dieReset_canon hs
  · exact coreReset_canon hs

theorem enablePorts_canon {s : State} {d : Nat} {unconnected : List Nat} (hs : s.Canon) : (s.enablePorts d unconnected).Canon :=
  ite_canon (bothEnds_canon (foldl_canon (fun _ _ hs1 => linkAct_canon hs1) (foldl_canon (fun _ _ hs1 => ite_canon (setAnyPort_canon hs1) hs1) hs)))
    (foldl_canon (fun _ _ hs1 => linkAct_canon hs1) (foldl_canon (fun _ _ hs1 => ite_canon (setAnyPort_canon hs1) hs1) hs))

theorem attachAdmin_canon {s : State} {d : Nat} (hs : s.Canon) : (s.attachAdmin d).Canon := ite_canon hs (hs.upd rfl)

theorem startFirmware_canon {s : State} (hs : s.Canon) : s.startFirmware.Canon := ite_canon (modCtx_canon hs) hs

theorem makePresent_canon {s : State} {d : Nat} (hs : s.Canon) : (s.makePresent d).Canon :=
  ite_canon hs (rebuildRegions_canon (attachAdmin_canon (startFirmware_canon (setDie_canon hs))))

theorem reply_canon {s : State} {r : SbReply} (hs : s.Canon) : (s.reply r).Canon := hs.upd rfl

theorem execSidebandAttest_canon {req : AttestRequest} {s : State} (hs : s.Canon) : OutCanon (execSidebandAttest req s) := by
  unfold execSidebandAttest
  split
  · exact reply_canon (hs.upd rfl)
  · exact reply_canon hs

/-! ## SYN -/

theorem synHold_canon {s : State} (hs : s.Canon) : WordCanon State.Canon (synHold s) := hs

theorem acceptLaunch_canon {s : State} {t n stage ord : Nat} (hs : s.Canon) : Maybe State.Canon (s.acceptLaunch t n stage ord) := by
  unfold State.acceptLaunch
  dsimp only
  split
  · exact trivial
  · split
    · exact trivial
    next s1 _ hx =>
      have hs1 : s1.Canon := .of_eq (admission_canon hs) hx
      exact modThr_canon (enterNode_canon hs1)

theorem lateLaunch_canon {s : State} {t : Nat} (hs : s.Canon) : (s.lateLaunch t).Canon := by
  unfold State.lateLaunch
  split
  · exact hs
  · split
    · exact hs
    next s1 hx =>
      have hs1 : s1.Canon := (acceptLaunch_canon hs).of_some hx
      split
      · split
        · extract_lets s' __src
          have hs2 : s'.Canon := modThr_canon hs1
          have hs3 : __src.Canon := retire_canon (hs2.upd rfl)
          exact hs3.upd rfl
        · exact modThr_canon (modThr_canon hs1)
      · split
        · extract_lets s' __src
          have hs2 : s'.Canon := modThr_canon hs1
          have hs3 : __src.Canon := retire_canon (hs2.upd rfl)
          exact hs3.upd rfl
        · exact modThr_canon (modThr_canon hs1)

theorem acceptLaunches_canon {s : State} (hs : s.Canon) : s.acceptLaunches.Canon := foldl_canon (fun _ _ hs1 => lateLaunch_canon hs1) hs

theorem newClock_canon {s : State} (hs : s.Canon) : s.newClock.Canon := endBoosts_canon (acceptLaunches_canon (tick_canon hs))

theorem submitLaunch_canon {n : Nat} {b : Body} {key : Dword} {s : State} (hs : s.Canon) : WordCanon State.Canon (submitLaunch n b key s) := by
  unfold submitLaunch
  refine (takeEntry_canon (setStage_canon hs)).bind fun ⟨fst, s1⟩ hs1 => ?_
  split
  next s2 hx =>
    have hs2 : s2.Canon := .of_eq hs1 hx
    dsimp only
    split
    next s3 hx1 =>
      have hs3 : s3.Canon := (acceptLaunch_canon hs2).of_some hx1
      exact hs3
    · exact synHold_canon (setStage_canon hs2)

theorem execLaunch_canon {n : BitVec 4} {a : BitVec 6} {s : State} (hs : s.Canon) : OutCanon (execLaunch n a s) :=
  finish_canon (.ite (synHold_canon hs) (.ite (submitLaunch_canon hs)
    (.ite hs ((liftMem_canon hs (accessLin_canon hs)).bind fun ⟨_, _⟩ hs1 =>
    .ite (openTrap_canon (readTaint_canon (loadAccs_canon hs1))) (submitLaunch_canon (readTaint_canon (loadAccs_canon hs1)))))))

theorem seedWord_canon {f : List SeedEntry → Option (List SeedEntry)} {s : State} (hs : s.Canon) : OutCanon (seedWord f s) := by
  unfold seedWord
  refine finish_canon ?_
  dsimp only
  split
  · exact holdAt_canon hs
  · split
    · exact holdAt_canon hs
    · split
      · exact openTrap_canon hs
      · exact hs

theorem needHandler_canon {s : State} (hs : s.Canon) : WordCanon (fun _ => True) (needHandler s) := .ite trivial (openTrap_canon hs)

theorem rewriteRecord_canon {s : State} (hs : s.Canon) : WordCanon State.Canon (rewriteRecord s) :=
  (liftMem_canon hs (accessLin_canon hs)).bind fun ⟨_, _⟩ hs1 => (liftMem_canon hs1 (accessLin_canon hs1)).bind fun ⟨_, _⟩ hs2 =>
    storeAccs_canon (storeAccs_canon hs2)

theorem resumeEnd_canon {a : BitVec 6} {s : State} (hs : s.Canon) : WordCanon State.Canon (resumeEnd a s) :=
  .ite (synHold_canon hs) ((rewriteRecord_canon hs).bind fun _ hs1 => hs1)

theorem execResumeAbort_canon {a : BitVec 6} {s : State} (hs : s.Canon) : OutCanon (execResumeAbort a s) :=
  finish_canon ((needHandler_canon hs).bind fun _ _ => resumeEnd_canon (ite_canon hs (setStage_canon (abortAll_canon hs))))

theorem eretCore_canon {s : State} (hs : s.Canon) : WordCanon (fun r => r.2.2.Canon) (eretCore s) :=
  (needHandler_canon hs).bind fun _ _ => (synAfter_canon hs).bind fun _ _ =>
    .ite hs (.ite ((rewriteRecord_canon hs).bind fun _ hs1 => (liftMem_canon hs1 (accessLin_canon hs1)).bind fun ⟨_, _⟩ hs2 =>
    (liftMem_canon hs2 (accessLin_canon hs2)).bind fun ⟨_, _⟩ hs3 =>
    readTaint_canon (loadAccs_canon (loadAccs_canon hs3))) (Answers.bind (P := State.Canon) hs fun _ hs1 =>
    (liftMem_canon hs1 (accessLin_canon hs1)).bind fun ⟨_, _⟩ hs2 => (liftMem_canon hs2 (accessLin_canon hs2)).bind fun ⟨_, _⟩ hs3 =>
    readTaint_canon (loadAccs_canon (loadAccs_canon hs3))))

theorem execEret_canon {s : State} (hs : s.Canon) : OutCanon (execEret s) := by
  unfold execEret
  split
  next hx => exact finish_canon ((eretCore_canon hs).of_error hx)
  next hx =>
    have hs1 := (eretCore_canon hs).of_ok hx
    dsimp only
    split
    · exact raise_canon (modMe_canon (modMe_canon hs1))
    · exact modMe_canon hs1

theorem tryTask_canon {s : State} {k : Nat} (hs : s.Canon) : (s.tryTask k).Canon := by
  unfold State.tryTask
  split
  · exact landUnit_canon hs
  · exact pattStep_canon hs
  · exact centStep_canon hs
  · exact sieveStep_canon hs
  · exact collStep_canon hs
  · exact reshardStep_canon hs
  · exact hs

theorem replayTask_canon {s : State} {k : Nat} (hs : s.Canon) : (s.replayTask k).Canon :=
  ite_canon hs (ite_canon (setTask_canon (foldl_canon (fun _ _ hs1 => unpark_canon hs1) hs))
    (tryTask_canon (setTask_canon (foldl_canon (fun _ _ hs1 => unpark_canon hs1) hs))))

theorem parkedAgain_canon {s : State} {before : List ParkWait} (hs : s.Canon) : (s.parkedAgain before).Canon := hs.upd rfl

theorem execReplay_canon {a : BitVec 6} {s : State} (hs : s.Canon) : OutCanon (execReplay a s) :=
  finish_canon ((needPriv_canon hs).bind fun _ _ => .ite (openTrap_canon hs)
    (.ite (synHold_canon (setStage_canon (ite_canon hs (parkedAgain_canon (foldl_canon (fun _ _ hs1 => ite_canon (replayTask_canon hs1) hs1) hs)))))
    (setStage_canon (ite_canon hs (parkedAgain_canon (foldl_canon (fun _ _ hs1 => ite_canon (replayTask_canon hs1) hs1) hs))))))

theorem areaAligned_canon {s : State} {v : Dword} (hs : s.Canon) : WordCanon (fun _ => True) (areaAligned s v) := .ite hs trivial

theorem execCtxsv_canon {a b : BitVec 6} {s : State} (hs : s.Canon) : OutCanon (execCtxsv a b s) := by
  unfold execCtxsv
  refine finish_canon ((needPriv_canon hs).bind fun x _ => ?_)
  refine Answers.ite ?_ ?_
  · exact .ite (synHold_canon hs) hs
  · refine (areaAligned_canon hs).bind fun x1 _ => ?_
    split
    · exact openTrap_canon hs
    · exact .ite (openTrap_canon hs) ((liftMem_canon hs (accessLin_canon hs)).bind fun ⟨_, _⟩ hs1 =>
        .ite (synHold_canon hs1) (synHold_canon (setStage_canon (stopGang_canon hs1))))

theorem unstop_canon {s : State} {g : Nat} (hs : s.Canon) : (s.unstop g).Canon := foldl_canon (fun _ _ hs1 => ite_canon hs1 (dropArea_canon hs1)) hs

theorem execCtxld_canon {a b : BitVec 6} {s : State} (hs : s.Canon) : OutCanon (execCtxld a b s) := by
  unfold execCtxld
  refine finish_canon ((needPriv_canon hs).bind fun x _ => (areaAligned_canon hs).bind fun x1 _ => ?_)
  split
  · exact openTrap_canon hs
  · split
    · exact loseGang_canon hs
    · dsimp only
      split
      · exact openTrap_canon hs
      · exact .ite (openTrap_canon hs) ((liftMem_canon hs (accessLin_canon hs)).bind fun ⟨_, _⟩ hs1 =>
          .ite (synHold_canon (restoreAt_canon hs1)) (unstop_canon (restoreAt_canon hs1)))

theorem waitWord_canon {f : Dword → Dword → Bool} {a b : BitVec 6} {s : State} (hs : s.Canon) : OutCanon (waitWord f a b s) :=
  finish_canon (.ite (synHold_canon hs) ((synAfter_canon hs).bind fun _ _ =>
    .ite hs ((liftMem_canon hs (accessLin_canon hs)).bind fun ⟨_, _⟩ hs1 =>
    .ite (acquire_canon (setStage_canon (readTaint_canon (readsHome_canon hs1))))
    (synHold_canon (modMe_canon (readTaint_canon (readsHome_canon hs1)))))))

theorem execScratchpadWritePerform_canon {n : Nat} {s : State} (hs : s.Canon) : OutCanon (execScratchpadWritePerform n s) := by
  unfold execScratchpadWritePerform
  split
  · exact hs
  · exact ite_canon (performPend_canon (hs.upd rfl)) hs

theorem execMemoryAccessPerformed_canon {n : Nat} {s : State} (hs : s.Canon) : OutCanon (execMemoryAccessPerformed n s) := by
  unfold execMemoryAccessPerformed
  split
  · exact hs
  · exact drainPosted_canon hs

theorem noteDivergence_canon {s : State} {d c : Nat} (hs : s.Canon) : (s.noteDivergence d c).Canon :=
  ite_canon (fenceCore_canon (setDie_canon hs)) (setDie_canon hs)

theorem diverge_canon {s : State} {t : Nat} {reg : Bool} {num : Nat} {v nines : Dword} (hs : s.Canon) : (s.diverge t reg num v nines).Canon :=
  noteDivergence_canon (raise_canon (modThr_canon hs))

theorem execNinesCompare_canon {t : Nat} {reg : Bool} {num : Nat} {nines : Dword} {s : State} (hs : s.Canon) :
    OutCanon (execNinesCompare t reg num nines s) := by
  unfold execNinesCompare
  split
  · exact ite_canon hs (ite_canon (diverge_canon hs) (modThr_canon hs))
  · exact hs

theorem execTrapTakenUser_canon {t : Nat} {s : State} (hs : s.Canon) : OutCanon (execTrapTakenUser t s) := by
  unfold execTrapTakenUser
  split
  · exact ite_canon (takeTrap_canon hs) hs
  · exact hs

theorem execTrapTakenSystem_canon {t : Nat} {s : State} (hs : s.Canon) : OutCanon (execTrapTakenSystem t s) := by
  unfold execTrapTakenSystem
  split
  · exact ite_canon hs (takeTrap_canon hs)
  · exact ite_canon (recordToFrame_canon hs) hs

end Sys2Proof.Machine
end

section
/-! SUPPORT. Canonical memory is kept by every meaning and every step. -/

namespace Sys2Proof.Machine

/-! ## Every meaning -/

theorem exec_canon {i : Instr} {s : State} (hs : s.Canon) : OutCanon (exec i s) := by
  unfold exec
  cases i with
  | add | sub | and | or | xor | andn | shl | shr | sra | slt | sltu | min | max | minu | maxu | mul | mulh | mulhu | div | divu | rem | remu =>
    exact seqAlu_canon hs
  | clz | ctz | popc | addi | andi | ori | xori | shli | shri | srai | slti | sltiu => exact seqUna_canon hs
  | lui | auipc | rdsr | sel => exact seqOp_canon hs
  | ldB | ldBu | ldH | ldHu | ldW | ldWu | ldD => exact seqLoad_canon hs
  | stB | stH | stW | stD => exact seqStore_canon hs
  | cmpEq | cmpNe | cmpLt | cmpGe | cmpLtu | cmpGeu => exact seqCmp_canon hs
  | cmpiEq | cmpiNe | cmpiLt | cmpiGe | cmpiLtu | cmpiGeu => exact seqCmpi_canon hs
  | pand | por | pxor | pandn => exact seqLog_canon hs
  | pnot | pmov => exact seqPred_canon hs
  | br | jal | jalr | rot | mark | join | wrsr | nop | vmovIns | mcntClr | trap | rdcfg | pwrSt => exact finish_canon hs
  | loop | loopRot | loopi | loopiRot => exact seqLoop_canon hs
  | passBoundary => exact execPassBoundary_canon hs
  | qpush => exact finish_canon (seqPush_canon hs)
  | qpop => exact execQpop_canon hs
  | fmt => exact execFmt_canon hs
  | fmtQ => exact execFmtQ_canon hs
  | brk => exact finish_canon (openTrap_canon hs)
  | capt => exact execCapt_canon hs
  | tld | tldQ => exact adrTld_canon hs
  | tst | tstQ => exact adrTst_canon hs
  | gld | gldQ => exact adrGld_canon hs
  | gst | gstQ => exact adrGst_canon hs
  | vld => exact adrWord_canon hs ((adrOnce_canon hs (memRowChecks_canon hs)).bind fun _ hs1 => vldRows_canon hs1)
  | vst => exact adrWord_canon hs ((adrOnce_canon hs (memRowChecks_canon hs)).bind fun _ hs1 => vstRows_canon hs1)
  | sld => exact execSld_canon hs
  | sldRow => exact adrWord_canon hs ((adrOnce_canon hs (spadRowChecks_canon hs)).bind fun _ hs1 => sldRows_canon hs1)
  | sst => exact execSst_canon hs
  | sstRow => exact adrWord_canon hs ((adrOnce_canon hs (spadRowChecks_canon hs)).bind fun _ hs1 => sstRows_canon hs1)
  | atomAdd | atomMin | atomMax | atomAnd | atomOr | atomXor | atomXchg | atomCas => exact adrAtom_canon hs
  | atomoAdd | atomoMin | atomoMax | atomoAnd | atomoOr | atomoXor | atomoXchg | atomoCas => exact adrAtomo_canon hs
  | prefL | prefT => exact adrWord_canon hs hs
  | fenceAcq | fenceRel | fenceFull => exact adrFence_canon hs
  | hwait | hwaitSt => exact adrHwait_canon hs
  | ldq => exact execLdq_canon hs
  | adrFaultTrap => exact execAdrFaultTrap_canon hs
  | vintAdd | vintSub | vintMul | vintMulh | vintMin | vintMax => exact vintOp_canon hs
  | vintAnd | vintOr | vintXor | vintAndn | vintShl | vintShr | vintSra => exact vintBits_canon hs
  | vintAbs | vintNeg => exact vintUna_canon hs
  | vfltAdd | vfltSub | vfltMul | vfltDiv | vfltMin | vfltMax => exact vfltOp_canon hs
  | vfltAbs | vfltNeg | vsfuExp2 | vsfuLog2 | vsfuRcp | vsfuRsqrt | vsfuSqrt => exact vfltUna_canon hs
  | vfmaFma | vfmaFms | vfmaFnma | vfmaFnms => exact vfmaOp_canon hs
  | vcmpEq | vcmpNe | vcmpLt | vcmpLe | vcmpGt | vcmpGe | vcmpUn => exact vcmpOp_canon hs
  | vcvtTo => exact finish_canon ((tyMode_canon hs).bind fun ⟨_, _⟩ _ => (vecFlags_canon hs).bind fun _ hs2 => hs2)
  | vcvtFrom => exact vecFp_canon hs
  | vcvtF2i | vcvtI2f | vcvtU2f => exact vcvtLanes_canon hs
  | vredSum | vredMax | vredMin | vredArgmax | vredArgmin => exact vredOp_canon hs
  | vredSumQ | vredMaxQ | vredMinQ | vredArgmaxQ | vredArgminQ => exact vredPush_canon hs
  | vscanSum | vscanMax | vscanMin | vscanSumX | vscanMaxX | vscanMinX => exact vscanOp_canon hs
  | vpermIdx | vpermRot | vpermBc | vsel | vmovSplat | vmovMv | viotaIdx | viotaCnt => exact vecLanes_canon hs
  | vmovExt | vmaskCnt => exact finish_canon (pushQ6_canon hs)
  | vcomp => exact execVcomp_canon hs
  | vqntC | vqntCr | vqntG | vqntGr => exact vqntOp_canon hs
  | vdqnt | vdqntAcc => exact vdqntOp_canon hs
  | vrandU | vrandF => exact vrandOp_canon hs
  | vmaskAnd | vmaskOr | vmaskXor | vmaskAndn | vmaskNot | vmaskMov | vmaskFirst => exact vmaskOp_canon hs
  | vqin | vqinQ5 => exact vqinRow_canon hs
  | vqinS => exact execVqinS_canon hs
  | vqout | vqoutQ11 => exact vqoutRow_canon hs
  | mma | mmas | mmat | mdist | mtopk => exact tileCmd_canon hs
  | mzero | mfix => exact finish_canon ((accBusy_canon hs).bind fun _ _ => hs)
  | mload => exact moveWord_canon (matRange_canon hs) hs
  | mstore => exact moveWord_canon (.ite (matShape_canon hs) (matRange_canon hs)) hs
  | mrdRow | mrdCol => exact mrdSpan_canon hs
  | mrdRck | mrdCck => exact finish_canon ((accBusy_canon hs).bind fun _ _ => pushQ5_canon hs)
  | mwrRow | mwrCol => exact mwrSpan_canon hs
  | mwrRck | mwrCck => exact mwrCheck_canon hs
  | mcommit => exact finish_canon (.ite hs (commitBatch_canon hs))
  | mwait => exact finish_canon (.ite hs (holdAt_canon hs))
  | mwaitAcc => exact execMwaitAcc_canon hs
  | mcks => exact execMcks_canon hs
  | arrayCommandStart => exact ite_canon (arrayStart_canon hs) hs
  | arrayCommandRetire => exact ite_canon (arrayClock_canon hs) hs
  | xcopy => exact execXcopy_canon hs
  | xcopyT | xputT => exact boxCopy_canon hs
  | xcopyS => exact execXcopyS_canon hs
  | xput => exact execXput_canon hs
  | xgath => exact execXgath_canon hs
  | xscatO | xscatAdd | xscatMax | xscatMin => exact scatter_canon hs
  | xpack | xpackK1 => exact packSlot_canon hs
  | xpackS => exact execXpackS_canon hs
  | xhalo => exact execXhalo_canon hs
  | xfill => exact execXfill_canon hs
  | xrel => exact execXrel_canon hs
  | xabort => exact execXabort_canon hs
  | copyUnitLands => exact landUnit_canon hs
  | haloArrival => exact haloArrive_canon hs
  | lyset => exact execLyset_canon hs
  | lysetGet => exact execLysetGet_canon hs
  | reshard => exact execReshard_canon hs
  | collSum | collMax | collMin | collAmerge | collRing => exact collWord_canon hs
  | ranks => exact execRanks_canon hs
  | rkinv => exact finish_canon (.ite (fabTrapOpen_canon hs) hs)
  | fwait | fwaitSlot | await => exact finish_canon (.ite (holdAt_canon hs) (acquire_canon hs))
  | resid => exact execResid_canon hs
  | fabort => exact finish_canon (abortAll_canon hs)
  | collStep => exact collStep_canon hs
  | collWatchdogExpiry => exact collExpire_canon hs
  | reshardExchangeComplete => exact reshardEnd_canon hs
  | kvmap | kvmapNew => exact kvmapWord_canon hs
  | kvmapUn => exact finish_canon ((atnNeed_canon hs).bind fun _ _ => hs)
  | kvlock | kvlockUn => exact kvlockWord_canon hs
  | kvapp => exact execKvapp_canon hs
  | kvroll => exact execKvroll_canon hs
  | patt => exact execPatt_canon hs
  | mprog => exact execMprog_canon hs
  | meval => exact execMeval_canon hs
  | cent => exact execCent_canon hs
  | csel => exact execCsel_canon hs
  | retn => exact execRetn_canon hs
  | retnQ => exact execRetnQ_canon hs
  | sieve => exact execSieve_canon hs
  | awaitAbort => exact finish_canon (.ite (holdAt_canon (abortAll_canon hs)) (abortAll_canon hs))
  | pattDone => exact pattEnd_canon hs
  | centKeyUpdate => exact centStep_canon hs
  | sieveCompact => exact sieveStep_canon hs
  | bar => exact execBar_canon hs
  | barArr => exact finish_canon (barArrive_canon hs)
  | barWt => exact finish_canon (.ite (synTrapOpen_canon hs) (barHeld_canon hs))
  | cbarInit => exact finish_canon (.ite (synTrapOpen_canon hs) (.ite (synTrap_canon hs) hs))
  | cbarAdd => exact execCbarAdd_canon hs
  | cbarWait => exact execCbarWait_canon hs
  | cbarTake => exact execCbarTake_canon hs
  | cbarFree => exact finish_canon ((cbarUse_canon hs).bind fun _ _ => .ite (synTrapOpen_canon hs) hs)
  | sbarP | sbarC => exact synSbar_canon hs
  | sbarArrivalEffect => exact sbarEffect_canon hs
  | ring => exact execRing_canon hs
  | ringRel => exact finish_canon (.ite (synTrapOpen_canon hs) (.ite (synTrapOpen_canon hs) hs))
  | phaseNew => exact finish_canon ((synAfter_canon hs).bind fun _ _ => hs)
  | phaseRd | phaseWr => exact synPhase_canon hs
  | tklend => exact execTklend_canon hs
  | tkret => exact execTkret_canon hs
  | tksplit => exact execTksplit_canon hs
  | tkjoin => exact execTkjoin_canon hs
  | tkshare => exact execTkshare_canon hs
  | tkunsh => exact execTkunsh_canon hs
  | tkrecl => exact execTkrecl_canon hs
  | tokenWaitResume => exact execTokenWaitResume_canon hs
  | rwb => exact synRange_canon (fun _ _ _ _ hs1 => physBack_canon hs1) hs
  | rinv => exact synRange_canon (fun _ _ _ _ hs1 => physDrop_canon hs1) hs
  | launch => exact execLaunch_canon hs
  | cwait | cwaitAll => exact finish_canon (.ite (synHold_canon hs) (acquire_canon (modMe_canon hs)))
  | seedPush | seedPop | seedFork => exact seedWord_canon hs
  | resumeWait => exact finish_canon ((needHandler_canon hs).bind fun _ _ => resumeEnd_canon hs)
  | resumeAbort => exact execResumeAbort_canon hs
  | eret => exact execEret_canon hs
  | tlbiVa | tlbiTen | tlbiCtx | tlbiAll => exact synTlbi_canon hs
  | tlbiAcknowledge => exact acknowledge_canon hs
  | replay => exact execReplay_canon hs
  | ctxsv => exact execCtxsv_canon hs
  | ctxld => exact execCtxld_canon hs
  | waitGeu | waitEq | waitNe | waitLtu => exact waitWord_canon hs
  | waitSb => exact finish_canon (.ite (synHold_canon hs) hs)
  | memoryWaitRecheck | markerReachesHead => exact modThr_canon hs
  | halt => exact .ite (holdWord_canon hs) (endThread_canon (ite_canon (taint_canon hs) hs))
  | wrcfg => exact finish_canon ((needPriv_canon hs).bind fun _ _ => .ite (synHold_canon hs) (writeCfg_canon hs))
  | pwrHint => exact finish_canon (.ite (trapAt_canon hs) hs)
  | fetch => exact foldl_canon (fun _ _ hs1 => deliver_canon hs1) hs
  | queueDeadlock => exact breakDeadlock_canon hs
  | scratchpadWritePerform => exact execScratchpadWritePerform_canon hs
  | ninesCompare => exact execNinesCompare_canon hs
  | trapTakenUser => exact execTrapTakenUser_canon hs
  | trapTakenSystem => exact execTrapTakenSystem_canon hs
  | gangPreempt => exact ite_canon (stopGang_canon hs) hs
  | gangSaved => exact checkStopped_canon (saveGang_canon hs)
  | gangRestore => exact ite_canon (restoreGang_canon hs) hs
  | gangDispatch => exact dispatchOn_canon hs
  | gangStart => exact startGang_canon hs
  | reservationTimeout => exact execReservationTimeout_canon hs
  | reservationDrop => exact execReservationDrop_canon hs
  | childBoostTimeout => exact ite_canon (modGang_canon hs) hs
  | nodeEnding => exact endNode_canon hs
  | nodeCompletionRecord => exact ite_canon (completeNode_canon hs) hs
  | launchPacket => exact execLaunchPacket_canon hs
  | graphPacket => exact execGraphPacket_canon hs
  | seedPushPacket | seedPopPacket | seedForkPacket => exact onPacket_canon hs (fun _ _ hs1 => seedPacket_canon hs1)
  | waitPacket => exact onPacket_canon hs (fun _ _ hs1 => evalWait_canon hs1)
  | waitPacketPoll => exact ite_canon (evalWait_canon hs) hs
  | signalPacket => exact execSignalPacket_canon hs
  | signalWrite => exact writeSignal_canon hs
  | reshardOnBehalf => exact execReshardOnBehalf_canon hs
  | contextCreate => exact onControl_canon hs (fun _ _ _ hs1 => .ite trivial (.ite trivial (accept_canon (modCtx_canon hs1))))
  | contextStop => exact execContextStop_canon hs
  | contextStart => exact execContextStart_canon hs
  | contextDestroy => exact execContextDestroy_canon hs
  | contextFreed => exact freeContext_canon hs
  | resumeThread => exact execResumeThread_canon hs
  | qattach => exact onControl_canon hs (fun _ _ _ hs1 => .ite trivial (.ite trivial (accept_canon (hs1.upd rfl))))
  | qdetach => exact execQdetach_canon hs
  | qtailWrite => exact execQtailWrite_canon hs
  | evconsWrite => exact flushPort_canon (hs.upd rfl)
  | nctlRelease => exact releaseNode_canon hs
  | nctlCancel => exact cancelNode_canon hs
  | migcmdWrite => exact queueMig_canon hs
  | migrationStart => exact execMigrationStart_canon hs
  | migrationFinish => exact execMigrationFinish_canon hs
  | tkcmdCreate | tkcmdDestroy => exact ite_canon (regionCommand_canon hs) hs
  | parkRingWrite => exact writeParkRing_canon hs
  | pendctlWrite => exact writePendctl_canon hs
  | lnkctlRetrain | lnkctlDisable | lnkctlEnable | lnkctlClear => exact linkAct_canon hs
  | fenceCore => exact fenceCore_canon hs
  | fenceSlice => exact fenceSlice_canon hs
  | pstateWrite | sidebandPstateWrite => exact writePstate_canon hs
  | configRegisterWrite => exact ite_canon (writePlain_canon hs) (writeCard_canon hs)
  | homeLoss => exact loseDie_canon hs
  | atomoArrival => exact execAtomoArrival_canon hs
  | atomoRetry => exact execAtomoRetry_canon hs
  | atomoLineStall => exact .ite hs (foldl_canon (fun _ _ hs1 => failAtomo_canon hs1) (hs.upd rfl))
  | rdcEviction => exact evictRdc_canon hs
  | correctableError => exact countError_canon hs
  | uncorrectableError => exact execUncorrectableError_canon hs
  | patrolScrub => exact ite_canon (poisonMemory_canon hs) hs
  | arbiterPeriod => exact newPeriod_canon hs
  | dieFreeze => exact ite_canon hs (setDie_canon hs)
  | flitReceive => exact execFlitReceive_canon hs
  | linkTrained => exact execLinkTrained_canon hs
  | linkTrainingFailed => exact ite_canon (portDown_canon (bothEnds_canon hs)) hs
  | linkReplayLimit => exact ite_canon (retrain_canon hs) hs
  | laneLost => exact retrain_canon hs
  | linkRetrainTimeout => exact ite_canon (portDown_canon hs) hs
  | peerDown => exact ite_canon hs (portDown_canon hs)
  | routeTablesInForce => exact newRoutes_canon hs
  | cxlLinkDown => exact ite_canon hs (log_canon (setDie_canon hs))
  | powerOn => exact moduleReset_canon hs
  | sidebandReset => exact execSidebandReset_canon hs
  | bringUp => exact ite_canon hs (ite_canon (setDie_canon (dieReset_canon hs)) (enablePorts_canon (setDie_canon hs)))
  | diePresent => exact makePresent_canon hs
  | sidebandInventory | sidebandPowerRead | sidebandLog => exact reply_canon hs
  | sidebandAttest => exact execSidebandAttest_canon hs
  | sidebandPlimitWrite => exact setPlimit_canon hs
  | malformedPacket => exact ite_canon (queueErr_canon hs) hs
  | memoryAccessPerformed => exact execMemoryAccessPerformed_canon hs
  | llcLineEviction => exact lineError_canon hs
  | slicePartialAttention => exact pattStep_canon hs
  | reshardPairCopy => exact reshardStep_canon hs

/-! ## A step -/

theorem runEngine_canon {s : State} {t : Nat} {e : Engine} (hs : s.Canon) : OutCanon (s.runEngine t e) := by
  unfold State.runEngine
  dsimp only
  split
  · exact hs.upd rfl
  · split
    · exact hs.upd rfl
    · split
      · exact exec_canon (hs.upd rfl)
      · exact exec_canon (hs.upd rfl)
      · split
        · split
          · exact exec_canon (hs.upd rfl)
          · exact raise_canon (hs.upd rfl)
        · exact holdWord_canon (hs.upd rfl)

theorem runFetch_canon {s : State} {t : Nat} (hs : s.Canon) : OutCanon (s.runFetch t) := by
  unfold State.runFetch
  split
  · exact hs
  · split
    next s1 hx =>
      have hs1 : s1.Canon := .of_eq (deliver_canon hs) hx
      exact runEngine_canon hs1
    next s1 hx =>
      have hs1 : s1.Canon := .of_eq (deliver_canon hs) hx
      exact hs1

theorem runDefault_canon {s : State} (hs : s.Canon) : OutCanon s.runDefault := by
  unfold State.runDefault
  extract_lets t
  split
  · split
    · exact runEngine_canon (modThr_canon hs)
    · split
      · exact runFetch_canon (modThr_canon hs)
      · extract_lets s1 s2
        have hs1 : s1.Canon := modThr_canon hs
        have hs2 : s2.Canon := hs1.upd rfl
        split
        · exact exec_canon (hs2.upd rfl)
        · exact hs2
  · exact hs

theorem step_canon {s : State} (hs : s.Canon) : OutCanon (step s) := by
  unfold step
  extract_lets s1
  have hs1 : s1.Canon := newClock_canon hs
  split
  · exact exec_canon (hs1.upd rfl)
  · exact runEngine_canon (hs1.upd rfl)
  · exact runFetch_canon (hs1.upd rfl)
  · exact runDefault_canon hs1

/-- Settles O60, by what each meaning and each turn of the agenda keeps. -/
theorem everyStepKeepsMemoryCanonical : Obligations.EveryStepKeepsMemoryCanonical := by
  unfold Obligations.EveryStepKeepsMemoryCanonical
  intro s t hs ht
  have kept : OutCanon (step s) := step_canon hs
  rw [ht] at kept
  exact kept

end Sys2Proof.Machine
end

section
/-! SUPPORT. What a landing write, a settled access and a given atomic change (R288, R291, R292, R311). -/

namespace Sys2Proof.Machine

/-! ## Scratchpad writes in their clock -/

/-- What a written scratchpad leaves of every thread's record, it leaves of the thread table's reading. -/
theorem touched_threads_keep {α : Type} (g : Thread → α) (cluster a n : Nat) (hg : ∀ th : Thread, g (th.touch a n) = g th) (k : Nat) :
    ∀ (l : Tab Thread) (tab : Tab Thread), g ((l.foldl (fun t e => if e.2.cluster = cluster then t.mod e.1 (Thread.touch · a n) else t) tab).get k) = g (tab.get k) := by
  intro l
  induction l with
  | nil => exact fun _ => rfl
  | cons e l ih =>
    intro tab
    rw [List.foldl_cons, ih]
    split
    · rw [Tab.mod, Tab.get_set]
      split
      next hk => rw [hk, hg]
      next => rfl
    · rfl

theorem State.thr_spadWrite_keeps {α : Type} (g : Thread → α) (s : State) (cluster a : Nat) (bs : List Byte) (hg : ∀ th : Thread, g (th.touch a bs.length) = g th)
    (t : Nat) : g ((s.spadWrite cluster a bs).thr t) = g (s.thr t) :=
  touched_threads_keep g cluster a bs.length hg t s.threads s.threads

@[simp] theorem State.spadWrite_thr_st (s : State) (cluster a : Nat) (bs : List Byte) (t : Nat) : ((s.spadWrite cluster a bs).thr t).st = (s.thr t).st :=
  s.thr_spadWrite_keeps Thread.st cluster a bs (fun _ => rfl) t

/-- What every write of a landing keeps, the landing keeps. -/
theorem State.spadLand_keeps {α : Type} (g : State → α) (hwrite : ∀ s c a bs, g (State.spadWrite s c a bs) = g s)
    (hland : ∀ (s : State) l, g { s with landed := l } = g s) (s : State) (p : SPend) : g (s.spadLand p) = g s := by
  have fold : ∀ (l : List SPend) (s : State), g (l.foldl (fun s q => s.spadWrite q.cluster q.addr q.bytes) s) = g s := by
    intro l
    induction l with
    | nil => exact fun _ => rfl
    | cons q l ih => exact fun s => (ih _).trans (hwrite ..)
  unfold State.spadLand
  rw [hland, fold, hwrite]

@[simp] theorem State.spadLand_mem (s : State) (p : SPend) : (s.spadLand p).mem = s.mem := s.spadLand_keeps State.mem (fun _ _ _ _ => rfl) (fun _ _ => rfl) p
@[simp] theorem State.spadLand_spend (s : State) (p : SPend) : (s.spadLand p).spend = s.spend := s.spadLand_keeps State.spend (fun _ _ _ _ => rfl) (fun _ _ => rfl) p
@[simp] theorem State.spadLand_thr_st (s : State) (p : SPend) (t : Nat) : ((s.spadLand p).thr t).st = (s.thr t).st :=
  s.spadLand_keeps (fun s => (s.thr t).st) (fun s c a bs => s.spadWrite_thr_st c a bs t) (fun _ _ => rfl) p

/-- Where no other write of the clock has landed, the bytes stand. -/
theorem State.spadLand_first {s : State} (h : s.landed = []) (p : SPend) : (s.spadLand p).spad = s.spad.setRange (spadKey p.cluster p.addr) p.bytes := by
  simp [State.spadLand, h, State.spadWrite]

/-! ## Settled accesses -/

@[simp] theorem State.settlePending_mem (s : State) (c : Nat) (x : Engine × Nat) (a n : Nat) : (s.settlePending c x a n).mem = s.mem := rfl
@[simp] theorem State.settlePending_spad (s : State) (c : Nat) (x : Engine × Nat) (a n : Nat) : (s.settlePending c x a n).spad = s.spad := rfl
@[simp] theorem State.settlePending_spend (s : State) (c : Nat) (x : Engine × Nat) (a n : Nat) : (s.settlePending c x a n).spend = s.spend := rfl
@[simp] theorem State.settlePending_thr (s : State) (c : Nat) (x : Engine × Nat) (a n t : Nat) : (s.settlePending c x a n).thr t = s.thr t := rfl

/-! ## The result of an atomic -/

/-- A read that taints its thread leaves the state but for that thread. -/
theorem State.readTaint_keeps_state {α : Type} (g : State → α) (hg : ∀ s t e r, g (State.taint s t e r) = g s) (s : State) (t : Nat) (e : Engine) (poison piece : Bool) :
    g (s.readTaint t e poison piece) = g s := by
  unfold State.readTaint
  cases poison <;> cases piece <;> simp only [hg, ite_true, ite_false, Bool.false_eq_true]

/-- What an issuer's result leaves of the state, whether the thread has ended or not. -/
theorem State.giveAtom_keeps {α : Type} (g : State → α) (htaint : ∀ s t e r, g (State.taint s t e r) = g s) (hthr : ∀ s t f, g (State.modThr s t f) = g s)
    (s : State) (t old : Nat) (bad : Bool) : g (s.giveAtom t old bad) = g s := by
  unfold State.giveAtom
  split
  · rfl
  · rw [hthr, s.readTaint_keeps_state g htaint]

@[simp] theorem State.giveAtom_mem (s : State) (t old : Nat) (bad : Bool) : (s.giveAtom t old bad).mem = s.mem :=
  s.giveAtom_keeps State.mem (fun _ _ _ _ => rfl) (fun _ _ _ => rfl) t old bad
@[simp] theorem State.giveAtom_spad (s : State) (t old : Nat) (bad : Bool) : (s.giveAtom t old bad).spad = s.spad :=
  s.giveAtom_keeps State.spad (fun _ _ _ _ => rfl) (fun _ _ _ => rfl) t old bad
@[simp] theorem State.giveAtom_spend (s : State) (t old : Nat) (bad : Bool) : (s.giveAtom t old bad).spend = s.spend :=
  s.giveAtom_keeps State.spend (fun _ _ _ _ => rfl) (fun _ _ _ => rfl) t old bad

/-- A running thread has its result. -/
theorem State.giveAtom_old {s : State} {t : Nat} (h : (s.thr t).st = .running) (old : Nat) (bad : Bool) :
    ((s.giveAtom t old bad).thr t).atomoOld = some (BitVec.ofNat 64 old) := by
  unfold State.giveAtom
  rw [if_neg (by simp [h]), State.thr_modThr_same]

/-! ## Atomic operations on scratchpad -/

@[simp] theorem State.spadAtom_spend (s : State) (p : SPend) (op size v c : Nat) : (s.spadAtom p op size v c).1.spend = s.spend := by
  unfold State.spadAtom; dsimp only; split <;> simp
@[simp] theorem State.spadAtom_mem (s : State) (p : SPend) (op size v c : Nat) : (s.spadAtom p op size v c).1.mem = s.mem := by
  unfold State.spadAtom; dsimp only; split <;> simp
@[simp] theorem State.spadAtom_thr_st (s : State) (p : SPend) (op size v c t : Nat) : ((s.spadAtom p op size v c).1.thr t).st = (s.thr t).st := by
  unfold State.spadAtom; dsimp only; split <;> simp

/-- What an atomic on scratchpad leaves there, where no other write of its clock has landed. -/
theorem State.spadAtom_spad {s : State} (h : s.landed = []) (p : SPend) (op size v c : Nat) :
    (s.spadAtom p op size v c).1.spad =
      let y := atomNew op (8 * size) (leNat (s.spadBytes p.cluster p.addr size)) (v % 2 ^ (8 * size)) (c % 2 ^ (8 * size))
      if y.2 then s.spad.setRange (spadKey p.cluster p.addr) (leBytes size y.1) else s.spad := by
  unfold State.spadAtom
  dsimp only
  split
  · exact State.spadLand_first h _
  · rfl

end Sys2Proof.Machine
end

section
/-! SUPPORT. Atomics of ADR (R292, R311): their scope, their result, and each form's way through its word. -/

namespace Sys2Proof.Machine

/-! ## Scopes (R292) -/

/-- The state in which what an atomic of a scope orders before it is performed. -/
def State.releasedAt (s : State) (c : BitVec 3) : State :=
  if c = 0 then s else if c = 4 then (s.drainThread s.cur).domainRelease (s.drainThread s.cur).me.die (s.drainThread s.cur).me.cid else s.drainThread s.cur

/-- The acquire half of an atomic of a scope. -/
def State.acquiredAt (s : State) (c : BitVec 3) : State := if c = 0 then s else if c = 4 then s.acquire s.cur else s.modMe Thread.fenced

theorem scope_toNat_eq_zero (c : BitVec 3) : c.toNat = 0 ↔ c = 0 := by rw [BitVec.toNat_eq]; rfl

theorem scope_toNat_eq_four (c : BitVec 3) : c.toNat = 4 ↔ c = 4 := by rw [BitVec.toNat_eq]; rfl

/-- What its scope orders before an atomic is performed, so that it need not wait. -/
def State.performedAt (s : State) (c : BitVec 3) : Prop := c ≠ 0 → s.anyUnperformed s.cur = false ∧ (c = 4 → s.homesAway s.me.die = false)

theorem atomRelease_performed {s : State} {c : BitVec 3} (h : s.performedAt c) : atomRelease s c.toNat = .ok (s.releasedAt c) := by
  unfold atomRelease State.releasedAt
  simp only [scope_toNat_eq_zero, scope_toNat_eq_four]
  by_cases h0 : c = 0
  · simp only [if_pos h0]
  · obtain ⟨hspad, hmem⟩ := h h0
    by_cases h4 : c = 4
    · simp [h4, hspad, hmem h4]
    · simp only [h0, h4, hspad, if_false, decide_false, Bool.false_and, Bool.or_false, Bool.false_eq_true]

theorem atomAcquire_scope (s : State) (c : BitVec 3) : atomAcquire s c.toNat = s.acquiredAt c := by
  unfold atomAcquire State.acquiredAt
  simp only [scope_toNat_eq_zero, scope_toNat_eq_four]

/-! ## The old value -/

/-- The old value pushed to q8 where R = 1. -/
def State.given8 (s : State) (r : BitVec 1) (v : Dword) : State := if r = 1 then s.modMe fun th => th.pushS 8 v else s

/-- The states in which q8 has room for the old value that a word with R = 1 pushes. -/
def State.room8 (s : State) (r : BitVec 1) : Prop := r = 1 → s.me.qlen 8 < 16

theorem qfull_eight_of_lt {th : Thread} (h : th.qlen 8 < 16) : th.qfull 8 = false := decide_eq_false (Nat.not_le.2 h)

theorem adrPush8_of_lt {s : State} (h : s.me.qlen 8 < 16) (v : Dword) : adrPush8 s v = .ok (s.modMe fun th => th.pushS 8 v) := by
  unfold adrPush8; rw [qfull_eight_of_lt h]; rfl

/-- A word with room for the value that it returns does not wait for q8. -/
theorem not_waits_of_room8 {s : State} {r : BitVec 1} (h : s.room8 r) : ¬ ((r == 1) = true ∧ s.me.qfull 8 = true) := by
  rintro ⟨hr, hfull⟩
  rw [qfull_eight_of_lt (h (beq_iff_eq.1 hr))] at hfull
  exact absurd hfull (by decide)

/-- A word goes on with the old value pushed, where there is room for it. -/
theorem push8_of_room8 {α : Type} {s : State} {r : BitVec 1} (h : s.room8 r) (v : Dword) (f : State → Except Exit α) :
    (if (r == 1) = true then adrPush8 s v >>= f else .ok s >>= f) = f (s.given8 r v) := by
  unfold State.given8
  by_cases hr : r = 1
  · rw [if_pos (beq_iff_eq.2 hr), if_pos hr, adrPush8_of_lt (h hr)]
    rfl
  · rw [if_neg (by rwa [beq_iff_eq]), if_neg hr]
    rfl

/-- Room is a matter of the thread's queues alone. -/
theorem State.room8_congr {s t : State} {r : BitVec 1} (hqs : t.me.qs = s.me.qs) (h : s.room8 r) : t.room8 r := by
  intro hr
  have := h hr
  unfold Thread.qlen at *
  rwa [if_neg (by decide), hqs]

@[simp] theorem State.me_qs_taint (s : State) (t : Nat) (e : Engine) (x : BitVec 8) : (s.taint t e x).me.qs = s.me.qs :=
  State.modThr_keeps Thread.qs s t (fun th => { th with contrib := th.contrib.join { rank := 2, reason := x, pc := (s.thr t).pc e, clk := s.clk } })
    (fun _ => rfl) s.cur

@[simp] theorem State.readTaint_me_qs (s : State) (t : Nat) (e : Engine) (poison piece : Bool) : (s.readTaint t e poison piece).me.qs = s.me.qs :=
  s.readTaint_keeps_state (fun s => s.me.qs) State.me_qs_taint t e poison piece

theorem MemOnly.me {s t : State} (h : MemOnly s t) : t.me = s.me := h.keeps.2.2.2.1

theorem MemOnly.cur {s t : State} (h : MemOnly s t) : t.cur = s.cur := h.keeps.2.1

/-! ## The forms of an atomic word -/

/-- An atomic operation as a function that has a value only where it writes. -/
def AtomIs (op n v c : Nat) (new : Nat → Option Nat) : Prop := ∀ old, atomNew op n old v c = match new old with | some y => (y, true) | none => (old, false)

/-- What the operation leaves, as a choice between writing and not. -/
theorem AtomIs.write {α : Type} {op n v c : Nat} {new : Nat → Option Nat} (h : AtomIs op n v c new) (old : Nat) (f : Nat → α) (x : α) :
    (if (atomNew op n old v c).2 then f (atomNew op n old v c).1 else x) = match new old with | some y => f y | none => x := by
  rw [h old]
  cases new old <;> rfl

/-- The end of an atomic that has its result. -/
theorem atomEnd_of_room {s : State} {op : Nat} {a : BitVec 6} {c : BitVec 3} {r p z : BitVec 1} (h : s.room8 r) (b : State) (v : Dword) :
    atomEnd s (atomArgs b op a c r p z) v = .ok (((s.given8 r v).modMe Thread.atomClear).acquiredAt c).adrDone := by
  rw [← atomAcquire_scope]
  exact push8_of_room8 h v fun s => .ok (atomAcquire (s.modMe Thread.atomClear) c.toNat).adrDone

/-- The address of an atomic on scratchpad that passes its checks (R300, R311). -/
theorem atomPlace_of_ok {s : State} {x : AtomArgs} {pl : Nat} (hop : s.spadOperand s.cur .adr x.addr x.size (adrBad x.addr) = .ok pl) (hal : pl % x.size = 0)
    (hph : s.phaseCheck s.cur .adr pl x.size true = none) : atomPlace s x = .ok pl := by
  unfold atomPlace adrAlign adrPhase
  simp only [hop, bind, Except.bind, hph, if_neg (not_not.2 hal)]

theorem atomOwn_of_performed {s : State} {a n : Nat} (h : s.ownUnperformed s.cur .adr a n = false) : atomOwn s a n = .ok () := by
  unfold atomOwn; rw [h]; rfl

/-- An atom on scratchpad that passes its checks is issued (R289). -/
theorem atomSpad_issues {s : State} {op : Nat} {a : BitVec 6} {c : BitVec 3} {r p z : BitVec 1} {pl : Nat} (hsent : s.me.atomoSent = false) (hrel : s.performedAt c)
    (hroom : (s.releasedAt c).room8 r) : let x := atomArgs s op a c r p z
    s.spadOperand s.cur .adr x.addr x.size (adrBad x.addr) = .ok pl → pl % x.size = 0 → s.phaseCheck s.cur .adr pl x.size true = none →
    (s.releasedAt c).ownUnperformed (s.releasedAt c).cur .adr pl x.size = false →
    atomSpad s x = .error (.hold .outside (((s.releasedAt c).issueAtom (.atom op x.v x.c) pl x.size).modMe fun th =>
      { th with atomBegun := some (r == 1, c.toNat == 4) })) := by
  intro x hop hal hph hown
  unfold atomSpad
  rw [if_neg (by simp [hsent]), atomPlace_of_ok hop hal hph]
  show (atomRelease s c.toNat >>= fun s => _) = _
  rw [atomRelease_performed hrel]
  show (if (r == 1) = true ∧ (s.releasedAt c).me.qfull 8 = true then _ else _) = _
  rw [if_neg (not_waits_of_room8 hroom), atomOwn_of_performed hown]
  rfl

/-- An atom on memory that passes its checks replaces its operand at home (R311). -/
theorem atomMem_performs {s s1 : State} {op : Nat} {a : BitVec 6} {c : BitVec 3} {r p z : BitVec 1} {as : List Acc} {new : Nat → Option Nat}
    (hrel : s.performedAt c) (hroom : (s.releasedAt c).room8 r) : let x := atomArgs s op a c r p z
    x.addr.toNat % x.size = 0 → AtomIs op (8 * x.size) x.v x.c new →
    (s.releasedAt c).accessLin (s.releasedAt c).adrIssuer x.addr.toNat x.size true 0 = .ok (as, s1) →
    let w := (s.releasedAt c).adrIssuer
    let got := s1.loadHome w (as.headD default)
    let read := got.2.readTaint got.2.cur .adr got.1.2 (s1.accsTaint w as)
    atomMem s x = .ok (((State.given8 (match new (leNat got.1.1) with
      | some y => read.storeHome w (as.headD default) (leBytes x.size y) | none => read) r (BitVec.ofNat 64 (leNat got.1.1))).acquiredAt c).adrDone) := by
  intro x hal hnew hacc w got read
  have hload : MemOnly s1 got.2 := (loadHome_step s1 w _).1
  have hroom1 : s1.room8 r := State.room8_congr (by rw [(accessLin_tlb hacc).keeps.2.2.2.2.1]) hroom
  have hread : read.room8 r := State.room8_congr (by rw [State.readTaint_me_qs, hload.me]) hroom1
  have hstored := hnew.write (leNat got.1.1) (fun y => read.storeHome w (as.headD default) (leBytes x.size y)) read
  have hroom2 : State.room8 (match new (leNat got.1.1) with
      | some y => read.storeHome w (as.headD default) (leBytes x.size y) | none => read) r := by
    split
    · exact State.room8_congr (by rw [(storeHome_step ..).1.me]) hread
    · exact hread
  unfold atomMem adrAlign
  rw [if_neg (not_not.2 hal)]
  show (atomRelease s c.toNat >>= fun s => _) = _
  rw [atomRelease_performed hrel]
  show (if (r == 1) = true ∧ (s.releasedAt c).me.qfull 8 = true then _ else _) = _
  rw [if_neg (not_waits_of_room8 hroom), hacc]
  dsimp only
  rw [← hload.cur, ← atomAcquire_scope]
  rw [← hstored] at hroom2 ⊢
  exact push8_of_room8 hroom2 _ fun s => .ok (atomAcquire s c.toNat).adrDone

end Sys2Proof.Machine
end

section
/-! SUPPORT. Atomics on memory and on scratchpad (O14). -/

namespace Sys2Proof.Machine

/-! ## Issued atomics in their clock (R288, R291, R292) -/

/-- An issued access whose clock has come, on a die that is not frozen, is performed. -/
theorem scratchpadWritePerform_due {s : State} {n : Nat} {q : SPend} (hq : s.spend[n]? = some q) (hdue : q.due ≤ s.clk) (hfrozen : s.spadFrozen q = false) :
    exec (.scratchpadWritePerform n) s = .next (State.performPend { s with spend := s.spend.eraseIdx n } q) := by
  rw [exec_scratchpadWritePerform, execScratchpadWritePerform, hq]
  exact congrArg Host.Outcome.next (if_pos ⟨hdue, by rw [hfrozen]; rfl⟩)

/-- A performed atom that reads no pending word: its issuer has the old value, and the operand takes the operation's value. -/
theorem performPend_atom {s : State} {q : SPend} {op v c size : Nat} {new : Nat → Option Nat} (hact : q.act = .atom op v c) (hlen : q.bytes.length = size)
    (hv : v < 2 ^ (8 * size)) (hc : c < 2 ^ (8 * size)) (hnew : AtomIs op (8 * size) v c new) (hlanded : s.landed = []) (hrun : (s.thr q.thread).st = .running)
    (hnone : s.pendingRead q.cluster q.core q.eng q.addr size = none) :
    let was := leNat (s.spadBytes q.cluster q.addr size)
    let u := s.performPend q
    u.spend = s.spend ∧ u.mem = s.mem ∧ (u.thr q.thread).atomoOld = some (BitVec.ofNat 64 was) ∧
      u.spad = (match new was with | some y => s.spad.setRange (spadKey q.cluster q.addr) (leBytes size y) | none => s.spad) := by
  subst hlen
  dsimp only
  unfold State.performPend
  rw [hact]
  dsimp only
  rw [hnone]
  refine ⟨by simp, by simp, ?_, ?_⟩
  · exact State.giveAtom_old (by rw [State.spadAtom_thr_st]; exact hrun) _ _
  · rw [State.settlePending_spad, State.giveAtom_spad, State.spadAtom_spad hlanded, Nat.mod_eq_of_lt hv, Nat.mod_eq_of_lt hc]
    exact hnew.write _ (fun y => s.spad.setRange (spadKey q.cluster q.addr) (leBytes q.bytes.length y)) s.spad

/-- A performed atom that reads a word which another engine or thread has pending has no effect, and its word raises the trap (R291). -/
theorem performPend_atom_pending {s : State} {q : SPend} {op v c size : Nat} {k : TrapInfo} (hact : q.act = .atom op v c) (hlen : q.bytes.length = size)
    (hrun : (s.thr q.thread).st = .running) (hsome : s.pendingRead q.cluster q.core q.eng q.addr size = some k) :
    let u := s.performPend q
    u.spend = s.spend ∧ u.mem = s.mem ∧ (u.thr q.thread).atomoFail = some k ∧ u.spad = s.spad := by
  subst hlen
  dsimp only
  unfold State.performPend
  rw [hact]
  dsimp only
  rw [hsome]
  refine ⟨rfl, rfl, ?_, rfl⟩
  rw [State.settlePending_thr, State.thr_modThr_same, if_neg (by simp [hrun])]

/-! ## The words -/

theorem field_dword (w : Dword) : field w 0 64 = w.toNat := by
  show (w.extractLsb' 0 64).toNat = _
  simp

/-- The operand of an atomic word fits its size. -/
theorem atomArgs_v (s : State) (op : Nat) (a : BitVec 6) (c : BitVec 3) (r p z : BitVec 1) :
    (atomArgs s op a c r p z).v = (s.me.run .adr a 1).toNat % 2 ^ (8 * if z = 1 then 8 else 4) := by
  show field _ 0 64 % _ = _
  rw [field_dword]

theorem atomArgs_c (s : State) (op : Nat) (a : BitVec 6) (c : BitVec 3) (r p z : BitVec 1) :
    (atomArgs s op a c r p z).c = if op = 7 then (s.me.run .adr a 2).toNat % 2 ^ (8 * if z = 1 then 8 else 4) else 0 := by
  show (if op = 7 then field _ 0 64 % _ else 0) = _
  rw [field_dword]

/-- An atomic word in a context without DET has the meaning of its place. -/
theorem adrAtom_places {s : State} (htrap : s.me.adrTrap = none) (hdet : (s.ctxs.get s.me.cid).det = false) (op : Nat) (a : BitVec 6) (c : BitVec 3)
    (r p z : BitVec 1) : adrAtom op a c r p z s =
      finish .adr s (if (p == 1) = true then atomSpad s (atomArgs s op a c r p z) else atomMem s (atomArgs s op a c r p z)) := by
  unfold adrAtom
  rw [adrWord_none _ _ htrap, hdet]
  rfl

/-- A compare and exchange writes where the operand is the compared value (R311). -/
theorem atomIs_cas (n v c : Nat) : AtomIs 7 n v c fun old => if old = c then some v else none := by
  intro old
  show (if old = c then (v, true) else (old, false)) = _
  by_cases h : old = c
  · simp [h]
  · simp [h]

/-- Settles O14: each clause of an atomic follows the word's own way through its place, and the eight forms differ in their operation alone. -/
theorem atomicsReplaceTheirOperand : Obligations.AtomicsReplaceTheirOperand := by
  unfold Obligations.AtomicsReplaceTheirOperand
  intro s s1 a c r p z as pl o info th size addr v cmp sx rel w at_ got old read give acq performed atom htrap
  have each : ∀ (i : Instr) (op : Nat) (new : Nat → Option Nat), exec i s = adrAtom op a c r p z s →
      AtomIs op (8 * size) v (if op = 7 then cmp else 0) new → atom i op new := by
    intro i op new hexec hnew
    have hv := atomArgs_v s op a c r p z
    have hc := atomArgs_c s op a c r p z
    have hplace (hdet : (s.ctxs.get th.cid).det = false) : exec i s = finish .adr s _ := hexec.trans (adrAtom_places htrap hdet op a c r p z)
    refine ⟨?memory, ?issued, ?ended, ?failed, ?inItsClock, ?det⟩
    case memory =>
      intro hdet hp hal hrel hroom hacc
      refine does_of_ok (hplace hdet) ?_
      rw [if_neg (by rw [hp]; decide)]
      exact atomMem_performs hrel hroom hal (by rw [hv, hc]; exact hnew) hacc
    case issued =>
      intro hdet hp hsent hop hal hph hrel hroom hown
      rw [hplace hdet, if_pos (by rw [hp]; rfl), atomSpad_issues hsent hrel hroom hop hal hph hown, hv, hc]
      rfl
    case ended =>
      intro hdet hp hsent hfail hold hroom
      refine does_of_ok (hplace hdet) ?_
      rw [if_pos (by rw [hp]; rfl)]
      unfold atomSpad
      rw [if_pos hsent, hfail, hold]
      dsimp only
      rw [atomEnd_of_room hroom]
      show _ = Except.ok _
      simp only [give, BitVec.ofNat_toNat, BitVec.setWidth_eq]
      rfl
    case failed =>
      intro hdet hp hsent hfail
      rw [hplace hdet, if_pos (by rw [hp]; rfl)]
      unfold atomSpad
      rw [if_pos hsent, hfail]
      rfl
    case inItsClock =>
      intro n q hq hact hlen hdue hfrozen hlanded hrun was meets
      refine ⟨_, scratchpadWritePerform_due hq hdue hfrozen, ?_⟩
      cases hmeets : meets with
      | none =>
        obtain ⟨hspend, hmem, hold, hspad⟩ := performPend_atom (s := { s with spend := s.spend.eraseIdx n }) hact hlen (Nat.mod_lt _ (Nat.two_pow_pos _))
          (by split; exacts [Nat.mod_lt _ (Nat.two_pow_pos _), Nat.two_pow_pos _]) hnew hlanded hrun hmeets
        exact ⟨hspend, hmem, fun _ => ⟨hold, hspad⟩, fun k hk => absurd hk.symm (Option.some_ne_none k)⟩
      | some k =>
        obtain ⟨hspend, hmem, hfail, hspad⟩ := performPend_atom_pending (s := { s with spend := s.spend.eraseIdx n }) hact hlen hrun hmeets
        refine ⟨hspend, hmem, fun h => absurd h (Option.some_ne_none k), fun k' hk => ?_⟩
        obtain rfl : k = k' := Option.some.inj hk
        exact ⟨hfail, hspad⟩
    case det =>
      intro hdet
      refine ⟨{ code := .illegalInsn, estat := 0, addr := 0, openE := 0xFF, openA := true }, rfl, traps_of_trap (hexec.trans (adrWord_none _ _ htrap)) ?_⟩
      exact if_pos hdet
  clear_value atom
  exact ⟨each (.atomAdd a c r p z) 0 _ (exec_atomAdd a c r p z s) fun _ => rfl,
    each (.atomMin a c r p z) 1 _ (exec_atomMin a c r p z s) fun _ => rfl,
    each (.atomMax a c r p z) 2 _ (exec_atomMax a c r p z s) fun _ => rfl,
    each (.atomAnd a c r p z) 3 _ (exec_atomAnd a c r p z s) fun _ => rfl,
    each (.atomOr a c r p z) 4 _ (exec_atomOr a c r p z s) fun _ => rfl,
    each (.atomXor a c r p z) 5 _ (exec_atomXor a c r p z s) fun _ => rfl,
    each (.atomXchg a c r p z) 6 _ (exec_atomXchg a c r p z s) fun _ => rfl,
    each (.atomCas a c r p z) 7 _ (exec_atomCas a c r p z s) (atomIs_cas _ _ _)⟩

end Sys2Proof.Machine
end

section
/-! SUPPORT. The end of an ordered atomic (R312): the order in which its result is pushed and its progress cleared, and where that order matters. -/

namespace Sys2Proof.Machine

/-- A thread that holds nothing but an ordered atomic with its result. -/
def endedAtomo : Thread := { (default : Thread) with atomoSent := true, atomoOld := some 0 }

/-- In a canonical thread table it does not matter whether the old value is pushed before or after the atomic is cleared. -/
theorem State.modMe_pushS_atomClear {s : State} (h : s.threads.wf = true) (v : Dword) :
    (s.modMe fun th => th.pushS 8 v).modMe Thread.atomClear = (s.modMe Thread.atomClear).modMe fun th => th.pushS 8 v := by
  rw [State.modMe_modMe h, State.modMe_modMe h]
  rfl

/-- Refutes O15: the statement clears the atomic before the old value is pushed, the word pushes first. Where the table lists a thread twice and the cleared record is the
default one, the statement loses the second entry, which the word keeps; `State.modMe_pushS_atomClear` has the two orders for a canonical table. -/
theorem not_orderedAtomicsAreSentAndEndWithTheirResult : ¬ Obligations.OrderedAtomicsAreSentAndEndWithTheirResult := by
  intro h
  obtain ⟨hadd, -⟩ := h (twiceListed endedAtomo) (twiceListed endedAtomo) 0 0 1 0 0 [] 0 0 default rfl
  obtain ⟨-, -, hended, -⟩ := hadd
  obtain ⟨u, stated, hu⟩ := hended rfl rfl rfl fun _ => by decide
  have ended : exec (.atomoAdd 0 0 1 0 0) (twiceListed endedAtomo) =
      .next ((((twiceListed endedAtomo).modMe fun th => th.pushS 8 0).modMe Thread.atomClear).adrDone.retire .adr (twiceListed endedAtomo)) := by
    have hend := atomEnd_of_room (op := 0) (a := 0) (c := 0) (r := 1) (p := 0) (z := 0) (s := twiceListed endedAtomo) (fun _ => by decide) (twiceListed endedAtomo) 0
    exact congrArg (finish .adr (twiceListed endedAtomo)) hend
  have same := congrArg (fun s => s.threads.length) (Host.Outcome.next.inj (stated.symm.trans ended))
  rw [hu] at same
  exact absurd same (by decide)

end Sys2Proof.Machine
end

section
/-! SUPPORT. Ordering units (R293, R294): what performing, failing and draining atomos changes, and each way in which an arriving atomo goes (O16). -/

namespace Sys2Proof.Machine

/-! ## The line entries beside home memory and threads -/

/-- The state with other line entries. -/
def State.withLines (s : State) (lines : Tab AtomLine) : State := { s with atomLines := lines }

@[simp] theorem State.withLines_atomLines (s : State) (l : Tab AtomLine) : (s.withLines l).atomLines = l := rfl
@[simp] theorem State.withLines_mem (s : State) (l : Tab AtomLine) : (s.withLines l).mem = s.mem := rfl
@[simp] theorem State.withLines_spad (s : State) (l : Tab AtomLine) : (s.withLines l).spad = s.spad := rfl
@[simp] theorem State.withLines_landed (s : State) (l : Tab AtomLine) : (s.withLines l).landed = s.landed := rfl
@[simp] theorem State.withLines_spadBytes (s : State) (l : Tab AtomLine) (c a n : Nat) : (s.withLines l).spadBytes c a n = s.spadBytes c a n := rfl
@[simp] theorem State.withLines_spadPoison (s : State) (l : Tab AtomLine) (c a n : Nat) : (s.withLines l).spadPoison c a n = s.spadPoison c a n := rfl
@[simp] theorem State.withLines_homeRead (s : State) (l : Tab AtomLine) (pa n : Nat) : (s.withLines l).homeRead pa n = s.homeRead pa n := rfl
@[simp] theorem State.withLines_rangePoison (s : State) (l : Tab AtomLine) (pa n : Nat) : (s.withLines l).rangePoison pa n = s.rangePoison pa n := rfl
@[simp] theorem State.withLines_pendingRead (s : State) (l : Tab AtomLine) (c k : Nat) (e : Engine) (a n : Nat) :
    (s.withLines l).pendingRead c k e a n = s.pendingRead c k e a n := rfl
@[simp] theorem State.withLines_thr (s : State) (l : Tab AtomLine) (t : Nat) : (s.withLines l).thr t = s.thr t := rfl

theorem State.homeWrite_withLines (s : State) (l : Tab AtomLine) (cid pa : Nat) (bs : List Byte) :
    (s.withLines l).homeWrite cid pa bs = (s.homeWrite cid pa bs).withLines l := by
  by_cases h : s.paDown pa = true
  · have hl : (s.withLines l).paDown pa = true := h
    rw [State.homeWrite, State.homeWrite, if_pos h, if_pos hl]
  · have hl : ¬ (s.withLines l).paDown pa = true := h
    rw [State.homeWrite, State.homeWrite, if_neg h, if_neg hl]
    rfl

theorem State.readTaint_withLines (s : State) (l : Tab AtomLine) (t : Nat) (e : Engine) (poison piece : Bool) :
    (s.withLines l).readTaint t e poison piece = (s.readTaint t e poison piece).withLines l := by
  cases poison <;> cases piece <;> rfl

theorem State.giveAtom_withLines (s : State) (l : Tab AtomLine) (t old : Nat) (bad : Bool) :
    (s.withLines l).giveAtom t old bad = (s.giveAtom t old bad).withLines l := by
  unfold State.giveAtom
  rw [State.withLines_thr]
  split
  · rfl
  · rw [State.readTaint_withLines]
    rfl

theorem State.spadWrites_withLines (l : Tab AtomLine) (qs : List SPend) : ∀ s : State, qs.foldl (fun s q => s.spadWrite q.cluster q.addr q.bytes) (s.withLines l) =
    (qs.foldl (fun s q => s.spadWrite q.cluster q.addr q.bytes) s).withLines l := by
  induction qs with
  | nil => exact fun _ => rfl
  | cons q qs ih => exact fun s => ih (s.spadWrite q.cluster q.addr q.bytes)

theorem State.spadLand_withLines (s : State) (l : Tab AtomLine) (q : SPend) : (s.withLines l).spadLand q = (s.spadLand q).withLines l := by
  have hfirst : (s.withLines l).spadWrite q.cluster q.addr q.bytes = (s.spadWrite q.cluster q.addr q.bytes).withLines l := rfl
  unfold State.spadLand
  dsimp only
  rw [hfirst, State.withLines_landed, State.spadWrites_withLines]
  rfl

theorem State.spadAtom_withLines (s : State) (l : Tab AtomLine) (p : SPend) (op size v c : Nat) :
    (s.withLines l).spadAtom p op size v c = ((s.spadAtom p op size v c).1.withLines l, (s.spadAtom p op size v c).2) := by
  unfold State.spadAtom
  dsimp only
  rw [State.spadLand_withLines, State.withLines_spadBytes, State.withLines_spadPoison]
  split <;> rfl

/-! ## An atomo performed -/

@[simp] theorem State.settlePending_atomLines (s : State) (c : Nat) (x : Engine × Nat) (a n : Nat) : (s.settlePending c x a n).atomLines = s.atomLines := rfl

/-- An atomo of memory does not look at the line entries. -/
theorem State.performAtomo_withLines_mem {a : Atomo} (h : a.spad = false) (s : State) (l : Tab AtomLine) :
    (s.withLines l).performAtomo a = (s.performAtomo a).withLines l := by
  unfold State.performAtomo
  rw [if_neg (by rw [h]; decide), if_neg (by rw [h]; decide)]
  dsimp only
  rw [State.homeWrite_withLines, ← State.giveAtom_withLines, State.withLines_homeRead, State.withLines_rangePoison]
  congr 1
  split <;> rfl

/-- The line entries that stand while an atomo is performed matter to no more than the pending bits. -/
theorem State.performAtomo_withLines {α : Type} (g : State → α) (hlines : ∀ s l, g (State.withLines s l) = g s)
    (hsettle : ∀ s c x a n, g (State.settlePending s c x a n) = g s) (a : Atomo) (s : State) (l : Tab AtomLine) :
    g ((s.withLines l).performAtomo a) = g (s.performAtomo a) := by
  cases h : a.spad
  case false => rw [s.performAtomo_withLines_mem h, hlines]
  case true =>
    unfold State.performAtomo
    rw [if_pos h, if_pos h, State.withLines_pendingRead]
    split
    · rw [hsettle, hsettle]
      exact hlines (s.endAtomo a _) l
    · dsimp only
      rw [hsettle, hsettle, State.spadAtom_withLines, State.giveAtom_withLines, hlines]
      rfl

theorem State.homeWrite_spad (s : State) (cid pa : Nat) (bs : List Byte) : (s.homeWrite cid pa bs).spad = s.spad := (homeWrite_step s cid pa bs).1.keeps.2.2.1

theorem State.homeWrite_thr (s : State) (cid pa : Nat) (bs : List Byte) (t : Nat) : (s.homeWrite cid pa bs).thr t = s.thr t :=
  (homeWrite_step s cid pa bs).1.keeps.2.2.2.2 t

/-- Performing an atomo leaves the line entries. -/
@[simp] theorem State.performAtomo_atomLines (s : State) (a : Atomo) : (s.performAtomo a).atomLines = s.atomLines := by
  cases h : a.spad
  case false =>
    have hsame : s.performAtomo a = (s.performAtomo a).withLines s.atomLines := s.performAtomo_withLines_mem h s.atomLines
    exact (congrArg State.atomLines hsame).trans rfl
  case true =>
    unfold State.performAtomo
    rw [if_pos h]
    split
    · rfl
    · dsimp only
      rw [State.settlePending_atomLines, State.giveAtom_keeps State.atomLines (fun _ _ _ _ => rfl) (fun _ _ _ => rfl)]
      exact congrArg (fun r => r.1.atomLines) (s.spadAtom_withLines s.atomLines _ _ _ _ _)

/-- An atomo of memory leaves the scratchpads. -/
theorem State.performAtomo_spad {a : Atomo} (h : a.spad = false) (s : State) : (s.performAtomo a).spad = s.spad := by
  unfold State.performAtomo
  rw [if_neg (by rw [h]; decide)]
  dsimp only
  rw [State.giveAtom_spad]
  split
  · exact s.homeWrite_spad ..
  · rfl

/-- A running issuer has the result of an atomo that reads no pending word. -/
theorem State.performAtomo_old {s : State} {a : Atomo} (hrun : (s.thr a.thread).st = .running)
    (hread : a.spad = true → s.pendingRead a.cluster a.core .adr a.pa a.size = none) : ∃ old, ((s.performAtomo a).thr a.thread).atomoOld = some old := by
  unfold State.performAtomo
  dsimp only
  split
  next h =>
    rw [hread h]
    exact ⟨_, State.giveAtom_old (by rw [State.spadAtom_thr_st]; exact hrun) _ _⟩
  next h =>
    refine ⟨_, State.giveAtom_old ?_ _ _⟩
    split
    · rw [State.homeWrite_thr]; exact hrun
    · exact hrun

/-! ## An atomo ended, a line entry freed -/

@[simp] theorem State.failAtomo_atomLines (s : State) (a : Atomo) (k : Nat) : (s.failAtomo a k).atomLines = s.atomLines := by
  unfold State.failAtomo; split <;> rfl
@[simp] theorem State.failAtomo_mem (s : State) (a : Atomo) (k : Nat) : (s.failAtomo a k).mem = s.mem := by unfold State.failAtomo; split <;> rfl
@[simp] theorem State.failAtomo_spad (s : State) (a : Atomo) (k : Nat) : (s.failAtomo a k).spad = s.spad := by unfold State.failAtomo; split <;> rfl

/-- The trap with which an ordered atomic ends at its unit. -/
def Atomo.ends (a : Atomo) (cause : Nat) : TrapInfo := { code := .shape, estat := BitVec.ofNat 64 cause, addr := BitVec.ofNat 64 a.q }

/-- What the end of an atomo does to the threads. -/
theorem State.failAtomo_thr (s : State) (a : Atomo) (k t : Nat) : (s.failAtomo a k).thr t =
    if t = a.thread ∧ (s.thr t).st ≠ .ended then { s.thr t with atomoFail := some (a.ends k) } else s.thr t := by
  have hend : ∀ s : State, (s.endAtomo a (a.ends k)).thr t =
      if t = a.thread ∧ (s.thr t).st ≠ .ended then { s.thr t with atomoFail := some (a.ends k) } else s.thr t := by
    intro s
    unfold State.endAtomo
    by_cases ht : t = a.thread
    · subst ht
      rw [State.thr_modThr_same]
      by_cases hst : (s.thr a.thread).st = .ended
      · rw [if_pos hst, if_neg (fun h => h.2 hst)]
      · rw [if_neg hst, if_pos ⟨rfl, hst⟩]
    · rw [State.thr_modThr_other _ _ _ _ ht, if_neg (fun h => ht h.1)]
  unfold State.failAtomo
  dsimp only
  split
  · exact hend _
  · exact hend s

theorem State.failAtomo_thr_keeps {α : Type} (g : Thread → α) (hg : ∀ (th : Thread) i, g { th with atomoFail := i } = g th) (s : State) (a : Atomo) (k t : Nat) :
    g ((s.failAtomo a k).thr t) = g (s.thr t) := by
  rw [State.failAtomo_thr]
  split
  · exact hg _ _
  · rfl

/-- A running thread whose atomic ends has its trap to raise. -/
theorem State.failAtomo_fails {s : State} {a : Atomo} (h : (s.thr a.thread).st = .running) (k : Nat) : ((s.failAtomo a k).thr a.thread).atomoFail = some (a.ends k) := by
  rw [State.failAtomo_thr, if_pos ⟨rfl, by rw [h]; decide⟩]

/-- What the end of each atomo of a list keeps, the end of all keeps. -/
theorem failAtomos_keep {α : Type} (g : State → α) (k : Nat) (hg : ∀ s a, g (State.failAtomo s a k) = g s) (l : List Atomo) :
    ∀ s : State, g (l.foldl (fun s a => s.failAtomo a k) s) = g s := by
  induction l with
  | nil => exact fun _ => rfl
  | cons a l ih => exact fun s => (ih _).trans (hg s a)

/-- Every running thread with an atomo in a list that ends has a trap of that cause to raise. -/
theorem failAtomos_fail (k : Nat) (l : List Atomo) : ∀ (s : State) (t : Nat), (s.thr t).st = .running →
    ((∃ b ∈ l, b.thread = t) ∨ ∃ b : Atomo, (s.thr t).atomoFail = some (b.ends k)) →
    ∃ b : Atomo, ((l.foldl (fun s a => s.failAtomo a k) s).thr t).atomoFail = some (b.ends k) := by
  induction l with
  | nil =>
    rintro s t - (⟨b, hb, -⟩ | h)
    · exact absurd hb (List.not_mem_nil)
    · exact h
  | cons a l ih =>
    intro s t hrun h
    have hrun' : ((s.failAtomo a k).thr t).st = .running := by rw [s.failAtomo_thr_keeps Thread.st (fun _ _ => rfl)]; exact hrun
    refine ih _ t hrun' ?_
    by_cases ht : a.thread = t
    · subst ht
      exact .inr ⟨a, State.failAtomo_fails hrun k⟩
    · obtain ⟨b, hb, hbt⟩ | ⟨b, hb⟩ := h
      · obtain rfl | hb := List.mem_cons.1 hb
        · exact absurd hbt ht
        · exact .inl ⟨b, hb, hbt⟩
      · refine .inr ⟨b, ?_⟩
        rw [State.failAtomo_thr, if_neg (fun h => ht h.1.symm), hb]

/-- A freed line loses its entry alone, beside what its held atomos' threads have to raise. -/
theorem freeLine_keeps {α : Type} (g : State → α) (hfail : ∀ s a k, g (State.failAtomo s a k) = g s) (hlines : ∀ s l, g (State.withLines s l) = g s)
    (s : State) (line : Nat) : g (s.freeLine line) = g s :=
  (failAtomos_keep g 6 (fun s a => hfail s a 6) _ _).trans (hlines s (s.atomLines.set line default))

theorem freeLine_atomLines (s : State) (line : Nat) : (s.freeLine line).atomLines = s.atomLines.set line default :=
  failAtomos_keep State.atomLines 6 (fun s a => s.failAtomo_atomLines a 6) _ _

/-! ## The atomos that come up in turn -/

/-- Of atomos with different numbers, a search for a number finds the one that has it. -/
theorem find_of_number {l : List Atomo} (hnodup : (l.map fun x => x.q).Nodup) {c : Atomo} (hc : c ∈ l) : (l.find? fun a => a.q == c.q) = some c := by
  cases hfind : l.find? fun a => a.q == c.q with
  | none => exact absurd (List.find?_eq_none.1 hfind c hc) (by simp)
  | some d =>
    have hq : d.q = c.q := by simpa using List.find?_some hfind
    rw [List.inj_on_of_nodup_map hnodup (List.mem_of_find?_eq_some hfind) hc hq]

/-- A line entry after a chain of held atomos has come up. -/
def AtomLine.after (e : AtomLine) (cs : List Atomo) : AtomLine := { e with next := e.next + cs.length, held := e.held.filter fun x => x ∉ cs }

theorem ne_default_of_live {e : AtomLine} (h : e.live = true) : e ≠ default := by
  rintro rfl
  exact absurd h (by decide)

/-- Held atomos of memory whose numbers follow one another from NEXT on are performed in number order (R294). -/
theorem drainLine_chain (line : Nat) (lines : Tab AtomLine) : ∀ (cs : List Atomo) (fuel : Nat) (s : State) (e : AtomLine) (last : Bool), e.live = true →
    e.held.length < fuel → (∀ x ∈ cs, x ∈ e.held) → cs.map (fun x => x.q) = (List.range cs.length).map (fun j => e.next + j) →
    (e.held.map fun x => x.q).Nodup → (∀ x ∈ e.held, x.q ≠ e.next + cs.length) → (∀ x ∈ cs, x.spad = false) →
    drainLine line fuel (s.withLines (lines.set line e)) e last =
      ((cs.foldl State.performAtomo s).withLines (lines.set line (e.after cs)), e.after cs, last || cs.any fun x => x.last) := by
  intro cs
  induction cs with
  | nil =>
    intro fuel s e last _ hfuel _ _ _ hstop _
    obtain ⟨fuel, rfl⟩ : ∃ k, fuel = k + 1 := ⟨fuel - 1, by omega⟩
    have hnone : (e.held.find? fun a => a.q == e.next) = none := List.find?_eq_none.2 fun x hx => by simpa using hstop x hx
    have hafter : e.after [] = e := by simp [AtomLine.after]
    rw [drainLine, hnone, hafter]
    simp
  | cons c cs ih =>
    intro fuel s e last hlive hfuel hmem hq hnodup hstop hspad
    obtain ⟨fuel, rfl⟩ : ∃ k, fuel = k + 1 := ⟨fuel - 1, by omega⟩
    have hc : c ∈ e.held := hmem c List.mem_cons_self
    rw [List.map_cons, List.length_cons, List.range_succ_eq_map, List.map_cons, List.cons.injEq, List.map_map] at hq
    obtain ⟨hcq, hq⟩ := hq
    have hfind : (e.held.find? fun a => a.q == e.next) = some c := by
      rw [← find_of_number hnodup hc, hcq]
      rfl
    have herase : e.held.erase c = e.held.filter fun x => x != c := (List.Nodup.of_map _ hnodup).erase_eq_filter c
    have hcs : c ∉ cs := by
      intro h
      have : c.q ∈ (List.range cs.length).map ((fun j => e.next + j) ∘ Nat.succ) := hq ▸ List.mem_map_of_mem h
      simp [hcq] at this
    have hstep : ({ e with next := e.next + 1, held := e.held.erase c } : AtomLine).after cs = e.after (c :: cs) := by
      simp only [AtomLine.after, herase, List.filter_filter, List.length_cons, AtomLine.mk.injEq, true_and]
      refine ⟨by omega, List.filter_congr fun x _ => ?_⟩
      by_cases hx : x = c <;> simp [hx]
    rw [drainLine, hfind]
    dsimp only
    have hset : ({ (s.withLines (lines.set line e)) with
        atomLines := (lines.set line e).set line { e with next := e.next + 1, held := e.held.erase c } } : State) =
        s.withLines (lines.set line { e with next := e.next + 1, held := e.held.erase c }) :=
      congrArg s.withLines (Tab.set_set_of_ne _ _ _ (ne_default_of_live hlive))
    rw [State.withLines_atomLines, hset, State.performAtomo_withLines_mem (hspad c List.mem_cons_self), ih, hstep, Bool.or_assoc]
    · rfl
    · exact hlive
    · have := List.length_erase_of_mem hc
      have := List.length_pos_of_mem hc
      dsimp only
      omega
    · intro x hx
      have hxc : x ≠ c := fun h => hcs (h ▸ hx)
      exact (List.mem_erase_of_ne hxc).2 (hmem x (List.mem_cons_of_mem c hx))
    · rw [hq]
      exact List.map_congr_left fun j _ => by simp only [Function.comp, Nat.succ_eq_add_one]; omega
    · exact hnodup.sublist (List.erase_sublist.map _)
    · intro x hx
      have := hstop x (List.mem_of_mem_erase hx)
      rw [List.length_cons] at this
      dsimp only
      omega
    · exact fun x hx => hspad x (List.mem_cons_of_mem c hx)

end Sys2Proof.Machine
end

section
/-! SUPPORT. An arriving atomo at its ordering unit (R294), way by way (O16). -/

namespace Sys2Proof.Machine

/-- The line entry that an arriving atomo finds, from 0 on where its line had none. -/
def State.entryFor (s : State) (a : Atomo) : AtomLine := if (s.atomLines.get a.line).live then s.atomLines.get a.line else { live := true, next := 0, held := [] }

/-- An arriving atomo as its unit takes it. -/
def State.atUnit (s : State) (a : Atomo) : Atomo := { a with unit := s.unitOf a.line, reserved := false }

/-- Its line has an entry, or its unit has one left. -/
def State.hasEntry (s : State) (a : Atomo) : Prop := (s.atomLines.get a.line).live = true ∨ s.linesOf (s.unitOf a.line) < unitLines (s.unitOf a.line)

/-- The reserved holding entry of its stream is free. -/
def State.ownFree (s : State) (a : Atomo) : Prop := ∃ k, a.stream = some k ∧ ∀ x ∈ s.heldBy (s.unitOf a.line), x.reserved = true → x.stream ≠ some k

/-- A shared holding entry of its unit is free. -/
def State.sharedFree (s : State) (a : Atomo) : Prop :=
  ((s.heldBy (s.unitOf a.line)).filter fun x => !x.reserved).length < unitShared (s.unitOf a.line)

/-- The state with one line entry written. -/
def State.putEntry (s : State) (a : Atomo) (e : AtomLine) : State := s.withLines (s.atomLines.set a.line e)

theorem State.entryFor_live (s : State) (a : Atomo) : (s.entryFor a).live = true := by
  unfold State.entryFor; split
  · assumption
  · rfl

section
variable {s : State} {a : Atomo}

theorem arrive_without_entry (h : ¬ s.hasEntry a) : s.arriveAtomo a = { s with refused := s.refused ++ [s.atUnit a] } := by
  obtain ⟨hlive, hfull⟩ := not_or.1 h
  exact if_pos ⟨by simpa using hlive, Nat.not_lt.1 hfull⟩

/-- What an atomo whose line has an entry goes by. -/
theorem arrive_with_entry (h : s.hasEntry a) : s.arriveAtomo a =
    let e := s.entryFor a
    let b := s.atUnit a
    let reservedFree := match a.stream with
      | none => false
      | some k => !((s.heldBy (s.unitOf a.line)).any fun x => x.reserved && x.stream == some k)
    if a.q = e.next then
      let r := drainLine a.line (e.held.length + 1) ((s.putEntry a { e with next := a.q + 1 }).performAtomo b) { e with next := a.q + 1 } a.last
      if r.2.2 then r.1.freeLine a.line else r.1
    else if a.q < e.next ∨ e.next + 65536 ≤ a.q then (s.putEntry a e).failAtomo b 6
    else if reservedFree then s.putEntry a { e with held := e.held ++ [{ b with reserved := true }] }
    else if ((s.heldBy (s.unitOf a.line)).filter fun x => !x.reserved).length < unitShared (s.unitOf a.line) then s.putEntry a { e with held := e.held ++ [b] }
    else { s.putEntry a e with refused := s.refused ++ [b] } := by
  refine (if_neg ?_).trans rfl
  rintro ⟨hlive, hfull⟩
  obtain h | h := h
  · exact absurd hlive (by simp [h])
  · exact absurd h (Nat.not_lt.2 hfull)

theorem reservedFree_iff : (match a.stream with
      | none => false
      | some k => !((s.heldBy (s.unitOf a.line)).any fun x => x.reserved && x.stream == some k)) = true ↔ s.ownFree a := by
  unfold State.ownFree
  cases a.stream with
  | none => simp
  | some k => simp

/-- An atomo outside the window ends with SHAPE (R294). -/
theorem arrive_outside_window (h : s.hasEntry a) (hq : a.q < (s.entryFor a).next ∨ (s.entryFor a).next + 65536 ≤ a.q) :
    s.arriveAtomo a = (s.putEntry a (s.entryFor a)).failAtomo (s.atUnit a) 6 := by
  rw [arrive_with_entry h]
  dsimp only
  rw [if_neg (by omega), if_pos hq]

/-- An atomo in the window, ahead of its turn, is held or refused (R293, R294). -/
theorem arrive_in_window (h : s.hasEntry a) (hlo : (s.entryFor a).next < a.q) (hhi : a.q < (s.entryFor a).next + 65536) :
    (s.ownFree a → s.arriveAtomo a =
      s.putEntry a { s.entryFor a with held := (s.entryFor a).held ++ [{ s.atUnit a with reserved := true }] }) ∧
    (¬ s.ownFree a → s.sharedFree a → s.arriveAtomo a = s.putEntry a { s.entryFor a with held := (s.entryFor a).held ++ [s.atUnit a] }) ∧
    (¬ s.ownFree a → ¬ s.sharedFree a → s.arriveAtomo a = { s.putEntry a (s.entryFor a) with refused := s.refused ++ [s.atUnit a] }) := by
  rw [arrive_with_entry h]
  dsimp only
  rw [if_neg (by omega), if_neg (by omega)]
  exact ⟨fun hown => if_pos (reservedFree_iff.2 hown),
    fun hown hshared => (if_neg (mt reservedFree_iff.1 hown)).trans (if_pos hshared),
    fun hown hshared => (if_neg (mt reservedFree_iff.1 hown)).trans (if_neg hshared)⟩

/-- The state from which the held atomos come up once an atomo in its turn has been performed. -/
def State.performedInTurn (s : State) (a : Atomo) : State := (s.putEntry a { s.entryFor a with next := a.q + 1 }).performAtomo (s.atUnit a)

theorem arrive_in_turn (h : s.hasEntry a) (hq : a.q = (s.entryFor a).next) : s.arriveAtomo a =
    let r := drainLine a.line ((s.entryFor a).held.length + 1) (s.performedInTurn a) { s.entryFor a with next := a.q + 1 } a.last
    if r.2.2 then r.1.freeLine a.line else r.1 := by
  rw [arrive_with_entry h]
  exact if_pos hq

/-- The line entry after an atomo in its turn and the chain of held ones that it lets come up: freed where one of them is its last. -/
theorem arrive_in_turn_drained (h : s.hasEntry a) (hq : a.q = (s.entryFor a).next) {t : State} {e : AtomLine} {last : Bool} (hlive : e.live = true)
    (hdrain : drainLine a.line ((s.entryFor a).held.length + 1) (s.performedInTurn a) { s.entryFor a with next := a.q + 1 } a.last =
      (t, e, last)) (hlines : t.atomLines = s.atomLines.set a.line e) :
    (s.arriveAtomo a).atomLines = s.atomLines.set a.line (if last = true then default else e) ∧
    ∀ {α : Type} (g : State → α), (∀ s a k, g (State.failAtomo s a k) = g s) → (∀ s l, g (State.withLines s l) = g s) → g (s.arriveAtomo a) = g t := by
  rw [arrive_in_turn h hq, hdrain]
  cases last
  case false => exact ⟨hlines, fun g _ _ => rfl⟩
  case true =>
    refine ⟨?_, fun g hfail hl => freeLine_keeps g hfail hl t a.line⟩
    show (t.freeLine a.line).atomLines = _
    rw [freeLine_atomLines, hlines, Tab.set_set_of_ne _ _ _ (ne_default_of_live hlive)]
    rfl

theorem performedInTurn_atomLines (s : State) (a : Atomo) : (s.performedInTurn a).atomLines = s.atomLines.set a.line { s.entryFor a with next := a.q + 1 } :=
  State.performAtomo_atomLines ..

theorem performedInTurn_keeps {α : Type} (g : State → α) (hlines : ∀ s l, g (State.withLines s l) = g s)
    (hsettle : ∀ s c x a n, g (State.settlePending s c x a n) = g s) : g (s.performedInTurn a) = g (s.performAtomo (s.atUnit a)) :=
  State.performAtomo_withLines g hlines hsettle ..

/-- An atomo in its turn with none held behind it (R294). -/
theorem arrive_in_turn_alone (h : s.hasEntry a) (hq : a.q = (s.entryFor a).next) (hnext : ∀ x ∈ (s.entryFor a).held, x.q ≠ a.q + 1) :
    (s.arriveAtomo a).atomLines = s.atomLines.set a.line (if a.last = true then default else { s.entryFor a with next := a.q + 1 }) ∧
    (s.arriveAtomo a).mem = (s.performAtomo (s.atUnit a)).mem ∧ (s.arriveAtomo a).spad = (s.performAtomo (s.atUnit a)).spad ∧
    ((s.thr a.thread).st = .running → (a.spad = true → s.pendingRead a.cluster a.core .adr a.pa a.size = none) →
      ∃ old, ((s.arriveAtomo a).thr a.thread).atomoOld = some old) := by
  have hnone : ((s.entryFor a).held.find? fun x => x.q == a.q + 1) = none := List.find?_eq_none.2 fun x hx => by simpa using hnext x hx
  have hdrain : drainLine a.line ((s.entryFor a).held.length + 1) (s.performedInTurn a) { s.entryFor a with next := a.q + 1 } a.last =
      (s.performedInTurn a, { s.entryFor a with next := a.q + 1 }, a.last) := by
    rw [drainLine]
    dsimp only
    rw [hnone]
  obtain ⟨hlines, hkeep⟩ := arrive_in_turn_drained h hq (by exact s.entryFor_live a) hdrain (performedInTurn_atomLines s a)
  refine ⟨hlines, ?_, ?_, fun hrun hread => ?_⟩
  · rw [hkeep State.mem State.failAtomo_mem State.withLines_mem, performedInTurn_keeps State.mem State.withLines_mem State.settlePending_mem]
  · rw [hkeep State.spad State.failAtomo_spad State.withLines_spad, performedInTurn_keeps State.spad State.withLines_spad State.settlePending_spad]
  · obtain ⟨old, hold⟩ := State.performAtomo_old (s := s) (a := s.atUnit a) hrun hread
    refine ⟨old, ?_⟩
    rw [hkeep (fun u => (u.thr a.thread).atomoOld) (fun s b k => s.failAtomo_thr_keeps Thread.atomoOld (fun _ _ => rfl) b k _) (fun _ _ => rfl),
      performedInTurn_keeps (fun u => (u.thr a.thread).atomoOld) (fun _ _ => rfl) (fun _ _ _ _ _ => rfl)]
    exact hold

theorem performAtomos_spad (cs : List Atomo) : ∀ s : State, (∀ x ∈ cs, x.spad = false) → (cs.foldl State.performAtomo s).spad = s.spad := by
  induction cs with
  | nil => exact fun _ _ => rfl
  | cons c cs ih =>
    intro s hspad
    rw [List.foldl_cons, ih _ fun x hx => hspad x (List.mem_cons_of_mem c hx), State.performAtomo_spad (hspad c List.mem_cons_self)]

/-- An atomo of memory in its turn, with the held ones that then come up (R294). -/
theorem arrive_in_turn_chain (h : s.hasEntry a) (hq : a.q = (s.entryFor a).next) {cs : List Atomo} (hmem : ∀ x ∈ cs, x ∈ (s.entryFor a).held)
    (hqs : cs.map (fun x => x.q) = (List.range cs.length).map (fun j => a.q + 1 + j)) (hnodup : ((s.entryFor a).held.map fun x => x.q).Nodup)
    (hstop : ∀ x ∈ (s.entryFor a).held, x.q ≠ a.q + 1 + cs.length) (hspad : ∀ x ∈ a :: cs, x.spad = false) :
    (s.arriveAtomo a).atomLines = s.atomLines.set a.line (if ∃ x ∈ a :: cs, x.last = true then default
      else { live := true, next := a.q + 1 + cs.length, held := (s.entryFor a).held.filter fun x => x ∉ cs }) ∧
    (s.arriveAtomo a).mem = (cs.foldl State.performAtomo (s.performAtomo (s.atUnit a))).mem ∧ (s.arriveAtomo a).spad = s.spad := by
  have hfirst : s.performedInTurn a = (s.performAtomo (s.atUnit a)).withLines (s.atomLines.set a.line { s.entryFor a with next := a.q + 1 }) :=
    State.performAtomo_withLines_mem (a := s.atUnit a) (hspad a List.mem_cons_self) s _
  have hdrain := drainLine_chain a.line s.atomLines cs ((s.entryFor a).held.length + 1) (s.performAtomo (s.atUnit a)) { s.entryFor a with next := a.q + 1 } a.last
    (s.entryFor_live a) (Nat.lt_succ_self _) hmem hqs hnodup hstop fun x hx => hspad x (List.mem_cons_of_mem a hx)
  rw [← hfirst] at hdrain
  obtain ⟨hlines, hkeep⟩ := arrive_in_turn_drained h hq (by exact s.entryFor_live a) hdrain rfl
  refine ⟨hlines.trans (congrArg (s.atomLines.set a.line) ?_), ?_, ?_⟩
  · have hlast : ((a.last || cs.any fun x => x.last) = true) ↔ ∃ x ∈ a :: cs, x.last = true := by simp
    have hentry : ({ s.entryFor a with next := a.q + 1 } : AtomLine).after cs =
        { live := true, next := a.q + 1 + cs.length, held := (s.entryFor a).held.filter fun x => x ∉ cs } := by
      simp only [AtomLine.after, s.entryFor_live a]
    simp only [hlast, hentry]
  · rw [hkeep State.mem State.failAtomo_mem State.withLines_mem, State.withLines_mem]
  · rw [hkeep State.spad State.failAtomo_spad State.withLines_spad, State.withLines_spad,
      performAtomos_spad cs _ fun x hx => hspad x (List.mem_cons_of_mem a hx), State.performAtomo_spad (a := s.atUnit a) (hspad a List.mem_cons_self)]

end

end Sys2Proof.Machine
end

section
/-! SUPPORT. Ordering units perform in number order (O16). -/

namespace Sys2Proof.Machine

/-- A line whose numbers have stood still: its entry is freed and its held atomos end (R294). -/
theorem atomoLineStall_frees {s : State} {line : Nat} (h : (s.atomLines.get line).held ≠ []) : ∃ n, exec (.atomoLineStall line) s = .next n ∧
    n.atomLines = s.atomLines.set line default ∧ n.mem = s.mem ∧ n.spad = s.spad ∧
    ∀ b ∈ (s.atomLines.get line).held, (s.thr b.thread).st = .running → ∃ i, (n.thr b.thread).atomoFail = some i ∧ i.code = .shape ∧ i.estat = 7 := by
  have hexec : exec (.atomoLineStall line) s =
      .next ((s.atomLines.get line).held.foldl (fun s a => s.failAtomo a 7) (s.withLines (s.atomLines.set line default))) := by
    rw [exec_atomoLineStall]
    exact if_neg (by simpa using h)
  refine ⟨_, hexec, failAtomos_keep State.atomLines 7 (fun s a => s.failAtomo_atomLines a 7) _ _, failAtomos_keep State.mem 7 (fun s a => s.failAtomo_mem a 7) _ _,
    failAtomos_keep State.spad 7 (fun s a => s.failAtomo_spad a 7) _ _, fun b hb hrun => ?_⟩
  obtain ⟨x, hx⟩ := failAtomos_fail 7 _ (s.withLines (s.atomLines.set line default)) b.thread hrun (.inl ⟨b, hb, rfl⟩)
  exact ⟨x.ends 7, hx, rfl, rfl⟩

/-- A halted ADR word raises its trap once its rows are away (R244). -/
theorem adrFaultTrap_raises {s : State} {t : Nat} {i : TrapInfo} (htrap : (s.thr t).adrTrap = some i) (hquiet : (s.thr t).adrQuiet = true)
    (hpend : (s.thr t).pend = none) : exec (.adrFaultTrap t) s = .next ((s.modThr t fun th => { th with adrTrap := none }).raise t .adr i) := by
  rw [exec_adrFaultTrap, execAdrFaultTrap, htrap]
  exact if_pos ⟨hquiet, by rw [hpend]; rfl⟩

/-- The state with other atomos on their way, refused, and issued accesses. -/
def State.travelling (s : State) (atomo refused : List Atomo) (spend : List SPend) : State := { s with atomo := atomo, refused := refused, spend := spend }

/-- Settles O16: each way of arriving comes to the unit's handling of the atomo, from a state that differs from the present one in the lists it travels in alone. -/
theorem orderingUnitsPerformInNumberOrder : Obligations.OrderingUnitsPerformInNumberOrder := by
  unfold Obligations.OrderingUnitsPerformInNumberOrder
  intro s t n a q u b e E room line own shared arrives
  have handles : ∀ (i : Instr) (atomo refused : List Atomo) (spend : List SPend),
      exec i s = .next ((s.travelling atomo refused spend).arriveAtomo a) → arrives i (s.travelling atomo refused spend) := by
    intro i atomo refused spend hexec
    refine ⟨?without, ?alone, ?chain, ?outside, ?window⟩
    case without =>
      intro hroom
      exact hexec.trans (congrArg Host.Outcome.next (arrive_without_entry (s := s.travelling atomo refused spend) hroom))
    case alone =>
      intro hroom hq hnext
      exact ⟨_, hexec, arrive_in_turn_alone (s := s.travelling atomo refused spend) hroom hq hnext⟩
    case chain =>
      intro cs hroom hq hmem hqs hnodup hstop hspad
      exact ⟨_, hexec, arrive_in_turn_chain (s := s.travelling atomo refused spend) hroom hq hmem hqs hnodup hstop hspad⟩
    case outside =>
      intro hroom hq
      have hends := arrive_outside_window (s := s.travelling atomo refused spend) hroom hq
      refine ⟨_, hexec.trans (congrArg Host.Outcome.next hends), State.failAtomo_atomLines .., State.failAtomo_mem .., State.failAtomo_spad .., fun hrun => ?_⟩
      exact ⟨_, State.failAtomo_fails (s := (s.travelling atomo refused spend).putEntry a ((s.travelling atomo refused spend).entryFor a))
        (a := (s.travelling atomo refused spend).atUnit a) hrun 6, rfl, rfl⟩
    case window =>
      intro hroom hlo hhi
      obtain ⟨hown, hshared, hfull⟩ := arrive_in_window (s := s.travelling atomo refused spend) hroom hlo hhi
      exact ⟨fun h => hexec.trans (congrArg Host.Outcome.next (hown h)), fun h k => hexec.trans (congrArg Host.Outcome.next (hshared h k)),
        fun h k => hexec.trans (congrArg Host.Outcome.next (hfull h k))⟩
  clear_value arrives
  refine ⟨fun hfind hway => ?onItsWay, fun hfind hway => handles _ _ _ _ ?arrival, fun hfind => handles _ _ _ _ ?retry,
    fun hq hact hdue hfrozen => handles _ _ _ _ ?inItsClock, fun line => atomoLineStall_frees, fun i => adrFaultTrap_raises⟩
  case onItsWay =>
    rw [exec_atomoArrival, execAtomoArrival, hfind]
    exact congrArg Host.Outcome.next (if_pos hway)
  case arrival =>
    rw [exec_atomoArrival, execAtomoArrival, hfind]
    exact congrArg Host.Outcome.next (if_neg (by rw [hway]; decide))
  case retry =>
    rw [exec_atomoRetry, execAtomoRetry, hfind]
    rfl
  case inItsClock =>
    rw [scratchpadWritePerform_due hq hdue hfrozen, State.performPend, hact]
    rfl

end Sys2Proof.Machine
end

section
/-! SUPPORT. The bytes of a cache line and the parts of a range: what a put byte, a dirty mask and a write-back change, and which addresses the parts cover. -/

namespace Sys2Proof.Machine

/-! ## Bytes of a line -/

/-- Byte `i` of a line. -/
def lineByte (data : BitVec 1024) (i : Nat) : Byte := bits data (8 * i) 8

theorem lineByte_putByte (data : BitVec 1024) (i : Nat) (b : Byte) {k : Nat} (hk : k < 128) :
    lineByte (putByte data i b) k = if k = i then b else lineByte data k := by
  refine BitVec.eq_of_getLsbD_eq fun j hj => ?_
  have hmask : (255 * 2 ^ (8 * i)).testBit (8 * k + j) = decide (k = i) := by
    rw [show 255 = 2 ^ 8 - 1 from rfl, Nat.testBit_mul_two_pow, Nat.testBit_two_pow_sub_one]
    by_cases h : k = i
    · simp [h, hj]
    · simp only [h, decide_false, Bool.and_eq_false_iff, decide_eq_false_iff_not]
      omega
  have hbyte : (b.toNat * 2 ^ (8 * i)).testBit (8 * k + j) = (decide (k = i) && b.getLsbD j) := by
    rw [Nat.testBit_mul_two_pow, BitVec.testBit_toNat]
    by_cases h : k = i
    · simp [h]
    · simp only [h, decide_false, Bool.false_and, Bool.and_eq_false_iff, decide_eq_false_iff_not]
      by_cases hlt : k < i
      · exact .inl (by omega)
      · exact .inr (BitVec.getLsbD_of_ge b _ (by omega))
  have hin : 8 * k + j < 1024 := by omega
  simp only [lineByte, putByte, bits, BitVec.getLsbD_extractLsb', hj, decide_true, Bool.true_and, BitVec.getLsbD_or, BitVec.getLsbD_and, BitVec.getLsbD_not,
    BitVec.getLsbD_ofNat, hin, hmask, hbyte]
  by_cases h : k = i
  · simp [h]
  · simp [h, hj]

theorem lineByte_putBytes (bs : List Byte) : ∀ (data : BitVec 1024) (i : Nat) {k : Nat}, k < 128 →
    lineByte (putBytes data i bs) k = if i ≤ k ∧ k < i + bs.length then bs.getD (k - i) 0 else lineByte data k := by
  induction bs with
  | nil =>
    intro data i k _
    rw [if_neg (by simp only [List.length_nil]; omega)]
    rfl
  | cons b bs ih =>
    intro data i k hk
    rw [putBytes, ih _ _ hk, lineByte_putByte _ _ _ hk, List.length_cons]
    by_cases heq : k = i
    · subst heq
      simp
    · by_cases hin : i + 1 ≤ k ∧ k < i + 1 + bs.length
      · rw [if_pos hin, if_pos (by omega), show k - i = (k - (i + 1)) + 1 by omega, List.getD_cons_succ]
      · rw [if_neg hin, if_neg heq, if_neg (by omega)]

/-- The mask of a run of bytes. -/
theorem getLsbD_maskRange (i n : Nat) {k : Nat} (hk : k < 128) : (maskRange i n).getLsbD k = decide (i ≤ k ∧ k < i + n) := by
  rw [maskRange, BitVec.getLsbD_ofNat, Nat.testBit_mul_two_pow, Nat.testBit_two_pow_sub_one]
  simp only [hk, decide_true, Bool.true_and, ← Bool.decide_and, decide_eq_decide]
  omega

/-! ## Home memory after a write-back -/

/-- One byte of a line written home where it is selected. -/
def State.byteHome (s : State) (out : BitVec 128) (data : BitVec 1024) (line i : Nat) : State :=
  if flag out i then { s with mem := s.mem.set (line * 128 + i) (lineByte data i) } else s

theorem byteHome_get (s : State) (out : BitVec 128) (data : BitVec 1024) (line i k : Nat) :
    (s.byteHome out data line i).mem.get k = if k = line * 128 + i ∧ flag out i = true then lineByte data i else s.mem.get k := by
  unfold State.byteHome
  by_cases hout : flag out i = true
  · rw [if_pos hout]
    show (s.mem.set _ _).get k = _
    rw [Tab.get_set]
    simp only [hout, and_true]
  · rw [if_neg hout, if_neg fun h => hout h.2]

/-- A byte of home memory after the selected bytes of a line have been written home, one by one. -/
theorem foldl_byteHome_get (out : BitVec 128) (data : BitVec 1024) (line i : Nat) (l : List Nat) : ∀ s : State,
    (l.foldl (fun s i => s.byteHome out data line i) s).mem.get (line * 128 + i) =
      if i ∈ l ∧ flag out i = true then lineByte data i else s.mem.get (line * 128 + i) := by
  induction l with
  | nil => exact fun s => by simp
  | cons j l ih =>
    intro s
    rw [List.foldl_cons, ih, byteHome_get]
    by_cases hji : i = j
    · subst hji
      by_cases hout : flag out i = true <;> simp [hout]
    · simp [hji]

theorem foldl_byteHome_other (out : BitVec 128) (data : BitVec 1024) (line k : Nat) (l : List Nat) (hk : ∀ i ∈ l, k ≠ line * 128 + i) : ∀ s : State,
    (l.foldl (fun s i => s.byteHome out data line i) s).mem.get k = s.mem.get k := by
  induction l with
  | nil => exact fun s => rfl
  | cons j l ih =>
    intro s
    rw [List.foldl_cons, ih (fun i hi => hk i (List.mem_cons_of_mem j hi)), byteHome_get, if_neg fun h => hk j List.mem_cons_self h.1]

/-- A byte of home memory after a write-back: that of the line where it was dirty and selected and the line's home is reached. -/
theorem writeBack_mem_get (s : State) (d line : Nat) (sel : BitVec 128) (k : Nat) :
    (s.writeBack d line sel).mem.get k =
      if line = k / 128 ∧ flag ((s.rdc.get (rdcKey d line)).dirty &&& sel) (k % 128) = true ∧ s.paDown (line * 128) = false then
        lineByte (s.rdc.get (rdcKey d line)).data (k % 128)
      else s.mem.get k := by
  unfold State.writeBack
  extract_lets l out
  by_cases hout : out = 0
  · rw [if_pos hout, if_neg]
    rintro ⟨-, hflag, -⟩
    have hzero : flag out (k % 128) = true := hflag
    rw [hout] at hzero
    exact absurd hzero (by simp [flag])
  rw [if_neg hout]
  by_cases hdown : s.paDown (line * 128) = true
  · rw [if_pos hdown, if_neg (by simp [hdown])]
  rw [if_neg hdown]
  show ((List.range 128).foldl (fun s i => s.byteHome out l.data line i) s).mem.get k = _
  by_cases hline : line = k / 128
  · have hk : k = line * 128 + k % 128 := by omega
    have hmem : k % 128 ∈ List.range 128 := List.mem_range.2 (Nat.mod_lt _ (by decide))
    have hget := foldl_byteHome_get out l.data line (k % 128) (List.range 128) s
    rw [← hk] at hget
    rw [hget]
    exact if_congr ⟨fun h => ⟨hline, h.2, Bool.not_eq_true _ ▸ hdown⟩, fun h => ⟨hmem, h.2.1⟩⟩ rfl rfl
  · rw [if_neg fun h => hline h.1]
    exact foldl_byteHome_other _ _ _ _ _ (fun i hi => by have := List.mem_range.1 hi; omega) s

/-! ## Ranges of a table -/

theorem Tab.getElem?_getRange {α : Type} [Inhabited α] (t : Tab α) (n : Nat) : ∀ (k : Nat) {i : Nat}, i < n → (t.getRange k n)[i]? = some (t.get (k + i)) := by
  induction n with
  | zero => exact fun _ _ h => absurd h (Nat.not_lt_zero _)
  | succ n ih =>
    intro k i hi
    match i with
    | 0 => rfl
    | i + 1 =>
      rw [show k + (i + 1) = k + 1 + i by omega, ← ih (k + 1) (Nat.lt_of_succ_lt_succ hi)]
      rfl

/-! ## The parts of a range -/

/-- A part lies in its range and between two multiples of the size. -/
theorem mem_chunks {size : Nat} (hsize : 0 < size) : ∀ (fuel a n : Nat) {p : Nat × Nat}, p ∈ chunks size fuel a n →
    a ≤ p.1 ∧ p.1 + p.2 ≤ a + n ∧ p.1 % size + p.2 ≤ size ∧ 0 < p.2 := by
  intro fuel
  induction fuel with
  | zero => exact fun _ _ _ h => absurd h List.not_mem_nil
  | succ fuel ih =>
    intro a n p h
    rw [chunks] at h
    have hmod := Nat.mod_lt a hsize
    have hmin : Nat.min n (size - a % size) = min n (size - a % size) := rfl
    split at h
    · exact absurd h List.not_mem_nil
    · obtain rfl | h := List.mem_cons.1 h
      · dsimp only
        omega
      · have := ih _ _ h
        omega

/-- The parts of a range, fuel sufficing, hold its addresses in their order. -/
theorem chunks_addresses {size : Nat} (hsize : 0 < size) : ∀ (fuel a n : Nat), (n ≤ (fuel - 1) * size ∨ a % size = 0 ∧ n ≤ fuel * size) →
    (chunks size fuel a n).flatMap (fun p => (List.range p.2).map (p.1 + ·)) = (List.range n).map (a + ·) := by
  intro fuel
  induction fuel with
  | zero =>
    intro a n h
    obtain rfl : n = 0 := by omega
    rfl
  | succ fuel ih =>
    intro a n h
    rw [chunks]
    split
    next hn => rw [hn]; rfl
    next hn =>
      have hmod := Nat.mod_lt a hsize
      have hmin : Nat.min n (size - a % size) = min n (size - a % size) := rfl
      rw [hmin]
      have hsplit : n = min n (size - a % size) + (n - min n (size - a % size)) := by omega
      rw [List.flatMap_cons, ih]
      · conv => rhs; rw [hsplit, List.range_add, List.map_append, List.map_map]
        congr 1
        refine List.map_congr_left fun i _ => ?_
        simp only [Function.comp]
        omega
      · obtain hle | hlt := Nat.le_total n (size - a % size)
        · rw [min_eq_left hle]
          exact .inl (by omega)
        · rw [min_eq_right hlt]
          have haligned : (a + (size - a % size)) % size = 0 := by
            have hdiv := Nat.div_add_mod a size
            rw [show a + (size - a % size) = size * (a / size + 1) by rw [Nat.mul_add]; omega]
            exact Nat.mul_mod_right ..
          refine .inr ⟨haligned, ?_⟩
          obtain h | ⟨hal, h⟩ := h
          · exact (Nat.sub_le ..).trans h
          · rw [Nat.succ_mul] at h
            omega

theorem parts_addresses {size : Nat} (hsize : 0 < size) (a n : Nat) :
    (parts size a n).flatMap (fun p => (List.range p.2).map (p.1 + ·)) = (List.range n).map (a + ·) := by
  refine chunks_addresses hsize _ a n (.inl ?_)
  have := Nat.lt_div_mul_add (a := n) hsize
  rw [show n / size + 2 - 1 = n / size + 1 from rfl, Nat.succ_mul]
  omega

/-- Every address of a range lies in one of its parts. -/
theorem exists_part {size : Nat} (hsize : 0 < size) {a n j : Nat} (hlo : a ≤ j) (hhi : j < a + n) : ∃ p ∈ parts size a n, p.1 ≤ j ∧ j < p.1 + p.2 := by
  have hj : j ∈ (List.range n).map (a + ·) := List.mem_map.2 ⟨j - a, List.mem_range.2 (by omega), by omega⟩
  rw [← parts_addresses hsize] at hj
  obtain ⟨p, hp, hj⟩ := List.mem_flatMap.1 hj
  obtain ⟨i, hi, rfl⟩ := List.mem_map.1 hj
  exact ⟨p, hp, by omega, by have := List.mem_range.1 hi; omega⟩

/-- The bytes of a range, part by part. -/
theorem parts_bytes {size : Nat} (hsize : 0 < size) (a n : Nat) (f : Nat → Byte) :
    (parts size a n).flatMap (fun p => (List.range p.2).map fun i => f (p.1 + i)) = (List.range n).map fun i => f (a + i) := by
  have h := congrArg (List.map f) (parts_addresses hsize a n)
  simp only [List.map_flatMap, List.map_map] at h
  exact h

end Sys2Proof.Machine
end

section
/-! SUPPORT. What a die's remote-data cache shows of a byte, through write-backs, evictions, fills and writes (R258, R277). -/

namespace Sys2Proof.Machine

/-! ## Lines after a write-back -/

/-- The cache line of a die that holds an address. -/
def State.lineOf (s : State) (d j : Nat) : RdcLine := s.rdc.get (rdcKey d (j / 128))

/-- A byte of a cache line is dirty. -/
def RdcLine.dirtyAt (l : RdcLine) (j : Nat) : Bool := flag l.dirty (j % 128)

theorem rdcKey_inj {d l m : Nat} : rdcKey d l = rdcKey d m ↔ l = m := by unfold rdcKey; omega

theorem rdcKey_inj_of_lt {d e l m : Nat} (hl : l < 2 ^ 43) (hm : m < 2 ^ 43) : rdcKey d l = rdcKey e m ↔ d = e ∧ l = m := by unfold rdcKey; omega

/-- What a write-back leaves of every line: its bytes and whether its clean ones are filled. -/
theorem writeBack_get (s : State) (d line : Nat) (sel : BitVec 128) (k : Nat) :
    ((s.writeBack d line sel).rdc.get k).data = (s.rdc.get k).data ∧ ((s.writeBack d line sel).rdc.get k).filled = (s.rdc.get k).filled ∧
    ((s.writeBack d line sel).rdc.get k).dirty = if k = rdcKey d line then (s.rdc.get k).dirty &&& ~~~sel else (s.rdc.get k).dirty := by
  rw [writeBack_rdc]
  by_cases hnone : (s.rdc.get (rdcKey d line)).dirty &&& sel = 0
  · rw [if_pos hnone]
    refine ⟨rfl, rfl, ?_⟩
    split
    next hk =>
      subst hk
      refine BitVec.eq_of_getLsbD_eq fun i hi => ?_
      have hbit := congrArg (BitVec.getLsbD · i) hnone
      simp only [BitVec.getLsbD_and] at hbit
      rw [BitVec.getLsbD_and, BitVec.getLsbD_not]
      cases hx : (s.rdc.get (rdcKey d line)).dirty.getLsbD i
      · rfl
      · rw [hx, Bool.true_and] at hbit
        rw [hbit]
        simp [hi]
    next => rfl
  · rw [if_neg hnone, Tab.get_set]
    by_cases hk : k = rdcKey d line
    · subst hk
      simp [RdcLine.cleaned]
    · simp [hk]

/-- A write-back makes no byte dirty. -/
theorem writeBack_dirtyAt (s : State) (d line : Nat) (sel : BitVec 128) (e j : Nat) : ((s.writeBack d line sel).lineOf e j).dirtyAt j =
    ((s.lineOf e j).dirtyAt j && !(decide (rdcKey e (j / 128) = rdcKey d line) && flag sel (j % 128))) := by
  obtain ⟨-, -, hdirty⟩ := writeBack_get s d line sel (rdcKey e (j / 128))
  unfold RdcLine.dirtyAt State.lineOf
  rw [hdirty]
  by_cases hk : rdcKey e (j / 128) = rdcKey d line
  · have hj := Nat.mod_lt j (show 0 < 128 by decide)
    simp [hk, flag, hj]
  · simp [hk]

/-! ## What the cache shows of a byte -/

/-- The copy of die `d` shows `b` at address `j`: its line does where it holds the byte, and home memory does where the byte is not dirty there. -/
def State.Shows (s : State) (d j : Nat) (b : Byte) : Prop :=
  ((s.lineOf d j).dirtyAt j = true ∨ (s.lineOf d j).filled = true → lineByte (s.lineOf d j).data (j % 128) = b) ∧
  ((s.lineOf d j).dirtyAt j = false → s.mem.get j = b)

/-- The home of the line of an address is reached. -/
def State.LineUp (s : State) (j : Nat) : Prop := s.paDown (j / 128 * 128) = false

/-- Whether a home is reached is a matter of the whole line. -/
theorem paDown_line (s : State) (j : Nat) : s.paDown (j / 128 * 128) = s.paDown j := by
  have hhome : homeOf (j / 128 * 128) = homeOf j := by unfold homeOf; omega
  have hhbm : isHbm (j / 128 * 128) = isHbm j := by
    unfold isHbm localOf
    rw [decide_eq_decide]
    omega
  rw [State.paDown, State.paDown, hhome, hhbm]

theorem MemStep.lineUp {s t : State} (h : MemStep s t) {j : Nat} (hup : s.LineUp j) : t.LineUp j := by
  unfold State.LineUp at *
  rwa [State.paDown_congr (by rw [h.1])]

section
variable {s : State} {d j : Nat} {b : Byte}

theorem Shows.writeBack (hup : s.LineUp j) (h : s.Shows d j b) (line : Nat) (sel : BitVec 128) : (s.writeBack d line sel).Shows d j b := by
  obtain ⟨hline, hmem⟩ := h
  obtain ⟨hdata, hfilled, -⟩ := writeBack_get s d line sel (rdcKey d (j / 128))
  have hdirty := writeBack_dirtyAt s d line sel d j
  unfold State.Shows
  rw [hdirty, writeBack_mem_get]
  unfold State.lineOf at *
  rw [hdata, hfilled]
  refine ⟨fun h => hline (h.imp_left fun h => (Bool.and_eq_true _ _ ▸ h).1), fun h => ?_⟩
  by_cases hd : (s.rdc.get (rdcKey d (j / 128))).dirtyAt j = true
  · rw [hd, Bool.true_and, Bool.not_eq_false', Bool.and_eq_true, decide_eq_true_eq, rdcKey_inj] at h
    obtain ⟨rfl, hsel⟩ := h
    have hd' : (s.rdc.get (rdcKey d (j / 128))).dirty.getLsbD (j % 128) = true := hd
    have hout : flag ((s.rdc.get (rdcKey d (j / 128))).dirty &&& sel) (j % 128) = true := by
      rw [flag, BitVec.getLsbD_and, hd', Bool.true_and]
      exact hsel
    rw [if_pos ⟨rfl, hout, hup⟩, hline (.inl hd)]
  · rw [if_neg, hmem (by simpa using hd)]
    rintro ⟨rfl, hflag, -⟩
    simp only [flag, BitVec.getLsbD_and, Bool.and_eq_true] at hflag
    exact hd hflag.1

theorem Shows.dropLine (hup : s.LineUp j) (h : s.Shows d j b) (line : Nat) : (s.dropLine d line).Shows d j b := by
  have hback := Shows.writeBack hup h line (BitVec.allOnes 128)
  have hget : (s.dropLine d line).lineOf d j = if j / 128 = line then default else (s.writeBack d line (BitVec.allOnes 128)).lineOf d j := by
    show ((s.writeBack d line _).rdc.set (rdcKey d line) default).get _ = _
    rw [Tab.get_set]
    simp only [rdcKey_inj]
    rfl
  have hmem : (s.dropLine d line).mem = (s.writeBack d line (BitVec.allOnes 128)).mem := rfl
  unfold State.Shows
  rw [hget, hmem]
  by_cases hl : j / 128 = line
  · subst hl
    rw [if_pos rfl]
    refine ⟨?_, fun _ => hback.2 ?_⟩
    · rintro (h | h)
      · exact absurd h (by simp [RdcLine.dirtyAt, flag, show (default : RdcLine).dirty = 0 from rfl])
      · exact absurd h (by decide)
    · rw [writeBack_dirtyAt]
      have hj := Nat.mod_lt j (show 0 < 128 by decide)
      have hall : flag (BitVec.allOnes 128) (j % 128) = true := by rw [flag, BitVec.getLsbD_allOnes]; exact decide_eq_true hj
      simp only [hall, decide_true, Bool.and_true, Bool.not_true, Bool.and_false]
  · rw [if_neg hl]
    exact hback

theorem Shows.rdcRoom (hup : s.LineUp j) (h : s.Shows d j b) (line : Nat) : (s.rdcRoom d line).Shows d j b := by
  unfold State.rdcRoom
  split
  · exact h
  · split
    · exact Shows.dropLine hup h _
    · exact h

/-- A write into the copy shows its own bytes, and elsewhere what stood before. -/
theorem Shows.rdcWrite {cid by_ pa : Nat} {bs : List Byte} (hup : s.LineUp j) (hwithin : pa % 128 + bs.length ≤ 128)
    (hin : pa ≤ j → j < pa + bs.length → bs.getD (j - pa) 0 = b) (hout : ¬ (pa ≤ j ∧ j < pa + bs.length) → s.Shows d j b) :
    (s.rdcWrite d cid by_ pa bs).Shows d j b := by
  have hj := Nat.mod_lt j (show 0 < 128 by decide)
  have hmem : (s.rdcWrite d cid by_ pa bs).mem = (s.rdcRoom d (pa / 128)).mem := rfl
  by_cases hl : j / 128 = pa / 128
  · have hget : (s.rdcWrite d cid by_ pa bs).lineOf d j = ((s.rdcWrite d cid by_ pa bs).rdc.get (rdcKey d (pa / 128))) := by rw [State.lineOf, hl]
    have hrange : (pa % 128 ≤ j % 128 ∧ j % 128 < pa % 128 + bs.length) ↔ (pa ≤ j ∧ j < pa + bs.length) := by omega
    have hroom : (s.rdcRoom d (pa / 128)).lineOf d j = (s.rdcRoom d (pa / 128)).rdc.get (rdcKey d (pa / 128)) := by rw [State.lineOf, hl]
    have hdata : lineByte ((s.rdcWrite d cid by_ pa bs).lineOf d j).data (j % 128) =
        if pa ≤ j ∧ j < pa + bs.length then bs.getD (j - pa) 0 else lineByte ((s.rdcRoom d (pa / 128)).lineOf d j).data (j % 128) := by
      rw [hget, hroom, State.rdcWrite]
      dsimp only
      rw [Tab.get_set_same]
      dsimp only
      rw [lineByte_putBytes _ _ _ hj]
      simp only [hrange]
      refine if_congr Iff.rfl ?_ rfl
      congr 1
      omega
    have hdirty : ((s.rdcWrite d cid by_ pa bs).lineOf d j).dirtyAt j =
        (((s.rdcRoom d (pa / 128)).lineOf d j).dirtyAt j || decide (pa ≤ j ∧ j < pa + bs.length)) := by
      rw [hget, hroom, State.rdcWrite]
      dsimp only
      rw [Tab.get_set_same]
      simp only [RdcLine.dirtyAt, flag, BitVec.getLsbD_or, getLsbD_maskRange _ _ hj, hrange]
    have hfilled : ((s.rdcWrite d cid by_ pa bs).lineOf d j).filled = ((s.rdcRoom d (pa / 128)).lineOf d j).filled := by
      rw [hget, hroom, State.rdcWrite]
      dsimp only
      rw [Tab.get_set_same]
    unfold State.Shows
    rw [hdata, hdirty, hfilled, hmem]
    by_cases hr : pa ≤ j ∧ j < pa + bs.length
    · rw [if_pos hr, hin hr.1 hr.2]
      simp [hr]
    · have hroomed := Shows.rdcRoom hup (hout hr) (pa / 128)
      rw [if_neg hr]
      simp only [hr, decide_false, Bool.or_false]
      exact hroomed
  · have hget : (s.rdcWrite d cid by_ pa bs).lineOf d j = (s.rdcRoom d (pa / 128)).lineOf d j := by
      show ((s.rdcRoom d (pa / 128)).rdc.set (rdcKey d (pa / 128)) _).get _ = _
      rw [Tab.get_set, if_neg (by rwa [rdcKey_inj])]
      rfl
    unfold State.Shows
    rw [hget, hmem]
    exact Shows.rdcRoom hup (hout (by omega)) (pa / 128)

/-! ## Fills and reads -/

/-- One byte of a fill: a clean byte of the line comes from home. -/
def fillByte (dirty : BitVec 128) (w : BitVec 1024 × List Byte) (i : Nat) : BitVec 1024 × List Byte :=
  match w.2 with
  | [] => w
  | b :: bs => (if flag dirty i then w.1 else putByte w.1 i b, bs)

theorem lineByte_foldl_fillByte (dirty : BitVec 128) {i : Nat} (hi : i < 128) : ∀ (n k : Nat) (w : BitVec 1024) (bs : List Byte), bs.length = n →
    lineByte ((List.range' k n).foldl (fillByte dirty) (w, bs)).1 i =
      if k ≤ i ∧ i < k + n ∧ flag dirty i = false then bs.getD (i - k) 0 else lineByte w i := by
  intro n
  induction n with
  | zero =>
    intro k w bs _
    rw [if_neg (by omega)]
    rfl
  | succ n ih =>
    intro k w bs hlen
    match bs, hlen with
    | c :: bs, hlen =>
      rw [List.range'_succ, List.foldl_cons, fillByte, ih _ _ _ (by simpa using hlen)]
      have hfirst : lineByte (if flag dirty k then w else putByte w k c) i = if i = k ∧ flag dirty i = false then c else lineByte w i := by
        by_cases hd : flag dirty k = true
        · rw [if_pos hd, if_neg]
          rintro ⟨rfl, h⟩
          rw [hd] at h
          exact absurd h (by decide)
        · rw [if_neg hd, lineByte_putByte _ _ _ hi]
          refine if_congr ⟨fun h => ⟨h, ?_⟩, fun h => h.1⟩ rfl rfl
          rw [h]
          simpa using hd
      rw [hfirst]
      by_cases hd : flag dirty i = false
      · by_cases hk : i = k
        · subst hk
          simp [hd]
        · by_cases hin : k + 1 ≤ i ∧ i < k + 1 + n
          · rw [if_pos ⟨hin.1, hin.2, hd⟩, if_pos ⟨by omega, by omega, hd⟩, show i - k = i - (k + 1) + 1 by omega, List.getD_cons_succ]
          · rw [if_neg fun h => hin ⟨h.1, h.2.1⟩, if_neg fun h => hk h.1, if_neg fun h => hin ⟨by omega, by omega⟩]
      · simp [hd]

theorem getD_homeRead (s : State) {n : Nat} (pa : Nat) {i : Nat} (hi : i < n) : (s.homeRead pa n).getD i 0 = s.mem.get (pa + i) := by
  rw [State.homeRead, List.getD_eq_getElem?_getD, Tab.getElem?_getRange s.mem n pa hi]
  rfl

/-- After a fill the copy shows what it showed. -/
theorem Shows.fillLine (hup : s.LineUp j) (h : s.Shows d j b) (line : Nat) : (s.fillLine d line).Shows d j b := by
  have hj := Nat.mod_lt j (show 0 < 128 by decide)
  unfold State.fillLine
  split
  · exact h
  have hroom := Shows.rdcRoom hup h line
  generalize s.rdcRoom d line = t at hroom
  extract_lets t' l home data bad
  have hdata : ∀ i, i < 128 → lineByte data.1 i = if flag l.dirty i = false then t.mem.get (line * 128 + i) else lineByte l.data i := by
    have filled : ∀ (f : BitVec 1024 × List Byte → Nat → BitVec 1024 × List Byte) (_ : f = fillByte l.dirty) (i : Nat), i < 128 →
        lineByte ((List.range 128).foldl f (l.data, home)).1 i = if flag l.dirty i = false then t.mem.get (line * 128 + i) else lineByte l.data i := by
      rintro f rfl i hi
      rw [List.range_eq_range', lineByte_foldl_fillByte l.dirty hi 128 0 l.data home (Tab.getRange_length ..)]
      simp only [Nat.zero_le, Nat.zero_add, hi, true_and, Nat.sub_zero]
      exact if_congr Iff.rfl (getD_homeRead t (line * 128) hi) rfl
    exact filled _ rfl
  clear_value data bad
  by_cases hl : j / 128 = line
  · subst hl
    unfold State.Shows State.lineOf
    rw [Tab.get_set_same]
    dsimp only
    have hbyte := hdata _ hj
    rw [Nat.div_add_mod'] at hbyte
    rw [hbyte]
    refine ⟨fun _ => ?_, hroom.2⟩
    split
    next hclean => exact hroom.2 hclean
    next hdirty =>
      have hd : flag l.dirty (j % 128) = true := by simpa using hdirty
      exact hroom.1 (.inl hd)
  · unfold State.Shows State.lineOf
    rw [Tab.get_set_other _ _ _ _ (by rwa [Ne, rdcKey_inj])]
    exact hroom

theorem fillLine_filled (s : State) (d line : Nat) : ((s.fillLine d line).rdc.get (rdcKey d line)).filled = true := by
  unfold State.fillLine
  split
  next h => exact h
  next => dsimp only; rw [Tab.get_set_same]

/-- What a read through the copy answers of a byte that it shows. -/
theorem rdcRead_get {pa n i : Nat} (hup : s.LineUp (pa + i)) (hwithin : pa % 128 + n ≤ 128) (hi : i < n) (h : s.Shows d (pa + i) b) :
    bits ((s.fillLine d (pa / 128)).rdc.get (rdcKey d (pa / 128))).data (8 * (pa % 128 + i)) 8 = b := by
  have hfill := (Shows.fillLine hup h (pa / 128)).1
  rw [State.lineOf, show (pa + i) / 128 = pa / 128 by omega, show (pa + i) % 128 = pa % 128 + i by omega] at hfill
  exact hfill (.inr (fillLine_filled ..))

end

end Sys2Proof.Machine
end

section
/-! SUPPORT. Posted stores before an access (R280, R284), the bytes that an access spares, and a load of what has been stored (O58). -/

namespace Sys2Proof.Machine

/-! ## The stores that come before an access -/

theorem mem_comeBefore {strict : Bool} {t : Nat} {p : Posted} : ∀ {ps : List Posted} {xs : List Reached}, p ∈ comeBefore strict t ps xs → p ∈ ps ∧ p.thread = t := by
  intro ps
  induction ps with
  | nil => exact fun h => absurd h List.not_mem_nil
  | cons q ps ih =>
    intro xs h
    rw [comeBefore] at h
    split at h
    next hq =>
      obtain rfl | h := List.mem_cons.1 h
      · exact ⟨List.mem_cons_self, beq_iff_eq.1 ((Bool.and_eq_true _ _ ▸ hq).1)⟩
      · exact ⟨List.mem_cons_of_mem q (ih h).1, (ih h).2⟩
    next => exact ⟨List.mem_cons_of_mem q (ih h).1, (ih h).2⟩

/-- A store of the thread that comes before one of the places is among those that come before. -/
theorem mem_comeBefore_of_precedes {strict : Bool} {t : Nat} {p : Posted} (ht : p.thread = t) {x : Reached} (hx : p.precedes strict x = true) :
    ∀ {ps : List Posted} {xs : List Reached}, p ∈ ps → x ∈ xs → p ∈ comeBefore strict t ps xs := by
  intro ps
  induction ps with
  | nil => exact fun h => absurd h List.not_mem_nil
  | cons q ps ih =>
    intro xs hp hxs
    rw [comeBefore]
    split
    next hq =>
      obtain rfl | hp := List.mem_cons.1 hp
      · exact List.mem_cons_self
      · exact List.mem_cons_of_mem q (ih hp (List.mem_cons_of_mem _ hxs))
    next hq =>
      obtain rfl | hp := List.mem_cons.1 hp
      · exact absurd (Bool.and_eq_true _ _ ▸ ⟨by simpa using ht, List.any_eq_true.2 ⟨x, hxs, hx⟩⟩) hq
      · exact ih hp hxs

theorem comeBefore_eq_nil {strict : Bool} {t : Nat} {xs : List Reached} : ∀ {ps : List Posted},
    (∀ p ∈ ps, p.thread = t → ∀ x ∈ xs, p.precedes strict x = false) → comeBefore strict t ps xs = [] := by
  intro ps
  induction ps with
  | nil => exact fun _ => rfl
  | cons q ps ih =>
    intro h
    rw [comeBefore, if_neg, ih fun p hp => h p (List.mem_cons_of_mem q hp)]
    rw [Bool.and_eq_true, List.any_eq_true]
    rintro ⟨ht, x, hx, hpre⟩
    rw [h q List.mem_cons_self (by simpa using ht) x hx] at hpre
    exact absurd hpre (by decide)

/-- A store that comes before an access comes before it whatever the device chooses. -/
theorem precedes_strict {p : Posted} {x : Reached} (h : p.precedes false x = true) : p.precedes true x = true := by
  unfold Posted.precedes at *
  simp only [Bool.and_eq_true] at h ⊢
  exact ⟨h.1, rfl⟩

theorem not_precedes_of_apart {p : Posted} {x : Reached} (h : ¬ (p.pa < x.pa + x.len ∧ x.pa < p.pa + p.bytes.length)) (strict : Bool) :
    p.precedes strict x = false := by
  unfold Posted.precedes
  rw [← Bool.decide_and, decide_eq_false h]
  rfl

/-- The place of an access of a thread. -/
def State.reachOf (s : State) (t : Nat) (a : Acc) : Reached := { pa := a.pa, len := a.len, ord := a.ord, fences := (s.threads.get t).fences }

/-- What an access performs first: some stores of its thread, among them all that come before it. -/
theorem drainOverlap_performs (s : State) (t : Nat) (a : Acc) : ∃ (sel : List Posted) (c : List Bool),
    s.drainOverlap (some t) a = State.drainPosted { s with choice := c } sel.contains ∧ (∀ p ∈ sel, p ∈ s.posted ∧ p.thread = t) ∧
    ∀ p ∈ s.posted, p.thread = t → p.precedes false (s.reachOf t a) = true → p ∈ sel := by
  have own (strict : Bool) : ∀ p ∈ comeBefore strict t s.posted.reverse [s.reachOf t a], p ∈ s.posted ∧ p.thread = t :=
    fun p hp => ⟨List.mem_reverse.1 (mem_comeBefore hp).1, (mem_comeBefore hp).2⟩
  have all (strict : Bool) (h : ∀ p : Posted, p.precedes false (s.reachOf t a) = true → p.precedes strict (s.reachOf t a) = true) :
      ∀ p ∈ s.posted, p.thread = t → p.precedes false (s.reachOf t a) = true → p ∈ comeBefore strict t s.posted.reverse [s.reachOf t a] :=
    fun p hp ht hpre => mem_comeBefore_of_precedes ht (h p hpre) (List.mem_reverse.2 hp) List.mem_cons_self
  unfold State.drainOverlap
  dsimp only
  split
  · exact ⟨_, s.choice, rfl, own true, all true fun _ => precedes_strict⟩
  · split
    next rest _ => exact ⟨_, rest, rfl, own false, all false fun _ h => h⟩
    next => exact ⟨_, _, rfl, own true, all true fun _ => precedes_strict⟩

theorem drainPosted_none (s : State) {sel : Posted → Bool} (h : ∀ p ∈ s.posted, sel p = false) : s.drainPosted sel = s := by
  have hnone : s.posted.filter sel = [] := List.filter_eq_nil_iff.2 fun p hp => by simp [h p hp]
  have hall : (s.posted.filter fun p => !sel p) = s.posted := List.filter_eq_self.2 fun p hp => by simp [h p hp]
  rw [State.drainPosted, hnone, hall]
  rfl

/-- Where no store of its thread meets it, an access performs none. -/
theorem drainOverlap_none {s : State} {t : Option Nat} {a : Acc}
    (h : ∀ p ∈ s.posted, t = some p.thread → ¬ (p.pa < a.pa + a.len ∧ a.pa < p.pa + p.bytes.length)) : s.drainOverlap t a = s := by
  cases t with
  | none => rfl
  | some t =>
    have hnil (strict : Bool) : comeBefore strict t s.posted.reverse [s.reachOf t a] = [] := by
      refine comeBefore_eq_nil fun p hp ht x hx => ?_
      obtain rfl := List.mem_singleton.1 hx
      exact not_precedes_of_apart (h p (List.mem_reverse.1 hp) (by rw [ht])) strict
    refine (if_pos ?_).trans ?_
    · show (comeBefore true t s.posted.reverse [s.reachOf t a]).length = (comeBefore false t s.posted.reverse [s.reachOf t a]).length
      rw [hnil, hnil]
    · show s.drainPosted (comeBefore true t s.posted.reverse [s.reachOf t a]).contains = s
      rw [hnil]
      exact drainPosted_none s fun _ _ => rfl

/-! ## Bytes that are spared -/

/-- Home memory holds `b` at `k`, and none of the dies `D` has that byte dirty in its cache. -/
def State.Spares (D : Nat → Prop) (k : Nat) (b : Byte) (s : State) : Prop := s.mem.get k = b ∧ ∀ d, D d → (s.lineOf d k).dirtyAt k = false

section
variable {D : Nat → Prop} {k : Nat} {b : Byte} {s : State} {d : Nat}

theorem Spares.writeBack (hd : D d) (h : s.Spares D k b) (line : Nat) (sel : BitVec 128) : (s.writeBack d line sel).Spares D k b := by
  obtain ⟨hmem, hclean⟩ := h
  refine ⟨?_, fun e he => by rw [writeBack_dirtyAt, hclean e he, Bool.false_and]⟩
  rw [writeBack_mem_get, if_neg, hmem]
  rintro ⟨rfl, hflag, -⟩
  rw [flag, BitVec.getLsbD_and, Bool.and_eq_true] at hflag
  have hclean := hclean d hd
  rw [RdcLine.dirtyAt, State.lineOf, flag, hflag.1] at hclean
  exact absurd hclean (by decide)

theorem Spares.dropLine (hd : D d) (h : s.Spares D k b) (line : Nat) : (s.dropLine d line).Spares D k b := by
  obtain ⟨hmem, hclean⟩ := Spares.writeBack hd h line (BitVec.allOnes 128)
  refine ⟨hmem, fun e he => ?_⟩
  have hget : (s.dropLine d line).lineOf e k = if rdcKey e (k / 128) = rdcKey d line then default else (s.writeBack d line (BitVec.allOnes 128)).lineOf e k :=
    Tab.get_set ..
  rw [hget]
  split
  · simp [RdcLine.dirtyAt, flag, show (default : RdcLine).dirty = 0 from rfl]
  · exact hclean e he

theorem Spares.rdcRoom (hd : D d) (h : s.Spares D k b) (line : Nat) : (s.rdcRoom d line).Spares D k b := by
  unfold State.rdcRoom
  split
  · exact h
  · split
    · exact Spares.dropLine hd h _
    · exact h

theorem Spares.rdcWrite {cid by_ pa : Nat} {bs : List Byte} (hk : k < 2 ^ 50) (hpa : pa < 2 ^ 50) (hd : D d) (hapart : k < pa ∨ pa + bs.length ≤ k)
    (h : s.Spares D k b) : (s.rdcWrite d cid by_ pa bs).Spares D k b := by
  obtain ⟨hmem, hclean⟩ := Spares.rdcRoom hd h (pa / 128)
  refine ⟨hmem, fun e he => ?_⟩
  have hclean := hclean e he
  by_cases hkey : rdcKey e (k / 128) = rdcKey d (pa / 128)
  · obtain ⟨rfl, hline⟩ := (rdcKey_inj_of_lt (by omega) (by omega)).1 hkey
    have hget : (s.rdcWrite e cid by_ pa bs).lineOf e k = (s.rdcWrite e cid by_ pa bs).rdc.get (rdcKey e (pa / 128)) := by rw [State.lineOf, hline]
    rw [State.lineOf, hline] at hclean
    rw [hget, State.rdcWrite]
    dsimp only
    rw [Tab.get_set_same]
    rw [RdcLine.dirtyAt, flag] at hclean ⊢
    rw [BitVec.getLsbD_or, hclean, getLsbD_maskRange _ _ (Nat.mod_lt _ (by decide))]
    exact decide_eq_false (by omega)
  · have hget : (s.rdcWrite d cid by_ pa bs).lineOf e k = (s.rdcRoom d (pa / 128)).lineOf e k := Tab.get_set_other _ _ _ _ hkey
    rw [hget]
    exact hclean

theorem homeWrite_rdc (s : State) (cid pa : Nat) (bs : List Byte) : (s.homeWrite cid pa bs).rdc = s.rdc := by unfold State.homeWrite; split <;> rfl

theorem Spares.homeWrite {cid pa : Nat} {bs : List Byte} (hapart : k < pa ∨ pa + bs.length ≤ k) (h : s.Spares D k b) : (s.homeWrite cid pa bs).Spares D k b := by
  refine ⟨?_, fun e he => ?_⟩
  · by_cases hdown : s.paDown pa = true
    · rw [State.homeWrite, if_pos hdown]
      exact h.1
    · rw [homeWrite_get _ _ _ _ (by simpa using hdown), if_neg (by omega)]
      exact h.1
  · rw [State.lineOf, homeWrite_rdc]
    exact h.2 e he

/-- Rounds that each keep what they are handed keep it together. -/
theorem foldl_keeps_of_mem {α : Type} {P : State → Prop} {f : State → α → State} {l : List α} (hf : ∀ s x, x ∈ l → P s → P (f s x)) (h : P s) : P (l.foldl f s) := by
  induction l generalizing s with
  | nil => exact h
  | cons x l ih => exact ih (fun s y hy => hf s y (List.mem_cons_of_mem x hy)) (hf s x List.mem_cons_self h)

/-- The bytes that a write puts into one part of its range. -/
theorem length_part_le (bs : List Byte) (a : Nat) (q : Nat × Nat) : ((bs.drop (q.1 - a)).take q.2).length ≤ q.2 := List.length_take_le ..

/-- A write into a die's copy, part by part. -/
theorem Spares.rdcWrites {cid by_ pa n : Nat} {bs : List Byte} (hk : k < 2 ^ 50) (hpa : pa + n ≤ 2 ^ 50) (hd : D d) (hapart : k < pa ∨ pa + n ≤ k)
    (h : s.Spares D k b) :
    State.Spares D k b ((parts 128 pa n).foldl (fun s q => s.rdcWrite d cid by_ q.1 ((bs.drop (q.1 - pa)).take q.2)) s) := by
  refine foldl_keeps_of_mem (fun s q hq hs => ?_) h
  have hin := mem_chunks (by decide) _ _ _ hq
  have hlen := length_part_le bs pa q
  exact Spares.rdcWrite hk (by omega) hd (by omega) hs

theorem Spares.performPosted {p : Posted} (hk : k < 2 ^ 50) (hd : D p.die) (hpa : p.pa + p.bytes.length ≤ 2 ^ 50) (hapart : k < p.pa ∨ p.pa + p.bytes.length ≤ k)
    (h : s.Spares D k b) : (s.performPosted p).Spares D k b := by
  unfold State.performPosted
  split
  · exact Spares.rdcWrites hk hpa hd hapart h
  · exact Spares.homeWrite hapart h

/-- The stores that stand issued spare byte `k`: they lie in physical memory, and those of a thread do not cover it and were issued on dies of `D`. -/
def Sparing (D : Nat → Prop) (k : Nat) (thread : Option Nat) (p : Posted) : Prop :=
  p.pa + p.bytes.length ≤ 2 ^ 50 ∧ (thread = some p.thread → D p.die ∧ (k < p.pa ∨ p.pa + p.bytes.length ≤ k))

theorem Spares.drainOverlap {thread : Option Nat} (hk : k < 2 ^ 50) (hposted : ∀ p ∈ s.posted, Sparing D k thread p) (a : Acc) (h : s.Spares D k b) :
    (s.drainOverlap thread a).Spares D k b := by
  cases thread with
  | none => exact h
  | some t =>
    obtain ⟨sel, c, hdrain, hown, -⟩ := drainOverlap_performs s t a
    rw [hdrain]
    refine foldl_keeps_of_mem (fun s p hp hs => ?_) h
    obtain ⟨hmem, ht⟩ := hown p (List.contains_iff_mem.1 (List.mem_filter.1 hp).2)
    obtain ⟨hpa, hmine⟩ := hposted p hmem
    obtain ⟨hdie, hapart⟩ := hmine (by rw [ht])
    exact Spares.performPosted hk hdie hpa hapart hs

theorem drainOverlap_posted_sub (s : State) (t : Option Nat) (a : Acc) : ∀ p ∈ (s.drainOverlap t a).posted, p ∈ s.posted := by
  cases t with
  | none => exact fun p hp => hp
  | some t =>
    obtain ⟨sel, c, hdrain, -, -⟩ := drainOverlap_performs s t a
    rw [hdrain, drainPosted_posted]
    exact fun p hp => (List.mem_filter.1 hp).1

theorem dropLine_posted (s : State) (d line : Nat) : (s.dropLine d line).posted = s.posted := writeBack_posted ..

theorem homeWrite_posted (s : State) (cid pa : Nat) (bs : List Byte) : (s.homeWrite cid pa bs).posted = s.posted := by
  unfold State.homeWrite; split <;> rfl

/-- A store leaves the stores that stand issued, but for those that it performs first. -/
theorem storeAcc_posted (s : State) (w : Issuer) (a : Acc) (bs : List Byte) : (s.storeAcc w a bs).posted = (s.drainOverlap w.thread a).posted := by
  unfold State.storeAcc
  dsimp only
  split
  · exact foldl_keep State.posted _ (fun s p => rdcWrite_posted ..) _ _
  · rw [homeWrite_posted]
    refine foldl_keep State.posted _ (fun s p => ?_) _ _
    split
    · exact dropLine_posted ..
    · rfl

/-- A store spares every byte that it does not cover. -/
theorem Spares.storeAcc {w : Issuer} {a : Acc} {bs : List Byte} (hk : k < 2 ^ 50) (hpa : a.pa + a.len ≤ 2 ^ 50) (hapart : k < a.pa ∨ a.pa + a.len ≤ k)
    (hlen : bs.length ≤ a.len) (hd : D w.die) (hposted : ∀ p ∈ s.posted, Sparing D k w.thread p) (h : s.Spares D k b) : (s.storeAcc w a bs).Spares D k b := by
  have hdrained := Spares.drainOverlap hk hposted a h
  unfold State.storeAcc
  dsimp only
  split
  · exact Spares.rdcWrites hk hpa hd hapart hdrained
  · refine Spares.homeWrite (by omega) (foldl_keeps_of_mem (fun s p _ hs => ?_) hdrained)
    split
    · exact Spares.dropLine hd hs _
    · exact hs

theorem Spares.storeAccs {w : Issuer} (hk : k < 2 ^ 50) (hd : D w.die) : ∀ {as : List Acc} {bs : List Byte} {s : State},
    (∀ x ∈ as, x.pa + x.len ≤ 2 ^ 50 ∧ (k < x.pa ∨ x.pa + x.len ≤ k)) → (∀ p ∈ s.posted, Sparing D k w.thread p) → s.Spares D k b →
    (s.storeAccs w as bs).Spares D k b := by
  intro as
  induction as with
  | nil => exact fun _ _ h => h
  | cons a as ih =>
    intro bs s has hposted h
    obtain ⟨hpa, hapart⟩ := has a List.mem_cons_self
    refine ih (fun x hx => has x (List.mem_cons_of_mem a hx)) (fun p hp => ?_)
      (Spares.storeAcc hk hpa hapart (List.length_take_le ..) hd hposted h)
    rw [storeAcc_posted] at hp
    exact hposted p (drainOverlap_posted_sub s w.thread a p hp)

end

end Sys2Proof.Machine
end

section
/-! SUPPORT. A load returns what was stored, and the statement of a store (O58). -/

namespace Sys2Proof.Machine

section
variable {s : State} {w : Issuer} {a : Acc} {bs : List Byte}

theorem MemStep.paDown {s t : State} (h : MemStep s t) (pa : Nat) : t.paDown pa = s.paDown pa := State.paDown_congr (by rw [h.1]) pa

/-! ## Through a die's copy -/

theorem foldl_lineUp {α : Type} {f : State → α → State} (step : ∀ s x, MemStep s (f s x)) (l : List α) {s : State} {j : Nat} (h : s.LineUp j) :
    (l.foldl f s).LineUp j := (MemStep.fold f step l s).lineUp h

/-- The byte at an address of a range is that of the part which holds it. -/
theorem getD_part {pa n j : Nat} {q : Nat × Nat} (hq : q ∈ parts 128 pa n) (hlen : bs.length = n) :
    ((bs.drop (q.1 - pa)).take q.2).length = q.2 ∧ (q.1 ≤ j → j < q.1 + q.2 → ((bs.drop (q.1 - pa)).take q.2).getD (j - q.1) 0 = bs.getD (j - pa) 0) := by
  have hin := mem_chunks (by decide) _ _ _ hq
  refine ⟨by rw [List.length_take, List.length_drop]; omega, fun hlo hhi => ?_⟩
  rw [List.getD_eq_getElem?_getD, List.getD_eq_getElem?_getD, List.getElem?_take, if_pos (by omega), List.getElem?_drop]
  congr 2
  omega

/-- Once its range has been written into a die's copy, that copy shows the bytes. -/
theorem Shows.rdcWrites {d cid by_ pa n j : Nat} (hlen : bs.length = n) (hlo : pa ≤ j) (hhi : j < pa + n) (hup : s.LineUp j) :
    State.Shows ((parts 128 pa n).foldl (fun s q => s.rdcWrite d cid by_ q.1 ((bs.drop (q.1 - pa)).take q.2)) s) d j (bs.getD (j - pa) 0) := by
  have write (s : State) (q : Nat × Nat) (hq : q ∈ parts 128 pa n) (hup : s.LineUp j) (hout : ¬ (q.1 ≤ j ∧ j < q.1 + q.2) → s.Shows d j (bs.getD (j - pa) 0)) :
      (s.rdcWrite d cid by_ q.1 ((bs.drop (q.1 - pa)).take q.2)).Shows d j (bs.getD (j - pa) 0) := by
    obtain ⟨hqlen, hbyte⟩ := getD_part (j := j) hq hlen
    have hin := mem_chunks (by decide) _ _ _ hq
    exact Shows.rdcWrite hup (by rw [hqlen]; exact hin.2.2.1) (by rw [hqlen]; exact hbyte) (by rw [hqlen]; exact hout)
  obtain ⟨q, hq, hqlo, hqhi⟩ := exists_part (size := 128) (by decide) hlo hhi
  obtain ⟨before, after, hsplit⟩ := List.append_of_mem hq
  have hafter (x : Nat × Nat) (hx : x ∈ after) : x ∈ parts 128 pa n := hsplit ▸ List.mem_append_right _ (List.mem_cons_of_mem q hx)
  rw [hsplit, List.foldl_append, List.foldl_cons]
  have hup' := foldl_lineUp (fun s q => rdcWrite_step s d cid by_ q.1 ((bs.drop (q.1 - pa)).take q.2)) before hup
  refine (foldl_keeps_of_mem (P := fun s => s.LineUp j ∧ s.Shows d j (bs.getD (j - pa) 0)) (fun s x hx hs => ?_) ⟨?_, ?_⟩).2
  · exact ⟨(rdcWrite_step ..).lineUp hs.1, write s x (hafter x hx) hs.1 fun _ => hs.2⟩
  · exact (rdcWrite_step ..).lineUp hup'
  · exact write _ q hq hup' fun h => absurd ⟨hqlo, hqhi⟩ h

/-- One part of a load through a die's copy: its bytes and poison join those read before. -/
def readPart (d : Nat) (r : (List Byte × Bool) × State) (p : Nat × Nat) : (List Byte × Bool) × State :=
  ((r.1.1 ++ (r.2.rdcRead d p.1 p.2).1.1, r.1.2 || (r.2.rdcRead d p.1 p.2).1.2), (r.2.rdcRead d p.1 p.2).2)

/-- A read of parts through a die's copy answers the bytes that it shows. -/
theorem rdcReads_bytes {d : Nat} {f : Nat → Byte} : ∀ (l : List (Nat × Nat)) (s : State) (bytes : List Byte) (bad : Bool),
    (∀ q ∈ l, q.1 % 128 + q.2 ≤ 128) → (∀ q ∈ l, ∀ j, q.1 ≤ j → j < q.1 + q.2 → s.LineUp j ∧ s.Shows d j (f j)) →
    (l.foldl (readPart d) ((bytes, bad), s)).1.1 = bytes ++ l.flatMap fun q => (List.range q.2).map fun i => f (q.1 + i) := by
  intro l
  induction l with
  | nil => exact fun s bytes bad _ _ => (List.append_nil _).symm
  | cons q l ih =>
    intro s bytes bad hwithin hshows
    have hread : (s.rdcRead d q.1 q.2).1.1 = (List.range q.2).map fun i => f (q.1 + i) := by
      refine List.map_congr_left fun i hi => ?_
      have hi := List.mem_range.1 hi
      obtain ⟨hup, hs⟩ := hshows q List.mem_cons_self (q.1 + i) (by omega) (by omega)
      exact rdcRead_get hup (hwithin q List.mem_cons_self) hi hs
    rw [List.foldl_cons, readPart, ih _ _ _ (fun x hx => hwithin x (List.mem_cons_of_mem q hx)) fun x hx j hlo hhi => ?_, hread, List.flatMap_cons, List.append_assoc]
    obtain ⟨hup, hs⟩ := hshows x (List.mem_cons_of_mem q hx) j hlo hhi
    exact ⟨(rdcRead_step ..).lineUp hup, Shows.fillLine hup hs (q.1 / 128)⟩

theorem map_getD_range (bs : List Byte) (pa : Nat) : ((List.range bs.length).map fun i => bs.getD (pa + i - pa) 0) = bs := by
  refine List.ext_getElem (by simp) fun i h _ => ?_
  simp at h ⊢
  simp [h]

/-! ## At home -/

/-- The lines of a range are dropped from a die's copy where it is not their home. -/
def State.dropAway (s : State) (w : Issuer) (a : Acc) : State :=
  (parts 128 a.pa a.len).foldl (fun s p => if homeOf a.pa ≠ w.die then s.dropLine w.die (p.1 / 128) else s) s

theorem dropAway_step (s : State) (w : Issuer) (a : Acc) : MemStep s (s.dropAway w a) := by
  refine MemStep.fold _ (fun s p => ?_) _ s
  split
  · exact dropLine_step ..
  · exact .refl s

/-- The lines of a range have been dropped. -/
def State.Dropped (s : State) (w : Issuer) (a : Acc) : Prop :=
  homeOf a.pa ≠ w.die → ∀ p ∈ parts 128 a.pa a.len, s.rdc.get (rdcKey w.die (p.1 / 128)) = default

theorem dropLine_fades (s : State) (d line : Nat) : Fades s (s.dropLine d line) := (writeBack_fades ..).trans (.drop _ rfl)

theorem dropAway_dropped (s : State) (w : Issuer) (a : Acc) : (s.dropAway w a).Dropped w a := by
  intro haway p hp
  unfold State.dropAway
  simp only [if_pos haway]
  exact foldl_of_mem (P := fun s => s.rdc.get (rdcKey w.die (p.1 / 128)) = default) (fun s => Tab.get_set_same ..)
    (fun s q h => (dropLine_fades s w.die (q.1 / 128)).gone _ h) hp s

theorem dropLine_mem_of_default {s : State} {d line : Nat} (h : s.rdc.get (rdcKey d line) = default) : (s.dropLine d line).mem = s.mem := by
  have hback : s.writeBack d line (BitVec.allOnes 128) = s := by
    unfold State.writeBack
    rw [h]
    exact if_pos (by decide)
  unfold State.dropLine
  rw [hback]

/-- Dropped again, the lines of a range leave home memory. -/
theorem dropAway_mem_of_dropped (h : s.Dropped w a) : (s.dropAway w a).mem = s.mem := by
  unfold State.dropAway
  by_cases haway : homeOf a.pa ≠ w.die
  · simp only [if_pos haway]
    refine (foldl_keeps_of_mem (P := fun t => t.mem = s.mem ∧ t.Dropped w a) (fun t p hp ht => ?_) ⟨rfl, h⟩).1
    exact ⟨(dropLine_mem_of_default (ht.2 haway p hp)).trans ht.1, fun haway q hq => (dropLine_fades ..).gone _ (ht.2 haway q hq)⟩
  · simp only [if_neg haway]
    exact foldl_keep State.mem _ (fun _ _ => rfl) _ s

/-- A read at home answers the bytes just written there. -/
theorem homeRead_homeWrite (cid : Nat) {pa : Nat} (hup : bs ≠ [] → s.paDown pa = false) {t : State} (hmem : t.mem = (s.homeWrite cid pa bs).mem) :
    t.homeRead pa bs.length = bs := by
  refine List.ext_getElem (by simp [State.homeRead]) fun i hi hib => ?_
  have hne : bs ≠ [] := List.ne_nil_of_length_pos (by omega)
  have hread := getD_homeRead t pa hib
  rw [hmem, homeWrite_get _ _ _ _ (hup hne), if_pos ⟨by omega, by omega⟩, Nat.add_sub_cancel_left] at hread
  rw [List.getD_eq_getElem _ _ hi, List.getD_eq_getElem _ _ hib] at hread
  exact hread

/-! ## The store and the load -/

/-- Every store of the issuer's thread that meets the access comes before it. -/
def State.Ordered (s : State) (w : Issuer) (a : Acc) : Prop := a.ord ≠ 3 ∨ ∀ p ∈ s.posted, w.thread = some p.thread → p.ord ≠ 3

/-- After a store no store of its thread that meets it stands issued. -/
theorem storeAcc_drained (h : s.Ordered w a) : ∀ p ∈ (s.storeAcc w a bs).posted, w.thread = some p.thread →
    ¬ (p.pa < a.pa + a.len ∧ a.pa < p.pa + p.bytes.length) := by
  intro p hp ht hmeet
  rw [storeAcc_posted, ht] at hp
  obtain ⟨sel, c, hdrain, -, hall⟩ := drainOverlap_performs s p.thread a
  rw [hdrain, drainPosted_posted] at hp
  obtain ⟨hp, hkept⟩ := List.mem_filter.1 hp
  refine absurd (List.contains_iff_mem.2 (hall p hp rfl ?_)) (by simpa using hkept)
  have hord : (p.ord != 3 || a.ord != 3) = true := by
    rw [Bool.or_eq_true, bne_iff_ne, bne_iff_ne]
    exact h.elim .inr fun h => .inl (h p hp ht)
  unfold Posted.precedes State.reachOf
  dsimp only
  rw [← Bool.decide_and, decide_eq_true hmeet, Bool.false_or, hord]
  rfl

/-- The key under which a die's copy notes the writer of a line. -/
def Issuer.writer (w : Issuer) : Nat := match w.thread with | some t => t + 1 | none => 0

theorem storeAcc_cached (h : a.cached w.die = true) : s.storeAcc w a bs =
    (parts 128 a.pa a.len).foldl (fun s p => s.rdcWrite w.die w.cid w.writer p.1 ((bs.drop (p.1 - a.pa)).take p.2))
      (s.drainOverlap w.thread a) := by
  unfold State.storeAcc
  dsimp only
  rw [if_pos h]
  rfl

theorem storeAcc_uncached (h : a.cached w.die = false) : s.storeAcc w a bs = ((s.drainOverlap w.thread a).dropAway w a).homeWrite w.cid a.pa bs := by
  unfold State.storeAcc
  dsimp only
  rw [if_neg (by rw [h]; decide)]
  rfl

/-- A byte stored at home stands there. -/
theorem storeAcc_home_get (hc : a.cached w.die = false) (hup : s.paDown a.pa = false) {k : Nat} (hlo : a.pa ≤ k) (hhi : k < a.pa + bs.length) :
    (s.storeAcc w a bs).mem.get k = bs.getD (k - a.pa) 0 := by
  have hstep := (drainOverlap_step s w.thread a).trans (dropAway_step _ w a)
  rw [storeAcc_uncached hc, homeWrite_get _ _ _ _ ?_, if_pos ⟨hlo, hhi⟩]
  rw [hstep.paDown, hup]

/-- A load of the part just stored returns its bytes. -/
theorem loadAcc_storeAcc (hlen : bs.length = a.len) (hup : ∀ j, a.pa ≤ j → j < a.pa + a.len → s.paDown j = false) (hord : s.Ordered w a) :
    ((s.storeAcc w a bs).loadAcc w a).1.1 = bs := by
  have hnone : (s.storeAcc w a bs).drainOverlap w.thread a = s.storeAcc w a bs := drainOverlap_none (storeAcc_drained hord)
  have hlines (t : State) (ht : MemStep s t) (j : Nat) (hlo : a.pa ≤ j) (hhi : j < a.pa + a.len) : t.LineUp j := by
    refine ht.lineUp ?_
    rw [State.LineUp, paDown_line]
    exact hup j hlo hhi
  unfold State.loadAcc
  dsimp only
  rw [hnone]
  cases hc : a.cached w.die
  case true =>
    rw [if_pos rfl]
    show ((parts 128 a.pa a.len).foldl (readPart w.die) (([], false), s.storeAcc w a bs)).1.1 = bs
    rw [rdcReads_bytes (f := fun j => bs.getD (j - a.pa) 0) (parts 128 a.pa a.len) _ _ _ (fun q hq => (mem_chunks (by decide) _ _ _ hq).2.2.1) fun q hq j hlo hhi => ?_,
      List.nil_append]
    · have hbytes := parts_bytes (size := 128) (by decide) a.pa a.len fun j => bs.getD (j - a.pa) 0
      rw [← hlen] at hbytes ⊢
      exact hbytes.trans (map_getD_range bs a.pa)
    · have hin := mem_chunks (by decide) _ _ _ hq
      refine ⟨hlines _ (storeAcc_step ..) j (by omega) (by omega), ?_⟩
      rw [storeAcc_cached hc]
      exact Shows.rdcWrites hlen (by omega) (by omega) (hlines _ (drainOverlap_step ..) j (by omega) (by omega))
  case false =>
    rw [if_neg (by decide)]
    show ((s.storeAcc w a bs).dropAway w a).homeRead a.pa a.len = bs
    have hdropped : (s.storeAcc w a bs).Dropped w a := by
      intro haway p hp
      rw [storeAcc_uncached hc, homeWrite_rdc]
      exact dropAway_dropped _ w a haway p hp
    have hmem := dropAway_mem_of_dropped hdropped
    rw [storeAcc_uncached hc] at hmem ⊢
    rw [← hlen]
    refine homeRead_homeWrite w.cid (fun hne => ?_) hmem
    have hstep := (drainOverlap_step s w.thread a).trans (dropAway_step _ w a)
    have hpos : 0 < bs.length := List.length_pos_of_ne_nil hne
    rw [hstep.paDown]
    exact hup a.pa (by omega) (by omega)

end

/-- Settles O58: no round of a store reaches a byte outside it but by writing back what is dirty or performing what was stored before. -/
theorem aStoreChangesOnlyItsBytes : Obligations.AStoreChangesOnlyItsBytes := by
  unfold Obligations.AStoreChangesOnlyItsBytes
  intro s w a as bs k u one mine line
  refine ⟨(storeAccs_step w as s bs).1, fun hk has hclean hposted => ?spared, fun hc hup => storeAcc_home_get hc hup, fun hlen hup hord => loadAcc_storeAcc hlen hup hord⟩
  case spared =>
    have hspares := Spares.storeAccs (D := fun d => d = w.die ∨ ∃ p ∈ s.posted, mine p ∧ p.die = d) (bs := bs) hk (.inl rfl) has
      (fun p hp => ⟨(hposted p hp).1, fun hmine => ⟨.inr ⟨p, hp, hmine, rfl⟩, (hposted p hp).2 hmine⟩⟩) ⟨rfl, hclean⟩
    exact hspares.1

end Sys2Proof.Machine
end

section
/-! SUPPORT. Issued writes, posted stores, the array's first and last clock, and the nines core's comparison (O44). -/

namespace Sys2Proof.Machine

/-! ## Lanes of a row that is given lane by lane -/

/-- The number of a row's first lanes. -/
def lanesNat (f : Nat → Word) (n : Nat) : Nat := (List.range n).foldl (fun (w : Nat) i => w + (f i).toNat * 2 ^ (32 * i)) 0

theorem lanesNat_succ (f : Nat → Word) (n : Nat) : lanesNat f (n + 1) = 2 ^ (32 * n) * (f n).toNat + lanesNat f n := by
  rw [lanesNat, List.range_succ, List.foldl_append, Nat.mul_comm, Nat.add_comm]
  rfl

theorem lanesNat_lt (f : Nat → Word) (n : Nat) : lanesNat f n < 2 ^ (32 * n) := by
  induction n with
  | zero => exact Nat.one_pos
  | succ n ih =>
    have hlane := (f n).isLt
    rw [lanesNat_succ, show 32 * (n + 1) = 32 * n + 32 by omega, Nat.pow_add]
    calc 2 ^ (32 * n) * (f n).toNat + lanesNat f n < 2 ^ (32 * n) * (f n).toNat + 2 ^ (32 * n) := Nat.add_lt_add_left ih _
      _ = 2 ^ (32 * n) * ((f n).toNat + 1) := by rw [Nat.mul_succ]
      _ ≤ 2 ^ (32 * n) * 2 ^ 32 := Nat.mul_le_mul_left _ hlane

theorem testBit_lanesNat (f : Nat → Word) (n : Nat) {i j : Nat} (hi : i < n) (hj : j < 32) : (lanesNat f n).testBit (32 * i + j) = (f i).getLsbD j := by
  induction n with
  | zero => exact absurd hi (Nat.not_lt_zero i)
  | succ n ih =>
    rw [lanesNat_succ, Nat.testBit_two_pow_mul_add _ (lanesNat_lt f n)]
    by_cases hin : i = n
    · subst hin
      rw [if_neg (by omega), Nat.add_sub_cancel_left, BitVec.testBit_toNat]
    · rw [if_pos (by omega), ih (by omega)]

theorem lane_rowOf (f : Nat → Word) {i : Nat} (hi : i < 128) : lane (rowOf f) i = f i := by
  refine BitVec.eq_of_getLsbD_eq fun j hj => ?_
  have hrow : rowOf f = BitVec.ofNat 4096 (lanesNat f 128) := rfl
  have hin : 32 * i + j < 4096 := by omega
  rw [hrow, lane, bits, BitVec.getLsbD_extractLsb', BitVec.getLsbD_ofNat, testBit_lanesNat f 128 hi hj]
  simp [hj, hin]

/-! ## Issued writes and posted stores (R278, R288) -/

/-- An issued write over which no write of its clock stands puts its bytes there and nowhere else. -/
theorem performPend_write {s : State} {w : SPend} (hact : w.act = .write) (hlast : ∀ q ∈ s.landed, q.cluster = w.cluster → q.before w = true) :
    (s.performPend w).spend = s.spend ∧ (s.performPend w).mem = s.mem ∧
    (s.performPend w).spad = s.spad.setRange (spadKey w.cluster w.addr) w.bytes := by
  have hlater : (s.landed.filter fun q => q.cluster == w.cluster && !q.before w) = [] :=
    List.filter_eq_nil_iff.2 fun q hq h => by
      obtain ⟨hc, hb⟩ := Bool.and_eq_true _ _ ▸ h
      rw [hlast q hq (beq_iff_eq.1 hc)] at hb
      exact absurd hb (by decide)
  unfold State.performPend
  rw [hact]
  refine ⟨s.spadLand_spend w, s.spadLand_mem w, ?_⟩
  show (s.spadLand w).spad = _
  unfold State.spadLand
  dsimp only
  rw [hlater]
  rfl

theorem scratchpadWritePerform_waits {s : State} {n : Nat} {w : SPend} (hw : s.spend[n]? = some w) (h : s.clk < w.due ∨ s.spadFrozen w = true) :
    exec (.scratchpadWritePerform n) s = .next s := by
  rw [exec_scratchpadWritePerform, execScratchpadWritePerform, hw]
  refine congrArg Host.Outcome.next (if_neg ?_)
  rintro ⟨hdue, hfrozen⟩
  obtain h | h := h
  · omega
  · rw [h] at hfrozen
    exact absurd hfrozen (by decide)

/-- The stores that are performed with a posted one. -/
def State.performedWith (s : State) (n : Nat) (q : Posted) : Posted → Bool := (q :: comeBefore false q.thread (s.posted.take n).reverse [q.place]).contains

/-- An earlier store of its thread that meets a posted one, not both unordered with no fence between, is performed with it (R280, R281). -/
theorem performedWith_earlier {s : State} {n : Nat} {q x : Posted} (hx : x ∈ s.posted.take n) (ht : x.thread = q.thread)
    (hmeet : overlap x.pa x.bytes.length q.pa q.bytes.length = true) (hord : x.ord ≠ 3 ∨ q.ord ≠ 3 ∨ x.fences ≠ q.fences) : s.performedWith n q x = true := by
  refine List.contains_iff_mem.2 (List.mem_cons_of_mem q (mem_comeBefore_of_precedes ht ?_ (List.mem_reverse.2 hx) List.mem_cons_self))
  simp only [overlap, Bool.and_eq_true, decide_eq_true_eq] at hmeet
  obtain ⟨⟨⟨hlo, hhi⟩, -⟩, -⟩ := hmeet
  unfold Posted.precedes Posted.place
  dsimp only
  rw [decide_eq_true hlo, decide_eq_true hhi, Bool.true_and, Bool.true_and, Bool.false_or, Bool.or_eq_true, Bool.or_eq_true, bne_iff_ne, bne_iff_ne, bne_iff_ne]
  obtain h | h | h := hord
  · exact .inl (.inl h)
  · exact .inl (.inr fun e => h (BitVec.eq_of_toNat_eq e))
  · exact .inr h

theorem memoryAccessPerformed_drains {s : State} {n : Nat} {q : Posted} (hq : s.posted[n]? = some q) :
    exec (.memoryAccessPerformed n) s = .next (s.drainPosted (s.performedWith n q)) := by
  rw [exec_memoryAccessPerformed, execMemoryAccessPerformed, hq]
  rfl

/-! ## The array begins a command (R367, R383) -/

theorem mayStart_since {th : Thread} {clk : Nat} {b : Batch} {c : MatCmd} (h : th.mayStart clk = true) (hcur : th.curCmd = some (b, c)) : b.since < clk := by
  unfold Thread.mayStart at h
  rw [hcur] at h
  simp only [Bool.and_eq_true, decide_eq_true_eq] at h
  exact h.2.1

theorem arrayCommandStart_starts {s : State} {t : Nat} (hmay : (s.thr t).mayStart s.clk = true) (hfrozen : (s.die (s.thr t).die).frozen = false) :
    exec (.arrayCommandStart t) s = .next (s.arrayStart t) := by
  rw [exec_arrayCommandStart, execArrayCommandStart, hmay, hfrozen]
  rfl

theorem arrayCommandStart_waits {s : State} {t : Nat} (h : (s.thr t).mayStart s.clk = false ∨ (s.die (s.thr t).die).frozen = true) :
    exec (.arrayCommandStart t) s = .next s := by
  rw [exec_arrayCommandStart, execArrayCommandStart, if_neg]
  rw [Bool.and_eq_true]
  rintro ⟨hmay, hfrozen⟩
  obtain h | h := h
  · rw [h] at hmay
    exact absurd hmay (by decide)
  · rw [h] at hfrozen
    exact absurd hfrozen (by decide)

/-- What the array does first with a command: it begins it, replays its window anew, or fails it. -/
theorem arrayStart_cases {s : State} {t : Nat} {b : Batch} {c : MatCmd} (hcur : (s.thr t).curCmd = some (b, c)) :
    let begun := fun (rerun : Bool) (th : Thread) => th.setBatch fun b => { b.idle with started := true, drawAt := (th.seedAt c.seed).mat, rerun := rerun }
    (b.again = false → s.arrayStart t = s.modThr t (begun false)) ∧
    (∀ tile, b.again = true → s.replayWindow t c.acc = some tile → s.arrayStart t = s.modThr t fun th => begun true (th.setTile c.acc tile)) ∧
    (b.again = true → s.replayWindow t c.acc = none → s.arrayStart t = s.failError t b c) := by
  intro begun
  unfold State.arrayStart
  rw [hcur]
  dsimp only
  refine ⟨fun h => ?_, fun tile h hr => ?_, fun h hr => ?_⟩
  · rw [h]
    rfl
  · rw [h, hr]
    rfl
  · rw [h, hr]
    rfl

/-! ## The last clock of a command (R367, R368) -/

/-- A read of the array changes its batch alone. -/
theorem arrayRead_only {s s1 : State} {t : Nat} {r : Nat × Nat × Nat} (h : s.arrayRead t r = .ok s1) : ∃ f : Batch → Batch, s1 = s.modThr t fun th => th.setBatch f := by
  unfold State.arrayRead at h
  dsimp only at h
  split at h
  · cases h
  · split at h
    · cases h
    · cases h
      exact ⟨_, rfl⟩

/-- What a change of a batch leaves of the state, the array's reads leave of it. -/
theorem arrayReads_keep {α : Type} (g : State → α) (t : Nat) (hg : ∀ s (f : Batch → Batch), g (State.modThr s t fun th => th.setBatch f) = g s) :
    ∀ (rs : List (Nat × Nat × Nat)) {s s1 : State}, s.arrayReads t rs = .ok s1 → g s1 = g s := by
  intro rs
  induction rs with
  | nil => exact fun h => by cases h; rfl
  | cons r rs ih =>
    intro s s1 h
    rw [State.arrayReads] at h
    split at h
    · cases h
    next s2 hr =>
      obtain ⟨f, rfl⟩ := arrayRead_only hr
      exact (ih h).trans (hg s f)

/-- What a change of a batch leaves of a thread, the array's reads leave of it. -/
theorem arrayReads_thr {α : Type} (g : Thread → α) (hg : ∀ (th : Thread) (f : Batch → Batch), g (th.setBatch f) = g th) {t : Nat} {rs : List (Nat × Nat × Nat)}
    {s s1 : State} (h : s.arrayReads t rs = .ok s1) : g (s1.thr t) = g (s.thr t) :=
  arrayReads_keep (fun s => g (s.thr t)) t (fun s f => by rw [State.thr_modThr_same, hg]) rs h

theorem tile_eq {th th' : Thread} (hacc : th'.acc = th.acc) (hrck : th'.rck = th.rck) (hcck : th'.cck = th.cck) (k : Nat) : th'.tile k = th.tile k := by
  unfold Thread.tile; rw [hacc, hrck, hcck]

end Sys2Proof.Machine
end

section
/-! SUPPORT. What a retired command leaves in the accumulators, and what the nines core's comparison does (O44). -/

namespace Sys2Proof.Machine

/-! ## Tiles written and read back -/

/-- Tables that read alike on a range give the same range. -/
theorem Tab.getRange_congr {α : Type} [Inhabited α] {t u : Tab α} {k n : Nat} (h : ∀ i < n, t.get (k + i) = u.get (k + i)) : t.getRange k n = u.getRange k n := by
  refine List.ext_getElem? fun i => ?_
  by_cases hi : i < n
  · rw [Tab.getElem?_getRange t n k hi, Tab.getElem?_getRange u n k hi, h i hi]
  · rw [List.getElem?_eq_none (by simp; omega), List.getElem?_eq_none (by simp; omega)]

theorem Tab.getRange_setRange {α : Type} [Inhabited α] [DecidableEq α] (t : Tab α) (k : Nat) (vs : List α) : (t.setRange k vs).getRange k vs.length = vs := by
  refine List.ext_getElem? fun i => ?_
  by_cases hi : i < vs.length
  · rw [Tab.getElem?_getRange _ _ _ hi, Tab.get_setRange, if_pos ⟨by omega, by omega⟩, Nat.add_sub_cancel_left, List.getD_eq_getElem _ _ hi, List.getElem?_eq_getElem hi]
  · rw [List.getElem?_eq_none (by simp; omega), List.getElem?_eq_none (by omega)]

/-- An accumulator just written reads as the tile written. -/
theorem Thread.tile_setTile_same (th : Thread) (k : Nat) {t : Tile} (h : t.rows.length = 128) : (th.setTile k t).tile k = t := by
  have hrows := Tab.getRange_setRange th.acc (128 * k) t.rows
  rw [h] at hrows
  show Tile.mk ((th.acc.setRange (128 * k) t.rows).getRange (128 * k) 128) ((th.rck.set k t.rck).get k) ((th.cck.set k t.cck).get k) = t
  rw [hrows, Tab.get_set_same, Tab.get_set_same]

/-- The other accumulators keep their tiles. -/
theorem Thread.tile_setTile_other (th : Thread) {k j : Nat} (hj : j ≠ k) {t : Tile} (h : t.rows.length = 128) : (th.setTile k t).tile j = th.tile j := by
  have hrows : (th.acc.setRange (128 * k) t.rows).getRange (128 * j) 128 = th.acc.getRange (128 * j) 128 :=
    Tab.getRange_congr fun i hi => by rw [Tab.get_setRange, if_neg (by omega)]
  show Tile.mk ((th.acc.setRange (128 * k) t.rows).getRange (128 * j) 128) ((th.rck.set k t.rck).get j) ((th.cck.set k t.cck).get j) = _
  rw [hrows, Tab.get_set_other _ _ _ _ hj, Tab.get_set_other _ _ _ _ hj]
  rfl

theorem Thread.tile_rows_length (th : Thread) (k : Nat) : (th.tile k).rows.length = 128 := Tab.getRange_length ..

theorem Thread.tile_rows_getElem? (th : Thread) (k : Nat) {i : Nat} (hi : i < 128) : (th.tile k).rows[i]? = some (th.acc.get (128 * k + i)) :=
  Tab.getElem?_getRange _ _ _ hi

/-! ## What a command makes of a tile (R368 to R371) -/

theorem tileResult_rows_length (c : MatCmd) (key : Dword) (c0 : BitVec 61) (rd : TileSrc) (t : Tile) : (tileResult c key c0 rd t).rows.length = t.rows.length := by
  unfold tileResult
  dsimp only
  split <;> simp

/-- A row of the result of a command that accumulates. -/
theorem tileResult_row {c : MatCmd} (hop : c.op ≠ 4) (key : Dword) (c0 : BitVec 61) (rd : TileSrc) {t : Tile} {i : Nat} {r : Row} (hr : t.rows[i]? = some r) :
    (tileResult c key c0 rd t).rows[i]? = some (if i < fwM c.fw then
      rowOf fun j => if j < fwN c.fw then accElem c.fw key c0 (lane r j) i j (elemVals (blockVals rd c) i j) else lane r j else r) := by
  unfold tileResult
  dsimp only
  rw [if_neg hop]
  dsimp only
  rw [List.getElem?_map, List.getElem?_zipIdx, hr]
  simp

/-- An element of the result of a command that accumulates. -/
theorem tileResult_lane {c : MatCmd} (hop : c.op ≠ 4) (key : Dword) (c0 : BitVec 61) (rd : TileSrc) {t : Tile} {i j : Nat} {r r' : Row} (hr : t.rows[i]? = some r)
    (hr' : (tileResult c key c0 rd t).rows[i]? = some r') (hj : j < 128) :
    lane r' j = if i < fwM c.fw ∧ j < fwN c.fw then accElem c.fw key c0 (lane r j) i j (elemVals (blockVals rd c) i j) else lane r j := by
  rw [tileResult_row hop key c0 rd hr] at hr'
  obtain rfl := Option.some.inj hr'
  by_cases hi : i < fwM c.fw
  · rw [if_pos hi, lane_rowOf _ hj]
    simp only [hi, true_and]
  · rw [if_neg hi, if_neg fun h => hi h.1]

/-! ## The retirement of a command -/

theorem State.log_thr (s : State) (d : Nat) (r : LogRec) (t : Nat) : (s.log d r).thr t = s.thr t := by rw [(log_only s d r).1]; rfl

theorem State.log_spad (s : State) (d : Nat) (r : LogRec) : (s.log d r).spad = s.spad := by rw [(log_only s d r).1]

theorem noteReplay_spad (s : State) (t : Nat) : (s.noteReplay t).spad = s.spad := State.log_spad ..

/-- A noted replay leaves of a thread all but its contribution. -/
theorem noteReplay_thr {α : Type} (g : Thread → α) (hg : ∀ (th : Thread) x, g { th with contrib := x } = g th) (s : State) (t : Nat) :
    g ((s.noteReplay t).thr t) = g (s.thr t) := by
  unfold State.noteReplay
  dsimp only
  rw [State.log_thr]
  show g ((State.modThr _ _ _).thr t) = _
  rw [State.thr_modThr_same, hg]

/-- The scoreboard entry of a batch is done. -/
def Thread.slotRetired (th : Thread) (b : Batch) : Thread := match th.batchSlot b.bn with | some j => th.sbSet j .done | none => th

/-- An accumulator's state once a command has written it. -/
def AccSt.retired (x : AccSt) (b : Batch) (c : MatCmd) (key : Dword) : AccSt :=
  { kindInt := c.op = 4 || fwFC c.fw != 0, ckvOff := x.ckvOff || !c.ck || c.op = 4, loc := .none, win := x.win.push c key b.drawAt b.touched }

/-- The accumulator of a command written, and its draws taken. -/
def Thread.resultWritten (th : Thread) (b : Batch) (c : MatCmd) (key : Dword) (tile : Tile) : Thread :=
  let th := { th.setTile c.acc tile with accSt := (th.setTile c.acc tile).accSt.mod c.acc fun x => x.retired b c key }
  if drawsOf c.fw = 0 then th else th.advanceMat c.seed (drawsOf c.fw)

/-- The thread once its command has retired. -/
def Thread.commandRetired (th : Thread) (b : Batch) (c : MatCmd) (key : Dword) (tile : Tile) : Thread :=
  let th := th.resultWritten b c key tile
  if b.cmds.length ≤ 1 then { th.slotRetired b with batches := (th.slotRetired b).batches.tail }
  else th.setBatch fun x => { x.idle with cmds := x.cmds.tail, done := x.done + 1 }

section
variable {α : Type} (g : Thread → α)

theorem Thread.slotRetired_keeps (hsb : ∀ (th : Thread) x, g { th with sb := x } = g th) (th : Thread) (b : Batch) : g (th.slotRetired b) = g th := by
  unfold Thread.slotRetired
  split
  · exact hsb ..
  · rfl

theorem Thread.resultWritten_keeps (haccSt : ∀ (th : Thread) x, g { th with accSt := x } = g th) (hseeds : ∀ (th : Thread) x, g { th with seeds := x } = g th)
    (th : Thread) (b : Batch) (c : MatCmd) (key : Dword) (tile : Tile) : g (th.resultWritten b c key tile) = g (th.setTile c.acc tile) := by
  unfold Thread.resultWritten
  dsimp only
  split
  · exact haccSt ..
  · exact (hseeds ..).trans (haccSt ..)

/-- What a command's retirement leaves of its thread beside the tile that it writes. -/
theorem Thread.commandRetired_keeps (haccSt : ∀ (th : Thread) x, g { th with accSt := x } = g th) (hseeds : ∀ (th : Thread) x, g { th with seeds := x } = g th)
    (hsb : ∀ (th : Thread) x, g { th with sb := x } = g th) (hbatches : ∀ (th : Thread) x, g { th with batches := x } = g th)
    (th : Thread) (b : Batch) (c : MatCmd) (key : Dword) (tile : Tile) : g (th.commandRetired b c key tile) = g (th.setTile c.acc tile) := by
  have hwritten := Thread.resultWritten_keeps g haccSt hseeds th b c key tile
  unfold Thread.commandRetired
  dsimp only
  split
  · exact (hbatches ..).trans ((Thread.slotRetired_keeps g hsb ..).trans hwritten)
  · exact (hbatches ..).trans hwritten

end

/-- The state in which a command of a batch retires: a replay that has succeeded is noted. -/
def State.replayNoted (s : State) (t : Nat) (b : Batch) : State := if b.rerun then s.noteReplay t else s

/-- A command's retirement: its thread's, and, at the end of its batch, that of the handles. -/
theorem retireCmd_eq (s : State) (t : Nat) (b : Batch) (c : MatCmd) (rd : TileSrc) :
    s.retireCmd t b c rd =
      let key := ((s.thr t).seedAt c.seed).key
      let s' := (s.replayNoted t b).modThr t fun th => th.commandRetired b c key (tileResult c key b.drawAt rd ((s.thr t).tile c.acc))
      if b.cmds.length ≤ 1 then s'.releaseHandles (s.thr t).cluster b.handles else s' := rfl

/-- What a command's retirement does to the rest of the state and to its thread. -/
theorem retireCmd_effect (s : State) (t : Nat) (b : Batch) (c : MatCmd) (rd : TileSrc) :
    let key := ((s.thr t).seedAt c.seed).key
    (s.retireCmd t b c rd).thr t = ((s.replayNoted t b).thr t).commandRetired b c key (tileResult c key b.drawAt rd ((s.thr t).tile c.acc)) ∧
    (s.retireCmd t b c rd).mem = (s.replayNoted t b).mem ∧ (s.retireCmd t b c rd).spad = (s.replayNoted t b).spad := by
  rw [retireCmd_eq]
  dsimp only
  have hthr := State.thr_modThr_same (s.replayNoted t b) t fun th => th.commandRetired b c ((s.thr t).seedAt c.seed).key
    (tileResult c ((s.thr t).seedAt c.seed).key b.drawAt rd ((s.thr t).tile c.acc))
  split
  · exact ⟨hthr, rfl, rfl⟩
  · exact ⟨hthr, rfl, rfl⟩

/-- The registers and tiles of a thread whose command has retired. -/
theorem retireCmd_thr (s : State) (t : Nat) (b : Batch) (c : MatCmd) (rd : TileSrc) :
    let key := ((s.thr t).seedAt c.seed).key
    let tile := tileResult c key b.drawAt rd ((s.thr t).tile c.acc)
    let x := (s.retireCmd t b c rd).thr t
    x.s = (s.thr t).s ∧ x.v = (s.thr t).v ∧ x.tile c.acc = tile ∧ ∀ k, k ≠ c.acc → x.tile k = (s.thr t).tile k := by
  intro key tile x
  have hx : x = ((s.replayNoted t b).thr t).commandRetired b c key tile := (retireCmd_effect s t b c rd).1
  have noted {α : Type} (g : Thread → α) (hg : ∀ (th : Thread) y, g { th with contrib := y } = g th) : g ((s.replayNoted t b).thr t) = g (s.thr t) := by
    unfold State.replayNoted
    split
    · exact noteReplay_thr g hg s t
    · rfl
  have hrows : tile.rows.length = 128 := by rw [tileResult_rows_length, Thread.tile_rows_length]
  generalize (s.replayNoted t b).thr t = th at hx noted
  have hs : x.s = th.s := by rw [hx]; exact Thread.commandRetired_keeps Thread.s (fun _ _ => rfl) (fun _ _ => rfl) (fun _ _ => rfl) (fun _ _ => rfl) ..
  have hv : x.v = th.v := by rw [hx]; exact Thread.commandRetired_keeps Thread.v (fun _ _ => rfl) (fun _ _ => rfl) (fun _ _ => rfl) (fun _ _ => rfl) ..
  have hacc : x.acc = (th.setTile c.acc tile).acc := by
    rw [hx]; exact Thread.commandRetired_keeps Thread.acc (fun _ _ => rfl) (fun _ _ => rfl) (fun _ _ => rfl) (fun _ _ => rfl) ..
  have hrck : x.rck = (th.setTile c.acc tile).rck := by
    rw [hx]; exact Thread.commandRetired_keeps Thread.rck (fun _ _ => rfl) (fun _ _ => rfl) (fun _ _ => rfl) (fun _ _ => rfl) ..
  have hcck : x.cck = (th.setTile c.acc tile).cck := by
    rw [hx]; exact Thread.commandRetired_keeps Thread.cck (fun _ _ => rfl) (fun _ _ => rfl) (fun _ _ => rfl) (fun _ _ => rfl) ..
  refine ⟨hs.trans (noted Thread.s fun _ _ => rfl), hv.trans (noted Thread.v fun _ _ => rfl), ?_, fun k hk => ?_⟩
  · rw [tile_eq hacc hrck hcck, Thread.tile_setTile_same th c.acc hrows]
  · rw [tile_eq hacc hrck hcck, Thread.tile_setTile_other th hk hrows]
    exact noted (fun th => th.tile k) fun _ _ => rfl

end Sys2Proof.Machine
end

section
/-! SUPPORT. The nines core's comparison, and pending accesses and array commands (O44). -/

namespace Sys2Proof.Machine

/-! ## The comparison (R459, R460) -/

/-- The last `gone q` entries of a queue are taken off. -/
def withdrawn (gone : Nat → Nat) (t : Tab (List Dword)) (q : Nat) : Tab (List Dword) := if gone q = 0 then t else t.set q ((t.get q).take ((t.get q).length - gone q))

theorem withdrawn_get (gone : Nat → Nat) (t : Tab (List Dword)) (q k : Nat) :
    (withdrawn gone t q).get k = if k = q then (t.get k).take ((t.get k).length - gone k) else t.get k := by
  unfold withdrawn
  split
  next h =>
    split
    next hk => rw [hk, h, Nat.sub_zero, List.take_length]
    next => rfl
  next =>
    rw [Tab.get_set]
    split
    next hk => rw [hk]
    next => rfl

theorem foldl_withdrawn_get (gone : Nat → Nat) (k : Nat) : ∀ (l : List Nat) (t : Tab (List Dword)), l.Nodup →
    (l.foldl (withdrawn gone) t).get k = if k ∈ l then (t.get k).take ((t.get k).length - gone k) else t.get k := by
  intro l
  induction l with
  | nil => exact fun t _ => by simp
  | cons q l ih =>
    intro t h
    obtain ⟨hq, hl⟩ := List.nodup_cons.1 h
    rw [List.foldl_cons, ih _ hl, withdrawn_get]
    by_cases hk : k = q
    · subst hk
      simp [hq]
    · simp [hk]

/-- What a differing value withdraws (R460). -/
theorem withdraw_effect {th : Thread} {reg : Bool} {num clk at_ : Nat} (h : th.comparedAt reg num clk = some at_) :
    let left := th.withdraw reg num clk
    let pushed := fun (q : Nat) => ((th.results.drop at_).filter fun x => x.what == q).length
    left.results = th.results.take at_ ∧ (∀ q ∈ seqQueues, left.qs.get q = (th.qs.get q).take ((th.qs.get q).length - pushed q)) ∧
    (∀ q, q ∉ seqQueues → left.qs.get q = th.qs.get q) ∧ left.s = th.s ∧ left.p = th.p := by
  intro left pushed
  have hleft : left = { th with qs := seqQueues.foldl (withdrawn pushed) th.qs, results := th.results.take at_ } := by
    show th.withdraw reg num clk = _
    unfold Thread.withdraw
    rw [h]
    rfl
  rw [hleft]
  refine ⟨rfl, fun q hq => ?_, fun q hq => ?_, rfl, rfl⟩
  · exact (foldl_withdrawn_get pushed q seqQueues th.qs (by decide)).trans (if_pos hq)
  · exact (foldl_withdrawn_get pushed q seqQueues th.qs (by decide)).trans (if_neg hq)

/-- What a comparison of a value that is withheld comes to. -/
theorem ninesCompare_compared {s : State} {t num : Nat} {reg : Bool} {v nines : Dword} (hv : (s.thr t).compared reg num s.clk = some v)
    (hactive : (s.thr t).active = true) : exec (.ninesCompare t reg num nines) s =
      .next (if v ≠ nines then s.diverge t reg num v nines else s.modThr t fun th => th.released reg num s.clk) := by
  rw [exec_ninesCompare, execNinesCompare, hv]
  dsimp only
  rw [hactive]
  rfl

theorem ninesCompare_idle {s : State} {t num : Nat} {reg : Bool} {nines : Dword}
    (h : (s.thr t).compared reg num s.clk = none ∨ (s.thr t).active = false) : exec (.ninesCompare t reg num nines) s = .next s := by
  rw [exec_ninesCompare, execNinesCompare]
  cases hv : (s.thr t).compared reg num s.clk with
  | none => rfl
  | some v =>
    obtain h | h := h
    · rw [hv] at h
      cases h
    · dsimp only
      rw [h]
      rfl

theorem ninesCompare_equal {s : State} {t num at_ : Nat} {reg : Bool} {v nines : Dword} (hat : (s.thr t).comparedAt reg num s.clk = some at_)
    (hv : (s.thr t).compared reg num s.clk = some v) (hactive : (s.thr t).active = true) (heq : v = nines) :
    exec (.ninesCompare t reg num nines) s = .next (s.modThr t fun th => { th with results := th.results.eraseIdx at_ }) := by
  rw [ninesCompare_compared hv hactive, if_neg (not_not.2 heq)]
  refine congrArg Host.Outcome.next (State.modThr_congr ?_)
  unfold Thread.released
  rw [hat]

/-! ## The last clock of a command (R367, R368) -/

theorem lastClock_of {th : Thread} {b : Batch} {c : MatCmd} (hcur : th.curCmd = some (b, c)) (hstarted : b.started = true) (hlast : clocksOf c ≤ b.pos + 1) :
    th.lastClock = true := by
  unfold Thread.lastClock
  rw [hcur]
  dsimp only
  rw [hstarted, decide_eq_true hlast]
  rfl

/-- In its last clock a command whose reads are made and whose scales are good retires. -/
theorem arrayCommandRetire_retires {s s1 : State} {t : Nat} {b b1 : Batch} {c c1 : MatCmd} (hfrozen : (s.die (s.thr t).die).frozen = false)
    (hcur : (s.thr t).curCmd = some (b, c)) (hstarted : b.started = true) (hlast : clocksOf c ≤ b.pos + 1) (hwaits : s.arrayWaits t b c = false)
    (hreads : s.arrayReads t ((readsDue b c).filter fun r => !s.readHeld t c r) = .ok s1) (hcur1 : (s1.thr t).curCmd = some (b1, c1))
    (hlast1 : clocksOf c1 ≤ b1.pos + 1) (hscale : scaleAtClock b1 c1 = none) :
    exec (.arrayCommandRetire t) s = .next (s1.retireCmd t b1 c1 (gotByte b1.got)) := by
  have hclock : s.arrayClock t = s1.retireCmd t b1 c1 (gotByte b1.got) := by
    unfold State.arrayClock
    rw [hcur]
    dsimp only
    rw [hstarted, hreads]
    dsimp only
    rw [hwaits, hcur1]
    show s1.nextClock t b1 c1 = _
    unfold State.nextClock
    rw [hscale]
    exact if_pos hlast1
  rw [exec_arrayCommandRetire, execArrayCommandRetire, lastClock_of hcur hstarted hlast, hfrozen, ← hclock]
  rfl

theorem arrayCommandRetire_waits {s : State} {t : Nat} (h : (s.thr t).lastClock = false ∨ (s.die (s.thr t).die).frozen = true) :
    exec (.arrayCommandRetire t) s = .next s := by
  rw [exec_arrayCommandRetire, execArrayCommandRetire, if_neg]
  rw [Bool.and_eq_true]
  rintro ⟨hlast, hfrozen⟩
  obtain h | h := h
  · rw [h] at hlast
    exact absurd hlast (by decide)
  · rw [h] at hfrozen
    exact absurd hfrozen (by decide)

/-- What the retirement after the reads of the last clock leaves, from the state before them. -/
theorem retireCmd_after_reads {s s1 : State} {t : Nat} {rs : List (Nat × Nat × Nat)} (hreads : s.arrayReads t rs = .ok s1) (b : Batch) (c : MatCmd) (rd : TileSrc) :
    let key := ((s1.thr t).seedAt c.seed).key
    let u := s1.retireCmd t b c rd
    (b.rerun = false → u.mem = s.mem) ∧ u.spad = s.spad ∧ (u.thr t).s = (s.thr t).s ∧ (u.thr t).v = (s.thr t).v ∧
    (u.thr t).tile c.acc = tileResult c key b.drawAt rd ((s.thr t).tile c.acc) ∧ (∀ k, k ≠ c.acc → (u.thr t).tile k = (s.thr t).tile k) ∧
    (c.op ≠ 4 → ∀ i < 128, ∀ j < 128, lane ((u.thr t).acc.get (128 * c.acc + i)) j = if i < fwM c.fw ∧ j < fwN c.fw
      then accElem c.fw key b.drawAt (lane ((s.thr t).acc.get (128 * c.acc + i)) j) i j (elemVals (blockVals rd c) i j)
      else lane ((s.thr t).acc.get (128 * c.acc + i)) j) := by
  intro key u
  obtain ⟨-, hmem, hspad⟩ := retireCmd_effect s1 t b c rd
  obtain ⟨hs, hv, htile, hother⟩ := retireCmd_thr s1 t b c rd
  have htiles (k : Nat) : (s1.thr t).tile k = (s.thr t).tile k := arrayReads_thr (fun th => th.tile k) (fun _ _ => rfl) hreads
  rw [htiles] at htile
  refine ⟨fun hrerun => ?_, ?_, hs.trans (arrayReads_thr Thread.s (fun _ _ => rfl) hreads), hv.trans (arrayReads_thr Thread.v (fun _ _ => rfl) hreads), htile,
    fun k hk => (hother k hk).trans (htiles k), fun hop i hi j hj => ?_⟩
  · refine hmem.trans ?_
    rw [State.replayNoted, hrerun]
    exact arrayReads_keep State.mem t (fun _ _ => rfl) _ hreads
  · refine hspad.trans (Eq.trans ?_ (arrayReads_keep State.spad t (fun _ _ => rfl) _ hreads))
    unfold State.replayNoted
    split
    · exact noteReplay_spad ..
    · rfl
  · have hrow := Thread.tile_rows_getElem? (u.thr t) c.acc hi
    rw [htile] at hrow
    exact tileResult_lane hop key b.drawAt rd (Thread.tile_rows_getElem? (s.thr t) c.acc hi) hrow hj

/-- Settles O44: each device step by its own lemma, the retirement from the reads of its last clock. -/
theorem pendingAccessesAndArrayCommandsTakeEffect : Obligations.PendingAccessesAndArrayCommandsTakeEffect := by
  unfold Obligations.PendingAccessesAndArrayCommandsTakeEffect
  intro s s1 n t num at_ w q b b1 c c1 reg v nines tile th overlaps rd frozen begun ends key el pushed left differs info
  refine ⟨?write, scratchpadWritePerform_waits, ?posted, mayStart_since, ?start, arrayCommandStart_waits, ?retire, arrayCommandRetire_waits, ninesCompare_idle,
    ninesCompare_equal, ?diverge, withdraw_effect⟩
  case write =>
    intro hw hact hdue hfrozen hlast
    obtain ⟨hspend, hmem, hspad⟩ := performPend_write (s := { s with spend := s.spend.eraseIdx n }) hact hlast
    refine ⟨_, scratchpadWritePerform_due hw hdue hfrozen, hspend, hmem, fun k => ?_⟩
    rw [hspad]
    exact Tab.get_setRange w.bytes s.spad (spadKey w.cluster w.addr) k
  case posted =>
    intro hq
    have hstep := drainPosted_step s overlaps
    refine ⟨_, memoryAccessPerformed_drains hq, drainPosted_posted s overlaps, hstep.1.keeps.2.2.1, hstep.1.keeps.1, rfl, fun x hx ht hmeet hord hstays => ?_⟩
    have hleft := (List.mem_filter.1 (drainPosted_posted s overlaps ▸ hstays)).2
    rw [show overlaps x = true from performedWith_earlier hx ht hmeet hord] at hleft
    exact absurd hleft (by decide)
  case start =>
    intro hmay hfrozen hcur
    obtain ⟨hbegin, hreplay, hfail⟩ := arrayStart_cases hcur
    have hexec := arrayCommandStart_starts hmay hfrozen
    exact ⟨fun h => hexec.trans (congrArg Host.Outcome.next (hbegin h)), fun h hr => hexec.trans (congrArg Host.Outcome.next (hreplay tile h hr)),
      fun h hr => hexec.trans (congrArg Host.Outcome.next (hfail h hr))⟩
  case retire =>
    rintro ⟨hfrozen, hcur, hstarted, hlast, hwaits, hreads, hcur1, hlast1, hscale⟩
    exact ⟨_, arrayCommandRetire_retires hfrozen hcur hstarted hlast hwaits hreads hcur1 hlast1 hscale, retireCmd_after_reads hreads b1 c1 rd⟩
  case diverge =>
    rintro ⟨hv, hactive, hne⟩
    rw [ninesCompare_compared hv hactive, if_pos hne]
    rfl

end Sys2Proof.Machine
end

section
/-! SUPPORT. Words of ADR that move one descriptor or one scalar, prefetch, fence or wait for a handle (O11). -/

namespace Sys2Proof.Machine

/-! ## Checks that pass -/

theorem adrAlign_of_dvd {a n : Nat} (s : State) (h : a % n = 0) : adrAlign s a n = .ok () := if_neg (not_not.2 h)

theorem adrPhase_of_none {s : State} {a n : Nat} {write : Bool} (h : s.phaseCheck s.cur .adr a n write = none) : adrPhase s a n write = .ok () := by
  unfold adrPhase; rw [h]

/-- A word of ADR that is not halted ends as its meaning says. -/
theorem exec_of_adrWord {i : Instr} {s : State} {body : Except Exit State} (htrap : s.me.adrTrap = none) (h : exec i s = adrWord s body) :
    exec i s = finish .adr s body := h.trans (adrWord_none s body htrap)

/-! ## Queue q8 -/

theorem Thread.qlen_eight_congr {th th' : Thread} (h : th'.qs = th.qs) : th'.qlen 8 = th.qlen 8 := by
  unfold Thread.qlen; rw [if_neg (by decide), if_neg (by decide), h]

/-- A read that taints the thread leaves q8 as it is. -/
theorem readTaint_qlen_eight (s : State) (t : Nat) (e : Engine) (poison piece : Bool) : (s.readTaint t e poison piece).me.qlen 8 = s.me.qlen 8 :=
  Thread.qlen_eight_congr (s.readTaint_me_qs t e poison piece)

/-- A value that is pushed to q8 with room changes the record alone. -/
theorem adrPush8_becomes {s : State} (h : s.me.qlen 8 < 16) (v : Dword) : ∃ t, adrPush8 s v = .ok t ∧ s.becomes t (s.me.pushS 8 v) :=
  ⟨_, adrPush8_of_lt h v, s.becomes_modMe fun th => th.pushS 8 v⟩

/-! ## Fences (R285, R286) -/

/-- The state after a fence that releases and acquires as said, at domain scope or below. -/
def State.fencedAt (s : State) (rel acq domain : Bool) : State :=
  let s := if rel then s.drainThread s.cur else s
  let s := if rel && domain then s.domainRelease s.me.die s.me.cid else s
  let s := s.modMe fun th => { th with fences := th.fences + 1 }
  if acq && domain then s.acquire s.cur else s

/-- A fence that need not wait has the effect of its scope, `near` below domain scope and `far` at it. -/
theorem does_fence {i : Instr} {s near far : State} {rel acq : Bool} {c : BitVec 3} (hexec : exec i s = adrFence rel acq c s) (htrap : s.me.adrTrap = none)
    (h : rel = true → s.anyUnperformed s.cur = false ∧ (c = 4 → s.homesAway s.me.die = false)) (hfar : s.fencedAt rel acq true = far)
    (hnear : s.fencedAt rel acq false = near) : Does .adr i s (if c = 4 then far else near) := by
  have hgo : ¬ (rel = true ∧ (s.anyUnperformed s.cur || (decide (c = 4) && s.homesAway s.me.die)) = true) := by
    rintro ⟨hrel, hwait⟩
    obtain ⟨hspad, hmem⟩ := h hrel
    rw [hspad, Bool.false_or, Bool.and_eq_true, decide_eq_true_eq] at hwait
    rw [hmem hwait.1] at hwait
    exact absurd hwait.2 (by decide)
  refine does_of_ok (exec_of_adrWord htrap hexec) ?_
  rw [if_neg hgo, ← hfar, ← hnear]
  by_cases hc : c = 4 <;> simp only [hc, State.fencedAt, and_true, and_false, Bool.and_true, Bool.and_false, if_true, if_false, Bool.false_eq_true]

/-! ## Handle waits (R315) -/

/-- The value of a handle as hwait.st gives it. -/
def Handle.status (x : Handle) : Dword := BitVec.ofNat 64 (x.wp + x.st.code * 2 ^ 32)

/-- A handle of the gang, or a free one, that has come as far as the operand says or fills no more is not waited for. -/
theorem adrHwait_meets {s : State} {st : Bool} {h a : BitVec 6} (htrap : s.me.adrTrap = none) : let x := s.handle s.me.cluster h.toNat
    let op := s.me.rs .adr a
    bits op 24 40 = 0 → (x.st = .free ∨ x.foreign s.me.gang = false) → (field op 0 24 ≤ x.wp ∨ x.st ≠ .filling ∧ x.st ≠ .parked) →
    adrHwait st h a s = finish .adr s (if st then adrPush8 s x.status else .ok s) := by
  intro x op hbits hown hmet
  have hown : ¬ (x.st ≠ .free ∧ x.foreign s.me.gang = true) := by
    rintro ⟨hfree, hforeign⟩
    obtain h | h := hown
    · exact hfree h
    · rw [h] at hforeign
      exact absurd hforeign (by decide)
  have hmet : field op 0 24 ≤ x.wp ∨ x.st = .free ∨ x.st = .full ∨ x.st = .draining ∨ x.st = .aborted := by
    obtain hwp | ⟨hfilling, hparked⟩ := hmet
    · exact .inl hwp
    · cases hst : x.st <;> simp_all
  unfold adrHwait
  rw [adrWord_none _ _ htrap]
  dsimp only
  rw [if_neg (not_not.2 hbits), if_neg hown, if_pos hmet]
  rfl

/-- Settles O11: each word by its own meaning, its checks passed; a fence and a handle wait by what their one definition does. -/
theorem accessWordsOnScalarsHaveTheirEffect : Obligations.AccessWordsOnScalarsHaveTheirEffect := by
  unfold Obligations.AccessWordsOnScalarsHaveTheirEffect
  intro s s1 d a h c n sl p x as th w k op dw rel dom past performed placed ext hd met htrap
  refine ⟨?capt, ?sld, ?sst, ?ldq, does_of_ok (exec_of_adrWord htrap (exec_prefL a s)) rfl, does_of_ok (exec_of_adrWord htrap (exec_prefT n a s)) rfl,
    ?acq, ?rel, ?full, ?hwait, ?hwaitSt⟩
  case capt =>
    intro hcapt
    refine does_of_ok (exec_of_adrWord htrap (exec_capt n sl s)) ?_
    dsimp only
    rw [hcapt]
  case sld =>
    rintro ⟨hplace, halign, hphase⟩ hread hroom seen
    have hnotFull : s.me.qfull 8 = false := qfull_eight_of_lt hroom
    obtain ⟨t, ht, hbecomes⟩ := adrPush8_becomes (s := seen) (by rwa [readTaint_qlen_eight]) (ext (leNat x.1))
    refine ends_of_ok (exec_of_adrWord htrap (exec_sld a c s)) ?_ hbecomes
    simp only [show s.spadOperand s.cur .adr (s.me.rs .adr a) (widthBytes c) (adrBad (s.me.rs .adr a)) = .ok p from hplace, bind, Except.bind,
      show adrAlign s p (widthBytes c) = .ok () from adrAlign_of_dvd s halign, show adrPhase s p (widthBytes c) false = .ok () from adrPhase_of_none hphase,
      show s.spadRead s.cur .adr p (widthBytes c) = .ok x from hread, hnotFull, Bool.not_false, Bool.and_true]
    exact ht
  case sst =>
    rintro ⟨hplace, halign, hphase⟩
    refine does_of_ok (exec_of_adrWord htrap (exec_sst d a c s)) ?_
    simp only [show s.spadOperand s.cur .adr (s.me.rs .adr a) (widthBytes c) (adrBad (s.me.rs .adr a)) = .ok p from hplace, bind, Except.bind,
      show adrAlign s p (widthBytes c) = .ok () from adrAlign_of_dvd s halign, show adrPhase s p (widthBytes c) true = .ok () from adrPhase_of_none hphase]
    rfl
  case ldq =>
    intro halign hroom hacc got seen
    have hload : MemOnly s1 got.2 := (loadAccs_step w as s1).1
    have hqlen : seen.me.qlen 8 = s.me.qlen 8 := by
      rw [readTaint_qlen_eight, hload.me, (accessLin_tlb hacc).keeps.2.2.2.2.1]
    obtain ⟨t, ht, hbecomes⟩ := adrPush8_becomes (s := seen) (by rwa [hqlen]) (ext (leNat got.1.1))
    refine ends_of_ok (exec_of_adrWord htrap (exec_ldq a c s)) ?_ hbecomes
    have hnotFull : s.me.qfull 8 = false := qfull_eight_of_lt hroom
    simp only [show adrAlign s (s.me.rs .adr a).toNat (widthBytes c) = .ok () from adrAlign_of_dvd s halign, bind, Except.bind,
      hnotFull, Bool.false_eq_true, if_false,
      show s.accessLin s.adrIssuer (s.me.rs .adr a).toNat (widthBytes c) false 0 = .ok (as, s1) from hacc]
    rw [← hload.cur]
    exact ht
  case acq => exact does_fence (exec_fenceAcq c s) htrap (fun h => absurd h (by decide)) rfl rfl
  case rel => exact fun hperformed => does_fence (exec_fenceRel c s) htrap (fun _ => hperformed) rfl rfl
  case full => exact fun hperformed => does_fence (exec_fenceFull c s) htrap (fun _ => hperformed) rfl rfl
  case hwait =>
    rintro ⟨hbits, hown, hmet⟩
    exact does_of_ok (adrHwait_meets (st := false) htrap hbits hown hmet) rfl
  case hwaitSt =>
    rintro ⟨hbits, hown, hmet⟩ hroom
    exact does_of_ok (adrHwait_meets (st := true) htrap hbits hown hmet) (adrPush8_of_lt hroom _)

end Sys2Proof.Machine
end

section
/-! SUPPORT. What a word of ADR keeps of its thread from unit to unit, and how it is taken up again (R299, R301). -/

namespace Sys2Proof.Machine

/-! ## What a transfer leaves of a thread -/

/-- `th'` is `th` but for what a transfer of ADR changes: its progress, what it contributes, and the row queues. -/
def Thread.Carries (th th' : Thread) : Prop := th' = { th with adr := th'.adr, contrib := th'.contrib, qr := th'.qr }

theorem Thread.Carries.refl (th : Thread) : th.Carries th := rfl

theorem Thread.Carries.trans {a b c : Thread} (h : a.Carries b) (k : b.Carries c) : a.Carries c := by
  unfold Thread.Carries at *; rw [k, h]

/-- What reads nothing of a transfer's progress, contribution and row queues has one value before and after. -/
theorem Thread.Carries.keeps {α : Type} {th th' : Thread} (h : th.Carries th') (g : Thread → α)
    (hg : ∀ (x : Thread) a c q, g { x with adr := a, contrib := c, qr := q } = g x) : g th' = g th := by
  rw [h, hg]

/-- `t` has the threads of `s` but for what a transfer of ADR changes. -/
structure State.Carries (s t : State) : Prop where
  cur : t.cur = s.cur
  thr : ∀ k, (s.thr k).Carries (t.thr k)

theorem State.Carries.refl (s : State) : s.Carries s := ⟨rfl, fun _ => .refl _⟩

theorem State.Carries.trans {s t u : State} (h : s.Carries t) (k : t.Carries u) : s.Carries u :=
  ⟨k.cur.trans h.cur, fun j => (h.thr j).trans (k.thr j)⟩

theorem State.Carries.me {s t : State} (h : s.Carries t) : s.me.Carries t.me := by
  unfold State.me; rw [h.cur]; exact h.thr s.cur

theorem State.Carries.modThr (s : State) (t : Nat) {f : Thread → Thread} (hf : ∀ th : Thread, th.Carries (f th)) : s.Carries (s.modThr t f) := by
  refine ⟨rfl, fun k => ?_⟩
  by_cases hk : k = t
  · rw [hk, State.thr_modThr_same]
    exact hf _
  · rw [State.thr_modThr_other _ _ _ _ hk]
    exact .refl _

theorem State.Carries.modMe (s : State) {f : Thread → Thread} (hf : ∀ th : Thread, th.Carries (f th)) : s.Carries (s.modMe f) := .modThr s s.cur hf

theorem MemOnly.carries {s t : State} (h : MemOnly s t) : s.Carries t := ⟨h.cur, fun k => by rw [h.keeps.2.2.2.2]; exact .refl _⟩

theorem TlbOnly.carries {s t : State} (h : TlbOnly s t) : s.Carries t := by
  obtain ⟨-, hcur, -, -, -, hthr⟩ := h.keeps
  exact ⟨hcur, fun k => by rw [hthr]; exact .refl _⟩

theorem TlbOnly.me {s t : State} (h : TlbOnly s t) : t.me = s.me := h.keeps.2.2.2.2.1

theorem taint_carries (s : State) (t : Nat) (e : Engine) (r : BitVec 8) : s.Carries (s.taint t e r) :=
  .modThr s t (f := fun th => { th with contrib := th.contrib.join { rank := 2, reason := r, pc := (s.thr t).pc e, clk := s.clk } }) fun _ => rfl

theorem readTaint_carries (s : State) (t : Nat) (e : Engine) (poison piece : Bool) : s.Carries (s.readTaint t e poison piece) := by
  cases poison <;> cases piece
  · exact .refl s
  · exact taint_carries ..
  · exact taint_carries ..
  · exact (taint_carries ..).trans (taint_carries ..)

/-- Tainting a thread leaves the progress of every transfer. -/
@[simp] theorem State.me_adr_taint (s : State) (t : Nat) (e : Engine) (r : BitVec 8) : (s.taint t e r).me.adr = s.me.adr :=
  State.modThr_keeps Thread.adr s t (fun th => { th with contrib := th.contrib.join { rank := 2, reason := r, pc := (s.thr t).pc e, clk := s.clk } })
    (fun _ => rfl) s.cur

@[simp] theorem readTaint_me_adr (s : State) (t : Nat) (e : Engine) (poison piece : Bool) : (s.readTaint t e poison piece).me.adr = s.me.adr :=
  s.readTaint_keeps_state (fun s => s.me.adr) State.me_adr_taint t e poison piece

@[simp] theorem State.me_qr_taint (s : State) (t : Nat) (e : Engine) (r : BitVec 8) : (s.taint t e r).me.qr = s.me.qr :=
  State.modThr_keeps Thread.qr s t (fun th => { th with contrib := th.contrib.join { rank := 2, reason := r, pc := (s.thr t).pc e, clk := s.clk } })
    (fun _ => rfl) s.cur

@[simp] theorem readTaint_me_qr (s : State) (t : Nat) (e : Engine) (poison piece : Bool) : (s.readTaint t e poison piece).me.qr = s.me.qr :=
  s.readTaint_keeps_state (fun s => s.me.qr) State.me_qr_taint t e poison piece

/-- A write to scratchpad changes no thread before its clock. -/
theorem spadIssue_carries (s : State) (t : Nat) (e : Engine) (a : Nat) (bs : List Byte) (lat : Nat) : s.Carries (s.spadIssue t e a bs lat) :=
  ⟨rfl, fun _ => .refl _⟩

@[simp] theorem spadIssue_me (s : State) (t : Nat) (e : Engine) (a : Nat) (bs : List Byte) (lat : Nat) : (s.spadIssue t e a bs lat).me = s.me := rfl

/-- What is written to scratchpad does not depend on how far a transfer has come. -/
theorem spadIssue_modMe (s : State) {f : Thread → Thread} (hf : ∀ th : Thread, th.Carries (f th)) (e : Engine) (a : Nat) (bs : List Byte) (lat : Nat) :
    (s.modMe f).spadIssue s.cur e a bs lat = (s.spadIssue s.cur e a bs lat).modMe f := by
  have hthr : (s.modMe f).thr s.cur = f (s.thr s.cur) := State.thr_modThr_same ..
  have hcluster : (f (s.thr s.cur)).cluster = (s.thr s.cur).cluster := (hf _).keeps Thread.cluster fun _ _ _ _ => rfl
  have hcore : (f (s.thr s.cur)).core = (s.thr s.cur).core := (hf _).keeps Thread.core fun _ _ _ _ => rfl
  have hord : (f (s.thr s.cur)).headOrd e = (s.thr s.cur).headOrd e := (hf _).keeps (·.headOrd e) fun _ _ _ _ => rfl
  unfold State.spadIssue State.spadAct
  dsimp only
  rw [hthr, hcluster, hcore, hord]
  rfl

/-- Of an update that looks at the current thread only its value there counts. -/
theorem State.modMe_congr {s : State} {f g : Thread → Thread} (h : f s.me = g s.me) : s.modMe f = s.modMe g :=
  congrArg (fun th => { s with threads := s.threads.set s.cur th }) h

/-! ## How a word of ADR ends and is taken up again -/

theorem newObj_congr {b b' : Thread} (h : b'.sb = b.sb) (th : Thread) (a : TextAddr) (e : Engine) : newObj b' th a e = newObj b th a e := by
  unfold newObj; rw [h]

/-- Of the state in which a word of ADR is taken up, how it ends depends on the scoreboard alone. -/
theorem finish_adr_congr {s t : State} (h : s.Carries t) (r : Except Exit State) : finish .adr t r = finish .adr s r := by
  rcases r with ⟨i, u⟩ | u
  · rfl
  · rfl
  · have hsb : (t.thr u.cur).sb = (s.thr u.cur).sb := (h.thr u.cur).keeps Thread.sb fun _ _ _ _ => rfl
    simp only [finish_ok, State.retire, reduceCtorEq, if_false, newObj_congr hsb]

/-- The checks of a word that has made them are not made again (R301). -/
theorem adrOnce_of_checked {s : State} (h : s.me.adr.checked = true) (r : Except Exit Unit) : adrOnce s r = .ok s := by
  unfold adrOnce Thread.adrFresh; rw [h]; rfl

/-- A word whose checks pass stands where it stood. -/
theorem adrOnce_passes {s sc : State} {r : Except Exit Unit} (h : adrOnce s r = .ok sc) :
    s.Carries sc ∧ sc.me.adr = { s.me.adr with checked := true } ∧ sc.me.qr = s.me.qr := by
  unfold adrOnce Thread.adrFresh at h
  cases hc : s.me.adr.checked with
  | true =>
    rw [hc] at h
    obtain rfl : s = sc := Except.ok.inj h
    exact ⟨.refl s, by rw [← hc], rfl⟩
  | false =>
    rw [hc] at h
    obtain ⟨-, -, h⟩ := bind_ok h
    obtain rfl := Except.ok.inj h
    exact ⟨.modMe s fun _ => rfl, by rw [State.me_modMe], by rw [State.me_modMe]⟩

/-- The word `i`, whose checks have led from `s` to `sc`, goes on by `body` there and in every state in which it is taken up again. -/
structure Runs (i : Instr) (s sc : State) (body : State → Except Exit State) : Prop where
  carries : s.Carries sc
  adr : sc.me.adr = { s.me.adr with checked := true }
  qr : sc.me.qr = s.me.qr
  here : exec i s = finish .adr s (body sc)
  later : ∀ t, s.Carries t → t.me.adr.checked = true → exec i t = finish .adr s (body t)

/-- A word that makes its checks once runs by what stands behind them. -/
theorem runs_of_exec {i : Instr} {s sc : State} {chk : State → Except Exit Unit} {rest : State → State → Except Exit State}
    {body : State → Except Exit State} (hexec : ∀ t, exec i t = adrWord t (adrOnce t (chk t) >>= rest t))
    (hrest : ∀ t x, s.Carries t → s.Carries x → rest t x = body x) (htrap : s.me.adrTrap = none) (hsc : adrOnce s (chk s) = .ok sc) : Runs i s sc body := by
  obtain ⟨hcarries, hadr, hqr⟩ := adrOnce_passes hsc
  refine ⟨hcarries, hadr, hqr, ?_, fun t ht hchecked => ?_⟩
  · rw [hexec, adrWord_none _ _ htrap, hsc]
    exact congrArg (finish .adr s) (hrest s sc (.refl s) hcarries)
  · have htrapT : t.me.adrTrap = none := (ht.me.keeps Thread.adrTrap fun _ _ _ _ => rfl).trans htrap
    rw [hexec, adrWord_none _ _ htrapT, adrOnce_of_checked hchecked, finish_adr_congr ht]
    exact congrArg (finish .adr s) (hrest t t ht ht)

theorem Runs.goesOn {i : Instr} {s sc t : State} {body : State → Except Exit State} (h : Runs i s sc body) (ht : s.Carries t)
    (hchecked : t.me.adr.checked = true) (hbody : body sc = body t) : exec i s = exec i t := by
  rw [h.here, h.later t ht hchecked, hbody]

theorem Runs.ends {i : Instr} {s sc z : State} {body : State → Except Exit State} {P : State → Prop} (h : Runs i s sc body) (hbody : body sc = .ok z)
    (hz : P z) : Ends .adr i s P := ends_of_ok h.here hbody hz

/-- A thread without the progress of a transfer. -/
def Thread.finished (th : Thread) : Thread := { th with adr := default }

theorem Thread.finished_withAdr (th : Thread) (a : Resume) : { th with adr := a }.finished = th.finished := rfl

theorem Thread.finished_unitDone (th : Thread) : th.unitDone.finished = th.finished := th.finished_withAdr _

theorem Thread.finished_rowDone (th : Thread) : th.rowDone.finished = th.finished := th.finished_withAdr _

theorem Thread.finished_pushR (th : Thread) (q : Nat) (r : Row) : (th.pushR q r).finished = th.finished.pushR q r := rfl

/-- A word that is done keeps nothing of its progress. -/
theorem becomes_adrDone {s t : State} {th : Thread} (h : s.becomes t th) : s.becomes t.adrDone th.finished := h.mod Thread.finished

end Sys2Proof.Machine
end

section
/-! SUPPORT. The rows of a transfer (R299, R306): a row is taken up at the unit it stands at, and the fuel that bounds rows, pushes and pops never ends them. -/

namespace Sys2Proof.Machine

theorem bind_congr_of_ok {ε α β : Type} {x : Except ε α} {f g : α → Except ε β} (h : ∀ a, x = .ok a → f a = g a) : (x >>= f) = (x >>= g) := by
  cases x with
  | error _ => rfl
  | ok a => exact h a rfl

/-! ## Queue ends (R306) -/

/-- The next row of the packed result is pushed to q2. -/
def Thread.rowPushed (th : Thread) : Thread :=
  { th.pushR 2 (rowOfBytes (th.adr.bytes.getRange (512 * th.adr.pushed) 512)) with adr := { th.adr with pushed := th.adr.pushed + 1 } }

theorem Thread.finished_rowPushed {th : Thread} {k : Nat} {b : Tab Byte} (h : th.adr.pushed = k) (hb : th.adr.bytes = b) :
    th.rowPushed.finished = (th.pushR 2 (rowOfBytes (b.getRange (512 * k) 512))).finished := by
  subst h hb
  exact Thread.finished_withAdr _ _

/-- A row is popped from q3. -/
def Thread.rowPopped (row : Row) (th : Thread) : Thread := { th.dropR 3 with adr := { th.adr with rows := th.adr.rows ++ [row] } }

theorem qfull_two_of_lt {th : Thread} (h : th.qlen 2 < 8) : th.qfull 2 = false := decide_eq_false (Nat.not_le.2 h)

theorem Thread.qlen_two_congr {th th' : Thread} (h : th'.qr = th.qr) : th'.qlen 2 = th.qlen 2 := by
  unfold Thread.qlen; rw [if_pos (by decide), if_pos (by decide), h]

theorem adrPushTo_of_le {n : Nat} {s : State} (h : n ≤ s.me.adr.pushed) (fuel : Nat) : adrPushTo n fuel s = .ok s := by
  cases fuel with
  | zero => rfl
  | succ _ => exact if_pos h

theorem adrPushTo_of_lt {n : Nat} {s : State} (h : s.me.adr.pushed < n) (hroom : s.me.qlen 2 < 8) (fuel : Nat) :
    adrPushTo n (fuel + 1) s = adrPushTo n fuel (s.modMe Thread.rowPushed) := by
  rw [adrPushTo, if_neg (Nat.not_le.2 h), adrPushRow, qfull_two_of_lt hroom]
  refine congrArg (adrPushTo n fuel) (State.modMe_congr ?_)
  rfl

/-- What a push of a row leaves: one row more. -/
theorem adrPushRow_pushed {s t : State} {r : Row} (h : adrPushRow s r = .ok t) : t.me.adr = { s.me.adr with pushed := s.me.adr.pushed + 1 } := by
  unfold adrPushRow at h
  split at h
  · cases h
  · obtain rfl := Except.ok.inj h
    rw [State.me_modMe]

/-- Fuel beyond the rows to push changes nothing. -/
theorem adrPushTo_succ (n fuel : Nat) : ∀ s : State, n ≤ s.me.adr.pushed + fuel → adrPushTo n (fuel + 1) s = adrPushTo n fuel s := by
  induction fuel with
  | zero => exact fun s h => if_pos h
  | succ fuel ih =>
    intro s h
    rw [adrPushTo, adrPushTo]
    refine ite_congr rfl (fun _ => rfl) fun _ => bind_congr_of_ok fun t ht => ih t ?_
    rw [adrPushRow_pushed ht]
    dsimp only
    omega

theorem adrPushTo_row {n fuel : Nat} : ∀ {s t : State}, adrPushTo n fuel s = .ok t → t.me.adr.row = s.me.adr.row := by
  induction fuel with
  | zero => intro s t h; cases h; rfl
  | succ fuel ih =>
    intro s t h
    rw [adrPushTo] at h
    split at h
    · cases h; rfl
    · obtain ⟨u, hu, h⟩ := bind_ok h
      rw [ih h, adrPushRow_pushed hu]

theorem adrPopTo_of_le {n : Nat} {s : State} (h : n ≤ s.me.adr.rows.length) (fuel : Nat) : adrPopTo n fuel s = .ok s := by
  cases fuel with
  | zero => rfl
  | succ _ => exact if_pos h

theorem adrPopTo_of_lt {n : Nat} {s : State} {row : Row} {rest : List Row} (h : s.me.adr.rows.length < n) (hq : s.me.qr.get 3 = row :: rest) (fuel : Nat) :
    adrPopTo n (fuel + 1) s = adrPopTo n fuel (s.modMe (Thread.rowPopped row)) := by
  rw [adrPopTo, if_neg (Nat.not_le.2 h), hq]
  rfl

@[simp] theorem Thread.rowPopped_length (row : Row) (th : Thread) : (th.rowPopped row).adr.rows.length = th.adr.rows.length + 1 := List.length_append

/-- Fuel beyond the rows to pop changes nothing. -/
theorem adrPopTo_succ (n fuel : Nat) : ∀ s : State, n ≤ s.me.adr.rows.length + fuel → adrPopTo n (fuel + 1) s = adrPopTo n fuel s := by
  induction fuel with
  | zero => exact fun s h => if_pos h
  | succ fuel ih =>
    intro s h
    by_cases hn : n ≤ s.me.adr.rows.length
    · rw [adrPopTo_of_le hn, adrPopTo_of_le hn]
    · cases hq : s.me.qr.get 3 with
      | nil => rw [adrPopTo, adrPopTo, if_neg hn, if_neg hn, hq]
      | cons row rest =>
        rw [adrPopTo_of_lt (Nat.not_le.1 hn) hq, adrPopTo_of_lt (Nat.not_le.1 hn) hq]
        refine ih _ ?_
        rw [State.me_modMe, Thread.rowPopped_length]
        omega

theorem adrPopTo_row {n fuel : Nat} : ∀ {s t : State}, adrPopTo n fuel s = .ok t → t.me.adr.row = s.me.adr.row := by
  induction fuel with
  | zero => intro s t h; cases h; rfl
  | succ fuel ih =>
    intro s t h
    rw [adrPopTo] at h
    split at h
    · cases h; rfl
    · split at h
      · cases h
      · rw [ih h, State.me_modMe]

/-! ## Transfers -/

/-- A transfer of `total` rows: the units of a row, what one unit does, the end of a row, and what follows the last row. -/
structure Transfer where
  total : Nat
  units : State → Nat → Except Exit (List AUnit × State)
  unit : State → AUnit → Except Exit State
  close : State → Nat → List AUnit → Except Exit State
  last : State → Except Exit State

/-- The rows of a transfer from the row it stands at, as ADR performs them. -/
def Transfer.rows (T : Transfer) (fuel : Nat) (s : State) : Except Exit State := adrRows T.total T.units T.unit T.close fuel s

/-- A word that performs a transfer, its checks made. -/
def Transfer.body (T : Transfer) (s : State) : Except Exit State := do
  let s ← T.rows (T.total + 1) s
  let s ← T.last s
  .ok s.adrDone

/-- A load of `n` rows of `R` bytes, to scratchpad or to q2. -/
def loadTransfer (dst : Option Dword) (ord n R : Nat) (units : State → Nat → Except Exit (List AUnit × State)) : Transfer :=
  { total := n, units := units, unit := fun s u => adrLoadUnit s dst ord u, close := adrCloseLoad dst R,
    last := fun s => match dst with | some _ => .ok s | none => adrPushTo ((n * R + 511) / 512) 2 s }

/-- A store of `n` rows of `R` bytes, from scratchpad or from q3. -/
def storeTransfer (src : Option Dword) (ord n R : Nat) (units : State → Nat → Except Exit (List AUnit × State)) : Transfer :=
  { total := n, units := units, unit := fun s u => adrStoreUnit s src ord u, close := fun s _ _ => .ok s,
    last := fun s => match src with | some _ => .ok s | none => adrPopTo ((n * R + 511) / 512) ((n * R + 511) / 512 + 1) s }

theorem adrLoadRows_eq_body (s : State) (dst : Option Dword) (ord n R : Nat) (units : State → Nat → Except Exit (List AUnit × State)) :
    adrLoadRows s dst ord n R units = (loadTransfer dst ord n R units).body s := by
  cases dst <;> rfl

theorem adrStoreRows_eq_body (s : State) (src : Option Dword) (ord n R : Nat) (units : State → Nat → Except Exit (List AUnit × State)) :
    adrStoreRows s src ord n R units = (storeTransfer src ord n R units).body s := by
  cases src <;> rfl

/-- Nothing in a row moves the transfer to another row. -/
structure Transfer.KeepsRow (T : Transfer) : Prop where
  units : ∀ {s t : State} {r : Nat} {us : List AUnit}, T.units s r = .ok (us, t) → t.me.adr.row = s.me.adr.row
  unit : ∀ {s t : State} {u : AUnit}, T.unit s u = .ok t → t.me.adr.row = s.me.adr.row
  close : ∀ {s t : State} {r : Nat} {us : List AUnit}, T.close s r us = .ok t → t.me.adr.row = s.me.adr.row

theorem adrUnits_row {f : State → AUnit → Except Exit State} (hf : ∀ {s t : State} {u : AUnit}, f s u = .ok t → t.me.adr.row = s.me.adr.row) {us : List AUnit} :
    ∀ {s t : State}, adrUnits f us s = .ok t → t.me.adr.row = s.me.adr.row := by
  induction us with
  | nil => intro s t h; cases h; rfl
  | cons u us ih =>
    intro s t h
    obtain ⟨x, hx, h⟩ := bind_ok h
    rw [ih h, hf hx]

theorem Transfer.rows_done {T : Transfer} {s : State} (h : T.total ≤ s.me.adr.row) (fuel : Nat) : T.rows fuel s = .ok s := by
  cases fuel with
  | zero => rfl
  | succ _ => exact if_pos h

/-- A row: its units, its end, and the rows behind it. -/
theorem Transfer.rows_row {T : Transfer} {s : State} (h : s.me.adr.row < T.total) (fuel : Nat) :
    T.rows (fuel + 1) s = (T.units s s.me.adr.row >>= fun p => adrUnits T.unit (p.1.drop s.me.adr.sub) p.2 >>= fun x => T.close x s.me.adr.row p.1 >>= fun y =>
      T.rows fuel (y.modMe Thread.rowDone)) := if_neg (Nat.not_le.2 h)

/-- Fuel beyond the rows to come changes nothing. -/
theorem Transfer.rows_succ {T : Transfer} (hT : T.KeepsRow) (fuel : Nat) : ∀ s : State, T.total ≤ s.me.adr.row + fuel → T.rows (fuel + 1) s = T.rows fuel s := by
  induction fuel with
  | zero => exact fun s h => T.rows_done h 1
  | succ fuel ih =>
    intro s h
    by_cases hr : T.total ≤ s.me.adr.row
    · rw [T.rows_done hr, T.rows_done hr]
    · rw [T.rows_row (Nat.not_le.1 hr), T.rows_row (Nat.not_le.1 hr)]
      refine bind_congr_of_ok fun p hp => bind_congr_of_ok fun x hx => bind_congr_of_ok fun y hy => ih _ ?_
      have hrow : y.me.adr.row = s.me.adr.row := by rw [hT.close hy, adrUnits_row hT.unit hx, hT.units hp]
      rw [State.me_modMe]
      show T.total ≤ y.me.adr.row + 1 + fuel
      omega

theorem Transfer.body_done {T : Transfer} {s : State} (h : T.total ≤ s.me.adr.row) : T.body s = (T.last s >>= fun s => .ok s.adrDone) := by
  unfold Transfer.body; rw [T.rows_done h]; rfl

/-- The transfer from the row it stands at. -/
theorem Transfer.body_row {T : Transfer} (hT : T.KeepsRow) {s : State} (h : s.me.adr.row < T.total) :
    T.body s = (T.units s s.me.adr.row >>= fun p => adrUnits T.unit (p.1.drop s.me.adr.sub) p.2 >>= fun x => T.close x s.me.adr.row p.1 >>= fun y =>
      T.body (y.modMe Thread.rowDone)) := by
  unfold Transfer.body
  rw [T.rows_row h]
  simp only [bind_assoc]
  refine bind_congr_of_ok fun p hp => bind_congr_of_ok fun x hx => bind_congr_of_ok fun y hy => ?_
  rw [T.rows_succ hT]
  have hrow : y.me.adr.row = s.me.adr.row := by rw [hT.close hy, adrUnits_row hT.unit hx, hT.units hp]
  rw [State.me_modMe]
  show T.total ≤ y.me.adr.row + 1 + T.total
  omega

/-- The transfer stands in a row whose units are `us`, of which `left` are still to perform. -/
structure Transfer.At (T : Transfer) (s : State) (us left : List AUnit) : Prop where
  before : s.me.adr.row < T.total
  units : T.units s s.me.adr.row = .ok (us, s)
  left : us.drop s.me.adr.sub = left

section
variable {T : Transfer} {s t : State} {us more : List AUnit} {u : AUnit}

theorem Transfer.At.body (hT : T.KeepsRow) {left : List AUnit} (h : T.At s us left) :
    T.body s = (adrUnits T.unit left s >>= fun x => T.close x s.me.adr.row us >>= fun y => T.body (y.modMe Thread.rowDone)) := by
  rw [T.body_row hT h.before, h.units, ← h.left]
  rfl

/-- A unit that is performed leads to the state in which it is. -/
theorem Transfer.At.body_unit (hT : T.KeepsRow) (hs : T.At s us (u :: more)) (ht : T.At t us more) (hrow : t.me.adr.row = s.me.adr.row)
    (hu : T.unit s u = .ok t) : T.body s = T.body t := by
  rw [hs.body hT, ht.body hT, adrUnits, hu, hrow]
  rfl

/-- States with one next unit, which does the same in both. -/
theorem Transfer.At.body_congr (hT : T.KeepsRow) (hs : T.At s us (u :: more)) (ht : T.At t us (u :: more)) (hrow : t.me.adr.row = s.me.adr.row)
    (hu : T.unit s u = T.unit t u) : T.body s = T.body t := by
  rw [hs.body hT, ht.body hT, adrUnits, adrUnits, hu, hrow]

/-- The end of a row leads to the next. -/
theorem Transfer.At.body_close (hT : T.KeepsRow) (hs : T.At s us []) (hc : T.close s s.me.adr.row us = .ok t) : T.body s = T.body (t.modMe Thread.rowDone) := by
  rw [hs.body hT]
  show (T.close s s.me.adr.row us >>= _) = _
  rw [hc]
  rfl

/-- States at the end of a row, which ends alike in both. -/
theorem Transfer.At.body_close_congr (hT : T.KeepsRow) (hs : T.At s us []) (ht : T.At t us []) (hrow : t.me.adr.row = s.me.adr.row)
    (hc : T.close s s.me.adr.row us = T.close t s.me.adr.row us) : T.body s = T.body t := by
  rw [hs.body hT, ht.body hT, hrow]
  show (T.close s s.me.adr.row us >>= _) = (T.close t s.me.adr.row us >>= _)
  rw [hc]

/-- After the end of the last row there is only what follows it. -/
theorem Transfer.body_last {y : State} (hrow : y.me.adr.row + 1 = T.total) : T.body (y.modMe Thread.rowDone) = (T.last (y.modMe Thread.rowDone) >>= fun s => .ok s.adrDone) :=
  T.body_done (by rw [State.me_modMe]; exact Nat.le_of_eq hrow.symm)

end

end Sys2Proof.Machine
end

section
/-! SUPPORT. The units of a row and what one of them does (R304 to R308). -/

namespace Sys2Proof.Machine

/-! ## The units of a row -/

/-- The units of row `r` have been read from `sc` to `s0`, and are read again there as long as the row's index stands. -/
structure UnitsRead (units : State → Nat → Except Exit (List AUnit × State)) (sc s0 : State) (r : Nat) (us : List AUnit) : Prop where
  carries : sc.Carries s0
  adr : s0.me.adr = { sc.me.adr with index := s0.me.adr.index }
  qr : s0.me.qr = sc.me.qr
  again : ∀ t, s0.Carries t → t.me.adr.index = s0.me.adr.index → units t r = .ok (us, t)

/-- What answers units leaves them to be read again. -/
def Rereads (units : State → Nat → Except Exit (List AUnit × State)) : Prop := ∀ {sc s0 : State} {r : Nat} {us : List AUnit},
  units sc r = .ok (us, s0) → UnitsRead units sc s0 r us

/-- The units of the rows of a box. -/
def boxUnitsAt (D : Desc) (c : List Nat) (s : State) (r : Nat) : Except Exit (List AUnit × State) := .ok (D.boxUnits c r, s)

theorem boxUnitsAt_rereads (D : Desc) (c : List Nat) : Rereads (boxUnitsAt D c) := by
  intro sc s0 r us h
  obtain ⟨rfl, rfl⟩ := Prod.mk.inj (Except.ok.inj h)
  exact ⟨.refl _, rfl, rfl, fun _ _ _ => rfl⟩

/-- The coordinates of a gathered row under its index. -/
def gathCoords (th : Thread) (a : BitVec 6) (i : Nat) : List Nat :=
  [field (th.run .adr a 2) 0 32, i, field (th.run .adr a 2) 32 32, field (th.run .adr a 3) 0 32, 0]

theorem gathUnits_eq (D : Desc) (a : BitVec 6) (s : State) (j : Nat) : gathUnits D a s j = (gathIndex a s j >>= fun x =>
    .ok (D.runUnits (gathCoords x.2.me a x.1) (D.inRange (gathCoords x.2.me a x.1)) (j * D.rowBytes * 8), x.2)) := rfl

/-- The index of a row stays until the row is done (R307). -/
theorem gathIndex_keeps {a : BitVec 6} {s t : State} {j i : Nat} (h : gathIndex a s j = .ok (i, t)) :
    s.Carries t ∧ t.me.adr = { s.me.adr with index := some i } ∧ t.me.qr = s.me.qr := by
  unfold gathIndex at h
  split at h
  next x hx =>
    obtain ⟨rfl, rfl⟩ := Prod.mk.inj (Except.ok.inj h)
    exact ⟨.refl s, by rw [← hx], rfl⟩
  next =>
    obtain ⟨p, -, h⟩ := bind_ok h
    obtain ⟨x, -, h⟩ := bind_ok h
    obtain ⟨rfl, rfl⟩ := Prod.mk.inj (Except.ok.inj h)
    exact ⟨(readTaint_carries ..).trans (.modMe _ fun _ => rfl), by rw [State.me_modMe, readTaint_me_adr], by rw [State.me_modMe, readTaint_me_qr]⟩

theorem gathUnits_rereads (D : Desc) (a : BitVec 6) : Rereads (gathUnits D a) := by
  intro sc s0 r us h
  rw [gathUnits_eq] at h
  obtain ⟨⟨i, x⟩, hi, h⟩ := bind_ok h
  obtain ⟨rfl, rfl⟩ := Prod.mk.inj (Except.ok.inj h)
  obtain ⟨hcarries, hadr, hqr⟩ := gathIndex_keeps hi
  refine ⟨hcarries, by rw [hadr], hqr, fun t ht hindex => ?_⟩
  have hgath : gathIndex a t r = .ok (i, t) := by
    unfold gathIndex
    rw [hindex, hadr]
  have hcoords : gathCoords t.me a i = gathCoords x.me a i := ht.me.keeps (gathCoords · a i) fun _ _ _ _ => rfl
  rw [gathUnits_eq, hgath]
  exact congrArg (fun c => Except.ok (D.runUnits c (D.inRange c) (r * D.rowBytes * 8), t)) hcoords

theorem Rereads.row {units : State → Nat → Except Exit (List AUnit × State)} (h : Rereads units) {s t : State} {r : Nat} {us : List AUnit}
    (hu : units s r = .ok (us, t)) : t.me.adr.row = s.me.adr.row := by rw [(h hu).adr]

/-! ## A unit that does not translate -/

theorem adrHalt_ne_ok {α : Type} (s : State) (m : MemStop) (x : α) : adrHalt s m ≠ .ok x := by
  unfold adrHalt
  split
  · exact nofun
  · dsimp only
    split <;> exact nofun

/-! ## Loads -/

/-- A thread whose packed result is `b`. -/
def Thread.withBytes (b : Tab Byte) (th : Thread) : Thread := { th with adr := { th.adr with bytes := b } }

theorem Thread.finished_withBytes (th : Thread) (b : Tab Byte) : (th.withBytes b).finished = th.finished := th.finished_withAdr _

/-- The state after the pieces of a unit have been read. -/
def State.unitSeen (s1 : State) (w : Issuer) (ps : List Piece3) : State :=
  (s1.loadPieces w ps).2.readTaint s1.cur .adr (s1.loadPieces w ps).1.2.1 (s1.loadPieces w ps).1.2.2

theorem unitSeen_carries (s1 : State) (w : Issuer) (ps : List Piece3) : s1.Carries (s1.unitSeen w ps) :=
  (loadPieces_step w ps s1).1.carries.trans (readTaint_carries ..)

@[simp] theorem unitSeen_me_adr (s1 : State) (w : Issuer) (ps : List Piece3) : (s1.unitSeen w ps).me.adr = s1.me.adr := by
  rw [State.unitSeen, readTaint_me_adr, (loadPieces_step w ps s1).1.me]

@[simp] theorem unitSeen_me_qr (s1 : State) (w : Issuer) (ps : List Piece3) : (s1.unitSeen w ps).me.qr = s1.me.qr := by
  rw [State.unitSeen, readTaint_me_qr, (loadPieces_step w ps s1).1.me]

/-- The packed result with a unit's bits. -/
def State.unitBytes (s1 : State) (w : Issuer) (u : AUnit) (ps : List Piece3) : Tab Byte := putBits s1.me.adr.bytes u.box u.bits (s1.loadPieces w ps).1.1

/-- The state in which a unit's bits have gone into the packed result. -/
def State.unitKept (s1 : State) (w : Issuer) (u : AUnit) (ps : List Piece3) : State := (s1.unitSeen w ps).modMe (Thread.withBytes (s1.unitBytes w u ps))

/-- Their bytes on their way to scratchpad with latency 4 (R289). -/
def State.unitIssued (s1 : State) (w : Issuer) (u : AUnit) (ps : List Piece3) (p : Nat) : State :=
  (s1.unitKept w u ps).spadIssue (s1.unitKept w u ps).cur .adr p ((s1.unitBytes w u ps).getRange (u.box / 8) (spanBytes u.box u.bits)) 4

/-- The packed result as the word builds it. -/
theorem unitKept_eq (s1 : State) (w : Issuer) (u : AUnit) (ps : List Piece3) : s1.unitKept w u ps = (s1.unitSeen w ps).modMe fun th =>
    { th with adr := { th.adr with bytes := putBits th.adr.bytes u.box u.bits (s1.loadPieces w ps).1.1 } } := by
  refine State.modMe_congr ?_
  rw [Thread.withBytes, State.unitBytes, unitSeen_me_adr]

section
variable {s s0 s1 : State} {u : AUnit} {ps : List Piece3} {ord : Nat}

/-- A unit of a load to q2 goes into the packed result. -/
theorem adrLoadUnit_queue (h : s0.accessPieces s0.adrIssuer false ord u.pieces = .ok (ps, s1)) :
    adrLoadUnit s0 none ord u = .ok ((s1.unitKept s0.adrIssuer u ps).modMe Thread.unitDone) := by
  rw [unitKept_eq]
  unfold adrLoadUnit
  simp only [h]
  rfl

/-- A unit of a load to scratchpad goes into the packed result and to its place. -/
theorem adrLoadUnit_spad {op : Dword} {p : Nat} (h : s0.accessPieces s0.adrIssuer false ord u.pieces = .ok (ps, s1))
    (hp : adrPlace s0 op ((u.box / 8 : Nat) : Int) (spanBytes u.box u.bits) = .ok p) :
    adrLoadUnit s0 (some op) ord u = .ok ((s1.unitIssued s0.adrIssuer u ps p).modMe Thread.unitDone) := by
  have hbytes : (s1.unitKept s0.adrIssuer u ps).me.adr.bytes = s1.unitBytes s0.adrIssuer u ps := by rw [State.unitKept, State.me_modMe]; rfl
  rw [State.unitIssued, ← hbytes, unitKept_eq]
  unfold adrLoadUnit
  simp only [h, hp]
  rfl

theorem adrLoadUnit_row {dst : Option Dword} {t : State} (h : adrLoadUnit s dst ord u = .ok t) : t.me.adr.row = s.me.adr.row := by
  cases hacc : s.accessPieces s.adrIssuer false ord u.pieces with
  | error m =>
    unfold adrLoadUnit at h
    simp only [hacc] at h
    cases dst with
    | none => exact (adrHalt_ne_ok _ _ _ h).elim
    | some op =>
      obtain ⟨p, -, h⟩ := bind_ok h
      exact (adrHalt_ne_ok _ _ _ h).elim
  | ok x =>
    have hkept : (x.2.unitKept s.adrIssuer u x.1).me.adr.row = s.me.adr.row := by
      rw [State.unitKept, State.me_modMe]
      show (x.2.unitSeen s.adrIssuer x.1).me.adr.row = _
      rw [unitSeen_me_adr, (accessPieces_tlb hacc).me]
    cases dst with
    | none =>
      rw [adrLoadUnit_queue hacc] at h
      obtain rfl := Except.ok.inj h
      rw [State.me_modMe]
      exact hkept
    | some op =>
      obtain ⟨p, hp, -⟩ := bind_ok h
      rw [adrLoadUnit_spad hacc hp] at h
      obtain rfl := Except.ok.inj h
      rw [State.me_modMe]
      exact hkept

end

theorem adrCloseLoad_row {dst : Option Dword} {R r : Nat} {us : List AUnit} {s t : State} (h : adrCloseLoad dst R s r us = .ok t) :
    t.me.adr.row = s.me.adr.row := by
  cases dst with
  | none => exact adrPushTo_row h
  | some op =>
    unfold adrCloseLoad at h
    dsimp only at h
    split at h
    · obtain ⟨p, -, h⟩ := bind_ok h
      obtain rfl := Except.ok.inj h
      rfl
    · obtain rfl := Except.ok.inj h
      rfl

theorem loadTransfer_keepsRow {dst : Option Dword} {ord n R : Nat} {units : State → Nat → Except Exit (List AUnit × State)} (h : Rereads units) :
    (loadTransfer dst ord n R units).KeepsRow := ⟨h.row, adrLoadUnit_row, adrCloseLoad_row⟩

/-! ## Stores -/

theorem adrStore_mem (s : State) (w : Issuer) (p : Piece3) (bs : List Byte) : MemOnly s (s.adrStore w p bs) := by
  unfold State.adrStore
  split
  next rest _ =>
    refine foldl_all (P := fun x : State × List Byte => MemOnly s x.1) (fun x a hx => hx.trans ?_) rfl
    dsimp only
    split
    · exact (storeAcc_step ..).1
    · rfl
  next => exact MemOnly.trans (t := { s with choice := s.choice.tail }) rfl (storeAccs_step ..).1

theorem adrStores_mem (w : Issuer) (ps : List Piece3) : ∀ (s : State) (v : Nat), MemOnly s (s.adrStores w ps v) := by
  induction ps with
  | nil => exact fun s _ => .refl s
  | cons p ps ih => exact fun s v => (adrStore_mem s w p _).trans (ih _ _)

/-- The bits that a unit takes from the rows popped so far. -/
def rowBits (rows : List Row) (u : AUnit) : Nat :=
  takeBits (((rows.drop (u.box / 8 / 512)).take (spanBytes u.box u.bits / 512 + 2)).flatMap rowBytes) (u.box - u.box / 8 / 512 * 4096) u.bits

/-- The rows that a unit needs. -/
def rowsNeeded (u : AUnit) : Nat := (u.box / 8 + spanBytes u.box u.bits + 511) / 512

section
variable {s s1 : State} {u : AUnit} {ps : List Piece3} {ord : Nat}

theorem adrSource_spad {op : Dword} {p : Nat} {x : List Byte × Bool} (hp : adrPlace s op ((u.box / 8 : Nat) : Int) (spanBytes u.box u.bits) = .ok p)
    (hx : s.spadRead s.cur .adr p (spanBytes u.box u.bits) = .ok x) :
    adrSource s (some op) u = .ok (takeBits x.1 (u.box % 8) u.bits, s.readTaint s.cur .adr x.2 false) := by
  unfold adrSource
  simp only [hp, hx, bind, Except.bind]

theorem adrSource_queue (s : State) (u : AUnit) : adrSource s none u =
    (adrPopTo (rowsNeeded u) ((u.box / 8 + spanBytes u.box u.bits) / 512 + 1) s >>= fun t => .ok (rowBits t.me.adr.rows u, t)) := rfl

/-- A unit for which enough rows have been popped. -/
theorem adrSource_queue_of_le (h : rowsNeeded u ≤ s.me.adr.rows.length) : adrSource s none u = .ok (rowBits s.me.adr.rows u, s) := by
  rw [adrSource_queue, adrPopTo_of_le h]
  rfl

/-- A unit that needs a further row takes it from q3 first. -/
theorem adrSource_queue_of_lt {row : Row} {rest : List Row} (h : s.me.adr.rows.length < rowsNeeded u) (hq : s.me.qr.get 3 = row :: rest) :
    adrSource s none u = adrSource (s.modMe (Thread.rowPopped row)) none u := by
  rw [adrSource_queue, adrSource_queue, adrPopTo_of_lt h hq, adrPopTo_succ]
  rw [State.me_modMe, Thread.rowPopped_length]
  unfold rowsNeeded
  omega

/-- A unit whose bits have been taken is stored. -/
theorem adrStoreUnit_of_source {src : Option Dword} {x : State} {v : Nat} (hv : adrSource s src u = .ok (v, x))
    (h : x.accessPieces x.adrIssuer true ord u.pieces = .ok (ps, s1)) :
    adrStoreUnit s src ord u = .ok ((s1.adrStores x.adrIssuer ps v).modMe Thread.unitDone) := by
  unfold adrStoreUnit
  simp only [hv, bind, Except.bind, h]

theorem adrStoreUnit_congr {t : State} {src : Option Dword} (h : adrSource s src u = adrSource t src u) : adrStoreUnit s src ord u = adrStoreUnit t src ord u := by
  unfold adrStoreUnit
  rw [h]

theorem adrSource_row {src : Option Dword} {v : Nat} {t : State} (h : adrSource s src u = .ok (v, t)) : t.me.adr.row = s.me.adr.row := by
  cases src with
  | some op =>
    obtain ⟨p, -, h⟩ := bind_ok h
    obtain ⟨x, -, h⟩ := bind_ok h
    obtain ⟨-, rfl⟩ := Prod.mk.inj (Except.ok.inj h)
    rw [readTaint_me_adr]
  | none =>
    rw [adrSource_queue] at h
    obtain ⟨x, hx, h⟩ := bind_ok h
    obtain ⟨-, rfl⟩ := Prod.mk.inj (Except.ok.inj h)
    exact adrPopTo_row hx

theorem adrStoreUnit_row {src : Option Dword} {t : State} (h : adrStoreUnit s src ord u = .ok t) : t.me.adr.row = s.me.adr.row := by
  obtain ⟨⟨v, x⟩, hv, h⟩ := bind_ok h
  rw [← adrSource_row hv]
  dsimp only at h
  split at h
  · exact (adrHalt_ne_ok _ _ _ h).elim
  next hacc =>
    obtain rfl := Except.ok.inj h
    rw [State.me_modMe, (adrStores_mem ..).me, (accessPieces_tlb hacc).me]
    rfl

end

theorem storeTransfer_keepsRow {src : Option Dword} {ord n R : Nat} {units : State → Nat → Except Exit (List AUnit × State)} (h : Rereads units) :
    (storeTransfer src ord n R units).KeepsRow :=
  ⟨h.row, adrStoreUnit_row, fun hc => by obtain rfl := Except.ok.inj hc; rfl⟩

end Sys2Proof.Machine
end

section
/-! SUPPORT. A word that stands in a row of its transfer, and how it goes on or ends from there (R299, R301). -/

namespace Sys2Proof.Machine

/-- The word `i`, its checks made from `s` to `sc`, performs the transfer and has read the units `us` of its row from `sc` to `s0`. -/
structure Transfer.Reads (T : Transfer) (i : Instr) (s sc s0 : State) (us : List AUnit) : Prop where
  keepsRow : T.KeepsRow
  runs : Runs i s sc T.body
  read : T.units sc s.me.adr.row = .ok (us, s0)
  units : UnitsRead T.units sc s0 s.me.adr.row us

theorem Runs.reads {T : Transfer} {i : Instr} {s sc s0 : State} {us : List AUnit} (h : Runs i s sc T.body) (hT : T.KeepsRow) (hunits : Rereads T.units)
    (hread : T.units sc s.me.adr.row = .ok (us, s0)) : T.Reads i s sc s0 us := ⟨hT, h, hread, hunits hread⟩

section
variable {T : Transfer} {i : Instr} {s sc s0 : State} {us : List AUnit} (h : T.Reads i s sc s0 us)
include h

theorem Transfer.Reads.carries : s.Carries s0 := h.runs.carries.trans h.units.carries

/-- Of its progress the word has changed the checks and the index. -/
theorem Transfer.Reads.adr : s0.me.adr = { s.me.adr with checked := true, index := s0.me.adr.index } := by
  have hadr := h.units.adr
  rwa [h.runs.adr] at hadr

theorem Transfer.Reads.row : s0.me.adr.row = s.me.adr.row := by rw [h.adr]

theorem Transfer.Reads.sub : s0.me.adr.sub = s.me.adr.sub := by rw [h.adr]

theorem Transfer.Reads.bytes : s0.me.adr.bytes = s.me.adr.bytes := by rw [h.adr]

theorem Transfer.Reads.pushed : s0.me.adr.pushed = s.me.adr.pushed := by rw [h.adr]

theorem Transfer.Reads.rows : s0.me.adr.rows = s.me.adr.rows := by rw [h.adr]

theorem Transfer.Reads.qr : s0.me.qr = s.me.qr := h.units.qr.trans h.runs.qr

/-- A state with the same row and index stands in the same row. -/
theorem Transfer.Reads.at {t : State} (hr : s.me.adr.row < T.total) (ht : s0.Carries t) (hrow : t.me.adr.row = s0.me.adr.row)
    (hindex : t.me.adr.index = s0.me.adr.index) : T.At t us (us.drop t.me.adr.sub) := by
  rw [h.row] at hrow
  exact ⟨by rwa [hrow], by rw [hrow]; exact h.units.again t ht hindex, rfl⟩

theorem Transfer.Reads.at_self (hr : s.me.adr.row < T.total) : T.At s0 us (us.drop s.me.adr.sub) := by
  rw [← h.sub]
  exact h.at hr (.refl s0) rfl rfl

/-- What the word does is what is left from the state in which its row's units have been read. -/
theorem Transfer.Reads.body (hr : s.me.adr.row < T.total) : T.body sc = T.body s0 := by
  have hadr : sc.me.adr = { s.me.adr with checked := true } := h.runs.adr
  have hrow : sc.me.adr.row = s.me.adr.row := by rw [hadr]
  have hsub : sc.me.adr.sub = s.me.adr.sub := by rw [hadr]
  rw [(h.at_self hr).body h.keepsRow, T.body_row h.keepsRow (by rwa [hrow]), hrow, hsub, h.read, h.row]
  rfl

theorem Transfer.Reads.goesOn {t : State} (hr : s.me.adr.row < T.total) (ht : s0.Carries t) (hchecked : t.me.adr.checked = s0.me.adr.checked)
    (hbody : T.body s0 = T.body t) : exec i s = exec i t :=
  h.runs.goesOn (h.carries.trans ht) (by rw [hchecked, h.adr]) ((h.body hr).trans hbody)

/-- A unit that is performed leads to the next. -/
theorem Transfer.Reads.goesOn_unit {u : AUnit} {more : List AUnit} {z : State} (hl : us.drop s.me.adr.sub = u :: more) (hr : s.me.adr.row < T.total)
    (hu : T.unit s0 u = .ok (z.modMe Thread.unitDone)) (hz : s0.Carries z) (hadr : z.me.adr = { s0.me.adr with bytes := z.me.adr.bytes }) :
    exec i s = exec i (z.modMe Thread.unitDone) := by
  have hprogress : (z.modMe Thread.unitDone).me.adr = { s0.me.adr with bytes := z.me.adr.bytes, unit := s0.me.adr.unit + 1, sub := s0.me.adr.sub + 1 } := by
    rw [State.me_modMe, Thread.unitDone, hadr]
  have hcarries : s0.Carries (z.modMe Thread.unitDone) := hz.trans (.modMe z fun _ => rfl)
  have hself := h.at_self hr
  have hnext := h.at hr hcarries (by rw [hprogress]) (by rw [hprogress])
  rw [hl] at hself
  rw [hprogress, h.sub, List.drop_add_one_eq_tail_drop, hl] at hnext
  exact h.goesOn hr hcarries (by rw [hprogress]) (hself.body_unit h.keepsRow hnext (by rw [hprogress]) hu)

/-- A row that ends leads to the next. -/
theorem Transfer.Reads.goesOn_row {z : State} (hl : us.drop s.me.adr.sub = []) (hr : s.me.adr.row < T.total) (hc : T.close s0 s.me.adr.row us = .ok z)
    (hz : s0.Carries z) (hchecked : z.me.adr.checked = s0.me.adr.checked) : exec i s = exec i (z.modMe Thread.rowDone) := by
  have hself := h.at_self hr
  rw [hl] at hself
  refine h.goesOn hr (hz.trans (.modMe z fun _ => rfl)) (by rw [State.me_modMe]; exact hchecked) (hself.body_close h.keepsRow ?_)
  rw [h.row]
  exact hc

/-- The word ends from the last units of its last row. -/
theorem Transfer.Reads.ends {x z : State} {P : State → Prop} (hr : s.me.adr.row < T.total) (hx : adrUnits T.unit (us.drop s.me.adr.sub) s0 = .ok x)
    (hrest : (T.close x s.me.adr.row us >>= fun y => T.body (y.modMe Thread.rowDone)) = .ok z) (hz : P z) : Ends .adr i s P := by
  refine h.runs.ends ?_ hz
  rw [h.body hr, (h.at_self hr).body h.keepsRow, hx, h.row]
  exact hrest

/-- The word ends with the end of its last row, where nothing follows it. -/
theorem Transfer.Reads.ends_last {x y z : State} {th th' : Thread} (hr : s.me.adr.row + 1 = T.total)
    (hx : adrUnits T.unit (us.drop s.me.adr.sub) s0 = .ok x) (hc : T.close x s.me.adr.row us = .ok y)
    (hlast : T.last (y.modMe Thread.rowDone) = .ok (y.modMe Thread.rowDone)) (hz : z.becomes y th) (hth : th.finished = th'.finished) :
    Ends .adr i s fun t => z.becomes t th'.finished := by
  have hrow : y.me.adr.row + 1 = T.total := by
    rw [h.keepsRow.close hc, adrUnits_row h.keepsRow.unit hx, h.row]
    exact hr
  have hdone : z.becomes (y.modMe Thread.rowDone).adrDone th'.finished := by
    rw [← hth, ← th.finished_rowDone]
    exact becomes_adrDone (hz.mod Thread.rowDone)
  refine h.ends (Nat.lt_of_succ_le (Nat.le_of_eq hr)) hx ?_ hdone
  rw [hc]
  show T.body (y.modMe Thread.rowDone) = _
  rw [T.body_last hrow, hlast]
  rfl

end

/-! ## Words that transfer boxes and gathered rows (R304 to R308) -/

section
variable {i : Instr} {s sc s0 : State} {us : List AUnit} {n : BitVec 3} {a : BitVec 6} {op : Option (BitVec 6)}

/-- The descriptor of a word is the same wherever it is taken up. -/
theorem State.Carries.slotDesc {s t : State} (h : s.Carries t) (n : BitVec 3) : t.me.slotDesc n = s.me.slotDesc n := h.me.keeps (·.slotDesc n) fun _ _ _ _ => rfl

theorem State.Carries.operand {s t : State} (h : s.Carries t) (op : Option (BitVec 6)) :
    (op.map fun d => t.me.rs .adr d) = op.map fun d => s.me.rs .adr d := h.me.keeps (fun th => op.map fun d => th.rs .adr d) fun _ _ _ _ => rfl

theorem State.Carries.boxCoords {s t : State} (h : s.Carries t) (a : BitVec 6) : boxCoords t.me a = boxCoords s.me a :=
  h.me.keeps (Machine.boxCoords · a) fun _ _ _ _ => rfl

theorem State.Carries.run {s t : State} (h : s.Carries t) (a : BitVec 6) (k : Nat) : t.me.run .adr a k = s.me.run .adr a k :=
  h.me.keeps (·.run .adr a k) fun _ _ _ _ => rfl

/-- A word over a descriptor and an operand runs by what it does with both. -/
theorem runs_of_slot {chk : State → Desc → Option Dword → Except Exit Unit} {rest : Desc → Option Dword → State → Except Exit State}
    {body : State → Except Exit State}
    (hexec : ∀ t, exec i t = adrWord t (adrOnce t (chk t (t.me.slotDesc n) (op.map fun d => t.me.rs .adr d)) >>=
      rest (t.me.slotDesc n) (op.map fun d => t.me.rs .adr d)))
    (hrest : ∀ x, s.Carries x → rest (s.me.slotDesc n) (op.map fun d => s.me.rs .adr d) x = body x) (htrap : s.me.adrTrap = none)
    (hsc : adrOnce s (chk s (s.me.slotDesc n) (op.map fun d => s.me.rs .adr d)) = .ok sc) : Runs i s sc body := by
  refine runs_of_exec (chk := fun t => chk t (t.me.slotDesc n) (op.map fun d => t.me.rs .adr d))
    (rest := fun t => rest (t.me.slotDesc n) (op.map fun d => t.me.rs .adr d)) hexec (fun t x ht hx => ?_) htrap hsc
  rw [ht.slotDesc, ht.operand, hrest x hx]

theorem tld_reads (hexec : ∀ t, exec i t = adrTld op n a t) (htrap : s.me.adrTrap = none)
    (hsc : adrOnce s (boxChecks s (s.me.slotDesc n) a (op.map fun d => s.me.rs .adr d) true) = .ok sc) : let D := s.me.slotDesc n
    (loadTransfer (op.map fun d => s.me.rs .adr d) D.ord D.boxRows D.rowBytes (boxUnitsAt D (boxCoords s.me a))).Reads i s sc sc
      (D.boxUnits (boxCoords s.me a) s.me.adr.row) := by
  intro D
  refine (runs_of_slot (chk := fun t D o => boxChecks t D a o true)
    (rest := fun D o x => adrLoadRows x o D.ord D.boxRows D.rowBytes (boxUnitsAt D (boxCoords x.me a))) hexec (fun x hx => ?_) htrap hsc).reads
    (loadTransfer_keepsRow (boxUnitsAt_rereads D _)) (boxUnitsAt_rereads D _) rfl
  rw [hx.boxCoords, adrLoadRows_eq_body]

theorem tst_reads (hexec : ∀ t, exec i t = adrTst op n a t) (htrap : s.me.adrTrap = none)
    (hsc : adrOnce s (boxChecks s (s.me.slotDesc n) a (op.map fun d => s.me.rs .adr d) false) = .ok sc) : let D := s.me.slotDesc n
    (storeTransfer (op.map fun d => s.me.rs .adr d) D.ord D.boxRows D.rowBytes (boxUnitsAt D (boxCoords s.me a))).Reads i s sc sc
      (D.boxUnits (boxCoords s.me a) s.me.adr.row) := by
  intro D
  refine (runs_of_slot (chk := fun t D o => boxChecks t D a o false)
    (rest := fun D o x => adrStoreRows x o D.ord D.boxRows D.rowBytes (boxUnitsAt D (boxCoords x.me a))) hexec (fun x hx => ?_) htrap hsc).reads
    (storeTransfer_keepsRow (boxUnitsAt_rereads D _)) (boxUnitsAt_rereads D _) rfl
  rw [hx.boxCoords, adrStoreRows_eq_body]

theorem gld_reads (hexec : ∀ t, exec i t = adrGld op n a t) (htrap : s.me.adrTrap = none)
    (hsc : adrOnce s (gathChecks s (s.me.slotDesc n) a (op.map fun d => s.me.rs .adr d) true) = .ok sc)
    (hread : gathUnits (s.me.slotDesc n) a sc s.me.adr.row = .ok (us, s0)) : let D := s.me.slotDesc n
    (loadTransfer (op.map fun d => s.me.rs .adr d) D.ord (field (s.me.run .adr a 1) 0 32) D.rowBytes (gathUnits D a)).Reads i s sc s0 us := by
  intro D
  refine (runs_of_slot (chk := fun t D o => gathChecks t D a o true)
    (rest := fun D o x => adrLoadRows x o D.ord (field (x.me.run .adr a 1) 0 32) D.rowBytes (gathUnits D a)) hexec (fun x hx => ?_) htrap hsc).reads
    (loadTransfer_keepsRow (gathUnits_rereads D a)) (gathUnits_rereads D a) hread
  rw [hx.run, adrLoadRows_eq_body]

theorem gst_reads (hexec : ∀ t, exec i t = adrGst op n a t) (htrap : s.me.adrTrap = none)
    (hsc : adrOnce s (gathChecks s (s.me.slotDesc n) a (op.map fun d => s.me.rs .adr d) false) = .ok sc)
    (hread : gathUnits (s.me.slotDesc n) a sc s.me.adr.row = .ok (us, s0)) : let D := s.me.slotDesc n
    (storeTransfer (op.map fun d => s.me.rs .adr d) D.ord (field (s.me.run .adr a 1) 0 32) D.rowBytes (gathUnits D a)).Reads i s sc s0 us := by
  intro D
  refine (runs_of_slot (chk := fun t D o => gathChecks t D a o false)
    (rest := fun D o x => adrStoreRows x o D.ord (field (x.me.run .adr a 1) 0 32) D.rowBytes (gathUnits D a)) hexec (fun x hx => ?_) htrap hsc).reads
    (storeTransfer_keepsRow (gathUnits_rereads D a)) (gathUnits_rereads D a) hread
  rw [hx.run, adrStoreRows_eq_body]

end

end Sys2Proof.Machine
end

section
/-! SUPPORT. Strided rows (R309): each row is a unit of its own. -/

namespace Sys2Proof.Machine

/-- `rows` performs `n` rows, each by `step`, from the row that the word stands at; its fuel bounds them. -/
structure Strided (n : Nat) (step : State → Except Exit State) (rows : Nat → State → Except Exit State) : Prop where
  zero : ∀ s, rows 0 s = .ok s.adrDone
  succ : ∀ fuel s, rows (fuel + 1) s = if n ≤ s.me.adr.row then .ok s.adrDone else step s >>= rows fuel
  advances : ∀ {s t}, step s = .ok t → t.me.adr.row = s.me.adr.row + 1

section
variable {n : Nat} {step : State → Except Exit State} {rows : Nat → State → Except Exit State} (h : Strided n step rows)
include h

theorem Strided.done {s : State} (hn : n ≤ s.me.adr.row) (fuel : Nat) : rows fuel s = .ok s.adrDone := by
  cases fuel with
  | zero => exact h.zero s
  | succ fuel => rw [h.succ, if_pos hn]

/-- Fuel beyond the rows to come changes nothing. -/
theorem Strided.more_fuel (fuel : Nat) : ∀ s : State, n ≤ s.me.adr.row + fuel → rows (fuel + 1) s = rows fuel s := by
  induction fuel with
  | zero => exact fun s hn => by rw [h.done hn, h.done hn]
  | succ fuel ih =>
    intro s hn
    rw [h.succ, h.succ]
    refine ite_congr rfl (fun _ => rfl) fun _ => bind_congr_of_ok fun t ht => ih t ?_
    rw [h.advances ht]
    omega

theorem Strided.body_step {s t : State} (hr : s.me.adr.row < n) (hstep : step s = .ok t) : rows n s = rows n t := by
  obtain ⟨m, rfl⟩ : ∃ m, n = m + 1 := ⟨n - 1, by omega⟩
  rw [h.succ, if_neg (Nat.not_le.2 hr), hstep, h.more_fuel m t (by rw [h.advances hstep]; omega)]
  rfl

variable {i : Instr} {s s0 t : State} (hruns : Runs i s s0 (rows n))
include hruns

/-- A row that is performed leads to the next. -/
theorem Strided.goesOn (hr : s.me.adr.row + 1 < n) (hstep : step s0 = .ok t) (ht : s0.Carries t) (hchecked : t.me.adr.checked = s0.me.adr.checked) :
    exec i s = exec i t := by
  have hrow : s0.me.adr.row = s.me.adr.row := by rw [hruns.adr]
  exact hruns.goesOn (hruns.carries.trans ht) (by rw [hchecked, hruns.adr]) (h.body_step (by omega) hstep)

/-- The last row ends the word. -/
theorem Strided.ends {z : State} {th th' : Thread} (hr : s.me.adr.row + 1 = n) (hstep : step s0 = .ok t) (hz : z.becomes t th)
    (hth : th.finished = th'.finished) : Ends .adr i s fun t => z.becomes t th'.finished := by
  have hrow : s0.me.adr.row = s.me.adr.row := by rw [hruns.adr]
  refine hruns.ends ?_ (hth ▸ becomes_adrDone hz)
  rw [h.body_step (by omega) hstep, h.done (by rw [h.advances hstep]; omega)]

end

theorem adrHalt_bind {α β : Type} (s : State) (m : MemStop) (f : α → Except Exit β) : (adrHalt s m >>= f) = adrHalt s m := by
  unfold adrHalt
  split
  · rfl
  · dsimp only
    split <;> rfl

/-! ## The rows of each word -/

/-- A row, which is a unit, has been performed. -/
def Thread.rowPassed (th : Thread) : Thread := th.unitDone.rowDone

/-- A row has been loaded to q2. -/
def Thread.rowLoaded (row : Row) (th : Thread) : Thread := (th.pushR 2 row).rowPassed

theorem Thread.finished_rowPassed (th : Thread) : th.rowPassed.finished = th.finished :=
  th.unitDone.finished_rowDone.trans th.finished_unitDone

theorem Thread.finished_rowLoaded (row : Row) (th : Thread) : (th.rowLoaded row).finished = (th.pushR 2 row).finished :=
  (th.pushR 2 row).finished_rowPassed

theorem Thread.rowPassed_checked (th : Thread) : th.rowPassed.adr.checked = th.adr.checked := rfl

theorem Thread.rowLoaded_checked (row : Row) (th : Thread) : (th.rowLoaded row).adr.checked = th.adr.checked := rfl

/-- A row of vld. -/
def vldStep (a : BitVec 6) (s : State) : Except Exit State :=
  if s.me.qfull 2 then holdAt s (.pushFull 2)
  else do
    let u ← memRow a s s.me.adr.row false
    match s.accessPieces s.adrIssuer false 0 u.pieces with
    | .error m => adrHalt s m
    | .ok (ps, s1) => .ok ((s1.unitSeen s.adrIssuer ps).modMe (Thread.rowLoaded (BitVec.ofNat 4096 (s1.loadPieces s.adrIssuer ps).1.1)))

theorem vldRows_strided (a : BitVec 6) (n : Nat) : Strided n (vldStep a) (vldRows a n) := by
  refine ⟨fun s => rfl, fun fuel s => ite_congr rfl (fun _ => rfl) fun _ => ?_, fun {s t} h => ?_⟩
  · unfold vldStep
    split
    · rfl
    · rw [bind_assoc]
      refine bind_congr_of_ok fun u _ => ?_
      dsimp only
      cases s.accessPieces s.adrIssuer false 0 u.pieces with
      | error m => exact (adrHalt_bind ..).symm
      | ok x => rfl
  · unfold vldStep at h
    split at h
    · cases h
    · obtain ⟨u, -, h⟩ := bind_ok h
      split at h
      · exact (adrHalt_ne_ok _ _ _ h).elim
      next hacc =>
        obtain rfl := Except.ok.inj h
        rw [State.me_modMe]
        show (State.unitSeen _ _ _).me.adr.row + 1 = _
        rw [unitSeen_me_adr, (accessPieces_tlb hacc).me]

/-- A row of vst. -/
def vstStep (a : BitVec 6) (s : State) : Except Exit State := do
  let x ← adrPopTo (s.me.adr.row + 1) 2 s
  let u ← memRow a x s.me.adr.row true
  match x.accessPieces x.adrIssuer true 0 u.pieces with
  | .error m => adrHalt x m
  | .ok (ps, s1) =>
    .ok ((s1.adrStores x.adrIssuer ps ((s1.me.adr.rows.getD s.me.adr.row 0).toNat % 2 ^ u.bits)).modMe Thread.rowPassed)

theorem vstRows_strided (a : BitVec 6) (n : Nat) : Strided n (vstStep a) (vstRows a n) := by
  refine ⟨fun s => rfl, fun fuel s => ite_congr rfl (fun _ => rfl) fun _ => ?_, fun {s t} h => ?_⟩
  · unfold vstStep
    simp only [bind_assoc]
    refine bind_congr_of_ok fun x _ => bind_congr_of_ok fun u _ => ?_
    cases x.accessPieces x.adrIssuer true 0 u.pieces with
    | error m => exact (adrHalt_bind ..).symm
    | ok y => rfl
  · obtain ⟨x, hx, h⟩ := bind_ok h
    obtain ⟨u, -, h⟩ := bind_ok h
    split at h
    · exact (adrHalt_ne_ok _ _ _ h).elim
    next hacc =>
      obtain rfl := Except.ok.inj h
      rw [State.me_modMe, (adrStores_mem ..).me, (accessPieces_tlb hacc).me, ← adrPopTo_row hx]
      rfl

/-- A row of sld.row. -/
def sldStep (a : BitVec 6) (s : State) : Except Exit State :=
  if s.me.qfull 2 then holdAt s (.pushFull 2)
  else do
    let p ← adrPlace s (s.me.run .adr a 0) (rowStep s.me a s.me.adr.row) (field (s.me.run .adr a 3) 0 32)
    let x ← s.spadRead s.cur .adr p (field (s.me.run .adr a 3) 0 32)
    .ok ((s.readTaint s.cur .adr x.2 false).modMe (Thread.rowLoaded (rowOfBytes x.1)))

theorem sldRows_strided (a : BitVec 6) (n : Nat) : Strided n (sldStep a) (sldRows a n) := by
  refine ⟨fun s => rfl, fun fuel s => ite_congr rfl (fun _ => rfl) fun _ => ?_, fun {s t} h => ?_⟩
  · unfold sldStep
    split
    · rfl
    · simp only [bind_assoc]
      rfl
  · unfold sldStep at h
    split at h
    · cases h
    · obtain ⟨p, -, h⟩ := bind_ok h
      obtain ⟨x, -, h⟩ := bind_ok h
      obtain rfl := Except.ok.inj h
      rw [State.me_modMe]
      show (State.readTaint _ _ _ _ _).me.adr.row + 1 = _
      rw [readTaint_me_adr]

/-- A row of sst.row. -/
def sstStep (a : BitVec 6) (s : State) : Except Exit State := do
  let x ← adrPopTo (s.me.adr.row + 1) 2 s
  let p ← adrPlace x (x.me.run .adr a 0) (rowStep x.me a s.me.adr.row) (field (x.me.run .adr a 3) 0 32)
  .ok ((x.spadIssue x.cur .adr p ((rowBytes (x.me.adr.rows.getD s.me.adr.row 0)).take (field (x.me.run .adr a 3) 0 32)) 4).modMe Thread.rowPassed)

theorem sstRows_strided (a : BitVec 6) (n : Nat) : Strided n (sstStep a) (sstRows a n) := by
  refine ⟨fun s => rfl, fun fuel s => ite_congr rfl (fun _ => rfl) fun _ => ?_, fun {s t} h => ?_⟩
  · unfold sstStep
    simp only [bind_assoc]
    rfl
  · obtain ⟨x, hx, h⟩ := bind_ok h
    obtain ⟨p, -, h⟩ := bind_ok h
    obtain rfl := Except.ok.inj h
    rw [State.me_modMe, spadIssue_me, ← adrPopTo_row hx]
    rfl

section
variable {n : Nat} {step : State → Except Exit State} {rows : Nat → State → Except Exit State} {i : Instr} {s s0 z : State}

/-- A row loaded to q2 leads to the next, the last one ends the word. -/
theorem Strided.loads {row : Row} (h : Strided n step rows) (hruns : Runs i s s0 (rows n)) (hstep : step s0 = .ok (z.modMe (Thread.rowLoaded row)))
    (hz : s0.Carries z) (hadr : z.me.adr = s0.me.adr) : (s.me.adr.row + 1 < n → exec i s = exec i (z.modMe (Thread.rowLoaded row))) ∧
    (s.me.adr.row + 1 = n → Ends .adr i s fun t => z.becomes t (z.me.pushR 2 row).finished) := by
  have hchecked : (z.modMe (Thread.rowLoaded row)).me.adr.checked = s0.me.adr.checked := by
    rw [State.me_modMe, Thread.rowLoaded_checked, hadr]
  exact ⟨fun hr => h.goesOn hruns hr hstep (hz.trans (.modMe z fun _ => rfl)) hchecked,
    fun hr => h.ends hruns hr hstep (z.becomes_modMe (Thread.rowLoaded row)) (Thread.finished_rowLoaded row z.me)⟩

/-- A row that is stored leads to the next, the last one ends the word. -/
theorem Strided.stores (h : Strided n step rows) (hruns : Runs i s s0 (rows n)) (hstep : step s0 = .ok (z.modMe Thread.rowPassed)) (hz : s0.Carries z)
    (hchecked : z.me.adr.checked = s0.me.adr.checked) : (s.me.adr.row + 1 < n → exec i s = exec i (z.modMe Thread.rowPassed)) ∧
    (s.me.adr.row + 1 = n → Ends .adr i s fun t => z.becomes t z.me.finished) :=
  ⟨fun hr => h.goesOn hruns hr hstep (hz.trans (.modMe z fun _ => rfl)) (by rw [State.me_modMe, Thread.rowPassed_checked, hchecked]),
    fun hr => h.ends hruns hr hstep (z.becomes_modMe Thread.rowPassed) (Thread.finished_rowPassed z.me)⟩

end

/-! ## The words -/

/-- A word of strided rows runs by its rows. -/
theorem runs_of_rows {i : Instr} {s s0 : State} {a : BitVec 6} {chk : State → Except Exit Unit} {rows : Nat → Nat → State → Except Exit State}
    (hexec : ∀ t, exec i t = adrWord t (adrOnce t (chk t) >>= fun x => rows (field (x.me.run .adr a 2) 0 32) (field (x.me.run .adr a 2) 0 32) x))
    (htrap : s.me.adrTrap = none) (hs0 : adrOnce s (chk s) = .ok s0) :
    Runs i s s0 (rows (field (s.me.run .adr a 2) 0 32) (field (s.me.run .adr a 2) 0 32)) := by
  refine runs_of_exec hexec (fun t x _ hx => ?_) htrap hs0
  rw [hx.run]

theorem State.Carries.rowStep {s t : State} (h : s.Carries t) (a : BitVec 6) (r : Nat) : rowStep t.me a r = rowStep s.me a r :=
  h.me.keeps (Machine.rowStep · a r) fun _ _ _ _ => rfl

/-- A row that has been popped for the row that the word stands at is the row that it stores. -/
theorem getD_popped {rows : List Row} {r : Nat} (h : rows.length = r) (row : Row) : (rows ++ [row]).getD r 0 = row := by
  subst h
  simp

section
variable {a : BitVec 6} {s s1 : State} {u : AUnit} {ps : List Piece3} {row : Row} {rest : List Row}

theorem vldStep_ok (hroom : s.me.qlen 2 < 8) (hu : memRow a s s.me.adr.row false = .ok u)
    (hacc : s.accessPieces s.adrIssuer false 0 u.pieces = .ok (ps, s1)) : vldStep a s =
      .ok ((s1.unitSeen s.adrIssuer ps).modMe (Thread.rowLoaded (BitVec.ofNat 4096 (s1.loadPieces s.adrIssuer ps).1.1))) := by
  unfold vldStep
  rw [qfull_two_of_lt hroom, hu]
  simp only [bind, Except.bind, hacc, Bool.false_eq_true, if_false]

theorem sldStep_ok {p : Nat} {x : List Byte × Bool} (hroom : s.me.qlen 2 < 8)
    (hp : adrPlace s (s.me.run .adr a 0) (rowStep s.me a s.me.adr.row) (field (s.me.run .adr a 3) 0 32) = .ok p)
    (hx : s.spadRead s.cur .adr p (field (s.me.run .adr a 3) 0 32) = .ok x) : sldStep a s =
      .ok ((s.readTaint s.cur .adr x.2 false).modMe (Thread.rowLoaded (rowOfBytes x.1))) := by
  unfold sldStep
  rw [qfull_two_of_lt hroom, hp]
  simp only [bind, Except.bind, hx, Bool.false_eq_true, if_false]

/-- The row of a stored row is popped first. -/
theorem adrPopTo_one (hlen : s.me.adr.rows.length = s.me.adr.row) (hq : s.me.qr.get 3 = row :: rest) :
    adrPopTo (s.me.adr.row + 1) 2 s = .ok (s.modMe (Thread.rowPopped row)) := by
  rw [adrPopTo_of_lt (by omega) hq, adrPopTo_of_le]
  rw [State.me_modMe, Thread.rowPopped_length]
  omega

theorem vstStep_ok (hlen : s.me.adr.rows.length = s.me.adr.row) (hq : s.me.qr.get 3 = row :: rest) (hu : memRow a (s.modMe (Thread.rowPopped row)) s.me.adr.row true = .ok u)
    (hacc : (s.modMe (Thread.rowPopped row)).accessPieces (s.modMe (Thread.rowPopped row)).adrIssuer true 0 u.pieces = .ok (ps, s1)) : vstStep a s =
      .ok ((s1.adrStores (s.modMe (Thread.rowPopped row)).adrIssuer ps (row.toNat % 2 ^ u.bits)).modMe Thread.rowPassed) := by
  have hrow : s1.me.adr.rows.getD s.me.adr.row 0 = row := by
    rw [(accessPieces_tlb hacc).me, State.me_modMe]
    exact getD_popped hlen row
  unfold vstStep
  rw [adrPopTo_one hlen hq]
  simp only [bind, Except.bind, hu, hacc, hrow]

theorem sstStep_ok {p : Nat} (hlen : s.me.adr.rows.length = s.me.adr.row) (hq : s.me.qr.get 3 = row :: rest)
    (hp : adrPlace (s.modMe (Thread.rowPopped row)) (s.me.run .adr a 0) (rowStep s.me a s.me.adr.row) (field (s.me.run .adr a 3) 0 32) = .ok p) : sstStep a s =
      .ok (((s.modMe (Thread.rowPopped row)).spadIssue s.cur .adr p ((rowBytes row).take (field (s.me.run .adr a 3) 0 32)) 4).modMe Thread.rowPassed) := by
  have hrow : (s.modMe (Thread.rowPopped row)).me.adr.rows.getD s.me.adr.row 0 = row := by
    rw [State.me_modMe]
    exact getD_popped hlen row
  have hpopped : s.Carries (s.modMe (Thread.rowPopped row)) := .modMe s fun _ => rfl
  unfold sstStep
  rw [adrPopTo_one hlen hq]
  simp only [bind, Except.bind, hpopped.run, hpopped.rowStep, hp, hrow]
  rfl

end

end Sys2Proof.Machine
end

section
/-! SUPPORT. Loads of ADR (O12). -/

namespace Sys2Proof.Machine

section
variable {i : Instr} {s sc s0 s1 : State} {us more : List AUnit} {u : AUnit} {ps : List Piece3} {ord total R : Nat}
  {units : State → Nat → Except Exit (List AUnit × State)}

/-! ## The next unit -/

theorem unitKept_carries (h : s0.accessPieces s0.adrIssuer false ord u.pieces = .ok (ps, s1)) : s0.Carries (s1.unitKept s0.adrIssuer u ps) :=
  ((accessPieces_tlb h).carries.trans (unitSeen_carries ..)).trans (.modMe _ fun _ => rfl)

theorem unitKept_adr (h : s0.accessPieces s0.adrIssuer false ord u.pieces = .ok (ps, s1)) :
    (s1.unitKept s0.adrIssuer u ps).me.adr = { s0.me.adr with bytes := s1.unitBytes s0.adrIssuer u ps } := by
  rw [State.unitKept, State.me_modMe, Thread.withBytes, unitSeen_me_adr, (accessPieces_tlb h).me]

/-- A unit of a load to q2 leads to the next (R306). -/
theorem load_goesOn_queue (h : (loadTransfer none ord total R units).Reads i s sc s0 us) (hl : us.drop s.me.adr.sub = u :: more) (hr : s.me.adr.row < total)
    (hacc : s0.accessPieces s0.adrIssuer false ord u.pieces = .ok (ps, s1)) : exec i s = exec i ((s1.unitKept s0.adrIssuer u ps).modMe Thread.unitDone) :=
  h.goesOn_unit hl hr (adrLoadUnit_queue hacc) (unitKept_carries hacc) (by rw [unitKept_adr hacc])

/-- A unit of a load to scratchpad leads to the next (R306). -/
theorem load_goesOn_spad {op : Dword} {p : Nat} (h : (loadTransfer (some op) ord total R units).Reads i s sc s0 us) (hl : us.drop s.me.adr.sub = u :: more)
    (hr : s.me.adr.row < total) (hacc : s0.accessPieces s0.adrIssuer false ord u.pieces = .ok (ps, s1))
    (hp : adrPlace s0 op ((u.box / 8 : Nat) : Int) (spanBytes u.box u.bits) = .ok p) :
    exec i s = exec i ((s1.unitIssued s0.adrIssuer u ps p).modMe Thread.unitDone) := by
  have hadr : (s1.unitIssued s0.adrIssuer u ps p).me.adr = { s0.me.adr with bytes := s1.unitBytes s0.adrIssuer u ps } := unitKept_adr hacc
  exact h.goesOn_unit hl hr (adrLoadUnit_spad hacc hp) ((unitKept_carries hacc).trans (spadIssue_carries ..)) (by rw [hadr])

/-- The packed result with a unit's bits, from that with which the word was taken up. -/
theorem Transfer.Reads.unitBytes {T : Transfer} (h : T.Reads i s sc s0 us) (hacc : s0.accessPieces s0.adrIssuer false ord u.pieces = .ok (ps, s1)) :
    s1.unitBytes s0.adrIssuer u ps = putBits s.me.adr.bytes u.box u.bits (s1.loadPieces s0.adrIssuer ps).1.1 := by
  rw [State.unitBytes, (accessPieces_tlb hacc).me, h.bytes]

/-! ## The end of a row and of the word -/

/-- The state in which a row's bytes out of range are on their way to scratchpad as zero. -/
def State.rowZeroed (s : State) (R lo p : Nat) : State := if lo < R then s.spadIssue s.cur .adr p (List.replicate (R - lo) 0) 4 else s

theorem rowZeroed_carries (s : State) (R lo p : Nat) : s.Carries (s.rowZeroed R lo p) := by
  unfold State.rowZeroed
  split
  · exact spadIssue_carries ..
  · exact .refl s

@[simp] theorem rowZeroed_me (s : State) (R lo p : Nat) : (s.rowZeroed R lo p).me = s.me := by
  unfold State.rowZeroed
  split <;> rfl

theorem adrCloseLoad_spad {op : Dword} {r p : Nat}
    (hp : (coveredBits us + 7) / 8 < R → adrPlace s op ((r : Int) * R + ((coveredBits us + 7) / 8 : Nat)) (R - (coveredBits us + 7) / 8) = .ok p) :
    adrCloseLoad (some op) R s r us = .ok (s.rowZeroed R ((coveredBits us + 7) / 8) p) := by
  unfold adrCloseLoad State.rowZeroed
  dsimp only
  by_cases hlo : (coveredBits us + 7) / 8 < R
  · rw [if_pos hlo, if_pos hlo, hp hlo]
    rfl
  · rw [if_neg hlo, if_neg hlo]

/-- The rows that the end of a load's last row pushes to q2 when one is left: it, before or after the row's end (R306). -/
theorem load_pushes_last {r : Nat} {v : State} (hv : v.me.adr.row + 1 = total) (hr : r + 1 = total) (hdone : v.me.adr.pushed + 1 = (total * R + 511) / 512)
    (hroom : v.me.qlen 2 < 8) : let T := loadTransfer none ord total R units
    ∃ z, (T.close v r us >>= fun y => T.body (y.modMe Thread.rowDone)) = .ok z ∧ v.becomes z v.me.rowPushed.finished := by
  intro T
  have hbound : (r + 1) * R / 512 ≤ v.me.adr.pushed + 1 := by rw [hr, hdone]; omega
  have hbody (y : State) (hy : y.me.adr.row = v.me.adr.row) : T.body (y.modMe Thread.rowDone) =
      (adrPushTo ((total * R + 511) / 512) 2 (y.modMe Thread.rowDone) >>= fun s => .ok s.adrDone) := Transfer.body_last (by rw [hy]; exact hv)
  show ∃ z, (adrPushTo ((r + 1) * R / 512) (R / 512 + 2) v >>= _) = _ ∧ _
  by_cases hfull : (r + 1) * R / 512 ≤ v.me.adr.pushed
  · refine ⟨_, ?_, becomes_adrDone (th := v.me.rowDone.rowPushed) ((v.becomes_modMe Thread.rowDone).mod Thread.rowPushed)⟩
    have hlt : (v.modMe Thread.rowDone).me.adr.pushed < (total * R + 511) / 512 := by
      rw [State.me_modMe]
      show v.me.adr.pushed < _
      omega
    have hroom : (v.modMe Thread.rowDone).me.qlen 2 < 8 := by
      rw [State.me_modMe]
      exact hroom
    rw [adrPushTo_of_le hfull]
    show T.body (v.modMe Thread.rowDone) = _
    rw [hbody v rfl, adrPushTo_of_lt hlt hroom, adrPushTo_of_le]
    · rfl
    · rw [State.me_modMe, State.me_modMe]
      exact Nat.le_of_eq hdone.symm
  · refine ⟨_, ?_, becomes_adrDone (th := v.me.rowPushed.rowDone) ((v.becomes_modMe Thread.rowPushed).mod Thread.rowDone)⟩
    rw [adrPushTo_of_lt (Nat.not_le.1 hfull) hroom, adrPushTo_of_le (by rw [State.me_modMe]; exact hbound)]
    show T.body ((v.modMe Thread.rowPushed).modMe Thread.rowDone) = _
    rw [hbody _ (by rw [State.me_modMe]; rfl), adrPushTo_of_le]
    · rfl
    · rw [State.me_modMe, State.me_modMe]
      exact Nat.le_of_eq hdone.symm

theorem adrCloseLoad_covered {op : Dword} {r : Nat} (h : R ≤ (coveredBits us + 7) / 8) : adrCloseLoad (some op) R s r us = .ok s := if_neg (Nat.not_lt.2 h)

theorem adrUnits_single {f : State → AUnit → Except Exit State} {x : State} (h : f s u = .ok x) : adrUnits f [u] s = .ok x := by
  rw [adrUnits, h]
  rfl

theorem Thread.rowPushed_at {th : Thread} {k : Nat} (h : th.adr.pushed = k) : th.rowPushed =
    { th.pushR 2 (rowOfBytes (th.adr.bytes.getRange (512 * k) 512)) with adr := { th.adr with pushed := k + 1 } } := by rw [Thread.rowPushed, h]

/-- A load to scratchpad ends with the last unit of a last row that its units cover (R306). -/
theorem load_ends_spad {op : Dword} {p : Nat} (h : (loadTransfer (some op) ord total R units).Reads i s sc s0 us) (hl : us.drop s.me.adr.sub = [u])
    (hr : s.me.adr.row + 1 = total) (hacc : s0.accessPieces s0.adrIssuer false ord u.pieces = .ok (ps, s1))
    (hp : adrPlace s0 op ((u.box / 8 : Nat) : Int) (spanBytes u.box u.bits) = .ok p) (hlo : R ≤ (coveredBits us + 7) / 8) :
    let seen := s1.unitSeen s0.adrIssuer ps
    Ends .adr i s fun t => (seen.spadIssue seen.cur .adr p ((s1.unitBytes s0.adrIssuer u ps).getRange (u.box / 8) (spanBytes u.box u.bits)) 4).becomes t
      seen.me.finished := by
  intro seen
  have hissued : s1.unitIssued s0.adrIssuer u ps p = (seen.spadIssue seen.cur .adr p
      ((s1.unitBytes s0.adrIssuer u ps).getRange (u.box / 8) (spanBytes u.box u.bits)) 4).modMe (Thread.withBytes (s1.unitBytes s0.adrIssuer u ps)) :=
    spadIssue_modMe seen (f := Thread.withBytes _) (fun _ => rfl) ..
  refine h.ends_last (th := (seen.me.withBytes (s1.unitBytes s0.adrIssuer u ps)).unitDone) hr (by rw [hl]; exact adrUnits_single (adrLoadUnit_spad hacc hp))
    (adrCloseLoad_covered hlo) rfl ?_
    ((Thread.finished_unitDone _).trans (Thread.finished_withBytes _ _))
  rw [hissued]
  exact (State.becomes_modMe _ _).mod Thread.unitDone

/-- A load to q2 ends with the last row of its result. -/
theorem load_ends_push (h : (loadTransfer none ord total R units).Reads i s sc s0 us) (hl : us.drop s.me.adr.sub = []) (hr : s.me.adr.row + 1 = total)
    (hdone : s.me.adr.pushed + 1 = (total * R + 511) / 512) (hroom : s.me.qlen 2 < 8) :
    Ends .adr i s fun t => s0.becomes t (s0.me.pushR 2 (rowOfBytes (s.me.adr.bytes.getRange (512 * s.me.adr.pushed) 512))).finished := by
  obtain ⟨z, hz, hbecomes⟩ := load_pushes_last (v := s0) (ord := ord) (units := units) (us := us) (by rwa [h.row]) hr (by rwa [h.pushed])
    (by rwa [Thread.qlen_two_congr h.qr])
  rw [Thread.finished_rowPushed h.pushed h.bytes] at hbecomes
  exact h.ends (Nat.lt_of_succ_le (Nat.le_of_eq hr)) (by rw [hl]; rfl) hz hbecomes

/-- A load to q2 ends with its last unit, which completes the last row of its result. -/
theorem load_ends_queue (h : (loadTransfer none ord total R units).Reads i s sc s0 us) (hl : us.drop s.me.adr.sub = [u]) (hr : s.me.adr.row + 1 = total)
    (hacc : s0.accessPieces s0.adrIssuer false ord u.pieces = .ok (ps, s1)) (hdone : s.me.adr.pushed + 1 = (total * R + 511) / 512)
    (hroom : s.me.qlen 2 < 8) : let seen := s1.unitSeen s0.adrIssuer ps
    Ends .adr i s fun t => seen.becomes t
      (seen.me.pushR 2 (rowOfBytes ((s1.unitBytes s0.adrIssuer u ps).getRange (512 * s.me.adr.pushed) 512))).finished := by
  intro seen
  have hme : ((s1.unitKept s0.adrIssuer u ps).modMe Thread.unitDone).me = (seen.me.withBytes (s1.unitBytes s0.adrIssuer u ps)).unitDone := by
    rw [State.me_modMe, State.unitKept, State.me_modMe]
  have hadr : seen.me.adr = s0.me.adr := by rw [unitSeen_me_adr, (accessPieces_tlb hacc).me]
  have hpushed : (seen.me.withBytes (s1.unitBytes s0.adrIssuer u ps)).unitDone.adr.pushed = s.me.adr.pushed := by
    rw [← h.pushed, ← hadr]
    rfl
  have hqr : seen.me.qr = s.me.qr := by rw [unitSeen_me_qr, (accessPieces_tlb hacc).me, h.qr]
  obtain ⟨z, hz, hbecomes⟩ := load_pushes_last (v := (s1.unitKept s0.adrIssuer u ps).modMe Thread.unitDone) (total := total) (R := R) (ord := ord)
    (units := units) (us := us) (by rw [hme]; show seen.me.adr.row + 1 = _; rwa [hadr, h.row]) hr
    (by rw [hme, hpushed]; exact hdone)
    (by rw [hme]; exact lt_of_eq_of_lt (b := s.me.qlen 2) (Thread.qlen_two_congr (by exact hqr)) hroom)
  have hfinished : (seen.me.withBytes (s1.unitBytes s0.adrIssuer u ps)).unitDone.rowPushed.finished =
      (seen.me.pushR 2 (rowOfBytes ((s1.unitBytes s0.adrIssuer u ps).getRange (512 * s.me.adr.pushed) 512))).finished := by
    rw [Thread.finished_rowPushed (b := s1.unitBytes s0.adrIssuer u ps) hpushed rfl, Thread.finished_pushR, Thread.finished_pushR, Thread.finished_unitDone,
      Thread.finished_withBytes]
  rw [hme, hfinished] at hbecomes
  exact h.ends (Nat.lt_of_succ_le (Nat.le_of_eq hr)) (by rw [hl]; exact adrUnits_single (adrLoadUnit_queue hacc)) hz
    (State.becomes_trans ((State.becomes_modMe seen _).mod Thread.unitDone) hbecomes)

/-- A complete row of the result is pushed to q2 and the row's end goes on (R306). -/
theorem load_goesOn_push (h : (loadTransfer none ord total R units).Reads i s sc s0 us) (hl : us.drop s.me.adr.sub = []) (hr : s.me.adr.row < total)
    (hfrom : s.me.adr.row * R / 512 ≤ s.me.adr.pushed) (hto : s.me.adr.pushed < (s.me.adr.row + 1) * R / 512) (hroom : s.me.qlen 2 < 8) :
    exec i s = exec i (s0.modMe Thread.rowPushed) := by
  have hadr : (s0.modMe Thread.rowPushed).me.adr = { s0.me.adr with pushed := s0.me.adr.pushed + 1 } := by
    rw [State.me_modMe]
    rfl
  have hcarries : s0.Carries (s0.modMe Thread.rowPushed) := .modMe s0 fun _ => rfl
  have hself := h.at_self hr
  have hnext := h.at hr hcarries (by rw [hadr]) (by rw [hadr])
  rw [hl] at hself
  rw [hadr, h.sub, hl] at hnext
  refine h.goesOn hr hcarries (by rw [hadr]) (hself.body_close_congr h.keepsRow hnext (by rw [hadr]) ?_)
  show adrPushTo _ (R / 512 + 1 + 1) s0 = adrPushTo _ (R / 512 + 1 + 1) _
  have hpushed : (s0.modMe Thread.rowPushed).me.adr.pushed = s.me.adr.pushed + 1 := by rw [hadr, ← h.pushed]
  rw [h.row]
  refine (adrPushTo_of_lt (by rwa [h.pushed]) (by rwa [Thread.qlen_two_congr h.qr]) _).trans (adrPushTo_succ _ _ _ ?_).symm
  rw [hpushed, Nat.add_mul, Nat.one_mul]
  omega

end

/-- Settles O12: a transfer goes on from unit to unit and from row to row, to scratchpad and to q2, whatever gives its units; a strided row is a unit of its own. -/
theorem accessLoadsEndWithTheirLastUnit : Obligations.AccessLoadsEndWithTheirLastUnit := by
  unfold Obligations.AccessLoadsEndWithTheirLastUnit
  intro s sc s0 s1 d a n us more u ps p x th D w r k R op cnt rows len left done lo got seen bytes kept box gath reads goesOn completes row toSpad toQueue htrap
  have spad (i : Instr) (o total : Nat) (units : State → Nat → Except Exit (List AUnit × State))
      (h : (loadTransfer (some op) o total R units).Reads i s sc s0 us) : toSpad i o total := by
    refine ⟨?unit, ?last, ?close⟩
    case unit =>
      intro hl hr hacc hp
      have hunit := load_goesOn_spad h hl hr hacc hp
      rw [State.unitIssued, State.unitKept, h.unitBytes hacc] at hunit
      exact hunit
    case last =>
      intro hl hr hacc hp hlo
      have hends := load_ends_spad h hl hr hacc hp hlo
      rw [h.unitBytes hacc] at hends
      exact hends
    case close =>
      intro hl hp
      have hclose : adrCloseLoad (some op) R s0 r us = .ok (s0.rowZeroed R lo p) := adrCloseLoad_spad hp
      have hme : (s0.rowZeroed R lo p).me = s0.me := rowZeroed_me ..
      exact ⟨fun hr => h.goesOn_row hl (Nat.lt_of_succ_lt hr) hclose (rowZeroed_carries ..) (congrArg (fun th => th.adr.checked) hme),
        fun hr => h.ends_last hr (by rw [show us.drop s.me.adr.sub = [] from hl]; rfl) hclose rfl (State.becomes_refl _) rfl⟩
  have queue (i : Instr) (o total : Nat) (units : State → Nat → Except Exit (List AUnit × State))
      (h : (loadTransfer none o total R units).Reads i s sc s0 us) : toQueue i o total := by
    have hpushed : s0.me.adr.pushed = done := h.pushed
    refine ⟨?unit, ?last, ?push, ?row, ?lastPush, ?done⟩
    case unit =>
      intro hl hr hacc
      have hunit := load_goesOn_queue h hl hr hacc
      rw [State.unitKept, h.unitBytes hacc] at hunit
      exact hunit
    case last =>
      intro hl hr hacc hdone hroom
      have hends := load_ends_queue h hl hr hacc hdone hroom
      rw [h.unitBytes hacc] at hends
      exact hends
    case push =>
      intro hl hr hfrom hto hroom
      exact (load_goesOn_push h hl hr hfrom hto hroom).trans (congrArg (exec i) (State.modMe_congr (Thread.rowPushed_at hpushed)))
    case row =>
      intro hl hr hdone
      exact h.goesOn_row hl (Nat.lt_of_succ_lt hr) (adrPushTo_of_le (by rw [hpushed]; exact hdone) _) (.refl s0) rfl
    case lastPush =>
      intro hl hr hdone hroom
      exact load_ends_push h hl hr hdone hroom
    case done =>
      intro hl hr hdone
      have hfloor : (r + 1) * R / 512 ≤ s0.me.adr.pushed := by rw [hr, hpushed, hdone]; omega
      exact h.ends_last hr (by rw [show us.drop s.me.adr.sub = [] from hl]; rfl) (adrPushTo_of_le hfloor _)
        (adrPushTo_of_le (by rw [State.me_modMe, ← hdone]; exact Nat.le_of_eq hpushed.symm) _) (State.becomes_refl _) rfl
  refine ⟨?tld, ?tldQ, ?gld, ?gldQ, ?vld, ?sldRow⟩
  case tld =>
    rintro ⟨hsc, rfl, rfl⟩
    exact spad (.tld d n a) D.ord D.boxRows _ (tld_reads (op := some d) (exec_tld d n a) htrap hsc)
  case tldQ =>
    rintro ⟨hsc, rfl, rfl⟩
    exact queue (.tldQ n a) D.ord D.boxRows _ (tld_reads (op := none) (exec_tldQ n a) htrap hsc)
  case gld =>
    rintro ⟨hsc, hread⟩
    exact spad (.gld d n a) D.ord cnt _ (gld_reads (op := some d) (exec_gld d n a) htrap hsc hread)
  case gldQ =>
    rintro ⟨hsc, hread⟩
    exact queue (.gldQ n a) D.ord cnt _ (gld_reads (op := none) (exec_gldQ n a) htrap hsc hread)
  case vld =>
    intro hs0 hu hacc hroom pushed
    have hruns : Runs (.vld a) s s0 (vldRows a rows rows) := runs_of_rows (exec_vld a) htrap hs0
    have hrow : s0.me.adr.row = r := by rw [hruns.adr]
    have hstep := vldStep_ok (a := a) (by rwa [Thread.qlen_two_congr hruns.qr]) (hrow ▸ hu) hacc
    have hme : (s1.unitSeen s0.adrIssuer ps).me.adr = s0.me.adr := by rw [unitSeen_me_adr, (accessPieces_tlb hacc).me]
    exact (vldRows_strided a rows).loads hruns hstep ((accessPieces_tlb hacc).carries.trans (unitSeen_carries ..)) hme
  case sldRow =>
    intro hs0 hp hx hroom seen pushed
    have hruns : Runs (.sldRow a) s s0 (sldRows a rows rows) := runs_of_rows (exec_sldRow a) htrap hs0
    have hrow : s0.me.adr.row = r := by rw [hruns.adr]
    have hplace : adrPlace s0 (s0.me.run .adr a 0) (rowStep s0.me a s0.me.adr.row) (field (s0.me.run .adr a 3) 0 32) = .ok p := by
      rw [hruns.carries.run, hruns.carries.run, hruns.carries.rowStep, hrow]
      exact hp
    have hread : s0.spadRead s0.cur .adr p (field (s0.me.run .adr a 3) 0 32) = .ok x := by
      rw [hruns.carries.run]
      exact hx
    have hstep := sldStep_ok (a := a) (by rwa [Thread.qlen_two_congr hruns.qr]) hplace hread
    exact (sldRows_strided a rows).loads hruns hstep (readTaint_carries ..) (readTaint_me_adr ..)

end Sys2Proof.Machine
end

section
/-! SUPPORT. Stores of ADR (O13). -/

namespace Sys2Proof.Machine

section
variable {i : Instr} {s sc s0 s1 x : State} {us more : List AUnit} {u : AUnit} {ps : List Piece3} {ord total R v : Nat} {src : Option Dword} {row : Row}
  {rest : List Row} {units : State → Nat → Except Exit (List AUnit × State)}

/-! ## A unit -/

theorem stored_carries (hx : s0.Carries x) (h : x.accessPieces x.adrIssuer true ord u.pieces = .ok (ps, s1)) : s0.Carries (s1.adrStores x.adrIssuer ps v) :=
  (hx.trans (accessPieces_tlb h).carries).trans (adrStores_mem ..).carries

theorem stored_me (h : x.accessPieces x.adrIssuer true ord u.pieces = .ok (ps, s1)) : (s1.adrStores x.adrIssuer ps v).me = x.me := by
  rw [(adrStores_mem ..).me, (accessPieces_tlb h).me]

/-- A unit that is stored leads to the next (R306). -/
theorem store_goesOn (h : (storeTransfer src ord total R units).Reads i s sc s0 us) (hl : us.drop s.me.adr.sub = u :: more) (hr : s.me.adr.row < total)
    (hv : adrSource s0 src u = .ok (v, x)) (hx : s0.Carries x) (hadr : x.me.adr = s0.me.adr)
    (hacc : x.accessPieces x.adrIssuer true ord u.pieces = .ok (ps, s1)) : exec i s = exec i ((s1.adrStores x.adrIssuer ps v).modMe Thread.unitDone) :=
  h.goesOn_unit hl hr (adrStoreUnit_of_source hv hacc) (stored_carries hx hacc) (by rw [stored_me hacc, hadr])

/-- A store ends with its last unit, if nothing follows its last row (R306). -/
theorem store_ends (h : (storeTransfer src ord total R units).Reads i s sc s0 us) (hl : us.drop s.me.adr.sub = [u]) (hr : s.me.adr.row + 1 = total)
    (hv : adrSource s0 src u = .ok (v, x)) (hacc : x.accessPieces x.adrIssuer true ord u.pieces = .ok (ps, s1))
    (hlast : ∀ y, y.me.adr.rows = x.me.adr.rows → (storeTransfer src ord total R units).last y = .ok y) : let z := s1.adrStores x.adrIssuer ps v
    Ends .adr i s fun t => z.becomes t z.me.finished := by
  intro z
  refine h.ends_last hr (by rw [hl]; exact adrUnits_single (adrStoreUnit_of_source hv hacc)) rfl (hlast _ ?_) (z.becomes_modMe Thread.unitDone)
    (Thread.finished_unitDone z.me)
  rw [State.me_modMe, State.me_modMe, ← stored_me hacc]
  rfl

/-! ## The end of a row and of the word -/

/-- The end of a row of a store does nothing. -/
theorem store_goesOn_row (h : (storeTransfer src ord total R units).Reads i s sc s0 us) (hl : us.drop s.me.adr.sub = []) (hr : s.me.adr.row + 1 < total) :
    exec i s = exec i (s0.modMe Thread.rowDone) := h.goesOn_row hl (Nat.lt_of_succ_lt hr) rfl (.refl s0) rfl

/-- A store whose last row has no further unit ends, if nothing follows it. -/
theorem store_ends_row (h : (storeTransfer src ord total R units).Reads i s sc s0 us) (hl : us.drop s.me.adr.sub = []) (hr : s.me.adr.row + 1 = total)
    (hlast : ∀ y, y.me.adr.rows = s0.me.adr.rows → (storeTransfer src ord total R units).last y = .ok y) :
    Ends .adr i s fun t => s0.becomes t s0.me.finished :=
  h.ends_last hr (by rw [hl]; rfl) rfl (hlast _ (by rw [State.me_modMe]; rfl)) s0.becomes_refl rfl

/-- A store from q3 that has popped every row its result fills has nothing left to do. -/
theorem store_queue_last {y : State} (h : (total * R + 511) / 512 ≤ y.me.adr.rows.length) : (storeTransfer none ord total R units).last y = .ok y :=
  adrPopTo_of_le h _

/-! ## Rows popped from q3 -/

theorem popped_carries (s : State) (row : Row) : s.Carries (s.modMe (Thread.rowPopped row)) := .modMe s fun _ => rfl

theorem popped_adr (s : State) (row : Row) : (s.modMe (Thread.rowPopped row)).me.adr = { s.me.adr with rows := s.me.adr.rows ++ [row] } := by
  rw [State.me_modMe]
  rfl

theorem popped_checked (s : State) (row : Row) : (s.modMe (Thread.rowPopped row)).me.adr.checked = s.me.adr.checked := by rw [popped_adr]

/-- A unit that needs a further row takes it from q3 (R306). -/
theorem store_goesOn_pop (h : (storeTransfer none ord total R units).Reads i s sc s0 us) (hl : us.drop s.me.adr.sub = u :: more) (hr : s.me.adr.row < total)
    (hneeds : s.me.adr.rows.length < rowsNeeded u) (hq : s.me.qr.get 3 = row :: rest) : exec i s = exec i (s0.modMe (Thread.rowPopped row)) := by
  have hself := h.at_self hr
  have hnext := h.at hr (popped_carries s0 row) (by rw [popped_adr]) (by rw [popped_adr])
  rw [hl] at hself
  rw [popped_adr, h.sub, hl] at hnext
  refine h.goesOn hr (popped_carries s0 row) (by rw [popped_adr]) (hself.body_congr h.keepsRow hnext (by rw [popped_adr]) (adrStoreUnit_congr ?_))
  exact adrSource_queue_of_lt (by rwa [h.rows]) (by rwa [h.qr])

/-- A row popped and a row ended in either order leave one state, in every thread table: neither leaves the default record. -/
theorem popped_rowDone (s : State) (row : Row) :
    (s.modMe (Thread.rowPopped row)).modMe Thread.rowDone = (s.modMe Thread.rowDone).modMe (Thread.rowPopped row) := by
  have hpopped : s.me.rowPopped row ≠ default := fun e => by
    have hrows : s.me.adr.rows ++ [row] = [] := congrArg (fun th => th.adr.rows) e
    simp at hrows
  have hdone : s.me.rowDone ≠ default := fun e => Nat.succ_ne_zero s.me.adr.row (congrArg (fun th => th.adr.row) e)
  exact (State.modThr_modThr Thread.rowDone hpopped).trans (State.modThr_modThr (Thread.rowPopped row) hdone).symm

/-- After its last row a store pops what its result still fills (R306). -/
theorem store_goesOn_popLast (h : (storeTransfer none ord total R units).Reads i s sc s0 us) (hl : us.drop s.me.adr.sub = []) (hr : s.me.adr.row + 1 = total)
    (hall : s.me.adr.rows.length < (total * R + 511) / 512) (hq : s.me.qr.get 3 = row :: rest) : exec i s = exec i (s0.modMe (Thread.rowPopped row)) := by
  have hlt : s.me.adr.row < total := Nat.lt_of_succ_le (Nat.le_of_eq hr)
  have hself := h.at_self hlt
  have hnext := h.at hlt (popped_carries s0 row) (by rw [popped_adr]) (by rw [popped_adr])
  rw [hl] at hself
  rw [popped_adr, h.sub, hl] at hnext
  have hrow : s0.me.adr.row + 1 = total := by rw [h.row]; exact hr
  refine h.goesOn hlt (popped_carries s0 row) (by rw [popped_adr]) ?_
  rw [hself.body_close h.keepsRow rfl, hnext.body_close h.keepsRow rfl, Transfer.body_last hrow, Transfer.body_last (by rw [popped_adr]; exact hrow)]
  refine congrArg (· >>= _) ?_
  show adrPopTo _ _ _ = adrPopTo _ _ _
  rw [popped_rowDone, adrPopTo_of_lt (rest := rest) (by rw [State.me_modMe]; exact h.rows ▸ hall) (by rw [State.me_modMe]; exact h.qr ▸ hq)]
  exact (adrPopTo_succ _ _ _ (Nat.le_add_left ..)).symm

end

/-- Settles O13: a store goes on and ends like a load, with the bits of its unit taken from scratchpad or from the rows popped; where a pop and the end of the last row
change places, the thread's record is the same. -/
theorem accessStoresEndWithTheirLastUnit : Obligations.AccessStoresEndWithTheirLastUnit := by
  unfold Obligations.AccessStoresEndWithTheirLastUnit
  intro s sc s0 s1 d a n us more u ps p x row rest th D r k R op cnt rows len left have_ box gath pop goesOn completes stores ofSpad ofQueue htrap
  have spad (i : Instr) (total : Nat) (units : State → Nat → Except Exit (List AUnit × State))
      (h : (storeTransfer (some op) D.ord total R units).Reads i s sc s0 us) : ofSpad i total := by
    refine ⟨fun hp hx hacc => ⟨fun hl hr => ?_, fun hl hr => ?_⟩, fun hl hr => store_goesOn_row h hl hr, fun hl hr => store_ends_row h hl hr fun _ _ => rfl⟩
    · exact store_goesOn h hl hr (adrSource_spad hp hx) (readTaint_carries ..) (readTaint_me_adr ..) hacc
    · exact store_ends h hl hr (adrSource_spad hp hx) hacc fun _ _ => rfl
  have queue (i : Instr) (total : Nat) (units : State → Nat → Except Exit (List AUnit × State))
      (h : (storeTransfer none D.ord total R units).Reads i s sc s0 us) : ofQueue i total := by
    have hrows : s0.me.adr.rows = th.adr.rows := h.rows
    refine ⟨fun hl hr hneeds hq => store_goesOn_pop h hl hr hneeds hq, ?unit, ?last, fun hl hr => store_goesOn_row h hl hr,
      fun hl hr hall hq => store_goesOn_popLast h hl hr hall hq, ?done⟩
    case unit =>
      intro hl hr hneeds hacc
      have hv : adrSource s0 none u = .ok (rowBits th.adr.rows u, s0) := hrows ▸ adrSource_queue_of_le (by rw [hrows]; exact hneeds)
      exact store_goesOn h hl hr hv (.refl s0) rfl hacc
    case last =>
      intro hl hr hall hneeds hq hacc
      have hneeded : rowsNeeded u = th.adr.rows.length + 1 := hneeds.trans hall.symm
      have hpopped : (s0.modMe (Thread.rowPopped row)).me.adr.rows = th.adr.rows ++ [row] := by rw [popped_adr, hrows]
      have hlen : (th.adr.rows ++ [row]).length = th.adr.rows.length + 1 := List.length_append
      have hv : adrSource s0 none u = .ok (rowBits (th.adr.rows ++ [row]) u, s0.modMe (Thread.rowPopped row)) := by
        rw [adrSource_queue_of_lt (rest := rest) (by rw [hrows]; omega) (h.qr ▸ hq), adrSource_queue_of_le (by rw [hpopped]; omega), hpopped]
      have hlast (y : State) (hy : y.me.adr.rows = (s0.modMe (Thread.rowPopped row)).me.adr.rows) : (storeTransfer none D.ord total R units).last y = .ok y :=
        store_queue_last (by rw [hy, hpopped, hlen]; exact Nat.le_of_eq hall.symm)
      exact store_ends h hl hr hv hacc hlast
    case done =>
      intro hl hr hall
      exact store_ends_row h hl hr fun y hy => store_queue_last (by rw [hy, hrows]; exact hall)
  refine ⟨?tst, ?tstQ, ?gst, ?gstQ, ?vst, ?sstRow⟩
  case tst =>
    rintro ⟨hsc, rfl, rfl⟩
    exact spad (.tst d n a) D.boxRows _ (tst_reads (op := some d) (exec_tst d n a) htrap hsc)
  case tstQ =>
    rintro ⟨hsc, rfl, rfl⟩
    exact queue (.tstQ n a) D.boxRows _ (tst_reads (op := none) (exec_tstQ n a) htrap hsc)
  case gst =>
    rintro ⟨hsc, hread⟩
    exact spad (.gst d n a) cnt _ (gst_reads (op := some d) (exec_gst d n a) htrap hsc hread)
  case gstQ =>
    rintro ⟨hsc, hread⟩
    exact queue (.gstQ n a) cnt _ (gst_reads (op := none) (exec_gstQ n a) htrap hsc hread)
  case vst =>
    intro hs0 hlen hq hu hacc
    have hruns : Runs (.vst a) s s0 (vstRows a rows rows) := runs_of_rows (exec_vst a) htrap hs0
    have hrow : s0.me.adr.row = r := by rw [hruns.adr]
    have hrows : s0.me.adr.rows = th.adr.rows := by rw [hruns.adr]
    have hstep := vstStep_ok (a := a) (s := s0) (by rw [hrows, hrow]; exact hlen) (hruns.qr ▸ hq) (hrow ▸ hu) hacc
    exact (vstRows_strided a rows).stores hruns hstep (stored_carries (popped_carries s0 row) hacc)
      ((congrArg (fun th => th.adr.checked) (stored_me hacc)).trans (popped_checked s0 row))
  case sstRow =>
    intro hs0 hlen hq hp z
    have hruns : Runs (.sstRow a) s s0 (sstRows a rows rows) := runs_of_rows (exec_sstRow a) htrap hs0
    have hrow : s0.me.adr.row = r := by rw [hruns.adr]
    have hrows : s0.me.adr.rows = th.adr.rows := by rw [hruns.adr]
    have hplace : adrPlace (s0.modMe (Thread.rowPopped row)) (s0.me.run .adr a 0) (rowStep s0.me a s0.me.adr.row) (field (s0.me.run .adr a 3) 0 32) = .ok p := by
      rw [hruns.carries.run, hruns.carries.run, hruns.carries.rowStep, hrow]
      exact hp
    have hstep := sstStep_ok (a := a) (s := s0) (by rw [hrows, hrow]; exact hlen) (hruns.qr ▸ hq) hplace
    rw [hruns.carries.run] at hstep
    exact (sstRows_strided a rows).stores hruns hstep ((popped_carries s0 row).trans (spadIssue_carries ..)) (popped_checked s0 row)

end Sys2Proof.Machine
end
